-- ==== Sys2Proof/Word.lean ====
section
/-! DEFINITION. The word types of the T6400 (every register is 64 bits wide, R3), the sparse map the state is built
from, and the types of the register map's rows. -/

namespace Sys2Proof

/-- One 64-bit register or instruction word (R3). -/
abbrev Word := BitVec 64

/-- One metadata word m0 to m15 (R86). -/
abbrev Word32 := BitVec 32

/-- One byte of a frame, a descriptor or a memory. -/
abbrev Byte := BitVec 8

/-- A run of bytes, lowest address or offset first. -/
abbrev Bytes := List Byte

/-- A sparse map: pairs of key and value, keys strictly rising, no pair holding the value an unlisted key reads
as. -/
abbrev SMap (α : Type) := List (Nat × α)

/-- The access codes of R4. `row` marks a field that a write acts on through a row of its own of the table of
operations, never through REGISTER_WRITE. -/
inductive Acc
  | rw | ro | wo | w1c | w1s | rc | rwl | row
deriving DecidableEq, Repr

/-- How a written value becomes a stored one (R6, R7). -/
inductive Clamp
  /-- Every value is legal. -/
  | any
  /-- Values outside `lo` to `hi` become the nearer end. -/
  | range (lo hi : Nat)
  /-- Codes 0 to `hi` are defined; any other takes `dflt`. -/
  | enum (hi dflt : Nat)
  /-- A discrete set of legal values, rising: the nearest is stored, the lower of two equally near. -/
  | oneOf (vs : List Nat)
  /-- A two's complement number of `w` bits, held within `-b` to `b`. -/
  | srange (w b : Nat)
deriving DecidableEq, Repr

/-- One field of a register: bits `hi` to `lo`, access code, reset value and clamp rule. -/
structure RField where
  hi : Nat
  lo : Nat
  acc : Acc
  rst : Nat
  clamp : Clamp
deriving DecidableEq, Repr

/-- One register or register array: absolute BAR0 address of element 0, stride, number of elements, fields. -/
structure Reg where
  base : Nat
  stride : Nat
  count : Nat
  fields : List RField
deriving DecidableEq, Repr

end Sys2Proof
end

