-- ==== Sys2Proof/Syntax.lean ====
section
/-! DEFINITION. The commands of the T6400: one constructor of `Instr` per row of the table of operations and
events (`spec/opcode_table.json`), with the row's operands, and the types of those operands. -/

namespace Sys2Proof

/-- A course C0 to C7. -/
abbrev Course := Fin 8
/-- An engine of a course (R77). -/
abbrev Engine := Fin 80
/-- A line port; port p starts at lane p (ch. 8). -/
abbrev Port := Fin 128
/-- A line lane LN0 to LN127. -/
abbrev Lane := Fin 128
/-- An OTN port number, 0 to 31. -/
abbrev OtnPort := Fin 32
/-- A slice, 0 to 4,095. -/
abbrev Slice := Fin 4096
/-- A key slot, 0 to 65,535. -/
abbrev KeySlot := Fin 65536
/-- A billet pool, 0 to 15. -/
abbrev Pool := Fin 16
/-- A time-action entry, 0 to 4,095. -/
abbrev TaIdx := Fin 4096
/-- A control sequencer, CSQ0 to CSQ23. -/
abbrev Seq := Fin 24
/-- A fabric link, FL0 to FL191. -/
abbrev Link := Fin 192
/-- A queue, 0 to 524,287. -/
abbrev Queue := Fin 524288
/-- A device identifier, 0 to 2,047. -/
abbrev Device := Fin 2048
/-- An on-die exact-match table. -/
abbrev EmTable := Fin 64
/-- A DDR5 flow table. -/
abbrev FlowTable := Fin 4
/-- A table that can learn and age: 0 to 63 on-die exact match, 64 to 67 flow. -/
abbrev LearnTable := Fin 68
/-- A TCAM table. -/
abbrev TcamTable := Fin 16
/-- A TCAM bank. -/
abbrev TcamBank := Fin 64
/-- A row of a TCAM bank. -/
abbrev TcamRow := Fin 4096
/-- A look-aside cipher core. -/
abbrev CoreIdx := Fin 32
/-- A Gauge snapshot set. -/
abbrev GauSet := Fin 16
/-- A service-request slot of the control sequencers. -/
abbrev SvcSlot := Fin 8
/-- A bridge module. -/
abbrev Module := Fin 10
/-- A block of exact-match memory that can be retired. -/
abbrev EmBlock := Fin 96
/-- A power-good input. -/
abbrev PgInput := Fin 5
/-- A PCIe link, 0 or 1. -/
abbrev PciLink := Fin 2
/-- A MACsec association number. -/
abbrev An := Fin 4
/-- A request tag of a thread (R89). -/
abbrev Tag := Fin 8

/-- One thread of one course (5,120 in all). -/
structure ThreadRef where
  course : Course
  thread : Fin 640
deriving DecidableEq, Repr

/-- The ingress or the egress side of the packet path. -/
inductive Side | ing | egr
deriving DecidableEq, Repr

/-- Transmit or receive. -/
inductive Dir | tx | rx
deriving DecidableEq, Repr

/-- Which memory controller: MCD (DDR5) or MCH (HBM3E). -/
inductive MemCtl | mcd | mch
deriving DecidableEq, Repr

/-- A physical function of the PCIe interface. -/
inductive PciFn | pf0 | pf1
deriving DecidableEq, Repr

/-- Who uses the Hearth mailbox: PF0 or the board controller over MCTP. -/
inductive MbxUser | pf0 | mctp
deriving DecidableEq, Repr

/-- A host-visible register address: an offset of PF0 BAR0, or an offset of a slice's own page. -/
inductive HostAddr
  | bar0 (off : Nat)
  | page (sl : Slice) (off : Nat)
deriving DecidableEq, Repr

/-- A submission and completion ring: ring r of a slice, or one of PF0's. -/
inductive RingRef
  | slice (sl : Slice) (r : Fin 64)
  | pf0 (r : Fin 16)
deriving DecidableEq, Repr

/-- Format R of R110. -/
structure FmtR where
  rd : BitVec 5
  ra : BitVec 5
  rb : BitVec 5
deriving DecidableEq, Repr

/-- Format I of R110. -/
structure FmtI where
  rd : BitVec 5
  ra : BitVec 5
  aux : BitVec 14
  imm : BitVec 32
deriving DecidableEq, Repr

/-- Format F of R110 (EXT and INS). -/
structure FmtF where
  rd : BitVec 5
  ra : BitVec 5
  pos : BitVec 6
  wid : BitVec 7
deriving DecidableEq, Repr

/-- Format F of R110 as HASH uses it. -/
structure FmtH where
  rd : BitVec 5
  ra : BitVec 5
  kn : BitVec 3
  fn : BitVec 2
deriving DecidableEq, Repr

/-- Format W of R110. -/
structure FmtW where
  rd : BitVec 5
  ra : BitVec 5
  off : BitVec 9
  size : BitVec 4
  n : BitVec 10
  tag : BitVec 3
  set : BitVec 6
deriving DecidableEq, Repr

/-- Format M of R110. -/
structure FmtM where
  rd : BitVec 5
  ra : BitVec 5
  midx : BitVec 4
  pos : BitVec 5
  wid : BitVec 6
deriving DecidableEq, Repr

/-- Format B of R110. -/
structure FmtB where
  ra : BitVec 5
  rb : BitVec 5
  bit : BitVec 6
  target : BitVec 16
  imm16 : BitVec 16
deriving DecidableEq, Repr

/-- Format L of R110. -/
structure FmtL where
  rd : BitVec 5
  rk : BitVec 5
  kn : BitVec 3
  tag : BitVec 3
  profile : BitVec 8
  rw : BitVec 1
deriving DecidableEq, Repr

/-- Format C of R110. -/
structure FmtC where
  rd : BitVec 5
  ra : BitVec 5
  rb : BitVec 5
  rc : BitVec 5
  tag : BitVec 3
  fn : BitVec 3
  xr : BitVec 1
  aoff : BitVec 9
  eoff : BitVec 9
deriving DecidableEq, Repr

/-- Format A of R110. -/
structure FmtA where
  rd : BitVec 5
  ra : BitVec 5
  rb : BitVec 5
  rc : BitVec 5
  tag : BitVec 3
  fn : BitVec 3
  imm21 : BitVec 21
deriving DecidableEq, Repr

/-- Format X of R110. -/
structure FmtX where
  rd : BitVec 5
  ra : BitVec 5
  rb : BitVec 5
  code : BitVec 2
  path : BitVec 1
  imm8 : BitVec 8
deriving DecidableEq, Repr

/-- What the bank loader's DMA brought (R95): a failed fetch, or the bytes of the image. -/
inductive ImageFetch
  | fetchError
  | image (bytes : Bytes)
deriving DecidableEq, Repr

/-- Where a lookup or a command met a parity or ECC error (R217, R218): an entry of its table or a unit of the trie, a root
entry, a slot of the short-prefix array, or an entry of the result table. -/
inductive ErrPlace | own | root | short | result
deriving DecidableEq, Repr

/-- What the memories did while a lookup read them: nothing amiss; a parity or ECC error in a place at an index
(R217, R218); a corrected error in the flow entry at an index (R386); TCAM matches that their shadows denied, one after the
other, and a last one whose shadow has an uncorrectable error (R240, R241); a matching TCAM row whose shadow has an uncorrectable error (R241). -/
inductive LookupEvent
  | clean
  | parity (place : ErrPlace) (index : Nat)
  | corrected (index : Nat)
  | falseHit (hits : List (Fin 64 × Fin 4096)) (bad : Option (Fin 64 × Fin 4096))
  | shadowBad (bank : Fin 64) (row : Fin 4096)
deriving DecidableEq, Repr
/-- What a memory read met: no error, one corrected, one not correctable (R386). -/
inductive EccResult | clean | corrected | uncorrectable
deriving DecidableEq, Repr
/-- What a read that is tried once more met: no error, a corrected one, one that the second read did not meet, or one in
both reads (R302, R386). -/
inductive ReadOutcome | clean | corrected | second | failed
deriving DecidableEq, Repr
/-- A ring, and what the read of the billet's tag met that its descriptor names (R386, R430). -/
structure TaggedRing where
  ring : RingRef
  tag : ReadOutcome
deriving DecidableEq, Repr
/-- What a scrub read of a TCAM row found (R242): agreement with the shadow, a mismatch, or an uncorrectable
shadow error. -/
inductive ScrubResult | clean | mismatch | uncorrectable
deriving DecidableEq, Repr
/-- FEC codewords decoded on a port since the last frame's end: corrected, and uncorrectable (R250). -/
structure FecCount where
  corrected : Nat
  uncorr : Nat
deriving DecidableEq, Repr
/-- The trailing read of a bitmap flush of a slice: whether it completed without an error (R395, R415). -/
structure FlushRead where
  sl : Slice
  ok : Bool
deriving DecidableEq, Repr
/-- The end of a frame on the line: whether its FCS was good, the FEC codewords decoded, and how many uncorrectable ones
more the frame itself holds (R250, R251). -/
structure FrameEnd where
  fcsOk : Bool
  fec : FecCount
  own : Nat
deriving DecidableEq, Repr
/-- A sweep of a table: the indices of the entries in which it is the first to find a parity error (R215). -/
structure Sweep where
  table : LearnTable
  errs : List Nat
deriving DecidableEq, Repr
/-- What an OTUC frame period brought on the receive side of an OTN port (R264 to R270, R275): for each slice the
positions, 0 to 15,295 of the frame period, at which the six FAS bytes were found; and, of slice 0, the MFAS byte,
the APS/PCC bytes, the three JC bytes and the ODU status, with the frame's near-end and far-end errored
blocks. -/
structure OtnRxFrame where
  found : List (List Nat)
  mfas : BitVec 8
  aps : BitVec 32
  jc : BitVec 24
  ais : Bool
  oci : Bool
  lck : Bool
  bdi : Bool
  bip : Nat
  bei : Nat
deriving DecidableEq, Repr

/-- A requester or owner identifier (R337): KIND in [13:12], NUMBER in [11:0]. -/
abbrev Requester := BitVec 14

/-- The handle of a billet (R331). -/
structure Handle where
  pool : Fin 16
  index : BitVec 32
deriving DecidableEq, Repr
/-- A billet named by its handle, and what the read of its tag met (R386). -/
structure TagRead where
  handle : Handle
  tag : ReadOutcome
deriving DecidableEq, Repr
/-- A word written to BPM_CMD, and what the read of the billet's tag met (R345, R386). -/
structure TaggedWord where
  val : Word
  tag : ReadOutcome
deriving DecidableEq, Repr

/-- A data cell as it arrives (R349); its CRC has been judged. -/
structure Cell where
  ver : BitVec 4
  epoch : BitVec 2
  src : Fin 2048
  dst : Fin 2048
  queue : Fin 524288
  first : Bool
  last : Bool
  abort : Bool
  len : Nat
  sync : Bool
  seq : BitVec 16
  payload : Bytes
deriving DecidableEq, Repr

/-- A valid request entry (R350). -/
structure ReqEntry where
  voq : Fin 524288
  target : Fin 524288
  demand : BitVec 16
deriving DecidableEq, Repr

/-- A valid grant entry (R350). -/
structure GrantEntry where
  voq : Fin 524288
  cells : BitVec 8
deriving DecidableEq, Repr

/-- The valid entries of a request cell. -/
abbrev ReqEntries := List ReqEntry
/-- What the header of a request cell shows: VER, SRC and DST (R349, R350). -/
structure CellHead where
  ver : BitVec 4
  src : Device
  dst : Device
deriving DecidableEq, Repr
/-- A VOQ's turn to send a cell, and what the reads of its packet's HBM cells met (R302, R353). -/
structure VoqTurn where
  voq : Queue
  hbm : ReadOutcome
deriving DecidableEq, Repr

/-- The valid entries of a grant cell. -/
abbrev GrantEntries := List GrantEntry
/-- A grant cell: VER, DST and its entries (R350). -/
structure GrantCell where
  ver : BitVec 4
  dst : Device
  es : GrantEntries
deriving DecidableEq, Repr

/-- A request of a unit to a memory controller: its address and length, the bytes it writes (a read writes none), and what a
read meets. -/
structure MemReq where
  addr : Nat
  len : Nat
  write : Option Bytes
  ecc : EccResult
deriving DecidableEq, Repr

/-- A refresh unit: an HBM3E pseudo-channel, or DDR5 rank 4c + 2d + r of channel c, DIMM d, rank r (R375). -/
abbrev RefUnit := Fin 128

/-- A channel of a memory controller: DDR5 channel 0 to 7, or HBM3E pseudo-channel 0 to 127. -/
abbrev Chan := Fin 128

/-- Channels of a controller. -/
abbrev Chans := List Chan
/-- The end of a frequency change of a controller; `noEye`: the channels whose run at the new set point finds no eye
(R382). -/
structure ChangeEnd where
  ctl : MemCtl
  noEye : Chans
deriving DecidableEq, Repr
/-- The end of a channel's exit from self-refresh; `eye`: its run finds one (R381, R384). -/
structure ExitEnd where
  chan : Chan
  eye : Bool
deriving DecidableEq, Repr

/-- A memory unit that can be retired (R388). -/
inductive MemUnit
  | ddr5 (c : Fin 8)
  | hbmPc (p : Fin 128)
  | hbmCh (c : Fin 64)
deriving DecidableEq, Repr

/-- What the start-up training of a controller found (R391): the set points trained on every channel, and the
channels that failed at set point 0. -/
structure MemInit where
  trained : BitVec 4
  failed : List Chan
deriving DecidableEq, Repr

/-- A submission index with its WRAP bit (R422). -/
abbrev RingPos := Fin 131072

/-- A 64-byte descriptor slot (R429): word w is bits 64w + 63 to 64w. -/
abbrev DescWords := BitVec 512

/-- The slots a fetch read returns. -/
abbrev DescList := List DescWords

/-- Words of data. -/
abbrev Words := List Word
/-- How a sequencer's port access returns (R473). -/
inductive PortRes | ok | corrected | uncorrectable | refused
deriving DecidableEq, Repr
/-- A DIMM as its SPD describes it: none, one of the four types of R366 in the order of its table, or another. -/
inductive Dimm | absent | gib32 | gib64x2 | gib64x1 | gib128 | other
deriving DecidableEq, Repr

/-- A key slot the Hearth installs from its provisioning store at start-up (R465): the slot, a word in the layout of
CPH_KEY_ATTR, the key and the salt. -/
structure ProvSlot where
  slot : Fin 65536
  kind : Fin 4
  attr : BitVec 64
  key : Bytes
  salt : Bytes
deriving DecidableEq, Repr

/-- What start-up meets (R498): the time to STAGE 3 in ms, slots whose flash read fails, look-aside cores that fail
their self-test, other cipher units that fail theirs (by number), the two DIMM places of each DDR5 channel, and the
slots the provisioning store fills. -/
structure BootFacts where
  readyMs : Nat
  badA : Bool
  badB : Bool
  failedCores : List (Fin 32)
  failedUnits : List Nat
  dimms : List (Dimm × Dimm)
  provision : List ProvSlot
deriving DecidableEq, Repr

/-- A management restart's ends (R522): its start, after the ACTIVATE response, and its end, with whether the new
firmware could be read from the flash. -/
inductive RestartPhase
  | start
  | finish (readOk : Bool)
deriving DecidableEq, Repr

/-- A fault a block reports that no other row brings about (R524, R525): class, block (R483), unit kind (15 = none),
unit, the block's code, DETAIL, and, for an engine's parity error, the context of the engine it lies in. -/
structure FaultFacts where
  cls : Fin 8
  block : Fin 17
  kind : Fin 16
  unit : Fin 1024
  code : BitVec 8
  detail : BitVec 64
  context : Fin 8
deriving DecidableEq, Repr

abbrev UnitKind := Fin 10

/-- The entry of a scanned pattern set found with an uncorrectable error, if any (R163). -/
abbrev EccIndex := List (Fin 65536)

/-- Numbers of blocks or items. -/
abbrev NatList := List Nat
/-- The 64-byte blocks of a service request that read uncorrectable, and those that read corrected, by number (R386,
R481). -/
structure SvcReads where
  bad : NatList
  corr : NatList
deriving DecidableEq, Repr


/-- The commands. Each constructor is one row of the table; its docstring is the row's rule and summary. -/
inductive Instr
  /-- REGISTER_WRITE (R4): A host write to a register that has no row of its own stores the value under its
  access code and clamp rules. -/
  | registerWrite (a : HostAddr) (size : Nat) (v : Word)
  /-- COUNTER_READ_CLEAR (R4): A read of an rc counter register returns the value and clears it. -/
  | counterReadClear (a : HostAddr) (size : Nat)
  /-- COURSE_MODE_WRITE (R21): A write of a new MODE to SEN_COURSE_CFG stops new work of the old mode and
  starts draining. -/
  | courseModeWrite (c : Course) (v : Word)
  /-- COURSE_DRAIN_END (R21): The last thread of the old mode ends and the course enters its target mode. -/
  | courseDrainEnd (c : Course)
  /-- SYS_MODE_WRITE (R33): A write to GLB_SYS_MODE takes effect only while the fabric interface is disabled,
  and is otherwise refused as a configuration violation. -/
  | sysModeWrite (v : Word)
  /-- PHC_SEC_READ (R38): A read of TAU_PHC_SEC latches the whole PHC value for the following TAU_PHC_NS read.
  -/
  | phcSecRead
  /-- PHC_STEP_ABS (R39): A write of STEP_ABS requests that the PHC be loaded from TAU_PHC_SET_SEC and
  TAU_PHC_SET_NS. -/
  | phcStepAbs (v : Word)
  /-- PHC_STEP_REL (R39): A write of STEP_REL requests that TAU_PHC_STEP_REL be added to the PHC. -/
  | phcStepRel (v : Word)
  /-- PHC_STEP_APPLY (R39): On the first tick after the step write, the PHC takes the new time on both dies,
  and forward or backward step effects on armed entries and PM seconds follow. -/
  | phcStepApply
  /-- PHC_FREQ_WRITE (R41): A write to TAU_PHC_FREQ changes the frequency correction from the next tick and
  counts as discipline. -/
  | phcFreqWrite (v : Word)
  /-- HOLD_TIMEOUT_WRITE (R42): A write of HOLD_TIMEOUT is judged against the time already elapsed; 0 disables
  detection and clears HOLDOVER. -/
  | holdTimeoutWrite (v : Word)
  /-- HOLDOVER_ENTER (R42): The time without discipline reaches HOLD_TIMEOUT, and HOLDOVER and HOLD_ENTER are
  set. -/
  | holdoverEnter
  /-- REF_LOSS (R43): Loss of the selected frequency reference switches the TAU to the board reference and
  sets REF_LOSS. -/
  | refLoss
  /-- PPS_IN_EDGE (R44): A rising edge on the 1PPS input is timestamped into TAU_PPS_IN_TS. -/
  | ppsInEdge
  /-- PPS_IN_LOSS (R43): No 1PPS input edge arrives for 1.1 s, and PPS_IN_LOSS is set. -/
  | ppsInLoss
  /-- PPS_OUT_EDGE (R45): At each PHC second boundary plus OFFSET_NS, the 1PPS output rises when OUT_EN is 1.
  -/
  | ppsOutEdge
  /-- PPS_OUT_PULSE_END (R45): WIDTH_US after the rising edge, the 1PPS output falls. -/
  | ppsOutPulseEnd
  /-- TOD_MESSAGE_SEND (R46): 1 ms after the next 1PPS output instant, the ToD UART starts sending the message
  not yet sent. -/
  | todMessageSend
  /-- TOD_BYTE_RX (R47): A received ToD byte enters the receive FIFO with its timestamp, or is dropped when
  the FIFO is full. -/
  | todByteRx (b : Byte) (sec : Word) (ns : Word)
  /-- TOD_RX_READ (R47): A read of TAU_TOD_RX pops one byte from the ToD receive FIFO. -/
  | todRxRead
  /-- BRIDGE_TIME_FAULT (R50): The forwarded time lane loses lock, the Q-die holds its time, and quench
  commits are refused. -/
  | bridgeTimeFault
  /-- TA_ARM (R56): A write of ARM = 1 arms a time-action entry, which fires late at once if its instant has
  already passed. -/
  | taArm (n : TaIdx) (v : Word)
  /-- TA_DISARM (R54): A write of ARM = 0 disarms an armed entry and sets its STATE to idle. -/
  | taDisarm (n : TaIdx) (v : Word)
  /-- TA_FIRE (R53): An armed time-action entry falls due and fires its action, up to eight per tick in due
  order. -/
  | taFire
  /-- QUENCH_OPEN (R67): OPEN in TAU_QUENCH_CTL opens a pending epoch numbered current + 1. -/
  | quenchOpen
  /-- QUENCH_ABANDON (R67): ABANDON in TAU_QUENCH_CTL discards the pending epoch and all its versions. -/
  | quenchAbandon
  /-- QUENCH_COMMIT (R69): A commit by COMMIT or by time-action action 1 is checked and, if it passes, rotates
  the epochs on its tick. -/
  | quenchCommit
  /-- DRAIN_TIMER_EXPIRE (R70): The drain window of the previous epoch ends, and its tag becomes stale for
  dispatch. -/
  | drainTimerExpire
  /-- PREVIOUS_EPOCH_FREED (R71): The last thread started with the freeing epoch's tag ends, and the
  sequencers free its versions. -/
  | previousEpochFreed
  /-- ABANDONED_VERSION_RECLAIM (R67): The control sequencers reclaim the storage of abandoned or discarded
  versions. -/
  | abandonedVersionReclaim (n : Nat)
  /-- DISPATCH_ENQUEUE (R80): A packet reaches an ingress or egress dispatcher and enters its dispatch queue.
  -/
  | dispatchEnqueue (side : Side)
  /-- THREAD_START (R81): The dispatcher takes the oldest queued packet and starts it on a free thread at its
  entry address. -/
  | threadStart (side : Side)
  /-- PACKET_DEPART (R83): A departing packet leaves for the bridge or the LIU once every earlier packet of
  its port has left. -/
  | packetDepart (th : ThreadRef)
  /-- BANK_LOAD (R95): GO in SEN_LOAD_CTL starts fetching, verifying and loading a signed image into the named
  courses. -/
  | bankLoad (v : Word)
  /-- BANK_LOAD_DONE (R96): A bank load ends and SEN_LOAD_STAT reports its result and masks. -/
  | bankLoadDone (img : ImageFetch)
  /-- SWAP_NOW (R98): SWAP_NOW swaps the banks of a course at once when it is off or a quiet service course,
  and otherwise sets SWAP_SKIPPED. -/
  | swapNow (c : Course)
  /-- SVC_START (R101): START in SEN_SVC_CTL initialises a stopped or halted service thread and makes it ready
  at START_PC. -/
  | svcStart (th : ThreadRef) (v : Word)
  /-- SVC_STOP (R101): STOP in SEN_SVC_CTL stops a service thread, at once or at its next SLEEP or WAIT, and
  empties its inbox. -/
  | svcStop (th : ThreadRef) (v : Word)
  /-- SVC_WAKE_WRITE (R105): A host write to SEN_SVC_WAKE sends an inbox entry with SOURCE 1 to the named
  thread. -/
  | svcWakeWrite (v : Word)
  /-- INBOX_ENTRY_ARRIVE (R103): An event, wake or packet entry reaches a service thread's inbox and wakes a
  sleeping thread. -/
  | inboxEntryArrive (k : Nat)
  /-- ENGINE_RETIRE (R108): An engine is retired on one tick, ending its packet threads and making its service
  threads unavailable. -/
  | engineRetire (c : Course) (e : Engine) (sw : Bool)
  /-- UNDEFINED_OPCODE (R114): An instruction with an undefined opcode raises exception 2. -/
  | undefinedOpcode (th : ThreadRef) (op : (BitVec 8))
  /-- NOP (R150): NOP does nothing and counts as one instruction. -/
  | nop (th : ThreadRef) (f : FmtX)
  /-- TRAP (R150): TRAP raises exception 7. -/
  | trap (th : ThreadRef) (f : FmtX)
  /-- ADD (R120): ADD writes ra + rb to rd. -/
  | add (th : ThreadRef) (f : FmtR)
  /-- SUB (R120): SUB writes ra − rb to rd. -/
  | sub (th : ThreadRef) (f : FmtR)
  /-- AND (R120): AND writes ra and rb to rd. -/
  | and (th : ThreadRef) (f : FmtR)
  /-- OR (R120): OR writes ra or rb to rd. -/
  | or (th : ThreadRef) (f : FmtR)
  /-- XOR (R120): XOR writes ra xor rb to rd. -/
  | xor (th : ThreadRef) (f : FmtR)
  /-- SHL (R120): SHL shifts ra left by rb. -/
  | shl (th : ThreadRef) (f : FmtR)
  /-- SHR (R120): SHR shifts ra right by rb with zero fill. -/
  | shr (th : ThreadRef) (f : FmtR)
  /-- SAR (R120): SAR shifts ra right by rb with sign fill. -/
  | sar (th : ThreadRef) (f : FmtR)
  /-- MUL (R120): MUL writes the low 64 bits of ra × rb to rd. -/
  | mul (th : ThreadRef) (f : FmtR)
  /-- MINU (R120): MINU writes the unsigned minimum of ra and rb. -/
  | minu (th : ThreadRef) (f : FmtR)
  /-- MAXU (R120): MAXU writes the unsigned maximum of ra and rb. -/
  | maxu (th : ThreadRef) (f : FmtR)
  /-- POPC (R120): POPC writes the number of 1 bits in ra. -/
  | popc (th : ThreadRef) (f : FmtR)
  /-- CLZ (R120): CLZ writes the number of leading zero bits in ra. -/
  | clz (th : ThreadRef) (f : FmtR)
  /-- CSUMU (R129): CSUMU performs the RFC 1624 incremental checksum update. -/
  | csumu (th : ThreadRef) (f : FmtR)
  /-- ADDI (R120): ADDI adds the sign-extended immediate to ra. -/
  | addi (th : ThreadRef) (f : FmtI)
  /-- ANDI (R120): ANDI ands ra with the zero-extended immediate. -/
  | andi (th : ThreadRef) (f : FmtI)
  /-- ORI (R120): ORI ors ra with the zero-extended immediate. -/
  | ori (th : ThreadRef) (f : FmtI)
  /-- XORI (R120): XORI xors ra with the zero-extended immediate. -/
  | xori (th : ThreadRef) (f : FmtI)
  /-- SHLI (R120): SHLI shifts ra left by the immediate. -/
  | shli (th : ThreadRef) (f : FmtI)
  /-- SHRI (R120): SHRI shifts ra right by the immediate with zero fill. -/
  | shri (th : ThreadRef) (f : FmtI)
  /-- SARI (R120): SARI shifts ra right by the immediate with sign fill. -/
  | sari (th : ThreadRef) (f : FmtI)
  /-- MOVI (R120): MOVI writes the zero-extended immediate to rd. -/
  | movi (th : ThreadRef) (f : FmtI)
  /-- MOVHI (R120): MOVHI writes the immediate to the high 32 bits of rd. -/
  | movhi (th : ThreadRef) (f : FmtI)
  /-- EXT (R121): EXT extracts a field of WID bits at POS from ra. -/
  | ext (th : ThreadRef) (f : FmtF)
  /-- INS (R121): INS inserts the low WID bits of ra into rd at POS. -/
  | ins (th : ThreadRef) (f : FmtF)
  /-- HASH (R122): HASH computes CRC-32C over registers ra to ra + KN − 1. -/
  | hash (th : ThreadRef) (f : FmtH)
  /-- LDW (R123): LDW loads SIZE window bytes into rd. -/
  | ldw (th : ThreadRef) (f : FmtW)
  /-- STW (R123): STW stores the low SIZE bytes of a register into the window. -/
  | stw (th : ThreadRef) (f : FmtW)
  /-- PUSH (R125): PUSH inserts N zero bytes into the window and grows FRAME_LEN, or raises exception 5. -/
  | push (th : ThreadRef) (f : FmtW)
  /-- POP (R125): POP removes up to N stored bytes from the window and shrinks FRAME_LEN. -/
  | pop (th : ThreadRef) (f : FmtW)
  /-- APND (R127): APND appends SIZE bytes to the end of the frame, waiting for a complete frame first. -/
  | apnd (th : ThreadRef) (f : FmtW)
  /-- CSUM (R128): CSUM writes the folded ones'-complement sum of N window bytes. -/
  | csum (th : ThreadRef) (f : FmtW)
  /-- PMATCH (R137): PMATCH sends a pattern-set scan request to the payload pattern unit under a tag. -/
  | pmatch (th : ThreadRef) (f : FmtW)
  /-- MLD (R130): MLD loads a metadata word into rd, waiting on m0 for a complete frame. -/
  | mld (th : ThreadRef) (f : FmtM)
  /-- MST (R130): MST writes ra[31:0] to a metadata word, field by field. -/
  | mst (th : ThreadRef) (f : FmtM)
  /-- MINS (R130): MINS writes a bit field of ra into a metadata word. -/
  | mins (th : ThreadRef) (f : FmtM)
  /-- JMP (R131): JMP sets PC to TARGET. -/
  | jmp (th : ThreadRef) (f : FmtB)
  /-- CALL (R131): CALL pushes PC + 1 and jumps, or raises exception 4 on a full stack. -/
  | call (th : ThreadRef) (f : FmtB)
  /-- RET (R131): RET pops the return address, or raises exception 4 on an empty stack. -/
  | ret (th : ThreadRef) (f : FmtB)
  /-- JT (R131): JT jumps into a jump table indexed by ra. -/
  | jt (th : ThreadRef) (f : FmtI)
  /-- BEQ (R131): BEQ branches if ra equals rb. -/
  | beq (th : ThreadRef) (f : FmtB)
  /-- BNE (R131): BNE branches if ra differs from rb. -/
  | bne (th : ThreadRef) (f : FmtB)
  /-- BLTU (R131): BLTU branches if ra is unsigned below rb. -/
  | bltu (th : ThreadRef) (f : FmtB)
  /-- BGEU (R131): BGEU branches if ra is unsigned at or above rb. -/
  | bgeu (th : ThreadRef) (f : FmtB)
  /-- BLT (R131): BLT branches if ra is signed below rb. -/
  | blt (th : ThreadRef) (f : FmtB)
  /-- BGE (R131): BGE branches if ra is signed at or above rb. -/
  | bge (th : ThreadRef) (f : FmtB)
  /-- BEQI (R131): BEQI branches if ra equals IMM16. -/
  | beqi (th : ThreadRef) (f : FmtB)
  /-- BNEI (R131): BNEI branches if ra differs from IMM16. -/
  | bnei (th : ThreadRef) (f : FmtB)
  /-- BBS (R131): BBS branches if bit BIT of ra is 1. -/
  | bbs (th : ThreadRef) (f : FmtB)
  /-- BBC (R131): BBC branches if bit BIT of ra is 0. -/
  | bbc (th : ThreadRef) (f : FmtB)
  /-- BLTUI (R131): BLTUI branches if ra is unsigned below IMM16. -/
  | bltui (th : ThreadRef) (f : FmtB)
  /-- BGEUI (R131): BGEUI branches if ra is unsigned at or above IMM16. -/
  | bgeui (th : ThreadRef) (f : FmtB)
  /-- LKUP (R134): LKUP sends a key to the table of a profile under a tag. -/
  | lkup (th : ThreadRef) (f : FmtL)
  /-- LRN (R136): LRN posts a key and data word to the learn queue, or it is discarded when the queue is full.
  -/
  | lrn (th : ThreadRef) (f : FmtL)
  /-- CIPH (R138): CIPH sends a look-aside cipher request once the frame is complete. -/
  | ciph (th : ThreadRef) (f : FmtC)
  /-- SLD (R142): SLD requests a state-memory word under a tag. -/
  | sld (th : ThreadRef) (f : FmtI)
  /-- SST (R142): SST posts a write of a register to a state-memory word. -/
  | sst (th : ThreadRef) (f : FmtI)
  /-- ATOM (R143): ATOM performs an atomic read-modify-write on a state-memory word and returns the old value.
  -/
  | atom (th : ThreadRef) (f : FmtA)
  /-- WAIT (R133): WAIT issues and puts the thread in Waiting until its named tags have returned. -/
  | wait (th : ThreadRef) (f : FmtX)
  /-- CNT (R146): CNT adds one packet and a byte count to a counter pair. -/
  | cnt (th : ThreadRef) (f : FmtI)
  /-- TIME (R148): TIME reads the PHC or the monotonic count into rd. -/
  | time (th : ThreadRef) (f : FmtI)
  /-- DISP (R149): DISP writes the disposition and reason and puts the packet thread into Departing. -/
  | disp (th : ThreadRef) (f : FmtX)
  /-- SLEEP (R151): SLEEP takes the oldest inbox entry or puts the service thread to sleep, and ends its
  allowance. -/
  | sleep (th : ThreadRef) (f : FmtX)
  /-- WAKE (R152): WAKE posts an inbox entry with SOURCE 4 to another service thread. -/
  | wake (th : ThreadRef) (f : FmtX)
  /-- SEND (R153): SEND hands a copy of the window and metadata to the ingress or egress path. -/
  | send (th : ThreadRef) (f : FmtX)
  /-- LOOKUP_RESULT (R134): A lookup or search result returns and is written to the thread's registers,
  releasing a waiting thread. -/
  | lookupResult (th : ThreadRef) (tag : Tag) (late : Bool) (ev : LookupEvent)
  /-- PMATCH_SCAN_START (R166): A waiting PMATCH request starts its scan in a free lane. -/
  | pmatchScanStart
  /-- PMATCH_RESULT (R163): A pattern scan ends and its result is written to the thread. -/
  | pmatchResult (th : ThreadRef) (tag : Tag) (ecc : EccIndex)
  /-- STATE_READ_RESULT (R142): An SLD or ATOM result returns from the state memory to the thread. -/
  | stateReadResult (th : ThreadRef) (tag : Tag) (ecc : Bool)
  /-- STATE_DATA_READ (R145): A read of SEN_STATE_DATA returns the state-memory word at ADDR. -/
  | stateDataRead
  /-- STATE_DATA_WRITE (R145): A write of SEN_STATE_DATA stores the word at ADDR. -/
  | stateDataWrite (v : Word)
  /-- COUNTER_LATCH (R147): A write to SEN_CNT_SEL latches a counter pair, and clears it if CLR is 1. -/
  | counterLatch (v : Word)
  /-- PPU_WRITE (R161): A write command stores the staging registers into a pattern entry. -/
  | ppuWrite (v : Word)
  /-- PPU_READ (R161): A read command loads a pattern entry into the staging registers. -/
  | ppuRead (v : Word)
  /-- PPU_INVALIDATE (R161): An invalidate command clears VALID of a pattern entry. -/
  | ppuInvalidate (v : Word)
  /-- PPU_COMMAND_DONE (R161): A pattern-unit command completes and BUSY clears. -/
  | ppuCommandDone (ecc : Bool)
  /-- EM_TABLE_ENABLE (R177): A write of EN = 1 to LKP_EM_CFG enables an exact-match table or is refused. -/
  | emTableEnable (t : EmTable) (v : Word)
  /-- EM_TABLE_DISABLE (R177): A write of EN = 0 makes every lookup of the table a miss, discards its versions
  and starts clearing. -/
  | emTableDisable (t : EmTable) (v : Word)
  /-- FLOW_TABLE_ENABLE (R186): A write of EN = 1 to LKP_FLOW_CFG enables a flow table or is refused. -/
  | flowTableEnable (f : FlowTable) (v : Word)
  /-- FLOW_TABLE_DISABLE (R186): A write of EN = 0 to LKP_FLOW_CFG disables a flow table and starts clearing
  it. -/
  | flowTableDisable (f : FlowTable) (v : Word)
  /-- TABLE_CLEAR_DONE (R177): The sequencers finish clearing a disabled table, and a deferred enable takes
  effect. -/
  | tableClearDone (t : LearnTable)
  /-- LKP_READ (R197): A read command loads the entry version of VERSION into the staging registers. -/
  | lkpRead (v : Word)
  /-- LKP_WRITE (R197): A write command stores an entry, inserting it if absent. -/
  | lkpWrite (v : Word)
  /-- LKP_INSERT (R197): An insert command stores a new entry. -/
  | lkpInsert (v : Word)
  /-- LKP_DELETE (R197): A delete command removes an entry. -/
  | lkpDelete (v : Word)
  /-- LKP_MOVE (R197): A move command gives an entry's data to the key in NKEY and removes the old key. -/
  | lkpMove (v : Word)
  /-- LKP_WITHDRAW (R197): A withdraw command removes an entry's pending version. -/
  | lkpWithdraw (v : Word)
  /-- LKP_COMMAND_DONE (R199): A lookup-complex command is applied or refused and BUSY clears. -/
  | lkpCommandDone (ev : LookupEvent)
  /-- STASH_RETURN (R182): A freed candidate slot causes the sequencers to move a stash entry back into a way.
  -/
  | stashReturn (t : EmTable)
  /-- TRIE_ARRAY_FREE (R193): 2 µs after a trie change, the old arrays are freed. -/
  | trieArrayFree
  /-- LEARN_APPLY (R209): The sequencers take a learn from the queue and apply it to the current version of
  its key. -/
  | learnApply (perr : Option Nat)
  /-- DAMP_HOLD_END (R211): The damping hold ends, the tracker record is freed and TRK clears. -/
  | dampHoldEnd (t : LearnTable) (key : (BitVec 256))
  /-- AGEING_SWEEP (R215): Every INTERVAL_MS, a sweep ages the entries of a table and deletes those reaching
  AGE_MAX. -/
  | ageingSweep (t : Sweep)
  /-- LKP_NOTIFY_READ (R216): A read of LKP_NOTIFY[0] pops the oldest notification record. -/
  | lkpNotifyRead
  /-- TCAM_TABLE_ENABLE (R222): A write of EN = 1 to TCM_TABLE_CFG enables a TCAM table or is refused. -/
  | tcamTableEnable (t : TcamTable) (v : Word)
  /-- TCAM_TABLE_DISABLE (R222): A write of EN = 0 makes every search of the table a miss and starts clearing.
  -/
  | tcamTableDisable (t : TcamTable) (v : Word)
  /-- TCAM_TABLE_CLEAR_DONE (R222): The sequencers finish clearing a TCAM table, and its banks return to free.
  -/
  | tcamTableClearDone (t : TcamTable)
  /-- TCAM_READ (R232): A read command loads a row's shadow into the staging registers. -/
  | tcamRead (v : Word)
  /-- TCAM_WRITE (R232): A write command stores a row, immediately or as a pending version. -/
  | tcamWrite (v : Word)
  /-- TCAM_DELETE (R232): A delete command removes a row, immediately or as a pending version. -/
  | tcamDelete (v : Word)
  /-- TCAM_MOVE (R234): A move command copies a row into a hole and then invalidates the source. -/
  | tcamMove (v : Word)
  /-- TCAM_FIND_HOLE (R232): A find-hole command loads NINDEX with the nearest hole. -/
  | tcamFindHole (v : Word)
  /-- TCAM_SEARCH (R232): A search command searches the table and loads NINDEX with the match. -/
  | tcamSearch (v : Word)
  /-- TCAM_WITHDRAW (R232): A withdraw command clears a row's pending version. -/
  | tcamWithdraw (v : Word)
  /-- TCAM_RESPREAD (R236): A respread command moves rows so that each run of HOLE_SPACING ends in a hole. -/
  | tcamRespread (v : Word)
  /-- TCAM_COMMAND_DONE (R231): A TCAM command is applied or refused and BUSY clears. -/
  | tcamCommandDone (ev : LookupEvent)
  /-- TCAM_SCRUB_READ (R242): The scrub sweep reads a row, compares it with its shadow and rewrites a
  mismatch. -/
  | tcamScrubRead (b : TcamBank) (row : TcamRow) (r : ScrubResult)
  /-- TCAM_BANK_RETIRE (R244): A TCAM bank is retired, its rows copied to the spare or dropped from search. -/
  | tcamBankRetire (b : TcamBank) (sw : Bool)
  /-- TCAM_SPARE_EXCHANGE (R244): Once the spare copy is complete, the two physical banks exchange logical
  numbers on one tick. -/
  | tcamSpareExchange (t : TcamTable)
  /-- PORT_ENABLE (R249): A write of EN = 1 to LIU_PORT_CFG enables a port if its MODE is accepted. -/
  | portEnable (p : Port) (v : Word)
  /-- PORT_DISABLE (R249): A write of EN = 0 stops the port's transmitter after the frame in progress and its
  receiver at once. -/
  | portDisable (p : Port) (v : Word)
  /-- LINK_UP (R250): LINK rises on a port, an event line is raised and the port's TMG state becomes up. -/
  | linkUp (p : Port)
  /-- LINK_DOWN (R250): LINK falls on a port, an event line is raised and bind-off begins. -/
  | linkDown (p : Port) (aligned : Bool) (lf : Bool) (rf : Bool) (hiBer : Bool)
  /-- FRAME_START (R254): A frame's start-of-frame delimiter arrives and the frame is timestamped and stamped
  with its epoch tag. -/
  | frameStart (p : Port)
  /-- FRAME_HEADER_READY (R17): More than 512 bytes of a long frame have arrived, and the frame is classed and
  offered to the dispatcher. -/
  | frameHeaderReady (p : Port) (bytes : Bytes)
  /-- FRAME_COMPLETE (R251): A frame's last byte and FCS arrive and its receive and MACsec checks finish. -/
  | frameComplete (p : Port) (bytes : Bytes) (e : FrameEnd)
  /-- FRAME_TRANSMIT (R168): The LIU adds MACsec and FCS to a departing frame and transmits it, capturing a
  timestamp where enabled. -/
  | frameTransmit (p : Port)
  /-- TXTS_READ (R256): A read of LIU_TXTS_TIME pops a transmit timestamp record and latches its tag. -/
  | txtsRead (p : Port)
  /-- MACSEC_SA_ENABLE (R461): A write of EN = 1 to an SA captures its key and salt, or is refused as a
  violation. -/
  | macsecSaEnable (p : Port) (d : Dir) (a : An) (v : Word)
  /-- MACSEC_SA_DISABLE (R259): A write of EN = 0 uninstalls an SA, except the transmit SA in use. -/
  | macsecSaDisable (p : Port) (d : Dir) (a : An) (v : Word)
  /-- MSEC_SWITCH_WRITE (R260): A write to LIU_MSEC_SWITCH requests an association switch on the next tick. -/
  | msecSwitchWrite (v : Word)
  /-- MACSEC_ASSOCIATION_SWITCH (R260): A transmit or receive association switch takes effect, from a time-
  action entry or a switch write. -/
  | macsecAssociationSwitch
  /-- RX_OVERLAP_END (R260): RX_OVERLAP_US after a receive switch, the old receive SA's EN is cleared. -/
  | rxOverlapEnd (p : Port)
  /-- OTN_RX_FRAME (R264): An OTUC frame period passes on receive: the framer checks the FAS, and the demapper
  and APS monitor run. -/
  | otnRxFrame (o : OtnPort) (f : OtnRxFrame)
  /-- OTN_TX_FRAME (R267): An OTUC4 frame is built on transmit with GMP mapping and the transmit controls. -/
  | otnTxFrame (o : OtnPort) (words : Nat)
  /-- DLOF_DECLARE (R266): dOOF has lasted 3 ms and dLOF is set. -/
  | dlofDeclare (o : OtnPort)
  /-- DLOF_CLEAR (R266): All slices have stayed in-frame for 3 ms and dLOF clears. -/
  | dlofClear (o : OtnPort)
  /-- DLOM_DECLARE (R266): The MFAS failure condition has lasted 3 ms and dLOM is set. -/
  | dlomDeclare (o : OtnPort)
  /-- DLOM_CLEAR (R266): 3 ms of correct MFAS clear dLOM. -/
  | dlomClear (o : OtnPort)
  /-- PM_SECOND_END (R275): A PHC second ends and the PM second is graded for each direction. -/
  | pmSecondEnd (o : OtnPort)
  /-- OTN_PM_READ (R278): A read of LIU_OTN_PM pops the oldest performance record. -/
  | otnPmRead (o : OtnPort)
  /-- LANE_RETIRE (R279): A line lane is retired, cutting its transmitter, dropping its port's link and
  squelching SyncE. -/
  | laneRetire (l : Lane) (sw : Bool)
  /-- LANE_PLL_LOCK_LOSS (R525): A line lane loses PLL lock or fails calibration, and the fault is counted
  against the lane. -/
  | lanePllLockLoss (l : Lane)
  /-- TABLE_DATA_WRITE (R281): A write of TMG_TBL_DATA stores the selected table element and may advance
  INDEX. -/
  | tableDataWrite (v : Word)
  /-- TABLE_DATA_READ (R281): A read of TMG_TBL_DATA returns the selected element and may advance INDEX. -/
  | tableDataRead
  /-- PACKET_ADMIT (R294): A packet's head crosses the bridge and the TMG resolves its path, replicates,
  mirrors and admits or refuses it. -/
  | packetAdmit
  /-- PACKET_BODY_CELL (R295): A further cell is taken for a packet whose bytes are still arriving. -/
  | packetBodyCell (src : Nat)
  /-- PACKET_TAIL_STORED (R308): A packet's last byte is stored and found good or bad, making it eligible or
  discarding it. -/
  | packetTailStored (src : Nat)
  /-- PORT_SELECT (R303): A port that can take a packet selects down its hierarchy and dequeues a queue's head
  packet. -/
  | portSelect (p : Port) (hbm : ReadOutcome)
  /-- CUT_THROUGH_TAIL_LEAVE (R305): The last byte of a cut-through packet leaves the TMG and the rest of its
  length is charged. -/
  | cutThroughTailLeave (pid : Nat)
  /-- SHAPE_APPLY (R307): A write to TMG_SHAPE_APPLY requests a shaper batch apply on the next tick. -/
  | shapeApply (v : Word)
  /-- SHAPER_BATCH_APPLY (R307): Every staged entry of a batch writes its shaper on one tick. -/
  | shaperBatchApply
  /-- GCL_SWAP_NOW (R316): A write of SWAP_NOW requests a gate control list swap on the next tick. -/
  | gclSwapNow (p : Port) (v : Word)
  /-- GCL_SWAP (R316): The staged gate control list becomes operational and its cycle starts. -/
  | gclSwap (p : Port)
  /-- GCL_ENTRY_BOUNDARY (R317): The cycle position crosses an entry boundary and new gate states apply. -/
  | gclEntryBoundary (p : Port)
  /-- BINDOFF_FLUSH_DONE (R320): The bind-off flush of a port completes and the port goes down or up. -/
  | bindoffFlushDone (p : Port)
  /-- RANGE_FLUSH (R322): GO in TMG_BINDOFF_CMD disables a range of queues and starts flushing them. -/
  | rangeFlush (v : Word)
  /-- RANGE_FLUSH_DONE (R322): The range flush has freed every packet and BUSY clears. -/
  | rangeFlushDone
  /-- CAPTURE_ENABLE (R326): A write of EN = 1 to TMG_CAP_CFG enables the capture ring and zeroes HEAD and
  TAIL. -/
  | captureEnable (v : Word)
  /-- CAP_TAIL_WRITE (R328): A write of TMG_CAP_TAIL is stored within the ring's range or clamped to HEAD. -/
  | capTailWrite (v : Word)
  /-- CAPTURE_RECORD_WRITTEN (R327): A capture record is wholly in DDR5 and HEAD advances. -/
  | captureRecordWritten
  /-- POOL_ENABLE (R333): A write of EN = 1 to BPM_POOL_CFG enables a pool or is refused. -/
  | poolEnable (n : Pool) (v : Word)
  /-- POOL_DISABLE (R333): A write of EN = 0 disables a pool, ignored while any billet is allocated. -/
  | poolDisable (n : Pool) (v : Word)
  /-- ALLOCATION_REQUEST (R335): A hardware unit requests a billet and is served from the smallest suitable
  pool or refused. -/
  | allocationRequest (r : Requester) (owner : Requester) (size : Nat) (mask : (BitVec 16))
  /-- RELEASE_REQUEST (R341): A requester releases a billet, which is checked and returned at a count of zero.
  -/
  | releaseRequest (r : Requester) (h : Handle) (tag : ReadOutcome)
  /-- INCREMENT_REQUEST (R339): A requester adds to the reference count of a billet. -/
  | incrementRequest (r : Requester) (h : TagRead) (n : Nat)
  /-- TRANSFER_REQUEST (R340): The owner of a named-owner billet transfers it to a new owner. -/
  | transferRequest (r : Requester) (h : TagRead) (owner : Requester)
  /-- BPM_ALLOCATE (R345): A PF0 allocate command allocates a billet and loads its handle and address. -/
  | bpmAllocate (v : Word)
  /-- BPM_RELEASE (R345): A PF0 release command releases the billet named in BPM_CMD_HANDLE. -/
  | bpmRelease (v : TaggedWord)
  /-- BPM_INCREMENT (R345): A PF0 increment command adds N to a billet's count. -/
  | bpmIncrement (v : TaggedWord)
  /-- BPM_TRANSFER (R345): A PF0 transfer command sets a billet's owner to OWNER. -/
  | bpmTransfer (v : TaggedWord)
  /-- BPM_READ (R345): A PF0 read command loads a billet's tag into BPM_CMD_ARG. -/
  | bpmRead (v : TaggedWord)
  /-- BPM_COMMAND_DONE (R345): A BPM command ends and BUSY clears with its result. -/
  | bpmCommandDone
  /-- BPM_ERR_LOG_READ (R344): A read of BPM_ERR_LOG[0] pops the oldest refusal record. -/
  | bpmErrLogRead
  /-- FABRIC_ENABLE (R364): A write of EN = 1 to FAB_CTL starts link training and resets sequencing, except in
  standalone mode. -/
  | fabricEnable (v : Word)
  /-- FABRIC_DISABLE (R364): A write of EN = 0 takes every link down on the next tick. -/
  | fabricDisable (v : Word)
  /-- LINK_CONTROL_CELL_RX (R351): A link control cell arrives, training a link or acknowledging and replaying
  cells. -/
  | linkControlCellRx (k : Link) (crcOk : Bool) (nextSeq : (BitVec 12)) (ackSeq : (BitVec 12)) (nak : Bool)
  /-- LINK_CONTROL_TIMEOUT (R347): No good link control cell arrives for 15.7 µs and the link returns to
  training. -/
  | linkControlTimeout (k : Link)
  /-- FABRIC_FEC_LOCK_LOSS (R347): A fabric link loses FEC lock and returns to training, its cells re-sent on
  other links. -/
  | fabricFecLockLoss (k : Link)
  /-- CELL_SEND (R353): The FAB cuts a selected VOQ's head packet into cells and sprays them over the Up
  links. -/
  | cellSend (voq : VoqTurn)
  /-- DATA_CELL_RX (R354): A data cell arrives, is checked and resequenced, and released cells pass to the
  TMG. -/
  | dataCellRx (k : Link) (crcOk : Bool) (cell : Cell)
  /-- RESEQ_TIMEOUT (R355): An expected cell has not arrived within RESEQ_US, and the resequencer skips ahead
  and counts the lost packet. -/
  | reseqTimeout (src : Device)
  /-- SYNC_HOLD_END (R356): RESEQ_US after a SYNC cell left, further data cells may be sent to that
  destination. -/
  | syncHoldEnd (dst : Device)
  /-- REQUEST_SEND (R360): A VOQ's demand change or refresh interval sends a request entry in a request cell.
  -/
  | requestSend (voq : Queue)
  /-- REQUEST_CELL_RX (R361): A request cell arrives and sets demand records in the demand table. -/
  | requestCellRx (k : Link) (crcOk : Bool) (h : CellHead) (es : ReqEntries)
  /-- GRANT_ISSUE (R361): The destination grants credit to a demand record in round-robin order at the port's
  pace. -/
  | grantIssue (p : Port)
  /-- GRANT_CELL_RX (R362): A grant cell arrives and adds credit to its VOQ. -/
  | grantCellRx (k : Link) (crcOk : Bool) (g : GrantCell)
  /-- DEMAND_RECORD_EXPIRE (R361): A zero-demand record without a request for 10 refresh intervals is removed.
  -/
  | demandRecordExpire (src : Device) (voq : Queue)
  /-- FABRIC_LINK_RETIRE (R365): A fabric link is retired, its transmitter turned off and its cells re-sent
  elsewhere. -/
  | fabricLinkRetire (k : Link) (sw : Bool)
  /-- MEMORY_REQUEST (R374): A request reaches a memory controller bank, updating the page predictor and
  waking a self-refreshing channel. -/
  | memoryRequest (m : MemCtl) (r : MemReq)
  /-- ROW_IDLE_CLOSE (R374): An open row without access for IDLE_CLOSE_NS is closed. -/
  | rowIdleClose (m : MemCtl) (bank : Nat)
  /-- REFRESH_INTERVAL_BOUNDARY (R375): A refresh interval boundary adds one to the unit's refresh debt. -/
  | refreshIntervalBoundary (m : MemCtl) (u : RefUnit)
  /-- REFRESH_ISSUE (R375): The controller issues a refresh, postponed, pulled in or forced by the debt. -/
  | refreshIssue (m : MemCtl) (u : RefUnit) (queued : Bool)
  /-- REFRESH_POLL (R376): Every POLL_US the controller reads each unit's refresh requirement. -/
  | refreshPoll (m : MemCtl) (u : RefUnit) (reading : Nat)
  /-- RETRAIN_TURN (R380): A channel's periodic retrain turn comes and its run begins. -/
  | retrainTurn (m : MemCtl) (ch : Chan)
  /-- TRAIN_GO (R380): GO in MCD_TRAIN_CTL starts a periodic run on CH, or is refused. -/
  | trainGo (m : MemCtl) (v : Word)
  /-- TRAIN_ABORT (R381): ABORT in MCD_TRAIN_CTL aborts the run in progress. -/
  | trainAbort (m : MemCtl) (v : Word)
  /-- TRAIN_RUN_END (R381): A training run ends, applying new values or keeping old ones. -/
  | trainRunEnd (m : MemCtl) (ch : Chan) (eye : Bool)
  /-- FREQ_REQUEST (R381): A write of REQ requests a set-point change, held or started, or refused if
  untrained. -/
  | freqRequest (m : MemCtl) (v : Word)
  /-- FREQ_CHANGE_END (R382): A frequency change completes and held requests are released. -/
  | freqChangeEnd (m : ChangeEnd)
  /-- SELF_REFRESH_ENTER (R384): A channel idle for AUTO_SR_US enters self-refresh. -/
  | selfRefreshEnter (m : MemCtl) (ch : Chan)
  /-- SELF_REFRESH_EXIT_DONE (R384): A channel completes its self-refresh exit and serves held requests. -/
  | selfRefreshExitDone (m : MemCtl) (ch : ExitEnd)
  /-- SCRUB_READ (R387): The scrubber reads an address and corrects or reports errors. -/
  | scrubRead (m : MemCtl) (addr : Nat) (ecc : EccResult)
  /-- MEMORY_UNIT_RETIRE (R388): A DDR5 channel, HBM pseudo-channel or HBM channel is retired and its
  addresses become lost memory. -/
  | memoryUnitRetire (u : MemUnit) (sw : Bool)
  /-- WINDOW_READ (R390): A window read command reads 64 bytes of memory into MCD_WIN_DATA. -/
  | windowRead (m : MemCtl) (v : Word)
  /-- WINDOW_WRITE (R390): A window write command writes 64 bytes from MCD_WIN_DATA to memory. -/
  | windowWrite (m : MemCtl) (v : Word)
  /-- WINDOW_ACCESS_DONE (R390): A window access ends and BUSY clears with its result. -/
  | windowAccessDone (m : MemCtl) (ecc : EccResult)
  /-- MEMORY_READY (R391): Start-up training and fill of a controller end and READY is set. -/
  | memoryReady (m : MemCtl) (init : MemInit)
  /-- SLICE_READ (R399): A read command loads the staging registers with a slice's values. -/
  | sliceRead (v : Word)
  /-- SLICE_CAST_ON (R401): A cast-on command binds a free slice to a PASID and resources. -/
  | sliceCastOn (v : Word)
  /-- SLICE_RESIZE (R404): A resize command applies new resources to an active slice. -/
  | sliceResize (v : Word)
  /-- SLICE_RESET (R406): A reset command advances the generation and disables the slice's rings, or is held.
  -/
  | sliceReset (v : Word)
  /-- SLICE_REMOVE (R408): A remove command starts the removal of a slice. -/
  | sliceRemove (v : Word)
  /-- LOG_START (R415): A log start command turns on the written-page log. -/
  | logStart (v : Word)
  /-- LOG_SWAP (R415): A log swap command switches bitmaps and flushes the old one. -/
  | logSwap (v : Word)
  /-- LOG_STOP (R415): A log stop command flushes the current bitmap and turns logging off. -/
  | logStop (v : Word)
  /-- SLICE_CTL_RESET (R410): A write of bit 0 to SLICE_CTL requests a reset of the slice. -/
  | sliceCtlReset (sl : Slice) (v : Word)
  /-- HELD_RESET_APPLY (R407): OLD_WORK falls and the held reset of a slice is applied. -/
  | heldResetApply (sl : Slice)
  /-- SLICE_FREE (R408): The old work of a removed slice ends and the slice becomes free, returning its
  billets. -/
  | sliceFree (sl : Slice)
  /-- LOG_FLUSH_DONE (R415): A bitmap flush ends with its trailing read and BUSY clears. -/
  | logFlushDone (f : FlushRead)
  /-- BITMAP_WORD_MERGE (R414): A bitmap word leaving the mark cache is merged into the current bitmap by DMA,
  whose read brings the word as it stands, or ends in an error. -/
  | bitmapWordMerge (sl : Slice) (w : Nat) (old : Option Word)
  /-- PF1_FLR (R397): A function-level reset of PF1 resets every active slice. -/
  | pf1Flr
  /-- PF0_FLR (R397): A function-level reset of PF0 disables its rings and releases its claims. -/
  | pf0Flr
  /-- BUS_MASTER_DISABLE (R397): Bus Master Enable falls to 0 and the function's DMA requests are held. -/
  | busMasterDisable (f : PciFn)
  /-- DMA_FAULT (R395): A DMA request ends in an error, failing its work and counting a DMA fault. -/
  | dmaFault (r : RingRef) (pos : RingPos) (addr : Word)
  /-- MBX_CLAIM (R417): CLAIM in HIF_MBX_CTL takes the mailbox if it is free. -/
  | mbxClaim (who : MbxUser)
  /-- MBX_RELEASE (R416): RELEASE in HIF_MBX_CTL gives the mailbox up. -/
  | mbxRelease (who : MbxUser)
  /-- MBX_GO (R418): GO in HIF_MBX_CTL sends the owner's request to the Hearth. -/
  | mbxGo (who : MbxUser) (v : Word) (msg : Bytes)
  /-- MBX_OWNER_TIMEOUT (R417): An owner that issues no GO for 10 s loses the mailbox. -/
  | mbxOwnerTimeout
  /-- MBX_RESPONSE (R418): The Hearth's response replaces the request and RESULT becomes 1. -/
  | mbxResponse
  /-- MBX_TIMEOUT (R418): No response arrives within 1 s of GO and RESULT becomes 5. -/
  | mbxTimeout
  /-- RING_ENABLE (R435): A write of EN = 1 to RING_CFG enables a ring pair from RING_START and RING_CQ_HEAD.
  -/
  | ringEnable (r : RingRef) (v : Word)
  /-- RING_DISABLE (R436): A write of EN = 0 discards unstarted descriptors, stops polling and returns unused
  receive buffers. -/
  | ringDisable (r : RingRef) (v : Word)
  /-- RING_DISABLED (R436): INFLIGHT and WAITING reach 0 after the final publish record and STATE becomes 0.
  -/
  | ringDisabled (r : RingRef)
  /-- CQ_HEAD_WRITE (R423): A write of RING_CQ_HEAD frees completion slots, clamped to CQ_TAIL. -/
  | cqHeadWrite (r : RingRef) (v : Word)
  /-- RING_POLL (R427): An idle ring's next submission slot is read again after POLL_NS. -/
  | ringPoll (r : RingRef) (slot : DescWords)
  /-- DESCRIPTOR_FETCH (R427): A fetch read returns written descriptors, which are kept in fetch order. -/
  | descriptorFetch (r : RingRef) (slots : DescList)
  /-- DESC_NOP (R430): A NOP descriptor starts and completes at once with STATUS 0. -/
  | descNop (r : RingRef)
  /-- DESC_TX (R430): A TX descriptor starts and hands a frame to the ingress program or directly to the TMG.
  -/
  | descTx (r : RingRef) (data : Bytes)
  /-- DESC_CIPHER (R457): A CIPHER descriptor starts a look-aside cipher operation on host buffers. -/
  | descCipher (r : RingRef) (data : Bytes)
  /-- DESC_COUNTER (R430): A COUNTER descriptor latches and writes counter pairs to host memory. -/
  | descCounter (r : RingRef)
  /-- DESC_SVC_START (R430): An SVC descriptor with ACTION 0 starts an owned service thread. -/
  | descSvcStart (r : RingRef)
  /-- DESC_SVC_STOP (R430): An SVC descriptor with ACTION 1 stops an owned service thread. -/
  | descSvcStop (r : RingRef)
  /-- DESC_SVC_WAKE (R430): An SVC descriptor with ACTION 2 wakes an owned service thread. -/
  | descSvcWake (r : RingRef)
  /-- DESC_ALLOC (R430): An ALLOC descriptor asks the BPM for a billet. -/
  | descAlloc (r : RingRef)
  /-- DESC_RELEASE (R430): A RELEASE descriptor releases a billet. -/
  | descRelease (r : TaggedRing)
  /-- DESC_TRANSFER (R430): A RELEASE descriptor with W5[0] = 1 transfers a billet to a new owner. -/
  | descTransfer (r : TaggedRing)
  /-- DESC_RX_POST (R440): An RX_POST descriptor starts and holds a receive buffer for a host packet. -/
  | descRxPost (r : RingRef)
  /-- COMPLETION_WRITE (R433): Work of a descriptor ends and its completion is written to the completion ring
  or waits in the group buffer. -/
  | completionWrite (r : RingRef)
  /-- WORK_TIMEOUT (R438): Started work reaches its deadline and a timeout completion is written, leaving an
  orphan. -/
  | workTimeout (r : RingRef) (pos : RingPos)
  /-- ORPHAN_END (R438): Orphaned work ends and its result is discarded and counted in LATE. -/
  | orphanEnd (r : RingRef) (pos : RingPos)
  /-- PUBLISH_RECORD_WRITE (R426): The HIF writes a ring's publish record after an index change. -/
  | publishRecordWrite (r : RingRef)
  /-- IRQ_HOLDOFF_END (R434): A ring's interrupt hold-off ends and a due interrupt is raised. -/
  | irqHoldoffEnd (r : RingRef)
  /-- KEY_LOCK_CLAIM (R448): CLAIM in CPH_KEY_LOCK gives PF0 the key lock if it is free. -/
  | keyLockClaim (v : Word)
  /-- KEY_LOCK_RELEASE (R448): RELEASE in CPH_KEY_LOCK gives the key lock up. -/
  | keyLockRelease (v : Word)
  /-- KEY_READ (R451): A read command loads CPH_KEY_ATTR from a slot. -/
  | keyRead (v : Word)
  /-- KEY_INSTALL (R451): An install command writes a key, salt and attributes into a slot. -/
  | keyInstall (v : Word)
  /-- KEY_ERASE (R453): An erase command empties a slot and starts zeroising its copies. -/
  | keyErase (v : Word)
  /-- KEY_DERIVE (R451): A derive command writes a key derived from a root slot into a direct slot. -/
  | keyDerive (v : Word)
  /-- KEY_WRAP (R451): A wrap command exports a slot's block wrapped under a key-encryption key. -/
  | keyWrap (v : Word)
  /-- KEY_UNWRAP (R451): An unwrap command installs a wrapped block into a slot after its integrity check. -/
  | keyUnwrap (v : Word)
  /-- KEY_COMMAND_DONE (R451): A key command ends and BUSY clears with its result. -/
  | keyCommandDone
  /-- ERASE_COMPLETE (R453): Every copy of an erased slot has been zeroised, BUSY clears and a notice is
  raised. -/
  | eraseComplete
  /-- CIPHER_REQUEST_ACCEPT (R456): A look-aside request is accepted or refused on arrival and checked against
  its IV guard. -/
  | cipherRequestAccept
  /-- CIPHER_CORE_DISPATCH (R458): The scheduler dispatches an accepted request to a free live core. -/
  | cipherCoreDispatch (k : CoreIdx)
  /-- CIPHER_REQUEST_END (R459): A look-aside request ends on its core and its result returns to the thread or
  descriptor. -/
  | cipherRequestEnd (k : CoreIdx)
  /-- CIPHER_CORE_RETIRE (R467): A cipher core is retired and its running requests restart on other cores. -/
  | cipherCoreRetire (k : CoreIdx) (sw : Bool)
  /-- SLOT_ECC_ERROR (R466): An uncorrectable error in a slot makes it refuse new requests. -/
  | slotEccError (slot : KeySlot)
  /-- SLOT_RECOVERY (R466): The Hearth takes the lock, erases the faulty slot and raises a notice. -/
  | slotRecovery (slot : KeySlot)
  /-- CPH_NOTIFY_READ (R464): A read of CPH_NOTIFY pops the oldest notice. -/
  | cphNotifyRead
  /-- MICROWORD_NEXT (R470): A microword with SEQ next executes its nanoword and continues at PC + 1. -/
  | microwordNext (q : Seq)
  /-- MICROWORD_JUMP (R470): A microword with SEQ jump continues at TARGET. -/
  | microwordJump (q : Seq)
  /-- MICROWORD_BRANCH (R470): A microword with SEQ branch continues at TARGET if its condition holds. -/
  | microwordBranch (q : Seq)
  /-- MICROWORD_CALL (R470): A microword with SEQ call pushes PC + 1 and jumps. -/
  | microwordCall (q : Seq)
  /-- MICROWORD_RETURN (R470): A microword with SEQ return continues at the popped address. -/
  | microwordReturn (q : Seq)
  /-- MICROWORD_DISPATCH (R470): A microword with SEQ dispatch jumps into a table indexed by s0. -/
  | microwordDispatch (q : Seq)
  /-- MICROWORD_WAIT (R470): A microword with SEQ wait repeats until its condition holds. -/
  | microwordWait (q : Seq)
  /-- MICROWORD_YIELD (R477): A microword with SEQ yield writes the checkpoint and may stop for a patch
  switch. -/
  | microwordYield (q : Seq)
  /-- MICROWORD_TRAP (R470): A microword with SEQ trap traps with code 7. -/
  | microwordTrap (q : Seq)
  /-- MICROWORD_RESUME (R474): A microword with SEQ resume re-executes or continues after the saved micro-PC.
  -/
  | microwordResume (q : Seq)
  /-- MICROWORD_END (R470): A microword with SEQ end completes the request in hand and takes the next. -/
  | microwordEnd (q : Seq)
  /-- PORT_ACCESS_RETURN (R472): A pending sequencer port access returns its data, releasing a stalled step.
  -/
  | portAccessReturn (q : Seq) (k : Nat) (data : Words) (res : PortRes)
  /-- STEP_WATCHDOG (R472): A step stalled or elastic for 65,536 clocks traps with code 3. -/
  | stepWatchdog (q : Seq)
  /-- SEQUENCER_RESTART (R475): A faulted sequencer is reset, reloads its checkpoint and restarts its duty. -/
  | sequencerRestart (q : Seq)
  /-- PATCH_SWITCH (R477): All sequencers have stopped at a yield and the patch bank in force is switched. -/
  | patchSwitch
  /-- QUIESCE_TIMEOUT (R477): A sequencer has not stopped within 10 ms and the activation is abandoned. -/
  | quiesceTimeout
  /-- FILL (R481): A fill service request writes a pattern to a memory range. -/
  | fill (k : SvcSlot) (v : Word)
  /-- COPY (R481): A copy service request copies a memory range to a destination. -/
  | copy (k : SvcSlot) (v : Word)
  /-- SWEEP_NOW (R481): A sweep-now service request starts an ageing sweep at once. -/
  | sweepNow (k : SvcSlot) (v : Word)
  /-- TCAM_SCRUB_PASS_NOW (R481): A TCAM scrub-pass service request scrubs every row at once. -/
  | tcamScrubPassNow (k : SvcSlot) (v : Word)
  /-- TRIE_UNIT_COMPACTION (R481): A trie compaction service request moves a root's arrays into contiguous
  units. -/
  | trieUnitCompaction (k : SvcSlot) (v : Word)
  /-- SCAN (R481): A scan service request reads and corrects every word of a range. -/
  | scan (k : SvcSlot) (v : Word)
  /-- SERVICE_ABORT (R482): ABORT in CSQ_REQ_CTL ends a request at the end of its 4 KiB step. -/
  | serviceAbort (k : SvcSlot) (v : Word)
  /-- HELD_SERVICE_START (R482): Every overlapping earlier request has ended and a held service request
  starts. -/
  | heldServiceStart (k : SvcSlot)
  /-- SERVICE_REQUEST_END (R480): A service request ends, its result is set and its CSQ_REQ_DONE bit rises. -/
  | serviceRequestEnd (k : SvcSlot) (steps : Nat) (reads : SvcReads)
  /-- GAU_SNAP_NOW (R487): A write to GAU_SNAP_NOW requests snapshots of the named sets on the next tick. -/
  | gauSnapNow (v : Word)
  /-- GAUGE_SNAPSHOT (R487): Every counter of a snapshot set latches its value on one tick. -/
  | gaugeSnapshot
  /-- SNAPSHOT_COLLECTED (R489): The collector holds every latched value of a set and READY rises. -/
  | snapshotCollected (n : GauSet)
  /-- SAMPLE_DETECT (R495): Two ticks after a counter wraps, its sample record enters the sample FIFO. -/
  | sampleDetect
  /-- GAU_SAMPLE_READ (R495): A read of GAU_SAMPLE[0] pops the oldest sample record. -/
  | gauSampleRead
  /-- SLOT_COUNTER_CLEAR (R493): On the tick after a CLR write, every slot counter is zeroed. -/
  | slotCounterClear
  /-- DEVICE_RESET (R497): A reset rise starts the device reset and the start-up sequence to ready or
  recovery. -/
  | deviceReset (boot : BootFacts)
  /-- GET_INFO (R514): The mailbox command GET_INFO returns serial, versions, slot and owner state. -/
  | getInfo
  /-- GET_NONCE (R511): The mailbox command GET_NONCE returns a fresh nonce. -/
  | getNonce
  /-- NONCE_EXPIRE (R511): An unused nonce expires 60 s after it was issued. -/
  | nonceExpire
  /-- UPDATE_BEGIN (R518): UPDATE_BEGIN opens an update of the non-running slot and starts erasing it. -/
  | updateBegin
  /-- SECTOR_ERASE_DONE (R518): A background flash sector erase completes. -/
  | sectorEraseDone
  /-- UPDATE_BLOCK (R519): UPDATE_BLOCK writes a block of the bundle into the open slot. -/
  | updateBlock
  /-- UPDATE_STATUS (R514): UPDATE_STATUS returns the slot, bytes erased and bytes written. -/
  | updateStatus
  /-- UPDATE_END (R520): UPDATE_END verifies the written slot and makes it Valid. -/
  | updateEnd
  /-- UPDATE_ABORT (R514): UPDATE_ABORT makes the open slot Empty. -/
  | updateAbort
  /-- ACTIVATE (R521): ACTIVATE makes a Valid slot preferred with TRIES 3, and may start a hitless restart. -/
  | activate
  /-- MANAGEMENT_RESTART (R522): After the ACTIVATE response, the management complex restarts into the new
  firmware. -/
  | managementRestart (ph : RestartPhase)
  /-- COMMIT (R514): COMMIT makes the running slot Good, and with ADVANCE raises VENDOR_SVN. -/
  | commit
  /-- SETTINGS_READ (R514): SETTINGS_READ returns settings bytes. -/
  | settingsRead
  /-- SETTINGS_WRITE (R516): SETTINGS_WRITE stages settings bytes or commits them into the other copy. -/
  | settingsWrite
  /-- OWNER_ADD_KEY (R510): OWNER_ADD_KEY fuses an owner key digest, and with the first key the owner image
  root. -/
  | ownerAddKey
  /-- OWNER_REVOKE_KEY (R510): OWNER_REVOKE_KEY revokes an owner key. -/
  | ownerRevokeKey
  /-- OWNER_LOCK (R510): OWNER_LOCK blows the lock fuse and moves the owner state to Locked. -/
  | ownerLock
  /-- OWNER_SVN (R514): OWNER_SVN raises the owner rollback counter. -/
  | ownerSvn
  /-- SECURE_COUNT (R491): SECURE_COUNT sets or clears SECURE_EN. -/
  | secureCount
  /-- CERT_INSTALL (R514): CERT_INSTALL writes the owner chain into certificate slot 1. -/
  | certInstall
  /-- GET_CSR (R512): GET_CSR returns a certificate signing request for AliasID. -/
  | getCsr
  /-- RESET (R514): The mailbox command RESET causes a device reset once its response is delivered. -/
  | reset
  /-- GET_VERSION (R513): The SPDM request GET_VERSION is answered by the Hearth. -/
  | getVersion
  /-- GET_CAPABILITIES (R513): The SPDM request GET_CAPABILITIES is answered by the Hearth. -/
  | getCapabilities
  /-- NEGOTIATE_ALGORITHMS (R513): The SPDM request NEGOTIATE_ALGORITHMS is answered by the Hearth. -/
  | negotiateAlgorithms
  /-- GET_DIGESTS (R513): The SPDM request GET_DIGESTS is answered by the Hearth. -/
  | getDigests
  /-- GET_CERTIFICATE (R513): The SPDM request GET_CERTIFICATE is answered by the Hearth. -/
  | getCertificate (slot : Nat) (off : Nat) (len : Nat)
  /-- CHALLENGE (R513): The SPDM request CHALLENGE is answered with an AliasID signature. -/
  | challenge (slot : Nat) (nonce : (BitVec 256))
  /-- GET_MEASUREMENTS (R513): The SPDM request GET_MEASUREMENTS returns signed measurement blocks. -/
  | getMeasurements (idx : Nat) (nonce : (BitVec 256))
  /-- FAULT_REPORT (R524): A block reports a fault to the error unit, which records it and raises interrupts.
  -/
  | faultReport (f : FaultFacts)
  /-- THRESHOLD_CROSSING (R530): CSQ22 counts a fault in its unit's window and retires or withholds at a
  crossing. -/
  | thresholdCrossing
  /-- ERROR_WINDOW_CLOSE (R529): A unit's fault window closes WINDOW_MS after it opened. -/
  | errorWindowClose (k : UnitKind) (u : Nat)
  /-- ERR_RETIRE (R536): A write to ERR_RETIRE retires a unit of the named kind on the next tick. -/
  | errRetire (v : Word)
  /-- ERR_LOG_READ (R538): A read of ERR_LOG[0] pops the oldest error record. -/
  | errLogRead
  /-- INT_STAT_CLEAR (R540): A w1c write to ERR_INT_STAT clears bits, which a persisting condition sets again.
  -/
  | intStatClear (v : Word)
  /-- BRIDGE_FLIT_CRC_ERROR (R525): A bridge flit fails its CRC and is replayed. -/
  | bridgeFlitCrcError (m : Module)
  /-- BRIDGE_MODULE_OUT (R526): A flit fails its replay 16 times and its module leaves service to retrain. -/
  | bridgeModuleOut (m : Module)
  /-- BRIDGE_MODULE_RETRAIN (R526): A module's retraining ends, returning it to service or retiring it. -/
  | bridgeModuleRetrain (m : Module) (ok : Bool)
  /-- BRIDGE_MODULE_RETIRE (R535): A bridge module is retired and its flits replayed on the remaining modules.
  -/
  | bridgeModuleRetire (m : Module) (sw : Bool)
  /-- EM_BLOCK_RETIRE (R534): An exact-match block is retired and its entries are moved elsewhere or deleted.
  -/
  | emBlockRetire (b : EmBlock) (sw : Bool)
  /-- PG_INPUT_RISE (R550): A power-good input rises while the device is held in reset. -/
  | pgInputRise (k : PgInput)
  /-- PORST_ASSERT (R552): A filtered low on PORST_N puts the device in reset. -/
  | porstAssert
  /-- SYSRST_ASSERT (R552): A filtered low on SYSRST_N puts the device in reset. -/
  | sysrstAssert
  /-- PERST_ASSERT (R555): A low on PERSTn_N takes its PCIe link down. -/
  | perstAssert (l : PciLink)
  /-- PERST_DEASSERT (R555): A rise of PERSTn_N lets its link train once start-up has reached step 4. -/
  | perstDeassert (l : PciLink)
  /-- GPIO_WRITE (R547): A write to GLB_GPIO sets the direction and output levels of the GPIOs. -/
  | gpioWrite (v : Word)
  /-- TAP_RESET (R554): TRST_N or five TCK cycles with TMS high reset the JTAG TAP. -/
  | tapReset
  /-- TIME_BUS_TICK (R492): Each 0.625 ns time-bus tick classifies every live engine's issue slot and adds
  level-mode state events to Gauge counters. -/
  | timeBusTick
  /-- TIME_LANE_RELOCK (R50): The forwarded time lane of the bridge regains lock, ending the bridge time fault
  so that quench commits are no longer refused with code 4. -/
  | timeLaneRelock
  /-- LANE_LOCK_REGAIN (R48): A line lane regains lock, and a SyncE output that names it stops being
  squelched. -/
  | laneLockRegain (l : Lane)
  /-- DLOS_CHANGE (R270): A lane of an OTN port loses or regains its signal, changing dLOS and raising event
  line 128 + 4o + 1. -/
  | dlosChange (o : OtnPort) (on : Bool)
  /-- DAM_CHANGE (R270): A FlexO instance loses or gains alignment-marker lock, changing dAM and raising event
  line 128 + 4o + 1. -/
  | damChange (o : OtnPort) (on : Bool)
  /-- PCIE_LINK_DOWN (R397): A PCIe link leaves L0 of its own accord, with only the host-interface effects of
  a link-down. -/
  | pcieLinkDown (l : PciLink)
  /-- PCIE_LINK_UP (R396): A PCIe link completes training and enters L0, setting its UP, SPEED, WIDTH and FLIT
  fields. -/
  | pcieLinkUp (l : PciLink) (speed : Nat) (width : Nat) (flit : Bool)
  /-- BUS_MASTER_ENABLE (R397): Bus Master Enable returns to 1 in a function, and its held DMA requests
  proceed. -/
  | busMasterEnable (f : PciFn)
  /-- PG_INPUT_FALL (R550): A power-good input falls, holding the device in reset while reset is held, and
  having no effect after reset. -/
  | pgInputFall (k : PgInput)
deriving DecidableEq, Repr

end Sys2Proof
end

