-- ==== Sys2Proof/Decode.lean ====
section
/-! DEFINITION. The command a word of the table spells: the table gives its rows no bits, so no word spells one. -/

namespace Sys2Proof

/-- The command that a word of `nbits` bits spells by the bits of the table. No row of `spec/opcode_table.json`
carries bits: its rows are operations and events, not encodings. -/
def decodeTableWord (_nbits _w : Nat) : Option Instr := none

end Sys2Proof
end

