-- ==== Sys2Proof/Config.lean ====
section
/-! DEFINITION. What the manual leaves open or takes from outside it: free values, which no proof can look into,
and the cryptographic functions of the standards the manual names. Each is opaque: nothing in Lean evaluates it. -/

namespace Sys2Proof.Config
open Sys2Proof

/-- The n-th free 64-bit value of a run (log 3). -/
opaque freeWord : Nat → Word

/-- A value the manual leaves undefined for an input, as a number (log 3). -/
opaque freeNat : Nat → Nat → Nat

/-- The bytes with which the LIU pads a short frame, by position (log 58). -/
opaque padByte : Nat → Byte

/-- AES-256-GCM's keystream (FIPS 197, SP 800-38D): key, nonce, position to the byte XORed with the text there. -/
opaque gcmStream : Bytes → Bytes → Nat → Byte

/-- AES-256-GCM's 16-byte tag: key, nonce, additional data, ciphertext. -/
opaque gcmTag : Bytes → Bytes → Bytes → Bytes → Bytes

/-- GMAC: key, nonce, message to a 16-byte tag. -/
opaque gmac : Bytes → Bytes → Bytes → Bytes

/-- AES-CMAC (SP 800-38B): key, message to a 16-byte tag. -/
opaque cmac : Bytes → Bytes → Bytes

/-- KMAC256 (SP 800-185): key, message, customization string, output bytes. -/
opaque kmac256 : Bytes → Bytes → Bytes → Nat → Bytes

/-- SHAKE256 (FIPS 202): message, output bytes. -/
opaque shake256 : Bytes → Nat → Bytes

/-- Ed448 verification (RFC 8032): public key, message, signature. -/
opaque ed448Verify : Bytes → Bytes → Bytes → Bool

/-- Ed448ph verification (RFC 8032). -/
opaque ed448phVerify : Bytes → Bytes → Bytes → Bool

/-- Ed448 signature by the key a number names. -/
opaque ed448Sign : Nat → Bytes → Bytes

/-- AES key wrap: wrapping key and data. -/
opaque keyWrap : Bytes → Bytes → Bytes

/-- AES key unwrap: wrapping key and wrapped data, to the data when its check is good. -/
opaque keyUnwrap : Bytes → Bytes → Option Bytes

/-- The release microcode (R468, R469), whose contents the manual does not give: microwords by address. -/
opaque microRom : Nat → Word

/-- The release nanowords by address. -/
opaque nanoRom : Nat → BitVec 96

/-- The micro-address at which a sequencer starts its duty. -/
opaque dutyEntry : Nat → Nat

/-! Identity and images (ch. 18): values fused at manufacture, and the layouts the manual leaves to draza-pack and to
the firmware. -/

/-- Gemond's fused signing-key digest, 64 bytes (R505). -/
opaque gemondDigest : Bytes

/-- The Gemond image root (R508). -/
opaque gemondRoot : Bytes

/-- The 16-byte device serial (R511). -/
opaque serial : Bytes

/-- The boot ROM's digest (R513). -/
opaque romDigest : Bytes

/-- A signature by the owner key of a digest over a message (R511). -/
opaque ownerSigned : Bytes → Bytes → Bytes → Bool

/-- The Hearth firmware image, and the sequencer patch image if there is one, in a bundle's payload (R500). -/
opaque bundleFirmware : Bytes → Bytes
opaque bundlePatch : Bytes → Option Bytes

/-- HITLESS_FROM in a bundle's table of contents (R504). -/
opaque hitlessFrom : Bytes → Nat

/-- A patch's payload (R476): ROM_VER, PATCH_VER, CKPT_VER, microwords, nanowords and redirect entries in order. -/
opaque patchRom : Bytes → Nat
opaque patchVer : Bytes → Nat
opaque patchCkpt : Bytes → Nat
opaque patchMicro : Bytes → List Word
opaque patchNano : Bytes → List (BitVec 96)
opaque patchRedir : Bytes → List (Nat × Nat)

/-- A Stitch bank image's payload (R84, R94): whether it is well formed, its metadata version, its instructions, and
its entry table. -/
opaque bankFormed : Bytes → Bool
opaque bankVer : Bytes → Nat
opaque bankProgram : Bytes → List Word
opaque bankEntries : Bytes → List (Nat × Nat)

/-- The settings FORMAT of a firmware image, and the bytes from offset 192 on of its defaults (R515, R517). -/
opaque fwFormat : Bytes → Nat
opaque defaultSettings : Nat → Bytes

/-- The board record and provisioning store of the defaults, and the 64-byte header of a settings copy: FORMAT, SEQ and
the rest of the copy (R515). -/
opaque defaultBoard : Bytes
opaque settingsHeader : Nat → Nat → Bytes → Bytes

/-- The length of the provisioning store (R515). -/
opaque provLen : Nat

/-- The vendor identifier and the two subsystem identifiers that settings hold (R394). -/
opaque pciIds : Bytes → Nat × Nat × Nat

/-- Whether a board record, 64 bytes, selects the 2 × ×8 link mode (R393, R516). -/
opaque boardSplit : Bytes → Bool

/-- The set points that a board record, 64 bytes, enables for the MCD (false) or the MCH (true), bit s for set point s
(R391, R516). -/
opaque setPoints : Bytes → Bool → BitVec 4

/-- What fills the payload of a cell where no field lies (R349, R350), by position, and DST of a link control cell, which
no rule states (log 63). -/
opaque cellFill : Nat → Nat
opaque controlDst : BitVec 11

/-- The body of a response whose layout the manual does not give: the command and the numbers it carries. -/
opaque respBody : Nat → List Nat → Bytes

/-- AliasID's certificate signing request, and the certificate chain of slot 0, for a firmware digest (R512). -/
opaque aliasCsr : Bytes → Bytes
opaque certChain : Bytes → Bytes

/-- SHA3-512 (FIPS 202). -/
opaque sha3 : Bytes → Bytes

/-- Capture requests that may come at once above the rate of R330, and records that the capture path holds (log 63). -/
opaque capBurst : Nat
opaque capDepth : Nat

/-- Where the trie's nodes and prefix arrays stand in the unit pool (R187, R188), by node: the unit of its first child,
and of its prefix array; node 0 of a root stands for the root tables' pointers (log 25). -/
opaque childBase : Nat → BitVec 24
opaque pfxBase : Nat → BitVec 24

/-- The word of its scratch SRAM in which a sequencer keeps its item cursor (R477), whose place the manual does not give
(log 37). -/
opaque cursorAt : Nat → Nat

end Sys2Proof.Config
end

