-- ==== Sys2Proof/Machine/Map.lean ====
section
/-! DEFINITION. Bit fields, sign extension, and the sparse maps of the state: reading, writing and removing an
entry, and the canonical form every write keeps. -/

namespace Sys2Proof.Machine
open Sys2Proof

/-- Bits `[hi:lo]` of a word, as a number. -/
def fld (w : Word) (hi lo : Nat) : Nat := w.toNat >>> lo % 2 ^ (hi + 1 - lo)

/-- One bit of a word. -/
def bit (w : Word) (i : Nat) : Bool := w.toNat.testBit i

/-- The word whose bits `[hi:lo]` are all 1 and whose other bits are 0. -/
def fmask (hi lo : Nat) : Word := BitVec.ofNat 64 ((2 ^ (hi + 1 - lo) - 1) <<< lo)

/-- A word with bits `[hi:lo]` replaced by `v` (its low bits). -/
def setFld (w : Word) (hi lo v : Nat) : Word :=
  (w &&& ~~~ fmask hi lo) ||| BitVec.ofNat 64 ((v % 2 ^ (hi + 1 - lo)) <<< lo)

/-- A word with one bit set to `b`. -/
def setBit (w : Word) (i : Nat) (b : Bool) : Word := setFld w i i b.toNat

/-- A word placed at `[.. : lo]`. -/
def at_ (v lo : Nat) : Word := BitVec.ofNat 64 (v <<< lo)

/-- The value of a two's complement number of `n` bits. -/
def signed (n v : Nat) : Int := if v < 2 ^ (n - 1) then (v : Int) else (v : Int) - 2 ^ n

/-- `v` held within `lo` to `hi`, at the nearer end (R6). -/
def clampTo (lo hi v : Nat) : Nat := if v < lo then lo else if hi < v then hi else v

/-- `v + n`, held at `2 ^ w - 1`: a saturating counter of `w` bits. -/
def satAdd (w v n : Nat) : Nat := min (v + n) (2 ^ w - 1)

/-- The value listed at a key, if any. -/
def mfind {α : Type} (m : SMap α) (k : Nat) : Option α :=
  match m with
  | [] => none
  | (j, v) :: t => if j = k then some v else mfind t k

/-- What a key reads as, unlisted keys reading as `d`. -/
def mget {α : Type} (d : α) (m : SMap α) (k : Nat) : α := (mfind m k).getD d

/-- The map without a key. -/
def mdel {α : Type} (m : SMap α) (k : Nat) : SMap α :=
  match m with
  | [] => []
  | (j, v) :: t => if j = k then mdel t k else (j, v) :: mdel t k

/-- The map with a key listed at a value, in rising key order. -/
def mput {α : Type} (m : SMap α) (k : Nat) (v : α) : SMap α :=
  match m with
  | [] => [(k, v)]
  | (j, u) :: t => if k < j then (k, v) :: (j, u) :: t else if j = k then (k, v) :: t else (j, u) :: mput t k v

/-- A write to a map whose unlisted keys read as `d`: writing `d` removes the entry. -/
def mset {α : Type} [DecidableEq α] (d : α) (m : SMap α) (k : Nat) (v : α) : SMap α :=
  if v = d then mdel m k else mput m k v

/-- A change of what a key reads as. -/
def mmod {α : Type} [DecidableEq α] (d : α) (m : SMap α) (k : Nat) (f : α → α) : SMap α :=
  mset d m k (f (mget d m k))

/-- Keys strictly rising, all at or above `lo`. -/
def risingFrom {α : Type} (lo : Nat) (m : SMap α) : Bool :=
  match m with
  | [] => true
  | (j, _) :: t => decide (lo ≤ j) && risingFrom (j + 1) t

/-- The canonical form of a map whose unlisted keys read as `d`. -/
def mwf {α : Type} [DecidableEq α] (d : α) (m : SMap α) : Bool :=
  risingFrom 0 m && m.all (fun e => decide (e.2 ≠ d))

/-- A change of every listed entry, an entry that becomes `none` being removed. -/
def mmap {α : Type} (m : SMap α) (f : Nat → α → Option α) : SMap α :=
  m.filterMap (fun e => (f e.1 e.2).map (fun v => (e.1, v)))

/-- The bytes of a number, `n` of them, most significant first. -/
def beBytes (n v : Nat) : Bytes := (List.range n).map (fun i => BitVec.ofNat 8 (v >>> (8 * (n - 1 - i))))

/-- The number a run of bytes spells, most significant first. -/
def beNat (bs : Bytes) : Nat := bs.foldl (fun a b => a * 256 + b.toNat) 0

/-- The bytes of a number, `n` of them, least significant first. -/
def leBytes (n v : Nat) : Bytes := (List.range n).map (fun i => BitVec.ofNat 8 (v >>> (8 * i)))

/-- The number a run of bytes spells, least significant first. -/
def leNat (bs : Bytes) : Nat := bs.reverse.foldl (fun a b => a * 256 + b.toNat) 0

/-- Byte `i` of a run, bytes beyond its end reading zero (R9). -/
def byteAt (bs : Bytes) (i : Nat) : Byte := bs.getD i 0

/-- The first element that meets a test, with the list without it. -/
def takeFirst {α : Type} (p : α → Bool) (l : List α) : Option (α × List α) :=
  match l with
  | [] => none
  | x :: t => if p x then some (x, t) else (takeFirst p t).map (fun r => (r.1, x :: r.2))

/-- The list with its last element that an index names replaced. -/
def lset {α : Type} (l : List α) (i : Nat) (v : α) : List α := l.set i v

/-- CRC-32C over bytes from a register value, bit-reflected (R122); the final inversion is the caller's. -/
def crc32cStep (c : BitVec 32) (b : Byte) : BitVec 32 :=
  (List.range 8).foldl (fun c _ => if c &&& 1 = 1 then (c >>> 1) ^^^ 0x82F63B78#32 else c >>> 1)
    (c ^^^ b.zeroExtend 32)

/-- CRC-32C of bytes from a seed, with the final inversion (R122). -/
def crc32c (seed : BitVec 32) (bs : Bytes) : BitVec 32 := ~~~ (bs.foldl crc32cStep seed)

/-- CRC-32 of IEEE 802.3 over bytes from a register value, bit-reflected. -/
def crc32Step (c : BitVec 32) (b : Byte) : BitVec 32 :=
  (List.range 8).foldl (fun c _ => if c &&& 1 = 1 then (c >>> 1) ^^^ 0xEDB88320#32 else c >>> 1)
    (c ^^^ b.zeroExtend 32)

/-- The FCS of a frame: the CRC-32 of its bytes (R168, R311), the lowest byte first on the line. -/
def fcs (bs : Bytes) : BitVec 32 := ~~~ (bs.foldl crc32Step 0xFFFFFFFF#32)

/-- A frame with its FCS, or with a stomped one, the complement of the FCS (R168, R311). -/
def withFcs (bs : Bytes) (stomped : Bool) : Bytes :=
  bs ++ leBytes 4 (if stomped then ~~~ (fcs bs) else fcs bs).toNat

/-! ### Clamps and resets of register fields -/

/-- The nearest of a rising list of legal values, the lower of two equally near (R6). -/
def nearest (vs : List Nat) (v : Nat) : Nat :=
  vs.foldl (fun b x => if (if x < v then v - x else x - v) < (if b < v then v - b else b - v) then x else b)
    (vs.headD 0)

/-- A written field value after its clamp rule (R6, R7). -/
def clampField (c : Clamp) (v : Nat) : Nat :=
  match c with
  | .any => v
  | .range lo hi => clampTo lo hi v
  | .enum hi dflt => if v ≤ hi then v else dflt
  | .oneOf vs => nearest vs v
  | .srange w b =>
    let a := signed w v
    ((if a < -(b : Int) then -(b : Int) else if (b : Int) < a then (b : Int) else a) % 2 ^ w).toNat

/-- The value a register array's elements hold at reset, from its fields' reset values. -/
def regRst (r : Reg) : Word :=
  r.fields.foldl (fun w f => setFld w f.hi f.lo f.rst) 0

/-- The absolute address of element `i` of a register array. -/
def regAddr (r : Reg) (i : Nat) : Nat := r.base + r.stride * i

/-- What one field stores when `v` is written over `old` under its access code; `lock` says the owning lock is
held by the writer. -/
def writeField (lock : Bool) (v : Word) (old : Word) (f : RField) : Word :=
  match f.acc with
  | .rw => setFld old f.hi f.lo (clampField f.clamp (fld v f.hi f.lo))
  | .rwl => if lock then setFld old f.hi f.lo (clampField f.clamp (fld v f.hi f.lo)) else old
  | .w1c => old &&& ~~~ (v &&& fmask f.hi f.lo)
  | .w1s => old ||| (v &&& fmask f.hi f.lo)
  | .ro | .wo | .rc | .row => old

/-- What a whole register stores when `v` is written over `old` (R4 to R8). -/
def writeReg (lock : Bool) (r : Reg) (old v : Word) : Word :=
  r.fields.foldl (writeField lock v) old

/-- What a register holds after a read that clears (R4, code rc). -/
def clearRc (r : Reg) (old : Word) : Word :=
  r.fields.foldl (fun w f => if f.acc = .rc then setFld w f.hi f.lo 0 else w) old

/-- Whether a register has a field whose read clears it. -/
def hasRc (r : Reg) : Bool := r.fields.any (fun f => decide (f.acc = .rc))

/-- The element of a register array that stands at an absolute address. -/
def regIndex (r : Reg) (a : Nat) : Option Nat :=
  if a < r.base then none
  else if r.count = 1 then (if a = r.base then some 0 else none)
  else if (a - r.base) % r.stride = 0 ∧ (a - r.base) / r.stride < r.count then some ((a - r.base) / r.stride)
  else none

/-- The register, and the element of it, that stands at an absolute address. -/
def regFind (rs : List Reg) (a : Nat) : Option (Reg × Nat) :=
  match rs with
  | [] => none
  | r :: t => match regIndex r a with
    | some i => some (r, i)
    | none => regFind t a

/-- A number put into a rising list. -/
def insNat (a : Nat) : List Nat → List Nat
  | [] => [a]
  | b :: l => if a ≤ b then a :: b :: l else b :: insNat a l

/-- A list of numbers in rising order. -/
def sortNat (l : List Nat) : List Nat := l.foldr insNat []

end Sys2Proof.Machine
end

