-- ==== Sys2Proof/Machine/RegMap.lean ====
section
/-! DEFINITION. The register map: one `Reg` per register or register array of the manual, with its block, its
offset, its stride and number, and its fields (bits, access code, reset value, clamp rule), written from the field
tables of `spec/`. Fields the tables mark reserved have no line: they read zero (R5). -/

namespace Sys2Proof.Machine.R
open Sys2Proof.Machine

/-- GLB_DEVICE_ID, GLB offset 0x0 (R12, `spec/00_scope.md`): FAMILY [63:48], PART [47:32], STEP_MAJOR [31:28],
STEP_MINOR [27:24], PKG_CODE [23:16]. -/
def GLB_DEVICE_ID : Reg := ⟨0x0, 0, 1, [⟨63, 48, .ro, 31770, .any⟩, ⟨47, 32, .ro, 25600, .any⟩, ⟨31, 28, .ro, 1,
  .any⟩, ⟨27, 24, .ro, 0, .any⟩, ⟨23, 16, .ro, 1, .any⟩]⟩

/-- GLB_SYS_MODE, GLB offset 0x10 (R31, `spec/01_architecture.md`): DEVICE_ID [26:16], LOCAL_SWITCH [8], MODE
[1:0]. -/
def GLB_SYS_MODE : Reg := ⟨0x10, 0, 1, [⟨26, 16, .row, 0, .any⟩, ⟨8, 8, .row, 1, .any⟩, ⟨1, 0, .row, 0, .any⟩]⟩

/-- SEN_COURSE_CFG, SEN offset 0x0 + 8 × i, 8 of them (R20, `spec/01_architecture.md`): ENGINES_LIVE [14:8],
MODE_STATE [3:2], MODE [1:0]. -/
def SEN_COURSE_CFG : Reg := ⟨0x400000, 8, 8, [⟨14, 8, .ro, 80, .any⟩, ⟨3, 2, .ro, 0, .any⟩, ⟨1, 0, .row, 0,
  .any⟩]⟩

/-- SEN_NOCOURSE_DROP, SEN offset 0x100 (R24, `spec/01_architecture.md`): EGRESS [48], COUNT [47:0]. -/
def SEN_NOCOURSE_DROP : Reg := ⟨0x400100, 0, 1, [⟨48, 48, .rc, 0, .any⟩, ⟨47, 0, .rc, 0, .any⟩]⟩

/-- TAU_PHC_SEC, TAU offset 0x0 (R38, `spec/02_time_and_quench.md`): SEC [47:0]. -/
def TAU_PHC_SEC : Reg := ⟨0x100000, 0, 1, [⟨47, 0, .ro, 0, .any⟩]⟩

/-- TAU_PHC_NS, TAU offset 0x8 (R38, `spec/02_time_and_quench.md`): NS [45:16], FRAC [15:0]. -/
def TAU_PHC_NS : Reg := ⟨0x100008, 0, 1, [⟨45, 16, .ro, 0, .any⟩, ⟨15, 0, .ro, 0, .any⟩]⟩

/-- TAU_PHC_SET_SEC, TAU offset 0x10 (R38, `spec/02_time_and_quench.md`): SEC [47:0]. -/
def TAU_PHC_SET_SEC : Reg := ⟨0x100010, 0, 1, [⟨47, 0, .rw, 0, .any⟩]⟩

/-- TAU_PHC_SET_NS, TAU offset 0x18 (R38, `spec/02_time_and_quench.md`): NS [45:16], FRAC [15:0]. -/
def TAU_PHC_SET_NS : Reg := ⟨0x100018, 0, 1, [⟨45, 16, .rw, 0, (.range 0 999999999)⟩, ⟨15, 0, .rw, 0, .any⟩]⟩

/-- TAU_PHC_STEP_REL, TAU offset 0x20 (R38, `spec/02_time_and_quench.md`): OFFSET [63:0]. -/
def TAU_PHC_STEP_REL : Reg := ⟨0x100020, 0, 1, [⟨63, 0, .rw, 0, .any⟩]⟩

/-- TAU_PHC_FREQ, TAU offset 0x28 (R38, `spec/02_time_and_quench.md`): ADJ [31:0]. -/
def TAU_PHC_FREQ : Reg := ⟨0x100028, 0, 1, [⟨31, 0, .row, 0, .any⟩]⟩

/-- TAU_PHC_CTL, TAU offset 0x30 (R38, `spec/02_time_and_quench.md`): HOLD_TIMEOUT [31:16], STEP_REL [1],
STEP_ABS [0]. -/
def TAU_PHC_CTL : Reg := ⟨0x100030, 0, 1, [⟨31, 16, .row, 0, .any⟩, ⟨1, 1, .wo, 0, .any⟩, ⟨0, 0, .wo, 0, .any⟩]⟩

/-- TAU_MONO, TAU offset 0x38 (R41, `spec/02_time_and_quench.md`): MONO [63:0]. -/
def TAU_MONO : Reg := ⟨0x100038, 0, 1, [⟨63, 0, .ro, 0, .any⟩]⟩

/-- TAU_STATUS, TAU offset 0x40 (R43, `spec/02_time_and_quench.md`): HOLDOVER [8], EARLY_RETIRE [7],
QUENCH_REFUSED [6], TA_FAIL [5], TA_LATE [4], HOLD_ENTER [3], PPS_IN_LOSS [2], REF_LOSS [1], TOD_RX [0]. -/
def TAU_STATUS : Reg := ⟨0x100040, 0, 1, [⟨8, 8, .ro, 0, .any⟩, ⟨7, 7, .w1c, 0, .any⟩, ⟨6, 6, .w1c, 0, .any⟩,
  ⟨5, 5, .w1c, 0, .any⟩, ⟨4, 4, .w1c, 0, .any⟩, ⟨3, 3, .w1c, 0, .any⟩, ⟨2, 2, .w1c, 0, .any⟩, ⟨1, 1, .w1c, 0,
  .any⟩, ⟨0, 0, .w1c, 0, .any⟩]⟩

/-- TAU_REF_CFG, TAU offset 0x48 (R42, `spec/02_time_and_quench.md`): LANE [14:8], SRC [1:0]. -/
def TAU_REF_CFG : Reg := ⟨0x100048, 0, 1, [⟨14, 8, .rw, 0, .any⟩, ⟨1, 0, .rw, 2, (.enum 2 2)⟩]⟩

/-- TAU_PPS_CFG, TAU offset 0x50 (R45, `spec/02_time_and_quench.md`): OFFSET_NS [61:32], WIDTH_US [27:8], OUT_EN
[0]. -/
def TAU_PPS_CFG : Reg := ⟨0x100050, 0, 1, [⟨61, 32, .rw, 0, (.range 0 999999999)⟩, ⟨27, 8, .rw, 100000, (.range
  1 999999)⟩, ⟨0, 0, .rw, 0, .any⟩]⟩

/-- TAU_PPS_IN_TS, TAU offset 0x58 (R44, `spec/02_time_and_quench.md`): SEC_LO [61:30], NS [29:0]. -/
def TAU_PPS_IN_TS : Reg := ⟨0x100058, 0, 1, [⟨61, 30, .ro, 0, .any⟩, ⟨29, 0, .ro, 0, .any⟩]⟩

/-- TAU_SYNCE_OUT, TAU offset 0x60 + 8 × i, 4 of them (R48, `spec/02_time_and_quench.md`): DIV [23:16], EN [15],
LANE [14:8], SQUELCHED [0]. -/
def TAU_SYNCE_OUT : Reg := ⟨0x100060, 8, 4, [⟨23, 16, .rw, 4, (.range 1 255)⟩, ⟨15, 15, .rw, 0, .any⟩, ⟨14, 8,
  .rw, 0, .any⟩, ⟨0, 0, .ro, 0, .any⟩]⟩

/-- TAU_TOD_CFG, TAU offset 0x80 (R46, `spec/02_time_and_quench.md`): TX_LEN [14:8], BAUD [2:1], EN [0]. -/
def TAU_TOD_CFG : Reg := ⟨0x100080, 0, 1, [⟨14, 8, .rw, 0, (.range 0 64)⟩, ⟨2, 1, .rw, 2, .any⟩, ⟨0, 0, .rw, 0,
  .any⟩]⟩

/-- TAU_TOD_TX, TAU offset 0x88 (R46, `spec/02_time_and_quench.md`): BYTES [63:0]. -/
def TAU_TOD_TX : Reg := ⟨0x100088, 0, 1, [⟨63, 0, .wo, 0, .any⟩]⟩

/-- TAU_TOD_RX, TAU offset 0x90 (R47, `spec/02_time_and_quench.md`): SEC_LO [61:30], NS_HI [29:9], VALID [8],
BYTE [7:0]. -/
def TAU_TOD_RX : Reg := ⟨0x100090, 0, 1, [⟨61, 30, .row, 0, .any⟩, ⟨29, 9, .row, 0, .any⟩, ⟨8, 8, .row, 0,
  .any⟩, ⟨7, 0, .row, 0, .any⟩]⟩

/-- TAU_QUENCH_CTL, TAU offset 0x100 (R66, `spec/02_time_and_quench.md`): ABANDON [2], COMMIT [1], OPEN [0]. -/
def TAU_QUENCH_CTL : Reg := ⟨0x100100, 0, 1, [⟨2, 2, .wo, 0, .any⟩, ⟨1, 1, .wo, 0, .any⟩, ⟨0, 0, .wo, 0, .any⟩]⟩

/-- TAU_QUENCH_STAT, TAU offset 0x108 (R67, `spec/02_time_and_quench.md`): CUR_EPOCH [63:48], PEND_OPEN [47],
PREV_STATE [46:45], LAST_RESULT [44:42], PEND_COUNT [41:21], PREV_COUNT [20:0]. -/
def TAU_QUENCH_STAT : Reg := ⟨0x100108, 0, 1, [⟨63, 48, .ro, 0, .any⟩, ⟨47, 47, .ro, 0, .any⟩, ⟨46, 45, .ro, 0,
  .any⟩, ⟨44, 42, .ro, 0, .any⟩, ⟨41, 21, .ro, 0, .any⟩, ⟨20, 0, .ro, 0, .any⟩]⟩

/-- TAU_QUENCH_DRAIN, TAU offset 0x110 (R67, `spec/02_time_and_quench.md`): DRAIN_US [13:0]. -/
def TAU_QUENCH_DRAIN : Reg := ⟨0x100110, 0, 1, [⟨13, 0, .rw, 1000, (.range 10 10000)⟩]⟩

/-- TAU_EPOCH_STALE_DROP, TAU offset 0x118 (R67, `spec/02_time_and_quench.md`): COUNT [47:0]. -/
def TAU_EPOCH_STALE_DROP : Reg := ⟨0x100118, 0, 1, [⟨47, 0, .rc, 0, .any⟩]⟩

/-- TAU_EARLY_RETIRE, TAU offset 0x120 (R67, `spec/02_time_and_quench.md`): LAST_EPOCH [47:32], COUNT [31:0]. -/
def TAU_EARLY_RETIRE : Reg := ⟨0x100120, 0, 1, [⟨47, 32, .ro, 0, .any⟩, ⟨31, 0, .rc, 0, .any⟩]⟩

/-- TAU_TA_TIME, TAU offset 0x10000 + 32 × i, 4096 of them (R51, `spec/02_time_and_quench.md`): SEC_LO [61:30],
NS [29:0]. -/
def TAU_TA_TIME : Reg := ⟨0x110000, 32, 4096, [⟨61, 30, .rw, 0, .any⟩, ⟨29, 0, .rw, 0, (.range 0 999999999)⟩]⟩

/-- TAU_TA_ACT, TAU offset 0x10008 + 32 × i, 4096 of them (R51, `spec/02_time_and_quench.md`): ARM [63], STATE
[62:60], FAIL [59:56], ACTION [55:52], ARG [51:0]. -/
def TAU_TA_ACT : Reg := ⟨0x110008, 32, 4096, [⟨63, 63, .row, 0, .any⟩, ⟨62, 60, .ro, 0, .any⟩, ⟨59, 56, .ro, 0,
  .any⟩, ⟨55, 52, .rw, 0, (.enum 7 0)⟩, ⟨51, 0, .rw, 0, .any⟩]⟩

/-- TAU_TA_PERIOD, TAU offset 0x10010 + 32 × i, 4096 of them (R51, `spec/02_time_and_quench.md`): MISSED
[63:32], PERIOD_US [21:0]. -/
def TAU_TA_PERIOD : Reg := ⟨0x110010, 32, 4096, [⟨63, 32, .rc, 0, .any⟩, ⟨21, 0, .rw, 0, (.range 0 4000000)⟩]⟩

/-- SEN_MDVER_DROP, SEN offset 0x108 (R82, `spec/03_stitch_programming_model.md`): COUNT [47:0]. -/
def SEN_MDVER_DROP : Reg := ⟨0x400108, 0, 1, [⟨47, 0, .rc, 0, .any⟩]⟩

/-- SEN_RETIRE_DROP, SEN offset 0x110 (R83, `spec/03_stitch_programming_model.md`): COUNT [47:0]. -/
def SEN_RETIRE_DROP : Reg := ⟨0x400110, 0, 1, [⟨47, 0, .rc, 0, .any⟩]⟩

/-- SEN_MTU_DROP, SEN offset 0x118 (R169, `spec/05_parsing_and_rewrite.md`): LAST_PORT [54:48], COUNT [47:0]. -/
def SEN_MTU_DROP : Reg := ⟨0x400118, 0, 1, [⟨54, 48, .ro, 0, .any⟩, ⟨47, 0, .rc, 0, .any⟩]⟩

/-- SEN_DISPQ_STAT, SEN offset 0x120 (R80, `spec/03_stitch_programming_model.md`): EGR_OCC [29:16], ING_OCC
[13:0]. -/
def SEN_DISPQ_STAT : Reg := ⟨0x400120, 0, 1, [⟨29, 16, .ro, 0, .any⟩, ⟨13, 0, .ro, 0, .any⟩]⟩

/-- SEN_BANK_CTL, SEN offset 0x200 + 8 × i, 8 of them (R94, `spec/03_stitch_programming_model.md`): VER_B
[31:28], VER_A [27:24], STATE_B [17:16], STATE_A [15:14], SWAP_SKIPPED [7], SWAP_NOW [3], SWAP_ARM [2], ACTIVE
[0]. -/
def SEN_BANK_CTL : Reg := ⟨0x400200, 8, 8, [⟨31, 28, .ro, 0, .any⟩, ⟨27, 24, .ro, 0, .any⟩, ⟨17, 16, .ro, 0,
  .any⟩, ⟨15, 14, .ro, 0, .any⟩, ⟨7, 7, .w1c, 0, .any⟩, ⟨3, 3, .wo, 0, .any⟩, ⟨2, 2, .rw, 0, .any⟩, ⟨0, 0, .ro,
  0, .any⟩]⟩

/-- SEN_LOAD_ADDR, SEN offset 0x300 (R95, `spec/03_stitch_programming_model.md`): ADDR [63:12]. -/
def SEN_LOAD_ADDR : Reg := ⟨0x400300, 0, 1, [⟨63, 12, .rw, 0, .any⟩]⟩

/-- SEN_LOAD_CTL, SEN offset 0x308 (R95, `spec/03_stitch_programming_model.md`): COURSES [15:8], GO [0]. -/
def SEN_LOAD_CTL : Reg := ⟨0x400308, 0, 1, [⟨15, 8, .rw, 0, .any⟩, ⟨0, 0, .wo, 0, .any⟩]⟩

/-- SEN_LOAD_STAT, SEN offset 0x310 (R95, `spec/03_stitch_programming_model.md`): DONE_MASK [39:32], FAIL_MASK
[23:16], RESULT [3:0]. -/
def SEN_LOAD_STAT : Reg := ⟨0x400310, 0, 1, [⟨39, 32, .ro, 0, .any⟩, ⟨23, 16, .ro, 0, .any⟩, ⟨3, 0, .ro, 0,
  .any⟩]⟩

/-- SEN_EXC_CFG, SEN offset 0x500 + 8 × i, 16 of them (R92, `spec/03_stitch_programming_model.md`): SLICE
[43:32], HANDLER_PC [31:16], ACTION [1:0]. -/
def SEN_EXC_CFG : Reg := ⟨0x400500, 8, 16, [⟨43, 32, .rw, 0, .any⟩, ⟨31, 16, .rw, 0, .any⟩, ⟨1, 0, .rw, 0,
  (.enum 2 0)⟩]⟩

/-- SEN_EXC_COUNT, SEN offset 0x580 + 8 × i, 16 of them (R92, `spec/03_stitch_programming_model.md`): COUNT
[47:0]. -/
def SEN_EXC_COUNT : Reg := ⟨0x400580, 8, 16, [⟨47, 0, .rc, 0, .any⟩]⟩

/-- SEN_SVC_BUDGET, SEN offset 0x600 (R102, `spec/03_stitch_programming_model.md`): ALLOW [19:0]. -/
def SEN_SVC_BUDGET : Reg := ⟨0x400600, 0, 1, [⟨19, 0, .rw, 65536, (.range 1024 1048575)⟩]⟩

/-- SEN_ENGINE_RETIRE_LO, SEN offset 0x700 + 16 × i, 8 of them (R108, `spec/03_stitch_programming_model.md`):
RETIRED [63:0]. -/
def SEN_ENGINE_RETIRE_LO : Reg := ⟨0x400700, 16, 8, [⟨63, 0, .row, 0, .any⟩]⟩

/-- SEN_ENGINE_RETIRE_HI, SEN offset 0x708 + 16 × i, 8 of them (R108, `spec/03_stitch_programming_model.md`):
RETIRED [15:0]. -/
def SEN_ENGINE_RETIRE_HI : Reg := ⟨0x400708, 16, 8, [⟨15, 0, .row, 0, .any⟩]⟩

/-- SEN_SVC_WAKE, SEN offset 0x900 (R105, `spec/03_stitch_programming_model.md`): EVENT [44:13], THREAD [12:3],
COURSE [2:0]. -/
def SEN_SVC_WAKE : Reg := ⟨0x400900, 0, 1, [⟨44, 13, .wo, 0, .any⟩, ⟨12, 3, .wo, 0, .any⟩, ⟨2, 0, .wo, 0,
  .any⟩]⟩

/-- SEN_CNT_SEL, SEN offset 0xA00 (R147, `spec/04_stitch_instruction_reference.md`): CLR [20], INDEX [19:0]. -/
def SEN_CNT_SEL : Reg := ⟨0x400A00, 0, 1, [⟨20, 20, .row, 0, .any⟩, ⟨19, 0, .row, 0, .any⟩]⟩

/-- SEN_CNT_PKT, SEN offset 0xA08 (R147, `spec/04_stitch_instruction_reference.md`): COUNT [63:0]. -/
def SEN_CNT_PKT : Reg := ⟨0x400A08, 0, 1, [⟨63, 0, .ro, 0, .any⟩]⟩

/-- SEN_CNT_BYTE, SEN offset 0xA10 (R147, `spec/04_stitch_instruction_reference.md`): COUNT [63:0]. -/
def SEN_CNT_BYTE : Reg := ⟨0x400A10, 0, 1, [⟨63, 0, .ro, 0, .any⟩]⟩

/-- SEN_STATE_ADDR, SEN offset 0xA20 (R145, `spec/04_stitch_instruction_reference.md`): ADDR [20:0]. -/
def SEN_STATE_ADDR : Reg := ⟨0x400A20, 0, 1, [⟨20, 0, .rw, 0, .any⟩]⟩

/-- SEN_STATE_DATA, SEN offset 0xA28 (R145, `spec/04_stitch_instruction_reference.md`): DATA [63:0]. -/
def SEN_STATE_DATA : Reg := ⟨0x400A28, 0, 1, [⟨63, 0, .row, 0, .any⟩]⟩

/-- SEN_EGR_MTU, SEN offset 0xC00 + 8 × i, 128 of them (R169, `spec/05_parsing_and_rewrite.md`): CHECK [16], MTU
[13:0]. -/
def SEN_EGR_MTU : Reg := ⟨0x400C00, 8, 128, [⟨16, 16, .rw, 1, .any⟩, ⟨13, 0, .rw, 9216, (.range 64 16383)⟩]⟩

/-- SEN_EVT_ROUTE, SEN offset 0x1000 + 8 × i, 512 of them (R106, `spec/03_stitch_programming_model.md`): EN
[15], COURSE [12:10], THREAD [9:0]. -/
def SEN_EVT_ROUTE : Reg := ⟨0x401000, 8, 512, [⟨15, 15, .rw, 0, .any⟩, ⟨12, 10, .rw, 0, .any⟩, ⟨9, 0, .rw, 0,
  (.range 0 639)⟩]⟩

/-- SEN_SVC_CTL, SEN offset 0x10000 + 8 × i, 5120 of them (R100, `spec/03_stitch_programming_model.md`):
START_PC [63:48], OWNED [47], OWNER_SLICE [43:32], INBOX_DROP [31:16], INBOX [15:11], EXC [10:7], STATE [6:4],
STOP [1], START [0]. -/
def SEN_SVC_CTL : Reg := ⟨0x410000, 8, 5120, [⟨63, 48, .rw, 0, .any⟩, ⟨47, 47, .rw, 0, .any⟩, ⟨43, 32, .rw, 0,
  .any⟩, ⟨31, 16, .rc, 0, .any⟩, ⟨15, 11, .ro, 0, .any⟩, ⟨10, 7, .ro, 0, .any⟩, ⟨6, 4, .ro, 0, .any⟩, ⟨1, 1,
  .wo, 0, .any⟩, ⟨0, 0, .wo, 0, .any⟩]⟩

/-- TCM_PPU_SET, TCM offset 0x80000 + 8 × i, 64 of them (R160, `spec/05_parsing_and_rewrite.md`): EN [63], COUNT
[48:32], BASE [15:0]. -/
def TCM_PPU_SET : Reg := ⟨0xA80000, 8, 64, [⟨63, 63, .rw, 0, .any⟩, ⟨48, 32, .rw, 0, .any⟩, ⟨15, 0, .rw, 0,
  .any⟩]⟩

/-- TCM_PPU_DATA, TCM offset 0x80200 + 8 × i, 4 of them (R160, `spec/05_parsing_and_rewrite.md`): BYTES [63:0].
-/
def TCM_PPU_DATA : Reg := ⟨0xA80200, 8, 4, [⟨63, 0, .rw, 0, .any⟩]⟩

/-- TCM_PPU_MASK, TCM offset 0x80220 (R160, `spec/05_parsing_and_rewrite.md`): MASK [31:0]. -/
def TCM_PPU_MASK : Reg := ⟨0xA80220, 0, 1, [⟨31, 0, .rw, 0, .any⟩]⟩

/-- TCM_PPU_ATTR, TCM offset 0x80228 (R160, `spec/05_parsing_and_rewrite.md`): USER [63:48], MAX_OFF [47:39],
MIN_OFF [38:30], LEN [29:24], NOCASE [2], ANCHOR [1], VALID [0]. -/
def TCM_PPU_ATTR : Reg := ⟨0xA80228, 0, 1, [⟨63, 48, .rw, 0, .any⟩, ⟨47, 39, .rw, 0, .any⟩, ⟨38, 30, .rw, 0,
  .any⟩, ⟨29, 24, .rw, 1, (.range 1 32)⟩, ⟨2, 2, .rw, 0, .any⟩, ⟨1, 1, .rw, 0, .any⟩, ⟨0, 0, .rw, 0, .any⟩]⟩

/-- TCM_PPU_CMD, TCM offset 0x80230 (R160, `spec/05_parsing_and_rewrite.md`): BUSY [63], RESULT [58:56], GO
[24], OP [17:16], INDEX [15:0]. -/
def TCM_PPU_CMD : Reg := ⟨0xA80230, 0, 1, [⟨63, 63, .ro, 0, .any⟩, ⟨58, 56, .ro, 0, .any⟩, ⟨24, 24, .wo, 0,
  .any⟩, ⟨17, 16, .rw, 1, (.enum 2 1)⟩, ⟨15, 0, .rw, 0, .any⟩]⟩

/-- TCM_PPU_PERR, TCM offset 0x80238 (R160, `spec/05_parsing_and_rewrite.md`): LAST_INDEX [63:48], COUNT [31:0].
-/
def TCM_PPU_PERR : Reg := ⟨0xA80238, 0, 1, [⟨63, 48, .ro, 0, .any⟩, ⟨31, 0, .rc, 0, .any⟩]⟩

/-- LKP_CMD, LKP offset 0x0 (R196, `spec/06_lookup_tables.md`): BUSY [63], RESULT [62:59], TABLE [55:50], KIND
[49:48], OP [47:45], EPOCH [44], VERSION [43:42], PLEN [39:32], GO [0]. -/
def LKP_CMD : Reg := ⟨0x800000, 0, 1, [⟨63, 63, .ro, 0, .any⟩, ⟨62, 59, .ro, 0, .any⟩, ⟨55, 50, .rw, 0, .any⟩,
  ⟨49, 48, .rw, 0, .any⟩, ⟨47, 45, .rw, 0, (.enum 5 0)⟩, ⟨44, 44, .rw, 0, .any⟩, ⟨43, 42, .rw, 0, (.enum 2 0)⟩,
  ⟨39, 32, .rw, 0, (.range 0 128)⟩, ⟨0, 0, .wo, 0, .any⟩]⟩

/-- LKP_CMD_KEY, LKP offset 0x10 + 8 × i, 4 of them (R196, `spec/06_lookup_tables.md`): KEY [63:0]. -/
def LKP_CMD_KEY : Reg := ⟨0x800010, 8, 4, [⟨63, 0, .rw, 0, .any⟩]⟩

/-- LKP_CMD_NKEY, LKP offset 0x30 + 8 × i, 4 of them (R196, `spec/06_lookup_tables.md`): KEY [63:0]. -/
def LKP_CMD_NKEY : Reg := ⟨0x800030, 8, 4, [⟨63, 0, .rw, 0, .any⟩]⟩

/-- LKP_CMD_DATA0, LKP offset 0x50 (R196, `spec/06_lookup_tables.md`): DATA0 [55:0]. -/
def LKP_CMD_DATA0 : Reg := ⟨0x800050, 0, 1, [⟨55, 0, .rw, 0, .any⟩]⟩

/-- LKP_CMD_DATA1, LKP offset 0x58 (R196, `spec/06_lookup_tables.md`): DATA1 [63:0]. -/
def LKP_CMD_DATA1 : Reg := ⟨0x800058, 0, 1, [⟨63, 0, .rw, 0, .any⟩]⟩

/-- LKP_CMD_ATTR, LKP offset 0x60 (R196, `spec/06_lookup_tables.md`): STATIC [7], AGE [6:4], HIT [3]. -/
def LKP_CMD_ATTR : Reg := ⟨0x800060, 0, 1, [⟨7, 7, .rw, 0, .any⟩, ⟨6, 4, .ro, 0, .any⟩, ⟨3, 3, .ro, 0, .any⟩]⟩

/-- LKP_LEARN_STAT, LKP offset 0xA0 (R212, `spec/06_lookup_tables.md`): OCC [63:47], PAUSED [46]. -/
def LKP_LEARN_STAT : Reg := ⟨0x8000A0, 0, 1, [⟨63, 47, .ro, 0, .any⟩, ⟨46, 46, .ro, 0, .any⟩]⟩

/-- LKP_LEARN_DROP, LKP offset 0xA8 (R212, `spec/06_lookup_tables.md`): QFULL [63:48], TABLE_FULL [47:32],
DAMPED [31:16], DISABLED [15:0]. -/
def LKP_LEARN_DROP : Reg := ⟨0x8000A8, 0, 1, [⟨63, 48, .rc, 0, .any⟩, ⟨47, 32, .rc, 0, .any⟩, ⟨31, 16, .rc, 0,
  .any⟩, ⟨15, 0, .rc, 0, .any⟩]⟩

/-- LKP_NOTIFY0, LKP offset 0x100 (R216, `spec/06_lookup_tables.md`): VALID [63], TYPE [62:60], TABLE [59:53],
OLD_DATA [31:0]. -/
def LKP_NOTIFY0 : Reg := ⟨0x800100, 0, 1, [⟨63, 63, .row, 0, .any⟩, ⟨62, 60, .row, 0, .any⟩, ⟨59, 53, .row, 0,
  .any⟩, ⟨31, 0, .row, 0, .any⟩]⟩

/-- LKP_NOTIFY, LKP offset 0x108 + 8 × i, 5 of them (R216, `spec/06_lookup_tables.md`): DATA [63:0]. -/
def LKP_NOTIFY : Reg := ⟨0x800108, 8, 5, [⟨63, 0, .ro, 0, .any⟩]⟩

/-- LKP_NOTIFY_DROP, LKP offset 0x130 (R216, `spec/06_lookup_tables.md`): COUNT [31:0]. -/
def LKP_NOTIFY_DROP : Reg := ⟨0x800130, 0, 1, [⟨31, 0, .rc, 0, .any⟩]⟩

/-- LKP_PROFILE, LKP offset 0x1000 + 8 × i, 256 of them (R173, `spec/06_lookup_tables.md`): EN [63], KIND
[62:61], TABLE [60:55], TOUCH [54], TCAM_PARAM [53:0]. -/
def LKP_PROFILE : Reg := ⟨0x801000, 8, 256, [⟨63, 63, .rw, 0, .any⟩, ⟨62, 61, .rw, 0, .any⟩, ⟨60, 55, .rw, 0,
  .any⟩, ⟨54, 54, .rw, 0, .any⟩, ⟨53, 0, .rw, 0, .any⟩]⟩

/-- LKP_EM_CFG, LKP offset 0x2000 + 8 × i, 64 of them (R176, `spec/06_lookup_tables.md`): EN [63], WIDE [62],
BASE_BLOCK [55:49], BLOCKS [48:42], KEY_BITS [39:32]. -/
def LKP_EM_CFG : Reg := ⟨0x802000, 8, 64, [⟨63, 63, .row, 0, .any⟩, ⟨62, 62, .rw, 0, .any⟩, ⟨55, 49, .rw, 0,
  (.range 0 95)⟩, ⟨48, 42, .rw, 0, .any⟩, ⟨39, 32, .rw, 1, .any⟩]⟩

/-- LKP_EM_STAT, LKP offset 0x2200 + 8 × i, 64 of them (R183, `spec/06_lookup_tables.md`): USED [54:32], STASH
[24:16], INS_REFUSED [15:0]. -/
def LKP_EM_STAT : Reg := ⟨0x802200, 8, 64, [⟨54, 32, .ro, 0, .any⟩, ⟨24, 16, .ro, 0, .any⟩, ⟨15, 0, .rc, 0,
  .any⟩]⟩

/-- LKP_FLOW_CFG, LKP offset 0x2400 + 16 × i, 4 of them (R185, `spec/06_lookup_tables.md`): EN [63], KEY_BITS
[56:48], LOG2_BUCKETS [44:40]. -/
def LKP_FLOW_CFG : Reg := ⟨0x802400, 16, 4, [⟨63, 63, .row, 0, .any⟩, ⟨56, 48, .rw, 1, (.range 1 256)⟩, ⟨44, 40,
  .rw, 10, (.range 10 27)⟩]⟩

/-- LKP_FLOW_BASE, LKP offset 0x2408 + 16 × i, 4 of them (R185, `spec/06_lookup_tables.md`): ADDR [40:16]. -/
def LKP_FLOW_BASE : Reg := ⟨0x802408, 16, 4, [⟨40, 16, .rw, 0, .any⟩]⟩

/-- LKP_LPM_STAT, LKP offset 0x2500 (R191, `spec/06_lookup_tables.md`): UNITS_USED [23:0]. -/
def LKP_LPM_STAT : Reg := ⟨0x802500, 0, 1, [⟨23, 0, .ro, 0, .any⟩]⟩

/-- LKP_LEARN_CFG, LKP offset 0x3000 + 8 × i, 68 of them (R212, `spec/06_lookup_tables.md`): EN [63], NOTIFY_NEW
[62], NOTIFY_MOVE [61], NOTIFY_DAMP [60], MOVE_LIMIT [55:48], MOVE_WINDOW_MS [47:32], DAMP_HOLD_MS [31:16]. -/
def LKP_LEARN_CFG : Reg := ⟨0x803000, 8, 68, [⟨63, 63, .rw, 0, .any⟩, ⟨62, 62, .rw, 0, .any⟩, ⟨61, 61, .rw, 0,
  .any⟩, ⟨60, 60, .rw, 0, .any⟩, ⟨55, 48, .rw, 3, (.range 1 255)⟩, ⟨47, 32, .rw, 1000, (.range 1 65535)⟩, ⟨31,
  16, .rw, 5000, (.range 1 65535)⟩]⟩

/-- LKP_AGE_CFG, LKP offset 0x3400 + 8 × i, 68 of them (R214, `spec/06_lookup_tables.md`): EN [63], NOTIFY [62],
AGE_MAX [55:53], INTERVAL_MS [31:0]. -/
def LKP_AGE_CFG : Reg := ⟨0x803400, 8, 68, [⟨63, 63, .rw, 0, .any⟩, ⟨62, 62, .rw, 0, .any⟩, ⟨55, 53, .rw, 3,
  (.range 1 7)⟩, ⟨31, 0, .rw, 100000, (.range 10 3600000)⟩]⟩

/-- TCM_CMD, TCM offset 0x0 (R230, `spec/07_tcam.md`): BUSY [63], RESULT [62:59], TABLE [55:52], OP [51:48],
EPOCH [47], VERSION [46:45], DIR [44], INDEX [43:26], NINDEX [25:8], GO [0]. -/
def TCM_CMD : Reg := ⟨0xA00000, 0, 1, [⟨63, 63, .ro, 0, .any⟩, ⟨62, 59, .ro, 0, .any⟩, ⟨55, 52, .rw, 0, .any⟩,
  ⟨51, 48, .rw, 0, (.enum 7 0)⟩, ⟨47, 47, .rw, 0, .any⟩, ⟨46, 45, .rw, 0, (.enum 2 0)⟩, ⟨44, 44, .rw, 0, .any⟩,
  ⟨43, 26, .rw, 0, .any⟩, ⟨25, 8, .rw, 0, .any⟩, ⟨0, 0, .wo, 0, .any⟩]⟩

/-- TCM_CMD_KEY, TCM offset 0x10 + 8 × i, 5 of them (R230, `spec/07_tcam.md`): KEY [63:0]. -/
def TCM_CMD_KEY : Reg := ⟨0xA00010, 8, 5, [⟨63, 0, .rw, 0, .any⟩]⟩

/-- TCM_CMD_MASK, TCM offset 0x40 + 8 × i, 5 of them (R230, `spec/07_tcam.md`): MASK [63:0]. -/
def TCM_CMD_MASK : Reg := ⟨0xA00040, 8, 5, [⟨63, 0, .rw, 0, .any⟩]⟩

/-- TCM_CMD_ASSOC, TCM offset 0x68 (R230, `spec/07_tcam.md`): ASSOC [63:0]. -/
def TCM_CMD_ASSOC : Reg := ⟨0xA00068, 0, 1, [⟨63, 0, .rw, 0, .any⟩]⟩

/-- TCM_CMD_ATTR, TCM offset 0x70 (R230, `spec/07_tcam.md`): QUAR [63], FLAGS [62:58]. -/
def TCM_CMD_ATTR : Reg := ⟨0xA00070, 0, 1, [⟨63, 63, .ro, 0, .any⟩, ⟨62, 58, .ro, 0, .any⟩]⟩

/-- TCM_SLOT_CFG, TCM offset 0x80 (R229, `spec/07_tcam.md`): UPD_SLOTS [3:0]. -/
def TCM_SLOT_CFG : Reg := ⟨0xA00080, 0, 1, [⟨3, 0, .rw, 1, (.range 1 8)⟩]⟩

/-- TCM_VERIFY_STAT, TCM offset 0x88 (R243, `spec/07_tcam.md`): LAST_BANK [63:58], LAST_ROW [57:46], LAST_KIND
[45:44], COUNT [31:0]. -/
def TCM_VERIFY_STAT : Reg := ⟨0xA00088, 0, 1, [⟨63, 58, .ro, 0, .any⟩, ⟨57, 46, .ro, 0, .any⟩, ⟨45, 44, .ro, 0,
  .any⟩, ⟨31, 0, .rc, 0, .any⟩]⟩

/-- TCM_SCRUB_CFG, TCM offset 0x90 (R242, `spec/07_tcam.md`): EN [63], ROWS_PER_MS [19:0]. -/
def TCM_SCRUB_CFG : Reg := ⟨0xA00090, 0, 1, [⟨63, 63, .rw, 1, .any⟩, ⟨19, 0, .rw, 4096, (.range 1 1048575)⟩]⟩

/-- TCM_TABLE_CFG, TCM offset 0x1000 + 8 × i, 16 of them (R221, `spec/07_tcam.md`): EN [63], FIRST_BANK [61:56],
NBANKS [54:48], WIDTH [47:46], SPARE [45:40], SPARE_EN [39], HOLE_SPACING [31:16]. -/
def TCM_TABLE_CFG : Reg := ⟨0xA01000, 8, 16, [⟨63, 63, .row, 0, .any⟩, ⟨61, 56, .rw, 0, .any⟩, ⟨54, 48, .rw, 1,
  .any⟩, ⟨47, 46, .rw, 0, (.enum 2 0)⟩, ⟨45, 40, .rw, 0, .any⟩, ⟨39, 39, .rw, 0, .any⟩, ⟨31, 16, .rw, 0, .any⟩]⟩

/-- TCM_BANK_CFG, TCM offset 0x2000 + 8 × i, 64 of them (R220, `spec/07_tcam.md`): STATE [63:62], PHYS [53:48],
USED [28:16], PF_EN [15], WIDTH [1:0]. -/
def TCM_BANK_CFG : Reg := ⟨0xA02000, 8, 64, [⟨63, 62, .ro, 0, .any⟩, ⟨53, 48, .ro, 0, .any⟩, ⟨28, 16, .ro, 0,
  .any⟩, ⟨15, 15, .rw, 0, .any⟩, ⟨1, 0, .rw, 0, (.enum 2 0)⟩]⟩

/-- TCM_PF_SEL, TCM offset 0x3000 + 8 × i, 64 of them (R237, `spec/07_tcam.md`): SEL [63:0]. -/
def TCM_PF_SEL : Reg := ⟨0xA03000, 8, 64, [⟨63, 0, .rw, 0, .any⟩]⟩

/-- TCM_PF_BLOCK, TCM offset 0x4000 + 8 × i, 2048 of them (R237, `spec/07_tcam.md`): VALUE [15:8], MASK [7:0].
-/
def TCM_PF_BLOCK : Reg := ⟨0xA04000, 8, 2048, [⟨15, 8, .rw, 0, .any⟩, ⟨7, 0, .rw, 0, .any⟩]⟩

/-- LKP_PERR, LKP offset 0x80 (R218, `spec/06_lookup_tables.md`): TABLE [63:57], INDEX [56:28], COUNT [27:0]. -/
def LKP_PERR : Reg := ⟨0x800080, 0, 1, [⟨63, 57, .ro, 0, .any⟩, ⟨56, 28, .ro, 0, .any⟩, ⟨27, 0, .rc, 0, .any⟩]⟩

/-- ERR_LOG0, ERR offset 0x0 (R538, `spec/19_errors_and_degraded_operation.md`): VALID [63], CLASS [62:60],
BLOCK [59:55], KIND [54:51], UNIT [50:41], CODE [40:33], WITHHELD [32], SEQ [31:16]. -/
def ERR_LOG0 : Reg := ⟨0x1800000, 0, 1, [⟨63, 63, .row, 0, .any⟩, ⟨62, 60, .row, 0, .any⟩, ⟨59, 55, .row, 0,
  .any⟩, ⟨54, 51, .row, 0, .any⟩, ⟨50, 41, .row, 0, .any⟩, ⟨40, 33, .row, 0, .any⟩, ⟨32, 32, .row, 0, .any⟩,
  ⟨31, 16, .row, 0, .any⟩]⟩

/-- ERR_LOG1, ERR offset 0x8 (R538, `spec/19_errors_and_degraded_operation.md`): SEC_LO [61:30], NS [29:0]. -/
def ERR_LOG1 : Reg := ⟨0x1800008, 0, 1, [⟨61, 30, .ro, 0, .any⟩, ⟨29, 0, .ro, 0, .any⟩]⟩

/-- ERR_LOG2, ERR offset 0x10 (R538, `spec/19_errors_and_degraded_operation.md`): DETAIL [63:0]. -/
def ERR_LOG2 : Reg := ⟨0x1800010, 0, 1, [⟨63, 0, .ro, 0, .any⟩]⟩

/-- ERR_LOG_DROP, ERR offset 0x18 (R538, `spec/19_errors_and_degraded_operation.md`): COUNT [31:0]. -/
def ERR_LOG_DROP : Reg := ⟨0x1800018, 0, 1, [⟨31, 0, .rc, 0, .any⟩]⟩

/-- ERR_CFG, ERR offset 0x20 (R538, `spec/19_errors_and_degraded_operation.md`): LOG_RETRIED [1], LOG_CORR [0].
-/
def ERR_CFG : Reg := ⟨0x1800020, 0, 1, [⟨1, 1, .rw, 0, .any⟩, ⟨0, 0, .rw, 0, .any⟩]⟩

/-- ERR_INT_STAT, ERR offset 0x30 (R539, `spec/19_errors_and_degraded_operation.md`): SOURCES [14:0]. -/
def ERR_INT_STAT : Reg := ⟨0x1800030, 0, 1, [⟨14, 0, .row, 0, .any⟩]⟩

/-- ERR_INT_EN, ERR offset 0x38 (R539, `spec/19_errors_and_degraded_operation.md`): SOURCES [14:0]. -/
def ERR_INT_EN : Reg := ⟨0x1800038, 0, 1, [⟨14, 0, .rw, 0, .any⟩]⟩

/-- ERR_INT_ALERT, ERR offset 0x40 (R539, `spec/19_errors_and_degraded_operation.md`): SOURCES [14:0]. -/
def ERR_INT_ALERT : Reg := ⟨0x1800040, 0, 1, [⟨14, 0, .rw, 0, .any⟩]⟩

/-- ERR_THRESH, ERR offset 0x100 + 8 × i, 10 of them (R527, `spec/19_errors_and_degraded_operation.md`): AUTO
[63], MIN_LIVE [55:40], WINDOW_MS [39:20], THRESH [19:0]. -/
def ERR_THRESH : Reg := ⟨0x1800100, 8, 10, [⟨63, 63, .rw, 1, .any⟩, ⟨55, 40, .rw, 0, .any⟩, ⟨39, 20, .rw, 1000,
  (.range 1 1000000)⟩, ⟨19, 0, .rw, 4, (.range 1 1048575)⟩]⟩

/-- ERR_UNIT_SEL, ERR offset 0x200 (R537, `spec/19_errors_and_degraded_operation.md`): KIND [19:16], UNIT [9:0].
-/
def ERR_UNIT_SEL : Reg := ⟨0x1800200, 0, 1, [⟨19, 16, .rw, 0, (.range 0 9)⟩, ⟨9, 0, .rw, 0, .any⟩]⟩

/-- ERR_UNIT_STAT, ERR offset 0x208 (R537, `spec/19_errors_and_degraded_operation.md`): STATE [63:62], SOURCE
[61], WIN_COUNT [51:32], TOTAL [31:0]. -/
def ERR_UNIT_STAT : Reg := ⟨0x1800208, 0, 1, [⟨63, 62, .ro, 0, .any⟩, ⟨61, 61, .ro, 0, .any⟩, ⟨51, 32, .ro, 0,
  .any⟩, ⟨31, 0, .rc, 0, .any⟩]⟩

/-- ERR_RETIRE, ERR offset 0x210 (R536, `spec/19_errors_and_degraded_operation.md`): GO [63], KIND [19:16], UNIT
[9:0]. -/
def ERR_RETIRE : Reg := ⟨0x1800210, 0, 1, [⟨63, 63, .wo, 0, .any⟩, ⟨19, 16, .wo, 0, .any⟩, ⟨9, 0, .wo, 0,
  .any⟩]⟩

/-- LIU_PORT_CFG, LIU offset 0x0 + 8 × i, 128 of them (R248, `spec/08_line_interface.md`): EN [63], MAX_FRAME
[39:24], LOOPBACK [19:18], FEC [17:16], MODE [3:0]. -/
def LIU_PORT_CFG : Reg := ⟨0x200000, 8, 128, [⟨63, 63, .row, 0, .any⟩, ⟨39, 24, .rw, 9600, (.range 64 16383)⟩,
  ⟨19, 18, .row, 0, (.enum 2 0)⟩, ⟨17, 16, .row, 0, .any⟩, ⟨3, 0, .row, 0, (.enum 12 0)⟩]⟩

/-- LIU_PORT_STAT, LIU offset 0x400 + 8 × i, 128 of them (R250, `spec/08_line_interface.md`): LINK [63], LF
[62], RF [61], HI_BER [60], FEC_DEGRADE [31:16], DOWN_COUNT [15:0]. -/
def LIU_PORT_STAT : Reg := ⟨0x200400, 8, 128, [⟨63, 63, .ro, 0, .any⟩, ⟨62, 62, .ro, 0, .any⟩, ⟨61, 61, .ro, 0,
  .any⟩, ⟨60, 60, .ro, 0, .any⟩, ⟨31, 16, .rc, 0, .any⟩, ⟨15, 0, .rc, 0, .any⟩]⟩

/-- LIU_CLASS_CFG, LIU offset 0x800 + 8 × i, 128 of them (R252, `spec/08_line_interface.md`): CTRL_EN [63],
CTRL_CLASS [10:8], DEFAULT [4:2], SRC [1:0]. -/
def LIU_CLASS_CFG : Reg := ⟨0x200800, 8, 128, [⟨63, 63, .rw, 1, .any⟩, ⟨10, 8, .rw, 7, .any⟩, ⟨4, 2, .rw, 0,
  .any⟩, ⟨1, 0, .rw, 0, .any⟩]⟩

/-- LIU_TS_ADJ, LIU offset 0xC00 + 8 × i, 128 of them (R255, `spec/08_line_interface.md`): RX_PS [63:32], TX_PS
[31:0]. -/
def LIU_TS_ADJ : Reg := ⟨0x200C00, 8, 128, [⟨63, 32, .rw, 0, (.srange 32 1000000)⟩, ⟨31, 0, .rw, 0, (.srange 32
  1000000)⟩]⟩

/-- LIU_TXTS_PROFILE, LIU offset 0x1000 + 8 × i, 4 of them (R256, `spec/08_line_interface.md`): PROFILES [63:0].
-/
def LIU_TXTS_PROFILE : Reg := ⟨0x201000, 8, 4, [⟨63, 0, .rw, 0, .any⟩]⟩

/-- LIU_TXTS_TIME, LIU offset 0x1400 + 16 × i, 128 of them (R256, `spec/08_line_interface.md`): VALID [63],
SEC_LO [61:30], NS [29:0]. -/
def LIU_TXTS_TIME : Reg := ⟨0x201400, 16, 128, [⟨63, 63, .row, 0, .any⟩, ⟨61, 30, .row, 0, .any⟩, ⟨29, 0, .row,
  0, .any⟩]⟩

/-- LIU_TXTS_TAG, LIU offset 0x1408 + 16 × i, 128 of them (R256, `spec/08_line_interface.md`): DROP [47:32], TAG
[31:0]. -/
def LIU_TXTS_TAG : Reg := ⟨0x201408, 16, 128, [⟨47, 32, .rc, 0, .any⟩, ⟨31, 0, .ro, 0, .any⟩]⟩

/-- LIU_MAC_ERR, LIU offset 0x2000 + 8 × i, 128 of them (R251, `spec/08_line_interface.md`): FCS [47:32], RUNT
[31:16], OVERSIZE [15:0]. -/
def LIU_MAC_ERR : Reg := ⟨0x202000, 8, 128, [⟨47, 32, .rc, 0, .any⟩, ⟨31, 16, .rc, 0, .any⟩, ⟨15, 0, .rc, 0,
  .any⟩]⟩

/-- LIU_FEC_STAT, LIU offset 0x2400 + 8 × i, 128 of them (R250, `spec/08_line_interface.md`): CORRECTED [63:32],
UNCORR [31:0]. -/
def LIU_FEC_STAT : Reg := ⟨0x202400, 8, 128, [⟨63, 32, .rc, 0, .any⟩, ⟨31, 0, .rc, 0, .any⟩]⟩

/-- LIU_LANE_RETIRE, LIU offset 0x2800 + 8 × i, 2 of them (R279, `spec/08_line_interface.md`): RETIRED [63:0].
-/
def LIU_LANE_RETIRE : Reg := ⟨0x202800, 8, 2, [⟨63, 0, .row, 0, .any⟩]⟩

/-- LIU_MSEC_CFG, LIU offset 0x10000 + 8 × i, 128 of them (R257, `spec/08_line_interface.md`): EN [63],
BYPASS_CTRL [62], INCLUDE_SCI [61], CONF [60], CONF_OFFSET [59:58], VALIDATE [57:56], TX_AN [55:54], RX_NEW
[53:52], SWITCH_FAIL [51], RX_OVERLAP_US [39:20], REPLAY_WIN [19:0]. -/
def LIU_MSEC_CFG : Reg := ⟨0x210000, 8, 128, [⟨63, 63, .rw, 0, .any⟩, ⟨62, 62, .rw, 1, .any⟩, ⟨61, 61, .rw, 1,
  .any⟩, ⟨60, 60, .rw, 1, .any⟩, ⟨59, 58, .rw, 0, (.enum 2 0)⟩, ⟨57, 56, .rw, 2, (.enum 2 2)⟩, ⟨55, 54, .ro, 0,
  .any⟩, ⟨53, 52, .ro, 0, .any⟩, ⟨51, 51, .w1c, 0, .any⟩, ⟨39, 20, .rw, 10000, (.range 1 1000000)⟩, ⟨19, 0, .rw,
  0, .any⟩]⟩

/-- LIU_MSEC_TXSCI, LIU offset 0x10400 + 8 × i, 128 of them (R257, `spec/08_line_interface.md`): SCI [63:0]. -/
def LIU_MSEC_TXSCI : Reg := ⟨0x210400, 8, 128, [⟨63, 0, .rw, 0, .any⟩]⟩

/-- LIU_MSEC_RXSCI, LIU offset 0x10800 + 8 × i, 128 of them (R257, `spec/08_line_interface.md`): SCI [63:0]. -/
def LIU_MSEC_RXSCI : Reg := ⟨0x210800, 8, 128, [⟨63, 0, .rw, 0, .any⟩]⟩

/-- LIU_MSEC_SWITCH, LIU offset 0x10C00 (R260, `spec/08_line_interface.md`): DIR [9], AN [8:7], PORT [6:0]. -/
def LIU_MSEC_SWITCH : Reg := ⟨0x210C00, 0, 1, [⟨9, 9, .wo, 0, .any⟩, ⟨8, 7, .wo, 0, .any⟩, ⟨6, 0, .wo, 0,
  .any⟩]⟩

/-- LIU_MSEC_SA, LIU offset 0x11000 + 8 × i, 1024 of them (R258, `spec/08_line_interface.md`): EN [63], SLOT
[47:32], SSCI [31:0]. -/
def LIU_MSEC_SA : Reg := ⟨0x211000, 8, 1024, [⟨63, 63, .row, 0, .any⟩, ⟨47, 32, .rw, 0, .any⟩, ⟨31, 0, .rw, 0,
  .any⟩]⟩

/-- LIU_MSEC_DROP, LIU offset 0x14000 + 8 × i, 128 of them (R261, `spec/08_line_interface.md`): ICV [63:48],
NOSA [47:32], REPLAY [31:16], UNTAGGED [15:0]. -/
def LIU_MSEC_DROP : Reg := ⟨0x214000, 8, 128, [⟨63, 48, .rc, 0, .any⟩, ⟨47, 32, .rc, 0, .any⟩, ⟨31, 16, .rc, 0,
  .any⟩, ⟨15, 0, .rc, 0, .any⟩]⟩

/-- LIU_OTN_CFG, LIU offset 0x20000 + 8 × i, 32 of them (R263, `spec/08_line_interface.md`): TX_SRC [63],
TX_WORD [41:21], SES_PCT [12:8], APS_LEVEL [4:2]. -/
def LIU_OTN_CFG : Reg := ⟨0x220000, 8, 32, [⟨63, 63, .rw, 0, .any⟩, ⟨41, 21, .rw, 0, .any⟩, ⟨12, 8, .rw, 15,
  (.range 1 30)⟩, ⟨4, 2, .rw, 0, .any⟩]⟩

/-- LIU_OTN_DEF, LIU offset 0x20100 + 8 × i, 32 of them (R270, `spec/08_line_interface.md`): OOF_SLICE [15:12],
dBDI [9], dLCK [8], dOCI [7], dAIS [6], dLOM [5], dLOF [4], dOOF [3], dAM [1], dLOS [0]. -/
def LIU_OTN_DEF : Reg := ⟨0x220100, 8, 32, [⟨15, 12, .ro, 0, .any⟩, ⟨9, 9, .ro, 0, .any⟩, ⟨8, 8, .ro, 0, .any⟩,
  ⟨7, 7, .ro, 0, .any⟩, ⟨6, 6, .ro, 0, .any⟩, ⟨5, 5, .ro, 0, .any⟩, ⟨4, 4, .ro, 0, .any⟩, ⟨3, 3, .ro, 0, .any⟩,
  ⟨1, 1, .ro, 0, .any⟩, ⟨0, 0, .ro, 0, .any⟩]⟩

/-- LIU_OTN_TX_CTL, LIU offset 0x20200 + 8 × i, 32 of them (R272, `spec/08_line_interface.md`): APS [63:32], LCK
[3], OCI [2], AIS [1], BDI [0]. -/
def LIU_OTN_TX_CTL : Reg := ⟨0x220200, 8, 32, [⟨63, 32, .rw, 0, .any⟩, ⟨3, 3, .rw, 0, .any⟩, ⟨2, 2, .rw, 0,
  .any⟩, ⟨1, 1, .rw, 0, .any⟩, ⟨0, 0, .rw, 0, .any⟩]⟩

/-- LIU_OTN_APS_RX, LIU offset 0x20300 + 8 × i, 32 of them (R269, `spec/08_line_interface.md`): ACCEPTED
[63:32], CHANGES [15:0]. -/
def LIU_OTN_APS_RX : Reg := ⟨0x220300, 8, 32, [⟨63, 32, .ro, 0, .any⟩, ⟨15, 0, .rc, 0, .any⟩]⟩

/-- LIU_OTN_GMP, LIU offset 0x20400 + 8 × i, 32 of them (R268, `spec/08_line_interface.md`): RX_CM [63:50],
TX_CM [49:36], JC_ERR [31:16]. -/
def LIU_OTN_GMP : Reg := ⟨0x220400, 8, 32, [⟨63, 50, .ro, 0, .any⟩, ⟨49, 36, .ro, 0, .any⟩, ⟨31, 16, .rc, 0,
  .any⟩]⟩

/-- LIU_OTN_PM, LIU offset 0x20500 + 8 × i, 32 of them (R278, `spec/08_line_interface.md`): VALID [63], PARTIAL
[62], FE [61:59], NE [58:56], NE_EB [55:32], SEC_LO [31:0]. -/
def LIU_OTN_PM : Reg := ⟨0x220500, 8, 32, [⟨63, 63, .row, 0, .any⟩, ⟨62, 62, .row, 0, .any⟩, ⟨61, 59, .row, 0,
  .any⟩, ⟨58, 56, .row, 0, .any⟩, ⟨55, 32, .row, 0, .any⟩, ⟨31, 0, .row, 0, .any⟩]⟩

/-- LIU_OTN_PM_CNT, LIU offset 0x21000 + 8 × i, 256 of them (R278, `spec/08_line_interface.md`): COUNT [31:0].
-/
def LIU_OTN_PM_CNT : Reg := ⟨0x221000, 8, 256, [⟨31, 0, .rc, 0, .any⟩]⟩

/-- TMG_TBL_ADDR, TMG offset 0x0 (R281, `spec/09_traffic_manager.md`): AUTO_INC [63], TABLE [35:32], INDEX
[18:0]. -/
def TMG_TBL_ADDR : Reg := ⟨0xC00000, 0, 1, [⟨63, 63, .rw, 0, .any⟩, ⟨35, 32, .rw, 0, .any⟩, ⟨18, 0, .rw, 0,
  .any⟩]⟩

/-- TMG_TBL_DATA, TMG offset 0x8 (R281, `spec/09_traffic_manager.md`): DATA [63:0]. -/
def TMG_TBL_DATA : Reg := ⟨0xC00008, 0, 1, [⟨63, 0, .row, 0, .any⟩]⟩

/-- TMG_BUF_CFG, TMG offset 0x100 (R301, `spec/09_traffic_manager.md`): SRAM_POOL [11:8], HBM_POOL [3:0]. -/
def TMG_BUF_CFG : Reg := ⟨0xC00100, 0, 1, [⟨11, 8, .rw, 0, .any⟩, ⟨3, 0, .rw, 1, .any⟩]⟩

/-- TMG_BUF_STAT, TMG offset 0x108 (R301, `spec/09_traffic_manager.md`): SRAM_CELLS [63:32], HBM_CELLS [31:0].
-/
def TMG_BUF_STAT : Reg := ⟨0xC00108, 0, 1, [⟨63, 32, .ro, 0, .any⟩, ⟨31, 0, .ro, 0, .any⟩]⟩

/-- TMG_SHAPE_APPLY, TMG offset 0x110 (R307, `spec/09_traffic_manager.md`): BATCH [7:0]. -/
def TMG_SHAPE_APPLY : Reg := ⟨0xC00110, 0, 1, [⟨7, 0, .wo, 0, .any⟩]⟩

/-- TMG_CT_CFG, TMG offset 0x118 (R310, `spec/09_traffic_manager.md`): FAB_CT_EN [63], FAB_TC_MASK [62:55]. -/
def TMG_CT_CFG : Reg := ⟨0xC00118, 0, 1, [⟨63, 63, .rw, 0, .any⟩, ⟨62, 55, .rw, 255, .any⟩]⟩

/-- TMG_BINDOFF_CMD, TMG offset 0x120 (R322, `spec/09_traffic_manager.md`): BUSY [63], GO [40], COUNT [39:20],
FIRST [18:0]. -/
def TMG_BINDOFF_CMD : Reg := ⟨0xC00120, 0, 1, [⟨63, 63, .ro, 0, .any⟩, ⟨40, 40, .wo, 0, .any⟩, ⟨39, 20, .rw, 1,
  .any⟩, ⟨18, 0, .rw, 0, .any⟩]⟩

/-- TMG_CT_STAT, TMG offset 0x128 (R313, `spec/09_traffic_manager.md`): FAB_ABORT [63:32], LOCAL_STOMP [31:0].
-/
def TMG_CT_STAT : Reg := ⟨0xC00128, 0, 1, [⟨63, 32, .rc, 0, .any⟩, ⟨31, 0, .rc, 0, .any⟩]⟩

/-- TMG_DROP, TMG offset 0x200 + 8 × i, 16 of them (R299, `spec/09_traffic_manager.md`): COUNT [47:0]. -/
def TMG_DROP : Reg := ⟨0xC00200, 8, 16, [⟨47, 0, .rc, 0, .any⟩]⟩

/-- TMG_CAP_BASE, TMG offset 0x300 (R326, `spec/09_traffic_manager.md`): ADDR [40:12]. -/
def TMG_CAP_BASE : Reg := ⟨0xC00300, 0, 1, [⟨40, 12, .rw, 0, .any⟩]⟩

/-- TMG_CAP_CFG, TMG offset 0x308 (R326, `spec/09_traffic_manager.md`): EN [63], REC_SIZE [62:61], LOG2_RECORDS
[60:56], DROP_N [23:0]. -/
def TMG_CAP_CFG : Reg := ⟨0xC00308, 0, 1, [⟨63, 63, .row, 0, .any⟩, ⟨62, 61, .rw, 1, .any⟩, ⟨60, 56, .rw, 10,
  (.range 6 28)⟩, ⟨23, 0, .rw, 0, .any⟩]⟩

/-- TMG_CAP_HEAD, TMG offset 0x310 (R326, `spec/09_traffic_manager.md`): WRAP [63], INDEX [27:0]. -/
def TMG_CAP_HEAD : Reg := ⟨0xC00310, 0, 1, [⟨63, 63, .ro, 0, .any⟩, ⟨27, 0, .ro, 0, .any⟩]⟩

/-- TMG_CAP_TAIL, TMG offset 0x318 (R326, `spec/09_traffic_manager.md`): WRAP [63], INDEX [27:0]. -/
def TMG_CAP_TAIL : Reg := ⟨0xC00318, 0, 1, [⟨63, 63, .row, 0, .any⟩, ⟨27, 0, .row, 0, .any⟩]⟩

/-- TMG_CAP_STAT, TMG offset 0x320 (R326, `spec/09_traffic_manager.md`): FULL_DROP [63:32], RATE_DROP [31:0]. -/
def TMG_CAP_STAT : Reg := ⟨0xC00320, 0, 1, [⟨63, 32, .rc, 0, .any⟩, ⟨31, 0, .rc, 0, .any⟩]⟩

/-- TMG_PORT_CFG, TMG offset 0x1000 + 8 × i, 128 of them (R287, `spec/09_traffic_manager.md`): SERVE [63], CT_EN
[62], CT_TC_MASK [61:54], OVERHEAD [45:40]. -/
def TMG_PORT_CFG : Reg := ⟨0xC01000, 8, 128, [⟨63, 63, .rw, 0, .any⟩, ⟨62, 62, .rw, 0, .any⟩, ⟨61, 54, .rw, 255,
  .any⟩, ⟨45, 40, .rw, 24, .any⟩]⟩

/-- TMG_PORT_SHAPE, TMG offset 0x1400 + 8 × i, 128 of them (R304, `spec/09_traffic_manager.md`): PIR [63:40],
CIR [39:16], PBS_EXP [15:11], CBS_EXP [10:6]. -/
def TMG_PORT_SHAPE : Reg := ⟨0xC01400, 8, 128, [⟨63, 40, .rw, 0, (.range 0 8000000)⟩, ⟨39, 16, .rw, 0, (.range 0
  8000000)⟩, ⟨15, 11, .rw, 16, (.range 8 24)⟩, ⟨10, 6, .rw, 16, (.range 8 24)⟩]⟩

/-- TMG_PORT_STAT, TMG offset 0x1800 + 8 × i, 128 of them (R321, `spec/09_traffic_manager.md`): STATE [63:62],
FLUSHED [47:24], STOMPED [23:0]. -/
def TMG_PORT_STAT : Reg := ⟨0xC01800, 8, 128, [⟨63, 62, .ro, 2, .any⟩, ⟨47, 24, .rc, 0, .any⟩, ⟨23, 0, .rc, 0,
  .any⟩]⟩

/-- TMG_GCL_CFG, TMG offset 0x1C00 + 8 × i, 128 of them (R314, `spec/09_traffic_manager.md`): EN [63], OPER
[62], SWAP_NOW [61], STAGED_LEN [48:40], OPER_LEN [32:24]. -/
def TMG_GCL_CFG : Reg := ⟨0xC01C00, 8, 128, [⟨63, 63, .rw, 0, .any⟩, ⟨62, 62, .ro, 0, .any⟩, ⟨61, 61, .wo, 0,
  .any⟩, ⟨48, 40, .rw, 1, (.range 1 256)⟩, ⟨32, 24, .ro, 1, .any⟩]⟩

/-- TMG_ADM_CFG, TMG offset 0x2000 + 8 × i, 256 of them (R296, `spec/09_traffic_manager.md`): LIMIT [63:36],
EWMA_EXP [35:32], SPILL [31:4]. -/
def TMG_ADM_CFG : Reg := ⟨0xC02000, 8, 256, [⟨63, 36, .rw, 65536, (.range 1 268435455)⟩, ⟨35, 32, .rw, 9, .any⟩,
  ⟨31, 4, .rw, 4096, .any⟩]⟩

/-- TMG_ADM_WRED, TMG offset 0x2800 + 8 × i, 1024 of them (R297, `spec/09_traffic_manager.md`): MAXP [63:56],
MAX [55:28], MIN [27:0]. -/
def TMG_ADM_WRED : Reg := ⟨0xC02800, 8, 1024, [⟨63, 56, .rw, 0, .any⟩, ⟨55, 28, .rw, 268435455, .any⟩, ⟨27, 0,
  .rw, 268435455, .any⟩]⟩

/-- TMG_MIR_SESSION, TMG offset 0x5000 + 8 × i, 256 of them (R323, `spec/09_traffic_manager.md`): EN [63], DEST
[62], QUEUE [61:43], SNAP_LEN [42:34], DST_DEVICE [33:23], DST_PORT [22:16]. -/
def TMG_MIR_SESSION : Reg := ⟨0xC05000, 8, 256, [⟨63, 63, .rw, 0, .any⟩, ⟨62, 62, .rw, 0, .any⟩, ⟨61, 43, .rw,
  0, .any⟩, ⟨42, 34, .rw, 64, (.range 0 480)⟩, ⟨33, 23, .rw, 0, .any⟩, ⟨22, 16, .rw, 0, .any⟩]⟩

/-- TMG_SAMPLE_CFG, TMG offset 0x5800 + 8 × i, 128 of them (R325, `spec/09_traffic_manager.md`): EN [63], MODE
[62:61], SNAP_LEN [60:52], N [23:0]. -/
def TMG_SAMPLE_CFG : Reg := ⟨0xC05800, 8, 128, [⟨63, 63, .rw, 0, .any⟩, ⟨62, 61, .rw, 0, (.enum 2 0)⟩, ⟨60, 52,
  .rw, 64, (.range 0 480)⟩, ⟨23, 0, .rw, 1, (.range 1 16777215)⟩]⟩

/-- TMG_GCL_CYCLE, TMG offset 0x5C00 + 8 × i, 128 of them (R315, `spec/09_traffic_manager.md`): OPER_CYCLE_NS
[63:32], STAGED_CYCLE_NS [31:0]. -/
def TMG_GCL_CYCLE : Reg := ⟨0xC05C00, 8, 128, [⟨63, 32, .ro, 0, .any⟩, ⟨31, 0, .rw, 0, .any⟩]⟩

/-- TMG_GCL, TMG offset 0x200000 + 8 × i, 65536 of them (R315, `spec/09_traffic_manager.md`): GATES [63:56],
INTERVAL_NS [31:0]. -/
def TMG_GCL : Reg := ⟨0xE00000, 8, 65536, [⟨63, 56, .rw, 0, .any⟩, ⟨31, 0, .rw, 10, (.range 10 1000000000)⟩]⟩

/-- TMG_Q_CFG, TBL offset 0x0 + 8 × i, 524288 of them (R284, `spec/09_traffic_manager.md`): EN [63], KIND [62],
GATE_CLASS [61:59], PRIO [58:56], WEIGHT [55:44], ADM_PROFILE [43:36], DST_DEVICE [29:19], TARGET [18:0]. -/
def TMG_Q_CFG : Reg := ⟨0x20000000, 8, 524288, [⟨63, 63, .rw, 0, .any⟩, ⟨62, 62, .rw, 0, .any⟩, ⟨61, 59, .rw, 0,
  .any⟩, ⟨58, 56, .rw, 0, .any⟩, ⟨55, 44, .rw, 1, (.range 1 4095)⟩, ⟨43, 36, .rw, 0, .any⟩, ⟨29, 19, .rw, 0,
  .any⟩, ⟨18, 0, .rw, 0, .any⟩]⟩

/-- TMG_Q_SHAPE, TBL offset 0x800000 + 8 × i, 524288 of them (R304, `spec/09_traffic_manager.md`): PIR [63:40],
CIR [39:16], PBS_EXP [15:11], CBS_EXP [10:6]. -/
def TMG_Q_SHAPE : Reg := ⟨0x20800000, 8, 524288, [⟨63, 40, .rw, 0, (.range 0 8000000)⟩, ⟨39, 16, .rw, 0, (.range
  0 8000000)⟩, ⟨15, 11, .rw, 16, (.range 8 24)⟩, ⟨10, 6, .rw, 16, (.range 8 24)⟩]⟩

/-- TMG_CS_CFG, TBL offset 0x1800000 + 8 × i, 131072 of them (R286, `spec/09_traffic_manager.md`): SERVE [63],
PRIO [58:56], WEIGHT [55:44], PARENT [16:0]. -/
def TMG_CS_CFG : Reg := ⟨0x21800000, 8, 131072, [⟨63, 63, .rw, 0, .any⟩, ⟨58, 56, .rw, 0, .any⟩, ⟨55, 44, .rw,
  1, (.range 1 4095)⟩, ⟨16, 0, .rw, 0, (.range 0 32767)⟩]⟩

/-- TMG_CS_SHAPE, TBL offset 0x2000000 + 8 × i, 131072 of them (R304, `spec/09_traffic_manager.md`): PIR
[63:40], CIR [39:16], PBS_EXP [15:11], CBS_EXP [10:6]. -/
def TMG_CS_SHAPE : Reg := ⟨0x22000000, 8, 131072, [⟨63, 40, .rw, 0, (.range 0 8000000)⟩, ⟨39, 16, .rw, 0,
  (.range 0 8000000)⟩, ⟨15, 11, .rw, 16, (.range 8 24)⟩, ⟨10, 6, .rw, 16, (.range 8 24)⟩]⟩

/-- TMG_GRP_CFG, TBL offset 0x2800000 + 8 × i, 32768 of them (R286, `spec/09_traffic_manager.md`): SERVE [63],
PRIO [58:56], WEIGHT [55:44], PARENT [16:0]. -/
def TMG_GRP_CFG : Reg := ⟨0x22800000, 8, 32768, [⟨63, 63, .rw, 0, .any⟩, ⟨58, 56, .rw, 0, .any⟩, ⟨55, 44, .rw,
  1, (.range 1 4095)⟩, ⟨16, 0, .rw, 0, (.range 0 4095)⟩]⟩

/-- TMG_GRP_SHAPE, TBL offset 0x3000000 + 8 × i, 32768 of them (R304, `spec/09_traffic_manager.md`): PIR
[63:40], CIR [39:16], PBS_EXP [15:11], CBS_EXP [10:6]. -/
def TMG_GRP_SHAPE : Reg := ⟨0x23000000, 8, 32768, [⟨63, 40, .rw, 0, (.range 0 8000000)⟩, ⟨39, 16, .rw, 0,
  (.range 0 8000000)⟩, ⟨15, 11, .rw, 16, (.range 8 24)⟩, ⟨10, 6, .rw, 16, (.range 8 24)⟩]⟩

/-- TMG_SP_CFG, TBL offset 0x3800000 + 8 × i, 4096 of them (R286, `spec/09_traffic_manager.md`): SERVE [63],
PRIO [58:56], WEIGHT [55:44], PARENT [16:0]. -/
def TMG_SP_CFG : Reg := ⟨0x23800000, 8, 4096, [⟨63, 63, .rw, 0, .any⟩, ⟨58, 56, .rw, 0, .any⟩, ⟨55, 44, .rw, 1,
  (.range 1 4095)⟩, ⟨16, 0, .rw, 0, (.range 0 127)⟩]⟩

/-- TMG_SP_SHAPE, TBL offset 0x4000000 + 8 × i, 4096 of them (R304, `spec/09_traffic_manager.md`): PIR [63:40],
CIR [39:16], PBS_EXP [15:11], CBS_EXP [10:6]. -/
def TMG_SP_SHAPE : Reg := ⟨0x24000000, 8, 4096, [⟨63, 40, .rw, 0, (.range 0 8000000)⟩, ⟨39, 16, .rw, 0, (.range
  0 8000000)⟩, ⟨15, 11, .rw, 16, (.range 8 24)⟩, ⟨10, 6, .rw, 16, (.range 8 24)⟩]⟩

/-- TMG_MC_HEAD, TBL offset 0x4800000 + 8 × i, 16384 of them (R292, `spec/09_traffic_manager.md`): EN [63],
FIRST [49:32], COUNT [8:0]. -/
def TMG_MC_HEAD : Reg := ⟨0x24800000, 8, 16384, [⟨63, 63, .rw, 0, .any⟩, ⟨49, 32, .rw, 0, .any⟩, ⟨8, 0, .rw, 1,
  (.range 1 256)⟩]⟩

/-- TMG_MC_ENTRY, TBL offset 0x5000000 + 8 × i, 262144 of them (R293, `spec/09_traffic_manager.md`): VALID [63],
QUEUE [62:44], DST_DEVICE [43:33], DST_PORT [32:26]. -/
def TMG_MC_ENTRY : Reg := ⟨0x25000000, 8, 262144, [⟨63, 63, .rw, 0, .any⟩, ⟨62, 44, .rw, 0, .any⟩, ⟨43, 33, .rw,
  0, .any⟩, ⟨32, 26, .rw, 0, .any⟩]⟩

/-- TMG_SHAPE_STAGE_NODE, TBL offset 0x5800000 + 8 × i, 16384 of them (R306, `spec/09_traffic_manager.md`):
VALID [63], BATCH [62:55], LEVEL [54:52], NODE [18:0]. -/
def TMG_SHAPE_STAGE_NODE : Reg := ⟨0x25800000, 8, 16384, [⟨63, 63, .rw, 0, .any⟩, ⟨62, 55, .rw, 0, .any⟩, ⟨54,
  52, .rw, 1, (.range 1 5)⟩, ⟨18, 0, .rw, 0, .any⟩]⟩

/-- TMG_SHAPE_STAGE_VAL, TBL offset 0x6000000 + 8 × i, 16384 of them (R306, `spec/09_traffic_manager.md`): PIR
[63:40], CIR [39:16], PBS_EXP [15:11], CBS_EXP [10:6]. -/
def TMG_SHAPE_STAGE_VAL : Reg := ⟨0x26000000, 8, 16384, [⟨63, 40, .rw, 0, (.range 0 8000000)⟩, ⟨39, 16, .rw, 0,
  (.range 0 8000000)⟩, ⟨15, 11, .rw, 16, (.range 8 24)⟩, ⟨10, 6, .rw, 16, (.range 8 24)⟩]⟩

/-- BPM_CMD, BPM offset 0x0 (R345, `spec/10_billet_pools.md`): BUSY [63], RESULT [62:59], OP [55:52], POOL_MASK
[51:36], SIZE [35:21], GO [0]. -/
def BPM_CMD : Reg := ⟨0x1000000, 0, 1, [⟨63, 63, .ro, 0, .any⟩, ⟨62, 59, .ro, 0, .any⟩, ⟨55, 52, .rw, 4, (.enum
  4 4)⟩, ⟨51, 36, .rw, 0, .any⟩, ⟨35, 21, .rw, 1, (.range 1 16384)⟩, ⟨0, 0, .wo, 0, .any⟩]⟩

/-- BPM_CMD_HANDLE, BPM offset 0x8 (R345, `spec/10_billet_pools.md`): POOL [35:32], INDEX [31:0]. -/
def BPM_CMD_HANDLE : Reg := ⟨0x1000008, 0, 1, [⟨35, 32, .rw, 0, .any⟩, ⟨31, 0, .rw, 0, .any⟩]⟩

/-- BPM_CMD_ARG, BPM offset 0x10 (R345, `spec/10_billet_pools.md`): N [27:16], ALLOC [15], RETIRED [14], OWNER
[13:0]. -/
def BPM_CMD_ARG : Reg := ⟨0x1000010, 0, 1, [⟨27, 16, .rw, 0, (.range 1 4095)⟩, ⟨15, 15, .ro, 0, .any⟩, ⟨14, 14,
  .ro, 0, .any⟩, ⟨13, 0, .rw, 0, .any⟩]⟩

/-- BPM_CMD_ADDR, BPM offset 0x18 (R345, `spec/10_billet_pools.md`): ADDR [40:0]. -/
def BPM_CMD_ADDR : Reg := ⟨0x1000018, 0, 1, [⟨40, 0, .ro, 0, .any⟩]⟩

/-- BPM_ERR_LOG, BPM offset 0x100 + 8 × i, 3 of them (R344, `spec/10_billet_pools.md`): RECORD [63:0]. -/
def BPM_ERR_LOG : Reg := ⟨0x1000100, 8, 3, [⟨63, 0, .row, 0, .any⟩]⟩

/-- BPM_ERR_DROP, BPM offset 0x118 (R344, `spec/10_billet_pools.md`): COUNT [31:0]. -/
def BPM_ERR_DROP : Reg := ⟨0x1000118, 0, 1, [⟨31, 0, .rc, 0, .any⟩]⟩

/-- BPM_STATUS, BPM offset 0x200 (R338, `spec/10_billet_pools.md`): EXH [31:16], WARN [15:0]. -/
def BPM_STATUS : Reg := ⟨0x1000200, 0, 1, [⟨31, 16, .w1c, 0, .any⟩, ⟨15, 0, .w1c, 0, .any⟩]⟩

/-- BPM_POOL_CFG, BPM offset 0x1000 + 64 × i, 16 of them (R332, `spec/10_billet_pools.md`): EN [63], LOC
[62:61], MODE [60], SIZE_EXP [59:56], COUNT [31:0]. -/
def BPM_POOL_CFG : Reg := ⟨0x1001000, 64, 16, [⟨63, 63, .row, 0, .any⟩, ⟨62, 61, .rw, 0, (.enum 2 0)⟩, ⟨60, 60,
  .rw, 0, .any⟩, ⟨59, 56, .rw, 6, (.range 6 14)⟩, ⟨31, 0, .rw, 0, .any⟩]⟩

/-- BPM_POOL_BASE, BPM offset 0x1008 + 64 × i, 16 of them (R332, `spec/10_billet_pools.md`): ADDR [40:12]. -/
def BPM_POOL_BASE : Reg := ⟨0x1001008, 64, 16, [⟨40, 12, .rw, 0, .any⟩]⟩

/-- BPM_POOL_THR, BPM offset 0x1010 + 64 × i, 16 of them (R338, `spec/10_billet_pools.md`): WARN_ON [63:32],
WARN_OFF [31:0]. -/
def BPM_POOL_THR : Reg := ⟨0x1001010, 64, 16, [⟨63, 32, .rw, 0, .any⟩, ⟨31, 0, .rw, 0, .any⟩]⟩

/-- BPM_POOL_STAT, BPM offset 0x1018 + 64 × i, 16 of them (R338, `spec/10_billet_pools.md`): STATE [63:62],
RETIRED [61:32], FREE [31:0]. -/
def BPM_POOL_STAT : Reg := ⟨0x1001018, 64, 16, [⟨63, 62, .ro, 0, .any⟩, ⟨61, 32, .ro, 0, .any⟩, ⟨31, 0, .ro, 0,
  .any⟩]⟩

/-- BPM_POOL_CNT, BPM offset 0x1020 + 64 × i, 16 of them (R338, `spec/10_billet_pools.md`): WARN_ENTRIES
[63:32], REFUSED [31:0]. -/
def BPM_POOL_CNT : Reg := ⟨0x1001020, 64, 16, [⟨63, 32, .rc, 0, .any⟩, ⟨31, 0, .rc, 0, .any⟩]⟩

/-- FAB_CTL, FAB offset 0x0 (R363, `spec/11_fabric_interface.md`): RESEQ_US [31:16], RX_FMT [11:8], TX_FMT
[7:4], STATE [3:2], EN [0]. -/
def FAB_CTL : Reg := ⟨0x1100000, 0, 1, [⟨31, 16, .rw, 20, (.range 1 1000)⟩, ⟨11, 8, .rw, 2, (.range 1 15)⟩, ⟨7,
  4, .rw, 2, (.range 1 15)⟩, ⟨3, 2, .ro, 0, .any⟩, ⟨0, 0, .row, 0, .any⟩]⟩

/-- FAB_CRED_CFG, FAB offset 0x8 (R362, `spec/11_fabric_interface.md`): GRANT_STOP [63:48], QUANTUM [47:40],
REQ_DELTA [39:24], REQ_REFRESH_US [23:12], GRANT_PCT [7:0]. -/
def FAB_CRED_CFG : Reg := ⟨0x1100008, 0, 1, [⟨63, 48, .rw, 2048, (.range 1 65535)⟩, ⟨47, 40, .rw, 16, (.range 1
  255)⟩, ⟨39, 24, .rw, 64, (.range 1 65535)⟩, ⟨23, 12, .rw, 100, (.range 1 4095)⟩, ⟨7, 0, .rw, 110, (.range 100
  200)⟩]⟩

/-- FAB_LINK_RETIRE, FAB offset 0x100 + 8 × i, 3 of them (R365, `spec/11_fabric_interface.md`): RETIRED [63:0].
-/
def FAB_LINK_RETIRE : Reg := ⟨0x1100100, 8, 3, [⟨63, 0, .row, 0, .any⟩]⟩

/-- FAB_RX_DROP0, FAB offset 0x200 (R359, `spec/11_fabric_interface.md`): FMT [63:32], MISDIR [31:0]. -/
def FAB_RX_DROP0 : Reg := ⟨0x1100200, 0, 1, [⟨63, 32, .rc, 0, .any⟩, ⟨31, 0, .rc, 0, .any⟩]⟩

/-- FAB_RX_DROP1, FAB offset 0x208 (R359, `spec/11_fabric_interface.md`): ABORT [63:32], LOST [31:0]. -/
def FAB_RX_DROP1 : Reg := ⟨0x1100208, 0, 1, [⟨63, 32, .rc, 0, .any⟩, ⟨31, 0, .rc, 0, .any⟩]⟩

/-- FAB_RX_DROP2, FAB offset 0x210 (R359, `spec/11_fabric_interface.md`): LATE [31:0]. -/
def FAB_RX_DROP2 : Reg := ⟨0x1100210, 0, 1, [⟨31, 0, .rc, 0, .any⟩]⟩

/-- FAB_DEMAND_STAT, FAB offset 0x218 (R362, `spec/11_fabric_interface.md`): USED [48:32], FULL_DROP [31:0]. -/
def FAB_DEMAND_STAT : Reg := ⟨0x1100218, 0, 1, [⟨48, 32, .ro, 0, .any⟩, ⟨31, 0, .rc, 0, .any⟩]⟩

/-- FAB_LINK, FAB offset 0x1000 + 8 × i, 192 of them (R348, `spec/11_fabric_interface.md`): STATE [63:62],
REPLAYS [47:32], CRC_ERR [31:16], DOWN_COUNT [15:0]. -/
def FAB_LINK : Reg := ⟨0x1101000, 8, 192, [⟨63, 62, .ro, 0, .any⟩, ⟨47, 32, .rc, 0, .any⟩, ⟨31, 16, .rc, 0,
  .any⟩, ⟨15, 0, .rc, 0, .any⟩]⟩

/-- MCD_STATUS, MCD offset 0x0 (R369, `spec/12_memory_controllers.md`): READY [63], CFG_ERR [62], HOT [61],
FREQ_REFUSED [60], FSP_CUR [59:58], PEND [57]. -/
def MCD_STATUS : Reg := ⟨0x1200000, 0, 1, [⟨63, 63, .ro, 0, .any⟩, ⟨62, 62, .ro, 0, .any⟩, ⟨61, 61, .ro, 0,
  .any⟩, ⟨60, 60, .w1c, 0, .any⟩, ⟨59, 58, .ro, 0, .any⟩, ⟨57, 57, .ro, 0, .any⟩]⟩

/-- MCD_GEOM, MCD offset 0x8 (R370, `spec/12_memory_controllers.md`): CHANNELS [63:56], DIMMS [55:54], RANKS
[53:52], ROW_BITS [51:47], SIZE_MIB [21:0]. -/
def MCD_GEOM : Reg := ⟨0x1200008, 0, 1, [⟨63, 56, .ro, 0, .any⟩, ⟨55, 54, .ro, 0, .any⟩, ⟨53, 52, .ro, 0, .any⟩,
  ⟨51, 47, .ro, 0, .any⟩, ⟨21, 0, .ro, 0, .any⟩]⟩

/-- MCD_FREQ_CTL, MCD offset 0x10 (R379, `spec/12_memory_controllers.md`): TRAINED [63:60], REQ [1:0]. -/
def MCD_FREQ_CTL : Reg := ⟨0x1200010, 0, 1, [⟨63, 60, .ro, 0, .any⟩, ⟨1, 0, .row, 0, .any⟩]⟩

/-- MCD_PAGE_CFG, MCD offset 0x18 (R374, `spec/12_memory_controllers.md`): POLICY [33:32], IDLE_CLOSE_NS [15:0].
-/
def MCD_PAGE_CFG : Reg := ⟨0x1200018, 0, 1, [⟨33, 32, .rw, 0, (.enum 2 0)⟩, ⟨15, 0, .rw, 200, (.range 10
  65535)⟩]⟩

/-- MCD_REF_CFG, MCD offset 0x20 (R376, `spec/12_memory_controllers.md`): POLL_US [57:48], HOT_C [47:40],
PULL_MAX [34:32], POST_MAX [26:24]. -/
def MCD_REF_CFG : Reg := ⟨0x1200020, 0, 1, [⟨57, 48, .rw, 250, (.range 10 1000)⟩, ⟨47, 40, .rw, 85, (.range 70
  95)⟩, ⟨34, 32, .rw, 3, (.range 0 3)⟩, ⟨26, 24, .rw, 3, (.range 0 3)⟩]⟩

/-- MCD_TRAIN_CTL, MCD offset 0x28 (R380, `spec/12_memory_controllers.md`): BUSY [63], RESULT [62:60], CH
[38:32], RETRAIN_MS [21:8], ABORT [1], GO [0]. -/
def MCD_TRAIN_CTL : Reg := ⟨0x1200028, 0, 1, [⟨63, 63, .ro, 0, .any⟩, ⟨62, 60, .ro, 0, .any⟩, ⟨38, 32, .rw, 0,
  .any⟩, ⟨21, 8, .rw, 100, (.range 10 10000)⟩, ⟨1, 1, .wo, 0, .any⟩, ⟨0, 0, .wo, 0, .any⟩]⟩

/-- MCD_PWR_CTL, MCD offset 0x30 (R384, `spec/12_memory_controllers.md`): AUTO_SR_US [15:0]. -/
def MCD_PWR_CTL : Reg := ⟨0x1200030, 0, 1, [⟨15, 0, .rw, 0, .any⟩]⟩

/-- MCD_SCRUB_CFG, MCD offset 0x38 (R387, `spec/12_memory_controllers.md`): EN [63], PASS_H [15:0]. -/
def MCD_SCRUB_CFG : Reg := ⟨0x1200038, 0, 1, [⟨63, 63, .rw, 1, .any⟩, ⟨15, 0, .rw, 24, (.range 1 168)⟩]⟩

/-- MCD_ECC_STAT, MCD offset 0x40 (R386, `spec/12_memory_controllers.md`): CORR [63:32], UNCORR [31:0]. -/
def MCD_ECC_STAT : Reg := ⟨0x1200040, 0, 1, [⟨63, 32, .rc, 0, .any⟩, ⟨31, 0, .rc, 0, .any⟩]⟩

/-- MCD_ECC_ADDR, MCD offset 0x48 (R386, `spec/12_memory_controllers.md`): KIND [63:62], CH [61:55], ADDR
[40:0]. -/
def MCD_ECC_ADDR : Reg := ⟨0x1200048, 0, 1, [⟨63, 62, .ro, 0, .any⟩, ⟨61, 55, .ro, 0, .any⟩, ⟨40, 0, .ro, 0,
  .any⟩]⟩

/-- MCD_MAP_CTL, MCD offset 0x50 (R373, `spec/12_memory_controllers.md`): LOCK [0]. -/
def MCD_MAP_CTL : Reg := ⟨0x1200050, 0, 1, [⟨0, 0, .w1s, 0, .any⟩]⟩

/-- MCD_XOR, MCD offset 0x100 + 8 × i, 12 of them (R372, `spec/12_memory_controllers.md`): MASK [40:0]. -/
def MCD_XOR : Reg := ⟨0x1200100, 8, 12, [⟨40, 0, .rw, 0, .any⟩]⟩

/-- MCD_CH_STAT, MCD offset 0x1000 + 8 × i, 8 of them (R386, `spec/12_memory_controllers.md`): STATE [63:61],
HOT [60], CORR [31:16], UNCORR [15:0]. -/
def MCD_CH_STAT : Reg := ⟨0x1201000, 8, 8, [⟨63, 61, .ro, 5, .any⟩, ⟨60, 60, .ro, 0, .any⟩, ⟨31, 16, .rc, 0,
  .any⟩, ⟨15, 0, .rc, 0, .any⟩]⟩

/-- MCD_RETIRE, MCD offset 0x1800 (R388, `spec/12_memory_controllers.md`): RETIRED [7:0]. -/
def MCD_RETIRE : Reg := ⟨0x1201800, 0, 1, [⟨7, 0, .row, 0, .any⟩]⟩

/-- MCD_WIN_CMD, MCD offset 0x2000 (R390, `spec/12_memory_controllers.md`): BUSY [63], RESULT [62:60], OP [1],
GO [0]. -/
def MCD_WIN_CMD : Reg := ⟨0x1202000, 0, 1, [⟨63, 63, .ro, 0, .any⟩, ⟨62, 60, .ro, 0, .any⟩, ⟨1, 1, .rw, 0,
  .any⟩, ⟨0, 0, .wo, 0, .any⟩]⟩

/-- MCD_WIN_ADDR, MCD offset 0x2008 (R390, `spec/12_memory_controllers.md`): ADDR [40:6]. -/
def MCD_WIN_ADDR : Reg := ⟨0x1202008, 0, 1, [⟨40, 6, .rw, 0, .any⟩]⟩

/-- MCD_WIN_DATA, MCD offset 0x2010 + 8 × i, 8 of them (R390, `spec/12_memory_controllers.md`): DATA [63:0]. -/
def MCD_WIN_DATA : Reg := ⟨0x1202010, 8, 8, [⟨63, 0, .rw, 0, .any⟩]⟩

/-- MCH_STATUS, MCH offset 0x0 (R369, `spec/12_memory_controllers.md`): READY [63], CFG_ERR [62], HOT [61],
FREQ_REFUSED [60], FSP_CUR [59:58], PEND [57]. -/
def MCH_STATUS : Reg := ⟨0x1300000, 0, 1, [⟨63, 63, .ro, 0, .any⟩, ⟨62, 62, .ro, 0, .any⟩, ⟨61, 61, .ro, 0,
  .any⟩, ⟨60, 60, .w1c, 0, .any⟩, ⟨59, 58, .ro, 0, .any⟩, ⟨57, 57, .ro, 0, .any⟩]⟩

/-- MCH_GEOM, MCH offset 0x8 (R370, `spec/12_memory_controllers.md`): CHANNELS [63:56], DIMMS [55:54], RANKS
[53:52], ROW_BITS [51:47], SIZE_MIB [21:0]. -/
def MCH_GEOM : Reg := ⟨0x1300008, 0, 1, [⟨63, 56, .ro, 0, .any⟩, ⟨55, 54, .ro, 0, .any⟩, ⟨53, 52, .ro, 0, .any⟩,
  ⟨51, 47, .ro, 0, .any⟩, ⟨21, 0, .ro, 0, .any⟩]⟩

/-- MCH_FREQ_CTL, MCH offset 0x10 (R379, `spec/12_memory_controllers.md`): TRAINED [63:60], REQ [1:0]. -/
def MCH_FREQ_CTL : Reg := ⟨0x1300010, 0, 1, [⟨63, 60, .ro, 0, .any⟩, ⟨1, 0, .row, 0, .any⟩]⟩

/-- MCH_PAGE_CFG, MCH offset 0x18 (R374, `spec/12_memory_controllers.md`): POLICY [33:32], IDLE_CLOSE_NS [15:0].
-/
def MCH_PAGE_CFG : Reg := ⟨0x1300018, 0, 1, [⟨33, 32, .rw, 0, (.enum 2 0)⟩, ⟨15, 0, .rw, 200, (.range 10
  65535)⟩]⟩

/-- MCH_REF_CFG, MCH offset 0x20 (R376, `spec/12_memory_controllers.md`): POLL_US [57:48], HOT_C [47:40],
PULL_MAX [34:32], POST_MAX [26:24]. -/
def MCH_REF_CFG : Reg := ⟨0x1300020, 0, 1, [⟨57, 48, .rw, 250, (.range 10 1000)⟩, ⟨47, 40, .rw, 85, (.range 70
  95)⟩, ⟨34, 32, .rw, 7, (.range 0 7)⟩, ⟨26, 24, .rw, 7, (.range 0 7)⟩]⟩

/-- MCH_TRAIN_CTL, MCH offset 0x28 (R380, `spec/12_memory_controllers.md`): BUSY [63], RESULT [62:60], CH
[38:32], RETRAIN_MS [21:8], ABORT [1], GO [0]. -/
def MCH_TRAIN_CTL : Reg := ⟨0x1300028, 0, 1, [⟨63, 63, .ro, 0, .any⟩, ⟨62, 60, .ro, 0, .any⟩, ⟨38, 32, .rw, 0,
  .any⟩, ⟨21, 8, .rw, 100, (.range 10 10000)⟩, ⟨1, 1, .wo, 0, .any⟩, ⟨0, 0, .wo, 0, .any⟩]⟩

/-- MCH_PWR_CTL, MCH offset 0x30 (R384, `spec/12_memory_controllers.md`): AUTO_SR_US [15:0]. -/
def MCH_PWR_CTL : Reg := ⟨0x1300030, 0, 1, [⟨15, 0, .rw, 0, .any⟩]⟩

/-- MCH_SCRUB_CFG, MCH offset 0x38 (R387, `spec/12_memory_controllers.md`): EN [63], PASS_H [15:0]. -/
def MCH_SCRUB_CFG : Reg := ⟨0x1300038, 0, 1, [⟨63, 63, .rw, 1, .any⟩, ⟨15, 0, .rw, 24, (.range 1 168)⟩]⟩

/-- MCH_ECC_STAT, MCH offset 0x40 (R386, `spec/12_memory_controllers.md`): CORR [63:32], UNCORR [31:0]. -/
def MCH_ECC_STAT : Reg := ⟨0x1300040, 0, 1, [⟨63, 32, .rc, 0, .any⟩, ⟨31, 0, .rc, 0, .any⟩]⟩

/-- MCH_ECC_ADDR, MCH offset 0x48 (R386, `spec/12_memory_controllers.md`): KIND [63:62], CH [61:55], ADDR
[40:0]. -/
def MCH_ECC_ADDR : Reg := ⟨0x1300048, 0, 1, [⟨63, 62, .ro, 0, .any⟩, ⟨61, 55, .ro, 0, .any⟩, ⟨40, 0, .ro, 0,
  .any⟩]⟩

/-- MCH_MAP_CTL, MCH offset 0x50 (R373, `spec/12_memory_controllers.md`): LOCK [0]. -/
def MCH_MAP_CTL : Reg := ⟨0x1300050, 0, 1, [⟨0, 0, .w1s, 0, .any⟩]⟩

/-- MCH_XOR, MCH offset 0x100 + 8 × i, 12 of them (R372, `spec/12_memory_controllers.md`): MASK [40:0]. -/
def MCH_XOR : Reg := ⟨0x1300100, 8, 12, [⟨40, 0, .rw, 0, .any⟩]⟩

/-- MCH_CH_STAT, MCH offset 0x1000 + 8 × i, 128 of them (R386, `spec/12_memory_controllers.md`): STATE [63:61],
HOT [60], CORR [31:16], UNCORR [15:0]. -/
def MCH_CH_STAT : Reg := ⟨0x1301000, 8, 128, [⟨63, 61, .ro, 5, .any⟩, ⟨60, 60, .ro, 0, .any⟩, ⟨31, 16, .rc, 0,
  .any⟩, ⟨15, 0, .rc, 0, .any⟩]⟩

/-- MCH_RETIRE, MCH offset 0x1800 + 8 × i, 2 of them (R388, `spec/12_memory_controllers.md`): RETIRED [63:0]. -/
def MCH_RETIRE : Reg := ⟨0x1301800, 8, 2, [⟨63, 0, .row, 0, .any⟩]⟩

/-- MCH_WIN_CMD, MCH offset 0x2000 (R390, `spec/12_memory_controllers.md`): BUSY [63], RESULT [62:60], OP [1],
GO [0]. -/
def MCH_WIN_CMD : Reg := ⟨0x1302000, 0, 1, [⟨63, 63, .ro, 0, .any⟩, ⟨62, 60, .ro, 0, .any⟩, ⟨1, 1, .rw, 0,
  .any⟩, ⟨0, 0, .wo, 0, .any⟩]⟩

/-- MCH_WIN_ADDR, MCH offset 0x2008 (R390, `spec/12_memory_controllers.md`): ADDR [35:6]. -/
def MCH_WIN_ADDR : Reg := ⟨0x1302008, 0, 1, [⟨35, 6, .rw, 0, .any⟩]⟩

/-- MCH_WIN_DATA, MCH offset 0x2010 + 8 × i, 8 of them (R390, `spec/12_memory_controllers.md`): DATA [63:0]. -/
def MCH_WIN_DATA : Reg := ⟨0x1302010, 8, 8, [⟨63, 0, .rw, 0, .any⟩]⟩

/-- MCH_CH_RETIRE, MCH offset 0x1810 (R388, `spec/12_memory_controllers.md`): RETIRED [63:0]. -/
def MCH_CH_RETIRE : Reg := ⟨0x1301810, 0, 1, [⟨63, 0, .row, 0, .any⟩]⟩

/-- CPH_KEY_LOCK, CPH offset 0x0 (R447, `spec/15_cipher_engine.md`): OWNER [63:62], LOST [61], RELEASE [1],
CLAIM [0]. -/
def CPH_KEY_LOCK : Reg := ⟨0xB00000, 0, 1, [⟨63, 62, .ro, 2, .any⟩, ⟨61, 61, .w1c, 0, .any⟩, ⟨1, 1, .wo, 0,
  .any⟩, ⟨0, 0, .wo, 0, .any⟩]⟩

/-- CPH_KEY_CMD, CPH offset 0x8 (R450, `spec/15_cipher_engine.md`): BUSY [63], RESULT [62:59], OP [55:52], SLOT
[47:32], SLOT2 [31:16], GO [0]. -/
def CPH_KEY_CMD : Reg := ⟨0xB00008, 0, 1, [⟨63, 63, .ro, 0, .any⟩, ⟨62, 59, .ro, 0, .any⟩, ⟨55, 52, .rwl, 0,
  (.enum 5 0)⟩, ⟨47, 32, .rwl, 0, .any⟩, ⟨31, 16, .rwl, 0, .any⟩, ⟨0, 0, .wo, 0, .any⟩]⟩

/-- CPH_KEY_DATA, CPH offset 0x10 + 8 × i, 8 of them (R449, `spec/15_cipher_engine.md`): DATA [63:0]. -/
def CPH_KEY_DATA : Reg := ⟨0xB00010, 8, 8, [⟨63, 0, .rwl, 0, .any⟩]⟩

/-- CPH_KEY_ATTR, CPH offset 0x50 (R449, `spec/15_cipher_engine.md`): KIND [63:62], WRAPPABLE [61], MACSEC [60],
USAGE [55:48]. -/
def CPH_KEY_ATTR : Reg := ⟨0xB00050, 0, 1, [⟨63, 62, .rwl, 0, .any⟩, ⟨61, 61, .rwl, 0, .any⟩, ⟨60, 60, .rwl, 0,
  .any⟩, ⟨55, 48, .rwl, 0, .any⟩]⟩

/-- CPH_KEY_LABEL, CPH offset 0x58 (R449, `spec/15_cipher_engine.md`): LABEL [63:0]. -/
def CPH_KEY_LABEL : Reg := ⟨0xB00058, 0, 1, [⟨63, 0, .rwl, 0, .any⟩]⟩

/-- CPH_SCHED_CFG, CPH offset 0x100 (R458, `spec/15_cipher_engine.md`): PF0_WEIGHT [23:16], PROG_WEIGHT [15:8],
HOST_WEIGHT [7:0]. -/
def CPH_SCHED_CFG : Reg := ⟨0xB00100, 0, 1, [⟨23, 16, .rw, 4, (.range 1 255)⟩, ⟨15, 8, .rw, 3, (.range 1 255)⟩,
  ⟨7, 0, .rw, 1, (.range 1 255)⟩]⟩

/-- CPH_CORE_RETIRE, CPH offset 0x108 (R467, `spec/15_cipher_engine.md`): RETIRED [31:0]. -/
def CPH_CORE_RETIRE : Reg := ⟨0xB00108, 0, 1, [⟨31, 0, .row, 0, .any⟩]⟩

/-- CPH_CORE_STAT, CPH offset 0x110 (R467, `spec/15_cipher_engine.md`): LIVE [5:0]. -/
def CPH_CORE_STAT : Reg := ⟨0xB00110, 0, 1, [⟨5, 0, .ro, 0, .any⟩]⟩

/-- CPH_GUARD_WARN, CPH offset 0x118 (R460, `spec/15_cipher_engine.md`): THRESH [63:0]. -/
def CPH_GUARD_WARN : Reg := ⟨0xB00118, 0, 1, [⟨63, 0, .rw, 18446744069414584320, .any⟩]⟩

/-- CPH_MSEC_WARN, CPH offset 0x120 (R460, `spec/15_cipher_engine.md`): THRESH [63:0]. -/
def CPH_MSEC_WARN : Reg := ⟨0xB00120, 0, 1, [⟨63, 0, .rw, 18446744069414584320, .any⟩]⟩

/-- CPH_CACHE_STAT, CPH offset 0x128 (R446, `spec/15_cipher_engine.md`): PINNED [49:32], MISSES [31:0]. -/
def CPH_CACHE_STAT : Reg := ⟨0xB00128, 0, 1, [⟨49, 32, .ro, 0, .any⟩, ⟨31, 0, .rc, 0, .any⟩]⟩

/-- CPH_REFUSE_CNT, CPH offset 0x200 + 8 × i, 8 of them (R456, `spec/15_cipher_engine.md`): COUNT [31:0]. -/
def CPH_REFUSE_CNT : Reg := ⟨0xB00200, 8, 8, [⟨31, 0, .rc, 0, .any⟩]⟩

/-- CPH_NOTIFY, CPH offset 0x300 (R464, `spec/15_cipher_engine.md`): RECORD [63:0]. -/
def CPH_NOTIFY : Reg := ⟨0xB00300, 0, 1, [⟨63, 0, .row, 0, .any⟩]⟩

/-- CPH_NOTIFY_DROP, CPH offset 0x308 (R464, `spec/15_cipher_engine.md`): COUNT [31:0]. -/
def CPH_NOTIFY_DROP : Reg := ⟨0xB00308, 0, 1, [⟨31, 0, .rc, 0, .any⟩]⟩

/-- CPH_MSEC_PN, CPH offset 0x10000 + 8 × i, 1024 of them (R460, `spec/15_cipher_engine.md`): PN [63:0]. -/
def CPH_MSEC_PN : Reg := ⟨0xB10000, 8, 1024, [⟨63, 0, .rw, 1, (.range 1 18446744073709551615)⟩]⟩

/-- CPH_MSEC_SASTAT, CPH offset 0x12000 + 8 × i, 1024 of them (R460, `spec/15_cipher_engine.md`): WARN [63], EXH
[62], STOP [61:60], DROP [31:0]. -/
def CPH_MSEC_SASTAT : Reg := ⟨0xB12000, 8, 1024, [⟨63, 63, .ro, 0, .any⟩, ⟨62, 62, .ro, 0, .any⟩, ⟨61, 60, .ro,
  0, .any⟩, ⟨31, 0, .rc, 0, .any⟩]⟩

/-- HIF_LINK_STAT, HIF offset 0x0 (R396, `spec/13_host_interface_and_slices.md`): SPLIT [63], L1_SPEED [47:44],
L1_WIDTH [43:39], L1_FLIT [38], L1_UP [37], L0_SPEED [15:12], L0_WIDTH [11:7], L0_FLIT [6], L0_UP [5]. -/
def HIF_LINK_STAT : Reg := ⟨0x1400000, 0, 1, [⟨63, 63, .ro, 0, .any⟩, ⟨47, 44, .ro, 0, .any⟩, ⟨43, 39, .ro, 0,
  .any⟩, ⟨38, 38, .ro, 0, .any⟩, ⟨37, 37, .ro, 0, .any⟩, ⟨15, 12, .ro, 0, .any⟩, ⟨11, 7, .ro, 0, .any⟩, ⟨6, 6,
  .ro, 0, .any⟩, ⟨5, 5, .ro, 0, .any⟩]⟩

/-- HIF_SLICE_CMD, HIF offset 0x100 (R399, `spec/13_host_interface_and_slices.md`): BUSY [63], RESULT [62:59],
OP [55:52], SLICE [43:32], GO [0]. -/
def HIF_SLICE_CMD : Reg := ⟨0x1400100, 0, 1, [⟨63, 63, .ro, 0, .any⟩, ⟨62, 59, .ro, 0, .any⟩, ⟨55, 52, .rw, 0,
  (.enum 7 0)⟩, ⟨43, 32, .rw, 0, .any⟩, ⟨0, 0, .wo, 0, .any⟩]⟩

/-- HIF_SLICE_BIND, HIF offset 0x108 (R400, `spec/13_host_interface_and_slices.md`): PASID [43:24], GEN_INIT
[23:8], RX_EN [7], RX_RING [5:0]. -/
def HIF_SLICE_BIND : Reg := ⟨0x1400108, 0, 1, [⟨43, 24, .rw, 0, .any⟩, ⟨23, 8, .rw, 0, .any⟩, ⟨7, 7, .rw, 0,
  .any⟩, ⟨5, 0, .rw, 0, .any⟩]⟩

/-- HIF_SLICE_RES0, HIF offset 0x110 (R400, `spec/13_host_interface_and_slices.md`): RINGS [63:56], CPH_WEIGHT
[55:48], CPH_QUOTA [44:32]. -/
def HIF_SLICE_RES0 : Reg := ⟨0x1400110, 0, 1, [⟨63, 56, .rw, 0, (.range 0 64)⟩, ⟨55, 48, .rw, 1, (.range 1
  255)⟩, ⟨44, 32, .rw, 0, (.range 0 4096)⟩]⟩

/-- HIF_SLICE_RES1, HIF offset 0x118 (R400, `spec/13_host_interface_and_slices.md`): SVC_SHARE [60:48],
CNT_COUNT [40:20], CNT_BASE [19:0]. -/
def HIF_SLICE_RES1 : Reg := ⟨0x1400118, 0, 1, [⟨60, 48, .rw, 0, (.range 0 5120)⟩, ⟨40, 20, .rw, 0, (.range 0
  1048576)⟩, ⟨19, 0, .rw, 0, .any⟩]⟩

/-- HIF_SLICE_RES2, HIF offset 0x120 (R400, `spec/13_host_interface_and_slices.md`): POOL_MASK [63:48],
KEY_COUNT [32:16], KEY_BASE [15:0]. -/
def HIF_SLICE_RES2 : Reg := ⟨0x1400120, 0, 1, [⟨63, 48, .rw, 0, .any⟩, ⟨32, 16, .rw, 0, (.range 0 65536)⟩, ⟨15,
  0, .rw, 0, .any⟩]⟩

/-- HIF_SLICE_RES3, HIF offset 0x128 (R400, `spec/13_host_interface_and_slices.md`): BILLET_QUOTA [31:0]. -/
def HIF_SLICE_RES3 : Reg := ⟨0x1400128, 0, 1, [⟨31, 0, .rw, 0, .any⟩]⟩

/-- HIF_SLICE_STATE, HIF offset 0x130 (R403, `spec/13_host_interface_and_slices.md`): STATE [63:62], OLD_WORK
[61], GEN [47:32], CPH_OCC [31:19], SVC_RUN [18:6]. -/
def HIF_SLICE_STATE : Reg := ⟨0x1400130, 0, 1, [⟨63, 62, .ro, 0, .any⟩, ⟨61, 61, .ro, 0, .any⟩, ⟨47, 32, .ro, 0,
  .any⟩, ⟨31, 19, .ro, 0, .any⟩, ⟨18, 6, .ro, 0, .any⟩]⟩

/-- HIF_SLICE_USE, HIF offset 0x138 (R403, `spec/13_host_interface_and_slices.md`): BILLETS [63:32], DMA_FAULTS
[31:16], RINGS_EN [6:0]. -/
def HIF_SLICE_USE : Reg := ⟨0x1400138, 0, 1, [⟨63, 32, .ro, 0, .any⟩, ⟨31, 16, .ro, 0, .any⟩, ⟨6, 0, .ro, 0,
  .any⟩]⟩

/-- HIF_SLICE_LOG_A, HIF offset 0x140 (R413, `spec/13_host_interface_and_slices.md`): ADDR [63:12]. -/
def HIF_SLICE_LOG_A : Reg := ⟨0x1400140, 0, 1, [⟨63, 12, .rw, 0, .any⟩]⟩

/-- HIF_SLICE_LOG_B, HIF offset 0x148 (R413, `spec/13_host_interface_and_slices.md`): ADDR [63:12]. -/
def HIF_SLICE_LOG_B : Reg := ⟨0x1400148, 0, 1, [⟨63, 12, .rw, 0, .any⟩]⟩

/-- HIF_SLICE_LOG_BASE, HIF offset 0x150 (R413, `spec/13_host_interface_and_slices.md`): BASE [63:21]. -/
def HIF_SLICE_LOG_BASE : Reg := ⟨0x1400150, 0, 1, [⟨63, 21, .rw, 0, .any⟩]⟩

/-- HIF_SLICE_LOG_CFG, HIF offset 0x158 (R413, `spec/13_host_interface_and_slices.md`): ACTIVE [63], CUR [62],
OUT_PREV [61], OUT_CUR [60], PAGES [28:0]. -/
def HIF_SLICE_LOG_CFG : Reg := ⟨0x1400158, 0, 1, [⟨63, 63, .ro, 0, .any⟩, ⟨62, 62, .ro, 0, .any⟩, ⟨61, 61, .ro,
  0, .any⟩, ⟨60, 60, .ro, 0, .any⟩, ⟨28, 0, .rw, 64, (.range 64 268435456)⟩]⟩

/-- HIF_HOST_DROP, HIF offset 0x160 (R412, `spec/13_host_interface_and_slices.md`): LAST_SLICE [59:48], COUNT
[47:0]. -/
def HIF_HOST_DROP : Reg := ⟨0x1400160, 0, 1, [⟨59, 48, .ro, 0, .any⟩, ⟨47, 0, .rc, 0, .any⟩]⟩

/-- HIF_MBX_CTL, HIF offset 0x400 (R416, `spec/13_host_interface_and_slices.md`): BUSY [63], RESULT [62:59],
OWNER [58:57], LEN [47:37], RELEASE [2], CLAIM [1], GO [0]. -/
def HIF_MBX_CTL : Reg := ⟨0x1400400, 0, 1, [⟨63, 63, .ro, 0, .any⟩, ⟨62, 59, .ro, 0, .any⟩, ⟨58, 57, .ro, 0,
  .any⟩, ⟨47, 37, .rw, 8, (.range 8 1024)⟩, ⟨2, 2, .wo, 0, .any⟩, ⟨1, 1, .wo, 0, .any⟩, ⟨0, 0, .wo, 0, .any⟩]⟩

/-- HIF_MBX_DATA, HIF offset 0x800 + 8 × i, 128 of them (R416, `spec/13_host_interface_and_slices.md`): DATA
[63:0]. -/
def HIF_MBX_DATA : Reg := ⟨0x1400800, 8, 128, [⟨63, 0, .rw, 0, .any⟩]⟩

/-- SLICE_CTL, PAGE offset 0x0 + 65536 × i, 4096 of them (R410, `spec/13_host_interface_and_slices.md`): STATE
[63:62], OLD_WORK [61], GEN [47:32], RINGS [6:0]. -/
def SLICE_CTL : Reg := ⟨0x10000000, 65536, 4096, [⟨63, 62, .ro, 0, .any⟩, ⟨61, 61, .ro, 0, .any⟩, ⟨47, 32, .ro,
  0, .any⟩, ⟨6, 0, .ro, 0, .any⟩]⟩

/-- RING_SQ_BASE, PAGE offset 0x1000 + 64 × i, 64 of them (R419, `spec/14_rings_and_completions.md`): ADDR
[63:12]. -/
def RING_SQ_BASE : Reg := ⟨0x10001000, 64, 64, [⟨63, 12, .rw, 0, .any⟩]⟩

/-- RING_CQ_BASE, PAGE offset 0x1008 + 64 × i, 64 of them (R419, `spec/14_rings_and_completions.md`): ADDR
[63:12]. -/
def RING_CQ_BASE : Reg := ⟨0x10001008, 64, 64, [⟨63, 12, .rw, 0, .any⟩]⟩

/-- RING_PUB, PAGE offset 0x1010 + 64 × i, 64 of them (R419, `spec/14_rings_and_completions.md`): ADDR [63:6].
-/
def RING_PUB : Reg := ⟨0x10001010, 64, 64, [⟨63, 6, .rw, 0, .any⟩]⟩

/-- RING_CFG, PAGE offset 0x1018 + 64 × i, 64 of them (R420, `spec/14_rings_and_completions.md`): EN [63], STATE
[62:61], SQ_LOG2 [60:56], CQ_LOG2 [55:51], INFLIGHT_MAX [50:42], TIMEOUT_US [41:22], POLL_NS [21:6], HOLDOFF_US
[5:0]. -/
def RING_CFG : Reg := ⟨0x10001018, 64, 64, [⟨63, 63, .row, 0, .any⟩, ⟨62, 61, .ro, 0, .any⟩, ⟨60, 56, .rw, 6,
  (.range 6 16)⟩, ⟨55, 51, .rw, 6, (.range 6 16)⟩, ⟨50, 42, .rw, 16, (.range 1 256)⟩, ⟨41, 22, .rw, 0, (.range 0
  1000000)⟩, ⟨21, 6, .rw, 1000, (.range 100 65535)⟩, ⟨5, 0, .rw, 0, .any⟩]⟩

/-- RING_START, PAGE offset 0x1020 + 64 × i, 64 of them (R419, `spec/14_rings_and_completions.md`): WRAP [16],
INDEX [15:0]. -/
def RING_START : Reg := ⟨0x10001020, 64, 64, [⟨16, 16, .rw, 0, .any⟩, ⟨15, 0, .rw, 0, .any⟩]⟩

/-- RING_CQ_HEAD, PAGE offset 0x1028 + 64 × i, 64 of them (R419, `spec/14_rings_and_completions.md`): WRAP [16],
INDEX [15:0]. -/
def RING_CQ_HEAD : Reg := ⟨0x10001028, 64, 64, [⟨16, 16, .row, 0, .any⟩, ⟨15, 0, .row, 0, .any⟩]⟩

/-- RING_STAT, PAGE offset 0x1030 + 64 × i, 64 of them (R421, `spec/14_rings_and_completions.md`): SQ_HEAD
[63:47], CQ_TAIL [46:30], INFLIGHT [29:21], WAITING [20:12], ORPHANS [11:3]. -/
def RING_STAT : Reg := ⟨0x10001030, 64, 64, [⟨63, 47, .ro, 0, .any⟩, ⟨46, 30, .ro, 0, .any⟩, ⟨29, 21, .ro, 0,
  .any⟩, ⟨20, 12, .ro, 0, .any⟩, ⟨11, 3, .ro, 0, .any⟩]⟩

/-- RING_ERR, PAGE offset 0x1038 + 64 × i, 64 of them (R421, `spec/14_rings_and_completions.md`): TIMEOUTS
[63:48], LATE [47:32], RX_NOBUF [31:16], RX_TRUNC [15:0]. -/
def RING_ERR : Reg := ⟨0x10001038, 64, 64, [⟨63, 48, .rc, 0, .any⟩, ⟨47, 32, .rc, 0, .any⟩, ⟨31, 16, .rc, 0,
  .any⟩, ⟨15, 0, .rc, 0, .any⟩]⟩

/-- CSQ_VERSION, CSQ offset 0x0 (R478, `spec/16_control_sequencers.md`): ROM_VER [63:48], PATCH_VER [47:32],
STAGED_VER [31:16], CKPT_VER [15:8], ACTIVATIONS [7:0]. -/
def CSQ_VERSION : Reg := ⟨0x1500000, 0, 1, [⟨63, 48, .ro, 513, .any⟩, ⟨47, 32, .ro, 0, .any⟩, ⟨31, 16, .ro, 0,
  .any⟩, ⟨15, 8, .ro, 0, .any⟩, ⟨7, 0, .ro, 0, .any⟩]⟩

/-- CSQ_ACT, CSQ offset 0x8 (R478, `spec/16_control_sequencers.md`): STATE [63:61], LAST_RESULT [60:57]. -/
def CSQ_ACT : Reg := ⟨0x1500008, 0, 1, [⟨63, 61, .ro, 0, .any⟩, ⟨60, 57, .ro, 0, .any⟩]⟩

/-- CSQ_SEQ_STAT, CSQ offset 0x100 + 8 × i, 24 of them (R479, `spec/16_control_sequencers.md`): STATE [63:61],
DUTY [60:56], UPC [55:41], TRAPS [31:16], FAULTS [15:0]. -/
def CSQ_SEQ_STAT : Reg := ⟨0x1500100, 8, 24, [⟨63, 61, .ro, 0, .any⟩, ⟨60, 56, .ro, 0, .any⟩, ⟨55, 41, .ro, 0,
  .any⟩, ⟨31, 16, .rc, 0, .any⟩, ⟨15, 0, .rc, 0, .any⟩]⟩

/-- CSQ_TRAP_LAST, CSQ offset 0x208 (R479, `spec/16_control_sequencers.md`): SEQ_NUM [63:59], CODE [58:56], UPC
[55:41], SEC_LO [31:0]. -/
def CSQ_TRAP_LAST : Reg := ⟨0x1500208, 0, 1, [⟨63, 59, .ro, 0, .any⟩, ⟨58, 56, .ro, 0, .any⟩, ⟨55, 41, .ro, 0,
  .any⟩, ⟨31, 0, .ro, 0, .any⟩]⟩

/-- CSQ_REQ_DONE, CSQ offset 0x300 (R480, `spec/16_control_sequencers.md`): DONE [7:0]. -/
def CSQ_REQ_DONE : Reg := ⟨0x1500300, 0, 1, [⟨7, 0, .w1c, 0, .any⟩]⟩

/-- CSQ_REQ_CTL, CSQ offset 0x1000 + 64 × i, 8 of them (R480, `spec/16_control_sequencers.md`): BUSY [63],
RESULT [62:59], SERVICE [55:52], MEM [51:50], ABORT [1], GO [0]. -/
def CSQ_REQ_CTL : Reg := ⟨0x1501000, 64, 8, [⟨63, 63, .ro, 0, .any⟩, ⟨62, 59, .ro, 0, .any⟩, ⟨55, 52, .rw, 0,
  (.enum 6 0)⟩, ⟨51, 50, .rw, 0, (.enum 1 0)⟩, ⟨1, 1, .wo, 0, .any⟩, ⟨0, 0, .wo, 0, .any⟩]⟩

/-- CSQ_ARG0, CSQ offset 0x1008 + 64 × i, 8 of them (R480, `spec/16_control_sequencers.md`): ADDR [40:0]. -/
def CSQ_ARG0 : Reg := ⟨0x1501008, 64, 8, [⟨40, 0, .rw, 0, .any⟩]⟩

/-- CSQ_ARG1, CSQ offset 0x1010 + 64 × i, 8 of them (R480, `spec/16_control_sequencers.md`): LEN [40:12]. -/
def CSQ_ARG1 : Reg := ⟨0x1501010, 64, 8, [⟨40, 12, .rw, 0, .any⟩]⟩

/-- CSQ_ARG2, CSQ offset 0x1018 + 64 × i, 8 of them (R480, `spec/16_control_sequencers.md`): VAL [63:0]. -/
def CSQ_ARG2 : Reg := ⟨0x1501018, 64, 8, [⟨63, 0, .rw, 0, .any⟩]⟩

/-- CSQ_REQ_STAT, CSQ offset 0x1020 + 64 × i, 8 of them (R480, `spec/16_control_sequencers.md`): HELD [63], ERRS
[57:41], PROGRESS [40:0]. -/
def CSQ_REQ_STAT : Reg := ⟨0x1501020, 64, 8, [⟨63, 63, .ro, 0, .any⟩, ⟨57, 41, .ro, 0, .any⟩, ⟨40, 0, .ro, 0,
  .any⟩]⟩

/-- GAU_SNAP_NOW, GAU offset 0x0 (R487, `spec/17_gauge_counters.md`): SETS [15:0]. -/
def GAU_SNAP_NOW : Reg := ⟨0x1600000, 0, 1, [⟨15, 0, .wo, 0, .any⟩]⟩

/-- GAU_PRIV, GAU offset 0x10 (R491, `spec/17_gauge_counters.md`): SECURE_EN [0]. -/
def GAU_PRIV : Reg := ⟨0x1600010, 0, 1, [⟨0, 0, .ro, 0, .any⟩]⟩

/-- GAU_SLOT_CFG, GAU offset 0x18 (R493, `spec/17_gauge_counters.md`): CLR [61], CLR_SNAP [60], SETS [47:32]. -/
def GAU_SLOT_CFG : Reg := ⟨0x1600018, 0, 1, [⟨61, 61, .wo, 0, .any⟩, ⟨60, 60, .rw, 0, .any⟩, ⟨47, 32, .rw, 0,
  .any⟩]⟩

/-- GAU_SNAP_STAT, GAU offset 0x100 + 8 × i, 16 of them (R488, `spec/17_gauge_counters.md`): SEQ [63:48], READY
[47], OVERRUN [46]. -/
def GAU_SNAP_STAT : Reg := ⟨0x1600100, 8, 16, [⟨63, 48, .ro, 0, .any⟩, ⟨47, 47, .ro, 1, .any⟩, ⟨46, 46, .w1c, 0,
  .any⟩]⟩

/-- GAU_SNAP_TIME, GAU offset 0x200 + 8 × i, 16 of them (R488, `spec/17_gauge_counters.md`): SEC_LO [61:30], NS
[29:0]. -/
def GAU_SNAP_TIME : Reg := ⟨0x1600200, 8, 16, [⟨61, 30, .ro, 0, .any⟩, ⟨29, 0, .ro, 0, .any⟩]⟩

/-- GAU_SAMPLE, GAU offset 0x300 + 8 × i, 3 of them (R495, `spec/17_gauge_counters.md`): RECORD [63:0]. -/
def GAU_SAMPLE : Reg := ⟨0x1600300, 8, 3, [⟨63, 0, .row, 0, .any⟩]⟩

/-- GAU_SAMPLE_DROP, GAU offset 0x318 (R495, `spec/17_gauge_counters.md`): COUNT [31:0]. -/
def GAU_SAMPLE_DROP : Reg := ⟨0x1600318, 0, 1, [⟨31, 0, .rc, 0, .any⟩]⟩

/-- GAU_CTR_CFG, GAU offset 0x1000 + 8 × i, 544 of them (R483, `spec/17_gauge_counters.md`): EN [63], MODE [62],
SAMPLE [61], CLR_SNAP [60], SAT [59], SETS [47:32], QUAL_EN [31], QUAL [27:12], EVENT [9:0]. -/
def GAU_CTR_CFG : Reg := ⟨0x1601000, 8, 544, [⟨63, 63, .rw, 0, .any⟩, ⟨62, 62, .rw, 0, .any⟩, ⟨61, 61, .rw, 0,
  .any⟩, ⟨60, 60, .rw, 0, .any⟩, ⟨59, 59, .w1c, 0, .any⟩, ⟨47, 32, .rw, 0, .any⟩, ⟨31, 31, .rw, 0, .any⟩, ⟨27,
  12, .rw, 0, .any⟩, ⟨9, 0, .rw, 0, .any⟩]⟩

/-- GAU_CTR_VAL, GAU offset 0x3000 + 8 × i, 544 of them (R483, `spec/17_gauge_counters.md`): VALUE [47:0]. -/
def GAU_CTR_VAL : Reg := ⟨0x1603000, 8, 544, [⟨47, 0, .rw, 0, .any⟩]⟩

/-- GAU_CTR_RELOAD, GAU offset 0x5000 + 8 × i, 544 of them (R483, `spec/17_gauge_counters.md`): RELOAD [47:0].
-/
def GAU_CTR_RELOAD : Reg := ⟨0x1605000, 8, 544, [⟨47, 0, .rw, 0, .any⟩]⟩

/-- GAU_SLOT, GAU offset 0x7000 + 8 × i, 64 of them (R493, `spec/17_gauge_counters.md`): COUNT [63:0]. -/
def GAU_SLOT : Reg := ⟨0x1607000, 8, 64, [⟨63, 0, .ro, 0, .any⟩]⟩

/-- GAU_SNAP_VAL, GAU offset 0x10000 + 8 × i, 16384 of them (R488, `spec/17_gauge_counters.md`): SAT [63], VALUE
[47:0]. -/
def GAU_SNAP_VAL : Reg := ⟨0x1610000, 8, 16384, [⟨63, 63, .ro, 0, .any⟩, ⟨47, 0, .ro, 0, .any⟩]⟩

/-- GAU_SLOT_SNAP, GAU offset 0x40000 + 8 × i, 1024 of them (R493, `spec/17_gauge_counters.md`): COUNT [63:0].
-/
def GAU_SLOT_SNAP : Reg := ⟨0x1640000, 8, 1024, [⟨63, 0, .ro, 0, .any⟩]⟩

/-- GLB_BOOT_STAT, GLB offset 0x20 (R499, `spec/18_boot_security_update.md`): STAGE [63:60], SLOT [59], FALLBACK
[58], SET_RESET [57], SET_DEFAULT [56], REASON [55:52], OWNER [51:50], CAUSE [49:48], FW_VER [47:32], READY_MS
[15:0]. -/
def GLB_BOOT_STAT : Reg := ⟨0x20, 0, 1, [⟨63, 60, .ro, 0, .any⟩, ⟨59, 59, .ro, 0, .any⟩, ⟨58, 58, .ro, 0, .any⟩,
  ⟨57, 57, .ro, 0, .any⟩, ⟨56, 56, .ro, 0, .any⟩, ⟨55, 52, .ro, 0, .any⟩, ⟨51, 50, .ro, 0, .any⟩, ⟨49, 48, .ro,
  0, .any⟩, ⟨47, 32, .ro, 0, .any⟩, ⟨15, 0, .ro, 0, .any⟩]⟩

/-- GLB_GPIO, GLB offset 0x30 (R547, `spec/20_electrical_and_package.md`): OUT [47:32], DIR [31:16], IN [15:0].
-/
def GLB_GPIO : Reg := ⟨0x30, 0, 1, [⟨47, 32, .rw, 0, .any⟩, ⟨31, 16, .rw, 0, .any⟩, ⟨15, 0, .ro, 0, .any⟩]⟩

/-- The registers of block GLB. -/
def allGLB : List Reg := [GLB_DEVICE_ID, GLB_SYS_MODE, GLB_BOOT_STAT, GLB_GPIO]

/-- The registers of block TAU. -/
def allTAU : List Reg := [TAU_PHC_SEC, TAU_PHC_NS, TAU_PHC_SET_SEC, TAU_PHC_SET_NS, TAU_PHC_STEP_REL,
  TAU_PHC_FREQ, TAU_PHC_CTL, TAU_MONO, TAU_STATUS, TAU_REF_CFG, TAU_PPS_CFG, TAU_PPS_IN_TS, TAU_SYNCE_OUT,
  TAU_TOD_CFG, TAU_TOD_TX, TAU_TOD_RX, TAU_QUENCH_CTL, TAU_QUENCH_STAT, TAU_QUENCH_DRAIN, TAU_EPOCH_STALE_DROP,
  TAU_EARLY_RETIRE, TAU_TA_TIME, TAU_TA_ACT, TAU_TA_PERIOD]

/-- The registers of block LIU. -/
def allLIU : List Reg := [LIU_PORT_CFG, LIU_PORT_STAT, LIU_CLASS_CFG, LIU_TS_ADJ, LIU_TXTS_PROFILE,
  LIU_TXTS_TIME, LIU_TXTS_TAG, LIU_MAC_ERR, LIU_FEC_STAT, LIU_LANE_RETIRE, LIU_MSEC_CFG, LIU_MSEC_TXSCI,
  LIU_MSEC_RXSCI, LIU_MSEC_SWITCH, LIU_MSEC_SA, LIU_MSEC_DROP, LIU_OTN_CFG, LIU_OTN_DEF, LIU_OTN_TX_CTL,
  LIU_OTN_APS_RX, LIU_OTN_GMP, LIU_OTN_PM, LIU_OTN_PM_CNT]

/-- The registers of block SEN. -/
def allSEN : List Reg := [SEN_COURSE_CFG, SEN_NOCOURSE_DROP, SEN_MDVER_DROP, SEN_RETIRE_DROP, SEN_MTU_DROP,
  SEN_DISPQ_STAT, SEN_BANK_CTL, SEN_LOAD_ADDR, SEN_LOAD_CTL, SEN_LOAD_STAT, SEN_EXC_CFG, SEN_EXC_COUNT,
  SEN_SVC_BUDGET, SEN_ENGINE_RETIRE_LO, SEN_ENGINE_RETIRE_HI, SEN_SVC_WAKE, SEN_CNT_SEL, SEN_CNT_PKT,
  SEN_CNT_BYTE, SEN_STATE_ADDR, SEN_STATE_DATA, SEN_EGR_MTU, SEN_EVT_ROUTE, SEN_SVC_CTL]

/-- The registers of block LKP. -/
def allLKP : List Reg := [LKP_CMD, LKP_CMD_KEY, LKP_CMD_NKEY, LKP_CMD_DATA0, LKP_CMD_DATA1, LKP_CMD_ATTR,
  LKP_LEARN_STAT, LKP_LEARN_DROP, LKP_NOTIFY0, LKP_NOTIFY, LKP_NOTIFY_DROP, LKP_PROFILE, LKP_EM_CFG,
  LKP_EM_STAT, LKP_FLOW_CFG, LKP_FLOW_BASE, LKP_LPM_STAT, LKP_LEARN_CFG, LKP_AGE_CFG, LKP_PERR]

/-- The registers of block TCM. -/
def allTCM : List Reg := [TCM_PPU_SET, TCM_PPU_DATA, TCM_PPU_MASK, TCM_PPU_ATTR, TCM_PPU_CMD, TCM_PPU_PERR,
  TCM_CMD, TCM_CMD_KEY, TCM_CMD_MASK, TCM_CMD_ASSOC, TCM_CMD_ATTR, TCM_SLOT_CFG, TCM_VERIFY_STAT, TCM_SCRUB_CFG,
  TCM_TABLE_CFG, TCM_BANK_CFG, TCM_PF_SEL, TCM_PF_BLOCK]

/-- The registers of block CPH. -/
def allCPH : List Reg := [CPH_KEY_LOCK, CPH_KEY_CMD, CPH_KEY_DATA, CPH_KEY_ATTR, CPH_KEY_LABEL, CPH_SCHED_CFG,
  CPH_CORE_RETIRE, CPH_CORE_STAT, CPH_GUARD_WARN, CPH_MSEC_WARN, CPH_CACHE_STAT, CPH_REFUSE_CNT, CPH_NOTIFY,
  CPH_NOTIFY_DROP, CPH_MSEC_PN, CPH_MSEC_SASTAT]

/-- The registers of block TMG. -/
def allTMG : List Reg := [TMG_TBL_ADDR, TMG_TBL_DATA, TMG_BUF_CFG, TMG_BUF_STAT, TMG_SHAPE_APPLY, TMG_CT_CFG,
  TMG_BINDOFF_CMD, TMG_CT_STAT, TMG_DROP, TMG_CAP_BASE, TMG_CAP_CFG, TMG_CAP_HEAD, TMG_CAP_TAIL, TMG_CAP_STAT,
  TMG_PORT_CFG, TMG_PORT_SHAPE, TMG_PORT_STAT, TMG_GCL_CFG, TMG_ADM_CFG, TMG_ADM_WRED, TMG_MIR_SESSION,
  TMG_SAMPLE_CFG, TMG_GCL_CYCLE, TMG_GCL]

/-- The registers of block BPM. -/
def allBPM : List Reg := [BPM_CMD, BPM_CMD_HANDLE, BPM_CMD_ARG, BPM_CMD_ADDR, BPM_ERR_LOG, BPM_ERR_DROP,
  BPM_STATUS, BPM_POOL_CFG, BPM_POOL_BASE, BPM_POOL_THR, BPM_POOL_STAT, BPM_POOL_CNT]

/-- The registers of block FAB. -/
def allFAB : List Reg := [FAB_CTL, FAB_CRED_CFG, FAB_LINK_RETIRE, FAB_RX_DROP0, FAB_RX_DROP1, FAB_RX_DROP2,
  FAB_DEMAND_STAT, FAB_LINK]

/-- The registers of block MCD. -/
def allMCD : List Reg := [MCD_STATUS, MCD_GEOM, MCD_FREQ_CTL, MCD_PAGE_CFG, MCD_REF_CFG, MCD_TRAIN_CTL,
  MCD_PWR_CTL, MCD_SCRUB_CFG, MCD_ECC_STAT, MCD_ECC_ADDR, MCD_MAP_CTL, MCD_XOR, MCD_CH_STAT, MCD_RETIRE,
  MCD_WIN_CMD, MCD_WIN_ADDR, MCD_WIN_DATA]

/-- The registers of block MCH. -/
def allMCH : List Reg := [MCH_STATUS, MCH_GEOM, MCH_FREQ_CTL, MCH_PAGE_CFG, MCH_REF_CFG, MCH_TRAIN_CTL,
  MCH_PWR_CTL, MCH_SCRUB_CFG, MCH_ECC_STAT, MCH_ECC_ADDR, MCH_MAP_CTL, MCH_XOR, MCH_CH_STAT, MCH_RETIRE,
  MCH_WIN_CMD, MCH_WIN_ADDR, MCH_WIN_DATA, MCH_CH_RETIRE]

/-- The registers of block HIF. -/
def allHIF : List Reg := [HIF_LINK_STAT, HIF_SLICE_CMD, HIF_SLICE_BIND, HIF_SLICE_RES0, HIF_SLICE_RES1,
  HIF_SLICE_RES2, HIF_SLICE_RES3, HIF_SLICE_STATE, HIF_SLICE_USE, HIF_SLICE_LOG_A, HIF_SLICE_LOG_B,
  HIF_SLICE_LOG_BASE, HIF_SLICE_LOG_CFG, HIF_HOST_DROP, HIF_MBX_CTL, HIF_MBX_DATA]

/-- The registers of block CSQ. -/
def allCSQ : List Reg := [CSQ_VERSION, CSQ_ACT, CSQ_SEQ_STAT, CSQ_TRAP_LAST, CSQ_REQ_DONE, CSQ_REQ_CTL,
  CSQ_ARG0, CSQ_ARG1, CSQ_ARG2, CSQ_REQ_STAT]

/-- The registers of block GAU. -/
def allGAU : List Reg := [GAU_SNAP_NOW, GAU_PRIV, GAU_SLOT_CFG, GAU_SNAP_STAT, GAU_SNAP_TIME, GAU_SAMPLE,
  GAU_SAMPLE_DROP, GAU_CTR_CFG, GAU_CTR_VAL, GAU_CTR_RELOAD, GAU_SLOT, GAU_SNAP_VAL, GAU_SLOT_SNAP]

/-- The registers of block ERR. -/
def allERR : List Reg := [ERR_LOG0, ERR_LOG1, ERR_LOG2, ERR_LOG_DROP, ERR_CFG, ERR_INT_STAT, ERR_INT_EN,
  ERR_INT_ALERT, ERR_THRESH, ERR_UNIT_SEL, ERR_UNIT_STAT, ERR_RETIRE]

/-- The registers of block PAGE. -/
def allPAGE : List Reg := [SLICE_CTL, RING_SQ_BASE, RING_CQ_BASE, RING_PUB, RING_CFG, RING_START, RING_CQ_HEAD,
  RING_STAT, RING_ERR]

/-- The registers of block TBL. -/
def allTBL : List Reg := [TMG_Q_CFG, TMG_Q_SHAPE, TMG_CS_CFG, TMG_CS_SHAPE, TMG_GRP_CFG, TMG_GRP_SHAPE,
  TMG_SP_CFG, TMG_SP_SHAPE, TMG_MC_HEAD, TMG_MC_ENTRY, TMG_SHAPE_STAGE_NODE, TMG_SHAPE_STAGE_VAL]

/-- Every register of the map. -/
def all : List Reg :=
  allGLB ++ allTAU ++ allLIU ++ allSEN ++ allLKP ++ allTCM ++ allCPH ++ allTMG ++ allBPM ++ allFAB ++ allMCD ++ allMCH ++ allHIF ++ allCSQ ++ allGAU ++ allERR ++ allPAGE ++ allTBL

end Sys2Proof.Machine.R
end

