-- ==== Sys2Proof/Machine/State.lean ====
section
/-! DEFINITION. The state of the T6400 as plain data: the register file, and one record per unit for what the
manual gives that unit beyond its registers, with the queue of commands that wait. -/

namespace Sys2Proof.Machine
open Sys2Proof

/-! ### Packets and threads (ch. 1, 3, 4) -/

/-- A packet on the F-die or the bridge: metadata m0 to m15 (R86), the stored bytes of the header window (R124),
the frame's bytes beyond it, and what the path needs to know of it. -/
structure Packet where
  /-- The packet's number. -/
  pid : Nat
  /-- The number of the frame whose bytes it takes as they arrive; a copy keeps its original's. -/
  src : Nat
  /-- m0 to m15; an unlisted word is zero. -/
  md : SMap Word32
  win : Bytes
  tail : Bytes
  /-- The frame is complete in the sense of R17. -/
  complete : Bool
  /-- The frame failed its checks (R251). -/
  bad : Bool
  /-- The frame length at ingress, before the ingress program started (R125). -/
  orig : Nat
  /-- It was held against its port's MTU as it left its egress course, its length then known (R170, R171). -/
  checked : Bool
deriving DecidableEq, Repr

/-- No packet. -/
def Packet.empty : Packet := ⟨0, 0, [], [], [], true, false, 0, false⟩

/-- The result of a lookup as R134 lays it out: rd and rd + 1. -/
structure LkRes where
  r0 : Word
  r1 : Word
deriving DecidableEq, Repr

/-- One payload pattern entry (R160). -/
structure Pat where
  data : List Word
  mask : Word
  attr : Word
deriving DecidableEq, Repr

/-- What a request that waits for its result asked for (R132): its operands as read at issue. -/
inductive ReqKind
  /-- LKUP: the profile register as it stood at issue (R175), its number, the key, the tag of the search's epoch
  (R62, R134), and the result as the tables stood at issue. -/
  | lookup (profile : Word) (key : Nat) (vtag : Nat) (res : LkRes)
  /-- PMATCH: set, start offset, the frame bytes as they stood at issue (R165), and, once a lane has started, the
  set's entries and the set register as they stood then (R166). -/
  | pmatch (set o : Nat) (bytes : Bytes) (waitBytes : Bool) (lane : Option (Word × List (Nat × Pat)))
  /-- CIPH: function, AOFF and EOFF, whether a refusal raises exception 6, and the request's work number. -/
  | cipher (fn aoff eoff : Nat) (xr : Bool) (wid : Nat)
  /-- SLD or ATOM: the word's address and the value the access read. -/
  | state (addr : Nat) (v : Word)
deriving DecidableEq, Repr

/-- One outstanding request of a thread: its tag, first destination register, whether a second follows. -/
structure Req where
  tag : Nat
  rd : Nat
  two : Bool
  kind : ReqKind
deriving DecidableEq, Repr

/-- One inbox entry (R103): SOURCE, EVENT, the packet it brings, if any, and the monotonic count at which it reached
its inbox. -/
structure InboxEntry where
  source : Nat
  event : Word32
  pkt : Option Packet
  came : Nat
deriving DecidableEq, Repr

/-- An entry on its way to a service thread's inbox (R104, R107). -/
structure InboxArrival where
  thread : Nat
  entry : InboxEntry
deriving DecidableEq, Repr

/-- The states of a thread (R79, R100). Service threads use free (stopped), ready, waiting, sleeping, halted and
unavailable; packet threads use free, ready, waiting, departing and unavailable. -/
inductive TState
  | free | ready | waiting | departing | sleeping | halted | unavailable
deriving DecidableEq, Repr

/-- One thread context (R85 to R93, R101 to R103). -/
structure Thread where
  st : TState
  svc : Bool
  side : Side
  pc : Nat
  /-- Instructions issued for the packet on this side (R90). -/
  count : Nat
  /-- Instructions left of a handler's allowance (R93) or issued since the last SLEEP (R102). -/
  spent : Nat
  handler : Bool
  /-- g1 to g31; an unlisted register is zero, and g0 is never listed. -/
  g : SMap Word
  pkt : Packet
  /-- Which bank the thread runs: false = A, true = B. -/
  bank : Bool
  stack : List Nat
  reqs : List Req
  /-- Tags whose requests a Waiting thread waits for. -/
  waitTags : List Nat
  /-- A Waiting thread also waits for its frame to be complete (R156). -/
  waitFrame : Bool
  /-- A refused CIPH with XR = 1 has returned; exception 6 comes before the next issue (R141). -/
  exc6 : Bool
  /-- The register that takes the next inbox entry of a sleeping thread (R151). -/
  sleepRd : Nat
  inbox : List InboxEntry
  /-- STOP was written and takes effect at the next SLEEP or WAIT (R101). -/
  stopReq : Bool
  /-- Last exception code of a service thread (R100). -/
  exc : Nat
  /-- A departing packet already handed on (R79). -/
  handed : Bool
  /-- The slice that takes a departing packet whose frame is not yet complete (R91). -/
  hostTo : Option Nat
  /-- Monotonic count since which a waiting or departing thread has waited (R492). -/
  since : Nat
  /-- Address of the last instruction the thread issued, or of the one that put it into Waiting; of a packet thread that
  has ended, its LAST_PC (R495, R496). -/
  lastPc : Nat
  /-- Monotonic count from which a Ready thread may issue (R79, R107). -/
  start : Nat
  /-- Registers an issued instruction is still to write, each with the monotonic count from which an instruction that
  reads it may issue (R78). -/
  busy : List (Nat × Nat)
  /-- LAST_PC of the packet that held the context before (R495). -/
  prevPc : Nat
deriving DecidableEq, Repr

/-- A thread that holds nothing. -/
def Thread.empty : Thread :=
  ⟨.free, false, .ing, 0, 0, 0, false, [], Packet.empty, false, [], [], [], false, false, 0, [], false, 0, false, none, 0, 0, 0,
   [], 0⟩

/-- The issue slot of an engine (R77, R116): the slot of the thread that issued last, and the monotonic count from which
the issue slot is free. -/
structure EngSt where
  last : Nat
  free : Nat
deriving DecidableEq, Repr

/-- An engine no thread of which has issued: its rotation begins with slot 0. -/
def EngSt.init : EngSt := ⟨7, 0⟩

/-- A byte count that waits for a frame's final length (R156): the frame, the packet and whether it counts on the egress
side, the counter pair, and the length at issue. -/
structure Deferred where
  src : Nat
  pid : Nat
  egr : Bool
  pair : Nat
  len : Nat
deriving DecidableEq, Repr

/-- The states of a program bank (R94). -/
inductive BankSt
  | empty | loaded | active | held
deriving DecidableEq, Repr

/-- One program bank: its state, its image's metadata version, its program and its entry table (R84, R94). -/
structure Bank where
  st : BankSt
  ver : Nat
  length : Nat
  words : SMap Word
  entries : SMap Nat
deriving DecidableEq, Repr

/-- A bank that has never been loaded. -/
def Bank.empty : Bank := ⟨.empty, 0, 0, [], []⟩

/-- What a course does (R20 to R22): the mode in force, the mode it drains towards, the bank in force. -/
structure CourseSt where
  inForce : Nat
  target : Nat
  draining : Bool
  /-- ACTIVE of SEN_BANK_CTL: false = A, true = B. -/
  activeB : Bool
  /-- Time-action action 2 has armed a swap for the next commit (R52). -/
  swapTa : Bool
deriving DecidableEq, Repr

/-- A course at reset. -/
def CourseSt.init : CourseSt := ⟨0, 0, false, false, false⟩

/-- A place in the departure order of a port (R83). -/
structure OrderEnt where
  side : Side
  port : Nat
  pid : Nat
deriving DecidableEq, Repr

/-- The Stitch engines and their dispatchers. -/
structure Sen where
  courses : SMap CourseSt
  /-- Bank A of course c at key 2c, bank B at 2c + 1. -/
  banks : SMap Bank
  /-- Thread t of course c at key 640c + t. -/
  threads : SMap Thread
  /-- Packets that reach the dispatchers next (R17, R80), oldest first. -/
  toIng : List Packet
  toEgr : List Packet
  /-- The dispatch queues (R80), oldest first. -/
  ingQ : List Packet
  egrQ : List Packet
  /-- Packets that have left an ingress course for the bridge, and an egress course for the LIU (R83), oldest
  first. -/
  toTmg : List Packet
  toLiu : List Packet
  /-- Departure order, oldest first. -/
  order : List OrderEnt
  /-- Entries on their way to inboxes. -/
  arrivals : List InboxArrival
  /-- A load in progress: the courses it names, and those of them that did not refuse it (R95, R99). -/
  load : Option (Nat × Nat)
  /-- The state memory (R142): an unlisted word is zero. -/
  stm : SMap Word
  /-- The statistics memory (R146): packet and byte count of a pair. -/
  cnt : SMap (Word × Word)
  defer : List Deferred
  nextPid : Nat
  /-- Engine e of course c at key 80c + e. -/
  engines : SMap EngSt
  /-- Of a state-memory word, the monotonic count of its last access and that access's place in its tick (R144). -/
  stmLast : SMap (Nat × Nat)
  /-- Monotonic count of the last latch of a counter pair (R147). -/
  latchAt : Option Nat
  /-- Requests still under way of threads that have given them up, each with its thread's key, oldest first (R72). -/
  gone : List (Nat × Req)
deriving DecidableEq, Repr

/-- The payload pattern unit (R160 to R166): entries, requests that wait for a lane, and requests in lanes. -/
structure Ppu where
  pats : SMap Pat
  queue : List (Nat × Nat)
  lanes : List (Nat × Nat)
deriving DecidableEq, Repr

/-! ### Time and quench (ch. 2) -/

/-- A PHC step that waits for the next tick (R39). -/
inductive StepReq
  | abs (sec ns frac : Nat)
  | rel (ofs : Word)
deriving DecidableEq, Repr

/-- An armed time-action entry: its instant in nanoseconds of PHC time, whether it is to fire late (R56, R57), and
the PHC time of the forward step that passed it, if one did. -/
structure TaRun where
  instant : Nat
  late : Bool
  stepAt : Option Nat
deriving DecidableEq, Repr

/-- The time and action unit. -/
structure Tau where
  /-- PHC time in units of 2^-48 ns: seconds, nanoseconds and the 48 fraction bits in one count. -/
  phc : Nat
  /-- The PHC value the last read of TAU_PHC_SEC latched (R38). -/
  latch : Nat
  mono : Nat
  /-- A step asked for, and the monotonic count at its write. -/
  step : Option (StepReq × Nat)
  /-- Monotonic count at the last discipline (R42). -/
  lastDisc : Nat
  /-- Monotonic count at the last write of HOLD_TIMEOUT, and whether one of 0 is still to clear HOLDOVER (R42). -/
  holdAt : Option Nat
  holdClr : Bool
  /-- Monotonic count at the last 1PPS input edge, or of reset, and whether its loss has been reported (R43). -/
  ppsIn : Nat
  ppsInLost : Bool
  /-- Level of the 1PPS output (R45). -/
  ppsOut : Bool
  /-- PHC instant, in ns, at which the pulse being driven ends. -/
  ppsEnd : Nat
  /-- The ToD message being written or waiting (R46), and whether its length has been written. -/
  todBuf : Bytes
  todReady : Bool
  /-- PHC instant, in ns, at which the waiting message starts. -/
  todAt : Nat
  /-- Received ToD bytes with the PHC seconds and nanoseconds of their start bits (R47), oldest first. -/
  todRx : List (Byte × Nat × Nat)
  /-- The forwarded time lane is in fault (R50). -/
  bridgeFault : Bool
  /-- The time the Q-die keeps on its local clock while the lane is in fault (R50). -/
  qPhc : Nat
  /-- Armed entries by index (R51). -/
  ta : SMap TaRun
  /-- Entries that have fallen due, in firing order (R53). -/
  taDue : List Nat
  /-- Of those, how many fell due on an earlier tick, and how many have fired on this one. -/
  taOld : Nat
  taFired : Nat
  /-- Quench epochs (R66, R67). -/
  curEpoch : Nat
  pendOpen : Bool
  prevState : Nat
  lastResult : Nat
  pendCount : Nat
  prevCount : Nat
  /-- Versions whose storage waits to be reclaimed (R67, R72). -/
  reclaim : Nat
  /-- Monotonic count at the last successful commit. -/
  lastCommit : Option Nat
  /-- Monotonic count at which the drain window ends (R70). -/
  drainEnd : Nat
  /-- A commit written on this tick waits for commands of the tick that belong to its epoch (R204, R235). -/
  commitDue : Bool
deriving DecidableEq, Repr

/-! ### Lookup tables (ch. 6) -/

/-- The versions of one table entry (R60): the current one, and pending and previous ones where they exist. An
inner `none` is an absent version. -/
structure Vers (α : Type) where
  cur : Option α
  pend : Option (Option α)
  prev : Option (Option α)
deriving DecidableEq, Repr

/-- Where an entry stands: bucket and slot of a way (of a flow table: of its first or second bucket), or the
stash (R181, R182, R185). -/
inductive Loc
  | way (w bucket slot : Nat)
  | stash (i : Nat)
deriving DecidableEq, Repr

/-- What a version of an exact-match or flow entry holds: the data bits (R180) and STATIC. -/
structure EData where
  data : BitVec 120
  static : Bool
deriving DecidableEq, Repr

/-- One exact-match or flow entry (R179). -/
structure Ent where
  loc : Loc
  v : Vers EData
  hit : Bool
  age : Nat
deriving DecidableEq, Repr

/-- A learn in the queue (R207): table index of R212, key, data, the monotonic count of its issue and its place among
the learns of that tick. -/
structure Learn where
  tick : Nat
  rank : Nat
  table : Nat
  key : Nat
  data : Word
  /-- The learning sequencer it is given to (R468). -/
  seq : Nat
deriving DecidableEq, Repr

/-- A move-tracker record (R210): window start, moves, and the end of a damping hold. -/
structure Track where
  start : Nat
  count : Nat
  damped : Option Nat
deriving DecidableEq, Repr

/-- One notification record (R216): type, table, key, entry data, old data. -/
structure Notif where
  type : Nat
  table : Nat
  key : Nat
  data : Word
  old : Nat
deriving DecidableEq, Repr

/-- A table whose clearing is in progress (R177, R222): its configuration and, of a flow table, base word when it was disabled, the storage it still
uses, and an enable that waits. -/
structure ClrJob where
  table : Nat
  cfg : Word
  base : Word
  storage : Nat
  enable : Option Word
deriving DecidableEq, Repr

/-- An immediate change of a prefix of length 16 or less that reaches its root entries one per tick (R194): the prefix,
its current version before the change, the lowest root index that has not been reached, and the monotonic count of the
last write. -/
structure PfxJob where
  key : Nat
  old : Option Nat
  next : Nat
  tick : Nat
deriving DecidableEq, Repr

/-- The lookup complex. -/
structure Lkp where
  /-- Exact-match and flow entries: key k of table t at t × 2^256 + k. -/
  ents : SMap Ent
  /-- LPM prefixes: root r, length l, address bits a at (r × 129 + l) × 2^128 + a; the version is the result
  index. -/
  lpm : SMap (Vers Nat)
  /-- The result table (R187). -/
  res : SMap (Vers (BitVec 120))
  /-- OVF of flow buckets: bucket b of flow table f at f × 2^27 + b (R184). -/
  ovf : SMap Nat
  /-- Arrays of the trie that wait to be freed (R193): units, and the monotonic count of the change. -/
  trieFree : List (Nat × Nat)
  /-- First units of arrays that a trie compaction has placed (R481): a node's child array at twice its code, its prefix array
  at the number after. -/
  bases : SMap Nat
  /-- The immediate change of a short prefix whose root entries are being rewritten (R194). -/
  pfxJob : Option PfxJob
  /-- Places whose content has a parity or an uncorrectable ECC error, by table code and index (R217, R218); root entries
  stand under 112 + r and slots of the short-prefix arrays under 128 + r. -/
  bad : List (Nat × Nat)
  /-- Old places of entries that have moved on this tick: their copies are cleared on the next (R183). -/
  copies : List (Nat × Loc)
  /-- The pending epoch has been abandoned on this tick: its versions are visible until the next (R67). -/
  abandoned : Bool
  /-- Entries an immediate move removes on the next tick (R198). -/
  delNext : List Nat
  /-- RESULT of a command decided when it was taken (R203, R204). -/
  preResult : Option Nat
  learnQ : List Learn
  tracks : SMap Track
  notify : List Notif
  clr : List ClrJob
  /-- Monotonic count of the last sweep of each table (R215). -/
  swept : SMap Nat
  /-- Exact-match blocks that have been retired (R534). -/
  retiredBlocks : List Nat
deriving DecidableEq, Repr

/-! ### TCAM (ch. 7) -/

/-- One TCAM row (R223, R226): key, mask, associated word, the version flags and QUAR. -/
structure TRow where
  key : Nat
  mask : Nat
  assoc : Word
  c : Bool
  pset : Bool
  p : Bool
  vset : Bool
  v : Bool
  quar : Bool
deriving DecidableEq, Repr

/-- A row that holds nothing. -/
def TRow.empty : TRow := ⟨0, 0, 0, false, false, false, false, false, false⟩

/-- A respread in progress (R236): its table, the moves left as source and destination index, and whether the first has
its destination written, and the RESULT it ends with. -/
structure Respread where
  table : Nat
  moves : List (Nat × Nat)
  half : Bool
  res : Nat
deriving DecidableEq, Repr

/-- The TCAM. -/
structure Tcam where
  /-- Row r of logical bank b at 4096b + r. -/
  rows : SMap TRow
  preResult : Option Nat
  /-- The pending epoch has been abandoned on this tick: its versions are visible until the next (R67). -/
  abandoned : Bool
  /-- The source row of a move whose destination has been written (R234). -/
  moveSrc : Option Nat
  /-- The respread that runs (R236), and whether TCM_CMD holds a further command beside it. -/
  resp : Option Respread
  second : Bool
  clr : List ClrJob
  /-- Banks retired whose table has a spare, waiting for the exchange (R244): logical bank, its table. -/
  sparing : List (Nat × Nat)
  /-- The scrub sweep (R242): the place of its next row, and the monotonic count of its last read. -/
  scrubAt : Nat
  scrubLast : Nat
deriving DecidableEq, Repr

/-! ### Line interface (ch. 8) -/

/-- A transmit timestamp record (R256): TAG and PHC time. -/
structure TxTs where
  tag : Nat
  ts : Nat
deriving DecidableEq, Repr

/-- The key and salt an enabled SA captured, with the slot they came from (R461). -/
structure SaKey where
  slot : Nat
  key : Bytes
  salt : Bytes
  /-- Packet number 2^64 - 1 has been accepted (R462). -/
  done : Bool
deriving DecidableEq, Repr

/-- The MACsec configuration of a frame, as it stood when its delimiter passed (R257, R260): the register, the SCI, and of
each enabled SA of the direction its AN, SSCI and key. -/
structure SecView where
  cfg : Word
  sci : Nat
  sas : List (Nat × Nat × SaKey)
deriving DecidableEq, Repr

/-- A frame being received (R17, R254): its number, PHC time of its timestamp point, epoch tag, the bytes received
so far as they stand on the line without FCS, whether its head has been offered to the dispatcher and with how many
bytes, and MAX_FRAME and the MACsec configuration as they stood at its delimiter (R249, R257). -/
structure RxFrame where
  pid : Nat
  ts : Nat
  tag : Nat
  raw : Bytes
  offered : Bool
  given : Nat
  maxFrame : Nat
  sec : SecView
deriving DecidableEq, Repr

/-- One line port. -/
structure LiuPort where
  rx : Option RxFrame
  txts : List TxTs
  /-- Captures lost to a full FIFO. -/
  txDrop : Nat
  /-- The older receive AN still accepted after a switch, and the monotonic count at which that ends (R260). -/
  overlap : Option (Nat × Nat)
  /-- Keys of enabled SAs, SA d, a at 4d + a. -/
  sa : SMap SaKey
  /-- Monotonic count of the last write of LIU_PORT_CFG or LIU_MSEC_CFG, with MAX_FRAME and LIU_MSEC_CFG as they stood
  before that tick's first write (R249, R257). -/
  before : Option (Nat × Nat × Word)
  /-- The frame that was in progress on the line when EN was cleared (R249). -/
  sending : Option Nat
  /-- The PHC second last counted in FEC_DEGRADE (R250). -/
  fecSec : Option Nat
  /-- The frame in progress on the line when its MACsec configuration changed, with the one it began under (R257, R260). -/
  txSec : Option (Nat × SecView)
deriving DecidableEq, Repr

/-- A port that has seen nothing. -/
def LiuPort.init : LiuPort := ⟨none, [], 0, none, [], none, none, none, none⟩

/-- One OTUC slice framer (R264): open candidates with their counts while hunting, or the frame position and the
error count. -/
structure Framer where
  pos : Option Nat
  errs : Nat
  cands : List (Nat × Nat)
deriving DecidableEq, Repr

/-- What one PM second has gathered (R275): the PHC second it began in, PARTIAL, near-end and far-end errored
blocks, blocks, and whether a near-end or far-end defect stood in it. -/
structure PmSec where
  sec : Nat
  /-- PHC second whose start ends it. -/
  until_ : Nat
  part : Bool
  neEb : Nat
  feEb : Nat
  blocks : Nat
  neDef : Bool
  feDef : Bool
deriving DecidableEq, Repr

/-- A PM second that has ended and waits for its final grading (R276): errored and severely errored at each end. -/
structure PmRec where
  sec : Nat
  part : Bool
  neEb : Nat
  neEs : Bool
  neSes : Bool
  feEs : Bool
  feSes : Bool
deriving DecidableEq, Repr

/-- One OTN port. -/
structure Otn where
  framers : List Framer
  /-- Last MFAS byte, and consecutive frames in which it failed to increase by one, and in which it did. -/
  mfas : Nat
  mfasBad : Nat
  /-- Monotonic counts since which dOOF, all slices in frame, the MFAS failure and correct MFAS have lasted. -/
  oofSince : Option Nat
  inSince : Option Nat
  lomSince : Option Nat
  mfasOkSince : Option Nat
  /-- APS value being received and how many consecutive times. -/
  apsRun : Nat × Nat
  /-- Fraction, in 2^-16 words, of the client words received by the mapper (R267). -/
  aFrac : Nat
  txMfas : Nat
  /-- The last good Cm received, which is that of the next frame (R268). -/
  rxCm : Nat
  /-- Cm of the frame that leaves next, whether the frame that left last carried AIS, OCI or LCK in place of the client,
  and the client words the demapper has delivered (R267, R268, R272). -/
  txCm : Nat
  txCut : Bool
  rxWords : Nat
  pm : PmSec
  /-- Ended seconds not yet published, oldest first. -/
  pmWait : List PmRec
  /-- Unavailable time runs, near end and far end (R276). -/
  neUnav : Bool
  feUnav : Bool
  /-- Records in the read FIFO. -/
  fifo : List Word
deriving DecidableEq, Repr

/-- An OTN port at reset. -/
def Otn.init : Otn :=
  ⟨List.replicate 4 ⟨none, 0, []⟩, 0, 0, none, none, none, none, (0, 0), 0, 0, 0, 0, false, 0,
   ⟨0, 1, false, 0, 0, 0, false, false⟩, [], false, false, []⟩

/-- The line interface. -/
structure Liu where
  ports : SMap LiuPort
  otn : SMap Otn
  /-- Association switches that act on the tick after their write (R260), as ARG words with the monotonic count of it. -/
  switches : List (Nat × Nat)
  /-- Lanes whose clock is locked (R525), other than at reset: a lane listed has lost lock. -/
  unlocked : List Nat
deriving DecidableEq, Repr

/-! ### Traffic manager (ch. 9) -/

/-- A packet in a skein: the packet, its cells' billets as pool × 2^32 + index, whether it may cut through, whether
its last byte has been stored and found good, bytes the fabric has sent, and its admission place. -/
structure QPkt where
  pkt : Packet
  cells : List Nat
  cut : Bool
  stored : Bool
  /-- Reassembled from the fabric: admitted at its first cell (R358). -/
  fabric : Bool
deriving DecidableEq, Repr

/-- A queue: its skein oldest first, AVG with 16 fraction bits, SPILL, and for a VOQ its credit, and demand and
monotonic count of its last request (R360, R362). -/
structure Queue_ where
  skein : List QPkt
  avg : Nat
  spill : Bool
  credit : Int
  lastReq : Option (Nat × Nat)
  /-- A VOQ's DEMAND has been zero since its last request (R360). -/
  zeroed : Bool
deriving DecidableEq, Repr

/-- A queue that has seen nothing. -/
def Queue_.init : Queue_ := ⟨[], 0, false, 0, none, false⟩

/-- The token buckets of a node (R305), in 1/128,000 byte, as they stood at a monotonic count; a bucket never
charged is absent and full. -/
structure Bucket where
  peak : Option Int
  comm : Option Int
  last : Nat
deriving DecidableEq, Repr

/-- A cut-through packet whose head has left the TMG: its number and that of its frame, the port, its length at
selection with the bytes that have arrived since, its cells, the nodes it was charged to (R305) and the deficits it
was selected under. -/
structure CutRec where
  pid : Nat
  src : Nat
  port : Nat
  queue : Nat
  len : Nat
  cells : List Nat
  nodes : List Nat
  trail : List Nat
  /-- The whole frame is complete. -/
  complete : Bool
  /-- It has been ended with a stomped FCS (R311). -/
  stomped : Bool
deriving DecidableEq, Repr

/-- The gate control lists of a port (R316): the PHC value, in 2^-48 ns, at which the operational list's cycle
started, the longest open time in ns of each gate recorded at the swap (R318), and the monotonic counts of the
SWAP_NOW writes that wait for their next tick (R314). -/
structure Gcl where
  start : Nat
  longest : List Nat
  swapNow : List Nat
deriving DecidableEq, Repr

/-- A capture record on its way to DDR5 (R327): its bytes. -/
structure CapRec where
  bytes : Bytes
deriving DecidableEq, Repr

/-- The traffic manager. -/
structure Tmg where
  qs : SMap Queue_
  /-- Token buckets: node n of level l at l × 2^19 + n. -/
  buckets : SMap Bucket
  /-- Deficits in bytes: child node n of level l, committed round at (l × 2^19 + n) × 2, excess round at + 1. -/
  defs : SMap Int
  /-- Child last served by a node, per round, keyed the same way. -/
  rr : SMap Nat
  /-- Nodes found eligible when eligibility was last judged. -/
  elig : List Nat
  cuts : List CutRec
  /-- Packets whose head has left and that were refused a cell, by number: the bytes held then (R311). -/
  shorts : SMap Nat
  gcl : SMap Gcl
  /-- Batches that SHAPE_APPLY asked for, each with the monotonic count of its write, to apply on the next tick (R307). -/
  batches : List (Nat × Nat)
  /-- The range being flushed (R322): first queue and count. -/
  flush : Option (Nat × Nat)
  /-- Capture records on their way. -/
  cap : List CapRec
  capSeq : Nat
  /-- Rate of capture requests (R330): ticks the records taken so far still use up, as of a monotonic count. -/
  capLoad : Nat × Nat
  /-- Refusals since the last captured one (R326), and packets of each port since the last sampled one (R325). -/
  refusals : Nat
  samples : SMap Nat
deriving DecidableEq, Repr

/-! ### Billet pools (ch. 10) -/

/-- A refused release, increment or transfer (R344): code, requester, pool, index, PHC time, tag, address. -/
structure BpmRec where
  code : Nat
  req : Nat
  pool : Nat
  index : Nat
  phc : Nat
  tag : Nat
  addr : Nat
deriving DecidableEq, Repr

/-- One pool (R334): billets released, most recent first, the first billet never used, billets allocated, and
billets retired (R346). -/
structure PoolSt where
  freed : List Nat
  next : Nat
  used : Nat
  retired : Nat
  /-- The monotonic count of the write that enabled it, which takes effect on the next tick. -/
  on : Option Nat
deriving DecidableEq, Repr

/-- A pool never used. -/
def PoolSt.init : PoolSt := ⟨[], 0, 0, 0, none⟩

/-- The billet pool manager. -/
structure Bpm where
  pools : SMap PoolSt
  /-- The 16-bit tag of billet i of pool n at n × 2^32 + i; unlisted is free and not retired. -/
  tags : SMap Nat
  log : List BpmRec
  /-- RESULT of the command in progress. -/
  result : Option Nat
  /-- Cells the TMG has let go of on this tick, whose releases reach the BPM on the next, oldest first (R337). -/
  letGo : List Nat
deriving DecidableEq, Repr

/-! ### Fabric interface (ch. 11) -/

/-- A cell sent (R349, R350): a data cell; a request or grant cell with VER, SRC, DST and its valid entries; a link control
cell with VER, SRC, NEXT_SEQ, ACK_SEQ and NAK. -/
inductive FabCell
  | data (c : Cell)
  | request (ver src dst : Nat) (es : List ReqEntry)
  | grant (ver src dst : Nat) (es : List GrantEntry)
  | control (ver src next ack : Nat) (nak : Bool)
deriving DecidableEq, Repr

/-- One fabric link (R347, R351). Link sequences are 12 bits. -/
structure FabLink where
  /-- Good link control cells in a row while training. -/
  good : Nat
  /-- Link sequence of the next cell sent, and the cells sent and not acknowledged, oldest first, with theirs. -/
  txSeq : Nat
  replay : List (Nat × FabCell)
  /-- NEXT_SEQ of the last good link control cell, and the last link sequence received in order. -/
  rxSeq : Nat
  ack : Nat
  /-- A cell failed its CRC: cells are discarded until `ack` + 1 arrives again. -/
  nak : Bool
  /-- Monotonic count of the last good link control cell. -/
  lastCtl : Nat
  /-- One more than the slot a cell left in last (R350, R353). -/
  slot : Nat
  /-- A replay that was asked for (R351): the link sequence its next slot carries, and whether a link control cell has
  announced it. -/
  back : Option Nat
  told : Bool
  /-- Monotonic count of the last CRC failure. -/
  failAt : Nat
deriving DecidableEq, Repr

/-- A link that has seen nothing. -/
def FabLink.init : FabLink := ⟨0, 0, [], 0, 4095, false, 0, 0, none, false, 0⟩

/-- The packet whose cells are being sent to a destination: its VOQ, its number, the payload bytes sent, its VER. -/
structure FabSend where
  voq : Nat
  pid : Nat
  sent : Nat
  ver : Nat
deriving DecidableEq, Repr

/-- The sender's state for one destination (R353, R356): next SEQ, whether the SYNC cell is still to be sent, the
monotonic count until which cells are held, and the VOQ and packet whose cells are being sent. -/
structure FabDst where
  seq : Nat
  synced : Bool
  hold : Option Nat
  sending : Option FabSend
deriving DecidableEq, Repr

/-- A destination nothing has been sent to. -/
def FabDst.init : FabDst := ⟨0, false, none, none⟩

/-- The receiver's state for one source (R354 to R358): expected SEQ once synchronised, the cells held with
the monotonic counts at which they came, and the packet being reassembled, or its discarding. -/
structure FabSrc where
  exp : Option Nat
  held : List (Cell × Nat)
  /-- none: between packets; some none: discarding to the next FIRST; some (some pid): packet in reassembly. -/
  asm : Option (Option Nat)
  /-- VER, EPOCH and QUEUE that the cells of that packet show. -/
  mark : BitVec 4 × BitVec 2 × Fin 524288
deriving DecidableEq, Repr

/-- A source nothing has been received from. -/
def FabSrc.init : FabSrc := ⟨none, [], none, 0, 0, 0⟩

/-- A demand record (R361): target queue, demand, monotonic count of the last request. -/
structure Demand where
  target : Nat
  demand : Nat
  last : Nat
deriving DecidableEq, Repr

/-- The fabric interface. -/
structure Fab where
  links : SMap FabLink
  dsts : SMap FabDst
  srcs : SMap FabSrc
  /-- Demand of VOQ v of source s at s × 2^19 + v. -/
  demands : SMap Demand
  /-- The record each egress port granted last (R361). -/
  grantRr : SMap Nat
  /-- Monotonic count from which each egress port may grant again (R361). -/
  grantAt : SMap Nat
  /-- The link the last cell left on. -/
  lastLink : Nat
  /-- Cells of links that left Up, to be sent again ahead of new cells (R352), oldest first. -/
  resend : List FabCell
  /-- Request and grant cells that wait for a link, oldest first. -/
  outbox : List FabCell
deriving DecidableEq, Repr

/-! ### Memory controllers (ch. 12) -/

/-- One bank (R374): the page counter, the row of its last access, whether that row is open, and the monotonic count
of that access. -/
structure MBank where
  ctr : Nat
  row : Option Nat
  opened : Bool
  last : Nat
deriving DecidableEq, Repr

/-- A bank at reset. -/
def MBank.init : MBank := ⟨1, none, false, 0⟩

/-- One refresh unit (R375 to R377): debt, doubled rate, monotonic counts of the last interval boundary and of the last
poll. -/
structure RefSt where
  debt : Int
  hot : Bool
  last : Nat
  poll : Nat
deriving DecidableEq, Repr

/-- A refresh unit at start-up. -/
def RefSt.init : RefSt := ⟨0, false, 0, 0⟩

/-- A window access in progress (R390): write or read, and its number among the requests that arrive (R383). -/
structure WinOp where
  write : Bool
  no : Nat
deriving DecidableEq, Repr

/-- A request held for a channel (R383), with its number among those that arrive. -/
structure HeldReq where
  chan : Nat
  no : Nat
  req : MemReq
  /-- A unit that moves its own data asked, and whether it waits for the answer. -/
  own : Option Bool
deriving DecidableEq, Repr

/-- One memory controller. -/
structure Mem where
  /-- Bytes by address; an unlisted byte is zero, as the fill leaves it (R391). -/
  bytes : SMap Byte
  banks : SMap MBank
  units : SMap RefSt
  /-- Channel whose periodic run is in progress, and whether it is to end aborted (R381). -/
  run : Option (Nat × Bool)
  /-- Target of the frequency change in progress, and the next one (R381). -/
  change : Option Nat
  nextReq : Option Nat
  /-- Monotonic count of each channel's last request. -/
  lastReq : SMap Nat
  /-- Requests held for a channel, oldest first (R383). -/
  held : List HeldReq
  /-- Addresses of such requests that have been served, the answer not yet taken. -/
  got : List Nat
  /-- Channels whose self-refresh exit has started (R384). -/
  waking : List Nat
  win : Option WinOp
  /-- Requests and window accesses that have arrived so far. -/
  arrived : Nat
  /-- Monotonic count of each channel's last periodic turn (R380). -/
  turns : SMap Nat
  /-- PULL_MAX and POST_MAX as they stood before a write on the tick given (R376). -/
  refOld : Option (Nat × Nat × Nat)
  /-- The scrubber (R387): next address, monotonic count of its last read, and reads that wait for their channel. -/
  scrubAt : Nat
  scrubLast : Nat
  scrubWait : List Nat
deriving DecidableEq, Repr

/-- A controller at reset. -/
def Mem.init : Mem := ⟨[], [], [], none, none, none, [], [], [], [], none, 0, [], none, 0, 0, []⟩

/-! ### Host interface and rings (ch. 13, 14) -/

/-- One slice (R398 to R415): its state (0 free, 1 active, 2 reset held, 3 removing), its generation, the staging
words its binding and resources were taken from, and its written-page log. -/
structure SliceSt where
  st : Nat
  gen : Nat
  bind : Word
  res0 : Word
  res1 : Word
  res2 : Word
  res3 : Word
  faults : Nat
  logA : Word
  logB : Word
  logBase : Word
  pages : Nat
  logOn : Bool
  /-- Current bitmap: false = A, true = B. -/
  cur : Bool
  outPrev : Bool
  outCur : Bool
  /-- Monotonic count of the last log swap, on whose tick writes still mark the old bitmap (R415). -/
  swapAt : Option Nat
deriving DecidableEq, Repr

/-- A slice that has never been cast on: the staging registers' reset values. -/
def SliceSt.init : SliceSt :=
  ⟨0, 0, 0, 0x0001000000000000, 0, 0, 0, 0, 0, 0, 0, 64, false, false, false, false, none⟩

/-- Work of a descriptor that has started and not ended (R428): its number, its place in the ring's start order, its
descriptor, the generation it started under, its deadline, whether it has passed it, and whether an orphan's engine
has finished with it. -/
structure Work where
  wid : Nat
  ord : Nat
  pos : Nat
  desc : BitVec 512
  gen : Nat
  deadline : Option Nat
  orphan : Bool
  finished : Bool
deriving DecidableEq, Repr

/-- A completion that has not reached the completion ring (R431), with the data its work still has to write. -/
structure Ended where
  ord : Nat
  tick : Nat
  pos : Nat
  op : Nat
  tag : Nat
  irq : Bool
  gen : Nat
  status : Nat
  detail : Nat
  res0 : Word
  res1 : Word
  dst : Nat
  data : Bytes
deriving DecidableEq, Repr

/-- What a ring pair was when a tick began, kept from the first change of it on that tick (R420, R428): the tick, its state,
CQ_TAIL, INFLIGHT, how many descriptors were fetched, its entries of the group buffer, whether every started descriptor's
completion was written, and TIMEOUT_US. -/
structure RingThen where
  tick : Nat
  st : Nat
  tail : Nat
  inflight : Nat
  fetched : Nat
  group : Nat
  still : Bool
  timeout : Nat
deriving DecidableEq, Repr

/-- One ring pair (R419 to R421). -/
structure Ring where
  /-- 0 disabled, 1 enabled, 2 disabling. -/
  st : Nat
  sqBase : Word
  cqBase : Word
  pub : Word
  /-- RING_CFG but for EN and STATE. -/
  cfg : Word
  start : Word
  cqHead : Word
  sqHead : Nat
  cqTail : Nat
  /-- Descriptors fetched and not started, from SQ_HEAD on. -/
  fetched : List (BitVec 512)
  works : List Work
  /-- Work that has ended and whose completion is to be written, in the order of its end. -/
  ended : List Ended
  /-- Completions in the group buffer for want of room in the completion ring. -/
  waiting : List Ended
  /-- The counters of RING_ERR. -/
  err : Word
  started : Nat
  /-- An index has changed since the last publish record, or a final one is owed. -/
  pubDue : Bool
  /-- A completion with IRQ = 1 has been written and not yet published; an interrupt is due; end of the hold-off. -/
  irqNext : Bool
  irqDue : Bool
  holdEnd : Nat
  /-- Monotonic counts: of the last start, of the last publish record, and of the last poll where it found the slot
  unwritten (R426 to R428). -/
  startAt : Option Nat
  pubAt : Option Nat
  pollAt : Option Nat
  before : Option RingThen
deriving DecidableEq, Repr

/-- A ring pair at reset. -/
def Ring.init : Ring :=
  ⟨0, 0, 0, 0, 0x63040000000FA00, 0, 0, 0, 0, [], [], [], [], 0, 0, false, false, false, 0, none, none, none, none⟩

/-- A bitmap word in the mark cache (R414): slice, bitmap, word, its address, and the marks gathered. -/
structure Mark where
  sl : Nat
  b : Bool
  w : Nat
  addr : Nat
  bits : Word
deriving DecidableEq, Repr

/-- What a slice command waits for with BUSY at 1 (R399). -/
inductive HifJob
  | reset (sl : Nat)
  | remove (sl : Nat)
  | flush (sl : Nat)
deriving DecidableEq, Repr

/-- The host interface. -/
structure Hif where
  slices : SMap SliceSt
  /-- Ring r of slice s at 64s + r, ring r of PF0 at 262144 + r. -/
  rings : SMap Ring
  /-- Work of earlier generations: its number and its slice. -/
  old : List (Nat × Nat)
  /-- Service threads that a reset of their slice has stopped and that may still run, with the slice (R406). -/
  oldThr : List (Nat × Nat)
  /-- Resets written to a slice's page while commands of PF0 for the slice wait on the same tick (R402). -/
  ctlDue : List Nat
  /-- The mark cache of at most 16,384 words, oldest first, and words that have left it for want of room and wait for their
  merge (R414). -/
  marks : List Mark
  leaving : List Mark
  /-- Flushes in progress: slice and bitmap. -/
  flush : List (Nat × Bool)
  job : Option HifJob
  /-- Bus Master Enable of PF0 and PF1. -/
  bme0 : Bool
  bme1 : Bool
  nextWork : Nat
  /-- Monotonic count of the mailbox owner's claim or last GO, and of the GO of a command in progress (R417, R418). -/
  mbxSince : Nat
  mbxGo : Nat
deriving DecidableEq, Repr

/-! ### Cipher engine (ch. 15) -/

/-- A key slot (R442, R443); `version` numbers its installations. -/
structure Slot where
  kind : Nat
  wrappable : Bool
  macsec : Bool
  usage : Nat
  key : Bytes
  salt : Bytes
  version : Nat
deriving DecidableEq, Repr

/-- An IV guard (R455): the highest IV accepted, and those of the 1,024 up to it that have been accepted. -/
structure Guard where
  high : Option Nat
  seen : List Nat
  warned : Bool
deriving DecidableEq, Repr

/-- A guard that has accepted nothing. -/
def Guard.init : Guard := ⟨none, [], false⟩

/-- A derived-cache entry (R445): slot, label, the version of the root key, key and salt, pinned, guard. -/
structure Derived where
  slot : Nat
  label : Nat
  version : Nat
  key : Bytes
  salt : Bytes
  pinned : Bool
  guard : Guard
deriving DecidableEq, Repr

/-- Who sent a look-aside request (R456): a thread's CIPH by thread key and work number, or the work of a ring's
descriptor by ring and work number. -/
inductive CphSrc
  | prog (thr wid : Nat)
  | host (ring : Nat) (wid : Nat)
deriving DecidableEq, Repr

/-- A look-aside request that the scheduler has yet to judge or has accepted: FN, slot, label, IV, the bytes it
covers as additional data and protected region; once accepted, the key and salt it captured and the version of its
slot. -/
structure CphReq where
  src : CphSrc
  /-- Monotonic count of its arrival. -/
  tick : Nat
  fn : Nat
  slot : Nat
  label : Nat
  iv : Nat
  aad : Bytes
  region : Bytes
  /-- The lengths of R457 do not fit. -/
  badLen : Bool
  key : Bytes
  salt : Bytes
  version : Nat
deriving DecidableEq, Repr

/-- One notice (R464): TYPE and the record's bits [59:0]. -/
structure CphNotice where
  type : Nat
  low : Nat
deriving DecidableEq, Repr

/-- A key command in progress (R451 to R453, R466): OP and slots, its RESULT once it has taken effect, the slot whose
erase it waits for, whether the Hearth runs it to recover a slot, and whether the lock is to be released after it. -/
structure KeyJob where
  op : Nat
  slot : Nat
  slot2 : Nat
  result : Option Nat
  erase : Option Nat
  recover : Bool
  release : Bool
deriving DecidableEq, Repr

/-- The cipher engine. -/
structure Cph where
  slots : SMap Slot
  /-- Slots whose storage has an uncorrectable error (R466). -/
  bad : List Nat
  /-- Guards of direct slots. -/
  guards : SMap Guard
  /-- The derived-key cache, most recently used first. -/
  cache : List Derived
  /-- Requests that have arrived and not been judged, in arrival order. -/
  arrived : List CphReq
  /-- Requests accepted and waiting for a core, in acceptance order, and those running, by core. -/
  queue : List CphReq
  running : SMap CphReq
  notify : List CphNotice
  job : Option KeyJob
  /-- The Hearth has asked for the key lock to recover a slot (R466). -/
  recover : List Nat
  /-- Deficits of the three sources (programs, PF0, slices) and of each slice at 4 + slice, in bytes, and the source
  and slice served last (R458). -/
  defs : SMap Nat
  lastSrc : Nat
  lastSlice : Nat
  nextVersion : Nat
deriving DecidableEq, Repr

/-! ### Control sequencers (ch. 16) -/

/-- A port access that has not returned (R471, R472): the microword that issued it, port, operation, words moved,
address, first data register, constant, the data it writes, and whether its step waits for it. -/
structure PortAcc where
  upc : Nat
  port : Nat
  pop : Nat
  burst : Nat
  addr : Word
  dreg : Nat
  const : Nat
  data : List Word
  elastic : Bool
deriving DecidableEq, Repr

/-- What a trap saves (R473): the micro-PC of its microword, the cause, its monotonic count, and the other traps of its clock
with their micro-PCs and vectors. Its pending accesses stay in `SeqSt.pend`. -/
structure SavedTrap where
  upc : Nat
  code : Nat
  tick : Nat
  rest : List (Nat × Nat × Nat)
deriving DecidableEq, Repr

/-- Work of a duty that two sequencers share (R468), beside learns, which carry theirs: a respread, the copy of a bank to its
spare, the clearing of a TCAM table, the flush of a port, and a range flush. -/
inductive DutyWork | respread | spareCopy (bank : Nat) | tcamClear (table : Nat) | portFlush (port : Nat) | rangeFlush
deriving DecidableEq, Repr

/-- One control sequencer (R469 to R475): STATE, micro-PC, scratch registers, flags f0 to f15, call stack, the ALU and
port conditions, pending accesses, the elastic step in progress (0 none, 1 waiting, 2 returned), what a trap handler
in progress saved, the counters, the requests it serves with the one in hand first, the times of its faults, whether
it stays faulted, its checkpoint, and its scratch SRAM. -/
structure SeqSt where
  st : Nat
  upc : Nat
  regs : SMap Word
  flags : Nat
  stack : List Nat
  zf : Bool
  cf : Bool
  nf : Bool
  perr : Bool
  pcorr : Bool
  pend : List PortAcc
  wait : Nat
  saved : Option SavedTrap
  traps : Nat
  faults : Nat
  queue : List Nat
  faultAt : List Nat
  dead : Bool
  ckpt : Nat
  sram : SMap Word
  /-- Monotonic count from which the microword at UPC may run, or since which it is stalled or elastic (R472). -/
  since : Nat
  /-- Monotonic count of the last write of s31, from which COND 8 counts (R470). -/
  ival : Nat
deriving DecidableEq, Repr

/-- A sequencer at reset. -/
def SeqSt.init : SeqSt :=
  ⟨0, 0, [], 0, [], false, false, false, false, false, [], 0, none, 0, 0, [], [], false, 0, [], 0, 0⟩

/-- A service request from GO to its end (R480 to R482): slot, service, memory (true = HBM3E), range, destination or
pattern, and whether an abort waits. -/
structure SvcReq where
  slot : Nat
  svc : Nat
  hbm : Bool
  addr : Nat
  len : Nat
  val : Word
  /-- Monotonic count of the write of GO, and of an ABORT (R482). -/
  came : Nat
  abort : Option Nat
deriving DecidableEq, Repr

/-- The control sequencers: the patch bank in force (false = the first), the patch RAMs and redirect entries of both
banks, CKPT_VER of the staged patch, the start of a quiesce, and the service requests in order of arrival. -/
structure Csq where
  seqs : SMap SeqSt
  bankB : Bool
  micro : SMap Word
  nano : SMap (BitVec 96)
  redir : SMap Nat
  stagedCkpt : Nat
  quiesceAt : Nat
  reqs : List SvcReq
  /-- Work in hand or waiting of the TCAM and bind-off duties, and the sequencer it is given to (R468). -/
  given : List (DutyWork × Nat)
  /-- Slots whose GO was refused on this tick (R481). -/
  refusals : List Nat
  /-- A staged patch begins to quiesce on the next tick (R478). -/
  staging : Bool
deriving DecidableEq, Repr

/-! ### Gauge (ch. 17) -/

/-- A wrapped counter whose sample waits for its detection (R494 to R496): counter, monotonic count of detection, PHC
of the event tick, qualifier, and the charged thread with its instruction count and, of a packet thread, its packet at the
event. -/
structure SampleDue where
  ctr : Nat
  at_ : Nat
  phc : Nat
  unit : Nat
  thr : Option (Nat × Nat × Option Nat)
deriving DecidableEq, Repr

/-- One sample record (R495). -/
structure SampleRec where
  ended : Bool
  thrV : Bool
  ctr : Nat
  thr : Nat
  pc : Nat
  unit : Nat
  phc : Nat
  skid : Nat
deriving DecidableEq, Repr

/-- The Gauge: the occurrences of this tick by event (block × 1024 + code) × 2^17 + qualifier, the threads that caused
them, the threads whose engines owe a second issue cycle with the count of the first, whether this tick's increments have been made, the
counters whose event was non-zero on the last tick, the snapshots asked for on the next tick and due on this one, a
pending clear of the slot counters with the tick of its write, the samples to be detected, and the sample FIFO. -/
structure Gau where
  pend : SMap Nat
  who : List (Nat × Nat)
  carry : List (Nat × Nat)
  done : Bool
  hot : List Nat
  snapNext : Nat
  snapDue : Nat
  slotClr : Option Nat
  due : List SampleDue
  fifo : List SampleRec
deriving DecidableEq, Repr

/-! ### The Hearth (ch. 18) -/

/-- A directory copy with a good CRC (R501, R502): SEQ, ACTIVE, and the state and TRIES of slots A and B. States: 0
Empty, 1 Valid, 2 Try, 3 Good, 4 Bad. -/
structure DirCopy where
  seq : Nat
  active : Nat
  stA : Nat
  triesA : Nat
  stB : Nat
  triesB : Nat
deriving DecidableEq, Repr

/-- The directory as it is taken where no copy is valid (R502). -/
def DirCopy.blank : DirCopy := ⟨0, 0, 0, 0, 0, 0⟩

/-- A settings copy with a good digest (R515): SEQ, FORMAT, and the bytes from offset 64 on. -/
structure SetCopy where
  seq : Nat
  format : Nat
  data : Bytes
deriving DecidableEq, Repr

/-- An update in progress (R518): the slot, LENGTH, the 64 KiB sectors erased so far. -/
structure Update where
  slot : Nat
  len : Nat
  erased : Nat
deriving DecidableEq, Repr

/-- One fused owner key (R510): its digest and its revoke fuse. -/
structure OwnerKey where
  digest : Bytes
  revoked : Bool
deriving DecidableEq, Repr

/-- The firmware that runs (R512, R513): its image's digest, VERSION's low 16 bits, SVN, its settings FORMAT. -/
structure Firmware where
  digest : Bytes
  ver : Nat
  svn : Nat
  format : Nat
deriving DecidableEq, Repr

/-- What the Hearth does once its response has been delivered (R514, R521, R503). -/
inductive After
  | reset
  | hitless
deriving DecidableEq, Repr

/-- The Hearth: the boot flash (both directory copies, the two slots' written bytes at slot × 2^25 + offset, both
settings copies), the fuses, and what it holds while it runs. -/
structure Hrt where
  dir0 : Option DirCopy
  dir1 : Option DirCopy
  /-- Every byte of a slot that has been written since its erase is listed. -/
  flash : SMap Byte
  set0 : Option SetCopy
  set1 : Option SetCopy
  owner : List OwnerKey
  ownerRoot : Bytes
  locked : Bool
  vendorSvn : Nat
  ownerSvn : Nat
  /-- Certificate slot 1. -/
  cert1 : Bytes
  /-- The settings copy in use (none: the firmware's defaults) and the staged bytes. -/
  inUse : Option SetCopy
  staged : SMap Byte
  /-- The slot that runs; none in recovery and before start-up. -/
  running : Option Nat
  fw : Firmware
  open_ : Option Update
  /-- The slot closed by the last UPDATE_END. -/
  closed : Option Nat
  /-- An unused nonce and the monotonic count of its issue. -/
  nonce : Option (Bytes × Nat)
  /-- The response to the mailbox command in progress, and what follows its delivery. -/
  resp : Option Bytes
  after : Option After
  /-- The response with a hitless activation has been delivered, and the restart is due: the new slot. -/
  restart : Option Nat
  /-- Digest of the sequencer patch in each patch bank, and of the image in each program bank 2c + b with its
  signer. -/
  patchA : Bytes
  patchB : Bytes
  banks : SMap (Bytes × Nat)
deriving DecidableEq, Repr

/-- Firmware before start-up. -/
def Firmware.none : Firmware := ⟨[], 0, 0, 0⟩

/-! ### Errors (ch. 19) -/

/-- One error record (R538). -/
structure ErrRec where
  cls : Nat
  block : Nat
  kind : Nat
  unit : Nat
  code : Nat
  withheld : Bool
  seq : Nat
  /-- PHC time of the event's tick. -/
  phc : Nat
  detail : Word
deriving DecidableEq, Repr

/-- A report a block agent holds while the management complex restarts (R541): its record and its tick. -/
structure HeldReport where
  report : ErrRec
  tick : Nat
deriving DecidableEq, Repr

/-- One retirable unit (R529, R537). -/
structure UnitSt where
  /-- 0 live, 1 retired, 2 over threshold with retirement withheld. -/
  state : Nat
  /-- Retired by software. -/
  bySw : Bool
  /-- Monotonic count at which the open window closes, and the threshold it was opened under. -/
  winEnd : Option Nat
  winThresh : Nat
  winCount : Nat
  total : Nat
deriving DecidableEq, Repr

/-- A unit that has had no event. -/
def UnitSt.init : UnitSt := ⟨0, false, none, 0, 0, 0⟩

/-- The error and retirement unit. -/
structure Err where
  fifo : List ErrRec
  seq : Nat
  held : List HeldReport
  /-- Unit u of kind k at 1024k + u. -/
  units : SMap UnitSt
  /-- Units whose count has crossed the threshold, for CSQ22 to act on (R529). -/
  crossed : List Nat
  /-- Retirements that fall due: unit key, and the tick of the write where software asked (R531, R536). -/
  toRetire : List (Nat × Option Nat)
  /-- Bridge modules out of service to retrain (R526). -/
  bridgeOut : List Nat
  /-- Interrupt sources with an event on this tick, and whether the event found the bit set (R540). -/
  seen : List (Nat × Bool)
  /-- The vectors that the functions' MSI-X tables mask, and those raised meanwhile, which wait (R434): function, number. -/
  masked : List (Nat × Nat)
  msixPend : List (Nat × Nat)
deriving DecidableEq, Repr

/-! ### Pins (ch. 20) -/

/-- The pins that carry level or state of their own: a reset whose start-up has not run yet, with the CAUSE it will
show (R552); the power-good inputs, PG_IO in bit 0 to PG_HBM in bit 4 (R550); PERST0_N and PERST1_N low (R555); and the
state of the JTAG TAP, 0 = Test-Logic-Reset (R554). -/
structure Pins where
  resetDue : Option Nat
  pg : Nat
  perst0 : Bool
  perst1 : Bool
  tap : Nat
deriving DecidableEq, Repr

/-! ### What leaves the block -/

/-- What a DMA request carries (R395): its function, the PASID of a slice's, Execute and Privileged. -/
structure DmaId where
  fn : Nat
  pasid : Option Nat
  execute : Bool
  privileged : Bool
deriving DecidableEq, Repr

/-- Something the block puts out: on a pin, on a line, on the fabric or on the host bus. -/
inductive OutEvent
  | todByteRun (bs : Bytes)
  | pps (level : Bool)
  | msix (fn : Nat) (vector : Nat)
  | alert (low : Bool)
  /-- A frame on a line port, MACsec and FCS included; `stomped` marks one that ends with a stomped FCS. -/
  | frame (port : Nat) (bytes : Bytes) (stomped : Bool)
  /-- A frame cut off on the line as its lane retires (R279): the bytes sent, without the rest and without an FCS. -/
  | frameCut (port : Nat) (bytes : Bytes)
  /-- A cell on a fabric link: its 256 bytes. -/
  | cell (link : Nat) (bytes : Bytes)
  /-- The data a memory read returns to the unit that asked, flagged where it is uncorrectable. -/
  | memData (m : MemCtl) (addr : Nat) (bytes : Bytes) (bad : Bool)
  /-- An OTUC4 frame sent: port, the frame's payload words in order, true for a client word and false for stuff, the JC
  bytes of its four slices, the APS/PCC bytes, AIS, OCI, LCK, BDI. -/
  | otn (port : Nat) (words : List Bool) (jc : List Bytes) (aps : Option (BitVec 32)) (ais oci lck bdi : Bool)
  /-- A DMA write, and a DMA read of `n` bytes (R395): what it carries, its address. -/
  | dmaWrite (id : DmaId) (addr : Nat) (bytes : Bytes)
  | dmaRead (id : DmaId) (addr n : Nat)
  /-- The event a sequencer's nanoword raises in the block it serves (R471). -/
  | seqEvent (seq code : Nat)
  /-- An SPDM response (R513) to a request, named by its row's place among the SPDM rows: the ERROR code Busy, or the
  fields the response carries. -/
  | spdm (req : Nat) (busy : Bool) (body : Bytes)
  /-- GPIO outputs that changed: directions and levels (R547). -/
  | gpio (dir level : Nat)
deriving DecidableEq, Repr

/-! ### The whole state -/

/-- The state of the T6400. -/
structure State where
  /-- The commands that wait, first in, first out. -/
  pending : List Instr
  /-- The register file, by absolute BAR0 address; an unlisted register holds its reset value. -/
  regs : SMap Word
  /-- Registers of which a write applies to later ticks, written on this one, as they stood before it (R170, R175, R364,
  R483). -/
  was : SMap Word
  /-- The data the last host read returned (the model's own field). -/
  lastRead : Word
  /-- What the block has put out, newest first (the model's own field). -/
  out : List OutEvent
  /-- How many free values the run has drawn (the model's own field). -/
  freeCtr : Nat
  /-- The management complex is restarting (R73, R522). -/
  mgmtDown : Bool
  /-- The bridge has trained since reset (R30). -/
  bridgeUp : Bool
  tau : Tau
  sen : Sen
  ppu : Ppu
  lkp : Lkp
  tcam : Tcam
  err : Err
  gau : Gau
  liu : Liu
  tmg : Tmg
  bpm : Bpm
  fab : Fab
  mcd : Mem
  mch : Mem
  cph : Cph
  hif : Hif
  csq : Csq
  hrt : Hrt
  pins : Pins
deriving DecidableEq, Repr

/-- Why a command could stop the model with a fault: nothing in the manual does, and no meaning raises one. -/
inductive Fault
  /-- Reserved for an access the manual says cannot exist; raised by no meaning of this model (safe). -/
  | absent
deriving DecidableEq, Repr

/-- Why a command is refused. -/
inductive Refusal
  /-- The command has no meaning in this model yet; raised by its arm of `exec` alone (safe). -/
  | notModelled (mnemonic : String)
deriving DecidableEq, Repr

/-- What a command's meaning answers. -/
abbrev Out := Host.Outcome State Fault Refusal

/-- The state after reset. -/
def State.reset : State where
  pending := []
  regs := []
  was := []
  lastRead := 0
  out := []
  freeCtr := 0
  mgmtDown := false
  bridgeUp := false
  tau := { phc := 0, latch := 0, mono := 0, step := none, lastDisc := 0, holdAt := none, holdClr := false,
           ppsIn := 0, ppsInLost := false, ppsOut := false, ppsEnd := 0,
           todBuf := [], todReady := false, todAt := 0, todRx := [], bridgeFault := false, qPhc := 0, ta := [], taDue := [],
           taOld := 0, taFired := 0, curEpoch := 0, pendOpen := false, prevState := 0, lastResult := 0, pendCount := 0,
           prevCount := 0, reclaim := 0, lastCommit := none, drainEnd := 0, commitDue := false }
  sen := { courses := [], banks := [], threads := [], toIng := [], toEgr := [], ingQ := [], egrQ := [], toTmg := [], toLiu := [],
           order := [], arrivals := [], load := none, stm := [], cnt := [], defer := [], nextPid := 0,
           engines := [], stmLast := [], latchAt := none, gone := [] }
  ppu := { pats := [], queue := [], lanes := [] }
  lkp := { ents := [], lpm := [], res := [], ovf := [], trieFree := [], bases := [], pfxJob := none, bad := [], copies := [], abandoned := false, delNext := [], preResult := none,
           learnQ := [], tracks := [], notify := [], clr := [], swept := [], retiredBlocks := [] }
  tcam := { rows := [], preResult := none, abandoned := false, moveSrc := none, resp := none, second := false, clr := [], sparing := [], scrubAt := 0, scrubLast := 0 }
  err := { fifo := [], seq := 0, held := [], units := [], crossed := [], toRetire := [], bridgeOut := [], seen := [], masked := [], msixPend := [] }
  gau := { pend := [], who := [], carry := [], done := false, hot := [], snapNext := 0, snapDue := 0, slotClr := none,
           due := [], fifo := [] }
  liu := { ports := [], otn := [], switches := [], unlocked := [] }
  tmg := { qs := [], buckets := [], defs := [], rr := [], elig := [], cuts := [], shorts := [], gcl := [], batches := [], flush := none, cap := [],
           capSeq := 0, capLoad := (0, 0), refusals := 0, samples := [] }
  bpm := { pools := [], tags := [], log := [], result := none, letGo := [] }
  fab := { links := [], dsts := [], srcs := [], demands := [], grantRr := [], grantAt := [], lastLink := 191, resend := [], outbox := [] }
  mcd := Mem.init
  mch := Mem.init
  cph := { slots := [], bad := [], guards := [], cache := [], arrived := [], queue := [], running := [], notify := [],
           job := none, recover := [], defs := [], lastSrc := 2, lastSlice := 4095, nextVersion := 0 }
  hif := { slices := [], rings := [], old := [], oldThr := [], ctlDue := [], marks := [], leaving := [], flush := [], job := none, bme0 := false, bme1 := false,
           nextWork := 0, mbxSince := 0, mbxGo := 0 }
  csq := { seqs := [], bankB := false, micro := [], nano := [], redir := [], stagedCkpt := 0, quiesceAt := 0, reqs := [],
           given := [], refusals := [], staging := false }
  hrt := { dir0 := none, dir1 := none, flash := [], set0 := none, set1 := none, owner := [], ownerRoot := [], locked := false,
           vendorSvn := 0, ownerSvn := 0, cert1 := [], inUse := none, staged := [], running := none, fw := Firmware.none,
           open_ := none, closed := none, nonce := none, resp := none, after := none, restart := none, patchA := [],
           patchB := [], banks := [] }
  pins := { resetDue := some 0, pg := 31, perst0 := false, perst1 := false, tap := 0 }

end Sys2Proof.Machine
end

