-- ==== Sys2Proof/Machine/Ops.lean ====
section
/-! DEFINITION. The named operations every meaning is written over: registers, outputs, interrupts, error reports
(R524 to R542), Gauge occurrences (R484), threads, and entries for service inboxes. -/

namespace Sys2Proof.Machine
open Sys2Proof

/-! ### Registers -/

/-- The reset value of element `i` of a register array. -/
def regReset (r : Reg) (i : Nat) : Word :=
  if r.base = R.TCM_BANK_CFG.base then setFld (regRst r) 53 48 i
  else if r.base = R.ERR_THRESH.base then
    setFld (setFld (setFld (regRst r) 55 40 ([0, 0, 1, 0, 0, 1, 1, 1, 0, 9].getD i 0))
      39 20 ([60000, 1000, 1000, 1000, 1000, 60000, 60000, 60000, 1000, 1000].getD i 1000))
      19 0 ([4, 3, 2, 64, 32, 8, 8, 4, 64, 1024].getD i 4)
  else if r.base = R.BPM_POOL_CFG.base then
    if i = 0 then setFld (setFld (setFld (regRst r) 63 63 1) 59 56 8) 31 0 1048576
    else if i = 1 then setFld (setFld (setFld (setFld (regRst r) 63 63 1) 62 61 1) 59 56 8) 31 0 266338304
    else regRst r
  else if r.base = R.BPM_POOL_THR.base then
    if i = 0 then at_ 65536 32 ||| at_ 131072 0 else if i = 1 then at_ 16777216 32 ||| at_ 33554432 0 else 0
  else if r.base = R.TMG_ADM_WRED.base then if i % 4 = 3 then 0 else regRst r
  else if r.base = R.MCD_XOR.base then BitVec.ofNat 64 ([0x12492400000, 0x4924800000, 0x9249000000, 0x400000, 0x800000,
    0x1000000, 0x2000000, 0x4000000].getD i 0)
  else if r.base = R.MCH_XOR.base then BitVec.ofNat 64 (2 ^ (22 + i))
  else regRst r

/-- What element `i` of a register array holds. -/
def rget (s : State) (r : Reg) (i : Nat) : Word := (mfind s.regs (regAddr r i)).getD (regReset r i)

/-- Element `i` of a register array set to a value; a register at its reset value is not listed. -/
def rset (s : State) (r : Reg) (i : Nat) (v : Word) : State :=
  { s with regs := if v = regReset r i then mdel s.regs (regAddr r i) else mput s.regs (regAddr r i) v }

/-- Element `i` of a register array as this tick acts by it, for a register of which a write applies to later ticks. -/
def rwas (s : State) (r : Reg) (i : Nat) : Word := (mfind s.was (regAddr r i)).getD (rget s r i)

/-- Field `[hi:lo]` of element `i` of a register array. -/
def rfld (s : State) (r : Reg) (i hi lo : Nat) : Nat := fld (rget s r i) hi lo

/-- Bit `b` of element `i` of a register array. -/
def rbit (s : State) (r : Reg) (i b : Nat) : Bool := bit (rget s r i) b

/-- Field `[hi:lo]` of element `i` of a register array set by the hardware. -/
def rsetF (s : State) (r : Reg) (i hi lo v : Nat) : State := rset s r i (setFld (rget s r i) hi lo v)

/-- A saturating counter field raised by `n`. -/
def rcount (s : State) (r : Reg) (i hi lo n : Nat) : State :=
  rsetF s r i hi lo (satAdd (hi + 1 - lo) (rfld s r i hi lo) n)

/-! ### Time (R36 to R38) -/

/-- Units of PHC time in a nanosecond: the PHC keeps 48 fraction bits. -/
def nsUnits : Nat := 2 ^ 48

/-- Nanoseconds of PHC time since second 0. -/
def phcNanos (phc : Nat) : Nat := phc / nsUnits

/-- PHC seconds, 48 bits. -/
def phcSec (phc : Nat) : Nat := phcNanos phc / 1000000000 % 2 ^ 48

/-- PHC nanoseconds within the second. -/
def phcNs (phc : Nat) : Nat := phcNanos phc % 1000000000

/-- The top 16 of the fraction bits. -/
def phcFrac (phc : Nat) : Nat := phc % nsUnits / 2 ^ 32

/-- Nanoseconds and fraction in the layout of TAU_PHC_NS (R38). -/
def phcNsWord (phc : Nat) : Word := BitVec.ofNat 64 (phcNs phc * 2 ^ 16 + phcFrac phc)

/-- Seconds and nanoseconds as TAU_PPS_IN_TS and the records lay them out: SEC_LO in [61:30], NS in [29:0]. -/
def secNsWord (phc : Nat) : Word := BitVec.ofNat 64 (phcSec phc % 2 ^ 32 * 2 ^ 30 + phcNs phc)

/-- PHC time wraps when its seconds do (R38). -/
def phcWrap (p : Nat) : Nat := p % (2 ^ 48 * 1000000000 * nsUnits)

/-- The time a step asks for, from the time the PHC would show without it (R39, R40). -/
def stepTarget (phc : Nat) (r : StepReq) : Nat :=
  match r with
  | .abs sec ns frac => phcWrap ((sec * 1000000000 + ns) * nsUnits + frac * 2 ^ 32)
  | .rel ofs =>
    let m : Int := 2 ^ 48 * 1000000000 * nsUnits
    (((phc : Int) + ofs.toInt * nsUnits) % m).toNat

/-- The PHC time of this tick: every unit sees a step on the first tick after its write, whichever of that tick's
commands makes it (R39). -/
def phcNow (s : State) : Nat :=
  match s.tau.step with
  | some (r, tick) => if tick = s.tau.mono then s.tau.phc else stepTarget s.tau.phc r
  | none => s.tau.phc

/-- The PHC time a unit of the Q-die reads: that of the time bus, or its own while the forwarded lane is in fault
(R49, R50). -/
def qPhcNow (s : State) : Nat := if s.tau.bridgeFault then s.tau.qPhc else phcNow s

/-! ### Arrivals and deadlines of one tick (R10, R11) -/

/-- The commands that are arrivals in the sense of R10: a packet, a cell, a descriptor, a completion, a request or an
event that reaches the block; host accesses are requests, and the end of a command or of a load is a completion. -/
def arrives (i : Instr) : Bool :=
  match i with
  | .registerWrite .. | .counterReadClear .. | .courseModeWrite .. | .sysModeWrite .. | .phcSecRead | .phcStepAbs ..
  | .phcStepRel .. | .phcFreqWrite .. | .holdTimeoutWrite .. | .ppsInEdge | .todByteRx .. | .todRxRead | .taArm ..
  | .taDisarm .. | .quenchOpen .. | .quenchAbandon .. | .quenchCommit .. | .dispatchEnqueue .. | .bankLoad .. | .swapNow ..
  | .svcStart .. | .svcStop .. | .svcWakeWrite .. | .inboxEntryArrive .. | .lookupResult .. | .pmatchResult ..
  | .stateReadResult .. | .stateDataRead | .stateDataWrite .. | .counterLatch .. | .ppuWrite .. | .ppuRead .. 
  | .ppuInvalidate .. | .frameStart .. | .frameHeaderReady .. | .frameComplete .. | .linkUp .. | .linkDown ..
  | .portEnable .. | .portDisable .. | .txtsRead .. | .otnRxFrame .. | .dlosChange .. | .damChange .. | .otnPmRead ..
  | .packetAdmit .. | .packetBodyCell .. | .packetTailStored .. | .tableDataWrite .. | .tableDataRead
  | .allocationRequest .. | .releaseRequest .. | .incrementRequest .. | .transferRequest .. | .linkControlCellRx ..
  | .refreshPoll .. | .dataCellRx .. | .requestCellRx .. | .grantCellRx .. | .memoryRequest .. | .descriptorFetch .. | .completionWrite ..
  | .cipherRequestEnd .. | .portAccessReturn .. | .mbxClaim .. | .mbxRelease .. | .mbxGo .. | .mbxResponse
  | .dmaFault .. | .ringPoll .. | .bankLoadDone .. | .lkpCommandDone .. | .tcamCommandDone .. | .ppuCommandDone ..
  | .learnApply .. | .fabricFecLockLoss .. | .bridgeTimeFault | .cqHeadWrite .. | .faultReport .. | .laneLockRegain .. | .lanePllLockLoss ..
  | .emTableEnable .. | .emTableDisable .. | .flowTableEnable .. | .flowTableDisable .. | .lkpRead ..
  | .lkpWrite .. | .lkpInsert .. | .lkpDelete .. | .lkpMove .. | .lkpWithdraw .. | .lkpNotifyRead
  | .tcamTableEnable .. | .tcamTableDisable .. | .tcamRead .. | .tcamWrite .. | .tcamDelete .. | .tcamMove ..
  | .tcamFindHole .. | .tcamSearch .. | .tcamWithdraw .. | .tcamRespread .. | .macsecSaEnable ..
  | .macsecSaDisable .. | .msecSwitchWrite .. | .shapeApply .. | .gclSwapNow .. | .rangeFlush ..
  | .captureEnable .. | .capTailWrite .. | .poolEnable .. | .poolDisable .. | .bpmAllocate .. | .bpmRelease ..
  | .bpmIncrement .. | .bpmTransfer .. | .bpmRead .. | .bpmErrLogRead | .fabricEnable .. | .fabricDisable ..
  | .trainGo .. | .trainAbort .. | .freqRequest .. | .windowRead .. | .windowWrite .. | .sliceRead ..
  | .sliceCastOn .. | .sliceResize .. | .sliceReset .. | .sliceRemove .. | .logStart .. | .logSwap .. | .logStop ..
  | .sliceCtlReset .. | .ringEnable .. | .ringDisable .. | .keyLockClaim .. | .keyLockRelease .. | .keyRead ..
  | .keyInstall .. | .keyErase .. | .keyDerive .. | .keyWrap .. | .keyUnwrap .. | .cphNotifyRead | .fill ..
  | .copy .. | .sweepNow .. | .tcamScrubPassNow .. | .trieUnitCompaction .. | .scan .. | .serviceAbort ..
  | .gauSnapNow .. | .gauSampleRead | .errRetire .. | .errLogRead | .intStatClear .. | .gpioWrite .. => true
  | _ => false

/-- The commands of this tick that wait in the queue. -/
def restOfTick (s : State) : List Instr := s.pending.takeWhile (fun i => decide (i ≠ .timeBusTick))

/-- A command of some sort still waits on this tick. -/
def comes (s : State) (p : Instr → Bool) : Bool := (restOfTick s).any p

/-- No arrival of this tick waits in the queue any more (R10). -/
def arrivalsDone (s : State) : Bool := (restOfTick s).all (fun i => !arrives i)

/-- A deadline on the monotonic count has come: its tick has passed, or it is this one and its arrivals have come
before it (R10). -/
def timeUp (s : State) (d : Nat) : Bool :=
  decide (d < s.tau.mono) || (decide (d = s.tau.mono) && arrivalsDone s)

/-- The epoch with which a packet that arrives now is stamped: on the tick of a quench instant the one it ends
(R11, R16). -/
def stampEpoch (s : State) : Nat :=
  if s.tau.lastCommit = some s.tau.mono then (s.tau.curEpoch + 65535) % 65536 else s.tau.curEpoch

/-! ### Outputs and free values -/

/-- The block puts something out. -/
def emit (e : OutEvent) (s : State) : State := { s with out := e :: s.out }

/-- The state after one more free value has been drawn. -/
def drawn (s : State) : State := { s with freeCtr := s.freeCtr + 1 }

/-- The data a host read returns. -/
def answer (w : Word) (s : State) : State := { s with lastRead := w }

/-! ### Interrupts (R539, R540) -/

/-- A function raises an MSI-X vector: the message goes out, or the vector's pending bit is set while it is masked (R434). -/
def msixRaise (fn v : Nat) (s : State) : State :=
  if s.err.masked.contains (fn, v) then
    { s with err := { s.err with msixPend := (fn, v) :: s.err.msixPend.filter (fun e => decide (e ≠ (fn, v))) } }
  else emit (.msix fn v) s

/-- ALERT_N is driven low: some bit of ERR_INT_STAT stands whose ERR_INT_ALERT bit is 1 (R539). -/
def alertLow (s : State) : Bool := decide (rget s R.ERR_INT_STAT 0 &&& rget s R.ERR_INT_ALERT 0 ≠ 0)

/-- Put out a change of ALERT_N between two states. -/
def alertEdge (s t : State) : State :=
  if alertLow s = alertLow t then t else emit (.alert (alertLow t)) t

/-- Source `k` sets its bit of ERR_INT_STAT; a bit that rises with its enable set raises vector `k` (R539). While the
error unit restarts it raises nothing: a condition that still holds sets its bit on a later tick, and a held report when
it is applied (R540, R541). -/
def intSet (k : Nat) (s : State) : State :=
  if s.mgmtDown || rbit s R.ERR_INT_STAT 0 k then s
  else
    let t := rset s R.ERR_INT_STAT 0 (setBit (rget s R.ERR_INT_STAT 0) k true)
    alertEdge s (if rbit s R.ERR_INT_EN 0 k then msixRaise 0 k t else t)

/-- An event of source `k` is noted for a clear of the same tick (R540). -/
def intNote (k : Nat) (s : State) : State :=
  if s.mgmtDown || s.err.seen.any (fun e => decide (e.1 = k)) then s
  else { s with err := { s.err with seen := (k, rbit s R.ERR_INT_STAT 0 k) :: s.err.seen } }

/-- An event of source `k` sets its bit (R539), and is noted for a clear of the same tick (R540). -/
def intRaise (k : Nat) (s : State) : State := intSet k (intNote k s)

/-! ### Error reports (R524 to R542) -/

/-- Key of unit `u` of kind `k`. -/
def unitKey (k u : Nat) : Nat := 1024 * k + u

/-- Number of units of each kind (R528). -/
def unitCount (k : Nat) : Nat := [128, 640, 32, 64, 96, 8, 128, 64, 192, 10].getD k 0

/-- Monotonic ticks of a millisecond: 0.625 ns a tick. -/
def msTicks : Nat := 1600000

/-- What unit `u` of kind `k` has counted. -/
def unitGet (s : State) (k u : Nat) : UnitSt := mget UnitSt.init s.err.units (unitKey k u)

/-- Set what a unit has counted. -/
def unitSet (s : State) (k u : Nat) (x : UnitSt) : State :=
  { s with err := { s.err with units := mset UnitSt.init s.err.units (unitKey k u) x } }

/-- One event counted against a unit on a tick (R529). The event that makes the count exceed the threshold its
window opened under is the crossing. -/
def unitEvent (k u tick : Nat) (s : State) : State :=
  let x := unitGet s k u
  let x := { x with total := satAdd 32 x.total 1 }
  match x.winEnd with
  | some e =>
    if tick ≤ e then
      let y := { x with winCount := satAdd 20 x.winCount 1 }
      let t := unitSet s k u y
      if x.winCount = x.winThresh then
        { t with err := { t.err with crossed := t.err.crossed ++ [unitKey k u] } }
      else t
    else unitSet s k u { x with winEnd := some (tick + msTicks * rfld s R.ERR_THRESH k 39 20),
                                winThresh := rfld s R.ERR_THRESH k 19 0, winCount := 1 }
  | none => unitSet s k u { x with winEnd := some (tick + msTicks * rfld s R.ERR_THRESH k 39 20),
                                   winThresh := rfld s R.ERR_THRESH k 19 0, winCount := 1 }

/-- Whether ERR_CFG keeps records of a class (R538). -/
def logged (s : State) (cls : Nat) : Bool :=
  if cls = 0 then rbit s R.ERR_CFG 0 0 else if cls = 1 then rbit s R.ERR_CFG 0 1 else true

/-- A record takes the next SEQ and enters the FIFO, or is dropped and counted when the FIFO is full (R538). -/
def errRecord (r : ErrRec) (s : State) : State :=
  if logged s r.cls then
    let t := { s with err := { s.err with seq := (s.err.seq + 1) % 65536 } }
    if s.err.fifo.length < 1024 then
      intRaise 0 { t with err := { t.err with fifo := t.err.fifo ++ [{ r with seq := s.err.seq }] } }
    else rcount t R.ERR_LOG_DROP 0 31 0 1
  else s

/-- The interrupt source a report of a class, block and code sets (R539); of the sequencers' reports only a fault,
CODE 8, is the sequencer fault. -/
def errSource (cls blk code : Nat) : Option Nat :=
  match cls with
  | 2 => some 12
  | 4 => some 1
  | 5 => some 3
  | 6 => some 4
  | 7 => if blk = 1 then some 14 else if blk = 12 then some 13 else if blk = 13 ∧ code = 8 then some 11 else none
  | _ => none

/-- A report reaches the ERR: its record, its interrupt bit and, where it counts, its unit's window. -/
def errApply (r : ErrRec) (tick : Nat) (s : State) : State :=
  let s := errRecord r s
  let s := match errSource r.cls r.block r.code with
    | some k => intRaise k s
    | none => s
  if r.kind < 10 ∧ r.cls ≠ 0 ∧ r.cls ≠ 4 then unitEvent r.kind r.unit tick s else s

/-- A block reports a fault, with the time it reads: a block of the Q-die its own (R50). While the management complex
restarts, the block's agent holds up to 256 reports; one beyond that is counted in ERR_LOG_DROP and against its unit
(R541). -/
def errReport (cls blk kind unit code : Nat) (detail : Word) (s : State) : State :=
  let now := if blk = 7 ∨ blk = 8 ∨ blk = 9 ∨ blk = 11 then qPhcNow s else phcNow s
  let r : ErrRec := ⟨cls, blk, kind, unit, code, false, 0, now, detail⟩
  if s.mgmtDown then
    if (s.err.held.filter (fun h => decide (h.report.block = blk))).length < 256 then
      { s with err := { s.err with held := s.err.held ++ [⟨r, s.tau.mono⟩] } }
    else
      let s := rcount s R.ERR_LOG_DROP 0 31 0 1
      if kind < 10 ∧ cls ≠ 0 ∧ cls ≠ 4 then unitEvent kind unit s.tau.mono s else s
  else errApply r s.tau.mono s

/-- A write that a rule refuses: a configuration violation whose DETAIL is the register's offset (R542). -/
def cfgViolation (blk off : Nat) (s : State) : State := errReport 5 blk 15 0 0 (BitVec.ofNat 64 off) s

/-! ### Duties of the control sequencers (R468, R475) -/

/-- The work of a sequencer waits: the sequencers restart, or this one has stopped at a yield or is faulted (R73, R475,
R477). -/
def seqDown (s : State) (q : Nat) : Bool :=
  s.mgmtDown || decide ((mget SeqSt.init s.csq.seqs q).st = 4 ∨ (mget SeqSt.init s.csq.seqs q).st = 5)

/-- Work reaches a duty of two sequencers: it is given to the one with the fewest requests, the lower on a tie (R468). -/
def giveDuty (w : DutyWork) (lo hi : Nat) (s : State) : State :=
  let n (q : Nat) : Nat := s.csq.given.countP (fun e => decide (e.2 = q))
  { s with csq := { s.csq with given := s.csq.given ++ [(w, if n hi < n lo then hi else lo)] } }

/-- Work of a duty is done. -/
def endDuty (w : DutyWork) (s : State) : State :=
  { s with csq := { s.csq with given := s.csq.given.eraseP (fun e => decide (e.1 = w)) } }

/-- Work waits for the sequencer it was given to (R468, R475). -/
def dutyDown (s : State) (w : DutyWork) : Bool :=
  s.mgmtDown || s.csq.given.any (fun e => decide (e.1 = w) && seqDown s e.2)

/-! ### Gauge occurrences (R484) -/

/-- Key of an event of a block and its qualifier. -/
def gauKey (blk code q : Nat) : Nat := (blk * 1024 + code) * 131072 + q

/-- `n` occurrences of an event on this tick. -/
def occur (blk code q n : Nat) (s : State) : State :=
  { s with gau := { s.gau with pend := mmod 0 s.gau.pend (gauKey blk code q) (fun c => c + n) } }

/-- An occurrence of a SEN event charged to a thread (R496). -/
def occurThr (code q k : Nat) (s : State) : State :=
  let s := occur 3 code q 1 s
  { s with gau := { s.gau with who := s.gau.who ++ [(gauKey 3 code q, k)] } }

/-- Internal codes of the SEN block, beyond those of R486, by which issue slots are classified (R492): instructions
issued to no effect, slots in which an exception took the place of an issue, and the engines whose slot was used. -/
def codeWasted : Nat := 100
def codeUnissued : Nat := 101
def codeEngine : Nat := 102

/-! ### Threads (ch. 3) -/

/-- Key of a thread. -/
def thrKey (th : ThreadRef) : Nat := 640 * th.course.val + th.thread.val

/-- A thread's context. -/
def thr (s : State) (k : Nat) : Thread := mget Thread.empty s.sen.threads k

/-- A thread's context replaced. -/
def setThr (s : State) (k : Nat) (t : Thread) : State :=
  { s with sen := { s.sen with threads := mset Thread.empty s.sen.threads k t } }

/-- What a course does. -/
def course (s : State) (c : Nat) : CourseSt := mget CourseSt.init s.sen.courses c

/-- What a course does, replaced. -/
def setCourse (s : State) (c : Nat) (x : CourseSt) : State :=
  { s with sen := { s.sen with courses := mset CourseSt.init s.sen.courses c x } }

/-- Bank A (`b` = false) or B of a course. -/
def bank (s : State) (c : Nat) (b : Bool) : Bank := mget Bank.empty s.sen.banks (2 * c + b.toNat)

/-- A bank replaced. -/
def setBank (s : State) (c : Nat) (b : Bool) (x : Bank) : State :=
  { s with sen := { s.sen with banks := mset Bank.empty s.sen.banks (2 * c + b.toNat) x } }

/-- Metadata word `i` of a packet. -/
def mdWord (p : Packet) (i : Nat) : Word32 := mget 0 p.md i

/-- Bits `[hi:lo]` of metadata word `i` of a packet. -/
def mdF (p : Packet) (i hi lo : Nat) : Nat := (mdWord p i).toNat >>> lo % 2 ^ (hi + 1 - lo)

/-- A 32-bit word with bits `[hi:lo]` replaced. -/
def setF32 (w : Word32) (hi lo v : Nat) : Word32 :=
  (w &&& ~~~ BitVec.ofNat 32 ((2 ^ (hi + 1 - lo) - 1) <<< lo)) |||
    BitVec.ofNat 32 ((v % 2 ^ (hi + 1 - lo)) <<< lo)

/-- Metadata word `i` of a packet replaced. -/
def mdSetW (p : Packet) (i : Nat) (w : Word32) : Packet := { p with md := mset 0 p.md i w }

/-- Bits `[hi:lo]` of metadata word `i` of a packet replaced. -/
def mdSet (p : Packet) (i hi lo v : Nat) : Packet := mdSetW p i (setF32 (mdWord p i) hi lo v)

/-- FRAME_LEN of a packet (R86). -/
def frameLen (p : Packet) : Nat := mdF p 0 13 0

/-- FRAME_LEN of a packet replaced. -/
def setFrameLen (p : Packet) (n : Nat) : Packet := mdSet p 0 13 0 n

/-- The bytes of a packet's frame, in order (R124). -/
def frameBytes (p : Packet) : Bytes := p.win ++ p.tail

/-- A packet gives up its place in its port's departure order (R83). -/
def giveUpPlace (pid : Nat) (s : State) : State :=
  { s with sen := { s.sen with order := s.sen.order.filter (fun e => decide (e.pid ≠ pid)) } }

/-- An entry sets out for a service thread's inbox (R103, R107). -/
def sendInbox (c t source : Nat) (event : Word32) (pkt : Option Packet) (s : State) : State :=
  { s with sen := { s.sen with arrivals := s.sen.arrivals ++ [⟨640 * (c % 8) + min t 639, ⟨source, event, pkt, 0⟩⟩] } }

/-- An event on hardware event line `k`: routed by SEN_EVT_ROUTE, discarded where EN is 0 (R106). -/
def eventLine (k : Nat) (ev : Word32) (s : State) : State :=
  let w := rget s R.SEN_EVT_ROUTE k
  if bit w 15 then sendInbox (fld w 12 10) (fld w 9 0) 3 ev none s else s

/-- Every thread context that is listed, with its key. -/
def thrKeys (s : State) : List Nat := s.sen.threads.map (fun e => e.1)

/-- An engine has been retired (R108). -/
def engineRetired (s : State) (c e : Nat) : Bool :=
  if e < 64 then rbit s R.SEN_ENGINE_RETIRE_LO c e else rbit s R.SEN_ENGINE_RETIRE_HI c (e - 64)

/-- ENGINES_LIVE of a course (R20). -/
def enginesLive (s : State) (c : Nat) : Nat := rfld s R.SEN_COURSE_CFG c 14 8

/-- A thread gives up its outstanding requests: each completes with its result discarded (R72). A CIPH request stands in the
cipher's own queues. -/
def reqsLeave (k : Nat) (s : State) : State :=
  let rs := (thr s k).reqs.filter (fun r => match r.kind with | .cipher .. => false | _ => true)
  { s with sen := { s.sen with gone := s.sen.gone ++ rs.map (fun r => (k, r)) } }

/-- A packet thread that ends: its context is free again (R79). -/
def freeThr (s : State) (k : Nat) : State :=
  setThr (reqsLeave k s) k { Thread.empty with st := if (thr s k).st = .unavailable then .unavailable else .free,
                                               lastPc := mdF (thr s k).pkt 15 31 16 }

/-! ### The MTU check (R169 to R171) -/

/-- A frame departing an egress course whose length is known is held against its port's MTU; a write of this tick applies
to later checks (R170). -/
def mtuFails (s : State) (port len : Nat) : Bool :=
  bit (rwas s R.SEN_EGR_MTU port) 16 && decide (fld (rwas s R.SEN_EGR_MTU port) 13 0 < len)

/-- A frame that fails the MTU check is counted with its port (R169). -/
def mtuDrop (port : Nat) (s : State) : State :=
  rsetF (rcount s R.SEN_MTU_DROP 0 47 0 1) R.SEN_MTU_DROP 0 54 48 port

/-- The last byte of a cut-through frame departs its egress course: where its length, unknown when its head left,
exceeds the MTU, it is to end with a stomped FCS and is counted (R171). -/
def mtuTail (pid : Nat) (s : State) : State :=
  match s.sen.toLiu.find? (fun q => decide (q.pid = pid) && q.complete && !q.checked) with
  | some q =>
    if mtuFails s (mdF q 2 20 14) (frameLen q) then
      mtuDrop (mdF q 2 20 14) { s with sen := { s.sen with toLiu := s.sen.toLiu.map (fun x =>
        if x.pid = pid then { x with bad := true } else x) } }
    else s
  | none => s

/-- Every packet the device holds, wherever it stands, changed by one function. -/
def mapPkts (f : Packet → Packet) (s : State) : State :=
  let inb (e : InboxEntry) : InboxEntry := { e with pkt := e.pkt.map f }
  { s with
    sen := { s.sen with
      toIng := s.sen.toIng.map f, toEgr := s.sen.toEgr.map f, ingQ := s.sen.ingQ.map f, egrQ := s.sen.egrQ.map f
      toTmg := s.sen.toTmg.map f, toLiu := s.sen.toLiu.map f
      arrivals := s.sen.arrivals.map (fun a => { a with entry := inb a.entry })
      threads := s.sen.threads.map (fun e => (e.1, { e.2 with pkt := f e.2.pkt, inbox := e.2.inbox.map inb })) }
    tmg := { s.tmg with qs := s.tmg.qs.map (fun q =>
      (q.1, { q.2 with skein := q.2.skein.map (fun e => { e with pkt := f e.pkt }) })) } }

end Sys2Proof.Machine
end

