-- ==== Sys2Proof/Machine/Versions.lean ====
section
/-! DEFINITION. Epochs and versions (R59 to R63): which version of an entry a tag selects. -/

namespace Sys2Proof.Machine
open Sys2Proof

/-- Which version of an entry a lookup returns (R62). -/
inductive View
  | cur | pend | prev
deriving DecidableEq, Repr

/-- The version a lookup for tag `t` returns on this device, `none` for a stale tag (R62). Versions abandoned on this
tick stay visible until the next (R67). -/
def viewOf (s : State) (t : Nat) : Option View :=
  let e := s.tau.curEpoch
  if t % 4 = e % 4 then some .cur
  else if t % 4 = (e + 3) % 4 then (if s.tau.prevState ≠ 0 then some .prev else none)
  else if t % 4 = (e + 1) % 4 then some (if s.tau.pendOpen || s.lkp.abandoned || s.tcam.abandoned then .pend else .cur)
  else none

/-- A tag is stale for dispatch: the previous epoch's tag is, once its drain window has ended (R63, ch. 2). -/
def staleTag (s : State) (t : Nat) : Bool :=
  match viewOf s t with
  | none => true
  | some .prev => decide (s.tau.prevState ≠ 1)
  | some _ => false

/-- The version of an entry a view selects: the pending or previous one where it exists, otherwise the current
one (R62). -/
def versOf {α : Type} (v : Vers α) (w : View) : Option α :=
  match w with
  | .cur => v.cur
  | .pend => v.pend.getD v.cur
  | .prev => v.prev.getD v.cur

/-- Whether a register's VERSION code names an epoch that is alive: 0 current, 1 pending, 2 previous. -/
def versionView (s : State) (code : Nat) : Option View :=
  match code with
  | 0 => some .cur
  | 1 => if s.tau.pendOpen then some .pend else none
  | 2 => if s.tau.prevState ≠ 0 then some .prev else none
  | _ => some .cur

end Sys2Proof.Machine
end

