-- ==== Sys2Proof/Machine/Entry.lean ====
section
/-! DEFINITION. Exact-match and flow tables as they lie in their memories (R176 to R185): geometry, buckets, places, and the
words of an entry with its control word and parity. -/

namespace Sys2Proof.Machine
open Sys2Proof

/-- Key of an entry: key `k` of table `t` (0 to 63 exact match, 64 to 67 flow). -/
def entKey (t k : Nat) : Nat := t * 2 ^ 256 + k

/-- EN of a table (R176, R185). -/
def tableEn (s : State) (t : Nat) : Bool :=
  if t < 64 then rbit s R.LKP_EM_CFG t 63 else rbit s R.LKP_FLOW_CFG (t - 64) 63

/-- KEY_BITS of a table (R176, R185). -/
def keyBits (s : State) (t : Nat) : Nat :=
  if t < 64 then rfld s R.LKP_EM_CFG t 39 32 else rfld s R.LKP_FLOW_CFG (t - 64) 56 48

/-- Width of the data of an entry: payload width less K, at most 120 (R180); 120 in a flow table (R184). -/
def dataBits (s : State) (t : Nat) : Nat :=
  if t < 64 then min 120 ((if rbit s R.LKP_EM_CFG t 62 then 192 else 96) - keyBits s t) else 120

/-- OVF of a flow bucket (R184). -/
def ovfGet (s : State) (f b : Nat) : Nat := mget 0 s.lkp.ovf (f * 2 ^ 27 + b)

/-- The bucket of key `k` under a way's seed among `n` buckets (R181, R185). -/
def bucketOf (kb k w n : Nat) : Nat :=
  (crc32c (0xFFFFFFFF#32 ^^^ BitVec.ofNat 32 (w * 0x01010101)) (beBytes ((kb + 7) / 8) k)).toNat * n / 2 ^ 32

/-- Buckets per way of an exact-match table, or of a flow table (R177, R185). -/
def bucketCount (s : State) (t : Nat) : Nat :=
  if t < 64 then 16384 * rfld s R.LKP_EM_CFG t 48 42 / 4 else 2 ^ rfld s R.LKP_FLOW_CFG (t - 64) 44 40


/-- Slots of a bucket of a table: four narrow, two wide, two in a flow table. -/
def slotsPer (s : State) (t : Nat) : Nat := if t < 64 then (if rbit s R.LKP_EM_CFG t 62 then 2 else 4) else 2

/-- Table of an entry key. -/
def entTable (k : Nat) : Nat := k / 2 ^ 256

/-- Two places of a table are one: the first and the second bucket of a flow table are buckets of one array (R185). -/
def samePlace (t : Nat) (l m : Loc) : Bool :=
  match l, m with
  | .way w b i, .way w' b' i' => decide (b = b' ∧ i = i') && (decide (64 ≤ t) || decide (w = w'))
  | .stash i, .stash j => decide (i = j)
  | _, _ => false

/-- The entry that stands in a place of a table, with its key. -/
def entAt (ents : SMap Ent) (t : Nat) (l : Loc) : Option (Nat × Ent) :=
  ents.find? (fun e => decide (entTable e.1 = t) && samePlace t e.2.loc l)

/-- The index by which R218 names a place of a table: ways one after the other, their buckets in order and the slots of
each, and behind them the stash; in a flow table the bucket and its slot (log 59). -/
def entIndex (s : State) (t : Nat) (l : Loc) : Nat :=
  match l with
  | .way w b i => if 64 ≤ t then 2 * b + i else (w * bucketCount s t + b) * slotsPer s t + i
  | .stash i => 4 * bucketCount s t * slotsPer s t + i

/-- What a place holds has a parity error (R217). -/
def placeBad (s : State) (t : Nat) (l : Loc) : Bool := s.lkp.bad.contains (t, entIndex s t l)

/-! ### Words -/

/-- The even parity of the bits `j` of a number below `n` with `j` mod `m` = `i`. -/
def parOf (n m v i : Nat) : Bool :=
  (List.range ((n - i + m - 1) / m)).foldl (fun p j => p ^^ v.testBit (i + m * j)) false

/-- PAR of `m` bits over a structure of `n` bits whose PAR field is still zero (R179, R188). -/
def parBits (n m v : Nat) : Nat := (List.range m).foldl (fun p i => p + (parOf n m v i).toNat * 2 ^ i) 0

/-- The data that the storage of an entry's table holds: the current version's; where there is none the manual does not
say which (log 12). -/
def heldData (k : Nat) (e : Ent) : Nat :=
  match e.v.cur with
  | some d => d.data.toNat
  | none => Config.freeNat 70 k % 2 ^ 120

/-- The control word c of an entry (R179) but for OVF and PAR. -/
def ctlWord (s : State) (k : Nat) (e : Ent) : Nat :=
  e.v.cur.isSome.toNat * 2 ^ 31 + (e.v.pend.isSome || e.v.prev.isSome).toNat * 2 ^ 30 +
    (e.v.cur.any (·.static)).toNat * 2 ^ 29 + e.hit.toNat * 2 ^ 28 + e.age % 8 * 2 ^ 25 +
    (mfind s.lkp.tracks k).isSome.toNat * 2 ^ 24

/-- An exact-match entry of 128 or 256 bits (R179, R180): c at the top, the key in the payload's top K bits, and the data
below it, right-aligned. -/
def emWord (s : State) (t k : Nat) (e : Ent) : Nat :=
  let n := if rbit s R.LKP_EM_CFG t 62 then 256 else 128
  let pay := if n = 256 then 192 else 96
  let v := ctlWord s (entKey t k) e * 2 ^ (n - 32) + k % 2 ^ keyBits s t * 2 ^ (pay - keyBits s t) +
    heldData (entKey t k) e % 2 ^ dataBits s t
  v + parBits n 8 v * 2 ^ (n - 32)

/-- The 512 bits of slot `i` of bucket `b` of flow table `f` (R184); OVF stands in slot 0. -/
def flowWord (s : State) (f b i : Nat) : Nat :=
  let v := match entAt s.lkp.ents (64 + f) (.way 0 b i) with
    | some (k, e) => ctlWord s k e * 2 ^ 480 + k % 2 ^ 256 * 2 ^ 192 + heldData k e
    | none => 0
  let v := v + (if i = 0 then ovfGet s f b * 2 ^ 496 else 0)
  v + parBits 512 8 v * 2 ^ 480

/-- The DDR5 regions that flow tables use, by table: base and buckets; those of enabled tables, and of disabled ones until
their clearing ends (R177, R186). -/
def flowRegions (s : State) : List (Nat × Nat × Nat) :=
  ((List.range 4).filter (fun f => rbit s R.LKP_FLOW_CFG f 63)).map
      (fun f => (f, (rget s R.LKP_FLOW_BASE f).toNat, 2 ^ rfld s R.LKP_FLOW_CFG f 44 40)) ++
    (s.lkp.clr.filter (fun j => decide (64 ≤ j.table))).map (fun j => (j.table - 64, j.base.toNat, 2 ^ fld j.cfg 44 40))

/-- The byte a flow table's region shows at a DDR5 address, least significant byte of an entry first (log 12). -/
def flowByte (s : State) (a : Nat) : Option Byte :=
  ((flowRegions s).find? (fun r => decide (r.2.1 ≤ a ∧ a < r.2.1 + 128 * r.2.2))).map (fun r =>
    let o := a - r.2.1
    BitVec.ofNat 8 (flowWord s r.1 (o / 128) (o % 128 / 64) >>> (8 * (o % 64))))

end Sys2Proof.Machine
end

