-- ==== Sys2Proof/Machine/MemMap.lean ====
section
/-! DEFINITION. The address maps of the memory controllers (R371, R372), lost memory (R388), reads and writes of
their bytes, and the record of what a read meets (R386, R389). -/

namespace Sys2Proof.Machine
open Sys2Proof

/-- The MCD's or the MCH's copy of a register (R368). -/
def mReg (m : MemCtl) (d h : Reg) : Reg := match m with | .mcd => d | .mch => h

/-- A controller. -/
def memOf (s : State) (m : MemCtl) : Mem := match m with | .mcd => s.mcd | .mch => s.mch

/-- A controller changed. -/
def withMem (m : MemCtl) (f : Mem → Mem) (s : State) : State :=
  match m with
  | .mcd => { s with mcd := f s.mcd }
  | .mch => { s with mch := f s.mch }

/-- STATUS of a controller. -/
def rSTATUS (m : MemCtl) : Reg := mReg m R.MCD_STATUS R.MCH_STATUS
/-- GEOM of a controller. -/
def rGEOM (m : MemCtl) : Reg := mReg m R.MCD_GEOM R.MCH_GEOM
/-- FREQ_CTL of a controller. -/
def rFREQ (m : MemCtl) : Reg := mReg m R.MCD_FREQ_CTL R.MCH_FREQ_CTL
/-- PAGE_CFG of a controller. -/
def rPAGE (m : MemCtl) : Reg := mReg m R.MCD_PAGE_CFG R.MCH_PAGE_CFG
/-- REF_CFG of a controller. -/
def rREF (m : MemCtl) : Reg := mReg m R.MCD_REF_CFG R.MCH_REF_CFG
/-- TRAIN_CTL of a controller. -/
def rTRAIN (m : MemCtl) : Reg := mReg m R.MCD_TRAIN_CTL R.MCH_TRAIN_CTL
/-- PWR_CTL of a controller. -/
def rPWR (m : MemCtl) : Reg := mReg m R.MCD_PWR_CTL R.MCH_PWR_CTL
/-- SCRUB_CFG of a controller. -/
def rSCRUB (m : MemCtl) : Reg := mReg m R.MCD_SCRUB_CFG R.MCH_SCRUB_CFG
/-- ECC_STAT of a controller. -/
def rECC (m : MemCtl) : Reg := mReg m R.MCD_ECC_STAT R.MCH_ECC_STAT
/-- ECC_ADDR of a controller. -/
def rECCA (m : MemCtl) : Reg := mReg m R.MCD_ECC_ADDR R.MCH_ECC_ADDR
/-- MAP_CTL of a controller. -/
def rMAP (m : MemCtl) : Reg := mReg m R.MCD_MAP_CTL R.MCH_MAP_CTL
/-- XOR of a controller. -/
def rXOR (m : MemCtl) : Reg := mReg m R.MCD_XOR R.MCH_XOR
/-- CH_STAT of a controller. -/
def rCH (m : MemCtl) : Reg := mReg m R.MCD_CH_STAT R.MCH_CH_STAT
/-- RETIRE of a controller. -/
def rRET (m : MemCtl) : Reg := mReg m R.MCD_RETIRE R.MCH_RETIRE
/-- WIN_CMD of a controller. -/
def rWINC (m : MemCtl) : Reg := mReg m R.MCD_WIN_CMD R.MCH_WIN_CMD
/-- WIN_ADDR of a controller. -/
def rWINA (m : MemCtl) : Reg := mReg m R.MCD_WIN_ADDR R.MCH_WIN_ADDR
/-- WIN_DATA of a controller. -/
def rWIND (m : MemCtl) : Reg := mReg m R.MCD_WIN_DATA R.MCH_WIN_DATA

/-- The number of a controller's block (R483). -/
def memBlock (m : MemCtl) : Nat := match m with | .mcd => 10 | .mch => 11

/-- READY of a controller (R391). -/
def memReady (s : State) (m : MemCtl) : Bool := rbit s (rSTATUS m) 0 63

/-- Channels in use. -/
def memChannels (s : State) (m : MemCtl) : Nat := rfld s (rGEOM m) 0 63 56

/-- Installed bytes. -/
def memSize (s : State) (m : MemCtl) : Nat := rfld s (rGEOM m) 0 21 0 * 2 ^ 20

/-- Home of the lowest bank-group bit: above BYTE, SC, COL_LO and CH of the MCD; above PC of the MCH (R371). -/
def bgHome (s : State) (m : MemCtl) : Nat :=
  match m with | .mcd => if memChannels s .mcd = 4 then 10 else 11 | .mch => 15

/-- Home of the highest XOR-mapped bit: BA1 of the MCD, SID of the MCH (R372). -/
def topMapped (s : State) (m : MemCtl) : Nat := match m with | .mcd => bgHome s .mcd + 4 | .mch => 19

/-- A MASK as it is stored: bits at or below the home of the highest mapped field and at or above the installed
address width cleared (R372). -/
def clampMask (s : State) (m : MemCtl) (v : Word) : Word :=
  let lo := topMapped s m + 1
  let w := if memSize s m = 0 then 0 else Nat.log2 (memSize s m - 1) + 1
  BitVec.ofNat 64 (v.toNat % 2 ^ w / 2 ^ lo * 2 ^ lo)

/-- The parity of a number's bits below bit `n`. -/
def parity (n v : Nat) : Bool := (List.range n).foldl (fun p i => p ^^ v.testBit i) false

/-- The home bits of the XOR-mapped field bit of index `i` (R372); none where the index has no field. -/
def mappedHome (s : State) (m : MemCtl) (i : Nat) : Option Nat :=
  match m with
  | .mcd =>
    if i < 3 then (if i = 2 ∧ memChannels s .mcd = 4 then none else some (8 + i))
    else if i < 8 then some (bgHome s .mcd + (i - 3)) else none
  | .mch => if i < 12 then some (8 + i) else none

/-- One XOR-mapped bit of an address (R372). -/
def mappedBit (s : State) (m : MemCtl) (a i : Nat) : Nat :=
  match mappedHome s m i with
  | some h => (a.testBit h ^^ parity 41 (a &&& (rget s (rXOR m) i).toNat)).toNat
  | none => 0

/-- A field made of mapped bits `i` to `i + n - 1`, lowest first. -/
def mappedField (s : State) (m : MemCtl) (a i n : Nat) : Nat :=
  (List.range n).foldl (fun v j => v + mappedBit s m a (i + j) * 2 ^ j) 0

/-- The channel, or pseudo-channel, an address decodes to (R371). -/
def chanOf (s : State) (m : MemCtl) (a : Nat) : Nat :=
  match m with | .mcd => mappedField s m a 0 3 | .mch => mappedField s m a 0 7

/-- The row an address decodes to (R371). -/
def rowOf (s : State) (m : MemCtl) (a : Nat) : Nat :=
  match m with
  | .mcd => a / 2 ^ (bgHome s .mcd + 11) % 2 ^ rfld s R.MCD_GEOM 0 51 47
  | .mch => a / 2 ^ 22 % 2 ^ 14

/-- The DDR5 rank and DIMM bits of an address, as 2 × DIMM + RANK (R371). -/
def rankOf (s : State) (a : Nat) : Nat :=
  let r := bgHome s .mcd + 11 + rfld s R.MCD_GEOM 0 51 47
  let two := decide (rfld s R.MCD_GEOM 0 53 52 = 2)
  let rank := if two then (a.testBit r).toNat else 0
  let dimm := if rfld s R.MCD_GEOM 0 55 54 = 2 then (a.testBit (if two then r + 1 else r)).toNat else 0
  2 * dimm + rank

/-- The refresh unit an address lies in (R375). -/
def refUnitOf (s : State) (m : MemCtl) (a : Nat) : Nat :=
  match m with | .mcd => 4 * chanOf s m a + rankOf s a | .mch => chanOf s m a

/-- The bank an address lies in: refresh unit, subchannel (MCD) or SID (MCH), bank group and bank. -/
def bankOf (s : State) (m : MemCtl) (a : Nat) : Nat :=
  match m with
  | .mcd => refUnitOf s m a * 64 + (a.testBit 6).toNat * 32 + mappedField s m a 6 2 * 8 + mappedField s m a 3 3
  | .mch => refUnitOf s m a * 64 + mappedField s m a 11 1 * 32 + mappedField s m a 9 2 * 8 + mappedField s m a 7 2

/-- The refresh unit of a bank. -/
def unitOfBank (b : Nat) : Nat := b / 64

/-- The channel of a refresh unit. -/
def chanOfUnit (m : MemCtl) (u : Nat) : Nat := match m with | .mcd => u / 4 | .mch => u

/-- A channel has been retired (R388). -/
def chanRetired (s : State) (m : MemCtl) (c : Nat) : Bool := rbit s (rRET m) (c / 64) (c % 64)

/-- An address is lost memory (R388). -/
def memLost (s : State) (m : MemCtl) (a : Nat) : Bool := chanRetired s m (chanOf s m a)

/-- Some byte of a run of bytes is lost memory. No two channels share an aligned 256-byte block (R371). -/
def runLost (s : State) (m : MemCtl) (a n : Nat) : Bool :=
  (List.range ((a % 256 + n + 255) / 256)).any (fun i => memLost s m ((a / 256 + i) * 256))

/-- Bytes of a controller's memory; lost memory reads zero (R389). -/
def memRead (s : State) (m : MemCtl) (a n : Nat) : Bytes :=
  (List.range n).map (fun i => if memLost s m (a + i) then 0 else mget 0 (memOf s m).bytes (a + i))

/-- Bytes of a controller's memory as a reader finds them: a flow table's region shows its entries (R184, R186). -/
def memShow (s : State) (m : MemCtl) (a n : Nat) : Bytes :=
  match m with
  | .mch => memRead s m a n
  | .mcd => (List.range n).map (fun i =>
      match flowByte s (a + i) with
      | some b => if memLost s m (a + i) then 0 else b
      | none => byteAt (memRead s m (a + i) 1) 0)

/-- Bytes written to a controller's memory, those in lost or absent memory being discarded (R389). -/
def memWrite (m : MemCtl) (a : Nat) (bs : Bytes) (s : State) : State :=
  withMem m (fun x => { x with bytes := (bs.zipIdx).foldl (fun b e =>
    if memLost s m (a + e.2) ∨ memSize s m ≤ a + e.2 then b else mset 0 b (a + e.2) e.1) x.bytes }) s

/-- STATE of a channel (R386). -/
def chState (s : State) (m : MemCtl) (c : Nat) : Nat := rfld s (rCH m) c 63 61

/-- STATE of a channel set. -/
def setChState (m : MemCtl) (c v : Nat) (s : State) : State := rsetF s (rCH m) c 63 61 v

/-- ECC_ADDR of the last event (R386). -/
def eccAddr (m : MemCtl) (kind c a : Nat) (s : State) : State :=
  rset s (rECCA m) 0 (BitVec.ofNat 64 (kind * 2 ^ 62 + c % 128 * 2 ^ 55 + a % 2 ^ 41))

/-- What a read met, counted, recorded and reported (R386, R525): a corrected read counts against nothing, an
uncorrectable one against its channel or pseudo-channel. -/
def eccEvent (m : MemCtl) (a : Nat) (e : EccResult) (s : State) : State :=
  let c := chanOf s m a
  let k := match m with | .mcd => 5 | .mch => 6
  match e with
  | .clean => s
  | .corrected =>
    let s := rcount (rcount s (rECC m) 0 63 32 1) (rCH m) c 31 16 1
    errReport 0 (memBlock m) k c 1 (BitVec.ofNat 64 a) (eccAddr m 1 c a s)
  | .uncorrectable =>
    let s := rcount (rcount s (rECC m) 0 31 0 1) (rCH m) c 15 0 1
    errReport 2 (memBlock m) k c 2 (BitVec.ofNat 64 a) (eccAddr m 2 c a s)

/-- The first of two reads of an address is uncorrectable: in HBM3E the event counts against no unit (R386, R525). -/
def eccFirst (m : MemCtl) (a : Nat) (s : State) : State :=
  match m with
  | .mcd => eccEvent m a .uncorrectable s
  | .mch =>
    let c := chanOf s m a
    let s := rcount (rcount s (rECC m) 0 31 0 1) (rCH m) c 15 0 1
    errReport 2 (memBlock m) 15 0 2 (BitVec.ofNat 64 a) (eccAddr m 2 c a s)

/-- A read of lost memory, with KIND 3 (R389). -/
def lostRead (m : MemCtl) (a : Nat) (s : State) : State :=
  errReport 2 (memBlock m) 15 0 3 (BitVec.ofNat 64 a) (eccAddr m 3 (chanOf s m a) a s)

end Sys2Proof.Machine
end

