-- ==== Sys2Proof/Machine/MemBank.lean ====
section
/-! DEFINITION. What a request does to a memory controller, whichever unit sends it: the map lock (R373), the page
predictor of its bank (R374), refresh that blocks its activate (R375), and a channel in self-refresh that it wakes
(R384). -/

namespace Sys2Proof.Machine
open Sys2Proof

/-- The controller sets LOCK at the first request (R373). -/
def mapLock (m : MemCtl) (s : State) : State := rsetF s (rMAP m) 0 0 0 1

/-- A channel's last request is now. -/
def touchChan (m : MemCtl) (c : Nat) (s : State) : State :=
  withMem m (fun x => { x with lastReq := mset 0 x.lastReq c s.tau.mono }) s

/-! ### The page predictor (R374) -/

/-- A queued request to a bank names another row (R374): one that is held, or the window access in progress. -/
def otherRowQueued (s : State) (m : MemCtl) (b row : Nat) : Bool :=
  let other (a : Nat) : Bool := decide (bankOf s m a = b ∧ rowOf s m a ≠ row)
  (memOf s m).held.any (fun h => other h.req.addr) || ((memOf s m).win.isSome && other (rget s (rWINA m) 0).toNat)

/-- The bank of an address after an access to it (R374). -/
def bankAfter (s : State) (m : MemCtl) (a : Nat) : MBank :=
  let b := mget MBank.init (memOf s m).banks (bankOf s m a)
  let row := rowOf s m a
  let ctr := if b.row = some row then min 3 (b.ctr + 1) else b.ctr - 1
  let opened := match rfld s (rPAGE m) 0 33 32 with
    | 0 => decide (2 ≤ ctr) && !otherRowQueued s m (bankOf s m a) row
    | 1 => true
    | _ => false
  ⟨ctr, some row, opened, s.tau.mono⟩

/-- The bank of an address takes an access. -/
def bankUse (m : MemCtl) (a : Nat) (s : State) : State :=
  let b := bankAfter s m a
  withMem m (fun x => { x with banks := mset MBank.init x.banks (bankOf s m a) b }) s

/-- The rows of a refresh unit's banks close. -/
def closeRows (m : MemCtl) (u : Nat) (s : State) : State :=
  withMem m (fun x => { x with banks := x.banks.map (fun e =>
    if unitOfBank e.1 = u then (e.1, { e.2 with opened := false }) else e) }) s

/-! ### Refresh debt (R375) -/

/-- A refresh unit. -/
def refUnit (s : State) (m : MemCtl) (u : Nat) : RefSt := mget RefSt.init (memOf s m).units u

/-- PULL_MAX and POST_MAX as they act: a write takes effect on the next tick (R376). -/
def refLimits (s : State) (m : MemCtl) : Nat × Nat :=
  let now := (rfld s (rREF m) 0 34 32, rfld s (rREF m) 0 26 24)
  match (memOf s m).refOld with
  | some (t, old) => if t = s.tau.mono then old else now
  | none => now

/-- POST_MAX of a controller. -/
def postMax (s : State) (m : MemCtl) : Nat := (refLimits s m).2

/-- PULL_MAX of a controller. -/
def pullMax (s : State) (m : MemCtl) : Nat := (refLimits s m).1

/-- An address needs an activate that refresh blocks: its unit owes more than POST_MAX and its row is not open
(R375). -/
def actBlocked (s : State) (m : MemCtl) (a : Nat) : Bool :=
  let b := mget MBank.init (memOf s m).banks (bankOf s m a)
  decide ((postMax s m : Int) < (refUnit s m (unitOfBank (bankOf s m a))).debt) &&
    !(b.opened && decide (b.row = some (rowOf s m a)))

/-! ### Requests -/

/-- BUSY of TRAIN_CTL: a run is in progress, or a frequency change or a self-refresh exit, each of which includes one
(R380, R382, R384). -/
def showBusy (m : MemCtl) (s : State) : State :=
  rsetF s (rTRAIN m) 0 63 63 ((memOf s m).run.isSome || (memOf s m).change.isSome || !(memOf s m).waking.isEmpty).toNat

/-- A request starts the exit of a channel in self-refresh (R384). -/
def wakeChan (m : MemCtl) (c : Nat) (s : State) : State :=
  if chState s m c = 3 ∧ ¬ (memOf s m).waking.contains c then
    showBusy m (withMem m (fun x => { x with waking := x.waking ++ [c] }) s)
  else s

/-- A request to an address that is not lost cannot be served now: its channel is training, changing frequency or in
self-refresh (R383), or refresh blocks its activate (R375). -/
def memWaits (s : State) (m : MemCtl) (a : Nat) : Bool :=
  let st := chState s m (chanOf s m a)
  !memLost s m a && (decide (st = 1 ∨ st = 2 ∨ st = 3) || (decide (st = 0) && actBlocked s m a))

/-- A request of some unit reaches the controller: the map is locked, and the channel counts it and wakes (R373,
R384). -/
def memAsk (m : MemCtl) (a : Nat) (s : State) : State :=
  let c := chanOf s m a
  let s := mapLock m s
  if memLost s m a then s else wakeChan m c (touchChan m c s)

/-- A request of a unit that moves its own data is served: the bank takes the access, and a read is counted. Nothing is
accessed in lost memory, or before READY (R389, R392). -/
def memServe (m : MemCtl) (a : Nat) (write : Bool) (s : State) : State :=
  if memLost s m a || !memReady s m then s
  else
    let s := bankUse m a s
    if write then s else occur (memBlock m) 1 (chanOf s m a) 1 s

/-- A request of a unit is held with those that wait for its channel, in arrival order (R383). -/
def memHold (m : MemCtl) (a : Nat) (write answer : Bool) (s : State) : State :=
  withMem m (fun x => { x with
    held := x.held ++ [⟨chanOf s m a, x.arrived, ⟨a, 0, if write then some [] else none, .clean⟩, some answer⟩]
    arrived := x.arrived + 1 }) s

/-- A served request's answer waits for its unit. -/
def memGot (m : MemCtl) (a : Nat) (s : State) : State := withMem m (fun x => { x with got := x.got ++ [a] }) s

/-- A unit's request at an address waits for its answer: it is held, or has been served. -/
def memAsked (s : State) (m : MemCtl) (a : Nat) : Bool :=
  (memOf s m).got.contains a || (memOf s m).held.any (fun h => decide (h.req.addr = a ∧ h.own = some true))

/-- The unit takes the answer of its request at an address, served or not. -/
def memTake (m : MemCtl) (a : Nat) (s : State) : State :=
  withMem m (fun x => { x with
    got := x.got.erase a
    held := if x.got.contains a then x.held else (takeFirst (fun h => decide (h.req.addr = a ∧ h.own = some true)) x.held).elim x.held (·.2) }) s

/-- A request of a unit cannot be answered now: it has not been served, and its channel does not serve it. -/
def unitWaits (s : State) (m : MemCtl) (a : Nat) : Bool := !(memOf s m).got.contains a && memWaits s m a

/-- A unit asks for data it then waits for: the request is held or served in its turn. One that has been sent stands. -/
def memQueue (m : MemCtl) (write : Bool) (a : Nat) (s : State) : State :=
  if memAsked s m a then wakeChan m (chanOf s m a) s
  else
    let s := memAsk m a s
    if memWaits s m a then memHold m a write true s else memGot m a (memServe m a write s)

/-- A unit posts a request, and waits for no answer. -/
def memPost (m : MemCtl) (a : Nat) (write : Bool) (s : State) : State :=
  let s := memAsk m a s
  if memWaits s m a then memHold m a write false s else memServe m a write s

/-- A unit's request is answered: it is served now, or has been. -/
def memUse (m : MemCtl) (a : Nat) (write : Bool) (s : State) : State :=
  if (memOf s m).got.contains a then memTake m a s else memServe m a write (memAsk m a (memTake m a s))

/-- Requests to several addresses reach the controller. -/
def memAsks (m : MemCtl) (as : List Nat) (s : State) : State := as.foldl (fun s a => memQueue m false a s) s

/-- Requests to several addresses are posted in order. -/
def memPosts (m : MemCtl) (as : List Nat) (write : Bool) (s : State) : State :=
  as.foldl (fun s a => memPost m a write s) s

/-- Requests to several addresses are served in order. -/
def memUses (m : MemCtl) (as : List Nat) (write : Bool) (s : State) : State :=
  as.foldl (fun s a => memUse m a write s) s

/-- The requests that a run of bytes makes: one for each aligned 256-byte block of it (R371). -/
def runAddrs (a n : Nat) : List Nat :=
  (List.range ((a % 256 + n + 255) / 256)).map (fun i => max a ((a / 256 + i) * 256))

/-- A run of bytes read or written by a unit. -/
def memUseRun (m : MemCtl) (a n : Nat) (write : Bool) (s : State) : State := memUses m (runAddrs a n) write s

/-- Some request of a run cannot be served now. -/
def runWaits (s : State) (m : MemCtl) (a n : Nat) : Bool := (runAddrs a n).any (unitWaits s m)

/-- A run of bytes to be written whose requests wait: they have reached the controller. -/
def runAsk (m : MemCtl) (a n : Nat) (s : State) : State := (runAddrs a n).foldl (fun s a => memQueue m true a s) s

/-- What a datum's read, tried once more where it was uncorrectable, met (R302, R386, R525); lost memory fails twice
(R389). -/
def readTwice (m : MemCtl) (a : Nat) (o : ReadOutcome) (s : State) : State :=
  match o with
  | .clean => s
  | .corrected => if memLost s m a then s else eccEvent m a .corrected s
  | .second => if memLost s m a then s else eccFirst m a s
  | .failed => if memLost s m a then lostRead m a (lostRead m a s) else eccEvent m a .uncorrectable (eccFirst m a s)

end Sys2Proof.Machine
end

