-- ==== Sys2Proof/Machine/RegFile.lean ====
section
/-! DEFINITION. The value a host write stores in a register: the access codes and field clamps of the register map
(R4 to R8), and the clamps that use another field of the same access. -/

namespace Sys2Proof.Machine
open Sys2Proof

/-- LKP_PROFILE: TABLE clamps by the KIND written with it (R173, ch. 7). -/
def clampProfile (w : Word) : Word :=
  let hi := match fld w 62 61 with | 0 => 63 | 1 => 3 | _ => 15
  setFld w 60 55 (min (fld w 60 55) hi)

/-- LKP_EM_CFG: BLOCKS down to a multiple of 4 that fits above BASE_BLOCK, KEY_BITS to the entry format (R176). -/
def clampEmCfg (w : Word) : Word :=
  let base := fld w 55 49
  let blocks := min (fld w 48 42 / 4 * 4) ((96 - base) / 4 * 4)
  let kb := clampTo 1 (if bit w 62 then 192 else 96) (fld w 39 32)
  setFld (setFld w 48 42 blocks) 39 32 kb

/-- LKP_CMD: TABLE and PLEN clamp by KIND and TABLE (R196). -/
def clampLkpCmd (w : Word) : Word :=
  let t := match fld w 49 48 with | 1 => min (fld w 55 50) 3 | 2 => min (fld w 55 50) 15 | _ => fld w 55 50
  let w := setFld w 55 50 t
  if fld w 49 48 = 2 ∧ t < 8 then setFld w 39 32 (min (fld w 39 32) 32) else w

/-- TCM_TABLE_CFG: NBANKS within the banks above FIRST_BANK, HOLE_SPACING 0 or 2 to 4,096 (R221). -/
def clampTcamCfg (w : Word) : Word :=
  let nb := clampTo 1 (64 - fld w 61 56) (fld w 54 48)
  let h := fld w 31 16
  setFld (setFld w 54 48 nb) 31 16 (if h = 0 then 0 else clampTo 2 4096 h)

/-- TCM_PPU_SET: COUNT within the entries above BASE (R160). -/
def clampPpuSet (w : Word) : Word := setFld w 48 32 (min (fld w 48 32) (65536 - fld w 15 0))

/-- TCM_PPU_ATTR: MAX_OFF not below MIN_OFF (R160). -/
def clampPpuAttr (w : Word) : Word := setFld w 47 39 (max (fld w 47 39) (fld w 38 30))

/-- TAU_TA_ACT: the argument subfields of the ACTION clamped, THREAD of action 7 to 639, where ARG is written; a write
that leaves ARG as it stands writes ACTION alone, and ARG stays as stored (R52). -/
def clampTaAct (old w : Word) : Word :=
  if fld w 55 52 = 7 ∧ fld w 51 0 ≠ fld old 51 0 then setFld w 12 3 (min (fld w 12 3) 639) else w

/-- ERR_THRESH: MIN_LIVE within the kind's unit count (R527). -/
def clampThresh (i : Nat) (w : Word) : Word := setFld w 55 40 (min (fld w 55 40) (unitCount i))

/-- ERR_UNIT_SEL: UNIT within the units of KIND (R537). -/
def clampUnitSel (w : Word) : Word := setFld w 9 0 (min (fld w 9 0) (unitCount (fld w 19 16) - 1))

/-- HIF_SLICE_RES1: the counter block within the 1,048,576 pairs (R400). -/
def clampRes1 (w : Word) : Word := setFld w 40 20 (min (fld w 40 20) (1048576 - fld w 19 0))

/-- HIF_SLICE_RES2: the key range within the 65,536 slots (R400). -/
def clampRes2 (w : Word) : Word := setFld w 32 16 (min (fld w 32 16) (65536 - fld w 15 0))

/-- HIF_SLICE_LOG_CFG: PAGES a multiple of 64 (R413). -/
def clampLogCfg (w : Word) : Word := setFld w 28 0 ((fld w 28 0 + 63) / 64 * 64)

/-- Event codes of each block. -/
def eventCodes (b : Nat) : Nat := [0, 2, 2, 8, 6, 3, 3, 4, 2, 2, 2, 2, 2, 1, 2, 1, 0].getD b 0

/-- The largest qualifier of an event. -/
def qualMax (b code : Nat) : Nat :=
  match b, code with
  | 1, 1 => 7 | 2, _ => 127 | 3, 1 => 7 | 3, 2 => 7 | 3, 5 => 15 | 3, 6 => 7 | 3, 7 => 7 | 3, 8 => 7
  | 4, 1 => 63 | 4, 2 => 15 | 4, 3 => 3 | 4, 4 => 15 | 4, 6 => 96 | 5, 1 => 15 | 5, 2 => 15
  | 6, 1 => 7 | 6, 2 => 7 | 6, 3 => 5 | 7, 1 => 127 | 7, 2 => 127 | 7, 3 => 15 | 8, _ => 15 | 9, _ => 191
  | 10, _ => 127 | 11, _ => 127 | 12, _ => 4095 | 13, 1 => 7 | 14, 1 => 15 | _, _ => 0

/-- GAU_CTR_CFG as it is stored: EVENT within the block's codes, QUAL within the event's range (R483). -/
def clampCtr (n : Nat) (w : Word) : Word :=
  let b := n / 32
  let e := if fld w 9 0 ≤ eventCodes b then fld w 9 0 else 0
  setFld (setFld w 9 0 e) 27 12 (min (fld w 27 12) (qualMax b e))

/-- The clamps that use another field of the same access, after each field's own; `old` is what the register held. -/
def crossClamp (r : Reg) (i : Nat) (old w : Word) : Word :=
  if r.base = R.LKP_PROFILE.base then clampProfile w
  else if r.base = R.LKP_EM_CFG.base then clampEmCfg w
  else if r.base = R.LKP_CMD.base then clampLkpCmd w
  else if r.base = R.TCM_TABLE_CFG.base then clampTcamCfg w
  else if r.base = R.TCM_PPU_SET.base then clampPpuSet w
  else if r.base = R.TCM_PPU_ATTR.base then clampPpuAttr w
  else if r.base = R.HIF_SLICE_RES1.base then clampRes1 w
  else if r.base = R.HIF_SLICE_RES2.base then clampRes2 w
  else if r.base = R.HIF_SLICE_LOG_CFG.base then clampLogCfg w
  else if r.base = R.GAU_CTR_CFG.base then clampCtr i w
  else if r.base = R.TAU_TA_ACT.base then clampTaAct old w
  else if r.base = R.ERR_THRESH.base then clampThresh i w
  else if r.base = R.ERR_UNIT_SEL.base then clampUnitSel w
  else w

/-- What element `i` of a register array stores when the host writes `v` (R4 to R8). -/
def storeVal (s : State) (lock : Bool) (r : Reg) (i : Nat) (v : Word) : Word :=
  crossClamp r i (rget s r i) (writeReg lock r (rget s r i) v)

/-- The registers of which a write applies to later ticks alone (R170, R175, R364, R483, R493). -/
def lateReg (r : Reg) : Bool :=
  decide (r.base = R.SEN_EGR_MTU.base ∨ r.base = R.LKP_PROFILE.base ∨ r.base = R.FAB_CTL.base ∨ r.base = R.GAU_CTR_CFG.base ∨
    r.base = R.GAU_SLOT_CFG.base)

/-- What such a register held when the tick began is kept until the tick ends. -/
def noteWas (r : Reg) (i : Nat) (s : State) : State :=
  if lateReg r && (mfind s.was (regAddr r i)).isNone then { s with was := mput s.was (regAddr r i) (rget s r i) } else s

/-- Element `i` of a register array after a host write of `v`. -/
def hostStore (lock : Bool) (r : Reg) (i : Nat) (v : Word) (s : State) : State :=
  rset (noteWas r i s) r i (storeVal s lock r i v)

/-! ### Q-die blocks before the bridge has trained (R30) -/

/-- The number of the Q-die block an offset belongs to (R26, R483). -/
def qBlock (off : Nat) : Option Nat :=
  if 0xC00000 ≤ off ∧ off < 0x1000000 then some 7
  else if 0x1000000 ≤ off ∧ off < 0x1100000 then some 8
  else if 0x1100000 ≤ off ∧ off < 0x1200000 then some 9
  else if 0x1300000 ≤ off ∧ off < 0x1400000 then some 11
  else none

/-- An access to a Q-die block before the bridge has trained is recorded (R30, R542). -/
def qDieRecord (off : Nat) (s : State) : State :=
  match qBlock off with
  | some b => if s.bridgeUp then s else errReport 6 b 15 0 0 (BitVec.ofNat 64 off) s
  | none => s

/-- A host write that a row of its own carries, to the register at a BAR0 offset: it has its effect, but that one to a
Q-die block is discarded and recorded until the bridge has trained (R30). -/
def servedWrite (off : Nat) (o : Out) (s : State) : Out :=
  if (qBlock off).isSome && !s.bridgeUp then .next (qDieRecord off s) else o

/-- The same of a read, which then returns zero. -/
def servedRead (off : Nat) (o : Out) (s : State) : Out :=
  if (qBlock off).isSome && !s.bridgeUp then .next (answer 0 (qDieRecord off s)) else o

end Sys2Proof.Machine
end

