-- ==== Sys2Proof/Machine/HostRx.lean ====
section
/-! DEFINITION. Slices and rings (R398, R419 to R424): their records, the index arithmetic, work that ends, and the
delivery of a packet to a slice's receive ring (R411, R412, R440). -/

namespace Sys2Proof.Machine
open Sys2Proof

/-- The host interface changed. -/
def withHif (f : Hif → Hif) (s : State) : State := { s with hif := f s.hif }

/-- A slice. -/
def slice (s : State) (n : Nat) : SliceSt := mget SliceSt.init s.hif.slices n

/-- A slice replaced. -/
def setSlice (n : Nat) (x : SliceSt) (s : State) : State :=
  withHif (fun h => { h with slices := mset SliceSt.init h.slices n x }) s

/-- RINGS of a slice. -/
def slRings (x : SliceSt) : Nat := fld x.res0 63 56
/-- CPH_QUOTA of a slice. -/
def slQuota (x : SliceSt) : Nat := fld x.res0 44 32
/-- PASID of a slice. -/
def slPasid (x : SliceSt) : Nat := fld x.bind 43 24

/-- Key of ring 0 of PF0. -/
def pf0Ring : Nat := 262144

/-- Key of a ring. -/
def ringKey : RingRef → Nat
  | .slice sl r => 64 * sl.val + r.val
  | .pf0 r => pf0Ring + r.val

/-- The slice of a ring; none for a ring of PF0. -/
def ringSlice (k : Nat) : Option Nat := if k < pf0Ring then some (k / 64) else none

/-- A ring pair. -/
def ring (s : State) (k : Nat) : Ring := mget Ring.init s.hif.rings k

/-- INFLIGHT of a ring: started descriptors whose completion is not in the completion ring, orphans included
(R421). -/
def inflight (x : Ring) : Nat :=
  x.works.length + (x.ended ++ x.waiting).countP (fun e => x.works.all (fun w => decide (w.ord ≠ e.ord)))

/-- A ring's entries of its group buffer that are reserved or held (R428). -/
def groupOf (x : Ring) : Nat := x.works.countP (fun w => !w.orphan) + x.ended.length + x.waiting.length

/-- What a ring is on a tick, for the starts of that tick (R428). -/
def ringView (tick : Nat) (x : Ring) : RingThen :=
  ⟨tick, x.st, x.cqTail, inflight x, x.fetched.length, groupOf x,
   (x.ended ++ x.waiting).isEmpty && x.works.all (fun w => w.orphan), fld x.cfg 41 22⟩

/-- What a ring was when this tick began. -/
def ringThen (s : State) (x : Ring) : RingThen :=
  match x.before with
  | some v => if v.tick = s.tau.mono then v else ringView s.tau.mono x
  | none => ringView s.tau.mono x

/-- A ring pair replaced; what it was when the tick began is kept. -/
def setRing (k : Nat) (x : Ring) (s : State) : State :=
  withHif (fun h => { h with rings := mset Ring.init h.rings k { x with before := some (ringThen s (ring s k)) } }) s

/-- SQ_LOG2 of a ring. -/
def sqLog (x : Ring) : Nat := fld x.cfg 60 56
/-- CQ_LOG2 of a ring. -/
def cqLog (x : Ring) : Nat := fld x.cfg 55 51

/-- An index with WRAP in [16] as one count over twice the ring size (R422). -/
def linear (n v : Nat) : Nat := v / 65536 % 2 * 2 ^ n + v % 65536

/-- The index `k` places on (R422). -/
def advance (n v k : Nat) : Nat :=
  let m := (linear n v + k) % 2 ^ (n + 1)
  m / 2 ^ n * 65536 + m % 2 ^ n

/-- The entries between a consumer's index and a producer's (R422). -/
def held (n prod cons : Nat) : Nat := (linear n prod + 2 ^ (n + 1) - linear n cons) % 2 ^ (n + 1)

/-- The completion ring is full (R422). -/
def cqFull (x : Ring) : Bool :=
  decide (x.cqTail % 65536 = (fld x.cqHead 15 0)) && decide (x.cqTail / 65536 ≠ fld x.cqHead 16 16)

/-- Word `w` of a descriptor (R429). -/
def dWord (d : BitVec 512) (w : Nat) : Word := BitVec.ofNat 64 (d.toNat >>> (64 * w))

/-- OP of a descriptor: codes 8 to 255 take 0 (R429). -/
def dOp (d : BitVec 512) : Nat := if fld (dWord d 0) 55 48 < 8 then fld (dWord d 0) 55 48 else 0

/-- What a started work is when it ends, before its result is known. -/
def endOf (s : State) (w : Work) : Ended :=
  { ord := w.ord, tick := s.tau.mono, pos := w.pos, op := dOp w.desc, tag := fld (dWord w.desc 0) 47 32,
    irq := bit (dWord w.desc 0) 62, gen := w.gen, status := 0, detail := 0, res0 := 0, res1 := 0, dst := 0, data := [] }

/-- Ended work in the order of its end; on one tick, in the order of the submission ring (R433). -/
def insertEnded (e : Ended) : List Ended → List Ended
  | [] => [e]
  | x :: t => if x.tick = e.tick ∧ e.ord < x.ord then e :: x :: t else x :: insertEnded e t

/-- A ring's work ends with a completion. -/
def endWork (x : Ring) (wid : Nat) (e : Ended) : Ring :=
  { x with works := x.works.filter (fun w => decide (w.wid ≠ wid)), ended := insertEnded e x.ended }

/-- A counter of RING_ERR raised. -/
def ringErr (hi lo : Nat) (x : Ring) : Ring := { x with err := setFld x.err hi lo (satAdd 16 (fld x.err hi lo) 1) }

/-- HIF_HOST_DROP counts a packet for a slice (R412). -/
def hostDrop (sl : Nat) (s : State) : State := rsetF (rcount s R.HIF_HOST_DROP 0 47 0 1) R.HIF_HOST_DROP 0 59 48 sl

/-- The oldest started RX_POST that holds no packet. -/
def rxBuffer (x : Ring) : Option Work := x.works.find? (fun w => decide (dOp w.desc = 7))

/-- A packet is delivered to a slice's receive ring (R440), or dropped and counted (R411, R412). A length of 16,384, which
the 14 bits of RESULT0 cannot hold, reads 0: DESIGN CHOICE (log 34). -/
def hostDeliver (sl : Nat) (p : Packet) (s : State) : State :=
  let c := slice s sl
  let r := fld c.bind 5 0
  let k := 64 * sl + r
  let x := ring s k
  if c.st = 1 ∧ bit c.bind 7 = true ∧ x.st = 1 ∧ r < slRings c then
    match rxBuffer x with
    | none => setRing k (ringErr 31 16 x) s
    | some w =>
      let lenB := clampTo 64 16384 (fld (dWord w.desc 3) 63 32)
      let bs := frameBytes p
      let x := if lenB < bs.length then ringErr 15 0 x else x
      let n := min bs.length lenB
      let r0 := n % 2 ^ 14 + (if lenB < bs.length then 2 ^ 14 else 0) + mdF p 0 25 19 * 2 ^ 16 + mdF p 14 31 24 * 2 ^ 24 +
        mdF p 4 31 0 * 2 ^ 32
      let r1 := mdF p 3 29 0 + mdF p 8 31 0 * 2 ^ 32
      setRing k (endWork x w.wid { endOf s w with res0 := BitVec.ofNat 64 r0, res1 := BitVec.ofNat 64 r1,
                                                  dst := (dWord w.desc 2).toNat, data := bs.take n }) s
  else hostDrop sl s

end Sys2Proof.Machine
end

