-- ==== Sys2Proof/Machine/Operands.lean ====
section
/-! DEFINITION. The operand forms of the Stitch instructions: the ten formats of R110 read from an instruction
word, the clamps of R111, key formation (R112, R174) and byte moves in network order (R113). -/

namespace Sys2Proof.Machine
open Sys2Proof

/-- Bits `[hi:lo]` of an instruction word as a bit vector. -/
def ib (w : Word) (n lo : Nat) : BitVec n := BitVec.ofNat n (w.toNat >>> lo)

/-- The opcode of an instruction word (R110). -/
def opcodeOf (w : Word) : Nat := fld w 63 56

/-- Format R of R110. -/
def asR (w : Word) : FmtR := ⟨ib w 5 51, ib w 5 46, ib w 5 41⟩
/-- Format I of R110. -/
def asI (w : Word) : FmtI := ⟨ib w 5 51, ib w 5 46, ib w 14 32, ib w 32 0⟩
/-- Format F of R110 for EXT and INS. -/
def asF (w : Word) : FmtF := ⟨ib w 5 51, ib w 5 46, ib w 6 40, ib w 7 33⟩
/-- Format F of R110 for HASH. -/
def asH (w : Word) : FmtH := ⟨ib w 5 51, ib w 5 46, ib w 3 43, ib w 2 41⟩
/-- Format W of R110. -/
def asW (w : Word) : FmtW := ⟨ib w 5 51, ib w 5 46, ib w 9 37, ib w 4 33, ib w 10 23, ib w 3 20, ib w 6 14⟩
/-- Format M of R110. -/
def asM (w : Word) : FmtM := ⟨ib w 5 51, ib w 5 46, ib w 4 42, ib w 5 37, ib w 6 31⟩
/-- Format B of R110. -/
def asB (w : Word) : FmtB := ⟨ib w 5 51, ib w 5 46, ib w 6 40, ib w 16 16, ib w 16 0⟩
/-- Format L of R110. -/
def asL (w : Word) : FmtL := ⟨ib w 5 51, ib w 5 46, ib w 3 43, ib w 3 40, ib w 8 32, ib w 1 31⟩
/-- Format C of R110. -/
def asC (w : Word) : FmtC :=
  ⟨ib w 5 51, ib w 5 46, ib w 5 41, ib w 5 36, ib w 3 33, ib w 3 30, ib w 1 29, ib w 9 20, ib w 9 11⟩
/-- Format A of R110. -/
def asA (w : Word) : FmtA := ⟨ib w 5 51, ib w 5 46, ib w 5 41, ib w 5 36, ib w 3 33, ib w 3 30, ib w 21 0⟩
/-- Format X of R110. -/
def asX (w : Word) : FmtX := ⟨ib w 5 51, ib w 5 46, ib w 5 41, ib w 2 36, ib w 1 35, ib w 8 0⟩

/-- The opcodes R114 defines. -/
def definedOpcodes : List Nat :=
  [0x00, 0x01] ++ (List.range 14).map (fun i => 0x10 + i) ++ (List.range 7).map (fun i => 0x20 + i) ++
  [0x28, 0x29, 0x30, 0x31, 0x32, 0x40, 0x41, 0x42, 0x43, 0x44, 0x45, 0x46, 0x48, 0x49, 0x4A] ++
  (List.range 16).map (fun i => 0x50 + i) ++ [0x60, 0x61, 0x62, 0x63, 0x64, 0x65, 0x66] ++
  [0x70, 0x71, 0x72, 0x78, 0x79, 0x7A]

/-- SIZE of R111: 0 becomes 1, 9 to 15 become 8. -/
def sizeOf_ (v : BitVec 4) : Nat := clampTo 1 8 v.toNat
/-- N of PUSH and POP (R111). -/
def nPush (v : BitVec 10) : Nat := clampTo 1 64 v.toNat
/-- N of CSUM (R111). -/
def nCsum (v : BitVec 10) : Nat := clampTo 1 512 v.toNat
/-- WID of format F (R111). -/
def widF (v : BitVec 7) : Nat := clampTo 1 64 v.toNat
/-- WID of format M (R111). -/
def widM (v : BitVec 6) : Nat := clampTo 1 32 v.toNat
/-- KN of R111: 0 becomes 1, 6 and 7 become 5. -/
def knOf (v : BitVec 3) : Nat := clampTo 1 5 v.toNat

/-- What register `i` of a thread reads as: g0 is zero, and so is every number above 31 (R85, R112). -/
def greg (t : Thread) (i : Nat) : Word := if i = 0 ∨ 31 < i then 0 else mget 0 t.g i

/-- A result written to register `i`: discarded for g0 and for numbers above 31 (R85, R112). -/
def gset (t : Thread) (i : Nat) (v : Word) : Thread :=
  if i = 0 ∨ 31 < i then t else { t with g := mset 0 t.g i v }

/-- Registers `r` to `r + n - 1` as one value, `r` the most significant (R174); those beyond g31 read zero. -/
def gregs (t : Thread) (r n : Nat) : Nat :=
  (List.range n).foldl (fun a i => a * 2 ^ 64 + (greg t (r + i)).toNat) 0

/-- A shift amount above 63 becomes 63 (R113). -/
def shAmt (n : Nat) : Nat := min n 63

/-- Sign-extension of a 32-bit immediate (R120). -/
def sext32 (v : BitVec 32) : Word := v.signExtend 64

/-- Zero-extension of a 32-bit immediate (R120). -/
def zext32 (v : BitVec 32) : Word := v.zeroExtend 64

/-- The bytes of a window from offset `o`: offsets at or above S or above 511 read zero (R87). -/
def winLoad (p : Packet) (o n : Nat) : Bytes :=
  (List.range n).map (fun i => if o + i ≤ 511 then byteAt p.win (o + i) else 0)

/-- A store to a window from offset `o`: offsets at or above S or above 511 are ignored (R87). -/
def winStore (p : Packet) (o : Nat) (bs : Bytes) : Packet :=
  { p with win := (List.range p.win.length).map (fun i =>
      if o ≤ i ∧ i < o + bs.length ∧ i ≤ 511 then byteAt bs (i - o) else byteAt p.win i) }

/-- The window offset of a window instruction, formed in 64 bits (ch. 4). -/
def winOff (t : Thread) (ra : BitVec 5) (off : BitVec 9) : Nat :=
  (greg t ra.toNat + BitVec.ofNat 64 off.toNat).toNat

/-- One's-complement addition of 16-bit words with end-around carry (R129). -/
def oc16 (a b : Nat) : Nat := (a + b) % 65536 + (a + b) / 65536

/-- The folded one's-complement sum of bytes taken as big-endian 16-bit words, an odd last byte padded with a
zero byte (R128). -/
def csum16 : Bytes → Nat
  | [] => 0
  | [a] => a.toNat * 256
  | a :: b :: t => oc16 (a.toNat * 256 + b.toNat) (csum16 t)

/-- Metadata fields a program may not write (hw in R86), as a mask of the bits of word `i`; DISP counts among
them, since DISP alone writes it (R130). -/
def mdHw (i : Nat) : Word32 :=
  match i with
  | 0 => 0xFFFFFFFF
  | 1 => 0x0000000F
  | 3 => 0xFFFFFFFF
  | 4 => 0xFFFFFFFF
  | 5 => 0x0000001F
  | 13 => 0x0000007F
  | 14 => 0x0000FFFF
  | 15 => 0xFFFFFFFF
  | _ => 0

/-- Program-written metadata fields clamped per field (R86, R130): COLOR code 3 takes 0 and SVC_THREAD above 639
becomes 639; every other program field takes every value. -/
def mdClamp (i : Nat) (w : Word32) : Word32 :=
  match i with
  | 1 => if w.toNat >>> 8 % 4 = 3 then setF32 w 9 8 0 else w
  | 13 => if 639 < w.toNat >>> 7 % 1024 then setF32 w 16 7 639 else w
  | _ => w

/-- A program write of word `i` of the metadata (R86, R130). MIRROR_SESSION and REASON of m14 are program
fields; the reserved bits stay zero. -/
def mdProgWrite (p : Packet) (i : Nat) (v : Word32) : Packet :=
  mdSetW p i (mdClamp i ((mdWord p i &&& mdHw i) ||| (v &&& ~~~ mdHw i)))

end Sys2Proof.Machine
end

