-- ==== Sys2Proof/Machine/Issue.lean ====
section
/-! DEFINITION. The issue of one Stitch instruction: what must hold for it to issue (R79, R89, R90, R117, R140,
R156), what every issue counts (R90, R91), and what an exception does (R91 to R93, R102). -/

namespace Sys2Proof.Machine
open Sys2Proof

/-- What an instruction's own effect on its thread comes to: the thread after it, or an exception (R117). -/
inductive Eff
  | ok (t : Thread)
  | exc (code : Nat)

/-- The bank a thread runs. -/
def thrBank (s : State) (k : Nat) : Bank := bank s (k / 640) (thr s k).bank

/-- The instruction word at a thread's program counter; places the image does not fill hold zero words. -/
def thrWord (s : State) (k : Nat) : Word := mget 0 (thrBank s k).words (thr s k).pc

/-- Registers that an outstanding request will write; g0 is never waited on (R89, R112). -/
def reqDests (r : Req) : List Nat :=
  ([r.rd] ++ if r.two then [r.rd + 1] else []).filter (fun i => decide (i ≠ 0 ∧ i ≤ 31))

/-- Tags of the outstanding requests that an instruction naming registers `rs` and perhaps a tag waits for
(R79, R89). -/
def blockTags (t : Thread) (rs : List Nat) (tag : Option Nat) : List Nat :=
  (t.reqs.filter (fun r => (reqDests r).any (fun d => rs.contains d) || decide (tag = some r.tag))).map (·.tag)

/-- Tags of the outstanding CIPH requests whose AOFF an access up to offset `last` reaches (R140). -/
def cipherTags (t : Thread) (last : Option Nat) : List Nat :=
  (t.reqs.filter (fun r => match r.kind, last with
    | .cipher _ aoff _ _ _, some l => decide (aoff ≤ l)
    | .cipher .., none => true
    | _, _ => false)).map (·.tag)

/-- What an instruction names and how long its result takes: the registers it reads and writes, the tag it takes, the
window bytes it reaches where an outstanding CIPH must have returned first (up to an offset, or all), the register that
offset comes from, whether it needs the complete frame, and its result latency in clocks (R79, R89, R116, R140, R156, R167). -/
structure Use where
  reads : List Nat := []
  writes : List Nat := []
  tag : Option Nat := none
  reach : Option (Option Nat) := none
  base : Option Nat := none
  frame : Bool := false
  latency : Nat := 1

/-- The use an instruction of format W makes of the window, `n` bytes from its offset. -/
def winUse (t : Thread) (f : FmtW) (n : Nat) (u : Use) : Use :=
  { u with reach := some (some (winOff t f.ra f.off + n - 1)), base := some f.ra.toNat }

/-- Registers a key is read from. -/
def keyRegs (rk : BitVec 5) (kn : BitVec 3) : List Nat := (List.range (knOf kn)).map (fun i => rk.toNat + i)

/-- The use of an instruction word, by its opcode (R114, R120 to R153, and the timing summary of ch. 4). -/
def instrUse (t : Thread) (w : Word) : Use :=
  let op := opcodeOf w
  let rd := (asR w).rd.toNat
  let ra := (asR w).ra.toNat
  let rb := (asR w).rb.toNat
  if op < 0x1B then
    if op < 0x10 then {} else { reads := [ra, rb], writes := [rd], latency := if op = 0x18 then 4 else 1 }
  else if op < 0x40 then
    match op with
    | 0x1D => { reads := [ra, rb, rd], writes := [rd], latency := 2 }
    | 0x28 => { writes := [rd] }
    | 0x29 => { reads := [rd], writes := [rd] }
    | 0x31 => { reads := [ra, rd], writes := [rd] }
    | 0x32 => { reads := (if (asH w).fn = 1 then [rd] else []) ++ keyRegs (asH w).ra (asH w).kn, writes := [rd],
                latency := 3 }
    | _ => if definedOpcodes.contains op then { reads := [ra], writes := [rd] } else {}
  else if op < 0x50 then
    let f := asW w
    match op with
    | 0x40 => winUse t f (sizeOf_ f.size) { reads := [ra], writes := [rd], latency := 2 }
    | 0x41 => winUse t f (sizeOf_ f.size) { reads := [ra, rd] }
    | 0x42 => { reads := [ra], reach := some none }
    | 0x43 => { reads := [ra], reach := some none }
    | 0x44 => { reads := [rd], reach := some none, frame := true }
    | 0x45 => winUse t f (nCsum f.n) { reads := [ra], writes := [rd], latency := 1 + (nCsum f.n + 63) / 64 }
    | 0x46 => { reads := [ra], writes := [rd], tag := some f.tag.toNat, reach := some none }
    | 0x48 => { writes := [rd], frame := decide ((asM w).midx = 0) }
    | 0x49 => { reads := [ra] }
    | 0x4A => { reads := [ra] }
    | _ => {}
  else if op < 0x60 then
    let f := asB w
    if op < 0x53 then {}
    else if op = 0x53 then { reads := [ra] }
    else if op < 0x5A then { reads := [f.ra.toNat, f.rb.toNat] }
    else { reads := [f.ra.toNat] }
  else
    match op with
    | 0x60 => { reads := keyRegs (asL w).rk (asL w).kn, writes := if (asL w).rw = 1 then [rd, rd + 1] else [rd],
                tag := some (asL w).tag.toNat }
    | 0x61 => { reads := rd :: keyRegs (asL w).rk (asL w).kn }
    | 0x62 => { reads := [ra, rb, (asC w).rc.toNat], writes := [rd], tag := some (asC w).tag.toNat, frame := true }
    | 0x63 => { reads := [ra], writes := [rd], tag := some ((asI w).aux.toNat / 2 ^ 11) }
    | 0x64 => { reads := [ra, rd] }
    | 0x65 => { reads := [ra, rb, (asA w).rc.toNat], writes := [rd], tag := some (asA w).tag.toNat }
    | 0x70 => { reads := if (asI w).aux.toNat.testBit 13 then [ra, rd] else [ra] }
    | 0x71 => { writes := if (asI w).aux.toNat / 2 ^ 12 = 1 then [rd] else [rd, rd + 1], latency := 2 }
    | 0x78 => { writes := [rd] }
    | 0x79 => { reads := [ra, rb] }
    | 0x7A => { reads := [ra], reach := some (some (clampTo 14 512 (greg t ra).toNat - 1)),
                base := some ra }
    | _ => {}

/-- The tags of the CIPH requests whose frame bytes an instruction reaches; an offset whose register awaits a result is not
known before that result (R140). -/
def reachTags (t : Thread) (u : Use) : List Nat :=
  match u.reach, u.base with
  | some l, some b => if blockTags t [b] none = [] then cipherTags t l else []
  | some l, none => cipherTags t l
  | none, _ => []

/-- The tags an instruction waits for: those whose results it reads or overwrites, its own tag, and those of the CIPH
requests whose frame bytes it reaches (R79, R89, R140, R167). -/
def useTags (t : Thread) (u : Use) : List Nat := blockTags t (u.reads ++ u.writes) u.tag ++ reachTags t u

/-- The use of the instruction at a thread's program counter. -/
def nextUse (s : State) (k : Nat) : Use := instrUse (thr s k) (thrWord s k)

/-- A packet thread's packet is dropped: it gives up its place at once and the context is free (R79, R83). -/
def dropThr (k : Nat) (s : State) : State := freeThr (giveUpPlace (thr s k).pkt.pid s) k

/-- A packet thread's packet goes to a slice: at once when its frame is complete, and otherwise when it is
(R83, R91, R411). -/
def hostThr (k sl : Nat) (s : State) : State :=
  let t := thr s k
  let s := giveUpPlace t.pkt.pid s
  if t.pkt.complete then freeThr (hostDeliver sl t.pkt s) k
  else setThr (reqsLeave k s) k { t with st := .departing, hostTo := some sl, reqs := [], waitTags := [],
                                         waitFrame := false, since := s.tau.mono }

/-- A service thread halts: STATE 4, EXC takes the code, the inbox is emptied (R102). -/
def haltThr (k code : Nat) (s : State) : State :=
  let t := thr s k
  setThr (reqsLeave k s) k { t with st := .halted, exc := code, inbox := [], reqs := [], waitTags := [],
                                    waitFrame := false, exc6 := false, stopReq := false }

/-- Key of a thread's engine. -/
def engKey (k : Nat) : Nat := 80 * (k / 640) + k % 640 / 8

/-- The issue slot of a thread's engine. -/
def engine (s : State) (k : Nat) : EngSt := mget EngSt.init s.sen.engines (engKey k)

/-- A thread has issued, and its engine's issue slot is taken for `n` clocks (R77, R116). -/
def takeSlot (k n : Nat) (s : State) : State :=
  { s with sen := { s.sen with engines := mset EngSt.init s.sen.engines (engKey k) ⟨k % 8, s.tau.mono + n⟩ } }

/-- The issue slot of a thread's engine is used on this tick, in a class of the thread's course (R77, R492). -/
def slotUsed (k code : Nat) (s : State) : State :=
  occur 3 codeEngine (engKey k) 1 (occurThr code (k / 640) k (takeSlot k 1 s))

/-- An exception of a thread (R91, R92, R93, R102): counted by code; a service thread halts; a packet thread's
REASON takes the code, and the action of SEN_EXC_CFG follows, or a drop where a handler was running. -/
def raiseExc (k code : Nat) (s : State) : State :=
  let s := occurThr 5 code k (rcount s R.SEN_EXC_COUNT code 47 0 1)
  let s := if code = 6 ∧ s.tau.mono < (engine s k).free then s
    else slotUsed k (if code = 1 ∨ code = 3 ∨ code = 6 ∨ code = 9 then codeUnissued else codeWasted) s
  let t := thr s k
  if t.svc then haltThr k code s
  else
    let t := { t with pkt := mdSet t.pkt 14 31 24 code, exc6 := false }
    let s := setThr s k t
    if t.handler then dropThr k s
    else
      let cfg := rget s R.SEN_EXC_CFG code
      match fld cfg 1 0 with
      | 1 => hostThr k (fld cfg 43 32) s
      | 2 => setThr s k { t with st := .ready, handler := true, spent := 0, stack := [], pc := fld cfg 31 16,
                                 waitTags := [], waitFrame := false }
      | _ => dropThr k s

/-- Instructions the thread may still issue are used up (R90, R93, R102); a SLEEP is not counted among the
instructions between one SLEEP and the next. -/
def budgetGone (s : State) (t : Thread) (isSleep : Bool) : Bool :=
  if t.svc then !isSleep && decide (rfld s R.SEN_SVC_BUDGET 0 19 0 ≤ t.spent)
  else if t.handler then decide (64 ≤ t.spent) else decide (1024 ≤ t.count)

/-- The registers still to be written after an issue of use `u` on tick `m` (R78). -/
def busyAfter (m : Nat) (u : Use) (b : List (Nat × Nat)) : List (Nat × Nat) :=
  b.filter (fun e => decide (m + 1 < e.2)) ++
    (if u.latency < 2 then [] else (u.writes.filter (fun r => decide (r ≠ 0))).map (fun r => (r, m + u.latency)))

/-- What every issue counts (R90, R91): the instruction, LAST_PC and INSTR_COUNT in m15, and the allowance; and the
registers it is still to write (R78). The m15 and, on an exception, the m14 of a service thread stay as they are: DESIGN
CHOICE (log 61). -/
def countIssue (m : Nat) (u : Use) (t : Thread) : Thread :=
  { t with count := t.count + 1, spent := t.spent + 1, lastPc := t.pc,
           pkt := if t.svc then t.pkt
                  else mdSetW t.pkt 15 (BitVec.ofNat 32 ((t.pc % 65536) <<< 16 + min (t.count + 1) 1024)),
           pc := t.pc + 1, busy := busyAfter m u t.busy }

/-- The next issue of a thread would raise exception 1, 9 or 3 (R117). -/
def unissuable (s : State) (k : Nat) : Bool :=
  budgetGone s (thr s k) (decide (opcodeOf (thrWord s k) = 0x78)) || decide ((thrBank s k).length ≤ (thr s k).pc)

/-- The instruction at a thread's program counter must wait for a tag or for its frame (R79, R89, R156). -/
def heldBack (s : State) (k : Nat) : Bool :=
  !unissuable s k && (decide (useTags (thr s k) (nextUse s k) ≠ []) || ((nextUse s k).frame && !(thr s k).pkt.complete))

/-- It reads a register that an earlier instruction is still to write (R78). -/
def stalled (s : State) (k : Nat) : Bool :=
  !unissuable s k && (nextUse s k).reads.any (fun r => decide (r ≠ 0) &&
    (thr s k).busy.any (fun e => decide (e.1 = r ∧ s.tau.mono < e.2)))

/-- A thread that its engine may choose on this tick (R77 to R79). -/
def mayIssue (s : State) (k : Nat) : Bool :=
  decide ((thr s k).st = .ready ∧ (thr s k).start ≤ s.tau.mono) && !heldBack s k && !stalled s k

/-- It is the turn of a thread: its engine's issue slot is free, and it is the first, in round-robin order after the one
that issued last, of those that may issue (R77). -/
def turn (s : State) (k : Nat) : Bool :=
  let e := engine s k
  decide (e.free ≤ s.tau.mono) &&
    decide (((List.range 8).map (fun i => k / 8 * 8 + (e.last + 1 + i) % 8)).find? (mayIssue s) = some k)

/-- One attempt to issue an instruction of opcode `op` whose fields meet `ok`.
The command has no effect unless the thread is Ready and, where its program has a word at the program counter,
that word is this instruction. Where the instruction must wait, the thread enters Waiting and nothing issues (R79, R89,
R156). Otherwise nothing happens until it is the thread's turn (R77, R78). Exceptions come in the order of R117: 1 or
9, then 3, then the instruction's own. -/
def issue (th : ThreadRef) (op : Nat) (ok : Word → Bool) (body : Nat → Thread → State → State) (s : State) : State :=
  let k := thrKey th
  let t := thr s k
  let b := thrBank s k
  let w := thrWord s k
  if t.st ≠ .ready ∨ s.tau.mono < t.start then s
  else if t.pc < b.length ∧ ¬ (opcodeOf w = op ∧ ok w = true) then s
  else if heldBack s k then
    let u := nextUse s k
    setThr s k { t with st := .waiting, waitTags := useTags t u, waitFrame := u.frame && !t.pkt.complete
                        since := s.tau.mono, lastPc := t.pc }
  else if turn s k = false then s
  else if budgetGone s t (decide (opcodeOf w = 0x78)) then raiseExc k (if t.svc then 9 else 1) s
  else if b.length ≤ t.pc then raiseExc k 3 s
  else body k (countIssue s.tau.mono (nextUse s k) t) (slotUsed k 2 s)

/-- Apply an effect that touches only the thread, or raise the exception it meets. -/
def applyEff (e : Eff) (k : Nat) (t : Thread) (s : State) : State :=
  match e with
  | .ok t' => setThr s k t'
  | .exc c => raiseExc k c (setThr s k t)

/-- An instruction whose whole effect is on its own thread. -/
def issueLocal (th : ThreadRef) (op : Nat) (ok : Word → Bool) (f : Thread → Eff) (s : State) : State :=
  issue th op ok (fun k t s => applyEff (f t) k t s) s

/-- A thread that a result or its frame has reached: out of Waiting once nothing it waits for is outstanding, to issue
from the next clock (R79), and an exception 6 that R141 calls for raised as it leaves. -/
def settle (k : Nat) (s : State) : State :=
  let t := thr s k
  if t.st = .waiting then
    if t.reqs.any (fun r => t.waitTags.contains r.tag) || (t.waitFrame && !t.pkt.complete) then s
    else
      let s := setThr s k { t with st := .ready, waitTags := [], waitFrame := false, start := s.tau.mono + 1 }
      if t.exc6 then raiseExc k 6 s else s
  else if t.st = .ready ∧ t.exc6 = true then raiseExc k 6 s
  else s

/-- The request a tag of a thread holds. -/
def reqOf (t : Thread) (tag : Nat) : Option Req := t.reqs.find? (fun r => decide (r.tag = tag))

/-- The sorts of request, by the command that returns the result. -/
def isLookup (q : ReqKind) : Bool := match q with | .lookup .. => true | _ => false
def isState (q : ReqKind) : Bool := match q with | .state .. => true | _ => false
def isScan (q : ReqKind) : Bool := match q with | .pmatch _ _ _ _ (some _) => true | _ => false
def toScan (q : ReqKind) : Bool := match q with | .pmatch _ _ _ _ none => true | _ => false

/-- A request given up is of a thread, a tag and a sort. -/
def goneIs (k tag : Nat) (sort : ReqKind → Bool) (g : Nat × Req) : Bool :=
  decide (g.1 = k ∧ g.2.tag = tag) && sort g.2.kind

/-- The request a result of a thread's tag answers, and whether the thread has given it up: the oldest given up and still
under way, otherwise the one the tag holds (R72, R89). -/
def awaited (s : State) (k tag : Nat) (sort : ReqKind → Bool) : Option (Bool × Req) :=
  match s.sen.gone.find? (goneIs k tag sort) with
  | some g => some (true, g.2)
  | none => (reqOf (thr s k) tag).map (fun r => (false, r))

/-- A request leaves a thread with its result in rd and, for two, rd + 1 (R89, R112). -/
def reqDone (t : Thread) (r : Req) (v0 v1 : Word) : Thread :=
  let t := { t with reqs := t.reqs.filter (fun q => decide (q.tag ≠ r.tag)) }
  let t := gset t r.rd v0
  if r.two then gset t (r.rd + 1) v1 else t

/-- A request's result returns: to its registers, with its thread released where it waited for it (R79, R89); that of a
request given up is discarded (R72). -/
def resultTo (k : Nat) (sort : ReqKind → Bool) (q : Bool × Req) (v0 v1 : Word) (s : State) : State :=
  if q.1 then { s with sen := { s.sen with gone := s.sen.gone.eraseP (goneIs k q.2.tag sort) } }
  else settle k (setThr s k (reqDone (thr s k) q.2 v0 v1))

end Sys2Proof.Machine
end

