-- ==== Sys2Proof/Machine/Trie.lean ====
section
/-! DEFINITION. The trie of longest-prefix tables (R187 to R194): its prefixes, the nodes they need, the words that stand in
its SRAM, and the walk of a lookup. -/

namespace Sys2Proof.Machine
open Sys2Proof

/-! ### Prefixes -/

/-- Address bits of a root: 32 for roots 0 to 7, 128 for roots 8 to 15 (R174). -/
def rootBits (r : Nat) : Nat := if r < 8 then 32 else 128

/-- Key of a prefix of root `r`, length `l`, whose first `l` bits are `a`. -/
def pfxKey (r l a : Nat) : Nat := (r * 129 + l) * 2 ^ 128 + a

/-- Root, length and address bits of a prefix key. -/
def pfxParts (k : Nat) : Nat × Nat × Nat :=
  (k / 2 ^ 128 / 129, k / 2 ^ 128 % 129, k % 2 ^ 128)

/-- Stages of nodes a prefix of length `l` reaches: none for 16 or less. -/
def stages (l : Nat) : Nat := (l - 16 + 7) / 8

/-- The nodes on the path of a prefix: root, stage and leading bits. -/
def pathNodes (k : Nat) : List (Nat × Nat × Nat) :=
  let (r, l, a) := pfxParts k
  (List.range (stages l)).map (fun j => (r, j + 1, a >>> (l - (16 + 8 * j))))

/-- Prefixes that end in a node. -/
def nodePrefixes (lpm : SMap (Vers Nat)) (nd : Nat × Nat × Nat) : Nat :=
  (lpm.filter (fun e => decide ((pathNodes e.1).getLast? = some nd))).length

/-- The nodes of the trie, each once. -/
def trieNodes (lpm : SMap (Vers Nat)) : List (Nat × Nat × Nat) := (lpm.flatMap (fun e => pathNodes e.1)).eraseDups

/-- A node exists: a prefix present in some live version lies on or below it (R191). -/
def nodeExists (lpm : SMap (Vers Nat)) (nd : Nat × Nat × Nat) : Bool := lpm.any (fun e => (pathNodes e.1).contains nd)

/-- Units of 16 bytes the prefixes need: 8 + ⌈n / 4⌉ a node (R191). -/
def trieUnits (lpm : SMap (Vers Nat)) : Nat :=
  (trieNodes lpm).foldl (fun u nd => u + 8 + (nodePrefixes lpm nd + 3) / 4) 0

/-! ### Root entries and short prefixes -/

/-- The versions of a short prefix as root entry `i` shows them: an immediate change that has not reached the entry yet
leaves it the current version it had (R194). -/
def seenVers (s : State) (k i : Nat) : Option (Vers Nat) :=
  match s.lkp.pfxJob with
  | some j =>
    if j.key = k ∧ j.next ≤ i then
      some { (mfind s.lkp.lpm k).getD ⟨none, none, none⟩ with cur := j.old }
    else mfind s.lkp.lpm k
  | none => mfind s.lkp.lpm k

/-- The longest prefix of `l` bits or fewer, 16 at most, that covers root entry `i` of root `r` and has a present version
for a view: its length and result index. -/
def shortBest (s : State) (r i : Nat) (v : View) (l : Nat) : Option (Nat × Nat) :=
  match (seenVers s (pfxKey r l (i >>> (16 - l))) i).bind (fun e => versOf e v), l with
  | some x, _ => some (l, x)
  | none, 0 => none
  | none, l + 1 => shortBest s r i v l

/-- BEST_LEN of a root entry: the length of the longest current short prefix that covers it (R188). Where none does the
manual gives no value, and it reads 0: DESIGN CHOICE (log 12). -/
def bestLen (s : State) (r i : Nat) : Nat := ((shortBest s r i .cur 16).map (·.1)).getD 0

/-- SH of a root entry: a short prefix that covers it has pending or previous versions. -/
def rootShared (s : State) (r i : Nat) : Bool :=
  (List.range 17).any (fun l => match mfind s.lkp.lpm (pfxKey r l (i >>> (16 - l))) with
    | some e => e.pend.isSome || e.prev.isSome
    | none => false)

/-! ### Words of the trie SRAM (R188) -/

/-- A node as a number. -/
def nodeCode (nd : Nat × Nat × Nat) : Nat := (nd.1 * 16 + nd.2.1) * 2 ^ 128 + nd.2.2

/-- CHILD_MAP of a node: bit v is set when its child for stride value v exists. -/
def childMap (lpm : SMap (Vers Nat)) (nd : Nat × Nat × Nat) : Nat :=
  (List.range 256).foldl (fun m v => m + (nodeExists lpm (nd.1, nd.2.1 + 1, nd.2.2 * 256 + v)).toNat * 2 ^ v) 0

/-- Key of the prefix of `l` bits, 1 to 8, with value `v` that ends in a node. -/
def nodePfx (nd : Nat × Nat × Nat) (l v : Nat) : Nat := pfxKey nd.1 (8 + 8 * nd.2.1 + l) (nd.2.2 * 2 ^ l + v)

/-- PFX_MAP of a node: bit 2^l - 2 + v is set when a prefix of l bits with value v ends in it. -/
def pfxMap (lpm : SMap (Vers Nat)) (nd : Nat × Nat × Nat) : Nat :=
  (List.range 8).foldl (fun m j => (List.range (2 ^ (j + 1))).foldl (fun m v =>
    m + (mfind lpm (nodePfx nd (j + 1) v)).isSome.toNat * 2 ^ (2 ^ (j + 1) - 2 + v)) m) 0

/-- Bits of a map set below bit `n`. -/
def setBelow (m n : Nat) : Nat := ((List.range n).filter (fun i => m.testBit i)).length

/-- First unit of a node's child array: where a compaction has placed it, or a free value (R481, log 25). -/
def childBaseOf (bs : SMap Nat) (nd : Nat × Nat × Nat) : Nat :=
  (mfind bs (2 * nodeCode nd)).getD (Config.childBase (nodeCode nd)).toNat

/-- First unit of a node's prefix array. -/
def pfxBaseOf (bs : SMap Nat) (nd : Nat × Nat × Nat) : Nat :=
  (mfind bs (2 * nodeCode nd + 1)).getD (Config.pfxBase (nodeCode nd)).toNat

/-- The unit a node stands in: at its parent's CHILD_BASE, 8 units a child in ascending stride value; a first-stage node's
is the CHILD of its root entry. -/
def nodeUnit (bs : SMap Nat) (lpm : SMap (Vers Nat)) (nd : Nat × Nat × Nat) : Nat :=
  if nd.2.1 ≤ 1 then childBaseOf bs (nd.1, 0, nd.2.2)
  else
    let up := (nd.1, nd.2.1 - 1, nd.2.2 / 256)
    childBaseOf bs up + 8 * setBelow (childMap lpm up) (nd.2.2 % 256)

/-- The unit and slot of the prefix at bit `b` of a node's PFX_MAP. -/
def slotUnit (bs : SMap Nat) (lpm : SMap (Vers Nat)) (nd : Nat × Nat × Nat) (b : Nat) : Nat × Nat :=
  let q := setBelow (pfxMap lpm nd) b
  (pfxBaseOf bs nd + q / 4, q % 4)

/-- A root entry. -/
def rootWord (s : State) (r i : Nat) : Nat :=
  let best := shortBest s r i .cur 16
  let child := nodeExists s.lkp.lpm (r, 1, i)
  let v := child.toNat * 2 ^ 63 + best.isSome.toNat * 2 ^ 62 + (rootShared s r i).toNat * 2 ^ 61 +
    bestLen s r i * 2 ^ 56 + (if child then nodeUnit s.lkp.bases s.lkp.lpm (r, 1, i) % 2 ^ 24 * 2 ^ 32 else 0) +
    (best.map (·.2)).getD 0 % 2 ^ 20 * 2 ^ 12
  v + parBits 64 8 v

/-- A node. -/
def nodeWord (bs : SMap Nat) (lpm : SMap (Vers Nat)) (nd : Nat × Nat × Nat) : Nat :=
  let v := childMap lpm nd * 2 ^ 768 + pfxMap lpm nd * 2 ^ 258 + childBaseOf bs nd * 2 ^ 234 +
    pfxBaseOf bs nd * 2 ^ 210
  v + parBits 1024 16 v

/-- A prefix slot: of a node's prefix, or of the short-prefix array. The manual gives RESULT no value in a slot without a
current version, and it reads 0: DESIGN CHOICE (log 12). -/
def slotWord (lpm : SMap (Vers Nat)) (k : Nat) : Nat :=
  match mfind lpm k with
  | none => 0
  | some e =>
    let v := e.cur.isSome.toNat * 2 ^ 31 + (e.pend.isSome || e.prev.isSome).toNat * 2 ^ 30 + e.cur.getD 0 % 2 ^ 20
    v + parBits 32 4 v * 2 ^ 24

/-- The place of a short prefix in its root's array of 131,071 slots: one slot per prefix value (R187). -/
def shortSlot (k : Nat) : Nat := 2 ^ (pfxParts k).2.1 - 1 + (pfxParts k).2.2

/-- A result entry. The manual gives DATA no value in one without a current version, and it reads 0: DESIGN CHOICE
(log 12). -/
def resultWord (s : State) (i : Nat) : Nat :=
  match mfind s.lkp.res i with
  | none => 0
  | some e =>
    let v := e.cur.isSome.toNat * 2 ^ 127 + (e.pend.isSome || e.prev.isSome).toNat * 2 ^ 126 +
      (e.cur.map (·.toNat)).getD 0
    v + parBits 128 4 v * 2 ^ 120

/-! ### The walk (R189) -/

/-- The search of one node for stride value `v`, prefixes of `l` bits or fewer: the present version for a view of the
longest prefix whose PFX_MAP bit is set, or the place where it met a parity error (R217). An error is one of a unit of 16
bytes, and spoils each of its four slots: DESIGN CHOICE (log 59). -/
def nodeSearch (s : State) (nd : Nat × Nat × Nat) (v : Nat) (w : View) : Nat → Except (Nat × Nat) (Option Nat)
  | 0 => .ok none
  | l + 1 =>
    let p := v >>> (8 - (l + 1))
    match mfind s.lkp.lpm (nodePfx nd (l + 1) p) with
    | some e =>
      if s.lkp.bad.any (fun x => decide (x = (80 + nd.1, (slotUnit s.lkp.bases s.lkp.lpm nd (2 ^ (l + 1) - 2 + p)).1))) then
        .error (80 + nd.1, (slotUnit s.lkp.bases s.lkp.lpm nd (2 ^ (l + 1) - 2 + p)).1)
      else
        match versOf e w with
        | some x => .ok (some x)
        | none => nodeSearch s nd v w l
    | none => nodeSearch s nd v w l

/-- A unit of a node that has a parity error, if any. -/
def nodeBad (s : State) (nd : Nat × Nat × Nat) : Option Nat :=
  (s.lkp.bad.find? (fun x => decide (x.1 = 80 + nd.1) &&
    decide (nodeUnit s.lkp.bases s.lkp.lpm nd ≤ x.2 ∧ x.2 < nodeUnit s.lkp.bases s.lkp.lpm nd + 8))).map (·.2)

/-- The walk from a node at stage `j` on, `n` stages at most, with the best result so far. -/
def walkNodes (s : State) (r a : Nat) (w : View) (j : Nat) (best : Option Nat) : Nat → Except (Nat × Nat) (Option Nat)
  | 0 => .ok best
  | n + 1 =>
    let nd := (r, j, a >>> (rootBits r - (8 + 8 * j)))
    if nodeExists s.lkp.lpm nd then
      match nodeBad s nd with
      | some u => .error (80 + r, u)
      | none =>
        match nodeSearch s nd (a >>> (rootBits r - (16 + 8 * j)) % 256) w 8 with
        | .error u => .error u
        | .ok x => walkNodes s r a w (j + 1) (x.or best) n
    else .ok best

/-- The slot of a short prefix with a parity error that a lookup reads: where SH of root entry `i` is 1 it reads the slots of
the prefixes that cover the entry. -/
def shortBad (s : State) (r i : Nat) : Option Nat :=
  if rootShared s r i then
    ((List.range 17).map (fun l => pfxKey r l (i >>> (16 - l)))).findSome? (fun k =>
      if (mfind s.lkp.lpm k).isSome && s.lkp.bad.contains (128 + r, shortSlot k) then some (shortSlot k) else none)
  else none

/-- The walk of a lookup: the result index of the longest prefix that covers the address, or the place of a parity error
it met. -/
def lpmWalk (s : State) (r a : Nat) (w : View) : Except (Nat × Nat) (Option Nat) :=
  let i := a >>> (rootBits r - 16)
  if s.lkp.bad.contains (112 + r, i) then .error (112 + r, i)
  else if (shortBad s r i).isSome then .error (128 + r, (shortBad s r i).getD 0)
  else walkNodes s r a w 1 ((shortBest s r i w 16).map (·.2)) ((rootBits r - 16) / 8)

end Sys2Proof.Machine
end

