-- ==== Sys2Proof/Machine/Tables.lean ====
section
/-! DEFINITION. Reading the tables: the version a tag selects (R62), exact-match, flow and longest-prefix lookups
(ch. 6), and the TCAM search (ch. 7), each as one function of the state. -/

namespace Sys2Proof.Machine
open Sys2Proof

/-! ### Exact match and flow -/

/-- A result in the layout of R134 for a hit. -/
def hitRes (kind : Nat) (data : Nat) : LkRes :=
  ⟨BitVec.ofNat 64 (2 ^ 63 + kind * 2 ^ 60 + data % 2 ^ 56), BitVec.ofNat 64 (data >>> 56)⟩

/-- A miss in the layout of R134; `perr` marks a parity or ECC error (R217). -/
def missRes (kind : Nat) (perr : Bool) : LkRes :=
  ⟨BitVec.ofNat 64 ((if perr then 2 ^ 62 else 0) + kind * 2 ^ 60), 0⟩

/-- The entry's data as its table's width shows it: bits at or above D read zero (R180). -/
def shownData (s : State) (t : Nat) (e : EData) : Nat := e.data.toNat % 2 ^ dataBits s t

/-- A lookup reads an entry where it stands: an entry in the second bucket of a flow table only while OVF of the
first is not zero (R185). -/
def reachable (s : State) (t k : Nat) (e : Ent) : Bool :=
  match e.loc with
  | .way 1 _ _ => if 64 ≤ t then decide (ovfGet s (t - 64) (bucketOf (keyBits s t) k 0 (bucketCount s t)) ≠ 0)
                  else true
  | _ => true

/-- A bucket of a flow table lies in lost memory (R186, R389). -/
def flowLost (s : State) (t b : Nat) : Bool := memLost s .mcd ((rget s R.LKP_FLOW_BASE (t - 64)).toNat + 128 * b)

/-- A place of a flow table lies in lost memory (R389). -/
def placeLost (s : State) (t : Nat) (l : Loc) : Bool :=
  match l with
  | .way _ b _ => decide (64 ≤ t) && flowLost s t b
  | .stash _ => false

/-- A flow lookup reads a lost bucket: its first, or its second where nothing in the first matches and OVF is not zero
(R185, R389). -/
def readsLost (s : State) (t k : Nat) : Bool :=
  let b0 := bucketOf (keyBits s t) k 0 (bucketCount s t)
  decide (64 ≤ t) && (flowLost s t b0 ||
    (decide (ovfGet s (t - 64) b0 ≠ 0) && flowLost s t (bucketOf (keyBits s t) k 1 (bucketCount s t)) &&
      (match mfind s.lkp.ents (entKey t k) with
        | some e => (match e.loc with | .way 0 _ _ => false | _ => true)
        | none => true)))

/-- Every place an exact-match or flow lookup reads: of a flow table its first bucket, and its second where nothing in
the first matches and OVF is not zero (R185); otherwise its bucket of each way and the whole stash. -/
def placesRead (s : State) (t k : Nat) : List Loc :=
  let bucket (w : Nat) : List Loc :=
    (List.range (slotsPer s t)).map (fun i => Loc.way w (bucketOf (keyBits s t) k w (bucketCount s t)) i)
  if t < 64 then (List.range 4).flatMap bucket ++ (List.range 256).map Loc.stash
  else
    let first := match mfind s.lkp.ents (entKey t k) with
      | some e => (match e.loc with | .way 0 _ _ => true | _ => false)
      | none => false
    bucket 0 ++ (if !first && decide (ovfGet s (t - 64) (bucketOf (keyBits s t) k 0 (bucketCount s t)) ≠ 0)
      then bucket 1 else [])

/-- The place of the parity or uncorrectable ECC error an exact-match or flow lookup meets, by table code and index
(R217, R218): it reads whole buckets, and an error in any of their entries, or in the stash, is one it reads (log 59). A
bucket in lost memory reads as an entry with an uncorrectable error (R389). -/
def emBad (s : State) (t k : Nat) : Option (Nat × Nat) :=
  let b0 := bucketOf (keyBits s t) k 0 (bucketCount s t)
  if readsLost s t k then
    some (t, 2 * (if flowLost s t b0 then b0 else bucketOf (keyBits s t) k 1 (bucketCount s t)))
  else if s.lkp.bad.any (fun x => decide (x.1 = t)) then
    ((placesRead s t k).find? (fun l => placeBad s t l)).map (fun l => (t, entIndex s t l))
  else none

/-- The DDR5 addresses that a flow lookup reads: those of its buckets (R185, R186). -/
def flowAddrs (s : State) (t k : Nat) : List Nat :=
  if 64 ≤ t then
    ((placesRead s t k).filterMap (fun l => match l with | .way _ b _ => some b | .stash _ => none)).dedup.map
      (fun b => (rget s R.LKP_FLOW_BASE (t - 64)).toNat + 128 * b)
  else []

/-- An entry of a flow table that changed from what `old` holds is written to its place in DDR5 (R184). -/
def flowWrote (old : State) (t k : Nat) (s : State) : State :=
  let a := mfind old.lkp.ents (entKey t k)
  let b := mfind s.lkp.ents (entKey t k)
  if t < 64 ∨ a = b then s
  else match b.or a with
    | some e => memPost .mcd ((rget s R.LKP_FLOW_BASE (t - 64)).toNat + 64 * entIndex s t e.loc) true s
    | none => s

/-- An exact-match or flow lookup (R180, R184, R217, R389). -/
def emLookup (s : State) (t k : Nat) (v : View) : LkRes :=
  let kind := if t < 64 then 0 else 1
  if tableEn s t then
    if (emBad s t k).isSome then missRes kind true
    else
      match mfind s.lkp.ents (entKey t k) with
      | some e =>
        if reachable s t k e then
          match versOf e.v v with
          | some d => hitRes kind (shownData s t d)
          | none => missRes kind false
        else missRes kind false
      | none => missRes kind false
  else missRes kind false

/-! ### Longest prefix -/

/-- A longest-prefix lookup (R189): the version of the result entry the longest prefix names; an error the walk or the
result entry has makes it a miss with PERR (R217). -/
def lpmLookup (s : State) (r a : Nat) (v : View) : LkRes :=
  match lpmWalk s r a v with
  | .error _ => missRes 2 true
  | .ok none => missRes 2 false
  | .ok (some i) =>
    if s.lkp.bad.contains (96, i) then missRes 2 true
    else
      match (mfind s.lkp.res i).bind (fun e => versOf e v) with
      | some d => hitRes 2 d.toNat
      | none => missRes 2 false

/-- The place of the parity error a longest-prefix lookup meets, by table code and index (R218). -/
def lpmBad (s : State) (r a : Nat) (v : View) : Option (Nat × Nat) :=
  match lpmWalk s r a v with
  | .error u => some u
  | .ok none => none
  | .ok (some i) => if s.lkp.bad.contains (96, i) then some (96, i) else none

/-! ### TCAM search -/

/-- Entries per bank of a width code: 0 = 1 unit, 1 = 2 units, 2 = 4 units (R219). -/
def bankEntries (wcode : Nat) : Nat := 4096 >>> wcode

/-- Key width of a width code (R219). -/
def tcamKeyBits (wcode : Nat) : Nat := 80 <<< wcode

/-- Row `r` of logical bank `b`. -/
def trow (s : State) (b r : Nat) : TRow := mget TRow.empty s.tcam.rows (4096 * b + r)

/-- A row is present in the version a view selects (R226). -/
def rowPresent (x : TRow) (v : View) : Bool :=
  match v with
  | .cur => x.c
  | .pend => if x.pset then x.p else x.c
  | .prev => if x.vset then x.v else x.c

/-- A row is a hole (ch. 7). -/
def rowHole (x : TRow) : Bool := !x.c && !x.pset && !x.vset

/-- Every key bit at which the row's mask is 1 equals the row's key bit (R223). -/
def rowMatches (x : TRow) (key : Nat) : Bool := decide ((key ^^^ x.key) &&& x.mask = 0)

/-- The block of 128 units a row of a bank stands in. -/
def pfBlock (wcode r : Nat) : Nat := r * (1 <<< wcode) / 128

/-- The pre-filter lets a key into block `k` of bank `b` (R237). -/
def pfEnabled (s : State) (b k key : Nat) : Bool :=
  let blk := rget s R.TCM_PF_BLOCK (32 * b + k)
  let sel := rget s R.TCM_PF_SEL b
  (List.range 8).all (fun n =>
    !(blk.toNat.testBit n) || (key.testBit (fld sel (8 * n + 7) (8 * n)) == blk.toNat.testBit (8 + n)))

/-- FIRST_BANK, NBANKS and WIDTH of a TCAM table. -/
def tcamFirst (s : State) (t : Nat) : Nat := rfld s R.TCM_TABLE_CFG t 61 56
/-- NBANKS of a TCAM table (R221). -/
def tcamBanks (s : State) (t : Nat) : Nat := rfld s R.TCM_TABLE_CFG t 54 48
/-- WIDTH code of a TCAM table (R221). -/
def tcamWidth (s : State) (t : Nat) : Nat := rfld s R.TCM_TABLE_CFG t 47 46
/-- EN of a TCAM table (R221). -/
def tcamEn (s : State) (t : Nat) : Bool := rbit s R.TCM_TABLE_CFG t 63

/-- Table index of row `r` of logical bank `b` of table `t` (R219). -/
def tcamIndex (s : State) (t b r : Nat) : Nat := (b - tcamFirst s t) * bankEntries (tcamWidth s t) + r

/-- The listed row of table `t` with the lowest index that matches a key in a view: its bank and row (R223). Banks
run upward and rows upward within them, which is index order. -/
def tcamFind (s : State) (t key : Nat) (v : View) : Option (Nat × Nat) :=
  let w := tcamWidth s t
  (s.tcam.rows.find? (fun e =>
    let b := e.1 / 4096
    let r := e.1 % 4096
    decide (tcamFirst s t ≤ b ∧ b < tcamFirst s t + tcamBanks s t ∧ r < bankEntries w) &&
    rowPresent e.2 v && rowMatches e.2 key &&
    (!rbit s R.TCM_BANK_CFG b 15 || pfEnabled s b (pfBlock w r) key))).map (fun e => (e.1 / 4096, e.1 % 4096))

/-- A TCAM search through a profile (R223, R224, R241): a first match that is quarantined is a miss with PERR. -/
def tcamLookup (s : State) (profile : Word) (t key : Nat) (v : View) : LkRes :=
  if tcamEn s t then
    match tcamFind s t key v with
    | some (b, r) =>
      if (trow s b r).quar then missRes 3 true
      else
        let idx := (fld profile 53 36 + tcamIndex s t b r) % 2 ^ 20
        ⟨BitVec.ofNat 64 (2 ^ 63 + 3 * 2 ^ 60 + b * 2 ^ 36 + r * 2 ^ 24 + idx), (trow s b r).assoc⟩
    | none => missRes 3 false
  else missRes 3 false

/-! ### A lookup through a profile -/

/-- Table index of R212 for an exact-match or flow profile. -/
def profTable (p : Word) : Nat := if fld p 62 61 = 0 then fld p 60 55 else 64 + fld p 60 55

/-- Key width of the table a profile names (R174). -/
def profKeyBits (s : State) (p : Word) : Nat :=
  match fld p 62 61 with
  | 0 => keyBits s (profTable p)
  | 1 => keyBits s (profTable p)
  | 2 => rootBits (fld p 60 55)
  | _ => tcamKeyBits (tcamWidth s (fld p 60 55))

/-- The result of a lookup through a profile for a view; a profile with EN = 0 returns a miss (R134, R561). -/
def lookup (s : State) (p : Word) (key : Nat) (v : View) : LkRes :=
  if bit p 63 then
    match fld p 62 61 with
    | 0 => emLookup s (profTable p) key v
    | 1 => emLookup s (profTable p) key v
    | 2 => lpmLookup s (fld p 60 55) key v
    | _ => tcamLookup s p (fld p 60 55) key v
  else missRes (fld p 62 61) false

/-- The parity or ECC error a lookup through a profile meets, by table code and index (R217, R218); a TCAM has none of this
kind. -/
def lookupBad (s : State) (p : Word) (key : Nat) (v : View) : Option (Nat × Nat) :=
  match fld p 62 61 with
  | 0 => emBad s (profTable p) key
  | 1 => emBad s (profTable p) key
  | 2 => lpmBad s (fld p 60 55) key v
  | _ => none

/-- Whether a lookup through a profile reads a table at all (R561). -/
def readsTable (s : State) (p : Word) : Bool :=
  bit p 63 && (match fld p 62 61 with
    | 0 => tableEn s (profTable p)
    | 1 => tableEn s (profTable p)
    | 2 => true
    | _ => tcamEn s (fld p 60 55))

/-- The DDR5 addresses that a lookup through a profile reads (R373, R383). -/
def profReads (s : State) (p : Word) (key : Nat) : List Nat :=
  if readsTable s p && decide (fld p 62 61 = 1) then flowAddrs s (profTable p) key else []

/-- A hit through a TOUCH profile sets HIT of the entry (R173, R201). -/
def touch (p : Word) (key : Nat) (v : View) (s : State) : State :=
  if bit p 63 && bit p 54 && decide (fld p 62 61 < 2) && bit (lookup s p key v).r0 63 then
    match mfind s.lkp.ents (entKey (profTable p) key) with
    | some e => { s with lkp := { s.lkp with ents := mput s.lkp.ents (entKey (profTable p) key) { e with hit := true } } }
    | none => s
  else s

end Sys2Proof.Machine
end

