-- ==== Sys2Proof/Machine/Request.lean ====
section
/-! DEFINITION. The request and posted instructions of Stitch and the return of their results (R132 to R148, R207,
R217, R240): LKUP, LRN, SLD, SST, ATOM, WAIT, CNT and TIME. -/

namespace Sys2Proof.Machine
open Sys2Proof

/-- The tag of the epoch a thread's lookups use: its packet's EPOCH_TAG, or the current epoch for a service thread
(R61, R134). -/
def threadTag (s : State) (t : Thread) : Nat := if t.svc then s.tau.curEpoch % 4 else mdF t.pkt 0 27 26

/-- A thread with a request sent under a tag (R132). -/
def sendReq (t : Thread) (r : Req) : Thread := { t with reqs := t.reqs ++ [r] }

/-- The Gauge event a lookup counts (R486). -/
def countLookup (p : Word) (s : State) : State :=
  if readsTable s p then
    match fld p 62 61 with
    | 0 => occur 4 1 (fld p 60 55) 1 s
    | 1 => occur 4 3 (fld p 60 55) 1 s
    | 2 => occur 4 2 (fld p 60 55) 1 s
    | _ => occur 5 1 (fld p 60 55) 1 s
  else s

/-- The key of registers RK to RK + KN - 1 for a table of key width `kb` (R112, R174). -/
def keyOf (t : Thread) (rk : BitVec 5) (kn : BitVec 3) (kb : Nat) : Nat := gregs t rk.toNat (knOf kn) % 2 ^ kb

/-- The changes of a tick that a lookup issued on the tick sees (R201, R202). -/
def beforeLookup (i : Instr) : Bool :=
  match i with
  | .lkpCommandDone .. | .learnApply .. | .tcamCommandDone .. => true
  | _ => false

/-- LKUP (R132, R134): the request carries the key, the profile as it stood when the tick began (R175), and the result the
tables hold after the changes of the tick (R201, R202). -/
def execLkup (th : ThreadRef) (f : FmtL) (s : State) : Out :=
  if comes s beforeLookup then .next s else
  .next (issue th 0x60 (fun w => decide (asL w = f))
    (fun k t s =>
      let p := rwas s R.LKP_PROFILE f.profile.toNat
      let key := keyOf t f.rk f.kn (profKeyBits s p)
      let vt := threadTag s t
      let res := lookup s p key ((viewOf s vt).getD .cur)
      memAsks .mcd (profReads s p key) (countLookup p (setThr s k
        (sendReq t ⟨f.tag.toNat, f.rd.toNat, decide (f.rw = 1), .lookup p key vt res⟩)))) s)

/-- A place is found to have a parity or an uncorrectable ECC error, which stays until fresh content is stored
(R217). -/
def markBad (code index : Nat) (s : State) : State :=
  if s.lkp.bad.contains (code, index) then s
  else { s with lkp := { s.lkp with bad := s.lkp.bad ++ [(code, index)] } }

/-- The DDR5 side of an error in a flow table: lost memory or an uncorrectable read at the entry's address (R386,
R389). -/
def flowEcc (code index : Nat) (s : State) : State :=
  if 64 ≤ code ∧ code < 68 then
    let a := (rget s R.LKP_FLOW_BASE (code - 64)).toNat + 64 * index
    if memLost s .mcd a then lostRead .mcd a s else eccEvent .mcd a .uncorrectable s
  else s

/-- The table code that R218 gives a place: root entries and short prefixes bear the code of their root. -/
def shownCode (code : Nat) : Nat := if 112 ≤ code then 80 + code % 16 else code

/-- A place of an exact-match table lies in its ways, and so in a block, and not in the stash. -/
def inWays (s : State) (code index : Nat) : Bool :=
  decide (code < 64 ∧ index < 4 * bucketCount s code * slotsPer s code)

/-- A parity or ECC error met by a lookup (R217, R218): recorded in LKP_PERR and reported with table code and
index; an error in an exact-match table's ways counts against its block. -/
def lkpParity (place index : Nat) (s : State) : State :=
  let s := flowEcc place index s
  let code := shownCode place
  let w := rget s R.LKP_PERR 0
  let n := satAdd 28 (fld w 27 0) 1
  let s := rset s R.LKP_PERR 0 (BitVec.ofNat 64 (code % 128 * 2 ^ 57 + index % 2 ^ 29 * 2 ^ 28 + n))
  let per := if rbit s R.LKP_EM_CFG code 62 then 32768 else 65536
  let blk := min 95 (rfld s R.LKP_EM_CFG code 55 49 + index / per)
  occur 4 6 code 1 (errReport 2 4 (if inWays s code index then 4 else 15) (if inWays s code index then blk else 0) code
    (BitVec.ofNat 64 index) s)

/-- Where an error stands that an event of table or root `n` of a kind names. -/
def errCode (kind n : Nat) (e : ErrPlace) : Nat :=
  match kind, e with
  | 0, _ => n
  | 1, _ => 64 + n
  | 3, _ => 96
  | _, .own => 80 + n
  | _, .root => 112 + n % 16
  | _, .short => 128 + n % 16
  | _, .result => 96

/-- A TCAM verification event of a row: recorded in TCM_VERIFY_STAT and reported with its bank and row (R243). -/
def tcamEvent (kind b r cls : Nat) (s : State) : State :=
  let n := satAdd 32 (rfld s R.TCM_VERIFY_STAT 0 31 0) 1
  let s := rset s R.TCM_VERIFY_STAT 0 (BitVec.ofNat 64 (b * 2 ^ 58 + r * 2 ^ 46 + kind * 2 ^ 44 + n))
  errReport cls 5 (if cls = 1 then 3 else 15) (if cls = 1 then b else 0) kind (BitVec.ofNat 64 (b * 4096 + r)) s

/-- A TCAM row becomes quarantined (R241). -/
def quarantine (b r : Nat) (s : State) : State :=
  { s with tcam := { s.tcam with
      rows := mset TRow.empty s.tcam.rows (4096 * b + r) { trow s b r with quar := true } } }

/-- A match whose shadow has an uncorrectable error: the row is quarantined and the search is a miss with PERR (R241). -/
def shadowLost (b r : Nat) (s : State) : Bool × State := (true, tcamEvent 2 b r 2 (quarantine b r s))

/-- The verification of a search's matches, one search after the other (R240, R241): whether the search ends as a miss with
PERR, and what it leaves. A false hit rewrites the row and searches again; a second one of a row in one search quarantines
it. -/
def verifyHits (t : Nat) (bad : Option (Fin 64 × Fin 4096)) :
    List (Fin 64 × Fin 4096) → List (Fin 64 × Fin 4096) → State → Bool × State
  | _, [], s => match bad with | some h => shadowLost h.1.val h.2.val s | none => (false, s)
  | seen, h :: rest, s =>
    let s := occur 5 2 t 1 (tcamEvent 1 h.1.val h.2.val 1 s)
    if seen.contains h then (true, quarantine h.1.val h.2.val s) else verifyHits t bad (h :: seen) rest (occur 5 3 0 1 s)

/-- The verification of a search's match, as its event tells it (R240, R241). -/
def verifyMatch (t : Nat) (ev : LookupEvent) (s : State) : Bool × State :=
  match ev with
  | .falseHit hits bad => verifyHits t bad [] hits s
  | .shadowBad b r => shadowLost b.val r.val s
  | _ => (false, s)

/-- A corrected error that a lookup met in a flow table's entry (R386). -/
def flowCorrected (p : Word) (ev : LookupEvent) (s : State) : State :=
  match ev with
  | .corrected i =>
    let a := (rget s R.LKP_FLOW_BASE (fld p 60 55)).toNat + 64 * i
    if fld p 62 61 = 1 ∧ memLost s .mcd a = false then eccEvent .mcd a .corrected s else s
  | _ => s

/-- What a lookup's memories did to its result, and to the state (R201, R217, R240, R241): an error that the lookup is the
first to meet is an event, and one met before stays (R217). -/
def lookupOutcome (p : Word) (key vt : Nat) (atIssue : LkRes) (late : Bool) (ev : LookupEvent) (s : State) :
    LkRes × State :=
  let v := (viewOf s vt).getD .cur
  let kind := fld p 62 61
  let res := if late then lookup s p key v else atIssue
  if readsTable s p then
    let s := flowCorrected p ev s
    match ev with
    | .clean | .corrected _ =>
      match lookupBad s p key v with
      | some (c, i) => (missRes kind true, lkpParity c i s)
      | none => (res, flowWrote s (profTable p) key (touch p key v s))
    | .parity rt i =>
      if kind < 3 then
        let c := errCode kind (fld p 60 55) rt
        (missRes kind true, lkpParity c i (markBad c i s))
      else (res, s)
    | .falseHit _ _ | .shadowBad _ _ =>
      if kind = 3 then
        let r := verifyMatch (fld p 60 55) ev s
        (if r.1 then missRes 3 true else lookup r.2 p key v, r.2)
      else (res, s)
  else (res, s)

/-- LOOKUP_RESULT (R89, R134, R202): the result of an outstanding lookup is written to its registers, and a thread
that waited for it is released. `late` says the table memory was read at the end of the latency rather than at
issue, a moment R202 leaves open. A flow lookup waits while its DDR5 channel holds requests (R383). -/
def execLookupResult (th : ThreadRef) (tag : Tag) (late : Bool) (ev : LookupEvent) (s : State) : Out :=
  let k := thrKey th
  match awaited s k tag.val isLookup with
  | some r =>
    match r.2.kind with
    | .lookup p key vt res =>
      if (profReads s p key).any (unitWaits s .mcd) then .next (memAsks .mcd (profReads s p key) s) else
      let o := lookupOutcome p key vt res late ev (memUses .mcd (profReads s p key) false s)
      .next (resultTo k isLookup r o.1.r0 o.1.r1 o.2)
    | _ => .next s
  | none => .next s

/-- The place of a learn among those of its tick (R207): packets by IN_PORT, then by course, engine and slot, and service
threads after them in the same order. -/
def learnRank (k : Nat) (t : Thread) : Nat := if t.svc then 2 ^ 20 + k else mdF t.pkt 0 25 19 * 8192 + k

/-- A learn enters the queue behind every earlier one, and among those of its tick in the order of R207. -/
def learnEnter (l : Learn) (q : List Learn) : List Learn :=
  q.filter (fun x => decide (x.tick ≠ l.tick ∨ x.rank ≤ l.rank)) ++
    l :: q.filter (fun x => decide (x.tick = l.tick ∧ l.rank < x.rank))

/-- The learns of a tick are given in their order to CSQ4 or CSQ5, the one with the fewest waiting, the lower on a tie (R468). -/
def dealLearns (now : Nat) (q : List Learn) : List Learn :=
  (q.filter (fun l => decide (l.tick = now))).foldl (fun a l =>
    a ++ [{ l with seq := if a.countP (fun x => decide (x.seq = 5)) < a.countP (fun x => decide (x.seq = 4)) then 5 else 4 }])
    (q.filter (fun l => decide (l.tick ≠ now)))

/-- A learn offered to the learn queue (R207, R208); one that would make it longer than 65,536 drops the last of it, which
is of this tick. -/
def offerLearn (p : Word) (key : Nat) (data : Word) (rank : Nat) (s : State) : State :=
  let t := profTable p
  if fld p 62 61 < 2 ∧ bit p 63 = true ∧ rbit s R.LKP_LEARN_CFG t 63 = true then
    let q := learnEnter ⟨s.tau.mono, rank, t, key, data, 4⟩ s.lkp.learnQ
    let s := { s with lkp := { s.lkp with learnQ := dealLearns s.tau.mono (q.take 65536) } }
    if 65536 < q.length then rcount s R.LKP_LEARN_DROP 0 63 48 1 else s
  else rcount s R.LKP_LEARN_DROP 0 15 0 1

/-- LRN offers the key and the data word in RD to the learn queue of the profile's table (R136, R207). -/
def execLrn (th : ThreadRef) (f : FmtL) (s : State) : Out :=
  .next (issue th 0x61 (fun w => decide (asL w = f))
    (fun k t s =>
      let p := rget s R.LKP_PROFILE f.profile.toNat
      offerLearn p (keyOf t f.rk f.kn (profKeyBits s p)) (greg t f.rd.toNat) (learnRank k t) (setThr s k t)) s)

/-- Address of a state-memory access: above 2,097,151 it becomes 2,097,151 (R142). -/
def stmAddr (base : Word) (imm : Nat) : Nat := min (base + BitVec.ofNat 64 imm).toNat 2097151

/-- A word of the state memory. -/
def stmGet (s : State) (a : Nat) : Word := mget 0 s.sen.stm a

/-- A word of the state memory stored. -/
def stmSet (s : State) (a : Nat) (v : Word) : State := { s with sen := { s.sen with stm := mset 0 s.sen.stm a v } }

/-- The place of a PF0 access among the accesses of a tick: after every thread (R144). -/
def pf0Rank : Nat := 5120

/-- An access to a word with place `r` on this tick comes too late: one of a later place has taken effect (R144). -/
def stmLate (s : State) (a r : Nat) : Bool :=
  match mfind s.sen.stmLast a with
  | some (tick, q) => decide (tick = s.tau.mono ∧ r < q)
  | none => false

/-- An access to a word takes its place (R144). -/
def stmTouch (a r : Nat) (s : State) : State :=
  { s with sen := { s.sen with stmLast := mput s.sen.stmLast a (s.tau.mono, r) } }

/-- A state-memory instruction on the word its address names: on a tick on which an access of a later place has taken
effect on that word it does not issue, so that one tick's accesses come in ascending course, engine and slot (R144). -/
def issueStm (th : ThreadRef) (op : Nat) (ok : Word → Bool) (ra : BitVec 5) (imm : Nat)
    (body : Nat → Nat → Thread → State → State) (s : State) : State :=
  let k := thrKey th
  let a := stmAddr (greg (thr s k) ra.toNat) imm
  if stmLate s a k then s else issue th op ok (fun k t s => body a k t (stmTouch a k s)) s

/-- SLD: the word at ra + IMM into rd under the tag in AUX[13:11] (R142). -/
def execSld (th : ThreadRef) (f : FmtI) (s : State) : Out :=
  let tag := f.aux.toNat / 2 ^ 11
  .next (issueStm th 0x63 (fun w => decide (asI w = f)) f.ra f.imm.toNat
    (fun a k t s =>
      setThr s k (sendReq t ⟨tag, f.rd.toNat, false, .state a (stmGet s a)⟩)) s)

/-- SST posts a write of the register in RD to the word at ra + IMM (R142). -/
def execSst (th : ThreadRef) (f : FmtI) (s : State) : Out :=
  .next (issueStm th 0x64 (fun w => decide (asI w = f)) f.ra f.imm.toNat
    (fun a k t s => setThr (stmSet s a (greg t f.rd.toNat)) k t) s)

/-- The new value of a word under ATOM (R143). -/
def atomNew (fn : Nat) (w b c : Word) : Word :=
  match fn with
  | 0 => w + b
  | 1 => b
  | 2 => if w = c then b else w
  | 3 => w ||| b
  | 4 => w &&& b
  | 5 => w ^^^ b
  | 6 => if w.toNat < b.toNat then b else w
  | _ => if w.toNat < b.toNat then w else b

/-- ATOM reads the word, writes the new value in the same step, and returns the old word under TAG (R143). Where the word
is then found to have an uncorrectable error, rd receives zero and the word keeps the value computed from what it held:
DESIGN CHOICE (log 61), since no rule says what is written. -/
def execAtom (th : ThreadRef) (f : FmtA) (s : State) : Out :=
  .next (issueStm th 0x65 (fun w => decide (asA w = f)) f.ra f.imm21.toNat
    (fun a k t s =>
      let w := stmGet s a
      setThr (stmSet s a (atomNew f.fn.toNat w (greg t f.rb.toNat) (greg t f.rc.toNat))) k
        (sendReq t ⟨f.tag.toNat, f.rd.toNat, false, .state a w⟩)) s)

/-- STATE_READ_RESULT (R142, R143): the word an SLD or ATOM read is written to its register; an uncorrectable ECC
error returns zero and is reported with the address. -/
def execStateReadResult (th : ThreadRef) (tag : Tag) (ecc : Bool) (s : State) : Out :=
  let k := thrKey th
  match awaited s k tag.val isState with
  | some r =>
    match r.2.kind with
    | .state a v =>
      let s := if ecc then errReport 2 3 15 0 0 (BitVec.ofNat 64 a) s else s
      .next (resultTo k isState r (if ecc then 0 else v) 0 s)
    | _ => .next s
  | none => .next s

/-- STATE_DATA_READ: PF0 reads the word at SEN_STATE_ADDR, after the tick's accesses by threads (R144, R145). -/
def execStateDataRead (s : State) : Out :=
  let a := rfld s R.SEN_STATE_ADDR 0 20 0
  .next (answer (stmGet s a) (stmTouch a pf0Rank s))

/-- STATE_DATA_WRITE: PF0 stores the word at SEN_STATE_ADDR, after the tick's accesses by threads (R144, R145). -/
def execStateDataWrite (v : Word) (s : State) : Out :=
  let a := rfld s R.SEN_STATE_ADDR 0 20 0
  .next (stmSet (stmTouch a pf0Rank s) a v)

/-- A service thread stops: its inbox is emptied (R101). -/
def stopThr (k : Nat) (s : State) : State :=
  setThr (reqsLeave k s) k { Thread.empty with st := if (thr s k).st = .unavailable then .unavailable else .free,
                                               exc := (thr s k).exc, lastPc := (thr s k).lastPc }

/-- A service thread is to stop at its next SLEEP or WAIT: STOP was written, or its course is leaving service mode
(R21, R101). -/
def mustStop (s : State) (k : Nat) : Bool :=
  (thr s k).svc && ((thr s k).stopReq || (course s (k / 640)).draining)

/-- A command returns the result of a thread's request: it counts as returned where it comes on the tick of a WAIT
(R10, R133). -/
def returns (s : State) (k : Nat) (r : Req) (i : Instr) : Bool :=
  match i, r.kind with
  | .lookupResult th tag _ _, .lookup p key _ _ =>
    decide (thrKey th = k ∧ tag.val = r.tag) && !(profReads s p key).any (unitWaits s .mcd)
  | .pmatchResult th tag _, .pmatch _ o bytes wb (some _) =>
    decide (thrKey th = k ∧ tag.val = r.tag) && (!wb || decide (o + 512 ≤ bytes.length))
  | .stateReadResult th tag _, .state .. => decide (thrKey th = k ∧ tag.val = r.tag)
  | .cipherRequestEnd c, .cipher _ _ _ _ wid => (mfind s.cph.running c.val).any (fun q => decide (q.src = .prog k wid))
  | _, _ => false

/-- WAIT (R133): it issues and counts; where a tag it names is outstanding, and its result does not return on this tick, the
thread then waits. -/
def execWait (th : ThreadRef) (f : FmtX) (s : State) : Out :=
  .next (issue th 0x66 (fun w => decide (asX w = f))
    (fun k t s =>
      if mustStop s k then stopThr k s
      else
        let tags := (t.reqs.filter (fun r => f.imm8.toNat.testBit r.tag && !comes s (returns s k r))).map (·.tag)
        if tags = [] then occurThr codeWasted (k / 640) k (setThr s k t)
        else setThr s k { t with st := .waiting, waitTags := tags, since := s.tau.mono }) s)

/-- A counter pair with one packet of `n` bytes more, both counts saturating (R146). -/
def cntBump (c : Word × Word) (n : Nat) : Word × Word :=
  (BitVec.ofNat 64 (satAdd 64 c.1.toNat 1), BitVec.ofNat 64 (satAdd 64 c.2.toNat n))

/-- The pair was latched on this tick (R147). -/
def latchedNow (s : State) (i : Nat) : Bool :=
  decide (s.sen.latchAt = some s.tau.mono ∧ rfld s R.SEN_CNT_SEL 0 19 0 = i)

/-- One count of a counter pair (R146). On the tick on which the pair is latched the count is included in the latched
values and cleared with them (R147). -/
def cntAdd (i : Nat) (n : Nat) (s : State) : State :=
  let s' := { s with sen := { s.sen with cnt := mset (0, 0) s.sen.cnt i (cntBump (mget (0, 0) s.sen.cnt i) n) } }
  if latchedNow s i then
    let c := cntBump (rget s R.SEN_CNT_PKT 0, rget s R.SEN_CNT_BYTE 0) n
    rset (rset (if rbit s R.SEN_CNT_SEL 0 20 then s else s') R.SEN_CNT_PKT 0 c.1) R.SEN_CNT_BYTE 0 c.2
  else s'

/-- CNT (R146): one packet, and FRAME_LEN or the register in RD bytes, in pair ra + IMM. While the frame is not
complete a count of FRAME_LEN waits for the final length (R156). -/
def execCnt (th : ThreadRef) (f : FmtI) (s : State) : Out :=
  let own := f.aux.toNat.testBit 13
  .next (issue th 0x70 (fun w => decide (asI w = f))
    (fun k t s =>
      let i := min (greg t f.ra.toNat + zext32 f.imm).toNat 1048575
      if own then setThr (cntAdd i (greg t f.rd.toNat).toNat s) k t
      else if t.pkt.complete then setThr (cntAdd i (frameLen t.pkt) s) k t
      else setThr { s with sen := { s.sen with defer := s.sen.defer ++
        [⟨t.pkt.src, t.pkt.pid, decide (t.side = .egr), i, frameLen t.pkt⟩] } } k t) s)

/-- TIME (R148): PHC seconds and nanoseconds into rd and rd + 1, or the monotonic count into rd. -/
def execTime (th : ThreadRef) (f : FmtI) (s : State) : Out :=
  let mono := f.aux.toNat / 2 ^ 12 = 1
  .next (issue th 0x71 (fun w => decide (asI w = f))
    (fun k t s =>
      setThr s k (if mono then gset t f.rd.toNat (BitVec.ofNat 64 s.tau.mono)
        else gset (gset t f.rd.toNat (BitVec.ofNat 64 (phcSec (phcNow s)))) (f.rd.toNat + 1)
          (phcNsWord (phcNow s)))) s)

/-- COUNTER_LATCH (R147): a write of SEN_CNT_SEL latches the pair at INDEX, and zeroes it where CLR is 1. -/
def execCounterLatch (v : Word) (s : State) : Out :=
  let i := fld v 19 0
  let c := mget (0, 0) s.sen.cnt i
  let s := rset s R.SEN_CNT_SEL 0 (BitVec.ofNat 64 (fld v 20 0))
  let s := rset (rset s R.SEN_CNT_PKT 0 c.1) R.SEN_CNT_BYTE 0 c.2
  let s := { s with sen := { s.sen with latchAt := some s.tau.mono } }
  .next (if bit v 20 then { s with sen := { s.sen with cnt := mdel s.sen.cnt i } } else s)

end Sys2Proof.Machine
end

