-- ==== Sys2Proof/Machine/Retire.lean ====
section
/-! DEFINITION. What every retirement of a unit has in common (R531, R532, R537, R538). -/

namespace Sys2Proof.Machine
open Sys2Proof

/-- A unit is retired (R537). -/
def unitRetired (s : State) (k u : Nat) : Bool := decide ((unitGet s k u).state = 1)

/-- A retirement of a unit may take effect: it is live, and software asks for it by its kind's register (`sw`), or it
has fallen due, by ERR_RETIRE on the tick after its write (R531, R536). -/
def retireDue (s : State) (k u : Nat) (sw : Bool) : Bool :=
  !unitRetired s k u && (sw || s.err.toRetire.any (fun e => decide (e.1 = unitKey k u) &&
    decide (e.2 ≠ some s.tau.mono)))

/-- The record of a retirement and the unit's state (R531, R537, R538): SOURCE 1 where software asked. -/
def retireMark (k u : Nat) (sw : Bool) (code : Nat) (s : State) : State :=
  let bySw := sw || s.err.toRetire.any (fun e => decide (e.1 = unitKey k u) && e.2.isSome)
  let s := { s with err := { s.err with
    toRetire := s.err.toRetire.filter (fun e => decide (e.1 ≠ unitKey k u))
    crossed := s.err.crossed.filter (fun e => decide (e ≠ unitKey k u)) } }
  let s := unitSet s k u { unitGet s k u with state := 1, bySw := bySw, winEnd := none, winCount := 0 }
  errReport 4 16 k u (if code = 0 && bySw then 1 else code) 0 s

end Sys2Proof.Machine
end

