-- ==== Sys2Proof/Machine/Lkp.lean ====
section
/-! DEFINITION. The lookup complex: placement (R181 to R185), the trie's units (R191, R193), the command register
(R196 to R206), table enable and disable (R177), learning (R207 to R213), ageing (R214, R215), notifications
(R216) and the retirement of an exact-match block (R534). -/

namespace Sys2Proof.Machine
open Sys2Proof

/-- The entry a key of a table has. -/
def entOf (s : State) (t k : Nat) : Option Ent := mfind s.lkp.ents (entKey t k)

/-- The lookup complex changed. -/
def withLkp (f : Lkp → Lkp) (s : State) : State := { s with lkp := f s.lkp }

/-! ### Versions and shadow storage (R60, R68) -/

/-- Nothing is left of an entry: it has no version, present or absent, and its place is free. R206 speaks only of keys that
are present in a live version; an entry that has only a pending or a previous absent version keeps its place too, and its
counts: DESIGN CHOICE (log 59). -/
def Vers.dead {α : Type} (v : Vers α) : Bool := v.cur.isNone && v.pend.isNone && v.prev.isNone

/-- An entry that has only a current version. -/
def Vers.of {α : Type} (x : α) : Vers α := ⟨some x, none, none⟩

/-- Shadow storage in use: pending and previous versions and storage not yet reclaimed (R68, R72). -/
def shadowUsed (s : State) : Nat := s.tau.pendCount + s.tau.prevCount + s.tau.reclaim

/-- Room for `n` more versions in shadow storage (R68). -/
def shadowRoom (s : State) (n : Nat) : Bool := decide (shadowUsed s + n ≤ 1572864)

/-- PEND_COUNT changed. -/
def addPend (n : Nat) (s : State) : State := { s with tau := { s.tau with pendCount := s.tau.pendCount + n } }

/-- PEND_COUNT lowered by one. -/
def dropPend (s : State) : State := { s with tau := { s.tau with pendCount := s.tau.pendCount - 1 } }

/-! ### Places -/

/-- A place of a table is taken. -/
def taken (ents : SMap Ent) (t : Nat) (l : Loc) : Bool := (entAt ents t l).isSome

/-- The exact-match block a place lies in (R176). -/
def blockOf (s : State) (t : Nat) (l : Loc) : Option Nat :=
  match l with
  | .way w b _ => some (rfld s R.LKP_EM_CFG t 55 49 + w * (rfld s R.LKP_EM_CFG t 48 42 / 4) + b / 16384)
  | .stash _ => none

/-- A place may be used: its content has no parity error (R218), its block has not been retired (R534), and a flow bucket
is not in lost memory (R389), and no entry has left it on this tick (R183). -/
def usable (s : State) (t : Nat) (l : Loc) : Bool :=
  !placeBad s t l && !s.lkp.copies.contains (t, l) && if 64 ≤ t then (match l with | .way _ b _ => !flowLost s t b | .stash _ => true)
  else
    match blockOf s t l with
    | some b => !s.lkp.retiredBlocks.contains b
    | none => true

/-- The candidate places of a key, in way order, lowest slot first (R182, R185). -/
def candidates (s : State) (t k : Nat) : List Loc :=
  (List.range (if t < 64 then 4 else 2)).flatMap (fun w =>
    let b := bucketOf (keyBits s t) k w (bucketCount s t)
    (List.range (slotsPer s t)).map (fun i => Loc.way w b i))

/-- The way a place belongs to. -/
def Loc.wayNo (l : Loc) : Option Nat := match l with | .way w _ _ => some w | .stash _ => none

/-- Free a place by at most `n` displacements, each moving an entry to another of its own candidate buckets
(R182); `seen` keeps a chain from returning to a place it passed. -/
def vacate (s : State) (t : Nat) : Nat → List Loc → SMap Ent → Loc → Option (SMap Ent)
  | 0, _, _, _ => none
  | n + 1, seen, ents, l =>
    match entAt ents t l with
    | none => none
    | some (k, e) =>
      (candidates s t (k % 2 ^ 256)).findSome? (fun m =>
        if m.wayNo = l.wayNo ∨ usable s t m = false ∨ seen.contains m = true then none
        else if taken ents t m then
          match vacate s t n (m :: seen) ents m with
          | some es => some (mput es k { e with loc := m })
          | none => none
        else some (mput ents k { e with loc := m }))

/-- The last displacement of such a chain, which comes first: the entry it moves, and where to (R183). -/
def lastMove (s : State) (t : Nat) : Nat → List Loc → Loc → Option (Nat × Ent × Loc)
  | 0, _, _ => none
  | n + 1, seen, l =>
    match entAt s.lkp.ents t l with
    | none => none
    | some (k, e) =>
      (candidates s t (k % 2 ^ 256)).findSome? (fun m =>
        if m.wayNo = l.wayNo ∨ usable s t m = false ∨ seen.contains m = true then none
        else if taken s.lkp.ents t m then lastMove s t n (m :: seen) m
        else some (k, e, m))

/-- An entry is written at a new place; its copy at the old one is cleared on the next tick (R183). -/
def moveEnt (t k : Nat) (e : Ent) (l : Loc) (s : State) : State :=
  withLkp (fun x => { x with ents := mput x.ents k { e with loc := l }, copies := x.copies ++ [(t, e.loc)] }) s

/-- The lowest free place of a table's stash of 256 (R182). -/
def stashPlace (s : State) (t : Nat) : Option Loc :=
  ((List.range 256).find? (fun i => usable s t (.stash i) && !taken s.lkp.ents t (.stash i))).map Loc.stash

/-- A free candidate place of a key, if any. -/
def freePlace (s : State) (t k : Nat) : Option Loc :=
  (candidates s t k).find? (fun l => usable s t l && !taken s.lkp.ents t l)

/-- Where a new entry goes, with the entries as displacement leaves them: a free candidate place, one freed by the
shortest chain of at most three displacements, or the stash; none when there is no room (R182, R185). -/
def place (s : State) (t k : Nat) : Option (SMap Ent × Loc) :=
  match freePlace s t k with
  | some l => some (s.lkp.ents, l)
  | none =>
    if t < 64 then
      let chain := [1, 2, 3].findSome? (fun n => (candidates s t k).findSome? (fun l =>
        if usable s t l then (vacate s t n [l] s.lkp.ents l).map (fun es => (es, l)) else none))
      match chain with
      | some r => some r
      | none => (stashPlace s t).map (fun l => (s.lkp.ents, l))
    else none

/-- Where an immediate insert of a key has to displace others, the next displacement of the shortest chain (R182, R183). -/
def displace (t k : Nat) (s : State) : Option State :=
  if (entOf s t k).isSome ∨ 64 ≤ t ∨ (freePlace s t k).isSome = true then none
  else
    ([1, 2, 3].findSome? (fun n => (candidates s t k).findSome? (fun l =>
      if usable s t l then lastMove s t n [l] l else none))).map (fun r => moveEnt t r.1 r.2.1 r.2.2 s)

/-- Old copies of a table's entries are cleared on the next tick. -/
def moving (s : State) (t : Nat) : Bool := s.lkp.copies.any (fun c => decide (c.1 = t))

/-- The first bucket of a key of a flow table, as a key of the OVF map. -/
def ovfKey (s : State) (t k : Nat) : Nat := (t - 64) * 2 ^ 27 + bucketOf (keyBits s t) k 0 (bucketCount s t)

/-- A place lies in the second bucket of a flow table. -/
def inSecond (t : Nat) (l : Loc) : Bool := decide (64 ≤ t) && decide (l.wayNo = some 1)

/-- Fresh content is stored in a place, with good parity (R217). -/
def freshPlace (t : Nat) (l : Loc) (s : State) : State :=
  withLkp (fun x => { x with bad := x.bad.filter (fun b => decide (b ≠ (t, entIndex s t l))) }) s

/-- A new entry stored in its place; one in its second bucket raises OVF of its first, saturating (R184). -/
def putEnt (t k : Nat) (es : SMap Ent) (e : Ent) (s : State) : State :=
  let s := withLkp (fun x => { x with ents := mput es (entKey t k) e }) s
  if inSecond t e.loc then withLkp (fun x => { x with ovf := mmod 0 x.ovf (ovfKey s t k) (fun n => satAdd 8 n 1) }) s
  else s

/-- An entry leaves its place, and its move-tracker record with it; one in its second bucket lowers OVF of its first
unless that is saturated (R184). -/
def removeEnt (t k : Nat) (s : State) : State :=
  match mfind s.lkp.ents (entKey t k) with
  | none => s
  | some e =>
    let s := withLkp (fun x => { x with ents := mdel x.ents (entKey t k), tracks := mdel x.tracks (entKey t k) }) s
    if inSecond t e.loc then
      withLkp (fun x => { x with ovf := mmod 0 x.ovf (ovfKey s t k) (fun n => if n = 255 then n else n - 1) }) s
    else s

/-- An entry's record replaced, or removed where no version of it is left (R206). An entry without a current version
has no move-tracker record (R210, log 59). -/
def updEnt (t k : Nat) (e : Ent) (s : State) : State :=
  if e.v.dead then removeEnt t k s
  else withLkp (fun x => { x with
    ents := mput x.ents (entKey t k) e
    tracks := if e.v.cur.isNone then mdel x.tracks (entKey t k) else x.tracks }) s

/-- INS_REFUSED of an exact-match table (R183). -/
def insRefused (t : Nat) (s : State) : State := if t < 64 then rcount s R.LKP_EM_STAT t 15 0 1 else s

/-! ### Trie units (R191) -/

/-- Units in use: the trie's own and those of old arrays not yet freed, in the range of the register (R191, R193). -/
def unitsUsed (s : State) : Nat := min 8388608 (trieUnits s.lkp.lpm + (s.lkp.trieFree.map (·.1)).sum)

/-- Units of the old prefix array of the node a prefix ends in, of the child array that is copied where the change adds or
removes a node, and of every other node it removes (R192, R193). -/
def oldArrays (lpm lpm' : SMap (Vers Nat)) (k : Nat) : Nat :=
  let ns := trieNodes lpm
  let ns' := trieNodes lpm'
  let gone := (pathNodes k).filter (fun nd => ns.contains nd && !ns'.contains nd)
  let arr := match (pathNodes k).getLast? with
    | some nd => (nodePrefixes lpm nd + 3) / 4
    | none => 0
  let moved := (pathNodes k).find? (fun nd => ns.contains nd != ns'.contains nd)
  arr + match moved with
    | some (r, j, a) => if j ≤ 1 then 8 * gone.length else
        8 * (ns.filter (fun m => decide (m.1 = r ∧ m.2.1 = j ∧ m.2.2 / 256 = a / 256))).length + 8 * (gone.length - 1)
    | none => 0

/-- What a write of a prefix gives fresh parity (R217): the node it ends in and that node's prefix array, or its slot of the
short-prefix array. -/
def pfxFresh (bs : SMap Nat) (lpm : SMap (Vers Nat)) (k : Nat) (b : Nat × Nat) : Bool :=
  let r := (pfxParts k).1
  match (pathNodes k).getLast? with
  | none => decide (b = (128 + r, shortSlot k))
  | some nd => decide (b.1 = 80 + r) &&
      (decide (nodeUnit bs lpm nd ≤ b.2 ∧ b.2 < nodeUnit bs lpm nd + 8) ||
       decide (pfxBaseOf bs nd ≤ b.2 ∧ b.2 < pfxBaseOf bs nd + (nodePrefixes lpm nd + 3) / 4))

/-- A change of a prefix moves the prefix array of its node and each child array on its path that it copies: they stand no
more where a compaction has placed them. -/
def movedBases (bs : SMap Nat) (lpm lpm' : SMap (Vers Nat)) (k : Nat) : SMap Nat :=
  let ends := (pathNodes k).getLast?.toList.map (fun nd => 2 * nodeCode nd + 1)
  let ups := ((pathNodes k).filter (fun nd => nodeExists lpm nd != nodeExists lpm' nd)).map (fun nd =>
    2 * nodeCode (if nd.2.1 ≤ 1 then (nd.1, 0, nd.2.2) else (nd.1, nd.2.1 - 1, nd.2.2 / 256)))
  bs.filter (fun e => !(ends ++ ups).contains e.1)

/-- The prefixes replaced after a change of one of them: new arrays and the node are written, with fresh parity unless the
change only withdraws a version (`write`), and the old arrays wait to be freed (R192, R193). -/
def setLpm (write : Bool) (k : Nat) (l : SMap (Vers Nat)) (s : State) : State :=
  let old := if 16 < (pfxParts k).2.1 then oldArrays s.lkp.lpm l k else 0
  withLkp (fun x => { x with
    lpm := l
    bases := if old = 0 then x.bases else movedBases x.bases x.lpm l k
    trieFree := if old = 0 then x.trieFree else x.trieFree ++ [(old, s.tau.mono)]
    bad := if write || (mfind l k).isNone then x.bad.filter (fun b => !pfxFresh s.lkp.bases s.lkp.lpm k b) else x.bad }) s

/-- A map of versions with one entry's versions replaced, or removed where none is left. -/
def updVers {α : Type} (m : SMap (Vers α)) (k : Nat) (v : Vers α) : SMap (Vers α) :=
  if v.dead then mdel m k else mput m k v

/-- The versions of every prefix changed by one function: where a prefix keeps a live version the meaning of its versions
changes and no array does; one of which none is left leaves the trie (R192, R206). -/
def mapLpm (f : Vers Nat → Vers Nat) (s : State) : State :=
  s.lkp.lpm.foldl (fun s e =>
    if (f e.2).dead then setLpm true e.1 (mdel s.lkp.lpm e.1) s
    else withLkp (fun x => { x with lpm := mput x.lpm e.1 (f e.2) }) s) s

/-- Pending versions discarded. -/
def noPend {α : Type} (v : Vers α) : Vers α := { v with pend := none }

/-! ### The command register -/

/-- A command's target: KIND, table, EPOCH and VERSION of LKP_CMD, and its keys. -/
structure LkpCmd where
  kind : Nat
  table : Nat
  op : Nat
  epoch : Bool
  version : Nat
  key : Nat
  nkey : Nat
  data : Nat
  static : Bool

/-- The 256-bit key the registers KEY[0] to KEY[3] hold, KEY[0] highest. -/
def key256 (s : State) (r : Reg) : Nat := (List.range 4).foldl (fun a i => a * 2 ^ 64 + (rget s r i).toNat) 0

/-- The command LKP_CMD and the staging registers spell (R196, R197): keys cut to the table's width, prefix keys to
their first PLEN bits, data to the entry's width. -/
def lkpCmd (s : State) : LkpCmd :=
  let w := rget s R.LKP_CMD 0
  let kind := fld w 49 48
  let tb := fld w 55 50
  let table := match kind with | 1 => 64 + tb | _ => tb
  let raw := key256 s R.LKP_CMD_KEY
  let key := match kind with
    | 2 => pfxKey tb (fld w 39 32) ((raw % 2 ^ rootBits tb) >>> (rootBits tb - fld w 39 32))
    | 3 => raw % 2 ^ 20
    | _ => raw % 2 ^ keyBits s table
  let d := fld (rget s R.LKP_CMD_DATA1 0) 63 0 * 2 ^ 56 + fld (rget s R.LKP_CMD_DATA0 0) 55 0
  let data := match kind with
    | 2 => d % 2 ^ 20
    | 3 => d % 2 ^ 120
    | _ => d % 2 ^ dataBits s table
  ⟨kind, table, fld w 47 45, bit w 44, fld w 43 42, key, key256 s R.LKP_CMD_NKEY % 2 ^ keyBits s table, data,
    rbit s R.LKP_CMD_ATTR 0 7⟩

/-- DATA registers loaded from 120 data bits. -/
def loadData (d : Nat) (s : State) : State :=
  rset (rset s R.LKP_CMD_DATA0 0 (BitVec.ofNat 64 (d % 2 ^ 56))) R.LKP_CMD_DATA1 0 (BitVec.ofNat 64 (d >>> 56))

/-- The versions of one entry of kind 2 or 3, absent ones included. -/
def Vers.none_ {α : Type} : Vers α := ⟨none, none, none⟩

/-- A change of one version of an entry: the current one for EPOCH = 0, the pending one for EPOCH = 1. -/
def Vers.put {α : Type} (v : Vers α) (epoch : Bool) (x : Option α) : Vers α :=
  if epoch then { v with pend := some x } else { v with cur := x }

/-- The version EPOCH names, as presence is judged (R197, R203). -/
def Vers.named {α : Type} (v : Vers α) (epoch : Bool) : Option α := versOf v (if epoch then .pend else .cur)

/-- Refusals every command that writes the pending epoch shares: 6 with none open, 7 with the shadow storage full
for the `n` versions it creates (R68, R203). -/
def pendRefusal (s : State) (epoch : Bool) (n : Nat) : Option Nat :=
  if epoch = false then none
  else if s.tau.pendOpen = false then some 6
  else if shadowRoom s n then none else some 7

/-- One version stored in a plain map of versions (kinds 2 and 3): its result code and the new map. -/
def versWrite {α : Type} (s : State) (m : SMap (Vers α)) (k : Nat) (op : Nat) (epoch : Bool) (x : α) :
    Nat × SMap (Vers α) :=
  let v := (mfind m k).getD Vers.none_
  let n := if epoch && v.pend.isNone then 1 else 0
  match op with
  | 3 =>
    if epoch = true ∧ s.tau.pendOpen = false then (6, m)
    else if (v.named epoch).isNone then (2, m)
    else match pendRefusal s epoch n with
      | some r => (r, m)
      | none => (1, updVers m k (v.put epoch none))
  | 5 =>
    if epoch = false then (8, m)
    else if s.tau.pendOpen = false then (6, m)
    else if v.pend.isNone then (2, m)
    else (1, updVers m k { v with pend := none })
  | _ =>
    if epoch = true ∧ s.tau.pendOpen = false then (6, m)
    else if op = 2 ∧ (v.named epoch).isSome = true then (3, m)
    else match pendRefusal s epoch n with
      | some r => (r, m)
      | none => (1, updVers m k (v.put epoch (some x)))

/-- How PEND_COUNT moves when the pending version of one entry goes from `a` to `b`. -/
def pendMove (a b : Bool) (s : State) : State :=
  if a = false ∧ b = true then addPend 1 s else if a = true ∧ b = false then dropPend s else s

/-- A pending version exists for a key of a map of versions. -/
def hasPend {α : Type} (m : SMap (Vers α)) (k : Nat) : Bool := ((mfind m k).getD Vers.none_).pend.isSome

/-- The version a read loads: none where VERSION names an epoch that is not alive, or EPOCH the pending epoch while none is
open (R197, R203). -/
def readView (c : LkpCmd) (s : State) : Option View :=
  if c.epoch = true ∧ s.tau.pendOpen = false then none else versionView s c.version

/-- A command on an LPM prefix (KIND 2): insert and write are refused with 4 where the trie has no room for it, and
move with 8 (R191, R197). -/
def pfxCmd (c : LkpCmd) (s : State) : Nat × State :=
  if c.op = 0 then
    match readView c s with
    | none => (6, s)
    | some v =>
      match (mfind s.lkp.lpm c.key).bind (fun e => versOf e v) with
      | some i => (1, loadData i s)
      | none => (2, s)
  else if c.op = 4 then (8, s)
  else
    let r := versWrite s s.lkp.lpm c.key c.op c.epoch c.data
    if r.1 = 1 then
      if trieUnits s.lkp.lpm < trieUnits r.2 ∧ 8388608 < trieUnits r.2 then (4, s)
      else (1, pendMove (hasPend s.lkp.lpm c.key) (hasPend r.2 c.key) (setLpm (decide (c.op ≠ 5)) c.key r.2 s))
    else (r.1, s)

/-- A command on a result entry (KIND 3): insert and move are refused with 8 (R197). -/
def resCmd (c : LkpCmd) (s : State) : Nat × State :=
  if c.op = 0 then
    match readView c s with
    | none => (6, s)
    | some v =>
      match (mfind s.lkp.res c.key).bind (fun e => versOf e v) with
      | some d => (1, loadData d.toNat s)
      | none => (2, s)
  else if c.op = 2 ∨ c.op = 4 then (8, s)
  else
    let r := versWrite s s.lkp.res c.key c.op c.epoch (BitVec.ofNat 120 c.data)
    if r.1 = 1 then
      (1, pendMove (hasPend s.lkp.res c.key) (hasPend r.2 c.key) (withLkp (fun x => { x with
        res := r.2
        bad := if c.op = 5 ∧ (mfind r.2 c.key).isSome then x.bad else x.bad.filter (fun b => decide (b ≠ (96, c.key))) }) s))
    else (r.1, s)

/-- The versions of a key of a table. -/
def entVers (s : State) (t k : Nat) : Vers EData := ((entOf s t k).map (·.v)).getD Vers.none_

/-- One version of a key stored, in its place or in a new one; none where there is no room. A key that was absent
from the current version starts with HIT 0 and AGE 0 unless the command carries them (R197). A write to lost memory is
discarded (R389). -/
def storeEnt (t k : Nat) (epoch : Bool) (d : EData) (hit : Bool) (age : Nat) (s : State) : Option State :=
  match entOf s t k with
  | some e =>
    if placeLost s t e.loc then some s else
    let fresh := e.v.cur.isNone
    let e' := { e with v := e.v.put epoch (some d), hit := if fresh then hit else e.hit,
                       age := if fresh then age else e.age }
    some (pendMove e.v.pend.isSome e'.v.pend.isSome (updEnt t k e' s))
  | none =>
    match place s t k with
    | some (es, l) =>
      let e : Ent := ⟨l, (Vers.none_ : Vers EData).put epoch (some d), hit, age⟩
      some (pendMove false epoch (putEnt t k es e s))
    | none => none

/-- The entry of a key is stored with fresh parity (R217). -/
def freshEnt (t k : Nat) (s : State) : State :=
  match entOf s t k with
  | some e => freshPlace t e.loc s
  | none => s

/-- A read of an exact-match or flow entry (R197). -/
def entRead (c : LkpCmd) (s : State) : Nat × State :=
  match readView c s with
  | none => (6, s)
  | some v =>
    match (entOf s c.table c.key).bind (fun e => (versOf e.v v).map (fun d => (e, d))) with
    | some (e, d) =>
      let a := BitVec.ofNat 64 (d.static.toNat * 2 ^ 7 + e.age * 2 ^ 4 + e.hit.toNat * 2 ^ 3)
      (1, rset (loadData (shownData s c.table d) s) R.LKP_CMD_ATTR 0 a)
    | none => (2, s)

/-- A write or insert of an exact-match or flow entry (R197, R203). -/
def entWrite (c : LkpCmd) (s : State) : Nat × State :=
  let v := entVers s c.table c.key
  let n := if c.epoch && v.pend.isNone then 1 else 0
  if c.epoch = true ∧ s.tau.pendOpen = false then (6, s)
  else if c.op = 2 ∧ (v.named c.epoch).isSome = true then (3, s)
  else match pendRefusal s c.epoch n with
    | some r => (r, s)
    | none =>
      match storeEnt c.table c.key c.epoch ⟨BitVec.ofNat 120 c.data, c.static⟩ false 0 s with
      | some s' => (1, freshEnt c.table c.key s')
      | none => (4, insRefused c.table s)

/-- A delete of an exact-match or flow entry (R197, R203). -/
def entDelete (c : LkpCmd) (s : State) : Nat × State :=
  let v := entVers s c.table c.key
  let n := if c.epoch && v.pend.isNone then 1 else 0
  if c.epoch = true ∧ s.tau.pendOpen = false then (6, s)
  else if (v.named c.epoch).isNone then (2, s)
  else match pendRefusal s c.epoch n, entOf s c.table c.key with
    | some r, _ => (r, s)
    | none, some e =>
      let e' := { e with v := e.v.put c.epoch none }
      (1, pendMove e.v.pend.isSome e'.v.pend.isSome (updEnt c.table c.key e' (freshPlace c.table e.loc s)))
    | none, none => (2, s)

/-- A move (R197, R198, R203): the data, STATIC, HIT and AGE go to NKEY; an immediate move removes the old key on
the next tick, a pending one stores an absent version of it. -/
def entMove (c : LkpCmd) (s : State) : Nat × State :=
  let v := entVers s c.table c.key
  let nv := entVers s c.table c.nkey
  let n := if c.epoch then (if v.pend.isNone then 1 else 0) + (if nv.pend.isNone then 1 else 0) else 0
  if c.epoch = true ∧ s.tau.pendOpen = false then (6, s)
  else match v.named c.epoch, entOf s c.table c.key with
    | some d, some e =>
      if (nv.named c.epoch).isSome then (3, s)
      else match pendRefusal s c.epoch n with
        | some r => (r, s)
        | none =>
          match storeEnt c.table c.nkey c.epoch d e.hit e.age s with
          | none => (4, insRefused c.table s)
          | some s' =>
            if c.epoch then
              match entOf s' c.table c.key with
              | some e1 =>
                let e2 := { e1 with v := e1.v.put true none }
                (1, pendMove e1.v.pend.isSome true (updEnt c.table c.key e2 s'))
              | none => (1, s')
            else (1, withLkp (fun x => { x with delNext := x.delNext ++ [entKey c.table c.key] }) s')
    | _, _ => (2, s)

/-- A withdrawal of an entry's pending version (R197, R203). -/
def entWithdraw (c : LkpCmd) (s : State) : Nat × State :=
  if c.epoch = false then (8, s)
  else if s.tau.pendOpen = false then (6, s)
  else match entOf s c.table c.key with
    | some e =>
      if e.v.pend.isNone then (2, s)
      else (1, dropPend (updEnt c.table c.key { e with v := { e.v with pend := none } } s))
    | none => (2, s)

/-- The place of the parity error a prefix command meets: a root entry, a node or a slot it reads (R217, R218). A prefix of
length 17 or above is reached through its root entry, the nodes on its path and its slot; a shorter one stands in its
slot of the short-prefix array, and a change of it reads the root entries it covers. -/
def pfxBad (c : LkpCmd) (s : State) : Option (Nat × Nat) :=
  let (r, l, a) := pfxParts c.key
  let isBad (b : Nat × Nat) : Option (Nat × Nat) := if s.lkp.bad.contains b then some b else none
  match (pathNodes c.key).getLast? with
  | none => (isBad (128 + r, shortSlot c.key)).or (if c.op = 0 then none else
      s.lkp.bad.find? (fun b => decide (b.1 = 112 + r ∧ b.2 / 2 ^ (16 - l) = a)))
  | some nd =>
    ((isBad (112 + r, a >>> (l - 16))).or
      ((pathNodes c.key).findSome? (fun nd => (nodeBad s nd).map (fun u => (80 + r, u))))).or
      (if (mfind s.lkp.lpm c.key).isSome then
        isBad (80 + r, (slotUnit s.lkp.bases s.lkp.lpm nd (2 ^ (l - 8 - 8 * nd.2.1) - 2 + a % 2 ^ (l - 8 - 8 * nd.2.1))).1) else none)

/-- The place of the parity error a command meets (R217, R218): a prefix command where it reads the trie, a result command
its entry, any other what a lookup of its key reads. -/
def cmdBad (c : LkpCmd) (s : State) : Option (Nat × Nat) :=
  match c.kind with
  | 2 => pfxBad c s
  | 3 => if s.lkp.bad.contains (96, c.key) then some (96, c.key) else none
  | _ => emBad s c.table c.key

/-- A command without a parity error: its result code and what it leaves (R197). A refused command changes nothing but
INS_REFUSED. -/
def lkpAct (c : LkpCmd) (s : State) : Nat × State :=
  match c.kind with
  | 2 => pfxCmd c s
  | 3 => resCmd c s
  | _ =>
    match c.op with
    | 0 => entRead c s
    | 3 => entDelete c s
    | 4 => entMove c s
    | 5 => entWithdraw c s
    | _ => entWrite c s

/-- The DDR5 addresses that a command on a flow table reads. -/
def cmdReads (c : LkpCmd) (s : State) : List Nat :=
  if c.kind < 2 then flowAddrs s c.table c.key ++ (if c.op = 4 then flowAddrs s c.table c.nkey else []) else []

/-- What a command changed in a flow table is written to DDR5. -/
def cmdWrote (old : State) (c : LkpCmd) (s : State) : State :=
  if c.kind < 2 then flowWrote old c.table c.nkey (flowWrote old c.table c.key s) else s

/-- A command carried out (R197, R217, R218): a parity error it meets is reported; a read then loads zeros with RESULT 5,
and so ends a move, whose data cannot be read (log 59); a write or insert stores fresh parity and a delete removes the
entry. `met` is an error it is the first to meet. -/
def lkpDo (met : Option (Nat × Nat)) (c : LkpCmd) (s : State) : Nat × State :=
  if c.kind < 2 ∧ tableEn s c.table = false then (8, s)
  else
    let s := if (cmdReads c s).any (unitWaits s .mcd) then memPosts .mcd (cmdReads c s) false s
             else memUses .mcd (cmdReads c s) false s
    let r := lkpAct c s
    let r := (r.1, cmdWrote s c r.2)
    match met.or (cmdBad c s) with
    | none => r
    | some (code, i) =>
      if c.op = 0 ∧ r.1 ≠ 6 ∧ r.1 ≠ 8 then
        let s := loadData 0 (lkpParity code i s)
        (5, if c.kind < 2 then rset s R.LKP_CMD_ATTR 0 0 else s)
      else if c.op = 4 ∧ r.1 ≠ 6 ∧ r.1 ≠ 8 then (5, lkpParity code i s)
      else (r.1, lkpParity code i r.2)

/-- Discard the pending versions of the lookup complex that an abandoned epoch left (R67). -/
def lkpDrop (s : State) : State :=
  if s.lkp.abandoned then
    let s := s.lkp.ents.foldl (fun s e => updEnt (entTable e.1) (e.1 % 2 ^ 256) { e.2 with v := noPend e.2.v } s) s
    let s := mapLpm noPend s
    withLkp (fun x => { x with abandoned := false, res := x.res.foldl (fun m e => updVers m e.1 (noPend e.2)) x.res }) s
  else s

/-- A command is one the control sequencers carry out (R200): every prefix command, and an exact-match insert or move
with no free candidate place. -/
def needsSeq (c : LkpCmd) (s : State) : Bool :=
  let placed (k : Nat) : Bool := (entOf s c.table k).isSome || (freePlace s c.table k).isSome
  decide (c.kind = 2) || (decide (c.kind = 0) &&
    (((decide (c.op = 1) || decide (c.op = 2)) && !placed c.key) || (decide (c.op = 4) && !placed c.nkey)))

/-- The sequencers a command needs do not run: those of the trie, or that of placement (R200, R468). -/
def cmdDown (c : LkpCmd) (s : State) : Bool := needsSeq c s && seqDown s (if c.kind = 2 then 8 else 7)

/-- A command is an immediate change of a prefix of length 16 or less, which reaches its root entries one per tick
(R194). -/
def isShortPfx (c : LkpCmd) : Bool :=
  decide (c.kind = 2) && !c.epoch && (decide (c.op = 1) || decide (c.op = 2) || decide (c.op = 3)) &&
    decide ((pfxParts c.key).2.1 ≤ 16)

/-- The next root entry that the rewrite in progress has to reach, in ascending index: one whose BEST_LEN is not above the
prefix's length (R192, R194). -/
def jobNext (s : State) (j : PfxJob) : Option Nat :=
  let (r, l, a) := pfxParts j.key
  ((List.range (2 ^ (16 - l))).map (fun i => a * 2 ^ (16 - l) + i)).find? (fun i =>
    decide (j.next ≤ i) && decide (bestLen s r i ≤ l))

/-- The rewrite in progress reaches one root entry, which takes fresh parity. -/
def jobStep (j : PfxJob) (i : Nat) (s : State) : State :=
  withLkp (fun x => { x with
    pfxJob := some { j with next := i + 1, tick := s.tau.mono }
    bad := x.bad.filter (fun b => decide (b ≠ (112 + (pfxParts j.key).1, i))) }) s

/-- On every tick but its last the rewrite in progress reaches one root entry (R194); it pauses with the control
sequencers (R73). -/
def jobTick (s : State) : State :=
  match s.lkp.pfxJob with
  | none => s
  | some j =>
    if seqDown s 8 then s
    else
      match jobNext s j with
      | none => s
      | some i => if (jobNext s { j with next := i + 1 }).isSome then jobStep j i s else s

/-- The last root entry is due on this tick, or none is left: the command may end (R202). -/
def jobReady (s : State) (j : PfxJob) : Bool :=
  match jobNext s j with
  | none => true
  | some i => (jobNext s { j with next := i + 1 }).isNone && decide (j.tick < s.tau.mono)

/-- A command is carried out now, and its result waits for BUSY to clear; an immediate change of a short prefix leaves its
root entries to be rewritten. -/
def lkpTake (met : Option (Nat × Nat)) (c : LkpCmd) (s : State) : State :=
  let old := (mfind s.lkp.lpm c.key).bind (·.cur)
  let r := lkpDo met c s
  withLkp (fun x => { x with
    preResult := some r.1
    pfxJob := if isShortPfx c && decide (r.1 = 1) then some ⟨c.key, old, 0, s.tau.mono⟩ else x.pfxJob }) r.2

/-- GO with an operation: ignored while a command runs (R199). The fields of LKP_CMD are stored; a command that
names the pending epoch is taken into it at once (R203, R204), and an immediate change of a short prefix starts its rewrite
(R194), unless the control sequencers they need restart (R73); any other waits for its end. -/
def lkpStart (op : Nat) (v : Word) (s : State) : State :=
  if rbit s R.LKP_CMD 0 63 then s
  else
    let s := rset s R.LKP_CMD 0 (setFld (setFld (storeVal s false R.LKP_CMD 0 v) 47 45 op) 63 63 1)
    let c := lkpCmd s
    if cmdDown c s = false then
      if c.epoch = true ∧ c.op ≠ 0 then lkpTake none c (lkpDrop s)
      else if isShortPfx c then lkpTake none c s
      else s
    else s

/-- LKP_READ (R196, R197). -/
def execLkpRead (v : Word) (s : State) : Out := .next (lkpStart 0 v s)
/-- LKP_WRITE (R196, R197). -/
def execLkpWrite (v : Word) (s : State) : Out := .next (lkpStart 1 v s)
/-- LKP_INSERT (R196, R197). -/
def execLkpInsert (v : Word) (s : State) : Out := .next (lkpStart 2 v s)
/-- LKP_DELETE (R196, R197). -/
def execLkpDelete (v : Word) (s : State) : Out := .next (lkpStart 3 v s)
/-- LKP_MOVE (R196, R197). -/
def execLkpMove (v : Word) (s : State) : Out := .next (lkpStart 4 v s)
/-- LKP_WITHDRAW (R196, R197). -/
def execLkpWithdraw (v : Word) (s : State) : Out := .next (lkpStart 5 v s)

/-- RESULT set and BUSY cleared. -/
def lkpEnd (res : Nat) (s : State) : State :=
  withLkp (fun x => { x with preResult := none }) (rsetF (rsetF s R.LKP_CMD 0 62 59 res) R.LKP_CMD 0 63 63 0)

/-- An error that a command is the first to meet. -/
def firstMet (c : LkpCmd) (ev : LookupEvent) : Option (Nat × Nat) :=
  match ev with
  | .parity p i => some (errCode c.kind (if c.kind = 1 then c.table - 64 else c.table) p, i)
  | _ => none

/-- An error that a command met after its versions were stored (R217, R218): it is reported, and stays where the command
wrote nothing (log 59). -/
def metLate (c : LkpCmd) (ev : LookupEvent) (s : State) : State :=
  match firstMet c ev with
  | some m => lkpParity m.1 m.2 (if c.op = 5 then markBad m.1 m.2 s else s)
  | none => s

/-- A corrected error in a flow entry that a command reads (R386). -/
def cmdCorrected (c : LkpCmd) (ev : LookupEvent) (s : State) : State :=
  match ev with
  | .corrected i =>
    let a := (rget s R.LKP_FLOW_BASE (c.table - 64)).toNat + 64 * i
    if c.kind = 1 ∧ memLost s .mcd a = false then eccEvent .mcd a .corrected s else s
  | _ => s

/-- The displacement that an immediate command needs before it can be applied (R182, R183, R202): of an exact-match insert
or move that would be carried out. -/
def cmdDisplace (c : LkpCmd) (s : State) : Option State :=
  if c.kind = 0 ∧ c.epoch = false ∧ needsSeq c s = true ∧ tableEn s c.table = true ∧ (lkpAct c s).1 = 1 then
    displace c.table (if c.op = 4 then c.nkey else c.key) s
  else none

/-- LKP_COMMAND_DONE (R199, R202): an immediate command is applied and BUSY clears; one that needs the control
sequencers is held while they restart (R73), and a change of a short prefix ends with the last root entry it reaches
(R194), and one that reads a flow table waits while the DDR5 channel holds requests (R383). One that displaces others makes
one displacement a tick first (R183). A parity error found now stays in its place (R217). -/
def execLkpCommandDone (ev : LookupEvent) (s : State) : Out :=
  if rbit s R.LKP_CMD 0 63 then
    let c := lkpCmd s
    match s.lkp.preResult, s.lkp.pfxJob with
    | some r, none => .next (lkpEnd r (metLate c ev s))
    | some r, some j =>
      if jobReady s j && !seqDown s 8 then
        .next (lkpEnd r (metLate c ev (withLkp (fun x => { x with pfxJob := none })
          (match jobNext s j with | some i => jobStep j i s | none => s))))
      else .next s
    | none, _ =>
      if cmdDown c s then .next s
      else if tableEn s c.table && (cmdReads c s).any (unitWaits s .mcd) then .next (memAsks .mcd (cmdReads c s) s)
      else if moving s c.table && decide (c.kind = 0) then .next s
      else if (cmdDisplace c s).isSome then .next ((cmdDisplace c s).getD s)
      else
        let met := firstMet c ev
        let s := cmdCorrected c ev (met.elim s (fun m => markBad m.1 m.2 s))
        if isShortPfx c then .next (lkpTake met c s)
        else .next (lkpEnd (lkpDo met c s).1 (lkpDo met c s).2)
  else .next s

/-- What a new tick brings to the tables: an abandoned epoch's versions are gone (R67), a rewrite of root entries goes on
(R194), old copies of moved entries are cleared (R183), and the entries an immediate move removes on the tick after it leave (R198). -/
def lkpTick (s : State) : State :=
  let s := jobTick (lkpDrop s)
  let s' := s.lkp.delNext.foldl (fun s k =>
    match mfind s.lkp.ents k with
    | some e => updEnt (entTable k) (k % 2 ^ 256) { e with v := { e.v with cur := none } } s
    | none => s) s
  withLkp (fun x => { x with delNext := [], copies := [] }) s'

/-- A command that names the pending epoch and is held while the sequencers restart is taken into it before a commit is
judged (R204). -/
def heldTake (s : State) : State :=
  let c := lkpCmd s
  if rbit s R.LKP_CMD 0 63 && s.lkp.preResult.isNone && c.epoch && decide (c.op ≠ 0) then lkpTake none c s else s

/-- STASH_RETURN (R182, R183): a stash entry of a table moves to a candidate place that is free; not while the control
sequencers restart (R73) or that of placement is faulted (R475). -/
def execStashReturn (t : EmTable) (s : State) : Out :=
  if seqDown s 7 then .next s else
  let found := s.lkp.ents.findSome? (fun e =>
    if entTable e.1 = t.val ∧ e.2.loc.wayNo = none ∧ placeBad s t.val e.2.loc = false then (freePlace s t.val (e.1 % 2 ^ 256)).map (fun l => (e.1, e.2, l))
    else none)
  match found with
  | some (k, e, l) => .next (moveEnt t.val k e l s)
  | none => .next s

/-- TRIE_ARRAY_FREE (R193): the oldest array that waits is freed 2 µs after its change. -/
def execTrieArrayFree (s : State) : Out :=
  match s.lkp.trieFree with
  | [] => .next s
  | (_, d) :: rest => if timeUp s (d + 3200) then .next (withLkp (fun x => { x with trieFree := rest }) s) else .next s

/-! ### Enable and disable -/

/-- Blocks of an exact-match table's configuration word. -/
def cfgBlocks (w : Word) : List Nat := (List.range (fld w 48 42)).map (fun i => fld w 55 49 + i)

/-- An exact-match table may be enabled: it has blocks, and none belongs to another enabled table (R177). -/
def emEnableOk (s : State) (t : Nat) : Bool :=
  let bs := cfgBlocks (rget s R.LKP_EM_CFG t)
  bs != [] && (List.range 64).all (fun u =>
    decide (u = t) || !rbit s R.LKP_EM_CFG u 63 || !(cfgBlocks (rget s R.LKP_EM_CFG u)).any (fun b => bs.contains b))

/-- EN of a table taken up, or refused with a violation record (R177, R186). A flow table needs DDR5 that is ready
(R392). -/
def tableEnable (t : Nat) (memOk : Bool) (s : State) : State :=
  if t < 64 then
    if emEnableOk s t then rsetF s R.LKP_EM_CFG t 63 63 1 else cfgViolation 4 (regAddr R.LKP_EM_CFG t) s
  else if memOk then rsetF s R.LKP_FLOW_CFG (t - 64) 63 63 1
  else cfgViolation 4 (regAddr R.LKP_FLOW_CFG (t - 64)) s

/-- A table's clearing is in progress. -/
def clearing (s : State) (t : Nat) : Bool := s.lkp.clr.any (fun j => decide (j.table = t))

/-- A write that sets EN of a table: other fields first, then EN, which waits for a clearing in progress; ignored
where EN is 1 already (R177). -/
def enableWrite (r : Reg) (i t : Nat) (memOk : Bool) (v : Word) (s : State) : State :=
  if tableEn s t then s
  else
    let s := hostStore false r i v s
    if clearing s t then
      withLkp (fun x => { x with clr := x.clr.map (fun j => if j.table = t then { j with enable := some v } else j) }) s
    else tableEnable t memOk s

/-- EN of a table cleared (R177): its pending and previous versions are discarded, their counts fall, and their
storage waits for the clearing. The write's other fields are stored only where EN is 0 when it arrives. -/
def tableDisable (r : Reg) (i t : Nat) (v : Word) (s : State) : State :=
  if tableEn s t then
    let s := lkpDrop s
    let mine := s.lkp.ents.filter (fun e => decide (entTable e.1 = t))
    let np := (mine.filter (fun e => e.2.v.pend.isSome)).length
    let nv := (mine.filter (fun e => e.2.v.prev.isSome)).length
    let cfg := rget s r i
    let s := rsetF s r i 63 63 0
    let s := { s with tau := { s.tau with pendCount := s.tau.pendCount - np, prevCount := s.tau.prevCount - nv,
                                          reclaim := s.tau.reclaim + np + nv } }
    withLkp (fun x => { x with
      ents := x.ents.map (fun e =>
        if entTable e.1 = t then (e.1, { e.2 with v := { e.2.v with pend := none, prev := none } }) else e)
      clr := x.clr ++ [⟨t, cfg, if 64 ≤ t then rget s R.LKP_FLOW_BASE (t - 64) else 0, np + nv, none⟩] }) s
  else withLkp (fun x => { x with clr := x.clr.map (fun j => if j.table = t then { j with enable := none } else j) })
    (hostStore false r i v s)

/-- EM_TABLE_ENABLE (R177). -/
def execEmTableEnable (t : EmTable) (v : Word) (s : State) : Out :=
  .next (enableWrite R.LKP_EM_CFG t.val t.val true v s)
/-- EM_TABLE_DISABLE (R177). -/
def execEmTableDisable (t : EmTable) (v : Word) (s : State) : Out :=
  .next (tableDisable R.LKP_EM_CFG t.val t.val v s)

/-- FLOW_TABLE_ENABLE (R186): as R177 lays down; DDR5 must be ready (R392). -/
def execFlowTableEnable (f : FlowTable) (v : Word) (s : State) : Out :=
  .next (enableWrite R.LKP_FLOW_CFG f.val (64 + f.val) (memReady s .mcd) v s)
/-- FLOW_TABLE_DISABLE (R186). -/
def execFlowTableDisable (f : FlowTable) (v : Word) (s : State) : Out :=
  .next (tableDisable R.LKP_FLOW_CFG f.val (64 + f.val) v s)

/-- The DDR5 bytes of a flow table's region after its clearing: zero (R177, R186). -/
def wipeRegion (a n : Nat) (s : State) : State :=
  withMem .mcd (fun x => { x with bytes := x.bytes.filter (fun e => decide (e.1 < a ∨ a + n ≤ e.1)) }) s

/-- TABLE_CLEAR_DONE (R177): the table's entries are gone, its shadow storage is reclaimed, and an enable that
waited takes effect. -/
def tableClearDone (t : Nat) (memOk : Bool) (s : State) : State :=
  match takeFirst (fun j => decide (j.table = t)) s.lkp.clr with
  | none => s
  | some (j, rest) =>
    let s := withLkp (fun x => { x with
      clr := rest
      ents := x.ents.filter (fun e => decide (entTable e.1 ≠ t))
      ovf := if 64 ≤ t then x.ovf.filter (fun e => decide (e.1 / 2 ^ 27 ≠ t - 64)) else x.ovf
      tracks := x.tracks.filter (fun e => decide (entTable e.1 ≠ t))
      bad := x.bad.filter (fun b => decide (b.1 ≠ t)) }) s
    let s := if 64 ≤ t then wipeRegion j.base.toNat (128 * 2 ^ fld j.cfg 44 40) s else s
    let s := { s with tau := { s.tau with reclaim := s.tau.reclaim - j.storage } }
    match j.enable with
    | some _ => tableEnable t memOk s
    | none => s

/-- The DDR5 region that the clearing of a flow table writes (R177, R186). -/
def clearRun (s : State) (t : Nat) : Nat × Nat :=
  match s.lkp.clr.find? (fun j => decide (j.table = t)) with
  | some j => if 64 ≤ t then (j.base.toNat, 128 * 2 ^ fld j.cfg 44 40) else (0, 0)
  | none => (0, 0)

/-- TABLE_CLEAR_DONE (R177): not while the sequencer of placement does not run; its writes wait for a DDR5 channel that holds
requests (R383). -/
def execTableClearDone (t : LearnTable) (s : State) : Out :=
  let r := clearRun s t.val
  if seqDown s 7 then .next s
  else if runWaits s .mcd r.1 r.2 then .next (runAsk .mcd r.1 r.2 s)
  else .next (tableClearDone t.val (memReady s .mcd) (memUseRun .mcd r.1 r.2 true s))

/-! ### Learning and ageing -/

/-- A notification enters its FIFO of 4,096, or is counted as dropped (R216). -/
def notifyPut (n : Notif) (s : State) : State :=
  if s.lkp.notify.length < 4096 then intRaise 6 (withLkp (fun x => { x with notify := x.notify ++ [n] }) s)
  else rcount s R.LKP_NOTIFY_DROP 0 31 0 1

/-- A notification raised where its enable bit is set. -/
def notifyIf (en : Bool) (type t k : Nat) (data : Word) (old : Nat) (s : State) : State :=
  if en then notifyPut ⟨type, t, k, data, old⟩ s else s

/-- Data [63:0] of an entry version. -/
def data64 (d : EData) : Word := BitVec.ofNat 64 d.data.toNat

/-- An entry is damped now (R210): its hold has not ended. -/
def dampedNow (s : State) (tr : Track) : Bool :=
  match tr.damped with
  | some e => decide (s.tau.mono ≤ e)
  | none => false

/-- Room for a tracker record: a free one of 65,536, or the undamped record whose window started earliest
(R211); none where every record is damped. -/
def trackRoom (s : State) : Option (SMap Track) :=
  if s.lkp.tracks.length < 65536 then some s.lkp.tracks
  else
    let free := s.lkp.tracks.filter (fun e => !dampedNow s e.2)
    match free with
    | [] => none
    | e :: rest => some (mdel s.lkp.tracks (rest.foldl (fun b x => if x.2.start < b.2.start then x else b) e).1)

/-- What the move tracker makes of a move (R210): whether it is applied, and the tracker after it. -/
def trackMove (s : State) (key : Nat) (limit window hold : Nat) : Bool × SMap Track :=
  match mfind s.lkp.tracks key with
  | none =>
    match trackRoom s with
    | some m => (true, mput m key ⟨s.tau.mono, 1, none⟩)
    | none => (true, s.lkp.tracks)
  | some tr =>
    if tr.damped.isSome ∨ tr.start + window < s.tau.mono then (true, mput s.lkp.tracks key ⟨s.tau.mono, 1, none⟩)
    else if tr.count < limit then (true, mput s.lkp.tracks key { tr with count := tr.count + 1 })
    else (false, mput s.lkp.tracks key { tr with damped := some (s.tau.mono + hold) })

/-- The current version of an entry replaced with learned data; STATIC stays (R209). -/
def learnedEnt (e : Ent) (d : EData) : Ent := { e with v := { e.v with cur := some d }, hit := true, age := 0 }

/-- A station move (R209, R210). -/
def stationMove (l : Learn) (e : Ent) (d new : EData) (s : State) : State :=
  let cfg := rget s R.LKP_LEARN_CFG l.table
  let key := entKey l.table l.key
  let r := trackMove s key (fld cfg 55 48) (msTicks * fld cfg 47 32) (msTicks * fld cfg 31 16)
  let s := withLkp (fun x => { x with tracks := r.2 }) s
  if r.1 then
    occur 4 5 0 1 <| notifyIf (bit cfg 61) 2 l.table l.key (data64 new) (d.data.toNat % 2 ^ 32)
      (updEnt l.table l.key (learnedEnt e new) s)
  else notifyIf (bit cfg 60) 3 l.table l.key (data64 d) 0 s

/-- A learn applied to the current version of its key (R209); one that changes the entry, or refreshes it, is counted (R486). `perr` is the index of an entry in which it is the first to
find a parity error; one found before stays (R217). -/
def learnDo (l : Learn) (perr : Option Nat) (s : State) : State :=
  let cfg := rget s R.LKP_LEARN_CFG l.table
  let new : EData := ⟨BitVec.ofNat 120 (l.data.toNat % 2 ^ dataBits s l.table), false⟩
  let s := perr.elim s (fun i => markBad l.table i s)
  match (perr.map (fun i => (l.table, i))).or (emBad s l.table l.key) with
  | some b => lkpParity b.1 b.2 s
  | none =>
    match entOf s l.table l.key with
    | some e =>
      match e.v.cur with
      | some d =>
        if d.static then s
        else if d.data.toNat % 2 ^ 64 = new.data.toNat then
          occur 4 5 0 1 (updEnt l.table l.key { e with hit := true, age := 0 } s)
        else
          let damped := match mfind s.lkp.tracks (entKey l.table l.key) with
            | some tr => dampedNow s tr
            | none => false
          if damped then rcount s R.LKP_LEARN_DROP 0 31 16 1 else stationMove l e d new s
      | none => occur 4 5 0 1 (notifyIf (bit cfg 62) 1 l.table l.key (data64 new) 0 (updEnt l.table l.key (learnedEnt e new) s))
    | none =>
      match place s l.table l.key with
      | some (es, p) =>
        occur 4 5 0 1 <| notifyIf (bit cfg 62) 1 l.table l.key (data64 new) 0
          (putEnt l.table l.key es ⟨p, Vers.of new, true, 0⟩ s)
      | none => insRefused l.table (rcount s R.LKP_LEARN_DROP 0 47 32 1)

/-- A change that comes before a learn of its tick (R201): the end of a command. -/
def beforeLearn (i : Instr) : Bool :=
  match i with
  | .lkpCommandDone .. => true
  | _ => false

/-- LEARN_APPLY (R209, R213): the oldest learn whose sequencer runs is applied (R468); while the management complex restarts learning is
paused. A learn of a table no longer enabled is discarded; one of a flow table waits while its DDR5 channel holds requests
(R383), and one that displaces others makes one displacement a tick first (R183). A command of its tick comes before it
(R201). -/
def execLearnApply (perr : Option Nat) (s : State) : Out :=
  if comes s beforeLearn then .next s
  else match takeFirst (fun l => !seqDown s l.seq) s.lkp.learnQ with
    | none => .next s
    | some (l, rest) =>
      let as := flowAddrs s l.table l.key
      let t := withLkp (fun x => { x with learnQ := rest }) s
      if tableEn s l.table = false then .next (rcount t R.LKP_LEARN_DROP 0 15 0 1)
      else if as.any (unitWaits s .mcd) then .next (memAsks .mcd as s)
      else if moving s l.table then .next s
      else if (emBad s l.table l.key).isNone && (displace l.table l.key s).isSome then .next ((displace l.table l.key s).getD s)
      else .next (flowWrote s l.table l.key (learnDo l perr (memUses .mcd as false t)))

/-- DAMP_HOLD_END (R211): the hold of a damped entry ends; its record is freed, with a TYPE 5 notification where
enabled. -/
def execDampHoldEnd (t : LearnTable) (key : BitVec 256) (s : State) : Out :=
  let k := entKey t.val key.toNat
  match mfind s.lkp.tracks k with
  | some tr =>
    match tr.damped with
    | some e =>
      if timeUp s e then
        let d := match (entVers s t.val key.toNat).cur with | some d => data64 d | none => 0
        .next (notifyIf (rbit s R.LKP_LEARN_CFG t.val 60) 5 t.val key.toNat d 0
          (withLkp (fun x => { x with tracks := mdel x.tracks k }) s))
      else .next s
    | none => .next s
  | none => .next s

/-- The sweep's examination of one entry (R215): one with a parity error, or in lost memory (R389), is reported and left. -/
def ageEnt (t k : Nat) (s : State) : State :=
  match entOf s t k with
  | none => s
  | some e =>
    match e.v.cur with
    | none => s
    | some d =>
      if d.static then s
      else if placeBad s t e.loc || placeLost s t e.loc then lkpParity t (entIndex s t e.loc) s
      else if e.hit then updEnt t k { e with hit := false, age := 0 } s
      else if e.age + 1 < rfld s R.LKP_AGE_CFG t 55 53 then updEnt t k { e with age := e.age + 1 } s
      else notifyIf (rbit s R.LKP_AGE_CFG t 62) 4 t k (data64 d) 0
        (updEnt t k { e with v := { e.v with cur := none } } s)

/-- Entries of a flow table that lie in their second bucket with a given bucket as their first (R184). -/
def overflowCount (s : State) (t b : Nat) : Nat :=
  (s.lkp.ents.filter (fun e => decide (entTable e.1 = t) && inSecond t e.2.loc &&
    decide (bucketOf (keyBits s t) (e.1 % 2 ^ 256) 0 (bucketCount s t) = b))).length

/-- The saturated OVF of a flow table's buckets counted afresh (R184). The manual does not say whether an entry that the sweep
ages out counts among those it meets; it does not: DESIGN CHOICE (log 59). -/
def recountOvf (t : Nat) (old : SMap Nat) (s : State) : State :=
  if t < 64 then s
  else old.foldl (fun s e =>
    if e.2 = 255 ∧ e.1 / 2 ^ 27 = t - 64 then
      withLkp (fun x => { x with ovf := mset 0 x.ovf e.1 (min 255 (overflowCount s t (e.1 % 2 ^ 27))) }) s
    else s) s

/-- The DDR5 addresses that a sweep of a flow table reads: those of every bucket. -/
def sweepReads (s : State) (t : Nat) : List Nat :=
  if 64 ≤ t then (List.range (bucketCount s t)).map (fun b => (rget s R.LKP_FLOW_BASE (t - 64)).toNat + 128 * b) else []

/-- One whole sweep of a table (R184, R215). -/
def ageSweep (t : Nat) (s : State) : State :=
  let s := memUses .mcd (sweepReads s t) false s
  let old := s.lkp.ovf
  let keys := (s.lkp.ents.filter (fun e => decide (entTable e.1 = t))).map (fun e => e.1 % 2 ^ 256)
  recountOvf t old (keys.foldl (fun s k => flowWrote s t k (ageEnt t k s)) s)

/-- The sweep of a table is due (R214, R215). -/
def sweepDue (s : State) (t : Nat) : Bool :=
  rbit s R.LKP_AGE_CFG t 63 && tableEn s t &&
    timeUp s (mget 0 s.lkp.swept t + msTicks * rfld s R.LKP_AGE_CFG t 31 0)

/-- AGEING_SWEEP (R214, R215): the sweep of an enabled table falls due every INTERVAL_MS of monotonic time, counted from the
last sweep, or from count 0, whenever EN is set: DESIGN CHOICE (log 59). A sweep of a flow table waits while a DDR5 channel
holds requests (R383). -/
def execAgeingSweep (t : Sweep) (s : State) : Out :=
  let errs := t.errs
  let t := t.table
  if sweepDue s t.val && !seqDown s 6 then
    if (sweepReads s t.val).any (unitWaits s .mcd) then .next (memAsks .mcd (sweepReads s t.val) s) else
    .next (withLkp (fun x => { x with swept := mset 0 x.swept t.val s.tau.mono })
      (ageSweep t.val (errs.foldl (fun s i => markBad t.val i s) s)))
  else .next s

/-- LKP_NOTIFY_READ (R216): the oldest notification is popped; its first word is returned and the rest latched. -/
def execLkpNotifyRead (s : State) : Out :=
  match s.lkp.notify with
  | [] => .next (answer 0 ((List.range 5).foldl (fun s i => rset s R.LKP_NOTIFY i 0) s))
  | n :: rest =>
    let s := withLkp (fun x => { x with notify := rest }) s
    let s := (List.range 4).foldl (fun s i =>
      rset s R.LKP_NOTIFY i (BitVec.ofNat 64 (n.key >>> (64 * (3 - i))))) s
    let s := rset s R.LKP_NOTIFY 4 n.data
    .next (answer (BitVec.ofNat 64 (2 ^ 63 + n.type * 2 ^ 60 + n.table * 2 ^ 53 + n.old % 2 ^ 32)) s)

/-! ### Retirement of a block -/

/-- An entry of a retired block moves to another of its places; one that finds no room or reads with a parity error is
deleted with a record (R534). -/
def evictEnt (k : Nat) (e : Ent) (s : State) : State :=
  let t := entTable k
  let key := k % 2 ^ 256
  match (if placeBad s t e.loc then none else place s t key) with
  | some (es, l) => withLkp (fun x => { x with ents := mput es k { e with loc := l } }) s
  | none => errReport 2 4 15 0 t (BitVec.ofNat 64 key) (freshPlace t e.loc (removeEnt t key s))

/-- EM_BLOCK_RETIRE (R534): from this tick the block's slots count as full, and its entries move to other places or
are deleted. -/
def execEmBlockRetire (b : EmBlock) (sw : Bool) (s : State) : Out :=
  if retireDue s 4 b.val sw then
    let s := retireMark 4 b.val sw 0 s
    let s := withLkp (fun x => { x with retiredBlocks := x.retiredBlocks ++ [b.val] }) s
    let mine := s.lkp.ents.filter (fun e => decide (entTable e.1 < 64) &&
      tableEn s (entTable e.1) && decide (blockOf s (entTable e.1) e.2.loc = some b.val))
    .next (mine.foldl (fun s e => evictEnt e.1 e.2 s) s)
  else .next s

end Sys2Proof.Machine
end

