-- ==== Sys2Proof/Machine/Tcam.lean ====
section
/-! DEFINITION. The TCAM: its command register (R231 to R236), tables and banks (R220 to R222), the commit's flag
rotation (R227), scrubbing (R242) and bank retirement (R244, R245). -/

namespace Sys2Proof.Machine
open Sys2Proof

/-- The TCAM changed. -/
def withTcam (f : Tcam → Tcam) (s : State) : State := { s with tcam := f s.tcam }

/-- A row as it is kept: a hole holds no content, only QUAR and what its flags P and V were left at. -/
def normRow (x : TRow) : TRow := if rowHole x then { TRow.empty with quar := x.quar, p := x.p, v := x.v } else x

/-- A row of a bank stored. -/
def setRow (b r : Nat) (x : TRow) (s : State) : State :=
  withTcam (fun t => { t with rows := mset TRow.empty t.rows (4096 * b + r) (normRow x) }) s

/-- STATE of a bank: 0 free, 1 in a table, 2 spare, 3 retired (R220). -/
def bankState (s : State) (b : Nat) : Nat := rfld s R.TCM_BANK_CFG b 63 62

/-- STATE of a bank set. -/
def setBankState (b v : Nat) (s : State) : State := rsetF s R.TCM_BANK_CFG b 63 62 v

/-- A bank belongs to a table's run. -/
def inTable (s : State) (t b : Nat) : Bool := decide (tcamFirst s t ≤ b ∧ b < tcamFirst s t + tcamBanks s t)

/-- Entries of a table (R219). -/
def tcamSize (s : State) (t : Nat) : Nat := tcamBanks s t * bankEntries (tcamWidth s t)

/-- Bank and row of a table index (R219). -/
def rowAt (s : State) (t i : Nat) : Nat × Nat :=
  (tcamFirst s t + i / bankEntries (tcamWidth s t), i % bankEntries (tcamWidth s t))

/-- An index lies in the table and in a bank that has not been retired (R231). -/
def indexOk (s : State) (t i : Nat) : Bool := decide (i < tcamSize s t) && decide (bankState s (rowAt s t i).1 ≠ 3)

/-- The row at a table index. -/
def rowIdx (s : State) (t i : Nat) : TRow := trow s (rowAt s t i).1 (rowAt s t i).2

/-- The row at a table index stored. -/
def setRowIdx (t i : Nat) (x : TRow) (s : State) : State := setRow (rowAt s t i).1 (rowAt s t i).2 x s

/-- A place for a row: a hole that is not quarantined, in a live bank (R241). -/
def freeIdx (s : State) (t i : Nat) : Bool := indexOk s t i && rowHole (rowIdx s t i) && !(rowIdx s t i).quar

/-- A row may stand in a block of a bank under its pre-filter (R238). -/
def pfFits (s : State) (t i : Nat) (key mask : Nat) : Bool :=
  let (b, r) := rowAt s t i
  let blk := rget s R.TCM_PF_BLOCK (32 * b + pfBlock (tcamWidth s t) r)
  let sel := rget s R.TCM_PF_SEL b
  (List.range 8).all (fun n =>
    let k := fld sel (8 * n + 7) (8 * n)
    !(blk.toNat.testBit n) || (mask.testBit k && (key.testBit k == blk.toNat.testBit (8 + n))))

/-- 320 bits of a register run of five words, word 0 highest. -/
def word320 (s : State) (r : Reg) : Nat := (List.range 5).foldl (fun a i => a * 2 ^ 64 + (rget s r i).toNat) 0

/-- A register run of five words loaded from 320 bits. -/
def load320 (r : Reg) (v : Nat) (s : State) : State :=
  (List.range 5).foldl (fun s i => rset s r i (BitVec.ofNat 64 (v >>> (64 * (4 - i))))) s

/-- Version flags in the order of TCM_CMD_ATTR: C, PSET, P, VSET, V from bit 62 down (R230). -/
def rowFlags (x : TRow) : Nat :=
  x.c.toNat * 16 + x.pset.toNat * 8 + x.p.toNat * 4 + x.vset.toNat * 2 + x.v.toNat

/-- A command of TCM_CMD (R230). -/
structure TcamCmd where
  table : Nat
  op : Nat
  epoch : Bool
  version : Nat
  down : Bool
  idx : Nat
  nidx : Nat
  key : Nat
  mask : Nat
  assoc : Word

/-- The command TCM_CMD and the staging registers spell, keys and masks cut to the table's width. -/
def tcamCmd (s : State) : TcamCmd :=
  let w := rget s R.TCM_CMD 0
  let t := fld w 55 52
  let kb := tcamKeyBits (tcamWidth s t)
  ⟨t, fld w 51 48, bit w 47, fld w 46 45, bit w 44, fld w 43 26, fld w 25 8, word320 s R.TCM_CMD_KEY % 2 ^ kb,
    word320 s R.TCM_CMD_MASK % 2 ^ kb, rget s R.TCM_CMD_ASSOC 0⟩

/-- A command's table is enabled, and its INDEX and NINDEX lie in it and in no retired bank (R231). -/
def tcamValid (c : TcamCmd) (s : State) : Bool :=
  tcamEn s c.table && indexOk s c.table c.idx && indexOk s c.table c.nidx

/-- Read of a row (R232): QUAR and FLAGS in every case, the content when the row is present in VERSION. -/
def tcamRead (c : TcamCmd) (s : State) : Nat × State :=
  let x := rowIdx s c.table c.idx
  let s := rset s R.TCM_CMD_ATTR 0 (BitVec.ofNat 64 (x.quar.toNat * 2 ^ 63 + rowFlags x * 2 ^ 58))
  match versionView s c.version with
  | none => (6, s)
  | some v =>
    if rowPresent x v then
      (1, rset (load320 R.TCM_CMD_MASK x.mask (load320 R.TCM_CMD_KEY x.key s)) R.TCM_CMD_ASSOC 0 x.assoc)
    else (2, s)

/-- Write of a row (R228, R232, R241). -/
def tcamWrite (c : TcamCmd) (s : State) : Nat × State :=
  let x := rowIdx s c.table c.idx
  let y : TRow := ⟨c.key, c.mask, c.assoc, !c.epoch, c.epoch, c.epoch || x.p, false, x.v, false⟩
  if c.epoch then
    if s.tau.pendOpen = false then (6, s)
    else if rowHole x = false then (3, s)
    else if pfFits s c.table c.idx c.key c.mask = false then (10, s)
    else if shadowRoom s 1 then (1, addPend 1 (setRowIdx c.table c.idx y s)) else (7, s)
  else if x.pset || x.vset then (9, s)
  else if pfFits s c.table c.idx c.key c.mask = false then (10, s)
  else (1, setRowIdx c.table c.idx y s)

/-- Delete of a row (R228, R232). -/
def tcamDelete (c : TcamCmd) (s : State) : Nat × State :=
  let x := rowIdx s c.table c.idx
  if c.epoch then
    if s.tau.pendOpen = false then (6, s)
    else if rowPresent x .pend = false then (2, s)
    else if x.pset then (1, setRowIdx c.table c.idx { x with p := false } s)
    else if shadowRoom s 1 then (1, addPend 1 (setRowIdx c.table c.idx { x with pset := true, p := false } s))
    else (7, s)
  else if x.c then (1, setRowIdx c.table c.idx { x with c := false } s) else (2, s)

/-- Withdraw of a row's pending version (R228, R232). -/
def tcamWithdraw (c : TcamCmd) (s : State) : Nat × State :=
  let x := rowIdx s c.table c.idx
  if s.tau.pendOpen = false then (6, s)
  else if x.pset = false then (2, s)
  else (1, dropPend (setRowIdx c.table c.idx { x with pset := false } s))

/-- Why a move is refused, if it is (R232). -/
def tcamMoveRefusal (c : TcamCmd) (s : State) : Option Nat :=
  let x := rowIdx s c.table c.idx
  if rowHole x then some 2
  else if freeIdx s c.table c.nidx = false then some 3
  else if pfFits s c.table c.nidx x.key x.mask = false then some 10
  else none

/-- NINDEX loaded. -/
def loadNidx (i : Nat) (s : State) : State := rsetF s R.TCM_CMD 0 25 8 i

/-- Find hole: the nearest at or above INDEX, or at or below it (R232). -/
def tcamFindHole (c : TcamCmd) (s : State) : Nat × State :=
  let is := if c.down then (List.range (c.idx + 1)).reverse
            else (List.range (tcamSize s c.table - c.idx)).map (fun i => c.idx + i)
  match is.find? (freeIdx s c.table) with
  | some i => (1, loadNidx i s)
  | none => (4, s)

/-- Search by command (R232), its match verified as any other's (R240). -/
def tcamSearch (c : TcamCmd) (ev : LookupEvent) (s : State) : Nat × State :=
  match versionView s c.version with
  | none => (6, s)
  | some v =>
    let m := verifyMatch c.table ev (occur 5 1 c.table 1 s)
    let s := m.2
    if m.1 then (2, loadNidx 0 s) else
    match tcamFind s c.table c.key v with
    | some (b, r) => if (trow s b r).quar then (2, loadNidx 0 s) else (1, loadNidx (tcamIndex s c.table b r) s)
    | none => (2, loadNidx 0 s)

/-- Rows laid out in order at the lowest indices a respread may use: none ends a run of H indices, each is in a live
bank, not quarantined without a row, and fits its block's pre-filter; none where the places run out (R236). -/
def respreadPlan (s : State) (t h : Nat) : List TRow → List Nat → Option (List (Nat × TRow))
  | [], _ => some []
  | _ :: _, [] => none
  | x :: xs, i :: is =>
    if i % h ≠ h - 1 ∧ indexOk s t i = true ∧ ¬ (rowHole (rowIdx s t i) = true ∧ (rowIdx s t i).quar = true) ∧
        pfFits s t i x.key x.mask = true
    then (respreadPlan s t h xs is).map (fun l => (i, x) :: l)
    else respreadPlan s t h (x :: xs) is

/-- The moves after which the rows of a table stand in their order and every run of HOLE_SPACING indices ends in a hole, so
arranged that each goes into a hole: those upward from the top, then those downward from the bottom; none where the table
has too few holes (R232, R236). -/
def respreadMoves (s : State) (t : Nat) : Option (List (Nat × Nat)) :=
  let is := List.range (tcamSize s t)
  let used := is.filter (fun i => !rowHole (rowIdx s t i))
  (respreadPlan s t (rfld s R.TCM_TABLE_CFG t 31 16) (used.map (rowIdx s t)) is).map (fun plan =>
    let moves := used.zip (plan.map (·.1))
    (moves.filter (fun m => decide (m.1 < m.2))).reverse ++ moves.filter (fun m => decide (m.2 < m.1)))

/-- Respread (R232, R236): its moves, or the refusal. -/
def tcamRespread (c : TcamCmd) (s : State) : Except Nat (List (Nat × Nat)) :=
  if tcamValid c s = false ∨ rfld s R.TCM_TABLE_CFG c.table 31 16 = 0 then .error 8
  else match respreadMoves s c.table with
    | none => .error 4
    | some moves => .ok moves

/-- A command other than a move and a respread carried out (R232). -/
def tcamDo (c : TcamCmd) (ev : LookupEvent) (s : State) : Nat × State :=
  if tcamValid c s = false then (8, s)
  else match c.op with
    | 0 => tcamRead c s
    | 1 => tcamWrite c s
    | 2 => tcamDelete c s
    | 4 => tcamFindHole c s
    | 5 => tcamSearch c ev s
    | _ => tcamWithdraw c s

/-- Update slots a command takes (R229). -/
def slotsUsed (op : Nat) : Nat := match op with | 1 => 1 | 2 => 1 | 3 => 2 | 6 => 1 | _ => 0

/-- A change of the flags of every row. -/
def mapRows (f : TRow → TRow) (s : State) : State :=
  withTcam (fun x => { x with rows := mmap x.rows (fun _ r =>
    let y := normRow (f r)
    if y = TRow.empty then none else some y) }) s

/-- Discard the pending versions of rows that an abandoned epoch left (R67). -/
def tcamDrop (s : State) : State :=
  if s.tcam.abandoned then withTcam (fun x => { x with abandoned := false }) (mapRows (fun x => { x with pset := false }) s)
  else s

/-- A command waits for a respread to end: one of the same table other than read, find hole or search (R236), and a second
respread. -/
def tcamHeld (c : TcamCmd) (s : State) : Bool :=
  match s.tcam.resp with
  | some j => decide (c.op = 7) || (decide (j.table = c.table) && decide (c.op ≠ 0 ∧ c.op ≠ 4 ∧ c.op ≠ 5))
  | none => false

/-- A command is taken up. One that names the pending epoch is taken into it at once (R235). A move that is not refused
writes its destination now and its source later (R234). A respread that is not refused has its moves before it; it needs
the control sequencers (R199). -/
def tcamTake (c : TcamCmd) (s : State) : State :=
  if c.op = 3 then
    match if tcamValid c s then tcamMoveRefusal c s else some 8 with
    | some r => withTcam (fun x => { x with preResult := some r }) s
    | none =>
      let (b, r) := rowAt s c.table c.idx
      withTcam (fun x => { x with moveSrc := some (4096 * b + r) })
        (setRowIdx c.table c.nidx (rowIdx s c.table c.idx) s)
  else if c.op = 7 then
    let s := if s.csq.given.any (fun e => decide (e.1 = .respread)) then s else giveDuty .respread 12 13 s
    if dutyDown s .respread then s
    else
      match tcamRespread c s with
      | .error r => withTcam (fun x => { x with preResult := some r }) (endDuty .respread s)
      | .ok ms => withTcam (fun x => { x with resp := some ⟨c.table, ms, false, 1⟩, second := false }) s
  else if (c.epoch = true ∧ (c.op = 1 ∨ c.op = 2)) ∨ c.op = 6 then
    let r := tcamDo c .clean (tcamDrop s)
    withTcam (fun x => { x with preResult := some r.1 }) r.2
  else s

/-- GO with an operation: ignored while a command runs (R199, R231), but for one further command while a respread runs
(R236). -/
def tcamStart (op : Nat) (v : Word) (s : State) : State :=
  if rbit s R.TCM_CMD 0 63 && (s.tcam.resp.isNone || s.tcam.second) then s
  else
    let s := rset s R.TCM_CMD 0 (setFld (setFld (storeVal s false R.TCM_CMD 0 v) 51 48 op) 63 63 1)
    let s := withTcam (fun x => { x with second := s.tcam.resp.isSome }) s
    let c := tcamCmd s
    if tcamHeld c s then s else tcamTake c s

/-- TCAM_READ (R232). -/
def execTcamRead (v : Word) (s : State) : Out := .next (tcamStart 0 v s)
/-- TCAM_WRITE (R232). -/
def execTcamWrite (v : Word) (s : State) : Out := .next (tcamStart 1 v s)
/-- TCAM_DELETE (R232). -/
def execTcamDelete (v : Word) (s : State) : Out := .next (tcamStart 2 v s)
/-- TCAM_MOVE (R232, R234). -/
def execTcamMove (v : Word) (s : State) : Out := .next (tcamStart 3 v s)
/-- TCAM_FIND_HOLE (R232). -/
def execTcamFindHole (v : Word) (s : State) : Out := .next (tcamStart 4 v s)
/-- TCAM_SEARCH (R232). -/
def execTcamSearch (v : Word) (s : State) : Out := .next (tcamStart 5 v s)
/-- TCAM_WITHDRAW (R232). -/
def execTcamWithdraw (v : Word) (s : State) : Out := .next (tcamStart 6 v s)
/-- TCAM_RESPREAD (R232, R236). -/
def execTcamRespread (v : Word) (s : State) : Out := .next (tcamStart 7 v s)

/-- RESULT set, and BUSY cleared unless a respread still runs; the update slots of a command that was not refused are
counted. -/
def tcamEnd (res : Nat) (s : State) : State :=
  let s := if res = 1 then occur 5 3 0 (slotsUsed (rfld s R.TCM_CMD 0 51 48)) s else s
  withTcam (fun x => { x with preResult := none, moveSrc := none, second := false })
    (rsetF (rsetF s R.TCM_CMD 0 62 59 res) R.TCM_CMD 0 63 63 s.tcam.resp.isSome.toNat)

/-- The end of the command that TCM_CMD holds: its effect and its RESULT; a move's source becomes a hole; a read that
meets an uncorrectable shadow error loads zeros with RESULT 5; a respread that has waited for the control sequencers
starts. -/
def tcamFinish (ev : LookupEvent) (s : State) : State :=
  match s.tcam.preResult, s.tcam.moveSrc with
  | some r, _ => tcamEnd r s
  | none, some k => tcamEnd 1 (setRow (k / 4096) (k % 4096) TRow.empty s)
  | none, none =>
    let c := tcamCmd s
    let ecc := match ev with | .shadowBad _ _ => true | _ => false
    if c.op = 7 then tcamTake c s
    else if ecc = true ∧ c.op = 0 ∧ tcamValid c s = true ∧ (versionView s c.version).isSome = true then
      let (b, r) := rowAt s c.table c.idx
      let s := tcamEvent 2 b r 2 (quarantine b r s)
      let s := rset s R.TCM_CMD_ATTR 0 (at_ 1 63)
      tcamEnd 5 (rset (load320 R.TCM_CMD_MASK 0 (load320 R.TCM_CMD_KEY 0 s)) R.TCM_CMD_ASSOC 0 0)
    else
      let r := tcamDo c ev s
      tcamEnd r.1 r.2

/-- A respread whose last move is done ends with its RESULT; a command that it held is then taken up, and the RESULT of the
respread is not shown: DESIGN CHOICE (log 60), since one RESULT stands for two commands. -/
def respreadEnd (res : Nat) (s : State) : State :=
  let s := withTcam (fun x => { x with resp := none }) (endDuty .respread s)
  if s.tcam.second then tcamTake (tcamCmd s) (withTcam (fun x => { x with second := false }) s)
  else rsetF (rsetF s R.TCM_CMD 0 62 59 res) R.TCM_CMD 0 63 63 0

/-- A command that names the pending epoch and is held by a respread is taken into it before a commit is judged (R204,
R235). -/
def tcamHeldTake (s : State) : State :=
  let c := tcamCmd s
  if rbit s R.TCM_CMD 0 63 && s.tcam.second && s.tcam.preResult.isNone && tcamHeld c s &&
      ((c.epoch && decide (c.op = 1 ∨ c.op = 2)) || decide (c.op = 6)) then tcamTake c s else s

/-- TCAM_COMMAND_DONE (R231 to R236): the end of the command in TCM_CMD where it can end, otherwise that of a respread whose
moves are done. -/
def execTcamCommandDone (ev : LookupEvent) (s : State) : Out :=
  if rbit s R.TCM_CMD 0 63 then
    match s.tcam.resp with
    | none => .next (tcamFinish ev s)
    | some j =>
      if s.tcam.second && !tcamHeld (tcamCmd s) s then .next (tcamFinish ev s)
      else if j.moves = [] then .next (respreadEnd j.res s)
      else .next s
  else .next s

/-- A respread writes one destination or clears one source on each tick, as a move does (R234, R236), and pauses with the
control sequencers. A move goes into a hole that the row may stand in (R238, R241); where a change of the table meanwhile
forbids the next move, or has taken one of its two rows, the rest is planned afresh (log 60). -/
def respreadStep (s : State) : State :=
  match s.tcam.resp with
  | none => s
  | some j =>
    let replan : State := withTcam (fun x => { x with resp := some (match respreadMoves s j.table with
      | some ms => { j with moves := ms, half := false }
      | none => { j with moves := [], half := false, res := 4 }) }) s
    match j.moves with
    | [] => s
    | (a, b) :: rest =>
      let x := rowIdx s j.table a
      if dutyDown s .respread then s
      else if j.half then
        if indexOk s j.table a && indexOk s j.table b then
          withTcam (fun y => { y with resp := some { j with moves := rest, half := false } })
            (setRowIdx j.table a TRow.empty (occur 5 3 0 1 s))
        else replan
      else if indexOk s j.table a && !rowHole x && freeIdx s j.table b && pfFits s j.table b x.key x.mask then
        withTcam (fun y => { y with resp := some { j with half := true } }) (setRowIdx j.table b x (occur 5 3 0 1 s))
      else replan

/-- What a new tick brings to the TCAM. -/
def tcamTick (s : State) : State := respreadStep (tcamDrop s)

/-! ### Tables and banks -/

/-- A bank may serve a table of a width: free, of that width (R222). -/
def bankFits (s : State) (b w : Nat) : Bool := decide (bankState s b = 0) && decide (rfld s R.TCM_BANK_CFG b 1 0 = w)

/-- A spare may be held for a table: free, of its width, outside its run (R222). -/
def spareFits (s : State) (t b : Nat) : Bool := bankFits s b (tcamWidth s t) && !inTable s t b

/-- The banks of a table's run. -/
def tableBanks (s : State) (t : Nat) : List Nat := (List.range (tcamBanks s t)).map (fun i => tcamFirst s t + i)

/-- SPARE of a table, if one is held (R221). -/
def spareOf (s : State) (t : Nat) : Option Nat :=
  if rbit s R.TCM_TABLE_CFG t 39 then some (rfld s R.TCM_TABLE_CFG t 45 40) else none

/-- EN of a table taken up: its banks take STATE 1 and its spare STATE 2, or the enable is refused with a violation
record (R222). -/
def tcamEnable (t : Nat) (s : State) : State :=
  let ok := (tableBanks s t).all (fun b => bankFits s b (tcamWidth s t)) &&
    (match spareOf s t with | some b => spareFits s t b | none => true)
  if ok then
    let s := rsetF s R.TCM_TABLE_CFG t 63 63 1
    let s := (tableBanks s t).foldl (fun s b => setBankState b 1 s) s
    match spareOf s t with
    | some b => setBankState b 2 s
    | none => s
  else cfgViolation 5 (regAddr R.TCM_TABLE_CFG t) s

/-- The two places of each row that a move or a respread has written and not yet cleared: source and destination (R234). -/
def midMoves (s : State) : List (Nat × Nat) :=
  let key (t i : Nat) : Nat := 4096 * (rowAt s t i).1 + (rowAt s t i).2
  (match s.tcam.moveSrc with | some k => [(k, key (tcamCmd s).table (tcamCmd s).nidx)] | none => []) ++
    (match s.tcam.resp with
      | some j => (match j.half, j.moves with | true, (a, b) :: _ => [(key j.table a, key j.table b)] | _, _ => [])
      | none => [])

/-- The pending and the previous versions that are lost with the rows of some banks: a row in mid-move counts once, where
both its places are among them. -/
def lostVersions (s : State) (p : Nat → Bool) : Nat × Nat :=
  let ms := midMoves s
  let mine := s.tcam.rows.filter (fun e => p (e.1 / 4096) &&
    !ms.any (fun m => decide (e.1 = m.1) || (decide (e.1 = m.2) && !p (m.1 / 4096))))
  ((mine.filter (fun e => e.2.pset)).length, (mine.filter (fun e => e.2.vset)).length)

/-- A write of TCM_TABLE_CFG while EN is 1: SPARE, SPARE_EN and HOLE_SPACING are stored; a SPARE_EN of 1 that fails
the check of R222 leaves SPARE and SPARE_EN with a violation record. -/
def tcamCfgLive (t : Nat) (v : Word) (s : State) : State :=
  let new := storeVal s false R.TCM_TABLE_CFG t v
  let s := rsetF s R.TCM_TABLE_CFG t 31 16 (fld new 31 16)
  let old := spareOf s t
  let want := if bit new 39 then some (fld new 45 40) else none
  if want = old then rsetF s R.TCM_TABLE_CFG t 45 40 (fld new 45 40)
  else match want with
    | some b =>
      if spareFits s t b then
        let s := match old with | some o => setBankState o 0 s | none => s
        setBankState b 2 (rsetF (rsetF s R.TCM_TABLE_CFG t 45 40 b) R.TCM_TABLE_CFG t 39 39 1)
      else cfgViolation 5 (regAddr R.TCM_TABLE_CFG t) s
    | none =>
      let s := match old with | some o => setBankState o 0 s | none => s
      rsetF (rsetF s R.TCM_TABLE_CFG t 45 40 (fld new 45 40)) R.TCM_TABLE_CFG t 39 39 0

/-- The rows of a bank leave every search; the versions they held are no longer counted (R245). A row in mid-move stands
twice and is counted once, with the copy that is lost last. The manual does not say that PEND_COUNT and PREV_COUNT fall or
when the shadow storage is free: both at once, DESIGN CHOICE (log 60). -/
def dropBankRows (b : Nat) (s : State) : State :=
  let n := lostVersions s (fun d => decide (d = b))
  let s := { s with tau := { s.tau with pendCount := s.tau.pendCount - n.1, prevCount := s.tau.prevCount - n.2 } }
  withTcam (fun x => { x with rows := x.rows.filter (fun e => decide (e.1 / 4096 ≠ b)) }) s

/-- Banks that wait for an exchange with a spare their table no longer has are retired as those of a table without one
(R245). -/
def lostSpares (s : State) : State :=
  let gone := s.tcam.sparing.filter (fun e => tcamEn s e.2 && (spareOf s e.2).isNone)
  let s := withTcam (fun x => { x with sparing := x.sparing.filter (fun e => !gone.contains e) }) s
  gone.foldl (fun s e => setBankState e.1 3 (dropBankRows e.1 (endDuty (.spareCopy e.1) s))) s

/-- TCAM_TABLE_ENABLE (R222): a write that sets EN. Banks that are being cleared are not free. -/
def execTcamTableEnable (t : TcamTable) (v : Word) (s : State) : Out :=
  if tcamEn s t.val then .next (lostSpares (tcamCfgLive t.val v s))
  else .next (tcamEnable t.val (hostStore false R.TCM_TABLE_CFG t.val v s))

/-- Rows of a table that are listed. -/
def tableRows (s : State) (t : Nat) : SMap TRow := s.tcam.rows.filter (fun e => inTable s t (e.1 / 4096))

/-- TCAM_TABLE_DISABLE (R222): the pending and previous versions of the table's rows are discarded, and the clearing
starts. -/
def execTcamTableDisable (t : TcamTable) (v : Word) (s : State) : Out :=
  if tcamEn s t.val then
    let s := lostSpares (tcamCfgLive t.val v (tcamDrop s))
    let cfg := rget s R.TCM_TABLE_CFG t.val
    let s := rsetF s R.TCM_TABLE_CFG t.val 63 63 0
    let n := lostVersions s (inTable s t.val)
    let s := { s with tau := { s.tau with pendCount := s.tau.pendCount - n.1, prevCount := s.tau.prevCount - n.2,
                                          reclaim := s.tau.reclaim + n.1 + n.2 } }
    let s := (tableRows s t.val).foldl (fun s e =>
      setRow (e.1 / 4096) (e.1 % 4096) { e.2 with pset := false, vset := false } s) s
    .next (giveDuty (.tcamClear t.val) 12 13 (withTcam (fun x => { x with
      clr := x.clr ++ [⟨t.val, cfg, 0, n.1 + n.2, none⟩]
      resp := x.resp.map (fun j => if j.table = t.val then { j with moves := [], half := false } else j) }) s))
  else .next (hostStore false R.TCM_TABLE_CFG t.val v s)

/-- A bank returns to STATE 0 unless it has been retired; one that waited for an exchange is retired now. -/
def freeBank (b : Nat) (s : State) : State :=
  if bankState s b = 3 then s
  else if s.tcam.sparing.any (fun e => decide (e.1 = b)) then
    setBankState b 3 (withTcam (fun x => { x with sparing := x.sparing.filter (fun e => decide (e.1 ≠ b)) })
      (endDuty (.spareCopy b) s))
  else setBankState b 0 s

/-- The banks of a table's run by its configuration word, and its spare. -/
def cfgBanks (w : Word) : List Nat := (List.range (fld w 54 48)).map (fun i => fld w 61 56 + i)

/-- TCAM_TABLE_CLEAR_DONE (R222): the rows of the table as it was disabled are gone, each by an update slot (R229), its banks
and spare are free, and its shadow storage is reclaimed; not while the control sequencers restart. -/
def execTcamTableClearDone (t : TcamTable) (s : State) : Out :=
  if dutyDown s (.tcamClear t.val) then .next s else
  match takeFirst (fun j => decide (j.table = t.val)) s.tcam.clr with
  | none => .next s
  | some (j, rest) =>
    let s := withTcam (fun x => { x with
      clr := rest, rows := x.rows.filter (fun e => !(cfgBanks j.cfg).contains (e.1 / 4096)) }) s
    let s := (cfgBanks j.cfg).foldl (fun s b => freeBank b s) s
    let s := if bit j.cfg 39 then freeBank (fld j.cfg 45 40) s else s
    let s := occur 5 3 0 (fld j.cfg 54 48 * bankEntries (fld j.cfg 47 46)) s
    .next (endDuty (.tcamClear t.val) { s with tau := { s.tau with reclaim := s.tau.reclaim - j.storage } })

/-- The scrub sweep covers a bank: it serves a table, or is a spare. -/
def scrubbed (s : State) (b : Nat) : Bool := decide (bankState s b = 1 ∨ bankState s b = 2)

/-- The next row of the scrub sweep, which takes the rows of those banks in turn (R242). -/
def scrubNext (s : State) : Option Nat :=
  let b := s.tcam.scrubAt / 4096
  if scrubbed s b && decide (s.tcam.scrubAt % 4096 < bankEntries (rfld s R.TCM_BANK_CFG b 1 0)) then some s.tcam.scrubAt
  else (((List.range 64).map (fun i => (b + 1 + i) % 64)).find? (scrubbed s)).map (fun d => 4096 * d)

/-- A row has its turn: ROWS_PER_MS a millisecond of monotonic time, the interval rounded up to whole ticks (R242, log
60). -/
def tcamScrubDue (s : State) : Bool :=
  decide (msTicks ≤ (s.tau.mono - s.tcam.scrubLast) * rfld s R.TCM_SCRUB_CFG 0 19 0)

/-- TCAM_SCRUB_READ (R242, R243): the next row of the sweep is compared with its shadow in its turn; a mismatch is
rewritten, an uncorrectable shadow error quarantines the row. -/
def execTcamScrubRead (b : TcamBank) (row : TcamRow) (r : ScrubResult) (s : State) : Out :=
  if rbit s R.TCM_SCRUB_CFG 0 63 && decide (scrubNext s = some (4096 * b.val + row.val)) && tcamScrubDue s then
    let s := occur 5 3 0 1 (withTcam (fun x => { x with
      scrubAt := 4096 * b.val + row.val + 1, scrubLast := s.tau.mono }) s)
    match r with
    | .clean => .next s
    | .mismatch => .next (tcamEvent 3 b.val row.val 1 (occur 5 3 0 1 s))
    | .uncorrectable => .next (tcamEvent 2 b.val row.val 2 (quarantine b.val row.val s))
  else .next s

/-- The enabled table whose run holds a bank. -/
def tableOfBank (s : State) (b : Nat) : Option Nat :=
  (List.range 16).find? (fun t => tcamEn s t && inTable s t b)

/-- TCAM_BANK_RETIRE (R244, R245): a bank of a table with a spare waits for the exchange; one without loses its rows
and takes STATE 3. -/
def execTcamBankRetire (b : TcamBank) (sw : Bool) (s : State) : Out :=
  if retireDue s 3 b.val sw then
    let s := retireMark 3 b.val sw 0 s
    match tableOfBank s b.val with
    | some t =>
      match spareOf s t with
      | some _ => .next (giveDuty (.spareCopy b.val) 12 13
          (withTcam (fun x => { x with sparing := x.sparing ++ [(b.val, t)] }) s))
      | none => .next (setBankState b.val 3 (dropBankRows b.val s))
    | none =>
      let s := (List.range 16).foldl (fun s t =>
        if spareOf s t = some b.val then rsetF s R.TCM_TABLE_CFG t 39 39 0 else s) s
      .next (lostSpares (setBankState b.val 3 s))
  else .next s

/-- TCAM_SPARE_EXCHANGE (R244): the copy done, the two physical banks change places between the two logical numbers;
the spare number holds the failed bank with STATE 3 and SPARE_EN clears. Each row copied took an update slot (R229);
the control sequencers copy, so not while they restart. The error unit goes on to hold the bank of the table's number as
retired: DESIGN CHOICE (log 60). -/
def execTcamSpareExchange (t : TcamTable) (s : State) : Out :=
  if !tcamEn s t.val then .next s else
  match takeFirst (fun e => decide (e.2 = t.val) && !dutyDown s (.spareCopy e.1)) s.tcam.sparing, spareOf s t.val with
  | some ((b, _), rest), some sp =>
    let s := endDuty (.spareCopy b) (occur 5 3 0 (bankEntries (tcamWidth s t.val)) s)
    let pb := rfld s R.TCM_BANK_CFG b 53 48
    let ps := rfld s R.TCM_BANK_CFG sp 53 48
    let s := rsetF (rsetF s R.TCM_BANK_CFG b 53 48 ps) R.TCM_BANK_CFG sp 53 48 pb
    let s := rsetF (setBankState sp 3 s) R.TCM_TABLE_CFG t.val 39 39 0
    .next (lostSpares (withTcam (fun x => { x with sparing := rest }) s))
  | _, _ => .next s

/-- The flags of a row after a successful commit (R227). -/
def rotateRow (x : TRow) : TRow :=
  if x.pset then { x with v := x.c, vset := true, c := x.p, pset := false } else { x with vset := false }

end Sys2Proof.Machine
end

