-- ==== Sys2Proof/Machine/Csq.lean ====
section
/-! DEFINITION. The control sequencers: microwords and nanowords (R469 to R472), traps and faults (R473 to R475),
patch switching (R477), and the service requests (R480 to R482). -/

namespace Sys2Proof.Machine
open Sys2Proof

/-- The control sequencers changed. -/
def withCsq (f : Csq → Csq) (s : State) : State := { s with csq := f s.csq }

/-- A sequencer. -/
def seqOf (s : State) (q : Nat) : SeqSt := mget SeqSt.init s.csq.seqs q

/-- A sequencer replaced. -/
def setSeq (q : Nat) (x : SeqSt) (s : State) : State :=
  withCsq (fun c => { c with seqs := mset SeqSt.init c.seqs q x }) s

/-- Duty of a sequencer, in the row order of R468. -/
def dutyOf (q : Nat) : Nat :=
  [0, 0, 1, 1, 2, 2, 3, 4, 5, 5, 5, 5, 6, 6, 7, 7, 8, 9, 10, 10, 10, 10, 11, 12].getD q 0

/-- CSQ_SEQ_STAT of a sequencer (R479): one that runs while it is asked to stop shows STATE 3. -/
def seqStatWord (s : State) (q : Nat) : Word :=
  let x := seqOf s q
  let st := if x.st = 1 ∧ rfld s R.CSQ_ACT 0 63 61 = 2 then 3 else x.st
  BitVec.ofNat 64 (st * 2 ^ 61 + dutyOf q * 2 ^ 56 + x.upc % 2 ^ 15 * 2 ^ 41 + x.traps * 2 ^ 16 + x.faults)

/-! ### The control store (R469 to R471) -/

/-- The microword at an address, from the patch RAM in force or the ROM. -/
def storeWord (s : State) (a : Nat) : Word :=
  if 0x4000 ≤ a ∧ a ≤ 0x4FFF then mget 0 s.csq.micro (s.csq.bankB.toNat * 4096 + (a - 0x4000)) else Config.microRom a

/-- The microword a sequencer fetches at an address, a redirect entry of the patch in force first (R469). -/
def microAt (s : State) (a : Nat) : Word :=
  match mfind s.csq.redir (s.csq.bankB.toNat * 2 ^ 15 + a) with
  | some t => storeWord s t
  | none => storeWord s a

/-- The nanoword of a number. -/
def nanoAt (s : State) (n : Nat) : BitVec 96 :=
  if 0xC00 ≤ n then mget 0 s.csq.nano (s.csq.bankB.toNat * 1024 + (n - 0xC00)) else Config.nanoRom n

/-- Bits `[hi:lo]` of a nanoword. -/
def nfld (w : BitVec 96) (hi lo : Nat) : Nat := w.toNat >>> lo % 2 ^ (hi + 1 - lo)

/-- A scratch register. -/
def sreg (x : SeqSt) (i : Nat) : Word := mget 0 x.regs i

/-- A scratch register written; there are 32. -/
def setSreg (x : SeqSt) (i : Nat) (v : Word) : SeqSt := if i < 32 then { x with regs := mset 0 x.regs i v } else x

/-- The interval of COND 8 begins anew where s31 is one of the registers written (R470): from when it counts the manual does
not say, DESIGN CHOICE (log 37). -/
def noteIval (now : Nat) (rs : List Nat) (x : SeqSt) : SeqSt := if rs.contains 31 then { x with ival := now } else x

/-! ### The datapath (R471) -/

/-- The ALU's result on A and B, where it has one, and its carry. What the manual does not define, the carry of
every operation but add, shifts of 64 or more and the CRC step, is a free function of the operands (log 3). -/
def seqAlu (op : Nat) (a b : Word) : Word × Bool :=
  let free (k : Nat) : Nat := Config.freeNat k (op * 2 ^ 128 + a.toNat * 2 ^ 64 + b.toNat)
  let c := (free 17).testBit 0
  match op with
  | 0 => (a, c)
  | 1 => (a + b, decide (2 ^ 64 ≤ a.toNat + b.toNat))
  | 2 => (a - b, c)
  | 3 => (a &&& b, c)
  | 4 => (a ||| b, c)
  | 5 => (a ^^^ b, c)
  | 6 => (if b.toNat < 64 then a <<< b.toNat else BitVec.ofNat 64 (free 18), c)
  | 7 => (if b.toNat < 64 then a >>> b.toNat else BitVec.ofNat 64 (free 18), c)
  | 8 => (a - b, c)
  | 9 => (BitVec.ofNat 64 (free 18), c)
  | 10 => (BitVec.ofNat 64 ((List.range 64).countP (fun i => bit a i)), c)
  | 11 => (if a.toNat ≤ b.toNat then a else b, c)
  | _ => (if a.toNat ≤ b.toNat then b else a, c)

/-- A step's ALU operation, its conditions and its flag write. -/
def seqData (x : SeqSt) (n : BitVec 96) (imm : Nat) : SeqSt :=
  let op := nfld n 95 92
  let b := if n.toNat.testBit 76 then BitVec.ofNat 64 imm else sreg x (nfld n 86 82)
  let r := seqAlu op (sreg x (nfld n 91 87)) b
  let z := decide (op < 13) && decide (r.1 = 0)
  let x := if op < 13 then
      { (if op = 8 then x else setSreg x (nfld n 81 77) r.1) with zf := z, cf := r.2, nf := bit r.1 63 }
    else x
  let f := nfld n 51 48
  let put (v : Bool) : SeqSt := { x with flags := (setBit (BitVec.ofNat 64 x.flags) f v).toNat }
  match nfld n 53 52 with
  | 1 => put true
  | 2 => put false
  | 3 => put z
  | _ => x

/-- The registers a step reads or writes. -/
def seqUses (n : BitVec 96) : List Nat :=
  (if nfld n 95 92 < 13 then [nfld n 91 87, nfld n 81 77] ++ (if n.toNat.testBit 76 then [] else [nfld n 86 82]) else []) ++
  (if 0 < nfld n 75 72 ∧ nfld n 75 72 < 13 then
    nfld n 63 59 :: (List.range (nfld n 69 64 + 1)).map (fun i => nfld n 58 54 + i) else [])

/-- Registers of the bursts that are pending, reads or writes (R472). -/
def seqPending (x : SeqSt) : List Nat :=
  x.pend.flatMap (fun p => (List.range p.burst).map (fun i => p.dreg + i))

/-- A step must wait for a pending register, or for a free place among four pending accesses (R472). -/
def seqStalls (x : SeqSt) (n : BitVec 96) : Bool :=
  (seqUses n).any (fun r => (seqPending x).contains r) ||
    (decide (0 < nfld n 75 72 ∧ nfld n 75 72 < 13) && decide (4 ≤ x.pend.length))

/-- The word that a read-modify-write stores, of the word it read, the burst's word and CONST: the manual does not say how it
modifies, so a free function of them (log 37). -/
def portModify (old w : Word) (const : Nat) : Word :=
  BitVec.ofNat 64 (Config.freeNat 19 (const * 2 ^ 128 + old.toNat * 2 ^ 64 + w.toNat))

/-- The words a port access stores over those it found: none for a read. -/
def portStores (pop const : Nat) (old ws : List Word) : Option (List Word) :=
  match pop with
  | 0 => none
  | 2 => some ((old.zip ws).map (fun e => portModify e.1 e.2 const))
  | _ => some ws

/-- The port access of a step (R471); the sequencer's own scratch SRAM, of 8,192 words at byte addresses, takes a write
at once. -/
def seqPort (x : SeqSt) (n : BitVec 96) (elastic : Bool) : SeqSt :=
  let p := nfld n 75 72
  if 0 < p ∧ p < 13 then
    let m := nfld n 69 64 + 1
    let a := sreg x (nfld n 63 59)
    let d := nfld n 58 54
    let ws := (List.range m).map (fun i => sreg x (d + i))
    let old := (List.range m).map (fun i => mget 0 x.sram ((a.toNat / 8 + i) % 8192))
    let acc : PortAcc := ⟨x.upc, p, nfld n 71 70, m, a, d, nfld n 39 8, if p = 11 then old else ws, elastic⟩
    let sram := match if p = 11 then portStores acc.pop acc.const old ws else none with
      | some vs => (vs.zipIdx).foldl (fun r e => mset 0 r ((a.toNat / 8 + e.2) % 8192) e.1) x.sram
      | none => x.sram
    { x with pend := x.pend ++ [acc], sram := sram }
  else x

/-- The duty of a sequencer has no request for it, waiting or in hand (R468, R470). What counts as a request of each duty the
manual leaves to its chapters: DEDUCED (log 37). -/
def dutyEmpty (s : State) (q : Nat) : Bool :=
  let lkpWork (trie : Bool) : Bool := rbit s R.LKP_CMD 0 63 && needsSeq (lkpCmd s) s && decide ((lkpCmd s).kind = 2) == trie
  match dutyOf q with
  | 0 => s.mcd.run.isNone && s.mcd.change.isNone
  | 1 => s.mch.run.isNone && s.mch.change.isNone
  | 2 => s.lkp.learnQ.all (fun l => decide (l.seq ≠ q))
  | 3 => (List.range 68).all (fun t => !sweepDue s t)
  | 4 => !lkpWork false && s.lkp.clr.isEmpty
  | 5 => !lkpWork true && s.lkp.pfxJob.isNone
  | 6 | 7 => s.csq.given.all (fun e => decide (e.2 ≠ q))
  | 8 => (List.range 32).all (fun o => (mget Otn.init s.liu.otn o).pmWait.isEmpty)
  | 9 => decide (s.tau.reclaim = 0) && decide (s.tau.prevState ≠ 2)
  | 10 => (seqOf s q).queue.isEmpty
  | 11 => s.err.crossed.isEmpty && s.err.toRetire.isEmpty
  | _ => decide (rfld s R.CSQ_ACT 0 63 61 = 0)

/-- COND of R470. The event inputs of a duty are free values (log 3). -/
def seqCond (s : State) (q : Nat) (x : SeqSt) (c : Nat) : Bool :=
  match c with
  | 0 => true
  | 1 => x.zf
  | 2 => x.cf
  | 3 => x.nf
  | 4 => x.perr
  | 5 => x.pcorr
  | 6 => dutyEmpty s q
  | 7 => decide (rfld s R.CSQ_ACT 0 63 61 = 2)
  | 8 => decide (x.ival + (sreg x 31).toNat ≤ s.tau.mono)
  | _ => if c < 16 then bit (Config.freeWord s.freeCtr) 0 else x.flags.testBit (c - 16)

/-- A COND draws a free value. -/
def condDraws (c : Nat) : Bool := decide (9 ≤ c ∧ c < 16)

/-! ### Traps and faults (R473 to R475) -/

/-- A request taken out of its sequencer's queue; one left with none is idle. -/
def unassign (k : Nat) (s : State) : State :=
  withCsq (fun c => { c with seqs := mmap c.seqs (fun _ x => some (
    let l := x.queue.filter (fun j => decide (j ≠ k))
    { x with queue := l, st := if x.queue ≠ [] ∧ l = [] ∧ x.st = 1 then 0 else x.st })) }) s

/-- A service request ends: BUSY 0, RESULT, its CSQ_REQ_DONE bit and the CSQ interrupt (R480). -/
def svcEnd (k result : Nat) (s : State) : State :=
  let s := unassign k (withCsq (fun c => { c with reqs := c.reqs.filter (fun r => decide (r.slot ≠ k)) }) s)
  let s := rsetF (rsetF s R.CSQ_REQ_CTL k 63 63 0) R.CSQ_REQ_CTL k 62 59 result
  let s := rsetF s R.CSQ_REQ_STAT k 63 63 0
  intRaise 10 (rset s R.CSQ_REQ_DONE 0 (setBit (rget s R.CSQ_REQ_DONE 0) k true))

/-- A sequencer faults (R475): FAULTS adds one; the sixteenth within a second makes it stay faulted. -/
def seqFault (q : Nat) (s : State) : State :=
  let x := seqOf s q
  let ts := x.faultAt.filter (fun t => decide (s.tau.mono < t + 1000 * msTicks)) ++ [s.tau.mono]
  let x := { x with st := 5, faults := satAdd 16 x.faults 1, faultAt := ts, dead := decide (16 ≤ ts.length), pend := [],
                    wait := 0 }
  errReport 7 13 15 0 8 (BitVec.ofNat 64 q) (setSeq q x s)

/-- What every trap of a sequencer leaves (R474): it is counted and shown in CSQ_TRAP_LAST, and codes 1, 3, 5 and 6
are reported. -/
def seqTrapSeen (q code upc : Nat) (s : State) : State :=
  let x := seqOf s q
  let s := rset s R.CSQ_TRAP_LAST 0 (BitVec.ofNat 64 (q * 2 ^ 59 + code * 2 ^ 56 + upc % 2 ^ 15 * 2 ^ 41 +
    phcSec (phcNow s) % 2 ^ 32))
  let s := occur 13 1 code 1 s
  let s := if code = 1 ∨ code = 3 ∨ code = 5 ∨ code = 6 then
      errReport 7 13 15 0 code (BitVec.ofNat 64 q) s else s
  setSeq q { x with traps := satAdd 16 x.traps 1 } s

/-- A trap of a sequencer (R473, R474): a trap within a handler, or one of code 5 or 6, faults the sequencer; otherwise
the handler runs at the cause's vector from the next clock, and accesses still pending no longer end the step. A later cause
of the clock of the trap is kept beside it: causes come in ascending code. -/
def seqTrap (q code upc vector : Nat) (s : State) : State :=
  let x := seqOf s q
  let loose := x.pend.map (fun p => { p with elastic := false })
  match x.saved with
  | some v =>
    if v.tick / 2 = s.tau.mono / 2 then
      setSeq q { x with saved := some { v with rest := v.rest ++ [(code, upc, vector)] }, pend := loose } s
    else seqFault q (seqTrapSeen q code upc s)
  | none =>
    let s := seqTrapSeen q code upc s
    let s := setSeq q { seqOf s q with
      st := 2, saved := some ⟨upc, code, s.tau.mono, []⟩, pend := loose, upc := vector, wait := 0,
      since := (s.tau.mono / 2 + 1) * 2 } s
    if code = 5 ∨ code = 6 then seqFault q s else s

/-! ### Microwords (R470 to R472) -/

/-- Even parity of a microword (R470). -/
def parityOk (w : Word) : Bool := decide ((List.range 64).countP (fun i => bit w i) % 2 = 0)

/-- Ticks that a step holds its sequencer for from its start: CYC clocks of two ticks, and one clock for an elastic step
without a port (R472). -/
def stepTicks (w : Word) : Nat := 2 * max 1 (fld w 25 22)

/-- A return of a port access of a sequencer: it comes before the sequencer's step on its tick (R472). -/
def isReturn (q : Nat) (i : Instr) : Bool :=
  match i with
  | .portAccessReturn p .. => decide (p.val = q)
  | _ => false

/-- The memory behind a port of R471. -/
def portMem (p : Nat) : Option MemCtl := if p = 4 then some .mcd else if p = 5 then some .mch else none

/-- First byte of an access to memory: its address is one of bytes, of whole words. -/
def portAddr (a : Word) : Nat := a.toNat % 2 ^ 41 / 8 * 8

/-- The accesses of a step to DDR5 or HBM3E reach the controller (R373). -/
def portAsk (old : List PortAcc) (new : SeqSt) (s : State) : State :=
  (new.pend.drop old.length).foldl (fun s p =>
    match portMem p.port with
    | some m => (runAddrs (portAddr p.addr) (8 * p.burst)).foldl (fun s a => memQueue m (decide (p.pop = 1)) a s) s
    | none => s) s

/-- One microword: where it is of the sequencing the row names, the step before it has ended, the sequencer runs and nothing
it needs is pending, its nanoword takes effect and `next` decides what follows. An elastic step first issues its access
and takes effect once that has returned. It comes after the returns of its tick. A microword of bad
parity faults the sequencer: the store holds one word for both copies, so the duplicate fails as well (R473, log 37). -/
def micro (q : Nat) (seqs : List Nat) (gate : SeqSt → Word → Bool) (next : Word → State → State) (s : State) : State :=
  let x := seqOf s q
  let w := microAt s x.upc
  let n := nanoAt s (fld w 37 26)
  if x.st = 4 ∨ x.st = 5 ∨ seqs.contains (fld w 62 59) = false ∨ s.tau.mono < x.since ∨
      comes s (isReturn q) = true then s
  else if parityOk w = false then seqFault q (seqTrapSeen q 0 x.upc s)
  else if gate x w = false then s
  else
    let port := decide (0 < nfld n 75 72 ∧ nfld n 75 72 < 13)
    let elastic := port && decide (fld w 25 22 = 0)
    let x := { x with st := if x.st = 0 then 1 else x.st }
    if x.wait = 1 then s
    else if x.wait = 0 && seqStalls x n then s
    else if elastic && decide (x.wait = 0) then
      let y := seqPort x n true
      portAsk x.pend y (setSeq q { y with wait := 1, since := s.tau.mono } s)
    else
      let y := { (if elastic then x else seqPort x n false) with
        wait := 0, since := if elastic then s.tau.mono else s.tau.mono + stepTicks w }
      let d := if nfld n 95 92 < 13 ∧ nfld n 95 92 ≠ 8 then [nfld n 81 77] else []
      let s := portAsk x.pend y (setSeq q (noteIval s.tau.mono d (seqData y n (fld w 21 0))) s)
      let s := if nfld n 47 40 = 0 then s else emit (.seqEvent q (nfld n 47 40)) s
      next w s

/-- The micro-PC of a sequencer set. -/
def setUpc (q a : Nat) (s : State) : State := setSeq q { seqOf s q with upc := a % 2 ^ 15 } s

/-- The micro-PC of a sequencer advances by one. -/
def nextUpc (q : Nat) (s : State) : State := setUpc q ((seqOf s q).upc + 1) s

/-- Every microword passes. -/
def always (_ : SeqSt) (_ : Word) : Bool := true

/-- MICROWORD_NEXT (R470). -/
def execMicrowordNext (q : Seq) (s : State) : Out := .next (micro q.val [0] always (fun _ s => nextUpc q.val s) s)

/-- MICROWORD_JUMP (R470). -/
def execMicrowordJump (q : Seq) (s : State) : Out :=
  .next (micro q.val [1] always (fun w s => setUpc q.val (fld w 52 38) s) s)

/-- MICROWORD_BRANCH (R470): the condition as the step leaves it. -/
def execMicrowordBranch (q : Seq) (s : State) : Out :=
  .next (micro q.val [2] always (fun w s =>
    let b := seqCond s q.val (seqOf s q.val) (fld w 58 54)
    let s := if condDraws (fld w 58 54) then drawn s else s
    if b != bit w 53 then setUpc q.val (fld w 52 38) s else nextUpc q.val s) s)

/-- MICROWORD_CALL (R470): a ninth push traps with code 6. -/
def execMicrowordCall (q : Seq) (s : State) : Out :=
  .next (micro q.val [3] always (fun w s =>
    let x := seqOf s q.val
    if 8 ≤ x.stack.length then seqTrap q.val 6 x.upc 0x60 s
    else setSeq q.val { x with stack := (x.upc + 1) % 2 ^ 15 :: x.stack, upc := fld w 52 38 } s) s)

/-- MICROWORD_RETURN (R470): an empty stack traps with code 6. -/
def execMicrowordReturn (q : Seq) (s : State) : Out :=
  .next (micro q.val [4] always (fun _ s =>
    let x := seqOf s q.val
    match x.stack with
    | [] => seqTrap q.val 6 x.upc 0x60 s
    | a :: rest => setSeq q.val { x with stack := rest, upc := a } s) s)

/-- MICROWORD_DISPATCH (R470): an empty table is a dispatch beyond it, which traps with code 5 (R473). -/
def execMicrowordDispatch (q : Seq) (s : State) : Out :=
  .next (micro q.val [5] always (fun w s =>
    let x := seqOf s q.val
    if fld w 21 0 = 0 then seqTrap q.val 5 x.upc 0x50 s
    else setUpc q.val (fld w 52 38 + min (fld (sreg x 0) 7 0) (fld w 21 0 - 1)) s) s)

/-- MICROWORD_WAIT (R470): until the condition holds the step repeats with its nanoword inactive. -/
def execMicrowordWait (q : Seq) (s : State) : Out :=
  let c := fld (microAt s (seqOf s q.val).upc) 58 54
  let t := micro q.val [6] (fun x w => seqCond s q.val x (fld w 58 54) != bit w 53) (fun _ s => nextUpc q.val s) s
  .next (if condDraws c then drawn t else t)

/-- MICROWORD_YIELD (R470, R477): the checkpoint names what follows, and the item cursor goes to its place in the scratch
SRAM, a free value there since the manual gives it no layout (log 37); a sequencer asked to stop stops here, unless a trap
handler runs. -/
def execMicrowordYield (q : Seq) (s : State) : Out :=
  .next (micro q.val [7] always (fun _ s =>
    let s := nextUpc q.val s
    let x := seqOf s q.val
    let x := { x with ckpt := x.upc, sram := mset 0 x.sram (Config.cursorAt q.val % 8192) (Config.freeWord s.freeCtr) }
    let s := drawn s
    setSeq q.val (if rfld s R.CSQ_ACT 0 63 61 = 2 ∧ x.saved = none then { x with st := 4 } else x) s) s)

/-- MICROWORD_TRAP (R470, R473): code 7; an undefined SEQ traps with code 5. -/
def execMicrowordTrap (q : Seq) (s : State) : Out :=
  .next (micro q.val [8, 11, 12, 13, 14, 15] always (fun w s =>
    let u := (seqOf s q.val).upc
    if fld w 62 59 = 8 then seqTrap q.val 7 u (0x70 + 16 * fld w 3 0) s else seqTrap q.val 5 u 0x50 s) s)

/-- MICROWORD_RESUME (R473, R474): the saved microword again, which drops the other causes of its clock, or the one after
it, where the next of them is taken first. Accesses that have returned stay returned. With nothing saved the manual gives no
next micro-PC: a free value (log 3). -/
def execMicrowordResume (q : Seq) (s : State) : Out :=
  .next (micro q.val [9] always (fun w s =>
    let x := seqOf s q.val
    match x.saved with
    | some v =>
      let t := setSeq q.val { x with st := 1, saved := none, upc := (v.upc + fld w 0 0) % 2 ^ 15 } s
      match if bit w 0 then v.rest else [] with
      | [] => t
      | (c, u, vec) :: rest =>
        let t := seqTrap q.val c u vec t
        setSeq q.val { seqOf t q.val with saved := (seqOf t q.val).saved.map (fun y => { y with rest := rest }) } t
    | none => drawn (setUpc q.val (Config.freeWord s.freeCtr).toNat s)) s)

/-- A sequencer is done with the request in hand, and takes up the next that waits; a handler that ran is over. -/
def seqNextReq (q : Nat) (s : State) : State :=
  let x := seqOf s q
  setSeq q { x with upc := Config.dutyEntry q % 2 ^ 15, saved := none, st := if x.queue = [] then 0 else 1 } s

/-- MICROWORD_END (R470): the request in hand ends with status IMM[3:0], and the next waiting one is taken. -/
def execMicrowordEnd (q : Seq) (s : State) : Out :=
  .next (micro q.val [10] always (fun w s =>
    seqNextReq q.val (match (seqOf s q.val).queue with
      | k :: _ => svcEnd k (fld w 3 0) s
      | [] => s)) s)

/-- What the return of an access makes of the memory behind its port: the result, the words read, and the state. A write or
an exchange stores its words, each of eight bytes in little-endian order. An access to lost memory reads as an uncorrectable
error, and one that the memory does not hold or before READY is refused: DESIGN CHOICE (log 37). -/
def portMemory (m : MemCtl) (p : PortAcc) (res : PortRes) (s : State) : PortRes × List Word × State :=
  let a := portAddr p.addr
  let n := 8 * p.burst
  if memReady s m = false ∨ memSize s m < a + n ∨ res = .refused then (.refused, [], s)
  else
    let t := memUseRun m a n (decide (p.pop = 1)) s
    let lost := runLost s m a n
    if p.pop ≠ 1 ∧ lost = true then (.uncorrectable, [], lostRead m a t)
    else if p.pop ≠ 1 ∧ res = .uncorrectable then (.uncorrectable, [], eccEvent m a .uncorrectable t)
    else
      let t := if p.pop ≠ 1 ∧ res = .corrected then eccEvent m a .corrected t else t
      let bs := memShow s m a n
      let old := (List.range p.burst).map (fun i => BitVec.ofNat 64 (leNat ((bs.drop (8 * i)).take 8)))
      (res, old, match portStores p.pop p.const old p.data with
        | some vs => memWrite m a (vs.flatMap (fun v => leBytes 8 v.toNat)) t
        | none => t)

/-- The return of an access that the memory behind its port does not serve yet. -/
def portWaits (p : PortAcc) (s : State) : Bool :=
  match portMem p.port with
  | some m => memReady s m && decide (portAddr p.addr + 8 * p.burst ≤ memSize s m) && runWaits s m (portAddr p.addr) (8 * p.burst)
  | none => false

/-- A return that fails as a port read uncorrectable, which comes before one that is refused on the same clock (R473). -/
def readFails (q : Nat) (i : Instr) : Bool :=
  match i with
  | .portAccessReturn p _ _ .uncorrectable => decide (p.val = q)
  | _ => false

/-- PORT_ACCESS_RETURN (R471 to R473): the k-th pending access returns, or traps. Its data are those of the memory behind
ports 4 and 5, of the scratch SRAM, or what the block behind another port answers, whose words the manual does not lay out
(log 37). It waits while its channel holds the request (R383). -/
def execPortAccessReturn (q : Seq) (k : Nat) (data : Words) (res : PortRes) (s : State) : Out :=
  match (seqOf s q.val).pend[k]? with
  | none => .next s
  | some p =>
    if portWaits p s || (decide (res = .refused) && comes s (readFails q.val)) then .next s else
    let (res, data, s) := match portMem p.port with
      | some m => portMemory m p res s
      | none => (res, if p.port = 11 then p.data else data, s)
    let x := seqOf s q.val
    let x := { x with pend := x.pend.eraseIdx k }
    let bad := decide (res = .uncorrectable ∨ res = .refused)
    let x := { x with perr := bad, pcorr := decide (res = .corrected), wait := if p.elastic then (if bad then 0 else 2) else x.wait }
    let rs := if p.pop = 1 ∨ bad = true then [] else List.range p.burst
    let x := noteIval s.tau.mono (rs.map (fun i => p.dreg + i)) (rs.foldl (fun x i => setSreg x (p.dreg + i) (data.getD i 0)) x)
    let s := setSeq q.val x s
    match res with
    | .uncorrectable => .next (seqTrap q.val 1 p.upc 0x10 s)
    | .refused => .next (seqTrap q.val 2 p.upc 0x20 s)
    | _ => .next s

/-- The step of a sequencer is stalled or elastic: it waits for its port, or for what a pending access will load (R472). -/
def seqWaits (s : State) (q : Nat) : Bool :=
  let x := seqOf s q
  decide (x.wait = 1) || (decide (x.wait = 0) && seqStalls x (nanoAt s (fld (microAt s x.upc) 37 26)))

/-- STEP_WATCHDOG (R472, R473): a step has stayed stalled or elastic for 65,536 clocks; returns of its tick come first. -/
def execStepWatchdog (q : Seq) (s : State) : Out :=
  let x := seqOf s q.val
  if seqWaits s q.val = true ∧ x.st ≠ 4 ∧ x.st ≠ 5 ∧ timeUp s (x.since + 131072) = true ∧
      comes s (isReturn q.val) = false then .next (seqTrap q.val 3 x.upc 0x30 s) else .next s

/-- A sequencer starts its duty afresh at a monotonic count, at the start of the item in hand: flags, stack and pending
accesses are cleared, and the scratch SRAM keeps its checkpoint (R469, R471, R475). -/
def seqStart (q now : Nat) (x : SeqSt) : SeqSt :=
  { x with st := if x.queue = [] then 0 else 1, upc := Config.dutyEntry q % 2 ^ 15, flags := 0, stack := [], pend := [],
           wait := 0, saved := none, since := now }

/-- The item in hand of the trie starts again from its first write (R475). -/
def jobRestart (q : Nat) (s : State) : State :=
  if q = 8 then withLkp (fun x => { x with pfxJob := x.pfxJob.map (fun j => { j with next := 0, tick := s.tau.mono }) }) s else s

/-- SEQUENCER_RESTART (R475): a faulted sequencer is reset; a service request in hand ends with RESULT 5, and a prefix change
starts again from its first write. -/
def execSequencerRestart (q : Seq) (s : State) : Out :=
  let x := seqOf s q.val
  if x.st = 5 ∧ x.dead = false then
    let s := match x.queue with | k :: _ => svcEnd k 5 s | [] => s
    .next (jobRestart q.val (setSeq q.val (seqStart q.val s.tau.mono (seqOf s q.val)) s))
  else .next s

/-! ### Patch activation (R477, R478) -/

/-- PATCH_SWITCH (R477, R478): every sequencer has stopped, and the bank in force is switched on one clock: STATE 3. -/
def execPatchSwitch (s : State) : Out :=
  if rfld s R.CSQ_ACT 0 63 61 = 2 ∧
      (List.range 24).all (fun q => decide ((seqOf s q).st = 0 ∨ (seqOf s q).st = 4 ∨ (seqOf s q).st = 5)) = true then
    let old := rfld s R.CSQ_VERSION 0 47 32
    let oldCk := rfld s R.CSQ_VERSION 0 15 8
    let s := rsetF s R.CSQ_VERSION 0 47 32 (rfld s R.CSQ_VERSION 0 31 16)
    let s := rsetF (rsetF s R.CSQ_VERSION 0 31 16 old) R.CSQ_VERSION 0 15 8 s.csq.stagedCkpt
    let s := rcount s R.CSQ_VERSION 0 7 0 1
    .next (rsetF (withCsq (fun c => { c with bankB := !c.bankB, stagedCkpt := oldCk }) s) R.CSQ_ACT 0 63 61 3)
  else .next s

/-- The sequencers that have stopped go on (R477): each from its checkpoint if the two formats agree, and otherwise from the
start of the item its cursor names. -/
def seqsResume (s : State) : State :=
  let same := decide (rfld s R.CSQ_VERSION 0 15 8 = s.csq.stagedCkpt)
  let s := withCsq (fun c => { c with seqs := mmap c.seqs (fun q x => some (
    if x.st ≠ 4 then x
    else if same then { x with st := if x.queue = [] then 0 else 1, upc := x.ckpt, since := s.tau.mono }
    else seqStart q s.tau.mono x)) }) s
  if same then s else jobRestart 8 s

/-- What a new tick brings to the sequencers: refused requests end (R481), a staged patch begins to quiesce, and a switched
one resumes and is then in force, each state lasting one tick: DESIGN CHOICE (R478, log 37). -/
def csqTick (s : State) : State :=
  let s := s.csq.refusals.foldl (fun s k => svcEnd k 3 s) s
  let s := withCsq (fun c => { c with refusals := [] }) s
  let st := rfld s R.CSQ_ACT 0 63 61
  if st = 1 ∧ s.csq.staging = true then
    rsetF (withCsq (fun c => { c with staging := false, quiesceAt := s.tau.mono }) s) R.CSQ_ACT 0 63 61 2
  else if st = 3 then rsetF (seqsResume s) R.CSQ_ACT 0 63 61 4
  else if st = 4 then rsetF (rsetF s R.CSQ_ACT 0 63 61 0) R.CSQ_ACT 0 60 57 1
  else s

/-- QUIESCE_TIMEOUT (R477): 10 ms have passed with a sequencer running; the activation is abandoned. -/
def execQuiesceTimeout (s : State) : Out :=
  if rfld s R.CSQ_ACT 0 63 61 = 2 ∧ timeUp s (s.csq.quiesceAt + 10 * msTicks) = true then
    let s := withCsq (fun c => { c with seqs := mmap c.seqs (fun _ x => some (
      if x.st = 4 then { x with st := if x.queue = [] then 0 else 1, since := s.tau.mono } else x)) }) s
    .next (rsetF (rsetF s R.CSQ_ACT 0 63 61 1) R.CSQ_ACT 0 60 57 4)
  else .next s

/-! ### Service requests (R480 to R482) -/

/-- The memory of a request. -/
def reqMem (r : SvcReq) : MemCtl := if r.hbm then .mch else .mcd

/-- A request moves memory: fill, copy or scan. -/
def reqMoves (r : SvcReq) : Bool := decide (r.svc = 1 ∨ r.svc = 2 ∨ r.svc = 6)

/-- The ranges of memory a request touches. -/
def reqRanges (r : SvcReq) : List (Nat × Nat) :=
  if reqMoves r then (r.addr, r.len) :: (if r.svc = 2 then [(fld r.val 40 0, r.len)] else []) else []

/-- Two requests' ranges overlap. -/
def reqsMeet (a b : SvcReq) : Bool :=
  decide (a.hbm = b.hbm) && (reqRanges a).any (fun x => (reqRanges b).any (fun y =>
    decide (x.1 < y.1 + y.2 ∧ y.1 < x.1 + x.2)))

/-- A request is refused (R481). -/
def reqRefused (s : State) (r : SvcReq) : Bool :=
  let past (a : Nat) : Bool := decide (memSize s (reqMem r) < a + r.len)
  match r.svc with
  | 1 => decide (r.len = 0) || past r.addr
  | 2 => decide (r.len = 0) || past r.addr || past (fld r.val 40 0) ||
      decide (r.addr < fld r.val 40 0 + r.len ∧ fld r.val 40 0 < r.addr + r.len)
  | 3 => !rbit s R.LKP_AGE_CFG (min 67 (r.addr % 128)) 63
  | 5 => s.lkp.lpm.all (fun e => decide (e.1 / 2 ^ 128 / 129 ≠ r.addr % 16))
  | 6 => decide (r.len = 0) || past r.addr
  | _ => false

/-- A request goes to the service sequencer with the fewest waiting, the lowest winning a tie (R468). -/
def assignReq (k : Nat) (s : State) : State :=
  let q := [19, 20, 21].foldl (fun b n => if (seqOf s n).queue.length < (seqOf s b).queue.length then n else b) 18
  let x := seqOf s q
  setSeq q { x with queue := x.queue ++ [k], st := if x.st = 0 then 1 else x.st } s

/-- A request that a GO of this tick has made is held by an earlier one that it overlaps, or goes to its sequencer
(R482). -/
def placeReq (r : SvcReq) (s : State) : State :=
  if (s.csq.reqs.takeWhile (fun b => decide (b.slot ≠ r.slot))).any (fun b => reqsMeet r b) then
    rsetF s R.CSQ_REQ_STAT r.slot 63 63 1
  else assignReq r.slot (rsetF s R.CSQ_REQ_STAT r.slot 63 63 0)

/-- A request among the others, those of one tick in ascending slot (R482). -/
def reqInsert (r : SvcReq) (l : List SvcReq) : List SvcReq :=
  l.filter (fun b => decide (b.came ≠ r.came ∨ b.slot < r.slot)) ++
    r :: l.filter (fun b => decide (b.came = r.came ∧ r.slot < b.slot))

/-- A new request takes its place (R482): it, and then those of its tick that come after it, are held or go to a
sequencer. -/
def admitReq (r : SvcReq) (s : State) : State :=
  let after := s.csq.reqs.filter (fun b => decide (b.came = r.came ∧ r.slot < b.slot))
  let s := withCsq (fun c => { c with reqs := reqInsert r c.reqs }) (after.foldl (fun s b => unassign b.slot s) s)
  (r :: after).foldl (fun s b => placeReq b s) s

/-- The fields of CSQ_REQ_CTL stored: while BUSY is 1, MEM alone, since R480 names SERVICE and the arguments. -/
def reqCtlFields (k : Nat) (v : Word) (s : State) : State :=
  if rbit s R.CSQ_REQ_CTL k 63 then rsetF s R.CSQ_REQ_CTL k 51 50 (fld (storeVal s false R.CSQ_REQ_CTL k v) 51 50)
  else hostStore false R.CSQ_REQ_CTL k v s

/-- A write of CSQ_REQ_CTL with a given SERVICE and GO (R480 to R482): GO is ignored while BUSY is 1. A refused request
is BUSY for this tick only. -/
def svcGo (k svc : Nat) (v : Word) (s : State) : State :=
  if rbit s R.CSQ_REQ_CTL k 63 then reqCtlFields k v s
  else
    let s := reqCtlFields k (setFld v 55 52 svc) s
    if bit v 0 then
      let hbm := rbit s R.CSQ_REQ_CTL k 50
      let a := rfld s R.CSQ_ARG0 k 40 0
      let r : SvcReq := ⟨k, svc, hbm, if svc = 1 ∨ svc = 2 ∨ svc = 6 then a / 4096 * 4096 else a,
        rfld s R.CSQ_ARG1 k 40 0 / 4096 * 4096, rget s R.CSQ_ARG2 k, s.tau.mono, none⟩
      if reqMoves r && !memReady s (reqMem r) then svcEnd k 6 (rset s R.CSQ_REQ_STAT k 0)
      else if reqRefused s r then
        rsetF (withCsq (fun c => { c with refusals := c.refusals ++ [k] }) s) R.CSQ_REQ_CTL k 63 63 1
      else
        let s := rset s R.CSQ_REQ_STAT k 0
        admitReq r (rsetF (rsetF s R.CSQ_REQ_CTL k 63 63 1) R.CSQ_REQ_CTL k 62 59 0)
    else s

/-- FILL (R481). -/
def execFill (k : SvcSlot) (v : Word) (s : State) : Out := .next (svcGo k.val 1 v s)
/-- COPY (R481). -/
def execCopy (k : SvcSlot) (v : Word) (s : State) : Out := .next (svcGo k.val 2 v s)
/-- SWEEP_NOW (R481). -/
def execSweepNow (k : SvcSlot) (v : Word) (s : State) : Out := .next (svcGo k.val 3 v s)
/-- TCAM_SCRUB_PASS_NOW (R481). -/
def execTcamScrubPassNow (k : SvcSlot) (v : Word) (s : State) : Out := .next (svcGo k.val 4 v s)
/-- TRIE_UNIT_COMPACTION (R481). -/
def execTrieUnitCompaction (k : SvcSlot) (v : Word) (s : State) : Out := .next (svcGo k.val 5 v s)
/-- SCAN (R481). -/
def execScan (k : SvcSlot) (v : Word) (s : State) : Out := .next (svcGo k.val 6 v s)

/-- SERVICE_ABORT (R482): a held request ends at once with RESULT 2; a running one at the end of its step. -/
def execServiceAbort (k : SvcSlot) (v : Word) (s : State) : Out :=
  let s := reqCtlFields k.val v s
  if bit v 1 && rbit s R.CSQ_REQ_CTL k.val 63 then
    if rbit s R.CSQ_REQ_STAT k.val 63 then .next (svcEnd k.val 2 s)
    else .next (withCsq (fun c => { c with reqs := c.reqs.map (fun r =>
      if r.slot = k.val then { r with abort := some s.tau.mono } else r) }) s)
  else .next s

/-- HELD_SERVICE_START (R482): no earlier request overlaps any more. -/
def execHeldServiceStart (k : SvcSlot) (s : State) : Out :=
  if rbit s R.CSQ_REQ_STAT k.val 63 then
    match s.csq.reqs.find? (fun r => decide (r.slot = k.val)) with
    | some r =>
      if (s.csq.reqs.takeWhile (fun b => decide (b.slot ≠ k.val))).any (fun b => reqsMeet r b) then .next s
      else .next (assignReq k.val (rsetF s R.CSQ_REQ_STAT k.val 63 63 0))
    | none => .next s
  else .next s

/-- A service reads 64 bytes: whether the block counts as an error, and what the read met (R386, R389). -/
def svcRead (m : MemCtl) (a : Nat) (ecc : EccResult) (s : State) : Bool × State :=
  let t := memUse m a false s
  if memLost s m a then (true, lostRead m a t) else (decide (ecc = .uncorrectable), eccEvent m a ecc t)

/-- A service writes 64 bytes: whether the block counts as an error; a write to lost memory is discarded (R389). -/
def svcWrite (m : MemCtl) (a : Nat) (bs : Bytes) (s : State) : Bool × State :=
  let t := memUse m a true s
  if memLost s m a then (true, t) else (false, memWrite m a bs t)

/-- One 64-byte block of a fill, copy or scan, and whether it counts as an error, `ecc` being what its read meets. -/
def svcBlock (r : SvcReq) (i : Nat) (ecc : EccResult) (s : State) : Bool × State :=
  let m := reqMem r
  let a := r.addr + 64 * i
  match r.svc with
  | 1 => svcWrite m a ((List.range 8).flatMap (fun _ => leBytes 8 r.val.toNat)) s
  | 2 =>
    let x := svcRead m a ecc s
    if x.1 then x else svcWrite m (fld r.val 40 0 + 64 * i) (memRead s m a 64) x.2
  | _ => svcRead m a ecc s

/-- What the read of a block meets, the uncorrectable and the corrected ones being numbered. -/
def svcEcc (bad corr : List Nat) (i : Nat) : EccResult :=
  if bad.contains i then .uncorrectable else if corr.contains i then .corrected else .clean

/-- The first `n` 4 KiB steps of a fill, copy or scan, with its errors counted. -/
def svcMove (r : SvcReq) (n : Nat) (bad corr : List Nat) (s : State) : Nat × State :=
  (List.range (64 * n)).foldl (fun x i =>
    let y := svcBlock r i (svcEcc bad corr i) x.2
    (if y.1 then x.1 + 1 else x.1, y.2)) (0, s)

/-- The 64-byte blocks that the first `n` steps of a request read and write. -/
def svcAddrs (r : SvcReq) (n : Nat) : List Nat :=
  (List.range (64 * n)).flatMap (fun i => (reqRanges r).map (fun x => x.1 + 64 * i))

/-- The requests of those steps reach the controller: a fill and the second range of a copy write, the rest reads. -/
def svcAsk (r : SvcReq) (n : Nat) (s : State) : State :=
  (List.range (64 * n)).foldl (fun s i => (reqRanges r).foldl (fun s x =>
    memQueue (reqMem r) (decide (r.svc = 1 ∨ (r.svc = 2 ∧ x.1 ≠ r.addr))) (x.1 + 64 * i) s) s) s

/-- The sequencer that has a request in hand takes trap 4 for its abort, and its handler ends the request with RESULT 2: the
handler's whole run is part of the row (R473, R482, log 37). Within another handler it is a double trap, and the fault ends
the request (R474, R475). -/
def abortTrap (q k : Nat) (s : State) : State :=
  let t := seqTrap q 4 (seqOf s q).upc 0x40 s
  if (seqOf t q).st = 5 then t else seqNextReq q (svcEnd k 2 t)

/-- The part of a request that lies `d` steps on and is `n` steps long. -/
def svcPart (r : SvcReq) (d n : Nat) : SvcReq :=
  { r with addr := r.addr + 4096 * d, len := 4096 * n
           val := if r.svc = 2 then BitVec.ofNat 64 (fld r.val 40 0 + 4096 * d) else r.val }

/-- A TCAM scrub pass (R242, R243, R481): every row that the sweep covers is compared with its shadow, an update slot each;
those of `reads.corr` mismatch and are rewritten, those of `reads.bad` have an uncorrectable shadow error. Row r of bank b is
4096 × b + r. -/
def scrubPass (reads : SvcReads) (s : State) : State :=
  let rows (l : List Nat) : List Nat := l.filter (fun i =>
    scrubbed s (i / 4096) && decide (i % 4096 < bankEntries (rfld s R.TCM_BANK_CFG (i / 4096) 1 0)))
  let n := (((List.range 64).filter (scrubbed s)).map (fun b => bankEntries (rfld s R.TCM_BANK_CFG b 1 0))).sum
  let s := occur 5 3 0 (n + (rows reads.corr).length) s
  let s := (rows reads.corr).foldl (fun s i => tcamEvent 3 (i / 4096) (i % 4096) 1 s) s
  (rows reads.bad).foldl (fun s i => tcamEvent 2 (i / 4096) (i % 4096) 2 (quarantine (i / 4096) (i % 4096) s)) s

/-- The arrays of a root's trie as keys of `Lkp.bases`, with their units: its first-stage nodes, each child array and each
prefix array. -/
def rootArrays (s : State) (r : Nat) : List (Nat × Nat) :=
  let lpm := s.lkp.lpm
  let ns := (trieNodes lpm).filter (fun nd => decide (nd.1 = r))
  ((ns.filter (fun nd => decide (nd.2.1 = 1))).map (fun nd => (2 * nodeCode (nd.1, 0, nd.2.2), 8))) ++
    ns.flatMap (fun nd =>
      [(2 * nodeCode nd, 8 * setBelow (childMap lpm nd) 256), (2 * nodeCode nd + 1, (nodePrefixes lpm nd + 3) / 4)])

/-- Trie compaction of a root (R193, R481): its arrays are written anew in contiguous units from a place the manual does not
name, a free value, and the old ones wait to be freed. Units with a parity error are copied with it: DESIGN CHOICE
(log 37). -/
def compact (r : Nat) (s : State) : State :=
  let as := (rootArrays s r).filter (fun e => decide (0 < e.2))
  let start := (Config.freeWord s.freeCtr).toNat % 2 ^ 23
  let old (k : Nat) : Nat := (mfind s.lkp.bases k).getD
    (if k % 2 = 0 then Config.childBase (k / 2) else Config.pfxBase (k / 2)).toNat
  let placed := as.foldl (fun (l, u) e => (l ++ [(e.1, e.2, u)], u + e.2)) (([] : List (Nat × Nat × Nat)), start)
  let move (u : Nat) : Nat := match placed.1.find? (fun e => decide (old e.1 ≤ u ∧ u < old e.1 + e.2.1)) with
    | some e => e.2.2 + (u - old e.1)
    | none => u
  drawn (withLkp (fun x => { x with
    bases := placed.1.foldl (fun m e => mput m e.1 e.2.2) x.bases
    bad := x.bad.map (fun b => if b.1 = 80 + r then (b.1, move b.2) else b)
    trieFree := x.trieFree ++ [((as.map (·.2)).sum, s.tau.mono)] }) s)

/-- The changes that come before a sweep of their tick (R201): commands, learns and hits. -/
def beforeSweep (i : Instr) : Bool :=
  match i with
  | .lkpCommandDone .. | .learnApply .. | .lookupResult .. => true
  | _ => false

/-- SERVICE_REQUEST_END (R480 to R482): the request a sequencer has in hand goes on, a fill, copy or scan by up to `steps`
whole steps, after which PROGRESS and ERRS show how far it has come. It ends when it is done, or when its abort takes effect
after them; an abort that reaches the slot on this tick is ignored. The reads of a fill, copy or scan are numbered from the
first of these steps. It waits while its sequencer has stopped, and while a channel it moves data of holds requests (R383). -/
def execServiceRequestEnd (k : SvcSlot) (steps : Nat) (reads : SvcReads) (s : State) : Out :=
  match s.csq.reqs.find? (fun r => decide (r.slot = k.val)) with
  | none => .next s
  | some r =>
    let aborted := r.abort.any (fun t => decide (t < s.tau.mono))
    match [18, 19, 20, 21].find? (fun q => decide ((seqOf s q).queue.head? = some k.val)) with
    | none => .next s
    | some q =>
    if rbit s R.CSQ_REQ_STAT k.val 63 || seqDown s q then .next s
    else if reqMoves r then
      let d := rfld s R.CSQ_REQ_STAT k.val 40 0 / 4096
      let n := min steps (r.len / 4096 - d)
      let part := svcPart r d n
      if (svcAddrs part n).any (unitWaits s (reqMem r)) then .next (svcAsk part n s) else
      let x := svcMove part n reads.bad reads.corr s
      let errs := min 131071 (rfld s R.CSQ_REQ_STAT k.val 57 41 + x.1)
      let s := rset x.2 R.CSQ_REQ_STAT k.val (BitVec.ofNat 64 (errs * 2 ^ 41 + (d + n) * 4096))
      if d + n = r.len / 4096 then .next (svcEnd k.val (if errs = 0 then 1 else 4) s)
      else if aborted then .next (abortTrap q k.val s)
      else .next s
    else if aborted then .next (abortTrap q k.val s)
    else if r.svc = 3 ∧ comes s beforeSweep = true then .next s
    else
      let t := min 67 (r.addr % 128)
      let as := if r.svc = 3 then sweepReads s t else []
      if as.any (unitWaits s .mcd) then .next (memAsks .mcd as s) else
      let s := if r.svc = 3 then reads.bad.foldl (fun s i => markBad t i s) s else s
      let s := match r.svc with
        | 3 => withLkp (fun x => { x with swept := mset 0 x.swept t s.tau.mono }) (ageSweep t s)
        | 4 => scrubPass reads s
        | 5 => compact (r.addr % 16) s
        | _ => s
      .next (svcEnd k.val 1 s)

end Sys2Proof.Machine
end

