-- ==== Sys2Proof/Machine/Bpm.lean ====
section
/-! DEFINITION. The billet pool manager (ch. 10): allocation, release, increment and transfer, pool states, the error
log, the PF0 command register, and the retirement of billets in lost memory. -/

namespace Sys2Proof.Machine
open Sys2Proof

/-- The billet pool manager changed. -/
def withBpm (f : Bpm → Bpm) (s : State) : State := { s with bpm := f s.bpm }

/-- A pool's live record. -/
def poolSt (s : State) (n : Nat) : PoolSt := mget PoolSt.init s.bpm.pools n

/-- A pool's live record replaced. -/
def setPoolSt (n : Nat) (p : PoolSt) (s : State) : State :=
  withBpm (fun b => { b with pools := mset PoolSt.init b.pools n p }) s

/-- EN of a pool. -/
def poolEn (s : State) (n : Nat) : Bool := rbit s R.BPM_POOL_CFG n 63

/-- A pool is enabled, and not on this tick (R334). -/
def poolOpen (s : State) (n : Nat) : Bool := poolEn s n && decide ((poolSt s n).on ≠ some s.tau.mono)
/-- LOC of a pool. -/
def poolLoc (s : State) (n : Nat) : Nat := rfld s R.BPM_POOL_CFG n 62 61
/-- MODE of a pool: named owner. -/
def poolNamed (s : State) (n : Nat) : Bool := rbit s R.BPM_POOL_CFG n 60
/-- SIZE_EXP of a pool. -/
def poolExp (s : State) (n : Nat) : Nat := rfld s R.BPM_POOL_CFG n 59 56
/-- COUNT of a pool. -/
def poolCount (s : State) (n : Nat) : Nat := rfld s R.BPM_POOL_CFG n 31 0
/-- BASE of a pool. -/
def poolBase (s : State) (n : Nat) : Nat := (rget s R.BPM_POOL_BASE n).toNat

/-- T of R331 for `count` billets at a location. -/
def tagBytes (loc count : Nat) : Nat := if loc = 0 then 0 else (2 * count + 4095) / 4096 * 4096

/-- Bytes of the memory a LOC code names (R332). -/
def locSize (s : State) (loc : Nat) : Nat :=
  match loc with | 0 => 2 ^ 28 | 1 => 2 ^ 36 | _ => memSize s .mcd

/-- The memory controller of a LOC code; none for the buffer SRAM. -/
def locMem (loc : Nat) : Option MemCtl := match loc with | 0 => none | 1 => some .mch | _ => some .mcd

/-- Bytes a pool's tag array and billets take. -/
def poolBytes (loc e count : Nat) : Nat := tagBytes loc count + count * 2 ^ e

/-- The largest COUNT whose tag array and billets end within the memory (R332): the figure found by bisection between
`lo`, which fits, and `hi`, which does not. -/
def maxCount (room loc e : Nat) : Nat → Nat → Nat → Nat
  | 0, lo, _ => lo
  | f + 1, lo, hi =>
    let mid := (lo + hi) / 2
    if mid = lo then lo
    else if poolBytes loc e mid ≤ room then maxCount room loc e f mid hi else maxCount room loc e f lo mid

/-- COUNT as it is stored (R332). -/
def clampCount (s : State) (n loc e count : Nat) : Nat :=
  let room := locSize s loc - poolBase s n
  if poolBytes loc e count ≤ room then count else maxCount room loc e 40 0 count

/-- The address of a billet (R331). -/
def billetAddr (s : State) (n i : Nat) : Nat := poolBase s n + tagBytes (poolLoc s n) (poolCount s n) + i * 2 ^ poolExp s n

/-- A billet has a byte, or its tag, in lost memory (R346). -/
def billetLost (s : State) (n i : Nat) : Bool :=
  match locMem (poolLoc s n) with
  | none => false
  | some m => runLost s m (billetAddr s n i) (2 ^ poolExp s n) || memLost s m (poolBase s n + 2 * i)

/-- Key of a billet's tag. -/
def billetKey (n i : Nat) : Nat := n * 2 ^ 32 + i

/-- The stored tag of a billet. -/
def tagRaw (s : State) (n i : Nat) : Nat := mget 0 s.bpm.tags (billetKey n i)

/-- The tag of a billet, RETIRED included (ch. 10): a billet in lost memory is retired. -/
def billetTag (s : State) (n i : Nat) : Nat := tagRaw s n i ||| (if billetLost s n i then 2 ^ 14 else 0)

/-- The tag of a billet set. -/
def setTag (n i t : Nat) (s : State) : State := withBpm (fun b => { b with tags := mset 0 b.tags (billetKey n i) t }) s

/-- A billet is retired: marked, or in lost memory. -/
def billetRetired (s : State) (n i : Nat) : Bool := (billetTag s n i).testBit 14

/-- FREE of a pool: billets neither allocated nor retired (R338). -/
def poolFree (s : State) (n : Nat) : Nat :=
  if poolOpen s n then poolCount s n - (poolSt s n).used - (poolSt s n).retired else 0

/-- The pool's memory serves requests (R392). -/
def poolReady (s : State) (n : Nat) : Bool :=
  match locMem (poolLoc s n) with | none => true | some m => memReady s m

/-- The first never-used billet from `i` on that is not retired, within `f` of them (R334, R346). -/
def freshFrom (s : State) (n i : Nat) : Nat → Option Nat
  | 0 => none
  | f + 1 => if billetRetired s n i then freshFrom s n (i + 1) f else some i

/-- The billet a pool hands out next, with the pool after it: the one released last, otherwise the first never used
(R334). -/
def takeBillet (s : State) (n : Nat) : Option (Nat × PoolSt) :=
  let p := poolSt s n
  if poolFree s n = 0 ∨ poolReady s n = false then none
  else match p.freed with
    | i :: rest => some (i, { p with freed := rest, used := p.used + 1 })
    | [] => (freshFrom s n p.next (poolCount s n - p.next)).map (fun i => (i, { p with next := i + 1, used := p.used + 1 }))

/-- A pool has no free billet for a request (R335, R392). -/
def poolExhausted (s : State) (n : Nat) : Bool := (takeBillet s n).isNone

/-- The tag of a billet in HBM or DDR5 is written or read in the pool's own memory (R331, R373), which holds the access
while it does not serve it (R375, R383). -/
def tagUse (n i : Nat) (write : Bool) (s : State) : State :=
  match locMem (poolLoc s n) with
  | some m => memPost m (poolBase s n + 2 * i) write s
  | none => s

/-- A billet in HBM or DDR5 is written, which its channel may hold. -/
def billetUse (n i : Nat) (write : Bool) (s : State) : State :=
  match locMem (poolLoc s n) with
  | some m => memPost m (billetAddr s n i) write s
  | none => s

/-- A billet taken from a pool: its tag is written with a count of 1 or the owner (R339, R340). -/
def allocFrom (n owner : Nat) (s : State) : Option (Nat × State) :=
  (takeBillet s n).map (fun r =>
    (r.1, setTag n r.1 (2 ^ 15 + (if poolNamed s n then owner % 2 ^ 14 else 1))
      (tagUse n r.1 true (occur 8 1 n 1 (setPoolSt n r.2 s)))))

/-- The pools of a mask that a request may be served from (R335). -/
def candidatePools (s : State) (size mask : Nat) : List Nat :=
  (List.range 16).filter (fun n => mask.testBit n && poolOpen s n && decide (size ≤ 2 ^ poolExp s n))

/-- The pool of the smallest billet size, the lowest number winning a tie (R335). -/
def smallestPool (s : State) (ns : List Nat) : Option Nat :=
  ns.foldl (fun b n => match b with
    | none => some n
    | some m => if poolExp s n < poolExp s m then some n else b) none

/-- REFUSED of a pool (R335). -/
def countRefused (n : Nat) (s : State) : State := rcount s R.BPM_POOL_CNT n 31 0 1

/-- An allocation (R335): its result code, and the pool and billet where it is served. -/
def bpmAllocate (owner size mask : Nat) (s : State) : Nat × Option (Nat × Nat) × State :=
  let cs := candidatePools s size mask
  match smallestPool s (cs.filter (fun n => !poolExhausted s n)) with
  | some n =>
    match allocFrom n owner s with
    | some (i, t) => (1, some (n, i), t)
    | none => (2, none, s)
  | none =>
    match smallestPool s cs with
    | some n => (2, none, countRefused n s)
    | none => (8, none, s)

/-- A TMG request for one cell from a pool (R336): none where the pool is disabled, in named-owner mode, too small or
exhausted. -/
def tmgAllocate (n : Nat) (s : State) : Option (Nat × State) :=
  if poolOpen s n ∧ ¬ poolNamed s n ∧ 8 ≤ poolExp s n then
    (allocFrom n 0 s).map (fun r => (billetKey n r.1, billetUse n r.1 true r.2))
  else none

/-! ### Release, increment, transfer (R339 to R344) -/

/-- A refusal of a release, increment or transfer: logged and reported (R344). -/
def bpmRefuse (code req n i : Nat) (s : State) : State :=
  let a := if i < poolCount s n then billetAddr s n i else 0
  let r : BpmRec := ⟨code, req, n, i, qPhcNow s, billetTag s n i, a⟩
  let s := if s.bpm.log.length < 256 then withBpm (fun b => { b with log := b.log ++ [r] }) s
           else rcount s R.BPM_ERR_DROP 0 31 0 1
  errReport 7 8 15 0 code (BitVec.ofNat 64 (req * 2 ^ 50 + n * 2 ^ 32 + i)) s

/-- The operations on an allocated billet. -/
inductive BilletOp
  | release
  | increment (n : Nat)
  | transfer (owner : Nat)

/-- The first check of R341 an operation fails; 1 where it passes them all. -/
def bpmCheck (s : State) (op : BilletOp) (req n i : Nat) : Nat :=
  let t := tagRaw s n i
  if ¬ (poolOpen s n ∧ i < poolCount s n) then 6
  else if t.testBit 15 = false then 3
  else match op, poolNamed s n with
    | .increment _, true => 7
    | .transfer _, false => 7
    | .release, true => if t % 2 ^ 14 = req then 1 else 4
    | .transfer _, true => if t % 2 ^ 14 = req then 1 else 4
    | .increment k, false => if 4095 < t % 2 ^ 12 + k then 5 else 1
    | .release, false => 1

/-- A billet returns to its pool, or is retired in place of being freed (R346). -/
def freeBillet (n i : Nat) (s : State) : State :=
  let p := poolSt s n
  if billetRetired s n i then
    setTag n i (2 ^ 14) (setPoolSt n { p with used := p.used - 1, retired := p.retired + 1 } s)
  else setTag n i 0 (setPoolSt n { p with used := p.used - 1, freed := i :: p.freed } s)

/-- An operation that has passed its checks. -/
def bpmApply (op : BilletOp) (n i : Nat) (s : State) : State :=
  let t := tagRaw s n i
  match op with
  | .release => if poolNamed s n ∨ t % 2 ^ 12 = 1 then freeBillet n i s else setTag n i (t - 1) s
  | .increment k => setTag n i (t + k) s
  | .transfer o => setTag n i (t / 2 ^ 14 * 2 ^ 14 + o % 2 ^ 14) s

/-- A billet's tag is read. One that is uncorrectable after a further read makes the BPM treat the billet as retired
(R386), and so does one that a memory returns flagged because it is not ready (R392) or has lost it (R389); the reads are
recorded where the tag lies in HBM or DDR5. -/
def tagRead (n i : Nat) (o : ReadOutcome) (s : State) : State :=
  if poolOpen s n && decide (i < poolCount s n) then
    let gone (s : State) : State := setTag n i (tagRaw s n i ||| 2 ^ 14) s
    match locMem (poolLoc s n) with
    | none => if o = .failed then gone s else s
    | some m =>
      if memReady s m then
        let o := if memLost s m (poolBase s n + 2 * i) then .failed else o
        let t := readTwice m (poolBase s n + 2 * i) o s
        if o = .failed then gone t else t
      else gone s
  else s

/-- An operation on a billet whose tag is read with an outcome: its result code and the state after it. -/
def bpmOp (op : BilletOp) (req n i : Nat) (o : ReadOutcome) (s : State) : Nat × State :=
  let s := tagRead n i o s
  let c := bpmCheck s op req n i
  let s := if c = 6 then s else tagUse n i (decide (c = 1)) s
  if c = 1 then (1, bpmApply op n i s) else (c, bpmRefuse c req n i s)

/-- One of the four outcomes of a read, by number. -/
def outcomeOf (n : Nat) : ReadOutcome :=
  match n % 4 with | 0 => .clean | 1 => .corrected | 2 => .second | _ => .failed

/-- An operation of the TMG on a cell. No row says what the read of the cell's tag meets, which is a free value (R386,
log 63). -/
def cellOp (op : BilletOp) (key : Nat) (s : State) : State :=
  (bpmOp op 0 (key / 2 ^ 32) (key % 2 ^ 32) (outcomeOf (Config.freeNat 71 s.freeCtr)) { s with freeCtr := s.freeCtr + 1 }).2

/-- The TMG's release of a cell is served. -/
def cellFree (key : Nat) (s : State) : State := cellOp .release key s

/-- The TMG lets go of every cell of a packet: the releases reach the BPM on the next tick (DESIGN CHOICE, log 51). -/
def cellsFree (ks : List Nat) (s : State) : State := withBpm (fun b => { b with letGo := b.letGo ++ ks }) s

/-- The TMG's releases of a tick, which come before every other request of the tick (R337, R342). -/
def letGoTick (s : State) : State := s.bpm.letGo.foldl (fun s k => cellFree k s) (withBpm (fun b => { b with letGo := [] }) s)

/-- The TMG adds `n` references to every cell of a packet. -/
def cellsShare (n : Nat) (ks : List Nat) (s : State) : State :=
  if n = 0 then s else ks.foldl (fun s k => cellOp (.increment n) k s) s

/-! ### The order of a tick (R335, R337, R342) -/

/-- The requester identifier the HIF presents for a ring (R337, R340). -/
def ringReq (k : Nat) : Nat := match ringSlice k with | some n => 0x2000 + n | none => 0x1000

/-- The place of a command among the requests of its tick: releases, increments and transfers (0) come before
allocations (1), and each in ascending requester (R337). -/
def bpmPlace (i : Instr) : Option (Nat × Nat) :=
  match i with
  | .releaseRequest r _ _ => some (0, r.toNat)
  | .incrementRequest r _ _ => some (0, r.toNat)
  | .transferRequest r _ _ => some (0, r.toNat)
  | .bpmRelease _ | .bpmIncrement _ | .bpmTransfer _ => some (0, 0x1000)
  | .allocationRequest r _ _ _ => some (1, r.toNat)
  | .packetAdmit | .packetBodyCell _ => some (1, 0)
  | .descRelease r | .descTransfer r => some (0, ringReq (ringKey r.ring))
  | .descAlloc r => some (1, ringReq (ringKey r))
  | .bpmAllocate _ => some (1, 0x1000)
  | _ => none

/-- A request of a place has its turn: no request of this tick that comes before it still waits in the queue. One whose
turn has not come has no effect; the sender queues a tick's requests in the order of R337 (log 7). -/
def bpmTurn (s : State) (phase req : Nat) : Bool :=
  (restOfTick s).all (fun i => match bpmPlace i with
    | some (p, r) => !(decide (p < phase) || (decide (p = phase) && decide (r < req)))
    | none => true)

/-- The owner that a request names (R340): a slice and every hardware unit but the HIF name themselves; the HIF names
the slice or PF0 on whose behalf it asks; PF0 may name any owner. -/
def ownerFor (r owner : Nat) : Nat :=
  if r = 2 then (if owner / 2 ^ 12 = 2 ∨ owner = 0x1000 then owner else r)
  else if r = 0x1000 then owner else r

/-- ALLOCATION_REQUEST (R335, R340): the handle, or none, is the answer. -/
def execAllocationRequest (r : Requester) (owner : Requester) (size : Nat) (mask : BitVec 16) (s : State) : Out :=
  if bpmTurn s 1 r.toNat then
    let a := bpmAllocate (ownerFor r.toNat owner.toNat) size mask.toNat s
    .next (answer (BitVec.ofNat 64 (a.1 * 2 ^ 59 + (match a.2.1 with | some (n, i) => billetKey n i | none => 0))) a.2.2)
  else .next s

/-- An operation that a requester asks for on a billet, in its turn (R337, R341, R386). -/
def bpmRequest (op : BilletOp) (r : Requester) (g : TagRead) (s : State) : State :=
  let n := g.handle.pool.val
  let i := g.handle.index.toNat
  if bpmTurn s 0 r.toNat then (bpmOp op r.toNat n i g.tag s).2
  else s

/-- RELEASE_REQUEST (R339 to R341). -/
def execReleaseRequest (r : Requester) (h : Handle) (tag : ReadOutcome) (s : State) : Out :=
  .next (bpmRequest .release r ⟨h, tag⟩ s)

/-- INCREMENT_REQUEST (R339, R341). -/
def execIncrementRequest (r : Requester) (h : TagRead) (n : Nat) (s : State) : Out :=
  .next (bpmRequest (.increment n) r h s)

/-- TRANSFER_REQUEST (R340, R341). -/
def execTransferRequest (r : Requester) (h : TagRead) (owner : Requester) (s : State) : Out :=
  .next (bpmRequest (.transfer owner.toNat) r h s)

/-! ### Enabling and disabling (R332 to R334) -/

/-- The bytes a pool takes in its memory. -/
def poolSpan (s : State) (n : Nat) : Nat × Nat :=
  (poolBase s n, poolBase s n + poolBytes (poolLoc s n) (poolExp s n) (poolCount s n))

/-- Another enabled pool of the same memory overlaps this one. -/
def poolOverlap (s : State) (n : Nat) : Bool :=
  (List.range 16).any (fun m => decide (m ≠ n) && poolEn s m && decide (poolLoc s m = poolLoc s n) &&
    decide ((poolSpan s n).1 < (poolSpan s m).2 ∧ (poolSpan s m).1 < (poolSpan s n).2))

/-- Billets of a pool in lost memory. -/
def lostCount (s : State) (n : Nat) : Nat :=
  if (match locMem (poolLoc s n) with
      | none => true
      | some m => (List.range (rRET m).count).all (fun k => decide (rget s (rRET m) k = 0))) then 0
  else (List.range (poolCount s n)).countP (fun i => billetLost s n i)

/-- The fields of BPM_POOL_CFG but EN stored, unless EN is 1; COUNT is clamped to the memory (R332, R333). -/
def poolFields (n : Nat) (v : Word) (s : State) : State :=
  if poolEn s n then s
  else
    let w := writeReg false R.BPM_POOL_CFG (rget s R.BPM_POOL_CFG n) v
    rset s R.BPM_POOL_CFG n (setFld w 31 0 (clampCount s n (fld w 62 61) (fld w 59 56) (fld w 31 0)))

/-- A write of EN 1 (R333, R334, R392): refused, with a violation record, where COUNT is 0, the pool overlaps another, or
its memory is not ready. -/
def poolEnable (k : Nat) (v : Word) (s : State) : State :=
  if poolEn s k then s
  else
    let s := poolFields k v s
    if poolCount s k = 0 ∨ poolOverlap s k = true ∨ poolReady s k = false then
      cfgViolation 8 (regAddr R.BPM_POOL_CFG k) s
    else
      let s := withBpm (fun b => { b with tags := b.tags.filter (fun e => decide (e.1 / 2 ^ 32 ≠ k)) }) s
      rsetF (setPoolSt k { PoolSt.init with retired := lostCount s k, on := some s.tau.mono } s) R.BPM_POOL_CFG k 63 63 1

/-- POOL_ENABLE (R30, R333, R334, R392). -/
def execPoolEnable (n : Pool) (v : Word) (s : State) : Out :=
  servedWrite (regAddr R.BPM_POOL_CFG n.val) (.next (poolEnable n.val v s)) s

/-- A write of EN 0 (R333, R338): ignored, with a violation record, while a billet is allocated; the pool's state becomes
normal. -/
def poolDisable (k : Nat) (v : Word) (s : State) : State :=
  if poolEn s k then
    if (poolSt s k).used ≠ 0 then cfgViolation 8 (regAddr R.BPM_POOL_CFG k) s
    else rset (rsetF s R.BPM_POOL_CFG k 63 63 0) R.BPM_POOL_STAT k 0
  else poolFields k v s

/-- POOL_DISABLE (R30, R333, R338). -/
def execPoolDisable (n : Pool) (v : Word) (s : State) : Out :=
  servedWrite (regAddr R.BPM_POOL_CFG n.val) (.next (poolDisable n.val v s)) s

/-! ### Pool states (R338) -/

/-- A bit of BPM_STATUS is set, which raises the BPM interrupt (R338, R539). -/
def bpmStatus (b : Nat) (s : State) : State := intRaise 8 (rsetF s R.BPM_STATUS 0 b b 1)

/-- One pool at the end of a tick (R338). -/
def poolTick (s : State) (n : Nat) : State :=
  if poolEn s n then
    let free := poolFree s n
    let on := rfld s R.BPM_POOL_THR n 63 32
    let off := rfld s R.BPM_POOL_THR n 31 0
    let st := rfld s R.BPM_POOL_STAT n 63 62
    let s := rset s R.BPM_POOL_STAT n (BitVec.ofNat 64 (st * 2 ^ 62 + (poolSt s n).retired % 2 ^ 30 * 2 ^ 32 + free))
    let set (v : Nat) (s : State) := rsetF s R.BPM_POOL_STAT n 63 62 v
    match st with
    | 0 =>
      if free = 0 then
        bpmStatus (16 + n) (bpmStatus n (rcount (set 2 s) R.BPM_POOL_CNT n 63 32 1))
      else if free ≤ on then bpmStatus n (rcount (set 1 s) R.BPM_POOL_CNT n 63 32 1)
      else s
    | 1 => if free = 0 then bpmStatus (16 + n) (set 2 s) else if off ≤ free then set 0 s else s
    | _ => if off ≤ free then set 0 s else if 0 < free then set 1 s else s
  else s

/-- Every pool at the end of a tick. -/
def bpmTick (s : State) : State := (List.range 16).foldl poolTick s

/-- STATE of a pool at the end of the previous tick, as admission judges it: 0 normal, 1 warning, 2 exhausted; a pool
the TMG cannot use counts as exhausted (R294, R336, R392). -/
def poolStateFor (s : State) (n : Nat) : Nat :=
  if poolOpen s n ∧ ¬ poolNamed s n ∧ 8 ≤ poolExp s n ∧ poolReady s n = true then rfld s R.BPM_POOL_STAT n 63 62 else 2

/-! ### Retirement (R346) -/

/-- The billets newly in lost memory leave their pools' free lists; allocated ones stay valid. -/
def bpmLost (m : MemCtl) (s : State) : State :=
  (List.range 16).foldl (fun s n =>
    if poolEn s n ∧ locMem (poolLoc s n) = some m then
      let p := poolSt s n
      let alloc := (s.bpm.tags.filter (fun e => decide (e.1 / 2 ^ 32 = n) && e.2.testBit 15 &&
        billetLost s n (e.1 % 2 ^ 32))).length
      let marked := (s.bpm.tags.filter (fun e => decide (e.1 / 2 ^ 32 = n) && !e.2.testBit 15 && e.2.testBit 14 &&
        !billetLost s n (e.1 % 2 ^ 32))).length
      setPoolSt n { p with freed := p.freed.filter (fun i => !billetLost s n i),
                           retired := lostCount s n - alloc + marked } s
    else s) s

/-- Every named-owner billet whose owner is a slice that has been removed returns to its pool (R343). -/
def bpmReturnOwner (owner : Nat) (s : State) : State :=
  s.bpm.tags.foldl (fun s e =>
    let n := e.1 / 2 ^ 32
    if poolEn s n && poolNamed s n && e.2.testBit 15 && decide (e.2 % 2 ^ 14 = owner) then
      freeBillet n (e.1 % 2 ^ 32) s else s) s

/-! ### The PF0 command register (R345) -/

/-- A write of BPM_CMD that starts a command: the fields are stored, the command runs in its turn among the tick's
requests (R337), and its result waits for BUSY to clear; nothing while BUSY is 1. -/
def bpmStart (op : Nat) (v : Word) (run : State → Nat × State) (s : State) : State :=
  if rbit s R.BPM_CMD 0 63 || !bpmTurn s (if op = 0 then 1 else 0) 0x1000 then s
  else
    let s := rset s R.BPM_CMD 0 (writeReg false R.BPM_CMD (rget s R.BPM_CMD 0) (setFld v 55 52 op))
    if bit v 0 then
      let r := run s
      rsetF (rsetF (withBpm (fun b => { b with result := some r.1 }) r.2) R.BPM_CMD 0 62 59 0) R.BPM_CMD 0 63 63 1
    else s

/-- A row that writes BPM_CMD (R30, R345). -/
def bpmRow (op : Nat) (v : Word) (run : State → Nat × State) (s : State) : Out :=
  servedWrite (regAddr R.BPM_CMD 0) (.next (bpmStart op v run s)) s

/-- Pool and index in BPM_CMD_HANDLE. -/
def cmdHandle (s : State) : Nat × Nat := (rfld s R.BPM_CMD_HANDLE 0 35 32, rfld s R.BPM_CMD_HANDLE 0 31 0)

/-- BPM_ALLOCATE (R340, R345): PF0 may name any owner. -/
def execBpmAllocate (v : Word) (s : State) : Out :=
  bpmRow 0 v (fun s =>
    let r := bpmAllocate (rfld s R.BPM_CMD_ARG 0 13 0) (rfld s R.BPM_CMD 0 35 21) (rfld s R.BPM_CMD 0 51 36) s
    match r.2.1 with
    | some (n, i) => (r.1, rset (rset r.2.2 R.BPM_CMD_HANDLE 0 (BitVec.ofNat 64 (billetKey n i)))
        R.BPM_CMD_ADDR 0 (BitVec.ofNat 64 (billetAddr r.2.2 n i)))
    | none => (r.1, r.2.2)) s

/-- BPM_RELEASE (R345). -/
def execBpmRelease (v : TaggedWord) (s : State) : Out :=
  bpmRow 1 v.val (fun s => bpmOp .release 0x1000 (cmdHandle s).1 (cmdHandle s).2 v.tag s) s

/-- BPM_INCREMENT (R345): N of 0 counts as 1. -/
def execBpmIncrement (v : TaggedWord) (s : State) : Out :=
  bpmRow 2 v.val (fun s =>
    bpmOp (.increment (max 1 (rfld s R.BPM_CMD_ARG 0 27 16))) 0x1000 (cmdHandle s).1 (cmdHandle s).2 v.tag s) s

/-- BPM_TRANSFER (R345). -/
def execBpmTransfer (v : TaggedWord) (s : State) : Out :=
  bpmRow 3 v.val (fun s =>
    bpmOp (.transfer (rfld s R.BPM_CMD_ARG 0 13 0)) 0x1000 (cmdHandle s).1 (cmdHandle s).2 v.tag s) s

/-- BPM_READ (R345): the billet's whole tag; refused only with result 6. -/
def execBpmRead (v : TaggedWord) (s : State) : Out :=
  bpmRow 4 v.val (fun s =>
    let n := (cmdHandle s).1
    let i := (cmdHandle s).2
    if poolOpen s n ∧ i < poolCount s n then
      let s := tagUse n i false (tagRead n i v.tag s)
      (1, rsetF s R.BPM_CMD_ARG 0 15 0 (billetTag s n i))
    else (6, s)) s

/-- An access to the tag of the billet that BPM_CMD_HANDLE names is held by its memory (R383). -/
def tagHeld (s : State) : Bool :=
  match locMem (poolLoc s (cmdHandle s).1) with
  | some m => (memOf s m).held.any (fun h => decide (h.req.addr = poolBase s (cmdHandle s).1 + 2 * (cmdHandle s).2))
  | none => false

/-- BPM_COMMAND_DONE (R345): BUSY clears and RESULT takes the outcome, once the memory has served the tag. -/
def execBpmCommandDone (s : State) : Out :=
  match s.bpm.result with
  | some r => if tagHeld s then .next s else .next (rsetF (rsetF (withBpm (fun b => { b with result := none }) s) R.BPM_CMD 0 62 59 r) R.BPM_CMD 0 63 63 0)
  | none => .next s

/-- A read of BPM_ERR_LOG[0] (R344): the oldest refusal is popped and the rest of it latched. -/
def errLogPop (s : State) : State :=
  match s.bpm.log with
  | [] => answer 0 (rset (rset s R.BPM_ERR_LOG 1 0) R.BPM_ERR_LOG 2 0)
  | r :: rest =>
    let s := withBpm (fun b => { b with log := rest }) s
    let s := rset s R.BPM_ERR_LOG 1 (secNsWord r.phc)
    let s := rset s R.BPM_ERR_LOG 2 (BitVec.ofNat 64 (r.tag % 2 ^ 16 * 2 ^ 48 + r.addr % 2 ^ 41))
    answer (BitVec.ofNat 64 (2 ^ 63 + r.code * 2 ^ 59 + r.req % 2 ^ 14 * 2 ^ 42 + r.pool * 2 ^ 32 + r.index)) s

/-- BPM_ERR_LOG_READ (R30, R344). -/
def execBpmErrLogRead (s : State) : Out := servedRead (regAddr R.BPM_ERR_LOG 0) (.next (errLogPop s)) s

end Sys2Proof.Machine
end

