-- ==== Sys2Proof/Machine/Mem.lean ====
section
/-! DEFINITION. The memory controllers (ch. 12): requests and the page predictor, refresh, training, frequency
changes, self-refresh, scrubbing, the PF0 window, start-up, and the retirement of a unit. -/

namespace Sys2Proof.Machine
open Sys2Proof

/-! ### Requests (R374, R383, R386, R388, R389, R392) -/

/-- Free data of an uncorrectable read, which the manual does not state (log 3). -/
def freeBytes (s : State) (n : Nat) : Bytes :=
  ((List.range ((n + 7) / 8)).flatMap (fun k => leBytes 8 (Config.freeWord (s.freeCtr + k)).toNat)).take n

/-- A read returns its data to the unit that asked, flagged where it is uncorrectable (R386). -/
def readBad (m : MemCtl) (r : MemReq) (s : State) : State :=
  { emit (.memData m r.addr (freeBytes s r.len) true) s with freeCtr := s.freeCtr + (r.len + 7) / 8 }

/-- A read of lost memory returns zeros, flagged (R389); a write to it is discarded. -/
def lostAccess (m : MemCtl) (r : MemReq) (s : State) : State :=
  match r.write with
  | some _ => s
  | none => emit (.memData m r.addr (List.replicate r.len 0) true) (lostRead m r.addr s)

/-- A request that the controller serves: the predictor, the bytes written, or the data of a read and what it met. -/
def memAccess (m : MemCtl) (r : MemReq) (s : State) : State :=
  let s := bankUse m r.addr s
  match r.write with
  | some bs => memWrite m r.addr bs s
  | none =>
    let s := occur (memBlock m) 1 (chanOf s m r.addr) 1 (eccEvent m r.addr r.ecc s)
    if r.ecc = .uncorrectable then readBad m r s else emit (.memData m r.addr (memShow s m r.addr r.len) false) s

/-- A request to a controller that is ready: lost memory reads as such, a channel in service serves it, and one that
is training, changing frequency or in self-refresh holds it, as does an activate that refresh blocks. -/
def memRequest (m : MemCtl) (r : MemReq) (s : State) : State :=
  let s := memAsk m r.addr s
  if memLost s m r.addr then lostAccess m r s
  else if memWaits s m r.addr then
    withMem m (fun x => { x with held := x.held ++ [⟨chanOf s m r.addr, x.arrived, r, none⟩], arrived := x.arrived + 1 }) s
  else if chState s m (chanOf s m r.addr) = 0 then memAccess m r s
  else s

/-- MEMORY_REQUEST (R373, R374, R392): before READY a read returns flagged and a write has no effect on the memory. -/
def execMemoryRequest (m : MemCtl) (r : MemReq) (s : State) : Out :=
  if ¬ memReady s m then .next (match r.write with | some _ => mapLock m s | none => readBad m r (mapLock m s))
  else if r.addr < memSize s m then .next (memRequest m r s)
  else .next (mapLock m s)

/-- A window access that arrived before a held request of its channel, and waits (R383). -/
def winBefore (s : State) (m : MemCtl) (h : HeldReq) : Bool :=
  match (memOf s m).win with
  | some w => decide (w.no < h.no ∧ chanOf s m (rget s (rWINA m) 0).toNat = h.chan)
  | none => false

/-- A held request can be served now. -/
def servable (s : State) (m : MemCtl) (h : HeldReq) : Bool :=
  decide (chState s m h.chan = 0) && !actBlocked s m h.req.addr && !winBefore s m h

/-- A held request is served: its data moves, or the unit that asked is answered. -/
def heldServe (m : MemCtl) (h : HeldReq) (s : State) : State :=
  match h.own with
  | none => memAccess m h.req s
  | some answer =>
    let t := memServe m h.req.addr h.req.write.isSome s
    if answer then memGot m h.req.addr t else t

/-- Up to `n` held requests served, each in its turn, the others still queued behind it (R374). -/
def serveHeld (m : MemCtl) : Nat → State → State
  | 0, s => s
  | n + 1, s =>
    match takeFirst (servable s m) (memOf s m).held with
    | some (h, rest) => serveHeld m n (heldServe m h (withMem m (fun x => { x with held := rest }) s))
    | none => s

/-- The requests held for channels that are in service again, and that refresh does not block, are served in arrival
order (R375, R383). -/
def memRelease (m : MemCtl) (s : State) : State := serveHeld m (memOf s m).held.length s

/-- ROW_IDLE_CLOSE (R10, R374): an open row without access for IDLE_CLOSE_NS closes, once every request of its tick has
come. A nanosecond is 1.6 ticks. -/
def execRowIdleClose (m : MemCtl) (bank : Nat) (s : State) : Out :=
  let b := mget MBank.init (memOf s m).banks bank
  if b.opened = true ∧ rfld s (rPAGE m) 0 15 0 * 8 ≤ (s.tau.mono - b.last) * 5 ∧ arrivalsDone s = true then
    .next (withMem m (fun x => { x with banks := mset MBank.init x.banks bank { b with opened := false } }) s)
  else .next s

/-! ### Refresh (R375 to R378) -/

/-- tREFI in ticks: 3.9 µs, or 1.95 µs at the doubled rate. -/
def tREFI (hot : Bool) : Nat := if hot then 3120 else 6240

/-- A refresh unit replaced. -/
def setRefUnit (m : MemCtl) (u : Nat) (x : RefSt) (s : State) : State :=
  withMem m (fun y => { y with units := mset RefSt.init y.units u x }) s

/-- The refresh units a controller has: present ranks of its channels, or its pseudo-channels (R375). -/
def unitPresent (s : State) (m : MemCtl) (u : Nat) : Bool :=
  match m with
  | .mch => decide (u < memChannels s .mch)
  | .mcd => decide (u / 4 < memChannels s .mcd ∧ u % 4 / 2 < rfld s R.MCD_GEOM 0 55 54 ∧
      u % 2 < rfld s R.MCD_GEOM 0 53 52)

/-- The controller refreshes a unit: it is present and its channel is neither retired, absent nor in self-refresh. -/
def unitActive (s : State) (m : MemCtl) (u : Nat) : Bool :=
  unitPresent s m u && decide (chState s m (chanOfUnit m u) < 3)

/-- REFRESH_INTERVAL_BOUNDARY (R375, R378): the debt grows by one at each boundary, after a reading of its tick. -/
def execRefreshIntervalBoundary (m : MemCtl) (u : RefUnit) (s : State) : Out :=
  let x := refUnit s m u.val
  if unitActive s m u.val && timeUp s (x.last + tREFI x.hot) then
    .next (setRefUnit m u.val { x with debt := x.debt + 1, last := x.last + tREFI x.hot } s)
  else .next s

/-- Whether the controller issues a refresh now (R375): forced above POST_MAX, pulled in while the unit is idle. -/
def refreshDue (s : State) (m : MemCtl) (u : Nat) (queued : Bool) : Bool :=
  let d := (refUnit s m u).debt
  decide ((postMax s m : Int) < d) || (!queued && decide (-(pullMax s m : Int) < d))

/-- Requests to a refresh unit are queued at the controller: held ones, or the window access in progress. -/
def unitQueued (s : State) (m : MemCtl) (u : Nat) : Bool :=
  let inUnit (a : Nat) : Bool := decide (unitOfBank (bankOf s m a) = u)
  (memOf s m).held.any (fun h => inUnit h.req.addr) || ((memOf s m).win.isSome && inUnit (rget s (rWINA m) 0).toNat)

/-- REFRESH_ISSUE (R374, R375): the unit's rows close, a refresh issues and the debt falls by one. `queued`: requests that
are under way to the unit, beside those the controller holds. -/
def execRefreshIssue (m : MemCtl) (u : RefUnit) (queued : Bool) (s : State) : Out :=
  let x := refUnit s m u.val
  if unitActive s m u.val && refreshDue s m u.val (queued || unitQueued s m u.val) then
    .next (memRelease m (setRefUnit m u.val { x with debt := x.debt - 1 } (closeRows m u.val s)))
  else .next s

/-- A reading calls for the rate `hot` answers (R376): MR4 of a rank calls for the doubled rate or does not; a stack
reaches HOT_C, and returns at HOT_C - 3 or below. -/
def wantsHot (s : State) (m : MemCtl) (hot : Bool) (reading : Nat) : Bool :=
  match m with
  | .mcd => decide (reading ≠ 0)
  | .mch =>
    let h := rfld s R.MCH_REF_CFG 0 47 40
    if hot then !decide (reading + 3 ≤ h) else decide (h ≤ reading)

/-- The debt and last boundary of a unit that changes rate, recomputed in time (R377). -/
def rateChange (pull now : Nat) (x : RefSt) : RefSt :=
  let tn : Int := tREFI (!x.hot)
  let w : Int := x.debt * tREFI x.hot + ((now : Int) - x.last)
  let d := max (w / tn) (-(pull : Int))
  ⟨d, !x.hot, ((now : Int) - (w - d * tn)).toNat, x.poll⟩

/-- HOT of the channels and of the block (R369, R386). -/
def showHot (m : MemCtl) (c : Nat) (s : State) : State :=
  let hots := (memOf s m).units.filter (fun e => e.2.hot)
  let s := rsetF s (rCH m) c 60 60 (hots.any (fun e => decide (chanOfUnit m e.1 = c))).toNat
  rsetF s (rSTATUS m) 0 61 61 (!hots.isEmpty).toNat

/-- Ticks of a microsecond. -/
def usTicks : Nat := 1600

/-- REFRESH_POLL (R376 to R378): every POLL_US a unit is read; one whose reading calls for the other rate changes to
it. -/
def execRefreshPoll (m : MemCtl) (u : RefUnit) (reading : Nat) (s : State) : Out :=
  let x := refUnit s m u.val
  if unitActive s m u.val && decide (x.poll + rfld s (rREF m) 0 57 48 * usTicks ≤ s.tau.mono) then
    let x := { x with poll := s.tau.mono }
    if wantsHot s m x.hot reading != x.hot then
      .next (memRelease m (showHot m (chanOfUnit m u.val) (setRefUnit m u.val (rateChange (pullMax s m) s.tau.mono x) s)))
    else .next (setRefUnit m u.val x s)
  else .next s

/-- Every unit of some channels is refreshed until it owes nothing, which closes its rows, before the channels enter
self-refresh (R374, R382, R384). -/
def refreshDown (m : MemCtl) (p : Nat → Bool) (s : State) : State :=
  (List.range 128).foldl (fun s u =>
    if unitPresent s m u && p (chanOfUnit m u) then
      setRefUnit m u { refUnit s m u with debt := min 0 (refUnit s m u).debt } (closeRows m u s) else s) s

/-- Every unit of some channels owes nothing and starts a new interval. -/
def refReset (m : MemCtl) (p : Nat → Bool) (s : State) : State :=
  (List.range 128).foldl (fun s u =>
    if unitPresent s m u && p (chanOfUnit m u) then
      setRefUnit m u { refUnit s m u with debt := 0, last := s.tau.mono } s else s) s

/-! ### Training and frequency changes (R379 to R382) -/

/-- Channels of a controller in a state. -/
def chansIn (s : State) (m : MemCtl) (v : Nat) : List Nat :=
  (List.range (memChannels s m)).filter (fun c => decide (chState s m c = v))

/-- RESULT of TRAIN_CTL, with BUSY as it stands. -/
def trainResult (m : MemCtl) (r : Nat) (s : State) : State := showBusy m (rsetF s (rTRAIN m) 0 62 60 r)

/-- A run that finds no eye is a fault of its channel (R381, R528). -/
def eyeFault (m : MemCtl) (c : Nat) (s : State) : State :=
  errReport 3 (memBlock m) (match m with | .mcd => 5 | .mch => 6) c 2 (BitVec.ofNat 64 c) s

/-- A run, or a change or an exit that includes one, is in progress. -/
def runBusy (s : State) (m : MemCtl) : Bool :=
  (memOf s m).run.isSome || (memOf s m).change.isSome || !(memOf s m).waking.isEmpty

/-- A run starts on a channel: it is training, and new requests are held. -/
def runStart (m : MemCtl) (c : Nat) (s : State) : State :=
  showBusy m (setChState m c 1 (withMem m (fun x => { x with run := some (c, false) }) s))

/-- A frequency change starts: every channel in service holds its requests, is refreshed, and enters self-refresh while
the clocks move (R382). -/
def changeStart (m : MemCtl) (target : Nat) (s : State) : State :=
  let cs := (List.range (memChannels s m)).filter (fun c => decide (chState s m c < 4))
  let s := withMem m (fun x => { x with change := some target, nextReq := none }) s
  let s := refreshDown m (fun c => decide (c ∈ cs)) (cs.foldl (fun s c => setChState m c 2 s) s)
  showBusy m (rsetF s (rSTATUS m) 0 57 57 0)

/-- What follows a run, a change or an exit: a set-point change that is held starts once nothing is in progress, and first
wakes the channels in self-refresh (R381); what was held is served. -/
def nextChange (m : MemCtl) (s : State) : State :=
  match (memOf s m).nextReq with
  | some t =>
    if runBusy s m then memRelease m s
    else match chansIn s m 3 with
      | [] => changeStart m t s
      | cs => memRelease m (cs.foldl (fun s c => wakeChan m c s) s)
  | none => memRelease m s

/-- A run ends with a RESULT: its channel serves again, or a held change starts (R381). -/
def runEnd (m : MemCtl) (c r : Nat) (s : State) : State :=
  nextChange m (setChState m c 0 (trainResult m r (withMem m (fun x => { x with run := none }) s)))

/-- Ticks of RETRAIN_MS. -/
def retrainTicks (s : State) (m : MemCtl) : Nat := rfld s (rTRAIN m) 0 21 8 * 1000 * usTicks

/-- RETRAIN_TURN (R380, R381): every RETRAIN_MS a channel has its turn, which waits while a run or an exit of another is in
progress; a channel in service runs; the turn is skipped during a frequency change and in self-refresh. A set-point
request of the tick goes first. -/
def execRetrainTurn (m : MemCtl) (ch : Chan) (s : State) : Out :=
  let x := memOf s m
  let due := mget 0 x.turns ch.val + retrainTicks s m
  if memReady s m && decide (ch.val < memChannels s m) && decide (due ≤ s.tau.mono) && arrivalsDone s && x.run.isNone &&
      x.waking.isEmpty then
    let s := withMem m (fun y => { y with turns := mset 0 y.turns ch.val due }) s
    .next (if chState s m ch.val = 0 then runStart m ch.val s else s)
  else .next s

/-- The fields of TRAIN_CTL, CH within the channels in use (R380). -/
def trainFields (m : MemCtl) (v : Word) (s : State) : State :=
  let w := writeReg false (rTRAIN m) (rget s (rTRAIN m) 0) v
  rset s (rTRAIN m) 0 (setFld w 38 32 (min (fld w 38 32) (memChannels s m - 1)))

/-- A host write of TRAIN_CTL with GO: refused with RESULT 4 where CH is retired or absent or a run or change is in
progress; a channel in self-refresh starts its exit, which includes the run (R380, R381, R384). -/
def trainGo (m : MemCtl) (v : Word) (s : State) : State :=
  let s := trainFields m v s
  let c := rfld s (rTRAIN m) 0 38 32
  if bit v 0 then
    if runBusy s m then rsetF s (rTRAIN m) 0 62 60 4
    else match chState s m c with
      | 0 => runStart m c s
      | 3 => wakeChan m c s
      | _ => rsetF s (rTRAIN m) 0 62 60 4
  else s

/-- TRAIN_GO (R380, R381). -/
def execTrainGo (m : MemCtl) (v : Word) (s : State) : Out :=
  servedWrite (regAddr (rTRAIN m) 0) (.next (trainGo m v s)) s

/-- TRAIN_ABORT (R381): the run in progress ends, its data discarded, with RESULT 3. -/
def execTrainAbort (m : MemCtl) (v : Word) (s : State) : Out :=
  let t := trainFields m v s
  servedWrite (regAddr (rTRAIN m) 0)
    (.next (match (memOf t m).run with | some (c, _) => if bit v 1 then runEnd m c 3 t else t | none => t)) s

/-- TRAIN_RUN_END (R381, R468): not while the sequencer of the run does not run; RESULT 1 where an eye was found; otherwise RESULT 2 and a fault counted against the
channel (R528). -/
def execTrainRunEnd (m : MemCtl) (ch : Chan) (eye : Bool) (s : State) : Out :=
  match (memOf s m).run with
  | some (c, _) =>
    if c = ch.val ∧ seqDown s (if m = .mcd then 0 else 2) = false then .next (runEnd m c (if eye then 1 else 2) (if eye then s else eyeFault m c s)) else .next s
  | none => .next s

/-- A set point is asked for (R379, R381): an untrained one is refused; during a run, an exit or a change the request is
held, as it is until channels in self-refresh have come out of it; else the change starts. -/
def freqRequest (m : MemCtl) (v : Word) (s : State) : State :=
  let t := fld v 1 0
  if rbit s (rFREQ m) 0 (60 + t) then
    let s := withMem m (fun x => { x with nextReq := some t }) (rsetF s (rFREQ m) 0 1 0 t)
    nextChange m (rsetF s (rSTATUS m) 0 57 57 1)
  else rsetF s (rSTATUS m) 0 60 60 1

/-- FREQ_REQUEST (R379, R381). -/
def execFreqRequest (m : MemCtl) (v : Word) (s : State) : Out :=
  servedWrite (regAddr (rFREQ m) 0) (.next (freqRequest m v s)) s

/-- FREQ_CHANGE_END (R381, R382): the target is in force, and each channel has had its run at it;
a held request starts the next change, otherwise channels serve again, owe no refresh, and serve what
was held. RESULT is that of the run of the highest channel, the last in turn (log 53). -/
def execFreqChangeEnd (m : ChangeEnd) (s : State) : Out :=
  let noEye := m.noEye
  let m := m.ctl
  match (memOf s m).change with
  | none => .next s
  | some t =>
    let cs := chansIn s m 2
    let bad (c : Nat) : Bool := noEye.any (fun e => decide (e.val = c))
    let s := rsetF (withMem m (fun x => { x with change := none }) s) (rSTATUS m) 0 59 58 t
    let s := cs.foldl (fun s c => setChState m c 0 (if bad c then eyeFault m c s else s)) s
    let s := match cs.getLast? with | some c => trainResult m (if bad c then 2 else 1) s | none => showBusy m s
    .next (nextChange m (refReset m (fun c => decide (c ∈ cs)) s))

/-! ### Self-refresh (R384) -/

/-- SELF_REFRESH_ENTER (R384): a channel without a request for AUTO_SR_US, those of this tick among them, is refreshed and
enters. -/
def execSelfRefreshEnter (m : MemCtl) (ch : Chan) (s : State) : Out :=
  let a := rfld s (rPWR m) 0 15 0
  if memReady s m && decide (a ≠ 0) && decide (chState s m ch.val = 0) &&
      timeUp s (mget 0 (memOf s m).lastReq ch.val + usTicks * a) then
    .next (setChState m ch.val 3 (refreshDown m (fun c => decide (c = ch.val)) s))
  else .next s

/-- SELF_REFRESH_EXIT_DONE (R383, R384): the exit, with its periodic run, is complete: the channel serves again and serves
what was held. -/
def execSelfRefreshExitDone (m : MemCtl) (ch : ExitEnd) (s : State) : Out :=
  let eye := ch.eye
  let ch := ch.chan
  if (memOf s m).waking.contains ch.val then
    let s := withMem m (fun x => { x with waking := x.waking.filter (fun c => decide (c ≠ ch.val)) }) s
    let s := trainResult m (if eye then 1 else 2) (if eye then s else eyeFault m ch.val s)
    let s := refReset m (fun c => decide (c = ch.val)) (setChState m ch.val 0 s)
    .next (nextChange m (touchChan m ch.val s))
  else .next s

/-! ### Scrubbing and the window (R387, R390) -/

/-- The bytes a scrub read covers: what the code of R385 covers. -/
def scrubGrain (m : MemCtl) : Nat := match m with | .mcd => 64 | .mch => 32

/-- The scrubber's next read has its turn: the reads of a pass are spread evenly over PASS_H hours (R387). -/
def scrubDue (s : State) (m : MemCtl) : Bool :=
  decide (rfld s (rSCRUB m) 0 15 0 * 3600 * 1000000 * usTicks ≤
    (s.tau.mono - (memOf s m).scrubLast) * (memSize s m / scrubGrain m))

/-- A scrub read is made: it is an access to its bank, and no unit's request. -/
def scrubDo (m : MemCtl) (a : Nat) (ecc : EccResult) (s : State) : State := eccEvent m a ecc (bankUse m a s)

/-- The scrubber moves on from an address: a retired one is passed over, and the read of one whose channel does not serve
now waits for it. -/
def scrubStep (m : MemCtl) (a : Nat) (ecc : EccResult) (s : State) : State :=
  let s := withMem m (fun x => { x with scrubAt := (a + scrubGrain m) % memSize s m, scrubLast := s.tau.mono }) s
  if memLost s m a then s
  else if memWaits s m a then withMem m (fun x => { x with scrubWait := x.scrubWait ++ [a] }) s
  else scrubDo m a ecc s

/-- SCRUB_READ (R387): the next address of the pass in its turn, or one whose channel has woken since. -/
def execScrubRead (m : MemCtl) (addr : Nat) (ecc : EccResult) (s : State) : Out :=
  let x := memOf s m
  if rbit s (rSCRUB m) 0 63 && memReady s m && decide (addr < memSize s m) then
    if x.scrubWait.contains addr then
      if memWaits s m addr then .next s
      else
        let s := withMem m (fun x => { x with scrubWait := x.scrubWait.erase addr }) s
        .next (if memLost s m addr then s else scrubDo m addr ecc s)
    else if decide (addr = x.scrubAt) && scrubDue s m then .next (scrubStep m addr ecc s)
    else .next s
  else .next s

/-- A window command (R390): the fields are stored and, with GO, the access starts; nothing while BUSY is 1. It
counts as a request for the map lock and for self-refresh. -/
def winStart (m : MemCtl) (write : Bool) (v : Word) (s : State) : State :=
  if rbit s (rWINC m) 0 63 then s
  else
    let s := rsetF s (rWINC m) 0 1 1 write.toNat
    if bit v 0 then
      let s := rsetF (rsetF s (rWINC m) 0 63 63 1) (rWINC m) 0 62 60 0
      let s := withMem m (fun x => { x with win := some ⟨write, x.arrived⟩, arrived := x.arrived + 1 }) s
      memAsk m (rget s (rWINA m) 0).toNat s
    else s

/-- WINDOW_READ (R390). -/
def execWindowRead (m : MemCtl) (v : Word) (s : State) : Out :=
  servedWrite (regAddr (rWINC m) 0) (.next (winStart m false v s)) s

/-- WINDOW_WRITE (R390). -/
def execWindowWrite (m : MemCtl) (v : Word) (s : State) : Out :=
  servedWrite (regAddr (rWINC m) 0) (.next (winStart m true v s)) s

/-- The eight words of the window's data. -/
def winData (s : State) (m : MemCtl) : Bytes := (List.range 8).flatMap (fun k => leBytes 8 (rget s (rWIND m) k).toNat)

/-- Sixty-four bytes loaded into the window's data. -/
def winLoadData (m : MemCtl) (bs : Bytes) (s : State) : State :=
  (List.range 8).foldl (fun s k => rset s (rWIND m) k (BitVec.ofNat 64 (leNat ((bs.drop (8 * k)).take 8)))) s

/-- What an uncorrectable read loads into the window: the manual does not state the data (log 3). -/
def winLoadFree (m : MemCtl) (s : State) : State :=
  let s := (List.range 8).foldl (fun t k => rset t (rWIND m) k (Config.freeWord (s.freeCtr + k))) s
  { s with freeCtr := s.freeCtr + 8 }

/-- The outcome of a window access at an address: RESULT and the state (R390, R392). -/
def winDo (m : MemCtl) (write : Bool) (a : Nat) (ecc : EccResult) (s : State) : Nat × State :=
  if memReady s m = false then (5, s)
  else if memSize s m < a + 64 then (3, s)
  else if memLost s m a then (4, if write then s else winLoadData m (memRead s m a 64) (lostRead m a s))
  else
    let t := bankUse m a s
    if write then (1, memWrite m a (winData s m) t)
    else
      let t := occur (memBlock m) 1 (chanOf t m a) 1 (eccEvent m a ecc t)
      if ecc = .uncorrectable then (2, winLoadFree m t) else (1, winLoadData m (memShow t m a 64) t)

/-- The window access in progress cannot be served yet: its channel holds requests, or one that arrived before it has not
been served (R383). -/
def winWaits (s : State) (m : MemCtl) (w : WinOp) (a : Nat) : Bool :=
  memReady s m && decide (a + 64 ≤ memSize s m) &&
    (memWaits s m a || (memOf s m).held.any (fun h => decide (h.chan = chanOf s m a ∧ h.no < w.no)))

/-- WINDOW_ACCESS_DONE (R383, R390): BUSY clears with the result; while the channel holds requests the access waits, and
a channel in self-refresh wakes for it. -/
def execWindowAccessDone (m : MemCtl) (ecc : EccResult) (s : State) : Out :=
  match (memOf s m).win with
  | none => .next s
  | some w =>
    let a := (rget s (rWINA m) 0).toNat
    if winWaits s m w a then .next (wakeChan m (chanOf s m a) s)
    else
      let r := winDo m w.write a ecc s
      .next (memRelease m
        (rsetF (rsetF (withMem m (fun x => { x with win := none }) r.2) (rWINC m) 0 62 60 r.1) (rWINC m) 0 63 63 0))

/-! ### Start-up and retirement (R388, R391) -/

/-- A channel's RETIRE bit and STATE 4: the requests held for it find lost memory, its run ends aborted, and its exit is
over. -/
def chanRetire (m : MemCtl) (c : Nat) (s : State) : State :=
  let s := setChState m c 4 (rsetF s (rRET m) (c / 64) (c % 64) (c % 64) 1)
  let out := (memOf s m).held.filter (fun h => decide (h.chan = c))
  let s := withMem m (fun x => { x with held := x.held.filter (fun h => decide (h.chan ≠ c)),
                                        waking := x.waking.filter (fun d => decide (d ≠ c)) }) s
  let s := out.foldl (fun s h => if h.own.isSome then s else lostAccess m h.req s) s
  if (memOf s m).run.any (fun r => decide (r.1 = c)) then
    nextChange m (trainResult m 3 (withMem m (fun x => { x with run := none }) s))
  else nextChange m (showBusy m s)

/-- TRAINED: the set points that the board record in force enables, and that no channel failed; set point 0 always
(R391, R516). -/
def trainedSets (s : State) (m : MemCtl) (good : BitVec 4) : BitVec 4 :=
  let board := match s.hrt.inUse with | some c => c.data.take 64 | none => Config.defaultBoard
  (good &&& Config.setPoints board (decide (m = .mch))) ||| 1

/-- MEMORY_READY (R391): channels that failed at set point 0 are retired, TRAINED is set, set point 0 is in force,
memory is zero, and READY is set. A channel retired before stays so; the turns of R380 are spread from now on. -/
def execMemoryReady (m : MemCtl) (init : MemInit) (s : State) : Out :=
  if memReady s m = true ∨ memChannels s m = 0 then .next s
  else
    let n := memChannels s m
    let s := (List.range n).foldl (fun s c => if chanRetired s m c then s else setChState m c 0 s) s
    let s := init.failed.foldl (fun s c => if c.val < memChannels s m then
      let k := match m with | .mcd => 5 | .mch => 6
      retireMark k c.val false 0 (chanRetire m c.val s) else s) s
    let s := rsetF (rsetF s (rFREQ m) 0 63 60 (trainedSets s m init.trained).toNat) (rSTATUS m) 0 59 58 0
    let s := refReset m (fun _ => true) (withMem m (fun x => { x with
      bytes := [], scrubLast := s.tau.mono
      turns := (List.range n).foldl (fun t c => mset 0 t c (s.tau.mono + retrainTicks s m * c / n)) [] }) s)
    .next (bpmLost m (rsetF s (rSTATUS m) 0 63 63 1))

/-- Kind and number of a memory unit (R528). -/
def memUnitNo (u : MemUnit) : Nat × Nat :=
  match u with | .ddr5 c => (5, c.val) | .hbmPc p => (6, p.val) | .hbmCh c => (7, c.val)

/-- MEMORY_UNIT_RETIRE (R346, R388): the unit stops, its addresses are lost memory, and their billets retire. -/
def execMemoryUnitRetire (u : MemUnit) (sw : Bool) (s : State) : Out :=
  let k := memUnitNo u
  if retireDue s k.1 k.2 sw then
    let s := retireMark k.1 k.2 sw 0 s
    match u with
    | .ddr5 c => .next (bpmLost .mcd (chanRetire .mcd c.val s))
    | .hbmPc p => .next (bpmLost .mch (chanRetire .mch p.val s))
    | .hbmCh c =>
      let pc (s : State) (p : Nat) := chanRetire .mch p (unitSet s 6 p { unitGet s 6 p with state := 1 })
      .next (bpmLost .mch (rsetF (pc (pc s (2 * c.val)) (2 * c.val + 1)) R.MCH_CH_RETIRE 0 c.val c.val 1))
  else .next s

end Sys2Proof.Machine
end

