-- ==== Sys2Proof/Machine/TmgTree.lean ====
section
/-! DEFINITION. The queue hierarchy of the traffic manager: paths (R283 to R288), token buckets (R304, R305), gate
control lists (R314 to R318), eligibility and the deficit round robin of a node (R303). -/

namespace Sys2Proof.Machine
open Sys2Proof

/-- The traffic manager changed. -/
def withTmg (f : Tmg → Tmg) (s : State) : State := { s with tmg := f s.tmg }

/-- A queue. -/
def queueOf (s : State) (q : Nat) : Queue_ := mget Queue_.init s.tmg.qs q

/-- A queue replaced. -/
def setQueue (q : Nat) (x : Queue_) (s : State) : State := withTmg (fun t => { t with qs := mset Queue_.init t.qs q x }) s

/-- OCC of a queue: the cells of its skein. -/
def occOf (x : Queue_) : Nat := x.skein.foldl (fun n e => n + e.cells.length) 0

/-- KIND of a queue: a VOQ. -/
def isVoq (s : State) (q : Nat) : Bool := rbit s R.TMG_Q_CFG q 62

/-- The parents of an egress queue: class set, group, sub-port and port (R283). -/
def parents (s : State) (q : Nat) : Nat × Nat × Nat × Nat :=
  let c := rfld s R.TMG_Q_CFG q 18 0
  let g := rfld s R.TMG_CS_CFG c 16 0
  let b := rfld s R.TMG_GRP_CFG g 16 0
  (c, g, b, rfld s R.TMG_SP_CFG b 16 0)

/-- The port at the top of an egress queue's path. -/
def portOfQueue (s : State) (q : Nat) : Nat := (parents s q).2.2.2

/-- Key of node `n` of level `l`. -/
def nodeKey (l n : Nat) : Nat := l * 2 ^ 19 + n

/-- The nodes of an egress queue's path, port first (R283). -/
def pathOf (s : State) (q : Nat) : List Nat :=
  let p := parents s q
  [nodeKey 1 p.2.2.2, nodeKey 2 p.2.2.1, nodeKey 3 p.2.1, nodeKey 4 p.1, nodeKey 5 q]

/-- The shaper register of a level (R304). -/
def shapeReg (l : Nat) : Reg :=
  match l with
  | 1 => R.TMG_PORT_SHAPE
  | 2 => R.TMG_SP_SHAPE
  | 3 => R.TMG_GRP_SHAPE
  | 4 => R.TMG_CS_SHAPE
  | _ => R.TMG_Q_SHAPE

/-- The configuration register of a level. -/
def cfgReg (l : Nat) : Reg :=
  match l with
  | 1 => R.TMG_PORT_CFG
  | 2 => R.TMG_SP_CFG
  | 3 => R.TMG_GRP_CFG
  | 4 => R.TMG_CS_CFG
  | _ => R.TMG_Q_CFG

/-- The shaper of a node. -/
def shapeOf (s : State) (k : Nat) : Word := rget s (shapeReg (k / 2 ^ 19)) (k % 2 ^ 19)

/-- The configuration word of a node. -/
def cfgOf (s : State) (k : Nat) : Word := rget s (cfgReg (k / 2 ^ 19)) (k % 2 ^ 19)

/-! ### Token buckets (R305) -/

/-- Buckets that were never charged. -/
def noBucket : Bucket := ⟨none, none, 0⟩

/-- Bucket units in a byte: a rate of 100 kbit/s adds one unit a tick. -/
def byteUnits : Int := 128000

/-- A bucket's burst, in bucket units. -/
def burst (e : Nat) : Int := 2 ^ e * byteUnits

/-- The content of a bucket after `dt` ticks at a rate: full where it was never charged. -/
def fillBucket (v : Option Int) (rate e dt : Nat) : Int :=
  match v with
  | none => burst e
  | some x => min (burst e) (x + rate * dt)

/-- A node's peak and committed contents now. -/
def bucketNow (s : State) (k : Nat) : Int × Int :=
  let b := mget noBucket s.tmg.buckets k
  let w := shapeOf s k
  let dt := (s.tau.mono + 2 ^ 64 - b.last) % 2 ^ 64
  (fillBucket b.peak (fld w 63 40) (fld w 15 11) dt, fillBucket b.comm (fld w 39 16) (fld w 10 6) dt)

/-- A bucket charged `n` bytes of a packet of `len`: it falls below zero by no more than one packet, so service in
excess takes nothing further from a bucket that lies lower than the packet's length (R305, log 20). -/
def chargeBucket (v : Int) (n len : Nat) : Int := min v (max (v - n * byteUnits) (-(len * byteUnits)))

/-- `n` bytes of a packet of `len` charged to both buckets of a node (R305). A bucket whose rate is zero limits nothing,
but it is charged, and it does not fill. -/
def chargeNode (n len : Nat) (s : State) (k : Nat) : State :=
  let v := bucketNow s k
  let b : Bucket := ⟨some (chargeBucket v.1 n len), some (chargeBucket v.2 n len), s.tau.mono⟩
  withTmg (fun t => { t with buckets := mset noBucket t.buckets k b }) s

/-- A node's shaper takes a value; each bucket keeps its content, capped at its new burst (R305, R307). -/
def setShape (k : Nat) (w : Word) (s : State) : State :=
  let v := bucketNow s k
  let b := mget noBucket s.tmg.buckets k
  let s := rset s (shapeReg (k / 2 ^ 19)) (k % 2 ^ 19) w
  withTmg (fun t => { t with buckets := mset noBucket t.buckets k (Bucket.mk
    (b.peak.map (fun _ => min v.1 (burst (fld w 15 11)))) (b.comm.map (fun _ => min v.2 (burst (fld w 10 6))))
    (if b.peak.isNone && b.comm.isNone then 0 else s.tau.mono)) }) s

/-- PIR: a non-zero value below CIR becomes CIR (R304). -/
def clampShape (w : Word) : Word :=
  if fld w 63 40 ≠ 0 ∧ fld w 63 40 < fld w 39 16 then setFld w 63 40 (fld w 39 16) else w

/-- The peak bucket of a node is not negative; PIR 0 sets no peak limit. -/
def peakOk (s : State) (k : Nat) : Bool := decide (fld (shapeOf s k) 63 40 = 0) || decide (0 ≤ (bucketNow s k).1)

/-- A child is committed: its CIR is not zero and its committed bucket is not negative. -/
def committed (s : State) (k : Nat) : Bool :=
  decide (fld (shapeOf s k) 39 16 ≠ 0) && decide (0 ≤ (bucketNow s k).2)

/-! ### Gate control lists (R314 to R318) -/

/-- The rate of a line port by its MODE, in Gbit/s (R247, R309). -/
def portRate (s : State) (p : Nat) : Nat :=
  [0, 10, 25, 50, 100, 100, 100, 200, 200, 400, 400, 800, 400, 0, 0, 0].getD (rfld s R.LIU_PORT_CFG p 3 0) 0

/-- OVERHEAD of a port. -/
def overhead (s : State) (p : Nat) : Nat := rfld s R.TMG_PORT_CFG p 45 40

/-- Address of entry `k` of list `l` of a port. -/
def gclEntry (s : State) (p l k : Nat) : Word := rget s R.TMG_GCL (512 * p + 256 * l + k)

/-- The sum of the intervals of the first `n` entries of a list, in ns. -/
def gclSum (s : State) (p l n : Nat) : Nat :=
  (List.range n).foldl (fun a k => a + fld (gclEntry s p l k) 31 0) 0

/-- The entries of a list within a cycle, as gates and length in ns: cut at the cycle's end, the last extended to it
(R317). -/
def gclSegs (s : State) (p l n cycle : Nat) : List (Nat × Nat) :=
  ((List.range n).filterMap (fun k =>
    let a := gclSum s p l k
    let b := if k + 1 = n then cycle else min cycle (gclSum s p l (k + 1))
    if a < b then some (fld (gclEntry s p l k) 63 56, b - a) else none))

/-- How long gate `t` stays open along a run of entries. -/
def openRun (t : Nat) (l : List (Nat × Nat)) : Nat :=
  match l with
  | [] => 0
  | e :: r => if e.1.testBit t then e.2 + openRun t r else 0

/-- No time at all: a gate open without end. -/
def forever : Nat := 2 ^ 64

/-- How long gate `t` stays open from the start of entry `i`, in ns. -/
def openFrom (t : Nat) (segs : List (Nat × Nat)) (i : Nat) : Nat :=
  if segs.all (fun e => e.1.testBit t) then forever else openRun t (segs.drop i ++ segs.take i)

/-- The longest open time of each gate of a list, in ns (R318). -/
def gclLongest (segs : List (Nat × Nat)) : List Nat :=
  (List.range 8).map (fun t => (List.range segs.length).foldl (fun m i => max m (openFrom t segs i)) 0)

/-- The entry that governs a position and how far the position lies into it, both in 2^-48 ns. -/
def segAt (segs : List (Nat × Nat)) (pos : Nat) : Nat × Nat :=
  match segs with
  | [] => (0, 0)
  | e :: r => if pos < e.2 * nsUnits then (0, pos) else let x := segAt r (pos - e.2 * nsUnits); (x.1 + 1, x.2)

/-- A port's gate state. -/
def gclOf (s : State) (p : Nat) : Gcl := mget ⟨0, [], []⟩ s.tmg.gcl p

/-- EN of a port's gate control list. -/
def gclEn (s : State) (p : Nat) : Bool := rbit s R.TMG_GCL_CFG p 63

/-- The operational list of a port within its cycle. -/
def operSegs (s : State) (p : Nat) : List (Nat × Nat) :=
  gclSegs s p (rfld s R.TMG_GCL_CFG p 62 62) (rfld s R.TMG_GCL_CFG p 32 24) (rfld s R.TMG_GCL_CYCLE p 63 32)

/-- The bits of a packet of `len` bytes on the wire of a port, by R305. -/
def wireBits (s : State) (p len : Nat) : Nat := (len + overhead s p) * 8

/-- The gate of a class lets a packet of `len` bytes through now (R317). A list of no cycle keeps every gate as its
first entry says. -/
def gateAllows (s : State) (p t len : Nat) : Bool :=
  if gclEn s p then
    let cyc := rfld s R.TMG_GCL_CYCLE p 63 32
    if cyc = 0 then (fld (gclEntry s p (rfld s R.TMG_GCL_CFG p 62 62) 0) 63 56).testBit t
    else
      let segs := operSegs s p
      let m : Int := cyc * nsUnits
      let pos := (((qPhcNow s : Int) - (gclOf s p).start) % m).toNat
      let a := segAt segs pos
      let o := openFrom t segs a.1
      decide (wireBits s p len * nsUnits ≤ (o * nsUnits - a.2) * portRate s p)
  else true

/-- A packet is longer than any open time of its gate recorded at the swap (R318). -/
def gateOversize (s : State) (p t len : Nat) : Bool :=
  gclEn s p && decide ((gclOf s p).longest.getD t forever * portRate s p < wireBits s p len)

/-! ### Eligibility and selection (R303) -/

/-- STATE of a port is up (R319). -/
def portUp (s : State) (p : Nat) : Bool := decide (rfld s R.TMG_PORT_STAT p 63 62 = 0)

/-- A head packet that a scheduler may select: its last byte stored and good, or cut through and not found bad (R303,
R308, R312). -/
def headReady (e : QPkt) : Bool := e.stored || (e.cut && !e.pkt.bad)

/-- The length by which a packet is judged at a gate and charged at selection: 512 where it is not yet known
(R305). -/
def chargeLen (e : QPkt) : Nat := if e.stored then frameLen e.pkt else 512

/-- A queue has a head packet that its gate allows, on a port that is up: a node of a port that is bound off has left
selection (R303, R319). -/
def queueHead (s : State) (q : Nat) (x : Queue_) : Bool :=
  match x.skein with
  | [] => false
  | e :: _ => !isVoq s q && headReady e && portUp s (portOfQueue s q) &&
      gateAllows s (portOfQueue s q) (rfld s R.TMG_Q_CFG q 61 59) (chargeLen e)

/-- A child with something to send may be selected: SERVE is 1, for a node, and its peak bucket is not negative
(R303). -/
def childOpen (s : State) (k : Nat) : Bool := peakOk s k && (decide (k / 2 ^ 19 = 5) || bit (cfgOf s k) 63)

/-- The nodes of a queue's path that the queue makes eligible, from the queue up: a node above one that is not eligible
gains nothing from it, and those below it stay eligible (R303). -/
def eligibleUp (s : State) (q : Nat) (x : Queue_) : List Nat :=
  if queueHead s q x then (pathOf s q).reverse.takeWhile (childOpen s) else []

/-- A queue its port may select now: the queue and every node of its path are eligible. -/
def queueEligible (s : State) (q : Nat) (x : Queue_) : Bool := queueHead s q x && (pathOf s q).all (childOpen s)

/-- The queues that may be selected now, in rising order. -/
def eligibleQueues (s : State) : List Nat :=
  (s.tmg.qs.filter (fun e => queueEligible s e.1 e.2)).map (fun e => e.1)

/-- Every eligible child of the hierarchy (R303). -/
def eligibleNodes (s : State) : List Nat := ((s.tmg.qs.map (fun e => eligibleUp s e.1 e.2)).flatten).dedup

/-- Both deficits of a child set to zero. -/
def clearDeficit (k : Nat) (s : State) : State :=
  withTmg (fun t => { t with defs := mdel (mdel t.defs (2 * k)) (2 * k + 1) }) s

/-- Eligibility judged again: a child that has become ineligible loses its deficits (R303). -/
def judgeElig (s : State) : State :=
  let now := eligibleNodes s
  let s := (s.tmg.elig.filter (fun k => !now.contains k)).foldl (fun s k => clearDeficit k s) s
  withTmg (fun t => { t with elig := now }) s

/-- The deficit of child `k` in a round: 0 committed, 1 excess. -/
def deficit (s : State) (k r : Nat) : Int := mget 0 s.tmg.defs (2 * k + r)

/-- A deficit changed. -/
def addDeficit (k r : Nat) (v : Int) (s : State) : State :=
  withTmg (fun t => { t with defs := mmod 0 t.defs (2 * k + r) (fun d => d + v) }) s

/-- The child after `c` in cyclic order among rising children. -/
def nextChild (cs : List Nat) (c : Nat) : Option Nat :=
  match cs.find? (fun k => decide (c < k)) with
  | some k => some k
  | none => cs.head?

/-- Turns taken until a child's deficit is positive (R303). -/
def takeTurns (cs : List Nat) (r : Nat) : Nat → Nat → State → State × Nat
  | 0, c, s => (s, c)
  | f + 1, c, s =>
    match nextChild cs c with
    | none => (s, c)
    | some k =>
      let s := addDeficit k r (fld (cfgOf s k) 55 44 * 64) s
      if 0 < deficit s k r then (s, k) else takeTurns cs r f k s

/-- The child a node serves in a round: the one being served while its deficit is positive, otherwise the next in
turn. -/
def drrPick (node r : Nat) (cs : List Nat) (s : State) : State × Nat :=
  let c := mget 0 s.tmg.rr (2 * node + r)
  let x := if cs.contains c ∧ 0 < deficit s c r then (s, c)
    else takeTurns cs r (cs.foldl (fun n k => n + (deficit s k r).natAbs / 64 + 2) 2) c s
  (withTmg (fun t => { t with rr := mset 0 t.rr (2 * node + r) x.2 }) x.1, x.2)

/-- One step of the selection: the child of a node, with the deficit it is served under. -/
def pickChild (node : Nat) (cs : List Nat) (s : State) : State × Nat × Nat :=
  let com := cs.filter (fun k => committed s k)
  let r := if com = [] then 1 else 0
  let set := if com = [] then cs else com
  let pr := set.foldl (fun m k => min m (fld (cfgOf s k) 58 56)) 7
  let x := drrPick node r (set.filter (fun k => decide (fld (cfgOf s k) 58 56 = pr))) s
  (x.1, x.2, 2 * x.2 + r)

/-- The selection from a node of level `5 - f` down: the queue, and the deficits it was selected under. -/
def descend (qs : List Nat) : Nat → Nat → State → State × Nat × List Nat
  | 0, node, s => (s, node % 2 ^ 19, [])
  | f + 1, node, s =>
    let cs := (qs.filter (fun q => (pathOf s q).contains node)).filterMap (fun q => (pathOf s q)[4 - f]?)
    let x := pickChild node (sortNat cs).dedup s
    let y := descend qs f x.2.1 x.1
    (y.1, y.2.1, x.2.2 :: y.2.2)

end Sys2Proof.Machine
end

