-- ==== Sys2Proof/Machine/TmgAdmit.lean ====
section
/-! DEFINITION. Admission to the traffic manager (R289 to R300): path, replication, checks, cells and their placement,
cut-through (R309), mirroring, sampling and capture (R323 to R330). -/

namespace Sys2Proof.Machine
open Sys2Proof

/-- A packet or copy refused or discarded with a code: TMG_DROP and the Gauge event of the code (R299, R486). -/
def tmgDrop (code : Nat) (s : State) : State := occur 7 3 code 1 (rcount s R.TMG_DROP code 47 0 1)

/-- QUEUE of a packet. -/
def pktQueue (p : Packet) : Nat := mdF p 1 31 13

/-- DST_PORT of a packet. -/
def pktPort (p : Packet) : Nat := mdF p 2 20 14

/-- ADM_PROFILE of a queue. -/
def admProfile (s : State) (q : Nat) : Nat := rfld s R.TMG_Q_CFG q 43 36

/-- SPILL of a queue's admission profile. -/
def spillAt (s : State) (q : Nat) : Nat := rfld s R.TMG_ADM_CFG (admProfile s q) 31 4

/-- SRAM_POOL. -/
def sramPool (s : State) : Nat := rfld s R.TMG_BUF_CFG 0 11 8

/-- HBM_POOL. -/
def hbmPool (s : State) : Nat := rfld s R.TMG_BUF_CFG 0 3 0

/-- AVG of a queue moved towards OCC (R298): both with 16 fraction bits, the difference shifted arithmetically. -/
def avgUpdate (q : Nat) (s : State) : State :=
  let x := queueOf s q
  let d : Int := (occOf x : Int) * 65536 - x.avg
  setQueue q { x with avg := ((x.avg : Int) + d / 2 ^ rfld s R.TMG_ADM_CFG (admProfile s q) 35 32).toNat } s

/-- A queue is in spill, or enters it on taking a cell now (R300). -/
def spills (s : State) (q : Nat) : Bool :=
  let x := queueOf s q
  x.spill || decide (spillAt s q ≤ occOf x) || decide (poolStateFor s (sramPool s) ≠ 0)

/-- A cell is HBM's. -/
def hbmCell (s : State) (k : Nat) : Bool := decide (k / 2 ^ 32 ≠ sramPool s)

/-- A queue leaves spill once it holds no HBM cell and its OCC is below SPILL (R300). -/
def unspill (q : Nat) (s : State) : State :=
  let x := queueOf s q
  if x.spill && !x.skein.any (fun e => e.cells.any (hbmCell s)) && decide (occOf x < spillAt s q) then
    setQueue q { x with spill := false } s
  else s

/-- Every queue judged for leaving spill, after a write that changes what SPILL is (R300). -/
def unspillAll (s : State) : State := s.tmg.qs.foldl (fun s e => unspill e.1 s) s

/-- Packets of which the fabric has sent a part are sent no further. -/
def sendingStop (pids : List Nat) (s : State) : State :=
  { s with fab := { s.fab with dsts := s.fab.dsts.map (fun e =>
      (e.1, { e.2 with sending := e.2.sending.filter (fun w => !pids.contains w.pid) })) } }

/-- The valid entries of a multicast group, none where it is not enabled (R291 to R293). -/
def mcEntries (s : State) (m : Nat) : List Word :=
  if rbit s R.TMG_MC_HEAD m 63 then
    ((List.range (rfld s R.TMG_MC_HEAD m 8 0)).map (fun i => rget s R.TMG_MC_ENTRY (rfld s R.TMG_MC_HEAD m 49 32 + i))).filter
      (fun w => bit w 63)
  else []

/-- A copy of a packet for a queue, device and port, with MCAST 0 (R291). -/
def copyFor (p : Packet) (pid q dev port : Nat) : Packet :=
  mdSet (mdSet (mdSet (mdSet { p with pid := pid } 1 31 13 q) 1 7 7 0) 2 31 21 dev) 2 20 14 port

/-- The pool that supplies a packet's cells (R300): one decision places them. -/
def placePool (s : State) (p : Packet) : Nat :=
  let bad := decide (poolStateFor s (sramPool s) ≠ 0)
  let hbm := if mdF p 1 7 7 = 1 then
      let qs := mcEntries s (mdF p 2 13 0)
      bad || (!qs.isEmpty && qs.all (fun w => (queueOf s (fld w 62 44)).spill))
    else spills s (pktQueue p)
  if hbm then hbmPool s else sramPool s

/-- Cells that a packet of `n` bytes needs (R295). -/
def cellsFor (n : Nat) : Nat := (n + 64 + 255) / 256

/-- `n` cells taken from a pool for the TMG: whether all could be had, and those that were. -/
def takeCells (pool : Nat) : Nat → List Nat → State → Bool × List Nat × State
  | 0, ks, s => (true, ks.reverse, s)
  | n + 1, ks, s =>
    match tmgAllocate pool s with
    | some (k, t) => takeCells pool n (k :: ks) t
    | none => (false, ks.reverse, countRefused pool s)

/-- The kind of queue a packet's path needs: some 0 local, some 1 fabric, none unreachable (R289). -/
def pathKind (s : State) (p : Packet) : Option Bool :=
  let mode := rfld s R.GLB_SYS_MODE 0 1 0
  if mdF p 2 31 21 = rfld s R.GLB_SYS_MODE 0 26 16 then
    some (decide (mode = 2) && !rbit s R.GLB_SYS_MODE 0 8)
  else if mode = 0 then none else some true

/-- The drop probability of WRED in units of 2^-16 for an AVG with 16 fraction bits (R298). -/
def wredP (avg mn mx maxp : Nat) : Nat := maxp * 256 * (avg - mn * 65536) / ((mx - mn) * 65536)

/-- Check 8 (R298). -/
def wredAdmits (s : State) (q color r : Nat) : Bool :=
  let w := rget s R.TMG_ADM_WRED (4 * admProfile s q + color)
  let avg := (queueOf s q).avg
  if avg < fld w 27 0 * 65536 then true
  else if fld w 55 28 * 65536 ≤ avg then false
  else !decide (r < wredP avg (fld w 27 0) (fld w 55 28) (fld w 63 56))

/-- The checks of R294, in order, for a packet or copy that needs `n` cells of a pool: the first that fails, 0 where
all pass. A packet from the fabric takes the local path (R290); `r` is the random number of check 8. -/
def admitCheck (s : State) (p : Packet) (fabric : Bool) (pool n r : Nat) : Nat :=
  let q := pktQueue p
  let st := poolStateFor s pool
  match (if fabric then some false else pathKind s p) with
  | none => 1
  | some voq =>
    if isVoq s q ≠ voq then 2
    else if !rbit s R.TMG_Q_CFG q 63 then 3
    else if !voq && decide (pktPort p ≠ portOfQueue s q) then 4
    else if !voq && !portUp s (portOfQueue s q) then 5
    else if st = 2 then 6
    else if st = 1 ∧ mdF p 1 9 8 ≠ 0 then 7
    else if rfld s R.TMG_ADM_CFG (admProfile s q) 63 36 < occOf (queueOf s q) + n then 8
    else if !wredAdmits s q (mdF p 1 9 8) r then 9
    else 0

/-- A packet may cut through (R309). -/
def mayCut (s : State) (p : Packet) (voq : Bool) : Bool :=
  let q := pktQueue p
  let tc := mdF p 1 12 10
  let port := portOfQueue s q
  decide (mdF p 1 4 4 = 0) && (queueOf s q).skein.isEmpty && !spills s q &&
    (if voq then rbit s R.TMG_CT_CFG 0 63 && (rfld s R.TMG_CT_CFG 0 62 55).testBit tc
     else rbit s R.TMG_PORT_CFG port 62 && (rfld s R.TMG_PORT_CFG port 61 54).testBit tc && !gclEn s port &&
       decide (portRate s port ≤ portRate s (mdF p 0 25 19)))

/-- A packet joins its queue, which enters or leaves spill (R300). A complete good packet is stored at once. -/
def enqueue (p : Packet) (cells : List Nat) (fabric : Bool) (s : State) : State :=
  let q := pktQueue p
  let sp := spills s q
  let cut := !fabric && mayCut s p (isVoq s q)
  let x := queueOf s q
  occur 7 1 (pktPort p) 1 (unspill q
    (setQueue q { x with skein := x.skein ++ [⟨p, cells, cut, p.complete && !p.bad, fabric⟩], spill := sp } s))

/-- What becomes of a queue that packets have left: a VOQ that is empty keeps no positive credit (R362), and a queue may
leave spill (R300). -/
def queueLeft (q : Nat) (s : State) : State :=
  let x := queueOf s q
  unspill q (if x.skein.isEmpty && decide (0 < x.credit) then setQueue q { x with credit := 0 } s else s)

/-- A packet leaves its queue without being sent: its cells are freed, and it is counted with a code (R312). What the
fabric has still to send of it is not sent (log 31). -/
def discardFrom (q pid code : Nat) (s : State) : State :=
  let x := queueOf s q
  match takeFirst (fun e => decide (e.pkt.pid = pid)) x.skein with
  | none => s
  | some (e, rest) =>
    let s := sendingStop [pid] (setQueue q { x with skein := rest } (cellsFree e.cells s))
    queueLeft q (if code = 0 then s else tmgDrop code s)

/-- A packet discarded as it is dequeued, with code 12 or 13: a dequeue, which moves AVG (R298, R302, R318). -/
def discardHead (q pid code : Nat) (s : State) : State := avgUpdate q (discardFrom q pid code s)

/-- What admission made of one packet or copy: its code, and the cells the packet now holds. -/
structure Admitted where
  code : Nat
  cells : Option (List Nat)
  st : State

/-- One packet or copy judged (R294); the first that passes takes the packet's cells, and the others share them. -/
def admitOne (pool n : Nat) (fabric : Bool) (cells : Option (List Nat)) (p : Packet) (s : State) : Admitted :=
  let s := avgUpdate (pktQueue p) s
  let r := (Config.freeWord s.freeCtr).toNat % 65536
  let c := admitCheck s p fabric pool n r
  let s := drawn s
  if c ≠ 0 then ⟨c, cells, tmgDrop c s⟩
  else
    let fin (ks : List Nat) (s : State) : Admitted := ⟨0, some ks, enqueue p ks fabric s⟩
    match cells with
    | some ks => fin ks (cellsShare 1 ks s)
    | none =>
      let t := takeCells pool n [] s
      if t.1 then fin t.2.1 t.2.2 else ⟨6, none, tmgDrop 6 (cellsFree t.2.1 t.2.2)⟩

/-! ### Capture (R323 to R330) -/

/-- Ticks of a record at 200M records a second (R330). -/
def capTicks : Nat := 8

/-- Ticks that the records taken so far still use up now. -/
def capLoadNow (s : State) : Nat := s.tmg.capLoad.1 - (s.tau.mono + 2 ^ 64 - s.tmg.capLoad.2) % 2 ^ 64

/-- A capture request is taken: it keeps within 200M records a second, and the capture path is not full (R330). How many
requests may come at once above the rate, and how many records the path holds, the manual does not say: three at least,
since one packet may produce three records (log 63). -/
def capTakes (s : State) : Bool :=
  (decide (capLoadNow s + capTicks ≤ 3 * capTicks) || decide (capLoadNow s + capTicks ≤ capTicks * Config.capBurst)) &&
    (decide (s.tmg.cap.length < 3) || decide (s.tmg.cap.length < Config.capDepth))

/-- A capture request while the ring is enabled: a record of the layout of R329 sets out for DDR5, or the request is
dropped and counted in RATE_DROP (R330). `occ` is the queue's OCC after the decision. -/
def captureRec (type session code snap occ : Nat) (p : Packet) (s : State) : State :=
  if rbit s R.TMG_CAP_CFG 0 63 = false then s
  else if capTakes s = false then rcount s R.TMG_CAP_STAT 0 31 0 1
  else
    let size := 64 * 2 ^ rfld s R.TMG_CAP_CFG 0 62 61
    let body := (frameBytes p).take (min snap (size - 32))
    let w0 := type * 2 ^ 61 + session * 2 ^ 53 + mdF p 0 25 19 * 2 ^ 46 + pktPort p * 2 ^ 39 + mdF p 1 12 10 * 2 ^ 36 +
      mdF p 1 9 8 * 2 ^ 34 + mdF p 0 27 26 * 2 ^ 32 + mdF p 14 31 24 * 2 ^ 24 + body.length * 2 ^ 14 +
      (if p.complete then frameLen p else 0)
    let w1 := (mdWord p 4).toNat * 2 ^ 32 + mdF p 3 29 0
    let w2 := phcSec (qPhcNow s) % 2 ^ 32 * 2 ^ 32 + phcNs (qPhcNow s)
    let w3 := pktQueue p * 2 ^ 45 + occ % 2 ^ 28 * 2 ^ 17 + code * 2 ^ 13 + s.tmg.capSeq
    let bs := leBytes 8 w0 ++ leBytes 8 w1 ++ leBytes 8 w2 ++ leBytes 8 w3 ++ body
    withTmg (fun t => { t with cap := t.cap ++ [⟨bs ++ List.replicate (size - bs.length) 0⟩],
                               capSeq := (t.capSeq + 1) % 8192, capLoad := (capLoadNow s + capTicks, s.tau.mono) }) s

/-- A packet with MIRROR 1 whose session is enabled (R324): the session, and whether it sends a full copy. -/
def mirrorOf (s : State) (p : Packet) : Option (Nat × Bool) :=
  let m := mdF p 14 23 16
  if mdF p 1 6 6 = 1 ∧ rbit s R.TMG_MIR_SESSION m 63 = true then some (m, rbit s R.TMG_MIR_SESSION m 62) else none

/-- The full copy a mirror session makes: MCAST, MIRROR and SAMPLE cleared (R324). -/
def mirrorCopy (s : State) (p : Packet) (m pid : Nat) : Packet :=
  let w := rget s R.TMG_MIR_SESSION m
  mdSet (mdSet (copyFor p pid (fld w 61 43) (fld w 33 23) (fld w 22 16)) 1 6 6 0) 1 5 5 0

/-- Whether the sampler takes a packet, and the state after the choice (R325). -/
def sampleOf (p : Packet) (s : State) : Bool × State :=
  let port := mdF p 0 25 19
  let w := rget s R.TMG_SAMPLE_CFG port
  let n := fld w 23 0
  if mdF p 1 5 5 = 1 ∧ bit w 63 = true then
    match fld w 62 61 with
    | 0 => (decide ((Config.freeWord s.freeCtr).toNat % n = 0), drawn s)
    | 1 =>
      let c := mget 0 s.tmg.samples port + 1
      (decide (n ≤ c), withTmg (fun t => { t with samples := mset 0 t.samples port (if n ≤ c then 0 else c) }) s)
    | _ => (decide ((mdWord p 6).toNat % n = 0), s)
  else (false, s)

/-- A refusal under R294 counted towards refusal capture (R326): every DROP_N-th is captured. -/
def refusalCapture (code occ : Nat) (p : Packet) (s : State) : State :=
  let n := rfld s R.TMG_CAP_CFG 0 23 0
  if n = 0 then s
  else
    let c := s.tmg.refusals + 1
    let s := withTmg (fun t => { t with refusals := if n ≤ c then 0 else c }) s
    if n ≤ c then captureRec 2 0 code 480 occ p s else s

/-- What became of a copy: the code it met, the copy, and the OCC after the decision of the queue that the packet
names. -/
structure Judged where
  code : Nat
  pkt : Packet
  occ : Nat

/-- Copies judged one after another, for a packet that names queue `q`. -/
def admitAll (pool n q : Nat) : List Packet → Option (List Nat) → List Judged → State → List Judged × State
  | [], _, out, s => (out.reverse, s)
  | p :: rest, cells, out, s =>
    let a := admitOne pool n false cells p s
    admitAll pool n q rest a.cells (⟨a.code, p, occOf (queueOf a.st q)⟩ :: out) a.st

/-- Copies of a frame that had come whole and bad when they were admitted are discarded, once all have been judged and
share their cells (R312). -/
def discardBad (js : List Judged) (s : State) : State :=
  js.foldl (fun s j =>
    if j.code = 0 && j.pkt.complete && j.pkt.bad then discardFrom (pktQueue j.pkt) j.pkt.pid 11 s else s) s

/-- The copies a packet is judged as: itself, or one for each valid entry of its group (R291). -/
def copiesOf (s : State) (p : Packet) : List Packet :=
  if mdF p 1 7 7 = 1 then
    ((mcEntries s (mdF p 2 13 0)).zipIdx).map (fun e =>
      copyFor p (s.sen.nextPid + e.2) (fld e.1 62 44) (fld e.1 43 33) (fld e.1 32 26))
  else [p]

/-- Packet numbers taken for copies. -/
def takePids (n : Nat) (s : State) : State := { s with sen := { s.sen with nextPid := s.sen.nextPid + n } }

/-- The CODE of a packet's own records (R329): that of its decision, 14 for a group without a member, and 0 for a packet
with copies. -/
def ownCode (none_ : Bool) (p : Packet) (js : List Judged) : Nat :=
  if none_ then 14 else if mdF p 1 7 7 = 1 then 0 else (js.head?.map (fun e => e.code)).getD 0

/-- The records that a packet sets out for the capture ring: of its mirror session, of the sampler, and of its refusals
(R324 to R326). -/
def captureAll (mir : Option (Nat × Bool)) (smp : Bool) (code occ : Nat) (p : Packet) (js : List Judged) (s : State) :
    State :=
  let s := match mir with
    | some (m, false) => captureRec 0 m code (rfld s R.TMG_MIR_SESSION m 42 34) occ p s
    | _ => s
  let s := if smp then captureRec 1 0 code (rfld s R.TMG_SAMPLE_CFG (mdF p 0 25 19) 60 52) occ p s else s
  (js.filter (fun j => decide (j.code ≠ 0))).foldl (fun s j => refusalCapture j.code j.occ p s) s

/-- The full copy that a mirror session makes of a packet, if any. -/
def mirrorCopies (s : State) (mir : Option (Nat × Bool)) (p : Packet) : List Packet :=
  match mir with | some (m, true) => [mirrorCopy s p m s.sen.nextPid] | _ => []

/-- A packet admitted (R289 to R300, R324 to R326). -/
def admitPacket (p : Packet) (s : State) : State :=
  let cs := copiesOf s p
  let mir := mirrorOf s p
  let smp := sampleOf p (takePids cs.length s)
  let cs2 := mirrorCopies smp.2 mir p
  let s := takePids cs2.length smp.2
  let n := cellsFor (if p.complete then frameLen p else (frameBytes p).length)
  let s := if cs.isEmpty then tmgDrop 14 s else s
  let now := occOf (queueOf s (pktQueue p))
  let r := admitAll (placePool s p) n (pktQueue p) (cs ++ cs2) none [] s
  let occ := if cs.isEmpty then now else (r.1[cs.length - 1]?.map (fun j => j.occ)).getD now
  discardBad r.1 (captureAll mir smp.1 (ownCode cs.isEmpty p r.1) occ p r.1 r.2)

/-- The commands of a tick that come before every decision of the TMG on it: writes (R281), and what moves LINK of a
port (R319). -/
def beforeDecision (i : Instr) : Bool :=
  match i with
  | .tableDataWrite .. | .registerWrite .. | .sysModeWrite .. | .rangeFlush .. | .captureEnable .. | .poolEnable ..
  | .poolDisable .. | .linkUp .. | .linkDown .. | .portEnable .. | .portDisable .. | .laneRetire .. => true
  | _ => false

/-- PACKET_ADMIT (R294): the packet whose head has crossed the bridge first is admitted or refused; not before the
tick's releases have been applied (R335, R337), nor before a write or a fall of LINK of the tick (R281, R319). -/
def execPacketAdmit (s : State) : Out :=
  match s.sen.toTmg with
  | [] => .next s
  | p :: rest => .next (if bpmTurn s 1 0 && !comes s beforeDecision then admitPacket p { s with sen := { s.sen with toTmg := rest } } else s)

end Sys2Proof.Machine
end

