-- ==== Sys2Proof/Machine/Tmg.lean ====
section
/-! DEFINITION. The traffic manager's commands: the table window (R281 to R286), cells of arriving packets (R295, R308,
R311, R312), selection and dequeue (R302 to R305), shaper batches (R307), gate control lists (R316 to R318), bind-off and
range flushes (R319 to R322), and the capture ring (R326 to R329). -/

namespace Sys2Proof.Machine
open Sys2Proof

/-! ### The table window (R281, R282) -/

/-- The array behind a table; table 2 and tables 13 to 15 have none. -/
def tableReg (t : Nat) : Option Reg :=
  [some R.TMG_Q_CFG, some R.TMG_Q_SHAPE, none, some R.TMG_CS_CFG, some R.TMG_CS_SHAPE, some R.TMG_GRP_CFG,
   some R.TMG_GRP_SHAPE, some R.TMG_SP_CFG, some R.TMG_SP_SHAPE, some R.TMG_MC_HEAD, some R.TMG_MC_ENTRY,
   some R.TMG_SHAPE_STAGE_NODE, some R.TMG_SHAPE_STAGE_VAL].getD t none

/-- Elements of a table. -/
def tableSize (t : Nat) : Nat :=
  [524288, 524288, 524288, 131072, 131072, 32768, 32768, 4096, 4096, 16384, 262144, 16384, 16384].getD t 1

/-- INDEX advances by one after an access, with AUTO_INC (R281). -/
def tableNext (s : State) : State :=
  if rbit s R.TMG_TBL_ADDR 0 63 then
    rsetF s R.TMG_TBL_ADDR 0 18 0 ((rfld s R.TMG_TBL_ADDR 0 18 0 + 1) % tableSize (rfld s R.TMG_TBL_ADDR 0 35 32))
  else s

/-- TMG_Q_CFG written (R284, R285); with another ADM_PROFILE the queue may leave spill (R300). -/
def writeQCfg (q : Nat) (v : Word) (s : State) : State :=
  let old := rget s R.TMG_Q_CFG q
  let w := writeReg false R.TMG_Q_CFG old v
  let busy := decide (occOf (queueOf s q) ≠ 0)
  let w := if busy then setFld w 62 62 (fld old 62 62) else w
  let w := if busy && bit old 62 then setFld (setFld w 29 19 (fld old 29 19)) 18 0 (fld old 18 0) else w
  let w := if bit w 62 then w else setFld w 18 0 (min (fld w 18 0) 131071)
  let s := unspill q (rset s R.TMG_Q_CFG q w)
  if fld w 18 0 ≠ fld old 18 0 then clearDeficit (nodeKey 5 q) s else s

/-- A class set, group or sub-port rewritten: a new PARENT discards its deficits. -/
def writeNodeCfg (l n : Nat) (v : Word) (s : State) : State :=
  let r := cfgReg l
  let old := rget s r n
  let w := writeReg false r old v
  let s := rset s r n w
  if fld w 16 0 ≠ fld old 16 0 then clearDeficit (nodeKey l n) s else s

/-- The number of nodes of a level. -/
def levelCount (l : Nat) : Nat := [0, 128, 4096, 32768, 131072, 524288].getD l 524288

/-- An element of a table written under its own field rules (R281). -/
def tableWrite (t i : Nat) (v : Word) (s : State) : State :=
  match tableReg t with
  | none => s
  | some r =>
    let w := writeReg false r (rget s r i) v
    match t with
    | 0 => writeQCfg i v s
    | 1 => setShape (nodeKey 5 i) (clampShape w) s
    | 4 => setShape (nodeKey 4 i) (clampShape w) s
    | 6 => setShape (nodeKey 3 i) (clampShape w) s
    | 8 => setShape (nodeKey 2 i) (clampShape w) s
    | 3 => writeNodeCfg 4 i v s
    | 5 => writeNodeCfg 3 i v s
    | 7 => writeNodeCfg 2 i v s
    | 9 => rset s r i (setFld w 8 0 (min (fld w 8 0) (262144 - fld w 49 32)))
    | 11 => rset s r i (setFld w 18 0 (min (fld w 18 0) (levelCount (fld w 54 52) - 1)))
    | 12 => rset s r i (clampShape w)
    | _ => rset s r i w

/-- TABLE_DATA_WRITE (R30, R281). -/
def execTableDataWrite (v : Word) (s : State) : Out :=
  servedWrite (regAddr R.TMG_TBL_DATA 0)
    (.next (tableNext (tableWrite (rfld s R.TMG_TBL_ADDR 0 35 32) (rfld s R.TMG_TBL_ADDR 0 18 0) v s))) s

/-- An element of a table as it is read (R282). -/
def tableRead (s : State) (t i : Nat) : Word :=
  if t = 2 then
    let x := queueOf s i
    BitVec.ofNat 64 (x.spill.toNat * 2 ^ 63 + occOf x % 2 ^ 28 * 2 ^ 35 + x.avg / 65536 % 2 ^ 28 * 2 ^ 7)
  else match tableReg t with
    | some r => rget s r i
    | none => 0

/-- TABLE_DATA_READ (R30, R281). -/
def execTableDataRead (s : State) : Out :=
  servedRead (regAddr R.TMG_TBL_DATA 0)
    (.next (tableNext (answer (tableRead s (rfld s R.TMG_TBL_ADDR 0 35 32) (rfld s R.TMG_TBL_ADDR 0 18 0)) s))) s

/-! ### Cells of packets that are still arriving (R295, R308, R311, R312) -/

/-- A VOQ's head packet of which a cell has already been sent: its head has left the TMG. -/
def midSend (s : State) (pid : Nat) : Bool :=
  s.fab.dsts.any (fun e => decide (e.2.sending.map (fun x => x.pid) = some pid))

/-- The queues that hold a copy of a frame. -/
def queuesOf (s : State) (src : Nat) : List Nat :=
  (s.tmg.qs.filter (fun e => e.2.skein.any (fun x => decide (x.pkt.src = src)))).map (fun e => e.1)

/-- One cell added to the copies of a frame, in queues and behind heads that have left; each queue enters or leaves spill
(R300). -/
def addCell (src key : Nat) (s : State) : State :=
  let s := (queuesOf s src).foldl (fun s q =>
    let sp := spills s q
    let x := queueOf s q
    unspill q (setQueue q { x with spill := sp, skein := x.skein.map (fun e =>
      if e.pkt.src = src then { e with cells := e.cells ++ [key] } else e) } s)) s
  withTmg (fun t => { t with cuts := t.cuts.map (fun c =>
    if c.src = src then { c with cells := c.cells ++ [key] } else c) }) s

/-- How many copies of a frame take its cells. -/
def takers (s : State) (src : Nat) : Nat :=
  (s.tmg.qs.map (fun e => (e.2.skein.filter (fun x => decide (x.pkt.src = src))).length)).sum +
    (s.tmg.cuts.filter (fun c => decide (c.src = src))).length

/-- A frame's cells held, its length so far where it is complete, and whether a copy of it was cut short. -/
def cellState (s : State) (src : Nat) : Option (List Nat × Option Nat × Nat) :=
  match (s.tmg.qs.map (fun e => e.2.skein.map (fun x => (e.1, x)))).flatten.find? (fun e => decide (e.2.pkt.src = src)) with
  | some (q, x) => some (x.cells, if x.pkt.complete then some (frameLen x.pkt) else none, q)
  | none => (s.tmg.cuts.find? (fun c => decide (c.src = src))).map (fun c =>
      (c.cells, if c.complete then some c.len else none, c.queue))

/-- A cut-through frame whose head has left is ended with a stomped FCS (R311, R313, R321). -/
def stomp (port : Nat) (s : State) : State :=
  rcount (rcount s R.TMG_PORT_STAT port 23 0 1) R.TMG_CT_STAT 0 31 0 1

/-- Bytes that `n` cells of a packet hold beside its metadata (R295). -/
def heldBytes (n : Nat) : Nat := 256 * n - 64

/-- A packet whose frame is complete but of which only `n` of its `len` bytes are held: it ends after the last byte held,
and it is bad. -/
def cutPkt (drop : Nat) (p : Packet) : Packet :=
  let all := frameBytes p
  let m := p.win.length
  let n := all.length - drop
  setFrameLen { p with win := all.take (min m n), tail := (all.take n).drop m, bad := true, orig := p.orig - drop } (frameLen p - drop)

/-- A frame whose head has left the TMG is refused a cell (R311): it ends after the last byte held. One that is already
complete is cut to those bytes wherever its head has come to. -/
def cutRefused (held : Nat) (c : CutRec) (s : State) : State :=
  let s := if c.stomped then s else stomp c.port s
  let drop := if c.complete then c.len - heldBytes held else 0
  let s := withTmg (fun t => { t with
    shorts := mput t.shorts c.pid (heldBytes held)
    cuts := t.cuts.map (fun d => if d.pid = c.pid then { d with stomped := true, len := d.len - drop } else d) }) s
  if c.complete then mapPkts (fun p => if p.pid = c.pid then cutPkt drop p else p) s else s

/-- A VOQ's packet of which a part has been sent is refused a cell (R311): it ends after the last byte held, with ABORT. -/
def voqRefused (held q : Nat) (e : QPkt) (s : State) : State :=
  let s := withTmg (fun t => { t with shorts := mput t.shorts e.pkt.pid (heldBytes held) }) s
  if e.pkt.complete then
    let x := queueOf s q
    setQueue q { x with skein := x.skein.map (fun y =>
      if y.pkt.pid = e.pkt.pid then { y with pkt := cutPkt (frameLen y.pkt - heldBytes held) y.pkt } else y) } s
  else s

/-- A cell refused part-way: copies in queues are discarded with code 10, and those whose head has left end after the
last byte held (R311, R312). -/
def cellRefused (src held : Nat) (s : State) : State :=
  let s := (s.tmg.cuts.filter (fun c => decide (c.src = src))).foldl (fun s c => cutRefused held c s) s
  ((s.tmg.qs.map (fun e => e.2.skein.map (fun x => (e.1, x)))).flatten.filter
      (fun e => decide (e.2.pkt.src = src))).foldl (fun s e =>
    if midSend s e.2.pkt.pid then voqRefused held e.1 e.2 s else discardFrom e.1 e.2.pkt.pid 10 s) s

/-- Some copy of a frame has been cut short. -/
def shortCopy (s : State) (src : Nat) : Bool :=
  s.tmg.shorts.any (fun e => s.tmg.cuts.any (fun c => decide (c.pid = e.1 ∧ c.src = src)) ||
    s.tmg.qs.any (fun q => q.2.skein.any (fun x => decide (x.pkt.pid = e.1 ∧ x.pkt.src = src))))

/-- PACKET_BODY_CELL (R295, R300): a further cell for a frame whose bytes are arriving, shared by its copies; not before the
tick's releases have been applied (R335, R337) and its writes have been made (R281). A packet of one copy has each cell placed as its queue stands; cells that
copies share keep the packet's one placement. -/
def execPacketBodyCell (src : Nat) (s : State) : Out :=
  match cellState s src with
  | none => .next s
  | some (cells, len, q) =>
    let cap := match len with | some n => cellsFor n | none => 64
    if cap ≤ cells.length ∨ shortCopy s src = true ∨ bpmTurn s 1 0 = false ∨ comes s beforeDecision = true then .next s
    else
      let n := takers s src
      let pool := if n = 1 then (if spills s q then hbmPool s else sramPool s) else (cells.headD 0) / 2 ^ 32
      match tmgAllocate pool s with
      | some (k, t) => .next (addCell src k (cellsShare (n - 1) [k] t))
      | none => .next (cellRefused src cells.length (countRefused pool s))

/-- PACKET_TAIL_STORED (R308, R312): the last byte of a frame is stored. Good copies become eligible; a bad one whose
head has not left is discarded with code 11. -/
def execPacketTailStored (src : Nat) (s : State) : Out :=
  .next ((queuesOf s src).foldl (fun s q =>
    (queueOf s q).skein.foldl (fun s e =>
      if e.pkt.src = src && e.pkt.complete && !e.stored && decide (cellsFor (frameLen e.pkt) ≤ e.cells.length) then
        if e.pkt.bad then (if midSend s e.pkt.pid then s else discardFrom q e.pkt.pid 11 s)
        else setQueue q { queueOf s q with skein := (queueOf s q).skein.map (fun y =>
          if y.pkt.pid = e.pkt.pid then { y with stored := true } else y) } s
      else s) s) s)

/-! ### Selection (R302, R303, R305, R318) -/

/-- Head packets of a queue longer than any open time of its gate are discarded, as long as there are any (R318). -/
def purgeQueue (p q : Nat) : Nat → State → State
  | 0, s => s
  | f + 1, s =>
    match (queueOf s q).skein with
    | [] => s
    | e :: _ =>
      if headReady e && gateOversize s p (rfld s R.TMG_Q_CFG q 61 59) (chargeLen e) then
        purgeQueue p q f (discardHead q e.pkt.pid 12 s)
      else s

/-- Such heads of every queue of a port that a dequeue could reach: the port is up, and the queue and every node of its
path may be selected (R288, R303, R318, R319). -/
def purgePort (p : Nat) (s : State) : State :=
  s.tmg.qs.foldl (fun s e =>
    if !isVoq s e.1 && decide (portOfQueue s e.1 = p) && portUp s p && (pathOf s e.1).all (childOpen s) then purgeQueue p e.1 e.2.skein.length s else s) s

/-- `n` bytes of a packet of `len` charged to every node of a path and to the deficits of a selection (R305). -/
def chargePath (n len : Nat) (nodes trail : List Nat) (s : State) : State :=
  let s := nodes.foldl (chargeNode n len) s
  withTmg (fun t => { t with defs := trail.foldl (fun d k => mmod 0 d k (fun x => x - n)) t.defs }) s

/-- What the reads of a packet's HBM cells come to (R302, R383): they wait for their channel, both reads of a cell failed,
or the packet is read. -/
inductive FetchRes
  | waits | failed | read
deriving DecidableEq, Repr

/-- The outcome of a fetch, and what the reads leave. -/
structure HbmFetch where
  res : FetchRes
  st : State
deriving DecidableEq, Repr

/-- The cells of a packet that lie in a memory, with their addresses. -/
def hbmCells (s : State) (e : QPkt) : List (MemCtl × Nat) :=
  (e.cells.filter (hbmCell s)).filterMap (fun k =>
    (locMem (poolLoc s (k / 2 ^ 32))).map (fun m => (m, billetAddr s (k / 2 ^ 32) (k % 2 ^ 32))))

/-- The HBM cells of a packet are read as it is dequeued, its first one with an outcome; a cell in lost memory cannot be
read (R302, R389). -/
def hbmFetch (e : QPkt) (o : ReadOutcome) (s : State) : HbmFetch :=
  let cs := hbmCells s e
  if cs.any (fun c => unitWaits s c.1 c.2) then ⟨.waits, cs.foldl (fun s c => memQueue c.1 false c.2 s) s⟩
  else
    let t := cs.foldl (fun s c => memUse c.1 c.2 false s) s
    match cs.find? (fun c => memLost s c.1 c.2), cs.head? with
    | some c, _ => ⟨.failed, readTwice c.1 c.2 .failed t⟩
    | none, some c => ⟨if o = .failed then .failed else .read, readTwice c.1 c.2 o t⟩
    | none, none => ⟨.read, t⟩

/-- The packet of a port that selection has chosen leaves its queue (R298, R302, R305). -/
def dequeue (p q : Nat) (e : QPkt) (trail : List Nat) (s : State) : State :=
  let x := queueOf s q
  let s := queueLeft q (avgUpdate q (setQueue q { x with skein := x.skein.tail } s))
  let s := chargePath (chargeLen e + overhead s p) (chargeLen e + overhead s p) (pathOf s q) trail s
  let s := occur 7 2 p 1 s
  let s := if e.stored then cellsFree e.cells s
    else withTmg (fun t => { t with cuts := t.cuts ++
      [⟨e.pkt.pid, e.pkt.src, p, q, frameLen e.pkt, e.cells, pathOf s q, trail, e.pkt.complete, false⟩] }) s
  { s with sen := { s.sen with toEgr := s.sen.toEgr ++ [e.pkt] } }

/-- A selection uses the state left by every change of its tick (R303): by its arrivals, and by the batches, swaps, gate
boundaries and flushes of the tick. -/
def beforeSelect (i : Instr) : Bool :=
  match i with
  | .shaperBatchApply | .gclSwap .. | .gclEntryBoundary .. | .taFire | .laneRetire .. | .bindoffFlushDone ..
  | .rangeFlushDone | .cutThroughTailLeave .. | .reseqTimeout .. => true
  | _ => arrives i

/-- PORT_SELECT (R303): a port that is up selects down its hierarchy and dequeues a head packet, once every change of
the tick has been made, with what the reads of the packet's HBM cells met (R302). A packet whose HBM cells must be
waited for is not dequeued yet (R383). -/
def execPortSelect (p : Port) (hbm : ReadOutcome) (s : State) : Out :=
  if comes s beforeSelect then .next s else
  let s := judgeElig (purgePort p.val s)
  match (eligibleQueues s).filter (fun q => decide (portOfQueue s q = p.val)) with
  | [] => .next s
  | qs =>
    let d := descend qs 4 (nodeKey 1 p.val) s
    match (queueOf d.1 d.2.1).skein with
    | [] => .next d.1
    | e :: _ =>
      let f := hbmFetch e hbm d.1
      match f.res with
      | .waits => .next (hbmFetch e hbm s).st
      | .failed => .next (judgeElig (discardHead d.2.1 e.pkt.pid 13 f.st))
      | .read => .next (judgeElig (dequeue p.val d.2.1 e d.2.2 f.st))

/-- CUT_THROUGH_TAIL_LEAVE (R171, R305): the last byte of a cut-through packet leaves; the rest of its length is charged,
its cells are freed, and a frame whose head has left its egress course is held against the MTU. -/
def execCutThroughTailLeave (pid : Nat) (s : State) : Out :=
  match takeFirst (fun c => decide (c.pid = pid)) s.tmg.cuts with
  | none => .next s
  | some (c, rest) =>
    if c.complete && (c.stomped || decide (cellsFor c.len ≤ c.cells.length)) then
      let s := withTmg (fun t => { t with cuts := rest, shorts := mdel t.shorts pid }) s
      .next (judgeElig (chargePath (c.len - 512) (c.len + overhead s c.port) c.nodes c.trail (cellsFree c.cells (mtuTail pid s))))
    else .next s

/-! ### Shaper batches (R306, R307) -/

/-- SHAPE_APPLY (R30, R307): the batch waits for the next tick. -/
def execShapeApply (v : Word) (s : State) : Out :=
  servedWrite (regAddr R.TMG_SHAPE_APPLY 0)
    (.next (withTmg (fun t => { t with batches := t.batches ++ [(fld v 7 0, s.tau.mono)] }) s)) s

/-- A batch applied: every staged entry writes its node's shaper and is no longer staged. -/
def applyBatch (b : Nat) (s : State) : State :=
  let r := R.TMG_SHAPE_STAGE_NODE
  (s.regs.filter (fun e => decide (r.base ≤ e.1 ∧ e.1 < r.base + r.stride * r.count))).foldl (fun s e =>
    let k := (e.1 - r.base) / r.stride
    if bit e.2 63 && decide (fld e.2 62 55 = b) then
      setShape (nodeKey (fld e.2 54 52) (fld e.2 18 0)) (rget s R.TMG_SHAPE_STAGE_VAL k) (rsetF s r k 63 63 0)
    else s) s

/-- SHAPER_BATCH_APPLY (R10, R307): the batches asked for on an earlier tick act, with the entries written on this one. -/
def execShaperBatchApply (s : State) : Out :=
  if !arrivalsDone s then .next s else
  .next ((s.tmg.batches.filter (fun b => decide (b.2 ≠ s.tau.mono))).foldl (fun s b => applyBatch b.1 s)
    (withTmg (fun t => { t with batches := t.batches.filter (fun b => decide (b.2 = s.tau.mono)) }) s))

/-! ### Gate control lists (R314 to R318) -/

/-- GCL_SWAP_NOW (R314, R316): a write with SWAP_NOW asks for a swap on the next tick. -/
def execGclSwapNow (p : Port) (v : Word) (s : State) : Out :=
  let t := hostStore false R.TMG_GCL_CFG p.val v s
  servedWrite (regAddr R.TMG_GCL_CFG p.val)
    (.next (if bit v 61 then
      withTmg (fun x => { x with gcl := mput x.gcl p.val { gclOf t p.val with
        swapNow := (gclOf t p.val).swapNow.filter (fun m => decide (m ≠ t.tau.mono)) ++ [t.tau.mono] } }) t else t)) s

/-- The sum of a list's intervals as OPER_CYCLE_NS takes it; one above 32 bits has no value the manual states. -/
def cycleSum (n : Nat) : Nat := if n < 2 ^ 32 then n else Config.freeNat 1 n % 2 ^ 32

/-- The lists of a port swapped (R316): cycle start, lengths, cycles and longest open times. A swap that SWAP_NOW asked for
stays owed. -/
def gclSwap (p : Nat) (s : State) : State :=
  let cfg := rget s R.TMG_GCL_CFG p
  let cyc := rget s R.TMG_GCL_CYCLE p
  let l := 1 - fld cfg 62 62
  let n := fld cfg 48 40
  let c := if fld cyc 31 0 = 0 then cycleSum (gclSum s p l n) else fld cyc 31 0
  let s := rset s R.TMG_GCL_CFG p (setFld (setFld (setFld cfg 62 62 l) 32 24 n) 48 40 (fld cfg 32 24))
  let s := rset s R.TMG_GCL_CYCLE p (at_ c 32 ||| at_ (fld cyc 63 32) 0)
  let s := withTmg (fun t => { t with gcl := mput t.gcl p ⟨qPhcNow s, gclLongest (operSegs s p), (gclOf s p).swapNow⟩ }) s
  judgeElig (purgePort p s)

/-- GCL_SWAP (R10, R314, R316): the oldest swap that SWAP_NOW asked for on an earlier tick, with the lists as the arrivals
of this one leave them. -/
def execGclSwap (p : Port) (s : State) : Out :=
  match (gclOf s p.val).swapNow with
  | t :: rest =>
    if t = s.tau.mono ∨ arrivalsDone s = false then .next s
    else .next (gclSwap p.val
      (withTmg (fun x => { x with gcl := mput x.gcl p.val { gclOf s p.val with swapNow := rest } }) s))
  | [] => .next s

/-- GCL_ENTRY_BOUNDARY (R10, R317): the gates of the new entry apply, and eligibility is judged with them. -/
def execGclEntryBoundary (_ : Port) (s : State) : Out := .next (if arrivalsDone s then judgeElig s else s)

/-! ### Bind-off and range flushes (R319 to R322) -/

/-- LINK of a port falls: an up port begins bind-off (R319). -/
def tmgLinkFall (p : Nat) (s : State) : State :=
  if portUp s p then giveDuty (.portFlush p) 14 15 (judgeElig (rsetF s R.TMG_PORT_STAT p 63 62 1)) else s

/-- LINK of a port rises: a down port is up (R319). -/
def tmgLinkRise (p : Nat) (s : State) : State :=
  if rfld s R.TMG_PORT_STAT p 63 62 = 2 then rsetF s R.TMG_PORT_STAT p 63 62 0 else s

/-- Every packet of a queue freed; the number freed. What the fabric has still to send of one is not sent. -/
def flushQueue (q : Nat) (s : State) : Nat × State :=
  let x := queueOf s q
  let s := sendingStop (x.skein.map (fun e => e.pkt.pid)) (x.skein.foldl (fun s e => cellsFree e.cells s) s)
  (x.skein.length, queueLeft q (setQueue q { x with skein := [] } s))

/-- A set of queues flushed; the number of packets freed. -/
def flushQueues (qs : List Nat) (s : State) : Nat × State :=
  qs.foldl (fun a q => let r := flushQueue q a.2; (a.1 + r.1, r.2)) (0, s)

/-- BINDOFF_FLUSH_DONE (R319 to R321): the queues of a binding port are empty, and it is up or down with LINK; not while
the control sequencers restart (R73). -/
def execBindoffFlushDone (p : Port) (s : State) : Out :=
  if rfld s R.TMG_PORT_STAT p.val 63 62 = 1 ∧ dutyDown s (.portFlush p.val) = false then
    let qs := (s.tmg.qs.filter (fun e => !isVoq s e.1 && decide (portOfQueue s e.1 = p.val))).map (fun e => e.1)
    let r := flushQueues qs s
    let s := rcount r.2 R.TMG_PORT_STAT p.val 47 24 r.1
    .next (endDuty (.portFlush p.val)
      (rsetF s R.TMG_PORT_STAT p.val 63 62 (if rbit s R.LIU_PORT_STAT p.val 63 then 0 else 2)))
  else .next s

/-- A write of TMG_BINDOFF_CMD (R322): every queue of the range is disabled, and the flush begins; GO is ignored while BUSY
is 1. -/
def rangeFlush (v : Word) (s : State) : State :=
  let busy := rbit s R.TMG_BINDOFF_CMD 0 63
  let w := writeReg false R.TMG_BINDOFF_CMD (rget s R.TMG_BINDOFF_CMD 0) v
  let n := clampTo 1 (524288 - fld w 18 0) (fld w 39 20)
  let first := fld w 18 0
  let s := rset s R.TMG_BINDOFF_CMD 0 (setFld w 39 20 n)
  if bit v 40 && !busy then
    let r := R.TMG_Q_CFG
    let s := (s.regs.filter (fun e => decide (r.base + 8 * first ≤ e.1 ∧ e.1 < r.base + 8 * (first + n)))).foldl
      (fun s e => rsetF s r ((e.1 - r.base) / 8) 63 63 0) s
    giveDuty .rangeFlush 14 15 (rsetF (withTmg (fun t => { t with flush := some (first, n) }) s) R.TMG_BINDOFF_CMD 0 63 63 1)
  else s

/-- RANGE_FLUSH (R30, R322). -/
def execRangeFlush (v : Word) (s : State) : Out :=
  servedWrite (regAddr R.TMG_BINDOFF_CMD 0) (.next (rangeFlush v s)) s

/-- RANGE_FLUSH_DONE (R322): the contents of the range are freed and counted in TMG_DROP[15]; not while the sequencers of
bind-off do not run (R319, R475). -/
def execRangeFlushDone (s : State) : Out :=
  match s.tmg.flush with
  | none => .next s
  | some (first, n) =>
    if dutyDown s .rangeFlush then .next s else
    let qs := (s.tmg.qs.filter (fun e => decide (first ≤ e.1 ∧ e.1 < first + n))).map (fun e => e.1)
    let r := flushQueues qs s
    let s := occur 7 3 15 r.1 (rcount r.2 R.TMG_DROP 15 47 0 r.1)
    .next (endDuty .rangeFlush (rsetF (withTmg (fun t => { t with flush := none }) s)
      R.TMG_BINDOFF_CMD 0 63 63 0))

/-! ### The capture ring (R326 to R329) -/

/-- Records of the capture ring. -/
def capCount (s : State) : Nat := 2 ^ rfld s R.TMG_CAP_CFG 0 60 56

/-- A ring index with its wrap, in a count modulo twice the ring. -/
def capPos (s : State) (r : Reg) : Nat := rfld s r 0 63 63 * capCount s + rfld s r 0 27 0

/-- A ring position as WRAP and INDEX. -/
def capWord (s : State) (n : Nat) : Word :=
  let m := n % (2 * capCount s)
  BitVec.ofNat 64 (m / capCount s * 2 ^ 63 + m % capCount s)

/-- A write of TMG_CAP_CFG (R326, R392): EN 1 zeroes HEAD and TAIL, and is refused until the DDR5 is ready; while EN is 1 the
ring's shape is fixed. EN 0 ends the records on their way (log 31). -/
def capCfgWrite (v : Word) (s : State) : State :=
  let old := rget s R.TMG_CAP_CFG 0
  let w := writeReg false R.TMG_CAP_CFG old v
  let w := if bit old 63 then setFld (setFld w 62 61 (fld old 62 61)) 60 56 (fld old 60 56) else w
  if bit v 63 then
    if memReady s .mcd = false then cfgViolation 7 (regAddr R.TMG_CAP_CFG 0) s
    else rset (rset (rset s R.TMG_CAP_CFG 0 (setFld w 63 63 1)) R.TMG_CAP_HEAD 0 0) R.TMG_CAP_TAIL 0 0
  else withTmg (fun t => { t with cap := [] }) (rset s R.TMG_CAP_CFG 0 (setFld w 63 63 0))

/-- CAPTURE_ENABLE (R30, R326). -/
def execCaptureEnable (v : Word) (s : State) : Out :=
  servedWrite (regAddr R.TMG_CAP_CFG 0) (.next (capCfgWrite v s)) s

/-- CAP_TAIL_WRITE (R30, R326, R328): stored within the ring's range, or clamped to HEAD, while EN is 1. -/
def execCapTailWrite (v : Word) (s : State) : Out :=
  let n := capCount s
  let t := fld v 63 63 * n + min (fld v 27 0) (n - 1)
  let h := capPos s R.TMG_CAP_HEAD
  let ok := !rbit s R.TMG_CAP_CFG 0 63 || decide ((h + 2 * n - t) % (2 * n) ≤ n)
  servedWrite (regAddr R.TMG_CAP_TAIL 0) (.next (rset s R.TMG_CAP_TAIL 0 (capWord s (if ok then t else h)))) s

/-- Where the oldest record's place in the ring begins, and the bytes of a place. -/
def capPlace (s : State) : Nat × Nat :=
  let size := 64 * 2 ^ rfld s R.TMG_CAP_CFG 0 62 61
  ((rget s R.TMG_CAP_BASE 0).toNat + capPos s R.TMG_CAP_HEAD % capCount s * size, size)

/-- The ring is full (R327). -/
def capFull (s : State) : Bool :=
  decide ((capPos s R.TMG_CAP_HEAD + 2 * capCount s - capPos s R.TMG_CAP_TAIL) % (2 * capCount s) = capCount s)

/-- CAPTURE_RECORD_WRITTEN (R327): the oldest record is in DDR5 and HEAD advances, or the full ring drops it; a TAIL write of
this tick goes before the check (R10). The record waits for a channel that holds requests (R383). -/
def execCaptureRecordWritten (s : State) : Out :=
  match s.tmg.cap with
  | [] => .next s
  | r :: rest =>
    let a := capPlace s
    let t := withTmg (fun x => { x with cap := rest }) s
    if arrivalsDone s = false then .next s
    else if rbit s R.TMG_CAP_CFG 0 63 = false then .next t
    else if capFull s then .next (rcount t R.TMG_CAP_STAT 0 63 32 1)
    else if runWaits s .mcd a.1 a.2 then .next (runAsk .mcd a.1 a.2 s)
    else
      .next (rset (memWrite .mcd a.1 r.bytes (memUseRun .mcd a.1 a.2 true t)) R.TMG_CAP_HEAD 0
        (capWord s (capPos s R.TMG_CAP_HEAD + 1)))

end Sys2Proof.Machine
end

