-- ==== Sys2Proof/Machine/Fab.lean ====
section
/-! DEFINITION. The fabric interface (ch. 11): links and their retransmission (R347 to R352), segmentation (R353),
resequencing and reassembly (R354 to R358), requests and grants (R360 to R362), and control (R363 to R365). -/

namespace Sys2Proof.Machine
open Sys2Proof

/-- The fabric interface changed. -/
def withFab (f : Fab → Fab) (s : State) : State := { s with fab := f s.fab }

/-- A link's record. -/
def fabLink (s : State) (k : Nat) : FabLink := mget FabLink.init s.fab.links k

/-- A link's record replaced. -/
def setFabLink (k : Nat) (x : FabLink) (s : State) : State :=
  withFab (fun f => { f with links := mset FabLink.init f.links k x }) s

/-- STATE of a link (R348): 0 down, 1 training, 2 up, 3 retired. -/
def linkSt (s : State) (k : Nat) : Nat := rfld s R.FAB_LINK k 63 62

/-- RESEQ_US in ticks. -/
def reseqTicks (s : State) : Nat := rfld s R.FAB_CTL 0 31 16 * usTicks

/-- STATE of FAB_CTL follows EN and the links (R363). -/
def fabState (s : State) : State :=
  rsetF s R.FAB_CTL 0 3 2
    (if rbit s R.FAB_CTL 0 0 then (if (List.range 192).any (fun k => decide (linkSt s k = 2)) then 2 else 1) else 0)

/-! ### Cells as they lie on a link (R349, R350) -/

/-- Header word W0: VER, TYPE, EPOCH, SRC, DST, QUEUE, FIRST, LAST, ABORT, LEN and SYNC (R349). -/
def cellW0 (ver type epoch src dst queue : Nat) (first last abort : Bool) (len : Nat) (sync : Bool) : Nat :=
  ver % 16 * 2 ^ 60 + type * 2 ^ 58 + epoch % 4 * 2 ^ 56 + src % 2048 * 2 ^ 45 + dst % 2048 * 2 ^ 34 +
    queue % 2 ^ 19 * 2 ^ 15 + first.toNat * 2 ^ 14 + last.toNat * 2 ^ 13 + abort.toNat * 2 ^ 12 + len % 256 * 2 ^ 4 +
    sync.toNat * 2 ^ 3

/-- A payload filled up to 240 bytes. -/
def fillPayload (bs : Bytes) : Bytes :=
  bs ++ (List.range (240 - bs.length)).map (fun i => BitVec.ofNat 8 (Config.cellFill (bs.length + i)))

/-- The 30 entries of a request or grant cell, most significant byte first; those behind the valid ones have VALID 0
(R350). -/
def entryPayload (es : List Nat) : Bytes :=
  (List.range 30).flatMap (fun i => beBytes 8 (match es[i]? with
    | some e => 2 ^ 63 + e
    | none => Config.cellFill (8 * i) % 2 ^ 63))

/-- The 256 bytes of a header and its payload, with the CRC-32C over all of them (R122, R349). -/
def sealCell (w0 seq : Nat) (payload : Bytes) : Bytes :=
  let crc := crc32c 0xFFFFFFFF#32 (beBytes 8 w0 ++ beBytes 8 (seq * 2 ^ 48) ++ payload)
  beBytes 8 w0 ++ beBytes 8 (seq * 2 ^ 48 + crc.toNat) ++ payload

/-- The 256 bytes of a cell (R349, R350). -/
def cellBytes : FabCell → Bytes
  | .data c => sealCell (cellW0 c.ver.toNat 0 c.epoch.toNat c.src.val c.dst.val c.queue.val c.first c.last c.abort c.len
      c.sync) c.seq.toNat (fillPayload c.payload)
  | .request v s d es => sealCell (cellW0 v 1 0 s d 0 false false false 0 false) 0
      (entryPayload (es.map (fun e => e.voq.val * 2 ^ 44 + e.target.val * 2 ^ 25 + e.demand.toNat * 2 ^ 9)))
  | .grant v s d es => sealCell (cellW0 v 2 0 s d 0 false false false 0 false) 0
      (entryPayload (es.map (fun e => e.voq.val * 2 ^ 44 + e.cells.toNat * 2 ^ 36)))
  | .control v s next ack nak => sealCell (cellW0 v 3 0 s Config.controlDst.toNat 0 false false false 0 false) 0
      (fillPayload (beBytes 2 next ++ beBytes 2 ack ++ [BitVec.ofNat 8 nak.toNat]))

/-- TX_FMT: VER of every cell sent (R363); a write applies to cells of later ticks (R364). -/
def txFmt (s : State) : Nat := fld (rwas s R.FAB_CTL 0) 7 4

/-- DEVICE_ID of this device. -/
def deviceId (s : State) : Nat := rfld s R.GLB_SYS_MODE 0 26 16

/-! ### Sending on links (R350 to R353) -/

/-- The number of the slot that a tick lies in: a tick takes 25 units of 0.025 ns, and a slot of 20.4 ns takes 816 (log
63). -/
def fabSlotNo (mono : Nat) : Nat := mono * 25 / 816

/-- Every 256th slot of a link carries a link control cell. -/
def controlSlot (n : Nat) : Bool := decide (n % 256 = 255)

/-- A link may take a new cell in this slot: it is up, its replay buffer has room, it is replaying nothing, and the slot is
a data slot in which it has sent nothing yet (R350, R351). -/
def linkFree (s : State) (k : Nat) : Bool :=
  let x := fabLink s k
  let n := fabSlotNo s.tau.mono
  decide (linkSt s k = 2) && decide (x.replay.length < 768) && x.back.isNone && !controlSlot n && decide (x.slot ≠ n + 1)

/-- The next such link in round-robin order (R353). -/
def nextLink (s : State) : Option Nat :=
  ((List.range 192).map (fun i => (s.fab.lastLink + 1 + i) % 192)).find? (linkFree s)

/-- A data cell (R350). -/
def isData : FabCell → Bool
  | .data _ => true
  | _ => false

/-- A cell leaves on a link, in this slot and with the slot's link sequence, and waits in its replay buffer. -/
def sendOn (k : Nat) (c : FabCell) (s : State) : State :=
  let x := fabLink s k
  let s := setFabLink k { x with txSeq := (x.txSeq + 1) % 4096, replay := x.replay ++ [(x.txSeq, c)],
                                 slot := fabSlotNo s.tau.mono + 1 } s
  occur 9 1 k (if isData c then 1 else 0) (emit (.cell k (cellBytes c)) (withFab (fun f => { f with lastLink := k }) s))

/-- Up to `n` waiting cells leave as far as the links have room: those of links that left Up ahead of new ones (R352). -/
def resendAll : Nat → State → State
  | 0, s => s
  | n + 1, s =>
    match nextLink s with
    | none => s
    | some k =>
      match s.fab.resend, s.fab.outbox with
      | c :: rest, _ => resendAll n (sendOn k c (withFab (fun f => { f with resend := rest }) s))
      | [], c :: rest => resendAll n (sendOn k c (withFab (fun f => { f with outbox := rest }) s))
      | [], [] => s

/-- The cells that wait leave as far as the links have room. -/
def resend (s : State) : State := resendAll (s.fab.resend.length + s.fab.outbox.length) s

/-- A request or grant cell goes out behind the cells that wait, on the next link that has room (R351 to R353). -/
def sendControl (c : FabCell) (s : State) : State := resend (withFab (fun f => { f with outbox := f.outbox ++ [c] }) s)

/-- A link leaves Up for a state: its unacknowledged cells are sent again elsewhere. -/
def linkLeave (k st : Nat) (s : State) : State :=
  let x := fabLink s k
  let s := setFabLink k { FabLink.init with txSeq := x.txSeq } s
  let s := withFab (fun f => { f with resend := f.resend ++ x.replay.map (fun e => e.2) }) s
  resend (fabState (rsetF s R.FAB_LINK k 63 62 st))

/-- A data slot that a link let pass without a cell has taken a link sequence all the same (R350). -/
def slotEnd (n k : Nat) (s : State) : State :=
  let x := fabLink s k
  if linkSt s k = 2 ∧ controlSlot n = false ∧ x.told = false ∧ x.slot ≠ n + 1 then
    setFabLink k { x with txSeq := (x.txSeq + 1) % 4096 } s
  else s

/-- The number of data slots that have ended on a link since its last good link control cell, to the nearest (`half` 408)
or wholly (0): slots last 20.4 ns, 816 units of 0.025 ns (R350, log 63). -/
def rxSlots (s : State) (x : FabLink) (half : Nat) : Nat := ((s.tau.mono + 2 ^ 64 - x.lastCtl) % 2 ^ 64 * 25 + half) / 816

/-- The link sequence of the slot that comes in now: the slots since NEXT_SEQ was told are counted, with or without a
cell (R350). -/
def rxSeqNow (s : State) (x : FabLink) : Nat := (x.rxSeq + (rxSlots s x 408 - 1)) % 4096

/-- ACK_SEQ: the last link sequence received in order, slots without a cell among them (R350, R351). -/
def ackNow (s : State) (x : FabLink) : Nat := if x.nak then x.ack else (x.rxSeq + rxSlots s x 0 + 4095) % 4096

/-- A slot begins on a link: a link control cell in its place, which announces the sequence of the next slot and so a
replay's start, or the next cell of a replay that has been announced (R350, R351). -/
def slotBegin (n k : Nat) (s : State) : State :=
  let x := fabLink s k
  if controlSlot n then
    emit (.cell k (cellBytes (.control (txFmt s) (deviceId s) (x.back.getD x.txSeq) (ackNow s x) x.nak)))
      (setFabLink k { x with told := x.back.isSome } s)
  else match (if x.told then x.back else none) with
    | none => s
    | some q =>
      let s := match x.replay.find? (fun e => decide (e.1 = q)) with
        | some e => emit (.cell k (cellBytes e.2)) s
        | none => s
      let q' := (q + 1) % 4096
      setFabLink k { x with slot := n + 1, told := decide (q' ≠ x.txSeq), back := if q' = x.txSeq then none else some q' } s

/-- Links that EN 0 leaves without a transmitter go down on the tick after the write (R347, R364). -/
def fabOff (s : State) : State :=
  if rbit s R.FAB_CTL 0 0 then s
  else fabState ((List.range 192).foldl (fun s k => if linkSt s k = 3 then s else rsetF s R.FAB_LINK k 63 62 0) s)

/-- The slots of the links at a tick: those that end and those that begin on every link whose transmitter is on, and what
waits for a link (R350 to R352). -/
def slotTick (s : State) : State :=
  let n := fabSlotNo s.tau.mono
  if n = fabSlotNo (s.tau.mono - 1) then s
  else
    let ks := (List.range 192).filter (fun k => decide (linkSt s k = 1 ∨ linkSt s k = 2))
    resend (ks.foldl (fun s k => slotBegin n k (slotEnd (n - 1) k s)) s)

/-- A link falls from Up to Training (R347). -/
def linkFall (k : Nat) (s : State) : State :=
  if linkSt s k = 2 then linkLeave k 1 (rcount s R.FAB_LINK k 15 0 1) else s

/-! ### Control (R363, R364) -/

/-- FAB_CTL's fields but EN and STATE stored. -/
def fabFields (v : Word) (s : State) : State := hostStore false R.FAB_CTL 0 v s

/-- A packet being reassembled is discarded (R355, R358). -/
def dropAsm (src : Nat) (s : State) : State :=
  match (mget FabSrc.init s.fab.srcs src).asm with
  | some (some pid) =>
    match s.tmg.qs.find? (fun e => e.2.skein.any (fun x => decide (x.pkt.pid = pid))) with
    | some e => discardFrom e.1 pid 0 s
    | none => s
  | _ => s

/-- LOST of FAB_RX_DROP1. -/
def countLost (n : Nat) (s : State) : State := rcount s R.FAB_RX_DROP1 0 31 0 n

/-- A source's packet in reassembly is discarded and counted in LOST; 0 or 1 of them. -/
def loseAsm (src : Nat) (s : State) : State :=
  match (mget FabSrc.init s.fab.srcs src).asm with
  | some (some _) => countLost 1 (dropAsm src s)
  | _ => s

/-- A write of FAB_CTL with EN 1 (R356, R357, R364): EN 1 is ignored in standalone mode; EN written from 0 to 1 starts every
sequence afresh and trains every link that is not retired. -/
def fabEnable (v : Word) (s : State) : State :=
  let s := fabFields v s
  if ¬ bit v 0 ∨ rfld s R.GLB_SYS_MODE 0 1 0 = 0 ∨ rbit s R.FAB_CTL 0 0 = true then s
  else
    let s := s.fab.srcs.foldl (fun s e => loseAsm e.1 s) s
    let s := withFab (fun f => { f with links := [], dsts := [], srcs := [], resend := [], outbox := [] }) s
    let s := (List.range 192).foldl (fun s k => if linkSt s k = 3 then s else rsetF s R.FAB_LINK k 63 62 1) s
    fabState (rsetF s R.FAB_CTL 0 0 0 1)

/-- FABRIC_ENABLE (R30, R356, R357, R364). -/
def execFabricEnable (v : Word) (s : State) : Out := servedWrite (regAddr R.FAB_CTL 0) (.next (fabEnable v s)) s

/-- A write of FAB_CTL with EN 0 (R364): the links go down on the next tick. -/
def fabDisable (v : Word) (s : State) : State :=
  let s := fabFields v s
  if bit v 0 then s else rsetF s R.FAB_CTL 0 0 0 0

/-- FABRIC_DISABLE (R30, R347, R364). -/
def execFabricDisable (v : Word) (s : State) : Out := servedWrite (regAddr R.FAB_CTL 0) (.next (fabDisable v s)) s

/-! ### Receiving on links (R347, R351) -/

/-- A cell whose CRC fails (R351): counted, and counted as a fault of the link (R525); later cells are discarded until the
one after the last that came in order arrives again. -/
def badCell (k : Nat) (s : State) : State :=
  let s := rcount s R.FAB_LINK k 31 16 1
  let x := fabLink s k
  errReport 1 9 8 k 0 0 (occur 9 2 k 1 (setFabLink k { x with
    nak := true, good := 0, failAt := s.tau.mono
    ack := if x.nak then x.ack else (rxSeqNow s x + 4095) % 4096 } s))

/-- LINK_CONTROL_CELL_RX (R347, R351): eight good ones in a row bring a training link up; on a link that is up the
cells acknowledged leave the replay buffer, a NAK has every slot from ACK_SEQ + 1 on sent again once a link control cell
has announced it, and the slots up to NEXT_SEQ have come in order unless cells are being discarded. -/
def execLinkControlCellRx (k : Link) (crcOk : Bool) (nextSeq ackSeq : BitVec 12) (nak : Bool) (s : State) : Out :=
  let k := k.val
  let st := linkSt s k
  if st = 0 ∨ st = 3 then .next s
  else if crcOk = false then .next (badCell k s)
  else
    let x : FabLink := { fabLink s k with lastCtl := s.tau.mono, rxSeq := nextSeq.toNat }
    if st = 1 then
      if x.good + 1 < 8 then .next (setFabLink k { x with good := x.good + 1 } s)
      else .next (resend (fabState (rsetF (setFabLink k { x with
        good := 0, ack := (nextSeq.toNat + 4095) % 4096, nak := false } s) R.FAB_LINK k 63 62 2)))
    else
      let left := x.replay.filter (fun e => decide ((e.1 + 4095 - ackSeq.toNat) % 4096 < 2048))
      let from' := (ackSeq.toNat + 1) % 4096
      let back := if nak && x.back.isNone && decide (from' ≠ x.txSeq) then some from' else x.back
      let ack := if x.nak then x.ack else (nextSeq.toNat + 4095) % 4096
      let s := setFabLink k { x with replay := left, back := back, ack := ack } s
      .next (resend (if nak then rcount s R.FAB_LINK k 47 32 1 else s))

/-- LINK_CONTROL_TIMEOUT (R347): no good link control cell for 15.7 µs, 25,120 ticks. -/
def execLinkControlTimeout (k : Link) (s : State) : Out :=
  let gone := (s.tau.mono + 2 ^ 64 - (fabLink s k.val).lastCtl) % 2 ^ 64
  if 25120 < gone ∨ (gone = 25120 ∧ arrivalsDone s = true) then .next (linkFall k.val s) else .next s

/-- FABRIC_FEC_LOCK_LOSS (R347). -/
def execFabricFecLockLoss (k : Link) (s : State) : Out := .next (linkFall k.val s)

/-- FABRIC_LINK_RETIRE (R365). -/
def execFabricLinkRetire (k : Link) (sw : Bool) (s : State) : Out :=
  if retireDue s 8 k.val sw then
    let s := retireMark 8 k.val sw 0 s
    .next (linkLeave k.val 3 (rsetF s R.FAB_LINK_RETIRE (k.val / 64) (k.val % 64) (k.val % 64) 1))
  else .next s

/-- The slot after the last that came in order has come again: a link control cell since the failure has announced a
replay from it or before it, and the slot now is that one or a later one (R351). -/
def caughtUp (s : State) (x : FabLink) : Bool :=
  decide (x.failAt < x.lastCtl) &&
    decide ((x.ack + 1 + 4096 - x.rxSeq) % 4096 ≤ (rxSeqNow s x + 4096 - x.rxSeq) % 4096)

/-- A data, request or grant cell arrives on a link that is up (R351): whether it is accepted, and the state after.
While cells are discarded, only the slot that follows the last in order ends the discarding; a cell that has been
accepted already is discarded. -/
def cellAccepted (k : Nat) (crcOk : Bool) (s : State) : Bool × State :=
  if linkSt s k ≠ 2 then (false, s)
  else
    let x := fabLink s k
    if crcOk = false then (false, badCell k s)
    else if x.nak && !caughtUp s x then (false, s)
    else if 2048 ≤ (rxSeqNow s x + 4095 - x.ack) % 4096 then (false, s)
    else (true, setFabLink k { x with nak := false, ack := rxSeqNow s x } s)

/-! ### Segmentation (R353, R356) -/

/-- The payload stream of a packet: m0 to m15, each word most significant byte first, then the frame bytes. -/
def payloadOf (p : Packet) : Bytes :=
  ((List.range 16).map (fun i => beBytes 4 (mdWord p i).toNat)).flatten ++ frameBytes p

/-- Data cells that `n` payload bytes need. -/
def fabCells (n : Nat) : Nat := (n + 239) / 240

/-- The state for a destination. -/
def fabDst (s : State) (d : Nat) : FabDst := mget FabDst.init s.fab.dsts d

/-- The state for a destination replaced. -/
def setFabDst (d : Nat) (x : FabDst) (s : State) : State :=
  withFab (fun f => { f with dsts := mset FabDst.init f.dsts d x }) s

/-- The payload bytes of a packet that its cells hold (R295). -/
def heldPayload (e : QPkt) : Nat := if e.stored then (payloadOf e.pkt).length else 256 * e.cells.length

/-- The next cell of a packet, from payload byte `sent` on, once its bytes are there and its cells hold them: a cell that
is not the last needs bytes beyond it (R311, R353). Format 1 has no SYNC bit (R349). -/
def nextCell (s : State) (q : Nat) (e : QPkt) (d : FabDst) (sent ver : Nat) : Option Cell :=
  let all := payloadOf e.pkt
  let rest := (all.take (heldPayload e)).drop sent
  let whole := e.pkt.complete && decide (all.length ≤ heldPayload e)
  if whole ∨ 240 < rest.length then
    let last := whole && decide (rest.length ≤ 240)
    some { ver := BitVec.ofNat 4 ver, epoch := BitVec.ofNat 2 (mdF e.pkt 0 27 26)
           src := Fin.ofNat 2048 (deviceId s), dst := Fin.ofNat 2048 (rfld s R.TMG_Q_CFG q 29 19)
           queue := Fin.ofNat 524288 (rfld s R.TMG_Q_CFG q 18 0), first := decide (sent = 0), last := last
           abort := last && e.pkt.bad, len := min 240 rest.length, sync := decide (sent = 0) && !d.synced && decide (ver ≠ 1)
           seq := BitVec.ofNat 16 d.seq, payload := rest.take 240 }
  else none

/-- A VOQ's packet has been sent: it leaves the skein, and an empty VOQ keeps no positive credit (R362). -/
def voqDequeue (q : Nat) (e : QPkt) (s : State) : State :=
  let x := queueOf s q
  let s := setQueue q { x with skein := x.skein.filter (fun y => decide (y.pkt.pid ≠ e.pkt.pid)) } s
  let s := queueLeft q (avgUpdate q (cellsFree e.cells s))
  let s := withTmg (fun t => { t with shorts := mdel t.shorts e.pkt.pid }) s
  occur 7 2 (pktPort e.pkt) 1 (if e.pkt.bad then rcount s R.TMG_CT_STAT 0 63 32 1 else s)

/-- The packet of a VOQ that is to send a cell: the one being sent, or its head once it is ready and the credit is
above zero (R353, R362). -/
def sendable (s : State) (q : Nat) : Option (QPkt × Nat × Nat) :=
  let x := queueOf s q
  let d := fabDst s (rfld s R.TMG_Q_CFG q 29 19)
  match d.sending with
  | some w => if w.voq = q then (x.skein.find? (fun e => decide (e.pkt.pid = w.pid))).map (fun e => (e, w.sent, w.ver)) else none
  | none =>
    match x.skein with
    | e :: _ => if headReady e ∧ 0 < x.credit then some (e, 0, txFmt s) else none
    | [] => none

/-- A grant cell of this tick that still waits in the queue goes before a selection (R362). -/
def grantsDone (s : State) : Bool :=
  (restOfTick s).all (fun i => match i with | .grantCellRx .. => false | _ => true)

/-- One cell of a packet leaves on a link, and the packet leaves its VOQ with its last. -/
def cellLeave (q dn k sent ver : Nat) (e : QPkt) (c : Cell) (s : State) : State :=
  let d := fabDst s dn
  let x := queueOf s q
  let s := setQueue q { x with credit := x.credit - 1 } (sendOn k (.data c) s)
  let s := setFabDst dn { seq := (d.seq + 1) % 65536, synced := true,
                          hold := if d.synced then none else some (s.tau.mono + reseqTicks s),
                          sending := if c.last then none else some ⟨q, e.pkt.pid, sent + 240, ver⟩ } s
  if c.last then voqDequeue q e s else s

/-- CELL_SEND (R353, R356, R362): the next cell of a VOQ leaves on the next link in turn. With its first cell the packet's
HBM cells are read: the packet waits for channels that hold requests (R383), and one whose reads failed twice is
discarded (R302). -/
def execCellSend (voq : VoqTurn) (s : State) : Out :=
  let q := voq.voq.val
  let s := resend s
  let dn := rfld s R.TMG_Q_CFG q 29 19
  let d := fabDst s dn
  if ¬ isVoq s q ∨ d.hold.isSome ∨ s.fab.resend ≠ [] ∨ s.fab.outbox ≠ [] ∨ grantsDone s = false then .next s
  else
    match sendable s q, nextLink s with
    | some (e, sent, ver), some k =>
      match nextCell s q e d sent ver with
      | some c =>
        if sent = 0 then
          let f := hbmFetch e voq.hbm s
          match f.res with
          | .waits => .next f.st
          | .failed => .next (discardHead q e.pkt.pid 13 f.st)
          | .read => .next (cellLeave q dn k sent ver e c f.st)
        else .next (cellLeave q dn k sent ver e c s)
      | none => .next s
    | _, _ => .next s

/-- SYNC_HOLD_END (R356): RESEQ_US have passed since the SYNC cell left. -/
def execSyncHoldEnd (dst : Device) (s : State) : Out :=
  let d := fabDst s dst.val
  match d.hold with
  | some t => .next (if timeUp s t then setFabDst dst.val { d with hold := none } s else s)
  | none => .next s

/-! ### Resequencing and reassembly (R354 to R358) -/

/-- A source's record. -/
def fabSrc (s : State) (n : Nat) : FabSrc := mget FabSrc.init s.fab.srcs n

/-- A source's record replaced. -/
def setFabSrc (n : Nat) (x : FabSrc) (s : State) : State :=
  withFab (fun f => { f with srcs := mset FabSrc.init f.srcs n x }) s

/-- The packet being reassembled from a source, or its discarding. -/
def setAsm (n : Nat) (a : Option (Option Nat)) (s : State) : State := setFabSrc n { fabSrc s n with asm := a } s

/-- The packet a FIRST cell begins (R290): its metadata, with QUEUE from the header, and its first bytes. -/
def firstPacket (c : Cell) (pid : Nat) : Packet :=
  let md : SMap Word32 := (List.range 16).foldl (fun m i =>
    mset 0 m i (BitVec.ofNat 32 (beNat ((c.payload.drop (4 * i)).take 4)))) []
  let bs := (c.payload.take c.len).drop 64
  let p : Packet := { Packet.empty with pid := pid, src := pid, md := md, win := bs.take 512, tail := bs.drop 512,
                                        complete := c.last, bad := false }
  mdSet p 1 31 13 c.queue.val

/-- The last cell of a packet in reassembly (R358): stored and eligible, or discarded on ABORT. The length from which growth
is counted (R125) is a free value (log 61): no field of a cell carries the frame's length at ingress, which is at least its
length less the 128 bytes it may have grown by. -/
def finishAsm (src q pid : Nat) (abort : Bool) (s : State) : State :=
  let s := setAsm src none s
  if abort then rcount (discardFrom q pid 0 s) R.FAB_RX_DROP1 0 63 32 1
  else
    let x := queueOf s q
    setQueue q { x with skein := x.skein.map (fun e =>
      if e.pkt.pid = pid then
        let p := setFrameLen { e.pkt with complete := true } (frameBytes e.pkt).length
        { e with pkt := { p with orig := frameLen p - 128 + Config.freeNat 72 s.freeCtr }, stored := true }
      else e) } (drawn s)

/-- Cells taken for a packet in reassembly until it holds those its bytes need; the answer says whether they could be
had (R295). -/
def growAsm (q pid need : Nat) : Nat → State → Bool × State
  | 0, s => (true, s)
  | f + 1, s =>
    match (queueOf s q).skein.find? (fun e => decide (e.pkt.pid = pid)) with
    | none => (false, s)
    | some e =>
      if need ≤ e.cells.length then (true, s)
      else
        let pool := if spills s q then hbmPool s else sramPool s
        match tmgAllocate pool s with
        | some (k, t) => growAsm q pid need f (addCell e.pkt.src k t)
        | none => (false, countRefused pool s)

/-- A released cell that begins a packet is admitted on the local path (R290, R358). -/
def releaseFirst (src : Nat) (c : Cell) (s : State) : State :=
  let s := loseAsm src s
  let pid := s.sen.nextPid
  let s := { s with sen := { s.sen with nextPid := pid + 1 } }
  let p := firstPacket c pid
  let q := c.queue.val
  let a := admitOne (if spills s q then hbmPool s else sramPool s) (cellsFor (frameBytes p).length) true none
    { p with complete := false } s
  if a.code ≠ 0 then setAsm src (if c.last then none else some none) (refusalCapture a.code (occOf (queueOf a.st q)) p a.st)
  else if c.last then finishAsm src q pid c.abort a.st
  else setAsm src (some (some pid)) a.st

/-- The queue a packet stands in. -/
def queueHolding (s : State) (pid : Nat) : Option Nat :=
  (s.tmg.qs.find? (fun e => e.2.skein.any (fun x => decide (x.pkt.pid = pid)))).map (fun e => e.1)

/-- A released cell that continues a packet; a LAST cell with ABORT discards it, whatever room there is (R358). -/
def releaseNext (src pid : Nat) (c : Cell) (s : State) : State :=
  match queueHolding s pid with
  | none => setAsm src (if c.last then none else some none) s
  | some q =>
    if c.last && c.abort then finishAsm src q pid true s
    else
    let x := queueOf s q
    let s := setQueue q { x with skein := x.skein.map (fun e =>
      if e.pkt.pid = pid then { e with pkt := { e.pkt with tail := e.pkt.tail ++ c.payload.take c.len } } else e) } s
    let n := ((queueOf s q).skein.find? (fun e => decide (e.pkt.pid = pid))).map (fun e => (frameBytes e.pkt).length)
    let g := growAsm q pid (cellsFor (n.getD 0)) 2 s
    if g.1 then (if c.last then finishAsm src q pid c.abort g.2 else g.2)
    else setAsm src (if c.last then none else some none) (discardFrom q pid 10 g.2)

/-- What cells of one packet share (R353). -/
def cellMark (c : Cell) : BitVec 4 × BitVec 2 × Fin 524288 := (c.ver, c.epoch, c.queue)

/-- The marks of the packet being reassembled or discarded. -/
def setMark (src : Nat) (c : Cell) (s : State) : State := setFabSrc src { fabSrc s src with mark := cellMark c } s

/-- A released cell of a packet whose FIRST is lost: that packet is counted, and discarded up to its end (R355). -/
def releaseHeadless (src : Nat) (c : Cell) (s : State) : State :=
  setAsm src (if c.last then none else some none) (countLost 1 (setMark src c (loseAsm src s)))

/-- One cell released in SEQ order (R355, R358). -/
def releaseCell (src : Nat) (c : Cell) (s : State) : State :=
  if c.first then releaseFirst src c (setMark src c s)
  else
    let x := fabSrc s src
    match x.asm with
    | none => releaseHeadless src c s
    | some a =>
      if x.mark ≠ cellMark c then releaseHeadless src c s
      else match a with
        | some pid => releaseNext src pid c s
        | none => if c.last then setAsm src none s else s

/-- The unbroken run from the expected SEQ is released. -/
def releaseRun (src : Nat) : Nat → State → State
  | 0, s => s
  | f + 1, s =>
    let x := fabSrc s src
    match x.exp with
    | none => s
    | some n =>
      match takeFirst (fun e => decide (e.1.seq.toNat = n)) x.held with
      | some (e, rest) =>
        releaseRun src f (releaseCell src e.1 (setFabSrc src { x with exp := some ((n + 1) % 65536), held := rest } s))
      | none => s

/-- How many packets that are not counted yet a run of cells in SEQ order belongs to: a cell begins another packet where it
is FIRST, where the packet before it has ended, or where it shows another VER, EPOCH or QUEUE. `cur` holds the
marks of the packet that is open, if one is (log 63). -/
def countPackets : Option (BitVec 4 × BitVec 2 × Fin 524288) → List Cell → Nat
  | _, [] => 0
  | cur, c :: rest =>
    let fresh := c.first || decide (cur ≠ some (cellMark c))
    (if fresh then 1 else 0) + countPackets (if c.last then none else some (cellMark c)) rest

/-- The cells held for a source in SEQ order from an expected SEQ on. -/
def inOrder (e : Nat) (h : List (Cell × Nat)) : List Cell :=
  let d (c : Cell) : Nat := (c.seq.toNat + 65536 - e) % 65536
  h.foldl (fun l x => l.filter (fun y => decide (d y < d x.1)) ++ x.1 :: l.filter (fun y => decide (d x.1 ≤ d y))) []

/-- How many packets that are not counted yet the cells held for a source belong to: the packet in reassembly is counted
as it is lost. -/
def heldPackets (x : FabSrc) : Nat :=
  countPackets (x.asm.map (fun _ => x.mark)) (inOrder (x.exp.getD 0) x.held)

/-- LATE of FAB_RX_DROP2. -/
def countLate (s : State) : State := rcount s R.FAB_RX_DROP2 0 31 0 1

/-- A cell of a synchronised source enters its resequencer (R354). -/
def resequence (src : Nat) (c : Cell) (s : State) : State :=
  let x := fabSrc s src
  match x.exp with
  | none => s
  | some n =>
    let ahead := (c.seq.toNat + 65536 - n) % 65536
    if 1024 ≤ ahead ∨ x.held.any (fun e => decide (e.1.seq = c.seq)) = true then countLate s
    else releaseRun src (x.held.length + 1) (setFabSrc src { x with held := x.held ++ [(c, s.tau.mono)] } s)

/-- What a cell's header has this device do with it: take it, or discard it and count it in MISDIR or FMT (R354,
R363); a write of RX_FMT applies to cells of later ticks (R364). -/
def takeCell (ver dst : Nat) (f : State → State) (s : State) : State :=
  let fmt := fld (rwas s R.FAB_CTL 0) 11 8
  if dst ≠ deviceId s then rcount s R.FAB_RX_DROP0 0 31 0 1
  else if ¬ (ver = fmt ∨ (ver + 1 = fmt ∧ ver ≠ 0)) then rcount s R.FAB_RX_DROP0 0 63 32 1
  else f s

/-- A data cell that a link has accepted (R354, R357). -/
def dataCell (c : Cell) (s : State) : State :=
  let src := c.src.val
  let x := fabSrc s src
  let sync := c.sync && decide (c.ver ≠ 1)
  takeCell c.ver.toNat c.dst.val (fun s =>
    match x.exp with
    | none =>
      if sync || c.first then resequence src c (setFabSrc src { x with exp := some c.seq.toNat } s) else countLate s
    | some _ =>
      if sync then
        let s := countLost (heldPackets x) (loseAsm src s)
        resequence src c (setFabSrc src { FabSrc.init with exp := some c.seq.toNat } s)
      else resequence src c s) s

/-- DATA_CELL_RX (R351, R354). -/
def execDataCellRx (k : Link) (crcOk : Bool) (cell : Cell) (s : State) : Out :=
  let a := cellAccepted k.val crcOk s
  .next (if a.1 then dataCell cell a.2 else a.2)

/-- RESEQ_TIMEOUT (R355): the expected SEQ advances to the lowest held, and the packet that lost cells is lost: the one in
reassembly, or one of which no cell is left, where a packet's FIRST cell follows; one whose later cells follow is counted
as they are discarded. -/
def execReseqTimeout (src : Device) (s : State) : Out :=
  let n := src.val
  let x := fabSrc s n
  match x.exp, x.held with
  | some e, h :: t =>
    let since := t.foldl (fun m y => min m y.2) h.2
    if timeUp s (since + reseqTicks s) then
      let low := t.foldl (fun m y => min m ((y.1.seq.toNat + 65536 - e) % 65536)) ((h.1.seq.toNat + 65536 - e) % 65536)
      let gone := x.asm.isNone && x.held.any (fun y =>
        decide ((y.1.seq.toNat + 65536 - e) % 65536 = low) && y.1.first)
      let s := if gone then countLost 1 s else loseAsm n s
      let a := match x.asm with | some (some _) => some none | a => a
      .next (releaseRun n x.held.length (setFabSrc n { x with exp := some ((e + low) % 65536), asm := a } s))
    else .next s
  | _, _ => .next s

/-! ### Requests and grants (R360 to R362) -/

/-- DEMAND of a VOQ: its backlog in data cells less its credit, floored at 0 and saturating (R350). -/
def demandOf (s : State) (q : Nat) : Nat :=
  let x := queueOf s q
  let back := x.skein.foldl (fun n e => n + fabCells (64 + (if e.pkt.complete then frameLen e.pkt else (frameBytes e.pkt).length))) 0
  let sent := s.fab.dsts.foldl (fun n e => match e.2.sending with
    | some w => if w.voq = q then n + w.sent / 240 else n
    | none => n) 0
  min 65535 (((back - sent : Nat) : Int) - x.credit).toNat

/-- A request entry is due (R360): DEMAND has risen from zero since the last one, has changed by REQ_DELTA, or is not zero
as REQ_REFRESH_US end. -/
def requestDue (s : State) (q : Nat) : Bool :=
  let d := demandOf s q
  match (queueOf s q).lastReq with
  | none => decide (d ≠ 0)
  | some (l, t) =>
    ((queueOf s q).zeroed && decide (d ≠ 0)) ||
    decide (rfld s R.FAB_CRED_CFG 0 39 24 ≤ (if l ≤ d then d - l else l - d)) ||
    (decide (d ≠ 0) && decide (t + rfld s R.FAB_CRED_CFG 0 23 12 * usTicks ≤ s.tau.mono))

/-- The other VOQs of a destination whose entries are due, in rising order. -/
def dueBeside (s : State) (q : Nat) : List Nat :=
  (s.tmg.qs.map (fun e => e.1)).filter (fun v => decide (v ≠ q) && isVoq s v && requestDue s v &&
    decide (rfld s R.TMG_Q_CFG v 29 19 = rfld s R.TMG_Q_CFG q 29 19))

/-- The request entry of a VOQ. -/
def reqEntry (s : State) (q : Nat) : ReqEntry :=
  ⟨Fin.ofNat 524288 q, Fin.ofNat 524288 (rfld s R.TMG_Q_CFG q 18 0), BitVec.ofNat 16 (demandOf s q)⟩

/-- A VOQ's request has been made. -/
def reqMade (q : Nat) (s : State) : State :=
  let d := demandOf s q
  setQueue q { queueOf s q with lastReq := some (d, s.tau.mono), zeroed := decide (d = 0) } s

/-- REQUEST_SEND (R360): a VOQ's request entry leaves, gathered into one cell with those of the same destination that are
due, as many as a cell holds. -/
def execRequestSend (voq : Queue) (s : State) : Out :=
  let q := voq.val
  if isVoq s q && requestDue s q && decide (rfld s R.FAB_CTL 0 3 2 = 2) then
    let qs := q :: (dueBeside s q).take 29
    let c : FabCell := .request (txFmt s) (deviceId s) (rfld s R.TMG_Q_CFG q 29 19) (qs.map (reqEntry s))
    .next (sendControl c (qs.foldl (fun s v => reqMade v s) s))
  else .next s

/-- VOQs whose DEMAND is zero at the end of a tick: their next rise is one from zero (R360). -/
def zeroTick (s : State) : State :=
  s.tmg.qs.foldl (fun s e =>
    if isVoq s e.1 && decide (demandOf s e.1 = 0) && !e.2.zeroed && e.2.lastReq.isSome then
      setQueue e.1 { queueOf s e.1 with zeroed := true } s else s) s

/-- What the fabric interface does at every tick (R347, R350 to R352, R360, R364). -/
def fabTick (s : State) : State := zeroTick (slotTick (fabOff s))

/-- Key of a demand record. -/
def demandKey (src voq : Nat) : Nat := src * 2 ^ 19 + voq

/-- A request entry sets its record's demand, or finds the table full (R361). -/
def takeRequest (src : Nat) (s : State) (e : ReqEntry) : State :=
  let k := demandKey src e.voq.val
  if (mfind s.fab.demands k).isSome ∨ s.fab.demands.length < 65536 then
    withFab (fun f => { f with demands := mput f.demands k ⟨e.target.val, e.demand.toNat, s.tau.mono⟩ }) s
  else rcount s R.FAB_DEMAND_STAT 0 31 0 1

/-- REQUEST_CELL_RX (R351, R361, R363). -/
def execRequestCellRx (k : Link) (crcOk : Bool) (h : CellHead) (es : ReqEntries) (s : State) : Out :=
  let a := cellAccepted k.val crcOk s
  .next (if a.1 then takeCell h.ver.toNat h.dst.val (fun s => es.foldl (takeRequest h.src.val) s) a.2 else a.2)

/-- A record may be granted credit through a port (R361). -/
def grantable (s : State) (p : Nat) (d : Demand) : Bool :=
  decide (0 < d.demand) && !isVoq s d.target && rbit s R.TMG_Q_CFG d.target 63 &&
    decide (portOfQueue s d.target = p) && portUp s p &&
    decide (occOf (queueOf s d.target) < rfld s R.FAB_CRED_CFG 0 63 48)

/-- Ticks that a grant of `n` cells takes up of a port's grant rate: GRANT_PCT % of its rate in cells of 240 bytes. -/
def grantTicks (s : State) (p n : Nat) : Nat :=
  let r := portRate s p * rfld s R.FAB_CRED_CFG 0 7 0
  if r = 0 then 0 else (n * 307200 + r - 1) / r

/-- A request cell of this tick that still waits in the queue goes before a grant decision (R362). -/
def requestsDone (s : State) : Bool :=
  (restOfTick s).all (fun i => match i with | .requestCellRx .. => false | _ => true)

/-- GRANT_ISSUE (R361): a port grants credit to the next record in turn, while a link is up to carry it (R363, R364). -/
def execGrantIssue (p : Port) (s : State) : Out :=
  let last := mget 0 s.fab.grantRr p.val
  let rs := s.fab.demands.filter (fun e => grantable s p.val e.2)
  let pick := match rs.find? (fun e => decide (last < e.1 + 1)) with | some e => some e | none => rs.head?
  match pick with
  | none => .next s
  | some (k, d) =>
    if s.tau.mono < mget 0 s.fab.grantAt p.val ∨ requestsDone s = false ∨ rfld s R.FAB_CTL 0 3 2 ≠ 2 then .next s
    else
      let n := min d.demand (rfld s R.FAB_CRED_CFG 0 47 40)
      let s := withFab (fun f => { f with
        demands := mput f.demands k { d with demand := d.demand - n }
        grantRr := mput f.grantRr p.val (k + 1)
        grantAt := mput f.grantAt p.val (s.tau.mono + grantTicks s p.val n) }) s
      .next (sendControl (.grant (txFmt s) (deviceId s) (k / 2 ^ 19) [⟨Fin.ofNat 524288 (k % 2 ^ 19), BitVec.ofNat 8 n⟩]) s)

/-- A grant entry: CELLS join the credit of the VOQ named. -/
def takeGrant (s : State) (e : GrantEntry) : State :=
  let x := queueOf s e.voq.val
  setQueue e.voq.val { x with credit := x.credit + e.cells.toNat } s

/-- GRANT_CELL_RX (R351, R362, R363). -/
def execGrantCellRx (k : Link) (crcOk : Bool) (g : GrantCell) (s : State) : Out :=
  let a := cellAccepted k.val crcOk s
  .next (if a.1 then takeCell g.ver.toNat g.dst.val (fun s => g.es.foldl takeGrant s) a.2 else a.2)

/-- DEMAND_RECORD_EXPIRE (R361): a record of demand 0 with no request for ten refresh intervals is removed. -/
def execDemandRecordExpire (src : Device) (voq : Queue) (s : State) : Out :=
  let k := demandKey src.val voq.val
  match mfind s.fab.demands k with
  | none => .next s
  | some d =>
    if d.demand = 0 ∧ timeUp s (d.last + 10 * rfld s R.FAB_CRED_CFG 0 23 12 * usTicks) = true then
      .next (withFab (fun f => { f with demands := mdel f.demands k }) s)
    else .next s

end Sys2Proof.Machine
end

