-- ==== Sys2Proof/Machine/Clock.lean ====
section
/-! DEFINITION. The PHC and its discipline, references and time pins (R36 to R50), the arming and disarming of
time-action entries (R51 to R58), and what falls due as time advances. -/

namespace Sys2Proof.Machine
open Sys2Proof

/-- The time and action unit changed. -/
def withTau (f : Tau → Tau) (s : State) : State := { s with tau := f s.tau }

/-- Bit `k` of TAU_STATUS is set, which raises the TAU interrupt (R43, R539). -/
def tauStatus (k : Nat) (s : State) : State := intRaise 5 (rsetF s R.TAU_STATUS 0 k k 1)

/-! ### The PHC (R37 to R42) -/

/-- ADJ of TAU_PHC_FREQ as a signed number. -/
def phcAdj (s : State) : Int := signed 32 (rfld s R.TAU_PHC_FREQ 0 31 0)

/-- What one tick adds to the PHC: 0.625 ns corrected by ADJ, in 2^-48 ns; the correction keeps 48 fraction bits
(R37, R41). -/
def phcTickUnits (s : State) : Nat := ((5 * 2 ^ 45 : Int) + (5 * 2 ^ 45 * phcAdj s) / 1000000000000).toNat

/-- Monotonic ticks since the last discipline (R42). -/
def sinceDiscipline (s : State) : Nat := (s.tau.mono + 2 ^ 64 - s.tau.lastDisc) % 2 ^ 64

/-- A discipline: HOLDOVER clears, and the time without discipline starts again (R41, R42). -/
def discipline (s : State) : State :=
  rsetF (withTau (fun t => { t with lastDisc := t.mono }) s) R.TAU_STATUS 0 8 8 0

/-- PHC_SEC_READ (R38): the whole PHC value is latched and its seconds returned. -/
def execPhcSecRead (s : State) : Out :=
  .next (answer (BitVec.ofNat 64 (phcSec (phcNow s))) (withTau (fun t => { t with latch := phcNow s }) s))

/-- HOLD_TIMEOUT of a write of TAU_PHC_CTL (R42): the new value, judged from the next tick on; a write of zero clears
HOLDOVER on that tick. -/
def holdTimeout (v : Word) (s : State) : State :=
  rsetF (withTau (fun t => { t with holdAt := some t.mono, holdClr := t.holdClr || decide (fld v 31 16 = 0) }) s)
    R.TAU_PHC_CTL 0 31 16 (fld v 31 16)

/-- A step that a write of TAU_PHC_CTL asks for takes effect on the next tick (R39). -/
def askStep (r : StepReq) (s : State) : State := withTau (fun t => { t with step := some (r, t.mono) }) s

/-- PHC_STEP_ABS (R38, R39, R42): a write of TAU_PHC_CTL that sets STEP_ABS asks for the set values, and STEP_REL of the
same write is ignored; its HOLD_TIMEOUT is stored. -/
def execPhcStepAbs (v : Word) (s : State) : Out :=
  if bit v 0 then
    .next (askStep (.abs (rfld s R.TAU_PHC_SET_SEC 0 47 0)
      (rfld s R.TAU_PHC_SET_NS 0 45 16) (rfld s R.TAU_PHC_SET_NS 0 15 0)) (holdTimeout v s))
  else .next s

/-- PHC_STEP_REL (R38, R39, R42): a write that sets STEP_REL, and not STEP_ABS, asks for the offset to be added; its
HOLD_TIMEOUT is stored. -/
def execPhcStepRel (v : Word) (s : State) : Out :=
  if bit v 1 && !bit v 0 then .next (askStep (.rel (rget s R.TAU_PHC_STEP_REL 0)) (holdTimeout v s))
  else .next s

/-- PHC_FREQ_WRITE (R41): ADJ, held within its range, and a discipline. -/
def execPhcFreqWrite (v : Word) (s : State) : Out :=
  let a := signed 32 (fld v 31 0)
  let c := if a < -1000000000 then -1000000000 else if 1000000000 < a then 1000000000 else a
  .next (discipline (rsetF s R.TAU_PHC_FREQ 0 31 0 (c % 2 ^ 32).toNat))

/-- HOLD_TIMEOUT_WRITE (R42): a write of TAU_PHC_CTL that asks for no step. -/
def execHoldTimeoutWrite (v : Word) (s : State) : Out := .next (holdTimeout v s)

/-- On the tick after a write of HOLD_TIMEOUT = 0 HOLDOVER clears (R42). -/
def holdTick (s : State) : State :=
  if s.tau.holdClr then rsetF (withTau (fun t => { t with holdClr := false }) s) R.TAU_STATUS 0 8 8 0 else s

/-- The holdover condition (R42): detection is on, the time without discipline has reached HOLD_TIMEOUT, and no write
of HOLD_TIMEOUT came on this tick; a discipline that arrives on the tick comes before it (R10). -/
def holdoverDue (s : State) : Bool :=
  let h := rfld s R.TAU_PHC_CTL 0 31 16
  decide (h ≠ 0) && decide (s.tau.holdAt ≠ some s.tau.mono) &&
    (decide (h * msTicks < sinceDiscipline s) || (decide (h * msTicks = sinceDiscipline s) && arrivalsDone s))

/-- HOLDOVER_ENTER (R42): HOLDOVER and HOLD_ENTER are set on the first tick on which the condition holds. -/
def execHoldoverEnter (s : State) : Out :=
  if holdoverDue s && !rbit s R.TAU_STATUS 0 8 then .next (tauStatus 3 (rsetF s R.TAU_STATUS 0 8 8 1)) else .next s

/-- The selected reference is lost: the TAU runs on the board reference and sets REF_LOSS; ADJ stays (R43). -/
def refLoss (s : State) : State := tauStatus 1 (rsetF s R.TAU_REF_CFG 0 1 0 2)

/-- REF_LOSS (R43): loss of a reference other than the board's. -/
def execRefLoss (s : State) : Out :=
  if rfld s R.TAU_REF_CFG 0 1 0 ≠ 2 then .next (refLoss s) else .next s

/-! ### Time pins (R44 to R48) -/

/-- PPS_IN_EDGE (R44): the edge's PHC time. -/
def execPpsInEdge (s : State) : Out :=
  .next (rset (withTau (fun t => { t with ppsIn := t.mono, ppsInLost := false }) s) R.TAU_PPS_IN_TS 0 (secNsWord (phcNow s)))

/-- Monotonic ticks in 1.1 s. -/
def ppsInTicks : Nat := 1100 * msTicks

/-- PPS_IN_LOSS (R43): no 1PPS input edge for 1.1 s; PPS_IN_LOSS is set once for each loss. -/
def execPpsInLoss (s : State) : Out :=
  if !s.tau.ppsInLost && timeUp s (s.tau.ppsIn + ppsInTicks) then
    .next (tauStatus 2 (withTau (fun t => { t with ppsInLost := true }) s))
  else .next s

/-- The second whose 1PPS instant, its boundary plus OFFSET_NS, is the last one at or before now (R45). -/
def ppsSecond (s : State) : Option Nat :=
  let ofs := rfld s R.TAU_PPS_CFG 0 61 32
  if ofs ≤ phcNanos (phcNow s) then some ((phcNanos (phcNow s) - ofs) / 1000000000) else none

/-- The 1PPS instant of second `n`, in ns of PHC time (R45). -/
def ppsInstant (s : State) (n : Nat) : Nat := n * 1000000000 + rfld s R.TAU_PPS_CFG 0 61 32

/-- This is the first tick on which the PHC is at or after an instant given in ns. -/
def phcReaches (s : State) (i : Nat) : Bool :=
  decide (i * nsUnits ≤ phcNow s) && decide (phcNow s < i * nsUnits + phcTickUnits s)

/-- PPS_OUT_EDGE (R45): on the tick that reaches the second boundary plus OFFSET_NS the output rises while OUT_EN is 1,
for WIDTH_US. -/
def execPpsOutEdge (s : State) : Out :=
  match ppsSecond s with
  | some n =>
    if rbit s R.TAU_PPS_CFG 0 0 && !s.tau.ppsOut && phcReaches s (ppsInstant s n) then
      .next (emit (.pps true) (withTau (fun t => { t with
        ppsOut := true, ppsEnd := ppsInstant s n + 1000 * rfld s R.TAU_PPS_CFG 0 27 8 }) s))
    else .next s
  | none => .next s

/-- The 1PPS output falls (R45). -/
def ppsDrop (s : State) : State :=
  if s.tau.ppsOut then emit (.pps false) (withTau (fun t => { t with ppsOut := false }) s) else s

/-- PPS_OUT_PULSE_END (R45): the output falls once its high time of WIDTH_US has passed. -/
def execPpsOutPulseEnd (s : State) : Out :=
  if s.tau.ppsEnd ≤ phcNanos (phcNow s) then .next (ppsDrop s) else .next s

/-- The PHC instant, in ns, 1 ms after the next 1PPS output instant (R46). -/
def todInstant (s : State) : Nat :=
  let now := phcNanos (phcNow s)
  let ofs := rfld s R.TAU_PPS_CFG 0 61 32
  (now / 1000000000 + 1) * 1000000000 + ofs + 1000000

/-- TAU_TOD_TX written (R46): eight bytes of the message, least significant first, at most 64 in all. A message that
has been sent is written afresh; DESIGN CHOICE (log 55): bytes written before it has been sent are added to it. -/
def todWrite (v : Word) (s : State) : State :=
  withTau (fun t => { t with todBuf := (t.todBuf ++ leBytes 8 v.toNat).take 64 }) s

/-- TX_LEN written (R46): a message that has been written waits for the next 1PPS output instant. DESIGN CHOICE (log
55): every later write of TAU_TOD_CFG before it has been sent fixes its instant anew. -/
def todLength (s : State) : State :=
  if s.tau.todBuf = [] then s
  else withTau (fun t => { t with todReady := true, todAt := todInstant s }) s

/-- TOD_MESSAGE_SEND (R46): the UART sends the waiting message once. -/
def execTodMessageSend (s : State) : Out :=
  if s.tau.todReady && rbit s R.TAU_TOD_CFG 0 0 && decide (s.tau.todAt ≤ phcNanos (phcNow s)) then
    .next (emit (.todByteRun (s.tau.todBuf.take (rfld s R.TAU_TOD_CFG 0 14 8)))
      (withTau (fun t => { t with todBuf := [], todReady := false }) s))
  else .next s

/-- TOD_BYTE_RX (R46, R47): a byte with the PHC time of its start bit, or a drop where the FIFO is full; the UART
receives while EN is 1. -/
def execTodByteRx (b : Byte) (sec ns : Word) (s : State) : Out :=
  if rbit s R.TAU_TOD_CFG 0 0 && decide (s.tau.todRx.length < 256) then
    .next (tauStatus 0 (withTau (fun t => { t with todRx := t.todRx ++ [(b, sec.toNat, ns.toNat)] }) s))
  else .next s

/-- A ToD record in the layout of TAU_TOD_RX (R47). -/
def todWord (e : Byte × Nat × Nat) : Word :=
  BitVec.ofNat 64 (e.2.1 % 2 ^ 32 * 2 ^ 30 + e.2.2 % 2 ^ 30 / 512 * 512 + 256 + e.1.toNat)

/-- TOD_RX_READ (R47): the oldest byte is popped; VALID is 0 where there is none. -/
def execTodRxRead (s : State) : Out :=
  match s.tau.todRx with
  | [] => .next (answer 0 s)
  | e :: rest => .next (answer (todWord e) (withTau (fun t => { t with todRx := rest }) s))

/-- BRIDGE_TIME_FAULT (R50): the forwarded time lane loses lock; the Q-die holds its last time and counts on from it,
and the error unit reports the fault. -/
def execBridgeTimeFault (s : State) : Out :=
  if s.tau.bridgeFault then .next s
  else .next (errReport 7 1 15 0 0 0 (withTau (fun t => { t with bridgeFault := true, qPhc := phcNow s }) s))

/-- TIME_LANE_RELOCK (R50): the time lane regains lock, and the Q-die has the time of the bus again. -/
def execTimeLaneRelock (s : State) : Out := .next (withTau (fun t => { t with bridgeFault := false }) s)

/-! ### The time-action table (R51 to R58) -/

/-- The entry's ARM bit. -/
def taArmed (s : State) (n : Nat) : Bool := rbit s R.TAU_TA_ACT n 63

/-- The instant of an entry armed now: the high 16 bits of its seconds are the PHC's (R51). -/
def taInstant (s : State) (n : Nat) : Nat :=
  (phcSec (phcNow s) / 2 ^ 32 * 2 ^ 32 + rfld s R.TAU_TA_TIME n 61 30) * 1000000000 + rfld s R.TAU_TA_TIME n 29 0

/-- A number put into a rising list. -/
def insertAsc (n : Nat) : List Nat → List Nat
  | [] => [n]
  | x :: t => if n < x then n :: x :: t else x :: insertAsc n t

/-- TA_ARM (R54, R56): ACTION and ARG are stored with ARM, unless the entry is armed already. One whose instant has
passed fires on the next tick, late; one whose instant is now falls due on this tick. -/
def execTaArm (n : TaIdx) (v : Word) (s : State) : Out :=
  if taArmed s n.val then .next s
  else if bit v 63 then
    let s := hostStore false R.TAU_TA_ACT n.val v s
    let s := rsetF (rsetF (rsetF s R.TAU_TA_ACT n.val 63 63 1) R.TAU_TA_ACT n.val 62 60 1) R.TAU_TA_ACT n.val 59 56 0
    let i := taInstant s n.val
    let late := decide (i * nsUnits < phcNow s)
    .next (withTau (fun t => { t with
      ta := mput t.ta n.val ⟨i, late, none⟩
      taDue := if i * nsUnits = phcNow s then t.taDue.take t.taOld ++ insertAsc n.val (t.taDue.drop t.taOld) else t.taDue }) s)
  else .next s

/-- TA_DISARM (R54): the entry is idle and will not fire; an entry that is not armed keeps its STATE, and the
write's other fields are stored. -/
def execTaDisarm (n : TaIdx) (v : Word) (s : State) : Out :=
  if bit v 63 then .next s
  else if taArmed s n.val then
    let s := rsetF (rsetF s R.TAU_TA_ACT n.val 63 63 0) R.TAU_TA_ACT n.val 62 60 0
    .next (withTau (fun t => { t with
      ta := mdel t.ta n.val
      taDue := t.taDue.filter (fun m => decide (m ≠ n.val))
      taOld := (t.taDue.take t.taOld).countP (fun m => decide (m ≠ n.val)) }) s)
  else .next (hostStore false R.TAU_TA_ACT n.val v s)

/-- Armed entries at or before the PHC that have not fallen due yet join the due list, in index order (R53); on the
tick of a step (`step`) not those it has passed, which fall due on the next (R57). -/
def taFallDue (step : Bool) (s : State) : State :=
  withTau (fun t => { t with taOld := t.taDue.length, taDue := t.taDue ++ ((t.ta.filter (fun e =>
    decide (e.2.instant * nsUnits ≤ t.phc) && !t.taDue.contains e.1 &&
      !(step && decide (e.2.stepAt = some t.phc)))).map (fun e => e.1)) }) s

/-- The armed entries after a step of the PHC from `old` to `new` (R57, R58): those a forward step has passed fire
late; after a backward step an entry whose instant lies ahead waits for it. -/
def taStepped (old new : Nat) (t : Tau) : SMap TaRun :=
  t.ta.map (fun e =>
    if new < e.2.instant * nsUnits then (e.1, { e.2 with late := false, stepAt := none })
    else if old < new ∧ e.2.instant * nsUnits < new then (e.1, { e.2 with late := true, stepAt := some new })
    else e)

/-- The due list after a step to `new` (R58): an entry whose instant lies ahead again is no longer due. -/
def taStillDue (new : Nat) (t : Tau) : List Nat :=
  t.taDue.filter (fun n =>
    match mfind t.ta n with
    | some e => decide (e.instant * nsUnits ≤ new)
    | none => false)

end Sys2Proof.Machine
end

