-- ==== Sys2Proof/Machine/Crypto.lean ====
section
/-! DEFINITION. The algorithms of the cipher engine over the standards' functions of `Config` (ch. 15), the key slots
(R442), derivation (R444), and notices (R464). -/

namespace Sys2Proof.Machine
open Sys2Proof

/-- A run of bytes of a fixed length: cut, or filled with zeros. -/
def fitBytes (n : Nat) (bs : Bytes) : Bytes := (bs ++ List.replicate n 0).take n

/-- Two runs of bytes XORed. -/
def xorBytes (a b : Bytes) : Bytes := List.zipWith (fun x y => x ^^^ y) a b

/-- Text XORed with the GCM keystream from its start. -/
def gcmXor (key nonce text : Bytes) : Bytes := (text.zipIdx).map (fun e => e.1 ^^^ Config.gcmStream key nonce e.2)

/-- The 16-byte GCM tag. -/
def gcmIcv (key nonce aad ct : Bytes) : Bytes := fitBytes 16 (Config.gcmTag key nonce aad ct)

/-- The cipher engine changed. -/
def withCph (f : Cph → Cph) (s : State) : State := { s with cph := f s.cph }

/-- An empty slot. -/
def Slot.empty : Slot := ⟨0, false, false, 0, [], [], 0⟩

/-- A key slot. -/
def slotOf (s : State) (n : Nat) : Slot := mget Slot.empty s.cph.slots n

/-- The key and salt derived from a root key for a label, USE and AN (R444). -/
def derive (root : Bytes) (label use an : Nat) : Bytes × Bytes :=
  let x := beBytes 8 label ++ [BitVec.ofNat 8 use, BitVec.ofNat 8 an]
  let out := fitBytes 44 (Config.kmac256 root x [0x54, 0x48, 0x45, 0x43, 0x49, 0x41, 0x2D, 0x4B, 0x44, 0x46] 44)
  (out.take 32, out.drop 32)

/-- A notice (R464): it enters the FIFO of 256 records or is dropped and counted, raises event line 255 + TYPE, and a
FIFO that is not empty raises the CPH interrupt. -/
def cphNotice (type low : Nat) (s : State) : State :=
  let s := eventLine (255 + type) (BitVec.ofNat 32 low) s
  let s := if s.cph.notify.length < 256 then withCph (fun c => { c with notify := c.notify ++ [⟨type, low⟩] }) s
           else rcount s R.CPH_NOTIFY_DROP 0 31 0 1
  intRaise 7 s

/-- CPH_NOTIFY_READ (R464): the oldest notice is popped. -/
def execCphNotifyRead (s : State) : Out :=
  match s.cph.notify with
  | [] => .next (answer 0 s)
  | n :: rest => .next (answer (BitVec.ofNat 64 (2 ^ 63 + n.type * 2 ^ 60 + n.low % 2 ^ 60))
      (withCph (fun c => { c with notify := rest }) s))

end Sys2Proof.Machine
end

