-- ==== Sys2Proof/Machine/Macsec.lean ====
section
/-! DEFINITION. MACsec on the line ports (R257 to R262, R460 to R463): secure associations, switches, the protection
of a frame on transmit and its verification on receive. The SecTAG layout is that of IEEE 802.1AE (log 11). -/

namespace Sys2Proof.Machine
open Sys2Proof

/-- The line interface changed. -/
def withLiu (f : Liu → Liu) (s : State) : State := { s with liu := f s.liu }

/-- A line port. -/
def liuPort (s : State) (p : Nat) : LiuPort := mget LiuPort.init s.liu.ports p

/-- A line port replaced. -/
def setLiuPort (p : Nat) (x : LiuPort) (s : State) : State :=
  withLiu (fun l => { l with ports := mset LiuPort.init l.ports p x }) s

/-- Index of an SA in the register arrays (R258, R460). -/
def saIdx (p d a : Nat) : Nat := 8 * p + 4 * d + a

/-- EN of an SA. -/
def saEn (s : State) (p d a : Nat) : Bool := rbit s R.LIU_MSEC_SA (saIdx p d a) 63

/-- The SCI of a port and direction. -/
def sciOf (s : State) (p d : Nat) : Nat :=
  (if d = 0 then rget s R.LIU_MSEC_TXSCI p else rget s R.LIU_MSEC_RXSCI p).toNat

/-- The low bits of a notice about an SA (R464). -/
def saNotice (p d a : Nat) : Nat := p * 2 ^ 8 + d * 2 ^ 7 + a * 2 ^ 5

/-! ### What a frame's delimiter fixes (R249, R257, R260) -/

/-- The key an SA holds. -/
def saKey (s : State) (p d a : Nat) : SaKey := (mfind (liuPort s p).sa (4 * d + a)).getD ⟨0, [], [], false⟩

/-- MAX_FRAME and LIU_MSEC_CFG of a port for a frame whose delimiter passes on this tick: as they stood before any write or
switch of the tick (R249, R257, R260). -/
def cfgSeen (s : State) (p : Nat) : Nat × Word :=
  match (liuPort s p).before with
  | some (t, m, c) => if t = s.tau.mono then (m, c) else (rfld s R.LIU_PORT_CFG p 39 24, rget s R.LIU_MSEC_CFG p)
  | none => (rfld s R.LIU_PORT_CFG p 39 24, rget s R.LIU_MSEC_CFG p)

/-- What MACsec applies to a frame of a direction, 0 transmit and 1 receive, whose delimiter passes now (R257, R260). -/
def secView (s : State) (p d : Nat) : SecView :=
  ⟨(cfgSeen s p).2, sciOf s p d, ((List.range 4).filter (saEn s p d)).map (fun a =>
    (a, rfld s R.LIU_MSEC_SA (saIdx p d a) 31 0, saKey s p d a))⟩

/-- The frame in progress on a port's line: its head has come, and its end has not left yet. -/
def inProgress (s : State) (p : Nat) : Option Packet :=
  match s.sen.toLiu.find? (fun q => decide (mdF q 2 20 14 = p)) with
  | some q =>
    if rbit s R.LIU_PORT_STAT p 63 && (!q.complete || s.tmg.cuts.any (fun c => decide (c.pid = q.pid))) then some q else none
  | none => none

/-- What MACsec applies to a frame that leaves: as at its delimiter (R257, R260). -/
def txSeen (s : State) (p pid : Nat) : SecView :=
  match (liuPort s p).txSec with
  | some (q, v) => if q = pid then v else secView s p 0
  | none => secView s p 0

/-- LIU_PORT_CFG, LIU_MSEC_CFG or an SA of a port is about to change: what a frame of this tick is still to see is kept,
and what the frame in progress on the line began under (R249, R257, R260). -/
def cfgNote (p : Nat) (s : State) : State :=
  let x := liuPort s p
  let t := match inProgress s p with
    | some q => some (q.pid, txSeen s p q.pid)
    | none => x.txSec
  let b := if x.before.any (fun b => decide (b.1 = s.tau.mono)) then x.before
    else some (s.tau.mono, rfld s R.LIU_PORT_CFG p 39 24, rget s R.LIU_MSEC_CFG p)
  setLiuPort p { x with before := b, txSec := t } s

/-! ### Installing and removing an SA (R258, R259, R461, R463) -/

/-- Another enabled transmit SA shares the key and nonce space of one (R461). -/
def saClash (s : State) (p a : Nat) : Bool :=
  let w := rget s R.LIU_MSEC_SA (saIdx p 0 a)
  let k := (slotOf s (fld w 47 32)).kind
  (List.range 128).any (fun q => (List.range 4).any (fun b =>
    let v := rget s R.LIU_MSEC_SA (saIdx q 0 b)
    !decide (q = p ∧ b = a) && bit v 63 && decide (fld v 47 32 = fld w 47 32) &&
      (if k = 1 then decide (fld v 31 0 = fld w 31 0) else decide (sciOf s q 0 = sciOf s p 0 ∧ b = a))))

/-- SLOT and SSCI of an SA stored, unless it is enabled (R259). -/
def saFields (p d a : Nat) (v : Word) (s : State) : State :=
  if saEn s p d a then s else hostStore false R.LIU_MSEC_SA (saIdx p d a) v s

/-- MACSEC_SA_ENABLE (R461): the key and salt of SLOT are captured; a slot that may not serve, or a shared nonce
space, makes the write a configuration violation, and it changes nothing (R524). -/
def execMacsecSaEnable (p : Port) (d : Dir) (a : An) (v : Word) (s : State) : Out :=
  let dn := match d with | .tx => 0 | .rx => 1
  let i := saIdx p.val dn a.val
  if saEn s p.val dn a.val ∨ ¬ bit v 63 then .next (saFields p.val dn a.val v s)
  else
    let was := s
    let s := saFields p.val dn a.val v s
    let n := rfld s R.LIU_MSEC_SA i 47 32
    let sl := slotOf s n
    if ¬ ((sl.kind = 1 ∨ sl.kind = 2) ∧ sl.macsec = true ∧ ¬ s.cph.bad.contains n) ∨ (dn = 0 ∧ saClash s p.val a.val = true) then
      .next (cfgViolation 2 (regAddr R.LIU_MSEC_SA i) was)
    else
      let k := if sl.kind = 1 then (sl.key, sl.salt) else derive sl.key (sciOf s p.val dn) 2 a.val
      let s := cfgNote p.val s
      let x := liuPort s p.val
      let s := setLiuPort p.val { x with sa := mput x.sa (4 * dn + a.val) ⟨n, k.1, k.2, false⟩ } s
      .next (rsetF (rsetF s R.CPH_MSEC_SASTAT i 63 60 0) R.LIU_MSEC_SA i 63 63 1)

/-- An SA is removed. -/
def saOff (p d a : Nat) (s : State) : State :=
  let x := liuPort s p
  rsetF (setLiuPort p { x with sa := mdel x.sa (4 * d + a) } s) R.LIU_MSEC_SA (saIdx p d a) 63 63 0

/-- MACSEC_SA_DISABLE (R259): the transmit SA that TX_AN names stays, and the write is a violation. -/
def execMacsecSaDisable (p : Port) (d : Dir) (a : An) (v : Word) (s : State) : Out :=
  let dn := match d with | .tx => 0 | .rx => 1
  if bit v 63 then .next s
  else if saEn s p.val dn a.val then
    if dn = 0 ∧ rfld s R.LIU_MSEC_CFG p.val 55 54 = a.val then
      .next (cfgViolation 2 (regAddr R.LIU_MSEC_SA (saIdx p.val dn a.val)) s)
    else .next (saOff p.val dn a.val (cfgNote p.val s))
  else .next (saFields p.val dn a.val v s)

/-- A view of a frame's MACsec configuration without the SAs of a slot. -/
def viewWithout (slot : Nat) (v : SecView) : SecView :=
  { v with sas := v.sas.filter (fun e => decide (e.2.2.slot ≠ slot)) }

/-- The copies of a slot's key that enabled SAs hold are zeroised: each such SA takes STOP 2 (R463). A frame then being
received or in progress on the line has no SA any more. -/
def saErase (slot : Nat) (s : State) : State :=
  s.liu.ports.foldl (fun s e => e.2.sa.foldl (fun s f =>
    if f.2.slot = slot then
      let i := 8 * e.1 + f.1
      rsetF (saOff e.1 (f.1 / 4) (f.1 % 4) s) R.CPH_MSEC_SASTAT i 61 60 2
    else s) s)
    (withLiu (fun l => { l with ports := mmap l.ports (fun _ x => some { x with
      rx := x.rx.map (fun f => { f with sec := viewWithout slot f.sec })
      txSec := x.txSec.map (fun e => (e.1, viewWithout slot e.2)) }) }) s)

/-! ### Switches (R260) -/

/-- MSEC_SWITCH_WRITE (R260): the switch waits for the tick after. -/
def execMsecSwitchWrite (v : Word) (s : State) : Out :=
  .next (withLiu (fun l => { l with switches := l.switches ++ [(fld v 9 0, s.tau.mono)] }) s)

/-- An association switch, in the layout of action 3 (R260). The older SA of a receive overlap that is still running
is removed, unless the switch returns to it (log 22). A frame whose delimiter has passed keeps what it began under. -/
def msecSwitch (arg : Nat) (s : State) : State :=
  let p := arg % 128
  let a := arg / 128 % 4
  let s := cfgNote p s
  if arg / 512 % 2 = 0 then
    if rfld s R.LIU_MSEC_CFG p 55 54 = a then s
    else if saEn s p 0 a then rsetF s R.LIU_MSEC_CFG p 55 54 a
    else rsetF s R.LIU_MSEC_CFG p 51 51 1
  else
    let old := rfld s R.LIU_MSEC_CFG p 53 52
    if old = a then s
    else if saEn s p 1 a then
      let s := match (liuPort s p).overlap with
        | some (o, _) => if o = a then s else saOff p 1 o s
        | none => s
      let t := s.tau.mono + 1600 * rfld s R.LIU_MSEC_CFG p 39 20
      setLiuPort p { liuPort s p with overlap := some (old, t) } (rsetF s R.LIU_MSEC_CFG p 53 52 a)
    else rsetF s R.LIU_MSEC_CFG p 51 51 1

/-- MACSEC_ASSOCIATION_SWITCH (R10, R260): the switches written on earlier ticks act, after the frames whose delimiters
pass on this one. -/
def execMacsecAssociationSwitch (s : State) : Out :=
  let old (e : Nat × Nat) : Bool := decide (e.2 ≠ s.tau.mono)
  if arrivalsDone s then
    .next ((s.liu.switches.filter old).foldl (fun s e => msecSwitch e.1 s)
      (withLiu (fun l => { l with switches := l.switches.filter (fun e => !old e) }) s))
  else .next s

/-- RX_OVERLAP_END (R260): the older receive SA is no longer accepted. -/
def execRxOverlapEnd (p : Port) (s : State) : Out :=
  match (liuPort s p.val).overlap with
  | some (a, t) =>
    if timeUp s t then .next (setLiuPort p.val { liuPort (saOff p.val 1 a s) p.val with overlap := none } (saOff p.val 1 a s))
    else .next s
  | none => .next s

/-! ### Frames -/

/-- The EtherType at an offset. -/
def etherType (bs : Bytes) (o : Nat) : Nat := beNat [byteAt bs o, byteAt bs (o + 1)]

/-- The XPN nonce (R462): SSCI and packet number XORed with the salt. -/
def msecNonce (ssci pn : Nat) (salt : Bytes) : Bytes := xorBytes (beBytes 4 ssci ++ beBytes 8 pn) (fitBytes 12 salt)

/-- CONF_OFFSET of a port's MACsec configuration in bytes. -/
def confOffset (cfg : Word) : Nat := [0, 30, 50, 0].getD (fld cfg 59 58) 0

/-- The SSCI and key of an SA of a view; none where the SA is not installed. -/
def viewSa (v : SecView) (a : Nat) : Option (Nat × SaKey) := (v.sas.find? (fun e => decide (e.1 = a))).map (·.2)

/-- A protected frame's parts: SA index, packet number, bytes before the user data, whether it is encrypted, SL. -/
structure SecFrame where
  sa : Nat
  pn : Nat
  head : Nat
  enc : Bool
  sl : Nat
deriving DecidableEq, Repr

/-- What the SecTAG of a received frame calls for (R261). -/
inductive MsecJudge
  /-- Delivered as it came. -/
  | plain
  /-- Dropped and counted: 0 ICV, 1 NOSA, 2 REPLAY, 3 UNTAGGED. -/
  | drop (k : Nat)
  | secured (f : SecFrame)

/-- The packet number whose low 32 bits a SecTAG carries, from the lowest acceptable one. -/
def fullPn (low lowest : Nat) : Nat :=
  let hi := lowest / 2 ^ 32
  (if lowest % 2 ^ 32 ≥ 2 ^ 31 ∧ low < 2 ^ 31 then hi + 1 else hi) % 2 ^ 32 * 2 ^ 32 + low

/-- The SecTAG of a received frame judged under the configuration of its delimiter (R257, R260, R261). -/
def msecJudge (v : SecView) (s : State) (p : Nat) (raw : Bytes) : MsecJudge :=
  let cfg := v.cfg
  if bit cfg 63 = false ∨ fld cfg 57 56 = 0 then .plain
  else if etherType raw 12 ≠ 0x88E5 then
    if bit cfg 62 && decide (etherType raw 12 = 0x888E) then .plain else .drop 3
  else
    let tci := (byteAt raw 14).toNat
    let a := tci % 4
    let i := saIdx p 1 a
    let lowest := (rget s R.CPH_MSEC_PN i).toNat
    let sc := tci.testBit 5
    let pn := fullPn (beNat ((raw.drop 16).take 4)) lowest
    let ended := ((mfind (liuPort s p).sa (4 + a)).map (fun k => k.done)).getD false
    if sc && decide (beNat ((raw.drop 20).take 8) ≠ v.sci) then .drop 1
    else if (viewSa v a).isNone then .drop 1
    else if ended ∨ pn = 0 ∨ pn + fld cfg 19 0 < lowest then .drop 2
    else .secured ⟨a, pn, if sc then 28 else 20, tci.testBit 3, (byteAt raw 15).toNat % 64⟩

/-- The user data and ICV of a protected frame. -/
def secParts (f : SecFrame) (raw : Bytes) : Bytes × Bytes :=
  let d := raw.drop f.head
  let n := if f.sl ≠ 0 ∧ f.sl < 48 ∧ f.sl + 16 ≤ d.length then f.sl else d.length - 16
  (d.take n, (d.drop n).take 16)

/-- The frame the program sees: addresses, then the user data in clear, of which `body` has arrived. -/
def secPlain (v : SecView) (f : SecFrame) (raw body : Bytes) : Bytes :=
  let e := (viewSa v f.sa).getD (0, ⟨0, [], [], false⟩)
  let k := e.2
  let n := msecNonce e.1 f.pn k.salt
  let co := if f.enc then confOffset v.cfg else body.length
  raw.take 12 ++ body.take co ++ gcmXor k.key n (body.drop co)

/-- The ICV of a protected frame is good. -/
def secGood (v : SecView) (f : SecFrame) (raw : Bytes) : Bool :=
  let e := (viewSa v f.sa).getD (0, ⟨0, [], [], false⟩)
  let k := e.2
  let n := msecNonce e.1 f.pn k.salt
  let x := secParts f raw
  let co := if f.enc then confOffset v.cfg else x.1.length
  decide (f.head + 16 ≤ raw.length) && decide (x.2 = gcmIcv k.key n (raw.take f.head ++ x.1.take co) (x.1.drop co))

/-- LIU_MSEC_DROP of a case (R261). -/
def msecDrop (p k : Nat) (s : State) : State := rcount s R.LIU_MSEC_DROP p (63 - 16 * k) (48 - 16 * k) 1

/-- An accepted packet number moves the lowest acceptable one past it (R462), and WARN shows that one at or above
CPH_MSEC_WARN has come (R460). -/
def rxPn (p : Nat) (f : SecFrame) (s : State) : State :=
  let i := saIdx p 1 f.sa
  let s := if (rget s R.CPH_MSEC_WARN 0).toNat ≤ f.pn then rsetF s R.CPH_MSEC_SASTAT i 63 63 1 else s
  let low := (rget s R.CPH_MSEC_PN i).toNat
  if f.pn = 2 ^ 64 - 1 then
    let x := liuPort s p
    setLiuPort p { x with sa := x.sa.map (fun e => if e.1 = 4 + f.sa then (e.1, { e.2 with done := true }) else e) } s
  else if low ≤ f.pn then rset s R.CPH_MSEC_PN i (BitVec.ofNat 64 (f.pn + 1)) else s

/-- A complete frame that has passed the receive checks, through MACsec: the frame to deliver, or its drop (R261). -/
def msecRx (v : SecView) (p : Nat) (raw : Bytes) (s : State) : Option Bytes × State :=
  match msecJudge v s p raw with
  | .plain => (some raw, s)
  | .drop k => (none, msecDrop p k s)
  | .secured f =>
    if secGood v f raw then (some (secPlain v f raw (secParts f raw).1), rxPn p f s)
    else
      let t := msecDrop p 0 s
      if fld v.cfg 57 56 = 1 ∧ f.enc = false then (some (secPlain v f raw (secParts f raw).1), t) else (none, t)

/-- The SecTAG of a transmitted frame. -/
def secTag (v : SecView) (a pn len : Nat) : Bytes :=
  let sc := bit v.cfg 61
  [0x88, 0xE5, BitVec.ofNat 8 (sc.toNat * 32 + (bit v.cfg 60).toNat * 12 + a), BitVec.ofNat 8 (if len < 48 then len else 0)] ++
    beBytes 4 (pn % 2 ^ 32) ++ (if sc then beBytes 8 v.sci else [])

/-- A frame protected under a transmit SA of a view, with its SSCI and key, and a packet number (R462). -/
def secProtect (v : SecView) (a : Nat) (e : Nat × SaKey) (pn : Nat) (bs : Bytes) : Bytes :=
  let k := e.2
  let n := msecNonce e.1 pn k.salt
  let body := bs.drop 12
  let head := bs.take 12 ++ secTag v a pn body.length
  let co := if bit v.cfg 60 then confOffset v.cfg else body.length
  let ct := gcmXor k.key n (body.drop co)
  head ++ body.take co ++ ct ++ gcmIcv k.key n (head ++ body.take co) ct

/-- A transmitted packet number's warning and exhaustion, and the next one (R462). -/
def txPn (p a : Nat) (s : State) : State :=
  let i := saIdx p 0 a
  let pn := (rget s R.CPH_MSEC_PN i).toNat
  let s := if (rget s R.CPH_MSEC_WARN 0).toNat ≤ pn ∧ rbit s R.CPH_MSEC_SASTAT i 63 = false then
      cphNotice 1 (saNotice p 0 a) (rsetF s R.CPH_MSEC_SASTAT i 63 63 1) else s
  if pn = 2 ^ 64 - 1 then
    cphNotice 2 (saNotice p 0 a) (rsetF (rsetF s R.CPH_MSEC_SASTAT i 62 62 1) R.CPH_MSEC_SASTAT i 61 60 1)
  else rset s R.CPH_MSEC_PN i (BitVec.ofNat 64 (pn + 1))

/-- A frame that leaves through MACsec as its delimiter found it: the frame on the line, or its drop where the SA does not
run (R257, R260, R462, R463). -/
def msecTx (v : SecView) (p : Nat) (bs : Bytes) (s : State) : Option Bytes × State :=
  let cfg := v.cfg
  if bit cfg 63 = false ∨ (bit cfg 62 = true ∧ etherType bs 12 = 0x888E) then (some bs, s)
  else
    let a := fld cfg 55 54
    let i := saIdx p 0 a
    match viewSa v a with
    | none => (none, rcount s R.CPH_MSEC_SASTAT i 31 0 1)
    | some e =>
      if rfld s R.CPH_MSEC_SASTAT i 61 60 ≠ 0 then (none, rcount s R.CPH_MSEC_SASTAT i 31 0 1)
      else (some (secProtect v a e (rget s R.CPH_MSEC_PN i).toNat bs), txPn p a s)

end Sys2Proof.Machine
end

