-- ==== Sys2Proof/Machine/Packets.lean ====
section
/-! DEFINITION. Courses and their modes (R20 to R24), dispatch and departure (R80 to R85), the disposition of a
packet (R149, R170), and the retirement of an engine (R108, R109). -/

namespace Sys2Proof.Machine
open Sys2Proof

/-- The mode a side's packets need: 1 ingress, 2 egress (R20). -/
def sideMode (sd : Side) : Nat := match sd with | .ing => 1 | .egr => 2

/-- A course counts as running in a mode: the mode is in force, it is not draining out of it, its active bank is
loaded and an engine is live (R21, R23, R81, R109). -/
def running (s : State) (c m : Nat) : Bool :=
  let x := course s c
  decide (x.inForce = m) && !x.draining && decide ((bank s c x.activeB).st = .active) &&
    decide (enginesLive s c ≠ 0)

/-- Some course runs in a mode. -/
def anyRunning (s : State) (m : Nat) : Bool := (List.range 8).any (fun c => running s c m)

/-- A live thread: one that has not ended. -/
def thrLive (t : Thread) : Bool :=
  match t.st with
  | .ready => true
  | .waiting => true
  | .departing => true
  | .sleeping => true
  | _ => false

/-- A course has a live thread. -/
def courseLive (s : State) (c : Nat) : Bool :=
  s.sen.threads.any (fun e => decide (e.1 / 640 = c) && thrLive e.2)

/-- Every thread of a course is stopped or halted; an unavailable one is neither (R98 to R100). -/
def courseStill (s : State) (c : Nat) : Bool :=
  s.sen.threads.all (fun e => decide (e.1 / 640 ≠ c ∨ e.2.st = .free ∨ e.2.st = .halted))

/-- MODE_STATE of a course that is not draining: 0 off, 1 running (R21). -/
def modeState (m : Nat) : Nat := if m = 0 then 0 else 1

/-- COURSE_MODE_WRITE (R20 to R22): a MODE other than the one in force starts the drain; while the course drains
the latest value becomes the target; the mode already in force has no effect. Sleeping service threads end at
once, since they are at a yield. -/
def execCourseModeWrite (c : Course) (v : Word) (s : State) : Out :=
  let m := fld v 1 0
  let x := course s c.val
  if x.draining then .next (rsetF (setCourse s c.val { x with target := m }) R.SEN_COURSE_CFG c.val 1 0 m)
  else if m = x.inForce then .next s
  else
    let s := setCourse s c.val { x with target := m, draining := true }
    let s := rsetF (rsetF s R.SEN_COURSE_CFG c.val 1 0 m) R.SEN_COURSE_CFG c.val 3 2 2
    .next ((thrKeys s).foldl (fun s k =>
      if k / 640 = c.val ∧ (thr s k).st = .sleeping then stopThr k s else s) s)

/-- COURSE_DRAIN_END (R21, R22): with the last thread of the old mode ended, the target mode takes effect. -/
def execCourseDrainEnd (c : Course) (s : State) : Out :=
  let x := course s c.val
  if x.draining && !courseLive s c.val then
    let s := setCourse s c.val { x with inForce := x.target, draining := false }
    let s := (thrKeys s).foldl (fun s k =>
      if k / 640 = c.val ∧ (thr s k).st = .halted then stopThr k s else s) s
    .next (rsetF (rsetF s R.SEN_COURSE_CFG c.val 1 0 x.target) R.SEN_COURSE_CFG c.val 3 2 (modeState x.target))
  else .next s

/-- A packet dropped for want of a course (R23, R24). -/
def noCourseDrop (sd : Side) (s : State) : State :=
  let s := rcount s R.SEN_NOCOURSE_DROP 0 47 0 1
  if sd = .egr then rsetF s R.SEN_NOCOURSE_DROP 0 48 48 1 else s

/-- The packets that reach a dispatcher next. -/
def toDisp (s : State) (sd : Side) : List Packet := match sd with | .ing => s.sen.toIng | .egr => s.sen.toEgr

/-- Those packets replaced. -/
def setToDisp (sd : Side) (l : List Packet) (s : State) : State :=
  match sd with
  | .ing => { s with sen := { s.sen with toIng := l } }
  | .egr => { s with sen := { s.sen with toEgr := l } }

/-- A dispatch queue (R80). -/
def dispQ (s : State) (sd : Side) : List Packet := match sd with | .ing => s.sen.ingQ | .egr => s.sen.egrQ

/-- A dispatch queue replaced. -/
def setDispQ (sd : Side) (l : List Packet) (s : State) : State :=
  match sd with
  | .ing => { s with sen := { s.sen with ingQ := l } }
  | .egr => { s with sen := { s.sen with egrQ := l } }

/-- DISPATCH_ENQUEUE (R23, R80): the next packet that reaches a dispatcher enters its queue, is dropped for want of
a course, or is dropped because the queue is full. -/
def execDispatchEnqueue (sd : Side) (s : State) : Out :=
  match toDisp s sd with
  | [] => .next s
  | p :: rest =>
    let s := setToDisp sd rest s
    if anyRunning s (sideMode sd) then
      if (dispQ s sd).length < 8192 then .next (setDispQ sd (dispQ s sd ++ [p]) s)
      else .next (giveUpPlace p.pid (occur 3 (match sd with | .ing => 3 | .egr => 4) 0 1 s))
    else .next (giveUpPlace p.pid (noCourseDrop sd s))

/-- Free slots of an engine, lowest first; none where the engine is retired. -/
def freeSlots (s : State) (c e : Nat) : List Nat :=
  if engineRetired s c e then []
  else (List.range 8).filter (fun i => decide ((thr s (640 * c + 8 * e + i)).st = .free))

/-- Free threads of a course. -/
def freeInCourse (s : State) (c : Nat) : Nat :=
  (List.range 80).foldl (fun n e => n + (freeSlots s c e).length) 0

/-- The first of the indices below `n` at which a measure is largest, with that measure. -/
def argMax (n : Nat) (f : Nat → Nat) : Nat × Nat :=
  (List.range n).foldl (fun b i => if b.2 < f i then (i, f i) else b) (0, f 0)

/-- The running course with the most free threads, lowest number on a tie (R81). -/
def chooseCourse (s : State) (m : Nat) : Nat × Nat :=
  argMax 8 (fun c => if running s c m then freeInCourse s c + 1 else 0)

/-- The engine of a course with the most free threads, lowest number on a tie (R81). -/
def chooseEngine (s : State) (c : Nat) : Nat := (argMax 80 (fun e => (freeSlots s c e).length)).1

/-- The bank a packet of a tag runs: the held bank for the previous epoch, otherwise the bank in force (R65,
R84). -/
def packetBank (s : State) (c tag : Nat) : Bool :=
  let a := (course s c).activeB
  if viewOf s tag = some .prev ∧ (bank s c (!a)).st = .held then !a else a

/-- The window and tail of a packet whose thread starts: the first 512 bytes, and the rest (R85, R124). -/
def rewindow (p : Packet) : Packet :=
  { p with win := (frameBytes p).take 512, tail := (frameBytes p).drop 512 }

/-- The packet as an ingress thread takes it: hardware fields kept, MD_VER of its bank, every other field zero
(R85). -/
def ingressContext (p : Packet) (ver : Nat) : Packet :=
  let q := { rewindow p with md := [] }
  let q := mdSetW (mdSetW (mdSetW q 0 (mdWord p 0)) 3 (mdWord p 3)) 4 (mdWord p 4)
  let q := mdSet (mdSet q 0 31 28 ver) 0 15 14 0
  setFrameLen q (frameBytes p).length

/-- The packet as an egress thread takes it: DISP, LAST_PC and INSTR_COUNT zero, FRAME_LEN the current length
(R85). -/
def egressContext (p : Packet) : Packet :=
  setFrameLen (mdSetW (mdSet (rewindow p) 0 15 14 0) 15 0) (frameBytes p).length

/-- The entry of a bank's table a packet starts at: port × 8 + class (R84). -/
def entryIndex (sd : Side) (p : Packet) : Nat :=
  match sd with
  | .ing => mdF p 0 25 19 * 8 + mdF p 0 18 16
  | .egr => mdF p 2 20 14 * 8 + mdF p 1 12 10

/-- A packet starts on a thread of a course (R81, R84, R85). On the egress side it takes its place in the order of the
DST_PORT it is dispatched with, and keeps it where the program rewrites DST_PORT: DESIGN CHOICE (log 61), since R83 does
not say which port's order it then holds. EXC of the thread's number reads 0 from then on: DESIGN CHOICE (log 56), since
R100 does not say whether a last code outlives a packet thread of that number. -/
def startOn (s : State) (sd : Side) (p : Packet) (c e : Nat) (b : Bool) : State :=
  let k := 640 * c + 8 * e + (freeSlots s c e).headD 0
  let bk := bank s c b
  let q := match sd with | .ing => ingressContext p bk.ver | .egr => egressContext p
  let t := { Thread.empty with st := .ready, side := sd, pc := mget 0 bk.entries (entryIndex sd p), pkt := q,
                               bank := b, prevPc := (thr s k).lastPc }
  let s := if sd = .egr then
      { s with sen := { s.sen with order := s.sen.order ++ [⟨.egr, mdF p 2 20 14, p.pid⟩] } } else s
  occurThr 1 c k (setThr s k t)

/-- THREAD_START (R63, R81, R82): the oldest packet of a dispatch queue is dropped as stale, for want of a course
or for its metadata version, or starts on the chosen free thread; with every thread busy it waits. A packet that is
stale and finds no course running is counted as stale alone: DESIGN CHOICE (log 61), since no rule gives a precedence. -/
def execThreadStart (sd : Side) (s : State) : Out :=
  match dispQ s sd with
  | [] => .next s
  | p :: rest =>
    let tag := mdF p 0 27 26
    if staleTag s tag then
      .next (giveUpPlace p.pid (occur 1 2 0 1 (rcount (setDispQ sd rest s) R.TAU_EPOCH_STALE_DROP 0 47 0 1)))
    else if anyRunning s (sideMode sd) = false then
      .next (giveUpPlace p.pid (noCourseDrop sd (setDispQ sd rest s)))
    else
      let c := (chooseCourse s (sideMode sd)).1
      if freeInCourse s c = 0 then .next s
      else
        let b := packetBank s c tag
        let ver := (bank s c b).ver
        if sd = .egr ∧ mdF p 0 31 28 ≠ ver ∧ mdF p 0 31 28 ≠ (ver + 15) % 16 then
          .next (rcount (setDispQ sd rest s) R.SEN_MDVER_DROP 0 47 0 1)
        else .next (startOn (setDispQ sd rest s) sd p c (chooseEngine s c) b)

/-- DISP (R83, R149): disposition and reason are written and the thread departs; any code but 0 gives up the
packet's place at once, and a complete packet for the host or a service thread is handed on. -/
def execDisp (th : ThreadRef) (f : FmtX) (s : State) : Out :=
  .next (issue th 0x72 (fun w => decide (asX w = f))
    (fun k t s =>
      if t.svc then raiseExc k 2 (setThr s k t)
      else
        let p := mdSet (mdSet t.pkt 0 15 14 f.code.toNat) 14 31 24 f.imm8.toNat
        let t := { t with pkt := p, st := .departing, reqs := [], since := s.tau.mono }
        let s := reqsLeave k s
        match f.code.toNat with
        | 0 => setThr s k t
        | 1 => setThr (giveUpPlace p.pid s) k { t with handed := true }
        | 2 =>
          let s := giveUpPlace p.pid s
          if p.complete then setThr (hostDeliver (mdF p 13 31 20) p s) k { t with handed := true }
          else setThr s k { t with hostTo := some (mdF p 13 31 20) }
        | _ =>
          let s := giveUpPlace p.pid s
          if p.complete then
            setThr (sendInbox (mdF p 13 19 17) (mdF p 13 16 7) 2 0 (some p) s) k { t with handed := true }
          else setThr s k t) s)

/-- No earlier packet of the same port and side is still to depart (R83). -/
def firstInOrder (s : State) (sd : Side) (pid : Nat) : Bool :=
  match s.sen.order.find? (fun e => decide (e.side = sd ∧ e.pid = pid)) with
  | some x =>
    match s.sen.order.find? (fun e => decide (e.side = sd ∧ e.port = x.port)) with
    | some y => decide (y.pid = pid)
    | none => true
  | none => true

/-- A packet that leaves an ingress course crosses to the TMG; one that leaves an egress course goes to the LIU,
or is dropped by the MTU check (R14, R83, R170, R171). -/
def handOn (sd : Side) (p : Packet) (s : State) : State :=
  match sd with
  | .ing => { s with sen := { s.sen with toTmg := s.sen.toTmg ++ [p] } }
  | .egr =>
    if p.complete && mtuFails s (mdF p 2 20 14) (frameLen p) then mtuDrop (mdF p 2 20 14) s
    else { s with sen := { s.sen with toLiu := s.sen.toLiu ++ [{ p with checked := p.complete }] } }

/-- PACKET_DEPART (R79, R83): a departing packet is handed on once every earlier packet of its port has left, and
its thread is free; a bad one is ended further on (R311, R312). One bound for the host or a service thread leaves once its frame is complete; a frame found bad
there is dropped (R251). -/
def execPacketDepart (th : ThreadRef) (s : State) : Out :=
  let k := thrKey th
  let t := thr s k
  if t.st ≠ .departing then .next s
  else if t.handed then .next (freeThr s k)
  else
    match t.hostTo with
    | some sl =>
      if t.pkt.complete then .next (freeThr (if t.pkt.bad then s else hostDeliver sl t.pkt s) k) else .next s
    | none =>
      if mdF t.pkt 0 15 14 = 3 then
        if t.pkt.complete then
          .next (freeThr (if t.pkt.bad then s
            else sendInbox (mdF t.pkt 13 19 17) (mdF t.pkt 13 16 7) 2 0 (some t.pkt) s) k)
        else .next s
      else if firstInOrder s t.side t.pkt.pid then
        .next (freeThr (giveUpPlace t.pkt.pid (handOn t.side t.pkt s)) k)
      else .next s

/-- What retirement does to one thread of the engine (R108). A packet already handed on is not dropped. A service thread
that is stopped or halted takes EXC 8 without a count in SEN_EXC_COUNT: DESIGN CHOICE (log 61), since no rule says
whether it counts. -/
def retireThread (c k : Nat) (s : State) : State :=
  let t := thr s k
  let pk := thrLive t && !t.svc && !t.handed
  let s := if pk then giveUpPlace t.pkt.pid (rcount s R.SEN_RETIRE_DROP 0 47 0 1) else s
  let s := if t.svc && thrLive t then occurThr 5 8 k (rcount s R.SEN_EXC_COUNT 8 47 0 1) else s
  setThr (reqsLeave k s) k { Thread.empty with st := .unavailable, svc := t.svc,
                                               exc := if (course s c).inForce = 3 then 8 else 0 }

/-- ENGINE_RETIRE (R108): the engine's packets are dropped and counted, its service threads become unavailable,
and ENGINES_LIVE falls by one. -/
def execEngineRetire (c : Course) (e : Engine) (sw : Bool) (s : State) : Out :=
  let u := 80 * c.val + e.val
  if retireDue s 1 u sw then
    let s := retireMark 1 u sw 0 s
    let s := if e.val < 64 then rsetF s R.SEN_ENGINE_RETIRE_LO c.val e.val e.val 1
             else rsetF s R.SEN_ENGINE_RETIRE_HI c.val (e.val - 64) (e.val - 64) 1
    let s := rsetF s R.SEN_COURSE_CFG c.val 14 8 (enginesLive s c.val - 1)
    .next ((List.range 8).foldl (fun s i => retireThread c.val (640 * c.val + 8 * e.val + i) s) s)
  else .next s

end Sys2Proof.Machine
end

