-- ==== Sys2Proof/Machine/Frames.lean ====
section
/-! DEFINITION. Line ports and frames: port configuration and link changes (R246 to R250), reception (R16, R17, R251 to
R254), the completion of a frame wherever its head has gone (R14, R156, R165, R171, R311), transmission (R168, R255,
R256), and lane retirement (R279). -/

namespace Sys2Proof.Machine
open Sys2Proof

/-! ### A frame completes (R14, R156, R165, R311) -/

/-- How many of the bytes that arrive last a copy that holds `now` bytes takes: all, but for one cut short by a refused
cell (R311). -/
def takesBytes (s : State) (pid now : Nat) : Option Nat :=
  (mfind s.tmg.shorts pid).map (fun held =>
    match s.tmg.cuts.find? (fun c => decide (c.pid = pid)) with
    | some c => held - c.len
    | none => held - now)

/-- The last bytes that a packet takes. -/
def takeLast (s : State) (pid now : Nat) (ext : Bytes) : Bytes :=
  match takesBytes s pid now with | some k => ext.take k | none => ext

/-- A packet whose frame completes: its last bytes, its length, and whether it is bad. -/
def completePkt (s : State) (src : Nat) (ext : Bytes) (good : Bool) (p : Packet) : Packet :=
  if p.src = src ∧ p.complete = false then
    let now := (frameBytes p).length
    let e := takeLast s p.pid now ext
    let q := { p with tail := p.tail ++ e, complete := true, bad := !good || (takesBytes s p.pid now).isSome, orig := p.orig + e.length }
    setFrameLen q (frameLen p + e.length)
  else p

/-- A head that has left the TMG takes the frame's last bytes; a bad frame is stomped (R311, R313, R321). -/
def completeCut (src : Nat) (n : Nat) (good : Bool) (s : State) (c : CutRec) : State :=
  if c.src = src ∧ c.complete = false then
    let k := match mfind s.tmg.shorts c.pid with | some held => min n (held - c.len) | none => n
    let st := !good && !c.stomped
    let s := withTmg (fun t => { t with cuts := t.cuts.map (fun d =>
      if d.pid = c.pid then { d with complete := true, len := d.len + k, stomped := c.stomped || st } else d) }) s
    if st then stomp c.port s else s
  else s

/-- A pattern scan of a thread takes the frame's last bytes (R165). -/
def completeScan (ext : Bytes) (t : Thread) : Thread :=
  { t with reqs := t.reqs.map (fun r => match r.kind with
    | .pmatch set o bytes true lane => { r with kind := .pmatch set o (bytes ++ ext) false lane }
    | _ => r) }

/-- A frame whose head has gone on completes. -/
def finishFrame (src : Nat) (ext : Bytes) (good : Bool) (s : State) : State :=
  let ks := (s.sen.threads.filter (fun e => decide (e.2.pkt.src = src) && !e.2.pkt.complete)).map (fun e => e.1)
  let counts := s.sen.defer.filter (fun d => decide (d.src = src))
  let last (pid now : Nat) : Bytes := takeLast s pid now ext
  let t := s
  let s := ks.foldl (fun s k =>
    setThr s k (completeScan (last (thr s k).pkt.pid (frameBytes (thr s k).pkt).length) (thr s k))) s
  let s := mapPkts (completePkt t src ext good) s
  let s := s.tmg.cuts.foldl (completeCut src ext.length good) s
  let s := { s with sen := { s.sen with defer := s.sen.defer.filter (fun d => decide (d.src ≠ src)) } }
  let s := counts.foldl (fun s d =>
    cntAdd d.pair (d.len + (if d.egr then last d.pid d.len else ext).length) s) s
  ks.foldl (fun s k => settle k s) s

/-! ### Ports and links (R246 to R250) -/

/-- Lanes of a port mode (R247). -/
def modeLanes (m : Nat) : Nat := [0, 1, 1, 1, 1, 2, 4, 2, 4, 4, 8, 8, 4].getD m 0

/-- A lane has been retired (R279). -/
def laneRetired (s : State) (l : Nat) : Bool := rbit s R.LIU_LANE_RETIRE (l / 64) (l % 64)

/-- MODE of a port. -/
def portMode (s : State) (p : Nat) : Nat := rfld s R.LIU_PORT_CFG p 3 0

/-- The port that uses a lane, if any. -/
def lanePort (s : State) (l : Nat) : Option Nat :=
  (List.range 128).find? (fun p => decide (p ≤ l ∧ l < p + modeLanes (portMode s p)))

/-- A MODE may be stored for a port (R246, R249, R280). -/
def modeOk (s : State) (p m : Nat) : Bool :=
  let w := modeLanes m
  m == 0 || (decide (p % w = 0) && (List.range w).all (fun i =>
    !laneRetired s (p + i) && (match lanePort s (p + i) with | some q => decide (q = p) | none => true)))

/-- FEC as it is stored for a MODE (R247, R248). -/
def fecFor (m f : Nat) : Nat := if f = 1 ∧ (m = 2 ∨ m = 6) then 1 else 0

/-- The link event of a port (R250): line p, with LINK, LF and RF. -/
def linkEvent (p : Nat) (s : State) : State :=
  eventLine p (BitVec.ofNat 32 ((rbit s R.LIU_PORT_STAT p 63).toNat + 2 * (rbit s R.LIU_PORT_STAT p 62).toNat +
    4 * (rbit s R.LIU_PORT_STAT p 61).toNat)) s

/-- LINK, LF, RF and HI_BER of a port take new values; a fall of LINK is counted and begins bind-off, and every change
of LINK raises the port's event line (R250, R319). -/
def linkTo (p : Nat) (link lf rf ber : Bool) (s : State) : State :=
  let was := rbit s R.LIU_PORT_STAT p 63
  let s := rsetF s R.LIU_PORT_STAT p 63 60 (link.toNat * 8 + lf.toNat * 4 + rf.toNat * 2 + ber.toNat)
  if was && !link then linkEvent p (tmgLinkFall p (rcount s R.LIU_PORT_STAT p 15 0 1))
  else if link && !was then linkEvent p (tmgLinkRise p s)
  else s

/-- The receiver stops at once: a frame being received is cut short and marked bad; one whose thread has not started
is discarded (R249). -/
def rxStop (p : Nat) (s : State) : State :=
  match (liuPort s p).rx with
  | none => s
  | some f =>
    let s := setLiuPort p { liuPort s p with rx := none } s
    let waits (l : List Packet) : Bool := l.any (fun q => decide (q.src = f.pid) && !q.complete)
    if f.offered then
      if waits s.sen.toIng || waits s.sen.ingQ then
        let out (l : List Packet) : List Packet := l.filter (fun q => !(decide (q.src = f.pid) && !q.complete))
        giveUpPlace f.pid { s with sen := { s.sen with toIng := out s.sen.toIng, ingQ := out s.sen.ingQ } }
      else finishFrame f.pid [] false s
    else s

/-- An OTN port that is enabled begins a PM second (R275). -/
def otnStart (p : Nat) (s : State) : State :=
  if portMode s p = 12 then
    let o := mget Otn.init s.liu.otn (p / 4)
    let sec := phcSec (phcNow s)
    withLiu (fun l => { l with otn := mput l.otn (p / 4) { o with pm := ⟨sec, sec + 1, false, 0, 0, 0, false, false⟩ } }) s
  else s

/-- The transmitter of a port stops at the end of the frame in progress (R249). -/
def txStop (p : Nat) (s : State) : State :=
  match inProgress s p with
  | some q => setLiuPort p { liuPort s p with sending := some q.pid } s
  | none => s

/-- LIU_PORT_CFG written, field by field against EN as it stood (R249). -/
def portWrite (p : Nat) (v : Word) (s : State) : State :=
  let en := rbit s R.LIU_PORT_CFG p 63
  let s := cfgNote p s
  let s := hostStore false R.LIU_PORT_CFG p v s
  if en then
    if bit v 63 then s else linkTo p false false false false (rxStop p (txStop p (rsetF s R.LIU_PORT_CFG p 63 63 0)))
  else
    let m := clampField (.enum 12 0) (fld v 3 0)
    let ok := modeOk s p m
    let s := if ok then rsetF s R.LIU_PORT_CFG p 3 0 m else cfgViolation 2 (regAddr R.LIU_PORT_CFG p) s
    let s := rsetF s R.LIU_PORT_CFG p 17 16 (fecFor (portMode s p) (fld v 17 16))
    let s := rsetF s R.LIU_PORT_CFG p 19 18 (clampField (.enum 2 0) (fld v 19 18))
    if bit v 63 && ok && decide (m ≠ 0) then
      otnStart p (linkTo p false true false false (rsetF s R.LIU_PORT_CFG p 63 63 1)) else s

/-- The client of an OTN port is lost while dOOF, dLOM or dAIS holds (R268). -/
def clientLost (s : State) (p : Nat) : Bool :=
  decide (portMode s p = 12) && [3, 5, 6].any (rbit s R.LIU_OTN_DEF (p / 4))

/-- PORT_ENABLE (R249). -/
def execPortEnable (p : Port) (v : Word) (s : State) : Out := .next (portWrite p.val v s)

/-- PORT_DISABLE (R249). -/
def execPortDisable (p : Port) (v : Word) (s : State) : Out := .next (portWrite p.val v s)

/-- EN of a port. -/
def portEn (s : State) (p : Nat) : Bool := rbit s R.LIU_PORT_CFG p 63

/-- LINK_UP (R250, R319). -/
def execLinkUp (p : Port) (s : State) : Out :=
  .next (if portEn s p.val && !clientLost s p.val then linkTo p.val true false false false s else s)

/-- LINK_DOWN (R250): the PCS is no longer aligned, or a fault is received; RF reads 0 and LF 1 while it is not
aligned. -/
def execLinkDown (p : Port) (aligned lf rf hiBer : Bool) (s : State) : Out :=
  .next (if portEn s p.val then linkTo p.val false (!aligned || lf) (aligned && rf) hiBer s else s)

/-! ### Reception (R16, R17, R251 to R254) -/

/-- A signed number of picoseconds in units of PHC time. -/
def psUnits (v : Nat) : Int := signed 32 v * nsUnits / 1000

/-- A frame whose delimiter passes now (R16, R249, R254, R257): its timestamp, corrected by RX_PS, the epoch tag of the
tick (R11), and the configuration it is received under. -/
def rxStart (s : State) (p : Nat) : RxFrame :=
  ⟨s.sen.nextPid, ((phcNow s : Int) - psUnits (rfld s R.LIU_TS_ADJ p 63 32)).toNat, stampEpoch s % 4, [], false, 0,
   (cfgSeen s p).1, secView s p 1⟩

/-- FRAME_START (R16, R254). -/
def execFrameStart (p : Port) (s : State) : Out :=
  let x := liuPort s p.val
  if portEn s p.val && x.rx.isNone && !clientLost s p.val then
    .next (setLiuPort p.val { x with rx := some (rxStart s p.val) } { s with sen := { s.sen with nextPid := s.sen.nextPid + 1 } })
  else .next s

/-- The EtherType after up to two tags, with its offset (R253). -/
def typeAfterTags (bs : Bytes) : Nat × Nat :=
  let tag (t : Nat) : Bool := t == 0x8100 || t == 0x88A8
  if tag (etherType bs 12) then
    if tag (etherType bs 16) then (etherType bs 20, 20) else (etherType bs 16, 16)
  else (etherType bs 12, 12)

/-- IN_CLASS of a frame (R253). -/
def classOf (s : State) (p : Nat) (bs : Bytes) : Nat :=
  let w := rget s R.LIU_CLASS_CFG p
  let t := typeAfterTags bs
  let da := beNat (bs.take 6)
  let b (i : Nat) : Nat := (byteAt bs (t.2 + 2 + i)).toNat
  if bit w 63 && ((decide (0x0180C2000000 ≤ da ∧ da ≤ 0x0180C200000F)) ||
      [0x88F7, 0x8809, 0x888E, 0x8902].contains t.1) then fld w 10 8
  else match fld w 1 0 with
    | 0 => fld w 4 2
    | 1 => if etherType bs 12 = 0x8100 ∨ etherType bs 12 = 0x88A8 then (byteAt bs 14).toNat / 32 else fld w 4 2
    | 2 =>
      if t.1 = 0x0800 then b 1 / 32
      else if t.1 = 0x86DD then (b 0 % 16 * 16 + b 1 / 16) / 32
      else fld w 4 2
    | _ => if t.1 = 0x8847 ∨ t.1 = 0x8848 then b 2 / 2 % 8 else fld w 4 2

/-- The packet a frame's head becomes (R16, R86, R253, R254). -/
def headPacket (s : State) (p : Nat) (f : RxFrame) (bs : Bytes) (complete : Bool) : Packet :=
  let q : Packet := { Packet.empty with pid := f.pid, src := f.pid, win := bs.take 512, tail := bs.drop 512,
                                        complete := complete, orig := bs.length }
  let q := mdSet (mdSet (mdSet q 0 27 26 f.tag) 0 25 19 p) 0 18 16 (classOf s p bs)
  setFrameLen (mdSet (mdSet q 3 29 0 (phcNs f.ts)) 4 31 0 (phcSec f.ts % 2 ^ 32)) bs.length

/-- A frame's head is offered to the ingress dispatcher and takes its place in its port's order (R17, R83). -/
def offer (p : Nat) (f : RxFrame) (bs : Bytes) (complete : Bool) (s : State) : State :=
  { s with sen := { s.sen with
    toIng := s.sen.toIng ++ [headPacket s p f bs complete]
    order := s.sen.order ++ [⟨.ing, p, f.pid⟩] } }

/-- The bytes MACsec adds to a received frame. -/
def secOverhead (v : SecView) (raw : Bytes) : Nat :=
  if bit v.cfg 63 && decide (etherType raw 12 = 0x88E5) then
    (if (byteAt raw 14).toNat.testBit 5 then 16 else 8) + 16
  else 0

/-- The bytes of a frame that the LIU takes: none after byte MAX_FRAME + 4 (R251). -/
def rxKept (f : RxFrame) : Bytes := f.raw.take (f.maxFrame + 4 + secOverhead f.sec f.raw)

/-- The part of a frame's head that the program may see before the frame is complete: all of it that is taken, or the
protected data in clear but for the bytes that may be the ICV; none where MACsec will drop the frame. -/
def clearHead (s : State) (p : Nat) (f : RxFrame) : Option Bytes :=
  let raw := rxKept f
  match msecJudge f.sec s p raw with
  | .plain => some raw
  | .drop _ => none
  | .secured x => some (secPlain f.sec x raw ((raw.drop x.head).take (raw.length - x.head - 16)))

/-- A frame's head is offered once more than 512 bytes of it have arrived, and not before (R17): the frame after it. -/
def offerHead (p : Nat) (f : RxFrame) (s : State) : RxFrame × State :=
  match clearHead s p f with
  | some bs =>
    if !f.offered && decide (512 < bs.length) then ({ f with offered := true, given := bs.length }, offer p f bs false s)
    else (f, s)
  | none => (f, s)

/-- FRAME_HEADER_READY (R17, R253): more bytes of a long frame have arrived; its head is offered once they exceed 512. -/
def execFrameHeaderReady (p : Port) (bytes : Bytes) (s : State) : Out :=
  let x := liuPort s p.val
  match x.rx with
  | some f =>
    if f.offered || clientLost s p.val then .next s
    else
      let h := offerHead p.val { f with raw := f.raw ++ bytes } s
      .next (setLiuPort p.val { liuPort h.2 p.val with rx := some h.1 } h.2)
  | none => .next s

/-- The receive checks of a frame without its FCS (R251): whether it passes, with the failure counted. -/
def rxCheck (p : Nat) (f : RxFrame) (fcsOk : Bool) (s : State) : Bool × State :=
  if f.raw.length + 4 < 64 then (false, rcount s R.LIU_MAC_ERR p 31 16 1)
  else if f.maxFrame < f.raw.length - secOverhead f.sec f.raw then (false, rcount s R.LIU_MAC_ERR p 15 0 1)
  else if fcsOk then (true, s)
  else (false, occur 2 2 p 1 (rcount s R.LIU_MAC_ERR p 47 32 1))

/-- A frame that fails: one whose thread had to start before its end is ended as bad (R17, R251, R311). -/
def rxFail (p : Nat) (f : RxFrame) (s : State) : State :=
  let h := offerHead p f s
  if h.1.offered then finishFrame f.pid (((clearHead s p f).getD (rxKept f)).drop h.1.given) false h.2 else h.2

/-- A frame received to its end. -/
def rxEnd (p : Nat) (f : RxFrame) (bytes : Bytes) (fcsOk : Bool) (s : State) : State :=
  let f := { f with raw := f.raw ++ bytes }
  let s := occur 2 1 p 1 (setLiuPort p { liuPort s p with rx := none } s)
  let s := if rfld s R.LIU_PORT_CFG p 19 18 = 2 then emit (.frame p (withFcs f.raw (!fcsOk)) (!fcsOk)) s else s
  let c := rxCheck p f fcsOk s
  if c.1 then
    let m := msecRx f.sec p f.raw c.2
    match m.1 with
    | some bs => if f.offered then finishFrame f.pid (bs.drop f.given) true m.2 else offer p f bs true m.2
    | none => rxFail p f m.2
  else rxFail p f c.2

/-- FEC codewords of a port counted; a PHC second with an uncorrectable one counts once in FEC_DEGRADE (R250). -/
def fecCount (p : Nat) (c : FecCount) (s : State) : State :=
  let s := rcount (rcount s R.LIU_FEC_STAT p 63 32 c.corrected) R.LIU_FEC_STAT p 31 0 c.uncorr
  let sec := phcSec (phcNow s)
  if c.uncorr = 0 ∨ (liuPort s p).fecSec = some sec then s
  else rcount (setLiuPort p { liuPort s p with fecSec := some sec } s) R.LIU_PORT_STAT p 31 16 1

/-- FRAME_COMPLETE (R250, R251, R261): the frame's remaining bytes, without its FCS, and whether that was good; one where
it holds an uncorrectable codeword or the loss of its OTN client errs fails. Codewords are counted whether or not a frame is
being received. -/
def execFrameComplete (p : Port) (bytes : Bytes) (e : FrameEnd) (s : State) : Out :=
  match (liuPort s p.val).rx with
  | some f =>
    .next (rxEnd p.val f bytes (e.fcsOk && decide (e.own = 0) && !clientLost s p.val)
      (fecCount p.val { e.fec with uncorr := e.fec.uncorr + e.own } s))
  | none => .next (fecCount p.val { e.fec with uncorr := e.fec.uncorr + e.own } s)

/-! ### Transmission (R168, R255, R256) -/

/-- A transmit timestamp captured for a frame whose EGR_PROFILE is chosen (R256). -/
def captureTx (p : Nat) (k : Packet) (s : State) : State :=
  let pr := mdF k 7 31 24
  if rbit s R.LIU_TXTS_PROFILE (pr / 64) (pr % 64) then
    let x := liuPort s p
    let ts := ((phcNow s : Int) + psUnits (rfld s R.LIU_TS_ADJ p 31 0)).toNat
    if x.txts.length < 64 then setLiuPort p { x with txts := x.txts ++ [⟨(mdWord k 8).toNat, ts⟩] } s
    else setLiuPort p { x with txDrop := satAdd 16 x.txDrop 1 } s
  else s

/-- An OTN port sends AIS, OCI or LCK, and its client is discarded (R272). -/
def clientCut (s : State) (p : Nat) : Bool :=
  decide (portMode s p = 12) && (mget Otn.init s.liu.otn (p / 4)).txCut

/-- A frame on the line: near-end loopback brings it back to the port's receiver (R248). -/
def onLine (p : Nat) (bs : Bytes) (stomped : Bool) (s : State) : State :=
  match rfld s R.LIU_PORT_CFG p 19 18 with
  | 0 => if clientCut s p then s else emit (.frame p (withFcs bs stomped) stomped) s
  | 1 =>
    if (liuPort s p).rx.isNone then
      rxEnd p (rxStart s p) bs (!stomped) { s with sen := { s.sen with nextPid := s.sen.nextPid + 1 } }
    else s
  | _ => s

/-- A frame padded to the Ethernet minimum, 60 bytes before its FCS (R153; the padding's bytes are free, log 58). -/
def padFrame (bs : Bytes) : Bytes := bs ++ (List.range (60 - bs.length)).map Config.padByte

/-- FRAME_TRANSMIT (R153, R168, R249, R256, R311): the next complete frame for the port leaves, or is discarded where the
port does not send; one that was in progress when EN was cleared still leaves. -/
def execFrameTransmit (p : Port) (s : State) : Out :=
  match takeFirst (fun q : Packet => decide (mdF q 2 20 14 = p.val)) s.sen.toLiu with
  | none => .next s
  | some (q, rest) =>
    if q.complete = false || s.tmg.cuts.any (fun c => decide (c.pid = q.pid)) then .next s
    else
      let s := { s with sen := { s.sen with toLiu := rest } }
      let x := liuPort s p.val
      if (portEn s p.val && rbit s R.LIU_PORT_STAT p.val 63) || decide (x.sending = some q.pid) then
        let s := if x.sending = none then s else setLiuPort p.val { x with sending := none } s
        let m := msecTx (txSeen s p.val q.pid) p.val (frameBytes q) s
        match m.1 with
        | some bs => .next (onLine p.val (padFrame bs) q.bad (captureTx p.val q m.2))
        | none => .next m.2
      else .next s

/-- TXTS_READ (R256): the oldest record is popped, and its TAG latched with DROP. -/
def execTxtsRead (p : Port) (s : State) : Out :=
  let x := liuPort s p.val
  match x.txts with
  | [] => .next (answer 0 (rset s R.LIU_TXTS_TAG p.val (at_ x.txDrop 32)))
  | t :: rest =>
    let s := rset (setLiuPort p.val { x with txts := rest } s) R.LIU_TXTS_TAG p.val (at_ x.txDrop 32 ||| at_ (t.tag % 2 ^ 32) 0)
    .next (answer (at_ 1 63 ||| secNsWord t.ts) s)

/-! ### Lane retirement (R279) -/

/-- The frame on a port's line: the one in progress, or the one that was when EN was cleared and still finishes (R249). -/
def onWire (s : State) (p : Nat) : Option Packet :=
  match (liuPort s p).sending with
  | some pid => s.sen.toLiu.find? (fun q => decide (q.pid = pid))
  | none => inProgress s p

/-- The frame in progress on a port's line is cut off: the bytes of it that have come are out, without the rest and
without an FCS (R279). How many of them had left on the tick is timing; all have: DESIGN CHOICE (log 62). -/
def cutWire (p : Nat) (s : State) : State :=
  match onWire s p with
  | some q =>
    let bs := match (msecTx (txSeen s p q.pid) p (frameBytes q) s).1 with
      | some b => if b = frameBytes q then b else b.take (b.length - 16)
      | none => []
    let s := { s with sen := { s.sen with toLiu := s.sen.toLiu.filter (fun x => decide (x.pid ≠ q.pid)) } }
    let s := setLiuPort p { liuPort s p with sending := none } s
    if rfld s R.LIU_PORT_CFG p 19 18 = 0 ∧ clientCut s p = false then emit (.frameCut p bs) s else s
  | none => s

/-- LANE_RETIRE (R279): a frame on the wire is cut off, the lane's port is down and disabled, SyncE outputs that name the lane are squelched, and a
reference that names it is lost. -/
def execLaneRetire (l : Lane) (sw : Bool) (s : State) : Out :=
  let n := l.val
  if retireDue s 0 n sw then
    let s := retireMark 0 n sw 0 s
    let s := rsetF s R.LIU_LANE_RETIRE (n / 64) (n % 64) (n % 64) 1
    let s := match lanePort s n with
      | some p =>
        let t := cutWire p s
        if portEn s p then linkTo p false false false false (rxStop p (rsetF t R.LIU_PORT_CFG p 63 63 0)) else t
      | none => s
    let s := (List.range 4).foldl (fun s k =>
      if rfld s R.TAU_SYNCE_OUT k 14 8 = n then rsetF s R.TAU_SYNCE_OUT k 0 0 1 else s) s
    .next (if rfld s R.TAU_REF_CFG 0 1 0 = 1 ∧ rfld s R.TAU_REF_CFG 0 14 8 = n then refLoss s else s)
  else .next s

/-- LANE_PLL_LOCK_LOSS (R43, R48, R525): the fault is counted against the lane, its port's LINK falls, SyncE outputs that
name it are squelched, and a reference that names it is lost. -/
def execLanePllLockLoss (l : Lane) (s : State) : Out :=
  let n := l.val
  let s := errReport 3 2 0 n 0 0 s
  let s := withLiu (fun x => { x with unlocked := (n :: x.unlocked).dedup }) s
  let s := match lanePort s n with
    | some p => if portEn s p then linkTo p false true false false s else s
    | none => s
  let s := (List.range 4).foldl (fun s k =>
    if rfld s R.TAU_SYNCE_OUT k 14 8 = n then rsetF s R.TAU_SYNCE_OUT k 0 0 1 else s) s
  .next (if rfld s R.TAU_REF_CFG 0 1 0 = 1 ∧ rfld s R.TAU_REF_CFG 0 14 8 = n then refLoss s else s)

/-- LANE_LOCK_REGAIN (R48): a SyncE output that names the lane is no longer squelched, unless the lane is retired. -/
def execLaneLockRegain (l : Lane) (s : State) : Out :=
  let n := l.val
  let s := withLiu (fun x => { x with unlocked := x.unlocked.filter (fun k => decide (k ≠ n)) }) s
  .next ((List.range 4).foldl (fun s k =>
    if rfld s R.TAU_SYNCE_OUT k 14 8 = n ∧ laneRetired s n = false then rsetF s R.TAU_SYNCE_OUT k 0 0 0 else s) s)

end Sys2Proof.Machine
end

