-- ==== Sys2Proof/Machine/Window.lean ====
section
/-! DEFINITION. The header-window and metadata instructions of Stitch (R123 to R130). -/

namespace Sys2Proof.Machine
open Sys2Proof

/-- At most 640 bytes are stored (R124). What an insertion moves past them follows the stored bytes as the first of the
frame's bytes beyond the window: DESIGN CHOICE (log 61), since no rule says where they go. -/
def capWin (p : Packet) : Packet := { p with win := p.win.take 640, tail := p.win.drop 640 ++ p.tail }

/-- PUSH at an offset (R125): zero bytes inserted among the stored bytes, S and FRAME_LEN raised; exception 5
where the growth would pass 128 bytes. -/
def pushBytes (t : Thread) (off n : Nat) : Eff :=
  let p := t.pkt
  let o := min off (min p.win.length 511)
  if p.orig + 128 < frameLen p + n then .exc 5
  else
    let q := capWin { p with win := p.win.take o ++ List.replicate n 0 ++ p.win.drop o }
    .ok { t with pkt := setFrameLen q (frameLen p + n) }

/-- How many bytes a POP removes: stored bytes only, and none beyond the window (R125). -/
def popCountBytes (p : Packet) (off n : Nat) : Nat :=
  let o := min off (min p.win.length 511)
  min n (min (p.win.length - o) (512 - o))

/-- POP at an offset (R125, R126). -/
def popBytes (t : Thread) (off n : Nat) : Eff :=
  let p := t.pkt
  let o := min off (min p.win.length 511)
  let m := popCountBytes p off n
  .ok { t with pkt := setFrameLen { p with win := p.win.take o ++ p.win.drop (o + m) } (frameLen p - m) }

/-- Bytes appended at the end of the frame: stored bytes when the end lies within them, that is when FRAME_LEN
equals S, and otherwise behind the bytes beyond the window (R127). -/
def appendBytes (p : Packet) (bs : Bytes) : Packet :=
  let q := if frameLen p = p.win.length then capWin { p with win := p.win ++ bs } else { p with tail := p.tail ++ bs }
  setFrameLen q (frameLen p + bs.length)

/-- LDW: the low bytes of rd from the window, network order; the rest of rd is zero (R113, R123). -/
def execLdw (th : ThreadRef) (f : FmtW) (s : State) : Out :=
  .next (issue th 0x40 (fun w => decide (asW w = f)) (fun k t s => setThr s k (gset t f.rd.toNat
      (BitVec.ofNat 64 (beNat (winLoad t.pkt (winOff t f.ra f.off) (sizeOf_ f.size)))))) s)

/-- STW: the low SIZE bytes of the register in RD to the window (R123). -/
def execStw (th : ThreadRef) (f : FmtW) (s : State) : Out :=
  .next (issue th 0x41 (fun w => decide (asW w = f)) (fun k t s =>
      let bs := beBytes (sizeOf_ f.size) (greg t f.rd.toNat).toNat
      setThr s k { t with pkt := winStore t.pkt (winOff t f.ra f.off) bs }) s)

/-- PUSH and POP take a second issue cycle of their engine (R116, R492). -/
def secondCycle (k : Nat) (s : State) : State :=
  takeSlot k 2 { s with gau := { s.gau with carry := s.gau.carry ++ [(k, s.tau.mono)] } }

/-- PUSH (R125); it waits for every outstanding CIPH request (R140). -/
def execPush (th : ThreadRef) (f : FmtW) (s : State) : Out :=
  .next (issue th 0x42 (fun w => decide (asW w = f))
    (fun k t s => secondCycle k (applyEff (pushBytes t (winOff t f.ra f.off) (nPush f.n)) k t s)) s)

/-- POP (R125, R126); it waits for every outstanding CIPH request (R140). -/
def execPop (th : ThreadRef) (f : FmtW) (s : State) : Out :=
  .next (issue th 0x43 (fun w => decide (asW w = f))
    (fun k t s => secondCycle k (applyEff (popBytes t (winOff t f.ra f.off) (nPush f.n)) k t s)) s)

/-- APND: the low SIZE bytes of the register in RD at the end of the frame, under the growth test of R125 (R127);
it waits for the frame to be complete (R156) and for every outstanding CIPH request (R140). -/
def execApnd (th : ThreadRef) (f : FmtW) (s : State) : Out :=
  .next (issue th 0x44 (fun w => decide (asW w = f))
    (fun k t s => applyEff
      (if t.pkt.orig + 128 < frameLen t.pkt + sizeOf_ f.size then .exc 5
       else .ok { t with pkt := appendBytes t.pkt (beBytes (sizeOf_ f.size) (greg t f.rd.toNat).toNat) }) k t s) s)

/-- CSUM: the folded one's-complement sum of N window bytes, not complemented (R128). -/
def execCsum (th : ThreadRef) (f : FmtW) (s : State) : Out :=
  .next (issue th 0x45 (fun w => decide (asW w = f)) (fun k t s => setThr s k (gset t f.rd.toNat
      (BitVec.ofNat 64 (csum16 (winLoad t.pkt (winOff t f.ra f.off) (nCsum f.n)))))) s)

/-- MLD: a metadata word zero-extended (R130); an MLD of m0 waits for the frame to be complete (R156). -/
def execMld (th : ThreadRef) (f : FmtM) (s : State) : Out :=
  .next (issue th 0x48 (fun w => decide (asM w = f))
    (fun k t s => setThr s k (gset t f.rd.toNat ((mdWord t.pkt f.midx.toNat).zeroExtend 64))) s)

/-- MST: ra[31:0] to a metadata word, hardware fields ignored bit by bit (R130). -/
def execMst (th : ThreadRef) (f : FmtM) (s : State) : Out :=
  .next (issueLocal th 0x49 (fun w => decide (asM w = f))
    (fun t => .ok { t with pkt := mdProgWrite t.pkt f.midx.toNat ((greg t f.ra.toNat).truncate 32) }) s)

/-- The metadata word MINS would store: WID low bits of `a` at POS, bits above 31 dropped (R130). -/
def minsWord (old : Word32) (a : Word) (pos wid : Nat) : Word32 :=
  let m := BitVec.ofNat 32 ((2 ^ wid - 1) <<< pos)
  (old &&& ~~~ m) ||| (BitVec.ofNat 32 (a.toNat <<< pos) &&& m)

/-- MINS: a field of a metadata word (R130). -/
def execMins (th : ThreadRef) (f : FmtM) (s : State) : Out :=
  .next (issueLocal th 0x4A (fun w => decide (asM w = f))
    (fun t =>
      let w := minsWord (mdWord t.pkt f.midx.toNat) (greg t f.ra.toNat) f.pos.toNat (widM f.wid)
      .ok { t with pkt := mdProgWrite t.pkt f.midx.toNat w }) s)

end Sys2Proof.Machine
end

