-- ==== Sys2Proof/Machine/Service.lean ====
section
/-! DEFINITION. Service threads (R100 to R107), their instructions (R115, R151 to R153), and SWAP_NOW (R98). -/

namespace Sys2Proof.Machine
open Sys2Proof

/-- What SLEEP returns for an inbox entry: EVENT, SOURCE, and a flag for a packet (R103). -/
def inboxWord (e : InboxEntry) : Word :=
  BitVec.ofNat 64 ((if e.pkt.isSome then 2 ^ 40 else 0) + e.source % 256 * 2 ^ 32 + e.event.toNat)

/-- A thread takes an inbox entry: its word into the register SLEEP names, and a packet's window and metadata in
place of the thread's own, S set as for a starting packet thread (R103, R104). -/
def takeInbox (t : Thread) (rd : Nat) (e : InboxEntry) : Thread :=
  let t := gset { t with st := .ready } rd (inboxWord e)
  match e.pkt with
  | some p => { t with pkt := { rewindow p with orig := frameLen p } }
  | none => t

/-- SLEEP (R102, R151): the oldest inbox entry, or sleep until one arrives; the allowance starts again. In a packet
thread it raises exception 2 (R115). A thread that is to stop does so here (R101). -/
def execSleep (th : ThreadRef) (f : FmtX) (s : State) : Out :=
  .next (issue th 0x78 (fun w => decide (asX w = f))
    (fun k t s =>
      if t.svc = false then raiseExc k 2 (setThr s k t)
      else if mustStop s k then stopThr k s
      else
        let t := { t with spent := 0 }
        match t.inbox with
        | e :: rest => setThr s k (takeInbox { t with inbox := rest } f.rd.toNat e)
        | [] => setThr s k { t with st := .sleeping, sleepRd := f.rd.toNat }) s)

/-- WAKE (R152): an inbox entry with SOURCE 4 for the thread ra names. -/
def execWake (th : ThreadRef) (f : FmtX) (s : State) : Out :=
  .next (issue th 0x79 (fun w => decide (asX w = f))
    (fun k t s =>
      if t.svc = false then raiseExc k 2 (setThr s k t)
      else
        let a := greg t f.ra.toNat
        sendInbox (fld a 2 0) (fld a 12 3) 4 ((greg t f.rb.toNat).truncate 32) none (setThr s k t)) s)

/-- The packet SEND makes: a copy of the first `n` window bytes with the thread's metadata, the current epoch's tag
and the service bank's MD_VER (R61, R153). -/
def sentPacket (s : State) (k : Nat) (t : Thread) (n : Nat) : Packet :=
  let p : Packet := { t.pkt with pid := s.sen.nextPid, src := s.sen.nextPid, win := winLoad t.pkt 0 n, tail := [], complete := true,
                                 bad := false, orig := n }
  let p := mdSet (mdSet p 0 27 26 (s.tau.curEpoch % 4)) 0 31 28 (bank s (k / 640) t.bank).ver
  setFrameLen p n

/-- A packet set out on the ingress path, with a place in the departure order of the port its IN_PORT names, or on the egress
path. R153 says neither that a packet of SEND takes such a place nor where the egress path of SEND begins: it takes the
place, and that path begins at the TMG, as for a descriptor's (R430), both DESIGN CHOICE (log 61). -/
def injectPacket (path : Nat) (p : Packet) (s : State) : State :=
  let s := { s with sen := { s.sen with nextPid := s.sen.nextPid + 1 } }
  if path = 0 then
    { s with sen := { s.sen with toIng := s.sen.toIng ++ [p]
                                 order := s.sen.order ++ [⟨.ing, mdF p 0 25 19, p.pid⟩] } }
  else { s with sen := { s.sen with toTmg := s.sen.toTmg ++ [p] } }

/-- SEND (R153): a copy of window bytes 0 to ra - 1, 14 to 512 of them, as a packet of its own. -/
def execSend (th : ThreadRef) (f : FmtX) (s : State) : Out :=
  .next (issue th 0x7A (fun w => decide (asX w = f))
    (fun k t s =>
      if t.svc = false then raiseExc k 2 (setThr s k t)
      else
        let n := clampTo 14 512 (greg t f.ra.toNat).toNat
        injectPacket f.path.toNat (sentPacket s k t n) (setThr s k t)) s)

/-- A service thread as START leaves it (R101): inbox, call stack, registers and metadata empty, FRAME_LEN 512, 512
stored bytes of zero, Ready at START_PC. -/
def startedThread (pc : Nat) (b : Bool) : Thread :=
  let p : Packet := { Packet.empty with win := List.replicate 512 0, orig := 512 }
  { Thread.empty with st := .ready, svc := true, pc := pc, bank := b, pkt := setFrameLen p 512 }

/-- STOP of a service thread (R101): at once when it sleeps or has halted, otherwise at its next SLEEP or WAIT;
either way the inbox is emptied. -/
def svcStop (k : Nat) (s : State) : State :=
  let t := thr s k
  if t.svc then
    match t.st with
    | .sleeping => stopThr k s
    | .halted => stopThr k s
    | .ready => setThr s k { t with stopReq := true, inbox := [] }
    | .waiting => setThr s k { t with stopReq := true, inbox := [] }
    | _ => s
  else s

/-- The stored fields of SEN_SVC_CTL written. -/
def svcFields (k : Nat) (v : Word) (s : State) : State :=
  rset s R.SEN_SVC_CTL k (writeReg false R.SEN_SVC_CTL (rget s R.SEN_SVC_CTL k) v)

/-- START of a service thread: accepted only while its course runs in service mode and it is stopped or halted
(R101). EXC keeps the last code (R100). -/
def svcStart (k : Nat) (s : State) : State :=
  let c := k / 640
  let t := thr s k
  if running s c 3 && (decide (t.st = .free) || decide (t.st = .halted)) then
    let s := { s with hif := { s.hif with oldThr := s.hif.oldThr.filter (fun e => decide (e.1 ≠ k)) } }
    setThr s k { startedThread (rfld s R.SEN_SVC_CTL k 63 48) (course s c).activeB with exc := t.exc }
  else s

/-- SVC_START (R101): a write of SEN_SVC_CTL that sets START; one that sets STOP too acts as STOP. -/
def execSvcStart (th : ThreadRef) (v : Word) (s : State) : Out :=
  let k := thrKey th
  let s := svcFields k v s
  .next (if bit v 1 then svcStop k s else svcStart k s)

/-- SVC_STOP (R101): a write of SEN_SVC_CTL that sets STOP. -/
def execSvcStop (th : ThreadRef) (v : Word) (s : State) : Out :=
  let k := thrKey th
  .next (svcStop k (svcFields k v s))

/-- SVC_WAKE_WRITE (R104, R105): an inbox entry with SOURCE 1. -/
def execSvcWakeWrite (v : Word) (s : State) : Out :=
  .next (sendInbox (fld v 2 0) (fld v 12 3) 1 (BitVec.ofNat 32 (fld v 44 13)) none s)

/-- An inbox with one entry more: entries of one tick stand in ascending SOURCE order (R103). -/
def inboxInsert (e : InboxEntry) (l : List InboxEntry) : List InboxEntry :=
  l.filter (fun x => decide (x.came ≠ e.came ∨ x.source ≤ e.source)) ++
    e :: l.filter (fun x => decide (x.came = e.came ∧ e.source < x.source))

/-- An entry reaches an inbox, or is dropped and counted; one that would make an inbox longer than 16 drops the last of it,
which is of this tick (R103). -/
def inboxArrive (k : Nat) (e : InboxEntry) (s : State) : State :=
  let t := thr s k
  if t.svc = true ∧ (t.st = .sleeping ∨ t.st = .ready ∨ t.st = .waiting) then
    let l := inboxInsert { e with came := s.tau.mono } t.inbox
    let s := setThr s k { t with inbox := l.take 16 }
    if l.length ≤ 16 then s else rcount s R.SEN_SVC_CTL k 31 16 1
  else rcount s R.SEN_SVC_CTL k 31 16 1

/-- A sleeping thread takes the first entry of its inbox (R107); an exception 6 that R141 calls for takes the place of its
next instruction. -/
def inboxWake (k : Nat) (s : State) : State :=
  let t := thr s k
  match t.inbox with
  | e :: rest =>
    if t.svc = true ∧ t.st = .sleeping then
      let s := setThr s k (takeInbox { t with inbox := rest } t.sleepRd e)
      if t.exc6 then raiseExc k 6 s else s
    else s
  | [] => s

/-- A tick begins: a sleeping thread whose inbox took entries on the tick before takes the first of them, and issues from
this tick (R103, R107). -/
def inboxTick (s : State) : State := (thrKeys s).foldl (fun s k => inboxWake k s) s

/-- INBOX_ENTRY_ARRIVE (R103): the k-th of the entries on their way arrives. -/
def execInboxEntryArrive (i : Nat) (s : State) : Out :=
  match s.sen.arrivals[i]? with
  | none => .next s
  | some a =>
    .next (inboxArrive a.thread a.entry { s with sen := { s.sen with arrivals := s.sen.arrivals.eraseIdx i } })

/-- A course's banks exchanged: the inactive bank becomes active and the old one takes state `old` (R94, R98). -/
def swapBanks (c : Nat) (old : BankSt) (s : State) : State :=
  let x := course s c
  let a := x.activeB
  let s := setBank s c (!a) { bank s c (!a) with st := .active }
  let o := bank s c a
  let s := setBank s c a { o with st := if o.st = .empty then .empty else old }
  rsetF (setCourse s c { x with activeB := !a }) R.SEN_BANK_CTL c 0 0 (!a).toNat

/-- A load to a course is in progress (R99). -/
def loading (s : State) (c : Nat) : Bool :=
  match s.sen.load with
  | some m => m.2.testBit c
  | none => false

/-- The bank a course would swap to is loaded and not being loaded (R99). -/
def swappable (s : State) (c : Nat) : Bool :=
  decide ((bank s c (!(course s c).activeB)).st = .loaded) && !loading s c

/-- SWAP_NOW (R98): accepted only for a course in mode off, or in service mode with every thread stopped or halted;
otherwise SWAP_SKIPPED is set. A SWAP_ARM that stands keeps standing: DESIGN CHOICE (log 56), since R98 clears it on the
swap it arms and says nothing of another. -/
def execSwapNow (c : Course) (s : State) : Out :=
  let m := (course s c.val).inForce
  .next (if (m = 0 ∨ (m = 3 ∧ courseStill s c.val = true)) ∧ swappable s c.val = true then
    swapBanks c.val .loaded s
  else rsetF s R.SEN_BANK_CTL c.val 7 7 1)

end Sys2Proof.Machine
end

