-- ==== Sys2Proof/Machine/Hif.lean ====
section
/-! DEFINITION. The host interface: DMA and the written-page log (R395, R413 to R415), and the slice commands
(R398 to R410). -/

namespace Sys2Proof.Machine
open Sys2Proof

/-! ### DMA (R395, R397, R414) -/

/-- The function a ring belongs to may issue DMA: its Bus Master Enable is 1 and its link is in L0 (R397). -/
def dmaOk (s : State) (pf1 : Bool) : Bool :=
  if pf1 then s.hif.bme1 && rbit s R.HIF_LINK_STAT 0 (if rbit s R.HIF_LINK_STAT 0 63 then 37 else 5)
  else s.hif.bme0 && rbit s R.HIF_LINK_STAT 0 5

/-- DMA of a ring is possible. -/
def ringDma (s : State) (k : Nat) : Bool := dmaOk s (ringSlice k).isSome

/-- What a DMA request of a slice, or of PF0, carries (R395). -/
def dmaId (s : State) (sl : Option Nat) : DmaId :=
  match sl with
  | none => ⟨0, none, false, false⟩
  | some n => ⟨1, some (slPasid (slice s n)), false, false⟩

/-- A DMA read of a slice or of PF0 leaves the block. -/
def hostRead (sl : Option Nat) (addr n : Nat) (s : State) : State :=
  if n = 0 then s else emit (.dmaRead (dmaId s sl) addr n) s

/-- A DMA request of a slice, or of PF0, ends in an error (R395): counted in DMA_FAULTS of the slice, and reported with the
address in DETAIL. The slice's number stands in UNIT and, above its ten bits, in CODE; CODE 4 marks PF0: DESIGN CHOICE
(log 33), since no rule places it. -/
def dmaFailed (sl : Option Nat) (addr : Word) (s : State) : State :=
  match sl with
  | some n =>
    let c := slice s n
    errReport 7 12 15 (n % 1024) (n / 1024) addr (setSlice n { c with faults := satAdd 16 c.faults 1 } s)
  | none => errReport 7 12 15 0 4 addr s

/-- A mark added to the cache of bitmap words. -/
def addMark (sl : Nat) (b : Bool) (w addr i : Nat) : List Mark → List Mark
  | [] => [⟨sl, b, w, addr, setBit 0 i true⟩]
  | m :: t => if m.sl = sl ∧ m.b = b ∧ m.addr = addr then { m with bits := setBit m.bits i true } :: t
              else m :: addMark sl b w addr i t

/-- The mark cache holds 16,384 words; beyond them the oldest leave (R414). Which word leaves is a DESIGN CHOICE (log 33). -/
def capMarks (h : Hif) : Hif :=
  { h with marks := h.marks.drop (h.marks.length - 16384)
           leaving := h.leaving ++ h.marks.take (h.marks.length - 16384) }

/-- Page `p` of a slice's space is marked in the current bitmap, on the tick of a swap in the old one, or falls outside
the range (R414, R415). -/
def markPage (sl : Nat) (s : State) (p : Nat) : State :=
  let c := slice s sl
  let base := c.logBase.toNat / 4096
  let late := decide (c.swapAt = some s.tau.mono)
  let b := c.cur != late
  if base ≤ p ∧ p < base + c.pages then
    let i := p - base
    let a := (if b then c.logB else c.logA).toNat + 8 * (i / 64)
    withHif (fun h => capMarks { h with marks := addMark sl b (i / 64) a (i % 64) h.marks }) s
  else setSlice sl (if late then { c with outPrev := true } else { c with outCur := true }) s

/-- A DMA write of a slice or of PF0: it leaves the block, and a slice's marks its pages (R414). -/
def hostWrite (sl : Option Nat) (addr : Nat) (bs : Bytes) (s : State) : State :=
  if bs = [] then s
  else
    let s := match sl with
      | none => s
      | some n =>
        if (slice s n).logOn then
          (List.range ((addr + bs.length - 1) / 4096 + 1 - addr / 4096)).foldl
            (fun s i => markPage n s (addr / 4096 + i)) s
        else s
    emit (.dmaWrite (dmaId s sl) addr bs) s

/-- The oldest copy of a bitmap word that waits for its merge or stands in the cache, with the state that no longer holds
it. -/
def takeMark (sl w : Nat) (s : State) : Option (Mark × State) :=
  let is (m : Mark) : Bool := decide (m.sl = sl) && decide (m.w = w)
  match takeFirst is s.hif.leaving with
  | some (m, rest) => some (m, withHif (fun h => { h with leaving := rest }) s)
  | none => (takeFirst is s.hif.marks).map (fun e => (e.1, withHif (fun h => { h with marks := e.2 }) s))

/-- BITMAP_WORD_MERGE (R395, R414): a word leaves the cache; the HIF writes back what it read with the marks ORed in. Where
the read ends in an error the failure is reported, and the word stays to be merged later: DESIGN CHOICE (log 33). -/
def execBitmapWordMerge (sl : Slice) (w : Nat) (old : Option Word) (s : State) : Out :=
  if dmaOk s false then
    match takeMark sl.val w s with
    | some (m, t) =>
      match old with
      | some v => .next (hostWrite none m.addr (leBytes 8 (v ||| m.bits).toNat) (hostRead none m.addr 8 t))
      | none => .next (dmaFailed none (BitVec.ofNat 64 m.addr) (hostRead none m.addr 8 s))
    | none => .next s
  else .next s

/-! ### Slices (R398 to R410) -/

/-- A service thread told to stop still runs. -/
def stillRuns (s : State) (k : Nat) : Bool :=
  (thr s k).svc && (thr s k).stopReq && (decide ((thr s k).st = .ready) || decide ((thr s k).st = .waiting))

/-- OLD_WORK of a slice: work of an earlier generation is in flight, a service thread that its reset stopped and that
still runs among it (R403, R406). -/
def oldWork (s : State) (n : Nat) : Bool :=
  s.hif.old.any (fun e => decide (e.2 = n)) || s.hif.oldThr.any (fun e => decide (e.2 = n) && stillRuns s e.1)

/-- The service threads a slice owns (R101, R403). -/
def ownedThreads (s : State) (n : Nat) : List Nat :=
  (s.regs.filter (fun e => decide (R.SEN_SVC_CTL.base ≤ e.1) && decide (e.1 < R.SEN_SVC_CTL.base + 8 * 5120) &&
    bit e.2 47 && decide (fld e.2 43 32 = n))).map (fun e => (e.1 - R.SEN_SVC_CTL.base) / 8)

/-- SVC_RUN of a slice: owned service threads neither stopped, halted nor unavailable (R403). -/
def svcRun (s : State) (n : Nat) : Nat :=
  (ownedThreads s n).countP (fun k => (thr s k).svc && (decide ((thr s k).st = .ready) ||
    decide ((thr s k).st = .waiting) || decide ((thr s k).st = .sleeping)))

/-- A look-aside request comes from a slice's ring. -/
def reqOfSlice (n : Nat) (q : CphReq) : Bool :=
  match q.src with
  | .host r _ => decide (r < pf0Ring) && decide (r / 64 = n)
  | .prog _ _ => false

/-- CPH_OCC of a slice: its requests in the scheduler, of every generation (R403). -/
def cphOcc (s : State) (n : Nat) : Nat :=
  s.cph.arrived.countP (reqOfSlice n) + s.cph.queue.countP (reqOfSlice n) +
    (s.cph.running.map (fun e => e.2)).countP (reqOfSlice n)

/-- Named-owner billets a slice holds (R403); its requester identifier is KIND 2 with the slice's number (R337). -/
def sliceBillets (s : State) (n : Nat) : Nat :=
  s.bpm.tags.countP (fun e => e.2.testBit 15 && decide (e.2 % 2 ^ 14 = 0x2000 + n) &&
    rbit s R.BPM_POOL_CFG (e.1 / 2 ^ 32) 60)

/-- Rings of a slice that are listed, with their keys. -/
def ringsOf (s : State) (k0 n : Nat) : List (Nat × Ring) :=
  s.hif.rings.filter (fun e => decide (k0 ≤ e.1) && decide (e.1 < k0 + n))

/-- HIF_SLICE_STATE of a slice (R403). -/
def sliceStateWord (s : State) (n : Nat) : Word :=
  let c := slice s n
  BitVec.ofNat 64 (c.st * 2 ^ 62 + (oldWork s n).toNat * 2 ^ 61 + c.gen * 2 ^ 32 + min 8191 (cphOcc s n) * 2 ^ 19 +
    svcRun s n * 2 ^ 6)

/-- HIF_SLICE_USE of a slice (R403). -/
def sliceUseWord (s : State) (n : Nat) : Word :=
  BitVec.ofNat 64 (sliceBillets s n % 2 ^ 32 * 2 ^ 32 + (slice s n).faults * 2 ^ 16 +
    (ringsOf s (64 * n) 64).countP (fun e => decide (e.2.st = 1)))

/-- SLICE_CTL of a slice's page; a free slice's page reads zero (R410). -/
def sliceCtlWord (s : State) (n : Nat) : Word :=
  let c := slice s n
  if c.st = 0 then 0
  else BitVec.ofNat 64 (c.st * 2 ^ 62 + (oldWork s n).toNat * 2 ^ 61 + c.gen * 2 ^ 32 + slRings c)

/-- Every slice that is not free but `n`. -/
def otherSlices (s : State) (n : Nat) : List SliceSt :=
  ((s.hif.slices.filter (fun e => decide (e.1 ≠ n))).map (fun e => e.2)).filter (fun c => decide (c.st ≠ 0))

/-- Two ranges have a member in common. -/
def rangesMeet (a n b m : Nat) : Bool := decide (n ≠ 0 ∧ m ≠ 0 ∧ a < b + m ∧ b < a + n)

/-- Checks 3 to 5 of R401 on what the staging registers hold; 1 where all pass. -/
def resourceCheck (s : State) (n : Nat) : Nat :=
  let os := otherSlices s n
  let sum (f : SliceSt → Nat) := (os.map f).foldl (fun a b => a + b) 0
  let r1 := rget s R.HIF_SLICE_RES1 0
  let r2 := rget s R.HIF_SLICE_RES2 0
  if 32768 < sum slRings + rfld s R.HIF_SLICE_RES0 0 63 56 ∨ 65536 < sum slQuota + rfld s R.HIF_SLICE_RES0 0 44 32 then 4
  else if os.any (fun c => rangesMeet (fld c.res1 19 0) (fld c.res1 40 20) (fld r1 19 0) (fld r1 40 20)) then 5
  else if os.any (fun c => rangesMeet (fld c.res2 15 0) (fld c.res2 32 16) (fld r2 15 0) (fld r2 32 16)) then 5
  else 1

/-- The checks of R401 on a cast-on. -/
def castCheck (s : State) (n : Nat) : Nat :=
  if (slice s n).st ≠ 0 then 2
  else if (otherSlices s n).any (fun c => decide (slPasid c = rfld s R.HIF_SLICE_BIND 0 43 24)) then 3
  else resourceCheck s n

/-- The outcome of a slice command: RESULT with BUSY 0. -/
def sliceResult (r : Nat) (s : State) : State :=
  rsetF (rsetF s R.HIF_SLICE_CMD 0 63 63 0) R.HIF_SLICE_CMD 0 62 59 r

/-- A slice command goes on with BUSY at 1 (R399). -/
def sliceBusy (j : HifJob) (s : State) : State :=
  rsetF (sliceResult 0 (withHif (fun h => { h with job := some j }) s)) R.HIF_SLICE_CMD 0 63 63 1

/-- What a command waited for has come about (R399). -/
def jobDone (j : HifJob) (s : State) : State :=
  if s.hif.job = some j then sliceResult 1 (withHif (fun h => { h with job := none }) s) else s

/-- A write of HIF_SLICE_CMD with a given OP (R399): ignored while BUSY is 1; its fields are stored, and GO runs the
command on the slice it names. -/
def sliceCmd (op : Nat) (v : Word) (run : Nat → State → State) (s : State) : State :=
  if s.hif.job.isSome then s
  else
    let s := hostStore false R.HIF_SLICE_CMD 0 (setFld v 55 52 op) s
    if bit v 0 then run (fld v 43 32) s else s

/-- The staging words of resources into a slice. -/
def withRes (s : State) (c : SliceSt) : SliceSt :=
  { c with res0 := rget s R.HIF_SLICE_RES0 0, res1 := rget s R.HIF_SLICE_RES1 0, res2 := rget s R.HIF_SLICE_RES2 0,
           res3 := rget s R.HIF_SLICE_RES3 0 }

/-- SLICE_READ (R399): the staging registers take the slice's values. -/
def execSliceRead (v : Word) (s : State) : Out :=
  .next (sliceCmd 0 v (fun n s =>
    let c := slice s n
    let s := rset (rset (rset (rset (rset s R.HIF_SLICE_BIND 0 c.bind) R.HIF_SLICE_RES0 0 c.res0)
      R.HIF_SLICE_RES1 0 c.res1) R.HIF_SLICE_RES2 0 c.res2) R.HIF_SLICE_RES3 0 c.res3
    let s := rset (rset (rset s R.HIF_SLICE_LOG_A 0 c.logA) R.HIF_SLICE_LOG_B 0 c.logB) R.HIF_SLICE_LOG_BASE 0 c.logBase
    let w := c.logOn.toNat * 2 ^ 63 + c.cur.toNat * 2 ^ 62 + c.outPrev.toNat * 2 ^ 61 + c.outCur.toNat * 2 ^ 60 + c.pages
    sliceResult 1 (rset s R.HIF_SLICE_LOG_CFG 0 (BitVec.ofNat 64 w))) s)

/-- SLICE_CAST_ON (R398, R400, R401). -/
def execSliceCastOn (v : Word) (s : State) : Out :=
  .next (sliceCmd 1 v (fun n s =>
    let r := castCheck s n
    if r = 1 then
      let c := withRes s { SliceSt.init with st := 1, gen := rfld s R.HIF_SLICE_BIND 0 23 8,
                                             bind := rget s R.HIF_SLICE_BIND 0 }
      sliceResult 1 (setSlice n c s)
    else sliceResult r s) s)

/-- SLICE_RESIZE (R401, R404): resources, RX_EN and RX_RING; PASID and GEN_INIT stay. -/
def execSliceResize (v : Word) (s : State) : Out :=
  .next (sliceCmd 2 v (fun n s =>
    let c := slice s n
    if c.st ≠ 1 then sliceResult 2 s
    else
      let r := resourceCheck s n
      if r = 1 then
        sliceResult 1 (setSlice n (withRes s { c with bind := setFld c.bind 7 0 (rfld s R.HIF_SLICE_BIND 0 7 0) }) s)
      else sliceResult r s) s)

/-- A ring of a slice at a reset or removal (R406, R437): disabled as by EN = 0, its completions discarded, its
running work now of an earlier generation. -/
def ringReset (x : Ring) : Ring :=
  if x.st = 0 then x
  else { x with st := 2, fetched := [], works := [], ended := [], waiting := [], pubDue := true }

/-- The work of a ring that goes on after its slice's reset: cipher requests the engine has not finished with. -/
def survivors (x : Ring) : List Nat :=
  (x.works.filter (fun w => decide (dOp w.desc = 2) && !w.finished)).map (fun w => w.wid)

/-- R406 but for the service threads: the generation advances and every ring is disabled. -/
def sliceFlush (n : Nat) (s : State) : State :=
  let c := slice s n
  let rs := ringsOf s (64 * n) 64
  let s := setSlice n { c with gen := (c.gen + 1) % 65536 } s
  let s := withHif (fun h => { h with old := h.old ++ (rs.flatMap (fun e => survivors e.2)).map (fun w => (w, n)) }) s
  rs.foldl (fun s e => setRing e.1 (ringReset e.2) s) s

/-- The service threads of a slice are stopped as by STOP; one that still runs is work of an earlier generation (R101,
R406, R408). -/
def stopThreads (n : Nat) (s : State) : State :=
  let ks := ownedThreads s n
  let s := ks.foldl (fun s k => svcStop k s) s
  withHif (fun h => { h with oldThr := h.oldThr ++ (ks.filter (stillRuns s)).map (fun k => (k, n)) }) s

/-- A reset of a slice is applied (R406). -/
def sliceReset (n : Nat) (s : State) : State := stopThreads n (sliceFlush n s)

/-- A reset reaches a slice (R398, R407): applied, held while old work is in flight, or merged with one held. -/
def resetRequest (n : Nat) (s : State) : State :=
  let c := slice s n
  if c.st = 1 then
    if oldWork s n then setSlice n { c with st := 2 } s else sliceReset n s
  else s

/-- SLICE_RESET (R398, R407). -/
def execSliceReset (v : Word) (s : State) : Out :=
  .next (sliceCmd 3 v (fun n s =>
    let st := (slice s n).st
    if st = 1 ∨ st = 2 then
      let s := resetRequest n s
      if (slice s n).st = 2 then sliceBusy (.reset n) s else sliceResult 1 s
    else sliceResult 2 s) s)

/-- A slice command of PF0 for slice `n`. -/
def ofSliceCmd (n : Nat) (i : Instr) : Bool :=
  match i with
  | .sliceRead v | .sliceCastOn v | .sliceResize v | .sliceReset v | .sliceRemove v | .logStart v | .logSwap v
  | .logStop v => decide (fld v 43 32 = n)
  | _ => false

/-- SLICE_CTL_RESET (R402, R410): bit 0 of a write to the slice's page requests a reset, which follows the commands of PF0
for the slice on its tick. -/
def execSliceCtlReset (sl : Slice) (v : Word) (s : State) : Out :=
  let n := sl.val
  .next (if bit v 0 then
    if comes s (ofSliceCmd n) then withHif (fun h => { h with ctlDue := h.ctlDue ++ [n] }) s else resetRequest n s
  else s)

/-- The resets that waited for PF0's commands of the tick that ends (R402). -/
def ctlApply (s : State) : State :=
  s.hif.ctlDue.foldl (fun s n => resetRequest n s) (withHif (fun h => { h with ctlDue := [] }) s)

/-- HELD_RESET_APPLY (R407): OLD_WORK has fallen and the held reset is applied. -/
def execHeldResetApply (sl : Slice) (s : State) : Out :=
  let n := sl.val
  if (slice s n).st = 2 ∧ oldWork s n = false then
    .next (jobDone (.reset n) (sliceReset n (setSlice n { slice s n with st := 1 } s)))
  else .next s

/-- Logging of a slice stops: the current bitmap's words are to be flushed (R415). -/
def logEnd (n : Nat) (s : State) : State :=
  let c := slice s n
  withHif (fun h => { h with flush := h.flush ++ [(n, c.cur)] }) (setSlice n { c with logOn := false } s)

/-- SLICE_REMOVE (R398, R408): the effects of a reset, the owned threads released, logging stopped. -/
def execSliceRemove (v : Word) (s : State) : Out :=
  .next (sliceCmd 4 v (fun n s =>
    let st := (slice s n).st
    if st = 1 ∨ st = 2 then
      let s := stopThreads n (sliceFlush n s)
      let s := (ownedThreads s n).foldl (fun s k => rsetF (rsetF s R.SEN_SVC_CTL k 47 47 0) R.SEN_SVC_CTL k 43 32 0) s
      let s := if (slice s n).logOn then logEnd n s else s
      sliceBusy (.remove n) (setSlice n { slice s n with st := 3 } s)
    else sliceResult 2 s) s)

/-- LOG_START (R398, R415): a slice that is not active is in the wrong state, one whose logging is on in the wrong
logging state (log 33). -/
def execLogStart (v : Word) (s : State) : Out :=
  .next (sliceCmd 5 v (fun n s =>
    let c := slice s n
    if c.st ≠ 1 then sliceResult 2 s
    else if c.logOn = false then
      let c := { c with logOn := true, cur := false, outCur := false, swapAt := none, pages := rfld s R.HIF_SLICE_LOG_CFG 0 28 0 }
      let c := { c with logA := rget s R.HIF_SLICE_LOG_A 0, logB := rget s R.HIF_SLICE_LOG_B 0 }
      sliceResult 1 (setSlice n { c with logBase := rget s R.HIF_SLICE_LOG_BASE 0 } s)
    else sliceResult 6 s) s)

/-- LOG_SWAP (R415): later writes are marked in the other bitmap, and the old one's words are flushed. -/
def execLogSwap (v : Word) (s : State) : Out :=
  .next (sliceCmd 6 v (fun n s =>
    let c := slice s n
    if c.logOn then
      let s := withHif (fun h => { h with flush := h.flush ++ [(n, c.cur)] }) s
      let c := { c with cur := !c.cur, outPrev := c.outCur, outCur := false, swapAt := some s.tau.mono }
      sliceBusy (.flush n) (setSlice n c s)
    else sliceResult 6 s) s)

/-- LOG_STOP (R415). -/
def execLogStop (v : Word) (s : State) : Out :=
  .next (sliceCmd 7 v (fun n s =>
    if (slice s n).logOn then sliceBusy (.flush n) (logEnd n s) else sliceResult 6 s) s)

/-- LOG_FLUSH_DONE (R395, R415): every cached word of the bitmap has been merged and the trailing read has completed; the
command ends with the last flush of its slice. The read is of the bitmap's first word; one that ends in an error is
reported, and another must complete: DESIGN CHOICE (log 33). -/
def execLogFlushDone (f : FlushRead) (s : State) : Out :=
  match takeFirst (fun e => decide (e.1 = f.sl.val)) s.hif.flush with
  | some (e, rest) =>
    if (s.hif.leaving ++ s.hif.marks).any (fun m => decide (m.sl = e.1) && decide (m.b = e.2)) || !dmaOk s false then .next s
    else
      let a := if e.2 then (slice s e.1).logB else (slice s e.1).logA
      let s := hostRead none a.toNat 8 s
      if f.ok then
        let s := withHif (fun h => { h with flush := rest }) s
        .next (if rest.any (fun x => decide (x.1 = f.sl.val)) then s else jobDone (.flush f.sl.val) s)
      else .next (dmaFailed none a s)
  | none => .next s

/-- PF1_FLR (R397): every active slice is reset, in ascending order. -/
def execPf1Flr (s : State) : Out :=
  .next ((s.hif.slices.map (fun e => e.1)).foldl (fun s n => resetRequest n s) s)

/-- Bus Master Enable of a function set. -/
def setBme (f : PciFn) (b : Bool) (s : State) : State :=
  withHif (fun h => match f with | .pf0 => { h with bme0 := b } | .pf1 => { h with bme1 := b }) s

/-- BUS_MASTER_DISABLE (R397): the function's DMA requests are held. -/
def execBusMasterDisable (f : PciFn) (s : State) : Out := .next (setBme f false s)

/-- BUS_MASTER_ENABLE (R397): held DMA requests may go on. -/
def execBusMasterEnable (f : PciFn) (s : State) : Out := .next (setBme f true s)

end Sys2Proof.Machine
end

