-- ==== Sys2Proof/Machine/Rings.lean ====
section
/-! DEFINITION. Ring pairs: enabling and disabling, polling, the starting of descriptors, their operations, their
completions, timeouts and publish records (ch. 14), and the release of a removed slice (R408). -/

namespace Sys2Proof.Machine
open Sys2Proof

/-- SLICE_FREE (R408): the old work of a removed slice has ended; its billets return and its page is blank. -/
def execSliceFree (sl : Slice) (s : State) : Out :=
  let n := sl.val
  let c := slice s n
  if c.st = 3 ∧ oldWork s n = false then
    let s := setSlice n { SliceSt.init with gen := c.gen, faults := c.faults } s
    let s := (ringsOf s (64 * n) 64).foldl (fun s e => setRing e.1 Ring.init s) s
    .next (jobDone (.remove n) (bpmReturnOwner (0x2000 + n) s))
  else .next s

/-! ### Enable and disable (R419, R420, R435 to R437) -/

/-- A ring number answers to its registers: below RINGS of a slice that is not free, or not disabled (R404, R410,
R419). -/
def ringSeen (s : State) (k : Nat) : Bool :=
  match ringSlice k with
  | none => true
  | some n => decide ((slice s n).st ≠ 0) && (decide (k % 64 < slRings (slice s n)) || decide ((ring s k).st ≠ 0))

/-- An index written by software: INDEX within the ring (R419). -/
def clampIndex (n : Nat) (v : Word) : Word := BitVec.ofNat 64 (fld v 16 16 * 65536 + min (fld v 15 0) (2 ^ n - 1))

/-- A write of RING_CFG but for EN: while the ring is not disabled only TIMEOUT_US, POLL_NS and HOLDOFF_US
(R420). -/
def cfgWrite (x : Ring) (v : Word) : Ring :=
  let w := writeReg false R.RING_CFG x.cfg v
  if x.st = 0 then { x with cfg := w } else { x with cfg := setFld (setFld x.cfg 41 22 (fld w 41 22)) 21 0 (fld w 21 0) }

/-- RING_ENABLE (R426, R435): a write of RING_CFG with EN = 1, accepted only for a disabled ring below RINGS of an active
slice; a publish record is due where an index changes. -/
def execRingEnable (r : RingRef) (v : Word) (s : State) : Out :=
  let k := ringKey r
  if ringSeen s k then
    let x0 := ring s k
    let x := cfgWrite x0 v
    let ok := match ringSlice k with
      | none => true
      | some n => decide ((slice s n).st = 1) && decide (k % 64 < slRings (slice s n))
    if x0.st = 0 ∧ ok = true then
      let h := (clampIndex (sqLog x) x.start).toNat
      let t := (clampIndex (cqLog x) x.cqHead).toNat
      .next (setRing k { x with st := 1, sqHead := h, cqTail := t, pubDue := x.pubDue || decide (h ≠ x.sqHead ∨ t ≠ x.cqTail),
                                cqHead := clampIndex (cqLog x) x.cqHead, pollAt := none,
                                fetched := [], works := [], ended := [], waiting := [] } s)
    else .next (setRing k x s)
  else .next s

/-- A ring pair disabled (R436): what was fetched is discarded and every RX_POST without a packet completes. -/
def ringDisable (k : Nat) (s : State) : State :=
  let x := ring s k
  let posts := x.works.filter (fun w => decide (dOp w.desc = 7))
  let x := posts.foldl (fun x w => endWork x w.wid { endOf s w with status := 6 }) x
  setRing k { x with st := 2, fetched := [], pubDue := true } s

/-- RING_DISABLE (R436): a write of RING_CFG with EN = 0. -/
def execRingDisable (r : RingRef) (v : Word) (s : State) : Out :=
  let k := ringKey r
  if ringSeen s k then
    let s := setRing k (cfgWrite (ring s k) v) s
    .next (if (ring s k).st = 1 then ringDisable k s else s)
  else .next s

/-- RING_DISABLED (R436): nothing is in flight or waiting and the final publish record has been written. -/
def execRingDisabled (r : RingRef) (s : State) : Out :=
  let k := ringKey r
  let x := ring s k
  if x.st = 2 ∧ inflight x = 0 ∧ x.waiting = [] ∧ x.pubDue = false then .next (setRing k { x with st := 0 } s)
  else .next s

/-- RING_STAT (R421). -/
def ringStat (x : Ring) : Word :=
  BitVec.ofNat 64 (x.sqHead * 2 ^ 47 + x.cqTail * 2 ^ 30 + inflight x * 2 ^ 21 + x.waiting.length * 2 ^ 12 +
    x.works.countP (fun w => w.orphan) * 2 ^ 3)

/-! ### Completions (R431 to R434) -/

/-- A 64-byte run of words. -/
def wordsBytes (ws : List Word) : Bytes := ws.flatMap (fun w => leBytes 8 w.toNat)

/-- A completion entry as it is written at CQ_TAIL (R424, R431). -/
def entryBytes (x : Ring) (e : Ended) : Bytes :=
  wordsBytes [BitVec.ofNat 64 ((1 - x.cqTail / 65536) * 2 ^ 63 + e.op * 2 ^ 48 + e.gen * 2 ^ 32 + e.tag * 2 ^ 16 +
    e.detail * 2 ^ 8 + e.status), e.res0, e.res1, BitVec.ofNat 64 e.pos]

/-- A completion is written to the slot at CQ_TAIL (R433). -/
def writeEntry (k : Nat) (e : Ended) (s : State) : State :=
  let x := ring s k
  let s := hostWrite (ringSlice k) (x.cqBase.toNat + 32 * (x.cqTail % 65536)) (entryBytes x e) s
  setRing k { x with cqTail := advance (cqLog x) x.cqTail 1, pubDue := true, irqNext := x.irqNext || e.irq } s

/-- The oldest completion in the group buffer is written if the completion ring has room. -/
def drainOne (k : Nat) (s : State) : State :=
  let x := ring s k
  match x.waiting with
  | e :: rest => if cqFull x then s else writeEntry k e (setRing k { x with waiting := rest } s)
  | [] => s

/-- A command that ends no work of a ring: it writes completions and records, raises an interrupt, or reads slots. -/
def endsNothing (i : Instr) : Bool :=
  match i with
  | .completionWrite .. | .publishRecordWrite .. | .irqHoldoffEnd .. | .ringPoll .. | .descriptorFetch .. => true
  | _ => false

/-- A completion has its turn: those of one tick are written in the order of SQ_POS, and so wait for the last command of
the tick that may end work (R433). -/
def endTurn (s : State) (e : Ended) : Bool := decide (e.tick ≠ s.tau.mono) || !comes s (fun i => !endsNothing i)

/-- COMPLETION_WRITE (R405, R433): the oldest waiting completion is written if there is room for it; otherwise the
work that ended first writes its data, and its completion is written or waits in the group buffer. -/
def execCompletionWrite (r : RingRef) (s : State) : Out :=
  let k := ringKey r
  let x := ring s k
  if ringDma s k then
    if x.waiting ≠ [] ∧ cqFull x = false then .next (drainOne k s)
    else match x.ended with
      | e :: rest =>
        if endTurn s e = false then .next s else
        let s := hostWrite (ringSlice k) e.dst e.data s
        if cqFull x then .next (setRing k { x with ended := rest, waiting := x.waiting ++ [{ e with data := [] }] } s)
        else .next (writeEntry k e (setRing k { x with ended := rest } s))
      | [] => .next s
  else .next s

/-- CQ_HEAD_WRITE (R423, R433): software has consumed entries; a value ahead of CQ_TAIL becomes CQ_TAIL, and
completions that waited for room are written. -/
def execCqHeadWrite (r : RingRef) (v : Word) (s : State) : Out :=
  let k := ringKey r
  let x := ring s k
  if ringSeen s k then
    let n := cqLog x
    let h := clampIndex n v
    if x.st = 0 then .next (setRing k { x with cqHead := h } s)
    else
      let h := if 2 ^ n < held n x.cqTail h.toNat then BitVec.ofNat 64 x.cqTail else h
      let s := setRing k { x with cqHead := h } s
      .next (if ringDma s k then (List.range 256).foldl (fun s _ => drainOne k s) s else s)
  else .next s

/-- The function of a ring and its MSI-X vector: PF1 vector s for slice s, PF0 vector 16 + r (R434, R539). -/
def ringVector (k : Nat) : Nat × Nat :=
  match ringSlice k with | some n => (1, n) | none => (0, 16 + (k - pf0Ring))

/-- A ring's vector is raised, and its hold-off begins (R434). -/
def ringIrq (k : Nat) (s : State) : State :=
  let x := ring s k
  msixRaise (ringVector k).1 (ringVector k).2 (setRing k { x with irqDue := false, holdEnd := s.tau.mono + 1600 * fld x.cfg 5 0 } s)

/-- A publish record may be written: 250 ns have passed since the last one of the ring (R426). -/
def pubSpaced (s : State) (x : Ring) : Bool :=
  match x.pubAt with
  | some t => decide (t + 400 ≤ s.tau.mono)
  | none => true

/-- PUBLISH_RECORD_WRITE (R426, R434): SQ_HEAD, generation and CQ_TAIL, then the interrupt of what it covers. -/
def execPublishRecordWrite (r : RingRef) (s : State) : Out :=
  let k := ringKey r
  let x := ring s k
  if x.st ≠ 0 ∧ x.pubDue = true ∧ ringDma s k = true ∧ pubSpaced s x = true then
    let gen := match ringSlice k with | some n => (slice s n).gen | none => 0
    let s := hostWrite (ringSlice k) x.pub.toNat
      (wordsBytes [BitVec.ofNat 64 (gen * 2 ^ 32 + x.sqHead), BitVec.ofNat 64 x.cqTail]) s
    let s := setRing k { x with pubDue := false, pubAt := some s.tau.mono, irqNext := false, irqDue := x.irqDue || x.irqNext } s
    .next (if x.irqNext = true ∧ x.holdEnd ≤ s.tau.mono then ringIrq k s else s)
  else .next s

/-- IRQ_HOLDOFF_END (R434): an interrupt that fell due during the hold-off is raised. -/
def execIrqHoldoffEnd (r : RingRef) (s : State) : Out :=
  let k := ringKey r
  let x := ring s k
  if x.irqDue = true ∧ timeUp s x.holdEnd = true then .next (ringIrq k s) else .next s

/-! ### Polling (R427) -/

/-- A slot read at an index holds a written descriptor (R424). -/
def slotWritten (d : BitVec 512) (pos : Nat) : Bool := decide (fld (dWord d 0) 63 63 = 1 - pos / 65536)

/-- Slots kept in fetch order up to the first unwritten one. -/
def takeWritten (n pos : Nat) : List (BitVec 512) → List (BitVec 512)
  | [] => []
  | d :: t => if slotWritten d pos then d :: takeWritten n (advance n pos 1) t else []

/-- A poll of a ring is due: at once, or POLL_NS after one that found its slot unwritten (R427). -/
def pollDue (s : State) (x : Ring) : Bool :=
  match x.pollAt with
  | some t => decide (t + (8 * fld x.cfg 21 6 + 4) / 5 ≤ s.tau.mono)
  | none => true

/-- RING_POLL (R427): the next submission slot is read. -/
def execRingPoll (r : RingRef) (slot : BitVec 512) (s : State) : Out :=
  let k := ringKey r
  let x := ring s k
  if x.st = 1 ∧ ringDma s k = true ∧ x.fetched.length < 9 ∧ pollDue s x = true then
    let p := advance (sqLog x) x.sqHead x.fetched.length
    let got := takeWritten (sqLog x) p [slot]
    let s := hostRead (ringSlice k) (x.sqBase.toNat + 64 * (p % 65536)) 64 s
    .next (setRing k { x with fetched := x.fetched ++ got, pollAt := if got = [] then some s.tau.mono else none } s)
  else .next s

/-- DESCRIPTOR_FETCH (R427): after a slot has been found written, up to eight further slots, not across the end of
the ring. -/
def execDescriptorFetch (r : RingRef) (slots : DescList) (s : State) : Out :=
  let k := ringKey r
  let x := ring s k
  let n := sqLog x
  let p := advance n x.sqHead x.fetched.length
  if x.st = 1 ∧ ringDma s k = true ∧ x.fetched ≠ [] then
    let room := min (9 - x.fetched.length) (2 ^ n - p % 65536)
    let s := hostRead (ringSlice k) (x.sqBase.toNat + 64 * (p % 65536)) (64 * (slots.take room).length) s
    .next (setRing k { x with fetched := x.fetched ++ takeWritten n p (slots.take room), pollAt := none } s)
  else .next s

/-! ### Starting work (R404, R428) -/

/-- The rings of a ring's group. -/
def groupRings (s : State) (k : Nat) : List (Nat × Ring) :=
  if k < pf0Ring then ringsOf s (k / 64 * 64) 64 else ringsOf s pf0Ring 16

/-- Entries of the 256 of a ring's group buffer that are taken for a start on this tick: those reserved or held when the
tick began, and one for each start of the tick (R428). -/
def groupUsed (s : State) (k : Nat) : Nat :=
  ((groupRings s k).map (fun e => (ringThen s e.2).group + (decide (e.2.startAt = some s.tau.mono)).toNat)).foldl
    (fun a b => a + b) 0

/-- A permitted pool of a slice: named-owner pools of POOL_MASK (R400). -/
def sliceMask (s : State) (n m : Nat) : Nat :=
  (List.range 16).foldl (fun a i =>
    a + (if m.testBit i && (fld (slice s n).res2 63 48).testBit i && poolNamed s i then 2 ^ i else 0)) 0

/-- The size an ALLOC asks for (R430). -/
def allocSize (d : BitVec 512) : Nat := clampTo 1 16384 (fld (dWord d 4) 14 0)

/-- A descriptor of a slice waits for a limit (R404). -/
def limitWaits (s : State) (k : Nat) (d : BitVec 512) : Bool :=
  match ringSlice k with
  | none => false
  | some n =>
    let c := slice s n
    match dOp d with
    | 2 => decide (slQuota c ≤ cphOcc s n)
    | 4 => decide (fld (dWord d 0) 1 0 % 3 = 0) && decide (fld c.res1 60 48 ≤ svcRun s n)
    | 5 => decide (fld c.res3 31 0 ≤ sliceBillets s n) ||
        ((candidatePools s (allocSize d) (sliceMask s n (fld (dWord d 4) 31 16))).all (fun p => poolExhausted s p))
    | _ => false

/-- A command of this tick that comes before every start of the ring: its disable, a write of its RING_CQ_HEAD, a resize,
reset or removal of its slice (R404 to R406, R433, R436, R441). -/
def beforeStart (k : Nat) (i : Instr) : Bool :=
  match i with
  | .ringDisable r _ | .cqHeadWrite r _ => decide (ringKey r = k)
  | .sliceResize v | .sliceReset v | .sliceRemove v => decide (ringSlice k = some (fld v 43 32))
  | .sliceCtlReset sl _ => decide (ringSlice k = some sl.val)
  | .pf1Flr => (ringSlice k).isSome
  | .pf0Flr => (ringSlice k).isNone
  | _ => false

/-- The descriptor at SQ_HEAD may start (R428), at most one of the ring on a tick: by what the ring was when the tick began,
but for a RING_CQ_HEAD write of the tick (R433) and for the limits of R404 (R405). -/
def startable (s : State) (k : Nat) (d : BitVec 512) : Bool :=
  let x := ring s k
  let v := ringThen s x
  decide (x.st = 1 ∧ v.st = 1 ∧ v.fetched ≠ 0) && !cqFull { x with cqTail := v.tail } &&
    decide (v.inflight < fld x.cfg 50 42) && decide (groupUsed s k < 256) &&
    !limitWaits s k d && decide (x.startAt ≠ some s.tau.mono) && !comes s (beforeStart k) &&
    (!bit (dWord d 0) 61 || v.still)

/-- A descriptor starts (R428): SQ_HEAD advances and its work is in flight, under the TIMEOUT_US with which the tick began
(R420). -/
def startWork (k : Nat) (d : BitVec 512) (s : State) : Work × State :=
  let x := ring s k
  let us := (ringThen s x).timeout
  let w : Work :=
    { wid := s.hif.nextWork, ord := x.started, pos := x.sqHead, desc := d,
      gen := match ringSlice k with | some n => (slice s n).gen | none => 0,
      deadline := if us = 0 ∨ dOp d = 7 then none else some (s.tau.mono + 1600 * us), orphan := false, finished := false }
  let x := { x with fetched := x.fetched.drop 1, works := x.works ++ [w], started := x.started + 1,
                    sqHead := advance (sqLog x) x.sqHead 1, startAt := some s.tau.mono, pubDue := true }
  (w, occur 12 1 ((ringSlice k).getD 131071) 1 (withHif (fun h => { h with nextWork := h.nextWork + 1 }) (setRing k x s)))

/-- The row of one operation: the descriptor at SQ_HEAD, where it is one of that operation and may start, starts and
does `run`. -/
def descRow (r : RingRef) (p : BitVec 512 → Bool) (dma : Bool) (run : Nat → Work → State → State) (s : State) : Out :=
  let k := ringKey r
  match (ring s k).fetched with
  | d :: _ =>
    if p d && startable s k d && (!dma || ringDma s k) then
      let t := startWork k d s
      .next (run k t.1 t.2)
    else .next s
  | [] => .next s

/-- A work ends, its completion as `f` makes it. -/
def workEnd (k : Nat) (w : Work) (f : Ended → Ended) (s : State) : State :=
  setRing k (endWork (ring s k) w.wid (f (endOf s w))) s

/-- A descriptor refused by a slice limit: STATUS 1 with DETAIL (R430 to R432). -/
def workRefused (k : Nat) (w : Work) (detail : Nat) (s : State) : State :=
  workEnd k w (fun e => { e with status := 1, detail := detail }) s

/-- DESC_NOP (R430). -/
def execDescNop (r : RingRef) (s : State) : Out :=
  descRow r (fun d => decide (dOp d = 0)) false (fun k w s => workEnd k w id s) s

/-- The MD_VER of the ingress bank in force: the active bank of the lowest course running ingress, 0 with none. -/
def ingressVer (s : State) : Nat :=
  match (List.range 8).find? (fun c => running s c 1) with
  | some c => (bank s c (course s c).activeB).ver
  | none => 0

/-- The packet a TX descriptor sends (R430): PATH 0 as a frame received on a port in a class, PATH 1 with the
metadata words it names. -/
def txPacket (s : State) (d : BitVec 512) (bs : Bytes) : Packet :=
  let f : RxFrame := ⟨s.sen.nextPid, phcNow s, stampEpoch s % 4, bs, true, 0, 0, ⟨0, 0, []⟩⟩
  let p := headPacket s (fld (dWord d 0) 22 16) f bs true
  let p := mdSet (mdSet p 0 31 28 (ingressVer s)) 0 18 16 (fld (dWord d 0) 26 24)
  if bit (dWord d 0) 0 then
    let p := mdProgWrite p 1 (BitVec.ofNat 32 (fld (dWord d 4) 31 0))
    let p := mdProgWrite p 2 (BitVec.ofNat 32 (fld (dWord d 4) 63 32))
    let p := mdProgWrite p 7 (BitVec.ofNat 32 (fld (dWord d 5) 31 0))
    mdProgWrite p 8 (BitVec.ofNat 32 (fld (dWord d 5) 63 32))
  else p

/-- DESC_TX (R430): the frame is read and handed on. -/
def execDescTx (r : RingRef) (data : Bytes) (s : State) : Out :=
  descRow r (fun d => decide (dOp d = 1)) true (fun k w s =>
    let n := clampTo 14 16383 (fld (dWord w.desc 3) 31 0)
    let p := txPacket s w.desc (fitBytes n data)
    let s := hostRead (ringSlice k) (dWord w.desc 1).toNat n s
    workEnd k w id (injectPacket (fld (dWord w.desc 0) 0 0) p s)) s

/-- The key slot a CIPHER descriptor names, absolute; none outside a slice's range (R400, R430). -/
def descSlot (s : State) (k : Nat) (d : BitVec 512) : Option Nat :=
  let n := fld (dWord d 0) 31 16
  match ringSlice k with
  | none => some n
  | some sl => if n < fld (slice s sl).res2 32 16 then some (fld (slice s sl).res2 15 0 + n) else none

/-- Bytes of the tag an FN makes or checks (R138, R457). -/
def tagLen (fn : Nat) : Nat := if fn = 6 ∨ fn = 7 then 32 else 16

/-- DESC_CIPHER (R430, R457): the input is read, and the request goes to the cipher engine. -/
def execDescCipher (r : RingRef) (data : Bytes) (s : State) : Out :=
  descRow r (fun d => decide (dOp d = 2)) true (fun k w s =>
    match descSlot s k w.desc with
    | none => workRefused k w 1 s
    | some slot =>
      let lenA := min (fld (dWord w.desc 3) 31 0) 65536
      let fn := fld (dWord w.desc 0) 2 0
      let aad := min (fld (dWord w.desc 6) 15 0) lenA
      let out := if fn % 2 = 0 then lenA + tagLen fn else lenA - tagLen fn
      let bad := decide (fld (dWord w.desc 3) 63 32 < out) || (decide (fn % 2 = 1) && decide (lenA < aad + tagLen fn))
      let input := fitBytes lenA data
      let s := hostRead (ringSlice k) (dWord w.desc 1).toNat lenA s
      let q : CphReq := { src := .host k w.wid, tick := s.tau.mono, fn := fn, slot := slot, label := (dWord w.desc 5).toNat,
                          iv := (dWord w.desc 4).toNat, aad := input.take aad, region := input.drop aad, badLen := bad,
                          key := [], salt := [], version := 0 }
      { s with cph := { s.cph with arrived := s.cph.arrived ++ [q] } }) s

/-- A command that increments counter pairs: by itself, or by the end of a frame whose length a count waits for. -/
def countsPairs (i : Instr) : Bool :=
  match i with
  | .cnt .. | .frameComplete .. | .portDisable .. | .laneRetire .. => true
  | _ => false

/-- DESC_COUNTER (R147, R430): each pair is latched and, with CLR, zeroed; the increments of the tick come first. -/
def execDescCounter (r : RingRef) (s : State) : Out :=
  if comes s countsPairs then .next s else
  descRow r (fun d => decide (dOp d = 3)) false (fun k w s =>
    let first := fld (dWord w.desc 0) 19 0
    let n := clampTo 1 4096 (fld (dWord w.desc 4) 12 0)
    let lim := match ringSlice k with
      | none => (0, 1048576)
      | some sl => (fld (slice s sl).res1 19 0, fld (slice s sl).res1 40 20)
    if lim.2 < first + n then workRefused k w 2 s
    else
      let is := (List.range n).map (fun i => lim.1 + first + i)
      let bs := is.flatMap (fun i =>
        let c := mget (0, 0) s.sen.cnt i
        leBytes 8 c.1.toNat ++ leBytes 8 c.2.toNat)
      let s := if bit (dWord w.desc 0) 20 then
          { s with sen := { s.sen with cnt := is.foldl (fun m i => mdel m i) s.sen.cnt } }
        else s
      workEnd k w (fun e => { e with dst := (dWord w.desc 2).toNat, data := bs }) s) s

/-- The thread an OP 4 names. -/
def descThread (d : BitVec 512) : Nat := 640 * fld (dWord d 4) 2 0 + min 639 (fld (dWord d 4) 12 3)

/-- ACTION of an OP 4: code 3 takes 0. -/
def descAction (d : BitVec 512) : Nat := fld (dWord d 0) 1 0 % 3

/-- An OP 4 applied to a thread its ring may name, or refused (R430). -/
def descSvc (r : RingRef) (action : Nat) (f : Nat → BitVec 512 → State → State) (s : State) : Out :=
  descRow r (fun d => decide (dOp d = 4) && decide (descAction d = action)) false (fun k w s =>
    let t := descThread w.desc
    let ok := match ringSlice k with
      | none => true
      | some n => rbit s R.SEN_SVC_CTL t 47 && decide (rfld s R.SEN_SVC_CTL t 43 32 = n)
    if ok then workEnd k w id (f t w.desc s) else workRefused k w 3 s) s

/-- DESC_SVC_START (R101, R430). -/
def execDescSvcStart (r : RingRef) (s : State) : Out :=
  descSvc r 0 (fun t d s => svcStart t (rsetF s R.SEN_SVC_CTL t 63 48 (fld (dWord d 5) 15 0))) s

/-- DESC_SVC_STOP (R101, R430). -/
def execDescSvcStop (r : RingRef) (s : State) : Out := descSvc r 1 (fun t _ s => svcStop t s) s

/-- DESC_SVC_WAKE (R104, R430): an inbox entry with SOURCE 1. -/
def execDescSvcWake (r : RingRef) (s : State) : Out :=
  descSvc r 2 (fun t d s => sendInbox (t / 640) (t % 640) 1 (BitVec.ofNat 32 (fld (dWord d 4) 44 13)) none s) s

/-- DESC_ALLOC (R335, R430), in its turn (R337). -/
def execDescAlloc (r : RingRef) (s : State) : Out :=
  if bpmTurn s 1 (ringReq (ringKey r)) = false then .next s else
  descRow r (fun d => decide (dOp d = 5)) false (fun k w s =>
    let m := fld (dWord w.desc 4) 31 16
    let mask := match ringSlice k with | some n => sliceMask s n m | none => m
    let a := bpmAllocate (ringReq k) (allocSize w.desc) mask s
    match a.2.1 with
    | some (n, i) => workEnd k w (fun e => { e with res0 := BitVec.ofNat 64 (billetKey n i),
                                                    res1 := BitVec.ofNat 64 (billetAddr a.2.2 n i) }) a.2.2
    | none => workEnd k w (fun e => { e with status := 5, detail := a.1 }) a.2.2) s

/-- A billet operation of an OP 6, and what the read of the tag met: STATUS 5 with the result code where the BPM refuses it
(R341, R386, R432). -/
def descBillet (k : Nat) (w : Work) (op : BilletOp) (o : ReadOutcome) (s : State) : State :=
  let h := dWord w.desc 4
  let a := bpmOp op (ringReq k) (fld h 35 32) (fld h 31 0) o s
  workEnd k w (fun e => if a.1 = 1 then e else { e with status := 5, detail := a.1 }) a.2

/-- DESC_RELEASE (R341, R430), in its turn (R337). -/
def execDescRelease (r : TaggedRing) (s : State) : Out :=
  if bpmTurn s 0 (ringReq (ringKey r.ring)) = false then .next s else
  descRow r.ring (fun d => decide (dOp d = 6) && !bit (dWord d 5) 0) false (fun k w s => descBillet k w .release r.tag s) s

/-- DESC_TRANSFER (R341, R430), in its turn (R337). -/
def execDescTransfer (r : TaggedRing) (s : State) : Out :=
  if bpmTurn s 0 (ringReq (ringKey r.ring)) = false then .next s else
  descRow r.ring (fun d => decide (dOp d = 6) && bit (dWord d 5) 0) false
    (fun k w s => descBillet k w (.transfer (fld (dWord w.desc 5) 29 16)) r.tag s) s

/-- DESC_RX_POST (R440): the work holds a receive buffer until a packet fills it or the ring is disabled. -/
def execDescRxPost (r : RingRef) (s : State) : Out := descRow r (fun d => decide (dOp d = 7)) false (fun _ _ s => s) s

/-! ### Faults and timeouts (R395, R438) -/

/-- A completion that is still to be written of a work that has ended, and not of an orphan's (R438). -/
def endedWork (x : Ring) (pos : Nat) (e : Ended) : Bool :=
  decide (e.pos = pos) && x.works.all (fun w => decide (w.ord ≠ e.ord))

/-- DMA_FAULT (R395, R432): a DMA request of the work at a position fails. Work whose output was being written, work
in flight, or the descriptor about to start ends with STATUS 2; an orphan's result is lost either way, and its STATUS 3
stands. A receive buffer makes no request before a packet fills it. -/
def execDmaFault (r : RingRef) (pos : RingPos) (addr : Word) (s : State) : Out :=
  let k := ringKey r
  let s := dmaFailed (ringSlice k) addr s
  let x := ring s k
  let fault (e : Ended) : Ended := { e with status := 2, detail := 0, res0 := 0, res1 := 0, data := [] }
  if x.ended.any (endedWork x pos.val) then
    .next (setRing k { x with ended := x.ended.map (fun e => if endedWork x pos.val e then fault e else e) } s)
  else match x.works.find? (fun w => decide (w.pos = pos.val ∧ dOp w.desc ≠ 7)) with
    | some w =>
      if w.orphan then
        .next (setRing k { x with works := x.works.map (fun y => if y.wid = w.wid then { y with finished := true } else y) } s)
      else .next (workEnd k w fault s)
    | none =>
      match x.fetched with
      | d :: _ =>
        if x.sqHead = pos.val ∧ startable s k d = true then
          let t := startWork k d s
          .next (workEnd k t.1 fault t.2)
        else .next s
      | [] => .next s

/-- WORK_TIMEOUT (R438): a work has not ended by its deadline; a completion with STATUS 3 takes the place of its
result. -/
def execWorkTimeout (r : RingRef) (pos : RingPos) (s : State) : Out :=
  let k := ringKey r
  let x := ring s k
  match x.works.find? (fun w => decide (w.pos = pos.val) && !w.orphan && w.deadline.any (timeUp s)) with
  | some w =>
    let x := ringErr 63 48 { x with
      works := x.works.map (fun y => if y.wid = w.wid then { y with orphan := true } else y)
      ended := insertEnded { endOf s w with status := 3 } x.ended }
    .next (setRing k x s)
  | none => .next s

/-- ORPHAN_END (R438): an orphan's engine has finished; its result is discarded and counted. -/
def execOrphanEnd (r : RingRef) (pos : RingPos) (s : State) : Out :=
  let k := ringKey r
  let x := ring s k
  match x.works.find? (fun w => decide (w.pos = pos.val) && w.orphan && w.finished) with
  | some w => .next (setRing k (ringErr 47 32 { x with works := x.works.filter (fun y => decide (y.wid ≠ w.wid)) }) s)
  | none => .next s

end Sys2Proof.Machine
end

