-- ==== Sys2Proof/Machine/Cph.lean ====
section
/-! DEFINITION. The cipher engine: the key lock and key commands (R447 to R454, R466), look-aside requests and the
scheduler (R455 to R459), the CIPH instruction (R138 to R141), and core retirement (R467). -/

namespace Sys2Proof.Machine
open Sys2Proof

/-! ### Key lock (R447, R448) -/

/-- OWNER of the key lock: 0 none, 1 PF0, 2 the Hearth. -/
def keyOwner (s : State) : Nat := rfld s R.CPH_KEY_LOCK 0 63 62

/-- OWNER of the key lock set. -/
def setKeyOwner (v : Nat) (s : State) : State := rsetF s R.CPH_KEY_LOCK 0 63 62 v

/-- A write to an rw/l field without the key lock: ignored and recorded with the lock's owner (R4, R542). -/
def keyLockViolation (off : Nat) (s : State) : State :=
  errReport 6 6 15 0 0 (BitVec.ofNat 64 (keyOwner s * 2 ^ 62 + off)) s

/-- KEY_LOCK_CLAIM (R447, R448). LOST clears where the write sets its bit. -/
def execKeyLockClaim (v : Word) (s : State) : Out :=
  let s := hostStore false R.CPH_KEY_LOCK 0 v s
  .next (if bit v 0 = true ∧ keyOwner s = 0 then setKeyOwner 1 s else s)

/-- KEY_LOCK_RELEASE (R448). -/
def execKeyLockRelease (v : Word) (s : State) : Out :=
  let s := hostStore false R.CPH_KEY_LOCK 0 v s
  .next (if bit v 1 = true ∧ keyOwner s = 1 then setKeyOwner 0 s else s)

/-- PF0's FLR releases the lock PF0 holds, after any command in progress (R448). -/
def keyLockFlr (s : State) : State :=
  if keyOwner s = 1 then
    match s.cph.job with
    | some j => withCph (fun c => { c with job := some { j with release := true } }) s
    | none => setKeyOwner 0 s
  else s

/-! ### Slots and their versions (R442, R445, R452, R453) -/

/-- The requests the scheduler has accepted. -/
def accepted (s : State) : List CphReq := s.cph.queue ++ s.cph.running.map (fun e => e.2)

/-- Accepted requests that hold a version of a slot. -/
def holds (s : State) (slot version : Nat) : Bool :=
  (accepted s).any (fun q => decide (q.slot = slot) && decide (q.version = version))

/-- Versions held by accepted requests and no longer current: the store of retired versions (R452). -/
def retiredVersions (s : State) : Nat :=
  (((accepted s).map (fun q => (q.slot, q.version))).dedup.filter (fun e => decide (e.2 ≠ (slotOf s e.1).version))).length

/-- Derived entries of a version that is neither current nor held are zeroised (R445, R453). -/
def purge (s : State) : State :=
  withCph (fun c => { c with cache := c.cache.filter (fun d =>
    decide (d.version = (slotOf s d.slot).version) || holds s d.slot d.version) }) s

/-- A slot rewritten: a new version, a fresh guard, no storage error (R452 to R454). -/
def putSlot (n : Nat) (x : Slot) (s : State) : State :=
  purge (withCph (fun c => { c with
    slots := mset Slot.empty c.slots n x
    guards := mdel c.guards n
    bad := c.bad.filter (fun b => decide (b ≠ n))
    nextVersion := c.nextVersion + 1 }) s)

/-- The version of an occupied slot finds no room in the store of 4,096 retired versions (R452). -/
def mustWait (s : State) (n : Nat) : Bool := decide ((slotOf s n).kind ≠ 0) && decide (4096 ≤ retiredVersions s)

/-- The 64 bytes of CPH_KEY_DATA, byte 0 in [63:56] of word 0 (R449). -/
def keyData (s : State) : Bytes := (List.range 8).flatMap (fun i => beBytes 8 (rget s R.CPH_KEY_DATA i).toNat)

/-- Bytes into CPH_KEY_DATA from byte 0. -/
def setKeyData (bs : Bytes) (s : State) : State :=
  (List.range 8).foldl (fun s i => rset s R.CPH_KEY_DATA i (BitVec.ofNat 64 (beNat ((bs.drop (8 * i)).take 8)))) s

/-- The slot that the staging registers describe, with a key and a salt; only a direct slot holds a salt (R442,
R449). -/
def stagedSlot (s : State) (kind : Nat) (key salt : Bytes) : Slot :=
  let a := rget s R.CPH_KEY_ATTR 0
  { kind := kind, wrappable := bit a 61, macsec := bit a 60, usage := fld a 55 48, key := key,
    salt := if kind = 1 then salt else [], version := s.cph.nextVersion + 1 }

/-- The 48-byte block of a slot (R451). -/
def slotBlock (x : Slot) : Bytes :=
  fitBytes 32 x.key ++ fitBytes 12 x.salt ++
    [BitVec.ofNat 8 (x.kind + x.wrappable.toNat * 4 + x.macsec.toNat * 8), BitVec.ofNat 8 x.usage, 0, 0]

/-- The slot a 48-byte block describes (R451). -/
def blockSlot (s : State) (bs : Bytes) : Slot :=
  let a := (byteAt bs 44).toNat
  { kind := a % 4, wrappable := a.testBit 2, macsec := a.testBit 3, usage := (byteAt bs 45).toNat, key := bs.take 32,
    salt := if a % 4 = 1 then (bs.drop 32).take 12 else [], version := s.cph.nextVersion + 1 }

/-- What became of a key command: it waits for room, ended with a RESULT, or goes on as an erase of a slot. -/
inductive KeyEffect
  | wait
  | done (result : Nat) (s : State)
  | erasing (slot : Nat) (s : State)

/-- A command that may put a request before the scheduler. -/
def asksCipher (i : Instr) : Bool :=
  match i with
  | .ciph .. | .descCipher .. => true
  | _ => false

/-- A request for a slot has arrived on this tick, or may yet: it is accepted with the slot's old version (R453). -/
def asksSlot (s : State) (n : Nat) : Bool :=
  s.cph.arrived.any (fun q => decide (q.slot = n)) || comes s asksCipher

/-- A slot written by an install, a derive or an unwrap (R451): KIND 0 is an erase. The requests of the tick come first
(R10, R453); `last` says that they have. -/
def keyWrite (last : Bool) (n : Nat) (x : Slot) (s : State) : KeyEffect :=
  if mustWait s n || (!last && asksSlot s n) then .wait
  else if x.kind = 0 then
    if (slotOf s n).kind = 0 then .done 3 s else .erasing n (putSlot n Slot.empty s)
  else .done 1 (putSlot n x s)

/-- The effect of a key command (R451). -/
def keyEffect (last : Bool) (op slot slot2 : Nat) (s : State) : KeyEffect :=
  let x := slotOf s slot
  let y := slotOf s slot2
  match op with
  | 0 => .done 1 (rset s R.CPH_KEY_ATTR 0 (BitVec.ofNat 64 (x.kind * 2 ^ 62 + x.wrappable.toNat * 2 ^ 61 +
      x.macsec.toNat * 2 ^ 60 + x.usage * 2 ^ 48)))
  | 1 =>
    let bs := keyData s
    keyWrite last slot (stagedSlot s (rfld s R.CPH_KEY_ATTR 0 63 62) (bs.take 32) ((bs.drop 32).take 12)) s
  | 2 => if x.kind = 0 then .done 3 s else keyWrite last slot Slot.empty s
  | 3 =>
    if x.kind = 0 then .done 3 s
    else if x.kind ≠ 2 then .done 4 s
    else
      let d := derive x.key (rget s R.CPH_KEY_LABEL 0).toNat 3 0
      keyWrite last slot2 (stagedSlot s 1 d.1 d.2) s
  | 4 =>
    if x.kind = 0 then .done 3 s
    else if y.kind ≠ 3 then .done 4 s
    else if x.wrappable = false then .done 5 s
    else .done 1 (setKeyData (fitBytes 56 (Config.keyWrap y.key (slotBlock x)) ++ (keyData s).drop 56) s)
  | _ =>
    if y.kind ≠ 3 then .done 4 s
    else match Config.keyUnwrap y.key ((keyData s).take 56) with
      | none => .done 6 s
      | some bs => keyWrite last slot (blockSlot s (fitBytes 48 bs)) s

/-- A key job that has not taken effect tries to; an erase empties the slot and goes on (R451 to R453). -/
def keyTry (last : Bool) (j : KeyJob) (s : State) : State :=
  let put (j : KeyJob) (s : State) := withCph (fun c => { c with job := some j }) s
  match keyEffect last j.op j.slot j.slot2 s with
  | .wait => put j s
  | .done r t => put { j with result := some r } t
  | .erasing n t => put { j with result := some 1, erase := some n } t

/-- A write of CPH_KEY_CMD with a given OP (R450): ignored while BUSY is 1; without the lock its fields are ignored
and recorded, and GO sets RESULT 2. -/
def keyCmd (op : Nat) (v : Word) (s : State) : State :=
  if rbit s R.CPH_KEY_CMD 0 63 then s
  else if keyOwner s ≠ 1 then
    let s := keyLockViolation (regAddr R.CPH_KEY_CMD 0) s
    if bit v 0 then rsetF s R.CPH_KEY_CMD 0 62 59 2 else s
  else
    let s := hostStore true R.CPH_KEY_CMD 0 (setFld v 55 52 op) s
    if bit v 0 then
      let s := occur 6 3 op 1 (rsetF (rsetF s R.CPH_KEY_CMD 0 63 63 1) R.CPH_KEY_CMD 0 62 59 0)
      keyTry false ⟨op, fld v 47 32, fld v 31 16, none, none, false, false⟩ s
    else s

/-- KEY_READ (R451). -/
def execKeyRead (v : Word) (s : State) : Out := .next (keyCmd 0 v s)
/-- KEY_INSTALL (R451 to R453). -/
def execKeyInstall (v : Word) (s : State) : Out := .next (keyCmd 1 v s)
/-- KEY_ERASE (R451, R453). -/
def execKeyErase (v : Word) (s : State) : Out := .next (keyCmd 2 v s)
/-- KEY_DERIVE (R444, R451). -/
def execKeyDerive (v : Word) (s : State) : Out := .next (keyCmd 3 v s)
/-- KEY_WRAP (R451). -/
def execKeyWrap (v : Word) (s : State) : Out := .next (keyCmd 4 v s)
/-- KEY_UNWRAP (R451). -/
def execKeyUnwrap (v : Word) (s : State) : Out := .next (keyCmd 5 v s)

/-- A key command ends: BUSY 0 and RESULT, and the lock released where that waited for it (R448, R450, R466). -/
def keyEnd (j : KeyJob) (r : Nat) (s : State) : State :=
  let s := withCph (fun c => { c with job := none }) s
  let s := if j.recover then setKeyOwner 0 (cphNotice 6 (j.slot * 2 ^ 16) s)
           else rsetF (rsetF s R.CPH_KEY_CMD 0 63 63 0) R.CPH_KEY_CMD 0 62 59 r
  if j.release && decide (keyOwner s = 1) then setKeyOwner 0 s else s

/-- KEY_COMMAND_DONE (R451, R452): BUSY clears; a command that waited for room first takes effect if there is some. -/
def execKeyCommandDone (s : State) : Out :=
  match s.cph.job with
  | some j =>
    let s := if j.result = none then keyTry false j s else s
    match s.cph.job with
    | some j =>
      match j.result, j.erase with
      | some r, none => .next (keyEnd j r s)
      | _, _ => .next s
    | none => .next s
  | none => .next s

/-- ERASE_COMPLETE (R453, R463, R464): once no accepted request names the slot, its derived entries and the SA copies
are zeroised, the notice is raised and BUSY clears. -/
def execEraseComplete (s : State) : Out :=
  match s.cph.job with
  | some j =>
    match j.erase with
    | some n =>
      if (accepted s).any (fun q => decide (q.slot = n)) then .next s
      else .next (keyEnd j 1 (cphNotice 5 (n * 2 ^ 16) (purge (saErase n s))))
    | none => .next s
  | none => .next s

/-- SLOT_ECC_ERROR (R466): the slot refuses new requests, and the error is reported with the slot. -/
def execSlotEccError (slot : KeySlot) (s : State) : Out :=
  let n := slot.val
  if s.cph.bad.contains n then .next s
  else .next (errReport 2 6 15 0 0 (BitVec.ofNat 64 n)
    (withCph (fun c => { c with bad := n :: c.bad, recover := c.recover ++ [n] }) s))

/-- SLOT_RECOVERY (R452, R466): with no command in progress, and room for a version that the erase retires, the Hearth
takes the lock, from PF0 too, and erases the slot. -/
def execSlotRecovery (slot : KeySlot) (s : State) : Out :=
  let n := slot.val
  if s.cph.job = none ∧ s.cph.recover.contains n = true ∧ s.mgmtDown = false ∧ mustWait s n = false then
    let s := withCph (fun c => { c with recover := c.recover.filter (fun b => decide (b ≠ n)) }) s
    let s := if keyOwner s = 1 then rsetF s R.CPH_KEY_LOCK 0 61 61 1 else s
    let s := setKeyOwner 2 s
    .next (withCph (fun c => { c with job := some ⟨2, n, 0, some 1, some n, true, false⟩ }) (putSlot n Slot.empty s))
  else .next s

/-! ### Guards and acceptance (R443, R445, R455, R456) -/

/-- The IV guard's judgement of an IV: 0 accept, 3 repeated or behind the window, 4 exhausted (R455). -/
def guardCheck (g : Guard) (v : Nat) : Nat :=
  match g.high with
  | none => 0
  | some h =>
    if h = 2 ^ 64 - 1 then 4
    else if h < v then 0
    else if h < v + 1024 ∧ g.seen.contains v = false then 0
    else 3

/-- A guard after an accepted IV: the highest, and those accepted of the 1,024 up to it (R455). -/
def guardAccept (g : Guard) (v : Nat) : Guard :=
  match g.high with
  | none => { g with high := some v, seen := [v] }
  | some h => if h < v then { g with high := some v, seen := v :: g.seen.filter (fun u => decide (v < u + 1024)) }
              else { g with seen := v :: g.seen }

/-- The derived entry of a slot and label under the slot's current key. -/
def derivedOf (s : State) (q : CphReq) : Option (Derived × List Derived) :=
  takeFirst (fun d => decide (d.slot = q.slot) && decide (d.label = q.label) &&
    decide (d.version = (slotOf s q.slot).version)) s.cph.cache

/-- The guard an encrypting request is checked against. -/
def guardOf (s : State) (q : CphReq) : Guard :=
  if (slotOf s q.slot).kind = 2 then (match derivedOf s q with | some (d, _) => d.guard | none => Guard.init)
  else mget Guard.init s.cph.guards q.slot

/-- Pinned entries of the derived-key cache (R446). -/
def pinned (s : State) : Nat := s.cph.cache.countP (fun d => d.pinned)

/-- An FN that encrypts under an IV: 0 and 2 (R455). -/
def encrypts (fn : Nat) : Bool := decide (fn = 0 ∨ fn = 2)

/-- The refusal code of a request, 0 where it is accepted: the first of R456 that applies. -/
def refusal (s : State) (q : CphReq) : Nat :=
  let x := slotOf s q.slot
  if x.kind = 0 ∨ s.cph.bad.contains q.slot = true then 1
  else if x.kind = 3 ∨ x.macsec = true ∨ x.usage.testBit q.fn = false then 2
  else if encrypts q.fn = true ∧ guardCheck (guardOf s q) q.iv = 3 then 3
  else if encrypts q.fn = true ∧ guardCheck (guardOf s q) q.iv = 4 then 4
  else if encrypts q.fn = true ∧ x.kind = 2 ∧ (match derivedOf s q with | some (d, _) => d.pinned | none => false) = false ∧
      126976 ≤ pinned s then 5
  else if q.badLen then 6
  else if rfld s R.CPH_CORE_STAT 0 5 0 = 0 then 7
  else 0

/-- The derived-key cache with an entry as the most recently used, the least recently used unpinned entry making room
(R445). -/
def cacheInsert (d : Derived) (ds : List Derived) : List Derived :=
  if ds.length < 131072 then d :: ds
  else match takeFirst (fun e => !e.pinned) ds.reverse with
    | some (_, rest) => d :: rest.reverse
    | none => d :: ds

/-- Notices of an accepted IV (R455, R464): TYPE 3 when one is first at or above the threshold, TYPE 4 on the last. -/
def ivNotices (q : CphReq) (label : Nat) (g : Guard) (s : State) : State :=
  let low := label % 2 ^ 28 * 2 ^ 32 + q.slot * 2 ^ 16
  let s := if g.warned = false ∧ (rget s R.CPH_GUARD_WARN 0).toNat ≤ q.iv then cphNotice 3 low s else s
  if q.iv = 2 ^ 64 - 1 then cphNotice 4 low s else s

/-- The guard once an IV has been accepted, the warning noted. -/
def guardNext (s : State) (g : Guard) (v : Nat) : Guard :=
  let h := guardAccept g v
  { h with warned := g.warned || decide ((rget s R.CPH_GUARD_WARN 0).toNat ≤ v) }

/-- A request accepted (R445, R452, R455): its key and salt are captured, from the derived cache for a root slot. -/
def acceptReq (q : CphReq) (s : State) : State :=
  let x := slotOf s q.slot
  let g := guardOf s q
  let enc := encrypts q.fn
  let g' := if enc then guardNext s g q.iv else g
  if x.kind = 2 then
    let hit := derivedOf s q
    let s := if hit.isNone then rcount s R.CPH_CACHE_STAT 0 31 0 1 else s
    let k := derive x.key q.label 1 0
    let d : Derived := match hit with
      | some (d, _) => d
      | none => ⟨q.slot, q.label, x.version, k.1, k.2, false, Guard.init⟩
    let d := { d with pinned := d.pinned || enc, guard := g' }
    let rest := match hit with | some (_, r) => r | none => s.cph.cache
    let q := { q with key := d.key, salt := d.salt, version := x.version }
    let s := withCph (fun c => { c with cache := cacheInsert d rest, queue := c.queue ++ [q] }) s
    if enc then ivNotices q q.label g s else s
  else
    let q := { q with key := x.key, salt := x.salt, version := x.version }
    let s := withCph (fun c => { c with guards := mset Guard.init c.guards q.slot g', queue := c.queue ++ [q] }) s
    if enc then ivNotices q 0 g s else s

/-- The place of a request in the order of acceptance of R456: requests of an earlier tick first; on one tick programs
by thread, then PF0, then slices. -/
def acceptRank (q : CphReq) : Nat × Nat :=
  (q.tick, match q.src with
    | .prog k _ => k
    | .host r _ => if r < pf0Ring then 2 ^ 24 + r / 64 else 2 ^ 23)

/-- The arrived request that is judged next, and the others. -/
def nextArrived : List CphReq → Option (CphReq × List CphReq)
  | [] => none
  | q :: t =>
    match nextArrived t with
    | none => some (q, [])
    | some (r, rest) =>
      let a := acceptRank q
      let b := acceptRank r
      if a.1 < b.1 ∨ (a.1 = b.1 ∧ a.2 ≤ b.2) then some (q, t) else some (r, q :: rest)

/-! ### Results (R138, R139, R457) -/

/-- What an operation comes to: the region after it and the tag to append, or a failed verification. -/
inductive CphOut
  | ok (region tag : Bytes)
  | bad
deriving DecidableEq, Repr

/-- The operation of R138 on a request's additional data and protected region. -/
def cipherRun (q : CphReq) : CphOut :=
  let nonce := q.salt.take 4 ++ beBytes 8 q.iv
  let n := tagLen q.fn
  let body := q.region.take (q.region.length - n)
  let tag := q.region.drop (q.region.length - n)
  let check (want : Bytes) (out : Bytes) : CphOut := if n ≤ q.region.length ∧ tag = want then .ok out [] else .bad
  match q.fn with
  | 0 =>
    let ct := gcmXor q.key nonce q.region
    .ok ct (gcmIcv q.key nonce q.aad ct)
  | 1 => check (gcmIcv q.key nonce q.aad body) (gcmXor q.key nonce body)
  | 2 => .ok q.region (fitBytes 16 (Config.gmac q.key nonce (q.aad ++ q.region)))
  | 3 => check (fitBytes 16 (Config.gmac q.key nonce (q.aad ++ body))) body
  | 4 => .ok q.region (fitBytes 16 (Config.cmac q.key (q.aad ++ q.region)))
  | 5 => check (fitBytes 16 (Config.cmac q.key (q.aad ++ body))) body
  | 6 => .ok q.region (fitBytes 32 (Config.kmac256 q.key (q.aad ++ q.region) [] 32))
  | _ => check (fitBytes 32 (Config.kmac256 q.key (q.aad ++ body) [] 32)) body

/-- The outstanding CIPH of a thread with a work number. -/
def cipherReq (t : Thread) (wid : Nat) : Option Req :=
  t.reqs.find? (fun r => match r.kind with | .cipher _ _ _ _ w => decide (w = wid) | _ => false)

/-- The frame of a thread once a CIPH has succeeded (R127, R138). Of the frame as it then stands, FN 0 and 1 replace the
`n` bytes from EOFF that the request covered, FN 3, 5 and 7 remove the tag at their end, and FN 0, 2, 4 and 6 append
theirs. Where another CIPH of the thread has returned in between, its change stands beside this one: DESIGN CHOICE (log
61), since no rule says what two overlapping requests leave. -/
def cipherFrame (p : Packet) (fn eoff n : Nat) (region tag : Bytes) : Packet :=
  let bs := frameBytes p
  let mid := (bs.drop eoff).take n
  let new := if fn < 2 then region else if fn % 2 = 0 then mid else mid.take (n - tagLen fn)
  let all := bs.take eoff ++ new ++ bs.drop (eoff + n)
  let w := p.win.length
  appendBytes (setFrameLen { p with win := all.take w, tail := all.drop w } all.length) tag

/-- A CIPH returns to its thread: STATUS and REFUSE_CODE in rd, the frame change, and exception 6 where XR asks for it
(R138, R139, R141). -/
def progReturn (k wid status code : Nat) (out : Option (Nat × Bytes × Bytes)) (s : State) : State :=
  let t := thr s k
  match cipherReq t wid with
  | none => s
  | some r =>
    match r.kind with
    | .cipher fn _ eoff xr _ =>
      let t := reqDone t r (BitVec.ofNat 64 (code * 256 + status)) 0
      let t := match out with
        | some (n, rg, tg) => { t with pkt := cipherFrame t.pkt fn eoff n rg tg }
        | none => t
      settle k (setThr s k { t with exc6 := t.exc6 || (xr && decide (status = 2)) })
    | _ => s

/-- Work of an earlier generation ends inside the device: nothing leaves it (R409). -/
def oldEnds (wid : Nat) (s : State) : State :=
  withHif (fun h => { h with old := h.old.filter (fun e => decide (e.1 ≠ wid)) }) s

/-- A request's result reaches the work of its descriptor: an orphan's is kept back for ORPHAN_END, and one of an
earlier generation is discarded (R409, R438). -/
def hostReturn (k wid : Nat) (f : Work → Ended → Ended) (s : State) : State :=
  let x := ring s k
  match x.works.find? (fun w => decide (w.wid = wid)) with
  | some w =>
    if w.orphan then
      setRing k { x with works := x.works.map (fun y => if y.wid = wid then { y with finished := true } else y) } s
    else workEnd k w (f w) s
  | none => oldEnds wid s

/-- A refused request returns (R456). -/
def refuseReq (q : CphReq) (code : Nat) (s : State) : State :=
  let s := occur 6 2 code 1 (rcount s R.CPH_REFUSE_CNT code 31 0 1)
  match q.src with
  | .prog k wid => progReturn k wid 2 code none s
  | .host k wid => hostReturn k wid (fun _ e => { e with status := 1, detail := 16 + code }) s

/-- A request that has arrived is accepted or refused, the others being `rest` (R455, R456). -/
def judgeReq (q : CphReq) (rest : List CphReq) (s : State) : State :=
  let s := withCph (fun c => { c with arrived := rest }) s
  let r := refusal s q
  if r = 0 then occur 6 1 q.fn 1 (acceptReq q s) else refuseReq q r s

/-- CIPHER_REQUEST_ACCEPT (R455, R456): the next request that has arrived is accepted or refused; one of this tick waits for
the tick's other requests, whose order R456 gives. -/
def execCipherRequestAccept (s : State) : Out :=
  match nextArrived s.cph.arrived with
  | none => .next s
  | some (q, rest) =>
    .next (if q.tick = s.tau.mono ∧ comes s asksCipher = true then s else judgeReq q rest s)

/-- The next request that has arrived is judged. -/
def acceptNext (s : State) : State :=
  match nextArrived s.cph.arrived with
  | some (q, rest) => judgeReq q rest s
  | none => s

/-- A key command that has not taken effect tries to, the requests of the tick accepted. -/
def keyRetry (s : State) : State :=
  match s.cph.job with
  | some j => if j.result = none then keyTry true j s else s
  | none => s

/-- The end of a tick: every request that arrived on it is accepted or refused (R456), and a key command that waited for
them takes effect (R453). -/
def cphEnd (s : State) : State := keyRetry (s.cph.arrived.foldl (fun s _ => acceptNext s) s)

/-! ### The scheduler and the cores (R458, R459, R467) -/

/-- Source of a request: 0 programs, 1 PF0, 2 slices. -/
def srcOf (q : CphReq) : Nat :=
  match q.src with
  | .prog _ _ => 0
  | .host r _ => if r < pf0Ring then 2 else 1

/-- Slice of a request of a slice. -/
def srcSlice (q : CphReq) : Nat := match q.src with | .host r _ => r / 64 | .prog _ _ => 0

/-- Bytes a request processes. -/
def reqCost (q : CphReq) : Nat := q.aad.length + q.region.length

/-- The member of `cs` after `c` in a round. -/
def roundNext (cs : List Nat) (c : Nat) : Nat :=
  match cs.find? (fun n => decide (c < n)) with | some n => n | none => cs.headD 0

/-- Rounds of a deficit round robin until one member's deficit covers its head. -/
def drrRounds (cost quantum : Nat → Nat) (cs : List Nat) : Nat → Nat → SMap Nat → Nat × SMap Nat
  | 0, c, m => (c, m)
  | f + 1, c, m =>
    let n := roundNext cs c
    let m := mset 0 m n (mget 0 m n + quantum n)
    if cost n ≤ mget 0 m n then (n, m) else drrRounds cost quantum cs f n m

/-- The member a deficit round robin serves: the last served while its deficit covers its head, otherwise the next
whose deficit does (R458). -/
def drrServe (cost quantum : Nat → Nat) (cs : List Nat) (last : Nat) (m : SMap Nat) : Nat × SMap Nat :=
  let r := if cs.contains last ∧ cost last ≤ mget 0 m last then (last, m)
    else drrRounds cost quantum cs (cs.length * 130) last m
  (r.1, mset 0 r.2 r.1 (mget 0 r.2 r.1 - cost r.1))

/-- The first request of the queue that meets a test, with the others. -/
def headOf (s : State) (p : CphReq → Bool) : Option (CphReq × List CphReq) := takeFirst p s.cph.queue

/-- The slices with waiting requests, as members 4 + slice, rising. -/
def waitingSlices (s : State) : List Nat :=
  sortNat (((s.cph.queue.filter (fun q => decide (srcOf q = 2))).map (fun q => 4 + srcSlice q)).dedup)

/-- The request the scheduler dispatches next, with the scheduler after it (R458). -/
def schedule (s : State) : Option (CphReq × State) :=
  let cost (p : CphReq → Bool) : Nat := match headOf s p with | some (q, _) => reqCost q | none => 0
  let ofSlice (m : Nat) (q : CphReq) : Bool := decide (srcOf q = 2) && decide (4 + srcSlice q = m)
  let sls := waitingSlices s
  let sp := drrServe (fun m => cost (ofSlice m)) (fun m => 1024 * fld (slice s (m - 4)).res0 55 48) sls
    (4 + s.cph.lastSlice) s.cph.defs
  let pick (i : Nat) (q : CphReq) : Bool := if i = 2 then ofSlice sp.1 q else decide (srcOf q = i)
  let srcs := [0, 1, 2].filter (fun i => s.cph.queue.any (fun q => decide (srcOf q = i)))
  let quantum (i : Nat) := 1024 * (if i = 0 then rfld s R.CPH_SCHED_CFG 0 15 8
    else if i = 1 then rfld s R.CPH_SCHED_CFG 0 23 16 else rfld s R.CPH_SCHED_CFG 0 7 0)
  if srcs = [] then none
  else
    let defs := if srcs.contains 2 then sp.2 else s.cph.defs
    let r := drrServe (fun i => cost (pick i)) quantum srcs s.cph.lastSrc defs
    let m := if r.1 = 2 then r.2 else
      r.2.filter (fun e => decide (e.1 < 4)) ++ s.cph.defs.filter (fun e => decide (4 ≤ e.1))
    match headOf s (pick r.1) with
    | none => none
    | some (q, rest) =>
      let more (p : CphReq → Bool) : Bool := rest.any p
      let m := if more (fun x => decide (srcOf x = r.1)) then m else mset 0 m r.1 0
      let m := if r.1 = 2 ∧ more (ofSlice sp.1) = false then mset 0 m sp.1 0 else m
      let ls := if r.1 = 2 then sp.1 - 4 else s.cph.lastSlice
      some (q, withCph (fun c => { c with queue := rest, defs := m, lastSrc := r.1, lastSlice := ls }) s)

/-- CIPHER_CORE_DISPATCH (R458): a free live core takes the next request. -/
def execCipherCoreDispatch (k : CoreIdx) (s : State) : Out :=
  if rbit s R.CPH_CORE_RETIRE 0 k.val = false ∧ rfld s R.CPH_CORE_STAT 0 5 0 ≠ 0 ∧ mfind s.cph.running k.val = none then
    match schedule s with
    | some (q, t) => .next (withCph (fun c => { c with running := mput c.running k.val q }) t)
    | none => .next s
  else .next s

/-- CIPHER_REQUEST_END (R405, R409, R459): a core ends its request and the result returns to the thread or the
descriptor. -/
def execCipherRequestEnd (k : CoreIdx) (s : State) : Out :=
  match mfind s.cph.running k.val with
  | none => .next s
  | some q =>
    let s := purge (withCph (fun c => { c with running := mdel c.running k.val }) s)
    let o := cipherRun q
    match q.src with
    | .prog t wid =>
      .next (match o with
        | .ok rg tg => progReturn t wid 0 0 (some (q.region.length, rg, tg)) s
        | .bad => progReturn t wid 1 0 none s)
    | .host r wid =>
      .next (match o with
        | .ok rg tg => hostReturn r wid (fun w e => { e with res0 := BitVec.ofNat 64 (q.aad ++ rg ++ tg).length,
                                                             dst := (dWord w.desc 2).toNat,
                                                             data := q.aad ++ rg ++ tg }) s
        | .bad => hostReturn r wid (fun _ e => { e with status := 4 }) s)

/-- A core's request goes back to the head of the scheduler with its captured key and IV (R467). -/
def coreRestart (k : Nat) (s : State) : State :=
  match mfind s.cph.running k with
  | some q => withCph (fun c => { c with running := mdel c.running k, queue := q :: c.queue }) s
  | none => s

/-- CIPHER_CORE_RETIRE (R467). -/
def execCipherCoreRetire (k : CoreIdx) (sw : Bool) (s : State) : Out :=
  if retireDue s 2 k.val sw then
    let s := coreRestart k.val (retireMark 2 k.val sw 0 s)
    let s := rset s R.CPH_CORE_RETIRE 0 (setBit (rget s R.CPH_CORE_RETIRE 0) k.val true)
    let s := rsetF s R.CPH_CORE_STAT 0 5 0 (rfld s R.CPH_CORE_STAT 0 5 0 - 1)
    .next (cphNotice 7 k.val s)
  else .next s

/-! ### CIPH (R138 to R141) -/

/-- CIPH: the request is sent with the frame as it stands at issue, which waits for the frame to be complete. -/
def execCiph (th : ThreadRef) (f : FmtC) (s : State) : Out :=
  .next (issue th 0x62 (fun w => decide (asC w = f))
    (fun k t s =>
      let fn := f.fn.toNat
      if fn % 2 = 0 ∧ t.pkt.orig + 128 < frameLen t.pkt + tagLen fn then raiseExc k 5 (setThr s k t)
      else
        let eoff := f.eoff.toNat
        let aoff := min f.aoff.toNat eoff
        let bs := frameBytes t.pkt
        let wid := s.hif.nextWork
        let q : CphReq := { src := .prog k wid, tick := s.tau.mono, fn := fn, slot := fld (greg t f.rc.toNat) 15 0,
                            label := (greg t f.rb.toNat).toNat, iv := (greg t f.ra.toNat).toNat,
                            aad := (bs.take eoff).drop aoff, region := bs.drop eoff, badLen := false,
                            key := [], salt := [], version := 0 }
        let s := withHif (fun h => { h with nextWork := h.nextWork + 1 })
          (withCph (fun c => { c with arrived := c.arrived ++ [q] }) s)
        setThr s k (sendReq t ⟨f.tag.toNat, f.rd.toNat, false, .cipher fn aoff eoff (decide (f.xr = 1)) wid⟩)) s)

end Sys2Proof.Machine
end

