-- ==== Sys2Proof/Machine/Errs.lean ====
section
/-! DEFINITION. The error unit (ch. 19): faults blocks report, thresholds and crossings, software retirement, the
record FIFO, interrupts, and the bridge modules. -/

namespace Sys2Proof.Machine
open Sys2Proof

/-! ### Faults (R524, R525) -/

/-- One thread ends as a parity error in its engine ends it (R108, R525): its packet is dropped and counted, or a
service thread halts with EXC 8. A packet already handed on is not dropped. -/
def threadFault (k : Nat) (s : State) : State :=
  let t := thr s k
  if thrLive t then
    if t.svc then haltThr k 8 (occurThr 5 8 k (rcount s R.SEN_EXC_COUNT 8 47 0 1))
    else if t.handed then freeThr s k
    else freeThr (giveUpPlace t.pkt.pid (rcount s R.SEN_RETIRE_DROP 0 47 0 1)) k
  else s

/-- A fault of the channel that a training run holds aborts the run, with RESULT 3 (R381); a fault of an HBM channel is
one of both its pseudo-channels (R528). -/
def faultRun (kind unit : Nat) (s : State) : State :=
  let ends (m : MemCtl) (hit : Nat → Bool) : State :=
    match (memOf s m).run with
    | some (c, _) => if hit c then runEnd m c 3 s else s
    | none => s
  if kind = 5 then ends .mcd (fun c => decide (c = unit))
  else if kind = 6 then ends .mch (fun c => decide (c = unit))
  else if kind = 7 then ends .mch (fun c => decide (c / 2 = unit))
  else s

/-- What a unit fault costs beyond its report (R525): an engine's thread ends, a core's request restarts, the port of a
lane loses LINK, and a run of a memory channel is aborted. -/
def faultCost (kind unit context : Nat) (s : State) : State :=
  if kind = 1 then threadFault (640 * (unit / 80) + 8 * (unit % 80) + context) s
  else if kind = 2 then coreRestart unit s
  else if kind = 0 then
    match lanePort s unit with
    | some p => if portEn s p then linkTo p false true false false s else s
    | none => s
  else faultRun kind unit s

/-- FAULT_REPORT (R524, R525): the report, and what a unit fault costs. A retirement is reported by the row that
retires. -/
def execFaultReport (f : FaultFacts) (s : State) : Out :=
  let cls := f.cls.val
  if cls = 4 then .next s
  else
    let kind := if f.kind.val < 10 then f.kind.val else 15
    let unit := if f.kind.val < 10 then min f.unit.val (unitCount f.kind.val - 1) else f.unit.val
    let s := errReport cls f.block.val kind unit f.code.toNat f.detail s
    .next (if cls = 3 then faultCost kind unit f.context.val s else s)

/-! ### Crossings (R529 to R531) -/

/-- Units of a kind that start-up found: of the DDR5 channels, those in use. -/
def kindUnits (s : State) (k : Nat) : Nat := if k = 5 then memChannels s .mcd else unitCount k

/-- Live units of a kind, those about to be retired not counted (R530, R531). -/
def liveUnits (s : State) (k : Nat) : Nat :=
  kindUnits s k - s.err.units.countP (fun e => decide (e.1 / 1024 = k) && decide (e.2.state = 1)) -
    s.err.toRetire.countP (fun e => decide (e.1 / 1024 = k) && !unitRetired s k (e.1 % 1024))

/-- One crossing is judged (R530): the unit is to be retired, or its retirement is withheld and recorded. -/
def judgeCrossing (key : Nat) (s : State) : State :=
  let k := key / 1024
  let u := key % 1024
  if unitRetired s k u ∨ s.err.toRetire.any (fun e => decide (e.1 = key)) = true then s
  else if rbit s R.ERR_THRESH k 63 = true ∧ rfld s R.ERR_THRESH k 55 40 < liveUnits s k then
    { s with err := { s.err with toRetire := s.err.toRetire ++ [(key, none)] } }
  else
    let s := unitSet s k u { unitGet s k u with state := 2 }
    intRaise 2 (errRecord ⟨4, 16, k, u, 0, true, 0, phcNow s, 0⟩ s)

/-- THRESHOLD_CROSSING (R529 to R531): CSQ22 applies the crossings it finds in ascending kind, then ascending unit.
While the management complex restarts (R541), or CSQ22 is faulted (R475), it finds none. -/
def execThresholdCrossing (s : State) : Out :=
  if seqDown s 22 then .next s
  else
    let xs := sortNat s.err.crossed
    .next (xs.foldl (fun s k => judgeCrossing k s) { s with err := { s.err with crossed := [] } })

/-- ERROR_WINDOW_CLOSE (R529): the window's closing tick has passed. -/
def execErrorWindowClose (k : UnitKind) (u : Nat) (s : State) : Out :=
  let x := unitGet s k.val u
  match x.winEnd with
  | some e => if e < s.tau.mono then .next (unitSet s k.val u { x with winEnd := none, winCount := 0 }) else .next s
  | none => .next s

/-- ERR_RETIRE (R536): the unit is retired on the next tick; a UNIT beyond the kind's count is the last, and a KIND
above 9 does nothing. -/
def execErrRetire (v : Word) (s : State) : Out :=
  let k := fld v 19 16
  if bit v 63 && decide (k ≤ 9) then
    let u := min (fld v 9 0) (unitCount k - 1)
    if unitRetired s k u then .next s
    else .next { s with err := { s.err with toRetire := s.err.toRetire ++ [(unitKey k u, some s.tau.mono)] } }
  else .next s

/-- ERR_UNIT_STAT of the unit selected (R537); WIN_COUNT is 0 when no window is open. -/
def unitStatWord (s : State) : Word :=
  let x := unitGet s (rfld s R.ERR_UNIT_SEL 0 19 16) (rfld s R.ERR_UNIT_SEL 0 9 0)
  let w := match x.winEnd with | some e => if s.tau.mono ≤ e then x.winCount else 0 | none => 0
  BitVec.ofNat 64 (x.state * 2 ^ 62 + (x.bySw && decide (x.state = 1)).toNat * 2 ^ 61 + w % 2 ^ 20 * 2 ^ 32 + x.total)

/-- A read of ERR_UNIT_STAT clears TOTAL (R537). -/
def clearTotal (s : State) : State :=
  let k := rfld s R.ERR_UNIT_SEL 0 19 16
  let u := rfld s R.ERR_UNIT_SEL 0 9 0
  unitSet s k u { unitGet s k u with total := 0 }

/-! ### Records and interrupts (R538 to R541) -/

/-- ERR_LOG[0] of a record (R538). -/
def recordWord (r : ErrRec) : Word :=
  BitVec.ofNat 64 (2 ^ 63 + r.cls % 8 * 2 ^ 60 + r.block % 32 * 2 ^ 55 + r.kind % 16 * 2 ^ 51 + r.unit % 1024 * 2 ^ 41 +
    r.code % 256 * 2 ^ 33 + r.withheld.toNat * 2 ^ 32 + r.seq % 65536 * 2 ^ 16)

/-- ERR_LOG_READ (R538): the oldest record is popped, and ERR_LOG[1] and [2] take the rest of it. -/
def execErrLogRead (s : State) : Out :=
  match s.err.fifo with
  | [] => .next (answer 0 (rset (rset s R.ERR_LOG1 0 0) R.ERR_LOG2 0 0))
  | r :: rest =>
    let s := { s with err := { s.err with fifo := rest } }
    .next (answer (recordWord r) (rset (rset s R.ERR_LOG1 0 (secNsWord r.phc)) R.ERR_LOG2 0 r.detail))

/-- The bits of ERR_INT_STAT that a clear of this tick leaves set: those whose source had an event on it (R540). -/
def intKept (s : State) : Word := s.err.seen.foldl (fun w e => setBit w e.1 true) 0

/-- INT_STAT_CLEAR (R539, R540): the bits written with 1 clear, but one with an event on this tick stays set, and where the
event found it set already its vector is raised again. -/
def execIntStatClear (v : Word) (s : State) : Out :=
  let t := alertEdge s (rset s R.ERR_INT_STAT 0 (rget s R.ERR_INT_STAT 0 &&& ~~~ (v &&& ~~~ intKept s)))
  .next (s.err.seen.foldl (fun t e => if e.2 && bit v e.1 && rbit s R.ERR_INT_EN 0 e.1 then msixRaise 0 e.1 t else t) t)

/-- The interrupt sources that are conditions, and whether each holds (R539, R540). -/
def intConditions (s : State) : List (Nat × Bool) :=
  [(0, decide (s.err.fifo ≠ [])), (5, decide (rget s R.TAU_STATUS 0 &&& 0xFF ≠ 0)), (6, decide (s.lkp.notify ≠ [])),
   (7, decide (s.cph.notify ≠ [])), (8, decide (rget s R.BPM_STATUS 0 ≠ 0)), (9, decide (s.gau.fifo ≠ [])),
   (10, decide (rget s R.CSQ_REQ_DONE 0 ≠ 0))]

/-- A new tick: every condition that holds sets its bit (R540). -/
def intTick (s : State) : State :=
  (intConditions s).foldl (fun t c => if c.2 then intSet c.1 t else t) { s with err := { s.err with seen := [] } }

/-- The error unit returns after a management restart (R541): held reports are applied in order of their ticks. -/
def errResume (s : State) : State :=
  s.err.held.foldl (fun s h => errApply h.report h.tick s) { s with err := { s.err with held := [] } }

/-! ### Bridge modules (R525, R526, R535) -/

/-- BRIDGE_FLIT_CRC_ERROR (R525): the flit is replayed, and the event counts against its module. -/
def execBridgeFlitCrcError (m : Module) (s : State) : Out :=
  if unitRetired s 9 m.val then .next s else .next (errReport 1 16 9 m.val 0 0 s)

/-- BRIDGE_MODULE_OUT (R526): sixteen replays have failed; the other modules carry its flits while it retrains. -/
def execBridgeModuleOut (m : Module) (s : State) : Out :=
  if unitRetired s 9 m.val ∨ s.err.bridgeOut.contains m.val = true then .next s
  else .next { s with err := { s.err with bridgeOut := s.err.bridgeOut ++ [m.val] } }

/-- BRIDGE_MODULE_RETRAIN (R526): the module returns to service and the event counts once against it, or it is
retired with CODE 2 whatever its count and MIN_LIVE. -/
def execBridgeModuleRetrain (m : Module) (ok : Bool) (s : State) : Out :=
  if s.err.bridgeOut.contains m.val then
    let s := { s with err := { s.err with bridgeOut := s.err.bridgeOut.filter (fun k => decide (k ≠ m.val)) } }
    .next (if ok then errReport 1 16 9 m.val 0 0 s else retireMark 9 m.val false 2 s)
  else .next s

/-- BRIDGE_MODULE_RETIRE (R535): the module carries no more flits; those it had not delivered go over the others. -/
def execBridgeModuleRetire (m : Module) (sw : Bool) (s : State) : Out :=
  if retireDue s 9 m.val sw then
    let s := retireMark 9 m.val sw 0 s
    .next { s with err := { s.err with bridgeOut := s.err.bridgeOut.filter (fun k => decide (k ≠ m.val)) } }
  else .next s

end Sys2Proof.Machine
end

