-- ==== Sys2Proof/Machine/Images.lean ====
section
/-! DEFINITION. Draza images and their verification by the Hearth (R504 to R508), and the loading of Stitch bank
images (R95 to R99, R509). -/

namespace Sys2Proof.Machine
open Sys2Proof

/-- The Hearth changed. -/
def withHrt (f : Hrt → Hrt) (s : State) : State := { s with hrt := f s.hrt }

/-! ### The header (R504) -/

/-- `n` header bytes at offset `o`, big-endian. -/
def hdr (img : Bytes) (o n : Nat) : Nat := beNat ((img.drop o).take n)

/-- PAYLOAD_LEN. -/
def imgLen (img : Bytes) : Nat := hdr img 16 8

/-- TYPE. -/
def imgType (img : Bytes) : Nat := hdr img 6 2

/-- SIGNER. -/
def imgSigner (img : Bytes) : Nat := hdr img 9 1

/-- SVN. -/
def imgSvn (img : Bytes) : Nat := hdr img 10 1

/-- The payload as the image holds it. -/
def imgBody (img : Bytes) : Bytes := (img.drop 512).take (imgLen img)

/-- The message M: header bytes 0 to 255 and the payload (R505). -/
def imgMessage (img : Bytes) : Bytes := img.take 256 ++ imgBody img

/-- The SHAKE256 digest of M (R505, R513). -/
def imgDigest (img : Bytes) : Bytes := fitBytes 64 (Config.shake256 (imgMessage img) 64)

/-- The image root of the signer's class (R508); a self-signed image has none. -/
def imgRoot (s : State) (signer : Nat) : Option Bytes :=
  if signer = 0 then some Config.gemondRoot else if signer ≤ 4 then some s.hrt.ownerRoot else none

/-- The bytes of "THECIA-IMGKEY". -/
def imgKeyName : Bytes := [0x54, 0x48, 0x45, 0x43, 0x49, 0x41, 0x2D, 0x49, 0x4D, 0x47, 0x4B, 0x45, 0x59]

/-- The payload in clear: as it stands, or decrypted where ENCRYPTED is set and the tag verifies (R508). -/
def imgPlain (s : State) (img : Bytes) : Option Bytes :=
  if hdr img 11 1 % 2 = 0 then some (imgBody img)
  else
    match imgRoot s (imgSigner img) with
    | none => none
    | some root =>
      let key := fitBytes 32 (Config.kmac256 root ((img.drop 24).take 8) imgKeyName 32)
      let nonce := (img.drop 32).take 12
      if gcmIcv key nonce (img.take 32) (imgBody img) = (img.drop 44).take 16 then some (gcmXor key nonce (imgBody img))
      else none

/-! ### The checks (R505 to R507) -/

/-- Owner state: 0 unowned, 1 owned, 2 locked (R510). -/
def ownerState (s : State) : Nat := if s.hrt.locked then 2 else if s.hrt.owner = [] then 0 else 1

/-- The signer is permitted for the type, and its key is the one fused (R505, R506). -/
def signerOk (s : State) (img : Bytes) : Bool :=
  let g := imgSigner img
  let d := fitBytes 64 (Config.shake256 ((img.drop 60).take 57) 64)
  if g = 0 then (decide (imgType img ≠ 3) || decide (ownerState s = 0)) && decide (d = Config.gemondDigest)
  else if g ≤ 4 then
    decide (imgType img = 3) && (match s.hrt.owner[g - 1]? with
      | some k => !k.revoked && decide (k.digest = d)
      | none => false)
  else decide (g = 5) && decide (imgType img = 3) && decide (ownerState s = 0)

/-- The fused rollback counter of the signer's class (R507). -/
def svnFloor (s : State) (signer : Nat) : Nat :=
  if signer = 0 then s.hrt.vendorSvn else if signer ≤ 4 then s.hrt.ownerSvn else 0

/-- The patch an image carries: itself when of TYPE 2, or the one in a bundle. -/
def imgPatch (img plain : Bytes) : Option Bytes :=
  if imgType img = 2 then some img else if imgType img = 4 then Config.bundlePatch plain else none

/-- The first check of R505 that an image fails, 1 to 7; 0 where it passes them all. -/
def imgCheck (s : State) (type : Nat) (img : Bytes) : Nat :=
  if hdr img 0 4 ≠ 0x44525A49 ∨ hdr img 4 2 ≠ 1 ∨ imgType img ≠ type ∨ img.length < 512 + imgLen img then 1
  else if hdr img 8 1 ≠ rfld s R.GLB_DEVICE_ID 0 31 28 then 2
  else if signerOk s img = false then 3
  else if Config.ed448phVerify ((img.drop 60).take 57) (imgMessage img) ((img.drop 256).take 114) = false then 4
  else if imgSvn img < svnFloor s (imgSigner img) then 5
  else
    match imgPlain s img with
    | none => 6
    | some plain =>
      match imgPatch img plain with
      | some p => if Config.patchRom ((imgPlain s p).getD []) = rfld s R.CSQ_VERSION 0 63 48 then 0 else 7
      | none => 0

/-- Boot REASON of a failed check. -/
def checkReason (c : Nat) : Nat := [0, 1, 2, 3, 3, 4, 5, 1].getD c 0
/-- Mailbox STATUS of a failed check. -/
def checkStatus (c : Nat) : Nat := [0, 6, 7, 8, 8, 9, 10, 11].getD c 0
/-- SEN_LOAD_STAT RESULT of a failed check; 2 where every check passes. -/
def checkResult (c : Nat) : Nat := [2, 6, 4, 3, 3, 3, 3, 6].getD c 2

/-! ### Bank loads (R95 to R99) -/

/-- The bank a load writes: the inactive one, or the active one if that is empty (R95). -/
def loadTarget (s : State) (c : Nat) : Bool :=
  let a := (course s c).activeB
  if (bank s c a).st = .empty then a else !a

/-- A course refuses a load: its bank is held, or it has a swap armed (R95). -/
def loadRefused (s : State) (c : Nat) : Bool :=
  decide ((bank s c (loadTarget s c)).st = .held) || rbit s R.SEN_BANK_CTL c 2 || (course s c).swapTa ||
    s.tau.ta.any (fun e => decide (rfld s R.TAU_TA_ACT e.1 55 52 = 2) && rbit s R.TAU_TA_ACT e.1 c)

/-- A load ends (R96): the masks and RESULT. -/
def loadEnd (result done fail : Nat) (s : State) : State :=
  let s := { s with sen := { s.sen with load := none } }
  rset s R.SEN_LOAD_STAT 0 (BitVec.ofNat 64 (done * 2 ^ 32 + fail * 2 ^ 16 + result))

/-- The courses of a mask that take a load (R95). -/
def loadAccepts (s : State) (m : Nat) : Nat :=
  (List.range 8).foldl (fun a c => if m.testBit c && !loadRefused s c then a + 2 ^ c else a) 0

/-- BANK_LOAD (R95): GO starts a load of the courses named, each of which takes or refuses it now (R99); it is ignored
while RESULT is 1. -/
def execBankLoad (v : Word) (s : State) : Out :=
  let s := hostStore false R.SEN_LOAD_CTL 0 v s
  if bit v 0 && decide (rfld s R.SEN_LOAD_STAT 0 3 0 ≠ 1) then
    let s := { s with sen := { s.sen with load := some (fld v 15 8, loadAccepts s (fld v 15 8)) } }
    .next (rset s R.SEN_LOAD_STAT 0 1)
  else .next s

/-- A bank takes an image: state 1, or active where it is the bank in force. -/
def loadBank (img plain : Bytes) (s : State) (c : Nat) : State :=
  let b := loadTarget s c
  let prog := Config.bankProgram plain
  let words := (prog.zipIdx).foldl (fun m e => mset 0 m e.2 e.1) []
  let entries := (Config.bankEntries plain).foldl (fun m e => mset 0 m (e.1 % 1024) (e.2 % 65536)) []
  let x : Bank := { st := if b = (course s c).activeB then .active else .loaded, ver := Config.bankVer plain % 16,
                    length := prog.length, words := words, entries := entries }
  withHrt (fun h => { h with banks := mput h.banks (2 * c + b.toNat) (imgDigest img, imgSigner img) }) (setBank s c b x)

/-- BANK_LOAD_DONE (R96, R505, R509): the fetched image is checked; a refused image loads no course, and otherwise
every course that took the load is loaded. A load waits while the management complex restarts, and for PF0
DMA. -/
def execBankLoadDone (img : ImageFetch) (s : State) : Out :=
  match s.sen.load with
  | none => .next s
  | some (m, took) =>
    if s.mgmtDown || !dmaOk s false then .next s
    else
      match img with
      | .fetchError => .next (loadEnd 7 0 m (dmaFailed none (rget s R.SEN_LOAD_ADDR 0) s))
      | .image bs =>
        let s := hostRead none (rget s R.SEN_LOAD_ADDR 0).toNat bs.length s
        let c := imgCheck s 3 bs
        let plain := (imgPlain s bs).getD []
        if c ≠ 0 then .next (loadEnd (checkResult c) 0 m s)
        else if Config.bankFormed plain = false ∨ 65536 < (Config.bankProgram plain).length then .next (loadEnd 6 0 m s)
        else
          let s := ((List.range 8).filter (fun c => took.testBit c)).foldl (loadBank bs plain) s
          .next (loadEnd (if took = m then 2 else 5) took (m - took) s)

end Sys2Proof.Machine
end

