-- ==== Sys2Proof/Machine/Otn.lean ====
section
/-! DEFINITION. OTN ports (R263 to R278): framing, multiframe alignment, the demapper and mapper, the APS/PCC channel,
defects and their events, and performance monitoring. -/

namespace Sys2Proof.Machine
open Sys2Proof

/-- An OTN port. -/
def otnOf (s : State) (o : Nat) : Otn := mget Otn.init s.liu.otn o

/-- An OTN port replaced. -/
def setOtn (o : Nat) (x : Otn) (s : State) : State := withLiu (fun l => { l with otn := mset Otn.init l.otn o x }) s

/-- OTN port `o` runs: line port 4o is in mode 12 and enabled. -/
def otnOn (s : State) (o : Nat) : Bool := decide (portMode s (4 * o) = 12) && portEn s (4 * o)

/-- 3 ms in ticks. -/
def threeMs : Nat := 3 * msTicks

/-! ### Defects (R266, R270, R274) -/

/-- A bit of LIU_OTN_DEF. -/
def otnDef (s : State) (o b : Nat) : Bool := rbit s R.LIU_OTN_DEF o b

/-- A near-end defect stands (R275). -/
def nearDefect (s : State) (o : Nat) : Bool := [0, 1, 4, 5, 6, 7, 8].any (otnDef s o)

/-- Bits of LIU_OTN_DEF that a set of changes touches. -/
def defMask (bs : List Nat) : Word := bs.foldl (fun w b => w ||| fmask b b) 0

/-- LIU_OTN_DEF takes a value: changes raise event lines 0 and 1 of the port (R274), defects mark the PM second (R275),
and the loss of client words takes the port's LINK down (R250, R268). -/
def setDefs (o : Nat) (w : Word) (s : State) : State :=
  let d := w ^^^ rget s R.LIU_OTN_DEF o
  let s := rset s R.LIU_OTN_DEF o w
  let ev := BitVec.ofNat 32 w.toNat
  let s := if d &&& defMask [3, 4, 5] ≠ 0 then eventLine (128 + 4 * o) ev s else s
  let s := if d &&& defMask [0, 1, 6, 7, 8, 9] ≠ 0 then eventLine (129 + 4 * o) ev s else s
  let x := otnOf s o
  let s := setOtn o { x with pm := { x.pm with neDef := x.pm.neDef || nearDefect s o, feDef := x.pm.feDef || bit w 9 } } s
  if (bit w 3 || bit w 5 || bit w 6) && otnOn s o then linkTo (4 * o) false true false false s else s

/-- One defect set or cleared. -/
def setDef (o b : Nat) (on : Bool) (s : State) : State := setDefs o (setBit (rget s R.LIU_OTN_DEF o) b on) s

/-- A condition has lasted 3 ms. -/
def lasted (s : State) (t : Option Nat) : Bool := t.any (fun m => timeUp s (m + threeMs))

/-- DLOF_DECLARE (R266). -/
def execDlofDeclare (o : OtnPort) (s : State) : Out :=
  .next (if otnOn s o.val && lasted s (otnOf s o.val).oofSince then setDef o.val 4 true s else s)

/-- DLOF_CLEAR (R266). -/
def execDlofClear (o : OtnPort) (s : State) : Out :=
  .next (if lasted s (otnOf s o.val).inSince then setDef o.val 4 false s else s)

/-- DLOM_DECLARE (R266). -/
def execDlomDeclare (o : OtnPort) (s : State) : Out :=
  .next (if otnOn s o.val && lasted s (otnOf s o.val).lomSince then setDef o.val 5 true s else s)

/-- DLOM_CLEAR (R266). -/
def execDlomClear (o : OtnPort) (s : State) : Out :=
  .next (if lasted s (otnOf s o.val).mfasOkSince then setDef o.val 5 false s else s)

/-- DLOS_CHANGE (R270, R274). -/
def execDlosChange (o : OtnPort) (on : Bool) (s : State) : Out := .next (if otnOn s o.val then setDef o.val 0 on s else s)

/-- DAM_CHANGE (R270, R274). -/
def execDamChange (o : OtnPort) (on : Bool) (s : State) : Out := .next (if otnOn s o.val then setDef o.val 1 on s else s)

/-! ### Receive (R264 to R269) -/

/-- A framer at one position of the frame period: the FAS was found there (`hit`) or expected there (R264). -/
def framerStep (found : List Nat) (f : Framer) (x : Nat) : Framer :=
  let hit := found.contains x
  match f.pos with
  | some q =>
    if x ≠ q then f
    else if hit then { f with errs := 0 }
    else if f.errs + 1 < 5 then { f with errs := f.errs + 1 }
    else ⟨none, 0, []⟩
  | none =>
    match f.cands.find? (fun c => decide (c.1 = x)) with
    | some c =>
      if hit then
        if c.2 + 1 < 3 then { f with cands := f.cands.map (fun d => if d.1 = x then (x, d.2 + 1) else d) }
        else ⟨some x, 0, []⟩
      else { f with cands := f.cands.filter (fun d => decide (d.1 ≠ x)) }
    | none => if hit && decide (f.cands.length < 4) then { f with cands := f.cands ++ [(x, 1)] } else f

/-- A framer over one frame period: the positions that matter, in order. -/
def framerRun (found : List Nat) (f : Framer) : Framer :=
  let xs := found ++ f.cands.map (fun c => c.1) ++ f.pos.toList
  ((sortNat xs).dedup).foldl (framerStep found) f

/-- The multiframe check of slice 0 (R266). -/
def mfasRun (s : State) (x : Otn) (m : Nat) : Otn :=
  if m = (x.mfas + 1) % 256 then
    { x with mfas := m, mfasBad := 0, lomSince := none,
             mfasOkSince := some (x.mfasOkSince.getD s.tau.mono) }
  else
    let n := x.mfasBad + 1
    { x with mfas := m, mfasBad := n, mfasOkSince := none,
             lomSince := if 5 ≤ n then some (x.lomSince.getD s.tau.mono) else none }

/-- The APS/PCC monitor in a frame of its level (R269). -/
def apsRx (o : Nat) (v : Nat) (s : State) : State :=
  let x := otnOf s o
  let run := if x.apsRun.1 = v then (v, x.apsRun.2 + 1) else (v, 1)
  let s := setOtn o { x with apsRun := run } s
  if 3 ≤ run.2 ∧ v ≠ rfld s R.LIU_OTN_APS_RX o 63 32 then
    eventLine (130 + 4 * o) (BitVec.ofNat 32 v) (rcount (rsetF s R.LIU_OTN_APS_RX o 63 32 v) R.LIU_OTN_APS_RX o 15 0 1)
  else s

/-! ### GMP (R267, R268) -/

/-- The payload words of an OTUC4 frame that carries `cm` client words, in transmission order: true for a client word,
false for stuff (R267). -/
def gmpWords (cm : Nat) : List Bool := (List.range 1904).map (fun j => decide ((j + 1) * cm % 1904 < cm))

/-- CRC-8 of G.709 over 16 bits, polynomial x^8 + x^3 + x^2 + 1 (log 62). -/
def crc8 (v : BitVec 16) : BitVec 8 :=
  (List.range 16).foldl (fun c i =>
    if c.msb != v.getLsbD (15 - i) then (c <<< 1) ^^^ 0x0D#8 else c <<< 1) 0

/-- The JC bytes that signal a Cm: C1 to C14, II and DI zero, and the CRC-8 of both bytes (R267, log 62). -/
def jcCode (cm : Nat) : BitVec 24 :=
  let v := BitVec.ofNat 16 (4 * cm)
  BitVec.ofNat 24 (v.toNat * 256 + (crc8 v).toNat)

/-- The Cm of JC bytes; none where the CRC fails (R268). -/
def jcDecode (jc : BitVec 24) : Option Nat :=
  if crc8 (BitVec.ofNat 16 (jc.toNat / 256)) = BitVec.ofNat 8 jc.toNat then some (jc.toNat / 1024) else none

/-- Slice 0 of a frame that is in frame: ODU status, the demapper, the APS monitor and the frame's errored blocks. The Cm by
which the demapper takes this frame's words came in the frame before it, and the JC bytes of this one give the next
frame's (R267, R268); RX_CM shows that of this frame, as TX_CM does of the frame sent: DEDUCED (log 62). -/
def sliceRx (o : Nat) (f : OtnRxFrame) (s : State) : State :=
  let w := rget s R.LIU_OTN_DEF o
  let w := setBit (setBit (setBit (setBit w 6 f.ais) 7 f.oci) 8 f.lck) 9 f.bdi
  let s := setDefs o w s
  let x := otnOf s o
  let n := if [3, 5, 6].any (otnDef s o) then 0 else (gmpWords x.rxCm).countP id
  let s := rsetF s R.LIU_OTN_GMP o 63 50 x.rxCm
  let next := (jcDecode f.jc).filter (fun cm => decide (cm ≤ 1904))
  let s := if next.isNone then rcount s R.LIU_OTN_GMP o 31 16 1 else s
  let x := { x with rxCm := next.getD x.rxCm }
  let pm := { x.pm with blocks := x.pm.blocks + 4, neEb := x.pm.neEb + min 4 f.bip, feEb := x.pm.feEb + min 4 f.bei }
  let s := setOtn o { x with rxWords := x.rxWords + n, pm := pm } s
  if otnDef s o 3 ∨ otnDef s o 5 then setOtn o { otnOf s o with apsRun := (0, 0) } s
  else if f.mfas.toNat % 8 = rfld s R.LIU_OTN_CFG o 4 2 then apsRx o f.aps.toNat s
  else s

/-- OTN_RX_FRAME (R264 to R269): one frame period passes on receive. -/
def execOtnRxFrame (o : OtnPort) (f : OtnRxFrame) (s : State) : Out :=
  let n := o.val
  if otnOn s n = false then .next s
  else
    let x := otnOf s n
    let fr := (x.framers.zipIdx).map (fun e => framerRun (f.found.getD e.2 []) e.1)
    let hunting := (List.range 4).map (fun i => ((fr.getD i ⟨none, 0, []⟩).pos).isNone)
    let oof := hunting.any id
    let x := { x with framers := fr, oofSince := if oof then some (x.oofSince.getD s.tau.mono) else none,
                      inSince := if oof then none else some (x.inSince.getD s.tau.mono) }
    let zero := !(hunting.headD true)
    let x := if zero then mfasRun s x f.mfas.toNat else { x with mfasBad := 0, lomSince := none, mfasOkSince := none }
    let s := setOtn n x s
    let slices := (hunting.zipIdx).foldl (fun a e => a + e.1.toNat * 2 ^ e.2) 0
    let s := setDefs n (setBit (setFld (rget s R.LIU_OTN_DEF n) 15 12 slices) 3 oof) s
    .next (if zero then sliceRx n f s else setOtn n { otnOf s n with apsRun := (0, 0) } s)

/-! ### Transmit (R267, R269, R272, R273) -/

/-- The accesses of a tick that a read of a state-memory word on it sees (R273). -/
def beforeOtnTx (i : Instr) : Bool :=
  match i with
  | .sst .. | .atom .. | .stateDataWrite .. => true
  | _ => false

/-- OTN_TX_FRAME (R267, R269, R272, R273): an OTUC4 frame leaves, with the client words spread over its payload; `words`
is what the mapper has received up to the reference point of the frame after it, in 2^-16 client words, and that frame's
Cm is signalled in the JC bytes of slice 0. While AIS, LCK or OCI is sent the client is discarded. -/
def execOtnTxFrame (o : OtnPort) (words : Nat) (s : State) : Out :=
  let n := o.val
  if otnOn s n = false ∨ (rbit s R.LIU_OTN_CFG n 63 = true ∧ comes s beforeOtnTx = true) then .next s
  else
    let x := otnOf s n
    let a := x.aFrac + words
    let cm := a / 65536
    let cfg := rget s R.LIU_OTN_CFG n
    let c := if bit cfg 63 then stmGet s (fld cfg 41 21) else rget s R.LIU_OTN_TX_CTL n
    let aps := if x.txMfas % 8 = fld cfg 4 2 then some (BitVec.ofNat 32 (fld c 63 32)) else none
    let ais := bit c 1
    let lck := bit c 3 && !ais
    let oci := bit c 2 && !ais && !lck
    let s := setOtn n { x with aFrac := a % 65536, txMfas := (x.txMfas + 1) % 256, txCm := cm, txCut := ais || lck || oci } s
    let jc := beBytes 3 (jcCode cm).toNat :: List.replicate 3 (beBytes 3 0)
    .next (emit (.otn (4 * n) (gmpWords x.txCm) jc aps ais oci lck (bit c 0)) (rsetF s R.LIU_OTN_GMP n 49 36 x.txCm))

/-! ### Performance monitoring (R275 to R278) -/

/-- A second graded at each end (R275). -/
def gradeSec (s : State) (o : Nat) (p : PmSec) : PmRec :=
  let pct := rfld s R.LIU_OTN_CFG o 12 8
  let ses (eb : Nat) : Bool := decide (0 < p.blocks ∧ pct * p.blocks ≤ eb * 100)
  let neSes := ses p.neEb || p.neDef
  let feSes := ses p.feEb || p.feDef || p.neDef
  ⟨p.sec, p.part, p.neEb, decide (0 < p.neEb) || p.neDef || neSes, neSes, decide (0 < p.feEb) || p.feDef || feSes, feSes⟩

/-- The current second ends and the next begins (R275, R277). -/
def pmEnd (o : Nat) (nextPart : Bool) (s : State) : State :=
  let x := otnOf s o
  let sec := phcSec (phcNow s)
  setOtn o { x with
    pmWait := x.pmWait ++ [gradeSec s o x.pm]
    pm := ⟨sec, sec + 1, nextPart, 0, 0, 0, nearDefect s o, otnDef s o 9⟩ } s

/-- Unavailable time at one end in the second that is published, from the ten seconds it begins (R276). -/
def unavail (was : Bool) (ses : List Bool) : Bool := if was then !ses.all (fun b => !b) else ses.all id

/-- A counter of LIU_OTN_PM_CNT. -/
def pmCount (o k : Nat) (on : Bool) (s : State) : State := if on then rcount s R.LIU_OTN_PM_CNT (8 * o + k) 31 0 1 else s

/-- One record published with its final grading (R276, R278). -/
def pmPublishOne (o : Nat) (s : State) : State :=
  let x := otnOf s o
  match x.pmWait with
  | [] => s
  | r :: rest =>
    let ne := unavail x.neUnav ((x.pmWait.take 10).map (fun y => y.neSes))
    let fe := unavail x.feUnav ((x.pmWait.take 10).map (fun y => y.feSes))
    let g (u es ses : Bool) : Nat := u.toNat * 4 + (ses && !u).toNat * 2 + (es && !u).toNat
    let w := r.part.toNat * 2 ^ 62 + g fe r.feEs r.feSes * 2 ^ 59 + g ne r.neEs r.neSes * 2 ^ 56 +
      min r.neEb (2 ^ 24 - 1) * 2 ^ 32 + r.sec % 2 ^ 32
    let s := setOtn o { x with pmWait := rest, neUnav := ne, feUnav := fe } s
    let s := pmCount o 0 (r.neEs && !ne) (pmCount o 1 (r.neSes && !ne) (pmCount o 2 ne s))
    let s := pmCount o 3 (r.feEs && !fe) (pmCount o 4 (r.feSes && !fe) (pmCount o 5 fe s))
    let s := if (otnOf s o).fifo.length < 64 then
        setOtn o { otnOf s o with fifo := (otnOf s o).fifo ++ [BitVec.ofNat 64 w] } s
      else pmCount o 6 true s
    eventLine (131 + 4 * o) (BitVec.ofNat 32 r.sec) s

/-- Every record whose ten following seconds have ended is published. -/
def pmPublish (o : Nat) : Nat → State → State
  | 0, s => s
  | f + 1, s => if 11 ≤ (otnOf s o).pmWait.length then pmPublish o f (pmPublishOne o s) else s

/-- A defect of an OTN port that has lasted is declared. -/
def declares (o : OtnPort) (i : Instr) : Bool :=
  match i with
  | .dlofDeclare q => decide (q = o)
  | .dlomDeclare q => decide (q = o)
  | _ => false

/-- PM_SECOND_END (R275, R276): the PM second ends at its PHC boundary, after the arrivals and the defects of the tick (R10); while the management complex restarts the
records wait (R73). -/
def execPmSecondEnd (o : OtnPort) (s : State) : Out :=
  let n := o.val
  if otnOn s n && decide ((otnOf s n).pm.until_ ≤ phcSec (phcNow s)) && arrivalsDone s && !comes s (declares o) then
    let s := pmEnd n false s
    .next (if seqDown s 16 then s else pmPublish n (otnOf s n).pmWait.length s)
  else .next s

/-- What a PHC step does to PM seconds (R277): a forward step ends them, both seconds partial; after a backward step
the current second runs to the next boundary, partial. -/
def pmStepped (forward : Bool) (s : State) : State :=
  (List.range 32).foldl (fun s o =>
    if otnOn s o then
      let x := otnOf s o
      let s := setOtn o { x with pm := { x.pm with part := true, until_ := phcSec (phcNow s) + 1 } } s
      if forward then
        let s := pmEnd o true s
        if seqDown s 16 then s else pmPublish o (otnOf s o).pmWait.length s
      else s
    else s) s

/-- OTN_PM_READ (R278): the oldest performance record is popped. -/
def execOtnPmRead (o : OtnPort) (s : State) : Out :=
  let x := otnOf s o.val
  match x.fifo with
  | [] => .next (answer 0 s)
  | w :: rest => .next (answer (setBit w 63 true) (setOtn o.val { x with fifo := rest } s))

end Sys2Proof.Machine
end

