-- ==== Sys2Proof/Machine/Boot.lean ====
section
/-! DEFINITION. Resets, the pins and start-up (R497 to R503, R515 to R517, R547 to R555), and the PCIe links (R393 to
R397). -/

namespace Sys2Proof.Machine
open Sys2Proof

/-- The pins changed. -/
def withPins (f : Pins → Pins) (s : State) : State := { s with pins := f s.pins }

/-- STAGE of GLB_BOOT_STAT (R499). -/
def stage (s : State) : Nat := rfld s R.GLB_BOOT_STAT 0 63 60

/-- STAGE set. -/
def setStage (n : Nat) (s : State) : State := rsetF s R.GLB_BOOT_STAT 0 63 60 n

/-! ### The directory (R501, R502) -/

/-- The directory in force: the copy with the higher SEQ, or every slot Empty where none is valid. -/
def dirNow (h : Hrt) : DirCopy :=
  match h.dir0, h.dir1 with
  | some a, some b => if a.seq < b.seq then b else a
  | some a, none => a
  | none, some b => b
  | none, none => DirCopy.blank

/-- A directory write: the other copy, with SEQ + 1. -/
def dirWrite (d : DirCopy) (h : Hrt) : Hrt :=
  let d := { d with seq := (dirNow h).seq + 1 }
  match h.dir0, h.dir1 with
  | some a, some b => if a.seq < b.seq then { h with dir0 := some d } else { h with dir1 := some d }
  | some _, none => { h with dir1 := some d }
  | none, _ => { h with dir0 := some d }

/-- STATE of a slot. -/
def slotState (d : DirCopy) (n : Nat) : Nat := if n = 0 then d.stA else d.stB

/-- TRIES of a slot. -/
def slotTries (d : DirCopy) (n : Nat) : Nat := if n = 0 then d.triesA else d.triesB

/-- STATE and TRIES of a slot replaced. -/
def slotSet (n st tries : Nat) (d : DirCopy) : DirCopy :=
  if n = 0 then { d with stA := st, triesA := tries } else { d with stB := st, triesB := tries }

/-- What the flash holds of a slot: `n` bytes from its start; an erased byte reads 0xFF. -/
def slotBytes (s : State) (slot n : Nat) : Bytes :=
  (List.range n).map (fun i => mget 0xFF s.hrt.flash (slot * 2 ^ 25 + i))

/-- The image in a slot: header and PAYLOAD_LEN bytes, within the slot's 24 MiB (R500, R504). -/
def slotImage (s : State) (slot : Nat) : Bytes := slotBytes s slot (min (512 + imgLen (slotBytes s slot 512)) 25165824)

/-- The firmware in a bundle (R500, R513). -/
def firmwareOf (s : State) (bundle : Bytes) : Firmware :=
  let fw := Config.bundleFirmware ((imgPlain s bundle).getD [])
  ⟨imgDigest fw, hdr fw 12 4 % 65536, imgSvn fw, Config.fwFormat fw⟩

/-- `verify(p)` of the boot ROM: the REASON of a failure, 0 where the slot's bundle is good (R501, R505). -/
def bootVerify (s : State) (bad : Bool) (p : Nat) : Nat := if bad then 7 else checkReason (imgCheck s 4 (slotImage s p))

/-- The outcome of the slot choice: the slot, none for recovery, REASON, and the Hearth with the directory as
written. -/
structure Choice where
  slot : Option Nat
  reason : Nat
  hrt : Hrt
deriving DecidableEq, Repr

/-- The slot choice of R501. -/
def chooseSlot (s : State) (bad : Nat → Bool) : Choice :=
  let d := dirNow s.hrt
  let p := d.active
  let spent := decide (slotState d p = 2 ∧ slotTries d p = 0)
  let d1 := if spent then slotSet p 4 0 d else if slotState d p = 2 then slotSet p 2 (slotTries d p - 1) d else d
  let h1 := if slotState d p = 2 ∧ spent = false then dirWrite d1 s.hrt else s.hrt
  let p1 := if spent then 1 - p else p
  let r1 := if spent then 6 else 0
  let c1 := bootVerify s (bad p1) p1
  if c1 = 0 then
    if p1 = d.active then ⟨some p1, r1, h1⟩ else ⟨some p1, r1, dirWrite { d1 with active := p1 } h1⟩
  else
    let d2 := slotSet p1 4 0 d1
    let p2 := 1 - p1
    if slotState d2 p2 = 0 ∨ slotState d2 p2 = 4 ∨ bootVerify s (bad p2) p2 ≠ 0 then ⟨none, c1, h1⟩
    else if p2 = d.active then ⟨some p2, c1, h1⟩ else ⟨some p2, c1, dirWrite { d2 with active := p2 } h1⟩

/-! ### Settings (R515 to R517) -/

/-- The settings copy with a good digest and the higher SEQ. -/
def setNow (h : Hrt) : Option SetCopy :=
  match h.set0, h.set1 with
  | some a, some b => some (if a.seq < b.seq then b else a)
  | some a, none => some a
  | none, b => b

/-- A new settings copy: the other one, with SEQ + 1. -/
def setWrite (format : Nat) (data : Bytes) (h : Hrt) : Hrt :=
  let c : SetCopy := ⟨(match setNow h with | some x => x.seq | none => 0) + 1, format, data⟩
  match h.set0, h.set1 with
  | some a, some b => if a.seq < b.seq then { h with set0 := some c } else { h with set1 := some c }
  | some _, none => { h with set1 := some c }
  | none, _ => { h with set0 := some c }

/-- The copy in the firmware's FORMAT that replaces one of another (R517): the board record and the provisioning
store carried over, the firmware's defaults after them. -/
def setConvert (format : Nat) (c : SetCopy) (h : Hrt) : Hrt :=
  setWrite format (c.data.take (64 + Config.provLen) ++ Config.defaultSettings format) h

/-- The board record in force: that of the settings in use, or the defaults, which select ×16 (R516, R546). -/
def linkSplit (h : Hrt) : Bool := match setNow h with | some c => Config.boardSplit (c.data.take 64) | none => false

/-! ### Reset and start-up (R497 to R499) -/

/-- Every block at its reset state (R497): what lies outside the device's reset stays, namely the flash, the fuses,
the levels of the pins and the TAP, and the commands that wait. -/
def resetBlocks (cause : Nat) (s : State) : State :=
  let h := s.hrt
  let s := if alertLow s then emit (.alert false) s else s
  let s := if s.tau.ppsOut then emit (.pps false) s else s
  let s := if rfld s R.GLB_GPIO 0 31 16 = 0 then s else emit (.gpio 0 0) s
  let kept := { State.reset.hrt with dir0 := h.dir0, dir1 := h.dir1, flash := h.flash, set0 := h.set0, set1 := h.set1 }
  let kept := { kept with owner := h.owner, ownerRoot := h.ownerRoot, locked := h.locked }
  { State.reset with
    pending := s.pending
    lastRead := s.lastRead
    out := s.out
    freeCtr := s.freeCtr
    hrt := { kept with vendorSvn := h.vendorSvn, ownerSvn := h.ownerSvn }
    pins := { s.pins with resetDue := some cause } }

/-- Size, ranks, rank size and row bits of a DIMM (R366), in GiB. -/
def dimmFacts : Dimm → Option (Nat × Nat × Nat)
  | .gib32 => some (32, 1, 16)
  | .gib64x2 => some (64, 2, 16)
  | .gib64x1 => some (64, 1, 17)
  | .gib128 => some (128, 2, 17)
  | .absent | .other => none

/-- A channel's DIMM places carry one or two DIMMs of one type of R366. -/
def channelFacts (c : Dimm × Dimm) : Option (Nat × Nat × Nat × Nat) :=
  match dimmFacts c.1 with
  | some (g, r, b) => if c.2 = c.1 then some (2, g, r, b) else if c.2 = .absent then some (1, g, r, b) else none
  | none => none

/-- What MCD_GEOM shows of the population (R367, R370); none where it breaks R366. -/
def mcdGeom (dimms : List (Dimm × Dimm)) : Option Word :=
  let f (n : Nat) : Option (Nat × Nat × Nat × Nat) := channelFacts (dimms.getD n (.absent, .absent))
  match f 0 with
  | none => none
  | some (d, g, r, b) =>
    let n := if (List.range 8).all (fun c => decide (f c = f 0)) then 8
             else if (List.range 4).all (fun c => decide (f c = f 0)) then 4 else 0
    if n = 0 then none
    else some (BitVec.ofNat 64 (n * 2 ^ 56 + d * 2 ^ 54 + r * 2 ^ 52 + b * 2 ^ 47 + n * d * g * 1024))

/-- A population keeps R366: channels 0 to 3, or all eight, carry the same DIMMs, and no other place is populated. -/
def popKept (dimms : List (Dimm × Dimm)) : Bool :=
  let c (n : Nat) : Dimm × Dimm := dimms.getD n (.absent, .absent)
  (channelFacts (c 0)).isSome && (List.range 4).all (fun n => decide (channelFacts (c n) = channelFacts (c 0))) &&
    ((List.range 4).all (fun n => decide (channelFacts (c (4 + n)) = channelFacts (c 0))) ||
      (List.range 4).all (fun n => decide (c (4 + n) = (.absent, .absent))))

/-- The DDR5 population is resolved, and shown as broken where it breaks R366; the HBM3E's geometry is shown (R367, R369,
R370). -/
def memGeoms (dimms : List (Dimm × Dimm)) (s : State) : State :=
  let s := rset s R.MCH_GEOM 0 (BitVec.ofNat 64 (128 * 2 ^ 56 + 14 * 2 ^ 47 + 65536))
  let s := if popKept dimms then s else rsetF s R.MCD_STATUS 0 62 62 1
  match mcdGeom dimms with
  | some w => rset s R.MCD_GEOM 0 w
  | none => s

/-- A patch's words into a patch bank (R476), with its digest. -/
def patchLoad (b : Bool) (img : Bytes) (s : State) : State :=
  let p := (imgPlain s img).getD []
  let off (n : Nat) : Nat := b.toNat * n
  let put {α : Type} [DecidableEq α] (d : α) (m : SMap α) (base n : Nat) (xs : List α) : SMap α :=
    (xs.take n).zipIdx.foldl (fun m e => mset d m (base + e.2) e.1)
      (m.filter (fun e => !(decide (base ≤ e.1) && decide (e.1 < base + n))))
  let s := { s with csq := { s.csq with
    micro := put 0 s.csq.micro (off 4096) 4096 (Config.patchMicro p)
    nano := put 0 s.csq.nano (off 1024) 1024 (Config.patchNano p)
    redir := ((Config.patchRedir p).take 64).foldl (fun m e => mput m (off (2 ^ 15) + e.1 % 2 ^ 15) (e.2 % 2 ^ 15))
      (s.csq.redir.filter (fun e => !(decide (off (2 ^ 15) ≤ e.1) && decide (e.1 < off (2 ^ 15) + 2 ^ 15)))) } }
  withHrt (fun h => if b then { h with patchB := imgDigest img } else { h with patchA := imgDigest img }) s

/-- A patch fits a patch bank (R476). -/
def patchFits (p : Bytes) : Bool :=
  decide ((Config.patchMicro p).length ≤ 4096 ∧ (Config.patchNano p).length ≤ 1024 ∧ (Config.patchRedir p).length ≤ 64)

/-- A start-up patch is in force before the sequencers begin, where it passes the checks of R476. -/
def patchBoot (bundle : Bytes) (s : State) : State :=
  match Config.bundlePatch ((imgPlain s bundle).getD []) with
  | none => s
  | some img =>
    let p := (imgPlain s img).getD []
    if imgCheck s 2 img ≠ 0 ∨ patchFits p = false then s else
    let s := patchLoad false img s
    rsetF (rsetF s R.CSQ_VERSION 0 47 32 (Config.patchVer p)) R.CSQ_VERSION 0 15 8 (Config.patchCkpt p)

/-- The cipher engine's self-tests and provisioning (R465). -/
def cipherBoot (boot : BootFacts) (s : State) : State :=
  let s := boot.failedCores.dedup.foldl (fun s k =>
    let s := retireMark 2 k.val false 0 s
    cphNotice 7 k.val (rset s R.CPH_CORE_RETIRE 0 (setBit (rget s R.CPH_CORE_RETIRE 0) k.val true))) s
  let s := boot.failedUnits.foldl (fun s u => errReport 7 6 15 0 0 (BitVec.ofNat 64 u) s) s
  let s := boot.provision.foldl (fun s p =>
    putSlot p.slot.val { kind := p.kind.val, wrappable := bit p.attr 61, macsec := bit p.attr 60,
                         usage := fld p.attr 55 48, key := fitBytes 32 p.key,
                         salt := if p.kind.val = 1 then fitBytes 12 p.salt else [],
                         version := s.cph.nextVersion + 1 } s) s
  rsetF (setKeyOwner 0 s) R.CPH_CORE_STAT 0 5 0 (32 - boot.failedCores.dedup.length)

/-- The settings are read, and converted where their FORMAT is not the firmware's (R515, R517). -/
def settingsBoot (s : State) : State :=
  match setNow s.hrt with
  | none => rsetF s R.GLB_BOOT_STAT 0 56 56 1
  | some c =>
    if c.format = s.hrt.fw.format then withHrt (fun h => { h with inUse := some c }) s
    else
      let s := withHrt (fun h => setConvert h.fw.format c h) s
      rsetF (withHrt (fun h => { h with inUse := setNow h }) s) R.GLB_BOOT_STAT 0 57 57 1

/-- GLB_BOOT_STAT's OWNER, FW_VER and SLOT as they stand. -/
def bootShow (s : State) : State :=
  let s := rsetF (rsetF s R.GLB_BOOT_STAT 0 51 50 (ownerState s)) R.GLB_BOOT_STAT 0 47 32 s.hrt.fw.ver
  rsetF s R.GLB_BOOT_STAT 0 59 59 (s.hrt.running.getD 0)

/-- The device reset and start-up from a reset whose inputs have all risen (R498, R501, R503, R552). -/
def startUp (cause : Nat) (boot : BootFacts) (s : State) : State :=
  let s := resetBlocks cause s
  let s := withPins (fun p => { p with resetDue := none }) s
  let pref := (dirNow s.hrt).active
  let ch := chooseSlot s (fun n => if n = 0 then boot.badA else boot.badB)
  let s := withHrt (fun _ => ch.hrt) s
  let s := rsetF (rsetF s R.GLB_BOOT_STAT 0 55 52 ch.reason) R.GLB_BOOT_STAT 0 49 48 cause
  let s := rsetF s R.HIF_LINK_STAT 0 63 63 (linkSplit s.hrt).toNat
  match ch.slot with
  | none => setStage 4 (bootShow s)
  | some p =>
    let img := slotImage s p
    let s := withHrt (fun h => { h with running := some p, fw := firmwareOf s img }) s
    let s := rsetF s R.GLB_BOOT_STAT 0 58 58 (decide (p ≠ pref)).toNat
    let s := cipherBoot boot (patchBoot img (settingsBoot s))
    let s := memGeoms boot.dimms { s with bridgeUp := true }
    let s := rsetF s R.GLB_BOOT_STAT 0 15 0 (min 65535 boot.readyMs)
    setStage 3 (bootShow s)

/-- DEVICE_RESET (R497, R550, R552): the rise that ends a reset, or the mailbox's RESET; after PORST_N the power-good
inputs must all be high. -/
def execDeviceReset (boot : BootFacts) (s : State) : Out :=
  match s.pins.resetDue with
  | none => .next s
  | some cause => if cause = 0 ∧ s.pins.pg ≠ 31 then .next s else .next (startUp cause boot s)

/-! ### Pins (R547, R550 to R555) -/

/-- PORST_ASSERT (R552): the device is in reset, and CAUSE will read 0. -/
def execPorstAssert (s : State) : Out := .next (resetBlocks 0 s)

/-- SYSRST_ASSERT (R552): the device is in reset; CAUSE reads 1 unless PORST_N was low in that reset. -/
def execSysrstAssert (s : State) : Out :=
  .next (resetBlocks (if s.pins.resetDue = some 0 then 0 else 1) s)

/-- PG_INPUT_RISE (R550): the input's level; with the last one the device may leave reset. -/
def execPgInputRise (k : PgInput) (s : State) : Out := .next (withPins (fun p => { p with pg := p.pg ||| 2 ^ k.val }) s)

/-- PG_INPUT_FALL (R550): the input's level, which is sampled only while PORST_N's reset holds. -/
def execPgInputFall (k : PgInput) (s : State) : Out :=
  .next (withPins (fun p => { p with pg := p.pg &&& (31 - 2 ^ k.val) }) s)

/-- TAP_RESET (R554): the TAP goes to Test-Logic-Reset. -/
def execTapReset (s : State) : Out := .next (withPins (fun p => { p with tap := 0 }) s)

/-- GPIO_WRITE (R547): OUT and DIR; the new level is driven from the tick on which the direction changes. -/
def execGpioWrite (v : Word) (s : State) : Out :=
  .next (emit (.gpio (fld v 31 16) (fld v 47 32)) (hostStore false R.GLB_GPIO 0 v s))

/-- GLB_GPIO as it reads (R547): outputs read their OUT bits; the level at an input ball is the board's, a free
value (log 3). -/
def gpioWord (s : State) : Word :=
  let w := rget s R.GLB_GPIO 0
  let dir := fld w 31 16
  let pins := (fld w 47 32 &&& dir) ||| ((Config.freeWord s.freeCtr).toNat % 2 ^ 16 &&& (65535 - dir))
  setFld w 15 0 pins

/-! ### PCIe links (R393 to R397, R555) -/

/-- The fields of HIF_LINK_STAT of a link. -/
def linkFields (l speed width : Nat) (flit up : Bool) (s : State) : State :=
  let o := if l = 0 then 0 else 32
  rsetF (rsetF (rsetF (rsetF s R.HIF_LINK_STAT 0 (15 + o) (12 + o) speed) R.HIF_LINK_STAT 0 (11 + o) (7 + o) width)
    R.HIF_LINK_STAT 0 (6 + o) (6 + o) flit.toNat) R.HIF_LINK_STAT 0 (5 + o) (5 + o) up.toNat

/-- A link exists: link 1 only in the 2 × ×8 mode (R393). -/
def linkThere (s : State) (l : Nat) : Bool := decide (l = 0) || rbit s R.HIF_LINK_STAT 0 63

/-- PERSTn_N is low. -/
def perstLow (s : State) (l : Nat) : Bool := if l = 0 then s.pins.perst0 else s.pins.perst1

/-- PCIE_LINK_DOWN (R396, R397): the link leaves L0; its functions' DMA is held, and nothing else changes. -/
def execPcieLinkDown (l : PciLink) (s : State) : Out :=
  .next (if linkThere s l.val then linkFields l.val 0 0 false false s else s)

/-- PCIE_LINK_UP (R396, R555): training ends in L0; not before start-up has enabled it, nor while PERSTn_N is low. -/
def execPcieLinkUp (l : PciLink) (speed width : Nat) (flit : Bool) (s : State) : Out :=
  if linkThere s l.val && !perstLow s l.val && decide (2 ≤ stage s) then
    let w := if rbit s R.HIF_LINK_STAT 0 63 then 8 else 16
    let sp := clampTo 1 6 speed
    .next (linkFields l.val sp (clampTo 1 w width) (flit || decide (sp = 6)) true s)
  else .next s

/-- PERSTn_N's level kept. -/
def setPerst (l : Nat) (low : Bool) (s : State) : State :=
  withPins (fun p => if l = 0 then { p with perst0 := low } else { p with perst1 := low }) s

/-- PERST_ASSERT (R555): the link goes down with the effects of R397; PERST1_N is ignored in ×16 mode. -/
def execPerstAssert (l : PciLink) (s : State) : Out :=
  let s := setPerst l.val true s
  .next (if linkThere s l.val then linkFields l.val 0 0 false false s else s)

/-- PERST_DEASSERT (R555): the link may train. -/
def execPerstDeassert (l : PciLink) (s : State) : Out := .next (setPerst l.val false s)

end Sys2Proof.Machine
end

