-- ==== Sys2Proof/Machine/Mailbox.lean ====
section
/-! DEFINITION. The management mailbox (R416 to R418), the reset of PF0 (R397), and the Hearth's commands: information and
nonces, slot updates, activation, settings, the owner record and the rest (R510, R511, R514 to R521). -/

namespace Sys2Proof.Machine
open Sys2Proof

/-! ### The mailbox (R416 to R418) -/

/-- OWNER code of a user of the mailbox. -/
def mbxCode : MbxUser → Nat
  | .pf0 => 1
  | .mctp => 2

/-- OWNER of the mailbox. -/
def mbxOwner (s : State) : Nat := rfld s R.HIF_MBX_CTL 0 58 57

/-- BUSY of the mailbox. -/
def mbxBusy (s : State) : Bool := rbit s R.HIF_MBX_CTL 0 63

/-- RESULT with BUSY 0. -/
def mbxResult (r : Nat) (s : State) : State := rsetF (rsetF s R.HIF_MBX_CTL 0 63 63 0) R.HIF_MBX_CTL 0 62 59 r

/-- Word `k` of the message. -/
def mbxWord (s : State) (k : Nat) : Word := rget s R.HIF_MBX_DATA k

/-- The first `n` bytes of the message, least significant byte of each word first. -/
def mbxBytes (s : State) (n : Nat) : Bytes :=
  ((List.range ((n + 7) / 8)).flatMap (fun k => leBytes 8 (mbxWord s k).toNat)).take n

/-- A message into HIF_MBX_DATA, with its length. -/
def mbxFill (bs : Bytes) (s : State) : State :=
  let s := (List.range ((bs.length + 7) / 8)).foldl (fun s k =>
    rset s R.HIF_MBX_DATA k (BitVec.ofNat 64 (leNat ((bs.drop (8 * k)).take 8)))) s
  rsetF s R.HIF_MBX_CTL 0 47 37 (clampTo 8 1024 bs.length)

/-- A claim of the mailbox by PF0. -/
def pf0Claims (i : Instr) : Bool :=
  match i with
  | .mbxClaim .pf0 => true
  | _ => false

/-- MBX_CLAIM (R416, R417): on one tick PF0's claim wins over MCTP's. -/
def execMbxClaim (who : MbxUser) (s : State) : Out :=
  if mbxOwner s = 0 ∧ (who = .pf0 ∨ comes s pf0Claims = false) then
    .next (withHif (fun h => { h with mbxSince := s.tau.mono }) (rsetF s R.HIF_MBX_CTL 0 58 57 (mbxCode who)))
  else .next s

/-- MBX_RELEASE (R416): only the owner gives the mailbox up. -/
def execMbxRelease (who : MbxUser) (s : State) : Out :=
  if mbxOwner s = mbxCode who then .next (rsetF s R.HIF_MBX_CTL 0 58 57 0) else .next s

/-- MBX_OWNER_TIMEOUT (R417): no GO for 10 s. -/
def execMbxOwnerTimeout (s : State) : Out :=
  if mbxOwner s ≠ 0 ∧ timeUp s (s.hif.mbxSince + 10000 * msTicks) = true then .next (rsetF s R.HIF_MBX_CTL 0 58 57 0)
  else .next s

/-- BLEN and OFFSET of a command that carries them in word 1 (R514). -/
def mbxBlen (s : State) : Nat := fld (mbxWord s 1) 47 32
def mbxOffset (s : State) : Nat := fld (mbxWord s 1) 31 0
/-- FLAGS of a request. -/
def mbxFlag (s : State) (i : Nat) : Bool := bit (mbxWord s 0) (32 + i)

/-- The commands that are signed when the device is owned (R514). -/
def mbxSigned (s : State) (code : Nat) : Bool :=
  decide (s.hrt.owner ≠ []) && (decide (code ∈ [0x31, 0x40, 0x41, 0x42, 0x43, 0x50, 0x60, 0x70]) ||
    (decide (code = 0x21) && mbxFlag s 0))

/-- The bytes a request of a known code takes, its signature included; none for a code not known (R511, R514). -/
def mbxNeeds (s : State) (code : Nat) : Option Nat :=
  let n : Option Nat :=
    match code with
    | 0x01 | 0x02 | 0x12 | 0x13 | 0x14 | 0x20 | 0x21 | 0x42 | 0x50 | 0x61 | 0x70 => some 8
    | 0x10 | 0x30 | 0x41 | 0x43 => some 16
    | 0x11 | 0x31 | 0x60 => some (16 + mbxBlen s)
    | 0x40 => some (if s.hrt.owner = [] then 104 else 72)
    | _ => none
  n.map (fun n => n + (if mbxSigned s code then 114 else 0))

/-- MBX_GO (R417, R418, R514): the owner's request goes to the Hearth; PF0's lies in HIF_MBX_DATA with LEN as the write
gives it, the board controller's comes with the message. Refused at once during a management restart, for a code not
known and for a length too short. While BUSY is 1 GO is ignored, and PF0's LEN stored. -/
def execMbxGo (who : MbxUser) (v : Word) (msg : Bytes) (s : State) : Out :=
  if mbxOwner s ≠ mbxCode who then .next s
  else
    let go := !mbxBusy s && (bit v 0 || decide (who = .mctp))
    let s := match who with
      | .pf0 => rsetF s R.HIF_MBX_CTL 0 47 37 (clampTo 8 1024 (fld v 47 37))
      | .mctp => if go then mbxFill (msg.take 1024) s else s
    if go = false then .next s else
    let s := withHif (fun h => { h with mbxSince := s.tau.mono, mbxGo := s.tau.mono }) s
    if s.mgmtDown then .next (mbxResult 4 s)
    else
      let s := occur 15 1 0 1 s
      match mbxNeeds s (fld (mbxWord s 0) 63 48) with
      | none => .next (mbxResult 2 s)
      | some n =>
        if rfld s R.HIF_MBX_CTL 0 47 37 < n then .next (mbxResult 3 s)
        else .next (rsetF (mbxResult 0 (withHrt (fun h => { h with resp := none, after := none }) s)) R.HIF_MBX_CTL 0 63 63 1)

/-- MBX_RESPONSE (R418): the response replaces the request and RESULT is 1; then what the command left for after its
delivery: a device reset, or a management restart into the slot made ACTIVE. -/
def execMbxResponse (s : State) : Out :=
  match s.hrt.resp with
  | none => .next s
  | some bs =>
    if mbxBusy s && decide (s.tau.mono ≤ s.hif.mbxGo + 1000 * msTicks) then
      let a := s.hrt.after
      let s := mbxResult 1 (mbxFill bs (withHrt (fun h => { h with resp := none, after := none }) s))
      match a with
      | some .reset => .next (withPins (fun p => { p with resetDue := some 2 }) s)
      | some .hitless => .next (withHrt (fun h => { h with restart := some (dirNow h).active }) s)
      | none => .next s
    else .next s

/-- MBX_TIMEOUT (R418): 1 s without a response; one that comes later is discarded. -/
def execMbxTimeout (s : State) : Out :=
  if mbxBusy s && timeUp s (s.hif.mbxGo + 1000 * msTicks) then
    .next (mbxResult 5 (withHrt (fun h => { h with resp := none, after := none }) s))
  else .next s

/-- PF0_FLR (R397, R448): PF0's rings are disabled, its claims on the mailbox and on the key lock are released, and a
bitmap flush in progress goes on to its end. -/
def execPf0Flr (s : State) : Out :=
  let s := (ringsOf s pf0Ring 16).foldl (fun s e => if e.2.st = 1 then ringDisable e.1 s else s) s
  let s := if mbxOwner s = 1 then rsetF s R.HIF_MBX_CTL 0 58 57 0 else s
  .next (keyLockFlr s)

/-! ### Commands -/

/-- The Hearth's response: STATUS and the request's TAG, then the body (R418). -/
def respond (status : Nat) (body : Bytes) (s : State) : State :=
  let w := BitVec.ofNat 64 (status * 2 ^ 48 + fld (mbxWord s 0) 31 0)
  withHrt (fun h => { h with resp := some (leBytes 8 w.toNat ++ body) }) s

/-- A command's answer: STATUS, body, and the state it leaves. -/
structure Answer where
  status : Nat
  body : Bytes
  st : State

/-- A refusal with a STATUS. -/
def Answer.no (status : Nat) (s : State) : Answer := ⟨status, [], s⟩

/-- STATUS 0. -/
def Answer.ok (s : State) : Answer := ⟨0, [], s⟩

/-- The signature of a signed command is good (R511): its last 114 bytes over the bytes before them, the serial and an
unused nonce no more than 60 s old, by an unrevoked owner key. -/
def mbxAuthorised (s : State) : Bool :=
  let len := rfld s R.HIF_MBX_CTL 0 47 37
  let m := mbxBytes s len
  match s.hrt.nonce with
  | none => false
  | some (n, t) =>
    decide (s.tau.mono ≤ t + 60000 * msTicks) && s.hrt.owner.any (fun k => !k.revoked &&
      Config.ownerSigned k.digest (m.take (len - 114) ++ Config.serial ++ n) (m.drop (len - 114)))

/-- A command in the mailbox is carried out by the Hearth, once: it is BUSY with this code and has not answered. In
recovery only some are accepted (R503); a signed command that is not authorised is refused with STATUS 5 and changes
nothing (R511). -/
def mbxRun (code : Nat) (recovery : Bool) (f : State → Answer) (s : State) : State :=
  if mbxBusy s && decide (fld (mbxWord s 0) 63 48 = code) && s.hrt.resp.isNone && !s.mgmtDown then
    if stage s = 4 ∧ recovery = false then respond 3 [] s
    else if mbxSigned s code then
      if mbxAuthorised s then
        let a := f (withHrt (fun h => { h with nonce := none }) s)
        respond a.status a.body a.st
      else respond 5 [] s
    else
      let a := f s
      respond a.status a.body a.st
  else s

/-- Numbers in a body whose layout the manual does not give. -/
def factBody (code : Nat) (ns : List Nat) : Bytes := (Config.respBody code ns).take 1016

/-- GET_INFO (R514): serial, FW_VER, slot states and versions, ACTIVE, owner state, both rollback counters. -/
def execGetInfo (s : State) : Out :=
  .next (mbxRun 0x01 true (fun s =>
    let d := dirNow s.hrt
    ⟨0, factBody 0x01 [beNat Config.serial, s.hrt.fw.ver, d.stA, d.stB, hdr (slotImage s 0) 12 4, hdr (slotImage s 1) 12 4,
      d.active, ownerState s, s.hrt.vendorSvn, s.hrt.ownerSvn], s⟩) s)

/-- GET_NONCE (R511, R514): a fresh 32-byte nonce, which replaces an unused one. -/
def execGetNonce (s : State) : Out :=
  .next (mbxRun 0x02 true (fun s =>
    let n := (List.range 4).flatMap (fun i => beBytes 8 (Config.freeWord (s.freeCtr + i)).toNat)
    ⟨0, n, withHrt (fun h => { h with nonce := some (n, s.tau.mono) }) { s with freeCtr := s.freeCtr + 4 }⟩) s)

/-- NONCE_EXPIRE (R511): 60 s after it was issued. -/
def execNonceExpire (s : State) : Out :=
  match s.hrt.nonce with
  | some (_, t) =>
    if timeUp s (t + 60000 * msTicks) then .next (withHrt (fun h => { h with nonce := none }) s) else .next s
  | none => .next s

/-! ### Updates (R518 to R520) -/

/-- Sectors of 64 KiB that a length takes. -/
def sectors (n : Nat) : Nat := (n + 65535) / 65536

/-- UPDATE_BEGIN (R518): a LENGTH out of range is refused with STATUS 2; the running slot, or an open update, with 3. -/
def execUpdateBegin (s : State) : Out :=
  .next (mbxRun 0x10 true (fun s =>
    let slot := fld (mbxWord s 1) 0 0
    let len := fld (mbxWord s 1) 63 32
    if len < 512 ∨ 25165824 < len then .no 2 s
    else if s.hrt.running = some slot ∨ s.hrt.open_.isSome = true then .no 3 s
    else .ok (withHrt (fun h =>
      { dirWrite (slotSet slot 0 0 (dirNow h)) h with open_ := some ⟨slot, len, 0⟩ }) s)) s)

/-- SECTOR_ERASE_DONE (R518): the next sector of the open update is erased. -/
def execSectorEraseDone (s : State) : Out :=
  match s.hrt.open_ with
  | none => .next s
  | some u =>
    if u.erased < sectors u.len then
      let a := u.slot * 2 ^ 25 + u.erased * 65536
      .next (withHrt (fun h => { h with
        flash := h.flash.filter (fun e => !(decide (a ≤ e.1) && decide (e.1 < a + 65536)))
        open_ := some { u with erased := u.erased + 1 } }) s)
    else .next s

/-- The data of a block: BLEN bytes from byte 16. -/
def blockData (s : State) : Bytes := (mbxBytes s (16 + mbxBlen s)).drop 16

/-- UPDATE_BLOCK (R519): the checks in order, then the flash write. -/
def execUpdateBlock (s : State) : Out :=
  .next (mbxRun 0x11 true (fun s =>
    match s.hrt.open_ with
    | none => .no 3 s
    | some u =>
      let o := mbxOffset s
      let d := blockData s
      let a := u.slot * 2 ^ 25 + o
      let old := d.zipIdx.filterMap (fun e => (mfind s.hrt.flash (a + e.2)).map (fun w => (w, e.1)))
      if mbxBlen s = 0 ∨ 1008 < mbxBlen s ∨ u.len < o + mbxBlen s then .no 2 s
      else if u.erased * 65536 < o + mbxBlen s then .no 1 s
      else if old ≠ [] then (if old.all (fun e => decide (e.1 = e.2)) then .ok s else .no 4 s)
      else .ok (withHrt (fun h => { h with flash := d.zipIdx.foldl (fun m e => mput m (a + e.2) e.1) h.flash }) s)) s)

/-- Bytes of the open update written so far. -/
def bytesWritten (s : State) (u : Update) : Nat :=
  s.hrt.flash.countP (fun e => decide (u.slot * 2 ^ 25 ≤ e.1) &&
    decide (e.1 < u.slot * 2 ^ 25 + min u.len (u.erased * 65536)))

/-- UPDATE_STATUS (R514, R518): slot, bytes erased, bytes written. -/
def execUpdateStatus (s : State) : Out :=
  .next (mbxRun 0x12 true (fun s =>
    match s.hrt.open_ with
    | none => .no 3 s
    | some u => ⟨0, factBody 0x12 [u.slot, u.erased * 65536, bytesWritten s u], s⟩) s)

/-- UPDATE_END (R520): every byte must have been written; the slot is read back and checked, and becomes Valid or stays
Empty. -/
def execUpdateEnd (s : State) : Out :=
  .next (mbxRun 0x13 true (fun s =>
    match s.hrt.open_ with
    | none => .no 3 s
    | some u =>
      if bytesWritten s u < u.len then .no 3 s
      else
        let c := imgCheck s 4 (slotBytes s u.slot u.len)
        let s := withHrt (fun h => { h with open_ := none, closed := some u.slot }) s
        if c = 0 then .ok (withHrt (fun h => dirWrite (slotSet u.slot 1 0 (dirNow h)) h) s) else .no (checkStatus c) s) s)

/-- UPDATE_ABORT (R514): the slot is Empty. -/
def execUpdateAbort (s : State) : Out :=
  .next (mbxRun 0x14 true (fun s =>
    match s.hrt.open_ with
    | none => .no 3 s
    | some u => .ok (withHrt (fun h => { dirWrite (slotSet u.slot 0 0 (dirNow h)) h with open_ := none }) s)) s)

/-- ACTIVATE (R503, R521): the slot closed by the last UPDATE_END, which must be Valid, becomes ACTIVE in state Try; in
recovery the device resets once the response is delivered. -/
def execActivate (s : State) : Out :=
  .next (mbxRun 0x20 true (fun s =>
    match s.hrt.closed with
    | none => .no 3 s
    | some n =>
      let d := dirNow s.hrt
      if slotState d n ≠ 1 then .no 3 s
      else
        let go (a : Option After) : Answer :=
          .ok (withHrt (fun h => { dirWrite { slotSet n 2 3 d with active := n } h with after := a }) s)
        if stage s = 4 then go (some .reset)
        else if mbxFlag s 0 then
          if s.hrt.fw.ver < Config.hitlessFrom ((imgPlain s (slotImage s n)).getD []) then .no 13 s else go (some .hitless)
        else go none) s)

/-- COMMIT (R514): the running slot is Good; with ADVANCE, VENDOR_SVN rises to its SVN, and the other slot is Bad if
its SVN is now below it. -/
def execCommit (s : State) : Out :=
  .next (mbxRun 0x21 false (fun s =>
    match s.hrt.running with
    | none => .no 3 s
    | some n =>
      let d := slotSet n 3 0 (dirNow s.hrt)
      if mbxFlag s 0 then
        let v := max s.hrt.vendorSvn (imgSvn (slotImage s n))
        let o := 1 - n
        let d := if slotState d o ≠ 0 ∧ imgSvn (slotImage s o) < v then slotSet o 4 0 d else d
        .ok (withHrt (fun h => { dirWrite d h with vendorSvn := v }) s)
      else .ok (withHrt (fun h => dirWrite d h) s)) s)

/-! ### Settings (R515, R516) -/

/-- The firmware's default settings from offset 64 on (R515). -/
def defaultData (s : State) : Bytes := Config.defaultBoard ++ Config.defaultSettings s.hrt.fw.format

/-- The data of the settings in use, from offset 64 on (R515). -/
def settingsData (s : State) : Bytes := match s.hrt.inUse with | some c => c.data | none => defaultData s

/-- What a physical function presents in its configuration space (R394): device ID and class code; the vendor and subsystem
identifiers; each BAR that reads other than zero, with its number and size; how many MSI-X vectors; whether it has PASID
beside MSI-X, power management, AER and the link capabilities; the largest Max Payload Size and Max Read Request Size;
10-bit tags; and SR-IOV, ATS, PRI and AtomicOps. -/
structure PciFace where
  device : Nat
  classCode : Nat
  ids : Nat × Nat × Nat
  bars : List (Nat × Nat)
  vectors : Nat
  pasid : Bool
  maxPayload : Nat
  maxRead : Nat
  tags10 : Bool
  shared : Bool
deriving DecidableEq, Repr

/-- The configuration space of a function (R394). The place of the identifiers in the settings is not stated (log 35). -/
def pciFace (s : State) (f : PciFn) : PciFace :=
  { device := match f with | .pf0 => 0x6400 | .pf1 => 0x6401
    classCode := 0x028000
    ids := Config.pciIds (settingsData s)
    bars := match f with | .pf0 => [(0, 2 ^ 28)] | .pf1 => [(2, 2 ^ 28)]
    vectors := match f with | .pf0 => 64 | .pf1 => 4096
    pasid := decide (f = .pf1)
    maxPayload := 512, maxRead := 4096, tags10 := true, shared := false }

/-- A byte of the settings in use, header included (R515). -/
def settingsByte (s : State) (i : Nat) : Byte :=
  let c : SetCopy := match s.hrt.inUse with
    | some c => c
    | none => ⟨0, s.hrt.fw.format, defaultData s⟩
  if i < 64 then byteAt (Config.settingsHeader c.format c.seq c.data) i else byteAt c.data (i - 64)

/-- SETTINGS_READ (R514): bytes of the settings in use. -/
def execSettingsRead (s : State) : Out :=
  .next (mbxRun 0x30 false (fun s =>
    let o := mbxOffset s
    let n := mbxBlen s
    if n = 0 ∨ 1008 < n ∨ 65536 < o + n then .no 2 s
    else ⟨0, (List.range n).map (fun i => settingsByte s (o + i)), s⟩) s)

/-- SETTINGS_WRITE (R516): bytes are staged; BLEN 0 with FLAGS bit 0 commits them into the other copy. -/
def execSettingsWrite (s : State) : Out :=
  .next (mbxRun 0x31 false (fun s =>
    let o := mbxOffset s
    let n := mbxBlen s
    if n = 0 then
      if mbxFlag s 0 then
        let data := match setNow s.hrt with
          | some c => c.data
          | none => defaultData s
        let top := (s.hrt.staged.map (fun e => e.1 + 1 - 64)).foldl max data.length
        let data := (List.range top).map (fun i => (mfind s.hrt.staged (64 + i)).getD (byteAt data i))
        .ok (withHrt (fun h => { setWrite h.fw.format data h with staged := [] }) s)
      else .no 2 s
    else if 1008 < n ∨ o < 64 ∨ 65536 < o + n then .no 2 s
    else .ok (withHrt (fun h => { h with
      staged := (blockData s).zipIdx.foldl (fun m e => mput m (o + e.2) e.1) h.staged }) s)) s)

/-! ### Owner (R510, R514) -/

/-- GLB_BOOT_STAT shows the owner's state. -/
def ownerShow (s : State) : State := rsetF s R.GLB_BOOT_STAT 0 51 50 (ownerState s)

/-- OWNER_ADD_KEY (R510): up to four keys, none once locked; the first brings the owner image root. -/
def execOwnerAddKey (s : State) : Out :=
  .next (mbxRun 0x40 false (fun s =>
    if s.hrt.locked ∨ 4 ≤ s.hrt.owner.length then .no 3 s
    else
      let m := mbxBytes s 104
      let first := decide (s.hrt.owner = [])
      .ok (ownerShow (withHrt (fun h => { h with
        owner := h.owner ++ [⟨(m.drop 8).take 64, false⟩]
        ownerRoot := if first then (m.drop 72).take 32 else h.ownerRoot }) s))) s)

/-- OWNER_REVOKE_KEY (R510): revoking the last unrevoked key is refused with STATUS 3. -/
def execOwnerRevokeKey (s : State) : Out :=
  .next (mbxRun 0x41 false (fun s =>
    let i := (mbxWord s 1).toNat
    match s.hrt.owner[i]? with
    | none => .no 2 s
    | some k =>
      if k.revoked then .ok s
      else if s.hrt.owner.countP (fun k => !k.revoked) ≤ 1 then .no 3 s
      else .ok (withHrt (fun h => { h with owner := h.owner.set i { k with revoked := true } }) s)) s)

/-- OWNER_LOCK (R510): Owned becomes Locked. -/
def execOwnerLock (s : State) : Out :=
  .next (mbxRun 0x42 false (fun s =>
    if ownerState s ≠ 1 then .no 3 s else .ok (ownerShow (withHrt (fun h => { h with locked := true }) s))) s)

/-- OWNER_SVN (R507, R514): the counter rises; a lower value, or one above 63, is refused with STATUS 2. -/
def execOwnerSvn (s : State) : Out :=
  .next (mbxRun 0x43 false (fun s =>
    let v := (mbxWord s 1).toNat
    if 63 < v ∨ v < s.hrt.ownerSvn then .no 2 s else .ok (withHrt (fun h => { h with ownerSvn := v }) s)) s)

/-! ### The rest (R512, R514) -/

/-- SECURE_COUNT (R491): SECURE_EN takes FLAGS [0]. -/
def execSecureCount (s : State) : Out :=
  .next (mbxRun 0x50 false (fun s => .ok (rsetF s R.GAU_PRIV 0 0 0 (mbxFlag s 0).toNat)) s)

/-- CERT_INSTALL (R512, R514): blocks of the chain in order; OFFSET 0 starts it afresh. -/
def execCertInstall (s : State) : Out :=
  .next (mbxRun 0x60 false (fun s =>
    let o := mbxOffset s
    if mbxBlen s = 0 ∨ 1008 < mbxBlen s then .no 2 s
    else if o = 0 ∨ o = s.hrt.cert1.length then
      .ok (withHrt (fun h => { h with cert1 := h.cert1.take o ++ blockData s }) s)
    else .no 2 s) s)

/-- GET_CSR (R512): the signing request for AliasID. -/
def execGetCsr (s : State) : Out :=
  .next (mbxRun 0x61 false (fun s => ⟨0, (Config.aliasCsr s.hrt.fw.digest).take 1016, s⟩) s)

/-- RESET (R497, R514): a device reset once the response is delivered. -/
def execReset (s : State) : Out :=
  .next (mbxRun 0x70 false (fun s => .ok (withHrt (fun h => { h with after := some .reset }) s)) s)

end Sys2Proof.Machine
end

