-- ==== Sys2Proof/Machine/Hearth.lean ====
section
/-! DEFINITION. Hitless activation (R522, R523) and the SPDM responder (R512, R513). -/

namespace Sys2Proof.Machine
open Sys2Proof

/-! ### Management restart (R522, R523) -/

/-- A command in progress when the restart begins ends with RESULT 4 (R418). -/
def mbxCut (s : State) : State :=
  if mbxBusy s then mbxResult 4 (withHrt (fun h => { h with resp := none, after := none }) s) else s

/-- The bundle's patch, if it holds one, goes into the inactive patch bank once verified: it is staged, and from the next
tick the sequencers quiesce (R476 to R478, R522). A patch too long for a bank is refused as one whose signature is: DESIGN
CHOICE (log 37). -/
def restartPatch (n : Nat) (s : State) : State :=
  match Config.bundlePatch ((imgPlain s (slotImage s n)).getD []) with
  | none => s
  | some img =>
    let c := imgCheck s 2 img
    let p := (imgPlain s img).getD []
    if c = 0 ∧ patchFits p = true then
      let s := patchLoad (!s.csq.bankB) img s
      let s := rsetF (rsetF s R.CSQ_VERSION 0 31 16 (Config.patchVer p)) R.CSQ_ACT 0 63 61 1
      { s with csq := { s.csq with stagedCkpt := Config.patchCkpt p % 256, staging := true } }
    else rsetF s R.CSQ_ACT 0 60 57 (if c = 7 then 3 else 2)

/-- The management complex stops (R522, step 1). -/
def restartStart (n : Nat) (s : State) : State :=
  restartPatch n (setStage 5 (mbxCut { s with mgmtDown := true }))

/-- The new firmware runs: the running slot, FW_VER and the identity change; settings of another FORMAT are written
anew and take effect at the next device reset (R517, R522). -/
def restartNew (n : Nat) (s : State) : State :=
  let s := withHrt (fun h => { h with running := some n, fw := firmwareOf s (slotImage s n) }) s
  match setNow s.hrt with
  | none => s
  | some c =>
    if c.format = s.hrt.fw.format then s
    else rsetF (withHrt (fun h => setConvert h.fw.format c h) s) R.GLB_BOOT_STAT 0 57 57 1

/-- The new firmware is refused: its slot is Bad and ACTIVE is the running slot again (R523). -/
def restartOld (n : Nat) (s : State) : State :=
  withHrt (fun h => dirWrite { slotSet n 4 0 (dirNow h) with active := h.running.getD 0 } h) s

/-- The management complex is back (R522, step 5): held reports are applied (R541), and PM records that waited are
published (R276). -/
def restartEnd (s : State) : State :=
  let s := errResume (setStage 3 (withHrt (fun h => { h with restart := none }) { s with mgmtDown := false }))
  bootShow ((List.range 32).foldl (fun s o => pmPublish o (otnOf s o).pmWait.length s) s)

/-- MANAGEMENT_RESTART (R522, R523): its start, once the ACTIVATE response has been delivered; and its end, once the
sequencers no longer quiesce. -/
def execManagementRestart (ph : RestartPhase) (s : State) : Out :=
  match s.hrt.restart with
  | none => .next s
  | some n =>
    match ph with
    | .start => if s.mgmtDown then .next s else .next (restartStart n s)
    | .finish readOk =>
      if s.mgmtDown && decide (rfld s R.CSQ_ACT 0 63 61 ≤ 1) && !s.csq.staging then
        let ok := readOk && decide (imgCheck s 4 (slotImage s n) = 0)
        .next (restartEnd (if ok then restartNew n s else restartOld n s))
      else .next s

/-! ### SPDM (R513) -/

/-- An SPDM request is answered: with ERROR code Busy while the management complex restarts. -/
def spdm (req : Nat) (body : Bytes) (s : State) : State :=
  if s.mgmtDown then emit (.spdm req true []) s
  else if stage s = 3 then emit (.spdm req false body) s
  else s

/-- The chain of a certificate slot. -/
def certSlot (s : State) (n : Nat) : Bytes :=
  if n = 0 then Config.certChain s.hrt.fw.digest else if n = 1 then s.hrt.cert1 else []

/-- A signature by AliasID, whose key follows from the firmware's digest (R512). -/
def aliasSign (s : State) (msg : Bytes) : Bytes := Config.ed448Sign (beNat s.hrt.fw.digest) msg

/-- Bytes of zeros that stand for an absent image. -/
def noDigest : Bytes := List.replicate 64 0

/-- A measurement block's content (R513). -/
def measurement (s : State) (i : Nat) : Bytes :=
  match i with
  | 1 => Config.romDigest
  | 2 => s.hrt.fw.digest ++ beBytes 4 s.hrt.fw.ver ++ [BitVec.ofNat 8 s.hrt.fw.svn]
  | 3 => if rfld s R.CSQ_VERSION 0 47 32 = 0 then noDigest else if s.csq.bankB then s.hrt.patchB else s.hrt.patchA
  | 4 => match s.hrt.inUse with
    | some c => fitBytes 64 (Config.shake256 c.data 64)
    | none => noDigest
  | 5 => [BitVec.ofNat 8 (ownerState s)] ++ (List.range 4).flatMap (fun k =>
      match s.hrt.owner[k]? with
      | some x => x.digest ++ [if x.revoked then 1 else 0]
      | none => noDigest ++ [0]) ++ [BitVec.ofNat 8 s.hrt.vendorSvn, BitVec.ofNat 8 s.hrt.ownerSvn]
  | n =>
    if 16 ≤ n ∧ n < 32 then
      let b := mget Bank.empty s.sen.banks (n - 16)
      match mfind s.hrt.banks (n - 16), b.st with
      | _, .empty => noDigest
      | none, _ => noDigest
      | some (d, g), st => d ++ [BitVec.ofNat 8 g,
          match st with | .empty => 0 | .loaded => 1 | .active => 2 | .held => 3]
    else []

/-- The measurement indices the responder holds. -/
def measurementIds : List Nat := [1, 2, 3, 4, 5] ++ (List.range 16).map (fun i => 16 + i)

/-- A fresh 32-byte nonce of the responder. -/
def spdmNonce (s : State) : Bytes := (List.range 4).flatMap (fun i => beBytes 8 (Config.freeWord (s.freeCtr + i)).toNat)

/-- The state after a responder nonce. -/
def nonceDrawn (s : State) : State := { s with freeCtr := s.freeCtr + 4 }

/-- GET_VERSION (R513): 1.2 and 1.3. -/
def execGetVersion (s : State) : Out := .next (spdm 0 [0x12, 0x13] s)

/-- GET_CAPABILITIES (R513): CERT_CAP, CHAL_CAP and MEAS_CAP with signature, as the flags of the SPDM standard. -/
def execGetCapabilities (s : State) : Out := .next (spdm 1 [0x16, 0, 0, 0] s)

/-- NEGOTIATE_ALGORITHMS (R513): EdDSA Ed448 and SHA3-512, as the masks of the SPDM standard. -/
def execNegotiateAlgorithms (s : State) : Out := .next (spdm 2 (leBytes 4 0x400 ++ leBytes 4 0x20 ++ leBytes 4 0x40) s)

/-- GET_DIGESTS (R513): the digest of each certificate slot that holds a chain. -/
def execGetDigests (s : State) : Out :=
  let have1 := decide (s.hrt.cert1 ≠ [])
  .next (spdm 3 ([if have1 then 3 else 1] ++ Config.sha3 (certSlot s 0) ++
    (if have1 then Config.sha3 s.hrt.cert1 else [])) s)

/-- GET_CERTIFICATE (R513): a part of a slot's chain. -/
def execGetCertificate (slot off len : Nat) (s : State) : Out :=
  .next (spdm 4 (((certSlot s slot).drop off).take len) s)

/-- CHALLENGE (R513): the chain's digest, a nonce and the digest of all measurements, signed with AliasID. -/
def execChallenge (slot : Nat) (nonce : BitVec 256) (s : State) : Out :=
  let body := Config.sha3 (certSlot s slot) ++ spdmNonce s ++ Config.sha3 (measurementIds.flatMap (measurement s))
  .next (spdm 5 (body ++ aliasSign s (beBytes 32 nonce.toNat ++ body)) (nonceDrawn s))

/-- GET_MEASUREMENTS (R513): the block of an index, or every block for index 255, signed with AliasID. -/
def execGetMeasurements (idx : Nat) (nonce : BitVec 256) (s : State) : Out :=
  let body := (if idx = 255 then measurementIds.flatMap (measurement s) else measurement s idx) ++ spdmNonce s
  .next (spdm 6 (body ++ aliasSign s (beBytes 32 nonce.toNat ++ body)) (nonceDrawn s))

end Sys2Proof.Machine
end

