-- ==== Sys2Proof/Machine/Pattern.lean ====
section
/-! DEFINITION. The payload pattern unit: PMATCH, its scan lanes, its result, and its command register (R137, R160
to R167). -/

namespace Sys2Proof.Machine
open Sys2Proof

/-- A thread key and a tag as one request's name. -/
abbrev ReqName := Nat × Nat

/-- PMATCH (R137, R165, R167): the frame bytes are taken as they stand at issue; the request waits for a lane. -/
def execPmatch (th : ThreadRef) (f : FmtW) (s : State) : Out :=
  .next (issue th 0x46 (fun w => decide (asW w = f))
    (fun k t s =>
      let r : Req := ⟨f.tag.toNat, f.rd.toNat, false,
        .pmatch f.set.toNat (min (winOff t f.ra f.off) 511) (frameBytes t.pkt) (!t.pkt.complete) none⟩
      let s := setThr s k (sendReq t r)
      { s with ppu := { s.ppu with queue := s.ppu.queue ++ [(k, f.tag.toNat)] } }) s)

/-- The entries of a set as they stand: those listed between BASE and BASE + COUNT (R160, R166). -/
def setEntries (s : State) (w : Word) : List (Nat × Pat) :=
  s.ppu.pats.filter (fun e => decide (fld w 15 0 ≤ e.1 ∧ e.1 < fld w 15 0 + fld w 48 32))

/-- A request of a thread replaced. -/
def setReq (t : Thread) (r : Req) : Thread :=
  { t with reqs := t.reqs.map (fun q => if q.tag = r.tag then r else q) }

/-- A request that starts its scan, replaced where it stands. -/
def setAwaited (k : Nat) (q : Bool × Req) (s : State) : State :=
  if q.1 then { s with sen := { s.sen with
    gone := s.sen.gone.replaceF (fun g => if goneIs k q.2.tag toScan g then some (k, q.2) else none) } }
  else setThr s k (setReq (thr s k) q.2)

/-- The changes of a tick that a scan which starts on it sees (R166). -/
def beforeScan (i : Instr) : Bool :=
  match i with
  | .ppuCommandDone .. => true
  | .registerWrite (.bar0 a) _ _ => decide (R.TCM_PPU_SET.base ≤ a ∧ a < R.TCM_PPU_SET.base + 512)
  | _ => false

/-- PMATCH_SCAN_START (R164, R166): the oldest waiting request starts in a free lane and takes its set's entries as
they stand after the changes of the tick. -/
def execPmatchScanStart (s : State) : Out :=
  if comes s beforeScan then .next s else
  match s.ppu.queue with
  | [] => .next s
  | (k, tag) :: rest =>
    if s.ppu.lanes.length < 16 then
      match awaited s k tag toScan with
      | some r =>
        match r.2.kind with
        | .pmatch set o bytes wb none =>
          let w := rget s R.TCM_PPU_SET set
          let s := setAwaited k (r.1, { r.2 with kind := .pmatch set o bytes wb (some (w, setEntries s w)) }) s
          .next { s with ppu := { s.ppu with queue := rest, lanes := s.ppu.lanes ++ [(k, tag)] } }
        | _ => .next { s with ppu := { s.ppu with queue := rest } }
      | none => .next { s with ppu := { s.ppu with queue := rest } }
    else .next s

/-- A letter folded to lower case (R160). -/
def foldCase (b : Nat) : Nat := if 65 ≤ b ∧ b ≤ 90 then b + 32 else b

/-- Pattern byte `j` of an entry: byte 8k in bits [63:56] of word k (R160). -/
def patByte (p : Pat) (j : Nat) : Nat :=
  let w := p.data.getD (j / 8) 0
  fld w (63 - 8 * (j % 8)) (56 - 8 * (j % 8))

/-- The entry matches at start position `p` of a scan from `o` to `last` (R162). -/
def patMatchAt (e : Pat) (bs : Bytes) (o last p : Nat) : Bool :=
  let a := e.attr
  let len := fld a 29 24
  bit a 0 && (if bit a 1 then decide (p = fld a 38 30) else decide (fld a 38 30 ≤ p ∧ p ≤ fld a 47 39)) &&
  decide (o + p + len ≤ last + 1) &&
  (List.range len).all (fun j =>
    let x := (byteAt bs (o + p + j)).toNat
    let y := patByte e j
    !(e.mask.toNat.testBit j) || (if bit a 2 then foldCase x == foldCase y else x == y))

/-- The lowest end offset at which an entry matches, if any. -/
def patEnd (e : Pat) (bs : Bytes) (o last : Nat) : Option Nat :=
  ((List.range 512).find? (patMatchAt e bs o last)).map (fun p => o + p + fld e.attr 29 24 - 1)

/-- The better of two matches: lower end offset, then lower index (R162). -/
def betterMatch (a b : Nat × Nat × Pat) : Nat × Nat × Pat :=
  if b.1 < a.1 ∨ (b.1 = a.1 ∧ b.2.1 < a.2.1) then b else a

/-- The result of a scan in the layout of R163; `bad` lists the entries found with an uncorrectable error. -/
def scanResult (set : Word) (ents : List (Nat × Pat)) (bs : Bytes) (o : Nat) (bad : List Nat) : Word :=
  if bit set 63 = false ∨ fld set 48 32 = 0 then BitVec.ofNat 64 (2 ^ 60)
  else
    let last := min (o + 511) (bs.length - 1)
    let ms := if bs.length = 0 then [] else
      ents.filterMap (fun e => if bad.contains e.1 then none else (patEnd e.2 bs o last).map (fun x => (x, e.1, e.2)))
    let perr := if bad = [] then 0 else 2 ^ 61
    match ms with
    | [] => BitVec.ofNat 64 perr
    | m :: rest =>
      let b := rest.foldl betterMatch m
      BitVec.ofNat 64 (2 ^ 63 + (if rest = [] then 0 else 2 ^ 62) + perr + fld b.2.2.attr 63 48 * 2 ^ 32 +
        b.2.1 * 2 ^ 16 + b.1)

/-- The entries of a set that a scan finds with an uncorrectable error, among those the scan's memory reads: any index of
the set, written or not; a set that is disabled or empty is not read (R163). -/
def badEntries (set : Word) (ecc : EccIndex) : List Nat :=
  if bit set 63 then ((ecc.map (·.val)).filter (fun i => decide (fld set 15 0 ≤ i ∧ i < fld set 15 0 + fld set 48 32))).dedup
  else []

/-- An uncorrectable error of a pattern entry: reported with its index and counted (R160, R163). The record's CODE is 0:
DESIGN CHOICE (log 61), since R538 leaves it to the block and no rule gives it one. -/
def ppuError (i : Nat) (s : State) : State :=
  let s := rcount s R.TCM_PPU_PERR 0 31 0 1
  errReport 2 5 15 0 0 (BitVec.ofNat 64 i) (rsetF s R.TCM_PPU_PERR 0 63 48 i)

/-- A scan lane is free again. -/
def freeLane (l : ReqName) (s : State) : State :=
  { s with ppu := { s.ppu with lanes := s.ppu.lanes.erase l } }

/-- PMATCH_RESULT (R137, R163, R165): a scan's result is written once every byte it covers has arrived: the frame is
complete, or holds the 512 bytes from the start offset; the scan of a request given up ends with the bytes it has. -/
def execPmatchResult (th : ThreadRef) (tag : Tag) (ecc : EccIndex) (s : State) : Out :=
  let k := thrKey th
  match awaited s k tag.val isScan with
  | some r =>
    match r.2.kind with
    | .pmatch _ o bytes wb (some (w, ents)) =>
      if r.1 = true ∨ wb = false ∨ o + 512 ≤ bytes.length then
        let bad := badEntries w ecc
        let s := bad.foldl (fun s i => ppuError i s) s
        .next (resultTo k isScan r (scanResult w ents bytes o bad) 0 (freeLane (k, tag.val) s))
      else .next s
    | _ => .next s
  | none => .next s

/-- A command of TCM_PPU_CMD starts: ignored while one runs; INDEX and the row's OP are stored, BUSY is set
(R161). While BUSY is 1 RESULT keeps the outcome of the command before: DESIGN CHOICE (log 61), since no rule says what
it then reads. -/
def ppuStart (op : Nat) (v : Word) (s : State) : State :=
  if rbit s R.TCM_PPU_CMD 0 63 then s
  else rset s R.TCM_PPU_CMD 0 (BitVec.ofNat 64 (2 ^ 63 + fld (rget s R.TCM_PPU_CMD 0) 58 56 * 2 ^ 56 +
    op * 2 ^ 16 + fld v 15 0))

/-- PPU_WRITE starts a write of an entry (R161). -/
def execPpuWrite (v : Word) (s : State) : Out := .next (ppuStart 0 v s)
/-- PPU_READ starts a read of an entry (R161). -/
def execPpuRead (v : Word) (s : State) : Out := .next (ppuStart 1 v s)
/-- PPU_INVALIDATE starts the invalidation of an entry (R161). -/
def execPpuInvalidate (v : Word) (s : State) : Out := .next (ppuStart 2 v s)

/-- An entry that has never been written; LEN reads its reset value. -/
def Pat.empty : Pat := ⟨[0, 0, 0, 0], 0, 0x0000000001000000#64⟩

/-- The entry the staging registers hold (R160). -/
def stagedPat (s : State) : Pat :=
  ⟨(List.range 4).map (fun i => rget s R.TCM_PPU_DATA i), rget s R.TCM_PPU_MASK 0, rget s R.TCM_PPU_ATTR 0⟩

/-- The staging registers loaded from an entry. -/
def loadPat (p : Pat) (s : State) : State :=
  let s := (List.range 4).foldl (fun s i => rset s R.TCM_PPU_DATA i (p.data.getD i 0)) s
  rset (rset s R.TCM_PPU_MASK 0 p.mask) R.TCM_PPU_ATTR 0 p.attr

/-- The command in TCM_PPU_CMD ends with a RESULT. -/
def ppuEnd (res : Nat) (s : State) : State := rsetF (rsetF s R.TCM_PPU_CMD 0 58 56 res) R.TCM_PPU_CMD 0 63 63 0

/-- PPU_COMMAND_DONE (R161): the command takes effect and BUSY clears. A read that finds an uncorrectable error
loads zeros with RESULT 2. -/
def execPpuCommandDone (ecc : Bool) (s : State) : Out :=
  let w := rget s R.TCM_PPU_CMD 0
  let i := fld w 15 0
  let e := mget Pat.empty s.ppu.pats i
  if bit w 63 then
    match fld w 17 16 with
    | 0 => .next (ppuEnd 1 { s with ppu := { s.ppu with pats := mset Pat.empty s.ppu.pats i (stagedPat s) } })
    | 2 => .next (ppuEnd 1 { s with ppu := { s.ppu with
        pats := mset Pat.empty s.ppu.pats i { e with attr := setBit e.attr 0 false } } })
    | _ => .next (if ecc then ppuEnd 2 (loadPat ⟨[0, 0, 0, 0], 0, 0⟩ (ppuError i s)) else ppuEnd 1 (loadPat e s))
  else .next s

end Sys2Proof.Machine
end

