-- ==== Sys2Proof/Machine/Gauge.lean ====
section
/-! DEFINITION. The Gauge counters (ch. 17): events and counters (R483 to R486), slot accounting (R492, R493),
snapshots (R487 to R489) and samples (R494 to R496). -/

namespace Sys2Proof.Machine
open Sys2Proof

/-- The Gauge changed. -/
def withGau (f : Gau → Gau) (s : State) : State := { s with gau := f s.gau }

/-! ### Events (R486) -/

/-- A thread holds work (R492). -/
def holdsWork (t : Thread) : Bool := decide (t.st = .ready ∨ t.st = .waiting ∨ t.st = .departing)

/-- The counters of a tick's slots count a course: MODE_STATE 1 or 2 (R492). -/
def slotsCount (s : State) (c : Nat) : Bool :=
  decide (rfld s R.SEN_COURSE_CFG c 3 2 = 1 ∨ rfld s R.SEN_COURSE_CFG c 3 2 = 2)

/-- The threads of an engine that hold work. -/
def workers (s : State) (c e : Nat) : List Nat :=
  ((List.range 8).map (fun i => 640 * c + 8 * e + i)).filter (fun k => holdsWork (thr s k))

/-- The thread of an engine that has waited longest, the lowest slot winning a tie (R492). -/
def attributed (s : State) (c e : Nat) : Option Nat :=
  let since (k : Nat) : Nat := if (thr s k).st = .ready then s.tau.mono + 1 else (thr s k).since
  (workers s c e).foldl (fun b k => match b with
    | none => some k
    | some j => if since k < since j then some k else some j) none

/-- The tags whose results a waiting thread needs: of one held back from an instruction, those of the registers and frame
bytes it uses, and not the tag the instruction would take itself (R89). One that a WAIT holds has moved past it. -/
def neededTags (s : State) (k : Nat) : List Nat :=
  let t := thr s k
  if t.lastPc = t.pc then
    blockTags t ((nextUse s k).reads ++ (nextUse s k).writes) none ++ reachTags t (nextUse s k)
  else t.waitTags

/-- The class, 4 to 7, that a thread puts its engine's slot in (R492): 7 where it waits for a tag to be free. -/
def waitClass (s : State) (k : Nat) : Nat :=
  let t := thr s k
  if t.st = .waiting then
    match t.reqs.find? (fun r => t.waitTags.contains r.tag && (neededTags s k).contains r.tag) with
    | some r => match r.kind with
      | .lookup .. => 4
      | .pmatch .. => 4
      | .cipher .. => 5
      | .state .. => 6
    | none => 7
  else 7

/-- The threads of a course whose engines take the second issue cycle of a PUSH or POP on this tick (R116, R492). -/
def carried (s : State) (c : Nat) : List Nat :=
  (s.gau.carry.filter (fun e => decide (e.1 / 640 = c ∧ e.2 < s.tau.mono))).map (·.1)

/-- The engines of a course whose slot nobody used on this tick. -/
def idleEngines (s : State) (c : Nat) : List Nat :=
  if slotsCount s c then (List.range 80).filter (fun e =>
    !engineRetired s c e && decide (mget 0 s.gau.pend (gauKey 3 codeEngine (80 * c + e)) = 0) &&
      (carried s c).all (fun k => decide (k % 640 / 8 ≠ e)))
  else []

/-- The slots of a course in class `k` on this tick (R492). -/
def slotClass (s : State) (c k : Nat) : Nat :=
  let n (code : Nat) : Nat := mget 0 s.gau.pend (gauKey 3 code c)
  let idle := idleEngines s c
  let back := idle.filter (fun e => decide (workers s c e ≠ []))
  if slotsCount s c then
    match k with
    | 0 => n 2 - n codeWasted + (carried s c).length
    | 1 => n codeWasted + n codeUnissued
    | 2 => idle.length - back.length
    | 3 => back.length
    | _ => back.countP (fun e => match attributed s c e with
        | some t => decide (waitClass s t = k)
        | none => false)
  else 0

/-- Occurrences of an event on this tick carrying one qualifier, or any, by qualifier. -/
def occurrences (s : State) (b code : Nat) (q : Option Nat) : List (Nat × Nat) :=
  match q with
  | some q => [(q, mget 0 s.gau.pend (gauKey b code q))]
  | none => (s.gau.pend.filter (fun e => decide (e.1 / 131072 = b * 1024 + code))).map (fun e => (e.1 % 131072, e.2))

/-- A quantity by qualifier, or the part of one. -/
def overQual (n : Nat) (q : Option Nat) (f : Nat → Nat) : List (Nat × Nat) :=
  match q with | some q => [(q, f q)] | none => (List.range n).map (fun i => (i, f i))

/-- Threads of a course that hold work (R486, SEN event 6). -/
def busyThreads (s : State) (c : Nat) : Nat :=
  s.sen.threads.countP (fun e => decide (e.1 / 640 = c) && holdsWork e.2)

/-- LPM requests of a root that wait for their result (LKP event 4). -/
def lpmQueued (s : State) (r : Nat) : Nat :=
  (s.sen.threads.map (fun e => e.2.reqs.countP (fun q => match q.kind with
    | .lookup p _ _ _ => decide (fld p 62 61 = 2) && decide (fld p 60 55 = r)
    | _ => false))).foldl (fun a x => a + x) 0

/-- Refresh units of a channel that block activates (R375). -/
def blockedUnits (s : State) (m : MemCtl) (c : Nat) : Nat :=
  (memOf s m).units.countP (fun e => decide (chanOfUnit m e.1 = c) && decide ((postMax s m : Int) < e.2.debt))

/-- Completions of a slice that wait in its group buffer (HIF event 2); number 4,096 is PF0's (R441). -/
def groupWaiting (s : State) (n : Nat) : Nat :=
  ((ringsOf s (64 * n) 64).map (fun e => e.2.waiting.length)).foldl (fun a x => a + x) 0

/-- An event counts nothing while SECURE_EN is 0 (R486, R491). -/
def secureEvent (b code : Nat) : Bool := decide (b = 6 ∧ code = 3) || decide (b = 15 ∧ code = 1)

/-- What an event presents on this tick, by qualifier (R484, R486). -/
def eventParts (s : State) (b code : Nat) (q : Option Nat) : List (Nat × Nat) :=
  if code = 0 ∨ (secureEvent b code = true ∧ rbit s R.GAU_PRIV 0 0 = false) then []
  else match b, code with
    | 3, 2 => overQual 8 q (fun c => slotClass s c 0)
    | 3, 6 => overQual 8 q (busyThreads s)
    | 3, 7 => overQual 8 q (fun c => slotClass s c 4)
    | 3, 8 => overQual 8 q (fun c => slotClass s c 2)
    | 4, 4 => overQual 16 q (lpmQueued s)
    | 7, 4 => [(0, (poolSt s (hbmPool s)).used)]
    | 8, 2 => overQual 16 q (fun n => if poolEn s n ∧ rfld s R.BPM_POOL_STAT n 63 62 ≠ 0 then 1 else 0)
    | 10, 2 => overQual 128 q (blockedUnits s .mcd)
    | 11, 2 => overQual 128 q (blockedUnits s .mch)
    | 12, 2 => overQual 4097 q (groupWaiting s)
    | _, _ => occurrences s b code q

/-- The value of an event on this tick. -/
def eventValue (s : State) (b code : Nat) (q : Option Nat) : Nat := ((eventParts s b code q).map (·.2)).sum

/-! ### The tick (R484, R485, R494) -/

/-- The occurrence that wraps a counter which can take `left` more: its qualifier, and its place among those of it. The
order of one tick's occurrences is that of their qualifiers: DESIGN CHOICE (log 38). -/
def wrapAt (left : Nat) : List (Nat × Nat) → Nat × Nat
  | [] => (0, 0)
  | (u, n) :: rest => if left < n then (u, left) else wrapAt (left - n) rest

/-- The threads charged with a SEN event of a qualifier on this tick (R496): for events 1, 2 and 5 those that caused its
occurrences, for slot event 7 the attributed threads. Events 3, 4, 6 and 8 have none: no thread holds a dropped packet or a
front-starved slot, and the busy threads are charged to nobody: DESIGN CHOICE (log 38). -/
def chargedThreads (s : State) (code u : Nat) : List Nat :=
  let whose (c : Nat) : List Nat := (s.gau.who.filter (fun e => decide (e.1 = gauKey 3 c u))).map (·.2)
  match code with
  | 1 | 5 => whose code
  | 2 => (whose 2).filter (fun k => !(whose codeWasted).contains k) ++ carried s u
  | 7 => ((idleEngines s u).filterMap (attributed s u)).filter (fun k => decide (waitClass s k = 4))
  | _ => []

/-- What tells a thread from a later user of its context: the packet it runs for. -/
def threadId (t : Thread) : Option Nat := if t.svc then none else some t.pkt.pid

/-- The thread charged with occurrence `i` of a qualifier, with its instruction count and packet. -/
def chargedThread (s : State) (b code : Nat) (u : Nat × Nat) : Option (Nat × Nat × Option Nat) :=
  ((if b = 3 then chargedThreads s code u.1 else [])[u.2]?).map (fun k => (k, (thr s k).count, threadId (thr s k)))

/-- A counter that can take `left` more wraps: its sample is to be detected two ticks on (R494, R495). `s0` is the state as
the tick's events leave it. -/
def takeSample (s0 : State) (n b code left : Nat) (q : Option Nat) (s : State) : State :=
  let u := wrapAt left (eventParts s0 b code q)
  withGau (fun g => { g with due := g.due ++ [⟨n, s.tau.mono + 2, phcNow s, u.1, chargedThread s0 b code u⟩] }) s

/-- A sample that is dropped is counted (R494, R495). -/
def sampleDrop (s : State) : State := rcount s R.GAU_SAMPLE_DROP 0 31 0 1

/-- The configuration of a counter that holds on this tick: a write holds from the next (R483). -/
def ctrCfg (s : State) (n : Nat) : Word := rwas s R.GAU_CTR_CFG n

/-- EVENT of a configuration, and its QUAL where it counts one. -/
def ctrEvent (w : Word) : Nat × Option Nat := (fld w 9 0, if bit w 31 then some (fld w 27 12) else none)

/-- A counter takes the increment of a tick: saturating, or wrapping with a sample (R485, R494). -/
def ctrAdd (s0 : State) (n v : Nat) (s : State) : State :=
  let w := ctrCfg s n
  let old := rfld s R.GAU_CTR_VAL n 47 0
  let top := 2 ^ 48 - 1
  if old + v ≤ top then rset s R.GAU_CTR_VAL n (BitVec.ofNat 64 (old + v))
  else if bit w 61 then
    let y := rfld s R.GAU_CTR_RELOAD n 47 0 + (old + v - 2 ^ 48)
    let s := takeSample s0 n (n / 32) (ctrEvent w).1 (top - old) (ctrEvent w).2
      (rset s R.GAU_CTR_VAL n (BitVec.ofNat 64 (min top y)))
    if top < y then sampleDrop s else s
  else rsetF (rset s R.GAU_CTR_VAL n (BitVec.ofNat 64 top)) R.GAU_CTR_CFG n 59 59 1

/-- The counters whose configuration, as it holds on this tick or from the next, is not zero. -/
def ctrNums (s : State) : List Nat :=
  let mine (m : SMap Word) : List Nat := (m.filter (fun e => decide (R.GAU_CTR_CFG.base ≤ e.1) &&
    decide (e.1 < R.GAU_CTR_CFG.base + 8 * 544))).map (fun e => (e.1 - R.GAU_CTR_CFG.base) / 8)
  mine s.regs ++ (mine s.was).filter (fun n => !(mine s.regs).contains n)

/-- The counters whose configuration of this tick meets a test. -/
def ctrsOf (s : State) (p : Word → Bool) : List Nat := (ctrNums s).filter (fun n => p (ctrCfg s n))

/-- A slot counter raised, saturating at 64 bits (R493). -/
def slotAdd (c k v : Nat) (s : State) : State :=
  if v = 0 then s
  else rset s R.GAU_SLOT (8 * c + k) (BitVec.ofNat 64 (satAdd 64 (rget s R.GAU_SLOT (8 * c + k)).toNat v))

/-- The value of the event a configuration of counter `n` names. -/
def ctrValue (s : State) (n : Nat) (w : Word) : Nat := eventValue s (n / 32) (ctrEvent w).1 (ctrEvent w).2

/-- One counter of a tick (R484): its event's value, or in edge mode one where the value was zero on the tick before. -/
def ctrTick (s0 : State) (t : State) (n : Nat) : State :=
  let w := ctrCfg s0 n
  let v := ctrValue s0 n w
  let v := if bit w 62 then (if v ≠ 0 ∧ s0.gau.hot.contains n = false then 1 else 0) else v
  if v = 0 then t else ctrAdd s0 n v t

/-- The increments of a tick (R484, R492), once for each tick: slot counters, then every enabled counter, judged on
the state as the tick's events leave it; those of dropped samples last, with the drops of this tick. A drop of such a
counter's own sample is counted on the next tick. Whether an event was non-zero is kept for the configuration that holds
next. -/
def gauTick (s : State) : State :=
  if s.gau.done then s
  else
    let t := (List.range 8).foldl (fun t c =>
      if slotsCount s c then (List.range 8).foldl (fun t k => slotAdd c k (slotClass s c k) t) t else t) s
    let cs := ctrsOf s (bit · 63)
    let last (n : Nat) : Bool := decide (n / 32 = 14 ∧ (ctrEvent (ctrCfg s n)).1 = 2)
    let t := (cs.filter (fun n => !last n)).foldl (ctrTick s) t
    let dropped (a b : State) : Nat := rfld b R.GAU_SAMPLE_DROP 0 31 0 - rfld a R.GAU_SAMPLE_DROP 0 31 0
    let e := if dropped s t = 0 then s else occur 14 2 0 (dropped s t) s
    let u := (cs.filter last).foldl (ctrTick e) t
    let hot := (ctrNums s).filter (fun n => decide (ctrValue e n (rget s R.GAU_CTR_CFG n) ≠ 0))
    let v := withGau (fun g => { g with pend := [], who := [], done := true, hot := hot
                                        carry := g.carry.filter (fun e => decide (s.tau.mono ≤ e.2)) }) u
    if dropped t u = 0 then v else occur 14 2 0 (dropped t u) v

/-! ### Samples at their detection (R495, R496) -/

/-- The record of a sample at its detection (R495, R496). -/
def sampleRec (s : State) (d : SampleDue) : SampleRec :=
  match d.thr with
  | none => ⟨false, false, d.ctr, 0, 0, d.unit, d.phc, 0⟩
  | some (k, count, id) =>
    let t := thr s k
    if threadId t ≠ id then ⟨true, true, d.ctr, k, if t.st = .free then t.lastPc else t.prevPc, d.unit, d.phc, 0⟩
    else if t.st = .free ∨ t.st = .unavailable ∨ t.st = .halted then
      ⟨true, true, d.ctr, k, t.lastPc, d.unit, d.phc, 0⟩
    else if t.st = .waiting then ⟨false, true, d.ctr, k, t.lastPc, d.unit, d.phc, 0⟩
    else ⟨false, true, d.ctr, k, t.pc, d.unit, d.phc, min 2 (t.count - count)⟩

/-- A sample two ticks old enters the FIFO, or is dropped and counted; the interrupt comes when the FIFO becomes non-empty
and when it reaches 512 records (R495). -/
def sampleDetect (s : State) : State :=
  match takeFirst (fun d => decide (d.at_ ≤ s.tau.mono)) s.gau.due with
  | none => s
  | some (d, rest) =>
    let r := sampleRec s d
    let s := withGau (fun g => { g with due := rest }) s
    if s.gau.fifo.length < 1024 then
      let s := withGau (fun g => { g with fifo := g.fifo ++ [r] }) s
      if s.gau.fifo.length = 1 ∨ s.gau.fifo.length = 512 then intRaise 9 s else s
    else occur 14 2 0 1 (sampleDrop s)

/-- SAMPLE_DETECT (R495). -/
def execSampleDetect (s : State) : Out := .next (sampleDetect s)

/-! ### Snapshots (R487 to R489, R493) -/

/-- Snapshots of sets fall due on this tick: action 6 (R52, R487). -/
def snapDue (mask : Nat) (s : State) : State := withGau (fun g => { g with snapDue := g.snapDue ||| mask }) s

/-- GAU_SNAP_NOW (R487). -/
def execGauSnapNow (v : Word) (s : State) : Out :=
  .next (withGau (fun g => { g with snapNext := g.snapNext ||| fld v 15 0 }) s)

/-- One set latches (R487 to R489, R493). -/
def snapSet (n : Nat) (s : State) : State :=
  let w := rget s R.GAU_SNAP_STAT n
  let s := rset s R.GAU_SNAP_STAT n (BitVec.ofNat 64 ((fld w 63 48 + 1) % 65536 * 2 ^ 48 +
    (if bit w 47 then fld w 46 46 else 1) * 2 ^ 46))
  let s := rset s R.GAU_SNAP_TIME n (secNsWord (phcNow s))
  let ctrs := ctrsOf s (bit · (32 + n))
  let s := ctrs.foldl (fun s k => rset s R.GAU_SNAP_VAL (1024 * n + k)
    (BitVec.ofNat 64 (rfld s R.GAU_CTR_CFG k 59 59 * 2 ^ 63 + rfld s R.GAU_CTR_VAL k 47 0))) s
  if bit (rwas s R.GAU_SLOT_CFG 0) (32 + n) then
    (List.range 64).foldl (fun s k => rset s R.GAU_SLOT_SNAP (64 * n + k) (rget s R.GAU_SLOT k)) s
  else s

/-- The clears of CLR_SNAP after the snapshots of a tick (R485, R493). -/
def snapClear (mask : Nat) (s : State) : State :=
  let hit (w : Word) : Bool := bit w 60 && decide (fld w 47 32 &&& mask ≠ 0)
  let ctrs := ctrsOf s hit
  let s := ctrs.foldl (fun s k => rset s R.GAU_CTR_VAL k 0) s
  if hit (rwas s R.GAU_SLOT_CFG 0) then (List.range 64).foldl (fun s k => rset s R.GAU_SLOT k 0) s else s

/-- A clear of the slot counters written on an earlier tick (R493). -/
def slotClear (s : State) : State :=
  match s.gau.slotClr with
  | some t =>
    if t < s.tau.mono then
      (List.range 64).foldl (fun s k => rset s R.GAU_SLOT k 0) (withGau (fun g => { g with slotClr := none }) s)
    else s
  | none => s

/-- The snapshots due on a tick (R485, R487): the clear of the slot counters and the samples that fell due, the tick's
increments, the snapshots themselves among them, then the latch of every set due, then the clears. -/
def snapshot (s : State) : State :=
  let m := s.gau.snapDue
  if m = 0 then s
  else
    let s := s.gau.due.foldl (fun s _ => sampleDetect s) (slotClear s)
    let s := (List.range 16).foldl (fun s n => if m.testBit n then occur 14 1 n 1 s else s) s
    let s := withGau (fun g => { g with snapDue := 0 }) (gauTick s)
    let s := (List.range 16).foldl (fun s n => if m.testBit n then snapSet n s else s) s
    snapClear m s

/-- GAUGE_SNAPSHOT (R485, R487): once no command of the tick waits; the tick itself makes a snapshot that has not been
made. -/
def execGaugeSnapshot (s : State) : Out := .next (if restOfTick s = [] then snapshot s else s)

/-- SNAPSHOT_COLLECTED (R489): READY rises, but not while the management complex restarts. -/
def execSnapshotCollected (n : GauSet) (s : State) : Out :=
  .next (if s.mgmtDown then s else rsetF s R.GAU_SNAP_STAT n.val 47 47 1)

/-- SLOT_COUNTER_CLEAR (R493): on the tick after a CLR write. -/
def execSlotCounterClear (s : State) : Out := .next (slotClear s)

/-! ### The end of a tick -/

/-- The Gauge at the end of a tick: what fell due on it and has not been done (R487, R493, R495), its increments, and the
snapshots that a write of it asks for, due on the next (R487). -/
def gauEnd (s : State) : State :=
  let s := snapshot (s.gau.due.foldl (fun s _ => sampleDetect s) (slotClear s))
  let s := gauTick s
  withGau (fun g => { g with done := false, snapDue := g.snapDue ||| g.snapNext, snapNext := 0 }) s

/-- GAU_SAMPLE_READ (R495): the oldest record is popped and the rest of it latched. -/
def execGauSampleRead (s : State) : Out :=
  match s.gau.fifo with
  | [] => .next (answer 0 (rset (rset s R.GAU_SAMPLE 1 0) R.GAU_SAMPLE 2 0))
  | r :: rest =>
    let s := withGau (fun g => { g with fifo := rest }) s
    let s := rset (rset s R.GAU_SAMPLE 1 (secNsWord r.phc)) R.GAU_SAMPLE 2 (BitVec.ofNat 64 r.skid)
    .next (answer (BitVec.ofNat 64 (2 ^ 63 + r.ended.toNat * 2 ^ 62 + r.thrV.toNat * 2 ^ 61 + r.ctr * 2 ^ 48 +
      r.thr / 640 * 2 ^ 45 + r.thr % 640 * 2 ^ 35 + r.pc % 65536 * 2 ^ 16 + r.unit % 65536)) s)

end Sys2Proof.Machine
end

