-- ==== Sys2Proof/Machine/Quench.lean ====
section
/-! DEFINITION. Quench epochs (R59 to R72): opening, abandoning and committing an epoch, the drain window, early
retirement, freeing, and the program banks that swap at a commit (R65, R98, R99). -/

namespace Sys2Proof.Machine
open Sys2Proof

/-! ### Versions over every table -/

/-- The versions of every entry of the tables changed by one function; entries of which none is left give up their
places (R206). -/
def mapVers (f : {α : Type} → Vers α → Vers α) (g : TRow → TRow) (s : State) : State :=
  let s := s.lkp.ents.foldl (fun s e => updEnt (entTable e.1) (e.1 % 2 ^ 256) { e.2 with v := f e.2.v } s) s
  let s := mapLpm f s
  let s := withLkp (fun x => { x with res := x.res.foldl (fun m e => updVers m e.1 (f e.2)) x.res }) s
  mapRows g s

/-- Previous versions discarded. -/
def noPrev {α : Type} (v : Vers α) : Vers α := { v with prev := none }

/-- What a commit does to an entry's versions: pending becomes current, current becomes previous; an entry without
a pending version has no previous one (R60, R62). -/
def rotate {α : Type} (v : Vers α) : Vers α :=
  match v.pend with
  | some p => ⟨p, none, some v.cur⟩
  | none => { v with prev := none }

/-! ### Opening and abandoning (R67) -/

/-- A pending epoch, current + 1, with no versions; no effect where one is open (R67). -/
def epochOpen (s : State) : State :=
  if s.tau.pendOpen then s else withTau (fun t => { t with pendOpen := true, pendCount := 0 }) s

/-- The pending epoch is discarded: its versions are invisible to lookups from the next tick, and their storage waits
to be reclaimed; no effect where none is open (R67). -/
def epochAbandon (s : State) : State :=
  if s.tau.pendOpen then
    let s := tcamDrop (lkpDrop s)
    withLkp (fun x => { x with abandoned := true }) (withTcam (fun x => { x with abandoned := true })
      (withTau (fun t => { t with pendOpen := false, reclaim := t.reclaim + t.pendCount, pendCount := 0 }) s))
  else s

/-- ABANDONED_VERSION_RECLAIM (R67, R72): the sequencers reclaim the storage of `n` discarded versions; not while
they restart (R73). -/
def execAbandonedVersionReclaim (n : Nat) (s : State) : Out :=
  if seqDown s 17 then .next s else .next (withTau (fun t => { t with reclaim := t.reclaim - n }) s)

/-! ### Commit (R69) -/

/-- The first check of R69 that a commit fails, by its result code; `epoch` is the epoch a time-action entry
names. -/
def commitRefusal (s : State) (epoch : Option Nat) : Option Nat :=
  if s.mgmtDown ∨ s.tau.bridgeFault then some 4
  else if epoch.any (fun e => decide (e ≠ (s.tau.curEpoch + 1) % 65536)) then some 3
  else if s.tau.lastCommit.any (fun m => decide ((s.tau.mono + 2 ^ 64 - m) % 2 ^ 64 < 160000)) then some 2
  else if 1048576 < s.tau.pendCount then some 1
  else none

/-- A refused attempt: LAST_RESULT and QUENCH_REFUSED (R69). -/
def commitRefused (code : Nat) (s : State) : State := tauStatus 6 (withTau (fun t => { t with lastResult := code }) s)

/-- A packet thread that still runs with a retired tag ends: its packet is dropped and counted (R72). A packet
already handed on is not dropped again. -/
def endStale (k : Nat) (s : State) : State :=
  let t := thr s k
  if t.handed then freeThr s k
  else freeThr (giveUpPlace t.pkt.pid (occur 1 2 0 1 (rcount s R.TAU_EPOCH_STALE_DROP 0 47 0 1))) k

/-- A packet thread is live with a tag. -/
def liveWithTag (t : Thread) (tag : Nat) : Bool := thrLive t && !t.svc && decide (mdF t.pkt 0 27 26 = tag)

/-- Held banks return to state 1 (R65). -/
def releaseHeld (s : State) : State :=
  { s with sen := { s.sen with banks := s.sen.banks.map (fun e =>
      if e.2.st = .held then (e.1, { e.2 with st := .loaded }) else e) } }

/-- A previous epoch that is still alive is retired early (R72). -/
def retireEarly (s : State) : State :=
  if s.tau.prevState = 0 then s
  else
    let old := (s.tau.curEpoch + 65535) % 65536
    let s := (thrKeys s).foldl (fun s k => if liveWithTag (thr s k) (old % 4) then endStale k s else s) s
    let s := withTau (fun t => { t with reclaim := t.reclaim + t.prevCount, prevCount := 0, prevState := 0 }) s
    let s := releaseHeld (mapVers noPrev (fun x => { x with vset := false }) s)
    let s := rsetF (rcount s R.TAU_EARLY_RETIRE 0 31 0 1) R.TAU_EARLY_RETIRE 0 47 32 old
    tauStatus 7 s

/-- A course armed to swap, by SWAP_ARM or by action 2, swaps or skips (R98, R99); the old bank is held for the
epoch that becomes previous. -/
def commitSwap (s : State) (c : Nat) : State :=
  if rbit s R.SEN_BANK_CTL c 2 ∨ (course s c).swapTa then
    let s := rsetF (setCourse s c { course s c with swapTa := false }) R.SEN_BANK_CTL c 2 2 0
    if swappable s c && (decide ((course s c).inForce ≠ 3) || courseStill s c) then swapBanks c .held s
    else rsetF s R.SEN_BANK_CTL c 7 7 1
  else s

/-- A commit gives a prefix whose root entries are being rewritten its pending version in all of them together (R194). -/
def jobCommit (s : State) : State :=
  match s.lkp.pfxJob with
  | some j => if hasPend s.lkp.lpm j.key then withLkp (fun x => { x with pfxJob := none }) s else s
  | none => s

/-- A commit that passes its checks (R59, R70, and the state table of ch. 2). -/
def commitApply (s : State) : State :=
  let s := retireEarly s
  let s := mapVers rotate rotateRow (jobCommit (tcamDrop (lkpDrop s)))
  let s := withTau (fun t => { t with
    curEpoch := (t.curEpoch + 1) % 65536, prevState := 1, prevCount := t.pendCount, pendCount := 0,
    pendOpen := false, lastResult := 0, lastCommit := some t.mono,
    drainEnd := t.mono + 1600 * rfld s R.TAU_QUENCH_DRAIN 0 13 0 }) s
  (List.range 8).foldl commitSwap s

/-- A commit by a write of COMMIT (R69), judged once a held command of the pending epoch has been taken into it (R204). -/
def epochCommit (s : State) : State :=
  let s := tcamHeldTake (heldTake s)
  match commitRefusal s none with
  | some c => commitRefused c s
  | none => commitApply s

/-- The commands of a tick that come before a commit of the tick: commands of the lookup tables and the TCAM and their
ends, which belong to the epoch it ends (R204, R235), and the end of a bank load (R99). -/
def beforeCommit (i : Instr) : Bool :=
  match i with
  | .lkpRead .. | .lkpWrite .. | .lkpInsert .. | .lkpDelete .. | .lkpMove .. | .lkpWithdraw .. | .lkpCommandDone ..
  | .tcamRead .. | .tcamWrite .. | .tcamDelete .. | .tcamMove .. | .tcamFindHole .. | .tcamSearch .. | .tcamWithdraw ..
  | .tcamRespread .. | .tcamCommandDone .. | .bankLoadDone .. => true
  | _ => false

/-- A write of COMMIT acts once the commands of its tick that come before it have come (R204, R235). -/
def commitAsk (s : State) : State :=
  if comes s beforeCommit then withTau (fun t => { t with commitDue := true }) s else epochCommit s

/-- A commit that has waited for commands of its tick is made with the tick's last arrival. -/
def commitEnd (s : State) : State :=
  if s.tau.commitDue then epochCommit (withTau (fun t => { t with commitDue := false }) s) else s

/-- A write of TAU_QUENCH_CTL: ABANDON, OPEN and COMMIT act in this order (R67). One that sets several of them is a
REGISTER_WRITE; each of the rows that follow sets one (log 8). -/
def quenchWrite (v : Word) (s : State) : State :=
  let s := if bit v 2 then epochAbandon s else s
  let s := if bit v 0 then epochOpen s else s
  if bit v 1 then commitAsk s else s

/-- QUENCH_OPEN (R67): a write of TAU_QUENCH_CTL that sets OPEN alone. -/
def execQuenchOpen (s : State) : Out := .next (epochOpen s)

/-- QUENCH_ABANDON (R67): a write that sets ABANDON alone. -/
def execQuenchAbandon (s : State) : Out := .next (epochAbandon s)

/-- QUENCH_COMMIT (R67, R69): a write that sets COMMIT alone. -/
def execQuenchCommit (s : State) : Out := .next (commitAsk s)

/-! ### The previous epoch (R70, R71) -/

/-- DRAIN_TIMER_EXPIRE (R10, R70): at the end of its window the previous epoch is freeing, and its tag is stale for
dispatch. -/
def execDrainTimerExpire (s : State) : Out :=
  if s.tau.prevState = 1 ∧ timeUp s s.tau.drainEnd = true then .next (withTau (fun t => { t with prevState := 2 }) s)
  else .next s

/-- PREVIOUS_EPOCH_FREED (R65, R71): once no thread runs with the freeing epoch's tag its versions are freed; not
while the sequencers restart (R73). -/
def execPreviousEpochFreed (s : State) : Out :=
  let tag := (s.tau.curEpoch + 3) % 4
  if s.tau.prevState = 2 && !seqDown s 17 && !s.sen.threads.any (fun e => liveWithTag e.2 tag) then
    .next (releaseHeld (mapVers noPrev (fun x => { x with vset := false })
      (withTau (fun t => { t with prevState := 0, prevCount := 0 }) s)))
  else .next s

end Sys2Proof.Machine
end

