-- ==== Sys2Proof/Machine/Times.lean ====
section
/-! DEFINITION. The tick of the time bus (R36, R37, R492), steps of the PHC (R39, R40), the firing of time-action entries
(R52 to R57), and the system mode (R31 to R33). -/

namespace Sys2Proof.Machine
open Sys2Proof

/-! ### Time-action entries fire (R52 to R57) -/

/-- Action 2: the courses named swap at the first commit at or after now (R52). -/
def armSwaps (mask : Nat) (s : State) : State :=
  (List.range 8).foldl (fun s c => if mask.testBit c then setCourse s c { course s c with swapTa := true } else s) s

/-- What an action does on its tick (R52), with the quench result of one that fails. -/
def taAction (action : Nat) (arg : Nat) (s : State) : State × Nat :=
  match action with
  | 1 =>
    match commitRefusal s (some (arg % 65536)) with
    | some c => (commitRefused c s, c)
    | none => (commitApply s, 0)
  | 2 => (armSwaps (arg % 256) s, 0)
  | 3 => (msecSwitch (arg % 1024) s, 0)
  | 4 => (applyBatch (arg % 256) s, 0)
  | 5 => (gclSwap (arg % 128) s, 0)
  | 6 => (snapDue (2 ^ (arg % 16)) s, 0)
  | 7 => (sendInbox (arg % 8) (arg / 8 % 1024) 0 (BitVec.ofNat 32 (arg / 2 ^ 13)) none s, 0)
  | _ => (s, 0)

/-- Grid instants of a late periodic entry from its own to the first after a PHC time (R56, R57). -/
def gridSteps (instant period ref : Nat) : Nat := (phcNanos ref - instant) / period + 1

/-- The entry after it has fired: a one-shot one is no longer armed, a periodic one waits for its next instant
(R55 to R57). -/
def taNext (n : Nat) (e : TaRun) (s : State) : State :=
  let period := if 6 ≤ rfld s R.TAU_TA_ACT n 55 52 then 1000 * rfld s R.TAU_TA_PERIOD n 21 0 else 0
  if period = 0 then
    rsetF (withTau (fun t => { t with ta := mdel t.ta n }) s) R.TAU_TA_ACT n 63 63 0
  else
    let j := if e.late then gridSteps e.instant period (e.stepAt.getD s.tau.phc) else 1
    let i := e.instant + j * period
    let s := withTau (fun t => { t with ta := mput t.ta n ⟨i, false, none⟩ }) s
    let s := rcount s R.TAU_TA_PERIOD n 63 32 (j - 1)
    rset s R.TAU_TA_TIME n (BitVec.ofNat 64 (i / 1000000000 % 2 ^ 32 * 2 ^ 30 + i % 1000000000))

/-- One entry fires: its action, STATE and FAIL, TA_LATE or TA_FAIL, and what becomes of it (R53 to R57). -/
def taFireOne (n : Nat) (e : TaRun) (s : State) : State :=
  let w := rget s R.TAU_TA_ACT n
  let r := taAction (fld w 55 52) (fld w 51 0) s
  let st := if r.2 ≠ 0 then 4 else if e.late then 3 else 2
  let s := rsetF (rsetF r.1 R.TAU_TA_ACT n 62 60 st) R.TAU_TA_ACT n 59 56 r.2
  let s := if e.late then tauStatus 4 s else s
  let s := if r.2 ≠ 0 then tauStatus 5 s else s
  taNext n e (occur 1 1 (fld w 55 52) 1 s)

/-- TA_FIRE (R10, R53): the first entry that is due fires, unless eight have fired on this tick or an arrival of the
tick, such as a disarming write, still waits. -/
def execTaFire (s : State) : Out :=
  match s.tau.taDue with
  | [] => .next s
  | n :: rest =>
    if 8 ≤ s.tau.taFired || !arrivalsDone s then .next s
    else
      let s := commitEnd s
      let s := withTau (fun t => { t with taDue := rest, taOld := t.taOld - 1, taFired := t.taFired + 1 }) s
      match mfind s.tau.ta n with
      | some e => .next (taFireOne n e s)
      | none => .next s

/-! ### Ticks and steps -/

/-- The step asked for on an earlier tick takes effect (R39, R40): the PHC takes the new time; armed entries and PM
seconds follow (R57, R58, R277); every step is a discipline (R41). -/
def applyStep (s : State) : State :=
  match s.tau.step with
  | none => s
  | some (r, tick) =>
    if tick = s.tau.mono then s
    else
      let old := s.tau.phc
      let new := stepTarget old r
      let s := withTau (fun t => { t with phc := new, step := none, ta := taStepped old new t, taDue := taStillDue new t }) s
      let s := discipline s
      let s := if new = old then s else pmStepped (decide (old < new)) s
      taFallDue true s

/-- TIME_BUS_TICK: the tick that ends is counted by the Gauge (R485, R492); both counts move on by one tick (R36, R37,
R41), the Q-die's own at its nominal rate (R50); entries whose instant the PHC has reached fall due, unless a step takes
effect on this tick (R53, R57); sleeping threads wake (R107); and what is judged on every tick is judged: HOLDOVER after a write of 0, pools,
eligibility, the slots of the fabric links, requests that the memory controllers hold, the TMG's releases of the tick before (R337), immediate moves, and conditions that
interrupt. Of the tick that ends nothing is left behind: a step due on it, a commit written on it, register values that its writes had yet to replace, requests of the cipher engine (R456), and resets
that waited for PF0 (R402). -/
def execTimeBusTick (s : State) : Out :=
  let s := gauEnd (ctlApply (cphEnd (commitEnd (applyStep s))))
  let s := { s with was := [] }
  let s := withTau (fun t => { t with mono := (t.mono + 1) % 2 ^ 64, phc := phcWrap (t.phc + phcTickUnits s),
                                      qPhc := phcWrap (t.qPhc + 5 * 2 ^ 45), taOld := t.taDue.length, taFired := 0 }) s
  let s := if s.tau.step.isSome then s else taFallDue false s
  .next (intTick (memRelease .mch (memRelease .mcd (letGoTick (bpmTick (fabTick (judgeElig (tcamTick (lkpTick (csqTick (holdTick (inboxTick s))))))))))))

/-- PHC_STEP_APPLY (R39, R40): on the first tick after its write the step takes effect. -/
def execPhcStepApply (s : State) : Out := .next (applyStep s)

/-- SYS_MODE_WRITE (R32, R33): taken only while the fabric interface is disabled; otherwise a configuration
violation. -/
def execSysModeWrite (v : Word) (s : State) : Out :=
  if rfld s R.FAB_CTL 0 3 2 ≠ 0 then .next (cfgViolation 0 (regAddr R.GLB_SYS_MODE 0) s)
  else
    let mode := if fld v 1 0 = 3 then 0 else fld v 1 0
    let dev := if mode = 1 then min 1 (fld v 26 16) else fld v 26 16
    .next (rset s R.GLB_SYS_MODE 0 (BitVec.ofNat 64 (dev * 2 ^ 16 + (bit v 8).toNat * 2 ^ 8 + mode)))

end Sys2Proof.Machine
end

