-- ==== Sys2Proof/Machine/Access.lean ====
section
/-! DEFINITION. Host accesses to registers that have no row of their own: which accesses a block serves (R3, R26, R27,
R30, R410, R499, R503), what each register reads as and what a read clears (R4), and what a write stores where a rule
of the register's chapter goes beyond its access codes and clamps. -/

namespace Sys2Proof.Machine
open Sys2Proof

/-! ### Which accesses are served -/

/-- The state a meaning that goes on leaves. -/
def after (o : Out) (s : State) : State := match o with | .next t => t | .fault _ => s | .refused _ => s

/-- A whole, aligned access (R3). -/
def wholeAccess (off size : Nat) : Bool := decide (size = 8) && decide (off % 8 = 0)

/-- The GLB block and the mailbox registers, which recovery serves (R503). -/
def recoveryServes (off : Nat) : Bool :=
  decide (off < 0x100000) || decide (off = R.HIF_MBX_CTL.base) ||
    (decide (R.HIF_MBX_DATA.base ≤ off) && decide (off < R.HIF_MBX_DATA.base + 1024))

/-- A BAR0 offset is served: from STAGE 3 on (R499), in recovery the few offsets of R503, and a Q-die block only once
the bridge has trained (R30). -/
def bar0Served (s : State) (off : Nat) : Bool :=
  match qBlock off with
  | some _ => s.bridgeUp && decide (stage s ≠ 4)
  | none => if stage s = 4 then recoveryServes off else decide (3 ≤ stage s)

/-- The register, and its element, at a BAR0 offset; none where the offset is unassigned (R27). -/
def bar0Reg (off : Nat) : Option (Reg × Nat) := if off < 2 ^ 28 then regFind R.all off else none

/-- The PF0 ring and the register's place in it at a BAR0 offset (ch. 14). -/
def pf0RingAt (off : Nat) : Option (Nat × Nat) :=
  let b := 0x1410000
  if b ≤ off ∧ off < b + 0x40 * 16 then some (pf0Ring + (off - b) / 0x40, (off - b) % 0x40) else none

/-- The ring and the register's place in it at an offset of a slice's page (R419). -/
def pageRingAt (sl off : Nat) : Option (Nat × Nat) :=
  if 0x1000 ≤ off ∧ off < 0x1000 + 0x40 * 64 then some (64 * sl + (off - 0x1000) / 0x40, (off - 0x1000) % 0x40) else none

/-! ### Ring registers (R419 to R421) -/

/-- A ring register written. -/
def ringWrite (k o : Nat) (v : Word) (s : State) : State :=
  let x := ring s k
  if ringSeen s k then
    match o with
    | 0x00 => if x.st = 0 then setRing k { x with sqBase := setFld v 11 0 0 } s else s
    | 0x08 => if x.st = 0 then setRing k { x with cqBase := setFld v 11 0 0 } s else s
    | 0x10 => if x.st = 0 then setRing k { x with pub := setFld v 5 0 0 } s else s
    | 0x18 => setRing k (cfgWrite x v) s
    | 0x20 => if x.st = 0 then setRing k { x with start := clampIndex (sqLog x) v } s else s
    | _ => s
  else s

/-- A ring register as it reads. -/
def ringWord (s : State) (k o : Nat) : Word :=
  let x := ring s k
  if ringSeen s k then
    match o with
    | 0x00 => x.sqBase
    | 0x08 => x.cqBase
    | 0x10 => x.pub
    | 0x18 => setFld (setFld x.cfg 62 61 x.st) 63 63 (if x.st = 1 then 1 else 0)
    | 0x20 => x.start
    | 0x28 => x.cqHead
    | 0x30 => ringStat x
    | 0x38 => x.err
    | _ => 0
  else 0

/-- A read of a ring register: RING_ERR clears its four counters (R421). -/
def ringRead (k o : Nat) (s : State) : State :=
  let t := answer (ringWord s k o) s
  if ringSeen s k ∧ o = 0x38 then setRing k { ring s k with err := 0 } t else t

/-! ### Registers composed at the read -/

/-- STATE of a service thread's register (R100). -/
def svcStateCode (t : TState) : Nat :=
  match t with
  | .free => 0 | .ready => 1 | .waiting => 2 | .sleeping => 3 | .halted => 4 | .unavailable => 5 | .departing => 1

/-- STATE of a bank (R94). -/
def bankCode (b : BankSt) : Nat := match b with | .empty => 0 | .loaded => 1 | .active => 2 | .held => 3

/-- SEN_SVC_CTL as it reads (R100). -/
def svcCtlWord (s : State) (k : Nat) : Word :=
  let t := thr s k
  let w := rget s R.SEN_SVC_CTL k
  if t.svc ∨ t.st = .unavailable then
    setFld (setFld (setFld w 15 11 t.inbox.length) 10 7 t.exc) 6 4 (svcStateCode t.st)
  else setFld w 10 7 t.exc

/-- SEN_BANK_CTL as it reads (R94). -/
def bankCtlWord (s : State) (c : Nat) : Word :=
  let a := bank s c false
  let b := bank s c true
  let w := rget s R.SEN_BANK_CTL c
  setFld (setFld (setFld (setFld (setFld w 31 28 b.ver) 27 24 a.ver) 17 16 (bankCode b.st)) 15 14 (bankCode a.st))
    0 0 (course s c).activeB.toNat

/-- TAU_QUENCH_STAT as it reads (R67). -/
def quenchStatWord (s : State) : Word :=
  BitVec.ofNat 64 (s.tau.curEpoch % 2 ^ 16 * 2 ^ 48 + s.tau.pendOpen.toNat * 2 ^ 47 + s.tau.prevState % 4 * 2 ^ 45 +
    s.tau.lastResult % 8 * 2 ^ 42 + s.tau.pendCount % 2 ^ 21 * 2 ^ 21 + s.tau.prevCount % 2 ^ 21)

/-- LKP_EM_STAT of a table as it reads (R183). -/
def emStatWord (s : State) (t : Nat) : Word :=
  let es := s.lkp.ents.filter (fun e => decide (entTable e.1 = t))
  let st := es.countP (fun e => e.2.loc.wayNo.isNone)
  setFld (setFld (rget s R.LKP_EM_STAT t) 54 32 es.length) 24 16 st

/-- A row present in any live version (R220). -/
def rowAnyVersion (s : State) (x : TRow) : Bool :=
  x.c || (s.tau.pendOpen && x.pset && x.p) || (decide (s.tau.prevState ≠ 0) && x.vset && x.v)

/-- TCM_BANK_CFG of a bank as it reads (R220). -/
def bankCfgWord (s : State) (b : Nat) : Word :=
  setFld (rget s R.TCM_BANK_CFG b) 28 16
    (s.tcam.rows.countP (fun e => decide (e.1 / 4096 = b) && rowAnyVersion s e.2))

/-- The cells in use, each once however many copies share it (R301). -/
def cellsInUse (s : State) : List Nat :=
  ((s.tmg.qs.map (fun e => (e.2.skein.map (fun p => p.cells)).flatten)).flatten ++
    (s.tmg.cuts.map (fun c => c.cells)).flatten).dedup

/-- TMG_BUF_STAT as it reads (R301). -/
def bufStatWord (s : State) : Word :=
  let cs := cellsInUse s
  BitVec.ofNat 64 (cs.countP (fun k => !hbmCell s k) % 2 ^ 32 * 2 ^ 32 + cs.countP (fun k => hbmCell s k) % 2 ^ 32)

/-- CSQ ARG0 as it reads: its low 12 bits read zero except where the service names a table or a root in them (R480,
log 24). -/
def arg0Word (s : State) (k : Nat) : Word :=
  let svc := rfld s R.CSQ_REQ_CTL k 55 52
  if svc = 3 ∨ svc = 5 then rget s R.CSQ_ARG0 k else setFld (rget s R.CSQ_ARG0 k) 11 0 0

/-- What a register of the TAU, the SEN or GLB reads as where it is not simply stored. -/
def readTop (s : State) (r : Reg) (i : Nat) : Option Word :=
  if r.base = R.TAU_PHC_NS.base then some (phcNsWord s.tau.latch)
  else if r.base = R.TAU_MONO.base then some (BitVec.ofNat 64 s.tau.mono)
  else if r.base = R.TAU_QUENCH_STAT.base then some (quenchStatWord s)
  else if r.base = R.SEN_DISPQ_STAT.base then some (at_ s.sen.egrQ.length 16 ||| at_ s.sen.ingQ.length 0)
  else if r.base = R.SEN_BANK_CTL.base then some (bankCtlWord s i)
  else if r.base = R.SEN_SVC_CTL.base then some (svcCtlWord s i)
  else none

/-- What a register of the tables, the LIU or the Q-die reads as where it is not simply stored. -/
def readMid (s : State) (r : Reg) (i : Nat) : Option Word :=
  if r.base = R.LKP_LEARN_STAT.base then some (at_ s.lkp.learnQ.length 47 ||| at_ s.mgmtDown.toNat 46)
  else if r.base = R.LKP_EM_STAT.base then some (emStatWord s i)
  else if r.base = R.LKP_LPM_STAT.base then some (BitVec.ofNat 64 (unitsUsed s))
  else if r.base = R.TCM_BANK_CFG.base then some (bankCfgWord s i)
  else if r.base = R.TMG_ADM_WRED.base ∧ i % 4 = 3 then some 0
  else if r.base = R.TMG_BUF_STAT.base then some (bufStatWord s)
  else if r.base = R.FAB_DEMAND_STAT.base then some (setFld (rget s r i) 48 32 s.fab.demands.length)
  else none

/-- What a register of the CPH, the HIF, the CSQ or the ERR reads as where it is not simply stored. -/
def readLow (s : State) (r : Reg) (i : Nat) : Option Word :=
  if r.base = R.CPH_CACHE_STAT.base then some (setFld (rget s r i) 49 32 (pinned s))
  else if r.base = R.HIF_SLICE_STATE.base then some (sliceStateWord s (rfld s R.HIF_SLICE_CMD 0 43 32))
  else if r.base = R.HIF_SLICE_USE.base then some (sliceUseWord s (rfld s R.HIF_SLICE_CMD 0 43 32))
  else if r.base = R.CSQ_SEQ_STAT.base then some (seqStatWord s i)
  else if r.base = R.CSQ_ARG0.base then some (arg0Word s i)
  else if r.base = R.ERR_UNIT_STAT.base then some (unitStatWord s)
  else none

/-- A register as it reads. -/
def regRead (s : State) (r : Reg) (i : Nat) : Word :=
  ((readTop s r i).orElse (fun _ => (readMid s r i).orElse (fun _ => readLow s r i))).getD (rget s r i)

/-- What a read clears beyond the stored rc fields: counters held in the typed state, and a free value drawn. -/
def readClears (r : Reg) (i : Nat) (s : State) : State :=
  if r.base = R.LIU_TXTS_TAG.base then
    { s with liu := { s.liu with ports := mmod LiuPort.init s.liu.ports i (fun p => { p with
        txDrop := p.txDrop - rfld s r i 47 32 }) } }
  else if r.base = R.CSQ_SEQ_STAT.base then setSeq i { seqOf s i with traps := 0, faults := 0 } s
  else if r.base = R.ERR_UNIT_STAT.base then clearTotal s
  else s

/-- The row that a read of a register stands for, where it has one: a latch, or a FIFO's oldest record. -/
def rowRead (r : Reg) (i : Nat) : Option (State → Out) :=
  if r.base = R.TAU_PHC_SEC.base then some execPhcSecRead
  else if r.base = R.TAU_TOD_RX.base then some execTodRxRead
  else if r.base = R.SEN_STATE_DATA.base then some execStateDataRead
  else if r.base = R.LKP_NOTIFY0.base then some execLkpNotifyRead
  else if r.base = R.LIU_TXTS_TIME.base then some (execTxtsRead (Fin.ofNat 128 i))
  else if r.base = R.LIU_OTN_PM.base then some (execOtnPmRead (Fin.ofNat 32 i))
  else if r.base = R.TMG_TBL_DATA.base then some execTableDataRead
  else if r.base = R.BPM_ERR_LOG.base ∧ i = 0 then some execBpmErrLogRead
  else if r.base = R.CPH_NOTIFY.base then some execCphNotifyRead
  else if r.base = R.GAU_SAMPLE.base ∧ i = 0 then some execGauSampleRead
  else if r.base = R.ERR_LOG0.base then some execErrLogRead
  else none

/-- A register read: its value is answered and what the read clears is cleared (R4). -/
def readOf (r : Reg) (i : Nat) (s : State) : State :=
  match rowRead r i with
  | some f => after (f s) s
  | none =>
    if r.base = R.GLB_GPIO.base then drawn (answer (gpioWord s) s)
    else
      let t := readClears r i s
      rset (answer (regRead s r i) t) r i (clearRc r (rget t r i))

/-- COUNTER_READ_CLEAR (R4, with R3, R27, R30, R410, R499, R503): a host read. The data is answered, an access that is
not served reads zero, and rc fields clear. -/
def execCounterReadClear (a : HostAddr) (size : Nat) (s : State) : Out :=
  match a with
  | .bar0 off =>
    if wholeAccess off size then
      if bar0Served s off then
        match pf0RingAt off with
        | some (k, o) => .next (ringRead k o s)
        | none =>
          match bar0Reg off with
          | some (r, i) => .next (readOf r i s)
          | none => .next (answer 0 s)
      else .next (answer 0 (qDieRecord off s))
    else .next (answer 0 s)
  | .page sl off =>
    if wholeAccess off size then
      if (slice s sl.val).st = 0 then .next (answer 0 s)
      else if off = 0 then .next (answer (sliceCtlWord s sl.val) s)
      else match pageRingAt sl.val off with
        | some (k, o) => .next (ringRead k o s)
        | none => .next (answer 0 s)
    else .next (answer 0 s)

/-! ### Writes that a rule bounds further -/

/-- A store that a condition of the register's chapter ignores. -/
def storeIf (c : Bool) (r : Reg) (i : Nat) (v : Word) (s : State) : State := if c then hostStore false r i v s else s

/-- TAU_SYNCE_OUT (R48): SQUELCHED shows the lane it now names. -/
def synceWrite (k : Nat) (v : Word) (s : State) : State :=
  let s := hostStore false R.TAU_SYNCE_OUT k v s
  let l := rfld s R.TAU_SYNCE_OUT k 14 8
  rsetF s R.TAU_SYNCE_OUT k 0 0 (laneRetired s l || s.liu.unlocked.contains l).toNat

/-- TAU_PPS_CFG (R45): OUT_EN 0 holds the output low. -/
def ppsCfgWrite (v : Word) (s : State) : State :=
  let s := hostStore false R.TAU_PPS_CFG 0 v s
  if rbit s R.TAU_PPS_CFG 0 0 then s else ppsDrop s

/-- Writes of TAU and GLB registers. -/
def writeTau (r : Reg) (i : Nat) (v : Word) (s : State) : State :=
  if r.base = R.GLB_GPIO.base then after (execGpioWrite v s) s
  else if r.base = R.TAU_PPS_CFG.base then ppsCfgWrite v s
  else if r.base = R.TAU_QUENCH_CTL.base then quenchWrite v s
  else if r.base = R.TAU_SYNCE_OUT.base then synceWrite i v s
  else if r.base = R.TAU_TOD_TX.base then todWrite v s
  else if r.base = R.TAU_TOD_CFG.base then todLength (hostStore false r i v s)
  else if r.base = R.TAU_TA_TIME.base ∨ r.base = R.TAU_TA_ACT.base ∨ r.base = R.TAU_TA_PERIOD.base then
    storeIf (!taArmed s i) r i v s
  else hostStore false r i v s

/-- Writes of LKP registers: staging while a command runs (R199), table fields while EN is 1 (R177, R186). -/
def writeLkp (r : Reg) (i : Nat) (v : Word) (s : State) : State :=
  if r.base = R.LKP_CMD.base ∨ r.base = R.LKP_CMD_KEY.base ∨ r.base = R.LKP_CMD_NKEY.base ∨
      r.base = R.LKP_CMD_DATA0.base ∨ r.base = R.LKP_CMD_DATA1.base ∨ r.base = R.LKP_CMD_ATTR.base then
    storeIf (!rbit s R.LKP_CMD 0 63) r i v s
  else if r.base = R.LKP_EM_CFG.base then storeIf (!rbit s r i 63) r i v s
  else if r.base = R.LKP_FLOW_CFG.base ∨ r.base = R.LKP_FLOW_BASE.base then
    storeIf (!rbit s R.LKP_FLOW_CFG i 63) r i v s
  else hostStore false r i v s

/-- WIDTH of a bank, written only while the bank is free and holds nothing (R220). -/
def bankCfgWrite (b : Nat) (v : Word) (s : State) : State :=
  let old := rget s R.TCM_BANK_CFG b
  let t := hostStore false R.TCM_BANK_CFG b v s
  if fld old 63 62 = 0 ∧ fld (bankCfgWord s b) 28 16 = 0 then t else rsetF t R.TCM_BANK_CFG b 1 0 (fld old 1 0)

/-- A row block of a bank holds a row present in a live version, or a quarantined row (R239). -/
def blockHeld (s : State) (b k : Nat) : Bool :=
  let w := rfld s R.TCM_BANK_CFG b 1 0
  s.tcam.rows.any (fun e => decide (e.1 / 4096 = b) && decide (pfBlock w (e.1 % 4096) = k) &&
    (rowAnyVersion s e.2 || e.2.quar))

/-- Writes of TCM registers (R161, R199, R220, R222, R231, R239). -/
def writeTcm (r : Reg) (i : Nat) (v : Word) (s : State) : State :=
  if r.base = R.TCM_CMD.base ∨ r.base = R.TCM_CMD_KEY.base ∨ r.base = R.TCM_CMD_MASK.base ∨
      r.base = R.TCM_CMD_ASSOC.base then storeIf (!rbit s R.TCM_CMD 0 63) r i v s
  else if r.base = R.TCM_PPU_DATA.base ∨ r.base = R.TCM_PPU_MASK.base ∨ r.base = R.TCM_PPU_ATTR.base ∨
      r.base = R.TCM_PPU_CMD.base then storeIf (!rbit s R.TCM_PPU_CMD 0 63) r i v s
  else if r.base = R.TCM_TABLE_CFG.base then if tcamEn s i then tcamCfgLive i v s else hostStore false r i v s
  else if r.base = R.TCM_BANK_CFG.base then bankCfgWrite i v s
  else if r.base = R.TCM_PF_BLOCK.base then
    if blockHeld s (i / 32) (i % 32) then cfgViolation 5 (regAddr r i) s else hostStore false r i v s
  else if r.base = R.TCM_PF_SEL.base then
    if (List.range 32).any (fun k => decide (rfld s R.TCM_PF_BLOCK (32 * i + k) 7 0 ≠ 0)) then
      cfgViolation 5 (regAddr r i) s
    else hostStore false r i v s
  else hostStore false r i v s

/-- Writes of LIU registers (R249, R259). -/
def writeLiu (r : Reg) (i : Nat) (v : Word) (s : State) : State :=
  if r.base = R.LIU_PORT_CFG.base then portWrite i (setFld v 63 63 (rfld s r i 63 63)) s
  else if r.base = R.LIU_MSEC_CFG.base then hostStore false r i v (cfgNote i s)
  else if r.base = R.LIU_MSEC_SA.base then storeIf (!rbit s r i 63) r i v s
  else hostStore false r i v s

/-- Writes of TMG registers (R281, R297, R301, R304, R315, R322, R326). -/
def writeTmg (r : Reg) (i : Nat) (v : Word) (s : State) : State :=
  let w := storeVal s false r i v
  if r.base = R.TMG_TBL_ADDR.base then rset s r i (setFld w 18 0 (min (fld w 18 0) (tableSize (fld w 35 32) - 1)))
  else if r.base = R.TMG_BUF_CFG.base then storeIf (cellsInUse s).isEmpty r i v s
  else if r.base = R.TMG_BINDOFF_CMD.base then rset s r i (setFld w 39 20 (clampTo 1 (524288 - fld w 18 0) (fld w 39 20)))
  else if r.base = R.TMG_CAP_BASE.base then storeIf (!rbit s R.TMG_CAP_CFG 0 63) r i v s
  else if r.base = R.TMG_CAP_CFG.base then
    if bit v 63 = false then capCfgWrite v s
    else if rbit s r i 63 then rsetF s r i 23 0 (fld w 23 0) else rset s r i w
  else if r.base = R.TMG_ADM_CFG.base then unspillAll (hostStore false r i v s)
  else if r.base = R.TMG_PORT_SHAPE.base then setShape (nodeKey 1 i) (clampShape w) s
  else if r.base = R.TMG_ADM_WRED.base then
    if i % 4 = 3 then s else rset s r i (setFld w 55 28 (max (fld w 55 28) (fld w 27 0)))
  else if r.base = R.TMG_GCL_CYCLE.base then
    let n := fld w 31 0
    rset s r i (setFld w 31 0 (if n = 0 then 0 else clampTo 1000 1000000000 n))
  else if r.base = R.TMG_GCL.base then
    storeIf (decide (rfld s R.TMG_GCL_CFG (i / 512) 62 62 ≠ i % 512 / 256)) r i v s
  else hostStore false r i v s

/-- Writes of BPM registers (R332, R333, R338, R345). -/
def writeBpm (r : Reg) (i : Nat) (v : Word) (s : State) : State :=
  let w := storeVal s false r i v
  if r.base = R.BPM_CMD.base ∨ r.base = R.BPM_CMD_HANDLE.base ∨ r.base = R.BPM_CMD_ARG.base then
    storeIf (!rbit s R.BPM_CMD 0 63) r i v s
  else if r.base = R.BPM_POOL_CFG.base then poolFields i v s
  else if r.base = R.BPM_POOL_BASE.base then
    if poolEn s i then s
    else rset s r i (setFld (BitVec.ofNat 64 (min (fld w 40 0) (locSize s (poolLoc s i) - 1))) 11 0 0)
  else if r.base = R.BPM_POOL_THR.base then rset s r i (setFld w 31 0 (max (fld w 31 0) (fld w 63 32)))
  else hostStore false r i v s

/-- The refresh limits that act until this tick ends (R376). -/
def refNote (m : MemCtl) (s : State) : State :=
  withMem m (fun x => { x with refOld := some (s.tau.mono, refLimits s m) }) s

/-- Writes of a memory controller's registers (R372, R373, R376, R380, R390). -/
def writeMem (m : MemCtl) (r : Reg) (i : Nat) (v : Word) (s : State) : State :=
  if r.base = (rXOR m).base then
    if rbit s (rMAP m) 0 0 then cfgViolation (memBlock m) (regAddr r i) s
    else rset s r i (clampMask s m (storeVal s false r i v))
  else if r.base = (rTRAIN m).base then trainFields m v s
  else if r.base = (rREF m).base then hostStore false r i v (refNote m s)
  else if r.base = (rWINC m).base ∨ r.base = (rWINA m).base ∨ r.base = (rWIND m).base then
    storeIf (!rbit s (rWINC m) 0 63) r i v s
  else hostStore false r i v s

/-- The registers of R449 and R450, written only under the key lock. -/
def keyStaged (r : Reg) : Bool :=
  decide (r.base = R.CPH_KEY_CMD.base) || decide (r.base = R.CPH_KEY_DATA.base) ||
    decide (r.base = R.CPH_KEY_ATTR.base) || decide (r.base = R.CPH_KEY_LABEL.base)

/-- Writes of CPH registers (R4, R449 to R451, R460, R542). -/
def writeCph (r : Reg) (i : Nat) (v : Word) (s : State) : State :=
  if keyStaged r then
    if keyOwner s ≠ 1 then keyLockViolation (regAddr r i) s
    else if rbit s R.CPH_KEY_CMD 0 63 then s
    else hostStore true r i v s
  else if r.base = R.CPH_MSEC_PN.base then storeIf (!rbit s R.LIU_MSEC_SA i 63) r i v s
  else hostStore false r i v s

/-- Writes of HIF registers (R399, R400, R413, R417). -/
def writeHif (r : Reg) (i : Nat) (v : Word) (s : State) : State :=
  if r.base = R.HIF_MBX_CTL.base ∨ r.base = R.HIF_MBX_DATA.base then storeIf (decide (mbxOwner s = 1)) r i v s
  else storeIf (!rbit s R.HIF_SLICE_CMD 0 63) r i v s

/-- Writes of CSQ registers (R480). -/
def writeCsq (r : Reg) (i : Nat) (v : Word) (s : State) : State :=
  if r.base = R.CSQ_ARG0.base ∨ r.base = R.CSQ_ARG1.base ∨ r.base = R.CSQ_ARG2.base then
    storeIf (!rbit s R.CSQ_REQ_CTL i 63) r i v s
  else if r.base = R.CSQ_REQ_CTL.base then reqCtlFields i v s
  else hostStore false r i v s

/-- Writes of GAU registers: CLR of GAU_SLOT_CFG acts on the next tick (R493), and
GAU_SNAP_NOW asks for snapshots on it (R487). -/
def writeGau (r : Reg) (i : Nat) (v : Word) (s : State) : State :=
  if r.base = R.GAU_SLOT_CFG.base then
    let s := hostStore false r i v (slotClear s)
    if bit v 61 then withGau (fun g => { g with slotClr := some s.tau.mono }) s else s
  else if r.base = R.GAU_SNAP_NOW.base then after (execGauSnapNow v s) s
  else hostStore false r i v s

/-- Writes of ERR registers: ERR_INT_ALERT moves ALERT_N at once (R539). -/
def writeErr (r : Reg) (i : Nat) (v : Word) (s : State) : State :=
  let t := hostStore false r i v s
  if r.base = R.ERR_INT_ALERT.base then alertEdge s t else t

/-- A register of BAR0 written, by the block its offset lies in (R26). -/
def writeOf (r : Reg) (i : Nat) (v : Word) (s : State) : State :=
  let b := r.base / 0x100000
  if b < 2 then writeTau r i v s
  else if b < 4 then writeLiu r i v s
  else if b < 8 then hostStore false r i v s
  else if b < 10 then writeLkp r i v s
  else if b = 10 then writeTcm r i v s
  else if b = 11 then writeCph r i v s
  else if b < 16 then writeTmg r i v s
  else if b = 16 then writeBpm r i v s
  else if b = 17 then hostStore false r i v s
  else if b = 18 then writeMem .mcd r i v s
  else if b = 19 then writeMem .mch r i v s
  else if b = 20 then writeHif r i v s
  else if b = 21 then writeCsq r i v s
  else if b = 22 then writeGau r i v s
  else writeErr r i v s

/-- REGISTER_WRITE (R4 to R8, with R3, R27, R30, R410, R499, R503): a host write. Bits that start an action, and fields
that belong to a row of their own, are written through that row and are left by this one, but for TAU_QUENCH_CTL, of
which one write may set several bits (R67, log 8). -/
def execRegisterWrite (a : HostAddr) (size : Nat) (v : Word) (s : State) : Out :=
  match a with
  | .bar0 off =>
    if wholeAccess off size then
      if bar0Served s off then
        match pf0RingAt off with
        | some (k, o) => .next (ringWrite k o v s)
        | none =>
          match bar0Reg off with
          | some (r, i) => .next (writeOf r i v s)
          | none => .next s
      else .next (qDieRecord off s)
    else .next s
  | .page sl off =>
    if wholeAccess off size && decide ((slice s sl.val).st ≠ 0) then
      match pageRingAt sl.val off with
      | some (k, o) => .next (ringWrite k o v s)
      | none => .next s
    else .next s

end Sys2Proof.Machine
end

