-- ==== Sys2Proof/Machine/Alu.lean ====
section
/-! DEFINITION. The arithmetic, logic, bit-field, hash and checksum instructions of Stitch (R120 to R122, R129),
and NOP, TRAP and an undefined opcode (R114, R150). -/

namespace Sys2Proof.Machine
open Sys2Proof

/-- A register form: rd := f ra rb (R120). -/
def aluR (th : ThreadRef) (op : Nat) (f : FmtR) (g : Word → Word → Word) (s : State) : State :=
  issueLocal th op (fun w => decide (asR w = f))
    (fun t => .ok (gset t f.rd.toNat (g (greg t f.ra.toNat) (greg t f.rb.toNat)))) s

/-- A register form with one source: rd := f ra; RB is not read (R120). -/
def aluR1 (th : ThreadRef) (op : Nat) (f : FmtR) (g : Word → Word) (s : State) : State :=
  issueLocal th op (fun w => decide (asR w = f))
    (fun t => .ok (gset t f.rd.toNat (g (greg t f.ra.toNat)))) s

/-- An immediate form: rd := f ra IMM; AUX is ignored (R120). -/
def aluI (th : ThreadRef) (op : Nat) (f : FmtI) (g : Word → BitVec 32 → Word) (s : State) : State :=
  issueLocal th op (fun w => decide (asI w = f))
    (fun t => .ok (gset t f.rd.toNat (g (greg t f.ra.toNat) f.imm))) s

/-- An immediate form that reads rd in place of ra (MOVI, MOVHI). -/
def aluMov (th : ThreadRef) (op : Nat) (f : FmtI) (g : Word → BitVec 32 → Word) (s : State) : State :=
  issueLocal th op (fun w => decide (asI w = f))
    (fun t => .ok (gset t f.rd.toNat (g (greg t f.rd.toNat) f.imm))) s

/-- Number of 1 bits of a word. -/
def popCount (w : Word) : Nat := ((List.range 64).filter (fun i => w.toNat.testBit i)).length

/-- Number of leading zero bits of a word, 64 for zero. -/
def leadZeros (w : Word) : Nat := if w = 0 then 64 else 63 - Nat.log2 w.toNat

/-- EXT: the field of `wid` bits of `a` at `pos`, bits above 63 reading 0 (R121). -/
def extField (a : Word) (pos wid : Nat) : Word := BitVec.ofNat 64 ((a.toNat >>> pos) % 2 ^ wid)

/-- INS: bits `pos` to `pos + wid - 1` of `d` replaced by the low bits of `a`; bits past 63 are dropped (R121). -/
def insField (d a : Word) (pos wid : Nat) : Word :=
  let m := BitVec.ofNat 64 ((2 ^ wid - 1) <<< pos)
  (d &&& ~~~ m) ||| (BitVec.ofNat 64 (a.toNat <<< pos) &&& m)

/-- CSUMU: the incremental update of RFC 1624 (R129). -/
def csumUpdate (d a b : Word) : Word :=
  let n16 (x : Nat) : Nat := 65535 - x
  let sum := oc16 (oc16 (oc16 (oc16 (n16 (fld d 15 0)) (n16 (fld a 31 16))) (n16 (fld a 15 0))) (fld b 31 16))
    (fld b 15 0)
  BitVec.ofNat 64 (n16 sum)

/-- The seed of HASH: 0xFFFF_FFFF for FN 0 and for the undefined codes 2 and 3, rd[31:0] for FN 1 (R122). -/
def hashSeed (t : Thread) (f : FmtH) : BitVec 32 :=
  if f.fn = 1 then (greg t f.rd.toNat).truncate 32 else 0xFFFFFFFF#32

/-- NOP does nothing and counts once (R150). -/
def execNop (th : ThreadRef) (f : FmtX) (s : State) : Out :=
  .next (issue th 0x00 (fun w => decide (asX w = f))
    (fun k t s => occurThr codeWasted (k / 640) k (setThr s k t)) s)

/-- TRAP raises exception 7 (R150). -/
def execTrap (th : ThreadRef) (f : FmtX) (s : State) : Out :=
  .next (issueLocal th 0x01 (fun w => decide (asX w = f)) (fun _ => .exc 7) s)

/-- A word whose opcode R114 does not define raises exception 2 when it issues. -/
def execUndefinedOpcode (th : ThreadRef) (op : BitVec 8) (s : State) : Out :=
  .next (if definedOpcodes.contains op.toNat then s
    else issueLocal th op.toNat (fun _ => true) (fun _ => .exc 2) s)

/-- ADD (R120). -/
def execAdd (th : ThreadRef) (f : FmtR) (s : State) : Out := .next (aluR th 0x10 f (fun a b => a + b) s)
/-- SUB (R120). -/
def execSub (th : ThreadRef) (f : FmtR) (s : State) : Out := .next (aluR th 0x11 f (fun a b => a - b) s)
/-- AND (R120). -/
def execAnd (th : ThreadRef) (f : FmtR) (s : State) : Out := .next (aluR th 0x12 f (fun a b => a &&& b) s)
/-- OR (R120). -/
def execOr (th : ThreadRef) (f : FmtR) (s : State) : Out := .next (aluR th 0x13 f (fun a b => a ||| b) s)
/-- XOR (R120). -/
def execXor (th : ThreadRef) (f : FmtR) (s : State) : Out := .next (aluR th 0x14 f (fun a b => a ^^^ b) s)
/-- SHL (R113, R120). -/
def execShl (th : ThreadRef) (f : FmtR) (s : State) : Out :=
  .next (aluR th 0x15 f (fun a b => a <<< shAmt b.toNat) s)
/-- SHR (R113, R120). -/
def execShr (th : ThreadRef) (f : FmtR) (s : State) : Out :=
  .next (aluR th 0x16 f (fun a b => a >>> shAmt b.toNat) s)
/-- SAR (R113, R120). -/
def execSar (th : ThreadRef) (f : FmtR) (s : State) : Out :=
  .next (aluR th 0x17 f (fun a b => a.sshiftRight (shAmt b.toNat)) s)
/-- MUL: the low 64 bits of the product (R120). -/
def execMul (th : ThreadRef) (f : FmtR) (s : State) : Out := .next (aluR th 0x18 f (fun a b => a * b) s)
/-- MINU (R120). -/
def execMinu (th : ThreadRef) (f : FmtR) (s : State) : Out :=
  .next (aluR th 0x19 f (fun a b => if a.toNat < b.toNat then a else b) s)
/-- MAXU (R120). -/
def execMaxu (th : ThreadRef) (f : FmtR) (s : State) : Out :=
  .next (aluR th 0x1A f (fun a b => if a.toNat < b.toNat then b else a) s)
/-- POPC (R120). -/
def execPopc (th : ThreadRef) (f : FmtR) (s : State) : Out :=
  .next (aluR1 th 0x1B f (fun a => BitVec.ofNat 64 (popCount a)) s)
/-- CLZ: 64 for zero (R120). -/
def execClz (th : ThreadRef) (f : FmtR) (s : State) : Out :=
  .next (aluR1 th 0x1C f (fun a => BitVec.ofNat 64 (leadZeros a)) s)
/-- CSUMU: rd holds the old checksum (R129). -/
def execCsumu (th : ThreadRef) (f : FmtR) (s : State) : Out :=
  .next (issueLocal th 0x1D (fun w => decide (asR w = f))
    (fun t => .ok (gset t f.rd.toNat (csumUpdate (greg t f.rd.toNat) (greg t f.ra.toNat) (greg t f.rb.toNat)))) s)
/-- ADDI: IMM is sign-extended (R120). -/
def execAddi (th : ThreadRef) (f : FmtI) (s : State) : Out :=
  .next (aluI th 0x20 f (fun a i => a + sext32 i) s)
/-- ANDI: IMM is zero-extended (R120). -/
def execAndi (th : ThreadRef) (f : FmtI) (s : State) : Out :=
  .next (aluI th 0x21 f (fun a i => a &&& zext32 i) s)
/-- ORI (R120). -/
def execOri (th : ThreadRef) (f : FmtI) (s : State) : Out :=
  .next (aluI th 0x22 f (fun a i => a ||| zext32 i) s)
/-- XORI (R120). -/
def execXori (th : ThreadRef) (f : FmtI) (s : State) : Out :=
  .next (aluI th 0x23 f (fun a i => a ^^^ zext32 i) s)
/-- SHLI (R113, R120). -/
def execShli (th : ThreadRef) (f : FmtI) (s : State) : Out :=
  .next (aluI th 0x24 f (fun a i => a <<< shAmt i.toNat) s)
/-- SHRI (R113, R120). -/
def execShri (th : ThreadRef) (f : FmtI) (s : State) : Out :=
  .next (aluI th 0x25 f (fun a i => a >>> shAmt i.toNat) s)
/-- SARI (R113, R120). -/
def execSari (th : ThreadRef) (f : FmtI) (s : State) : Out :=
  .next (aluI th 0x26 f (fun a i => a.sshiftRight (shAmt i.toNat)) s)
/-- MOVI: rd := zero-extend(IMM) (R120). -/
def execMovi (th : ThreadRef) (f : FmtI) (s : State) : Out :=
  .next (aluMov th 0x28 f (fun _ i => zext32 i) s)
/-- MOVHI: rd[63:32] := IMM, rd[31:0] unchanged (R120). -/
def execMovhi (th : ThreadRef) (f : FmtI) (s : State) : Out :=
  .next (aluMov th 0x29 f (fun d i => setFld d 63 32 i.toNat) s)
/-- EXT (R121). -/
def execExt (th : ThreadRef) (f : FmtF) (s : State) : Out :=
  .next (issueLocal th 0x30 (fun w => decide (asF w = f))
    (fun t => .ok (gset t f.rd.toNat (extField (greg t f.ra.toNat) f.pos.toNat (widF f.wid)))) s)
/-- INS reads rd as well as writing it (R121). -/
def execIns (th : ThreadRef) (f : FmtF) (s : State) : Out :=
  .next (issueLocal th 0x31 (fun w => decide (asF w = f))
    (fun t => .ok (gset t f.rd.toNat
      (insField (greg t f.rd.toNat) (greg t f.ra.toNat) f.pos.toNat (widF f.wid)))) s)
/-- HASH: CRC-32C of registers ra to ra + KN - 1, most significant byte first (R122). -/
def execHash (th : ThreadRef) (f : FmtH) (s : State) : Out :=
  .next (issueLocal th 0x32 (fun w => decide (asH w = f))
    (fun t => .ok (gset t f.rd.toNat ((crc32c (hashSeed t f)
      (beBytes (8 * knOf f.kn) (gregs t f.ra.toNat (knOf f.kn)))).zeroExtend 64))) s)

end Sys2Proof.Machine
end

