-- ==== Sys2Proof/Machine/Flow.lean ====
section
/-! DEFINITION. The control-flow instructions of Stitch (R118, R119, R131). -/

namespace Sys2Proof.Machine
open Sys2Proof

/-- A conditional branch of format B: to TARGET when the test holds, otherwise on to the next word (R131). -/
def branch (th : ThreadRef) (op : Nat) (f : FmtB) (c : Thread → Bool) (s : State) : State :=
  issueLocal th op (fun w => decide (asB w = f))
    (fun t => .ok (if c t then { t with pc := f.target.toNat } else t)) s

/-- A branch that compares two registers. -/
def branchR (th : ThreadRef) (op : Nat) (f : FmtB) (c : Word → Word → Bool) (s : State) : State :=
  branch th op f (fun t => c (greg t f.ra.toNat) (greg t f.rb.toNat)) s

/-- A branch that compares a register with IMM16, zero-extended. -/
def branchI (th : ThreadRef) (op : Nat) (f : FmtB) (c : Nat → Nat → Bool) (s : State) : State :=
  branch th op f (fun t => c (greg t f.ra.toNat).toNat f.imm16.toNat) s

/-- JMP (R131). -/
def execJmp (th : ThreadRef) (f : FmtB) (s : State) : Out := .next (branch th 0x50 f (fun _ => true) s)

/-- CALL pushes the next address; with eight on the stack it raises exception 4 (R119). -/
def execCall (th : ThreadRef) (f : FmtB) (s : State) : Out :=
  .next (issueLocal th 0x51 (fun w => decide (asB w = f))
    (fun t => if t.stack.length < 8 then .ok { t with stack := t.pc :: t.stack, pc := f.target.toNat }
              else .exc 4) s)

/-- RET goes to the popped address; an empty stack raises exception 4 (R119). -/
def execRet (th : ThreadRef) (f : FmtB) (s : State) : Out :=
  .next (issueLocal th 0x52 (fun w => decide (asB w = f))
    (fun t => match t.stack with
      | [] => .exc 4
      | a :: rest => .ok { t with stack := rest, pc := a }) s)

/-- The index a jump table takes: the register's value, the last entry for one past the end (R131, R9). -/
def jtIndex (v : Word) (aux : BitVec 14) : Nat := min v.toNat (clampTo 1 16383 aux.toNat - 1)

/-- JT: into a table of COUNT jumps at IMM[15:0] (R131). -/
def execJt (th : ThreadRef) (f : FmtI) (s : State) : Out :=
  .next (issueLocal th 0x53 (fun w => decide (asI w = f))
    (fun t => .ok { t with pc := f.imm.toNat % 65536 + jtIndex (greg t f.ra.toNat) f.aux }) s)

/-- BEQ (R131). -/
def execBeq (th : ThreadRef) (f : FmtB) (s : State) : Out := .next (branchR th 0x54 f (fun a b => decide (a = b)) s)
/-- BNE (R131). -/
def execBne (th : ThreadRef) (f : FmtB) (s : State) : Out := .next (branchR th 0x55 f (fun a b => decide (a ≠ b)) s)
/-- BLTU (R131). -/
def execBltu (th : ThreadRef) (f : FmtB) (s : State) : Out := .next (branchR th 0x56 f (fun a b => a.ult b) s)
/-- BGEU (R131). -/
def execBgeu (th : ThreadRef) (f : FmtB) (s : State) : Out := .next (branchR th 0x57 f (fun a b => !a.ult b) s)
/-- BLT (R131). -/
def execBlt (th : ThreadRef) (f : FmtB) (s : State) : Out := .next (branchR th 0x58 f (fun a b => a.slt b) s)
/-- BGE (R131). -/
def execBge (th : ThreadRef) (f : FmtB) (s : State) : Out := .next (branchR th 0x59 f (fun a b => !a.slt b) s)
/-- BEQI (R131). -/
def execBeqi (th : ThreadRef) (f : FmtB) (s : State) : Out := .next (branchI th 0x5A f (fun a i => decide (a = i)) s)
/-- BNEI (R131). -/
def execBnei (th : ThreadRef) (f : FmtB) (s : State) : Out := .next (branchI th 0x5B f (fun a i => decide (a ≠ i)) s)
/-- BBS: taken when ra[BIT] is 1 (R131). -/
def execBbs (th : ThreadRef) (f : FmtB) (s : State) : Out :=
  .next (branch th 0x5C f (fun t => bit (greg t f.ra.toNat) f.bit.toNat) s)
/-- BBC: taken when ra[BIT] is 0 (R131). -/
def execBbc (th : ThreadRef) (f : FmtB) (s : State) : Out :=
  .next (branch th 0x5D f (fun t => !bit (greg t f.ra.toNat) f.bit.toNat) s)
/-- BLTUI (R131). -/
def execBltui (th : ThreadRef) (f : FmtB) (s : State) : Out := .next (branchI th 0x5E f (fun a i => decide (a < i)) s)
/-- BGEUI (R131). -/
def execBgeui (th : ThreadRef) (f : FmtB) (s : State) : Out := .next (branchI th 0x5F f (fun a i => decide (i ≤ a)) s)

end Sys2Proof.Machine
end

