-- ==== Sys2Proof/Machine/Dispatch.lean ====
section
/-! DEFINITION. The dispatch of a command to its meaning: one arm per constructor of `Instr`. -/

namespace Sys2Proof.Machine
open Sys2Proof

/-- What a command does to everything but the queue of commands that wait. -/
def exec (i : Instr) (s : State) : Host.Outcome State Fault Refusal :=
  match i with
  | .registerWrite a size v => Sys2Proof.Machine.execRegisterWrite a size v s
  | .counterReadClear a size => Sys2Proof.Machine.execCounterReadClear a size s
  | .courseModeWrite c v => Sys2Proof.Machine.execCourseModeWrite c v s
  | .courseDrainEnd c => Sys2Proof.Machine.execCourseDrainEnd c s
  | .sysModeWrite v => Sys2Proof.Machine.execSysModeWrite v s
  | .phcSecRead => Sys2Proof.Machine.execPhcSecRead s
  | .phcStepAbs v => Sys2Proof.Machine.execPhcStepAbs v s
  | .phcStepRel v => Sys2Proof.Machine.execPhcStepRel v s
  | .phcStepApply => Sys2Proof.Machine.execPhcStepApply s
  | .phcFreqWrite v => Sys2Proof.Machine.execPhcFreqWrite v s
  | .holdTimeoutWrite v => Sys2Proof.Machine.execHoldTimeoutWrite v s
  | .holdoverEnter => Sys2Proof.Machine.execHoldoverEnter s
  | .refLoss => Sys2Proof.Machine.execRefLoss s
  | .ppsInEdge => Sys2Proof.Machine.execPpsInEdge s
  | .ppsInLoss => Sys2Proof.Machine.execPpsInLoss s
  | .ppsOutEdge => Sys2Proof.Machine.execPpsOutEdge s
  | .ppsOutPulseEnd => Sys2Proof.Machine.execPpsOutPulseEnd s
  | .todMessageSend => Sys2Proof.Machine.execTodMessageSend s
  | .todByteRx b sec ns => Sys2Proof.Machine.execTodByteRx b sec ns s
  | .todRxRead => Sys2Proof.Machine.execTodRxRead s
  | .bridgeTimeFault => Sys2Proof.Machine.execBridgeTimeFault s
  | .taArm n v => Sys2Proof.Machine.execTaArm n v s
  | .taDisarm n v => Sys2Proof.Machine.execTaDisarm n v s
  | .taFire => Sys2Proof.Machine.execTaFire s
  | .quenchOpen => Sys2Proof.Machine.execQuenchOpen s
  | .quenchAbandon => Sys2Proof.Machine.execQuenchAbandon s
  | .quenchCommit => Sys2Proof.Machine.execQuenchCommit s
  | .drainTimerExpire => Sys2Proof.Machine.execDrainTimerExpire s
  | .previousEpochFreed => Sys2Proof.Machine.execPreviousEpochFreed s
  | .abandonedVersionReclaim n => Sys2Proof.Machine.execAbandonedVersionReclaim n s
  | .dispatchEnqueue side => Sys2Proof.Machine.execDispatchEnqueue side s
  | .threadStart side => Sys2Proof.Machine.execThreadStart side s
  | .packetDepart th => Sys2Proof.Machine.execPacketDepart th s
  | .bankLoad v => Sys2Proof.Machine.execBankLoad v s
  | .bankLoadDone img => Sys2Proof.Machine.execBankLoadDone img s
  | .swapNow c => Sys2Proof.Machine.execSwapNow c s
  | .svcStart th v => Sys2Proof.Machine.execSvcStart th v s
  | .svcStop th v => Sys2Proof.Machine.execSvcStop th v s
  | .svcWakeWrite v => Sys2Proof.Machine.execSvcWakeWrite v s
  | .inboxEntryArrive k => Sys2Proof.Machine.execInboxEntryArrive k s
  | .engineRetire c e sw => Sys2Proof.Machine.execEngineRetire c e sw s
  | .undefinedOpcode th op => Sys2Proof.Machine.execUndefinedOpcode th op s
  | .nop th f => Sys2Proof.Machine.execNop th f s
  | .trap th f => Sys2Proof.Machine.execTrap th f s
  | .add th f => Sys2Proof.Machine.execAdd th f s
  | .sub th f => Sys2Proof.Machine.execSub th f s
  | .and th f => Sys2Proof.Machine.execAnd th f s
  | .or th f => Sys2Proof.Machine.execOr th f s
  | .xor th f => Sys2Proof.Machine.execXor th f s
  | .shl th f => Sys2Proof.Machine.execShl th f s
  | .shr th f => Sys2Proof.Machine.execShr th f s
  | .sar th f => Sys2Proof.Machine.execSar th f s
  | .mul th f => Sys2Proof.Machine.execMul th f s
  | .minu th f => Sys2Proof.Machine.execMinu th f s
  | .maxu th f => Sys2Proof.Machine.execMaxu th f s
  | .popc th f => Sys2Proof.Machine.execPopc th f s
  | .clz th f => Sys2Proof.Machine.execClz th f s
  | .csumu th f => Sys2Proof.Machine.execCsumu th f s
  | .addi th f => Sys2Proof.Machine.execAddi th f s
  | .andi th f => Sys2Proof.Machine.execAndi th f s
  | .ori th f => Sys2Proof.Machine.execOri th f s
  | .xori th f => Sys2Proof.Machine.execXori th f s
  | .shli th f => Sys2Proof.Machine.execShli th f s
  | .shri th f => Sys2Proof.Machine.execShri th f s
  | .sari th f => Sys2Proof.Machine.execSari th f s
  | .movi th f => Sys2Proof.Machine.execMovi th f s
  | .movhi th f => Sys2Proof.Machine.execMovhi th f s
  | .ext th f => Sys2Proof.Machine.execExt th f s
  | .ins th f => Sys2Proof.Machine.execIns th f s
  | .hash th f => Sys2Proof.Machine.execHash th f s
  | .ldw th f => Sys2Proof.Machine.execLdw th f s
  | .stw th f => Sys2Proof.Machine.execStw th f s
  | .push th f => Sys2Proof.Machine.execPush th f s
  | .pop th f => Sys2Proof.Machine.execPop th f s
  | .apnd th f => Sys2Proof.Machine.execApnd th f s
  | .csum th f => Sys2Proof.Machine.execCsum th f s
  | .pmatch th f => Sys2Proof.Machine.execPmatch th f s
  | .mld th f => Sys2Proof.Machine.execMld th f s
  | .mst th f => Sys2Proof.Machine.execMst th f s
  | .mins th f => Sys2Proof.Machine.execMins th f s
  | .jmp th f => Sys2Proof.Machine.execJmp th f s
  | .call th f => Sys2Proof.Machine.execCall th f s
  | .ret th f => Sys2Proof.Machine.execRet th f s
  | .jt th f => Sys2Proof.Machine.execJt th f s
  | .beq th f => Sys2Proof.Machine.execBeq th f s
  | .bne th f => Sys2Proof.Machine.execBne th f s
  | .bltu th f => Sys2Proof.Machine.execBltu th f s
  | .bgeu th f => Sys2Proof.Machine.execBgeu th f s
  | .blt th f => Sys2Proof.Machine.execBlt th f s
  | .bge th f => Sys2Proof.Machine.execBge th f s
  | .beqi th f => Sys2Proof.Machine.execBeqi th f s
  | .bnei th f => Sys2Proof.Machine.execBnei th f s
  | .bbs th f => Sys2Proof.Machine.execBbs th f s
  | .bbc th f => Sys2Proof.Machine.execBbc th f s
  | .bltui th f => Sys2Proof.Machine.execBltui th f s
  | .bgeui th f => Sys2Proof.Machine.execBgeui th f s
  | .lkup th f => Sys2Proof.Machine.execLkup th f s
  | .lrn th f => Sys2Proof.Machine.execLrn th f s
  | .ciph th f => Sys2Proof.Machine.execCiph th f s
  | .sld th f => Sys2Proof.Machine.execSld th f s
  | .sst th f => Sys2Proof.Machine.execSst th f s
  | .atom th f => Sys2Proof.Machine.execAtom th f s
  | .wait th f => Sys2Proof.Machine.execWait th f s
  | .cnt th f => Sys2Proof.Machine.execCnt th f s
  | .time th f => Sys2Proof.Machine.execTime th f s
  | .disp th f => Sys2Proof.Machine.execDisp th f s
  | .sleep th f => Sys2Proof.Machine.execSleep th f s
  | .wake th f => Sys2Proof.Machine.execWake th f s
  | .send th f => Sys2Proof.Machine.execSend th f s
  | .lookupResult th tag late ev => Sys2Proof.Machine.execLookupResult th tag late ev s
  | .pmatchScanStart => Sys2Proof.Machine.execPmatchScanStart s
  | .pmatchResult th tag ecc => Sys2Proof.Machine.execPmatchResult th tag ecc s
  | .stateReadResult th tag ecc => Sys2Proof.Machine.execStateReadResult th tag ecc s
  | .stateDataRead => Sys2Proof.Machine.execStateDataRead s
  | .stateDataWrite v => Sys2Proof.Machine.execStateDataWrite v s
  | .counterLatch v => Sys2Proof.Machine.execCounterLatch v s
  | .ppuWrite v => Sys2Proof.Machine.execPpuWrite v s
  | .ppuRead v => Sys2Proof.Machine.execPpuRead v s
  | .ppuInvalidate v => Sys2Proof.Machine.execPpuInvalidate v s
  | .ppuCommandDone ecc => Sys2Proof.Machine.execPpuCommandDone ecc s
  | .emTableEnable t v => Sys2Proof.Machine.execEmTableEnable t v s
  | .emTableDisable t v => Sys2Proof.Machine.execEmTableDisable t v s
  | .flowTableEnable f v => Sys2Proof.Machine.execFlowTableEnable f v s
  | .flowTableDisable f v => Sys2Proof.Machine.execFlowTableDisable f v s
  | .tableClearDone t => Sys2Proof.Machine.execTableClearDone t s
  | .lkpRead v => Sys2Proof.Machine.execLkpRead v s
  | .lkpWrite v => Sys2Proof.Machine.execLkpWrite v s
  | .lkpInsert v => Sys2Proof.Machine.execLkpInsert v s
  | .lkpDelete v => Sys2Proof.Machine.execLkpDelete v s
  | .lkpMove v => Sys2Proof.Machine.execLkpMove v s
  | .lkpWithdraw v => Sys2Proof.Machine.execLkpWithdraw v s
  | .lkpCommandDone ev => Sys2Proof.Machine.execLkpCommandDone ev s
  | .stashReturn t => Sys2Proof.Machine.execStashReturn t s
  | .trieArrayFree => Sys2Proof.Machine.execTrieArrayFree s
  | .learnApply perr => Sys2Proof.Machine.execLearnApply perr s
  | .dampHoldEnd t key => Sys2Proof.Machine.execDampHoldEnd t key s
  | .ageingSweep t => Sys2Proof.Machine.execAgeingSweep t s
  | .lkpNotifyRead => Sys2Proof.Machine.execLkpNotifyRead s
  | .tcamTableEnable t v => Sys2Proof.Machine.execTcamTableEnable t v s
  | .tcamTableDisable t v => Sys2Proof.Machine.execTcamTableDisable t v s
  | .tcamTableClearDone t => Sys2Proof.Machine.execTcamTableClearDone t s
  | .tcamRead v => Sys2Proof.Machine.execTcamRead v s
  | .tcamWrite v => Sys2Proof.Machine.execTcamWrite v s
  | .tcamDelete v => Sys2Proof.Machine.execTcamDelete v s
  | .tcamMove v => Sys2Proof.Machine.execTcamMove v s
  | .tcamFindHole v => Sys2Proof.Machine.execTcamFindHole v s
  | .tcamSearch v => Sys2Proof.Machine.execTcamSearch v s
  | .tcamWithdraw v => Sys2Proof.Machine.execTcamWithdraw v s
  | .tcamRespread v => Sys2Proof.Machine.execTcamRespread v s
  | .tcamCommandDone ev => Sys2Proof.Machine.execTcamCommandDone ev s
  | .tcamScrubRead b row r => Sys2Proof.Machine.execTcamScrubRead b row r s
  | .tcamBankRetire b sw => Sys2Proof.Machine.execTcamBankRetire b sw s
  | .tcamSpareExchange t => Sys2Proof.Machine.execTcamSpareExchange t s
  | .portEnable p v => Sys2Proof.Machine.execPortEnable p v s
  | .portDisable p v => Sys2Proof.Machine.execPortDisable p v s
  | .linkUp p => Sys2Proof.Machine.execLinkUp p s
  | .linkDown p aligned lf rf hiBer => Sys2Proof.Machine.execLinkDown p aligned lf rf hiBer s
  | .frameStart p => Sys2Proof.Machine.execFrameStart p s
  | .frameHeaderReady p bytes => Sys2Proof.Machine.execFrameHeaderReady p bytes s
  | .frameComplete p bytes e => Sys2Proof.Machine.execFrameComplete p bytes e s
  | .frameTransmit p => Sys2Proof.Machine.execFrameTransmit p s
  | .txtsRead p => Sys2Proof.Machine.execTxtsRead p s
  | .macsecSaEnable p d a v => Sys2Proof.Machine.execMacsecSaEnable p d a v s
  | .macsecSaDisable p d a v => Sys2Proof.Machine.execMacsecSaDisable p d a v s
  | .msecSwitchWrite v => Sys2Proof.Machine.execMsecSwitchWrite v s
  | .macsecAssociationSwitch => Sys2Proof.Machine.execMacsecAssociationSwitch s
  | .rxOverlapEnd p => Sys2Proof.Machine.execRxOverlapEnd p s
  | .otnRxFrame o f => Sys2Proof.Machine.execOtnRxFrame o f s
  | .otnTxFrame o words => Sys2Proof.Machine.execOtnTxFrame o words s
  | .dlofDeclare o => Sys2Proof.Machine.execDlofDeclare o s
  | .dlofClear o => Sys2Proof.Machine.execDlofClear o s
  | .dlomDeclare o => Sys2Proof.Machine.execDlomDeclare o s
  | .dlomClear o => Sys2Proof.Machine.execDlomClear o s
  | .pmSecondEnd o => Sys2Proof.Machine.execPmSecondEnd o s
  | .otnPmRead o => Sys2Proof.Machine.execOtnPmRead o s
  | .laneRetire l sw => Sys2Proof.Machine.execLaneRetire l sw s
  | .lanePllLockLoss l => Sys2Proof.Machine.execLanePllLockLoss l s
  | .tableDataWrite v => Sys2Proof.Machine.execTableDataWrite v s
  | .tableDataRead => Sys2Proof.Machine.execTableDataRead s
  | .packetAdmit => Sys2Proof.Machine.execPacketAdmit s
  | .packetBodyCell src => Sys2Proof.Machine.execPacketBodyCell src s
  | .packetTailStored src => Sys2Proof.Machine.execPacketTailStored src s
  | .portSelect p hbm => Sys2Proof.Machine.execPortSelect p hbm s
  | .cutThroughTailLeave pid => Sys2Proof.Machine.execCutThroughTailLeave pid s
  | .shapeApply v => Sys2Proof.Machine.execShapeApply v s
  | .shaperBatchApply => Sys2Proof.Machine.execShaperBatchApply s
  | .gclSwapNow p v => Sys2Proof.Machine.execGclSwapNow p v s
  | .gclSwap p => Sys2Proof.Machine.execGclSwap p s
  | .gclEntryBoundary p => Sys2Proof.Machine.execGclEntryBoundary p s
  | .bindoffFlushDone p => Sys2Proof.Machine.execBindoffFlushDone p s
  | .rangeFlush v => Sys2Proof.Machine.execRangeFlush v s
  | .rangeFlushDone => Sys2Proof.Machine.execRangeFlushDone s
  | .captureEnable v => Sys2Proof.Machine.execCaptureEnable v s
  | .capTailWrite v => Sys2Proof.Machine.execCapTailWrite v s
  | .captureRecordWritten => Sys2Proof.Machine.execCaptureRecordWritten s
  | .poolEnable n v => Sys2Proof.Machine.execPoolEnable n v s
  | .poolDisable n v => Sys2Proof.Machine.execPoolDisable n v s
  | .allocationRequest r owner size mask => Sys2Proof.Machine.execAllocationRequest r owner size mask s
  | .releaseRequest r h tag => Sys2Proof.Machine.execReleaseRequest r h tag s
  | .incrementRequest r h n => Sys2Proof.Machine.execIncrementRequest r h n s
  | .transferRequest r h owner => Sys2Proof.Machine.execTransferRequest r h owner s
  | .bpmAllocate v => Sys2Proof.Machine.execBpmAllocate v s
  | .bpmRelease v => Sys2Proof.Machine.execBpmRelease v s
  | .bpmIncrement v => Sys2Proof.Machine.execBpmIncrement v s
  | .bpmTransfer v => Sys2Proof.Machine.execBpmTransfer v s
  | .bpmRead v => Sys2Proof.Machine.execBpmRead v s
  | .bpmCommandDone => Sys2Proof.Machine.execBpmCommandDone s
  | .bpmErrLogRead => Sys2Proof.Machine.execBpmErrLogRead s
  | .fabricEnable v => Sys2Proof.Machine.execFabricEnable v s
  | .fabricDisable v => Sys2Proof.Machine.execFabricDisable v s
  | .linkControlCellRx k crcOk nextSeq ackSeq nak => Sys2Proof.Machine.execLinkControlCellRx k crcOk nextSeq ackSeq nak s
  | .linkControlTimeout k => Sys2Proof.Machine.execLinkControlTimeout k s
  | .fabricFecLockLoss k => Sys2Proof.Machine.execFabricFecLockLoss k s
  | .cellSend voq => Sys2Proof.Machine.execCellSend voq s
  | .dataCellRx k crcOk cell => Sys2Proof.Machine.execDataCellRx k crcOk cell s
  | .reseqTimeout src => Sys2Proof.Machine.execReseqTimeout src s
  | .syncHoldEnd dst => Sys2Proof.Machine.execSyncHoldEnd dst s
  | .requestSend voq => Sys2Proof.Machine.execRequestSend voq s
  | .requestCellRx k crcOk h es => Sys2Proof.Machine.execRequestCellRx k crcOk h es s
  | .grantIssue p => Sys2Proof.Machine.execGrantIssue p s
  | .grantCellRx k crcOk g => Sys2Proof.Machine.execGrantCellRx k crcOk g s
  | .demandRecordExpire src voq => Sys2Proof.Machine.execDemandRecordExpire src voq s
  | .fabricLinkRetire k sw => Sys2Proof.Machine.execFabricLinkRetire k sw s
  | .memoryRequest m r => Sys2Proof.Machine.execMemoryRequest m r s
  | .rowIdleClose m bank => Sys2Proof.Machine.execRowIdleClose m bank s
  | .refreshIntervalBoundary m u => Sys2Proof.Machine.execRefreshIntervalBoundary m u s
  | .refreshIssue m u queued => Sys2Proof.Machine.execRefreshIssue m u queued s
  | .refreshPoll m u reading => Sys2Proof.Machine.execRefreshPoll m u reading s
  | .retrainTurn m ch => Sys2Proof.Machine.execRetrainTurn m ch s
  | .trainGo m v => Sys2Proof.Machine.execTrainGo m v s
  | .trainAbort m v => Sys2Proof.Machine.execTrainAbort m v s
  | .trainRunEnd m ch eye => Sys2Proof.Machine.execTrainRunEnd m ch eye s
  | .freqRequest m v => Sys2Proof.Machine.execFreqRequest m v s
  | .freqChangeEnd m => Sys2Proof.Machine.execFreqChangeEnd m s
  | .selfRefreshEnter m ch => Sys2Proof.Machine.execSelfRefreshEnter m ch s
  | .selfRefreshExitDone m ch => Sys2Proof.Machine.execSelfRefreshExitDone m ch s
  | .scrubRead m addr ecc => Sys2Proof.Machine.execScrubRead m addr ecc s
  | .memoryUnitRetire u sw => Sys2Proof.Machine.execMemoryUnitRetire u sw s
  | .windowRead m v => Sys2Proof.Machine.execWindowRead m v s
  | .windowWrite m v => Sys2Proof.Machine.execWindowWrite m v s
  | .windowAccessDone m ecc => Sys2Proof.Machine.execWindowAccessDone m ecc s
  | .memoryReady m init => Sys2Proof.Machine.execMemoryReady m init s
  | .sliceRead v => Sys2Proof.Machine.execSliceRead v s
  | .sliceCastOn v => Sys2Proof.Machine.execSliceCastOn v s
  | .sliceResize v => Sys2Proof.Machine.execSliceResize v s
  | .sliceReset v => Sys2Proof.Machine.execSliceReset v s
  | .sliceRemove v => Sys2Proof.Machine.execSliceRemove v s
  | .logStart v => Sys2Proof.Machine.execLogStart v s
  | .logSwap v => Sys2Proof.Machine.execLogSwap v s
  | .logStop v => Sys2Proof.Machine.execLogStop v s
  | .sliceCtlReset sl v => Sys2Proof.Machine.execSliceCtlReset sl v s
  | .heldResetApply sl => Sys2Proof.Machine.execHeldResetApply sl s
  | .sliceFree sl => Sys2Proof.Machine.execSliceFree sl s
  | .logFlushDone f => Sys2Proof.Machine.execLogFlushDone f s
  | .bitmapWordMerge sl w old => Sys2Proof.Machine.execBitmapWordMerge sl w old s
  | .pf1Flr => Sys2Proof.Machine.execPf1Flr s
  | .pf0Flr => Sys2Proof.Machine.execPf0Flr s
  | .busMasterDisable f => Sys2Proof.Machine.execBusMasterDisable f s
  | .dmaFault r pos addr => Sys2Proof.Machine.execDmaFault r pos addr s
  | .mbxClaim who => Sys2Proof.Machine.execMbxClaim who s
  | .mbxRelease who => Sys2Proof.Machine.execMbxRelease who s
  | .mbxGo who v msg => Sys2Proof.Machine.execMbxGo who v msg s
  | .mbxOwnerTimeout => Sys2Proof.Machine.execMbxOwnerTimeout s
  | .mbxResponse => Sys2Proof.Machine.execMbxResponse s
  | .mbxTimeout => Sys2Proof.Machine.execMbxTimeout s
  | .ringEnable r v => Sys2Proof.Machine.execRingEnable r v s
  | .ringDisable r v => Sys2Proof.Machine.execRingDisable r v s
  | .ringDisabled r => Sys2Proof.Machine.execRingDisabled r s
  | .cqHeadWrite r v => Sys2Proof.Machine.execCqHeadWrite r v s
  | .ringPoll r slot => Sys2Proof.Machine.execRingPoll r slot s
  | .descriptorFetch r slots => Sys2Proof.Machine.execDescriptorFetch r slots s
  | .descNop r => Sys2Proof.Machine.execDescNop r s
  | .descTx r data => Sys2Proof.Machine.execDescTx r data s
  | .descCipher r data => Sys2Proof.Machine.execDescCipher r data s
  | .descCounter r => Sys2Proof.Machine.execDescCounter r s
  | .descSvcStart r => Sys2Proof.Machine.execDescSvcStart r s
  | .descSvcStop r => Sys2Proof.Machine.execDescSvcStop r s
  | .descSvcWake r => Sys2Proof.Machine.execDescSvcWake r s
  | .descAlloc r => Sys2Proof.Machine.execDescAlloc r s
  | .descRelease r => Sys2Proof.Machine.execDescRelease r s
  | .descTransfer r => Sys2Proof.Machine.execDescTransfer r s
  | .descRxPost r => Sys2Proof.Machine.execDescRxPost r s
  | .completionWrite r => Sys2Proof.Machine.execCompletionWrite r s
  | .workTimeout r pos => Sys2Proof.Machine.execWorkTimeout r pos s
  | .orphanEnd r pos => Sys2Proof.Machine.execOrphanEnd r pos s
  | .publishRecordWrite r => Sys2Proof.Machine.execPublishRecordWrite r s
  | .irqHoldoffEnd r => Sys2Proof.Machine.execIrqHoldoffEnd r s
  | .keyLockClaim v => Sys2Proof.Machine.execKeyLockClaim v s
  | .keyLockRelease v => Sys2Proof.Machine.execKeyLockRelease v s
  | .keyRead v => Sys2Proof.Machine.execKeyRead v s
  | .keyInstall v => Sys2Proof.Machine.execKeyInstall v s
  | .keyErase v => Sys2Proof.Machine.execKeyErase v s
  | .keyDerive v => Sys2Proof.Machine.execKeyDerive v s
  | .keyWrap v => Sys2Proof.Machine.execKeyWrap v s
  | .keyUnwrap v => Sys2Proof.Machine.execKeyUnwrap v s
  | .keyCommandDone => Sys2Proof.Machine.execKeyCommandDone s
  | .eraseComplete => Sys2Proof.Machine.execEraseComplete s
  | .cipherRequestAccept => Sys2Proof.Machine.execCipherRequestAccept s
  | .cipherCoreDispatch k => Sys2Proof.Machine.execCipherCoreDispatch k s
  | .cipherRequestEnd k => Sys2Proof.Machine.execCipherRequestEnd k s
  | .cipherCoreRetire k sw => Sys2Proof.Machine.execCipherCoreRetire k sw s
  | .slotEccError slot => Sys2Proof.Machine.execSlotEccError slot s
  | .slotRecovery slot => Sys2Proof.Machine.execSlotRecovery slot s
  | .cphNotifyRead => Sys2Proof.Machine.execCphNotifyRead s
  | .microwordNext q => Sys2Proof.Machine.execMicrowordNext q s
  | .microwordJump q => Sys2Proof.Machine.execMicrowordJump q s
  | .microwordBranch q => Sys2Proof.Machine.execMicrowordBranch q s
  | .microwordCall q => Sys2Proof.Machine.execMicrowordCall q s
  | .microwordReturn q => Sys2Proof.Machine.execMicrowordReturn q s
  | .microwordDispatch q => Sys2Proof.Machine.execMicrowordDispatch q s
  | .microwordWait q => Sys2Proof.Machine.execMicrowordWait q s
  | .microwordYield q => Sys2Proof.Machine.execMicrowordYield q s
  | .microwordTrap q => Sys2Proof.Machine.execMicrowordTrap q s
  | .microwordResume q => Sys2Proof.Machine.execMicrowordResume q s
  | .microwordEnd q => Sys2Proof.Machine.execMicrowordEnd q s
  | .portAccessReturn q k data res => Sys2Proof.Machine.execPortAccessReturn q k data res s
  | .stepWatchdog q => Sys2Proof.Machine.execStepWatchdog q s
  | .sequencerRestart q => Sys2Proof.Machine.execSequencerRestart q s
  | .patchSwitch => Sys2Proof.Machine.execPatchSwitch s
  | .quiesceTimeout => Sys2Proof.Machine.execQuiesceTimeout s
  | .fill k v => Sys2Proof.Machine.execFill k v s
  | .copy k v => Sys2Proof.Machine.execCopy k v s
  | .sweepNow k v => Sys2Proof.Machine.execSweepNow k v s
  | .tcamScrubPassNow k v => Sys2Proof.Machine.execTcamScrubPassNow k v s
  | .trieUnitCompaction k v => Sys2Proof.Machine.execTrieUnitCompaction k v s
  | .scan k v => Sys2Proof.Machine.execScan k v s
  | .serviceAbort k v => Sys2Proof.Machine.execServiceAbort k v s
  | .heldServiceStart k => Sys2Proof.Machine.execHeldServiceStart k s
  | .serviceRequestEnd k steps reads => Sys2Proof.Machine.execServiceRequestEnd k steps reads s
  | .gauSnapNow v => Sys2Proof.Machine.execGauSnapNow v s
  | .gaugeSnapshot => Sys2Proof.Machine.execGaugeSnapshot s
  | .snapshotCollected n => Sys2Proof.Machine.execSnapshotCollected n s
  | .sampleDetect => Sys2Proof.Machine.execSampleDetect s
  | .gauSampleRead => Sys2Proof.Machine.execGauSampleRead s
  | .slotCounterClear => Sys2Proof.Machine.execSlotCounterClear s
  | .deviceReset boot => Sys2Proof.Machine.execDeviceReset boot s
  | .getInfo => Sys2Proof.Machine.execGetInfo s
  | .getNonce => Sys2Proof.Machine.execGetNonce s
  | .nonceExpire => Sys2Proof.Machine.execNonceExpire s
  | .updateBegin => Sys2Proof.Machine.execUpdateBegin s
  | .sectorEraseDone => Sys2Proof.Machine.execSectorEraseDone s
  | .updateBlock => Sys2Proof.Machine.execUpdateBlock s
  | .updateStatus => Sys2Proof.Machine.execUpdateStatus s
  | .updateEnd => Sys2Proof.Machine.execUpdateEnd s
  | .updateAbort => Sys2Proof.Machine.execUpdateAbort s
  | .activate => Sys2Proof.Machine.execActivate s
  | .managementRestart ph => Sys2Proof.Machine.execManagementRestart ph s
  | .commit => Sys2Proof.Machine.execCommit s
  | .settingsRead => Sys2Proof.Machine.execSettingsRead s
  | .settingsWrite => Sys2Proof.Machine.execSettingsWrite s
  | .ownerAddKey => Sys2Proof.Machine.execOwnerAddKey s
  | .ownerRevokeKey => Sys2Proof.Machine.execOwnerRevokeKey s
  | .ownerLock => Sys2Proof.Machine.execOwnerLock s
  | .ownerSvn => Sys2Proof.Machine.execOwnerSvn s
  | .secureCount => Sys2Proof.Machine.execSecureCount s
  | .certInstall => Sys2Proof.Machine.execCertInstall s
  | .getCsr => Sys2Proof.Machine.execGetCsr s
  | .reset => Sys2Proof.Machine.execReset s
  | .getVersion => Sys2Proof.Machine.execGetVersion s
  | .getCapabilities => Sys2Proof.Machine.execGetCapabilities s
  | .negotiateAlgorithms => Sys2Proof.Machine.execNegotiateAlgorithms s
  | .getDigests => Sys2Proof.Machine.execGetDigests s
  | .getCertificate slot off len => Sys2Proof.Machine.execGetCertificate slot off len s
  | .challenge slot nonce => Sys2Proof.Machine.execChallenge slot nonce s
  | .getMeasurements idx nonce => Sys2Proof.Machine.execGetMeasurements idx nonce s
  | .faultReport f => Sys2Proof.Machine.execFaultReport f s
  | .thresholdCrossing => Sys2Proof.Machine.execThresholdCrossing s
  | .errorWindowClose k u => Sys2Proof.Machine.execErrorWindowClose k u s
  | .errRetire v => Sys2Proof.Machine.execErrRetire v s
  | .errLogRead => Sys2Proof.Machine.execErrLogRead s
  | .intStatClear v => Sys2Proof.Machine.execIntStatClear v s
  | .bridgeFlitCrcError m => Sys2Proof.Machine.execBridgeFlitCrcError m s
  | .bridgeModuleOut m => Sys2Proof.Machine.execBridgeModuleOut m s
  | .bridgeModuleRetrain m ok => Sys2Proof.Machine.execBridgeModuleRetrain m ok s
  | .bridgeModuleRetire m sw => Sys2Proof.Machine.execBridgeModuleRetire m sw s
  | .emBlockRetire b sw => Sys2Proof.Machine.execEmBlockRetire b sw s
  | .pgInputRise k => Sys2Proof.Machine.execPgInputRise k s
  | .porstAssert => Sys2Proof.Machine.execPorstAssert s
  | .sysrstAssert => Sys2Proof.Machine.execSysrstAssert s
  | .perstAssert l => Sys2Proof.Machine.execPerstAssert l s
  | .perstDeassert l => Sys2Proof.Machine.execPerstDeassert l s
  | .gpioWrite v => Sys2Proof.Machine.execGpioWrite v s
  | .tapReset => Sys2Proof.Machine.execTapReset s
  | .timeBusTick => Sys2Proof.Machine.execTimeBusTick s
  | .timeLaneRelock => Sys2Proof.Machine.execTimeLaneRelock s
  | .laneLockRegain l => Sys2Proof.Machine.execLaneLockRegain l s
  | .dlosChange o on => Sys2Proof.Machine.execDlosChange o on s
  | .damChange o on => Sys2Proof.Machine.execDamChange o on s
  | .pcieLinkDown l => Sys2Proof.Machine.execPcieLinkDown l s
  | .pcieLinkUp l speed width flit => Sys2Proof.Machine.execPcieLinkUp l speed width flit s
  | .busMasterEnable f => Sys2Proof.Machine.execBusMasterEnable f s
  | .pgInputFall k => Sys2Proof.Machine.execPgInputFall k s

end Sys2Proof.Machine
end

