-- ==== Sys2Proof/WellFormed.lean ====
section
/-! DEFINITION. What makes a command well formed: operands their type alone does not bound, as the manual bounds
them. A sender is expected to send well-formed commands only; a meaning is defined on every command. -/

namespace Sys2Proof

/-- A register address within its space: PF0 BAR0 is 256 MiB (R26), a slice's page 64 KiB (ch. 13). -/
def addrOk (a : HostAddr) : Bool :=
  match a with
  | .bar0 off => decide (off < 2 ^ 28)
  | .page _ off => decide (off < 65536)

/-- The sizes of host accesses (R3 says what an access of another size than 8 does). -/
def sizeOk (n : Nat) : Bool := decide (n = 1 ∨ n = 2 ∨ n = 4 ∨ n = 8)

/-- A parity error's index fits LKP_PERR (R218). -/
def eventOk (e : LookupEvent) : Bool :=
  match e with
  | .parity _ i => decide (i < 2 ^ 29)
  | .clean => true
  | .corrected i => decide (i < 2 ^ 29)
  | .falseHit _ _ => true
  | .shadowBad _ _ => true

/-- The four slices of an OTUC4 frame, with positions inside the frame period (R264). -/
def otnOk (f : OtnRxFrame) : Bool :=
  decide (f.found.length ≤ 4) && f.found.all (fun l => l.all (fun p => decide (p < 15296)))

/-- A command is well formed. -/
def Instr.wf (i : Instr) : Bool :=
  match i with
  | .registerWrite a size _ => addrOk a && sizeOk size
  | .counterReadClear a size => addrOk a && sizeOk size
  | .courseModeWrite _ _ => true
  | .courseDrainEnd _ => true
  | .sysModeWrite _ => true
  | .phcSecRead => true
  | .phcStepAbs _ => true
  | .phcStepRel _ => true
  | .phcStepApply => true
  | .phcFreqWrite _ => true
  | .holdTimeoutWrite _ => true
  | .holdoverEnter => true
  | .refLoss => true
  | .ppsInEdge => true
  | .ppsInLoss => true
  | .ppsOutEdge => true
  | .ppsOutPulseEnd => true
  | .todMessageSend => true
  | .todByteRx _ sec ns => decide (sec.toNat < 2 ^ 48) && decide (ns.toNat < 1000000000)
  | .todRxRead => true
  | .bridgeTimeFault => true
  | .taArm _ _ => true
  | .taDisarm _ _ => true
  | .taFire => true
  | .quenchOpen => true
  | .quenchAbandon => true
  | .quenchCommit => true
  | .drainTimerExpire => true
  | .previousEpochFreed => true
  | .abandonedVersionReclaim _ => true
  | .dispatchEnqueue _ => true
  | .threadStart _ => true
  | .packetDepart _ => true
  | .bankLoad _ => true
  | .bankLoadDone _ => true
  | .swapNow _ => true
  | .svcStart _ _ => true
  | .svcStop _ _ => true
  | .svcWakeWrite _ => true
  | .inboxEntryArrive _ => true
  | .engineRetire _ _ _ => true
  | .undefinedOpcode _ _ => true
  | .nop _ _ => true
  | .trap _ _ => true
  | .add _ _ => true
  | .sub _ _ => true
  | .and _ _ => true
  | .or _ _ => true
  | .xor _ _ => true
  | .shl _ _ => true
  | .shr _ _ => true
  | .sar _ _ => true
  | .mul _ _ => true
  | .minu _ _ => true
  | .maxu _ _ => true
  | .popc _ _ => true
  | .clz _ _ => true
  | .csumu _ _ => true
  | .addi _ _ => true
  | .andi _ _ => true
  | .ori _ _ => true
  | .xori _ _ => true
  | .shli _ _ => true
  | .shri _ _ => true
  | .sari _ _ => true
  | .movi _ _ => true
  | .movhi _ _ => true
  | .ext _ _ => true
  | .ins _ _ => true
  | .hash _ _ => true
  | .ldw _ _ => true
  | .stw _ _ => true
  | .push _ _ => true
  | .pop _ _ => true
  | .apnd _ _ => true
  | .csum _ _ => true
  | .pmatch _ _ => true
  | .mld _ _ => true
  | .mst _ _ => true
  | .mins _ _ => true
  | .jmp _ _ => true
  | .call _ _ => true
  | .ret _ _ => true
  | .jt _ _ => true
  | .beq _ _ => true
  | .bne _ _ => true
  | .bltu _ _ => true
  | .bgeu _ _ => true
  | .blt _ _ => true
  | .bge _ _ => true
  | .beqi _ _ => true
  | .bnei _ _ => true
  | .bbs _ _ => true
  | .bbc _ _ => true
  | .bltui _ _ => true
  | .bgeui _ _ => true
  | .lkup _ _ => true
  | .lrn _ _ => true
  | .ciph _ _ => true
  | .sld _ _ => true
  | .sst _ _ => true
  | .atom _ _ => true
  | .wait _ _ => true
  | .cnt _ _ => true
  | .time _ _ => true
  | .disp _ _ => true
  | .sleep _ _ => true
  | .wake _ _ => true
  | .send _ _ => true
  | .lookupResult _ _ _ ev => eventOk ev
  | .pmatchScanStart => true
  | .pmatchResult _ _ _ => true
  | .stateReadResult _ _ _ => true
  | .stateDataRead => true
  | .stateDataWrite _ => true
  | .counterLatch _ => true
  | .ppuWrite _ => true
  | .ppuRead _ => true
  | .ppuInvalidate _ => true
  | .ppuCommandDone _ => true
  | .emTableEnable _ _ => true
  | .emTableDisable _ _ => true
  | .flowTableEnable _ _ => true
  | .flowTableDisable _ _ => true
  | .tableClearDone _ => true
  | .lkpRead _ => true
  | .lkpWrite _ => true
  | .lkpInsert _ => true
  | .lkpDelete _ => true
  | .lkpMove _ => true
  | .lkpWithdraw _ => true
  | .lkpCommandDone ev => eventOk ev
  | .stashReturn _ => true
  | .trieArrayFree => true
  | .learnApply perr => perr.all (fun i => decide (i < 2 ^ 29))
  | .dampHoldEnd _ _ => true
  | .ageingSweep t => t.errs.all (fun i => decide (i < 2 ^ 29))
  | .lkpNotifyRead => true
  | .tcamTableEnable _ _ => true
  | .tcamTableDisable _ _ => true
  | .tcamTableClearDone _ => true
  | .tcamRead _ => true
  | .tcamWrite _ => true
  | .tcamDelete _ => true
  | .tcamMove _ => true
  | .tcamFindHole _ => true
  | .tcamSearch _ => true
  | .tcamWithdraw _ => true
  | .tcamRespread _ => true
  | .tcamCommandDone ev => eventOk ev
  | .tcamScrubRead _ _ _ => true
  | .tcamBankRetire _ _ => true
  | .tcamSpareExchange _ => true
  | .portEnable _ _ => true
  | .portDisable _ _ => true
  | .linkUp _ => true
  | .linkDown _ _ _ _ _ => true
  | .frameStart _ => true
  | .frameHeaderReady _ bytes => decide (512 < bytes.length)
  | .frameComplete _ _ _ => true
  | .frameTransmit _ => true
  | .txtsRead _ => true
  | .macsecSaEnable _ _ _ _ => true
  | .macsecSaDisable _ _ _ _ => true
  | .msecSwitchWrite _ => true
  | .macsecAssociationSwitch => true
  | .rxOverlapEnd _ => true
  | .otnRxFrame _ f => otnOk f
  | .otnTxFrame _ _ => true
  | .dlofDeclare _ => true
  | .dlofClear _ => true
  | .dlomDeclare _ => true
  | .dlomClear _ => true
  | .pmSecondEnd _ => true
  | .otnPmRead _ => true
  | .laneRetire _ _ => true
  | .lanePllLockLoss _ => true
  | .tableDataWrite _ => true
  | .tableDataRead => true
  | .packetAdmit => true
  | .packetBodyCell _ => true
  | .packetTailStored _ => true
  | .portSelect _ _ => true
  | .cutThroughTailLeave _ => true
  | .shapeApply _ => true
  | .shaperBatchApply => true
  | .gclSwapNow _ _ => true
  | .gclSwap _ => true
  | .gclEntryBoundary _ => true
  | .bindoffFlushDone _ => true
  | .rangeFlush _ => true
  | .rangeFlushDone => true
  | .captureEnable _ => true
  | .capTailWrite _ => true
  | .captureRecordWritten => true
  | .poolEnable _ _ => true
  | .poolDisable _ _ => true
  | .allocationRequest _ _ size _ => decide (1 ≤ size) && decide (size ≤ 16384)
  | .releaseRequest _ _ _ => true
  | .incrementRequest _ _ n => decide (1 ≤ n) && decide (n ≤ 4095)
  | .transferRequest _ _ _ => true
  | .bpmAllocate _ => true
  | .bpmRelease _ => true
  | .bpmIncrement _ => true
  | .bpmTransfer _ => true
  | .bpmRead _ => true
  | .bpmCommandDone => true
  | .bpmErrLogRead => true
  | .fabricEnable _ => true
  | .fabricDisable _ => true
  | .linkControlCellRx _ _ _ _ _ => true
  | .linkControlTimeout _ => true
  | .fabricFecLockLoss _ => true
  | .cellSend _ => true
  | .dataCellRx _ _ cell => decide (cell.len ≤ 240) && decide (cell.payload.length = 240)
  | .reseqTimeout _ => true
  | .syncHoldEnd _ => true
  | .requestSend _ => true
  | .requestCellRx _ _ _ es => decide (es.length ≤ 30)
  | .grantIssue _ => true
  | .grantCellRx _ _ g => decide (g.es.length ≤ 30)
  | .demandRecordExpire _ _ => true
  | .fabricLinkRetire _ _ => true
  | .memoryRequest _ r => decide (r.addr < 2 ^ 41) && decide (1 ≤ r.len ∧ r.addr % 256 + r.len ≤ 256) &&
      (match r.write with | some bs => decide (bs.length = r.len) | none => true)
  | .rowIdleClose _ _ => true
  | .refreshIntervalBoundary _ _ => true
  | .refreshIssue _ _ _ => true
  | .refreshPoll _ _ _ => true
  | .retrainTurn _ _ => true
  | .trainGo _ _ => true
  | .trainAbort _ _ => true
  | .trainRunEnd _ _ _ => true
  | .freqRequest _ _ => true
  | .freqChangeEnd _ => true
  | .selfRefreshEnter _ _ => true
  | .selfRefreshExitDone _ _ => true
  | .scrubRead _ addr _ => decide (addr < 2 ^ 41)
  | .memoryUnitRetire _ _ => true
  | .windowRead _ _ => true
  | .windowWrite _ _ => true
  | .windowAccessDone _ _ => true
  | .memoryReady _ _ => true
  | .sliceRead _ => true
  | .sliceCastOn _ => true
  | .sliceResize _ => true
  | .sliceReset _ => true
  | .sliceRemove _ => true
  | .logStart _ => true
  | .logSwap _ => true
  | .logStop _ => true
  | .sliceCtlReset _ _ => true
  | .heldResetApply _ => true
  | .sliceFree _ => true
  | .logFlushDone _ => true
  | .bitmapWordMerge _ w _ => decide (w < 2 ^ 22)
  | .pf1Flr => true
  | .pf0Flr => true
  | .busMasterDisable _ => true
  | .dmaFault _ _ _ => true
  | .mbxClaim _ => true
  | .mbxRelease _ => true
  | .mbxGo _ _ msg => decide (msg.length ≤ 1024)
  | .mbxOwnerTimeout => true
  | .mbxResponse => true
  | .mbxTimeout => true
  | .ringEnable _ _ => true
  | .ringDisable _ _ => true
  | .ringDisabled _ => true
  | .cqHeadWrite _ _ => true
  | .ringPoll _ _ => true
  | .descriptorFetch _ slots => decide (slots.length ≤ 9)
  | .descNop _ => true
  | .descTx _ data => decide (data.length ≤ 16383)
  | .descCipher _ data => decide (data.length ≤ 65536)
  | .descCounter _ => true
  | .descSvcStart _ => true
  | .descSvcStop _ => true
  | .descSvcWake _ => true
  | .descAlloc _ => true
  | .descRelease _ => true
  | .descTransfer _ => true
  | .descRxPost _ => true
  | .completionWrite _ => true
  | .workTimeout _ _ => true
  | .orphanEnd _ _ => true
  | .publishRecordWrite _ => true
  | .irqHoldoffEnd _ => true
  | .keyLockClaim _ => true
  | .keyLockRelease _ => true
  | .keyRead _ => true
  | .keyInstall _ => true
  | .keyErase _ => true
  | .keyDerive _ => true
  | .keyWrap _ => true
  | .keyUnwrap _ => true
  | .keyCommandDone => true
  | .eraseComplete => true
  | .cipherRequestAccept => true
  | .cipherCoreDispatch _ => true
  | .cipherRequestEnd _ => true
  | .cipherCoreRetire _ _ => true
  | .slotEccError _ => true
  | .slotRecovery _ => true
  | .cphNotifyRead => true
  | .microwordNext _ => true
  | .microwordJump _ => true
  | .microwordBranch _ => true
  | .microwordCall _ => true
  | .microwordReturn _ => true
  | .microwordDispatch _ => true
  | .microwordWait _ => true
  | .microwordYield _ => true
  | .microwordTrap _ => true
  | .microwordResume _ => true
  | .microwordEnd _ => true
  | .portAccessReturn _ _ data _ => decide (data.length ≤ 64)
  | .stepWatchdog _ => true
  | .sequencerRestart _ => true
  | .patchSwitch => true
  | .quiesceTimeout => true
  | .fill _ _ => true
  | .copy _ _ => true
  | .sweepNow _ _ => true
  | .tcamScrubPassNow _ _ => true
  | .trieUnitCompaction _ _ => true
  | .scan _ _ => true
  | .serviceAbort _ _ => true
  | .heldServiceStart _ => true
  | .serviceRequestEnd _ _ _ => true
  | .gauSnapNow _ => true
  | .gaugeSnapshot => true
  | .snapshotCollected _ => true
  | .sampleDetect => true
  | .gauSampleRead => true
  | .slotCounterClear => true
  | .deviceReset boot => decide (boot.dimms.length ≤ 8) && boot.provision.all (fun p => decide (p.key.length = 32))
  | .getInfo => true
  | .getNonce => true
  | .nonceExpire => true
  | .updateBegin => true
  | .sectorEraseDone => true
  | .updateBlock => true
  | .updateStatus => true
  | .updateEnd => true
  | .updateAbort => true
  | .activate => true
  | .managementRestart _ => true
  | .commit => true
  | .settingsRead => true
  | .settingsWrite => true
  | .ownerAddKey => true
  | .ownerRevokeKey => true
  | .ownerLock => true
  | .ownerSvn => true
  | .secureCount => true
  | .certInstall => true
  | .getCsr => true
  | .reset => true
  | .getVersion => true
  | .getCapabilities => true
  | .negotiateAlgorithms => true
  | .getDigests => true
  | .getCertificate slot off len => decide (slot < 8) && decide (off < 65536) && decide (len < 65536)
  | .challenge slot _ => decide (slot < 8)
  | .getMeasurements idx _ => decide (idx < 256)
  | .faultReport f => decide (f.cls.val ≠ 4) && (decide (f.kind.val < 10) || decide (f.kind.val = 15))
  | .thresholdCrossing => true
  | .errorWindowClose _ u => decide (u < 640)
  | .errRetire _ => true
  | .errLogRead => true
  | .intStatClear _ => true
  | .bridgeFlitCrcError _ => true
  | .bridgeModuleOut _ => true
  | .bridgeModuleRetrain _ _ => true
  | .bridgeModuleRetire _ _ => true
  | .emBlockRetire _ _ => true
  | .pgInputRise _ => true
  | .porstAssert => true
  | .sysrstAssert => true
  | .perstAssert _ => true
  | .perstDeassert _ => true
  | .gpioWrite _ => true
  | .tapReset => true
  | .timeBusTick => true
  | .timeLaneRelock => true
  | .laneLockRegain _ => true
  | .dlosChange _ _ => true
  | .damChange _ _ => true
  | .pcieLinkDown _ => true
  | .pcieLinkUp _ speed width _ => decide (1 ≤ speed) && decide (speed ≤ 6) && decide (1 ≤ width) && decide (width ≤ 16)
  | .busMasterEnable _ => true
  | .pgInputFall _ => true

end Sys2Proof
end

