-- ==== Sys2Proof/Safety.lean ====
section
/-! DEFINITION. The terms the claims use: that a command completes and with what, what it leaves unchanged, when a
Stitch instruction issues, and the invariant of a run. -/

namespace Sys2Proof
open Sys2Proof.Machine

/-- Command `c` completes from `s`, and `P` holds of the next state. -/
def Completes (c : Instr) (s : State) (P : State → Prop) : Prop := ∃ t, exec c s = .next t ∧ P t

/-- No register but those at the addresses listed differs between two states. -/
def RegsBut (as : List Nat) (s t : State) : Prop := ∀ a, a ∉ as → mfind t.regs a = mfind s.regs a

/-- The address of element `i` of a register array. -/
abbrev adr (r : Reg) (i : Nat) : Nat := regAddr r i

/-- The thread of a reference, its context in a state. -/
abbrev ctx (s : State) (th : ThreadRef) : Thread := thr s (thrKey th)

/-- The conditions under which an instruction issues on a thread (R77 to R79, R89, R90, R117, R140, R156): the thread is
Ready and past the clock it resumed on, its program counter lies within its bank's image, the word there has the opcode and
the fields, its budget is not used up, it waits for no tag and for no frame, and it is its turn on its engine. -/
def Issues (s : State) (th : ThreadRef) (op : Nat) (ok : Word → Prop) : Prop :=
  (ctx s th).st = .ready ∧ (ctx s th).start ≤ s.tau.mono ∧ (ctx s th).pc < (thrBank s (thrKey th)).length ∧
  opcodeOf (thrWord s (thrKey th)) = op ∧ ok (thrWord s (thrKey th)) ∧
  budgetGone s (ctx s th) (decide (op = 0x78)) = false ∧ heldBack s (thrKey th) = false ∧ turn s (thrKey th) = true

/-- The issue slots once a thread has issued: its engine's is taken for `n` clocks (R77, R116). -/
def slotEng (s : State) (th : ThreadRef) (n : Nat) : SMap EngSt :=
  mset EngSt.init s.sen.engines (engKey (thrKey th)) ⟨thrKey th % 8, s.tau.mono + n⟩

/-- The Gauge once the engine's issue slot has been counted (R492). -/
def slotGau (s : State) (th : ThreadRef) : Gau := (slotUsed (thrKey th) 2 s).gau

/-- The state once an issue slot of one clock has been taken and counted, with the thread still as it was. -/
def slotTaken (s : State) (th : ThreadRef) : State :=
  { s with sen := { s.sen with engines := slotEng s th 1 }, gau := slotGau s th }

/-- The thread as an issue counts it (R78, R90, R91). -/
abbrev counted (s : State) (th : ThreadRef) : Thread := countIssue s.tau.mono (nextUse s (thrKey th)) (ctx s th)

/-- What an instruction whose effect is on its own thread leaves unchanged: everything but that thread, its engine's issue
slot, taken for `n` clocks, and the Gauge's record of the tick, which becomes `g`. -/
def ThreadOnly (s t : State) (th : ThreadRef) (n : Nat) (g : Gau) : Prop :=
  t = { s with sen := { s.sen with threads := t.sen.threads, engines := slotEng s th n }, gau := g } ∧
    ∀ j, j ≠ thrKey th → thr t j = thr s j

/-- A register result (R85, R112): register `rd` takes `v` unless it is g0, every other register is unchanged, and of the
thread nothing else changes but what every issue counts (R78, R90, R91) and the program counter, which moves on by one. -/
def WritesRd (c : Instr) (s : State) (th : ThreadRef) (rd : Nat) (v : Word) : Prop :=
  Completes c s fun t => ThreadOnly s t th 1 (slotGau s th) ∧
    (∀ i, i ≤ 31 → greg (ctx t th) i = if i = rd ∧ i ≠ 0 then v else greg (ctx s th) i) ∧
    ctx t th = { counted s th with g := (ctx t th).g }

/-- The thread after its issue, which takes `n` clocks, is `x`, and nothing else changes but the engine's issue slot and
the Gauge, which becomes `g`. -/
def ThreadBecomes (c : Instr) (s : State) (th : ThreadRef) (n : Nat) (g : Gau) (x : Thread) : Prop :=
  Completes c s fun t => ThreadOnly s t th n g ∧ ctx t th = x

/-- The invariant of a run: the register file is in rising order of address, so that a register is listed at most once,
and every command that waits is well formed. -/
def Inv (s : State) : Prop := risingFrom 0 s.regs = true ∧ s.pending.all Instr.wf = true

end Sys2Proof
end

