-- ==== Sys2Proof/Certificates/Slice0/Obligations.lean ====
section
/-! DEFINITION. What the provers prove of the model. Each statement names the rules it comes from. A command whose
condition does not hold changes nothing: that is this model's choice (log 2), and no rule of the manual, wherever a
statement says it and the docstring does not cite a rule for it. -/

open Sys2Proof Sys2Proof.Machine

/-! ### Stitch (ch. 3, 4) -/

/-- R120, R129: each register form that issues writes the value the manual gives to rd. MINU and MAXU are unsigned, a
shift amount above 63 is 63 (R113), CLZ of zero is 64, and CSUMU is the update of RFC 1624. -/
def Obligations.StitchRegisterFormsWriteRd : Prop :=
  ∀ (s : State) (th : ThreadRef) (f : FmtR),
    let a := greg (ctx s th) f.ra.toNat
    let b := greg (ctx s th) f.rb.toNat
    let d := greg (ctx s th) f.rd.toNat
    let rd := f.rd.toNat
    let can (op : Nat) : Prop := Issues s th op (fun w => asR w = f)
    (can 0x10 → WritesRd (.add th f) s th rd (a + b)) ∧
    (can 0x11 → WritesRd (.sub th f) s th rd (a - b)) ∧
    (can 0x12 → WritesRd (.and th f) s th rd (a &&& b)) ∧
    (can 0x13 → WritesRd (.or th f) s th rd (a ||| b)) ∧
    (can 0x14 → WritesRd (.xor th f) s th rd (a ^^^ b)) ∧
    (can 0x15 → WritesRd (.shl th f) s th rd (a <<< min b.toNat 63)) ∧
    (can 0x16 → WritesRd (.shr th f) s th rd (a >>> min b.toNat 63)) ∧
    (can 0x17 → WritesRd (.sar th f) s th rd (a.sshiftRight (min b.toNat 63))) ∧
    (can 0x18 → WritesRd (.mul th f) s th rd (BitVec.ofNat 64 (a.toNat * b.toNat % 2 ^ 64))) ∧
    (can 0x19 → WritesRd (.minu th f) s th rd (BitVec.ofNat 64 (min a.toNat b.toNat))) ∧
    (can 0x1A → WritesRd (.maxu th f) s th rd (BitVec.ofNat 64 (max a.toNat b.toNat))) ∧
    (can 0x1B → WritesRd (.popc th f) s th rd
      (BitVec.ofNat 64 ((List.range 64).countP (fun i => a.getLsbD i)))) ∧
    (can 0x1C → WritesRd (.clz th f) s th rd (if a = 0 then 64 else BitVec.ofNat 64 (63 - Nat.log2 a.toNat))) ∧
    (can 0x1D → WritesRd (.csumu th f) s th rd (csumUpdate d a b))

/-- R120 to R122: the immediate, field and hash forms. IMM is sign-extended for ADDI alone; MOVHI keeps the low half
of rd; INS reads rd; HASH is CRC-32C over KN registers, seeded from rd for FN 1. R121, bit by bit: INS replaces bits
POS to POS + WID - 1 of rd, those above 63 dropped, and keeps the others. -/
def Obligations.StitchImmediateAndFieldFormsWriteRd : Prop :=
  (∀ (s : State) (th : ThreadRef),
    (∀ f : FmtI,
      let a := greg (ctx s th) f.ra.toNat
      let d := greg (ctx s th) f.rd.toNat
      let rd := f.rd.toNat
      let can (op : Nat) : Prop := Issues s th op (fun w => asI w = f)
      (can 0x20 → WritesRd (.addi th f) s th rd (a + f.imm.signExtend 64)) ∧
      (can 0x21 → WritesRd (.andi th f) s th rd (a &&& f.imm.zeroExtend 64)) ∧
      (can 0x22 → WritesRd (.ori th f) s th rd (a ||| f.imm.zeroExtend 64)) ∧
      (can 0x23 → WritesRd (.xori th f) s th rd (a ^^^ f.imm.zeroExtend 64)) ∧
      (can 0x24 → WritesRd (.shli th f) s th rd (a <<< min f.imm.toNat 63)) ∧
      (can 0x25 → WritesRd (.shri th f) s th rd (a >>> min f.imm.toNat 63)) ∧
      (can 0x26 → WritesRd (.sari th f) s th rd (a.sshiftRight (min f.imm.toNat 63))) ∧
      (can 0x28 → WritesRd (.movi th f) s th rd (f.imm.zeroExtend 64)) ∧
      (can 0x29 → WritesRd (.movhi th f) s th rd (f.imm ++ d.truncate 32))) ∧
    (∀ f : FmtF,
      let a := greg (ctx s th) f.ra.toNat
      let d := greg (ctx s th) f.rd.toNat
      let n := clampTo 1 64 f.wid.toNat
      let can (op : Nat) : Prop := Issues s th op (fun w => asF w = f)
      (can 0x30 → WritesRd (.ext th f) s th f.rd.toNat (BitVec.ofNat 64 ((a.toNat >>> f.pos.toNat) % 2 ^ n))) ∧
      (can 0x31 → WritesRd (.ins th f) s th f.rd.toNat (insField d a f.pos.toNat n))) ∧
    (∀ f : FmtH,
      Issues s th 0x32 (fun w => asH w = f) →
      WritesRd (.hash th f) s th f.rd.toNat ((crc32c
        (if f.fn = 1 then (greg (ctx s th) f.rd.toNat).truncate 32 else 0xFFFFFFFF#32)
        (beBytes (8 * clampTo 1 5 f.kn.toNat) (gregs (ctx s th) f.ra.toNat (clampTo 1 5 f.kn.toNat)))).zeroExtend 64))) ∧
  (∀ (d a : Word) (pos wid i : Nat), pos < 64 → 1 ≤ wid → wid ≤ 64 → i < 64 →
    (insField d a pos wid).getLsbD i = if pos ≤ i ∧ i < pos + wid then a.getLsbD (i - pos) else d.getLsbD i)

/-- R123, R125, R127, R128, R130: the window and metadata forms. LDW and CSUM read the window from ra + OFF; STW
stores into it; PUSH and POP shift the stored bytes, of which 640 stay stored (where the rest goes is the model's
choice, log 61), and change FRAME_LEN with them; APND appends; MLD, MST and MINS read and write a metadata word. Each
effect stands on the thread as every issue leaves it, whose LAST_PC and INSTR_COUNT it has written. -/
def Obligations.StitchWindowAndMetadataForms : Prop :=
  ∀ (s : State) (th : ThreadRef),
    (∀ f : FmtW,
      let t := ctx s th
      let u := counted s th
      let p := u.pkt
      let o := winOff t f.ra f.off
      let n := clampTo 1 8 f.size.toNat
      let m := clampTo 1 64 f.n.toNat
      let v := greg t f.rd.toNat
      let two := (secondCycle (thrKey th) (slotUsed (thrKey th) 2 s)).gau
      let can (op : Nat) : Prop := Issues s th op (fun w => asW w = f)
      (can 0x40 →
        WritesRd (.ldw th f) s th f.rd.toNat (BitVec.ofNat 64 (beNat (winLoad t.pkt o n)))) ∧
      (can 0x41 →
        ThreadBecomes (.stw th f) s th 1 (slotGau s th) { u with pkt := winStore p o (beBytes n v.toNat) }) ∧
      (can 0x45 →
        WritesRd (.csum th f) s th f.rd.toNat
          (BitVec.ofNat 64 (csum16 (winLoad t.pkt o (clampTo 1 512 f.n.toNat))))) ∧
      (can 0x42 → frameLen p + m ≤ p.orig + 128 →
        let at' := min o (min p.win.length 511)
        let w := p.win.take at' ++ List.replicate m 0 ++ p.win.drop at'
        let q : Packet := { p with win := w.take 640, tail := w.drop 640 ++ p.tail }
        ThreadBecomes (.push th f) s th 2 two { u with pkt := setFrameLen q (frameLen p + m) }) ∧
      (can 0x43 →
        let at' := min o (min p.win.length 511)
        let k := min m (min (p.win.length - at') (512 - at'))
        ThreadBecomes (.pop th f) s th 2 two
          { u with pkt := setFrameLen { p with win := p.win.take at' ++ p.win.drop (at' + k) } (frameLen p - k) }) ∧
      (can 0x44 → frameLen p + n ≤ p.orig + 128 →
        ThreadBecomes (.apnd th f) s th 1 (slotGau s th) { u with pkt := appendBytes p (beBytes n v.toNat) })) ∧
    (∀ f : FmtM,
      let t := ctx s th
      let u := counted s th
      let i := f.midx.toNat
      let can (op : Nat) : Prop := Issues s th op (fun w => asM w = f)
      (can 0x48 →
        WritesRd (.mld th f) s th f.rd.toNat ((mdWord u.pkt i).zeroExtend 64)) ∧
      (can 0x49 →
        ThreadBecomes (.mst th f) s th 1 (slotGau s th)
          { u with pkt := mdProgWrite u.pkt i ((greg t f.ra.toNat).truncate 32) }) ∧
      (can 0x4A →
        ThreadBecomes (.mins th f) s th 1 (slotGau s th)
          { u with pkt := mdProgWrite u.pkt i (minsWord (mdWord u.pkt i) (greg t f.ra.toNat) f.pos.toNat
                                                (clampTo 1 32 f.wid.toNat)) }))

/-- R87, R123: a store changes the stored bytes at its offsets up to 511 and no other, and the stored length stays; a
load of what lies at or above the stored length, or above 511, reads zero. R86, R130: what a program writes to a
metadata word. The fields marked hw keep their values, m0, m3, m4 and m15 whole; the other words and the rest of the
packet are unchanged; COLOR never takes its undefined code. -/
def Obligations.WindowAndMetadataWritesStayInside : Prop :=
  (∀ (p : Packet) (o : Nat) (bs : Bytes),
    (winStore p o bs).win.length = p.win.length ∧
    (winStore p o bs) = { p with win := (winStore p o bs).win } ∧
    (∀ i, i < p.win.length → byteAt (winStore p o bs).win i =
      if o ≤ i ∧ i < o + bs.length ∧ i ≤ 511 then byteAt bs (i - o) else byteAt p.win i) ∧
    ∀ n i, i < n → byteAt (winLoad p o n) i = if o + i < p.win.length ∧ o + i ≤ 511 then byteAt p.win (o + i) else 0) ∧
  (∀ (p : Packet) (i : Nat) (v : Word32),
    (∀ j, j ≠ i → mdWord (mdProgWrite p i v) j = mdWord p j) ∧
    mdProgWrite p i v = { p with md := (mdProgWrite p i v).md } ∧
    (∀ b, (mdHw i).getLsbD b = true → (mdWord (mdProgWrite p i v) i).getLsbD b = (mdWord p i).getLsbD b) ∧
    (i = 0 ∨ i = 3 ∨ i = 4 ∨ i = 15 → mdWord (mdProgWrite p i v) i = mdWord p i) ∧
    (i = 2 ∨ 6 ≤ i ∧ i ≤ 12 → mdWord (mdProgWrite p i v) i = v))

/-- R119, R131: the control-flow forms that issue. A taken branch goes to TARGET, one not taken to the next address;
CALL pushes the next address, RET pops it; a jump table takes its last entry for an index past its end. -/
def Obligations.StitchControlFlowForms : Prop :=
  ∀ (s : State) (th : ThreadRef),
    let t := ctx s th
    let u := counted s th
    (∀ f : FmtB,
      let a := greg t f.ra.toNat
      let b := greg t f.rb.toNat
      let i := f.imm16.toNat
      let go (taken : Prop) [Decidable taken] : Thread := { u with pc := if taken then f.target.toNat else t.pc + 1 }
      let can (op : Nat) : Prop := Issues s th op (fun w => asB w = f)
      let ends (c : Instr) (x : Thread) : Prop := ThreadBecomes c s th 1 (slotGau s th) x
      (can 0x50 → ends (.jmp th f) (go True)) ∧
      (can 0x51 → t.stack.length < 8 →
        ends (.call th f) { u with stack := (t.pc + 1) :: t.stack, pc := f.target.toNat }) ∧
      (∀ r rest, can 0x52 → t.stack = r :: rest → ends (.ret th f) { u with stack := rest, pc := r }) ∧
      (can 0x54 → ends (.beq th f) (go (a = b))) ∧
      (can 0x55 → ends (.bne th f) (go (a ≠ b))) ∧
      (can 0x56 → ends (.bltu th f) (go (a.toNat < b.toNat))) ∧
      (can 0x57 → ends (.bgeu th f) (go (b.toNat ≤ a.toNat))) ∧
      (can 0x58 → ends (.blt th f) (go (a.toInt < b.toInt))) ∧
      (can 0x59 → ends (.bge th f) (go (b.toInt ≤ a.toInt))) ∧
      (can 0x5A → ends (.beqi th f) (go (a.toNat = i))) ∧
      (can 0x5B → ends (.bnei th f) (go (a.toNat ≠ i))) ∧
      (can 0x5C → ends (.bbs th f) (go (a.getLsbD f.bit.toNat = true))) ∧
      (can 0x5D → ends (.bbc th f) (go (a.getLsbD f.bit.toNat = false))) ∧
      (can 0x5E → ends (.bltui th f) (go (a.toNat < i))) ∧
      (can 0x5F → ends (.bgeui th f) (go (i ≤ a.toNat)))) ∧
    (∀ f : FmtI,
      Issues s th 0x53 (fun w => asI w = f) →
      ThreadBecomes (.jt th f) s th 1 (slotGau s th)
        { u with pc := f.imm.toNat % 65536 + min (greg t f.ra.toNat).toNat (max 1 f.aux.toNat - 1) })

/-- R91 to R93, R114, R117 to R119, R150: what raises an exception, and which comes first. A spent budget raises 1 in
a packet thread and 9 in a service thread, before a program counter at or beyond the image's length raises 3, before
the instruction's own: 7 for TRAP, 2 for an opcode R114 does not define, 4 for a CALL on a full stack and a RET on an
empty one. R90, R93, R102: when a budget is spent. A packet thread issues 1,024 instructions, a handler 64, and a
service thread SVC_BUDGET between one SLEEP and the next, the SLEEP not counted among them. R91, R92, R93, R102: what
an exception does. It is counted by its code; a packet's REASON takes the code; a handler's exception and action 0
drop the packet, action 2 starts the handler at its address with an empty stack; a service thread halts with the code
and an empty inbox. -/
def Obligations.StitchExceptionsAndBudgets : Prop :=
  (∀ (s : State) (th : ThreadRef),
    let t := ctx s th
    let k := thrKey th
    let raised (c : Instr) (code : Nat) (x : State) : Prop := exec c s = .next (raiseExc k code x)
    let own (c : Instr) (code : Nat) : Prop :=
      raised c code (setThr (slotTaken s th) k (counted s th))
    (∀ f : FmtX, Issues s th 0x01 (fun w => asX w = f) → own (.trap th f) 7) ∧
    (∀ op : BitVec 8, definedOpcodes.contains op.toNat = false → Issues s th op.toNat (fun _ => True) →
      own (.undefinedOpcode th op) 2) ∧
    (∀ f : FmtB, Issues s th 0x51 (fun w => asB w = f) → 8 ≤ t.stack.length → own (.call th f) 4) ∧
    (∀ f : FmtB, Issues s th 0x52 (fun w => asB w = f) → t.stack = [] → own (.ret th f) 4) ∧
    (∀ f : FmtX, Issues s th 0x00 (fun w => asX w = f) →
      ThreadBecomes (.nop th f) s th 1 (occurThr codeWasted (k / 640) k (slotTaken s th)).gau (counted s th) ∧ (counted s th).count = t.count + 1) ∧
    (∀ f : FmtX,
      let can (op : Nat) : Prop := Issues s th op (fun w => asX w = f)
      (can 0x78 → t.svc = false → own (.sleep th f) 2) ∧
      (can 0x79 → t.svc = false → own (.wake th f) 2) ∧
      (can 0x7A → t.svc = false → own (.send th f) 2) ∧
      (can 0x72 → t.svc = true → own (.disp th f) 2)) ∧
    (∀ f : FmtX, t.st = .ready → t.start ≤ s.tau.mono → turn s k = true → (thrBank s k).length ≤ t.pc →
      let spent := budgetGone s t (decide (opcodeOf (thrWord s k) = 0x78))
      (spent = false → raised (.nop th f) 3 s) ∧ (spent = true → raised (.nop th f) (if t.svc then 9 else 1) s))) ∧
  (∀ (s : State) (t : Thread) (isSleep : Bool),
    budgetGone s t isSleep = true ↔
      (t.svc = false ∧ t.handler = true ∧ 64 ≤ t.spent) ∨
      (t.svc = false ∧ t.handler = false ∧ 1024 ≤ t.count) ∨
      (t.svc = true ∧ isSleep = false ∧ rfld s R.SEN_SVC_BUDGET 0 19 0 ≤ t.spent)) ∧
  (∀ (s : State) (k code : Nat), code < 16 →
    let t := thr s k
    let x := raiseExc k code s
    let cfg := rget s R.SEN_EXC_CFG code
    (t.svc = true ∨ t.handler = true ∨ fld cfg 1 0 ≠ 1 →
      rfld x R.SEN_EXC_COUNT code 47 0 = min (rfld s R.SEN_EXC_COUNT code 47 0 + 1) (2 ^ 48 - 1)) ∧
    (t.svc = true → (thr x k).st = .halted ∧ (thr x k).exc = code ∧ (thr x k).inbox = [] ∧ (thr x k).reqs = []) ∧
    (t.svc = false → t.handler = true → (thr x k).st = .free ∨ (thr x k).st = .unavailable) ∧
    (t.svc = false → t.handler = false → fld cfg 1 0 = 0 → (thr x k).st = .free ∨ (thr x k).st = .unavailable) ∧
    (t.svc = false → t.handler = false → fld cfg 1 0 = 2 →
      (thr x k).st = .ready ∧ (thr x k).handler = true ∧ (thr x k).pc = fld cfg 31 16 ∧ (thr x k).stack = [] ∧
      (thr x k).spent = 0 ∧ mdF (thr x k).pkt 14 31 24 = code))

/-- R89, R132, R134, R137, R142, R143: the instructions that send a request, where they issue. The request joins the
thread's outstanding ones under its tag; ATOM writes the new word in the same step, PMATCH queues for a scan lane,
LKUP takes the profile as it stood when the tick began, the key as it stands, and what the tables hold once the tick's
changes are made. Of the state only what is listed changes. -/
def Obligations.RequestInstructionsSend : Prop :=
  ∀ (s : State) (th : ThreadRef),
    let t := ctx s th
    let k := thrKey th
    let ends (c : Instr) (x : State) : Prop := exec c s = .next x
    let waitsWith (r : Req) : Thread := { counted s th with reqs := t.reqs ++ [r] }
    (∀ f : FmtL, let p := rwas s R.LKP_PROFILE f.profile.toNat
      Issues s th 0x60 (fun w => asL w = f) → comes s beforeLookup = false →
      let key := keyOf t f.rk f.kn (profKeyBits s p)
      let vt := threadTag s (counted s th)
      let s0 := slotTaken s th
      let found := lookup s0 p key ((viewOf s0 vt).getD .cur)
      ends (.lkup th f) (memAsks .mcd (profReads s p key) (countLookup p (setThr s0 k
        (waitsWith ⟨f.tag.toNat, f.rd.toNat, decide (f.rw = 1), .lookup p key vt found⟩))))) ∧
    (∀ f : FmtW,
      Issues s th 0x46 (fun w => asW w = f) →
      ends (.pmatch th f)
        (let u := setThr (slotTaken s th) k (waitsWith ⟨f.tag.toNat, f.rd.toNat, false,
            .pmatch f.set.toNat (min (winOff t f.ra f.off) 511) (frameBytes (counted s th).pkt) (!(counted s th).pkt.complete)
              none⟩)
         { u with ppu := { u.ppu with queue := s.ppu.queue ++ [(k, f.tag.toNat)] } })) ∧
    (∀ f : FmtI, let a := min (greg t f.ra.toNat + BitVec.ofNat 64 f.imm.toNat).toNat 2097151
      Issues s th 0x63 (fun w => asI w = f) → stmLate s a k = false →
      ends (.sld th f) (setThr (stmTouch a k (slotTaken s th)) k
        (waitsWith ⟨f.aux.toNat / 2 ^ 11, f.rd.toNat, false, .state a (stmGet s a)⟩))) ∧
    (∀ f : FmtA, let a := min (greg t f.ra.toNat + BitVec.ofNat 64 f.imm21.toNat).toNat 2097151
      let w := stmGet s a
      let b := greg t f.rb.toNat
      let new := match f.fn.toNat with
        | 0 => w + b
        | 1 => b
        | 2 => if w = greg t f.rc.toNat then b else w
        | 3 => w ||| b
        | 4 => w &&& b
        | 5 => w ^^^ b
        | 6 => if w.toNat < b.toNat then b else w
        | _ => if w.toNat < b.toNat then w else b
      Issues s th 0x65 (fun w => asA w = f) → stmLate s a k = false →
      ends (.atom th f) (setThr (stmSet (stmTouch a k (slotTaken s th)) a new) k
        (waitsWith ⟨f.tag.toNat, f.rd.toNat, false, .state a w⟩)))

/-- R133, R136, R142, R146, R148, R207: the instructions that send no request. LRN offers a key to the learn queue,
whose learns of the tick go to CSQ4 and CSQ5, SST stores a word of the state memory, CNT counts a packet and the bytes
of a register, TIME reads the PHC or the monotonic count, WAIT enters Waiting while a tag it names is outstanding and
does not return on the tick. -/
def Obligations.PostedInstructions : Prop :=
  ∀ (s : State) (th : ThreadRef),
    let t := ctx s th
    let k := thrKey th
    let u := counted s th
    let s0 := slotTaken s th
    (∀ f : FmtL, let p := rget s R.LKP_PROFILE f.profile.toNat
      Issues s th 0x61 (fun w => asL w = f) →
      fld p 62 61 < 2 → bit p 63 = true → rbit s R.LKP_LEARN_CFG (profTable p) 63 = true →
      s.lkp.learnQ.length < 65536 →
      let l : Learn := ⟨s.tau.mono, learnRank k u, profTable p, keyOf t f.rk f.kn (profKeyBits s p), greg t f.rd.toNat, 4⟩
      exec (.lrn th f) s = .next (setThr { s0 with lkp := { s.lkp with learnQ := dealLearns s.tau.mono (learnEnter l s.lkp.learnQ) } } k u) ∧
      ((∀ x ∈ s.lkp.learnQ, x.tick ≠ l.tick ∨ x.rank ≤ l.rank) → learnEnter l s.lkp.learnQ = s.lkp.learnQ ++ [l])) ∧
    (∀ f : FmtI, let a := min (greg t f.ra.toNat + BitVec.ofNat 64 f.imm.toNat).toNat 2097151
      Issues s th 0x64 (fun w => asI w = f) → stmLate s a k = false →
      exec (.sst th f) s = .next (setThr (stmSet (stmTouch a k s0) a (greg t f.rd.toNat)) k u)) ∧
    (∀ f : FmtI, f.aux.toNat.testBit 13 = true →
      Issues s th 0x70 (fun w => asI w = f) →
      let i := min (greg t f.ra.toNat + BitVec.ofNat 64 f.imm.toNat).toNat 1048575
      let c := mget (0, 0) s.sen.cnt i
      latchedNow s i = false → Completes (.cnt th f) s fun x =>
        mget (0, 0) x.sen.cnt i = (BitVec.ofNat 64 (min (c.1.toNat + 1) (2 ^ 64 - 1)),
          BitVec.ofNat 64 (min (c.2.toNat + (greg t f.rd.toNat).toNat) (2 ^ 64 - 1))) ∧
        (∀ j, j ≠ i → mget (0, 0) x.sen.cnt j = mget (0, 0) s.sen.cnt j) ∧
        x = setThr { s0 with sen := { s0.sen with cnt := x.sen.cnt } } k u) ∧
    (∀ f : FmtI, f.aux.toNat / 2 ^ 12 = 1 →
      Issues s th 0x71 (fun w => asI w = f) →
      WritesRd (.time th f) s th f.rd.toNat (BitVec.ofNat 64 s.tau.mono)) ∧
    (∀ f : FmtX,
      Issues s th 0x66 (fun w => asX w = f) →
      (mustStop s k = true → exec (.wait th f) s = .next (stopThr k s0)) ∧
      (mustStop s k = false →
      let tags := (t.reqs.filter (fun r => f.imm8.toNat.testBit r.tag && !comes s0 (returns s0 k r))).map (·.tag)
      (tags ≠ [] → ThreadBecomes (.wait th f) s th 1 (slotGau s th)
        { u with st := .waiting, waitTags := tags, since := s.tau.mono }) ∧
      (tags = [] → ThreadBecomes (.wait th f) s th 1 (occurThr codeWasted (k / 640) k s0).gau u)))

/-- R83, R101, R102, R149, R151 to R153: DISP writes disposition and reason and departs, and gives up its place at
once for any code but 0, a complete packet of code 2 going to its slice and one of code 3 to its thread; SLEEP takes
the oldest inbox entry, with its packet, or sleeps, or stops a thread that is to stop; WAKE sends an entry of SOURCE
4; SEND sets a packet out; NOP does nothing further. R77 to R79, R89: when an instruction of a Ready thread does not
issue, here ADD. Where an outstanding request will write a register it reads or writes, the thread waits for that
request's tag and nothing issues. Where a register it reads is still being written, or its engine's issue slot is
taken, nothing happens. At most one thread of an engine has its turn. That a command whose condition does not hold
changes nothing is the model's choice (log 2) where no rule says it is ignored. -/
def Obligations.ThreadControlForms : Prop :=
  (∀ (s : State) (th : ThreadRef) (f : FmtX),
    let t := ctx s th
    let k := thrKey th
    let u := counted s th
    let s0 := slotTaken s th
    let can (op : Nat) : Prop := Issues s th op (fun w => asX w = f)
    let written (c : Nat) : Packet := mdSet (mdSet u.pkt 0 15 14 c) 14 31 24 f.imm8.toNat
    let departs (c : Nat) : Thread := { u with st := .departing, reqs := [], since := s.tau.mono, pkt := written c }
    (can 0x00 → ThreadBecomes (.nop th f) s th 1 (occurThr codeWasted (k / 640) k s0).gau u) ∧
    (can 0x72 → t.svc = false →
      let d := departs f.code.toNat
      let p := d.pkt
      let gone := giveUpPlace p.pid (reqsLeave k s0)
      let sent := sendInbox (mdF p 13 19 17) (mdF p 13 16 7) 2 0 (some p) gone
      let ends (x : State) : Prop := exec (.disp th f) s = .next x
      (∀ x, (giveUpPlace p.pid x).sen.order = x.sen.order.filter (fun e => decide (e.pid ≠ p.pid))) ∧
      (f.code.toNat = 0 → ends (setThr (reqsLeave k s0) k d)) ∧
      (f.code.toNat = 1 → ends (setThr gone k { d with handed := true })) ∧
      (f.code.toNat = 2 → p.complete = true → ends (setThr (hostDeliver (mdF p 13 31 20) p gone) k { d with handed := true })) ∧
      (f.code.toNat = 2 → p.complete = false → ends (setThr gone k { d with hostTo := some (mdF p 13 31 20) })) ∧
      (f.code.toNat = 3 → p.complete = true → ends (setThr sent k { d with handed := true })) ∧
      (f.code.toNat = 3 → p.complete = false → ends (setThr gone k d))) ∧
    (can 0x78 → t.svc = true → mustStop s k = true → exec (.sleep th f) s = .next (stopThr k s0)) ∧
    (can 0x78 → t.svc = true → mustStop s k = false → t.inbox = [] →
      ThreadBecomes (.sleep th f) s th 1 (slotGau s th)
        { u with spent := 0, st := .sleeping, sleepRd := f.rd.toNat }) ∧
    (∀ e rest, can 0x78 → t.svc = true → mustStop s k = false → t.inbox = e :: rest →
      let w := e.source % 256 * 2 ^ 32 + e.event.toNat
      let x := { u with spent := 0, inbox := rest, st := .ready }
      let ends (x : Thread) : Prop := ThreadBecomes (.sleep th f) s th 1 (slotGau s th) x
      (e.pkt = none → ends (gset x f.rd.toNat (BitVec.ofNat 64 w))) ∧
      (∀ p, e.pkt = some p → ends { gset x f.rd.toNat (BitVec.ofNat 64 (2 ^ 40 + w)) with
        pkt := { rewindow p with orig := frameLen p } })) ∧
    (can 0x79 → t.svc = true →
      let a := greg t f.ra.toNat
      let e := ⟨640 * fld a 2 0 + min (fld a 12 3) 639, ⟨4, (greg t f.rb.toNat).truncate 32, none, 0⟩⟩
      let x := setThr s0 k u
      exec (.wake th f) s = .next { x with sen := { x.sen with arrivals := s.sen.arrivals ++ [e] } }) ∧
    (let n := max 14 (min 512 (greg t f.ra.toNat).toNat);
      can 0x7A → t.svc = true →
      let p := sentPacket s k u n
      let x := setThr s0 k u
      let place : OrderEnt := ⟨.ing, mdF p 0 25 19, p.pid⟩
      let y := { x with sen := { x.sen with nextPid := s.sen.nextPid + 1 } }
      let ing := { y.sen with toIng := s.sen.toIng ++ [p], order := s.sen.order ++ [place] };
      p.win = winLoad t.pkt 0 n ∧ p.tail = [] ∧ p.pid = s.sen.nextPid ∧
      (f.path = 0 → exec (.send th f) s = .next { y with sen := ing }) ∧
      (f.path = 1 → exec (.send th f) s = .next { y with sen := { y.sen with toTmg := s.sen.toTmg ++ [p] } }))) ∧
  (∀ (s : State) (th : ThreadRef) (f : FmtR),
    let t := ctx s th
    let k := thrKey th
    let here : Prop := t.st = .ready ∧ t.start ≤ s.tau.mono ∧ t.pc < (thrBank s k).length ∧
      opcodeOf (thrWord s k) = 0x10 ∧ asR (thrWord s k) = f ∧ budgetGone s t false = false
    (∀ r, here → r ∈ t.reqs → 0 < r.rd → r.rd ≤ 31 → (r.rd = f.ra.toNat ∨ r.rd = f.rb.toNat ∨ r.rd = f.rd.toNat) →
      let tags := blockTags t [f.ra.toNat, f.rb.toNat, f.rd.toNat] none
      r.tag ∈ tags ∧ exec (.add th f) s = .next (setThr s k
        { t with st := .waiting, waitTags := tags, waitFrame := false, since := s.tau.mono, lastPc := t.pc })) ∧
    (∀ e, here → t.reqs = [] → e ∈ t.busy → e.1 = f.ra.toNat → 0 < e.1 → s.tau.mono < e.2 →
      exec (.add th f) s = .next s) ∧
    (here → t.reqs = [] → s.tau.mono < (engine s k).free → exec (.add th f) s = .next s) ∧
    (∀ i j, i / 8 = j / 8 → turn s i = true → turn s j = true → i = j))

/-! ### Courses and threads (ch. 1, 3) -/

/-- R20 to R22: a MODE other than the one in force starts a drain (MODE_STATE 2), which ends the course's sleeping
service threads and no other thread; during a drain the latest value is the target; the mode in force has no effect.
The end of a drain puts the target in force. That a command whose condition does not hold changes nothing is the
model's choice (log 2) where no rule says it is ignored. -/
def Obligations.CourseModeDrains : Prop :=
  ∀ (s : State) (c : Course) (v : Word),
    let x := course s c.val
    let m := fld v 1 0
    let cfg (t : State) : Word := rget t R.SEN_COURSE_CFG c.val
    (x.draining = false → m = x.inForce → exec (.courseModeWrite c v) s = .next s) ∧
    (x.draining = false → m ≠ x.inForce → Completes (.courseModeWrite c v) s fun t =>
      course t c.val = { x with target := m, draining := true } ∧ (∀ d, d ≠ c.val → course t d = course s d) ∧
      fld (cfg t) 1 0 = m ∧ fld (cfg t) 3 2 = 2 ∧ RegsBut [adr R.SEN_COURSE_CFG c.val] s t ∧
      (∀ k, ¬ (k / 640 = c.val ∧ (thr s k).st = .sleeping) → thr t k = thr s k) ∧
      t = { s with regs := t.regs, sen := t.sen }) ∧
    (x.draining = true → exec (.courseModeWrite c v) s =
      .next (rsetF (setCourse s c.val { x with target := m }) R.SEN_COURSE_CFG c.val 1 0 m)) ∧
    (x.draining = true → courseLive s c.val = false → x.target < 4 → Completes (.courseDrainEnd c) s fun t =>
      course t c.val = { x with inForce := x.target, draining := false } ∧
      fld (cfg t) 1 0 = x.target ∧ fld (cfg t) 3 2 = (if x.target = 0 then 0 else 1) ∧
      (∀ k, ¬ (k / 640 = c.val ∧ (thr s k).st = .halted) → thr t k = thr s k) ∧
      t = { s with regs := t.regs, sen := t.sen })

/-- R23, R80, R82, R83: a packet that reaches a dispatcher joins its queue, or is dropped and counted where no course
runs in its mode; the oldest starts on a free thread, at the address its bank's entry table gives; a departing packet
that is first in its port's order leaves and frees its thread. -/
def Obligations.PacketsAreDispatchedAndDepart : Prop :=
  ∀ (s : State) (sd : Side) (p : Packet) (rest : List Packet),
    (toDisp s sd = p :: rest → anyRunning s (sideMode sd) = true → (dispQ s sd).length < 8192 →
      exec (.dispatchEnqueue sd) s = .next (setDispQ sd (dispQ s sd ++ [p]) (setToDisp sd rest s))) ∧
    (toDisp s sd = p :: rest → anyRunning s (sideMode sd) = false →
      Completes (.dispatchEnqueue sd) s fun t =>
        toDisp t sd = rest ∧ dispQ t sd = dispQ s sd ∧
        rfld t R.SEN_NOCOURSE_DROP 0 47 0 = min (rfld s R.SEN_NOCOURSE_DROP 0 47 0 + 1) (2 ^ 48 - 1) ∧
        RegsBut [adr R.SEN_NOCOURSE_DROP 0] s t ∧ t = { s with regs := t.regs, sen := t.sen }) ∧
    (let c := (chooseCourse s (sideMode sd)).1
     let e := chooseEngine s c
     let k := 640 * c + 8 * e + (freeSlots s c e).headD 0
     let b := packetBank s c (mdF p 0 27 26)
     let ver := (bank s c b).ver
     (dispQ s sd = p :: rest ∧ staleTag s (mdF p 0 27 26) = false ∧ anyRunning s (sideMode sd) = true ∧
      freeInCourse s c ≠ 0 ∧ (sd = .egr → mdF p 0 31 28 = ver ∨ mdF p 0 31 28 = (ver + 15) % 16) →
      Completes (.threadStart sd) s fun t =>
        dispQ t sd = rest ∧ (thr t k).st = .ready ∧ (thr t k).bank = b ∧ (thr t k).count = 0 ∧
        (thr t k).pc = mget 0 (bank s c b).entries (entryIndex sd p) ∧ (thr t k).g = [] ∧ (thr t k).stack = [] ∧
        (∀ j, j ≠ k → thr t j = thr s j) ∧ t = { s with sen := t.sen, gau := t.gau })) ∧
    (∀ th : ThreadRef, let t := thr s (thrKey th)
      t.st = .departing → t.handed = false → t.hostTo = none → mdF t.pkt 0 15 14 = 0 → t.side = .ing →
      firstInOrder s .ing t.pkt.pid = true →
      Completes (.packetDepart th) s fun x =>
        x.sen.toTmg = s.sen.toTmg ++ [t.pkt] ∧ (thr x (thrKey th)).st = .free ∧
        x.sen.order = s.sen.order.filter (fun e => decide (e.pid ≠ t.pkt.pid)) ∧
        (∀ j, j ≠ thrKey th → thr x j = thr s j) ∧ x.sen.gone = (reqsLeave (thrKey th) s).sen.gone ∧
        x = { s with sen := x.sen })

/-- R100, R101, R103 to R105: START and STOP of a service thread, a wake, and an entry's arrival: an inbox keeps 16
entries and drops what stands behind them, and an entry stands behind all but those of its own tick whose SOURCE is
higher. -/
def Obligations.ServiceThreadCommands : Prop :=
  ∀ (s : State) (th : ThreadRef) (v : Word),
    let k := thrKey th
    let c := k / 640
    (bit v 1 = false → running s c 3 = true → (thr s k).st = .free →
      Completes (.svcStart th v) s fun t =>
        (thr t k).st = .ready ∧ (thr t k).svc = true ∧ (thr t k).pc = fld v 63 48 ∧ (thr t k).inbox = [] ∧
        (thr t k).stack = [] ∧ (thr t k).g = [] ∧ (∀ j, j ≠ k → thr t j = thr s j) ∧
        t.hif = { s.hif with oldThr := s.hif.oldThr.filter (fun e => decide (e.1 ≠ k)) } ∧
        RegsBut [adr R.SEN_SVC_CTL k] s t ∧ t = { s with regs := t.regs, sen := t.sen, hif := t.hif }) ∧
    ((thr s k).svc = true → (thr s k).st = .halted ∨ (thr s k).st = .sleeping →
      Completes (.svcStop th v) s fun t =>
        (thr t k).st = .free ∧ (thr t k).inbox = [] ∧ (∀ j, j ≠ k → thr t j = thr s j) ∧
        RegsBut [adr R.SEN_SVC_CTL k] s t ∧ t = { s with regs := t.regs, sen := t.sen }) ∧
    (let e : InboxArrival := ⟨640 * fld v 2 0 + min (fld v 12 3) 639, ⟨1, BitVec.ofNat 32 (fld v 44 13), none, 0⟩⟩
     exec (.svcWakeWrite v) s = .next { s with sen := { s.sen with arrivals := s.sen.arrivals ++ [e] } }) ∧
    (∀ (i : Nat) (a : InboxArrival), s.sen.arrivals[i]? = some a →
      let t := thr s a.thread
      let s1 := { s with sen := { s.sen with arrivals := s.sen.arrivals.eraseIdx i } }
      exec (.inboxEntryArrive i) s =
        if t.svc = true ∧ (t.st = .sleeping ∨ t.st = .ready ∨ t.st = .waiting) then
          let l := inboxInsert { a.entry with came := s.tau.mono } t.inbox
          let s2 := setThr s1 a.thread { t with inbox := l.take 16 }
          if l.length ≤ 16 then .next s2 else .next (rcount s2 R.SEN_SVC_CTL a.thread 31 16 1)
        else .next (rcount s1 R.SEN_SVC_CTL a.thread 31 16 1)) ∧
    (∀ (e : InboxEntry) (l : List InboxEntry), (∀ x ∈ l, x.came = e.came → x.source ≤ e.source) →
      inboxInsert e l = l ++ [e])

/-- R94 to R99, R108: a bank load is taken up and ends with its masks, in each course that took a good image with its
program in the bank that course loads, SWAP_NOW exchanges the banks of a course in mode off, and an engine retires
with its bit set and ENGINES_LIVE one lower. -/
def Obligations.BanksAndEngines : Prop :=
  ∀ (s : State) (c : Course),
    (∀ v : Word, bit v 0 = true → rfld s R.SEN_LOAD_STAT 0 3 0 ≠ 1 →
      Completes (.bankLoad v) s fun t => t.sen.load = some (fld v 15 8, loadAccepts s (fld v 15 8)) ∧ rfld t R.SEN_LOAD_STAT 0 3 0 = 1 ∧
        RegsBut [adr R.SEN_LOAD_CTL 0, adr R.SEN_LOAD_STAT 0] s t ∧ t = { s with regs := t.regs, sen := t.sen }) ∧
    (∀ m took, m < 256 → s.sen.load = some (m, took) → s.mgmtDown = false → dmaOk s false = true →
      Completes (.bankLoadDone .fetchError) s fun t => t.sen.load = none ∧ rfld t R.SEN_LOAD_STAT 0 3 0 = 7 ∧
        rfld t R.SEN_LOAD_STAT 0 23 16 = m ∧ rfld t R.SEN_LOAD_STAT 0 39 32 = 0 ∧
        (∀ d b, bank t d b = bank s d b) ∧ (s.err.fifo.length < 1024 → ∃ r, t.err.fifo = s.err.fifo ++ [r] ∧ r.block = 12 ∧
          r.detail = rget s R.SEN_LOAD_ADDR 0) ∧ t = { s with regs := t.regs, sen := t.sen, err := t.err, out := t.out }) ∧
    (∀ (bs : Bytes) (m took : Nat), m < 256 → took ≤ m → s.sen.load = some (m, took) → s.mgmtDown = false →
      dmaOk s false = true → imgCheck s 3 bs = 0 →
      let plain := (imgPlain s bs).getD []
      let prog := Config.bankProgram plain
      Config.bankFormed plain = true → prog.length ≤ 65536 →
      Completes (.bankLoadDone (.image bs)) s fun t => t.sen.load = none ∧
        rfld t R.SEN_LOAD_STAT 0 3 0 = (if took = m then 2 else 5) ∧ rfld t R.SEN_LOAD_STAT 0 39 32 = took ∧
        rfld t R.SEN_LOAD_STAT 0 23 16 = m - took ∧
        (∀ d, d < 8 → took.testBit d = true →
          let b := loadTarget s d
          let x := bank t d b
          x.st = (if b = (course s d).activeB then .active else .loaded) ∧ x.ver = Config.bankVer plain % 16 ∧
          x.length = prog.length ∧ (∀ i w, prog[i]? = some w → mget 0 x.words i = w) ∧
          (∀ i, prog.length ≤ i → mget 0 x.words i = 0)) ∧
        (∀ d b, ¬ (took.testBit d = true ∧ b = loadTarget s d) → bank t d b = bank s d b) ∧
        (∀ d, course t d = course s d) ∧ (∀ k, thr t k = thr s k) ∧
        t.out = (hostRead none (rget s R.SEN_LOAD_ADDR 0).toNat bs.length s).out ∧
        RegsBut [adr R.SEN_LOAD_STAT 0] s t ∧ t = { s with regs := t.regs, sen := t.sen, hrt := t.hrt, out := t.out }) ∧
    (let x := course s c.val
     x.inForce = 0 → (bank s c.val (!x.activeB)).st = .loaded → loading s c.val = false →
      Completes (.swapNow c) s fun t => course t c.val = { x with activeB := !x.activeB } ∧
        (bank t c.val (!x.activeB)).st = .active ∧ (bank t c.val (!x.activeB)).words = (bank s c.val (!x.activeB)).words ∧
        ((bank s c.val x.activeB).st ≠ .empty → (bank t c.val x.activeB).st = .loaded) ∧
        (∀ k, thr t k = thr s k) ∧ t = { s with regs := t.regs, sen := t.sen }) ∧
    (∀ (e : Engine) (sw : Bool), retireDue s 1 (80 * c.val + e.val) sw = true → e.val < 64 →
      enginesLive s c.val ≤ 80 → 0 < enginesLive s c.val →
      Completes (.engineRetire c e sw) s fun t => (unitGet t 1 (80 * c.val + e.val)).state = 1 ∧
        rbit t R.SEN_ENGINE_RETIRE_LO c.val e.val = true ∧ enginesLive t c.val = enginesLive s c.val - 1 ∧
        (∀ i, i < 8 → (thr t (640 * c.val + 8 * e.val + i)).st = .unavailable))

/-! ### Registers and errors (ch. 0, 1, 19) -/

/-- R4 to R8: what a host write stores in a register whose fields do not overlap. An rw field takes the value after
its clamp, an rwl field does so under the owning lock, w1c clears and w1s sets the bits written as 1, a field of any
other code keeps its value, and so does a bit of no field; a read that clears zeroes the rc fields alone. -/
def Obligations.AccessCodesStore : Prop :=
  ∀ (r : Reg) (lock : Bool) (old v : Word),
    r.fields.Pairwise (fun f g => f.hi < g.lo ∨ g.hi < f.lo) → (∀ f ∈ r.fields, f.lo ≤ f.hi ∧ f.hi < 64) →
    let w := writeReg lock r old v
    (∀ f ∈ r.fields,
      (f.acc = .rw ∨ (f.acc = .rwl ∧ lock = true) →
        fld w f.hi f.lo = clampField f.clamp (fld v f.hi f.lo) % 2 ^ (f.hi + 1 - f.lo)) ∧
      (f.acc = .rwl → lock = false → fld w f.hi f.lo = fld old f.hi f.lo) ∧
      (∀ b, f.lo ≤ b → b ≤ f.hi → f.acc = .w1c → bit w b = (bit old b && !bit v b)) ∧
      (∀ b, f.lo ≤ b → b ≤ f.hi → f.acc = .w1s → bit w b = (bit old b || bit v b)) ∧
      (f.acc = .ro ∨ f.acc = .wo ∨ f.acc = .rc ∨ f.acc = .row → fld w f.hi f.lo = fld old f.hi f.lo) ∧
      fld (clearRc r old) f.hi f.lo = if f.acc = .rc then 0 else fld old f.hi f.lo) ∧
    (∀ b, b < 64 → (∀ f ∈ r.fields, b < f.lo ∨ f.hi < b) → bit w b = bit old b ∧ bit (clearRc r old) b = bit old b)

/-- R3, R27, R30, R410, R499, R503: which host accesses a block takes. A whole, aligned write of a register that is
served stores it, a read answers it and clears its rc fields; one of a register whose write applies to later ticks
alone leaves what it held in force for its own tick; any other access writes nothing and a read of it answers zero.
R30, R542: until the bridge has trained, a write to a register of the Q-die that has a row of its own is discarded, a
read of one returns zero, and the error unit records the access: class 6, with its offset. That a command whose
condition does not hold changes nothing is the model's choice (log 2) where no rule says it is ignored. -/
def Obligations.HostAccessesAreServed : Prop :=
  (∀ (s : State) (off size : Nat) (v : Word),
    let wr := Instr.registerWrite (.bar0 off) size v
    let rd := Instr.counterReadClear (.bar0 off) size
    (∀ r i, size = 8 → off % 8 = 0 → bar0Served s off = true → pf0RingAt off = none → bar0Reg off = some (r, i) →
      (4 ≤ r.base / 0x100000 ∧ r.base / 0x100000 < 8 →
        exec wr s = .next (rset (noteWas r i s) r i (crossClamp r i (rget s r i) (writeReg false r (rget s r i) v))) ∧
        (lateReg r = false → noteWas r i s = s) ∧
        (lateReg r = true → mfind s.was (regAddr r i) = none →
          rwas (rset (noteWas r i s) r i (writeReg false r (rget s r i) v)) r i = rget s r i)) ∧
      (rowRead r i = none → r.base = R.SEN_EXC_COUNT.base ∨ r.base = R.SEN_MDVER_DROP.base →
        exec rd s = .next (rset { s with lastRead := rget s r i } r i (clearRc r (rget s r i))))) ∧
    (¬ (size = 8 ∧ off % 8 = 0) → exec wr s = .next s ∧ exec rd s = .next { s with lastRead := 0 }) ∧
    (bar0Served s off = false → qBlock off = none → exec wr s = .next s ∧ exec rd s = .next { s with lastRead := 0 }) ∧
    (size = 8 → off % 8 = 0 → bar0Served s off = true → pf0RingAt off = none → bar0Reg off = none →
      exec wr s = .next s ∧ exec rd s = .next { s with lastRead := 0 }) ∧
    (∀ sl : Slice, (slice s sl.val).st = 0 →
      exec (.registerWrite (.page sl off) size v) s = .next s ∧
      exec (.counterReadClear (.page sl off) size) s = .next { s with lastRead := 0 }) ∧
    (off < 0x1000000 ∧ 0xC00000 ≤ off → s.bridgeUp = false → bar0Served s off = false) ∧
    (stage s < 3 → bar0Served s off = false ∨ (qBlock off).isSome = true)) ∧
  (∀ (s : State) (v : Word) (p : Port) (n : Pool) (m : MemCtl),
    let writes : List (Instr × Nat) := [(.tableDataWrite v, adr R.TMG_TBL_DATA 0), (.shapeApply v, adr R.TMG_SHAPE_APPLY 0),
      (.gclSwapNow p v, adr R.TMG_GCL_CFG p.val), (.rangeFlush v, adr R.TMG_BINDOFF_CMD 0),
      (.captureEnable v, adr R.TMG_CAP_CFG 0), (.capTailWrite v, adr R.TMG_CAP_TAIL 0),
      (.poolEnable n v, adr R.BPM_POOL_CFG n.val), (.poolDisable n v, adr R.BPM_POOL_CFG n.val),
      (.fabricEnable v, adr R.FAB_CTL 0), (.fabricDisable v, adr R.FAB_CTL 0)]
    let reads : List (Instr × Nat) := [(.tableDataRead, adr R.TMG_TBL_DATA 0), (.bpmErrLogRead, adr R.BPM_ERR_LOG 0)]
    let recorded (o : Nat) (t : State) : Prop := (s.mgmtDown = false → s.err.fifo.length < 1024 →
      ∃ r, t.err.fifo = s.err.fifo ++ [r] ∧ r.cls = 6 ∧ qBlock o = some r.block ∧ r.detail = BitVec.ofNat 64 o) ∧
      t.tmg = s.tmg ∧ t.bpm = s.bpm ∧ t.fab = s.fab ∧ t.mcd = s.mcd ∧ t.mch = s.mch
    s.bridgeUp = false →
      (∀ e ∈ writes, Completes e.1 s fun t => recorded e.2 t ∧ t.lastRead = s.lastRead) ∧
      (∀ e ∈ reads, Completes e.1 s fun t => recorded e.2 t ∧ t.lastRead = 0) ∧
      exec (.windowWrite m v) s = .next (qDieRecord (adr (rWINC m) 0) s) ∧
      exec (.windowRead m v) s = .next (qDieRecord (adr (rWINC m) 0) s) ∧
      exec (.trainGo m v) s = .next (qDieRecord (adr (rTRAIN m) 0) s) ∧
      exec (.freqRequest m v) s = .next (qDieRecord (adr (rFREQ m) 0) s))

/-- R524, R525, R529, R538, R539: a reported fault leaves a record and its interrupt, or waits while the management
complex restarts, and counts against its unit's window; an engine's fault ends its thread, and a DDR5 channel's the
run in progress on it; ERR_LOG[0] pops the oldest record; a window that is over closes; an interrupt source sets its
bit once, and writing the bit clears it, unless an event of the source has come on the same tick (R540). That a
command whose condition does not hold changes nothing is the model's choice (log 2) where no rule says it is ignored.
-/
def Obligations.FaultsAndInterrupts : Prop :=
  ∀ s : State,
    let int (t : State) (k : Nat) : Bool := rbit t R.ERR_INT_STAT 0 k
    (∀ f : FaultFacts,
      let kind := if f.kind.val < 10 then f.kind.val else 15
      let unit := if f.kind.val < 10 then min f.unit.val (unitCount f.kind.val - 1) else f.unit.val
      let now := if f.block.val ∈ [7, 8, 9, 11] ∧ s.tau.bridgeFault = true then s.tau.qPhc else phcNow s
      let rec_ (n : Nat) : ErrRec := ⟨f.cls.val, f.block.val, kind, unit, f.code.toNat, false, n, now, f.detail⟩
      let x := unitGet s kind unit
      let plain := f.cls.val ≠ 4 ∧ (f.cls.val = 3 → 2 < f.kind.val ∧ (f.kind.val < 5 ∨ 7 < f.kind.val))
      (f.cls.val = 4 → exec (.faultReport f) s = .next s) ∧
      (plain → s.mgmtDown = false → logged s f.cls.val = true → s.err.fifo.length < 1024 →
        Completes (.faultReport f) s fun t => t.err.fifo = s.err.fifo ++ [rec_ s.err.seq] ∧
          t.err.seq = (s.err.seq + 1) % 65536 ∧ int t 0 = true ∧ (f.cls.val = 2 → int t 12 = true) ∧
          (f.cls.val = 5 → int t 3 = true) ∧ (f.cls.val = 6 → int t 4 = true) ∧ RegsBut [adr R.ERR_INT_STAT 0] s t ∧
          t = { s with regs := t.regs, err := t.err, out := t.out }) ∧
      (plain → s.mgmtDown = false → logged s f.cls.val = true → 1024 ≤ s.err.fifo.length →
        Completes (.faultReport f) s fun t => t.err.fifo = s.err.fifo ∧ t.err.seq = (s.err.seq + 1) % 65536 ∧
          rfld t R.ERR_LOG_DROP 0 31 0 = min (rfld s R.ERR_LOG_DROP 0 31 0 + 1) (2 ^ 32 - 1)) ∧
      (plain → s.mgmtDown = true → (s.err.held.filter (fun h => decide (h.report.block = f.block.val))).length < 256 →
        exec (.faultReport f) s =
          .next { s with err := { s.err with held := s.err.held ++ [⟨rec_ 0, s.tau.mono⟩] } }) ∧
      (plain → f.cls.val ≠ 0 → f.kind.val < 10 → s.mgmtDown = false → Completes (.faultReport f) s fun t =>
        let y := unitGet t kind unit
        y.total = min (x.total + 1) (2 ^ 32 - 1) ∧ y.state = x.state ∧
        (∀ e, x.winEnd = some e → s.tau.mono ≤ e → y.winEnd = some e ∧ y.winThresh = x.winThresh ∧
          y.winCount = min (x.winCount + 1) (2 ^ 20 - 1) ∧
          t.err.crossed = if x.winCount = x.winThresh then s.err.crossed ++ [unitKey kind unit] else s.err.crossed) ∧
        ((∀ e, x.winEnd = some e → e < s.tau.mono) → y.winCount = 1 ∧ y.winThresh = rfld s R.ERR_THRESH kind 19 0 ∧
          y.winEnd = some (s.tau.mono + msTicks * rfld s R.ERR_THRESH kind 39 20) ∧ t.err.crossed = s.err.crossed)) ∧
      (f.cls.val = 3 → f.kind.val = 1 → let k := 640 * (unit / 80) + 8 * (unit % 80) + f.context.val
        thrLive (thr s k) = true → Completes (.faultReport f) s fun t => (∀ j, j ≠ k → thr t j = thr s j) ∧
          ((thr s k).svc = true → (thr t k).st = .halted ∧ (thr t k).exc = 8 ∧ (thr t k).inbox = [] ∧
            rfld t R.SEN_EXC_COUNT 8 47 0 = min (rfld s R.SEN_EXC_COUNT 8 47 0 + 1) (2 ^ 48 - 1)) ∧
          ((thr s k).svc = false → (thr t k).st = .free ∧ rfld t R.SEN_RETIRE_DROP 0 47 0 =
            if (thr s k).handed = true then rfld s R.SEN_RETIRE_DROP 0 47 0
            else min (rfld s R.SEN_RETIRE_DROP 0 47 0 + 1) (2 ^ 48 - 1))) ∧
      (∀ b, f.cls.val = 3 → f.kind.val = 5 → s.mcd.run = some (unit, b) → s.mcd.nextReq = none → s.mcd.held = [] →
        Completes (.faultReport f) s fun t => t.mcd = { s.mcd with run := none } ∧ chState t .mcd unit = 0 ∧
          rbit t R.MCD_TRAIN_CTL 0 63 = (s.mcd.change.isSome || !s.mcd.waking.isEmpty) ∧ rfld t R.MCD_TRAIN_CTL 0 62 60 = 3)) ∧
    (s.err.fifo = [] → Completes .errLogRead s fun t => t.lastRead = 0 ∧ rget t R.ERR_LOG1 0 = 0 ∧
      rget t R.ERR_LOG2 0 = 0 ∧ t = { s with regs := t.regs, lastRead := 0 }) ∧
    (∀ r rest, s.err.fifo = r :: rest → Completes .errLogRead s fun t => t.lastRead = recordWord r ∧
      t.err.fifo = rest ∧ rget t R.ERR_LOG1 0 = secNsWord r.phc ∧ rget t R.ERR_LOG2 0 = r.detail ∧
      RegsBut [adr R.ERR_LOG1 0, adr R.ERR_LOG2 0] s t ∧
      t = { s with regs := t.regs, err := { s.err with fifo := rest }, lastRead := t.lastRead }) ∧
    (∀ (k : UnitKind) u e, (unitGet s k.val u).winEnd = some e → e < s.tau.mono → Completes (.errorWindowClose k u) s
      fun t => unitGet t k.val u = { unitGet s k.val u with winEnd := none, winCount := 0 } ∧ t = { s with err := t.err }) ∧
    (∀ v, let kept (b : Nat) : Bool := s.err.seen.any (fun e => decide (e.1 = b))
     (∀ e ∈ s.err.seen, e.1 < 64) → Completes (.intStatClear v) s fun t =>
      (∀ b, b < 64 → int t b = (int s b && (!bit v b || kept b))) ∧
      (∀ b, (b, true) ∈ s.err.seen → bit v b = true → rbit s R.ERR_INT_EN 0 b = true → if (0, b) ∈ s.err.masked
        then (0, b) ∈ t.err.msixPend else OutEvent.msix 0 b ∈ t.out) ∧ t.err.seen = s.err.seen ∧
      RegsBut [adr R.ERR_INT_STAT 0] s t ∧
      t = { s with regs := t.regs, err := { s.err with msixPend := t.err.msixPend }, out := t.out }) ∧
    (∀ k, k < 64 → (s.mgmtDown = true → intRaise k s = s) ∧
      (s.mgmtDown = false → (intRaise k s).err.seen.any (fun e => decide (e.1 = k)) = true ∧
        ∀ e ∈ s.err.seen, e ∈ (intRaise k s).err.seen) ∧
      (int s k = true → intRaise k s = { s with err := (intRaise k s).err }) ∧
      (int s k = false → s.mgmtDown = false → let t := intRaise k s
        (∀ b, b < 64 → int t b = (int s b || decide (b = k))) ∧ RegsBut [adr R.ERR_INT_STAT 0] s t ∧
        t = { s with regs := t.regs, err := t.err, out := t.out } ∧ (rbit s R.ERR_INT_EN 0 k = true → if (0, k) ∈ s.err.masked
          then (0, k) ∈ t.err.msixPend else OutEvent.msix 0 k ∈ t.out) ∧
        (rbit s R.ERR_INT_EN 0 k = false → rbit s R.ERR_INT_ALERT 0 k = false → t.out = s.out)) ∧
      (k ≤ 8 → rbit (tauStatus k s) R.TAU_STATUS 0 k = true ∧
        (s.mgmtDown = false → int (tauStatus k s) 5 = true)))

/-- R525, R526, R530, R531, R534 to R536: a crossing makes its unit due for retirement, or is withheld where AUTO is 0
or too few units would stay; software retires a unit through ERR_RETIRE; a bridge module that fails is retrained or
retired; an exact-match block that is retired takes no more entries. That a command whose condition does not hold
changes nothing is the model's choice (log 2) where no rule says it is ignored. -/
def Obligations.RetirementAndBridge : Prop :=
  ∀ s : State,
    let st (t : State) (k u : Nat) : Nat := (unitGet t k u).state
    (∀ key, let k := key / 1024
      let free := seqDown s 22 = false ∧ s.err.crossed = [key] ∧ unitRetired s k (key % 1024) = false ∧
        ∀ e ∈ s.err.toRetire, e.1 ≠ key
      let auto := rbit s R.ERR_THRESH k 63 = true ∧ rfld s R.ERR_THRESH k 55 40 < liveUnits s k
      (free → auto → exec .thresholdCrossing s =
        .next { s with err := { s.err with crossed := [], toRetire := s.err.toRetire ++ [(key, none)] } }) ∧
      (free → ¬ auto → Completes .thresholdCrossing s fun t => t.err.crossed = [] ∧ t.err.toRetire = s.err.toRetire ∧
        st t k (key % 1024) = 2 ∧ rbit t R.ERR_INT_STAT 0 2 = true ∧
        (s.err.fifo.length < 1024 → ∃ r ∈ t.err.fifo, r.withheld = true ∧ r.kind = k ∧ r.unit = key % 1024))) ∧
    (seqDown s 22 = true → exec .thresholdCrossing s = .next s) ∧
    (∀ v, let k := fld v 19 16
      let u := min (fld v 9 0) (unitCount k - 1)
      (bit v 63 = true → k ≤ 9 → unitRetired s k u = false → exec (.errRetire v) s =
        .next { s with err := { s.err with toRetire := s.err.toRetire ++ [(unitKey k u, some s.tau.mono)] } }) ∧
      (bit v 63 = true → k ≤ 9 → unitRetired s k u = true → exec (.errRetire v) s = .next s) ∧
      (bit v 63 = false ∨ 9 < k → exec (.errRetire v) s = .next s)) ∧
    (∀ m : Module, let out := s.err.bridgeOut.filter (fun k => decide (k ≠ m.val))
      (unitRetired s 9 m.val = false → s.mgmtDown = false → Completes (.bridgeFlitCrcError m) s fun t =>
        (unitGet t 9 m.val).total = min ((unitGet s 9 m.val).total + 1) (2 ^ 32 - 1) ∧
        t = { s with regs := t.regs, err := t.err, out := t.out }) ∧
      (unitRetired s 9 m.val = false → m.val ∉ s.err.bridgeOut → exec (.bridgeModuleOut m) s =
        .next { s with err := { s.err with bridgeOut := s.err.bridgeOut ++ [m.val] } }) ∧
      (m.val ∈ s.err.bridgeOut → s.mgmtDown = false → Completes (.bridgeModuleRetrain m true) s fun t =>
        t.err.bridgeOut = out ∧ st t 9 m.val = st s 9 m.val ∧
        (unitGet t 9 m.val).total = min ((unitGet s 9 m.val).total + 1) (2 ^ 32 - 1)) ∧
      (m.val ∈ s.err.bridgeOut → Completes (.bridgeModuleRetrain m false) s fun t =>
        t.err.bridgeOut = out ∧ st t 9 m.val = 1) ∧
      (∀ sw, retireDue s 9 m.val sw = true → Completes (.bridgeModuleRetire m sw) s fun t =>
        t.err.bridgeOut = out ∧ st t 9 m.val = 1 ∧ (unitGet t 9 m.val).winEnd = none ∧
        (sw = true → (unitGet t 9 m.val).bySw = true) ∧ (∀ e ∈ t.err.toRetire, e.1 ≠ unitKey 9 m.val))) ∧
    (∀ (b : EmBlock) sw, retireDue s 4 b.val sw = true →
      (∀ e ∈ s.lkp.ents, blockOf s (entTable e.1) e.2.loc ≠ some b.val) → Completes (.emBlockRetire b sw) s fun t =>
        st t 4 b.val = 1 ∧ t.lkp = { s.lkp with retiredBlocks := s.lkp.retiredBlocks ++ [b.val] } ∧
        t = { s with regs := t.regs, err := t.err, lkp := t.lkp, out := t.out })

/-! ### Time and quench (ch. 2) -/

/-- R38, R39, R41, R42: reading the PHC latches it, a step waits for its tick, on which every unit sees the new time,
and a frequency write clamps ADJ and disciplines the clock. R42, R43, R50: HOLD_TIMEOUT takes the value written, and
zero is to end holdover on the next tick; holdover is entered once the time without discipline has passed it, or
reaches it with no arrival of the tick left, but not on the tick of a write; a lost reference falls back on the
board's with REF_LOSS (that SRC shows it is the model's reading, log 55); the Q-die holds the time at which the
forwarded lane faults. -/
def Obligations.PhcHoldoverAndReference : Prop :=
  (∀ (s : State) (v : Word),
    exec .phcSecRead s = .next { s with tau := { s.tau with latch := phcNow s },
                                        lastRead := BitVec.ofNat 64 (phcNow s / 2 ^ 48 / 1000000000 % 2 ^ 48) } ∧
    (let asked (q : StepReq) (t : State) : Prop :=
      t.tau = { s.tau with step := some (q, s.tau.mono), holdAt := some s.tau.mono,
                           holdClr := s.tau.holdClr || decide (fld v 31 16 = 0) } ∧
      rfld t R.TAU_PHC_CTL 0 31 16 = fld v 31 16 ∧ RegsBut [adr R.TAU_PHC_CTL 0] s t ∧
      t = { s with regs := t.regs, tau := t.tau }
     (bit v 0 = true → Completes (.phcStepAbs v) s (asked
        (.abs (rfld s R.TAU_PHC_SET_SEC 0 47 0) (rfld s R.TAU_PHC_SET_NS 0 45 16) (rfld s R.TAU_PHC_SET_NS 0 15 0)))) ∧
     (bit v 1 = true → bit v 0 = false →
        Completes (.phcStepRel v) s (asked (.rel (rget s R.TAU_PHC_STEP_REL 0))))) ∧
    (∀ q, s.tau.step = some (q, s.tau.mono) → exec .phcStepApply s = .next s ∧ phcNow s = s.tau.phc) ∧
    (∀ q k, s.tau.step = some (q, k) → k ≠ s.tau.mono → Completes .phcStepApply s fun t => t.tau.phc = phcNow s) ∧
    (∀ sec ns frac k, s.tau.step = some (.abs sec ns frac, k) → k ≠ s.tau.mono → sec < 2 ^ 48 → ns < 1000000000 →
      frac < 65536 → Completes .phcStepApply s fun t =>
        t.tau.phc = (sec * 1000000000 + ns) * 2 ^ 48 + frac * 2 ^ 32 ∧ t.tau.step = none ∧
        t.tau.mono = s.tau.mono ∧ t.tau.lastDisc = s.tau.mono ∧ rbit t R.TAU_STATUS 0 8 = false ∧
        t.lkp = s.lkp ∧ t.tmg = s.tmg ∧ t.hif = s.hif) ∧
    (let a := signed 32 (fld v 31 0);
     let c : Int := if a < -1000000000 then -1000000000 else if 1000000000 < a then 1000000000 else a;
     Completes (.phcFreqWrite v) s fun t =>
      signed 32 (rfld t R.TAU_PHC_FREQ 0 31 0) = c ∧ t.tau = { s.tau with lastDisc := s.tau.mono } ∧
      rbit t R.TAU_STATUS 0 8 = false ∧ RegsBut [adr R.TAU_PHC_FREQ 0, adr R.TAU_STATUS 0] s t ∧
      t = { s with tau := t.tau, regs := t.regs })) ∧
  (∀ (s : State) (v : Word),
    (Completes (.holdTimeoutWrite v) s fun t => rfld t R.TAU_PHC_CTL 0 31 16 = fld v 31 16 ∧
      t.tau = { s.tau with holdAt := some s.tau.mono, holdClr := s.tau.holdClr || decide (fld v 31 16 = 0) } ∧
      RegsBut [adr R.TAU_PHC_CTL 0] s t ∧ t = { s with regs := t.regs, tau := t.tau }) ∧
    (let h := rfld s R.TAU_PHC_CTL 0 31 16
     let d := (s.tau.mono + 2 ^ 64 - s.tau.lastDisc) % 2 ^ 64
     (h ≠ 0 → s.tau.holdAt ≠ some s.tau.mono → h * 1600000 < d ∨ (h * 1600000 = d ∧ arrivalsDone s = true) →
        rbit s R.TAU_STATUS 0 8 = false →
        Completes .holdoverEnter s fun t => rbit t R.TAU_STATUS 0 8 = true ∧ rbit t R.TAU_STATUS 0 3 = true ∧
          (s.mgmtDown = false → rbit t R.ERR_INT_STAT 0 5 = true) ∧
          t = { s with regs := t.regs, err := t.err, out := t.out }) ∧
     (h = 0 ∨ d < h * 1600000 ∨ s.tau.holdAt = some s.tau.mono → exec .holdoverEnter s = .next s)) ∧
    (rfld s R.TAU_REF_CFG 0 1 0 ≠ 2 → Completes .refLoss s fun t =>
      rfld t R.TAU_REF_CFG 0 1 0 = 2 ∧ rbit t R.TAU_STATUS 0 1 = true ∧
      rget t R.TAU_PHC_FREQ 0 = rget s R.TAU_PHC_FREQ 0 ∧ t = { s with regs := t.regs, err := t.err, out := t.out }) ∧
    (s.tau.bridgeFault = false → Completes .bridgeTimeFault s fun t => t.tau = { s.tau with bridgeFault := true, qPhc := phcNow s } ∧
      t = { s with tau := t.tau, regs := t.regs, err := t.err, out := t.out, gau := t.gau }) ∧
    exec .timeLaneRelock s = .next { s with tau := { s.tau with bridgeFault := false } })

/-- R43 to R47: the 1PPS pins and the time-of-day UART: the output rises on the tick that reaches its instant and
falls once its width has passed; the input is lost after 1.1 s without an edge; the UART receives while EN is 1. That
a command whose condition does not hold changes nothing is the model's choice (log 2) where no rule says it is
ignored. -/
def Obligations.TimePins : Prop :=
  ∀ (s : State) (b : Byte) (sec ns : Word),
    (Completes .ppsInEdge s fun t =>
      rfld t R.TAU_PPS_IN_TS 0 61 30 = phcNow s / 2 ^ 48 / 1000000000 % 2 ^ 32 ∧
      rfld t R.TAU_PPS_IN_TS 0 29 0 = phcNow s / 2 ^ 48 % 1000000000 ∧
      t.tau = { s.tau with ppsIn := s.tau.mono, ppsInLost := false } ∧
      RegsBut [adr R.TAU_PPS_IN_TS 0] s t ∧ t = { s with regs := t.regs, tau := t.tau }) ∧
    (s.tau.ppsInLost = false → s.tau.ppsIn + 1760000000 < s.tau.mono → exec .ppsInLoss s =
      .next (tauStatus 2 { s with tau := { s.tau with ppsInLost := true } })) ∧
    (s.tau.ppsInLost = true ∨ s.tau.mono < s.tau.ppsIn + 1760000000 → exec .ppsInLoss s = .next s) ∧
    (∀ n, ppsSecond s = some n → rbit s R.TAU_PPS_CFG 0 0 = true → s.tau.ppsOut = false →
      let i := n * 1000000000 + rfld s R.TAU_PPS_CFG 0 61 32
      exec .ppsOutEdge s = if phcNow s < i * 2 ^ 48 + phcTickUnits s then
          .next { s with tau := { s.tau with ppsOut := true, ppsEnd := i + 1000 * rfld s R.TAU_PPS_CFG 0 27 8 },
                         out := .pps true :: s.out }
        else .next s) ∧
    (s.tau.ppsOut = true → exec .ppsOutPulseEnd s = if s.tau.ppsEnd ≤ phcNow s / 2 ^ 48 then
      .next { s with tau := { s.tau with ppsOut := false }, out := .pps false :: s.out } else .next s) ∧
    (s.tau.todReady = true → rbit s R.TAU_TOD_CFG 0 0 = true → s.tau.todAt ≤ phcNow s / 2 ^ 48 →
      let sent := s.tau.todBuf.take (rfld s R.TAU_TOD_CFG 0 14 8)
      exec .todMessageSend s =
        .next { s with tau := { s.tau with todBuf := [], todReady := false }, out := .todByteRun sent :: s.out }) ∧
    (rbit s R.TAU_TOD_CFG 0 0 = true → s.tau.todRx.length < 256 → exec (.todByteRx b sec ns) s =
      .next (tauStatus 0 { s with tau := { s.tau with todRx := s.tau.todRx ++ [(b, sec.toNat, ns.toNat)] } })) ∧
    (rbit s R.TAU_TOD_CFG 0 0 = false ∨ s.tau.todRx.length = 256 → exec (.todByteRx b sec ns) s = .next s) ∧
    (∀ e rest, s.tau.todRx = e :: rest → exec .todRxRead s =
      .next { s with tau := { s.tau with todRx := rest }, lastRead := todWord e }) ∧
    (s.tau.todRx = [] → exec .todRxRead s = .next { s with lastRead := 0 })

/-- R36, R37, R41: one tick of the time bus moves the monotonic count on by one and the PHC by 0.625 ns corrected by
ADJ, and clears the count of entries fired on the tick; a write of HOLD_TIMEOUT = 0 ends holdover, and a sleeping
thread with an entry in its inbox wakes (R42, R107); the requests that arrived on the tick that ends are accepted or
refused, resets that waited for PF0 are applied (R402, R456), and a commit that waited for the tick's commands is made
first (R69, R204). What a tick's judgements do to the tables, the pools, the Gauge and the interrupts is not stated
here. How the correction by ADJ is rounded is the model's choice (log 54). -/
def Obligations.TickMovesTheClocks : Prop :=
  ∀ s : State,
   (s.tau.step = none → exec .timeBusTick s = exec .timeBusTick (commitEnd s)) ∧
   ((∀ q k, s.tau.step = some (q, k) → k = s.tau.mono) → s.tau.commitDue = false → s.tau.mono + 1 < 2 ^ 64 → s.tau.phc + phcTickUnits s < 2 ^ 48 * 1000000000 * 2 ^ 48 →
    Completes .timeBusTick s fun t =>
      t.tau.mono = s.tau.mono + 1 ∧ t.tau.phc = s.tau.phc + phcTickUnits s ∧ t.tau.taFired = 0 ∧
      (rfld s R.TAU_PHC_FREQ 0 31 0 = 0 → t.tau.phc * 1000 = s.tau.phc * 1000 + 625 * 2 ^ 48) ∧
      (s.tau.holdClr = true → rbit t R.TAU_STATUS 0 8 = false) ∧ t.pending = s.pending ∧
      t.tau.curEpoch = s.tau.curEpoch ∧
      (s.cph.arrived = [] → s.hif.ctlDue = [] →
        (∀ k, ¬ ((thr s k).svc = true ∧ (thr s k).st = .sleeping) → thr t k = thr s k) ∧
        (∀ k, (thr s k).svc = true → (thr s k).st = .sleeping → (thr s k).inbox ≠ [] → (thr s k).exc6 = false →
          (thr t k).st = .ready)) ∧
      t.cph.arrived = [] ∧ t.hif.ctlDue = [] ∧ t.was = [])

/-- R51, R54, R55: an entry of the time-action table is armed with its ACTION, disarmed, and fires. That a command
whose condition does not hold changes nothing is the model's choice (log 2) where no rule says it is ignored. -/
def Obligations.TimeActionEntries : Prop :=
  ∀ (s : State) (n : TaIdx) (v : Word),
    let st (t : State) : Nat := rfld t R.TAU_TA_ACT n.val 62 60
    let armed (t : State) : Bool := rbit t R.TAU_TA_ACT n.val 63
    (armed s = false → bit v 63 = true → fld v 55 52 ≤ 6 → Completes (.taArm n v) s fun t =>
      armed t = true ∧ st t = 1 ∧ rfld t R.TAU_TA_ACT n.val 59 56 = 0 ∧
      rfld t R.TAU_TA_ACT n.val 55 52 = fld v 55 52 ∧ rfld t R.TAU_TA_ACT n.val 51 0 = fld v 51 0 ∧
      (mfind t.tau.ta n.val).isSome = true ∧ (∀ m, m ≠ n.val → mfind t.tau.ta m = mfind s.tau.ta m) ∧
      RegsBut [adr R.TAU_TA_ACT n.val] s t ∧ t = { s with regs := t.regs, tau := t.tau }) ∧
    (armed s = true → exec (.taArm n v) s = .next s) ∧
    (armed s = true → bit v 63 = false → Completes (.taDisarm n v) s fun t =>
      armed t = false ∧ st t = 0 ∧ mfind t.tau.ta n.val = none ∧ n.val ∉ t.tau.taDue ∧
      RegsBut [adr R.TAU_TA_ACT n.val] s t ∧ t = { s with regs := t.regs, tau := t.tau }) ∧
    (∀ e rest, s.tau.taDue = n.val :: rest → s.tau.taFired < 8 → arrivalsDone s = true → s.tau.commitDue = false →
      mfind s.tau.ta n.val = some e → e.late = false →
      rfld s R.TAU_TA_ACT n.val 55 52 = 7 →
      let a := rfld s R.TAU_TA_ACT n.val 51 0
      let p := rfld s R.TAU_TA_PERIOD n.val 21 0
      Completes .taFire s fun t =>
        t.sen.arrivals = s.sen.arrivals ++ [⟨640 * (a % 8) + min (a / 8 % 1024) 639,
          ⟨0, BitVec.ofNat 32 (a / 2 ^ 13), none, 0⟩⟩] ∧
        st t = 2 ∧ t.tau.taDue = rest ∧ t.tau.taFired = s.tau.taFired + 1 ∧
        (p = 0 → armed t = false ∧ mfind t.tau.ta n.val = none) ∧
        (p ≠ 0 → armed t = armed s ∧ mfind t.tau.ta n.val = some ⟨e.instant + 1000 * p, false, none⟩))

/-- R59 to R72: opening, abandoning, committing and freeing an epoch. The bits of one write act as ABANDON, OPEN,
COMMIT; abandoned versions are gone from the next tick on. A commit waits for the tick's commands that come before it,
with its tick's end the latest, and takes held commands of its epoch into it; it is refused by the first check that
fails, in the order of R69, and leaves LAST_RESULT; otherwise the pending epoch becomes current and the current one
previous. -/
def Obligations.QuenchEpochs : Prop :=
  ∀ (s : State) (n : Nat) (v : Word),
    (bar0Served s R.TAU_QUENCH_CTL.base = true →
      exec (.registerWrite (.bar0 R.TAU_QUENCH_CTL.base) 8 v) s =
        .next (let a := if bit v 2 then epochAbandon s else s
               let o := if bit v 0 then epochOpen a else a
               if bit v 1 then commitAsk o else o)) ∧
    (exec .quenchOpen s = .next (epochOpen s) ∧ exec .quenchAbandon s = .next (epochAbandon s) ∧
      exec .quenchCommit s = .next (commitAsk s)) ∧
    (comes s beforeCommit = true → commitAsk s = { s with tau := { s.tau with commitDue := true } }) ∧
    (comes s beforeCommit = false → commitAsk s = epochCommit s) ∧
    (∀ n rest, s.tau.taDue = n :: rest → s.tau.taFired < 8 → arrivalsDone s = true →
      exec .taFire s = exec .taFire (commitEnd s)) ∧
    (exec .quenchOpen s = if s.tau.pendOpen then .next s else
      .next { s with tau := { s.tau with pendOpen := true, pendCount := 0 } }) ∧
    (s.tau.pendOpen = true → Completes .quenchAbandon s fun t =>
        t.tau = { s.tau with pendOpen := false, reclaim := s.tau.reclaim + s.tau.pendCount, pendCount := 0 } ∧
        t.lkp.abandoned = true ∧ t.tcam.abandoned = true ∧ (∀ e ∈ (tcamDrop t).tcam.rows, e.2.pset = false) ∧
        t.sen = s.sen ∧ t.pending = s.pending) ∧
    (seqDown s 17 = false → exec (.abandonedVersionReclaim n) s =
      .next { s with tau := { s.tau with reclaim := s.tau.reclaim - n } }) ∧
    (s.mgmtDown = true ∨ s.tau.bridgeFault = true → commitRefusal s none = some 4) ∧
    (s.mgmtDown = false → s.tau.bridgeFault = false →
      s.tau.lastCommit.any (fun m => decide ((s.tau.mono + 2 ^ 64 - m) % 2 ^ 64 < 160000)) = true →
      commitRefusal s none = some 2) ∧
    (let h := tcamHeldTake (heldTake s)
     (∀ c, commitRefusal h none = some c → comes s beforeCommit = false →
      exec .quenchCommit s = .next (tauStatus 6 { h with tau := { h.tau with lastResult := c } })) ∧
     (s.mgmtDown = false → s.tau.bridgeFault = false → comes s beforeCommit = false →
      s.tau.lastCommit = none → h.tau.pendCount ≤ 1048576 → Completes .quenchCommit s fun t =>
        t.tau.curEpoch = (s.tau.curEpoch + 1) % 65536 ∧ t.tau.prevState = 1 ∧ t.tau.prevCount = h.tau.pendCount ∧
        t.tau.pendOpen = false ∧ t.tau.pendCount = 0 ∧ t.tau.lastResult = 0 ∧
        t.tau.lastCommit = some s.tau.mono ∧
        t.tau.drainEnd = s.tau.mono + 1600 * rfld s R.TAU_QUENCH_DRAIN 0 13 0 ∧ t.pending = s.pending)) ∧
    (s.tau.prevState = 1 → s.tau.drainEnd < s.tau.mono ∨ (s.tau.drainEnd = s.tau.mono ∧ arrivalsDone s = true) → exec .drainTimerExpire s =
      .next { s with tau := { s.tau with prevState := 2 } }) ∧
    (s.tau.prevState = 2 → seqDown s 17 = false →
      s.sen.threads.any (fun e => liveWithTag e.2 ((s.tau.curEpoch + 3) % 4)) = false →
      Completes .previousEpochFreed s fun t =>
        t.tau = { s.tau with prevState := 0, prevCount := 0 } ∧
        (∀ e ∈ t.sen.banks, e.2.st ≠ .held) ∧ (∀ e ∈ t.tcam.rows, e.2.vset = false) ∧ t.sen.threads = s.sen.threads)

/-! ### Results, state memory and pattern unit (ch. 4, 5) -/

/-- R72, R89, R134, R142, R163, R383: a result that returns is written to the registers its request named, and the
request is no longer outstanding; a Ready thread goes on, a Waiting one that waited for nothing else is released. A
memory that met no error gives the result the request carries (a flow lookup waits while its channel holds requests);
an uncorrectable error of the state memory gives zero. The result of a request that its thread has given up is
discarded. R160, R163, R164: the oldest waiting request takes a free lane with its set's entries as they stand once
the tick's changes to them have come; a scan of an invalid or empty set reports NO_SET alone, and one that finds
nothing reports zero. -/
def Obligations.ResultsAndPatternScans : Prop :=
  (∀ (s : State) (th : ThreadRef) (tag : Tag) (r : Req),
    let k := thrKey th
    let t := thr s k
    (∀ g a v, s.sen.gone.find? (goneIs k tag.val isState) = some g → g.2.kind = .state a v →
      exec (.stateReadResult th tag false) s =
        .next { s with sen := { s.sen with gone := s.sen.gone.eraseP (goneIs k tag.val isState) } }) ∧
    ((∀ sort, s.sen.gone.find? (goneIs k tag.val sort) = none) → reqOf t tag.val = some r → t.exc6 = false →
    t.st = .ready ∨ (t.st = .waiting ∧ t.waitTags = [tag.val] ∧ t.waitFrame = false) →
    let left := t.reqs.filter (fun q => decide (q.tag ≠ r.tag))
    let ends (c : Instr) (v0 v1 : Word) : Prop := Completes c s fun x =>
      (thr x k).st = .ready ∧ (thr x k).reqs = left ∧ (thr x k).pc = t.pc ∧
      (∀ i, i ≤ 31 → greg (thr x k) i =
        if r.two = true ∧ i = r.rd + 1 ∧ i ≠ 0 then v1 else if i = r.rd ∧ i ≠ 0 then v0 else greg t i) ∧
      (∀ j, j ≠ k → thr x j = thr s j)
    (∀ p key vt res, r.kind = .lookup p key vt res →
      let reads := profReads s p key
      (reads.any (unitWaits s .mcd) = true → exec (.lookupResult th tag false .clean) s = .next (memAsks .mcd reads s)) ∧
      (let s1 := memUses .mcd reads false s
       reads.any (unitWaits s .mcd) = false →
       readsTable s1 p = false ∨ lookupBad s1 p key ((viewOf s1 vt).getD .cur) = none →
       ends (.lookupResult th tag false .clean) res.r0 res.r1)) ∧
    (∀ a v, r.kind = .state a v → ends (.stateReadResult th tag false) v 0 ∧ ends (.stateReadResult th tag true) 0 0) ∧
    (∀ set o bytes w ents, r.kind = .pmatch set o bytes false (some (w, ents)) →
      ends (.pmatchResult th tag []) (scanResult w ents bytes o []) 0))) ∧
  (∀ (s : State),
    (∀ k tag rest r set o bytes wb, s.ppu.queue = (k, tag) :: rest → s.ppu.lanes.length < 16 →
      s.sen.gone.find? (goneIs k tag toScan) = none → comes s beforeScan = false →
      reqOf (thr s k) tag = some r → r.kind = .pmatch set o bytes wb none →
      let w := rget s R.TCM_PPU_SET set
      Completes .pmatchScanStart s fun t =>
        t.ppu.queue = rest ∧ t.ppu.lanes = s.ppu.lanes ++ [(k, tag)] ∧ t.ppu.pats = s.ppu.pats ∧
        (∀ q ∈ (thr t k).reqs, q.tag = tag → q.kind = .pmatch set o bytes wb (some (w, setEntries s w))) ∧
        (∀ j, j ≠ k → thr t j = thr s j) ∧ t = { s with sen := t.sen, ppu := t.ppu }) ∧
    (∀ (set : Word) ents bs o, bit set 63 = false ∨ fld set 48 32 = 0 →
      scanResult set ents bs o [] = BitVec.ofNat 64 (2 ^ 60)) ∧
    (∀ (set : Word) ents bs o, bit set 63 = true → fld set 48 32 ≠ 0 →
      (∀ e ∈ ents, ∀ p, p < 512 → patMatchAt e.2 bs o (min (o + 511) (bs.length - 1)) p = false) →
      scanResult set ents bs o [] = 0))

/-- R142, R145, R147: PF0 reads and writes the state memory through SEN_STATE_ADDR, and a write of SEN_CNT_SEL latches
a counter pair, which CLR zeroes; a PF0 access comes after those of the tick's threads (R144). R160, R161: a command
of the pattern unit stores INDEX and OP and sets BUSY, and is ignored while one runs; its end writes, reads or
invalidates the entry at INDEX, with RESULT 1, and clears BUSY. That a command whose condition does not hold changes
nothing is the model's choice (log 2) where no rule says it is ignored. -/
def Obligations.StateMemoryCountersAndPatternUnit : Prop :=
  (∀ (s : State) (v : Word),
    let a := rfld s R.SEN_STATE_ADDR 0 20 0
    exec .stateDataRead s =
      .next { s with lastRead := mget 0 s.sen.stm a,
                     sen := { s.sen with stmLast := mput s.sen.stmLast a (s.tau.mono, 5120) } } ∧
    (Completes (.stateDataWrite v) s fun t => mget 0 t.sen.stm a = v ∧
      (∀ b, b ≠ a → mget 0 t.sen.stm b = mget 0 s.sen.stm b) ∧
      t = { s with sen := { s.sen with stm := t.sen.stm,
                                       stmLast := mput s.sen.stmLast a (s.tau.mono, 5120) } }) ∧
    (let i := fld v 19 0;
     Completes (.counterLatch v) s fun t =>
      (rget t R.SEN_CNT_PKT 0, rget t R.SEN_CNT_BYTE 0) = mget (0, 0) s.sen.cnt i ∧
      mget (0, 0) t.sen.cnt i = (if bit v 20 then (0, 0) else mget (0, 0) s.sen.cnt i) ∧
      (∀ j, j ≠ i → mget (0, 0) t.sen.cnt j = mget (0, 0) s.sen.cnt j) ∧
      RegsBut [adr R.SEN_CNT_SEL 0, adr R.SEN_CNT_PKT 0, adr R.SEN_CNT_BYTE 0] s t ∧
      t = { s with regs := t.regs, sen := { s.sen with cnt := t.sen.cnt, latchAt := some s.tau.mono } })) ∧
  (∀ (s : State) (v : Word),
    let cmd (t : State) : Word := rget t R.TCM_PPU_CMD 0
    let i := fld (cmd s) 15 0
    let e := mget Pat.empty s.ppu.pats i
    let starts (c : Instr) (op : Nat) : Prop := Completes c s fun t =>
      bit (cmd t) 63 = true ∧ fld (cmd t) 17 16 = op ∧ fld (cmd t) 15 0 = fld v 15 0 ∧
      RegsBut [adr R.TCM_PPU_CMD 0] s t ∧ t = { s with regs := t.regs }
    (bit (cmd s) 63 = false →
      starts (.ppuWrite v) 0 ∧ starts (.ppuRead v) 1 ∧ starts (.ppuInvalidate v) 2) ∧
    (bit (cmd s) 63 = true →
      exec (.ppuWrite v) s = .next s ∧ exec (.ppuRead v) s = .next s ∧ exec (.ppuInvalidate v) s = .next s) ∧
    (bit (cmd s) 63 = true →
      (fld (cmd s) 17 16 = 0 → Completes (.ppuCommandDone false) s fun t =>
        bit (cmd t) 63 = false ∧ fld (cmd t) 58 56 = 1 ∧
        mget Pat.empty t.ppu.pats i = stagedPat s ∧
        (∀ j, j ≠ i → mget Pat.empty t.ppu.pats j = mget Pat.empty s.ppu.pats j) ∧
        RegsBut [adr R.TCM_PPU_CMD 0] s t ∧ t = { s with regs := t.regs, ppu := t.ppu }) ∧
      (fld (cmd s) 17 16 = 1 → Completes (.ppuCommandDone false) s fun t =>
        bit (cmd t) 63 = false ∧ fld (cmd t) 58 56 = 1 ∧
        (∀ j, j < 4 → rget t R.TCM_PPU_DATA j = e.data.getD j 0) ∧ rget t R.TCM_PPU_MASK 0 = e.mask ∧
        rget t R.TCM_PPU_ATTR 0 = e.attr ∧ t = { s with regs := t.regs }) ∧
      (fld (cmd s) 17 16 = 2 → Completes (.ppuCommandDone false) s fun t =>
        bit (cmd t) 63 = false ∧ mget Pat.empty t.ppu.pats i = { e with attr := setBit e.attr 0 false } ∧
        (∀ j, j ≠ i → mget Pat.empty t.ppu.pats j = mget Pat.empty s.ppu.pats j))))

/-! ### Lookup tables and TCAM (ch. 6, 7) -/

/-- R196, R197, R199, R203: GO of LKP_CMD. It is ignored while a command runs; otherwise BUSY is set with the
operation, and a command that names the pending epoch has its result at once (but where the sequencers it needs
restart), and so has an immediate change of a short prefix, whose root entries follow (R194); any other immediate one
waits for its end. R197, R199, R217: the end of an immediate command on a result entry (KIND 3). A read of one with a
parity error loads zeros with RESULT 5; without one, a write stores the current version, a read loads the data, a
delete removes the version, and one that is absent gives RESULT 2; BUSY clears. That a command whose condition does
not hold changes nothing is the model's choice (log 2) where no rule says it is ignored. -/
def Obligations.LookupCommands : Prop :=
  (∀ (s : State) (v : Word),
    let cmd (t : State) : Word := rget t R.LKP_CMD 0
    let each : List (Instr × Nat) := [(.lkpRead v, 0), (.lkpWrite v, 1), (.lkpInsert v, 2), (.lkpDelete v, 3),
      (.lkpMove v, 4), (.lkpWithdraw v, 5)]
    ∀ e ∈ each,
      (bit (cmd s) 63 = true → exec e.1 s = .next s) ∧
      (bit (cmd s) 63 = false → bit v 44 = false ∨ e.2 = 0 → Completes e.1 s fun t =>
        bit (cmd t) 63 = true ∧ fld (cmd t) 47 45 = e.2 ∧ fld (cmd t) 49 48 = fld v 49 48 ∧
        (isShortPfx (lkpCmd t) = false → RegsBut [adr R.LKP_CMD 0] s t ∧ t = { s with regs := t.regs }) ∧
        (isShortPfx (lkpCmd t) = true → seqDown s 8 = false → t.lkp.preResult.isSome = true ∧ t.sen = s.sen)) ∧
      (bit (cmd s) 63 = false → bit v 44 = true → e.2 ≠ 0 → Completes e.1 s fun t =>
        bit (cmd t) 63 = true ∧ fld (cmd t) 47 45 = e.2 ∧ (seqDown s 7 = false → seqDown s 8 = false → t.lkp.preResult.isSome = true) ∧
        t.sen = s.sen)) ∧
  (∀ s : State,
    let cmd (t : State) : Word := rget t R.LKP_CMD 0
    let c := lkpCmd s
    let v := (mfind s.lkp.res c.key).getD Vers.none_
    let ends (res : Nat) (p : State → Prop) : Prop := Completes (.lkpCommandDone .clean) s fun t =>
      bit (cmd t) 63 = false ∧ fld (cmd t) 62 59 = res ∧
      (∀ k, k ≠ c.key → mfind t.lkp.res k = mfind s.lkp.res k) ∧ p t
    bit (cmd s) 63 = true → s.lkp.preResult = none → c.kind = 3 → c.epoch = false →
      (∀ b, c.op = 0 → cmdBad c s = some b → (versionView s c.version).isSome = true → ends 5 fun t =>
        rfld t R.LKP_CMD_DATA0 0 55 0 = 0 ∧ rget t R.LKP_CMD_DATA1 0 = 0 ∧ t.lkp.res = s.lkp.res) ∧
      (cmdBad c s = none →
      (c.op = 1 → ends 1 fun t => mfind t.lkp.res c.key = some { v with cur := some (BitVec.ofNat 120 c.data) } ∧
        RegsBut [adr R.LKP_CMD 0] s t ∧ t = { s with lkp := t.lkp, regs := t.regs }) ∧
      (c.op = 3 → v.cur.isSome = true → ends 1 fun t =>
        ((mfind t.lkp.res c.key).getD Vers.none_).cur = none ∧ t = { s with lkp := t.lkp, regs := t.regs }) ∧
      (c.op = 3 → v.cur = none → ends 2 fun t => mfind t.lkp.res c.key = mfind s.lkp.res c.key) ∧
      (∀ w d, c.op = 0 → versionView s c.version = some w → versOf v w = some d → (mfind s.lkp.res c.key).isSome = true →
        ends 1 fun t => rfld t R.LKP_CMD_DATA0 0 55 0 = d.toNat % 2 ^ 56 ∧
          (rget t R.LKP_CMD_DATA1 0).toNat = d.toNat / 2 ^ 56 ∧ t.lkp.res = s.lkp.res)))

/-- R177, R182, R186, R193: tables come into and go out of use. A table is enabled with its other fields where its
blocks allow it; disabling discards its pending and previous versions and starts a clearing, at whose end its entries
are gone; a stash entry moves to a place that is free, its old copy cleared on the next tick, and the oldest trie
array that waits is freed 2 µs after its change. -/
def Obligations.LookupTablesEnableAndClear : Prop :=
  ∀ (s : State) (v : Word),
    (∀ t : EmTable, let s1 := hostStore false R.LKP_EM_CFG t.val v s
      tableEn s t.val = false → clearing s t.val = false → emEnableOk s1 t.val = true →
      exec (.emTableEnable t v) s = .next (rsetF s1 R.LKP_EM_CFG t.val 63 63 1)) ∧
    (∀ f : FlowTable, let s1 := hostStore false R.LKP_FLOW_CFG f.val v s
      tableEn s (64 + f.val) = false → clearing s (64 + f.val) = false → memReady s .mcd = true →
      exec (.flowTableEnable f v) s = .next (rsetF s1 R.LKP_FLOW_CFG f.val 63 63 1)) ∧
    (let gone (c : Instr) (r : Reg) (i n : Nat) : Prop := tableEn s n = true → Completes c s fun t =>
        rbit t r i 63 = false ∧
        (∀ e ∈ t.lkp.ents, entTable e.1 = n → e.2.v.pend = none ∧ e.2.v.prev = none) ∧
        (∀ k, entTable k ≠ n → mfind t.lkp.ents k = mfind (lkpDrop s).lkp.ents k) ∧
        t.lkp.clr.length = s.lkp.clr.length + 1 ∧ RegsBut [adr r i] s t ∧
        t = { s with regs := t.regs, lkp := t.lkp, tau := t.tau };
     (∀ t : EmTable, gone (.emTableDisable t v) R.LKP_EM_CFG t.val t.val) ∧
     (∀ f : FlowTable, gone (.flowTableDisable f v) R.LKP_FLOW_CFG f.val (64 + f.val))) ∧
    (∀ (t : LearnTable) (j : ClrJob) (rest : List ClrJob), seqDown s 7 = false → s.lkp.clr = j :: rest →
      j.table = t.val → j.enable = none →
      let run := clearRun s t.val
      (runWaits s .mcd run.1 run.2 = true → exec (.tableClearDone t) s = .next (runAsk .mcd run.1 run.2 s)) ∧
      (runWaits s .mcd run.1 run.2 = false → Completes (.tableClearDone t) s fun u =>
        (∀ e ∈ u.lkp.ents, entTable e.1 ≠ t.val) ∧
        (∀ k, entTable k ≠ t.val → mfind u.lkp.ents k = mfind s.lkp.ents k) ∧ u.lkp.clr = rest ∧
        u.tau = { s.tau with reclaim := s.tau.reclaim - j.storage } ∧
        (t.val < 64 → u = { s with lkp := u.lkp, tau := u.tau }) ∧
        (64 ≤ t.val → u.sen = s.sen ∧ u.tmg = s.tmg ∧ u.liu = s.liu ∧ ∀ e ∈ u.mcd.bytes,
          e.1 < j.base.toNat ∨ j.base.toNat + 128 * 2 ^ fld j.cfg 44 40 ≤ e.1))) ∧
    (∀ (t : EmTable) front k e back l, seqDown s 7 = false → s.lkp.ents = front ++ (k, e) :: back →
      (∀ x ∈ front, ¬ (entTable x.1 = t.val ∧ x.2.loc.wayNo = none ∧ placeBad s t.val x.2.loc = false) ∨
        freePlace s t.val (x.1 % 2 ^ 256) = none) →
      entTable k = t.val → e.loc.wayNo = none → placeBad s t.val e.loc = false →
      freePlace s t.val (k % 2 ^ 256) = some l →
      exec (.stashReturn t) s =
        .next { s with lkp := { s.lkp with ents := mput s.lkp.ents k { e with loc := l },
                                           copies := s.lkp.copies ++ [(t.val, e.loc)] } }) ∧
    (∀ x d rest, s.lkp.trieFree = (x, d) :: rest → exec .trieArrayFree s = if timeUp s (d + 3200) then
      .next { s with lkp := { s.lkp with trieFree := rest } } else .next s)

/-- R209 to R211, R213 to R217: learning, the end of a damping hold, the ageing sweep and the notifications. The
oldest learn whose sequencer runs comes after a command of its tick (R201, R468); one of a flow table waits while its
channel holds requests (R383), one that displaces others makes one displacement a tick (R183), and one that meets a
parity error changes no entry. That a command whose condition does not hold changes nothing is the model's choice (log
2) where no rule says it is ignored. -/
def Obligations.LearningAndAgeing : Prop :=
  ∀ s : State,
    (comes s beforeLearn = true → ∀ perr, exec (.learnApply perr) s = .next s) ∧
    (∀ l rest, comes s beforeLearn = false → takeFirst (fun l => !seqDown s l.seq) s.lkp.learnQ = some (l, rest) →
      tableEn s l.table = true →
      let as := flowAddrs s l.table l.key
      let u := memUses .mcd as false { s with lkp := { s.lkp with learnQ := rest } }
      (as.any (unitWaits s .mcd) = true → exec (.learnApply none) s = .next (memAsks .mcd as s)) ∧
      (as.any (unitWaits s .mcd) = false → moving s l.table = true → exec (.learnApply none) s = .next s) ∧
      (∀ x, as.any (unitWaits s .mcd) = false → moving s l.table = false → emBad s l.table l.key = none →
        displace l.table l.key s = some x → exec (.learnApply none) s = .next x) ∧
      (as.any (unitWaits s .mcd) = false → moving s l.table = false →
        (∀ x, displace l.table l.key s = some x → emBad s l.table l.key ≠ none) →
        (∀ b, emBad u l.table l.key = some b → Completes (.learnApply none) s fun t =>
          t.lkp = u.lkp ∧ t.sen = s.sen ∧ t.tmg = s.tmg) ∧
        (∀ e d, emBad u l.table l.key = none → entOf u l.table l.key = some e → e.v.cur = some d → d.static = true →
          Completes (.learnApply none) s fun t => t.lkp = u.lkp ∧ t.regs = u.regs ∧ t = { u with gau := t.gau }) ∧
        (∀ es p, emBad u l.table l.key = none → entOf u l.table l.key = none →
          place u l.table l.key = some (es, p) → rbit u R.LKP_LEARN_CFG l.table 62 = false →
          let data : EData := ⟨BitVec.ofNat 120 (l.data.toNat % 2 ^ dataBits u l.table), false⟩
          Completes (.learnApply none) s fun t => t.lkp.learnQ = rest ∧
            entOf t l.table l.key = some ⟨p, Vers.of data, true, 0⟩ ∧
            (l.table < 64 → t = { u with lkp := t.lkp, gau := t.gau })))) ∧
    (∀ (t : LearnTable) (key : BitVec 256) tr e, let k := entKey t.val key.toNat
      mfind s.lkp.tracks k = some tr → tr.damped = some e → timeUp s e = true →
      rbit s R.LKP_LEARN_CFG t.val 60 = false →
      exec (.dampHoldEnd t key) s = .next { s with lkp := { s.lkp with tracks := mdel s.lkp.tracks k } }) ∧
    (∀ t : LearnTable, rbit s R.LKP_AGE_CFG t.val 63 = true → tableEn s t.val = true → seqDown s 6 = false →
      timeUp s (mget 0 s.lkp.swept t.val + 1600000 * rfld s R.LKP_AGE_CFG t.val 31 0) = true →
      (sweepReads s t.val).any (unitWaits s .mcd) = false → ∀ errs, Completes (.ageingSweep ⟨t, errs⟩) s fun u =>
        mget 0 u.lkp.swept t.val = s.tau.mono ∧ u.sen = s.sen ∧
        (∀ k, entTable k ≠ t.val → mfind u.lkp.ents k = mfind s.lkp.ents k) ∧
        (∀ k e d, mfind s.lkp.ents k = some e → e.v.cur = some d → d.static = true → mfind u.lkp.ents k = some e)) ∧
    (∀ n rest, s.lkp.notify = n :: rest → n.type < 8 → n.table < 128 → Completes .lkpNotifyRead s fun t =>
      t.lkp.notify = rest ∧ bit t.lastRead 63 = true ∧ rget t R.LKP_NOTIFY 4 = n.data ∧
      (∀ i, i < 4 → rget t R.LKP_NOTIFY i = BitVec.ofNat 64 (n.key / 2 ^ (64 * (3 - i)))) ∧
      t = { s with regs := t.regs, lkp := t.lkp, lastRead := t.lastRead }) ∧
    (s.lkp.notify = [] → Completes .lkpNotifyRead s fun t => t.lastRead = 0)

/-- R199, R230 to R236: GO of TCM_CMD. It is ignored while a command runs, but for one further command beside a
respread; otherwise BUSY is set with the operation. A withdraw, a move and a command that names the pending epoch act
at once, and every other command at its end; a respread plans its moves, and holds the changes of its table. R231 to
R234: the end of a TCAM command. A write that fits its pre-filter block stores the row at INDEX, a delete takes its
current version away or has RESULT 2, a move's source becomes a hole, a search gives the index of the row it finds or
RESULT 2, and every other row is unchanged; a respread ends once its moves are done, with its RESULT (R236). That a
command whose condition does not hold changes nothing is the model's choice (log 2) where no rule says it is ignored.
-/
def Obligations.TcamCommands : Prop :=
  (∀ (s : State) (v : Word),
    let cmd (t : State) : Word := rget t R.TCM_CMD 0
    let each : List (Instr × Nat) := [(.tcamRead v, 0), (.tcamWrite v, 1), (.tcamDelete v, 2), (.tcamMove v, 3),
      (.tcamFindHole v, 4), (.tcamSearch v, 5), (.tcamWithdraw v, 6), (.tcamRespread v, 7)]
    let free := bit (cmd s) 63 = false ∨ (s.tcam.resp.isSome = true ∧ s.tcam.second = false)
    let held := ∃ j, s.tcam.resp = some j ∧ j.table = fld v 55 52
    ∀ e ∈ each,
      let now := e.2 = 3 ∨ e.2 = 6 ∨ (bit v 47 = true ∧ (e.2 = 1 ∨ e.2 = 2))
      (¬ free → exec e.1 s = .next s) ∧
      (free → (¬ now ∧ e.2 ≠ 7) ∨ (held ∧ e.2 ≠ 0 ∧ e.2 ≠ 4 ∧ e.2 ≠ 5) ∨ (e.2 = 7 ∧ s.tcam.resp.isSome = true) →
        Completes e.1 s fun t => bit (cmd t) 63 = true ∧ fld (cmd t) 51 48 = e.2 ∧
          fld (cmd t) 55 52 = fld v 55 52 ∧ fld (cmd t) 43 26 = fld v 43 26 ∧
          RegsBut [adr R.TCM_CMD 0] s t ∧
          t = { s with regs := t.regs, tcam := { s.tcam with second := s.tcam.resp.isSome } }) ∧
      (free → now → ¬ held → Completes e.1 s fun t => bit (cmd t) 63 = true ∧ fld (cmd t) 51 48 = e.2 ∧
          (t.tcam.preResult.isSome = true ∨ t.tcam.moveSrc.isSome = true) ∧
          RegsBut [adr R.TCM_CMD 0] s t ∧ t = { s with regs := t.regs, gau := t.gau, tcam := t.tcam, tau := t.tau }) ∧
      (free → e.2 = 7 → s.tcam.resp = none → seqDown s 12 = false → seqDown s 13 = false → dutyDown s .respread = false →
        Completes e.1 s fun t =>
          bit (cmd t) 63 = true ∧ (t.tcam.preResult.isSome = true ∨ t.tcam.resp.isSome = true) ∧
          t.tcam.rows = s.tcam.rows ∧ RegsBut [adr R.TCM_CMD 0] s t ∧
          t = { s with regs := t.regs, tcam := t.tcam, csq := { s.csq with given := t.csq.given } })) ∧
  (∀ s : State,
    let cmd (t : State) : Word := rget t R.TCM_CMD 0
    let c := tcamCmd s
    let k := 4096 * (rowAt s c.table c.idx).1 + (rowAt s c.table c.idx).2
    let x := mget TRow.empty s.tcam.rows k
    let others (k : Nat) (t : State) : Prop :=
      ∀ j, j ≠ k → mget TRow.empty t.tcam.rows j = mget TRow.empty s.tcam.rows j
    let ends (res : Nat) (p : State → Prop) : Prop := Completes (.tcamCommandDone .clean) s fun t =>
      bit (cmd t) 63 = false ∧ fld (cmd t) 62 59 = res ∧ t.sen = s.sen ∧ p t
    (∀ j, bit (cmd s) 63 = true → s.tcam.resp = some j → s.tcam.second = false →
      (j.moves ≠ [] → exec (.tcamCommandDone .clean) s = .next s) ∧
      (j.moves = [] → j.res < 16 → ends j.res fun t => t.tcam = { s.tcam with resp := none })) ∧
    (bit (cmd s) 63 = true → s.tcam.resp = none → s.tcam.preResult = none →
      (∀ m, s.tcam.moveSrc = some m → ends 1 fun t => mget TRow.empty t.tcam.rows m = TRow.empty ∧ others m t) ∧
      (s.tcam.moveSrc = none → tcamValid c s = true → c.epoch = false →
        (c.op = 1 → x.pset = false → x.vset = false → pfFits s c.table c.idx c.key c.mask = true →
          ends 1 fun t => mget TRow.empty t.tcam.rows k =
            { key := c.key, mask := c.mask, assoc := c.assoc, c := true, pset := false, p := x.p, vset := false,
              v := x.v, quar := false } ∧ others k t) ∧
        (c.op = 1 → x.pset = true → ends 9 fun t => t.tcam.rows = s.tcam.rows) ∧
        (c.op = 2 → x.c = true → ends 1 fun t => (mget TRow.empty t.tcam.rows k).c = false ∧ others k t) ∧
        (c.op = 2 → x.c = false → ends 2 fun t => t.tcam.rows = s.tcam.rows) ∧
        (∀ w b r, c.op = 5 → versionView s c.version = some w → tcamFind s c.table c.key w = some (b, r) →
          (trow s b r).quar = false → ends 1 fun t =>
            fld (cmd t) 25 8 = tcamIndex s c.table b r % 2 ^ 18 ∧ t.tcam.rows = s.tcam.rows) ∧
        (∀ w, c.op = 5 → versionView s c.version = some w → tcamFind s c.table c.key w = none →
          ends 2 fun t => fld (cmd t) 25 8 = 0 ∧ t.tcam.rows = s.tcam.rows))))

/-- R222, R242 to R245: a table takes its banks, gives them up, and a bank is scrubbed in its turn, retired or
exchanged for the table's spare; another bank of the table that waited for the spare is then retired. That a command
whose condition does not hold changes nothing is the model's choice (log 2) where no rule says it is ignored. -/
def Obligations.TcamTablesAndBanks : Prop :=
  ∀ (s : State) (t : TcamTable) (v : Word),
    let en (x : State) : Bool := rbit x R.TCM_TABLE_CFG t.val 63
    (let s1 := hostStore false R.TCM_TABLE_CFG t.val v s;
     en s = false → s.tcam.clr = [] → (tableBanks s1 t.val).all (fun b => bankFits s1 b (tcamWidth s1 t.val)) = true →
      spareOf s1 t.val = none →
      Completes (.tcamTableEnable t v) s fun x => en x = true ∧ (∀ b ∈ tableBanks s1 t.val, bankState x b = 1) ∧
        x = { s with regs := x.regs }) ∧
    (en s = true → Completes (.tcamTableDisable t v) s fun x => en x = false ∧
      x.tcam.clr.length = s.tcam.clr.length + 1 ∧ x.sen = s.sen ∧ x.lkp = s.lkp) ∧
    (∀ j rest, dutyDown s (.tcamClear t.val) = false → s.tcam.clr = j :: rest → j.table = t.val →
      Completes (.tcamTableClearDone t) s fun x => x.tcam.clr = rest ∧
        (∀ e ∈ x.tcam.rows, e.1 / 4096 ∉ cfgBanks j.cfg) ∧
        (∀ b, b ∈ cfgBanks j.cfg ∨ (bit j.cfg 39 = true ∧ b = fld j.cfg 45 40) → b < 64 → bankState s b ≠ 3 →
          bankState x b = if s.tcam.sparing.any (fun e => decide (e.1 = b)) then 3 else 0) ∧
        x.tau = { s.tau with reclaim := s.tau.reclaim - j.storage }) ∧
    (∀ (b : TcamBank) (r : TcamRow), rbit s R.TCM_SCRUB_CFG 0 63 = true →
      (scrubNext s ≠ some (4096 * b.val + r.val) ∨ tcamScrubDue s = false → ∀ z, exec (.tcamScrubRead b r z) s = .next s) ∧
      (scrubNext s = some (4096 * b.val + r.val) → tcamScrubDue s = true →
      (Completes (.tcamScrubRead b r .clean) s fun x => x = { s with
        gau := x.gau
        tcam := { s.tcam with scrubAt := 4096 * b.val + r.val + 1, scrubLast := s.tau.mono } }) ∧
      (Completes (.tcamScrubRead b r .uncorrectable) s fun x =>
        (trow x b.val r.val).quar = true ∧ rfld x R.TCM_VERIFY_STAT 0 63 58 = b.val ∧
        rfld x R.TCM_VERIFY_STAT 0 57 46 = r.val))) ∧
    (∀ (b : TcamBank) (sw : Bool), retireDue s 3 b.val sw = true → tableOfBank s b.val = some t.val →
      spareOf s t.val = none → Completes (.tcamBankRetire b sw) s fun x =>
        bankState x b.val = 3 ∧ (unitGet x 3 b.val).state = 1 ∧ (∀ e ∈ x.tcam.rows, e.1 / 4096 ≠ b.val)) ∧
    (∀ b rest sp, en s = true → dutyDown s (.spareCopy b) = false → s.tcam.sparing = (b, t.val) :: rest →
      spareOf s t.val = some sp → b < 64 → sp < 64 → b ≠ sp → Completes (.tcamSpareExchange t) s fun x =>
        rfld x R.TCM_BANK_CFG b 53 48 = rfld s R.TCM_BANK_CFG sp 53 48 ∧
        rfld x R.TCM_BANK_CFG sp 53 48 = rfld s R.TCM_BANK_CFG b 53 48 ∧ bankState x sp = 3 ∧ spareOf x t.val = none ∧
        (∀ d, (d, t.val) ∈ rest → d < 64 → bankState x d = 3 ∧ (∀ e ∈ x.tcam.rows, e.1 / 4096 ≠ d)) ∧
        ((∀ e ∈ rest, e.2 < 16 ∧ e.2 ≠ t.val ∧ (spareOf s e.2).isSome = true) →
          bankState x b = bankState s b ∧ x.tcam.sparing = rest ∧ x.tcam.rows = s.tcam.rows))

/-! ### Line interface (ch. 8) -/

/-- R246 to R250: a port is enabled with a mode its lanes allow, LF standing and LINK down; disabling it stops the
receiver at once; LINK follows the PCS, not while an OTN client is lost, and every fall of it is counted. R43, R48,
R279, R525: a lane that loses lock or is retired squelches every SyncE output that names it, and a reference that
names it is lost; one that regains lock releases them; a retired lane is marked and takes its port out of use. That a
command whose condition does not hold changes nothing is the model's choice (log 2) where no rule says it is ignored.
-/
def Obligations.LinePortsLanesAndSyncE : Prop :=
  (∀ (s : State) (p : Port) (v : Word),
    let link (t : State) : Nat := rfld t R.LIU_PORT_STAT p.val 63 60
    let downs (t : State) : Nat := rfld t R.LIU_PORT_STAT p.val 15 0
    (portEn s p.val = false → bit v 63 = true → 1 ≤ fld v 3 0 → fld v 3 0 ≤ 12 →
      modeOk (hostStore false R.LIU_PORT_CFG p.val v s) p.val (fld v 3 0) = true →
      Completes (.portEnable p v) s fun t => portEn t p.val = true ∧ portMode t p.val = fld v 3 0 ∧ link t = 4 ∧
        t.sen.toIng = s.sen.toIng) ∧
    (portEn s p.val = true → bit v 63 = false → Completes (.portDisable p v) s fun t =>
      portEn t p.val = false ∧ link t = 0 ∧ (liuPort t p.val).rx = none) ∧
    (portEn s p.val = true → rbit s R.LIU_PORT_STAT p.val 63 = false → clientLost s p.val = false →
      Completes (.linkUp p) s fun t => link t = 8 ∧ downs t = downs s ∧ t.liu = s.liu) ∧
    (clientLost s p.val = true → exec (.linkUp p) s = .next s) ∧
    (∀ aligned lf rf ber, portEn s p.val = true → rbit s R.LIU_PORT_STAT p.val 63 = true →
      Completes (.linkDown p aligned lf rf ber) s fun t =>
        link t = (!aligned || lf).toNat * 4 + (aligned && rf).toNat * 2 + ber.toNat ∧
        downs t = min (downs s + 1) 65535 ∧ t.liu = s.liu)) ∧
  (∀ (s : State) (l : Lane) (k : Nat), k < 4 → rfld s R.TAU_SYNCE_OUT k 14 8 = l.val →
    let squelched (t : State) : Bool := rbit t R.TAU_SYNCE_OUT k 0
    (Completes (.lanePllLockLoss l) s fun t => squelched t = true ∧ l.val ∈ t.liu.unlocked ∧
      (rfld s R.TAU_REF_CFG 0 1 0 = 1 → rfld s R.TAU_REF_CFG 0 14 8 = l.val →
        rfld t R.TAU_REF_CFG 0 1 0 = 2 ∧ rbit t R.TAU_STATUS 0 1 = true)) ∧
    (laneRetired s l.val = false → Completes (.laneLockRegain l) s fun t =>
      squelched t = false ∧ l.val ∉ t.liu.unlocked ∧ t = { s with regs := t.regs, liu := t.liu }) ∧
    (∀ sw, retireDue s 0 l.val sw = true → Completes (.laneRetire l sw) s fun t =>
      squelched t = true ∧ laneRetired t l.val = true ∧ (unitGet t 0 l.val).state = 1))

/-- R11, R16, R17, R168, R249 to R251, R253, R256, R311: a frame is stamped at its start, with the epoch that a commit
of the same tick ends, and holds to the configuration of its start; its head is offered once more than 512 bytes have
arrived, a frame without MACsec that passes the checks is offered whole, one with a bad FCS or an uncorrectable
codeword of its own is counted, as are all codewords; the next complete frame of a port that is up, or was in progress
as the port went out of use, leaves on its line with its FCS; a transmit timestamp is read oldest first. -/
def Obligations.FramesOnTheLine : Prop :=
  ∀ (s : State) (p : Port) (f : RxFrame) (bytes : Bytes) (fec : FecCount),
    let x := liuPort s p.val
    let g : RxFrame := { f with raw := f.raw ++ bytes }
    let plain := bit f.sec.cfg 63 = false
    let fcsErr (t : State) : Nat := rfld t R.LIU_MAC_ERR p.val 47 32
    (portEn s p.val = true → x.rx = none → clientLost s p.val = false →
      Completes (.frameStart p) s fun t => t.sen = { s.sen with nextPid := s.sen.nextPid + 1 } ∧
        (∃ h, (liuPort t p.val).rx = some h ∧ h.pid = s.sen.nextPid ∧ h.raw = [] ∧ h.offered = false ∧
          (s.tau.lastCommit ≠ some s.tau.mono → h.tag = s.tau.curEpoch % 4) ∧
          (s.tau.lastCommit = some s.tau.mono → h.tag = (s.tau.curEpoch + 65535) % 65536 % 4) ∧
          (x.before = none → h.maxFrame = rfld s R.LIU_PORT_CFG p.val 39 24 ∧
            h.sec.cfg = rget s R.LIU_MSEC_CFG p.val)) ∧
        (∀ q, q ≠ p.val → liuPort t q = liuPort s q) ∧ t = { s with sen := t.sen, liu := t.liu }) ∧
    (plain → x.rx = some f → f.offered = false → clientLost s p.val = false →
      let kept := rxKept g
      (512 < kept.length → Completes (.frameHeaderReady p bytes) s fun t =>
        t.sen.toIng = s.sen.toIng ++ [headPacket s p.val g kept false] ∧
        t.sen.order = s.sen.order ++ [⟨.ing, p.val, f.pid⟩] ∧
        (liuPort t p.val).rx = some { g with offered := true, given := kept.length } ∧
        t = { s with sen := t.sen, liu := t.liu }) ∧
      (kept.length ≤ 512 → Completes (.frameHeaderReady p bytes) s fun t =>
        (liuPort t p.val).rx = some g ∧ t = { s with liu := t.liu })) ∧
    (plain → x.rx = some f → f.offered = false → 60 ≤ g.raw.length → g.raw.length ≤ f.maxFrame →
      rfld s R.LIU_PORT_CFG p.val 19 18 ≠ 2 →
      (clientLost s p.val = false → Completes (.frameComplete p bytes ⟨true, fec, 0⟩) s fun t =>
        t.sen.toIng = s.sen.toIng ++ [headPacket s p.val g g.raw true] ∧ (liuPort t p.val).rx = none ∧
        rfld t R.LIU_FEC_STAT p.val 63 32 = min (rfld s R.LIU_FEC_STAT p.val 63 32 + fec.corrected) (2 ^ 32 - 1) ∧
        rfld t R.LIU_FEC_STAT p.val 31 0 = min (rfld s R.LIU_FEC_STAT p.val 31 0 + fec.uncorr) (2 ^ 32 - 1) ∧
        (fec.uncorr = 0 → rget t R.LIU_PORT_STAT p.val = rget s R.LIU_PORT_STAT p.val) ∧
        RegsBut [adr R.LIU_FEC_STAT p.val, adr R.LIU_PORT_STAT p.val] s t ∧
        t = { s with regs := t.regs, sen := t.sen, liu := t.liu, gau := t.gau }) ∧
      (∀ ok own, ok = false ∨ 0 < own → Completes (.frameComplete p bytes ⟨ok, fec, own⟩) s fun t =>
        fcsErr t = min (fcsErr s + 1) 65535 ∧ (liuPort t p.val).rx = none ∧
        (g.raw.length ≤ 512 →
          RegsBut [adr R.LIU_MAC_ERR p.val, adr R.LIU_FEC_STAT p.val, adr R.LIU_PORT_STAT p.val] s t ∧
          t = { s with regs := t.regs, liu := t.liu, gau := t.gau }))) ∧
    (∀ ok own, x.rx = none → exec (.frameComplete p bytes ⟨ok, fec, own⟩) s =
      .next (fecCount p.val { fec with uncorr := fec.uncorr + own } s)) ∧
    (∀ q rest, s.sen.toLiu = q :: rest → mdF q 2 20 14 = p.val → q.complete = true →
      s.tmg.cuts.any (fun c => decide (c.pid = q.pid)) = false →
      (portEn s p.val = true ∧ rbit s R.LIU_PORT_STAT p.val 63 = true) ∨ x.sending = some q.pid →
      bit (txSeen s p.val q.pid).cfg 63 = false → rfld s R.LIU_PORT_CFG p.val 19 18 = 0 → clientCut s p.val = false →
      rbit s R.LIU_TXTS_PROFILE (mdF q 7 31 24 / 64) (mdF q 7 31 24 % 64) = false →
      Completes (.frameTransmit p) s fun t => t.sen = { s.sen with toLiu := rest } ∧
        t.out = .frame p.val (withFcs (padFrame (frameBytes q)) q.bad) q.bad :: s.out ∧
        (liuPort t p.val).sending = none ∧ (∀ o, o ≠ p.val → liuPort t o = liuPort s o) ∧
        t = { s with sen := t.sen, liu := t.liu, out := t.out }) ∧
    (∀ r rest, x.txts = r :: rest → Completes (.txtsRead p) s fun t =>
      t.lastRead = (at_ 1 63 ||| secNsWord r.ts) ∧ rfld t R.LIU_TXTS_TAG p.val 31 0 = r.tag % 2 ^ 32 ∧
      (liuPort t p.val).txts = rest ∧ RegsBut [adr R.LIU_TXTS_TAG p.val] s t)

/-- R258 to R260, R461: a secure association captures its slot's key and salt when it is enabled, is removed when it
is disabled, and a switch asked for acts on the next tick if the association it names is enabled. That a command whose
condition does not hold changes nothing is the model's choice (log 2) where no rule says it is ignored. -/
def Obligations.SecureAssociations : Prop :=
  ∀ (s : State) (p : Port) (a : An) (v : Word),
    let x := liuPort s p.val
    let i := 8 * p.val + 4 + a.val
    let sl := slotOf s (fld v 47 32)
    let en (t : State) : Bool := rbit t R.LIU_MSEC_SA i 63
    (en s = false → bit v 63 = true → sl.kind = 1 → sl.macsec = true → s.cph.bad.contains (fld v 47 32) = false →
      Completes (.macsecSaEnable p .rx a v) s fun t => en t = true ∧
        (liuPort t p.val).sa = mput x.sa (4 + a.val) ⟨fld v 47 32, sl.key, sl.salt, false⟩ ∧
        rfld t R.CPH_MSEC_SASTAT i 63 60 = 0 ∧ t = { s with regs := t.regs, liu := t.liu }) ∧
    (en s = true → bit v 63 = false → Completes (.macsecSaDisable p .rx a v) s fun t => en t = false ∧
      (liuPort t p.val).sa = mdel x.sa (4 + a.val) ∧ RegsBut [adr R.LIU_MSEC_SA i] s t ∧
      t = { s with regs := t.regs, liu := t.liu }) ∧
    exec (.msecSwitchWrite v) s =
      .next { s with liu := { s.liu with switches := s.liu.switches ++ [(fld v 9 0, s.tau.mono)] } } ∧
    (arrivalsDone s = false → exec .macsecAssociationSwitch s = .next s) ∧
    (let an := rfld s R.LIU_MSEC_CFG p.val 55 54;
     ∀ k, s.liu.switches = [(p.val + 128 * a.val, k)] → k ≠ s.tau.mono → arrivalsDone s = true → an ≠ a.val →
      Completes .macsecAssociationSwitch s fun t => t.liu.switches = [] ∧
        rfld t R.LIU_MSEC_CFG p.val 55 54 = (if rbit s R.LIU_MSEC_SA (8 * p.val + a.val) 63 then a.val else an) ∧
        (rbit s R.LIU_MSEC_SA (8 * p.val + a.val) 63 = false → rbit t R.LIU_MSEC_CFG p.val 51 = true) ∧
        RegsBut [adr R.LIU_MSEC_CFG p.val] s t) ∧
    (∀ o until_, x.overlap = some (o, until_) → timeUp s until_ = true → o < 4 → Completes (.rxOverlapEnd p) s fun t =>
      (liuPort t p.val).overlap = none ∧ rbit t R.LIU_MSEC_SA (8 * p.val + 4 + o) 63 = false ∧
      mfind (liuPort t p.val).sa (4 + o) = none)

/-- R264 to R278 (with R10): the defects of an OTN port are declared and cleared after 3 ms and follow the receiver; a
frame period is received and one is sent, with the client words of the Cm that the frame before it signalled; a PM
second ends at its boundary and its records are read oldest first. That a command whose condition does not hold
changes nothing is the model's choice (log 2) where no rule says it is ignored. -/
def Obligations.OtnPorts : Prop :=
  ∀ (s : State) (o : OtnPort),
    let x := otnOf s o.val
    let d (t : State) (b : Nat) : Bool := rbit t R.LIU_OTN_DEF o.val b
    let sets (c : Instr) (b : Nat) (on : Bool) : Prop := Completes c s fun t => d t b = on ∧
      (∀ j, j < 64 → j ≠ b → d t j = d s j) ∧ t.pending = s.pending ∧ t.sen.threads = s.sen.threads
    let long (m : Option Nat) : Prop := ∃ n, m = some n ∧ timeUp s (n + 4800000) = true
    (otnOn s o.val = true → long x.oofSince → sets (.dlofDeclare o) 4 true) ∧
    (long x.inSince → sets (.dlofClear o) 4 false) ∧
    (otnOn s o.val = true → long x.lomSince → sets (.dlomDeclare o) 5 true) ∧
    (long x.mfasOkSince → sets (.dlomClear o) 5 false) ∧
    (∀ on, otnOn s o.val = true → sets (.dlosChange o on) 0 on ∧ sets (.damChange o on) 1 on) ∧
    (∀ f : OtnRxFrame, otnOn s o.val = true →
      (∀ fr ∈ x.framers, fr = ⟨none, 0, []⟩) → (∀ l ∈ f.found, l = []) →
      Completes (.otnRxFrame o f) s fun t => d t 3 = true ∧ (otnOf t o.val).inSince = none ∧
        (otnOf t o.val).oofSince = some (x.oofSince.getD s.tau.mono) ∧ (otnOf t o.val).apsRun = (0, 0) ∧
        (otnOf t o.val).lomSince = none ∧ (otnOf t o.val).mfasOkSince = none) ∧
    (∀ words, otnOn s o.val = true → rbit s R.LIU_OTN_CFG o.val 63 = true → comes s beforeOtnTx = true →
      exec (.otnTxFrame o words) s = .next s) ∧
    (∀ words, otnOn s o.val = true → rbit s R.LIU_OTN_CFG o.val 63 = false ∨ comes s beforeOtnTx = false →
      Completes (.otnTxFrame o words) s fun t =>
        rfld t R.LIU_OTN_GMP o.val 49 36 = x.txCm % 2 ^ 14 ∧
        (∃ jc aps a b c d, t.out = .otn (4 * o.val) (gmpWords x.txCm) jc aps a b c d :: s.out) ∧
        (otnOf t o.val).aFrac = (x.aFrac + words) % 65536 ∧ (otnOf t o.val).txCm = (x.aFrac + words) / 65536 ∧
        (otnOf t o.val).txMfas = (x.txMfas + 1) % 256 ∧
        RegsBut [adr R.LIU_OTN_GMP o.val] s t ∧ t = { s with regs := t.regs, liu := t.liu, out := t.out }) ∧
    (∀ f : OtnRxFrame, let y := sliceRx o.val f s
      (otnOf y o.val).rxCm = ((jcDecode f.jc).filter (fun cm => decide (cm ≤ 1904))).getD x.rxCm ∧
      (otnOf y o.val).rxWords = x.rxWords +
        (if [3, 5, 6].any (fun b => rbit y R.LIU_OTN_DEF o.val b) then 0 else (gmpWords x.rxCm).countP id)) ∧
    (otnOn s o.val = true → x.pm.until_ ≤ phcSec (phcNow s) → arrivalsDone s = true → comes s (declares o) = false →
      seqDown s 16 = true →
      Completes (.pmSecondEnd o) s fun t => (otnOf t o.val).pmWait = x.pmWait ++ [gradeSec s o.val x.pm] ∧
        (otnOf t o.val).pm.sec = phcSec (phcNow s) ∧ t = { s with liu := t.liu }) ∧
    (∀ w rest, x.fifo = w :: rest → Completes (.otnPmRead o) s fun t => t.lastRead = setBit w 63 true ∧
      (otnOf t o.val).fifo = rest ∧ t = { s with lastRead := t.lastRead, liu := t.liu })

/-! ### Traffic manager (ch. 9) -/

/-- R281, R282: the table window. An access reads or writes the element INDEX of TABLE, and AUTO_INC moves INDEX on,
past the last element to the first. R326 to R328: enabling the capture ring zeroes HEAD and TAIL; TAIL is stored
within the ring, or clamped to HEAD; a record is written at HEAD, which moves on, waits for its channel, or is dropped
and counted when the ring is full. EN 0 stops the capture and ends the records on their way (log 31). -/
def Obligations.TableWindowAndCapture : Prop :=
  (∀ (s : State) (v : Word),
    let t := rfld s R.TMG_TBL_ADDR 0 35 32
    let i := rfld s R.TMG_TBL_ADDR 0 18 0
    let moved (x : State) : Prop := rfld x R.TMG_TBL_ADDR 0 18 0 =
      (if rbit s R.TMG_TBL_ADDR 0 63 then (i + 1) % tableSize t else i)
    s.bridgeUp = true →
    (t = 10 → i < 262144 → Completes (.tableDataWrite v) s fun x =>
      rget x R.TMG_MC_ENTRY i = writeReg false R.TMG_MC_ENTRY (rget s R.TMG_MC_ENTRY i) v ∧ moved x ∧
      RegsBut [adr R.TMG_MC_ENTRY i, adr R.TMG_TBL_ADDR 0] s x ∧ x = { s with regs := x.regs }) ∧
    (∀ r, tableReg t = some r → t ≠ 2 → Completes .tableDataRead s fun x =>
      x.lastRead = rget s r i ∧ moved x ∧ RegsBut [adr R.TMG_TBL_ADDR 0] s x ∧
      x = { s with regs := x.regs, lastRead := x.lastRead }) ∧
    (t = 2 → Completes .tableDataRead s fun x => x.lastRead.toNat / 2 ^ 35 % 2 ^ 28 = occOf (queueOf s i) % 2 ^ 28 ∧
      bit x.lastRead 63 = (queueOf s i).spill ∧ moved x) ∧
    (13 ≤ t → exec (.tableDataWrite v) s = .next (tableNext s))) ∧
  (∀ (s : State) (v : Word),
    let n := capCount s
    let head := capPos s R.TMG_CAP_HEAD
    let used := (head + 2 * n - capPos s R.TMG_CAP_TAIL) % (2 * n)
    s.bridgeUp = true →
    (bit v 63 = true → memReady s .mcd = true → Completes (.captureEnable v) s fun t => rbit t R.TMG_CAP_CFG 0 63 = true ∧
      rget t R.TMG_CAP_HEAD 0 = 0 ∧ rget t R.TMG_CAP_TAIL 0 = 0 ∧
      (rbit s R.TMG_CAP_CFG 0 63 = true → capCount t = n) ∧
      RegsBut [adr R.TMG_CAP_CFG 0, adr R.TMG_CAP_HEAD 0, adr R.TMG_CAP_TAIL 0] s t ∧ t = { s with regs := t.regs }) ∧
    (bit v 63 = false → Completes (.captureEnable v) s fun t => rbit t R.TMG_CAP_CFG 0 63 = false ∧
      RegsBut [adr R.TMG_CAP_CFG 0] s t ∧ t = { s with regs := t.regs, tmg := { s.tmg with cap := [] } }) ∧
    (let to_ := (bit v 63).toNat * n + min (fld v 27 0) (n - 1);
     n ≤ 2 ^ 28 → head < 2 * n → Completes (.capTailWrite v) s fun t =>
      (rbit s R.TMG_CAP_CFG 0 63 = true →
        capPos t R.TMG_CAP_TAIL = if (head + 2 * n - to_) % (2 * n) ≤ n then to_ else head) ∧
      (rbit s R.TMG_CAP_CFG 0 63 = false → capPos t R.TMG_CAP_TAIL = to_) ∧
      RegsBut [adr R.TMG_CAP_TAIL 0] s t ∧ t = { s with regs := t.regs }) ∧
    (∀ r rest, s.tmg.cap = r :: rest → rbit s R.TMG_CAP_CFG 0 63 = true → n ≤ 2 ^ 28 →
      (arrivalsDone s = false → exec .captureRecordWritten s = .next s) ∧
      (used = n → arrivalsDone s = true → exec .captureRecordWritten s =
        .next (rcount { s with tmg := { s.tmg with cap := rest } } R.TMG_CAP_STAT 0 63 32 1)) ∧
      (let a := capPlace s
       used ≠ n → arrivalsDone s = true →
        (runWaits s .mcd a.1 a.2 = true → exec .captureRecordWritten s = .next (runAsk .mcd a.1 a.2 s)) ∧
        (runWaits s .mcd a.1 a.2 = false → Completes .captureRecordWritten s fun t =>
          t.tmg = { s.tmg with cap := rest } ∧ capPos t R.TMG_CAP_HEAD = (head + 1) % (2 * n) ∧
          capPos t R.TMG_CAP_TAIL = capPos s R.TMG_CAP_TAIL ∧ t.sen = s.sen ∧ t.bpm = s.bpm))))

/-- R289, R294, R295, R299, R302, R308: a complete packet that passes every check of R294 takes its cells and joins
the end of its queue, and the first check it fails counts it by its code; the last byte of a frame makes its copies
eligible; decisions wait for the writes of their tick, a selection for every change; the packet a port selects leaves
the head of its queue for the egress dispatcher, once its HBM cells can be read, or is discarded with code 13 where
they cannot. R171, R295, R305, R311: a further cell joins every copy of its frame, and the last byte of a packet that
cut through frees its cells and marks a frame longer than its MTU whose length was unknown as its head left. That a
command whose condition does not hold changes nothing is the model's choice (log 2) where no rule says it is ignored.
-/
def Obligations.PacketsAndCellsInTheQueues : Prop :=
  (∀ (s : State) (p : Packet) (rest : List Packet),
    let q := pktQueue p
    let plain := mdF p 1 7 7 = 0 ∧ mdF p 1 6 6 = 0 ∧ mdF p 1 5 5 = 0 ∧ p.complete = true ∧ p.bad = false
    let s1 := avgUpdate q { s with sen := { s.sen with toTmg := rest, nextPid := s.sen.nextPid + 1 } }
    let n := cellsFor (frameLen p)
    let code := admitCheck s1 p false (placePool s p) n ((Config.freeWord s.freeCtr).toNat % 65536)
    (s.sen.toTmg = p :: rest → bpmTurn s 1 0 = true → comes s beforeDecision = false → plain → code = 0 → (takeCells (placePool s p) n [] (drawn s1)).1 = true →
      Completes .packetAdmit s fun t =>
        (∃ e : QPkt, (queueOf t q).skein = (queueOf s q).skein ++ [e] ∧ e.pkt = p ∧ e.stored = true ∧
          e.cells = (takeCells (placePool s p) n [] (drawn s1)).2.1) ∧
        (∀ j, j ≠ q → (queueOf t j).skein = (queueOf s j).skein) ∧ t.sen.toTmg = rest) ∧
    (s.sen.toTmg = p :: rest → bpmTurn s 1 0 = true → comes s beforeDecision = false → plain → code ≠ 0 → code < 16 → rfld s R.TMG_CAP_CFG 0 23 0 = 0 →
      Completes .packetAdmit s fun t =>
        rfld t R.TMG_DROP code 47 0 = min (rfld s R.TMG_DROP code 47 0 + 1) (2 ^ 48 - 1) ∧
        (∀ j, (queueOf t j).skein = (queueOf s j).skein) ∧ t.sen.toTmg = rest ∧ t.bpm = s.bpm) ∧
    (∀ (port : Port) o, comes s beforeSelect = true → exec (.portSelect port o) s = .next s) ∧
    (s.sen.toTmg = p :: rest → comes s beforeDecision = true → exec .packetAdmit s = .next s) ∧
    (∀ src j e, queuesOf s src = [j] → (queueOf s j).skein = [e] → e.pkt.src = src → e.pkt.complete = true →
      e.pkt.bad = false → e.stored = false → cellsFor (frameLen e.pkt) ≤ e.cells.length →
      Completes (.packetTailStored src) s fun t => (queueOf t j).skein = [{ e with stored := true }] ∧
        (∀ i, i ≠ j → queueOf t i = queueOf s i) ∧ t = { s with tmg := t.tmg }) ∧
    (∀ (port : Port) (o : ReadOutcome), comes s beforeSelect = false → let s2 := judgeElig (purgePort port.val s)
      let qs := (eligibleQueues s2).filter (fun j => decide (portOfQueue s2 j = port.val))
      let d := descend qs 4 (nodeKey 1 port.val) s2
      ∀ e tail, qs ≠ [] → (queueOf d.1 d.2.1).skein = e :: tail →
        ((hbmFetch e o d.1).res = .read → Completes (.portSelect port o) s fun t =>
          t.sen.toEgr = s.sen.toEgr ++ [e.pkt] ∧ (queueOf t d.2.1).skein = tail) ∧
        ((hbmFetch e o d.1).res = .waits → exec (.portSelect port o) s = .next (hbmFetch e o s2).st) ∧
        ((hbmFetch e o d.1).res = .failed → Completes (.portSelect port o) s fun t =>
          t.sen.toEgr = s.sen.toEgr ∧ (queueOf t d.2.1).skein = tail ∧
          rfld t R.TMG_DROP 13 47 0 = min (rfld d.1 R.TMG_DROP 13 47 0 + 1) (2 ^ 48 - 1)))) ∧
  (∀ s : State,
    (∀ src cells q k t, cellState s src = some (cells, none, q) → cells.length < 64 → shortCopy s src = false →
      bpmTurn s 1 0 = true → comes s beforeDecision = false → takers s src = 1 → tmgAllocate (if spills s q then hbmPool s else sramPool s) s = some (k, t) →
      exec (.packetBodyCell src) s = .next (addCell src k t)) ∧
    (∀ src, cellState s src = none → exec (.packetBodyCell src) s = .next s) ∧
    (∀ c rest, s.tmg.cuts = c :: rest → c.complete = true → cellsFor c.len ≤ c.cells.length →
      Completes (.cutThroughTailLeave c.pid) s fun t => t.tmg.cuts = rest ∧ mfind t.tmg.shorts c.pid = none ∧
        t.tmg.qs = s.tmg.qs ∧ t.sen = { s.sen with arrivals := t.sen.arrivals, toLiu := t.sen.toLiu } ∧
        (s.sen.toLiu.find? (fun q => decide (q.pid = c.pid) && q.complete && !q.checked) = none → t.sen.toLiu = s.sen.toLiu) ∧
        (∀ q, s.sen.toLiu.find? (fun q => decide (q.pid = c.pid) && q.complete && !q.checked) = some q →
          mtuFails s (mdF q 2 20 14) (frameLen q) = true → ∀ x ∈ t.sen.toLiu, x.pid = c.pid → x.bad = true)))

/-- R307, R314, R316, R317: a shaper batch and a swap of gate control lists wait for the next tick and its arrivals.
The batch then writes every node it stages, and the swap exchanges the lists and their lengths from the tick's instant
on. That a command whose condition does not hold changes nothing is the model's choice (log 2) where no rule says it
is ignored. -/
def Obligations.ShapersAndGates : Prop :=
  ∀ (s : State) (p : Port) (v : Word),
    (s.bridgeUp = true → exec (.shapeApply v) s =
      .next { s with tmg := { s.tmg with batches := s.tmg.batches ++ [(fld v 7 0, s.tau.mono)] } }) ∧
    (arrivalsDone s = false → exec .shaperBatchApply s = .next s ∧ exec (.gclSwap p) s = .next s ∧
      exec (.gclEntryBoundary p) s = .next s) ∧
    (∀ b, s.tmg.batches = [(b, s.tau.mono)] → exec .shaperBatchApply s = .next s) ∧
    (∀ b m k w, let r := R.TMG_SHAPE_STAGE_NODE
      let l := fld w 54 52
      let n := fld w 18 0
      s.tmg.batches = [(b, m)] → m ≠ s.tau.mono → arrivalsDone s = true → k < 16384 → bit w 63 = true → fld w 62 55 = b → 1 ≤ l → l ≤ 5 → n < levelCount l →
      s.regs.filter (fun e => decide (r.base ≤ e.1 ∧ e.1 < r.base + r.stride * r.count)) = [(adr r k, w)] →
      Completes .shaperBatchApply s fun t => shapeOf t (nodeKey l n) = rget s R.TMG_SHAPE_STAGE_VAL k ∧
        rbit t r k 63 = false ∧ t.tmg.batches = [] ∧ RegsBut [adr (shapeReg l) n, adr r k] s t ∧
        t = { s with regs := t.regs, tmg := t.tmg }) ∧
    (s.bridgeUp = true → bit v 61 = true → Completes (.gclSwapNow p v) s fun t =>
      (gclOf t p.val).swapNow = (gclOf s p.val).swapNow.filter (fun m => decide (m ≠ s.tau.mono)) ++ [s.tau.mono] ∧
      (∀ j, j ≠ p.val → gclOf t j = gclOf s j) ∧ RegsBut [adr R.TMG_GCL_CFG p.val] s t ∧
      t = { s with regs := t.regs, tmg := t.tmg }) ∧
    (∀ k rest, (gclOf s p.val).swapNow = k :: rest → k ≠ s.tau.mono → arrivalsDone s = true → Completes (.gclSwap p) s fun t =>
      rbit t R.TMG_GCL_CFG p.val 62 = !rbit s R.TMG_GCL_CFG p.val 62 ∧
      rfld t R.TMG_GCL_CFG p.val 32 24 = rfld s R.TMG_GCL_CFG p.val 48 40 ∧
      rfld t R.TMG_GCL_CFG p.val 48 40 = rfld s R.TMG_GCL_CFG p.val 32 24 ∧
      (gclOf t p.val).swapNow = rest ∧ rbit t R.TMG_GCL_CFG p.val 63 = rbit s R.TMG_GCL_CFG p.val 63) ∧
    ((gclOf s p.val).swapNow = [] ∨ (gclOf s p.val).swapNow.head? = some s.tau.mono → exec (.gclSwap p) s = .next s) ∧
    (arrivalsDone s = true → Completes (.gclEntryBoundary p) s fun t => t.tmg.elig = eligibleNodes s ∧ t.tmg.qs = s.tmg.qs ∧
      (∀ k ∈ s.tmg.elig, k ∉ eligibleNodes s → deficit t k 0 = 0 ∧ deficit t k 1 = 0) ∧ t = { s with tmg := t.tmg })

/-- R319, R322: the flush of a binding port and of a range of queues empties them and counts what it frees; the port
is then up or down with its LINK, and a queue of the range is disabled from the start. -/
def Obligations.BindOffAndRangeFlush : Prop :=
  ∀ (s : State) (p : Port) (v : Word),
    (rfld s R.TMG_PORT_STAT p.val 63 62 = 1 → dutyDown s (.portFlush p.val) = false →
      Completes (.bindoffFlushDone p) s fun t =>
        rfld t R.TMG_PORT_STAT p.val 63 62 = (if rbit s R.LIU_PORT_STAT p.val 63 then 0 else 2) ∧
        (∀ e ∈ s.tmg.qs, isVoq s e.1 = false → portOfQueue s e.1 = p.val → (queueOf t e.1).skein = []) ∧
        (∀ q, isVoq s q = true ∨ portOfQueue s q ≠ p.val → queueOf t q = queueOf s q)) ∧
    (s.bridgeUp = true → bit v 40 = true → rbit s R.TMG_BINDOFF_CMD 0 63 = false → fld v 18 0 + fld v 39 20 ≤ 524288 → 1 ≤ fld v 39 20 →
      risingFrom 0 s.regs = true → Completes (.rangeFlush v) s fun t =>
        t.tmg = { s.tmg with flush := some (fld v 18 0, fld v 39 20) } ∧ rbit t R.TMG_BINDOFF_CMD 0 63 = true ∧
        (∀ q, fld v 18 0 ≤ q → q < fld v 18 0 + fld v 39 20 → rbit t R.TMG_Q_CFG q 63 = false) ∧
        (∀ q, q < 524288 → q < fld v 18 0 ∨ fld v 18 0 + fld v 39 20 ≤ q → rget t R.TMG_Q_CFG q = rget s R.TMG_Q_CFG q) ∧
        t.csq = (giveDuty .rangeFlush 14 15 s).csq ∧ t = { s with regs := t.regs, tmg := t.tmg, csq := t.csq }) ∧
    (∀ first n, s.tmg.flush = some (first, n) → dutyDown s .rangeFlush = false → Completes .rangeFlushDone s fun t =>
      t.tmg.flush = none ∧ rbit t R.TMG_BINDOFF_CMD 0 63 = false ∧
      (∀ q, first ≤ q → q < first + n → (queueOf t q).skein = []) ∧
      (∀ q, q < first ∨ first + n ≤ q → queueOf t q = queueOf s q))

/-! ### Billet pools and fabric (ch. 1, 10, 11) -/

/-- R334, R335, R337, R339, R340: an allocation is served, in its turn after the tick's releases, from the pool of the
smallest billet size that has a free billet, with result 1 and the billet's handle; its tag then holds bit 15 and a
count of 1 or the owner. With no such pool the result is 2 and the refusal is counted, or 8 where no pool of the mask
could serve the size at all. R333, R334, R338, R392: a pool comes into use with every billet free, where it has
billets, overlaps no other pool of its memory and its memory is ready, from the next tick on; it goes out of use only
while no billet of it is allocated. That a command whose condition does not hold changes nothing is the model's choice
(log 2) where no rule says it is ignored. -/
def Obligations.BilletsAndPools : Prop :=
  (∀ (s : State) (r owner : Requester) (size : Nat) (mask : BitVec 16),
    let cs := candidatePools s size mask.toNat
    let free := cs.filter (fun n => !poolExhausted s n)
    let c := Instr.allocationRequest r owner size mask
    (bpmTurn s 1 r.toNat = false → exec c s = .next s) ∧
    (bpmTurn s 1 r.toNat = true →
    (∀ n i p, smallestPool s free = some n → takeBillet s n = some (i, p) → i < 2 ^ 32 → Completes c s fun t =>
      t.lastRead.toNat = 2 ^ 59 + n * 2 ^ 32 + i ∧
      tagRaw t n i = 2 ^ 15 + (if poolNamed s n then ownerFor r.toNat owner.toNat % 2 ^ 14 else 1) ∧
      (∀ m j, billetKey m j ≠ billetKey n i → tagRaw t m j = tagRaw s m j) ∧ (poolSt t n).used = (poolSt s n).used + 1 ∧
      (∀ m, m ≠ n → poolSt t m = poolSt s m) ∧ t.tmg = s.tmg ∧ t.sen = s.sen ∧ t.fab = s.fab ∧
      (locMem (poolLoc s n) = none → t = { s with bpm := t.bpm, gau := t.gau, lastRead := t.lastRead })) ∧
    (∀ n, smallestPool s free = none → smallestPool s cs = some n → Completes c s fun t =>
      t.lastRead.toNat = 2 * 2 ^ 59 ∧ rfld t R.BPM_POOL_CNT n 31 0 = min (rfld s R.BPM_POOL_CNT n 31 0 + 1) (2 ^ 32 - 1) ∧
      RegsBut [adr R.BPM_POOL_CNT n] s t ∧ t = { s with regs := t.regs, lastRead := t.lastRead }) ∧
    (cs = [] → exec c s = .next { s with lastRead := BitVec.ofNat 64 (8 * 2 ^ 59) }))) ∧
  (∀ (s : State) (n : Pool) (v : Word),
    let s1 := poolFields n.val v s
    let on (t : State) : Bool := poolEn t n.val
    s.bridgeUp = true →
    (on s = false → poolCount s1 n.val ≠ 0 → poolOverlap s1 n.val = false → poolReady s1 n.val = true →
      Completes (.poolEnable n v) s fun t => on t = true ∧ poolOpen t n.val = false ∧
        (poolSt t n.val).on = some s.tau.mono ∧ poolCount t n.val = poolCount s1 n.val ∧
        (poolSt t n.val).used = 0 ∧ (poolSt t n.val).freed = [] ∧ (∀ i, i < 2 ^ 32 → tagRaw t n.val i = 0) ∧
        RegsBut [adr R.BPM_POOL_CFG n.val] s t ∧ t = { s with regs := t.regs, bpm := t.bpm }) ∧
    (on s = true → exec (.poolEnable n v) s = .next s) ∧
    (on s = true → (poolSt s n.val).used = 0 → Completes (.poolDisable n v) s fun t => on t = false ∧
      rget t R.BPM_POOL_STAT n.val = 0 ∧ RegsBut [adr R.BPM_POOL_CFG n.val, adr R.BPM_POOL_STAT n.val] s t ∧
      t = { s with regs := t.regs }) ∧
    (on s = true → (poolSt s n.val).used ≠ 0 → Completes (.poolDisable n v) s fun t => on t = true ∧ t.bpm = s.bpm))

/-- R339 to R344: what release, increment and transfer do to an allocated billet's tag, each in its turn (R337) and
after the checks of R341 in order; one that fails a check changes no tag. A billet whose tag cannot be read is treated
as retired (R386). R344, R345: PF0's commands and the refusal log. GO of BPM_CMD is ignored while BUSY is 1; otherwise
the command runs on the handle registers, and its result stands when BUSY clears. -/
def Obligations.BilletOperations : Prop :=
  (∀ (s : State) (r owner : Requester) (h : Handle) (k : Nat),
    let n := h.pool.val
    let i := h.index.toNat
    let tag := tagRaw s n i
    let others (t : State) : Prop := ∀ m j, billetKey m j ≠ billetKey n i → tagRaw t m j = tagRaw s m j
    let ready : Prop := ∀ m, locMem (poolLoc s n) = some m → memReady s m = true ∧ memLost s m (poolBase s n + 2 * i) = false
    let legal := ready ∧ poolOpen s n = true ∧ i < poolCount s n ∧ tag.testBit 15 = true
    let only (t : State) : Prop := t.tmg = s.tmg ∧ t.sen = s.sen ∧ t.fab = s.fab ∧
      (locMem (poolLoc s n) = none → t = { s with bpm := t.bpm })
    let refused (code : Nat) : State := bpmRefuse code r.toNat n i (tagUse n i false s)
    (bpmTurn s 0 r.toNat = false → exec (.releaseRequest r h .clean) s = .next s ∧
      exec (.incrementRequest r ⟨h, .clean⟩ k) s = .next s ∧ exec (.transferRequest r ⟨h, .clean⟩ owner) s = .next s) ∧
    (bpmTurn s 0 r.toNat = true →
    (legal → poolNamed s n = false → tag % 2 ^ 12 ≠ 1 → Completes (.releaseRequest r h .clean) s fun t =>
      tagRaw t n i = tag - 1 ∧ others t ∧ only t) ∧
    (legal → poolNamed s n = false → tag % 2 ^ 12 ≠ 1 → Completes (.releaseRequest r h .failed) s fun t =>
      tagRaw t n i = (tag ||| 2 ^ 14) - 1 ∧ others t) ∧
    (legal → poolNamed s n = false → tag % 2 ^ 12 = 1 → billetRetired s n i = false →
      Completes (.releaseRequest r h .clean) s fun t => tagRaw t n i = 0 ∧ others t ∧
        (poolSt t n).freed = i :: (poolSt s n).freed ∧ (poolSt t n).used = (poolSt s n).used - 1 ∧
        only t) ∧
    (legal → poolNamed s n = true → tag % 2 ^ 14 ≠ r.toNat →
      exec (.releaseRequest r h .clean) s = .next (refused 4)) ∧
    (legal → poolNamed s n = false → tag % 2 ^ 12 + k ≤ 4095 → Completes (.incrementRequest r ⟨h, .clean⟩ k) s fun t =>
      tagRaw t n i = tag + k ∧ others t ∧ only t) ∧
    (legal → poolNamed s n = false → 4095 < tag % 2 ^ 12 + k →
      exec (.incrementRequest r ⟨h, .clean⟩ k) s = .next (refused 5)) ∧
    (legal → poolNamed s n = true → tag % 2 ^ 14 = r.toNat → Completes (.transferRequest r ⟨h, .clean⟩ owner) s fun t =>
      tagRaw t n i = tag / 2 ^ 14 * 2 ^ 14 + owner.toNat % 2 ^ 14 ∧ others t ∧ only t) ∧
    (ready → tag.testBit 15 = false → poolOpen s n = true → i < poolCount s n →
      exec (.transferRequest r ⟨h, .clean⟩ owner) s = .next (refused 3) ∧
      exec (.releaseRequest r h .clean) s = .next (refused 3)) ∧
    (poolOpen s n = false ∨ poolCount s n ≤ i →
      exec (.transferRequest r ⟨h, .clean⟩ owner) s = .next (bpmRefuse 6 r.toNat n i s) ∧
      exec (.incrementRequest r ⟨h, .clean⟩ k) s = .next (bpmRefuse 6 r.toNat n i s) ∧
      exec (.releaseRequest r h .clean) s = .next (bpmRefuse 6 r.toNat n i s))) ∧
    (∀ code, (bpmRefuse code r.toNat n i s).bpm.tags = s.bpm.tags)) ∧
  (∀ (s : State) (v : Word),
    let busy (t : State) : Bool := rbit t R.BPM_CMD 0 63
    let n := rfld s R.BPM_CMD_HANDLE 0 35 32
    let i := rfld s R.BPM_CMD_HANDLE 0 31 0
    let tag := tagRaw s n i
    let ready := ∀ m, locMem (poolLoc s n) = some m → memReady s m = true ∧ memLost s m (poolBase s n + 2 * i) = false
    let legal := ready ∧ busy s = false ∧ bpmTurn s 0 0x1000 = true ∧ bit v 0 = true ∧ poolOpen s n = true ∧ i < poolCount s n ∧ tag.testBit 15 = true
    let ran (c : Instr) (p : State → Prop) : Prop := Completes c s fun t =>
      busy t = true ∧ t.bpm.result = some 1 ∧ t.sen = s.sen ∧ p t
    s.bridgeUp = true →
    (∀ c ∈ [Instr.bpmAllocate v, .bpmRelease ⟨v, .clean⟩, .bpmIncrement ⟨v, .clean⟩,
        .bpmTransfer ⟨v, .clean⟩, .bpmRead ⟨v, .clean⟩],
      busy s = true → exec c s = .next s) ∧
    (∀ m j p, busy s = false → bpmTurn s 1 0x1000 = true → bit v 0 = true → 1 ≤ fld v 35 21 → fld v 35 21 ≤ 16384 → j < 2 ^ 32 → m < 16 →
      smallestPool s ((candidatePools s (fld v 35 21) (fld v 51 36)).filter (fun x => !poolExhausted s x)) = some m →
      takeBillet s m = some (j, p) →
      ran (.bpmAllocate v) fun t => rfld t R.BPM_CMD_HANDLE 0 35 32 = m ∧ rfld t R.BPM_CMD_HANDLE 0 31 0 = j ∧
        (tagRaw t m j).testBit 15 = true) ∧
    (legal → poolNamed s n = false → tag % 2 ^ 12 ≠ 1 → ran (.bpmRelease ⟨v, .clean⟩) fun t => tagRaw t n i = tag - 1) ∧
    (legal → poolNamed s n = false → tag % 2 ^ 12 + max 1 (rfld s R.BPM_CMD_ARG 0 27 16) ≤ 4095 →
      ran (.bpmIncrement ⟨v, .clean⟩) fun t => tagRaw t n i = tag + max 1 (rfld s R.BPM_CMD_ARG 0 27 16)) ∧
    (legal → poolNamed s n = true → tag % 2 ^ 14 = 0x1000 → ran (.bpmTransfer ⟨v, .clean⟩) fun t =>
      tagRaw t n i = tag / 2 ^ 14 * 2 ^ 14 + rfld s R.BPM_CMD_ARG 0 13 0) ∧
    (legal → ran (.bpmRead ⟨v, .clean⟩) fun t => rfld t R.BPM_CMD_ARG 0 15 0 = billetTag s n i % 2 ^ 16 ∧ t.bpm.tags = s.bpm.tags) ∧
    (tagHeld s = true → exec .bpmCommandDone s = .next s) ∧
    (∀ r, s.bpm.result = some r → r < 16 → tagHeld s = false → Completes .bpmCommandDone s fun t => busy t = false ∧
      rfld t R.BPM_CMD 0 62 59 = r ∧ t.bpm = { s.bpm with result := none } ∧ RegsBut [adr R.BPM_CMD 0] s t) ∧
    (∀ r rest, s.bpm.log = r :: rest → r.index < 2 ^ 32 → r.pool < 16 → r.code < 16 → Completes .bpmErrLogRead s fun t =>
      bit t.lastRead 63 = true ∧ fld t.lastRead 62 59 = r.code ∧ fld t.lastRead 31 0 = r.index ∧ t.bpm.log = rest ∧
      rget t R.BPM_ERR_LOG 1 = secNsWord r.phc) ∧
    (s.bpm.log = [] → Completes .bpmErrLogRead s fun t => t.lastRead = 0))

/-- R31 to R33: the system mode is taken only while the fabric interface is disabled; code 3 becomes 0, and in mode 1
the device number is 0 or 1. R347, R363 to R365: enabling the fabric interface starts every sequence afresh and trains
each link that is not retired; disabling it takes them down on the next tick, and other fields apply to later ticks;
STATE follows. A retired link is marked and leaves use. R347, R351, R352: eight good link control cells in a row bring
a training link up; on a link that is up the cells acknowledged leave the replay buffer, and a NAK has those behind it
replayed (unless a replay is under way); a cell with a bad CRC is counted; a link that falls is counted, trains again,
and its unacknowledged cells wait to be sent on another. -/
def Obligations.SystemModeAndFabricLinks : Prop :=
  (∀ (s : State) (v : Word),
    let mode := if fld v 1 0 = 3 then 0 else fld v 1 0
    (rfld s R.FAB_CTL 0 3 2 = 0 → Completes (.sysModeWrite v) s fun t =>
      rfld t R.GLB_SYS_MODE 0 1 0 = mode ∧
      rfld t R.GLB_SYS_MODE 0 26 16 = (if mode = 1 then min 1 (fld v 26 16) else fld v 26 16) ∧
      rbit t R.GLB_SYS_MODE 0 8 = bit v 8 ∧ RegsBut [adr R.GLB_SYS_MODE 0] s t ∧ t = { s with regs := t.regs }) ∧
    (rfld s R.FAB_CTL 0 3 2 ≠ 0 → Completes (.sysModeWrite v) s fun t =>
      rget t R.GLB_SYS_MODE 0 = rget s R.GLB_SYS_MODE 0 ∧
      (s.mgmtDown = false → s.err.fifo.length < 1024 →
        ∃ r, t.err.fifo = s.err.fifo ++ [r] ∧ r.cls = 5 ∧ r.block = 0 ∧ r.detail = 0x10) ∧
      t = { s with regs := t.regs, err := t.err, out := t.out })) ∧
  (∀ (s : State) (v : Word),
    let en (t : State) : Bool := rbit t R.FAB_CTL 0 0
    let st (t : State) : Nat := rfld t R.FAB_CTL 0 3 2
    let links (t : State) (n : Nat) : Prop := ∀ k, k < 192 → linkSt t k = if linkSt s k = 3 then 3 else n
    s.bridgeUp = true →
    (bit v 0 = true → en s = false → rfld s R.GLB_SYS_MODE 0 1 0 ≠ 0 → Completes (.fabricEnable v) s fun t =>
      en t = true ∧ st t = 1 ∧ links t 1 ∧ t.fab.links = [] ∧ t.fab.srcs = [] ∧ t.fab.dsts = [] ∧ t.fab.resend = [] ∧
      t.fab.outbox = []) ∧
    (bit v 0 = true → rfld s R.GLB_SYS_MODE 0 1 0 = 0 ∨ en s = true → Completes (.fabricEnable v) s fun t =>
      en t = en s ∧ st t = st s ∧ t.fab = s.fab) ∧
    (bit v 0 = false → Completes (.fabricDisable v) s fun t => en t = false ∧ links (fabOff t) 0 ∧
      st (fabOff t) = 0 ∧ rwas t R.FAB_CTL 0 = rwas s R.FAB_CTL 0 ∧ t = { s with regs := t.regs, was := t.was }) ∧
    (∀ (k : Link) sw, retireDue s 8 k.val sw = true → Completes (.fabricLinkRetire k sw) s fun t =>
      linkSt t k.val = 3 ∧ rbit t R.FAB_LINK_RETIRE (k.val / 64) (k.val % 64) = true ∧
      (unitGet t 8 k.val).state = 1 ∧ (fabLink t k.val).good = 0)) ∧
  (∀ (s : State) (k : Link) (next ack : BitVec 12),
    let x := fabLink s k.val
    let up (t : State) : Nat := linkSt t k.val
    (up s = 1 → x.good < 7 → Completes (.linkControlCellRx k true next ack false) s fun t =>
      up t = 1 ∧ (fabLink t k.val).good = x.good + 1 ∧ (fabLink t k.val).lastCtl = s.tau.mono ∧ t = { s with fab := t.fab }) ∧
    (up s = 1 → x.good = 7 → s.fab.resend = [] → s.fab.outbox = [] → Completes (.linkControlCellRx k true next ack false) s fun t =>
      up t = 2 ∧ (fabLink t k.val).good = 0 ∧ (rbit s R.FAB_CTL 0 0 = true → rfld t R.FAB_CTL 0 3 2 = 2)) ∧
    (up s = 2 → s.fab.resend = [] → s.fab.outbox = [] → Completes (.linkControlCellRx k true next ack false) s fun t => up t = 2 ∧
      (∀ e, e ∈ (fabLink t k.val).replay ↔ e ∈ x.replay ∧ (e.1 + 4095 - ack.toNat) % 4096 < 2048) ∧
      t = { s with fab := t.fab }) ∧
    (up s = 2 → s.fab.resend = [] → s.fab.outbox = [] → Completes (.linkControlCellRx k true next ack true) s fun t =>
      let again := (ack.toNat + 1) % 4096
      (fabLink t k.val).back = (if x.back = none ∧ again ≠ x.txSeq then some again else x.back) ∧
      rfld t R.FAB_LINK k.val 47 32 = min (rfld s R.FAB_LINK k.val 47 32 + 1) 65535 ∧
      RegsBut [adr R.FAB_LINK k.val] s t ∧ t = { s with fab := t.fab, regs := t.regs }) ∧
    (up s = 1 ∨ up s = 2 → Completes (.linkControlCellRx k false next ack false) s fun t => up t = up s ∧
      rfld t R.FAB_LINK k.val 31 16 = min (rfld s R.FAB_LINK k.val 31 16 + 1) 65535 ∧
      (fabLink t k.val).nak = true ∧ (fabLink t k.val).good = 0) ∧
    (let falls (c : Instr) : Prop := Completes c s fun t => up t = 1 ∧
        rfld t R.FAB_LINK k.val 15 0 = min (rfld s R.FAB_LINK k.val 15 0 + 1) 65535 ∧ (fabLink t k.val).replay = [];
     up s = 2 → (∀ j, j < 192 → j ≠ k.val → linkSt s j ≠ 2) →
      falls (.fabricFecLockLoss k) ∧
      (let gone := (s.tau.mono + 2 ^ 64 - x.lastCtl) % 2 ^ 64
       25120 < gone ∨ (gone = 25120 ∧ arrivalsDone s = true) → falls (.linkControlTimeout k))))

/-- R353 to R356, R364: a data cell leaves on the next link in turn, with the next SEQ of its destination and one
credit spent, and waits in the replay buffer; one that arrives ahead of its turn is held; cells still missing after
RESEQ_US are given up; the wait behind a SYNC cell ends. That a command whose condition does not hold changes nothing
is the model's choice (log 2) where no rule says it is ignored. -/
def Obligations.FabricDataCells : Prop :=
  ∀ s : State,
    let fresh (k : Nat) : Prop := (rxSeqNow s (fabLink s k) + 4095 - (fabLink s k).ack) % 4096 < 2048
    (∀ (voq : Queue) e sent ver k c, let q := voq.val
      let dn := rfld s R.TMG_Q_CFG q 29 19
      let d := fabDst s dn
      s.fab.resend = [] → s.fab.outbox = [] → isVoq s q = true → d.hold = none → grantsDone s = true →
      sendable s q = some (e, sent, ver) → nextLink s = some k → nextCell s q e d sent ver = some c → c.last = false →
      (sent = 0 → (hbmFetch e .clean s).res = .read) → Completes (.cellSend ⟨voq, .clean⟩) s fun t =>
        OutEvent.cell k (cellBytes (.data c)) ∈ t.out ∧
        (fabLink t k).replay = (fabLink s k).replay ++ [((fabLink s k).txSeq, .data c)] ∧
        (fabDst t dn).seq = (d.seq + 1) % 65536 ∧ (queueOf t q).credit = (queueOf s q).credit - 1 ∧
        (queueOf t q).skein = (queueOf s q).skein ∧ t.fab.lastLink = k) ∧
    (∀ (k : Link) (c : Cell) n, let x := fabSrc s c.src.val
      linkSt s k.val = 2 → (fabLink s k.val).nak = false → c.dst.val = rfld s R.GLB_SYS_MODE 0 26 16 → c.sync = false →
      c.ver.toNat = fld (rwas s R.FAB_CTL 0) 11 8 → fresh k.val → x.exp = some n → n < 65536 →
      1 ≤ (c.seq.toNat + 65536 - n) % 65536 → (c.seq.toNat + 65536 - n) % 65536 < 1024 →
      (∀ e ∈ x.held, e.1.seq ≠ c.seq ∧ e.1.seq.toNat ≠ n) → Completes (.dataCellRx k true c) s fun t =>
        (fabSrc t c.src.val).held = x.held ++ [(c, s.tau.mono)] ∧ (fabSrc t c.src.val).exp = some n ∧
        t = { s with fab := t.fab }) ∧
    (∀ (k : Link) ok (c : Cell), linkSt s k.val ≠ 2 → exec (.dataCellRx k ok c) s = .next s) ∧
    (∀ (src : Device) c t0 n, (fabSrc s src.val).exp = some n → (fabSrc s src.val).held = [(c, t0)] →
      (fabSrc s src.val).asm = none → n < 65536 →
      c.first = false → timeUp s (t0 + rfld s R.FAB_CTL 0 31 16 * 1600) = true → Completes (.reseqTimeout src) s fun t =>
        (fabSrc t src.val).held = [] ∧ (fabSrc t src.val).exp = some ((c.seq.toNat + 1) % 65536) ∧
        rfld t R.FAB_RX_DROP1 0 31 0 = min (rfld s R.FAB_RX_DROP1 0 31 0 + 1) (2 ^ 32 - 1) ∧
        RegsBut [adr R.FAB_RX_DROP1 0] s t) ∧
    (∀ (dst : Device) m, (fabDst s dst.val).hold = some m → timeUp s m = true → Completes (.syncHoldEnd dst) s fun t =>
      fabDst t dst.val = { fabDst s dst.val with hold := none } ∧ (∀ j, j ≠ dst.val → fabDst t j = fabDst s j) ∧
      t = { s with fab := t.fab })

/-- R350 to R354, R360 to R363: a VOQ's request leaves with its demand, in one cell with those of its destination that
are due, on the next link in turn and waits in its replay buffer; a request sets its record, a port grants no more
than the record's demand and QUANTUM, in a cell that leaves as a request does or waits for a link; a grant joins the
VOQ's credit, and a record long empty is removed. -/
def Obligations.FabricCredit : Prop :=
  ∀ s : State,
    let fresh (k : Nat) : Prop := (rxSeqNow s (fabLink s k) + 4095 - (fabLink s k).ack) % 4096 < 2048
    let leaves (k : Nat) (c : FabCell) (t : State) : Prop := t.out = .cell k (cellBytes c) :: s.out ∧
      t.fab.lastLink = k ∧ t.fab.resend = [] ∧ t.fab.outbox = [] ∧ (fabLink t k).replay = (fabLink s k).replay ++ [((fabLink s k).txSeq, c)] ∧
      ∀ j, j ≠ k → fabLink t j = fabLink s j
    (∀ (voq : Queue) k, isVoq s voq.val = true → requestDue s voq.val = true → rfld s R.FAB_CTL 0 3 2 = 2 →
      s.fab.resend = [] → s.fab.outbox = [] → nextLink s = some k →
      let qs := voq.val :: (dueBeside s voq.val).take 29
      let cell : FabCell := .request (txFmt s) (deviceId s) (rfld s R.TMG_Q_CFG voq.val 29 19) (qs.map fun q =>
        ⟨Fin.ofNat 524288 q, Fin.ofNat 524288 (rfld s R.TMG_Q_CFG q 18 0), BitVec.ofNat 16 (demandOf s q)⟩)
      Completes (.requestSend voq) s fun t =>
        (∀ q ∈ qs, (queueOf t q).lastReq = some (demandOf s q, s.tau.mono)) ∧ leaves k cell t ∧
        (∀ j, j ∉ qs → queueOf t j = queueOf s j) ∧
        t = { s with tmg := t.tmg, fab := t.fab, gau := t.gau, out := t.out }) ∧
    (∀ (k : Link) (ver : BitVec 4) (src dst : Device) (e : ReqEntry), linkSt s k.val = 2 → (fabLink s k.val).nak = false → fresh k.val →
      (dst.val = deviceId s → ver.toNat = fld (rwas s R.FAB_CTL 0) 11 8 → s.fab.demands.length < 65536 →
        Completes (.requestCellRx k true ⟨ver, src, dst⟩ [e]) s fun t =>
          mfind t.fab.demands (src.val * 2 ^ 19 + e.voq.val) = some ⟨e.target.val, e.demand.toNat, s.tau.mono⟩ ∧
          (∀ j, j ≠ src.val * 2 ^ 19 + e.voq.val → mfind t.fab.demands j = mfind s.fab.demands j) ∧
          t = { s with fab := t.fab }) ∧
      (dst.val ≠ deviceId s → Completes (.requestCellRx k true ⟨ver, src, dst⟩ [e]) s fun t =>
          rfld t R.FAB_RX_DROP0 0 31 0 = min (rfld s R.FAB_RX_DROP0 0 31 0 + 1) (2 ^ 32 - 1) ∧
          t.fab.demands = s.fab.demands ∧ RegsBut [adr R.FAB_RX_DROP0 0] s t)) ∧
    (∀ (p : Port) k d, s.fab.demands = [(k, d)] → grantable s p.val d = true →
      mget 0 s.fab.grantAt p.val ≤ s.tau.mono → requestsDone s = true → rfld s R.FAB_CTL 0 3 2 = 2 → let n := min d.demand (rfld s R.FAB_CRED_CFG 0 47 40)
      let cell : FabCell := .grant (txFmt s) (deviceId s) (k / 2 ^ 19) [⟨Fin.ofNat 524288 (k % 2 ^ 19), BitVec.ofNat 8 n⟩]
      Completes (.grantIssue p) s fun t => t.fab.demands = [(k, { d with demand := d.demand - n })] ∧
        (∀ l, s.fab.resend = [] → s.fab.outbox = [] → nextLink s = some l → leaves l cell t) ∧
        (nextLink s = none → t.out = s.out ∧ t.fab.resend = s.fab.resend ∧ t.fab.outbox = s.fab.outbox ++ [cell]) ∧
        mget 0 t.fab.grantAt p.val = s.tau.mono + grantTicks s p.val n ∧
        t = { s with fab := t.fab, gau := t.gau, out := t.out }) ∧
    (∀ (k : Link) (ver : BitVec 4) (dst : Device) (e : GrantEntry), dst.val = deviceId s →
      ver.toNat = fld (rwas s R.FAB_CTL 0) 11 8 → linkSt s k.val = 2 → (fabLink s k.val).nak = false → fresh k.val →
      Completes (.grantCellRx k true ⟨ver, dst, [e]⟩) s fun t =>
        (queueOf t e.voq.val).credit = (queueOf s e.voq.val).credit + e.cells.toNat ∧
        (queueOf t e.voq.val).skein = (queueOf s e.voq.val).skein ∧
        (∀ j, j ≠ e.voq.val → queueOf t j = queueOf s j) ∧ t = { s with fab := t.fab, tmg := t.tmg }) ∧
    (∀ (src : Device) (voq : Queue) d, let k := src.val * 2 ^ 19 + voq.val
      mfind s.fab.demands k = some d → d.demand = 0 →
      timeUp s (d.last + 10 * rfld s R.FAB_CRED_CFG 0 23 12 * 1600) = true →
      exec (.demandRecordExpire src voq) s = .next { s with fab := { s.fab with demands := mdel s.fab.demands k } })

/-! ### Memory and host interface (ch. 12 to 14) -/

/-- R373 to R378, R383, R384, R386 to R389: what a controller does with requests, refresh, self-refresh and scrubbing.
A write stores its bytes where the memory exists and is not lost; a read changes no byte; each access moves the page
predictor of its bank and returns its data; a request to a channel that trains, changes frequency or is in self-
refresh, or whose activate refresh blocks, is held. Boundaries, polls, scrub reads and self-refresh come as they fall
due. That a command whose condition does not hold changes nothing is the model's choice (log 2) where no rule says it
is ignored. -/
def Obligations.MemoryAccessesAndRefresh : Prop :=
  ∀ (s : State) (m : MemCtl),
    let lim := match m with | .mcd => 8 | .mch => 128
    let only (t : State) : Prop := t = withMem m (fun _ => memOf t m) { s with regs := t.regs, gau := t.gau, out := t.out }
    let bytes (t : State) (a : Nat) : Byte := mget 0 (memOf t m).bytes a
    let units (t : State) (u : Nat) (x : RefSt) : Prop :=
      refUnit t m u = x ∧ ∀ v, v ≠ u → refUnit t m v = refUnit s m v
    (∀ r : MemReq, memReady s m = true → r.addr < memSize s m → memLost s m r.addr = false →
      let c := chanOf s m r.addr
      (chState s m c = 0 → actBlocked s m r.addr = false → r.write ≠ none ∨ r.ecc = .clean →
        Completes (.memoryRequest m r) s fun t =>
        (∀ a, bytes t a = match r.write with
          | some bs => if r.addr ≤ a ∧ a < r.addr + bs.length ∧ memLost s m a = false ∧ a < memSize s m
                       then byteAt bs (a - r.addr) else bytes s a
          | none => bytes s a) ∧
        (let b := mget MBank.init (memOf s m).banks (bankOf s m r.addr);
         let b' := mget MBank.init (memOf t m).banks (bankOf s m r.addr);
         b'.row = some (rowOf s m r.addr) ∧ b'.last = s.tau.mono ∧
         b'.ctr = if b.row = some (rowOf s m r.addr) then min 3 (b.ctr + 1) else b.ctr - 1) ∧
        t.out = (match r.write with
          | some _ => s.out
          | none => .memData m r.addr (memShow s m r.addr r.len) false :: s.out) ∧
        rbit t (rMAP m) 0 0 = true ∧ RegsBut [adr (rMAP m) 0] s t ∧ only t) ∧
      (chState s m c = 0 → actBlocked s m r.addr = false → r.write = none → r.ecc = .uncorrectable →
        Completes (.memoryRequest m r) s fun t => (memOf t m).bytes = (memOf s m).bytes ∧
          ∃ bs, OutEvent.memData m r.addr bs true ∈ t.out ∧ bs.length = r.len) ∧
      (memWaits s m r.addr = true → Completes (.memoryRequest m r) s fun t =>
        (memOf t m).held = (memOf s m).held ++ [⟨c, (memOf s m).arrived, r, none⟩] ∧
        (chState s m c = 3 → c ∈ (memOf t m).waking) ∧ (memOf t m).bytes = (memOf s m).bytes ∧ t.out = s.out ∧ only t)) ∧
    (∀ b, let x := mget MBank.init (memOf s m).banks b
      x.opened = true → rfld s (rPAGE m) 0 15 0 * 8 ≤ (s.tau.mono - x.last) * 5 → arrivalsDone s = true →
      Completes (.rowIdleClose m b) s fun t => mget MBank.init (memOf t m).banks b = { x with opened := false } ∧
        (∀ j, j ≠ b → mget MBank.init (memOf t m).banks j = mget MBank.init (memOf s m).banks j) ∧
        (memOf t m).bytes = (memOf s m).bytes ∧ t.regs = s.regs ∧ only t) ∧
    (∀ u : RefUnit, let x := refUnit s m u.val
      unitActive s m u.val = true →
      (timeUp s (x.last + (if x.hot then 3120 else 6240)) = true → Completes (.refreshIntervalBoundary m u) s fun t =>
        units t u.val { x with debt := x.debt + 1, last := x.last + (if x.hot then 3120 else 6240) } ∧
        t.regs = s.regs ∧ only t) ∧
      (∀ q, (postMax s m : Int) < x.debt ∨ ((q || unitQueued s m u.val) = false ∧ -(pullMax s m : Int) < x.debt) →
        (memOf s m).held = [] → Completes (.refreshIssue m u q) s fun t =>
        units t u.val { x with debt := x.debt - 1 } ∧
        (∀ e ∈ (memOf t m).banks, e.1 / 64 = u.val → e.2.opened = false) ∧
        (memOf t m).bytes = (memOf s m).bytes ∧ t.regs = s.regs ∧ only t) ∧
      (∀ reading, let due := x.poll + rfld s (rREF m) 0 57 48 * 1600
        (s.tau.mono < due → exec (.refreshPoll m u reading) s = .next s) ∧
        (due ≤ s.tau.mono → wantsHot s m x.hot reading = x.hot → Completes (.refreshPoll m u reading) s fun t =>
          units t u.val { x with poll := s.tau.mono } ∧ t.regs = s.regs ∧ only t) ∧
        (due ≤ s.tau.mono → wantsHot s m x.hot reading = !x.hot → (memOf s m).held = [] →
          Completes (.refreshPoll m u reading) s fun t =>
          (refUnit t m u.val).hot = !x.hot ∧ (refUnit t m u.val).poll = s.tau.mono ∧
          (∀ v, v ≠ u.val → refUnit t m v = refUnit s m v) ∧
          (x.hot = false → rbit t (rSTATUS m) 0 61 = true) ∧ only t))) ∧
    (∀ ch : Chan, ch.val < lim →
      (memReady s m = true → rfld s (rPWR m) 0 15 0 ≠ 0 → chState s m ch.val = 0 →
        timeUp s (mget 0 (memOf s m).lastReq ch.val + 1600 * rfld s (rPWR m) 0 15 0) = true →
        Completes (.selfRefreshEnter m ch) s fun t => chState t m ch.val = 3 ∧
          (∀ u, u < 128 → unitPresent s m u = true → chanOfUnit m u = ch.val →
            (refUnit t m u).debt = min 0 (refUnit s m u).debt ∧
            ∀ e ∈ (memOf t m).banks, unitOfBank e.1 = u → e.2.opened = false) ∧
          (memOf t m).bytes = (memOf s m).bytes ∧ RegsBut [adr (rCH m) ch.val] s t ∧ only t) ∧
      ((memOf s m).waking.contains ch.val = true → (memOf s m).held = [] → (memOf s m).nextReq = none → ∀ eye,
        Completes (.selfRefreshExitDone m ⟨ch, eye⟩) s fun t => chState t m ch.val = 0 ∧ ch.val ∉ (memOf t m).waking ∧
          rfld t (rTRAIN m) 0 62 60 = (if eye then 1 else 2) ∧ (memOf t m).bytes = (memOf s m).bytes ∧
          (eye = true → RegsBut [adr (rCH m) ch.val, adr (rTRAIN m) 0] s t ∧ only t))) ∧
    (∀ a, let c := chanOf s m a
      let x := memOf s m
      let moved (t : State) : Prop := (memOf t m).scrubAt = (a + scrubGrain m) % memSize s m ∧
        (memOf t m).scrubLast = s.tau.mono ∧ (memOf t m).bytes = x.bytes
      rbit s (rSCRUB m) 0 63 = true → memReady s m = true → a < memSize s m → x.scrubWait.contains a = false →
      (a ≠ x.scrubAt ∨ scrubDue s m = false → ∀ e, exec (.scrubRead m a e) s = .next s) ∧
      (a = x.scrubAt → scrubDue s m = true → memLost s m a = false →
        (memWaits s m a = true → ∀ e, Completes (.scrubRead m a e) s fun t => moved t ∧
          (memOf t m).scrubWait = x.scrubWait ++ [a] ∧ t.regs = s.regs ∧ only t) ∧
        (memWaits s m a = false →
          (Completes (.scrubRead m a .clean) s fun t => moved t ∧ t.regs = s.regs ∧ only t) ∧
          Completes (.scrubRead m a .corrected) s fun t => moved t ∧
            rfld t (rECC m) 0 63 32 = min (rfld s (rECC m) 0 63 32 + 1) (2 ^ 32 - 1) ∧
            rfld t (rCH m) c 31 16 = min (rfld s (rCH m) c 31 16 + 1) 65535 ∧ rfld t (rECCA m) 0 63 62 = 1)))

/-- R380 to R382, R385, R388, R390, R391: training runs, frequency changes, the window, start-up and retirement. That
a command whose condition does not hold changes nothing is the model's choice (log 2) where no rule says it is
ignored. -/
def Obligations.MemoryControlAndWindow : Prop :=
  ∀ (s : State) (m : MemCtl) (v : Word),
    let x := memOf s m
    let lim := match m with | .mcd => 8 | .mch => 128
    let result (t : State) (n : Nat) : Prop := rfld t (rTRAIN m) 0 62 60 = n
    let busy (t : State) : Bool := rbit t (rTRAIN m) 0 63
    let training (t : State) (c : Nat) : Prop := chState t m c = 1 ∧ (memOf t m).run = some (c, false) ∧ busy t = true ∧
      (memOf t m).bytes = x.bytes ∧ RegsBut [adr (rCH m) c, adr (rTRAIN m) 0] s t
    let ended (t : State) (c n : Nat) : Prop := chState t m c = 0 ∧ (memOf t m).run = none ∧ busy t = false ∧ result t n ∧
      (memOf t m).bytes = x.bytes
    memChannels s m ≤ lim → s.bridgeUp = true →
    (∀ ch : Chan, ch.val < memChannels s m → memReady s m = true → x.run = none → x.waking = [] → arrivalsDone s = true →
      let due := mget 0 x.turns ch.val + retrainTicks s m
      (s.tau.mono < due → exec (.retrainTurn m ch) s = .next s) ∧
      (due ≤ s.tau.mono → chState s m ch.val = 0 → Completes (.retrainTurn m ch) s fun t => training t ch.val ∧
        mget 0 (memOf t m).turns ch.val = due) ∧
      (due ≤ s.tau.mono → chState s m ch.val ≠ 0 → Completes (.retrainTurn m ch) s fun t =>
        memOf t m = { x with turns := mset 0 x.turns ch.val due } ∧ t.regs = s.regs)) ∧
    (let c := min (fld v 38 32) (memChannels s m - 1);
     (bit v 0 = true → x.run = none → x.change = none → x.waking = [] → chState s m c = 0 →
       Completes (.trainGo m v) s fun t => training t c ∧ rfld t (rTRAIN m) 0 38 32 = c) ∧
     (bit v 0 = true → x.run = none → x.change = none → x.waking = [] → chState s m c = 3 →
       Completes (.trainGo m v) s fun t => memOf t m = { x with waking := [c] } ∧ busy t = true) ∧
     (bit v 0 = true → x.run ≠ none ∨ x.change ≠ none ∨ x.waking ≠ [] ∨ (chState s m c ≠ 0 ∧ chState s m c ≠ 3) →
       Completes (.trainGo m v) s fun t => result t 4 ∧ memOf t m = x)) ∧
    (∀ c b, x.run = some (c, b) → c < lim → x.nextReq = none → x.held = [] → x.change = none → x.waking = [] →
      (bit v 1 = true → Completes (.trainAbort m v) s fun t => ended t c 3) ∧
      (∀ ch : Chan, ch.val = c → seqDown s (match m with | .mcd => 0 | .mch => 2) = false → (Completes (.trainRunEnd m ch true) s fun t => ended t c 1) ∧
        (Completes (.trainRunEnd m ch false) s fun t => ended t c 2))) ∧
    (let n := fld v 1 0;
     (rbit s (rFREQ m) 0 (60 + n) = false → Completes (.freqRequest m v) s fun t =>
       rbit t (rSTATUS m) 0 60 = true ∧ RegsBut [adr (rSTATUS m) 0] s t ∧ t = { s with regs := t.regs }) ∧
     (rbit s (rFREQ m) 0 (60 + n) = true → x.held = [] → x.run ≠ none ∨ x.change ≠ none ∨ x.waking ≠ [] →
       Completes (.freqRequest m v) s fun t =>
       memOf t m = { x with nextReq := some n } ∧ rbit t (rSTATUS m) 0 57 = true ∧ rfld t (rFREQ m) 0 1 0 = n) ∧
     (rbit s (rFREQ m) 0 (60 + n) = true → x.run = none → x.change = none → x.waking = [] →
       (chansIn s m 3 = [] → Completes (.freqRequest m v) s fun t =>
         (memOf t m).change = some n ∧ (memOf t m).bytes = x.bytes ∧ rfld t (rFREQ m) 0 1 0 = n ∧
         ∀ c, c < memChannels s m → chState s m c < 4 → chState t m c = 2) ∧
       (chansIn s m 3 ≠ [] → x.held = [] → Completes (.freqRequest m v) s fun t =>
         memOf t m = { x with nextReq := some n, waking := chansIn s m 3 } ∧ rbit t (rSTATUS m) 0 57 = true))) ∧
    (∀ n noEye, n < 4 → x.change = some n → x.nextReq = none → x.held = [] → Completes (.freqChangeEnd ⟨m, noEye⟩) s fun t =>
      (memOf t m).change = none ∧ rfld t (rSTATUS m) 0 59 58 = n ∧ (memOf t m).bytes = x.bytes ∧
      (∀ c, (chansIn s m 2).getLast? = some c → result t (if noEye.any (fun e => decide (e.val = c)) then 2 else 1)) ∧
      ∀ c, c < memChannels s m → chState s m c = 2 → chState t m c = 0) ∧
    (let started (c : Instr) (w : Bool) : Prop := Completes c s fun t => rbit t (rWINC m) 0 63 = true ∧
       rfld t (rWINC m) 0 62 60 = 0 ∧ (memOf t m).win = some ⟨w, x.arrived⟩ ∧ (memOf t m).bytes = x.bytes ∧
       RegsBut [adr (rWINC m) 0, adr (rMAP m) 0, adr (rTRAIN m) 0] s t;
     (rbit s (rWINC m) 0 63 = true → exec (.windowRead m v) s = .next s ∧ exec (.windowWrite m v) s = .next s) ∧
     (rbit s (rWINC m) 0 63 = false → bit v 0 = true →
       started (.windowRead m v) false ∧ started (.windowWrite m v) true)) ∧
    (∀ w no, x.win = some ⟨w, no⟩ → x.held = [] → let a := (rget s (rWINA m) 0).toNat
      let done (n : Nat) (p : State → Prop) : Prop := Completes (.windowAccessDone m .clean) s fun t =>
        rbit t (rWINC m) 0 63 = false ∧ rfld t (rWINC m) 0 62 60 = n ∧ (memOf t m).win = none ∧ p t
      (memReady s m = false → done 5 fun t => (memOf t m).bytes = x.bytes) ∧
      (memReady s m = true → memSize s m < a + 64 → done 3 fun t => (memOf t m).bytes = x.bytes) ∧
      (memReady s m = true → a + 64 ≤ memSize s m → memWaits s m a = true →
        exec (.windowAccessDone m .clean) s = .next (wakeChan m (chanOf s m a) s)) ∧
      (memReady s m = true → a + 64 ≤ memSize s m → memLost s m a = true → done 4 fun t => (memOf t m).bytes = x.bytes) ∧
      (memReady s m = true → a + 64 ≤ memSize s m → memLost s m a = false → memWaits s m a = false →
        (w = false → done 1 fun t => (memOf t m).bytes = x.bytes ∧ ∀ k, k < 8 →
          rget t (rWIND m) k = BitVec.ofNat 64 (leNat (((memShow s m a 64).drop (8 * k)).take 8))) ∧
        (w = true → done 1 fun t => ∀ i, mget 0 (memOf t m).bytes i =
          if a ≤ i ∧ i < a + 64 ∧ memLost s m i = false
          then BitVec.ofNat 8 ((rget s (rWIND m) ((i - a) / 8)).toNat >>> (8 * ((i - a) % 8)))
          else mget 0 x.bytes i))) ∧
    (∀ tr : BitVec 4, memReady s m = false → memChannels s m ≠ 0 →
      Completes (.memoryReady m { trained := tr, failed := [] }) s fun t => memReady t m = true ∧
        rfld t (rFREQ m) 0 63 60 = (trainedSets s m tr).toNat ∧ rbit t (rFREQ m) 0 60 = true ∧ rfld t (rSTATUS m) 0 59 58 = 0 ∧ (memOf t m).bytes = [] ∧
        ∀ c, c < memChannels s m → chanRetired s m c = false → chState t m c = 0) ∧
    (∀ (c : Fin 8) sw, m = .mcd → x.run = none → x.held = [] → retireDue s 5 c.val sw = true →
      Completes (.memoryUnitRetire (.ddr5 c) sw) s fun t => chState t m c.val = 4 ∧ chanRetired t m c.val = true ∧
        (unitGet t 5 c.val).state = 1 ∧ ∀ a, mget 0 (memOf t m).bytes a = mget 0 x.bytes a)

/-- R397 to R408, R410, R413 to R415: the slice commands and what completes them. GO of HIF_SLICE_CMD is ignored while
a command waits; a command that its checks refuse changes no slice. A reset advances the generation and disables every
ring of the slice, or is held while old work is in flight; one written to the slice's page follows PF0's commands of
its tick; log commands switch and flush the bitmaps. -/
def Obligations.SliceCommands : Prop :=
  ∀ (s : State) (v : Word),
    let n := fld v 43 32
    let x := slice s n
    let go := s.hif.job = none ∧ bit v 0 = true
    let busy (t : State) : Bool := rbit t R.HIF_SLICE_CMD 0 63
    let others (t : State) : Prop := ∀ m, m ≠ n → slice t m = slice s m
    let done (c : Instr) (r : Nat) (p : State → Prop) : Prop := Completes c s fun t =>
      busy t = false ∧ rfld t R.HIF_SLICE_CMD 0 62 59 = r ∧ others t ∧ t.hif.job = none ∧ p t
    let waits (c : Instr) (j : HifJob) (p : State → Prop) : Prop := Completes c s fun t =>
      busy t = true ∧ others t ∧ t.hif.job = some j ∧ p t
    let down (t : State) : Prop := ∀ k, 64 * n ≤ k → k < 64 * n + 64 → (ring t k).st ≠ 1
    let b := rget s R.HIF_SLICE_BIND 0
    let res (y : SliceSt) : Prop := y.res0 = rget s R.HIF_SLICE_RES0 0 ∧ y.res1 = rget s R.HIF_SLICE_RES1 0 ∧
      y.res2 = rget s R.HIF_SLICE_RES2 0 ∧ y.res3 = rget s R.HIF_SLICE_RES3 0
    (s.hif.job ≠ none → ∀ c ∈ [Instr.sliceRead v, .sliceCastOn v, .sliceResize v, .sliceReset v, .sliceRemove v,
      .logStart v, .logSwap v, .logStop v], exec c s = .next s) ∧
    (go → done (.sliceRead v) 1 fun t => slice t n = x ∧ rget t R.HIF_SLICE_BIND 0 = x.bind ∧
      rget t R.HIF_SLICE_RES0 0 = x.res0 ∧ rget t R.HIF_SLICE_RES1 0 = x.res1 ∧ rget t R.HIF_SLICE_RES2 0 = x.res2 ∧
      rget t R.HIF_SLICE_RES3 0 = x.res3 ∧ t = { s with regs := t.regs }) ∧
    (go → castCheck s n = 1 → done (.sliceCastOn v) 1 fun t => (slice t n).st = 1 ∧ (slice t n).gen = fld b 23 8 ∧
      (slice t n).bind = b ∧ res (slice t n) ∧ (slice t n).logOn = false ∧ RegsBut [adr R.HIF_SLICE_CMD 0] s t ∧
      t = { s with regs := t.regs, hif := t.hif }) ∧
    (go → x.st ≠ 0 → done (.sliceCastOn v) 2 fun t => t.hif = s.hif) ∧
    (go → x.st = 1 → resourceCheck s n = 1 → done (.sliceResize v) 1 fun t => res (slice t n) ∧
      (slice t n).st = 1 ∧ (slice t n).gen = x.gen ∧ slPasid (slice t n) = slPasid x ∧
      fld (slice t n).bind 7 0 = fld b 7 0 ∧ t = { s with regs := t.regs, hif := t.hif }) ∧
    (go → x.st ≠ 1 → done (.sliceResize v) 2 fun t => t.hif = s.hif) ∧
    (go → x.st = 1 → oldWork s n = false → done (.sliceReset v) 1 fun t =>
      slice t n = { x with gen := (x.gen + 1) % 65536 } ∧ down t ∧
      ∀ j, j ∉ ownedThreads s n → thr t j = thr s j) ∧
    (go → x.st = 1 → oldWork s n = true → waits (.sliceReset v) (.reset n) fun t => slice t n = { x with st := 2 } ∧
      t.sen = s.sen ∧ t.hif.rings = s.hif.rings) ∧
    (go → x.st = 1 ∨ x.st = 2 → x.logOn = false → waits (.sliceRemove v) (.remove n) fun t =>
      slice t n = { x with st := 3, gen := (x.gen + 1) % 65536 } ∧ down t ∧
      ∀ j, j ∉ ownedThreads s n → thr t j = thr s j) ∧
    (go → x.st = 1 → x.logOn = false → done (.logStart v) 1 fun t => (slice t n).logOn = true ∧
      (slice t n).cur = false ∧ (slice t n).pages = rfld s R.HIF_SLICE_LOG_CFG 0 28 0 ∧
      (slice t n).logBase = rget s R.HIF_SLICE_LOG_BASE 0 ∧ (slice t n).gen = x.gen ∧
      t = { s with regs := t.regs, hif := t.hif }) ∧
    (go → x.logOn = true →
      (waits (.logSwap v) (.flush n) fun t =>
        slice t n = { x with cur := !x.cur, outPrev := x.outCur, outCur := false, swapAt := some s.tau.mono } ∧
        t.hif.flush = s.hif.flush ++ [(n, x.cur)] ∧ t = { s with regs := t.regs, hif := t.hif }) ∧
      (waits (.logStop v) (.flush n) fun t => slice t n = { x with logOn := false } ∧
        t.hif.flush = s.hif.flush ++ [(n, x.cur)] ∧ t = { s with regs := t.regs, hif := t.hif })) ∧
    (go → x.logOn = false → done (.logSwap v) 6 fun t => t.hif = s.hif) ∧
    (∀ sl : Slice, let y := slice s sl.val
      let again (t : State) : Prop := slice t sl.val = { y with st := 1, gen := (y.gen + 1) % 65536 } ∧
        (∀ m, m ≠ sl.val → slice t m = slice s m)
      let alone := comes s (ofSliceCmd sl.val) = false
      (bit v 0 = true → alone → y.st = 1 → oldWork s sl.val = false → Completes (.sliceCtlReset sl v) s again) ∧
      (bit v 0 = true → alone → y.st ≠ 1 → exec (.sliceCtlReset sl v) s = .next s) ∧
      (bit v 0 = true → ¬ alone → exec (.sliceCtlReset sl v) s =
        .next { s with hif := { s.hif with ctlDue := s.hif.ctlDue ++ [sl.val] } }) ∧
      (y.st = 2 → oldWork s sl.val = false → Completes (.heldResetApply sl) s fun t => again t ∧
        (s.hif.job = some (.reset sl.val) → t.hif.job = none ∧ busy t = false)) ∧
      (∀ bm, s.hif.flush = [(sl.val, bm)] → s.hif.leaving = [] → s.hif.marks = [] → dmaOk s false = true →
        s.hif.job = some (.flush sl.val) →
        let a := if bm then y.logB else y.logA
        let asked := hostRead none a.toNat 8 s
        (Completes (.logFlushDone ⟨sl, true⟩) s fun t => t.hif = { s.hif with flush := [], job := none } ∧
          busy t = false ∧ rfld t R.HIF_SLICE_CMD 0 62 59 = 1 ∧ t.out = asked.out ∧
          t = { s with regs := t.regs, hif := t.hif, out := t.out }) ∧
        exec (.logFlushDone ⟨sl, false⟩) s = .next (dmaFailed none a asked)) ∧
      (∀ w mk rest, s.hif.leaving = [] → s.hif.marks = mk :: rest → mk.sl = sl.val → mk.w = w → dmaOk s false = true →
        (∀ old, let ev : OutEvent := .dmaWrite (dmaId s none) mk.addr (leBytes 8 (old ||| mk.bits).toNat)
          exec (.bitmapWordMerge sl w (some old)) s = .next { s with
            hif := { s.hif with marks := rest }, out := ev :: .dmaRead (dmaId s none) mk.addr 8 :: s.out }) ∧
        exec (.bitmapWordMerge sl w none) s =
          .next (dmaFailed none (BitVec.ofNat 64 mk.addr) (hostRead none mk.addr 8 s))) ∧
      (s.hif.slices = [(sl.val, y)] → y.st = 1 → oldWork s sl.val = false → Completes .pf1Flr s again) ∧
      (y.st = 3 → oldWork s sl.val = false → Completes (.sliceFree sl) s fun t =>
        slice t sl.val = { SliceSt.init with gen := y.gen, faults := y.faults } ∧
        (∀ k, 64 * sl.val ≤ k → k < 64 * sl.val + 64 → ring t k = { Ring.init with before := (ring t k).before }) ∧ t.sen = s.sen)) ∧
    exec (.busMasterDisable .pf0) s = .next { s with hif := { s.hif with bme0 := false } } ∧
    exec (.busMasterDisable .pf1) s = .next { s with hif := { s.hif with bme1 := false } } ∧
    exec (.busMasterEnable .pf0) s = .next { s with hif := { s.hif with bme0 := true } } ∧
    exec (.busMasterEnable .pf1) s = .next { s with hif := { s.hif with bme1 := true } }

/-- R420 to R427, R433 to R438: the indexes of a ring pair. Enabling starts it from RING_START and RING_CQ_HEAD;
disabling discards what was not started; a completion goes to the slot at CQ_TAIL, or waits for room; a publish record
shows the indexes, 250 ns after the last, and releases a due interrupt; a poll takes up a written slot, POLL_NS after
one that found it unwritten; a deadline leaves an orphan. That a command whose condition does not hold changes nothing
is the model's choice (log 2) where no rule says it is ignored. -/
def Obligations.RingPairs : Prop :=
  ∀ (s : State) (r : RingRef) (v : Word),
    let k := ringKey r
    let x := ring s k
    let becomes (c : Instr) (y : Ring) : Prop := exec c s = .next (setRing k y s)
    let quiet := ∀ n, ringSlice k = some n → (slice s n).logOn = false
    let id := dmaId s (ringSlice k)
    let vec : Nat × Nat := match r with | .slice sl _ => (1, sl.val) | .pf0 i => (0, 16 + i.val)
    let raised (t : State) : Prop := if vec ∈ s.err.masked then vec ∈ t.err.msixPend
      else OutEvent.msix vec.1 vec.2 ∈ t.out ∧ t.err = s.err
    let then' := some (ringThen s x)
    let index (n : Nat) (w : Word) : Nat := fld w 16 16 * 65536 + min (fld w 15 0) (2 ^ n - 1)
    let gen := match ringSlice k with | some n => (slice s n).gen | none => 0
    (ringSeen s k = true → x.st = 0 → (∀ n, ringSlice k = some n → (slice s n).st = 1 ∧ k % 64 < slRings (slice s n)) →
      Completes (.ringEnable r v) s fun t => let y := ring t k
        y.st = 1 ∧ y.cfg = writeReg false R.RING_CFG x.cfg v ∧ y.sqHead = index (sqLog y) x.start ∧
        y.cqTail = index (cqLog y) x.cqHead ∧ y.cqHead.toNat = y.cqTail ∧ y.fetched = [] ∧ y.works = [] ∧
        (y.sqHead ≠ x.sqHead ∨ y.cqTail ≠ x.cqTail → y.pubDue = true) ∧
        (∀ j, j ≠ k → ring t j = ring s j) ∧ t = { s with hif := t.hif }) ∧
    (ringSeen s k = true → x.st = 1 → Completes (.ringDisable r v) s fun t => let y := ring t k
      y.st = 2 ∧ y.fetched = [] ∧ y.pubDue = true ∧ (∀ w ∈ y.works, w ∈ x.works ∧ dOp w.desc ≠ 7) ∧
      (∀ j, j ≠ k → ring t j = ring s j) ∧ t = { s with hif := t.hif }) ∧
    (x.st = 2 → inflight x = 0 → x.waiting = [] → x.pubDue = false → becomes (.ringDisabled r) { x with st := 0 }) ∧
    (let n := cqLog x;
     ringSeen s k = true → x.st = 1 → x.waiting = [] → Completes (.cqHeadWrite r v) s fun t =>
       ((ring t k).cqHead.toNat = if 2 ^ n < held n x.cqTail (index n v) then x.cqTail % 2 ^ 64 else index n v) ∧
       ring t k = { x with cqHead := (ring t k).cqHead, before := then' } ∧ (∀ j, j ≠ k → ring t j = ring s j) ∧
       t = { s with hif := t.hif }) ∧
    (∀ e rest, x.waiting = [] → x.ended = e :: rest → endTurn s e = true → e.data = [] → ringDma s k = true →
      quiet →
      (cqFull x = false → Completes (.completionWrite r) s fun t =>
        ring t k = { x with ended := rest, cqTail := advance (cqLog x) x.cqTail 1, pubDue := true,
                            irqNext := x.irqNext || e.irq, before := then' } ∧
        t.out = .dmaWrite id (x.cqBase.toNat + 32 * (x.cqTail % 65536)) (entryBytes x e) :: s.out ∧
        (∀ j, j ≠ k → ring t j = ring s j) ∧ t = { s with hif := t.hif, out := t.out }) ∧
      (cqFull x = true → becomes (.completionWrite r) { x with ended := rest, waiting := [e] })) ∧
    (∀ m, x.pubAt = some m → s.tau.mono < m + 400 → exec (.publishRecordWrite r) s = .next s) ∧
    (x.st ≠ 0 → x.pubDue = true → ringDma s k = true → (∀ m, x.pubAt = some m → m + 400 ≤ s.tau.mono) → quiet →
      Completes (.publishRecordWrite r) s fun t => (ring t k).pubAt = some s.tau.mono ∧
        OutEvent.dmaWrite id x.pub.toNat (leBytes 8 (BitVec.ofNat 64 (gen * 2 ^ 32 + x.sqHead)).toNat ++
          leBytes 8 (BitVec.ofNat 64 x.cqTail).toNat) ∈ t.out ∧ (ring t k).pubDue = false ∧ (ring t k).irqNext = false ∧
        (x.irqNext = true → x.holdEnd ≤ s.tau.mono → raised t ∧ (ring t k).irqDue = false ∧
          (ring t k).holdEnd = s.tau.mono + 1600 * fld x.cfg 5 0) ∧
        (x.irqNext = true → s.tau.mono < x.holdEnd → (ring t k).irqDue = true) ∧
        (∀ j, j ≠ k → ring t j = ring s j) ∧
        t = { s with hif := t.hif, err := { s.err with msixPend := t.err.msixPend }, out := t.out }) ∧
    (x.irqDue = true → timeUp s x.holdEnd = true →
      let t := setRing k { x with irqDue := false, holdEnd := s.tau.mono + 1600 * fld x.cfg 5 0 } s
      Completes (.irqHoldoffEnd r) s fun u => raised u ∧
        (u.out = s.out ∨ u.out = .msix vec.1 vec.2 :: s.out) ∧
        u = { t with err := { s.err with msixPend := u.err.msixPend }, out := u.out }) ∧
    (∀ d : DescWords, let p := advance (sqLog x) x.sqHead x.fetched.length
      let got := if (dWord d 0).getLsbD 63 = decide (p / 65536 = 0) then [d] else []
      p < 131072 → x.st = 1 → ringDma s k = true → x.fetched.length < 9 →
      let wait := fld x.cfg 21 6
      let asked := hostRead (ringSlice k) (x.sqBase.toNat + 64 * (p % 65536)) 64 s
      let polls (c : Instr) (y : Ring) : Prop := exec c s = .next (setRing k y asked) ∧
        asked.out = .dmaRead id (x.sqBase.toNat + 64 * (p % 65536)) 64 :: s.out
      ((∀ m, x.pollAt = some m → 5 * m + 8 * wait ≤ 5 * s.tau.mono) → polls (.ringPoll r d)
        { x with fetched := x.fetched ++ got, pollAt := if got = [] then some s.tau.mono else none }) ∧
      (∀ m, x.pollAt = some m → 5 * s.tau.mono < 5 * m + 8 * wait → exec (.ringPoll r d) s = .next s) ∧
      (x.fetched ≠ [] → p % 65536 < 2 ^ sqLog x →
        polls (.descriptorFetch r [d]) { x with fetched := x.fetched ++ got, pollAt := none })) ∧
    (∀ (w : Work) (pos : RingPos), x.works = [w] → x.ended = [] → w.pos = pos.val →
      (∀ m, w.orphan = false → w.deadline = some m → timeUp s m = true → Completes (.workTimeout r pos) s fun t =>
        (ring t k).works = [{ w with orphan := true }] ∧
        (ring t k).ended = [{ endOf s w with status := 3 }] ∧
        fld (ring t k).err 63 48 = min (fld x.err 63 48 + 1) 65535 ∧ (∀ j, j ≠ k → ring t j = ring s j) ∧
        t = { s with hif := t.hif }) ∧
      (w.orphan = true → w.finished = true → Completes (.orphanEnd r pos) s fun t => (ring t k).works = [] ∧
        (ring t k).ended = [] ∧ fld (ring t k).err 47 32 = min (fld x.err 47 32 + 1) 65535 ∧
        (∀ j, j ≠ k → ring t j = ring s j) ∧ t = { s with hif := t.hif }) ∧
      (∀ a, w.orphan = false → dOp w.desc ≠ 7 → Completes (.dmaFault r pos a) s fun t => (ring t k).works = [] ∧
        (ring t k).ended = [{ endOf s w with status := 2 }] ∧
        (∀ n, ringSlice k = some n → (slice t n).faults = min ((slice s n).faults + 1) 65535) ∧
        (∀ j, j ≠ k → ring t j = ring s j) ∧ t.sen = s.sen))

/-- R404, R428 to R432, R440, R457: a descriptor at SQ_HEAD that may start does start, SQ_HEAD moving past it; its
work ends with a completion of its position, tag and status, or stays in flight (a cipher request, a receive buffer).
-/
def Obligations.DescriptorsStart : Prop :=
  ∀ (s : State) (r : RingRef) (d : DescWords) (rest : DescList),
    let k := ringKey r
    let x := ring s k
    let op := dOp d
    let moved (t : State) : Prop := (ring t k).sqHead = advance (sqLog x) x.sqHead 1 ∧ (ring t k).fetched = rest ∧
      (ring t k).st = x.st ∧ (∀ j, j ≠ k → ring t j = ring s j)
    let ends (c : Instr) (status : Nat) (p : State → Ended → Prop) : Prop := Completes c s fun t => moved t ∧
      (ring t k).works = [] ∧ ∃ e, (ring t k).ended = [e] ∧ e.status = status ∧ e.pos = x.sqHead ∧ e.op = op ∧
        e.tag = fld (dWord d 0) 47 32 ∧ p t e
    let runs (c : Instr) (p : State → Prop) : Prop := Completes c s fun t => moved t ∧ (ring t k).ended = [] ∧
      (∃ w, (ring t k).works = [w] ∧ w.desc = d ∧ w.pos = x.sqHead) ∧ p t
    let read (n : Nat) : OutEvent := .dmaRead (dmaId s (ringSlice k)) (dWord d 1).toNat n
    let same (t : State) : Prop := t = { s with hif := t.hif, gau := t.gau }
    x.fetched = d :: rest → startable s k d = true → x.works = [] → x.ended = [] → ringDma s k = true →
    (op = 0 → ends (.descNop r) 0 fun t _ => same t) ∧
    (∀ data, op = 1 → (bit (dWord d 0) 0 = false → ends (.descTx r data) 0 fun t _ =>
        (∃ p, t.sen.toIng = s.sen.toIng ++ [p] ∧ mdF p 0 25 19 = fld (dWord d 0) 22 16 ∧ p.pid = s.sen.nextPid) ∧
        t.sen.toTmg = s.sen.toTmg ∧ t.out = read (clampTo 14 16383 (fld (dWord d 3) 31 0)) :: s.out) ∧
      (bit (dWord d 0) 0 = true → ends (.descTx r data) 0 fun t _ =>
        (∃ p, t.sen.toTmg = s.sen.toTmg ++ [p] ∧ p.pid = s.sen.nextPid) ∧ t.sen.toIng = s.sen.toIng)) ∧
    (∀ data sl, let n := min (fld (dWord d 3) 31 0) 65536
      op = 2 → descSlot s k d = some sl → runs (.descCipher r data) fun t =>
      ∃ q, t.cph.arrived = s.cph.arrived ++ [q] ∧ q.slot = sl ∧ q.fn = fld (dWord d 0) 2 0 ∧
        q.iv = (dWord d 4).toNat ∧ t.out = (if n = 0 then s.out else read n :: s.out) ∧
        t = { s with hif := t.hif, gau := t.gau, cph := t.cph, out := t.out }) ∧
    (∀ data, op = 2 → descSlot s k d = none → ends (.descCipher r data) 1 fun t e => e.detail = 1 ∧ same t) ∧
    (let first := fld (dWord d 0) 19 0
     let n := clampTo 1 4096 (fld (dWord d 4) 12 0)
     let range := match ringSlice k with
       | none => (0, 1048576)
       | some m => (fld (slice s m).res1 19 0, fld (slice s m).res1 40 20);
     (op = 3 → comes s countsPairs = false → first + n ≤ range.2 → ends (.descCounter r) 0 fun t e => e.dst = (dWord d 2).toNat ∧
       e.data.length = 16 * n ∧ (bit (dWord d 0) 20 = false → same t) ∧
       (bit (dWord d 0) 20 = true → ∀ i, mget (0, 0) t.sen.cnt i =
         if range.1 + first ≤ i ∧ i < range.1 + first + n then (0, 0) else mget (0, 0) s.sen.cnt i)) ∧
     (op = 3 → comes s countsPairs = false → range.2 < first + n → ends (.descCounter r) 1 fun t e => e.detail = 2 ∧ same t)) ∧
    (let j := 640 * fld (dWord d 4) 2 0 + min 639 (fld (dWord d 4) 12 3)
     let own := ∀ n, ringSlice k = some n → rbit s R.SEN_SVC_CTL j 47 = true ∧ rfld s R.SEN_SVC_CTL j 43 32 = n
     let act := fld (dWord d 0) 1 0;
     (op = 4 → act = 0 → own → running s (j / 640) 3 = true → (thr s j).st = .free → ends (.descSvcStart r) 0 fun t _ =>
       (thr t j).st = .ready ∧ (thr t j).pc = fld (dWord d 5) 15 0 ∧ ∀ i, i ≠ j → thr t i = thr s i) ∧
     (op = 4 → act = 1 → own → (thr s j).svc = true → (thr s j).st = .sleeping → ends (.descSvcStop r) 0 fun t _ =>
       (thr t j).st = .free ∧ ∀ i, i ≠ j → thr t i = thr s i) ∧
     (op = 4 → act = 2 → own → ends (.descSvcWake r) 0 fun t _ => t.sen = { s.sen with
       arrivals := s.sen.arrivals ++ [⟨j, ⟨1, BitVec.ofNat 32 (fld (dWord d 4) 44 13), none, 0⟩⟩] }) ∧
     (op = 4 → ¬ own → (act = 0 → ends (.descSvcStart r) 1 fun t e => e.detail = 3 ∧ same t) ∧
       (act = 1 → ends (.descSvcStop r) 1 fun t e => e.detail = 3 ∧ same t) ∧
       (act = 2 → ends (.descSvcWake r) 1 fun t e => e.detail = 3 ∧ same t))) ∧
    (let size := clampTo 1 16384 (fld (dWord d 4) 14 0)
     let m := fld (dWord d 4) 31 16
     let cs := candidatePools s size m;
     op = 5 → ringSlice k = none → bpmTurn s 1 0x1000 = true →
       (∀ n i p, smallestPool s (cs.filter (fun n => !poolExhausted s n)) = some n → takeBillet s n = some (i, p) →
         ends (.descAlloc r) 0 fun t e => e.res0 = BitVec.ofNat 64 (n * 2 ^ 32 + i) ∧ (tagRaw t n i).testBit 15 = true ∧
           (poolSt t n).used = (poolSt s n).used + 1) ∧
       (cs = [] → ends (.descAlloc r) 5 fun t e => e.detail = 8 ∧ same t)) ∧
    (let n := fld (dWord d 4) 35 32
     let i := fld (dWord d 4) 31 0
     let tag := tagRaw s n i
     let req := match r with | .slice sl _ => 0x2000 + sl.val | .pf0 _ => 0x1000;
     let ready := ∀ m, locMem (poolLoc s n) = some m → memReady s m = true ∧ memLost s m (poolBase s n + 2 * i) = false
     let c : TaggedRing := ⟨r, .clean⟩
     op = 6 → ready → bpmTurn s 0 req = true → poolOpen s n = true → i < poolCount s n →
       (bit (dWord d 5) 0 = false → tag.testBit 15 = true → poolNamed s n = false → tag % 2 ^ 12 ≠ 1 →
         ends (.descRelease c) 0 fun t _ => tagRaw t n i = tag - 1) ∧
       (bit (dWord d 5) 0 = false → tag.testBit 15 = false → ends (.descRelease c) 5 fun _ e => e.detail = 3) ∧
       (bit (dWord d 5) 0 = true → tag.testBit 15 = true → poolNamed s n = true → tag % 2 ^ 14 = req →
         ends (.descTransfer c) 0 fun t _ => tagRaw t n i = tag / 2 ^ 14 * 2 ^ 14 + fld (dWord d 5) 29 16)) ∧
    (op = 7 → runs (.descRxPost r) fun t => same t)

/-! ### Cipher engine, sequencers and Gauge (ch. 15 to 17) -/

/-- R447 to R454, R464, R466: the key lock, the key commands and the erasing of a slot. A command needs the lock,
takes effect on the slots it names under the checks of R451, and its RESULT stands when BUSY clears; KIND 0 is an
empty slot, 1 a direct key, 2 a root, 3 a key-encryption key. A command that rewrites a slot waits for the requests of
its tick that may name the slot. That a command whose condition does not hold changes nothing is the model's choice
(log 2) where no rule says it is ignored. -/
def Obligations.KeyCommands : Prop :=
  ∀ (s : State) (v : Word),
    let n := fld v 47 32
    let n2 := fld v 31 16
    let x := slotOf s n
    let y := slotOf s n2
    let busy (t : State) : Bool := rbit t R.CPH_KEY_CMD 0 63
    let go := busy s = false ∧ keyOwner s = 1 ∧ bit v 0 = true
    let each : List Instr := [.keyRead v, .keyInstall v, .keyErase v, .keyDerive v, .keyWrap v, .keyUnwrap v]
    let same (t : State) : Prop := ∀ m, slotOf t m = slotOf s m
    let sets (t : State) (k : Nat) (z : Slot) : Prop := slotOf t k = z ∧ (∀ m, m ≠ k → slotOf t m = slotOf s m) ∧
      mget Guard.init t.cph.guards k = Guard.init
    let runs (c : Instr) (r : Nat) (e : Option Nat) (p : State → Prop) : Prop := Completes c s fun t => busy t = true ∧
      (∃ j, t.cph.job = some j ∧ j.result = some r ∧ j.erase = e) ∧ t.sen = s.sen ∧ p t
    let a := rget s R.CPH_KEY_ATTR 0
    let staged (kind : Nat) (key salt : Bytes) : Slot :=
      { kind := kind, wrappable := bit a 61, macsec := bit a 60, usage := fld a 55 48, key := key,
        salt := if kind = 1 then salt else [], version := s.cph.nextVersion + 1 }
    (bit v 0 = true → Completes (.keyLockClaim v) s fun t =>
      keyOwner t = (if keyOwner s = 0 then 1 else keyOwner s) ∧ RegsBut [adr R.CPH_KEY_LOCK 0] s t ∧ t.cph = s.cph) ∧
    (bit v 1 = true → Completes (.keyLockRelease v) s fun t =>
      keyOwner t = (if keyOwner s = 1 then 0 else keyOwner s) ∧ RegsBut [adr R.CPH_KEY_LOCK 0] s t ∧ t.cph = s.cph) ∧
    (∀ c ∈ each, (busy s = true → exec c s = .next s) ∧
      (busy s = false → keyOwner s ≠ 1 → bit v 0 = true → Completes c s fun t =>
        rfld t R.CPH_KEY_CMD 0 62 59 = 2 ∧ busy t = false ∧ t.cph = s.cph)) ∧
    (go → runs (.keyRead v) 1 none fun t => same t ∧ rget t R.CPH_KEY_ATTR 0 =
      BitVec.ofNat 64 (x.kind * 2 ^ 62 + x.wrappable.toNat * 2 ^ 61 + x.macsec.toNat * 2 ^ 60 + x.usage * 2 ^ 48)) ∧
    (go → fld a 63 62 ≠ 0 → mustWait s n = false → asksSlot s n = false → runs (.keyInstall v) 1 none fun t =>
      sets t n (staged (fld a 63 62) ((keyData s).take 32) (((keyData s).drop 32).take 12))) ∧
    (go → x.kind ≠ 0 → mustWait s n = false → asksSlot s n = false → runs (.keyErase v) 1 (some n) fun t => sets t n Slot.empty) ∧
    (go → x.kind = 0 → runs (.keyErase v) 3 none same) ∧
    (go → x.kind ≠ 0 → asksSlot s n = true → Completes (.keyErase v) s fun t => busy t = true ∧ same t ∧
      ∃ j, t.cph.job = some j ∧ j.op = 2 ∧ j.slot = n ∧ j.result = none) ∧
    (go → x.kind = 2 → mustWait s n2 = false → asksSlot s n2 = false → let d := derive x.key (rget s R.CPH_KEY_LABEL 0).toNat 3 0
      runs (.keyDerive v) 1 none fun t => sets t n2 (staged 1 d.1 d.2)) ∧
    (go → x.kind = 1 ∨ x.kind = 3 → runs (.keyDerive v) 4 none same) ∧
    (go → x.kind ≠ 0 → y.kind = 3 → x.wrappable = true →
      let w := fitBytes 56 (Config.keyWrap y.key (slotBlock x)) ++ (keyData s).drop 56
      runs (.keyWrap v) 1 none fun t => same t ∧
        ∀ i, i < 8 → rget t R.CPH_KEY_DATA i = BitVec.ofNat 64 (beNat ((w.drop (8 * i)).take 8))) ∧
    (go → x.kind ≠ 0 → y.kind = 3 → x.wrappable = false → runs (.keyWrap v) 5 none same) ∧
    (go → y.kind ≠ 3 → runs (.keyUnwrap v) 4 none same) ∧
    (go → y.kind = 3 → Config.keyUnwrap y.key ((keyData s).take 56) = none → runs (.keyUnwrap v) 6 none same) ∧
    (∀ bs, go → y.kind = 3 → Config.keyUnwrap y.key ((keyData s).take 56) = some bs → mustWait s n = false → asksSlot s n = false →
      (byteAt (fitBytes 48 bs) 44).toNat % 4 ≠ 0 → runs (.keyUnwrap v) 1 none fun t =>
        (slotOf t n).kind = (byteAt (fitBytes 48 bs) 44).toNat % 4 ∧ (slotOf t n).key = (fitBytes 48 bs).take 32 ∧
        (slotOf t n).usage = (byteAt (fitBytes 48 bs) 45).toNat ∧ ∀ m, m ≠ n → slotOf t m = slotOf s m) ∧
    (∀ j r, s.cph.job = some j → j.result = some r → r < 16 → j.recover = false → j.release = false →
      (j.erase = none → Completes .keyCommandDone s fun t => busy t = false ∧ rfld t R.CPH_KEY_CMD 0 62 59 = r ∧
        t.cph = { s.cph with job := none } ∧ RegsBut [adr R.CPH_KEY_CMD 0] s t) ∧
      (∀ k, j.erase = some k → (∀ q ∈ accepted s, q.slot ≠ k) →
        (∀ e ∈ s.liu.ports, ∀ f ∈ e.2.sa, f.2.slot ≠ k) → s.cph.notify.length < 256 →
        Completes .eraseComplete s fun t => busy t = false ∧ rfld t R.CPH_KEY_CMD 0 62 59 = 1 ∧ t.cph.job = none ∧
          t.cph.notify = s.cph.notify ++ [⟨5, k * 2 ^ 16⟩] ∧ t.cph.slots = s.cph.slots ∧
          ∀ d ∈ t.cph.cache, d.slot = k → d.version = (slotOf s k).version)) ∧
    (∀ k : KeySlot, s.cph.bad.contains k.val = false → Completes (.slotEccError k) s fun t =>
      t.cph = { s.cph with bad := k.val :: s.cph.bad, recover := s.cph.recover ++ [k.val] } ∧ t.sen = s.sen) ∧
    (∀ k : KeySlot, s.cph.job = none → s.cph.recover.contains k.val = true → s.mgmtDown = false →
      mustWait s k.val = false → Completes (.slotRecovery k) s fun t => keyOwner t = 2 ∧ sets t k.val Slot.empty ∧
        (keyOwner s = 1 → rbit t R.CPH_KEY_LOCK 0 61 = true) ∧ k.val ∉ t.cph.recover ∧ k.val ∉ t.cph.bad ∧
        RegsBut [adr R.CPH_KEY_LOCK 0] s t ∧ t = { s with regs := t.regs, cph := t.cph }) ∧
    (∀ m rest, s.cph.notify = m :: rest →
      let w := BitVec.ofNat 64 (2 ^ 63 + m.type * 2 ^ 60 + m.low % 2 ^ 60)
      exec .cphNotifyRead s = .next { s with cph := { s.cph with notify := rest }, lastRead := w }) ∧
    (s.cph.notify = [] → exec .cphNotifyRead s = .next { s with lastRead := 0 })

/-- R138 to R141, R452, R455 to R459, R467: a CIPH sends a request over the frame as it stands; an accepted request
captures its slot's key, and its IV is not accepted again under that slot; a refused one is counted by its code; a
free live core takes it, and its end returns STATUS and the new frame; a core that retires gives its request back.
That a command whose condition does not hold changes nothing is the model's choice (log 2) where no rule says it is
ignored. -/
def Obligations.CipherRequests : Prop :=
  ∀ s : State,
    (∀ (th : ThreadRef) (f : FmtC), let u := counted s th
      let bs := frameBytes u.pkt
      let eoff := f.eoff.toNat
      let aoff := min f.aoff.toNat eoff
      let wid := s.hif.nextWork
      Issues s th 0x62 (fun w => asC w = f) →
      f.fn.toNat % 2 = 1 ∨ frameLen u.pkt + tagLen f.fn.toNat ≤ u.pkt.orig + 128 → Completes (.ciph th f) s fun t =>
        ctx t th = { u with reqs := u.reqs ++
          [⟨f.tag.toNat, f.rd.toNat, false, .cipher f.fn.toNat aoff eoff (decide (f.xr = 1)) wid⟩] } ∧
        (∀ j, j ≠ thrKey th → thr t j = thr s j) ∧
        (∃ q, t.cph.arrived = s.cph.arrived ++ [q] ∧ q.src = .prog (thrKey th) wid ∧ q.fn = f.fn.toNat ∧
          q.slot = fld (greg u f.rc.toNat) 15 0 ∧ q.label = (greg u f.rb.toNat).toNat ∧
          q.iv = (greg u f.ra.toNat).toNat ∧ q.aad = (bs.take eoff).drop aoff ∧ q.region = bs.drop eoff) ∧
        t = { s with sen := { s.sen with threads := t.sen.threads, engines := slotEng s th 1 }, gau := slotGau s th,
                     hif := { s.hif with nextWork := wid + 1 }, cph := t.cph }) ∧
    (∀ q, s.cph.arrived = [q] → q.tick = s.tau.mono → comes s asksCipher = true →
      exec .cipherRequestAccept s = .next s) ∧
    (∀ q, s.cph.arrived = [q] → q.tick ≠ s.tau.mono ∨ comes s asksCipher = false → let x := slotOf s q.slot
      (refusal s q = 0 → x.kind = 1 → Completes .cipherRequestAccept s fun t => t.cph.arrived = [] ∧
        t.cph.queue = s.cph.queue ++ [{ q with key := x.key, salt := x.salt, version := x.version }] ∧
        (encrypts q.fn = true → guardCheck (mget Guard.init t.cph.guards q.slot) q.iv ≠ 0) ∧
        (∀ m, m ≠ q.slot → mget Guard.init t.cph.guards m = mget Guard.init s.cph.guards m) ∧
        t.cph.slots = s.cph.slots) ∧
      (refusal s q ≠ 0 → Completes .cipherRequestAccept s fun t => t.cph.arrived = [] ∧ t.cph.queue = s.cph.queue ∧
        rfld t R.CPH_REFUSE_CNT (refusal s q) 31 0 =
          min (rfld s R.CPH_REFUSE_CNT (refusal s q) 31 0 + 1) (2 ^ 32 - 1) ∧ t.cph.slots = s.cph.slots)) ∧
    (∀ k : CoreIdx, rbit s R.CPH_CORE_RETIRE 0 k.val = false → rfld s R.CPH_CORE_STAT 0 5 0 ≠ 0 →
      mfind s.cph.running k.val = none → ∀ q, s.cph.queue = [q] → Completes (.cipherCoreDispatch k) s fun t =>
        t.cph.queue = [] ∧ mfind t.cph.running k.val = some q ∧
        (∀ j, j ≠ k.val → mfind t.cph.running j = mfind s.cph.running j) ∧ t = { s with cph := t.cph }) ∧
    (∀ (k : CoreIdx) q j wid, mfind s.cph.running k.val = some q → q.src = .prog j wid →
      ∀ rq fn ao eoff xr, let x := thr s j
      x.st = .ready → x.exc6 = false → cipherReq x wid = some rq → rq.kind = .cipher fn ao eoff xr wid →
      (∀ rg tg, cipherRun q = .ok rg tg → Completes (.cipherRequestEnd k) s fun t =>
        thr t j = { reqDone x rq 0 0 with pkt := cipherFrame x.pkt fn eoff q.region.length rg tg } ∧ mfind t.cph.running k.val = none ∧
        (∀ i, i ≠ j → thr t i = thr s i) ∧ t = { s with sen := t.sen, cph := t.cph }) ∧
      (cipherRun q = .bad → Completes (.cipherRequestEnd k) s fun t => thr t j = reqDone x rq 1 0 ∧
        mfind t.cph.running k.val = none ∧ (∀ i, i ≠ j → thr t i = thr s i) ∧ t = { s with sen := t.sen, cph := t.cph })) ∧
    (∀ (k : CoreIdx) q r wid w, mfind s.cph.running k.val = some q → q.src = .host r wid →
      (ring s r).works = [w] → w.wid = wid → w.orphan = false → (ring s r).ended = [] →
      Completes (.cipherRequestEnd k) s fun t => (ring t r).works = [] ∧ mfind t.cph.running k.val = none ∧
        (∃ e, (ring t r).ended = [e] ∧ e.pos = w.pos ∧ match cipherRun q with
          | .ok rg tg => e.status = 0 ∧ e.data = q.aad ++ rg ++ tg ∧ e.dst = (dWord w.desc 2).toNat
          | .bad => e.status = 4 ∧ e.data = []) ∧ t.sen = s.sen) ∧
    (∀ (k : CoreIdx) sw, retireDue s 2 k.val sw = true → Completes (.cipherCoreRetire k sw) s fun t =>
      rbit t R.CPH_CORE_RETIRE 0 k.val = true ∧ rfld t R.CPH_CORE_STAT 0 5 0 = rfld s R.CPH_CORE_STAT 0 5 0 - 1 ∧
      (unitGet t 2 k.val).state = 1 ∧ mfind t.cph.running k.val = none ∧
      (∀ q, mfind s.cph.running k.val = some q → t.cph.queue = q :: s.cph.queue) ∧
      (mfind s.cph.running k.val = none → t.cph.queue = s.cph.queue))

/-- R469 to R475, R477: the steps of a control sequencer. Where the step makes no port access and waits for no
register, its nanoword takes effect, its event leaves, and SEQ decides the next micro-PC, which may run once CYC
clocks have passed; a word of bad parity faults the sequencer, the model holding one word for both copies (log 37); a
trap saves the micro-PC, the cause and what is pending and goes to its vector; a yield writes the checkpoint, and the
cursor at a free place (log 37); a patch is switched once every sequencer has stopped, STATE 3 and 4 lasting a tick
each (log 37). -/
def Obligations.SequencerSteps : Prop :=
  ∀ (s : State) (q : Seq),
    let x := seqOf s q.val
    let w := microAt s x.upc
    let n := nanoAt s (fld w 37 26)
    let y := noteIval s.tau.mono (if nfld n 95 92 < 13 ∧ nfld n 95 92 ≠ 8 then [nfld n 81 77] else [])
      { seqData x n (fld w 21 0) with since := s.tau.mono + 2 * max 1 (fld w 25 22) }
    let c := fld w 58 54
    let up (a : Nat) : Nat := a % 2 ^ 15
    let alone := comes s (isReturn q.val) = false
    let can (seq : Nat) : Prop := (x.st = 1 ∨ x.st = 2) ∧ x.wait = 0 ∧ x.since ≤ s.tau.mono ∧ alone ∧ parityOk w = true ∧
      fld w 62 59 = seq ∧ nfld n 75 72 = 0 ∧ seqStalls x n = false
    let others (t : State) : Prop := ∀ j, j ≠ q.val → seqOf t j = seqOf s j
    let draws (d : Nat) (i : Instr) (z : SeqSt) : Prop := Completes i s fun t => seqOf t q.val = z ∧ others t ∧
      t.out = (if nfld n 47 40 = 0 then s.out else .seqEvent q.val (nfld n 47 40) :: s.out) ∧
      t = { s with csq := t.csq, out := t.out, freeCtr := s.freeCtr + d }
    let ends := draws 0
    let loose (ps : List PortAcc) : List PortAcc := ps.map (fun p => { p with elastic := false })
    let clock := (s.tau.mono / 2 + 1) * 2
    let trapped (i : Instr) (from_ : SeqSt) (at' code vec : Nat) : Prop := Completes i s fun t => let z := seqOf t q.val
      z.st = 2 ∧ z.saved = some ⟨at', code, s.tau.mono, []⟩ ∧ z.upc = vec ∧ z.since = clock ∧ z.pend = loose from_.pend ∧
      z.traps = min (from_.traps + 1) 65535 ∧ others t ∧ t.sen = s.sen
    (can 0 → ends (.microwordNext q) { y with upc := up (x.upc + 1) }) ∧
    (s.tau.mono < x.since → exec (.microwordNext q) s = .next s) ∧
    (x.st = 1 → x.since ≤ s.tau.mono → fld w 62 59 = 0 → alone → parityOk w = false → Completes (.microwordNext q) s fun t =>
      (seqOf t q.val).st = 5 ∧ (seqOf t q.val).traps = min (x.traps + 1) 65535 ∧ others t) ∧
    (can 1 → ends (.microwordJump q) { y with upc := fld w 52 38 }) ∧
    (can 2 → condDraws c = false → ends (.microwordBranch q)
      { y with upc := if seqCond s q.val y c = bit w 53 then up (x.upc + 1) else fld w 52 38 }) ∧
    (can 3 → x.stack.length < 8 → ends (.microwordCall q) { y with stack := up (x.upc + 1) :: x.stack, upc := fld w 52 38 }) ∧
    (can 3 → 8 ≤ x.stack.length → Completes (.microwordCall q) s fun t => (seqOf t q.val).st = 5) ∧
    (∀ a rest, can 4 → x.stack = a :: rest → ends (.microwordReturn q) { y with stack := rest, upc := a }) ∧
    (can 5 → fld w 21 0 ≠ 0 → ends (.microwordDispatch q)
      { y with upc := up (fld w 52 38 + min (fld (sreg y 0) 7 0) (fld w 21 0 - 1)) }) ∧
    (can 6 → condDraws c = false → seqCond s q.val x c ≠ bit w 53 →
      ends (.microwordWait q) { y with upc := up (x.upc + 1) }) ∧
    (can 6 → condDraws c = false → seqCond s q.val x c = bit w 53 → exec (.microwordWait q) s = .next s) ∧
    (can 7 → draws 1 (.microwordYield q) { y with
      upc := up (x.upc + 1), ckpt := up (x.upc + 1)
      sram := mset 0 y.sram (Config.cursorAt q.val % 8192) (Config.freeWord s.freeCtr)
      st := if rfld s R.CSQ_ACT 0 63 61 = 2 ∧ x.saved = none then 4 else x.st }) ∧
    (can 8 → x.saved = none → trapped (.microwordTrap q) y x.upc 7 (0x70 + 16 * fld w 3 0)) ∧
    (∀ v, can 9 → x.saved = some v →
      (fld w 0 0 = 0 ∨ v.rest = [] →
        ends (.microwordResume q) { y with st := 1, saved := none, upc := up (v.upc + fld w 0 0) }) ∧
      (∀ k u vec rest, fld w 0 0 = 1 → v.rest = (k, u, vec) :: rest → k ≠ 5 → k ≠ 6 →
        Completes (.microwordResume q) s fun t => let z := seqOf t q.val
          z.st = 2 ∧ z.saved = some ⟨u, k, s.tau.mono, rest⟩ ∧ z.upc = vec ∧ z.since = clock ∧ others t)) ∧
    (can 10 → x.queue = [] →
      ends (.microwordEnd q) { y with upc := up (Config.dutyEntry q.val), saved := none, st := 0 }) ∧
    (∀ k, can 10 → x.queue = [k] → k < 8 → Completes (.microwordEnd q) s fun t => (seqOf t q.val).queue = [] ∧
      (seqOf t q.val).st = 0 ∧ (seqOf t q.val).saved = none ∧ rbit t R.CSQ_REQ_CTL k 63 = false ∧ rfld t R.CSQ_REQ_CTL k 62 59 = fld w 3 0 ∧
      rbit t R.CSQ_REQ_DONE 0 k = true ∧ t.sen = s.sen) ∧
    (∀ p data, x.pend = [p] → p.elastic = false → portMem p.port = none →
      (p.pop ≠ 1 → p.port ≠ 11 → p.burst = 1 → p.dreg < 32 → Completes (.portAccessReturn q 0 data .ok) s fun t =>
        (seqOf t q.val).pend = [] ∧ sreg (seqOf t q.val) p.dreg = data.getD 0 0 ∧ (seqOf t q.val).perr = false ∧
        (seqOf t q.val).upc = x.upc ∧ (∀ i, i ≠ p.dreg → sreg (seqOf t q.val) i = sreg x i) ∧ others t ∧
        t = { s with csq := t.csq }) ∧
      (x.saved = none → trapped (.portAccessReturn q 0 data .uncorrectable) { x with pend := [] } p.upc 1 0x10)) ∧
    (∀ p m data, x.pend = [p] → p.elastic = false → portMem p.port = some m → p.burst = 1 → p.dreg < 32 →
      let a := portAddr p.addr
      let byte (t : State) (i : Nat) : Byte := mget 0 (memOf t m).bytes i
      memReady s m = true → a + 8 ≤ memSize s m → runLost s m a 8 = false →
      (runWaits s m a 8 = true → exec (.portAccessReturn q 0 data .ok) s = .next s) ∧
      (runWaits s m a 8 = false →
        (p.pop = 0 → Completes (.portAccessReturn q 0 data .ok) s fun t => (seqOf t q.val).pend = [] ∧
          sreg (seqOf t q.val) p.dreg = BitVec.ofNat 64 (leNat (memShow s m a 8)) ∧ (∀ i, byte t i = byte s i) ∧
          others t ∧ t.sen = s.sen) ∧
        (∀ v, p.pop = 1 → p.data = [v] → Completes (.portAccessReturn q 0 data .ok) s fun t =>
          (seqOf t q.val).pend = [] ∧ (seqOf t q.val).regs = x.regs ∧ others t ∧ t.sen = s.sen ∧
          ∀ i, byte t i = if a ≤ i ∧ i < a + 8 then byteAt (leBytes 8 v.toNat) (i - a) else byte s i))) ∧
    (seqWaits s q.val = true → x.st ≠ 4 → x.st ≠ 5 → x.saved = none → timeUp s (x.since + 131072) = true → alone →
      trapped (.stepWatchdog q) x x.upc 3 0x30) ∧
    (seqWaits s q.val = false ∨ s.tau.mono < x.since + 131072 → exec (.stepWatchdog q) s = .next s) ∧
    (x.st = 5 → x.dead = false → x.queue = [] → Completes (.sequencerRestart q) s fun t =>
      seqOf t q.val = { x with st := 0, upc := up (Config.dutyEntry q.val), flags := 0, stack := [], pend := [],
                               wait := 0, saved := none, since := s.tau.mono } ∧ others t ∧
      (q.val ≠ 8 → t = { s with csq := t.csq }) ∧
      (q.val = 8 → t = { s with csq := t.csq, lkp := { s.lkp with
        pfxJob := s.lkp.pfxJob.map (fun j => { j with next := 0, tick := s.tau.mono }) } })) ∧
    (rfld s R.CSQ_ACT 0 63 61 = 2 → (∀ j, j < 24 → (seqOf s j).st = 0 ∨ (seqOf s j).st = 4 ∨ (seqOf s j).st = 5) →
      Completes .patchSwitch s fun t => t.csq.bankB = !s.csq.bankB ∧
        rfld t R.CSQ_VERSION 0 31 16 = rfld s R.CSQ_VERSION 0 47 32 ∧
        rfld t R.CSQ_VERSION 0 47 32 = rfld s R.CSQ_VERSION 0 31 16 ∧
        rfld t R.CSQ_VERSION 0 7 0 = min (rfld s R.CSQ_VERSION 0 7 0 + 1) 255 ∧
        rfld t R.CSQ_ACT 0 63 61 = 3 ∧ (∀ j, seqOf t j = seqOf s j) ∧
        RegsBut [adr R.CSQ_VERSION 0, adr R.CSQ_ACT 0] s t ∧ t = { s with regs := t.regs, csq := t.csq }) ∧
    (rfld s R.CSQ_ACT 0 63 61 = 3 → s.csq.refusals = [] → let t := csqTick s
      rfld t R.CSQ_ACT 0 63 61 = 4 ∧ t.csq.bankB = s.csq.bankB ∧ ∀ j, (seqOf t j).st ≠ 4 ∧
        ((seqOf s j).st ≠ 4 → seqOf t j = seqOf s j) ∧
        ((seqOf s j).st = 4 → rfld s R.CSQ_VERSION 0 15 8 = s.csq.stagedCkpt → (seqOf t j).upc = (seqOf s j).ckpt)) ∧
    (rfld s R.CSQ_ACT 0 63 61 = 4 → s.csq.refusals = [] → let t := csqTick s
      rfld t R.CSQ_ACT 0 63 61 = 0 ∧ rfld t R.CSQ_ACT 0 60 57 = 1 ∧ ∀ j, seqOf t j = seqOf s j) ∧
    (rfld s R.CSQ_ACT 0 63 61 = 2 → timeUp s (s.csq.quiesceAt + 16000000) = true → Completes .quiesceTimeout s fun t =>
      rfld t R.CSQ_ACT 0 63 61 = 1 ∧ rfld t R.CSQ_ACT 0 60 57 = 4 ∧ t.csq.bankB = s.csq.bankB ∧
      (∀ j, (seqOf t j).st ≠ 4) ∧ RegsBut [adr R.CSQ_ACT 0] s t) ∧
    (∀ (z : SeqSt) (m : BitVec 96) imm, let a := sreg z (nfld m 91 87)
      let b := if m.toNat.testBit 76 then BitVec.ofNat 64 imm else sreg z (nfld m 86 82)
      let d := sreg (seqData z m imm) (nfld m 81 77)
      (nfld m 95 92 = 0 → d = a) ∧ (nfld m 95 92 = 1 → d = a + b) ∧ (nfld m 95 92 = 2 → d = a - b) ∧
      (nfld m 95 92 = 3 → d = a &&& b) ∧ (nfld m 95 92 = 4 → d = a ||| b) ∧ (nfld m 95 92 = 5 → d = a ^^^ b) ∧
      (nfld m 95 92 = 8 ∨ 13 ≤ nfld m 95 92 → (seqData z m imm).regs = z.regs))

/-- R480 to R482: the service requests. GO is ignored while BUSY is 1; a request that cannot be served ends at once
with its RESULT, a refused one after a tick of BUSY; one whose ranges overlap an earlier one's is held, requests of
one tick counting in slot order; an abort on the tick of the end is ignored; a fill, copy or scan goes on by whole
steps and shows its progress; a scrub pass and a compaction have their effects. That a command whose condition does
not hold changes nothing is the model's choice (log 2) where no rule says it is ignored. -/
def Obligations.ServiceRequests : Prop :=
  ∀ (s : State) (k : SvcSlot) (v : Word),
    let i := k.val
    let busy (t : State) : Bool := rbit t R.CSQ_REQ_CTL i 63
    let result (t : State) (r : Nat) : Prop := rfld t R.CSQ_REQ_CTL i 62 59 = r
    let held (t : State) : Bool := rbit t R.CSQ_REQ_STAT i 63
    let ended (t : State) (r : Nat) : Prop := busy t = false ∧ result t r ∧ rbit t R.CSQ_REQ_DONE 0 i = true ∧
      (s.mgmtDown = false → rbit t R.ERR_INT_STAT 0 10 = true) ∧ ∀ x ∈ t.csq.reqs, x.slot ≠ i
    let taken (t : State) : Prop := ∃ q, 18 ≤ q ∧ q ≤ 21 ∧ (seqOf t q).queue = (seqOf s q).queue ++ [i] ∧
      ∀ j, j ≠ q → seqOf t j = seqOf s j
    let each : List (Instr × Nat) := [(.fill k v, 1), (.copy k v, 2), (.sweepNow k v, 3), (.tcamScrubPassNow k v, 4),
      (.trieUnitCompaction k v, 5), (.scan k v, 6)]
    (∀ e ∈ each,
      let a := rfld s R.CSQ_ARG0 i 40 0
      let r : SvcReq := { slot := i, svc := e.2, hbm := decide (fld v 51 50 = 1), len := rfld s R.CSQ_ARG1 i 40 0 / 4096 * 4096,
                          addr := if e.2 = 1 ∨ e.2 = 2 ∨ e.2 = 6 then a / 4096 * 4096 else a,
                          val := rget s R.CSQ_ARG2 i, came := s.tau.mono, abort := none }
      (busy s = true → Completes e.1 s fun t => busy t = true ∧
        rfld t R.CSQ_REQ_CTL i 62 52 = rfld s R.CSQ_REQ_CTL i 62 52 ∧
        RegsBut [adr R.CSQ_REQ_CTL i] s t ∧ t = { s with regs := t.regs }) ∧
      (busy s = false → bit v 0 = true → reqMoves r = false ∨ memReady s (reqMem r) = true →
        (reqRefused s r = true → Completes e.1 s fun t => busy t = true ∧
          rget t R.CSQ_REQ_STAT i = rget s R.CSQ_REQ_STAT i ∧ RegsBut [adr R.CSQ_REQ_CTL i] s t ∧
          t = { s with regs := t.regs, csq := { s.csq with refusals := s.csq.refusals ++ [i] } }) ∧
        (∀ b, reqRefused s r = false → s.csq.reqs = [b] → b.slot < 8 → b.came = s.tau.mono → i < b.slot →
          reqsMeet b r = true → Completes e.1 s fun t => t.csq.reqs = [r, b] ∧ busy t = true ∧ held t = false ∧
            rbit t R.CSQ_REQ_STAT b.slot 63 = true) ∧
        (reqRefused s r = false → (∀ b ∈ s.csq.reqs, b.slot ≠ i ∧ (b.came = s.tau.mono → b.slot < i)) →
          Completes e.1 s fun t => busy t = true ∧ result t 0 ∧
          t.csq.reqs = s.csq.reqs ++ [r] ∧
          (if s.csq.reqs.any (fun b => reqsMeet r b) = true then held t = true ∧ (∀ j, seqOf t j = seqOf s j)
           else held t = false ∧ taken t) ∧
          RegsBut [adr R.CSQ_REQ_CTL i, adr R.CSQ_REQ_STAT i] s t ∧ t = { s with regs := t.regs, csq := t.csq })) ∧
      (busy s = false → bit v 0 = true → reqMoves r = true → memReady s (reqMem r) = false →
        Completes e.1 s fun t => ended t 6 ∧ t.mcd = s.mcd ∧ t.mch = s.mch)) ∧
    (bit v 1 = true → busy s = true →
      (held s = true → Completes (.serviceAbort k v) s fun t => ended t 2 ∧ t.mcd = s.mcd ∧ t.mch = s.mch) ∧
      (held s = false → Completes (.serviceAbort k v) s fun t => (∀ x ∈ t.csq.reqs, x.slot = i → x.abort = some s.tau.mono) ∧
        t.csq.reqs.length = s.csq.reqs.length ∧ busy t = true ∧ RegsBut [adr R.CSQ_REQ_CTL i] s t ∧
        t = { s with regs := t.regs, csq := t.csq })) ∧
    (∀ r rest, s.csq.reqs = r :: rest → r.slot = i → held s = true → Completes (.heldServiceStart k) s fun t =>
      held t = false ∧ taken t ∧ t.csq.reqs = s.csq.reqs ∧ RegsBut [adr R.CSQ_REQ_STAT i] s t) ∧
    (s.csq.refusals = [i] → ended (csqTick s) 3) ∧
    (∀ r steps q, s.csq.reqs = [r] → r.slot = i → held s = false → 18 ≤ q → q ≤ 21 →
      (seqOf s q).queue.head? = some i → (∀ j, j ≠ q → (seqOf s j).queue.head? ≠ some i) →
      r.len < 2 ^ 41 →
      let run (l : SvcReads) : Instr := .serviceRequestEnd k steps l
      (seqDown s q = true → ∀ l, exec (run l) s = .next s) ∧
      (seqDown s q = false →
      let m := reqMem r
      let d := rfld s R.CSQ_REQ_STAT i 40 0 / 4096
      let n := min steps (r.len / 4096 - d)
      let part := svcPart r d n
      let dst := fld r.val 40 0
      let byte (t : State) (a : Nat) : Byte := mget 0 (memOf t m).bytes a
      let inPart (a b : Nat) : Prop := a + 4096 * d ≤ b ∧ b < a + 4096 * (d + n) ∧ b < memSize s m
      let free := ∀ a ∈ svcAddrs part n, unitWaits s m a = false
      let moved (t : State) : Prop := if d + n = r.len / 4096
        then ended t (if rfld s R.CSQ_REQ_STAT i 57 41 = 0 then 1 else 4)
        else busy t = busy s ∧ rfld t R.CSQ_REQ_STAT i 40 0 = (d + n) * 4096 ∧
          rfld t R.CSQ_REQ_STAT i 57 41 = rfld s R.CSQ_REQ_STAT i 57 41 ∧ t.csq = s.csq
      (r.abort = none ∨ r.abort = some s.tau.mono →
        (r.svc = 1 → (∀ a, memLost s m a = false) → free → Completes (run ⟨[], []⟩) s fun t => moved t ∧
          ∀ a, byte t a = if inPart r.addr a then BitVec.ofNat 8 (r.val.toNat >>> (8 * ((a - r.addr) % 8))) else byte s a) ∧
        (r.svc = 2 → (∀ a, memLost s m a = false) → free → r.addr + r.len ≤ dst ∨ dst + r.len ≤ r.addr →
          dst + r.len ≤ 2 ^ 41 → Completes (run ⟨[], []⟩) s fun t => moved t ∧
            ∀ a, byte t a = if inPart dst a then byte s (r.addr + (a - dst)) else byte s a) ∧
        (r.svc = 6 → (∀ a, memLost s m a = false) → free → Completes (run ⟨[], []⟩) s fun t => moved t ∧
          ∀ a, byte t a = byte s a) ∧
        (r.svc = 3 → comes s beforeSweep = false →
          (∀ a ∈ sweepReads s (min 67 (r.addr % 128)), unitWaits s .mcd a = false) →
          Completes (run ⟨[], []⟩) s fun t => ended t 1 ∧ mget 0 t.lkp.swept (min 67 (r.addr % 128)) = s.tau.mono) ∧
        (r.svc = 1 ∨ r.svc = 2 ∨ r.svc = 6 → (∃ a ∈ svcAddrs part n, unitWaits s m a = true) →
          Completes (run ⟨[], []⟩) s fun t => busy t = busy s ∧ t.csq = s.csq ∧ ∀ a, byte t a = byte s a) ∧
        (r.svc = 4 → Completes (run ⟨[], []⟩) s (fun t => ended t 1 ∧ t.tcam = s.tcam ∧ t.lkp = s.lkp) ∧
          ∀ j, scrubbed s (j / 4096) = true → j % 4096 < bankEntries (rfld s R.TCM_BANK_CFG (j / 4096) 1 0) →
            Completes (run ⟨[j], []⟩) s (fun t => ended t 1 ∧
              t.tcam = (quarantine (j / 4096) (j % 4096) s).tcam) ∧
            Completes (run ⟨[], [j]⟩) s (fun t => ended t 1 ∧ t.tcam = s.tcam ∧
              rfld t R.TCM_VERIFY_STAT 0 31 0 = min (rfld s R.TCM_VERIFY_STAT 0 31 0 + 1) (2 ^ 32 - 1))) ∧
        (r.svc = 5 → Completes (run ⟨[], []⟩) s fun t => ended t 1 ∧ t.lkp = (compact (r.addr % 16) s).lkp ∧
          t.lkp = { s.lkp with bases := t.lkp.bases, bad := t.lkp.bad, trieFree := t.lkp.trieFree } ∧ t.tcam = s.tcam)) ∧
      (∀ at', r.abort = some at' → at' < s.tau.mono → (seqOf s q).saved = none →
        (r.svc = 3 ∨ r.svc = 4 ∨ r.svc = 5) ∨ (steps = 0 ∧ d ≠ r.len / 4096) → Completes (run ⟨[], []⟩) s fun t =>
          ended t 2 ∧ (seqOf t q).saved = none ∧ t.mcd = s.mcd ∧ t.mch = s.mch ∧ t.lkp = s.lkp ∧ t.tcam = s.tcam)))

/-- R484, R485, R487 to R489, R493 to R496: the Gauge. A counter saturates, or wraps to RELOAD with a sample; a
snapshot latches every counter of its set and counts in SEQ, with OVERRUN where the last was not yet READY; CLR_SNAP
zeroes a counter after it; a sample enters the FIFO on its detection and is read oldest first. That a command whose
condition does not hold changes nothing is the model's choice (log 2) where no rule says it is ignored. -/
def Obligations.GaugeCounters : Prop :=
  ∀ (s : State) (n : GauSet) (v : Word),
    let stat (t : State) : Word := rget t R.GAU_SNAP_STAT n.val
    exec (.gauSnapNow v) s = .next { s with gau := { s.gau with snapNext := s.gau.snapNext ||| fld v 15 0 } } ∧
    (restOfTick s ≠ [] → exec .gaugeSnapshot s = .next s) ∧
    (restOfTick s = [] → s.gau.snapDue = 2 ^ n.val → s.gau.done = true → s.gau.slotClr = none → s.gau.due = [] →
      Completes .gaugeSnapshot s fun t =>
      fld (stat t) 63 48 = (fld (stat s) 63 48 + 1) % 65536 ∧ bit (stat t) 47 = false ∧
      bit (stat t) 46 = (!bit (stat s) 47 || bit (stat s) 46) ∧ rget t R.GAU_SNAP_TIME n.val = secNsWord (phcNow s) ∧
      (∀ k ∈ ctrNums s, let w := ctrCfg s k
        k < 544 → bit w (32 + n.val) = true →
        rfld t R.GAU_SNAP_VAL (1024 * n.val + k) 47 0 = rfld s R.GAU_CTR_VAL k 47 0 ∧
        rbit t R.GAU_SNAP_VAL (1024 * n.val + k) 63 = rbit s R.GAU_CTR_CFG k 59 ∧
        (bit w 60 = true → rget t R.GAU_CTR_VAL k = 0)) ∧
      (∀ m, m < 16 → m ≠ n.val → rget t R.GAU_SNAP_STAT m = rget s R.GAU_SNAP_STAT m) ∧
      t.gau.snapDue = 0 ∧ t = { s with regs := t.regs, gau := t.gau }) ∧
    (s.mgmtDown = false → Completes (.snapshotCollected n) s fun t => bit (stat t) 47 = true ∧
      fld (stat t) 63 48 = fld (stat s) 63 48 ∧ RegsBut [adr R.GAU_SNAP_STAT n.val] s t ∧ t = { s with regs := t.regs }) ∧
    (∀ m, s.gau.slotClr = some m → m < s.tau.mono → Completes .slotCounterClear s fun t =>
      (∀ k, k < 64 → rget t R.GAU_SLOT k = 0) ∧ t.gau = { s.gau with slotClr := none } ∧
      RegsBut ((List.range 64).map (fun k => adr R.GAU_SLOT k)) s t ∧ t = { s with regs := t.regs, gau := t.gau }) ∧
    (∀ d rest, s.gau.due = d :: rest → d.at_ ≤ s.tau.mono → let r := sampleRec s d
      (r.ctr = d.ctr ∧ r.phc = d.phc ∧ r.unit = d.unit ∧ r.thrV = d.thr.isSome ∧ r.skid ≤ 2) ∧
      (s.gau.fifo.length < 1024 → Completes .sampleDetect s fun t =>
        t.gau = { s.gau with due := rest, fifo := s.gau.fifo ++ [r] } ∧
        (s.mgmtDown = false → s.gau.fifo = [] ∨ s.gau.fifo.length = 511 → rbit t R.ERR_INT_STAT 0 9 = true) ∧
        t = { s with regs := t.regs, err := t.err, out := t.out, gau := t.gau }) ∧
      (1024 ≤ s.gau.fifo.length → Completes .sampleDetect s fun t => t.gau.fifo = s.gau.fifo ∧ t.gau.due = rest ∧
        rfld t R.GAU_SAMPLE_DROP 0 31 0 = min (rfld s R.GAU_SAMPLE_DROP 0 31 0 + 1) (2 ^ 32 - 1) ∧
        RegsBut [adr R.GAU_SAMPLE_DROP 0] s t)) ∧
    (∀ r rest, s.gau.fifo = r :: rest → r.thr < 5120 → r.ctr < 1024 → Completes .gauSampleRead s fun t =>
      t.gau = { s.gau with fifo := rest } ∧ bit t.lastRead 63 = true ∧ bit t.lastRead 62 = r.ended ∧
      bit t.lastRead 61 = r.thrV ∧ fld t.lastRead 57 48 = r.ctr ∧ fld t.lastRead 31 16 = r.pc % 65536 ∧
      rget t R.GAU_SAMPLE 1 = secNsWord r.phc ∧ RegsBut [adr R.GAU_SAMPLE 1, adr R.GAU_SAMPLE 2] s t) ∧
    (s.gau.fifo = [] → Completes .gauSampleRead s fun t => t.lastRead = 0 ∧ t.gau = s.gau) ∧
    (∀ s0 k, let w := ctrCfg s0 k
      let v := ctrValue s0 k w
      (v = 0 → ctrTick s0 s k = s) ∧ (v ≠ 0 → bit w 62 = false → ctrTick s0 s k = ctrAdd s0 k v s) ∧
      (v ≠ 0 → bit w 62 = true → ctrTick s0 s k = if s0.gau.hot.contains k then s else ctrAdd s0 k 1 s)) ∧
    (∀ s0 k x, k < 544 → let t := ctrAdd s0 k x s
      let y := rfld s R.GAU_CTR_VAL k 47 0 + x
      (y < 2 ^ 48 → t = rset s R.GAU_CTR_VAL k (BitVec.ofNat 64 y)) ∧
      (2 ^ 48 ≤ y → bit (ctrCfg s k) 61 = false → rfld t R.GAU_CTR_VAL k 47 0 = 2 ^ 48 - 1 ∧
        rbit t R.GAU_CTR_CFG k 59 = true ∧ t.gau = s.gau) ∧
      (2 ^ 48 ≤ y → bit (ctrCfg s k) 61 = true → rbit t R.GAU_CTR_CFG k 59 = rbit s R.GAU_CTR_CFG k 59 ∧
        rfld t R.GAU_CTR_VAL k 47 0 = min (2 ^ 48 - 1) (rfld s R.GAU_CTR_RELOAD k 47 0 + (y - 2 ^ 48)) ∧
        t.gau.due.length = s.gau.due.length + 1))

/-! ### Start-up, identity, firmware and pins (ch. 18, 20) -/

/-- R397, R416 to R418, R511: one owner at a time holds the mailbox, for 10 s without a GO; a GO is refused at once
for a code not known, a length too short or a management restart; the response replaces the request within 1 s of GO.
The reset of PF0 disables its rings and releases its claims. A nonce is fresh, replaces an unused one and lives 60 s.
That a command whose condition does not hold changes nothing is the model's choice (log 2) where no rule says it is
ignored. -/
def Obligations.MailboxTransactions : Prop :=
  ∀ s : State,
    let own (t : State) : Nat := rfld t R.HIF_MBX_CTL 0 58 57
    let res (t : State) : Nat := rfld t R.HIF_MBX_CTL 0 62 59
    let len (t : State) : Nat := rfld t R.HIF_MBX_CTL 0 47 37
    let busy (t : State) : Bool := rbit t R.HIF_MBX_CTL 0 63
    let ctl (t : State) : Prop := RegsBut [adr R.HIF_MBX_CTL 0] s t
    (∀ who : MbxUser, let me := if who = .pf0 then 1 else 2
      (own s = 0 → who = .pf0 ∨ comes s pf0Claims = false → Completes (.mbxClaim who) s fun t => own t = me ∧ t.hif.mbxSince = s.tau.mono ∧ busy t = busy s ∧
        ctl t ∧ t = { s with regs := t.regs, hif := t.hif }) ∧
      (own s ≠ 0 ∨ (who = .mctp ∧ comes s pf0Claims = true) → exec (.mbxClaim who) s = .next s) ∧
      (own s = me → Completes (.mbxRelease who) s fun t => own t = 0 ∧ ctl t ∧ t = { s with regs := t.regs }) ∧
      (own s ≠ me → exec (.mbxRelease who) s = .next s) ∧
      (∀ v msg, own s ≠ me ∨ (who = .mctp ∧ busy s = true) → exec (.mbxGo who v msg) s = .next s)) ∧
    (∀ v msg, own s = 1 → busy s = true ∨ bit v 0 = false → Completes (.mbxGo .pf0 v msg) s fun t =>
      len t = clampTo 8 1024 (fld v 47 37) ∧ busy t = busy s ∧ res t = res s ∧ own t = 1 ∧ ctl t ∧
        t = { s with regs := t.regs }) ∧
    (∀ v msg, own s = 1 → busy s = false → bit v 0 = true → let n := clampTo 8 1024 (fld v 47 37)
      let ends (r : Nat) : Prop := Completes (.mbxGo .pf0 v msg) s fun t => busy t = false ∧ res t = r ∧ len t = n ∧
        own t = 1 ∧ ctl t ∧ t.hrt = s.hrt
      (s.mgmtDown = true → ends 4) ∧
      (s.mgmtDown = false → mbxNeeds s (fld (mbxWord s 0) 63 48) = none → ends 2) ∧
      (∀ need, s.mgmtDown = false → mbxNeeds s (fld (mbxWord s 0) 63 48) = some need →
        (n < need → ends 3) ∧
        (need ≤ n → Completes (.mbxGo .pf0 v msg) s fun t => busy t = true ∧ len t = n ∧ own t = 1 ∧ ctl t ∧
          t.hif.mbxGo = s.tau.mono ∧ t.hif.mbxSince = s.tau.mono ∧ t.hrt = { s.hrt with resp := none, after := none }))) ∧
    (∀ v msg, own s = 2 → busy s = false → 8 ≤ msg.length → msg.length ≤ 1024 → Completes (.mbxGo .mctp v msg) s fun t =>
      len t = msg.length ∧ own t = 2 ∧ mbxBytes t msg.length = msg ∧ t.hif.mbxGo = s.tau.mono ∧
      (s.mgmtDown = true → busy t = false ∧ res t = 4)) ∧
    (own s ≠ 0 → timeUp s (s.hif.mbxSince + 16000000000) = true → Completes .mbxOwnerTimeout s fun t => own t = 0 ∧ ctl t ∧
      t = { s with regs := t.regs }) ∧
    (s.tau.mono < s.hif.mbxSince + 16000000000 → exec .mbxOwnerTimeout s = .next s) ∧
    (∀ bs, s.hrt.resp = some bs → busy s = true → s.tau.mono ≤ s.hif.mbxGo + 1600000000 → 8 ≤ bs.length →
      bs.length ≤ 1024 → Completes .mbxResponse s fun t => busy t = false ∧ res t = 1 ∧ own t = own s ∧
        len t = bs.length ∧ mbxBytes t bs.length = bs ∧ t.hrt.resp = none ∧ t.hrt.after = none ∧
        (s.hrt.after = none → t = { s with regs := t.regs, hrt := t.hrt }) ∧
        (s.hrt.after = some .reset → t.pins.resetDue = some 2) ∧
        (s.hrt.after = some .hitless → t.hrt.restart = some (dirNow s.hrt).active)) ∧
    (busy s = true → timeUp s (s.hif.mbxGo + 1600000000) = true → Completes .mbxTimeout s fun t => busy t = false ∧ res t = 5 ∧
      own t = own s ∧ ctl t ∧ t = { s with regs := t.regs, hrt := { s.hrt with resp := none, after := none } }) ∧
    (busy s = false → exec .mbxTimeout s = .next s) ∧
    Completes .pf0Flr s (fun t => own t = (if own s = 1 then 0 else own s) ∧ busy t = busy s ∧
      (∀ k, k < 16 → (ring t (pf0Ring + k)).st ≠ 1) ∧ (keyOwner s = 1 → s.cph.job = none → keyOwner t = 0) ∧
      (keyOwner s ≠ 1 → keyOwner t = keyOwner s) ∧ t.hif.flush = s.hif.flush) ∧
    (busy s = true → fld (mbxWord s 0) 63 48 = 0x02 → s.hrt.resp = none → s.mgmtDown = false →
      Completes .getNonce s fun t => ∃ n : Bytes, n.length = 32 ∧ t.hrt.nonce = some (n, s.tau.mono) ∧
        t.hrt.resp = some (leBytes 8 (fld (mbxWord s 0) 31 0) ++ n) ∧ t = { s with hrt := t.hrt, freeCtr := t.freeCtr } ∧
        t.hrt = { s.hrt with nonce := t.hrt.nonce, resp := t.hrt.resp }) ∧
    (∀ n t0, s.hrt.nonce = some (n, t0) →
      (timeUp s (t0 + 96000000000) = true → exec .nonceExpire s = .next { s with hrt := { s.hrt with nonce := none } }) ∧
      (s.tau.mono < t0 + 96000000000 → exec .nonceExpire s = .next s))

/-- R503, R511, R514, R518 to R523: the update commands and activation. A command is answered once, and one that
recovery does not accept (STATUS 3) or whose signature fails (STATUS 5) changes nothing else; each check of a command
has its STATUS; each acceptance changes the directory, the flash or the fuses as stated; a hitless activation restarts
the management complex and ends in the new firmware or, if that is refused, in the old. That a command whose condition
does not hold changes nothing is the model's choice (log 2) where no rule says it is ignored. -/
def Obligations.UpdatesAndActivation : Prop :=
  ∀ s : State,
    let code := fld (mbxWord s 0) 63 48
    let asked (k : Nat) : Prop := mbxBusy s = true ∧ code = k ∧ s.hrt.resp = none ∧ s.mgmtDown = false
    let head (st : Nat) : Bytes := leBytes 8 (st * 2 ^ 48 + fld (mbxWord s 0) 31 0)
    let no (c : Instr) (st : Nat) : Prop := exec c s = .next { s with hrt := { s.hrt with resp := some (head st) } }
    let ok (c : Instr) (p : Hrt → Prop) : Prop := Completes c s fun t =>
      t.hrt.resp = some (head 0) ∧ p t.hrt ∧ t = { s with hrt := t.hrt }
    let d := dirNow s.hrt
    let dir (h : Hrt) (x : DirCopy) : Prop := dirNow h = { x with seq := d.seq + 1 }
    let rest (h : Hrt) : Prop := h.flash = s.hrt.flash ∧ h.running = s.hrt.running ∧ h.vendorSvn = s.hrt.vendorSvn
    (∀ e ∈ [(1, Instr.getInfo), (2, .getNonce), (16, .updateBegin), (17, .updateBlock), (18, .updateStatus),
        (19, .updateEnd), (20, .updateAbort), (32, .activate), (33, .commit), (48, .settingsRead), (49, .settingsWrite),
        (64, .ownerAddKey), (65, .ownerRevokeKey), (66, .ownerLock), (67, .ownerSvn), (80, .secureCount),
        (96, .certInstall), (97, .getCsr), (112, .reset)],
      (¬ asked e.1 → exec e.2 s = .next s) ∧ (asked e.1 → stage s = 4 → 33 ≤ e.1 → no e.2 3) ∧
      (asked e.1 → stage s ≠ 4 → mbxSigned s e.1 = true → mbxAuthorised s = false → no e.2 5)) ∧
    (asked 1 → Completes .getInfo s fun t => (∃ body, t.hrt.resp = some (head 0 ++ body)) ∧
      t = { s with hrt := { s.hrt with resp := t.hrt.resp } }) ∧
    (asked 16 → let slot := fld (mbxWord s 1) 0 0
      let len := fld (mbxWord s 1) 63 32
      (len < 512 ∨ 25165824 < len → no .updateBegin 2) ∧
      (512 ≤ len → len ≤ 25165824 → s.hrt.running = some slot ∨ s.hrt.open_ ≠ none → no .updateBegin 3) ∧
      (512 ≤ len → len ≤ 25165824 → s.hrt.running ≠ some slot → s.hrt.open_ = none → ok .updateBegin fun h =>
        dir h (slotSet slot 0 0 d) ∧ h.open_ = some ⟨slot, len, 0⟩ ∧ rest h)) ∧
    (s.hrt.open_ = none → (asked 17 → no .updateBlock 3) ∧ (asked 18 → no .updateStatus 3) ∧
      (asked 19 → no .updateEnd 3) ∧ (asked 20 → no .updateAbort 3) ∧ exec .sectorEraseDone s = .next s) ∧
    (∀ u, s.hrt.open_ = some u →
      let o := fld (mbxWord s 1) 31 0
      let n := fld (mbxWord s 1) 47 32
      let a := u.slot * 2 ^ 25 + o
      let fits := 0 < n ∧ n ≤ 1008 ∧ o + n ≤ u.len
      let here (i : Nat) : Option Byte := mfind s.hrt.flash (a + i)
      (u.erased * 65536 < u.len → Completes .sectorEraseDone s fun t =>
        t.hrt.open_ = some { u with erased := u.erased + 1 } ∧ t = { s with hrt := t.hrt } ∧
        (∀ b, let b0 := u.slot * 2 ^ 25 + u.erased * 65536
          mfind t.hrt.flash b = if b0 ≤ b ∧ b < b0 + 65536 then none else mfind s.hrt.flash b)) ∧
      (asked 17 → (¬ fits → no .updateBlock 2) ∧
        (fits → u.erased * 65536 < o + n → no .updateBlock 1) ∧
        (fits → o + n ≤ u.erased * 65536 → (∀ i, i < n → here i = none) → ok .updateBlock fun h =>
          (∀ i, i < n → mfind h.flash (a + i) = (blockData s)[i]?) ∧
          (∀ b, b < a ∨ a + n ≤ b → mfind h.flash b = mfind s.hrt.flash b) ∧ h.open_ = some u) ∧
        (fits → o + n ≤ u.erased * 65536 → (∃ i, i < n ∧ here i ≠ none ∧ here i ≠ (blockData s)[i]?) →
          no .updateBlock 4) ∧
        (fits → o + n ≤ u.erased * 65536 → (∃ i, i < n ∧ here i ≠ none) →
          (∀ i, i < n → here i = none ∨ here i = (blockData s)[i]?) → no .updateBlock 0)) ∧
      (asked 18 → Completes .updateStatus s fun t => (∃ body, t.hrt.resp = some (head 0 ++ body)) ∧
        t = { s with hrt := { s.hrt with resp := t.hrt.resp } }) ∧
      (asked 19 → bytesWritten s u < u.len → no .updateEnd 3) ∧
      (asked 19 → u.len ≤ bytesWritten s u → let c := imgCheck s 4 (slotBytes s u.slot u.len)
        (c = 0 → ok .updateEnd fun h => dir h (slotSet u.slot 1 0 d) ∧ h.open_ = none ∧ h.closed = some u.slot ∧ rest h) ∧
        (c ≠ 0 → exec .updateEnd s = .next { s with hrt := { s.hrt with
          open_ := none, closed := some u.slot, resp := some (head (checkStatus c)) } })) ∧
      (asked 20 → ok .updateAbort fun h => dir h (slotSet u.slot 0 0 d) ∧ h.open_ = none ∧ rest h)) ∧
    (asked 32 → (∀ n, s.hrt.closed = some n → slotState d n ≠ 1) → no .activate 3) ∧
    (∀ n, asked 32 → s.hrt.closed = some n → slotState d n = 1 →
      let act (a : Option After) : Prop := ok .activate fun h =>
        dir h { slotSet n 2 3 d with active := n } ∧ h.after = a ∧ rest h
      let old := s.hrt.fw.ver < Config.hitlessFrom ((imgPlain s (slotImage s n)).getD [])
      (stage s = 4 → act (some .reset)) ∧ (stage s ≠ 4 → mbxFlag s 0 = false → act none) ∧
      (stage s ≠ 4 → mbxFlag s 0 = true → ¬ old → act (some .hitless)) ∧
      (stage s ≠ 4 → mbxFlag s 0 = true → old → no .activate 13)) ∧
    (∀ n, asked 33 → stage s ≠ 4 → (mbxSigned s 33 = true → mbxAuthorised s = true) → s.hrt.running = some n →
      let v := max s.hrt.vendorSvn (imgSvn (slotImage s n))
      (mbxFlag s 0 = false → ok .commit fun h => dir h (slotSet n 3 0 d) ∧ rest h) ∧
      (mbxFlag s 0 = true → ok .commit fun h => h.vendorSvn = v ∧
        dir h (if slotState (slotSet n 3 0 d) (1 - n) ≠ 0 ∧ imgSvn (slotImage s (1 - n)) < v
          then slotSet (1 - n) 4 0 (slotSet n 3 0 d) else slotSet n 3 0 d))) ∧
    (s.hrt.restart = none → ∀ ph, exec (.managementRestart ph) s = .next s) ∧
    (∀ n, s.hrt.restart = some n →
      (s.mgmtDown = false → Completes (.managementRestart .start) s fun t => t.mgmtDown = true ∧ stage t = 5 ∧
        t.hrt.restart = some n ∧ t.hrt.running = s.hrt.running ∧
        (mbxBusy s = true → mbxBusy t = false ∧ rfld t R.HIF_MBX_CTL 0 62 59 = 4 ∧ t.hrt.resp = none)) ∧
      (∀ readOk, s.mgmtDown = true → rfld s R.CSQ_ACT 0 63 61 ≤ 1 → s.csq.staging = false →
        let good := readOk = true ∧ imgCheck s 4 (slotImage s n) = 0
        Completes (.managementRestart (.finish readOk)) s fun t => t.mgmtDown = false ∧ stage t = 3 ∧
          t.hrt.restart = none ∧ t.err.held = [] ∧ (good → t.hrt.running = some n ∧ t.hrt.fw = firmwareOf s (slotImage s n)) ∧
          (¬ good → t.hrt.running = s.hrt.running ∧ t.hrt.fw = s.hrt.fw ∧
            dir t.hrt { slotSet n 4 0 d with active := s.hrt.running.getD 0 })))

/-- R491, R507, R510 to R516: the owner's commands, the settings, certificates and the SPDM requests. Keys and
counters are fused one way; the last unrevoked key stays; settings are staged and committed to the other copy; SPDM is
answered in stage 3, with Busy during a management restart. -/
def Obligations.OwnerSettingsAttestation : Prop :=
  ∀ s : State,
    let go (k : Nat) : Prop := mbxBusy s = true ∧ fld (mbxWord s 0) 63 48 = k ∧ s.hrt.resp = none ∧ s.mgmtDown = false ∧
      stage s ≠ 4 ∧ (mbxSigned s k = true → mbxAuthorised s = true)
    let head (st : Nat) : Bytes := leBytes 8 (st * 2 ^ 48 + fld (mbxWord s 0) 31 0)
    let does (c : Instr) (st : Nat) (f : Hrt → Hrt) : Prop := Completes c s fun t =>
      t = { s with regs := t.regs, hrt := t.hrt } ∧ RegsBut [adr R.GLB_BOOT_STAT 0] s t ∧
      { t.hrt with nonce := none } = { f s.hrt with nonce := none, resp := some (head st) }
    let no (c : Instr) (st : Nat) : Prop := does c st id
    let o := fld (mbxWord s 1) 31 0
    let n := fld (mbxWord s 1) 47 32
    let v := (mbxWord s 1).toNat
    let live := s.hrt.owner.countP (fun k => !k.revoked)
    (go 0x30 → (n = 0 ∨ 1008 < n ∨ 65536 < o + n → no .settingsRead 2) ∧
      (0 < n → n ≤ 1008 → o + n ≤ 65536 → Completes .settingsRead s fun t => t.hrt.resp = some (head 0 ++
        (List.range n).map (fun i => settingsByte s (o + i))) ∧ t = { s with hrt := { s.hrt with resp := t.hrt.resp } })) ∧
    (go 0x31 → (n ≠ 0 → 1008 < n ∨ o < 64 ∨ 65536 < o + n → no .settingsWrite 2) ∧
      (n = 0 → mbxFlag s 0 = false → no .settingsWrite 2) ∧
      (0 < n → n ≤ 1008 → 64 ≤ o → o + n ≤ 65536 → Completes .settingsWrite s fun t => t.hrt.resp = some (head 0) ∧
        (∀ i, i < n → mfind t.hrt.staged (o + i) = (blockData s)[i]?) ∧
        (∀ b, b < o ∨ o + n ≤ b → mfind t.hrt.staged b = mfind s.hrt.staged b) ∧
        t.hrt.set0 = s.hrt.set0 ∧ t.hrt.set1 = s.hrt.set1 ∧ t.hrt.inUse = s.hrt.inUse) ∧
      (n = 0 → mbxFlag s 0 = true → Completes .settingsWrite s fun t => t.hrt.resp = some (head 0) ∧ t.hrt.staged = [] ∧
        t.hrt.inUse = s.hrt.inUse ∧ (∀ c, setNow s.hrt = some c → ∃ d, setNow t.hrt = some d ∧ d.seq = c.seq + 1 ∧
          ∀ i, i < c.data.length → byteAt d.data i = (mfind s.hrt.staged (64 + i)).getD (byteAt c.data i)))) ∧
    (go 0x40 → let m := mbxBytes s 104
      (s.hrt.locked = true ∨ 4 ≤ s.hrt.owner.length → no .ownerAddKey 3) ∧
      (s.hrt.locked = false → s.hrt.owner.length < 4 → does .ownerAddKey 0 fun h => { h with
        owner := h.owner ++ [⟨(m.drop 8).take 64, false⟩]
        ownerRoot := if s.hrt.owner = [] then (m.drop 72).take 32 else h.ownerRoot })) ∧
    (go 0x41 → (s.hrt.owner[v]? = none → no .ownerRevokeKey 2) ∧
      (∀ k, s.hrt.owner[v]? = some k → (k.revoked = true → no .ownerRevokeKey 0) ∧
        (k.revoked = false → live = 1 → no .ownerRevokeKey 3) ∧
        (k.revoked = false → 1 < live → does .ownerRevokeKey 0 fun h => { h with
          owner := h.owner.set v { k with revoked := true } }))) ∧
    (go 0x42 → (ownerState s ≠ 1 → no .ownerLock 3) ∧
      (ownerState s = 1 → does .ownerLock 0 (fun h => { h with locked := true }) ∧
        Completes .ownerLock s fun t => ownerState t = 2 ∧ rfld t R.GLB_BOOT_STAT 0 51 50 = 2)) ∧
    (go 0x43 → (63 < v ∨ v < s.hrt.ownerSvn → no .ownerSvn 2) ∧
      (v ≤ 63 → s.hrt.ownerSvn ≤ v → does .ownerSvn 0 fun h => { h with ownerSvn := v })) ∧
    (go 0x50 → Completes .secureCount s fun t => t.hrt.resp = some (head 0) ∧
      rbit t R.GAU_PRIV 0 0 = mbxFlag s 0 ∧ RegsBut [adr R.GAU_PRIV 0] s t ∧ t = { s with regs := t.regs, hrt := t.hrt }) ∧
    (go 0x60 → (n = 0 ∨ 1008 < n ∨ (o ≠ 0 ∧ o ≠ s.hrt.cert1.length) → no .certInstall 2) ∧
      (0 < n → n ≤ 1008 → o = s.hrt.cert1.length → does .certInstall 0 fun h => { h with cert1 := h.cert1 ++ blockData s }) ∧
      (0 < n → n ≤ 1008 → o = 0 → does .certInstall 0 fun h => { h with cert1 := blockData s })) ∧
    (go 0x61 → Completes .getCsr s fun t => t.hrt.resp = some (head 0 ++ (Config.aliasCsr s.hrt.fw.digest).take 1016) ∧
      t = { s with hrt := { s.hrt with resp := t.hrt.resp } }) ∧
    (go 0x70 → does .reset 0 fun h => { h with after := some .reset }) ∧
    (let reply (c : Instr) (k : Nat) (p : Bytes → Prop) : Prop :=
       (s.mgmtDown = true → Completes c s fun t => t.out = .spdm k true [] :: s.out ∧
         t = { s with out := t.out, freeCtr := t.freeCtr }) ∧
       (s.mgmtDown = false → stage s = 3 → Completes c s fun t => ∃ body, t.out = .spdm k false body :: s.out ∧ p body ∧
         t = { s with out := t.out, freeCtr := t.freeCtr });
     let signed (body : Bytes) (nonce : BitVec 256) (first : Bytes) : Prop := ∃ fresh last, fresh.length = 32 ∧
       body = first ++ fresh ++ last ++ aliasSign s (beBytes 32 nonce.toNat ++ (first ++ fresh ++ last));
     reply .getVersion 0 (fun b => b = [0x12, 0x13]) ∧ reply .getCapabilities 1 (fun _ => True) ∧
     reply .negotiateAlgorithms 2 (fun _ => True) ∧
     reply .getDigests 3 (fun b => s.hrt.cert1 = [] → b = 1 :: Config.sha3 (certSlot s 0)) ∧
     (∀ slot off len, reply (.getCertificate slot off len) 4 fun b => b = ((certSlot s slot).drop off).take len) ∧
     (∀ slot nonce, reply (.challenge slot nonce) 5 fun b => signed b nonce (Config.sha3 (certSlot s slot))) ∧
     (∀ idx nonce, idx ≠ 255 → reply (.getMeasurements idx nonce) 6 fun b => signed b nonce (measurement s idx)) ∧
     (∀ nonce, reply (.getMeasurements 255 nonce) 6 fun b => signed b nonce (measurementIds.flatMap (measurement s))) ∧
     certSlot s 1 = s.hrt.cert1)

/-- R393, R396, R497 to R503, R547, R550 to R555: resets and pins. A reset puts every block at its reset state and
leaves the flash, the fuses and the queue; it ends in a start-up from the slot that verifies, or in recovery, with its
CAUSE. GPIO outputs follow GLB_GPIO, the TAP resets, and a link trains only with its PERST high. That a command whose
condition does not hold changes nothing is the model's choice (log 2) where no rule says it is ignored. -/
def Obligations.ResetsAndPins : Prop :=
  ∀ s : State,
    let fuses (t : State) : Prop := t.pending = s.pending ∧ t.hrt.flash = s.hrt.flash ∧ t.hrt.owner = s.hrt.owner ∧
      t.hrt.locked = s.hrt.locked ∧ t.hrt.vendorSvn = s.hrt.vendorSvn ∧ t.hrt.ownerSvn = s.hrt.ownerSvn
    let blocks (t : State) : Prop := t.regs = [] ∧ t.tau = State.reset.tau ∧ t.sen = State.reset.sen ∧
      t.lkp = State.reset.lkp ∧ t.tcam = State.reset.tcam ∧ t.tmg = State.reset.tmg ∧ t.bpm = State.reset.bpm ∧
      t.fab = State.reset.fab ∧ t.cph = State.reset.cph ∧ t.hif = State.reset.hif ∧ t.csq = State.reset.csq ∧
      t.err = State.reset.err ∧ t.gau = State.reset.gau ∧ t.liu = State.reset.liu ∧ t.ppu = State.reset.ppu
    Completes .porstAssert s (fun t => fuses t ∧ blocks t ∧ t.hrt.running = none ∧
      t.pins = { s.pins with resetDue := some 0 }) ∧
    Completes .sysrstAssert s (fun t => fuses t ∧ blocks t ∧ t.hrt.running = none ∧
      t.pins = { s.pins with resetDue := some (if s.pins.resetDue = some 0 then 0 else 1) }) ∧
    (∀ boot,
      (s.pins.resetDue = none ∨ (s.pins.resetDue = some 0 ∧ s.pins.pg ≠ 31) → exec (.deviceReset boot) s = .next s) ∧
      (∀ cause, s.pins.resetDue = some cause → cause < 4 → (cause = 0 → s.pins.pg = 31) →
        let r := withPins (fun p => { p with resetDue := none }) (resetBlocks cause s)
        let ch := chooseSlot r (fun k => if k = 0 then boot.badA else boot.badB)
        Completes (.deviceReset boot) s fun t => fuses t ∧ t.pins = { s.pins with resetDue := none } ∧
          t.hrt.running = ch.slot ∧ rfld t R.GLB_BOOT_STAT 0 49 48 = cause ∧
          rfld t R.GLB_BOOT_STAT 0 55 52 = ch.reason % 16 ∧ t.tau.mono = 0 ∧ t.sen = State.reset.sen ∧
          (ch.slot = none → stage t = 4 ∧ t.bridgeUp = false) ∧ (ch.slot ≠ none → stage t = 3 ∧ t.bridgeUp = true))) ∧
    (∀ k : PgInput, let pg (n : Nat) : State := { s with pins := { s.pins with pg := n } }
      exec (.pgInputRise k) s = .next (pg (s.pins.pg ||| 2 ^ k.val)) ∧
      exec (.pgInputFall k) s = .next (pg (s.pins.pg &&& (31 - 2 ^ k.val)))) ∧
    exec .tapReset s = .next { s with pins := { s.pins with tap := 0 } } ∧
    (∀ v, Completes (.gpioWrite v) s fun t => rfld t R.GLB_GPIO 0 31 16 = fld v 31 16 ∧
      rfld t R.GLB_GPIO 0 47 32 = fld v 47 32 ∧ t.out = .gpio (fld v 31 16) (fld v 47 32) :: s.out ∧
      RegsBut [adr R.GLB_GPIO 0] s t ∧ t = { s with regs := t.regs, out := t.out }) ∧
    (∀ l : PciLink, let o := 32 * l.val
      let has := l.val = 0 ∨ rbit s R.HIF_LINK_STAT 0 63 = true
      let low (t : State) : Bool := if l.val = 0 then t.pins.perst0 else t.pins.perst1
      let up (t : State) : Bool := rbit t R.HIF_LINK_STAT 0 (5 + o)
      let only (t : State) : Prop := RegsBut [adr R.HIF_LINK_STAT 0] s t
      (has → Completes (.pcieLinkDown l) s fun t => up t = false ∧ rfld t R.HIF_LINK_STAT 0 (15 + o) (12 + o) = 0 ∧
        only t ∧ t = { s with regs := t.regs }) ∧
      (¬ has → exec (.pcieLinkDown l) s = .next s) ∧
      (has → Completes (.perstAssert l) s fun t => up t = false ∧ low t = true ∧ only t ∧
        t = { s with regs := t.regs, pins := t.pins }) ∧
      (¬ has → Completes (.perstAssert l) s fun t => low t = true ∧ t = { s with pins := t.pins }) ∧
      Completes (.perstDeassert l) s (fun t => low t = false ∧ t = { s with pins := t.pins }) ∧
      (∀ speed width flit, (has → low s = false → 2 ≤ stage s → Completes (.pcieLinkUp l speed width flit) s fun t =>
          up t = true ∧ rfld t R.HIF_LINK_STAT 0 (15 + o) (12 + o) = clampTo 1 6 speed ∧
          rfld t R.HIF_LINK_STAT 0 (11 + o) (7 + o) =
            clampTo 1 (if rbit s R.HIF_LINK_STAT 0 63 = true then 8 else 16) width ∧
          only t ∧ t = { s with regs := t.regs }) ∧
        (¬ has ∨ low s = true ∨ stage s < 2 → exec (.pcieLinkUp l speed width flit) s = .next s)))

/-! ### The run -/

/-- What a step does: the command at the front of the queue is carried out on the state with the queue's rest. On an
empty queue the block idles, which is this model's own choice (log 1). -/
def Obligations.StepTakesTheFrontCommand : Prop :=
  (∀ (c : Instr) (q : List Instr) (s : State),
    step { s with pending := c :: q } = exec c { s with pending := q }) ∧
  ∀ s : State, step { s with pending := [] } = .next { s with pending := [] }

/-- The state after reset meets the invariant, and no command waits in it. -/
def Obligations.ResetMeetsTheInvariant : Prop := Inv State.reset ∧ State.reset.pending = []

/-- Every command of the table completes from every state: none stops the block. It leaves the commands that wait as
they are, in their order. -/
def Obligations.CommandsCompleteAndLeaveTheQueue : Prop :=
  ∀ (c : Instr) (s : State), ∃ t, exec c s = .next t ∧ t.pending = s.pending

/-- Every step keeps the invariant: the register file lists each register at most once, in rising order, and every
command that waits is well formed. -/
def Obligations.StepsKeepTheInvariant : Prop := ∀ s t : State, Inv s → step s = .next t → Inv t
end

