-- ==== Sys2Proof/Laws/Map.lean ====
section
/-! SUPPORT. What reading a sparse map gives after a write or a removal, and that both keep the keys rising and, for a
map with a reading of its unlisted keys, the canonical form. -/

namespace Sys2Proof.Laws
open Sys2Proof Sys2Proof.Machine

variable {α : Type}

@[simp] theorem mfind_nil (k : Nat) : mfind ([] : SMap α) k = none := rfl

@[simp] theorem mget_nil (d : α) (k : Nat) : mget d [] k = d := rfl

theorem mfind_mput (m : SMap α) (k j : Nat) (v : α) :
    mfind (mput m k v) j = if j = k then some v else mfind m j := by
  induction m with
  | nil => grind [mput, mfind]
  | cons e t ih =>
    obtain ⟨i, u⟩ := e
    grind [mput, mfind]

theorem mfind_mdel (m : SMap α) (k j : Nat) : mfind (mdel m k) j = if j = k then none else mfind m j := by
  induction m with
  | nil => simp [mdel]
  | cons e t ih =>
    obtain ⟨i, u⟩ := e
    simp only [mdel]
    split_ifs with h1 h2 h3 <;> simp_all [mfind]
    all_goals (intro h; simp_all)

@[simp] theorem mfind_mput_self (m : SMap α) (k : Nat) (v : α) : mfind (mput m k v) k = some v := by
  simp [mfind_mput]

/-- Of two writes to one key the later stands. -/
theorem mput_mput (m : SMap α) (k : Nat) (v w : α) : mput (mput m k v) k w = mput m k w := by
  induction m with
  | nil => simp [mput]
  | cons e t ih =>
    obtain ⟨i, u⟩ := e
    simp only [mput]
    split_ifs with h1 h2 <;> simp [mput, h1, ih]
    exact fun h => absurd h h2

theorem mfind_mput_ne (m : SMap α) {k j : Nat} (v : α) (h : j ≠ k) : mfind (mput m k v) j = mfind m j := by
  simp [mfind_mput, h]

variable [DecidableEq α]

theorem mget_mset (d : α) (m : SMap α) (k j : Nat) (v : α) :
    mget d (mset d m k v) j = if j = k then v else mget d m j := by
  unfold mset mget
  split_ifs with h1 h2 h2 <;> simp_all [mfind_mput, mfind_mdel]

@[simp] theorem mget_mset_self (d : α) (m : SMap α) (k : Nat) (v : α) : mget d (mset d m k v) k = v := by
  simp [mget_mset]

theorem mget_mset_ne (d : α) (m : SMap α) {k j : Nat} (v : α) (h : j ≠ k) :
    mget d (mset d m k v) j = mget d m j := by simp [mget_mset, h]

theorem mget_mmod (d : α) (m : SMap α) (k j : Nat) (f : α → α) :
    mget d (mmod d m k f) j = if j = k then f (mget d m k) else mget d m j := mget_mset d m k j _

omit [DecidableEq α] in
theorem mget_mput (d : α) (m : SMap α) (k j : Nat) (v : α) :
    mget d (mput m k v) j = if j = k then v else mget d m j := by
  unfold mget; rw [mfind_mput]; split_ifs <;> rfl

omit [DecidableEq α] in
theorem mget_mdel (d : α) (m : SMap α) (k j : Nat) :
    mget d (mdel m k) j = if j = k then d else mget d m j := by
  unfold mget; rw [mfind_mdel]; split_ifs <;> rfl

/-! ### The canonical form -/

omit [DecidableEq α] in
theorem risingFrom_weaken {lo hi : Nat} (h : lo ≤ hi) (m : SMap α) (r : risingFrom hi m = true) :
    risingFrom lo m = true := by
  cases m with
  | nil => rfl
  | cons e t =>
    simp only [risingFrom, Bool.and_eq_true, decide_eq_true_eq] at r ⊢
    exact ⟨le_trans h r.1, r.2⟩

omit [DecidableEq α] in
theorem risingFrom_mput {lo : Nat} (m : SMap α) (k : Nat) (v : α) (hk : lo ≤ k) (r : risingFrom lo m = true) :
    risingFrom lo (mput m k v) = true := by
  induction m generalizing lo with
  | nil => simpa [mput, risingFrom] using hk
  | cons e t ih =>
    obtain ⟨i, u⟩ := e
    simp only [risingFrom, Bool.and_eq_true, decide_eq_true_eq] at r
    simp only [mput]
    split_ifs with h1 h2
    · simp [risingFrom, hk, r.2]; omega
    · subst h2; simp [risingFrom, r.1, r.2]
    · simp only [risingFrom, Bool.and_eq_true, decide_eq_true_eq]
      exact ⟨r.1, ih (by omega) r.2⟩

omit [DecidableEq α] in
theorem risingFrom_mdel {lo : Nat} (m : SMap α) (k : Nat) (r : risingFrom lo m = true) :
    risingFrom lo (mdel m k) = true := by
  induction m generalizing lo with
  | nil => rfl
  | cons e t ih =>
    obtain ⟨i, u⟩ := e
    simp only [risingFrom, Bool.and_eq_true, decide_eq_true_eq] at r
    simp only [mdel]
    split_ifs with h
    · exact ih (risingFrom_weaken (by omega) t r.2)
    · simp only [risingFrom, Bool.and_eq_true, decide_eq_true_eq]
      exact ⟨r.1, ih r.2⟩

omit [DecidableEq α] in
theorem all_mput (m : SMap α) (k : Nat) (v : α) (p : Nat × α → Bool) (hv : p (k, v) = true)
    (h : m.all p = true) : (mput m k v).all p = true := by
  induction m with
  | nil => simpa [mput] using hv
  | cons e t ih =>
    obtain ⟨i, u⟩ := e
    simp only [List.all_cons, Bool.and_eq_true] at h
    simp only [mput]
    split_ifs <;> simp only [List.all_cons, Bool.and_eq_true, hv, h, true_and, and_self]
    exact ih h.2

omit [DecidableEq α] in
theorem all_mdel (m : SMap α) (k : Nat) (p : Nat × α → Bool) (h : m.all p = true) :
    (mdel m k).all p = true := by
  induction m with
  | nil => rfl
  | cons e t ih =>
    obtain ⟨i, u⟩ := e
    simp only [List.all_cons, Bool.and_eq_true] at h
    simp only [mdel]
    split_ifs
    · exact ih h.2
    · simp only [List.all_cons, Bool.and_eq_true]; exact ⟨h.1, ih h.2⟩

/-- Every write keeps the canonical form of a map. -/
theorem mwf_mset (d : α) (m : SMap α) (k : Nat) (v : α) (h : mwf d m = true) : mwf d (mset d m k v) = true := by
  simp only [mwf, Bool.and_eq_true] at h ⊢
  unfold mset
  split_ifs with hv
  · exact ⟨risingFrom_mdel m k h.1, all_mdel m k _ h.2⟩
  · exact ⟨risingFrom_mput m k v (Nat.zero_le k) h.1, all_mput m k v _ (by simpa using hv) h.2⟩

end Sys2Proof.Laws
end

