-- ==== Sys2Proof/Laws/Regs.lean ====
section
/-! SUPPORT. What reading a register, a bit field, a thread or a course gives after a write to one; what raising an MSI-X
vector does, and the bound of the mark cache. -/

namespace Sys2Proof.Laws
open Sys2Proof Sys2Proof.Machine

@[simp] theorem rget_rset_self (s : State) (r : Reg) (i : Nat) (v : Word) : rget (rset s r i v) r i = v := by
  unfold rget rset
  dsimp only
  split
  · next h => simp [mfind_mdel, h]
  · simp

theorem rget_rset_ne {r' r : Reg} {j i : Nat} (h : regAddr r' j ≠ regAddr r i) (s : State) (v : Word) :
    rget (rset s r i v) r' j = rget s r' j := by
  unfold rget rset
  dsimp only
  split <;> simp [mfind_mdel, mfind_mput, h]

theorem fmask_testBit (hi lo i : Nat) (h : hi < 64) (hl : lo ≤ hi) :
    (fmask hi lo).getLsbD i = (decide (lo ≤ i) && decide (i ≤ hi)) := by
  unfold fmask
  simp only [BitVec.getLsbD_ofNat, Nat.testBit_shiftLeft, Nat.testBit_two_pow_sub_one]
  by_cases h1 : lo ≤ i <;> by_cases h2 : i ≤ hi <;> simp [h1, h2] <;> omega

theorem setFld_getLsbD (w : Word) (hi lo v i : Nat) (h : hi < 64) (hl : lo ≤ hi) :
    (setFld w hi lo v).getLsbD i =
      if lo ≤ i ∧ i ≤ hi then v.testBit (i - lo) else w.getLsbD i := by
  unfold setFld
  by_cases hi64 : i < 64
  · simp only [BitVec.getLsbD_or, BitVec.getLsbD_and, BitVec.getLsbD_not, fmask_testBit hi lo i h hl,
      BitVec.getLsbD_ofNat, Nat.testBit_shiftLeft, Nat.testBit_mod_two_pow, hi64, decide_true, Bool.true_and]
    by_cases h1 : lo ≤ i <;> by_cases h2 : i ≤ hi <;> simp [h1, h2]
    · have : i - lo < hi + 1 - lo := by omega
      simp [this]
    · intro h3; omega
  · have : ¬ (lo ≤ i ∧ i ≤ hi) := by omega
    simp [this, BitVec.getLsbD_of_ge _ _ (Nat.le_of_not_lt hi64)]

theorem fld_testBit (w : Word) (hi lo i : Nat) :
    (fld w hi lo).testBit i = (decide (i < hi + 1 - lo) && w.getLsbD (lo + i)) := by
  unfold fld
  simp [Nat.testBit_mod_two_pow, Nat.testBit_shiftRight, BitVec.getLsbD]

@[simp] theorem fld_setFld_self (w : Word) (hi lo v : Nat) (h : hi < 64) (hl : lo ≤ hi) :
    fld (setFld w hi lo v) hi lo = v % 2 ^ (hi + 1 - lo) := by
  apply Nat.eq_of_testBit_eq
  intro i
  rw [fld_testBit, setFld_getLsbD _ _ _ _ _ h hl, Nat.testBit_mod_two_pow]
  by_cases h1 : i < hi + 1 - lo
  · have : lo ≤ lo + i ∧ lo + i ≤ hi := by omega
    simp [h1, this]
  · simp [h1]

theorem fld_setFld_ne (w : Word) {hi lo hi' lo' : Nat} (v : Nat) (h : hi < 64) (hl : lo ≤ hi)
    (hd : hi' < lo ∨ hi < lo') : fld (setFld w hi lo v) hi' lo' = fld w hi' lo' := by
  apply Nat.eq_of_testBit_eq
  intro i
  rw [fld_testBit, fld_testBit, setFld_getLsbD _ _ _ _ _ h hl]
  by_cases h1 : i < hi' + 1 - lo'
  · have : ¬ (lo ≤ lo' + i ∧ lo' + i ≤ hi) := by omega
    simp [h1, this]
  · simp [h1]

theorem bit_setFld_ne (w : Word) {hi lo b : Nat} (v : Nat) (h : hi < 64) (hl : lo ≤ hi)
    (hd : b < lo ∨ hi < b) : bit (setFld w hi lo v) b = bit w b := by
  have := setFld_getLsbD w hi lo v b h hl
  have h1 : ¬ (lo ≤ b ∧ b ≤ hi) := by omega
  simpa [bit, BitVec.getLsbD, h1] using this

theorem bit_setFld_bit (w : Word) (b v : Nat) (h : b < 64) : bit (setFld w b b v) b = v.testBit 0 := by
  have := setFld_getLsbD w b b v b h (Nat.le_refl b)
  simpa [bit, BitVec.getLsbD] using this

theorem fld_lt (w : Word) (hi lo : Nat) : fld w hi lo < 2 ^ (hi + 1 - lo) :=
  Nat.mod_lt _ (Nat.two_pow_pos _)

theorem rfld_rsetF_self (s : State) (r : Reg) (i hi lo v : Nat) (h : hi < 64) (hl : lo ≤ hi) :
    rfld (rsetF s r i hi lo v) r i hi lo = v % 2 ^ (hi + 1 - lo) := by
  simp [rfld, rsetF, h, hl]

theorem rget_rsetF_self (s : State) (r : Reg) (i hi lo v : Nat) :
    rget (rsetF s r i hi lo v) r i = setFld (rget s r i) hi lo v := by simp [rsetF]

theorem rget_rsetF_ne {r' r : Reg} {j i : Nat} (h : regAddr r' j ≠ regAddr r i) (s : State) (hi lo v : Nat) :
    rget (rsetF s r i hi lo v) r' j = rget s r' j := rget_rset_ne h s _

theorem rfld_rset_ne {r' r : Reg} {j i : Nat} (h : regAddr r' j ≠ regAddr r i) (s : State) (v : Word) (hi lo : Nat) :
    rfld (rset s r i v) r' j hi lo = rfld s r' j hi lo := by simp [rfld, rget_rset_ne h]

@[simp] theorem thr_setThr_self (s : State) (k : Nat) (t : Thread) : thr (setThr s k t) k = t := by
  simp [thr, setThr]

theorem thr_setThr_ne (s : State) {k j : Nat} (t : Thread) (h : j ≠ k) : thr (setThr s k t) j = thr s j := by
  simp [thr, setThr, mget_mset, h]

@[simp] theorem course_setCourse_self (s : State) (c : Nat) (x : CourseSt) : course (setCourse s c x) c = x := by
  simp [course, setCourse]

theorem course_setCourse_ne (s : State) {c d : Nat} (x : CourseSt) (h : d ≠ c) :
    course (setCourse s c x) d = course s d := by simp [course, setCourse, mget_mset, h]

theorem greg_gset (t : Thread) (i j : Nat) (v : Word) :
    greg (gset t i v) j = if j = i ∧ j ≠ 0 ∧ j ≤ 31 then v else greg t j := by
  unfold greg gset
  split_ifs <;> simp_all [mget_mset] <;> omega

/-- R434: a vector that is raised goes out, or waits as a pending bit where it is masked, and nothing else changes. -/
theorem msixRaise_says (fn v : Nat) (s : State) :
    let t := msixRaise fn v s
    (if (fn, v) ∈ s.err.masked then (fn, v) ∈ t.err.msixPend ∧ t.out = s.out
      else t.out = .msix fn v :: s.out ∧ t.err = s.err) ∧
    t = { s with err := { s.err with msixPend := t.err.msixPend }, out := t.out } := by
  by_cases h : (fn, v) ∈ s.err.masked <;> simp [msixRaise, emit, h]

/-- R414: the mark cache never holds more than 16,384 words. -/
theorem capMarks_length (h : Hif) : (capMarks h).marks.length ≤ 16384 := by
  simp [capMarks]; omega

end Sys2Proof.Laws
end

