-- ==== Sys2Proof/Laws/Issue.lean ====
section
/-! SUPPORT. What an instruction that issues does, said once: from the conditions of `Issues` to the meaning's body, and
from a body that writes a register, or leaves a thread, to the terms of the claims. -/

namespace Sys2Proof.Laws
open Sys2Proof Sys2Proof.Machine

/-- An issue takes its engine's slot and counts it, and nothing else. -/
theorem slotUsed_eq (th : ThreadRef) (s : State) : slotUsed (thrKey th) 2 s = slotTaken s th := rfl

/-- Replacing one thread's context after its slot is taken changes that thread, its engine and the Gauge alone. -/
theorem thrOnly_of {s : State} {th : ThreadRef} (x : Thread) :
    ThreadOnly s (setThr (slotUsed (thrKey th) 2 s) (thrKey th) x) th 1 (slotGau s th) := by
  rw [slotUsed_eq]
  exact ⟨rfl, fun j hj => thr_setThr_ne _ _ hj⟩

/-- Where the conditions of `Issues` hold, `issue` runs the body on the thread as counted. -/
theorem issue_ok {s : State} {th : ThreadRef} {op : Nat} {ok : Word → Bool} {okp : Word → Prop} {body}
    (h : Issues s th op okp) (hk : okp (thrWord s (thrKey th)) → ok (thrWord s (thrKey th)) = true) :
    issue th op ok body s = body (thrKey th) (counted s th) (slotUsed (thrKey th) 2 s) := by
  obtain ⟨h1, h2, h3, h4, h5, h6, h7, h8⟩ := h
  unfold issue
  have := hk h5
  simp only [ctx, counted] at *
  have hl : ¬ ((thrBank s (thrKey th)).length ≤ (thr s (thrKey th)).pc) := by omega
  have hm : ¬ s.tau.mono < (thr s (thrKey th)).start := by omega
  subst h4
  simp [h1, this, h6, h7, h8, hl, hm]

/-- Where an instruction must wait, its thread enters Waiting and nothing issues. -/
theorem issue_waits {s : State} {th : ThreadRef} {op : Nat} {ok : Word → Bool} {body}
    (h1 : (ctx s th).st = .ready) (h2 : (ctx s th).start ≤ s.tau.mono)
    (h3 : opcodeOf (thrWord s (thrKey th)) = op ∧ ok (thrWord s (thrKey th)) = true) (h4 : heldBack s (thrKey th) = true) :
    issue th op ok body s = setThr s (thrKey th)
      { ctx s th with st := .waiting, waitTags := useTags (ctx s th) (nextUse s (thrKey th)),
                      waitFrame := (nextUse s (thrKey th)).frame && !(ctx s th).pkt.complete,
                      since := s.tau.mono, lastPc := (ctx s th).pc } := by
  unfold issue
  simp only [ctx] at *
  have hm : ¬ s.tau.mono < (thr s (thrKey th)).start := by omega
  simp [h1, hm, h3, h4]

/-- An instruction that need not wait, and whose turn it is not, does nothing. -/
theorem issue_idle {s : State} {th : ThreadRef} {op : Nat} {ok : Word → Bool} {body}
    (h4 : heldBack s (thrKey th) = false) (h5 : turn s (thrKey th) = false) : issue th op ok body s = s := by
  unfold issue
  simp [h4, h5]

/-- A program counter at or beyond the image raises 3, unless a spent budget raises 1 or 9 before it (R117). -/
theorem issue_beyond {s : State} {th : ThreadRef} {op : Nat} {ok : Word → Bool} {body}
    (h1 : (ctx s th).st = .ready) (h2 : (ctx s th).start ≤ s.tau.mono) (h3 : turn s (thrKey th) = true)
    (h4 : (thrBank s (thrKey th)).length ≤ (ctx s th).pc) :
    issue th op ok body s = raiseExc (thrKey th)
      (if budgetGone s (ctx s th) (decide (opcodeOf (thrWord s (thrKey th)) = 0x78)) then
        (if (ctx s th).svc then 9 else 1) else 3) s := by
  have hb : heldBack s (thrKey th) = false := by
    simp only [heldBack, unissuable]; simp [show (thrBank s (thrKey th)).length ≤ (thr s (thrKey th)).pc from h4]
  unfold issue
  simp only [ctx] at *
  have hm : ¬ s.tau.mono < (thr s (thrKey th)).start := by omega
  have hl : ¬ (thr s (thrKey th)).pc < (thrBank s (thrKey th)).length := by omega
  simp only [h1, hm, hl, hb, h3, h4]
  by_cases hg : budgetGone s (thr s (thrKey th)) (decide (opcodeOf (thrWord s (thrKey th)) = 0x78)) = true <;> simp [hg]

/-- A meaning that ends with `gset` on the thread as counted writes that register. -/
theorem writesRd_of {c : Instr} {s : State} {th : ThreadRef} {rd : Nat} {v : Word}
    (h : exec c s = .next (setThr (slotUsed (thrKey th) 2 s) (thrKey th) (gset (counted s th) rd v))) :
    WritesRd c s th rd v := by
  refine ⟨_, h, thrOnly_of _, ?_, ?_⟩
  · intro i hi
    simp only [ctx, thr_setThr_self, greg_gset]
    simp [hi, countIssue, greg]
  · simp only [ctx, thr_setThr_self]
    unfold gset; split <;> rfl

/-- An instruction on its own thread that writes `rd`. -/
theorem local_rd {c : Instr} {s : State} {th : ThreadRef} {op rd : Nat} {v : Word} {okp : Word → Prop} {ok : Word → Bool}
    {f : Thread → Eff} (h : Issues s th op okp) (hk : okp (thrWord s (thrKey th)) → ok (thrWord s (thrKey th)) = true)
    (he : exec c s = .next (issueLocal th op ok f s)) (hf : f (counted s th) = .ok (gset (counted s th) rd v)) :
    WritesRd c s th rd v := by
  apply writesRd_of
  rw [he, issueLocal, issue_ok h hk, hf]; rfl

/-- Counting an issue leaves the registers. -/
theorem greg_count (m : Nat) (u : Use) (t : Thread) (i : Nat) : greg (countIssue m u t) i = greg t i := rfl

/-- A five-bit field is a register number. -/
theorem b5 (v : BitVec 5) : v.toNat ≤ 31 := by omega

/-- A meaning that ends with a new context leaves the thread with it. -/
theorem become_of {c : Instr} {s : State} {th : ThreadRef} {x : Thread}
    (h : exec c s = .next (setThr (slotUsed (thrKey th) 2 s) (thrKey th) x)) :
    ThreadBecomes c s th 1 (slotGau s th) x :=
  ⟨_, h, thrOnly_of _, by simp [ctx]⟩

/-- An instruction on its own thread that leaves it as `x`. -/
theorem local_become {c : Instr} {s : State} {th : ThreadRef} {op : Nat} {x : Thread} {okp : Word → Prop} {ok : Word → Bool}
    {f : Thread → Eff} (h : Issues s th op okp) (hk : okp (thrWord s (thrKey th)) → ok (thrWord s (thrKey th)) = true)
    (he : exec c s = .next (issueLocal th op ok f s)) (hf : f (counted s th) = .ok x) :
    ThreadBecomes c s th 1 (slotGau s th) x := by
  apply become_of
  rw [he, issueLocal, issue_ok h hk, hf]; rfl

/-- Counting an issue leaves the window. -/
theorem count_win (m : Nat) (u : Use) (t : Thread) : (countIssue m u t).pkt.win = t.pkt.win := by
  unfold countIssue; dsimp only; split <;> rfl

/-- Counting an issue leaves what a load reads. -/
theorem winLoad_count (m : Nat) (u : Use) (t : Thread) (o n : Nat) :
    winLoad (countIssue m u t).pkt o n = winLoad t.pkt o n := by
  simp only [winLoad, count_win]

/-- Counting an issue leaves a window offset. -/
theorem winOff_count (m : Nat) (u : Use) (t : Thread) (ra off) : winOff (countIssue m u t) ra off = winOff t ra off := rfl

/-- Where the conditions of `Issues` hold, a meaning over `issue` is its body. -/
theorem exec_issue {c : Instr} {s : State} {th : ThreadRef} {op : Nat} {ok : Word → Bool} {okp : Word → Prop} {body}
    (e : exec c s = .next (issue th op ok body s)) (h : Issues s th op okp)
    (hk : okp (thrWord s (thrKey th)) → ok (thrWord s (thrKey th)) = true) :
    exec c s = .next (body (thrKey th) (counted s th) (slotUsed (thrKey th) 2 s)) := by rw [e, issue_ok h hk]

/-- Taking an engine's slot twice keeps the later end. -/
theorem slotEng_two (s : State) (th : ThreadRef) :
    mset EngSt.init (slotEng s th 1) (engKey (thrKey th)) ⟨thrKey th % 8, s.tau.mono + 2⟩ = slotEng s th 2 := by
  have (n : Nat) : (⟨thrKey th % 8, s.tau.mono + (n + 1)⟩ : EngSt) ≠ EngSt.init := by
    intro h; injection h with _ h; omega
  simp only [slotEng, mset, this 0, this 1, if_false, mput_mput]

/-- A two-cycle instruction changes its thread, its engine and the Gauge alone. -/
theorem thrOnly_two {s : State} {th : ThreadRef} (x : Thread) :
    ThreadOnly s (secondCycle (thrKey th) (setThr (slotUsed (thrKey th) 2 s) (thrKey th) x)) th 2
      (secondCycle (thrKey th) (slotUsed (thrKey th) 2 s)).gau := by
  refine ⟨?_, fun j hj => thr_setThr_ne _ _ hj⟩
  rw [slotUsed_eq, ← slotEng_two]
  rfl

/-- A two-cycle instruction leaves its thread as the body has it. -/
theorem become_two {c : Instr} {s : State} {th : ThreadRef} {x : Thread}
    (h : exec c s = .next (secondCycle (thrKey th) (setThr (slotUsed (thrKey th) 2 s) (thrKey th) x))) :
    ThreadBecomes c s th 2 (secondCycle (thrKey th) (slotUsed (thrKey th) 2 s)).gau x :=
  ⟨_, h, thrOnly_two _, thr_setThr_self _ _ _⟩

/-- A branch goes to its target where its condition holds, and to the next address otherwise. -/
theorem branch_become {c : Instr} {s : State} {th : ThreadRef} {op : Nat} {f : FmtB} {q : Thread → Bool} {P : Prop}
    [Decidable P] (h : Issues s th op (fun w => asB w = f)) (he : exec c s = .next (branch th op f q s))
    (hq : q (counted s th) = true ↔ P) :
    ThreadBecomes c s th 1 (slotGau s th) { counted s th with pc := if P then f.target.toNat else (ctx s th).pc + 1 } := by
  refine local_become h (by simp) he ?_
  refine congrArg Eff.ok ?_
  by_cases hp : P
  · rw [if_pos (hq.2 hp)]; simp [hp]
  · rw [if_neg (fun e => hp (hq.1 e))]; simp [hp]; rfl

end Sys2Proof.Laws
end

