-- ==== Sys2Proof/Laws/Kept.lean ====
section
/-! SUPPORT. What every operation leaves as it found it, the queue and the rising order of the register file: the shared operations and the Stitch engines. -/

set_option linter.all false

namespace Sys2Proof.Laws
open Sys2Proof Sys2Proof.Machine

/-- What every command leaves as it found it: the queue of commands, and the rising order of the register file. -/
def Kept (s t : State) : Prop :=
  t.pending = s.pending ∧ (risingFrom 0 s.regs = true → risingFrom 0 t.regs = true)

/-- The same of an answer. -/
def KeptOut (s : State) (o : Out) : Prop := ∀ t, o = .next t → Kept s t

@[simp] theorem kept_refl (s : State) : Kept s s := ⟨rfl, id⟩

theorem kept_iff_self {s t : State} : Kept s t ↔
    t.pending = s.pending ∧ (risingFrom 0 s.regs = true → risingFrom 0 t.regs = true) := Iff.rfl

@[simp] theorem keptOut_next (s t : State) : KeptOut s (.next t) ↔ Kept s t :=
  ⟨fun h => h t rfl, fun h u e => by cases e; exact h⟩

/-- A state that differs outside the queue and the register file. -/
@[simp] theorem kept_mk {s x : State} (h : Kept s x)
    {a b c d e f g i j k l m n o p q r t u v w y z z'} :
    Kept s (State.mk x.pending x.regs a b c d e f g i j k l m n o p q r t u v w y z z') := h

@[simp] theorem kept_ite {s a b : State} {c : Prop} [Decidable c] (ha : Kept s a) (hb : Kept s b) :
    Kept s (if c then a else b) := by split <;> assumption

@[simp] theorem keptOut_ite {s : State} {a b : Out} {c : Prop} [Decidable c] (ha : KeptOut s a)
    (hb : KeptOut s b) : KeptOut s (if c then a else b) := by split <;> assumption

@[simp] theorem kept_ite_snd {s : State} {α : Type} {a b : α × State} {c : Prop} [Decidable c] (ha : Kept s a.2)
    (hb : Kept s b.2) : Kept s (if c then a else b).2 := by split <;> assumption

@[simp] theorem kept_foldl {α : Type} {s x : State} (l : List α) (f : State → α → State)
    (hx : Kept s x) (h : ∀ y a, Kept s y → Kept s (f y a)) : Kept s (l.foldl f x) := by
  induction l generalizing x with
  | nil => exact hx
  | cons a t ih => exact ih (h x a hx)

@[simp] theorem kept_elim {α : Type} {s x : State} (o : Option α) (f : α → State) (hx : Kept s x)
    (h : ∀ a, Kept s (f a)) : Kept s (o.elim x f) := by cases o <;> simp [hx, h]

@[simp] theorem kept_ite_st {s : State} {a b : Answer} {c : Prop} [Decidable c] (ha : Kept s a.st)
    (hb : Kept s b.st) : Kept s (if c then a else b).st := by split <;> assumption

@[simp] theorem Answer_ok_st (s : State) : (Answer.ok s).st = s := rfl
@[simp] theorem Answer_no_st (n : Nat) (s : State) : (Answer.no n s).st = s := rfl

@[simp] theorem rset_kept {s₀ : State} (s : State) (r : Reg) (i : Nat) (v : Word) (h : Kept s₀ s) :
    Kept s₀ (rset s r i v) := by
  refine ⟨h.1, fun hr => ?_⟩
  have := h.2 hr
  unfold rset
  dsimp only
  split
  · exact risingFrom_mdel _ _ this
  · exact risingFrom_mput _ _ _ (Nat.zero_le _) this

@[simp] theorem rsetF_kept {s₀ : State} (s : State) (r : Reg) (i hi lo v : Nat) (h : Kept s₀ s) :
    Kept s₀ (rsetF s r i hi lo v) := by
  unfold rsetF
  first
  | (simp +contextual (maxDischargeDepth := 60) [h]; done)
  | (try dsimp only); (repeat' (first | (simp +contextual (maxDischargeDepth := 60) [h]; done) | split))

@[simp] theorem rcount_kept {s₀ : State} (s : State) (r : Reg) (i hi lo n : Nat) (h : Kept s₀ s) :
    Kept s₀ (rcount s r i hi lo n) := by
  unfold rcount
  first
  | (simp +contextual (maxDischargeDepth := 60) [h]; done)
  | (try dsimp only); (repeat' (first | (simp +contextual (maxDischargeDepth := 60) [h]; done) | split))

@[simp] theorem emit_kept {s₀ : State} (e : OutEvent) (s : State) (h : Kept s₀ s) :
    Kept s₀ (emit e s) := by
  unfold emit
  first
  | (simp +contextual (maxDischargeDepth := 60) [h]; done)
  | (try dsimp only); (repeat' (first | (simp +contextual (maxDischargeDepth := 60) [h]; done) | split))

@[simp] theorem drawn_kept {s₀ : State} (s : State) (h : Kept s₀ s) :
    Kept s₀ (drawn s) := by
  unfold drawn
  first
  | (simp +contextual (maxDischargeDepth := 60) [h]; done)
  | (try dsimp only); (repeat' (first | (simp +contextual (maxDischargeDepth := 60) [h]; done) | split))

@[simp] theorem answer_kept {s₀ : State} (w : Word) (s : State) (h : Kept s₀ s) :
    Kept s₀ (answer w s) := by
  unfold answer
  first
  | (simp +contextual (maxDischargeDepth := 60) [h]; done)
  | (try dsimp only); (repeat' (first | (simp +contextual (maxDischargeDepth := 60) [h]; done) | split))

@[simp] theorem msixRaise_kept {s₀ : State} (fn v : Nat) (s : State) (h : Kept s₀ s) :
    Kept s₀ (msixRaise fn v s) := by
  unfold msixRaise
  first
  | (simp +contextual (maxDischargeDepth := 60) [h]; done)
  | (try dsimp only); (repeat' (first | (simp +contextual (maxDischargeDepth := 60) [h]; done) | split))

@[simp] theorem alertEdge_kept {s₀ : State} (s t : State) (h : Kept s₀ t) :
    Kept s₀ (alertEdge s t) := by
  unfold alertEdge
  first
  | (simp +contextual (maxDischargeDepth := 60) [h]; done)
  | (try dsimp only); (repeat' (first | (simp +contextual (maxDischargeDepth := 60) [h]; done) | split))

@[simp] theorem intSet_kept {s₀ : State} (k : Nat) (s : State) (h : Kept s₀ s) :
    Kept s₀ (intSet k s) := by
  unfold intSet
  first
  | (simp +contextual (maxDischargeDepth := 60) [h]; done)
  | (try dsimp only); (repeat' (first | (simp +contextual (maxDischargeDepth := 60) [h]; done) | split))

@[simp] theorem intNote_kept {s₀ : State} (k : Nat) (s : State) (h : Kept s₀ s) :
    Kept s₀ (intNote k s) := by
  unfold intNote
  first
  | (simp +contextual (maxDischargeDepth := 60) [h]; done)
  | (try dsimp only); (repeat' (first | (simp +contextual (maxDischargeDepth := 60) [h]; done) | split))

@[simp] theorem intRaise_kept {s₀ : State} (k : Nat) (s : State) (h : Kept s₀ s) :
    Kept s₀ (intRaise k s) := by
  unfold intRaise
  first
  | (simp +contextual (maxDischargeDepth := 60) [h]; done)
  | (try dsimp only); (repeat' (first | (simp +contextual (maxDischargeDepth := 60) [h]; done) | split))

@[simp] theorem unitSet_kept {s₀ : State} (s : State) (k u : Nat) (x : UnitSt) (h : Kept s₀ s) :
    Kept s₀ (unitSet s k u x) := by
  unfold unitSet
  first
  | (simp +contextual (maxDischargeDepth := 60) [h]; done)
  | (try dsimp only); (repeat' (first | (simp +contextual (maxDischargeDepth := 60) [h]; done) | split))

@[simp] theorem unitEvent_kept {s₀ : State} (k u tick : Nat) (s : State) (h : Kept s₀ s) :
    Kept s₀ (unitEvent k u tick s) := by
  unfold unitEvent
  first
  | (simp +contextual (maxDischargeDepth := 60) [h]; done)
  | (try dsimp only); (repeat' (first | (simp +contextual (maxDischargeDepth := 60) [h]; done) | split))

@[simp] theorem errRecord_kept {s₀ : State} (r : ErrRec) (s : State) (h : Kept s₀ s) :
    Kept s₀ (errRecord r s) := by
  unfold errRecord
  first
  | (simp +contextual (maxDischargeDepth := 60) [h]; done)
  | (try dsimp only); (repeat' (first | (simp +contextual (maxDischargeDepth := 60) [h]; done) | split))

@[simp] theorem errApply_kept {s₀ : State} (r : ErrRec) (tick : Nat) (s : State) (h : Kept s₀ s) :
    Kept s₀ (errApply r tick s) := by
  unfold errApply
  first
  | (simp +contextual (maxDischargeDepth := 60) [h]; done)
  | (try dsimp only); (repeat' (first | (simp +contextual (maxDischargeDepth := 60) [h]; done) | split))

@[simp] theorem errReport_kept {s₀ : State} (cls blk kind unit code : Nat) (detail : Word) (s : State) (h : Kept s₀
    s) :
    Kept s₀ (errReport cls blk kind unit code detail s) := by
  unfold errReport
  first
  | (simp +contextual (maxDischargeDepth := 60) [h]; done)
  | (try dsimp only); (repeat' (first | (simp +contextual (maxDischargeDepth := 60) [h]; done) | split))

@[simp] theorem cfgViolation_kept {s₀ : State} (blk off : Nat) (s : State) (h : Kept s₀ s) :
    Kept s₀ (cfgViolation blk off s) := by
  unfold cfgViolation
  first
  | (simp +contextual (maxDischargeDepth := 60) [h]; done)
  | (try dsimp only); (repeat' (first | (simp +contextual (maxDischargeDepth := 60) [h]; done) | split))

@[simp] theorem giveDuty_kept {s₀ : State} (w : DutyWork) (lo hi : Nat) (s : State) (h : Kept s₀ s) :
    Kept s₀ (giveDuty w lo hi s) := by
  unfold giveDuty
  first
  | (simp +contextual (maxDischargeDepth := 60) [h]; done)
  | (try dsimp only); (repeat' (first | (simp +contextual (maxDischargeDepth := 60) [h]; done) | split))

@[simp] theorem endDuty_kept {s₀ : State} (w : DutyWork) (s : State) (h : Kept s₀ s) :
    Kept s₀ (endDuty w s) := by
  unfold endDuty
  first
  | (simp +contextual (maxDischargeDepth := 60) [h]; done)
  | (try dsimp only); (repeat' (first | (simp +contextual (maxDischargeDepth := 60) [h]; done) | split))

@[simp] theorem occur_kept {s₀ : State} (blk code q n : Nat) (s : State) (h : Kept s₀ s) :
    Kept s₀ (occur blk code q n s) := by
  unfold occur
  first
  | (simp +contextual (maxDischargeDepth := 60) [h]; done)
  | (try dsimp only); (repeat' (first | (simp +contextual (maxDischargeDepth := 60) [h]; done) | split))

@[simp] theorem occurThr_kept {s₀ : State} (code q k : Nat) (s : State) (h : Kept s₀ s) :
    Kept s₀ (occurThr code q k s) := by
  unfold occurThr
  first
  | (simp +contextual (maxDischargeDepth := 60) [h]; done)
  | (try dsimp only); (repeat' (first | (simp +contextual (maxDischargeDepth := 60) [h]; done) | split))

@[simp] theorem setThr_kept {s₀ : State} (s : State) (k : Nat) (t : Thread) (h : Kept s₀ s) :
    Kept s₀ (setThr s k t) := by
  unfold setThr
  first
  | (simp +contextual (maxDischargeDepth := 60) [h]; done)
  | (try dsimp only); (repeat' (first | (simp +contextual (maxDischargeDepth := 60) [h]; done) | split))

@[simp] theorem setCourse_kept {s₀ : State} (s : State) (c : Nat) (x : CourseSt) (h : Kept s₀ s) :
    Kept s₀ (setCourse s c x) := by
  unfold setCourse
  first
  | (simp +contextual (maxDischargeDepth := 60) [h]; done)
  | (try dsimp only); (repeat' (first | (simp +contextual (maxDischargeDepth := 60) [h]; done) | split))

@[simp] theorem setBank_kept {s₀ : State} (s : State) (c : Nat) (b : Bool) (x : Bank) (h : Kept s₀ s) :
    Kept s₀ (setBank s c b x) := by
  unfold setBank
  first
  | (simp +contextual (maxDischargeDepth := 60) [h]; done)
  | (try dsimp only); (repeat' (first | (simp +contextual (maxDischargeDepth := 60) [h]; done) | split))

@[simp] theorem giveUpPlace_kept {s₀ : State} (pid : Nat) (s : State) (h : Kept s₀ s) :
    Kept s₀ (giveUpPlace pid s) := by
  unfold giveUpPlace
  first
  | (simp +contextual (maxDischargeDepth := 60) [h]; done)
  | (try dsimp only); (repeat' (first | (simp +contextual (maxDischargeDepth := 60) [h]; done) | split))

@[simp] theorem sendInbox_kept {s₀ : State} (c t source : Nat) (event : Word32) (pkt : Option Packet) (s : State) (h
    : Kept s₀ s) :
    Kept s₀ (sendInbox c t source event pkt s) := by
  unfold sendInbox
  first
  | (simp +contextual (maxDischargeDepth := 60) [h]; done)
  | (try dsimp only); (repeat' (first | (simp +contextual (maxDischargeDepth := 60) [h]; done) | split))

@[simp] theorem eventLine_kept {s₀ : State} (k : Nat) (ev : Word32) (s : State) (h : Kept s₀ s) :
    Kept s₀ (eventLine k ev s) := by
  unfold eventLine
  first
  | (simp +contextual (maxDischargeDepth := 60) [h]; done)
  | (try dsimp only); (repeat' (first | (simp +contextual (maxDischargeDepth := 60) [h]; done) | split))

@[simp] theorem reqsLeave_kept {s₀ : State} (k : Nat) (s : State) (h : Kept s₀ s) :
    Kept s₀ (reqsLeave k s) := by
  unfold reqsLeave
  first
  | (simp +contextual (maxDischargeDepth := 60) [h]; done)
  | (try dsimp only); (repeat' (first | (simp +contextual (maxDischargeDepth := 60) [h]; done) | split))

@[simp] theorem freeThr_kept {s₀ : State} (s : State) (k : Nat) (h : Kept s₀ s) :
    Kept s₀ (freeThr s k) := by
  unfold freeThr
  first
  | (simp +contextual (maxDischargeDepth := 60) [h]; done)
  | (try dsimp only); (repeat' (first | (simp +contextual (maxDischargeDepth := 60) [h]; done) | split))

@[simp] theorem mtuDrop_kept {s₀ : State} (port : Nat) (s : State) (h : Kept s₀ s) :
    Kept s₀ (mtuDrop port s) := by
  unfold mtuDrop
  first
  | (simp +contextual (maxDischargeDepth := 60) [h]; done)
  | (try dsimp only); (repeat' (first | (simp +contextual (maxDischargeDepth := 60) [h]; done) | split))

@[simp] theorem mtuTail_kept {s₀ : State} (pid : Nat) (s : State) (h : Kept s₀ s) :
    Kept s₀ (mtuTail pid s) := by
  unfold mtuTail
  first
  | (simp +contextual (maxDischargeDepth := 60) [h]; done)
  | (try dsimp only); (repeat' (first | (simp +contextual (maxDischargeDepth := 60) [h]; done) | split))

@[simp] theorem mapPkts_kept {s₀ : State} (f : Packet → Packet) (s : State) (h : Kept s₀ s) :
    Kept s₀ (mapPkts f s) := by
  unfold mapPkts
  first
  | (simp +contextual (maxDischargeDepth := 60) [h]; done)
  | (try dsimp only); (repeat' (first | (simp +contextual (maxDischargeDepth := 60) [h]; done) | split))

@[simp] theorem noteWas_kept {s₀ : State} (r : Reg) (i : Nat) (s : State) (h : Kept s₀ s) :
    Kept s₀ (noteWas r i s) := by
  unfold noteWas
  first
  | (simp +contextual (maxDischargeDepth := 60) [h]; done)
  | (try dsimp only); (repeat' (first | (simp +contextual (maxDischargeDepth := 60) [h]; done) | split))

@[simp] theorem hostStore_kept {s₀ : State} (lock : Bool) (r : Reg) (i : Nat) (v : Word) (s : State) (h : Kept s₀ s) :
    Kept s₀ (hostStore lock r i v s) := by
  unfold hostStore
  first
  | (simp +contextual (maxDischargeDepth := 60) [h]; done)
  | (try dsimp only); (repeat' (first | (simp +contextual (maxDischargeDepth := 60) [h]; done) | split))

@[simp] theorem qDieRecord_kept {s₀ : State} (off : Nat) (s : State) (h : Kept s₀ s) :
    Kept s₀ (qDieRecord off s) := by
  unfold qDieRecord
  first
  | (simp +contextual (maxDischargeDepth := 60) [h]; done)
  | (try dsimp only); (repeat' (first | (simp +contextual (maxDischargeDepth := 60) [h]; done) | split))

@[simp] theorem servedWrite_kept {s₀ : State} (off : Nat) (o : Out) (s : State) (ho : KeptOut s₀ o) (h : Kept s₀ s) :
    KeptOut s₀ (servedWrite off o s) := by
  unfold servedWrite
  split
  · simp +contextual (maxDischargeDepth := 60) [h]
  · exact ho

@[simp] theorem servedRead_kept {s₀ : State} (off : Nat) (o : Out) (s : State) (ho : KeptOut s₀ o) (h : Kept s₀ s) :
    KeptOut s₀ (servedRead off o s) := by
  unfold servedRead
  split
  · simp +contextual (maxDischargeDepth := 60) [h]
  · exact ho

@[simp] theorem withCph_kept {s₀ : State} (f : Cph → Cph) (s : State) (h : Kept s₀ s) :
    Kept s₀ (withCph f s) := by
  unfold withCph
  first
  | (simp +contextual (maxDischargeDepth := 60) [h]; done)
  | (try dsimp only); (repeat' (first | (simp +contextual (maxDischargeDepth := 60) [h]; done) | split))

@[simp] theorem cphNotice_kept {s₀ : State} (type low : Nat) (s : State) (h : Kept s₀ s) :
    Kept s₀ (cphNotice type low s) := by
  unfold cphNotice
  first
  | (simp +contextual (maxDischargeDepth := 60) [h]; done)
  | (try dsimp only); (repeat' (first | (simp +contextual (maxDischargeDepth := 60) [h]; done) | split))

@[simp] theorem execCphNotifyRead_kept {s₀ : State} (s : State) (h : Kept s₀ s) :
    KeptOut s₀ (execCphNotifyRead s) := by
  unfold execCphNotifyRead
  first
  | (simp +contextual (maxDischargeDepth := 60) [h]; done)
  | (try dsimp only); (repeat' (first | (simp +contextual (maxDischargeDepth := 60) [h]; done) | split))

@[simp] theorem withHif_kept {s₀ : State} (f : Hif → Hif) (s : State) (h : Kept s₀ s) :
    Kept s₀ (withHif f s) := by
  unfold withHif
  first
  | (simp +contextual (maxDischargeDepth := 60) [h]; done)
  | (try dsimp only); (repeat' (first | (simp +contextual (maxDischargeDepth := 60) [h]; done) | split))

@[simp] theorem setSlice_kept {s₀ : State} (n : Nat) (x : SliceSt) (s : State) (h : Kept s₀ s) :
    Kept s₀ (setSlice n x s) := by
  unfold setSlice
  first
  | (simp +contextual (maxDischargeDepth := 60) [h]; done)
  | (try dsimp only); (repeat' (first | (simp +contextual (maxDischargeDepth := 60) [h]; done) | split))

@[simp] theorem setRing_kept {s₀ : State} (k : Nat) (x : Ring) (s : State) (h : Kept s₀ s) :
    Kept s₀ (setRing k x s) := by
  unfold setRing
  first
  | (simp +contextual (maxDischargeDepth := 60) [h]; done)
  | (try dsimp only); (repeat' (first | (simp +contextual (maxDischargeDepth := 60) [h]; done) | split))

@[simp] theorem hostDrop_kept {s₀ : State} (sl : Nat) (s : State) (h : Kept s₀ s) :
    Kept s₀ (hostDrop sl s) := by
  unfold hostDrop
  first
  | (simp +contextual (maxDischargeDepth := 60) [h]; done)
  | (try dsimp only); (repeat' (first | (simp +contextual (maxDischargeDepth := 60) [h]; done) | split))

@[simp] theorem hostDeliver_kept {s₀ : State} (sl : Nat) (p : Packet) (s : State) (h : Kept s₀ s) :
    Kept s₀ (hostDeliver sl p s) := by
  unfold hostDeliver
  first
  | (simp +contextual (maxDischargeDepth := 60) [h]; done)
  | (try dsimp only); (repeat' (first | (simp +contextual (maxDischargeDepth := 60) [h]; done) | split))

@[simp] theorem dropThr_kept {s₀ : State} (k : Nat) (s : State) (h : Kept s₀ s) :
    Kept s₀ (dropThr k s) := by
  unfold dropThr
  first
  | (simp +contextual (maxDischargeDepth := 60) [h]; done)
  | (try dsimp only); (repeat' (first | (simp +contextual (maxDischargeDepth := 60) [h]; done) | split))

@[simp] theorem hostThr_kept {s₀ : State} (k sl : Nat) (s : State) (h : Kept s₀ s) :
    Kept s₀ (hostThr k sl s) := by
  unfold hostThr
  first
  | (simp +contextual (maxDischargeDepth := 60) [h]; done)
  | (try dsimp only); (repeat' (first | (simp +contextual (maxDischargeDepth := 60) [h]; done) | split))

@[simp] theorem haltThr_kept {s₀ : State} (k code : Nat) (s : State) (h : Kept s₀ s) :
    Kept s₀ (haltThr k code s) := by
  unfold haltThr
  first
  | (simp +contextual (maxDischargeDepth := 60) [h]; done)
  | (try dsimp only); (repeat' (first | (simp +contextual (maxDischargeDepth := 60) [h]; done) | split))

@[simp] theorem takeSlot_kept {s₀ : State} (k n : Nat) (s : State) (h : Kept s₀ s) :
    Kept s₀ (takeSlot k n s) := by
  unfold takeSlot
  first
  | (simp +contextual (maxDischargeDepth := 60) [h]; done)
  | (try dsimp only); (repeat' (first | (simp +contextual (maxDischargeDepth := 60) [h]; done) | split))

@[simp] theorem slotUsed_kept {s₀ : State} (k code : Nat) (s : State) (h : Kept s₀ s) :
    Kept s₀ (slotUsed k code s) := by
  unfold slotUsed
  first
  | (simp +contextual (maxDischargeDepth := 60) [h]; done)
  | (try dsimp only); (repeat' (first | (simp +contextual (maxDischargeDepth := 60) [h]; done) | split))

@[simp] theorem raiseExc_kept {s₀ : State} (k code : Nat) (s : State) (h : Kept s₀ s) :
    Kept s₀ (raiseExc k code s) := by
  unfold raiseExc
  first
  | (simp +contextual (maxDischargeDepth := 60) [h]; done)
  | (try dsimp only); (repeat' (first | (simp +contextual (maxDischargeDepth := 60) [h]; done) | split))

@[simp] theorem issue_kept {s₀ : State} (th : ThreadRef) (op : Nat) (ok : Word → Bool)
    (body : Nat → Thread → State → State) (s : State) (h : Kept s₀ s)
    (hb : ∀ k t x, Kept s₀ x → Kept s₀ (body k t x)) : Kept s₀ (issue th op ok body s) := by
  have := hb (thrKey th) (countIssue s.tau.mono (nextUse s (thrKey th)) (thr s (thrKey th)))
    (slotUsed (thrKey th) 2 s) (by simp [h])
  unfold issue; simp +contextual (maxDischargeDepth := 60) [h, this]

@[simp] theorem applyEff_kept {s₀ : State} (e : Eff) (k : Nat) (t : Thread) (s : State) (h : Kept s₀ s) :
    Kept s₀ (applyEff e k t s) := by
  unfold applyEff
  first
  | (simp +contextual (maxDischargeDepth := 60) [h]; done)
  | (try dsimp only); (repeat' (first | (simp +contextual (maxDischargeDepth := 60) [h]; done) | split))

@[simp] theorem issueLocal_kept {s₀ : State} (th : ThreadRef) (op : Nat) (ok : Word → Bool) (f : Thread → Eff) (s :
    State) (h : Kept s₀ s) :
    Kept s₀ (issueLocal th op ok f s) := by
  unfold issueLocal
  first
  | (simp +contextual (maxDischargeDepth := 60) [h]; done)
  | (try dsimp only); (repeat' (first | (simp +contextual (maxDischargeDepth := 60) [h]; done) | split))

@[simp] theorem settle_kept {s₀ : State} (k : Nat) (s : State) (h : Kept s₀ s) :
    Kept s₀ (settle k s) := by
  unfold settle
  first
  | (simp +contextual (maxDischargeDepth := 60) [h]; done)
  | (try dsimp only); (repeat' (first | (simp +contextual (maxDischargeDepth := 60) [h]; done) | split))

@[simp] theorem resultTo_kept {s₀ : State} (k : Nat) (sort : ReqKind → Bool) (q : Bool × Req) (v0 v1 : Word) (s :
    State) (h : Kept s₀ s) :
    Kept s₀ (resultTo k sort q v0 v1 s) := by
  unfold resultTo
  first
  | (simp +contextual (maxDischargeDepth := 60) [h]; done)
  | (try dsimp only); (repeat' (first | (simp +contextual (maxDischargeDepth := 60) [h]; done) | split))

@[simp] theorem withMem_kept {s₀ : State} (m : MemCtl) (f : Mem → Mem) (s : State) (h : Kept s₀ s) :
    Kept s₀ (withMem m f s) := by
  unfold withMem
  first
  | (simp +contextual (maxDischargeDepth := 60) [h]; done)
  | (try dsimp only); (repeat' (first | (simp +contextual (maxDischargeDepth := 60) [h]; done) | split))

@[simp] theorem memWrite_kept {s₀ : State} (m : MemCtl) (a : Nat) (bs : Bytes) (s : State) (h : Kept s₀ s) :
    Kept s₀ (memWrite m a bs s) := by
  unfold memWrite
  first
  | (simp +contextual (maxDischargeDepth := 60) [h]; done)
  | (try dsimp only); (repeat' (first | (simp +contextual (maxDischargeDepth := 60) [h]; done) | split))

@[simp] theorem setChState_kept {s₀ : State} (m : MemCtl) (c v : Nat) (s : State) (h : Kept s₀ s) :
    Kept s₀ (setChState m c v s) := by
  unfold setChState
  first
  | (simp +contextual (maxDischargeDepth := 60) [h]; done)
  | (try dsimp only); (repeat' (first | (simp +contextual (maxDischargeDepth := 60) [h]; done) | split))

@[simp] theorem eccAddr_kept {s₀ : State} (m : MemCtl) (kind c a : Nat) (s : State) (h : Kept s₀ s) :
    Kept s₀ (eccAddr m kind c a s) := by
  unfold eccAddr
  first
  | (simp +contextual (maxDischargeDepth := 60) [h]; done)
  | (try dsimp only); (repeat' (first | (simp +contextual (maxDischargeDepth := 60) [h]; done) | split))

@[simp] theorem eccEvent_kept {s₀ : State} (m : MemCtl) (a : Nat) (e : EccResult) (s : State) (h : Kept s₀ s) :
    Kept s₀ (eccEvent m a e s) := by
  unfold eccEvent
  first
  | (simp +contextual (maxDischargeDepth := 60) [h]; done)
  | (try dsimp only); (repeat' (first | (simp +contextual (maxDischargeDepth := 60) [h]; done) | split))

@[simp] theorem eccFirst_kept {s₀ : State} (m : MemCtl) (a : Nat) (s : State) (h : Kept s₀ s) :
    Kept s₀ (eccFirst m a s) := by
  unfold eccFirst
  first
  | (simp +contextual (maxDischargeDepth := 60) [h]; done)
  | (try dsimp only); (repeat' (first | (simp +contextual (maxDischargeDepth := 60) [h]; done) | split))

@[simp] theorem lostRead_kept {s₀ : State} (m : MemCtl) (a : Nat) (s : State) (h : Kept s₀ s) :
    Kept s₀ (lostRead m a s) := by
  unfold lostRead
  first
  | (simp +contextual (maxDischargeDepth := 60) [h]; done)
  | (try dsimp only); (repeat' (first | (simp +contextual (maxDischargeDepth := 60) [h]; done) | split))

@[simp] theorem mapLock_kept {s₀ : State} (m : MemCtl) (s : State) (h : Kept s₀ s) :
    Kept s₀ (mapLock m s) := by
  unfold mapLock
  first
  | (simp +contextual (maxDischargeDepth := 60) [h]; done)
  | (try dsimp only); (repeat' (first | (simp +contextual (maxDischargeDepth := 60) [h]; done) | split))

@[simp] theorem touchChan_kept {s₀ : State} (m : MemCtl) (c : Nat) (s : State) (h : Kept s₀ s) :
    Kept s₀ (touchChan m c s) := by
  unfold touchChan
  first
  | (simp +contextual (maxDischargeDepth := 60) [h]; done)
  | (try dsimp only); (repeat' (first | (simp +contextual (maxDischargeDepth := 60) [h]; done) | split))

@[simp] theorem bankUse_kept {s₀ : State} (m : MemCtl) (a : Nat) (s : State) (h : Kept s₀ s) :
    Kept s₀ (bankUse m a s) := by
  unfold bankUse
  first
  | (simp +contextual (maxDischargeDepth := 60) [h]; done)
  | (try dsimp only); (repeat' (first | (simp +contextual (maxDischargeDepth := 60) [h]; done) | split))

@[simp] theorem closeRows_kept {s₀ : State} (m : MemCtl) (u : Nat) (s : State) (h : Kept s₀ s) :
    Kept s₀ (closeRows m u s) := by
  unfold closeRows
  first
  | (simp +contextual (maxDischargeDepth := 60) [h]; done)
  | (try dsimp only); (repeat' (first | (simp +contextual (maxDischargeDepth := 60) [h]; done) | split))

@[simp] theorem showBusy_kept {s₀ : State} (m : MemCtl) (s : State) (h : Kept s₀ s) :
    Kept s₀ (showBusy m s) := by
  unfold showBusy
  first
  | (simp +contextual (maxDischargeDepth := 60) [h]; done)
  | (try dsimp only); (repeat' (first | (simp +contextual (maxDischargeDepth := 60) [h]; done) | split))

@[simp] theorem wakeChan_kept {s₀ : State} (m : MemCtl) (c : Nat) (s : State) (h : Kept s₀ s) :
    Kept s₀ (wakeChan m c s) := by
  unfold wakeChan
  first
  | (simp +contextual (maxDischargeDepth := 60) [h]; done)
  | (try dsimp only); (repeat' (first | (simp +contextual (maxDischargeDepth := 60) [h]; done) | split))

@[simp] theorem memAsk_kept {s₀ : State} (m : MemCtl) (a : Nat) (s : State) (h : Kept s₀ s) :
    Kept s₀ (memAsk m a s) := by
  unfold memAsk
  first
  | (simp +contextual (maxDischargeDepth := 60) [h]; done)
  | (try dsimp only); (repeat' (first | (simp +contextual (maxDischargeDepth := 60) [h]; done) | split))

@[simp] theorem memServe_kept {s₀ : State} (m : MemCtl) (a : Nat) (write : Bool) (s : State) (h : Kept s₀ s) :
    Kept s₀ (memServe m a write s) := by
  unfold memServe
  first
  | (simp +contextual (maxDischargeDepth := 60) [h]; done)
  | (try dsimp only); (repeat' (first | (simp +contextual (maxDischargeDepth := 60) [h]; done) | split))

@[simp] theorem memHold_kept {s₀ : State} (m : MemCtl) (a : Nat) (write answer : Bool) (s : State) (h : Kept s₀ s) :
    Kept s₀ (memHold m a write answer s) := by
  unfold memHold
  first
  | (simp +contextual (maxDischargeDepth := 60) [h]; done)
  | (try dsimp only); (repeat' (first | (simp +contextual (maxDischargeDepth := 60) [h]; done) | split))

@[simp] theorem memGot_kept {s₀ : State} (m : MemCtl) (a : Nat) (s : State) (h : Kept s₀ s) :
    Kept s₀ (memGot m a s) := by
  unfold memGot
  first
  | (simp +contextual (maxDischargeDepth := 60) [h]; done)
  | (try dsimp only); (repeat' (first | (simp +contextual (maxDischargeDepth := 60) [h]; done) | split))

@[simp] theorem memTake_kept {s₀ : State} (m : MemCtl) (a : Nat) (s : State) (h : Kept s₀ s) :
    Kept s₀ (memTake m a s) := by
  unfold memTake
  first
  | (simp +contextual (maxDischargeDepth := 60) [h]; done)
  | (try dsimp only); (repeat' (first | (simp +contextual (maxDischargeDepth := 60) [h]; done) | split))

@[simp] theorem memQueue_kept {s₀ : State} (m : MemCtl) (write : Bool) (a : Nat) (s : State) (h : Kept s₀ s) :
    Kept s₀ (memQueue m write a s) := by
  unfold memQueue
  first
  | (simp +contextual (maxDischargeDepth := 60) [h]; done)
  | (try dsimp only); (repeat' (first | (simp +contextual (maxDischargeDepth := 60) [h]; done) | split))

@[simp] theorem memPost_kept {s₀ : State} (m : MemCtl) (a : Nat) (write : Bool) (s : State) (h : Kept s₀ s) :
    Kept s₀ (memPost m a write s) := by
  unfold memPost
  first
  | (simp +contextual (maxDischargeDepth := 60) [h]; done)
  | (try dsimp only); (repeat' (first | (simp +contextual (maxDischargeDepth := 60) [h]; done) | split))

@[simp] theorem memUse_kept {s₀ : State} (m : MemCtl) (a : Nat) (write : Bool) (s : State) (h : Kept s₀ s) :
    Kept s₀ (memUse m a write s) := by
  unfold memUse
  first
  | (simp +contextual (maxDischargeDepth := 60) [h]; done)
  | (try dsimp only); (repeat' (first | (simp +contextual (maxDischargeDepth := 60) [h]; done) | split))

@[simp] theorem memAsks_kept {s₀ : State} (m : MemCtl) (as : List Nat) (s : State) (h : Kept s₀ s) :
    Kept s₀ (memAsks m as s) := by
  unfold memAsks
  first
  | (simp +contextual (maxDischargeDepth := 60) [h]; done)
  | (try dsimp only); (repeat' (first | (simp +contextual (maxDischargeDepth := 60) [h]; done) | split))

@[simp] theorem memPosts_kept {s₀ : State} (m : MemCtl) (as : List Nat) (write : Bool) (s : State) (h : Kept s₀ s) :
    Kept s₀ (memPosts m as write s) := by
  unfold memPosts
  first
  | (simp +contextual (maxDischargeDepth := 60) [h]; done)
  | (try dsimp only); (repeat' (first | (simp +contextual (maxDischargeDepth := 60) [h]; done) | split))

@[simp] theorem memUses_kept {s₀ : State} (m : MemCtl) (as : List Nat) (write : Bool) (s : State) (h : Kept s₀ s) :
    Kept s₀ (memUses m as write s) := by
  unfold memUses
  first
  | (simp +contextual (maxDischargeDepth := 60) [h]; done)
  | (try dsimp only); (repeat' (first | (simp +contextual (maxDischargeDepth := 60) [h]; done) | split))

@[simp] theorem memUseRun_kept {s₀ : State} (m : MemCtl) (a n : Nat) (write : Bool) (s : State) (h : Kept s₀ s) :
    Kept s₀ (memUseRun m a n write s) := by
  unfold memUseRun
  first
  | (simp +contextual (maxDischargeDepth := 60) [h]; done)
  | (try dsimp only); (repeat' (first | (simp +contextual (maxDischargeDepth := 60) [h]; done) | split))

@[simp] theorem runAsk_kept {s₀ : State} (m : MemCtl) (a n : Nat) (s : State) (h : Kept s₀ s) :
    Kept s₀ (runAsk m a n s) := by
  unfold runAsk
  first
  | (simp +contextual (maxDischargeDepth := 60) [h]; done)
  | (try dsimp only); (repeat' (first | (simp +contextual (maxDischargeDepth := 60) [h]; done) | split))

@[simp] theorem readTwice_kept {s₀ : State} (m : MemCtl) (a : Nat) (o : ReadOutcome) (s : State) (h : Kept s₀ s) :
    Kept s₀ (readTwice m a o s) := by
  unfold readTwice
  first
  | (simp +contextual (maxDischargeDepth := 60) [h]; done)
  | (try dsimp only); (repeat' (first | (simp +contextual (maxDischargeDepth := 60) [h]; done) | split))

@[simp] theorem flowWrote_kept {s₀ : State} (old : State) (t k : Nat) (s : State) (h : Kept s₀ s) :
    Kept s₀ (flowWrote old t k s) := by
  unfold flowWrote
  (try dsimp only); (repeat' (first | (simp +contextual (maxDischargeDepth := 60) [h]; done) | split))

@[simp] theorem touch_kept {s₀ : State} (p : Word) (key : Nat) (v : View) (s : State) (h : Kept s₀ s) :
    Kept s₀ (touch p key v s) := by
  unfold touch
  first
  | (simp +contextual (maxDischargeDepth := 60) [h]; done)
  | (try dsimp only); (repeat' (first | (simp +contextual (maxDischargeDepth := 60) [h]; done) | split))

@[simp] theorem countLookup_kept {s₀ : State} (p : Word) (s : State) (h : Kept s₀ s) :
    Kept s₀ (countLookup p s) := by
  unfold countLookup
  first
  | (simp +contextual (maxDischargeDepth := 60) [h]; done)
  | (try dsimp only); (repeat' (first | (simp +contextual (maxDischargeDepth := 60) [h]; done) | split))

@[simp] theorem execLkup_kept {s₀ : State} (th : ThreadRef) (f : FmtL) (s : State) (h : Kept s₀ s) :
    KeptOut s₀ (execLkup th f s) := by
  unfold execLkup
  first
  | (simp +contextual (maxDischargeDepth := 60) [h]; done)
  | (try dsimp only); (repeat' (first | (simp +contextual (maxDischargeDepth := 60) [h]; done) | split))

@[simp] theorem markBad_kept {s₀ : State} (code index : Nat) (s : State) (h : Kept s₀ s) :
    Kept s₀ (markBad code index s) := by
  unfold markBad
  first
  | (simp +contextual (maxDischargeDepth := 60) [h]; done)
  | (try dsimp only); (repeat' (first | (simp +contextual (maxDischargeDepth := 60) [h]; done) | split))

@[simp] theorem flowEcc_kept {s₀ : State} (code index : Nat) (s : State) (h : Kept s₀ s) :
    Kept s₀ (flowEcc code index s) := by
  unfold flowEcc
  first
  | (simp +contextual (maxDischargeDepth := 60) [h]; done)
  | (try dsimp only); (repeat' (first | (simp +contextual (maxDischargeDepth := 60) [h]; done) | split))

@[simp] theorem lkpParity_kept {s₀ : State} (place index : Nat) (s : State) (h : Kept s₀ s) :
    Kept s₀ (lkpParity place index s) := by
  unfold lkpParity
  first
  | (simp +contextual (maxDischargeDepth := 60) [h]; done)
  | (try dsimp only); (repeat' (first | (simp +contextual (maxDischargeDepth := 60) [h]; done) | split))

@[simp] theorem tcamEvent_kept {s₀ : State} (kind b r cls : Nat) (s : State) (h : Kept s₀ s) :
    Kept s₀ (tcamEvent kind b r cls s) := by
  unfold tcamEvent
  first
  | (simp +contextual (maxDischargeDepth := 60) [h]; done)
  | (try dsimp only); (repeat' (first | (simp +contextual (maxDischargeDepth := 60) [h]; done) | split))

@[simp] theorem quarantine_kept {s₀ : State} (b r : Nat) (s : State) (h : Kept s₀ s) :
    Kept s₀ (quarantine b r s) := by
  unfold quarantine
  first
  | (simp +contextual (maxDischargeDepth := 60) [h]; done)
  | (try dsimp only); (repeat' (first | (simp +contextual (maxDischargeDepth := 60) [h]; done) | split))

@[simp] theorem shadowLost_kept {s₀ : State} (b r : Nat) (s : State) (h : Kept s₀ s) :
    Kept s₀ (shadowLost b r s).2 := by
  unfold shadowLost
  first
  | (simp +contextual (maxDischargeDepth := 60) [h]; done)
  | (try dsimp only); (repeat' (first | (simp +contextual (maxDischargeDepth := 60) [h]; done) | split))

@[simp] theorem verifyHits_kept {s₀ : State} (t : Nat) (bad : Option (Fin 64 × Fin 4096))
    (hits seen : List (Fin 64 × Fin 4096)) (s : State) (h : Kept s₀ s) :
    Kept s₀ (verifyHits t bad seen hits s).2 := by
  induction hits generalizing seen s with
  | nil => unfold verifyHits; split <;> simp (maxDischargeDepth := 60) [h]
  | cons a l ih =>
    unfold verifyHits
    dsimp only
    split
    · simp (maxDischargeDepth := 60) [h]
    · exact ih _ _ (by simp (maxDischargeDepth := 60) [h])

@[simp] theorem verifyMatch_kept {s₀ : State} (t : Nat) (ev : LookupEvent) (s : State) (h : Kept s₀ s) :
    Kept s₀ (verifyMatch t ev s).2 := by
  unfold verifyMatch
  split <;> simp (maxDischargeDepth := 60) [h]

@[simp] theorem flowCorrected_kept {s₀ : State} (p : Word) (ev : LookupEvent) (s : State) (h : Kept s₀ s) :
    Kept s₀ (flowCorrected p ev s) := by
  unfold flowCorrected
  first
  | (simp +contextual (maxDischargeDepth := 60) [h]; done)
  | (try dsimp only); (repeat' (first | (simp +contextual (maxDischargeDepth := 60) [h]; done) | split))

@[simp] theorem lookupOutcome_kept {s₀ : State} (p : Word) (key vt : Nat) (atIssue : LkRes) (late : Bool) (ev :
    LookupEvent) (s : State) (h : Kept s₀ s) :
    Kept s₀ (lookupOutcome p key vt atIssue late ev s).2 := by
  unfold lookupOutcome
  first
  | (simp +contextual (maxDischargeDepth := 60) [h]; done)
  | (try dsimp only); (repeat' (first | (simp +contextual (maxDischargeDepth := 60) [h]; done) | split))

@[simp] theorem execLookupResult_kept {s₀ : State} (th : ThreadRef) (tag : Tag) (late : Bool) (ev : LookupEvent) (s
    : State) (h : Kept s₀ s) :
    KeptOut s₀ (execLookupResult th tag late ev s) := by
  unfold execLookupResult
  first
  | (simp +contextual (maxDischargeDepth := 60) [h]; done)
  | (try dsimp only); (repeat' (first | (simp +contextual (maxDischargeDepth := 60) [h]; done) | split))

@[simp] theorem offerLearn_kept {s₀ : State} (p : Word) (key : Nat) (data : Word) (rank : Nat) (s : State) (h : Kept
    s₀ s) :
    Kept s₀ (offerLearn p key data rank s) := by
  unfold offerLearn
  first
  | (simp +contextual (maxDischargeDepth := 60) [h]; done)
  | (try dsimp only); (repeat' (first | (simp +contextual (maxDischargeDepth := 60) [h]; done) | split))

@[simp] theorem execLrn_kept {s₀ : State} (th : ThreadRef) (f : FmtL) (s : State) (h : Kept s₀ s) :
    KeptOut s₀ (execLrn th f s) := by
  unfold execLrn
  first
  | (simp +contextual (maxDischargeDepth := 60) [h]; done)
  | (try dsimp only); (repeat' (first | (simp +contextual (maxDischargeDepth := 60) [h]; done) | split))

@[simp] theorem stmSet_kept {s₀ : State} (s : State) (a : Nat) (v : Word) (h : Kept s₀ s) :
    Kept s₀ (stmSet s a v) := by
  unfold stmSet
  first
  | (simp +contextual (maxDischargeDepth := 60) [h]; done)
  | (try dsimp only); (repeat' (first | (simp +contextual (maxDischargeDepth := 60) [h]; done) | split))

@[simp] theorem stmTouch_kept {s₀ : State} (a r : Nat) (s : State) (h : Kept s₀ s) :
    Kept s₀ (stmTouch a r s) := by
  unfold stmTouch
  first
  | (simp +contextual (maxDischargeDepth := 60) [h]; done)
  | (try dsimp only); (repeat' (first | (simp +contextual (maxDischargeDepth := 60) [h]; done) | split))

@[simp] theorem issueStm_kept {s₀ : State} (th : ThreadRef) (op : Nat) (ok : Word → Bool) (ra : BitVec 5) (imm : Nat)
    (body : Nat → Nat → Thread → State → State) (s : State) (h : Kept s₀ s)
    (hb : ∀ a k t x, Kept s₀ x → Kept s₀ (body a k t x)) : Kept s₀ (issueStm th op ok ra imm body s) := by
  unfold issueStm
  dsimp only
  split
  · exact h
  · exact issue_kept _ _ _ _ _ h fun k t x hx => hb _ _ _ _ (stmTouch_kept _ _ _ hx)

@[simp] theorem execSld_kept {s₀ : State} (th : ThreadRef) (f : FmtI) (s : State) (h : Kept s₀ s) :
    KeptOut s₀ (execSld th f s) := by
  unfold execSld
  first
  | (simp +contextual (maxDischargeDepth := 60) [h]; done)
  | (try dsimp only); (repeat' (first | (simp +contextual (maxDischargeDepth := 60) [h]; done) | split))

@[simp] theorem execSst_kept {s₀ : State} (th : ThreadRef) (f : FmtI) (s : State) (h : Kept s₀ s) :
    KeptOut s₀ (execSst th f s) := by
  unfold execSst
  first
  | (simp +contextual (maxDischargeDepth := 60) [h]; done)
  | (try dsimp only); (repeat' (first | (simp +contextual (maxDischargeDepth := 60) [h]; done) | split))

@[simp] theorem execAtom_kept {s₀ : State} (th : ThreadRef) (f : FmtA) (s : State) (h : Kept s₀ s) :
    KeptOut s₀ (execAtom th f s) := by
  unfold execAtom
  first
  | (simp +contextual (maxDischargeDepth := 60) [h]; done)
  | (try dsimp only); (repeat' (first | (simp +contextual (maxDischargeDepth := 60) [h]; done) | split))

@[simp] theorem execStateReadResult_kept {s₀ : State} (th : ThreadRef) (tag : Tag) (ecc : Bool) (s : State) (h :
    Kept s₀ s) :
    KeptOut s₀ (execStateReadResult th tag ecc s) := by
  unfold execStateReadResult
  first
  | (simp +contextual (maxDischargeDepth := 60) [h]; done)
  | (try dsimp only); (repeat' (first | (simp +contextual (maxDischargeDepth := 60) [h]; done) | split))

@[simp] theorem execStateDataRead_kept {s₀ : State} (s : State) (h : Kept s₀ s) :
    KeptOut s₀ (execStateDataRead s) := by
  unfold execStateDataRead
  first
  | (simp +contextual (maxDischargeDepth := 60) [h]; done)
  | (try dsimp only); (repeat' (first | (simp +contextual (maxDischargeDepth := 60) [h]; done) | split))

@[simp] theorem execStateDataWrite_kept {s₀ : State} (v : Word) (s : State) (h : Kept s₀ s) :
    KeptOut s₀ (execStateDataWrite v s) := by
  unfold execStateDataWrite
  first
  | (simp +contextual (maxDischargeDepth := 60) [h]; done)
  | (try dsimp only); (repeat' (first | (simp +contextual (maxDischargeDepth := 60) [h]; done) | split))

@[simp] theorem stopThr_kept {s₀ : State} (k : Nat) (s : State) (h : Kept s₀ s) :
    Kept s₀ (stopThr k s) := by
  unfold stopThr
  first
  | (simp +contextual (maxDischargeDepth := 60) [h]; done)
  | (try dsimp only); (repeat' (first | (simp +contextual (maxDischargeDepth := 60) [h]; done) | split))

@[simp] theorem execWait_kept {s₀ : State} (th : ThreadRef) (f : FmtX) (s : State) (h : Kept s₀ s) :
    KeptOut s₀ (execWait th f s) := by
  unfold execWait
  first
  | (simp +contextual (maxDischargeDepth := 60) [h]; done)
  | (try dsimp only); (repeat' (first | (simp +contextual (maxDischargeDepth := 60) [h]; done) | split))

@[simp] theorem cntAdd_kept {s₀ : State} (i : Nat) (n : Nat) (s : State) (h : Kept s₀ s) :
    Kept s₀ (cntAdd i n s) := by
  unfold cntAdd
  first
  | (simp +contextual (maxDischargeDepth := 60) [h]; done)
  | (try dsimp only); (repeat' (first | (simp +contextual (maxDischargeDepth := 60) [h]; done) | split))

@[simp] theorem execCnt_kept {s₀ : State} (th : ThreadRef) (f : FmtI) (s : State) (h : Kept s₀ s) :
    KeptOut s₀ (execCnt th f s) := by
  unfold execCnt
  first
  | (simp +contextual (maxDischargeDepth := 60) [h]; done)
  | (try dsimp only); (repeat' (first | (simp +contextual (maxDischargeDepth := 60) [h]; done) | split))

@[simp] theorem execTime_kept {s₀ : State} (th : ThreadRef) (f : FmtI) (s : State) (h : Kept s₀ s) :
    KeptOut s₀ (execTime th f s) := by
  unfold execTime
  first
  | (simp +contextual (maxDischargeDepth := 60) [h]; done)
  | (try dsimp only); (repeat' (first | (simp +contextual (maxDischargeDepth := 60) [h]; done) | split))

@[simp] theorem execCounterLatch_kept {s₀ : State} (v : Word) (s : State) (h : Kept s₀ s) :
    KeptOut s₀ (execCounterLatch v s) := by
  unfold execCounterLatch
  first
  | (simp +contextual (maxDischargeDepth := 60) [h]; done)
  | (try dsimp only); (repeat' (first | (simp +contextual (maxDischargeDepth := 60) [h]; done) | split))

@[simp] theorem retireMark_kept {s₀ : State} (k u : Nat) (sw : Bool) (code : Nat) (s : State) (h : Kept s₀ s) :
    Kept s₀ (retireMark k u sw code s) := by
  unfold retireMark
  first
  | (simp +contextual (maxDischargeDepth := 60) [h]; done)
  | (try dsimp only); (repeat' (first | (simp +contextual (maxDischargeDepth := 60) [h]; done) | split))

@[simp] theorem execCourseModeWrite_kept {s₀ : State} (c : Course) (v : Word) (s : State) (h : Kept s₀ s) :
    KeptOut s₀ (execCourseModeWrite c v s) := by
  unfold execCourseModeWrite
  first
  | (simp +contextual (maxDischargeDepth := 60) [h]; done)
  | (try dsimp only); (repeat' (first | (simp +contextual (maxDischargeDepth := 60) [h]; done) | split))

@[simp] theorem execCourseDrainEnd_kept {s₀ : State} (c : Course) (s : State) (h : Kept s₀ s) :
    KeptOut s₀ (execCourseDrainEnd c s) := by
  unfold execCourseDrainEnd
  first
  | (simp +contextual (maxDischargeDepth := 60) [h]; done)
  | (try dsimp only); (repeat' (first | (simp +contextual (maxDischargeDepth := 60) [h]; done) | split))

@[simp] theorem noCourseDrop_kept {s₀ : State} (sd : Side) (s : State) (h : Kept s₀ s) :
    Kept s₀ (noCourseDrop sd s) := by
  unfold noCourseDrop
  first
  | (simp +contextual (maxDischargeDepth := 60) [h]; done)
  | (try dsimp only); (repeat' (first | (simp +contextual (maxDischargeDepth := 60) [h]; done) | split))

@[simp] theorem setToDisp_kept {s₀ : State} (sd : Side) (l : List Packet) (s : State) (h : Kept s₀ s) :
    Kept s₀ (setToDisp sd l s) := by
  unfold setToDisp
  first
  | (simp +contextual (maxDischargeDepth := 60) [h]; done)
  | (try dsimp only); (repeat' (first | (simp +contextual (maxDischargeDepth := 60) [h]; done) | split))

@[simp] theorem setDispQ_kept {s₀ : State} (sd : Side) (l : List Packet) (s : State) (h : Kept s₀ s) :
    Kept s₀ (setDispQ sd l s) := by
  unfold setDispQ
  first
  | (simp +contextual (maxDischargeDepth := 60) [h]; done)
  | (try dsimp only); (repeat' (first | (simp +contextual (maxDischargeDepth := 60) [h]; done) | split))

@[simp] theorem execDispatchEnqueue_kept {s₀ : State} (sd : Side) (s : State) (h : Kept s₀ s) :
    KeptOut s₀ (execDispatchEnqueue sd s) := by
  unfold execDispatchEnqueue
  first
  | (simp +contextual (maxDischargeDepth := 60) [h]; done)
  | (try dsimp only); (repeat' (first | (simp +contextual (maxDischargeDepth := 60) [h]; done) | split))

@[simp] theorem startOn_kept {s₀ : State} (s : State) (sd : Side) (p : Packet) (c e : Nat) (b : Bool) (h : Kept s₀
    s) :
    Kept s₀ (startOn s sd p c e b) := by
  unfold startOn
  first
  | (simp +contextual (maxDischargeDepth := 60) [h]; done)
  | (try dsimp only); (repeat' (first | (simp +contextual (maxDischargeDepth := 60) [h]; done) | split))

@[simp] theorem execThreadStart_kept {s₀ : State} (sd : Side) (s : State) (h : Kept s₀ s) :
    KeptOut s₀ (execThreadStart sd s) := by
  unfold execThreadStart
  first
  | (simp +contextual (maxDischargeDepth := 60) [h]; done)
  | (try dsimp only); (repeat' (first | (simp +contextual (maxDischargeDepth := 60) [h]; done) | split))

@[simp] theorem execDisp_kept {s₀ : State} (th : ThreadRef) (f : FmtX) (s : State) (h : Kept s₀ s) :
    KeptOut s₀ (execDisp th f s) := by
  unfold execDisp
  first
  | (simp +contextual (maxDischargeDepth := 60) [h]; done)
  | (try dsimp only); (repeat' (first | (simp +contextual (maxDischargeDepth := 60) [h]; done) | split))

@[simp] theorem handOn_kept {s₀ : State} (sd : Side) (p : Packet) (s : State) (h : Kept s₀ s) :
    Kept s₀ (handOn sd p s) := by
  unfold handOn
  first
  | (simp +contextual (maxDischargeDepth := 60) [h]; done)
  | (try dsimp only); (repeat' (first | (simp +contextual (maxDischargeDepth := 60) [h]; done) | split))

@[simp] theorem execPacketDepart_kept {s₀ : State} (th : ThreadRef) (s : State) (h : Kept s₀ s) :
    KeptOut s₀ (execPacketDepart th s) := by
  unfold execPacketDepart
  first
  | (simp +contextual (maxDischargeDepth := 60) [h]; done)
  | (try dsimp only); (repeat' (first | (simp +contextual (maxDischargeDepth := 60) [h]; done) | split))

@[simp] theorem retireThread_kept {s₀ : State} (c k : Nat) (s : State) (h : Kept s₀ s) :
    Kept s₀ (retireThread c k s) := by
  unfold retireThread
  first
  | (simp +contextual (maxDischargeDepth := 60) [h]; done)
  | (try dsimp only); (repeat' (first | (simp +contextual (maxDischargeDepth := 60) [h]; done) | split))

@[simp] theorem execEngineRetire_kept {s₀ : State} (c : Course) (e : Engine) (sw : Bool) (s : State) (h : Kept s₀ s) :
    KeptOut s₀ (execEngineRetire c e sw s) := by
  unfold execEngineRetire
  first
  | (simp +contextual (maxDischargeDepth := 60) [h]; done)
  | (try dsimp only); (repeat' (first | (simp +contextual (maxDischargeDepth := 60) [h]; done) | split))

@[simp] theorem execLdw_kept {s₀ : State} (th : ThreadRef) (f : FmtW) (s : State) (h : Kept s₀ s) :
    KeptOut s₀ (execLdw th f s) := by
  unfold execLdw
  first
  | (simp +contextual (maxDischargeDepth := 60) [h]; done)
  | (try dsimp only); (repeat' (first | (simp +contextual (maxDischargeDepth := 60) [h]; done) | split))

@[simp] theorem execStw_kept {s₀ : State} (th : ThreadRef) (f : FmtW) (s : State) (h : Kept s₀ s) :
    KeptOut s₀ (execStw th f s) := by
  unfold execStw
  first
  | (simp +contextual (maxDischargeDepth := 60) [h]; done)
  | (try dsimp only); (repeat' (first | (simp +contextual (maxDischargeDepth := 60) [h]; done) | split))

@[simp] theorem secondCycle_kept {s₀ : State} (k : Nat) (s : State) (h : Kept s₀ s) :
    Kept s₀ (secondCycle k s) := by
  unfold secondCycle
  first
  | (simp +contextual (maxDischargeDepth := 60) [h]; done)
  | (try dsimp only); (repeat' (first | (simp +contextual (maxDischargeDepth := 60) [h]; done) | split))

@[simp] theorem execPush_kept {s₀ : State} (th : ThreadRef) (f : FmtW) (s : State) (h : Kept s₀ s) :
    KeptOut s₀ (execPush th f s) := by
  unfold execPush
  first
  | (simp +contextual (maxDischargeDepth := 60) [h]; done)
  | (try dsimp only); (repeat' (first | (simp +contextual (maxDischargeDepth := 60) [h]; done) | split))

@[simp] theorem execPop_kept {s₀ : State} (th : ThreadRef) (f : FmtW) (s : State) (h : Kept s₀ s) :
    KeptOut s₀ (execPop th f s) := by
  unfold execPop
  first
  | (simp +contextual (maxDischargeDepth := 60) [h]; done)
  | (try dsimp only); (repeat' (first | (simp +contextual (maxDischargeDepth := 60) [h]; done) | split))

@[simp] theorem execApnd_kept {s₀ : State} (th : ThreadRef) (f : FmtW) (s : State) (h : Kept s₀ s) :
    KeptOut s₀ (execApnd th f s) := by
  unfold execApnd
  first
  | (simp +contextual (maxDischargeDepth := 60) [h]; done)
  | (try dsimp only); (repeat' (first | (simp +contextual (maxDischargeDepth := 60) [h]; done) | split))

@[simp] theorem execCsum_kept {s₀ : State} (th : ThreadRef) (f : FmtW) (s : State) (h : Kept s₀ s) :
    KeptOut s₀ (execCsum th f s) := by
  unfold execCsum
  first
  | (simp +contextual (maxDischargeDepth := 60) [h]; done)
  | (try dsimp only); (repeat' (first | (simp +contextual (maxDischargeDepth := 60) [h]; done) | split))

@[simp] theorem execMld_kept {s₀ : State} (th : ThreadRef) (f : FmtM) (s : State) (h : Kept s₀ s) :
    KeptOut s₀ (execMld th f s) := by
  unfold execMld
  first
  | (simp +contextual (maxDischargeDepth := 60) [h]; done)
  | (try dsimp only); (repeat' (first | (simp +contextual (maxDischargeDepth := 60) [h]; done) | split))

@[simp] theorem execMst_kept {s₀ : State} (th : ThreadRef) (f : FmtM) (s : State) (h : Kept s₀ s) :
    KeptOut s₀ (execMst th f s) := by
  unfold execMst
  first
  | (simp +contextual (maxDischargeDepth := 60) [h]; done)
  | (try dsimp only); (repeat' (first | (simp +contextual (maxDischargeDepth := 60) [h]; done) | split))

@[simp] theorem execMins_kept {s₀ : State} (th : ThreadRef) (f : FmtM) (s : State) (h : Kept s₀ s) :
    KeptOut s₀ (execMins th f s) := by
  unfold execMins
  first
  | (simp +contextual (maxDischargeDepth := 60) [h]; done)
  | (try dsimp only); (repeat' (first | (simp +contextual (maxDischargeDepth := 60) [h]; done) | split))

@[simp] theorem execSleep_kept {s₀ : State} (th : ThreadRef) (f : FmtX) (s : State) (h : Kept s₀ s) :
    KeptOut s₀ (execSleep th f s) := by
  unfold execSleep
  refine (keptOut_next _ _).2 (issue_kept _ _ _ _ _ h fun k t x hx => ?_)
  split
  · simp +contextual (maxDischargeDepth := 60) [hx]
  · split
    · simp +contextual (maxDischargeDepth := 60) [hx]
    · dsimp only
      split <;> simp +contextual (maxDischargeDepth := 60) [hx]

@[simp] theorem execWake_kept {s₀ : State} (th : ThreadRef) (f : FmtX) (s : State) (h : Kept s₀ s) :
    KeptOut s₀ (execWake th f s) := by
  unfold execWake
  first
  | (simp +contextual (maxDischargeDepth := 60) [h]; done)
  | (try dsimp only); (repeat' (first | (simp +contextual (maxDischargeDepth := 60) [h]; done) | split))

@[simp] theorem injectPacket_kept {s₀ : State} (path : Nat) (p : Packet) (s : State) (h : Kept s₀ s) :
    Kept s₀ (injectPacket path p s) := by
  unfold injectPacket
  first
  | (simp +contextual (maxDischargeDepth := 60) [h]; done)
  | (try dsimp only); (repeat' (first | (simp +contextual (maxDischargeDepth := 60) [h]; done) | split))

@[simp] theorem execSend_kept {s₀ : State} (th : ThreadRef) (f : FmtX) (s : State) (h : Kept s₀ s) :
    KeptOut s₀ (execSend th f s) := by
  unfold execSend
  first
  | (simp +contextual (maxDischargeDepth := 60) [h]; done)
  | (try dsimp only); (repeat' (first | (simp +contextual (maxDischargeDepth := 60) [h]; done) | split))

@[simp] theorem svcStop_kept {s₀ : State} (k : Nat) (s : State) (h : Kept s₀ s) :
    Kept s₀ (svcStop k s) := by
  unfold svcStop
  first
  | (simp +contextual (maxDischargeDepth := 60) [h]; done)
  | (try dsimp only); (repeat' (first | (simp +contextual (maxDischargeDepth := 60) [h]; done) | split))

@[simp] theorem svcFields_kept {s₀ : State} (k : Nat) (v : Word) (s : State) (h : Kept s₀ s) :
    Kept s₀ (svcFields k v s) := by
  unfold svcFields
  first
  | (simp +contextual (maxDischargeDepth := 60) [h]; done)
  | (try dsimp only); (repeat' (first | (simp +contextual (maxDischargeDepth := 60) [h]; done) | split))

@[simp] theorem svcStart_kept {s₀ : State} (k : Nat) (s : State) (h : Kept s₀ s) :
    Kept s₀ (svcStart k s) := by
  unfold svcStart
  first
  | (simp +contextual (maxDischargeDepth := 60) [h]; done)
  | (try dsimp only); (repeat' (first | (simp +contextual (maxDischargeDepth := 60) [h]; done) | split))

@[simp] theorem execSvcStart_kept {s₀ : State} (th : ThreadRef) (v : Word) (s : State) (h : Kept s₀ s) :
    KeptOut s₀ (execSvcStart th v s) := by
  unfold execSvcStart
  first
  | (simp +contextual (maxDischargeDepth := 60) [h]; done)
  | (try dsimp only); (repeat' (first | (simp +contextual (maxDischargeDepth := 60) [h]; done) | split))

@[simp] theorem execSvcStop_kept {s₀ : State} (th : ThreadRef) (v : Word) (s : State) (h : Kept s₀ s) :
    KeptOut s₀ (execSvcStop th v s) := by
  unfold execSvcStop
  first
  | (simp +contextual (maxDischargeDepth := 60) [h]; done)
  | (try dsimp only); (repeat' (first | (simp +contextual (maxDischargeDepth := 60) [h]; done) | split))

@[simp] theorem execSvcWakeWrite_kept {s₀ : State} (v : Word) (s : State) (h : Kept s₀ s) :
    KeptOut s₀ (execSvcWakeWrite v s) := by
  unfold execSvcWakeWrite
  first
  | (simp +contextual (maxDischargeDepth := 60) [h]; done)
  | (try dsimp only); (repeat' (first | (simp +contextual (maxDischargeDepth := 60) [h]; done) | split))

@[simp] theorem inboxArrive_kept {s₀ : State} (k : Nat) (e : InboxEntry) (s : State) (h : Kept s₀ s) :
    Kept s₀ (inboxArrive k e s) := by
  unfold inboxArrive
  first
  | (simp +contextual (maxDischargeDepth := 60) [h]; done)
  | (try dsimp only); (repeat' (first | (simp +contextual (maxDischargeDepth := 60) [h]; done) | split))

@[simp] theorem inboxWake_kept {s₀ : State} (k : Nat) (s : State) (h : Kept s₀ s) :
    Kept s₀ (inboxWake k s) := by
  unfold inboxWake
  first
  | (simp +contextual (maxDischargeDepth := 60) [h]; done)
  | (try dsimp only); (repeat' (first | (simp +contextual (maxDischargeDepth := 60) [h]; done) | split))

@[simp] theorem inboxTick_kept {s₀ : State} (s : State) (h : Kept s₀ s) :
    Kept s₀ (inboxTick s) := by
  unfold inboxTick
  first
  | (simp +contextual (maxDischargeDepth := 60) [h]; done)
  | (try dsimp only); (repeat' (first | (simp +contextual (maxDischargeDepth := 60) [h]; done) | split))

@[simp] theorem execInboxEntryArrive_kept {s₀ : State} (i : Nat) (s : State) (h : Kept s₀ s) :
    KeptOut s₀ (execInboxEntryArrive i s) := by
  unfold execInboxEntryArrive
  first
  | (simp +contextual (maxDischargeDepth := 60) [h]; done)
  | (try dsimp only); (repeat' (first | (simp +contextual (maxDischargeDepth := 60) [h]; done) | split))

@[simp] theorem swapBanks_kept {s₀ : State} (c : Nat) (old : BankSt) (s : State) (h : Kept s₀ s) :
    Kept s₀ (swapBanks c old s) := by
  unfold swapBanks
  first
  | (simp +contextual (maxDischargeDepth := 60) [h]; done)
  | (try dsimp only); (repeat' (first | (simp +contextual (maxDischargeDepth := 60) [h]; done) | split))

@[simp] theorem execSwapNow_kept {s₀ : State} (c : Course) (s : State) (h : Kept s₀ s) :
    KeptOut s₀ (execSwapNow c s) := by
  unfold execSwapNow
  first
  | (simp +contextual (maxDischargeDepth := 60) [h]; done)
  | (try dsimp only); (repeat' (first | (simp +contextual (maxDischargeDepth := 60) [h]; done) | split))

end Sys2Proof.Laws
end

