-- ==== Sys2Proof/Laws/KeptPath.lean ====
section
/-! SUPPORT. The same of the slices, MACsec, time, the billet pools, the traffic manager, the memories and the frame path. -/

set_option linter.all false

namespace Sys2Proof.Laws
open Sys2Proof Sys2Proof.Machine

@[simp] theorem hostRead_kept {s₀ : State} (sl : Option Nat) (addr n : Nat) (s : State) (h : Kept s₀ s) :
    Kept s₀ (hostRead sl addr n s) := by
  unfold hostRead
  first
  | (simp +contextual (maxDischargeDepth := 60) [h]; done)
  | (try dsimp only); (repeat' (first | (simp +contextual (maxDischargeDepth := 60) [h]; done) | split))

@[simp] theorem dmaFailed_kept {s₀ : State} (sl : Option Nat) (addr : Word) (s : State) (h : Kept s₀ s) :
    Kept s₀ (dmaFailed sl addr s) := by
  unfold dmaFailed
  first
  | (simp +contextual (maxDischargeDepth := 60) [h]; done)
  | (try dsimp only); (repeat' (first | (simp +contextual (maxDischargeDepth := 60) [h]; done) | split))

@[simp] theorem markPage_kept {s₀ : State} (sl : Nat) (s : State) (p : Nat) (h : Kept s₀ s) :
    Kept s₀ (markPage sl s p) := by
  unfold markPage
  first
  | (simp +contextual (maxDischargeDepth := 60) [h]; done)
  | (try dsimp only); (repeat' (first | (simp +contextual (maxDischargeDepth := 60) [h]; done) | split))

@[simp] theorem hostWrite_kept {s₀ : State} (sl : Option Nat) (addr : Nat) (bs : Bytes) (s : State) (h : Kept s₀ s) :
    Kept s₀ (hostWrite sl addr bs s) := by
  unfold hostWrite
  first
  | (simp +contextual (maxDischargeDepth := 60) [h]; done)
  | (try dsimp only); (repeat' (first | (simp +contextual (maxDischargeDepth := 60) [h]; done) | split))

theorem takeMark_kept {s₀ : State} (sl w : Nat) (s : State) (h : Kept s₀ s) :
    ∀ x ∈ takeMark sl w s, Kept s₀ x.2 := by
  intro x hx
  unfold takeMark at hx
  dsimp only at hx
  split at hx
  · cases hx; exact h
  · simp only [Option.map_eq_some_iff, Option.mem_def] at hx
    obtain ⟨e, -, rfl⟩ := hx
    exact h

@[simp] theorem execBitmapWordMerge_kept {s₀ : State} (sl : Slice) (w : Nat) (old : Option Word) (s : State)
    (h : Kept s₀ s) : KeptOut s₀ (execBitmapWordMerge sl w old s) := by
  unfold execBitmapWordMerge
  split
  · split
    · rename_i e
      have := takeMark_kept _ _ s h _ e
      split <;> simp +contextual (maxDischargeDepth := 60) [h, this]
    · simp [h]
  · simp [h]

@[simp] theorem sliceResult_kept {s₀ : State} (r : Nat) (s : State) (h : Kept s₀ s) :
    Kept s₀ (sliceResult r s) := by
  unfold sliceResult
  first
  | (simp +contextual (maxDischargeDepth := 60) [h]; done)
  | (try dsimp only); (repeat' (first | (simp +contextual (maxDischargeDepth := 60) [h]; done) | split))

@[simp] theorem sliceBusy_kept {s₀ : State} (j : HifJob) (s : State) (h : Kept s₀ s) :
    Kept s₀ (sliceBusy j s) := by
  unfold sliceBusy
  first
  | (simp +contextual (maxDischargeDepth := 60) [h]; done)
  | (try dsimp only); (repeat' (first | (simp +contextual (maxDischargeDepth := 60) [h]; done) | split))

@[simp] theorem jobDone_kept {s₀ : State} (j : HifJob) (s : State) (h : Kept s₀ s) :
    Kept s₀ (jobDone j s) := by
  unfold jobDone
  first
  | (simp +contextual (maxDischargeDepth := 60) [h]; done)
  | (try dsimp only); (repeat' (first | (simp +contextual (maxDischargeDepth := 60) [h]; done) | split))

@[simp] theorem sliceCmd_kept {s₀ : State} (op : Nat) (v : Word) (run : Nat → State → State) (s : State)
    (h : Kept s₀ s) (hr : ∀ n x, Kept s₀ x → Kept s₀ (run n x)) : Kept s₀ (sliceCmd op v run s) := by
  have := hr (fld v 43 32) (hostStore false R.HIF_SLICE_CMD 0 (setFld v 55 52 op) s) (by simp [h])
  unfold sliceCmd; simp +contextual (maxDischargeDepth := 60) [h, this]

@[simp] theorem execSliceRead_kept {s₀ : State} (v : Word) (s : State) (h : Kept s₀ s) :
    KeptOut s₀ (execSliceRead v s) := by
  unfold execSliceRead
  first
  | (simp +contextual (maxDischargeDepth := 60) [h]; done)
  | (try dsimp only); (repeat' (first | (simp +contextual (maxDischargeDepth := 60) [h]; done) | split))

@[simp] theorem execSliceCastOn_kept {s₀ : State} (v : Word) (s : State) (h : Kept s₀ s) :
    KeptOut s₀ (execSliceCastOn v s) := by
  unfold execSliceCastOn
  first
  | (simp +contextual (maxDischargeDepth := 60) [h]; done)
  | (try dsimp only); (repeat' (first | (simp +contextual (maxDischargeDepth := 60) [h]; done) | split))

@[simp] theorem execSliceResize_kept {s₀ : State} (v : Word) (s : State) (h : Kept s₀ s) :
    KeptOut s₀ (execSliceResize v s) := by
  unfold execSliceResize
  first
  | (simp +contextual (maxDischargeDepth := 60) [h]; done)
  | (try dsimp only); (repeat' (first | (simp +contextual (maxDischargeDepth := 60) [h]; done) | split))

@[simp] theorem sliceFlush_kept {s₀ : State} (n : Nat) (s : State) (h : Kept s₀ s) :
    Kept s₀ (sliceFlush n s) := by
  unfold sliceFlush
  first
  | (simp +contextual (maxDischargeDepth := 60) [h]; done)
  | (try dsimp only); (repeat' (first | (simp +contextual (maxDischargeDepth := 60) [h]; done) | split))

@[simp] theorem stopThreads_kept {s₀ : State} (n : Nat) (s : State) (h : Kept s₀ s) :
    Kept s₀ (stopThreads n s) := by
  unfold stopThreads
  first
  | (simp +contextual (maxDischargeDepth := 60) [h]; done)
  | (try dsimp only); (repeat' (first | (simp +contextual (maxDischargeDepth := 60) [h]; done) | split))

@[simp] theorem sliceReset_kept {s₀ : State} (n : Nat) (s : State) (h : Kept s₀ s) :
    Kept s₀ (sliceReset n s) := by
  unfold sliceReset
  first
  | (simp +contextual (maxDischargeDepth := 60) [h]; done)
  | (try dsimp only); (repeat' (first | (simp +contextual (maxDischargeDepth := 60) [h]; done) | split))

@[simp] theorem resetRequest_kept {s₀ : State} (n : Nat) (s : State) (h : Kept s₀ s) :
    Kept s₀ (resetRequest n s) := by
  unfold resetRequest
  first
  | (simp +contextual (maxDischargeDepth := 60) [h]; done)
  | (try dsimp only); (repeat' (first | (simp +contextual (maxDischargeDepth := 60) [h]; done) | split))

@[simp] theorem execSliceReset_kept {s₀ : State} (v : Word) (s : State) (h : Kept s₀ s) :
    KeptOut s₀ (execSliceReset v s) := by
  unfold execSliceReset
  first
  | (simp +contextual (maxDischargeDepth := 60) [h]; done)
  | (try dsimp only); (repeat' (first | (simp +contextual (maxDischargeDepth := 60) [h]; done) | split))

@[simp] theorem execSliceCtlReset_kept {s₀ : State} (sl : Slice) (v : Word) (s : State) (h : Kept s₀ s) :
    KeptOut s₀ (execSliceCtlReset sl v s) := by
  unfold execSliceCtlReset
  first
  | (simp +contextual (maxDischargeDepth := 60) [h]; done)
  | (try dsimp only); (repeat' (first | (simp +contextual (maxDischargeDepth := 60) [h]; done) | split))

@[simp] theorem ctlApply_kept {s₀ : State} (s : State) (h : Kept s₀ s) :
    Kept s₀ (ctlApply s) := by
  unfold ctlApply
  first
  | (simp +contextual (maxDischargeDepth := 60) [h]; done)
  | (try dsimp only); (repeat' (first | (simp +contextual (maxDischargeDepth := 60) [h]; done) | split))

@[simp] theorem execHeldResetApply_kept {s₀ : State} (sl : Slice) (s : State) (h : Kept s₀ s) :
    KeptOut s₀ (execHeldResetApply sl s) := by
  unfold execHeldResetApply
  first
  | (simp +contextual (maxDischargeDepth := 60) [h]; done)
  | (try dsimp only); (repeat' (first | (simp +contextual (maxDischargeDepth := 60) [h]; done) | split))

@[simp] theorem logEnd_kept {s₀ : State} (n : Nat) (s : State) (h : Kept s₀ s) :
    Kept s₀ (logEnd n s) := by
  unfold logEnd
  first
  | (simp +contextual (maxDischargeDepth := 60) [h]; done)
  | (try dsimp only); (repeat' (first | (simp +contextual (maxDischargeDepth := 60) [h]; done) | split))

@[simp] theorem execSliceRemove_kept {s₀ : State} (v : Word) (s : State) (h : Kept s₀ s) :
    KeptOut s₀ (execSliceRemove v s) := by
  unfold execSliceRemove
  first
  | (simp +contextual (maxDischargeDepth := 60) [h]; done)
  | (try dsimp only); (repeat' (first | (simp +contextual (maxDischargeDepth := 60) [h]; done) | split))

@[simp] theorem execLogStart_kept {s₀ : State} (v : Word) (s : State) (h : Kept s₀ s) :
    KeptOut s₀ (execLogStart v s) := by
  unfold execLogStart
  first
  | (simp +contextual (maxDischargeDepth := 60) [h]; done)
  | (try dsimp only); (repeat' (first | (simp +contextual (maxDischargeDepth := 60) [h]; done) | split))

@[simp] theorem execLogSwap_kept {s₀ : State} (v : Word) (s : State) (h : Kept s₀ s) :
    KeptOut s₀ (execLogSwap v s) := by
  unfold execLogSwap
  first
  | (simp +contextual (maxDischargeDepth := 60) [h]; done)
  | (try dsimp only); (repeat' (first | (simp +contextual (maxDischargeDepth := 60) [h]; done) | split))

@[simp] theorem execLogStop_kept {s₀ : State} (v : Word) (s : State) (h : Kept s₀ s) :
    KeptOut s₀ (execLogStop v s) := by
  unfold execLogStop
  first
  | (simp +contextual (maxDischargeDepth := 60) [h]; done)
  | (try dsimp only); (repeat' (first | (simp +contextual (maxDischargeDepth := 60) [h]; done) | split))

@[simp] theorem execLogFlushDone_kept {s₀ : State} (f : FlushRead) (s : State) (h : Kept s₀ s) :
    KeptOut s₀ (execLogFlushDone f s) := by
  unfold execLogFlushDone
  first
  | (simp +contextual (maxDischargeDepth := 60) [h]; done)
  | (try dsimp only); (repeat' (first | (simp +contextual (maxDischargeDepth := 60) [h]; done) | split))

@[simp] theorem execPf1Flr_kept {s₀ : State} (s : State) (h : Kept s₀ s) :
    KeptOut s₀ (execPf1Flr s) := by
  unfold execPf1Flr
  first
  | (simp +contextual (maxDischargeDepth := 60) [h]; done)
  | (try dsimp only); (repeat' (first | (simp +contextual (maxDischargeDepth := 60) [h]; done) | split))

@[simp] theorem setBme_kept {s₀ : State} (f : PciFn) (b : Bool) (s : State) (h : Kept s₀ s) :
    Kept s₀ (setBme f b s) := by
  unfold setBme
  first
  | (simp +contextual (maxDischargeDepth := 60) [h]; done)
  | (try dsimp only); (repeat' (first | (simp +contextual (maxDischargeDepth := 60) [h]; done) | split))

@[simp] theorem execBusMasterDisable_kept {s₀ : State} (f : PciFn) (s : State) (h : Kept s₀ s) :
    KeptOut s₀ (execBusMasterDisable f s) := by
  unfold execBusMasterDisable
  first
  | (simp +contextual (maxDischargeDepth := 60) [h]; done)
  | (try dsimp only); (repeat' (first | (simp +contextual (maxDischargeDepth := 60) [h]; done) | split))

@[simp] theorem execBusMasterEnable_kept {s₀ : State} (f : PciFn) (s : State) (h : Kept s₀ s) :
    KeptOut s₀ (execBusMasterEnable f s) := by
  unfold execBusMasterEnable
  first
  | (simp +contextual (maxDischargeDepth := 60) [h]; done)
  | (try dsimp only); (repeat' (first | (simp +contextual (maxDischargeDepth := 60) [h]; done) | split))

@[simp] theorem withHrt_kept {s₀ : State} (f : Hrt → Hrt) (s : State) (h : Kept s₀ s) :
    Kept s₀ (withHrt f s) := by
  unfold withHrt
  first
  | (simp +contextual (maxDischargeDepth := 60) [h]; done)
  | (try dsimp only); (repeat' (first | (simp +contextual (maxDischargeDepth := 60) [h]; done) | split))

@[simp] theorem loadEnd_kept {s₀ : State} (result done fail : Nat) (s : State) (h : Kept s₀ s) :
    Kept s₀ (loadEnd result done fail s) := by
  unfold loadEnd
  first
  | (simp +contextual (maxDischargeDepth := 60) [h]; done)
  | (try dsimp only); (repeat' (first | (simp +contextual (maxDischargeDepth := 60) [h]; done) | split))

@[simp] theorem execBankLoad_kept {s₀ : State} (v : Word) (s : State) (h : Kept s₀ s) :
    KeptOut s₀ (execBankLoad v s) := by
  unfold execBankLoad
  first
  | (simp +contextual (maxDischargeDepth := 60) [h]; done)
  | (try dsimp only); (repeat' (first | (simp +contextual (maxDischargeDepth := 60) [h]; done) | split))

@[simp] theorem loadBank_kept {s₀ : State} (img plain : Bytes) (s : State) (c : Nat) (h : Kept s₀ s) :
    Kept s₀ (loadBank img plain s c) := by
  unfold loadBank
  first
  | (simp +contextual (maxDischargeDepth := 60) [h]; done)
  | (try dsimp only); (repeat' (first | (simp +contextual (maxDischargeDepth := 60) [h]; done) | split))

@[simp] theorem execBankLoadDone_kept {s₀ : State} (img : ImageFetch) (s : State) (h : Kept s₀ s) :
    KeptOut s₀ (execBankLoadDone img s) := by
  unfold execBankLoadDone
  first
  | (simp +contextual (maxDischargeDepth := 60) [h]; done)
  | (try dsimp only); (repeat' (first | (simp +contextual (maxDischargeDepth := 60) [h]; done) | split))

@[simp] theorem withLiu_kept {s₀ : State} (f : Liu → Liu) (s : State) (h : Kept s₀ s) :
    Kept s₀ (withLiu f s) := by
  unfold withLiu
  first
  | (simp +contextual (maxDischargeDepth := 60) [h]; done)
  | (try dsimp only); (repeat' (first | (simp +contextual (maxDischargeDepth := 60) [h]; done) | split))

@[simp] theorem setLiuPort_kept {s₀ : State} (p : Nat) (x : LiuPort) (s : State) (h : Kept s₀ s) :
    Kept s₀ (setLiuPort p x s) := by
  unfold setLiuPort
  first
  | (simp +contextual (maxDischargeDepth := 60) [h]; done)
  | (try dsimp only); (repeat' (first | (simp +contextual (maxDischargeDepth := 60) [h]; done) | split))

@[simp] theorem cfgNote_kept {s₀ : State} (p : Nat) (s : State) (h : Kept s₀ s) :
    Kept s₀ (cfgNote p s) := by
  unfold cfgNote
  first
  | (simp +contextual (maxDischargeDepth := 60) [h]; done)
  | (try dsimp only); (repeat' (first | (simp +contextual (maxDischargeDepth := 60) [h]; done) | split))

@[simp] theorem saFields_kept {s₀ : State} (p d a : Nat) (v : Word) (s : State) (h : Kept s₀ s) :
    Kept s₀ (saFields p d a v s) := by
  unfold saFields
  first
  | (simp +contextual (maxDischargeDepth := 60) [h]; done)
  | (try dsimp only); (repeat' (first | (simp +contextual (maxDischargeDepth := 60) [h]; done) | split))

@[simp] theorem execMacsecSaEnable_kept {s₀ : State} (p : Port) (d : Dir) (a : An) (v : Word) (s : State) (h : Kept
    s₀ s) :
    KeptOut s₀ (execMacsecSaEnable p d a v s) := by
  unfold execMacsecSaEnable
  first
  | (simp +contextual (maxDischargeDepth := 60) [h]; done)
  | (try dsimp only); (repeat' (first | (simp +contextual (maxDischargeDepth := 60) [h]; done) | split))

@[simp] theorem saOff_kept {s₀ : State} (p d a : Nat) (s : State) (h : Kept s₀ s) :
    Kept s₀ (saOff p d a s) := by
  unfold saOff
  first
  | (simp +contextual (maxDischargeDepth := 60) [h]; done)
  | (try dsimp only); (repeat' (first | (simp +contextual (maxDischargeDepth := 60) [h]; done) | split))

@[simp] theorem execMacsecSaDisable_kept {s₀ : State} (p : Port) (d : Dir) (a : An) (v : Word) (s : State) (h : Kept
    s₀ s) :
    KeptOut s₀ (execMacsecSaDisable p d a v s) := by
  unfold execMacsecSaDisable
  first
  | (simp +contextual (maxDischargeDepth := 60) [h]; done)
  | (try dsimp only); (repeat' (first | (simp +contextual (maxDischargeDepth := 60) [h]; done) | split))

@[simp] theorem saErase_kept {s₀ : State} (slot : Nat) (s : State) (h : Kept s₀ s) :
    Kept s₀ (saErase slot s) := by
  unfold saErase
  first
  | (simp +contextual (maxDischargeDepth := 60) [h]; done)
  | (try dsimp only); (repeat' (first | (simp +contextual (maxDischargeDepth := 60) [h]; done) | split))

@[simp] theorem execMsecSwitchWrite_kept {s₀ : State} (v : Word) (s : State) (h : Kept s₀ s) :
    KeptOut s₀ (execMsecSwitchWrite v s) := by
  unfold execMsecSwitchWrite
  first
  | (simp +contextual (maxDischargeDepth := 60) [h]; done)
  | (try dsimp only); (repeat' (first | (simp +contextual (maxDischargeDepth := 60) [h]; done) | split))

@[simp] theorem msecSwitch_kept {s₀ : State} (arg : Nat) (s : State) (h : Kept s₀ s) :
    Kept s₀ (msecSwitch arg s) := by
  unfold msecSwitch
  first
  | (simp +contextual (maxDischargeDepth := 60) [h]; done)
  | (try dsimp only); (repeat' (first | (simp +contextual (maxDischargeDepth := 60) [h]; done) | split))

@[simp] theorem execMacsecAssociationSwitch_kept {s₀ : State} (s : State) (h : Kept s₀ s) :
    KeptOut s₀ (execMacsecAssociationSwitch s) := by
  unfold execMacsecAssociationSwitch
  first
  | (simp +contextual (maxDischargeDepth := 60) [h]; done)
  | (try dsimp only); (repeat' (first | (simp +contextual (maxDischargeDepth := 60) [h]; done) | split))

@[simp] theorem execRxOverlapEnd_kept {s₀ : State} (p : Port) (s : State) (h : Kept s₀ s) :
    KeptOut s₀ (execRxOverlapEnd p s) := by
  unfold execRxOverlapEnd
  first
  | (simp +contextual (maxDischargeDepth := 60) [h]; done)
  | (try dsimp only); (repeat' (first | (simp +contextual (maxDischargeDepth := 60) [h]; done) | split))

@[simp] theorem msecDrop_kept {s₀ : State} (p k : Nat) (s : State) (h : Kept s₀ s) :
    Kept s₀ (msecDrop p k s) := by
  unfold msecDrop
  first
  | (simp +contextual (maxDischargeDepth := 60) [h]; done)
  | (try dsimp only); (repeat' (first | (simp +contextual (maxDischargeDepth := 60) [h]; done) | split))

@[simp] theorem rxPn_kept {s₀ : State} (p : Nat) (f : SecFrame) (s : State) (h : Kept s₀ s) :
    Kept s₀ (rxPn p f s) := by
  unfold rxPn
  first
  | (simp +contextual (maxDischargeDepth := 60) [h]; done)
  | (try dsimp only); (repeat' (first | (simp +contextual (maxDischargeDepth := 60) [h]; done) | split))

@[simp] theorem msecRx_kept {s₀ : State} (v : SecView) (p : Nat) (raw : Bytes) (s : State) (h : Kept s₀ s) :
    Kept s₀ (msecRx v p raw s).2 := by
  unfold msecRx
  first
  | (simp +contextual (maxDischargeDepth := 60) [h]; done)
  | (try dsimp only); (repeat' (first | (simp +contextual (maxDischargeDepth := 60) [h]; done) | split))

@[simp] theorem txPn_kept {s₀ : State} (p a : Nat) (s : State) (h : Kept s₀ s) :
    Kept s₀ (txPn p a s) := by
  unfold txPn
  first
  | (simp +contextual (maxDischargeDepth := 60) [h]; done)
  | (try dsimp only); (repeat' (first | (simp +contextual (maxDischargeDepth := 60) [h]; done) | split))

@[simp] theorem msecTx_kept {s₀ : State} (v : SecView) (p : Nat) (bs : Bytes) (s : State) (h : Kept s₀ s) :
    Kept s₀ (msecTx v p bs s).2 := by
  unfold msecTx
  first
  | (simp +contextual (maxDischargeDepth := 60) [h]; done)
  | (try dsimp only); (repeat' (first | (simp +contextual (maxDischargeDepth := 60) [h]; done) | split))

@[simp] theorem withTau_kept {s₀ : State} (f : Tau → Tau) (s : State) (h : Kept s₀ s) :
    Kept s₀ (withTau f s) := by
  unfold withTau
  first
  | (simp +contextual (maxDischargeDepth := 60) [h]; done)
  | (try dsimp only); (repeat' (first | (simp +contextual (maxDischargeDepth := 60) [h]; done) | split))

@[simp] theorem tauStatus_kept {s₀ : State} (k : Nat) (s : State) (h : Kept s₀ s) :
    Kept s₀ (tauStatus k s) := by
  unfold tauStatus
  first
  | (simp +contextual (maxDischargeDepth := 60) [h]; done)
  | (try dsimp only); (repeat' (first | (simp +contextual (maxDischargeDepth := 60) [h]; done) | split))

@[simp] theorem discipline_kept {s₀ : State} (s : State) (h : Kept s₀ s) :
    Kept s₀ (discipline s) := by
  unfold discipline
  first
  | (simp +contextual (maxDischargeDepth := 60) [h]; done)
  | (try dsimp only); (repeat' (first | (simp +contextual (maxDischargeDepth := 60) [h]; done) | split))

@[simp] theorem execPhcSecRead_kept {s₀ : State} (s : State) (h : Kept s₀ s) :
    KeptOut s₀ (execPhcSecRead s) := by
  unfold execPhcSecRead
  first
  | (simp +contextual (maxDischargeDepth := 60) [h]; done)
  | (try dsimp only); (repeat' (first | (simp +contextual (maxDischargeDepth := 60) [h]; done) | split))

@[simp] theorem holdTimeout_kept {s₀ : State} (v : Word) (s : State) (h : Kept s₀ s) :
    Kept s₀ (holdTimeout v s) := by
  unfold holdTimeout
  first
  | (simp +contextual (maxDischargeDepth := 60) [h]; done)
  | (try dsimp only); (repeat' (first | (simp +contextual (maxDischargeDepth := 60) [h]; done) | split))

@[simp] theorem askStep_kept {s₀ : State} (r : StepReq) (s : State) (h : Kept s₀ s) :
    Kept s₀ (askStep r s) := by
  unfold askStep
  first
  | (simp +contextual (maxDischargeDepth := 60) [h]; done)
  | (try dsimp only); (repeat' (first | (simp +contextual (maxDischargeDepth := 60) [h]; done) | split))

@[simp] theorem execPhcStepAbs_kept {s₀ : State} (v : Word) (s : State) (h : Kept s₀ s) :
    KeptOut s₀ (execPhcStepAbs v s) := by
  unfold execPhcStepAbs
  first
  | (simp +contextual (maxDischargeDepth := 60) [h]; done)
  | (try dsimp only); (repeat' (first | (simp +contextual (maxDischargeDepth := 60) [h]; done) | split))

@[simp] theorem execPhcStepRel_kept {s₀ : State} (v : Word) (s : State) (h : Kept s₀ s) :
    KeptOut s₀ (execPhcStepRel v s) := by
  unfold execPhcStepRel
  first
  | (simp +contextual (maxDischargeDepth := 60) [h]; done)
  | (try dsimp only); (repeat' (first | (simp +contextual (maxDischargeDepth := 60) [h]; done) | split))

@[simp] theorem execPhcFreqWrite_kept {s₀ : State} (v : Word) (s : State) (h : Kept s₀ s) :
    KeptOut s₀ (execPhcFreqWrite v s) := by
  unfold execPhcFreqWrite
  first
  | (simp +contextual (maxDischargeDepth := 60) [h]; done)
  | (try dsimp only); (repeat' (first | (simp +contextual (maxDischargeDepth := 60) [h]; done) | split))

@[simp] theorem execHoldTimeoutWrite_kept {s₀ : State} (v : Word) (s : State) (h : Kept s₀ s) :
    KeptOut s₀ (execHoldTimeoutWrite v s) := by
  unfold execHoldTimeoutWrite
  first
  | (simp +contextual (maxDischargeDepth := 60) [h]; done)
  | (try dsimp only); (repeat' (first | (simp +contextual (maxDischargeDepth := 60) [h]; done) | split))

@[simp] theorem holdTick_kept {s₀ : State} (s : State) (h : Kept s₀ s) :
    Kept s₀ (holdTick s) := by
  unfold holdTick
  first
  | (simp +contextual (maxDischargeDepth := 60) [h]; done)
  | (try dsimp only); (repeat' (first | (simp +contextual (maxDischargeDepth := 60) [h]; done) | split))

@[simp] theorem execHoldoverEnter_kept {s₀ : State} (s : State) (h : Kept s₀ s) :
    KeptOut s₀ (execHoldoverEnter s) := by
  unfold execHoldoverEnter
  first
  | (simp +contextual (maxDischargeDepth := 60) [h]; done)
  | (try dsimp only); (repeat' (first | (simp +contextual (maxDischargeDepth := 60) [h]; done) | split))

@[simp] theorem refLoss_kept {s₀ : State} (s : State) (h : Kept s₀ s) :
    Kept s₀ (refLoss s) := by
  unfold refLoss
  first
  | (simp +contextual (maxDischargeDepth := 60) [h]; done)
  | (try dsimp only); (repeat' (first | (simp +contextual (maxDischargeDepth := 60) [h]; done) | split))

@[simp] theorem execRefLoss_kept {s₀ : State} (s : State) (h : Kept s₀ s) :
    KeptOut s₀ (execRefLoss s) := by
  unfold execRefLoss
  first
  | (simp +contextual (maxDischargeDepth := 60) [h]; done)
  | (try dsimp only); (repeat' (first | (simp +contextual (maxDischargeDepth := 60) [h]; done) | split))

@[simp] theorem execPpsInEdge_kept {s₀ : State} (s : State) (h : Kept s₀ s) :
    KeptOut s₀ (execPpsInEdge s) := by
  unfold execPpsInEdge
  first
  | (simp +contextual (maxDischargeDepth := 60) [h]; done)
  | (try dsimp only); (repeat' (first | (simp +contextual (maxDischargeDepth := 60) [h]; done) | split))

@[simp] theorem execPpsInLoss_kept {s₀ : State} (s : State) (h : Kept s₀ s) :
    KeptOut s₀ (execPpsInLoss s) := by
  unfold execPpsInLoss
  first
  | (simp +contextual (maxDischargeDepth := 60) [h]; done)
  | (try dsimp only); (repeat' (first | (simp +contextual (maxDischargeDepth := 60) [h]; done) | split))

@[simp] theorem execPpsOutEdge_kept {s₀ : State} (s : State) (h : Kept s₀ s) :
    KeptOut s₀ (execPpsOutEdge s) := by
  unfold execPpsOutEdge
  first
  | (simp +contextual (maxDischargeDepth := 60) [h]; done)
  | (try dsimp only); (repeat' (first | (simp +contextual (maxDischargeDepth := 60) [h]; done) | split))

@[simp] theorem ppsDrop_kept {s₀ : State} (s : State) (h : Kept s₀ s) :
    Kept s₀ (ppsDrop s) := by
  unfold ppsDrop
  first
  | (simp +contextual (maxDischargeDepth := 60) [h]; done)
  | (try dsimp only); (repeat' (first | (simp +contextual (maxDischargeDepth := 60) [h]; done) | split))

@[simp] theorem execPpsOutPulseEnd_kept {s₀ : State} (s : State) (h : Kept s₀ s) :
    KeptOut s₀ (execPpsOutPulseEnd s) := by
  unfold execPpsOutPulseEnd
  first
  | (simp +contextual (maxDischargeDepth := 60) [h]; done)
  | (try dsimp only); (repeat' (first | (simp +contextual (maxDischargeDepth := 60) [h]; done) | split))

@[simp] theorem todWrite_kept {s₀ : State} (v : Word) (s : State) (h : Kept s₀ s) :
    Kept s₀ (todWrite v s) := by
  unfold todWrite
  first
  | (simp +contextual (maxDischargeDepth := 60) [h]; done)
  | (try dsimp only); (repeat' (first | (simp +contextual (maxDischargeDepth := 60) [h]; done) | split))

@[simp] theorem todLength_kept {s₀ : State} (s : State) (h : Kept s₀ s) :
    Kept s₀ (todLength s) := by
  unfold todLength
  first
  | (simp +contextual (maxDischargeDepth := 60) [h]; done)
  | (try dsimp only); (repeat' (first | (simp +contextual (maxDischargeDepth := 60) [h]; done) | split))

@[simp] theorem execTodMessageSend_kept {s₀ : State} (s : State) (h : Kept s₀ s) :
    KeptOut s₀ (execTodMessageSend s) := by
  unfold execTodMessageSend
  first
  | (simp +contextual (maxDischargeDepth := 60) [h]; done)
  | (try dsimp only); (repeat' (first | (simp +contextual (maxDischargeDepth := 60) [h]; done) | split))

@[simp] theorem execTodByteRx_kept {s₀ : State} (b : Byte) (sec ns : Word) (s : State) (h : Kept s₀ s) :
    KeptOut s₀ (execTodByteRx b sec ns s) := by
  unfold execTodByteRx
  first
  | (simp +contextual (maxDischargeDepth := 60) [h]; done)
  | (try dsimp only); (repeat' (first | (simp +contextual (maxDischargeDepth := 60) [h]; done) | split))

@[simp] theorem execTodRxRead_kept {s₀ : State} (s : State) (h : Kept s₀ s) :
    KeptOut s₀ (execTodRxRead s) := by
  unfold execTodRxRead
  first
  | (simp +contextual (maxDischargeDepth := 60) [h]; done)
  | (try dsimp only); (repeat' (first | (simp +contextual (maxDischargeDepth := 60) [h]; done) | split))

@[simp] theorem execBridgeTimeFault_kept {s₀ : State} (s : State) (h : Kept s₀ s) :
    KeptOut s₀ (execBridgeTimeFault s) := by
  unfold execBridgeTimeFault
  first
  | (simp +contextual (maxDischargeDepth := 60) [h]; done)
  | (try dsimp only); (repeat' (first | (simp +contextual (maxDischargeDepth := 60) [h]; done) | split))

@[simp] theorem execTimeLaneRelock_kept {s₀ : State} (s : State) (h : Kept s₀ s) :
    KeptOut s₀ (execTimeLaneRelock s) := by
  unfold execTimeLaneRelock
  first
  | (simp +contextual (maxDischargeDepth := 60) [h]; done)
  | (try dsimp only); (repeat' (first | (simp +contextual (maxDischargeDepth := 60) [h]; done) | split))

@[simp] theorem execTaArm_kept {s₀ : State} (n : TaIdx) (v : Word) (s : State) (h : Kept s₀ s) :
    KeptOut s₀ (execTaArm n v s) := by
  unfold execTaArm
  first
  | (simp +contextual (maxDischargeDepth := 60) [h]; done)
  | (try dsimp only); (repeat' (first | (simp +contextual (maxDischargeDepth := 60) [h]; done) | split))

@[simp] theorem execTaDisarm_kept {s₀ : State} (n : TaIdx) (v : Word) (s : State) (h : Kept s₀ s) :
    KeptOut s₀ (execTaDisarm n v s) := by
  unfold execTaDisarm
  first
  | (simp +contextual (maxDischargeDepth := 60) [h]; done)
  | (try dsimp only); (repeat' (first | (simp +contextual (maxDischargeDepth := 60) [h]; done) | split))

@[simp] theorem taFallDue_kept {s₀ : State} (step : Bool) (s : State) (h : Kept s₀ s) :
    Kept s₀ (taFallDue step s) := by
  unfold taFallDue
  first
  | (simp +contextual (maxDischargeDepth := 60) [h]; done)
  | (try dsimp only); (repeat' (first | (simp +contextual (maxDischargeDepth := 60) [h]; done) | split))

@[simp] theorem withBpm_kept {s₀ : State} (f : Bpm → Bpm) (s : State) (h : Kept s₀ s) :
    Kept s₀ (withBpm f s) := by
  unfold withBpm
  first
  | (simp +contextual (maxDischargeDepth := 60) [h]; done)
  | (try dsimp only); (repeat' (first | (simp +contextual (maxDischargeDepth := 60) [h]; done) | split))

@[simp] theorem setPoolSt_kept {s₀ : State} (n : Nat) (p : PoolSt) (s : State) (h : Kept s₀ s) :
    Kept s₀ (setPoolSt n p s) := by
  unfold setPoolSt
  first
  | (simp +contextual (maxDischargeDepth := 60) [h]; done)
  | (try dsimp only); (repeat' (first | (simp +contextual (maxDischargeDepth := 60) [h]; done) | split))

@[simp] theorem setTag_kept {s₀ : State} (n i t : Nat) (s : State) (h : Kept s₀ s) :
    Kept s₀ (setTag n i t s) := by
  unfold setTag
  first
  | (simp +contextual (maxDischargeDepth := 60) [h]; done)
  | (try dsimp only); (repeat' (first | (simp +contextual (maxDischargeDepth := 60) [h]; done) | split))

@[simp] theorem tagUse_kept {s₀ : State} (n i : Nat) (write : Bool) (s : State) (h : Kept s₀ s) :
    Kept s₀ (tagUse n i write s) := by
  unfold tagUse
  first
  | (simp +contextual (maxDischargeDepth := 60) [h]; done)
  | (try dsimp only); (repeat' (first | (simp +contextual (maxDischargeDepth := 60) [h]; done) | split))

@[simp] theorem billetUse_kept {s₀ : State} (n i : Nat) (write : Bool) (s : State) (h : Kept s₀ s) :
    Kept s₀ (billetUse n i write s) := by
  unfold billetUse
  first
  | (simp +contextual (maxDischargeDepth := 60) [h]; done)
  | (try dsimp only); (repeat' (first | (simp +contextual (maxDischargeDepth := 60) [h]; done) | split))

theorem allocFrom_kept {s₀ : State} (n owner : Nat) (s : State) (h : Kept s₀ s) :
    ∀ i t, allocFrom n owner s = some (i, t) → Kept s₀ t := by
  intro i t e
  unfold allocFrom at e
  rw [Option.map_eq_some_iff] at e
  obtain ⟨r, -, e⟩ := e
  cases e
  simp +contextual (maxDischargeDepth := 60) [h]

@[simp] theorem countRefused_kept {s₀ : State} (n : Nat) (s : State) (h : Kept s₀ s) :
    Kept s₀ (countRefused n s) := by
  unfold countRefused
  first
  | (simp +contextual (maxDischargeDepth := 60) [h]; done)
  | (try dsimp only); (repeat' (first | (simp +contextual (maxDischargeDepth := 60) [h]; done) | split))

@[simp] theorem bpmAllocate_kept {s₀ : State} (owner size mask : Nat) (s : State) (h : Kept s₀ s) :
    Kept s₀ (bpmAllocate owner size mask s).2.2 := by
  unfold bpmAllocate
  dsimp only
  repeat' split
  · exact allocFrom_kept _ _ s h _ _ ‹_›
  all_goals simp +contextual (maxDischargeDepth := 60) [h]

theorem tmgAllocate_kept {s₀ : State} (n : Nat) (s : State) (h : Kept s₀ s) :
    ∀ k t, tmgAllocate n s = some (k, t) → Kept s₀ t := by
  intro k t e
  unfold tmgAllocate at e
  split at e
  · rw [Option.map_eq_some_iff] at e
    obtain ⟨⟨i, u⟩, e', e⟩ := e
    cases e
    exact billetUse_kept _ _ _ _ (allocFrom_kept _ _ s h _ _ e')
  · cases e

@[simp] theorem bpmRefuse_kept {s₀ : State} (code req n i : Nat) (s : State) (h : Kept s₀ s) :
    Kept s₀ (bpmRefuse code req n i s) := by
  unfold bpmRefuse
  first
  | (simp +contextual (maxDischargeDepth := 60) [h]; done)
  | (try dsimp only); (repeat' (first | (simp +contextual (maxDischargeDepth := 60) [h]; done) | split))

@[simp] theorem freeBillet_kept {s₀ : State} (n i : Nat) (s : State) (h : Kept s₀ s) :
    Kept s₀ (freeBillet n i s) := by
  unfold freeBillet
  first
  | (simp +contextual (maxDischargeDepth := 60) [h]; done)
  | (try dsimp only); (repeat' (first | (simp +contextual (maxDischargeDepth := 60) [h]; done) | split))

@[simp] theorem bpmApply_kept {s₀ : State} (op : BilletOp) (n i : Nat) (s : State) (h : Kept s₀ s) :
    Kept s₀ (bpmApply op n i s) := by
  unfold bpmApply
  first
  | (simp +contextual (maxDischargeDepth := 60) [h]; done)
  | (try dsimp only); (repeat' (first | (simp +contextual (maxDischargeDepth := 60) [h]; done) | split))

@[simp] theorem tagRead_kept {s₀ : State} (n i : Nat) (o : ReadOutcome) (s : State) (h : Kept s₀ s) :
    Kept s₀ (tagRead n i o s) := by
  unfold tagRead
  first
  | (simp +contextual (maxDischargeDepth := 60) [h]; done)
  | (try dsimp only); (repeat' (first | (simp +contextual (maxDischargeDepth := 60) [h]; done) | split))

@[simp] theorem bpmOp_kept {s₀ : State} (op : BilletOp) (req n i : Nat) (o : ReadOutcome) (s : State) (h : Kept s₀
    s) :
    Kept s₀ (bpmOp op req n i o s).2 := by
  unfold bpmOp
  first
  | (simp +contextual (maxDischargeDepth := 60) [h]; done)
  | (try dsimp only); (repeat' (first | (simp +contextual (maxDischargeDepth := 60) [h]; done) | split))

@[simp] theorem cellOp_kept {s₀ : State} (op : BilletOp) (key : Nat) (s : State) (h : Kept s₀ s) :
    Kept s₀ (cellOp op key s) := by
  unfold cellOp
  first
  | (simp +contextual (maxDischargeDepth := 60) [h]; done)
  | (try dsimp only); (repeat' (first | (simp +contextual (maxDischargeDepth := 60) [h]; done) | split))

@[simp] theorem cellFree_kept {s₀ : State} (key : Nat) (s : State) (h : Kept s₀ s) :
    Kept s₀ (cellFree key s) := by
  unfold cellFree
  first
  | (simp +contextual (maxDischargeDepth := 60) [h]; done)
  | (try dsimp only); (repeat' (first | (simp +contextual (maxDischargeDepth := 60) [h]; done) | split))

@[simp] theorem cellsFree_kept {s₀ : State} (ks : List Nat) (s : State) (h : Kept s₀ s) :
    Kept s₀ (cellsFree ks s) := by
  unfold cellsFree
  first
  | (simp +contextual (maxDischargeDepth := 60) [h]; done)
  | (try dsimp only); (repeat' (first | (simp +contextual (maxDischargeDepth := 60) [h]; done) | split))

@[simp] theorem letGoTick_kept {s₀ : State} (s : State) (h : Kept s₀ s) :
    Kept s₀ (letGoTick s) := by
  unfold letGoTick
  first
  | (simp +contextual (maxDischargeDepth := 60) [h]; done)
  | (try dsimp only); (repeat' (first | (simp +contextual (maxDischargeDepth := 60) [h]; done) | split))

@[simp] theorem cellsShare_kept {s₀ : State} (n : Nat) (ks : List Nat) (s : State) (h : Kept s₀ s) :
    Kept s₀ (cellsShare n ks s) := by
  unfold cellsShare
  first
  | (simp +contextual (maxDischargeDepth := 60) [h]; done)
  | (try dsimp only); (repeat' (first | (simp +contextual (maxDischargeDepth := 60) [h]; done) | split))

@[simp] theorem execAllocationRequest_kept {s₀ : State} (r : Requester) (owner : Requester) (size : Nat)
    (mask : BitVec 16) (s : State) (h : Kept s₀ s) : KeptOut s₀ (execAllocationRequest r owner size mask s) := by
  unfold execAllocationRequest; simp +contextual (maxDischargeDepth := 60) [h]

@[simp] theorem bpmRequest_kept {s₀ : State} (op : BilletOp) (r : Requester) (g : TagRead) (s : State) (h : Kept s₀
    s) :
    Kept s₀ (bpmRequest op r g s) := by
  unfold bpmRequest
  first
  | (simp +contextual (maxDischargeDepth := 60) [h]; done)
  | (try dsimp only); (repeat' (first | (simp +contextual (maxDischargeDepth := 60) [h]; done) | split))

@[simp] theorem execReleaseRequest_kept {s₀ : State} (r : Requester) (g : Handle) (tag : ReadOutcome) (s : State)
    (h : Kept s₀ s) : KeptOut s₀ (execReleaseRequest r g tag s) := by
  unfold execReleaseRequest; simp +contextual (maxDischargeDepth := 60) [h]

@[simp] theorem execIncrementRequest_kept {s₀ : State} (r : Requester) (g : TagRead) (n : Nat) (s : State)
    (h : Kept s₀ s) : KeptOut s₀ (execIncrementRequest r g n s) := by
  unfold execIncrementRequest; simp +contextual (maxDischargeDepth := 60) [h]

@[simp] theorem execTransferRequest_kept {s₀ : State} (r : Requester) (g : TagRead) (owner : Requester) (s : State)
    (h : Kept s₀ s) : KeptOut s₀ (execTransferRequest r g owner s) := by
  unfold execTransferRequest; simp +contextual (maxDischargeDepth := 60) [h]

@[simp] theorem poolFields_kept {s₀ : State} (n : Nat) (v : Word) (s : State) (h : Kept s₀ s) :
    Kept s₀ (poolFields n v s) := by
  unfold poolFields
  first
  | (simp +contextual (maxDischargeDepth := 60) [h]; done)
  | (try dsimp only); (repeat' (first | (simp +contextual (maxDischargeDepth := 60) [h]; done) | split))

@[simp] theorem poolEnable_kept {s₀ : State} (k : Nat) (v : Word) (s : State) (h : Kept s₀ s) :
    Kept s₀ (poolEnable k v s) := by
  unfold poolEnable
  first
  | (simp +contextual (maxDischargeDepth := 60) [h]; done)
  | (try dsimp only); (repeat' (first | (simp +contextual (maxDischargeDepth := 60) [h]; done) | split))

@[simp] theorem execPoolEnable_kept {s₀ : State} (n : Pool) (v : Word) (s : State) (h : Kept s₀ s) :
    KeptOut s₀ (execPoolEnable n v s) := by
  unfold execPoolEnable
  first
  | (simp +contextual (maxDischargeDepth := 60) [h]; done)
  | (try dsimp only); (repeat' (first | (simp +contextual (maxDischargeDepth := 60) [h]; done) | split))

@[simp] theorem poolDisable_kept {s₀ : State} (k : Nat) (v : Word) (s : State) (h : Kept s₀ s) :
    Kept s₀ (poolDisable k v s) := by
  unfold poolDisable
  first
  | (simp +contextual (maxDischargeDepth := 60) [h]; done)
  | (try dsimp only); (repeat' (first | (simp +contextual (maxDischargeDepth := 60) [h]; done) | split))

@[simp] theorem execPoolDisable_kept {s₀ : State} (n : Pool) (v : Word) (s : State) (h : Kept s₀ s) :
    KeptOut s₀ (execPoolDisable n v s) := by
  unfold execPoolDisable
  first
  | (simp +contextual (maxDischargeDepth := 60) [h]; done)
  | (try dsimp only); (repeat' (first | (simp +contextual (maxDischargeDepth := 60) [h]; done) | split))

@[simp] theorem bpmStatus_kept {s₀ : State} (b : Nat) (s : State) (h : Kept s₀ s) :
    Kept s₀ (bpmStatus b s) := by
  unfold bpmStatus
  first
  | (simp +contextual (maxDischargeDepth := 60) [h]; done)
  | (try dsimp only); (repeat' (first | (simp +contextual (maxDischargeDepth := 60) [h]; done) | split))

@[simp] theorem poolTick_kept {s₀ : State} (s : State) (n : Nat) (h : Kept s₀ s) :
    Kept s₀ (poolTick s n) := by
  unfold poolTick
  first
  | (simp +contextual (maxDischargeDepth := 60) [h]; done)
  | (try dsimp only); (repeat' (first | (simp +contextual (maxDischargeDepth := 60) [h]; done) | split))

@[simp] theorem bpmTick_kept {s₀ : State} (s : State) (h : Kept s₀ s) :
    Kept s₀ (bpmTick s) := by
  unfold bpmTick
  first
  | (simp +contextual (maxDischargeDepth := 60) [h]; done)
  | (try dsimp only); (repeat' (first | (simp +contextual (maxDischargeDepth := 60) [h]; done) | split))

@[simp] theorem bpmLost_kept {s₀ : State} (m : MemCtl) (s : State) (h : Kept s₀ s) :
    Kept s₀ (bpmLost m s) := by
  unfold bpmLost
  first
  | (simp +contextual (maxDischargeDepth := 60) [h]; done)
  | (try dsimp only); (repeat' (first | (simp +contextual (maxDischargeDepth := 60) [h]; done) | split))

@[simp] theorem bpmReturnOwner_kept {s₀ : State} (owner : Nat) (s : State) (h : Kept s₀ s) :
    Kept s₀ (bpmReturnOwner owner s) := by
  unfold bpmReturnOwner
  first
  | (simp +contextual (maxDischargeDepth := 60) [h]; done)
  | (try dsimp only); (repeat' (first | (simp +contextual (maxDischargeDepth := 60) [h]; done) | split))

@[simp] theorem bpmStart_kept {s₀ : State} (op : Nat) (v : Word) (run : State → Nat × State) (s : State)
    (h : Kept s₀ s) (hr : ∀ x, Kept s₀ x → Kept s₀ (run x).2) : Kept s₀ (bpmStart op v run s) := by
  have := hr (rset s R.BPM_CMD 0 (writeReg false R.BPM_CMD (rget s R.BPM_CMD 0) (setFld v 55 52 op))) (by simp [h])
  unfold bpmStart; simp +contextual (maxDischargeDepth := 60) [h, this]

@[simp] theorem bpmRow_kept {s₀ : State} (op : Nat) (v : Word) (run : State → Nat × State) (s : State)
    (h : Kept s₀ s) (hr : ∀ x, Kept s₀ x → Kept s₀ (run x).2) : KeptOut s₀ (bpmRow op v run s) := by
  unfold bpmRow
  exact servedWrite_kept _ _ _ ((keptOut_next _ _).2 (bpmStart_kept _ _ _ _ h hr)) h

@[simp] theorem execBpmAllocate_kept {s₀ : State} (v : Word) (s : State) (h : Kept s₀ s) :
    KeptOut s₀ (execBpmAllocate v s) := by
  unfold execBpmAllocate
  refine bpmRow_kept _ _ _ _ h fun x hx => ?_
  extract_lets r
  have : Kept s₀ r.2.2 := by simp (maxDischargeDepth := 60) [r, hx]
  split <;> simp (maxDischargeDepth := 60) [this]

@[simp] theorem execBpmRelease_kept {s₀ : State} (v : TaggedWord) (s : State) (h : Kept s₀ s) :
    KeptOut s₀ (execBpmRelease v s) := by
  unfold execBpmRelease
  first
  | (simp +contextual (maxDischargeDepth := 60) [h]; done)
  | (refine bpmRow_kept _ _ _ _ h fun x hx => ?_; (try dsimp only); repeat' (first | (simp +contextual (maxDischargeDepth := 60) [h, hx]; done) | split)) | (split <;> first | (simp +contextual (maxDischargeDepth := 60) [h]; done) | (refine bpmRow_kept _ _ _ _ h fun x hx => ?_; (try dsimp only); repeat' (first | (simp +contextual (maxDischargeDepth := 60) [h, hx]; done) | split)))

@[simp] theorem execBpmIncrement_kept {s₀ : State} (v : TaggedWord) (s : State) (h : Kept s₀ s) :
    KeptOut s₀ (execBpmIncrement v s) := by
  unfold execBpmIncrement
  first
  | (simp +contextual (maxDischargeDepth := 60) [h]; done)
  | (refine bpmRow_kept _ _ _ _ h fun x hx => ?_; (try dsimp only); repeat' (first | (simp +contextual (maxDischargeDepth := 60) [h, hx]; done) | split)) | (split <;> first | (simp +contextual (maxDischargeDepth := 60) [h]; done) | (refine bpmRow_kept _ _ _ _ h fun x hx => ?_; (try dsimp only); repeat' (first | (simp +contextual (maxDischargeDepth := 60) [h, hx]; done) | split)))

@[simp] theorem execBpmTransfer_kept {s₀ : State} (v : TaggedWord) (s : State) (h : Kept s₀ s) :
    KeptOut s₀ (execBpmTransfer v s) := by
  unfold execBpmTransfer
  first
  | (simp +contextual (maxDischargeDepth := 60) [h]; done)
  | (refine bpmRow_kept _ _ _ _ h fun x hx => ?_; (try dsimp only); repeat' (first | (simp +contextual (maxDischargeDepth := 60) [h, hx]; done) | split)) | (split <;> first | (simp +contextual (maxDischargeDepth := 60) [h]; done) | (refine bpmRow_kept _ _ _ _ h fun x hx => ?_; (try dsimp only); repeat' (first | (simp +contextual (maxDischargeDepth := 60) [h, hx]; done) | split)))

@[simp] theorem execBpmRead_kept {s₀ : State} (v : TaggedWord) (s : State) (h : Kept s₀ s) :
    KeptOut s₀ (execBpmRead v s) := by
  unfold execBpmRead
  first
  | (simp +contextual (maxDischargeDepth := 60) [h]; done)
  | (refine bpmRow_kept _ _ _ _ h fun x hx => ?_; (try dsimp only); repeat' (first | (simp +contextual (maxDischargeDepth := 60) [h, hx]; done) | split)) | (split <;> first | (simp +contextual (maxDischargeDepth := 60) [h]; done) | (refine bpmRow_kept _ _ _ _ h fun x hx => ?_; (try dsimp only); repeat' (first | (simp +contextual (maxDischargeDepth := 60) [h, hx]; done) | split)))

@[simp] theorem execBpmCommandDone_kept {s₀ : State} (s : State) (h : Kept s₀ s) :
    KeptOut s₀ (execBpmCommandDone s) := by
  unfold execBpmCommandDone
  first
  | (simp +contextual (maxDischargeDepth := 60) [h]; done)
  | (try dsimp only); (repeat' (first | (simp +contextual (maxDischargeDepth := 60) [h]; done) | split))

@[simp] theorem errLogPop_kept {s₀ : State} (s : State) (h : Kept s₀ s) :
    Kept s₀ (errLogPop s) := by
  unfold errLogPop
  first
  | (simp +contextual (maxDischargeDepth := 60) [h]; done)
  | (try dsimp only); (repeat' (first | (simp +contextual (maxDischargeDepth := 60) [h]; done) | split))

@[simp] theorem execBpmErrLogRead_kept {s₀ : State} (s : State) (h : Kept s₀ s) :
    KeptOut s₀ (execBpmErrLogRead s) := by
  unfold execBpmErrLogRead
  first
  | (simp +contextual (maxDischargeDepth := 60) [h]; done)
  | (try dsimp only); (repeat' (first | (simp +contextual (maxDischargeDepth := 60) [h]; done) | split))

@[simp] theorem withTmg_kept {s₀ : State} (f : Tmg → Tmg) (s : State) (h : Kept s₀ s) :
    Kept s₀ (withTmg f s) := by
  unfold withTmg
  first
  | (simp +contextual (maxDischargeDepth := 60) [h]; done)
  | (try dsimp only); (repeat' (first | (simp +contextual (maxDischargeDepth := 60) [h]; done) | split))

@[simp] theorem setQueue_kept {s₀ : State} (q : Nat) (x : Queue_) (s : State) (h : Kept s₀ s) :
    Kept s₀ (setQueue q x s) := by
  unfold setQueue
  first
  | (simp +contextual (maxDischargeDepth := 60) [h]; done)
  | (try dsimp only); (repeat' (first | (simp +contextual (maxDischargeDepth := 60) [h]; done) | split))

@[simp] theorem chargeNode_kept {s₀ : State} (n len : Nat) (s : State) (k : Nat) (h : Kept s₀ s) :
    Kept s₀ (chargeNode n len s k) := by
  unfold chargeNode
  first
  | (simp +contextual (maxDischargeDepth := 60) [h]; done)
  | (try dsimp only); (repeat' (first | (simp +contextual (maxDischargeDepth := 60) [h]; done) | split))

@[simp] theorem setShape_kept {s₀ : State} (k : Nat) (w : Word) (s : State) (h : Kept s₀ s) :
    Kept s₀ (setShape k w s) := by
  unfold setShape
  first
  | (simp +contextual (maxDischargeDepth := 60) [h]; done)
  | (try dsimp only); (repeat' (first | (simp +contextual (maxDischargeDepth := 60) [h]; done) | split))

@[simp] theorem clearDeficit_kept {s₀ : State} (k : Nat) (s : State) (h : Kept s₀ s) :
    Kept s₀ (clearDeficit k s) := by
  unfold clearDeficit
  first
  | (simp +contextual (maxDischargeDepth := 60) [h]; done)
  | (try dsimp only); (repeat' (first | (simp +contextual (maxDischargeDepth := 60) [h]; done) | split))

@[simp] theorem judgeElig_kept {s₀ : State} (s : State) (h : Kept s₀ s) :
    Kept s₀ (judgeElig s) := by
  unfold judgeElig
  first
  | (simp +contextual (maxDischargeDepth := 60) [h]; done)
  | (try dsimp only); (repeat' (first | (simp +contextual (maxDischargeDepth := 60) [h]; done) | split))

@[simp] theorem addDeficit_kept {s₀ : State} (k r : Nat) (v : Int) (s : State) (h : Kept s₀ s) :
    Kept s₀ (addDeficit k r v s) := by
  unfold addDeficit
  first
  | (simp +contextual (maxDischargeDepth := 60) [h]; done)
  | (try dsimp only); (repeat' (first | (simp +contextual (maxDischargeDepth := 60) [h]; done) | split))

@[simp] theorem takeTurns_kept {s₀ : State} (cs : List Nat) (r f c : Nat) (s : State) (h : Kept s₀ s) :
    Kept s₀ (takeTurns cs r f c s).1 := by
  induction f generalizing c s with
  | zero => exact h
  | succ f ih =>
    unfold takeTurns
    split
    · exact h
    · dsimp only; split
      · simp +contextual (maxDischargeDepth := 60) [h]
      · exact ih _ _ (by simp +contextual (maxDischargeDepth := 60) [h])

@[simp] theorem drrPick_kept {s₀ : State} (node r : Nat) (cs : List Nat) (s : State) (h : Kept s₀ s) :
    Kept s₀ (drrPick node r cs s).1 := by
  unfold drrPick; dsimp only; split <;> simp +contextual (maxDischargeDepth := 60) [h]

@[simp] theorem pickChild_kept {s₀ : State} (node : Nat) (cs : List Nat) (s : State) (h : Kept s₀ s) :
    Kept s₀ (pickChild node cs s).1 := by
  unfold pickChild
  first
  | (simp +contextual (maxDischargeDepth := 60) [h]; done)
  | (try dsimp only); (repeat' (first | (simp +contextual (maxDischargeDepth := 60) [h]; done) | split))

@[simp] theorem descend_kept {s₀ : State} (qs : List Nat) (f node : Nat) (s : State) (h : Kept s₀ s) :
    Kept s₀ (descend qs f node s).1 := by
  induction f generalizing node s with
  | zero => exact h
  | succ f ih => unfold descend; exact ih _ _ (by simp +contextual (maxDischargeDepth := 60) [h])

@[simp] theorem tmgDrop_kept {s₀ : State} (code : Nat) (s : State) (h : Kept s₀ s) :
    Kept s₀ (tmgDrop code s) := by
  unfold tmgDrop
  first
  | (simp +contextual (maxDischargeDepth := 60) [h]; done)
  | (try dsimp only); (repeat' (first | (simp +contextual (maxDischargeDepth := 60) [h]; done) | split))

@[simp] theorem avgUpdate_kept {s₀ : State} (q : Nat) (s : State) (h : Kept s₀ s) :
    Kept s₀ (avgUpdate q s) := by
  unfold avgUpdate
  first
  | (simp +contextual (maxDischargeDepth := 60) [h]; done)
  | (try dsimp only); (repeat' (first | (simp +contextual (maxDischargeDepth := 60) [h]; done) | split))

@[simp] theorem unspill_kept {s₀ : State} (q : Nat) (s : State) (h : Kept s₀ s) :
    Kept s₀ (unspill q s) := by
  unfold unspill
  first
  | (simp +contextual (maxDischargeDepth := 60) [h]; done)
  | (try dsimp only); (repeat' (first | (simp +contextual (maxDischargeDepth := 60) [h]; done) | split))

@[simp] theorem unspillAll_kept {s₀ : State} (s : State) (h : Kept s₀ s) :
    Kept s₀ (unspillAll s) := by
  unfold unspillAll
  first
  | (simp +contextual (maxDischargeDepth := 60) [h]; done)
  | (try dsimp only); (repeat' (first | (simp +contextual (maxDischargeDepth := 60) [h]; done) | split))

@[simp] theorem sendingStop_kept {s₀ : State} (pids : List Nat) (s : State) (h : Kept s₀ s) :
    Kept s₀ (sendingStop pids s) := by
  unfold sendingStop
  first
  | (simp +contextual (maxDischargeDepth := 60) [h]; done)
  | (try dsimp only); (repeat' (first | (simp +contextual (maxDischargeDepth := 60) [h]; done) | split))

@[simp] theorem takeCells_kept {s₀ : State} (pool n : Nat) (ks : List Nat) (s : State) (h : Kept s₀ s) :
    Kept s₀ (takeCells pool n ks s).2.2 := by
  induction n generalizing ks s with
  | zero => exact h
  | succ n ih =>
    unfold takeCells
    split
    · exact ih _ _ (tmgAllocate_kept _ s h _ _ ‹_›)
    · simp +contextual (maxDischargeDepth := 60) [h]

@[simp] theorem enqueue_kept {s₀ : State} (p : Packet) (cells : List Nat) (fabric : Bool) (s : State) (h : Kept s₀
    s) :
    Kept s₀ (enqueue p cells fabric s) := by
  unfold enqueue
  first
  | (simp +contextual (maxDischargeDepth := 60) [h]; done)
  | (try dsimp only); (repeat' (first | (simp +contextual (maxDischargeDepth := 60) [h]; done) | split))

@[simp] theorem queueLeft_kept {s₀ : State} (q : Nat) (s : State) (h : Kept s₀ s) :
    Kept s₀ (queueLeft q s) := by
  unfold queueLeft
  first
  | (simp +contextual (maxDischargeDepth := 60) [h]; done)
  | (try dsimp only); (repeat' (first | (simp +contextual (maxDischargeDepth := 60) [h]; done) | split))

@[simp] theorem discardFrom_kept {s₀ : State} (q pid code : Nat) (s : State) (h : Kept s₀ s) :
    Kept s₀ (discardFrom q pid code s) := by
  unfold discardFrom
  first
  | (simp +contextual (maxDischargeDepth := 60) [h]; done)
  | (try dsimp only); (repeat' (first | (simp +contextual (maxDischargeDepth := 60) [h]; done) | split))

@[simp] theorem discardHead_kept {s₀ : State} (q pid code : Nat) (s : State) (h : Kept s₀ s) :
    Kept s₀ (discardHead q pid code s) := by
  unfold discardHead
  first
  | (simp +contextual (maxDischargeDepth := 60) [h]; done)
  | (try dsimp only); (repeat' (first | (simp +contextual (maxDischargeDepth := 60) [h]; done) | split))

@[simp] theorem captureRec_kept {s₀ : State} (type session code snap occ : Nat) (p : Packet) (s : State) (h : Kept
    s₀ s) :
    Kept s₀ (captureRec type session code snap occ p s) := by
  unfold captureRec
  first
  | (simp +contextual (maxDischargeDepth := 60) [h]; done)
  | (try dsimp only); (repeat' (first | (simp +contextual (maxDischargeDepth := 60) [h]; done) | split))

@[simp] theorem sampleOf_kept {s₀ : State} (p : Packet) (s : State) (h : Kept s₀ s) :
    Kept s₀ (sampleOf p s).2 := by
  unfold sampleOf
  first
  | (simp +contextual (maxDischargeDepth := 60) [h]; done)
  | (try dsimp only); (repeat' (first | (simp +contextual (maxDischargeDepth := 60) [h]; done) | split))

@[simp] theorem refusalCapture_kept {s₀ : State} (code occ : Nat) (p : Packet) (s : State) (h : Kept s₀ s) :
    Kept s₀ (refusalCapture code occ p s) := by
  unfold refusalCapture
  first
  | (simp +contextual (maxDischargeDepth := 60) [h]; done)
  | (try dsimp only); (repeat' (first | (simp +contextual (maxDischargeDepth := 60) [h]; done) | split))

@[simp] theorem admitOne_st_kept {s₀ : State} (pool n : Nat) (fabric : Bool) (cells : Option (List Nat)) (p : Packet)
    (s : State) (h : Kept s₀ s) : Kept s₀ (admitOne pool n fabric cells p s).st := by
  unfold admitOne
  dsimp only
  repeat' split
  all_goals simp +contextual (maxDischargeDepth := 60) [h]

@[simp] theorem admitAll_kept {s₀ : State} (pool n q : Nat) (ps : List Packet) (cells : Option (List Nat))
    (out : List Judged) (s : State) (h : Kept s₀ s) : Kept s₀ (admitAll pool n q ps cells out s).2 := by
  induction ps generalizing cells out s with
  | nil => exact h
  | cons p t ih => unfold admitAll; exact ih _ _ _ (admitOne_st_kept _ _ _ _ _ _ h)

@[simp] theorem discardBad_kept {s₀ : State} (js : List Judged) (s : State) (h : Kept s₀ s) :
    Kept s₀ (discardBad js s) := by
  unfold discardBad
  first
  | (simp +contextual (maxDischargeDepth := 60) [h]; done)
  | (try dsimp only); (repeat' (first | (simp +contextual (maxDischargeDepth := 60) [h]; done) | split))

@[simp] theorem takePids_kept {s₀ : State} (n : Nat) (s : State) (h : Kept s₀ s) :
    Kept s₀ (takePids n s) := by
  unfold takePids
  first
  | (simp +contextual (maxDischargeDepth := 60) [h]; done)
  | (try dsimp only); (repeat' (first | (simp +contextual (maxDischargeDepth := 60) [h]; done) | split))

@[simp] theorem captureAll_kept {s₀ : State} (mir : Option (Nat × Bool)) (smp : Bool) (code occ : Nat) (p : Packet)
    (js : List Judged) (s : State) (h : Kept s₀ s) :
    Kept s₀ (captureAll mir smp code occ p js s) := by
  unfold captureAll
  first
  | (simp +contextual (maxDischargeDepth := 60) [h]; done)
  | (try dsimp only); (repeat' (first | (simp +contextual (maxDischargeDepth := 60) [h]; done) | split))

@[simp] theorem admitPacket_kept {s₀ : State} (p : Packet) (s : State) (h : Kept s₀ s) :
    Kept s₀ (admitPacket p s) := by
  unfold admitPacket
  first
  | (simp +contextual (maxDischargeDepth := 60) [h]; done)
  | (try dsimp only); (repeat' (first | (simp +contextual (maxDischargeDepth := 60) [h]; done) | split))

@[simp] theorem execPacketAdmit_kept {s₀ : State} (s : State) (h : Kept s₀ s) :
    KeptOut s₀ (execPacketAdmit s) := by
  unfold execPacketAdmit
  first
  | (simp +contextual (maxDischargeDepth := 60) [h]; done)
  | (try dsimp only); (repeat' (first | (simp +contextual (maxDischargeDepth := 60) [h]; done) | split))

@[simp] theorem readBad_kept {s₀ : State} (m : MemCtl) (r : MemReq) (s : State) (h : Kept s₀ s) :
    Kept s₀ (readBad m r s) := by
  unfold readBad
  first
  | (simp +contextual (maxDischargeDepth := 60) [h]; done)
  | (try dsimp only); (repeat' (first | (simp +contextual (maxDischargeDepth := 60) [h]; done) | split))

@[simp] theorem lostAccess_kept {s₀ : State} (m : MemCtl) (r : MemReq) (s : State) (h : Kept s₀ s) :
    Kept s₀ (lostAccess m r s) := by
  unfold lostAccess
  first
  | (simp +contextual (maxDischargeDepth := 60) [h]; done)
  | (try dsimp only); (repeat' (first | (simp +contextual (maxDischargeDepth := 60) [h]; done) | split))

@[simp] theorem memAccess_kept {s₀ : State} (m : MemCtl) (r : MemReq) (s : State) (h : Kept s₀ s) :
    Kept s₀ (memAccess m r s) := by
  unfold memAccess
  first
  | (simp +contextual (maxDischargeDepth := 60) [h]; done)
  | (try dsimp only); (repeat' (first | (simp +contextual (maxDischargeDepth := 60) [h]; done) | split))

@[simp] theorem memRequest_kept {s₀ : State} (m : MemCtl) (r : MemReq) (s : State) (h : Kept s₀ s) :
    Kept s₀ (memRequest m r s) := by
  unfold memRequest
  first
  | (simp +contextual (maxDischargeDepth := 60) [h]; done)
  | (try dsimp only); (repeat' (first | (simp +contextual (maxDischargeDepth := 60) [h]; done) | split))

@[simp] theorem execMemoryRequest_kept {s₀ : State} (m : MemCtl) (r : MemReq) (s : State) (h : Kept s₀ s) :
    KeptOut s₀ (execMemoryRequest m r s) := by
  unfold execMemoryRequest
  first
  | (simp +contextual (maxDischargeDepth := 60) [h]; done)
  | (try dsimp only); (repeat' (first | (simp +contextual (maxDischargeDepth := 60) [h]; done) | split))

@[simp] theorem heldServe_kept {s₀ : State} (m : MemCtl) (g : HeldReq) (s : State) (h : Kept s₀ s) :
    Kept s₀ (heldServe m g s) := by
  unfold heldServe
  split <;> simp +contextual (maxDischargeDepth := 60) [h]

@[simp] theorem serveHeld_kept {s₀ : State} (m : MemCtl) (n : Nat) (s : State) (h : Kept s₀ s) :
    Kept s₀ (serveHeld m n s) := by
  induction n generalizing s with
  | zero => exact h
  | succ n ih =>
    unfold serveHeld
    split
    · exact ih _ (by simp +contextual (maxDischargeDepth := 60) [h])
    · exact h

@[simp] theorem memRelease_kept {s₀ : State} (m : MemCtl) (s : State) (h : Kept s₀ s) :
    Kept s₀ (memRelease m s) := by
  unfold memRelease
  first
  | (simp +contextual (maxDischargeDepth := 60) [h]; done)
  | (try dsimp only); (repeat' (first | (simp +contextual (maxDischargeDepth := 60) [h]; done) | split))

@[simp] theorem execRowIdleClose_kept {s₀ : State} (m : MemCtl) (bank : Nat) (s : State) (h : Kept s₀ s) :
    KeptOut s₀ (execRowIdleClose m bank s) := by
  unfold execRowIdleClose
  first
  | (simp +contextual (maxDischargeDepth := 60) [h]; done)
  | (try dsimp only); (repeat' (first | (simp +contextual (maxDischargeDepth := 60) [h]; done) | split))

@[simp] theorem setRefUnit_kept {s₀ : State} (m : MemCtl) (u : Nat) (x : RefSt) (s : State) (h : Kept s₀ s) :
    Kept s₀ (setRefUnit m u x s) := by
  unfold setRefUnit
  first
  | (simp +contextual (maxDischargeDepth := 60) [h]; done)
  | (try dsimp only); (repeat' (first | (simp +contextual (maxDischargeDepth := 60) [h]; done) | split))

@[simp] theorem execRefreshIntervalBoundary_kept {s₀ : State} (m : MemCtl) (u : RefUnit) (s : State) (h : Kept s₀ s) :
    KeptOut s₀ (execRefreshIntervalBoundary m u s) := by
  unfold execRefreshIntervalBoundary
  first
  | (simp +contextual (maxDischargeDepth := 60) [h]; done)
  | (try dsimp only); (repeat' (first | (simp +contextual (maxDischargeDepth := 60) [h]; done) | split))

@[simp] theorem execRefreshIssue_kept {s₀ : State} (m : MemCtl) (u : RefUnit) (queued : Bool) (s : State) (h : Kept
    s₀ s) :
    KeptOut s₀ (execRefreshIssue m u queued s) := by
  unfold execRefreshIssue
  first
  | (simp +contextual (maxDischargeDepth := 60) [h]; done)
  | (try dsimp only); (repeat' (first | (simp +contextual (maxDischargeDepth := 60) [h]; done) | split))

@[simp] theorem showHot_kept {s₀ : State} (m : MemCtl) (c : Nat) (s : State) (h : Kept s₀ s) :
    Kept s₀ (showHot m c s) := by
  unfold showHot
  first
  | (simp +contextual (maxDischargeDepth := 60) [h]; done)
  | (try dsimp only); (repeat' (first | (simp +contextual (maxDischargeDepth := 60) [h]; done) | split))

@[simp] theorem execRefreshPoll_kept {s₀ : State} (m : MemCtl) (u : RefUnit) (reading : Nat) (s : State) (h : Kept
    s₀ s) :
    KeptOut s₀ (execRefreshPoll m u reading s) := by
  unfold execRefreshPoll
  first
  | (simp +contextual (maxDischargeDepth := 60) [h]; done)
  | (try dsimp only); (repeat' (first | (simp +contextual (maxDischargeDepth := 60) [h]; done) | split))

@[simp] theorem refreshDown_kept {s₀ : State} (m : MemCtl) (p : Nat → Bool) (s : State) (h : Kept s₀ s) :
    Kept s₀ (refreshDown m p s) := by
  unfold refreshDown
  first
  | (simp +contextual (maxDischargeDepth := 60) [h]; done)
  | (try dsimp only); (repeat' (first | (simp +contextual (maxDischargeDepth := 60) [h]; done) | split))

@[simp] theorem refReset_kept {s₀ : State} (m : MemCtl) (p : Nat → Bool) (s : State) (h : Kept s₀ s) :
    Kept s₀ (refReset m p s) := by
  unfold refReset
  first
  | (simp +contextual (maxDischargeDepth := 60) [h]; done)
  | (try dsimp only); (repeat' (first | (simp +contextual (maxDischargeDepth := 60) [h]; done) | split))

@[simp] theorem trainResult_kept {s₀ : State} (m : MemCtl) (r : Nat) (s : State) (h : Kept s₀ s) :
    Kept s₀ (trainResult m r s) := by
  unfold trainResult
  first
  | (simp +contextual (maxDischargeDepth := 60) [h]; done)
  | (try dsimp only); (repeat' (first | (simp +contextual (maxDischargeDepth := 60) [h]; done) | split))

@[simp] theorem eyeFault_kept {s₀ : State} (m : MemCtl) (c : Nat) (s : State) (h : Kept s₀ s) :
    Kept s₀ (eyeFault m c s) := by
  unfold eyeFault
  first
  | (simp +contextual (maxDischargeDepth := 60) [h]; done)
  | (try dsimp only); (repeat' (first | (simp +contextual (maxDischargeDepth := 60) [h]; done) | split))

@[simp] theorem runStart_kept {s₀ : State} (m : MemCtl) (c : Nat) (s : State) (h : Kept s₀ s) :
    Kept s₀ (runStart m c s) := by
  unfold runStart
  first
  | (simp +contextual (maxDischargeDepth := 60) [h]; done)
  | (try dsimp only); (repeat' (first | (simp +contextual (maxDischargeDepth := 60) [h]; done) | split))

@[simp] theorem changeStart_kept {s₀ : State} (m : MemCtl) (target : Nat) (s : State) (h : Kept s₀ s) :
    Kept s₀ (changeStart m target s) := by
  unfold changeStart
  first
  | (simp +contextual (maxDischargeDepth := 60) [h]; done)
  | (try dsimp only); (repeat' (first | (simp +contextual (maxDischargeDepth := 60) [h]; done) | split))

@[simp] theorem nextChange_kept {s₀ : State} (m : MemCtl) (s : State) (h : Kept s₀ s) :
    Kept s₀ (nextChange m s) := by
  unfold nextChange
  first
  | (simp +contextual (maxDischargeDepth := 60) [h]; done)
  | (try dsimp only); (repeat' (first | (simp +contextual (maxDischargeDepth := 60) [h]; done) | split))

@[simp] theorem runEnd_kept {s₀ : State} (m : MemCtl) (c r : Nat) (s : State) (h : Kept s₀ s) :
    Kept s₀ (runEnd m c r s) := by
  unfold runEnd
  first
  | (simp +contextual (maxDischargeDepth := 60) [h]; done)
  | (try dsimp only); (repeat' (first | (simp +contextual (maxDischargeDepth := 60) [h]; done) | split))

@[simp] theorem execRetrainTurn_kept {s₀ : State} (m : MemCtl) (ch : Chan) (s : State) (h : Kept s₀ s) :
    KeptOut s₀ (execRetrainTurn m ch s) := by
  unfold execRetrainTurn
  first
  | (simp +contextual (maxDischargeDepth := 60) [h]; done)
  | (try dsimp only); (repeat' (first | (simp +contextual (maxDischargeDepth := 60) [h]; done) | split))

@[simp] theorem trainFields_kept {s₀ : State} (m : MemCtl) (v : Word) (s : State) (h : Kept s₀ s) :
    Kept s₀ (trainFields m v s) := by
  unfold trainFields
  first
  | (simp +contextual (maxDischargeDepth := 60) [h]; done)
  | (try dsimp only); (repeat' (first | (simp +contextual (maxDischargeDepth := 60) [h]; done) | split))

@[simp] theorem trainGo_kept {s₀ : State} (m : MemCtl) (v : Word) (s : State) (h : Kept s₀ s) :
    Kept s₀ (trainGo m v s) := by
  unfold trainGo
  first
  | (simp +contextual (maxDischargeDepth := 60) [h]; done)
  | (try dsimp only); (repeat' (first | (simp +contextual (maxDischargeDepth := 60) [h]; done) | split))

@[simp] theorem execTrainGo_kept {s₀ : State} (m : MemCtl) (v : Word) (s : State) (h : Kept s₀ s) :
    KeptOut s₀ (execTrainGo m v s) := by
  unfold execTrainGo
  first
  | (simp +contextual (maxDischargeDepth := 60) [h]; done)
  | (try dsimp only); (repeat' (first | (simp +contextual (maxDischargeDepth := 60) [h]; done) | split))

@[simp] theorem execTrainAbort_kept {s₀ : State} (m : MemCtl) (v : Word) (s : State) (h : Kept s₀ s) :
    KeptOut s₀ (execTrainAbort m v s) := by
  unfold execTrainAbort
  first
  | (simp +contextual (maxDischargeDepth := 60) [h]; done)
  | (try dsimp only); (repeat' (first | (simp +contextual (maxDischargeDepth := 60) [h]; done) | split))

@[simp] theorem execTrainRunEnd_kept {s₀ : State} (m : MemCtl) (ch : Chan) (eye : Bool) (s : State) (h : Kept s₀ s) :
    KeptOut s₀ (execTrainRunEnd m ch eye s) := by
  unfold execTrainRunEnd
  first
  | (simp +contextual (maxDischargeDepth := 60) [h]; done)
  | (try dsimp only); (repeat' (first | (simp +contextual (maxDischargeDepth := 60) [h]; done) | split))

@[simp] theorem freqRequest_kept {s₀ : State} (m : MemCtl) (v : Word) (s : State) (h : Kept s₀ s) :
    Kept s₀ (freqRequest m v s) := by
  unfold freqRequest
  first
  | (simp +contextual (maxDischargeDepth := 60) [h]; done)
  | (try dsimp only); (repeat' (first | (simp +contextual (maxDischargeDepth := 60) [h]; done) | split))

@[simp] theorem execFreqRequest_kept {s₀ : State} (m : MemCtl) (v : Word) (s : State) (h : Kept s₀ s) :
    KeptOut s₀ (execFreqRequest m v s) := by
  unfold execFreqRequest
  first
  | (simp +contextual (maxDischargeDepth := 60) [h]; done)
  | (try dsimp only); (repeat' (first | (simp +contextual (maxDischargeDepth := 60) [h]; done) | split))

@[simp] theorem execFreqChangeEnd_kept {s₀ : State} (m : ChangeEnd) (s : State) (h : Kept s₀ s) :
    KeptOut s₀ (execFreqChangeEnd m s) := by
  unfold execFreqChangeEnd
  first
  | (simp +contextual (maxDischargeDepth := 60) [h]; done)
  | (try dsimp only); (repeat' (first | (simp +contextual (maxDischargeDepth := 60) [h]; done) | split))

@[simp] theorem execSelfRefreshEnter_kept {s₀ : State} (m : MemCtl) (ch : Chan) (s : State) (h : Kept s₀ s) :
    KeptOut s₀ (execSelfRefreshEnter m ch s) := by
  unfold execSelfRefreshEnter
  first
  | (simp +contextual (maxDischargeDepth := 60) [h]; done)
  | (try dsimp only); (repeat' (first | (simp +contextual (maxDischargeDepth := 60) [h]; done) | split))

@[simp] theorem execSelfRefreshExitDone_kept {s₀ : State} (m : MemCtl) (ch : ExitEnd) (s : State) (h : Kept s₀ s) :
    KeptOut s₀ (execSelfRefreshExitDone m ch s) := by
  unfold execSelfRefreshExitDone
  first
  | (simp +contextual (maxDischargeDepth := 60) [h]; done)
  | (try dsimp only); (repeat' (first | (simp +contextual (maxDischargeDepth := 60) [h]; done) | split))

@[simp] theorem scrubDo_kept {s₀ : State} (m : MemCtl) (a : Nat) (ecc : EccResult) (s : State) (h : Kept s₀ s) :
    Kept s₀ (scrubDo m a ecc s) := by
  unfold scrubDo
  first
  | (simp +contextual (maxDischargeDepth := 60) [h]; done)
  | (try dsimp only); (repeat' (first | (simp +contextual (maxDischargeDepth := 60) [h]; done) | split))

@[simp] theorem scrubStep_kept {s₀ : State} (m : MemCtl) (a : Nat) (ecc : EccResult) (s : State) (h : Kept s₀ s) :
    Kept s₀ (scrubStep m a ecc s) := by
  unfold scrubStep
  first
  | (simp +contextual (maxDischargeDepth := 60) [h]; done)
  | (try dsimp only); (repeat' (first | (simp +contextual (maxDischargeDepth := 60) [h]; done) | split))

@[simp] theorem execScrubRead_kept {s₀ : State} (m : MemCtl) (addr : Nat) (ecc : EccResult) (s : State) (h : Kept s₀
    s) :
    KeptOut s₀ (execScrubRead m addr ecc s) := by
  unfold execScrubRead
  first
  | (simp +contextual (maxDischargeDepth := 60) [h]; done)
  | (try dsimp only); (repeat' (first | (simp +contextual (maxDischargeDepth := 60) [h]; done) | split))

@[simp] theorem winStart_kept {s₀ : State} (m : MemCtl) (write : Bool) (v : Word) (s : State) (h : Kept s₀ s) :
    Kept s₀ (winStart m write v s) := by
  unfold winStart
  first
  | (simp +contextual (maxDischargeDepth := 60) [h]; done)
  | (try dsimp only); (repeat' (first | (simp +contextual (maxDischargeDepth := 60) [h]; done) | split))

@[simp] theorem execWindowRead_kept {s₀ : State} (m : MemCtl) (v : Word) (s : State) (h : Kept s₀ s) :
    KeptOut s₀ (execWindowRead m v s) := by
  unfold execWindowRead
  first
  | (simp +contextual (maxDischargeDepth := 60) [h]; done)
  | (try dsimp only); (repeat' (first | (simp +contextual (maxDischargeDepth := 60) [h]; done) | split))

@[simp] theorem execWindowWrite_kept {s₀ : State} (m : MemCtl) (v : Word) (s : State) (h : Kept s₀ s) :
    KeptOut s₀ (execWindowWrite m v s) := by
  unfold execWindowWrite
  first
  | (simp +contextual (maxDischargeDepth := 60) [h]; done)
  | (try dsimp only); (repeat' (first | (simp +contextual (maxDischargeDepth := 60) [h]; done) | split))

@[simp] theorem winLoadData_kept {s₀ : State} (m : MemCtl) (bs : Bytes) (s : State) (h : Kept s₀ s) :
    Kept s₀ (winLoadData m bs s) := by
  unfold winLoadData
  first
  | (simp +contextual (maxDischargeDepth := 60) [h]; done)
  | (try dsimp only); (repeat' (first | (simp +contextual (maxDischargeDepth := 60) [h]; done) | split))

@[simp] theorem winLoadFree_kept {s₀ : State} (m : MemCtl) (s : State) (h : Kept s₀ s) :
    Kept s₀ (winLoadFree m s) := by
  have g : Kept s₀ ((List.range 8).foldl (fun t k => rset t (rWIND m) k (Config.freeWord (s.freeCtr + k))) s) := by
    simp +contextual (maxDischargeDepth := 60) [h]
  exact ⟨g.1, g.2⟩

@[simp] theorem winDo_kept {s₀ : State} (m : MemCtl) (write : Bool) (a : Nat) (ecc : EccResult) (s : State) (h :
    Kept s₀ s) :
    Kept s₀ (winDo m write a ecc s).2 := by
  unfold winDo
  first
  | (simp +contextual (maxDischargeDepth := 60) [h]; done)
  | (try dsimp only); (repeat' (first | (simp +contextual (maxDischargeDepth := 60) [h]; done) | split))

@[simp] theorem execWindowAccessDone_kept {s₀ : State} (m : MemCtl) (ecc : EccResult) (s : State) (h : Kept s₀ s) :
    KeptOut s₀ (execWindowAccessDone m ecc s) := by
  unfold execWindowAccessDone
  first
  | (simp +contextual (maxDischargeDepth := 60) [h]; done)
  | (try dsimp only); (repeat' (first | (simp +contextual (maxDischargeDepth := 60) [h]; done) | split))

@[simp] theorem chanRetire_kept {s₀ : State} (m : MemCtl) (c : Nat) (s : State) (h : Kept s₀ s) :
    Kept s₀ (chanRetire m c s) := by
  unfold chanRetire
  first
  | (simp +contextual (maxDischargeDepth := 60) [h]; done)
  | (try dsimp only); (repeat' (first | (simp +contextual (maxDischargeDepth := 60) [h]; done) | split))

@[simp] theorem execMemoryReady_kept {s₀ : State} (m : MemCtl) (init : MemInit) (s : State) (h : Kept s₀ s) :
    KeptOut s₀ (execMemoryReady m init s) := by
  unfold execMemoryReady
  first
  | (simp +contextual (maxDischargeDepth := 60) [h]; done)
  | (try dsimp only); (repeat' (first | (simp +contextual (maxDischargeDepth := 60) [h]; done) | split))

@[simp] theorem execMemoryUnitRetire_kept {s₀ : State} (u : MemUnit) (sw : Bool) (s : State) (h : Kept s₀ s) :
    KeptOut s₀ (execMemoryUnitRetire u sw s) := by
  unfold execMemoryUnitRetire
  first
  | (simp +contextual (maxDischargeDepth := 60) [h]; done)
  | (try dsimp only); (repeat' (first | (simp +contextual (maxDischargeDepth := 60) [h]; done) | split))

@[simp] theorem tableNext_kept {s₀ : State} (s : State) (h : Kept s₀ s) :
    Kept s₀ (tableNext s) := by
  unfold tableNext
  first
  | (simp +contextual (maxDischargeDepth := 60) [h]; done)
  | (try dsimp only); (repeat' (first | (simp +contextual (maxDischargeDepth := 60) [h]; done) | split))

@[simp] theorem writeQCfg_kept {s₀ : State} (q : Nat) (v : Word) (s : State) (h : Kept s₀ s) :
    Kept s₀ (writeQCfg q v s) := by
  unfold writeQCfg
  first
  | (simp +contextual (maxDischargeDepth := 60) [h]; done)
  | (try dsimp only); (repeat' (first | (simp +contextual (maxDischargeDepth := 60) [h]; done) | split))

@[simp] theorem writeNodeCfg_kept {s₀ : State} (l n : Nat) (v : Word) (s : State) (h : Kept s₀ s) :
    Kept s₀ (writeNodeCfg l n v s) := by
  unfold writeNodeCfg
  first
  | (simp +contextual (maxDischargeDepth := 60) [h]; done)
  | (try dsimp only); (repeat' (first | (simp +contextual (maxDischargeDepth := 60) [h]; done) | split))

@[simp] theorem tableWrite_kept {s₀ : State} (t i : Nat) (v : Word) (s : State) (h : Kept s₀ s) :
    Kept s₀ (tableWrite t i v s) := by
  unfold tableWrite
  first
  | (simp +contextual (maxDischargeDepth := 60) [h]; done)
  | (try dsimp only); (repeat' (first | (simp +contextual (maxDischargeDepth := 60) [h]; done) | split))

@[simp] theorem execTableDataWrite_kept {s₀ : State} (v : Word) (s : State) (h : Kept s₀ s) :
    KeptOut s₀ (execTableDataWrite v s) := by
  unfold execTableDataWrite
  first
  | (simp +contextual (maxDischargeDepth := 60) [h]; done)
  | (try dsimp only); (repeat' (first | (simp +contextual (maxDischargeDepth := 60) [h]; done) | split))

@[simp] theorem execTableDataRead_kept {s₀ : State} (s : State) (h : Kept s₀ s) :
    KeptOut s₀ (execTableDataRead s) := by
  unfold execTableDataRead
  first
  | (simp +contextual (maxDischargeDepth := 60) [h]; done)
  | (try dsimp only); (repeat' (first | (simp +contextual (maxDischargeDepth := 60) [h]; done) | split))

@[simp] theorem addCell_kept {s₀ : State} (src key : Nat) (s : State) (h : Kept s₀ s) :
    Kept s₀ (addCell src key s) := by
  unfold addCell
  first
  | (simp +contextual (maxDischargeDepth := 60) [h]; done)
  | (try dsimp only); (repeat' (first | (simp +contextual (maxDischargeDepth := 60) [h]; done) | split))

@[simp] theorem stomp_kept {s₀ : State} (port : Nat) (s : State) (h : Kept s₀ s) :
    Kept s₀ (stomp port s) := by
  unfold stomp
  first
  | (simp +contextual (maxDischargeDepth := 60) [h]; done)
  | (try dsimp only); (repeat' (first | (simp +contextual (maxDischargeDepth := 60) [h]; done) | split))

@[simp] theorem cutRefused_kept {s₀ : State} (held : Nat) (c : CutRec) (s : State) (h : Kept s₀ s) :
    Kept s₀ (cutRefused held c s) := by
  unfold cutRefused
  first
  | (simp +contextual (maxDischargeDepth := 60) [h]; done)
  | (try dsimp only); (repeat' (first | (simp +contextual (maxDischargeDepth := 60) [h]; done) | split))

@[simp] theorem voqRefused_kept {s₀ : State} (held q : Nat) (e : QPkt) (s : State) (h : Kept s₀ s) :
    Kept s₀ (voqRefused held q e s) := by
  unfold voqRefused
  first
  | (simp +contextual (maxDischargeDepth := 60) [h]; done)
  | (try dsimp only); (repeat' (first | (simp +contextual (maxDischargeDepth := 60) [h]; done) | split))

@[simp] theorem cellRefused_kept {s₀ : State} (src held : Nat) (s : State) (h : Kept s₀ s) :
    Kept s₀ (cellRefused src held s) := by
  unfold cellRefused
  first
  | (simp +contextual (maxDischargeDepth := 60) [h]; done)
  | (try dsimp only); (repeat' (first | (simp +contextual (maxDischargeDepth := 60) [h]; done) | split))

@[simp] theorem execPacketBodyCell_kept {s₀ : State} (src : Nat) (s : State) (h : Kept s₀ s) :
    KeptOut s₀ (execPacketBodyCell src s) := by
  unfold execPacketBodyCell
  split
  · simp +contextual (maxDischargeDepth := 60) [h]
  · extract_lets cap n pool
    split
    · simp +contextual (maxDischargeDepth := 60) [h]
    · split
      · rename_i e
        have := tmgAllocate_kept _ s h _ _ e
        simp +contextual (maxDischargeDepth := 60) [this]
      · simp +contextual (maxDischargeDepth := 60) [h]

@[simp] theorem execPacketTailStored_kept {s₀ : State} (src : Nat) (s : State) (h : Kept s₀ s) :
    KeptOut s₀ (execPacketTailStored src s) := by
  unfold execPacketTailStored
  first
  | (simp +contextual (maxDischargeDepth := 60) [h]; done)
  | (try dsimp only); (repeat' (first | (simp +contextual (maxDischargeDepth := 60) [h]; done) | split))

@[simp] theorem purgeQueue_kept {s₀ : State} (p q f : Nat) (s : State) (h : Kept s₀ s) :
    Kept s₀ (purgeQueue p q f s) := by
  induction f generalizing s with
  | zero => exact h
  | succ f ih =>
    unfold purgeQueue
    split
    · exact h
    · split
      · exact ih _ (by simp +contextual (maxDischargeDepth := 60) [h])
      · exact h

@[simp] theorem purgePort_kept {s₀ : State} (p : Nat) (s : State) (h : Kept s₀ s) :
    Kept s₀ (purgePort p s) := by
  unfold purgePort
  first
  | (simp +contextual (maxDischargeDepth := 60) [h]; done)
  | (try dsimp only); (repeat' (first | (simp +contextual (maxDischargeDepth := 60) [h]; done) | split))

@[simp] theorem chargePath_kept {s₀ : State} (n len : Nat) (nodes trail : List Nat) (s : State) (h : Kept s₀ s) :
    Kept s₀ (chargePath n len nodes trail s) := by
  unfold chargePath
  first
  | (simp +contextual (maxDischargeDepth := 60) [h]; done)
  | (try dsimp only); (repeat' (first | (simp +contextual (maxDischargeDepth := 60) [h]; done) | split))

@[simp] theorem hbmFetch_kept {s₀ : State} (e : QPkt) (o : ReadOutcome) (s : State) (h : Kept s₀ s) :
    Kept s₀ (hbmFetch e o s).st := by
  unfold hbmFetch
  dsimp only
  repeat' split
  all_goals simp +contextual (maxDischargeDepth := 60) [h]

@[simp] theorem dequeue_kept {s₀ : State} (p q : Nat) (e : QPkt) (trail : List Nat) (s : State) (h : Kept s₀ s) :
    Kept s₀ (dequeue p q e trail s) := by
  unfold dequeue
  first
  | (simp +contextual (maxDischargeDepth := 60) [h]; done)
  | (try dsimp only); (repeat' (first | (simp +contextual (maxDischargeDepth := 60) [h]; done) | split))

@[simp] theorem execPortSelect_kept {s₀ : State} (p : Port) (hbm : ReadOutcome) (s : State) (h : Kept s₀ s) :
    KeptOut s₀ (execPortSelect p hbm s) := by
  unfold execPortSelect
  first
  | (simp +contextual (maxDischargeDepth := 60) [h]; done)
  | (try dsimp only); (repeat' (first | (simp +contextual (maxDischargeDepth := 60) [h]; done) | split))

@[simp] theorem execCutThroughTailLeave_kept {s₀ : State} (pid : Nat) (s : State) (h : Kept s₀ s) :
    KeptOut s₀ (execCutThroughTailLeave pid s) := by
  unfold execCutThroughTailLeave
  first
  | (simp +contextual (maxDischargeDepth := 60) [h]; done)
  | (try dsimp only); (repeat' (first | (simp +contextual (maxDischargeDepth := 60) [h]; done) | split))

@[simp] theorem execShapeApply_kept {s₀ : State} (v : Word) (s : State) (h : Kept s₀ s) :
    KeptOut s₀ (execShapeApply v s) := by
  unfold execShapeApply
  first
  | (simp +contextual (maxDischargeDepth := 60) [h]; done)
  | (try dsimp only); (repeat' (first | (simp +contextual (maxDischargeDepth := 60) [h]; done) | split))

@[simp] theorem applyBatch_kept {s₀ : State} (b : Nat) (s : State) (h : Kept s₀ s) :
    Kept s₀ (applyBatch b s) := by
  unfold applyBatch
  first
  | (simp +contextual (maxDischargeDepth := 60) [h]; done)
  | (try dsimp only); (repeat' (first | (simp +contextual (maxDischargeDepth := 60) [h]; done) | split))

@[simp] theorem execShaperBatchApply_kept {s₀ : State} (s : State) (h : Kept s₀ s) :
    KeptOut s₀ (execShaperBatchApply s) := by
  unfold execShaperBatchApply
  first
  | (simp +contextual (maxDischargeDepth := 60) [h]; done)
  | (try dsimp only); (repeat' (first | (simp +contextual (maxDischargeDepth := 60) [h]; done) | split))

@[simp] theorem execGclSwapNow_kept {s₀ : State} (p : Port) (v : Word) (s : State) (h : Kept s₀ s) :
    KeptOut s₀ (execGclSwapNow p v s) := by
  unfold execGclSwapNow
  first
  | (simp +contextual (maxDischargeDepth := 60) [h]; done)
  | (try dsimp only); (repeat' (first | (simp +contextual (maxDischargeDepth := 60) [h]; done) | split))

@[simp] theorem gclSwap_kept {s₀ : State} (p : Nat) (s : State) (h : Kept s₀ s) :
    Kept s₀ (gclSwap p s) := by
  unfold gclSwap
  first
  | (simp +contextual (maxDischargeDepth := 60) [h]; done)
  | (try dsimp only); (repeat' (first | (simp +contextual (maxDischargeDepth := 60) [h]; done) | split))

@[simp] theorem execGclSwap_kept {s₀ : State} (p : Port) (s : State) (h : Kept s₀ s) :
    KeptOut s₀ (execGclSwap p s) := by
  unfold execGclSwap
  first
  | (simp +contextual (maxDischargeDepth := 60) [h]; done)
  | (try dsimp only); (repeat' (first | (simp +contextual (maxDischargeDepth := 60) [h]; done) | split))

@[simp] theorem execGclEntryBoundary_kept {s₀ : State} (p : Port) (s : State) (h : Kept s₀ s) :
    KeptOut s₀ (execGclEntryBoundary p s) := by
  unfold execGclEntryBoundary; simp +contextual (maxDischargeDepth := 60) [h]

@[simp] theorem tmgLinkFall_kept {s₀ : State} (p : Nat) (s : State) (h : Kept s₀ s) :
    Kept s₀ (tmgLinkFall p s) := by
  unfold tmgLinkFall
  first
  | (simp +contextual (maxDischargeDepth := 60) [h]; done)
  | (try dsimp only); (repeat' (first | (simp +contextual (maxDischargeDepth := 60) [h]; done) | split))

@[simp] theorem tmgLinkRise_kept {s₀ : State} (p : Nat) (s : State) (h : Kept s₀ s) :
    Kept s₀ (tmgLinkRise p s) := by
  unfold tmgLinkRise
  first
  | (simp +contextual (maxDischargeDepth := 60) [h]; done)
  | (try dsimp only); (repeat' (first | (simp +contextual (maxDischargeDepth := 60) [h]; done) | split))

@[simp] theorem flushQueue_kept {s₀ : State} (q : Nat) (s : State) (h : Kept s₀ s) :
    Kept s₀ (flushQueue q s).2 := by
  unfold flushQueue
  first
  | (simp +contextual (maxDischargeDepth := 60) [h]; done)
  | (try dsimp only); (repeat' (first | (simp +contextual (maxDischargeDepth := 60) [h]; done) | split))

theorem foldl_snd_kept {s₀ : State} {α β : Type} (l : List α) (f : β × State → α → β × State) (a : β × State)
    (h : Kept s₀ a.2) (hf : ∀ b x, Kept s₀ b.2 → Kept s₀ (f b x).2) : Kept s₀ (l.foldl f a).2 := by
  induction l generalizing a with
  | nil => exact h
  | cons x t ih => exact ih _ (hf a x h)

@[simp] theorem flushQueues_kept {s₀ : State} (qs : List Nat) (s : State) (h : Kept s₀ s) :
    Kept s₀ (flushQueues qs s).2 := by
  unfold flushQueues
  exact foldl_snd_kept _ _ _ h fun b q hb => by simp +contextual (maxDischargeDepth := 60) [hb]

@[simp] theorem execBindoffFlushDone_kept {s₀ : State} (p : Port) (s : State) (h : Kept s₀ s) :
    KeptOut s₀ (execBindoffFlushDone p s) := by
  unfold execBindoffFlushDone
  first
  | (simp +contextual (maxDischargeDepth := 60) [h]; done)
  | (try dsimp only); (repeat' (first | (simp +contextual (maxDischargeDepth := 60) [h]; done) | split))

@[simp] theorem rangeFlush_kept {s₀ : State} (v : Word) (s : State) (h : Kept s₀ s) :
    Kept s₀ (rangeFlush v s) := by
  unfold rangeFlush
  first
  | (simp +contextual (maxDischargeDepth := 60) [h]; done)
  | (try dsimp only); (repeat' (first | (simp +contextual (maxDischargeDepth := 60) [h]; done) | split))

@[simp] theorem execRangeFlush_kept {s₀ : State} (v : Word) (s : State) (h : Kept s₀ s) :
    KeptOut s₀ (execRangeFlush v s) := by
  unfold execRangeFlush
  first
  | (simp +contextual (maxDischargeDepth := 60) [h]; done)
  | (try dsimp only); (repeat' (first | (simp +contextual (maxDischargeDepth := 60) [h]; done) | split))

@[simp] theorem execRangeFlushDone_kept {s₀ : State} (s : State) (h : Kept s₀ s) :
    KeptOut s₀ (execRangeFlushDone s) := by
  unfold execRangeFlushDone
  first
  | (simp +contextual (maxDischargeDepth := 60) [h]; done)
  | (try dsimp only); (repeat' (first | (simp +contextual (maxDischargeDepth := 60) [h]; done) | split))

@[simp] theorem capCfgWrite_kept {s₀ : State} (v : Word) (s : State) (h : Kept s₀ s) :
    Kept s₀ (capCfgWrite v s) := by
  unfold capCfgWrite
  first
  | (simp +contextual (maxDischargeDepth := 60) [h]; done)
  | (try dsimp only); (repeat' (first | (simp +contextual (maxDischargeDepth := 60) [h]; done) | split))

@[simp] theorem execCaptureEnable_kept {s₀ : State} (v : Word) (s : State) (h : Kept s₀ s) :
    KeptOut s₀ (execCaptureEnable v s) := by
  unfold execCaptureEnable
  first
  | (simp +contextual (maxDischargeDepth := 60) [h]; done)
  | (try dsimp only); (repeat' (first | (simp +contextual (maxDischargeDepth := 60) [h]; done) | split))

@[simp] theorem execCapTailWrite_kept {s₀ : State} (v : Word) (s : State) (h : Kept s₀ s) :
    KeptOut s₀ (execCapTailWrite v s) := by
  unfold execCapTailWrite
  first
  | (simp +contextual (maxDischargeDepth := 60) [h]; done)
  | (try dsimp only); (repeat' (first | (simp +contextual (maxDischargeDepth := 60) [h]; done) | split))

@[simp] theorem execCaptureRecordWritten_kept {s₀ : State} (s : State) (h : Kept s₀ s) :
    KeptOut s₀ (execCaptureRecordWritten s) := by
  unfold execCaptureRecordWritten
  first
  | (simp +contextual (maxDischargeDepth := 60) [h]; done)
  | (try dsimp only); (repeat' (first | (simp +contextual (maxDischargeDepth := 60) [h]; done) | split))

@[simp] theorem completeCut_kept {s₀ : State} (src : Nat) (n : Nat) (good : Bool) (s : State) (c : CutRec) (h : Kept
    s₀ s) :
    Kept s₀ (completeCut src n good s c) := by
  unfold completeCut
  first
  | (simp +contextual (maxDischargeDepth := 60) [h]; done)
  | (try dsimp only); (repeat' (first | (simp +contextual (maxDischargeDepth := 60) [h]; done) | split))

@[simp] theorem finishFrame_kept {s₀ : State} (src : Nat) (ext : Bytes) (good : Bool) (s : State) (h : Kept s₀ s) :
    Kept s₀ (finishFrame src ext good s) := by
  unfold finishFrame
  dsimp only
  refine kept_foldl _ _ ?_ (by simp +contextual (maxDischargeDepth := 60))
  refine kept_foldl _ _ ?_ ?_
  · simp +contextual (maxDischargeDepth := 60) [h]
  · exact fun y a hy => cntAdd_kept _ _ _ hy

@[simp] theorem linkEvent_kept {s₀ : State} (p : Nat) (s : State) (h : Kept s₀ s) :
    Kept s₀ (linkEvent p s) := by
  unfold linkEvent
  first
  | (simp +contextual (maxDischargeDepth := 60) [h]; done)
  | (try dsimp only); (repeat' (first | (simp +contextual (maxDischargeDepth := 60) [h]; done) | split))

@[simp] theorem linkTo_kept {s₀ : State} (p : Nat) (link lf rf ber : Bool) (s : State) (h : Kept s₀ s) :
    Kept s₀ (linkTo p link lf rf ber s) := by
  unfold linkTo
  first
  | (simp +contextual (maxDischargeDepth := 60) [h]; done)
  | (try dsimp only); (repeat' (first | (simp +contextual (maxDischargeDepth := 60) [h]; done) | split))

@[simp] theorem rxStop_kept {s₀ : State} (p : Nat) (s : State) (h : Kept s₀ s) :
    Kept s₀ (rxStop p s) := by
  unfold rxStop
  first
  | (simp +contextual (maxDischargeDepth := 60) [h]; done)
  | (try dsimp only); (repeat' (first | (simp +contextual (maxDischargeDepth := 60) [h]; done) | split))

@[simp] theorem otnStart_kept {s₀ : State} (p : Nat) (s : State) (h : Kept s₀ s) :
    Kept s₀ (otnStart p s) := by
  unfold otnStart
  first
  | (simp +contextual (maxDischargeDepth := 60) [h]; done)
  | (try dsimp only); (repeat' (first | (simp +contextual (maxDischargeDepth := 60) [h]; done) | split))

@[simp] theorem txStop_kept {s₀ : State} (p : Nat) (s : State) (h : Kept s₀ s) :
    Kept s₀ (txStop p s) := by
  unfold txStop
  first
  | (simp +contextual (maxDischargeDepth := 60) [h]; done)
  | (try dsimp only); (repeat' (first | (simp +contextual (maxDischargeDepth := 60) [h]; done) | split))

@[simp] theorem portWrite_kept {s₀ : State} (p : Nat) (v : Word) (s : State) (h : Kept s₀ s) :
    Kept s₀ (portWrite p v s) := by
  unfold portWrite
  first
  | (simp +contextual (maxDischargeDepth := 60) [h]; done)
  | (try dsimp only); (repeat' (first | (simp +contextual (maxDischargeDepth := 60) [h]; done) | split))

@[simp] theorem execPortEnable_kept {s₀ : State} (p : Port) (v : Word) (s : State) (h : Kept s₀ s) :
    KeptOut s₀ (execPortEnable p v s) := by
  unfold execPortEnable
  first
  | (simp +contextual (maxDischargeDepth := 60) [h]; done)
  | (try dsimp only); (repeat' (first | (simp +contextual (maxDischargeDepth := 60) [h]; done) | split))

@[simp] theorem execPortDisable_kept {s₀ : State} (p : Port) (v : Word) (s : State) (h : Kept s₀ s) :
    KeptOut s₀ (execPortDisable p v s) := by
  unfold execPortDisable
  first
  | (simp +contextual (maxDischargeDepth := 60) [h]; done)
  | (try dsimp only); (repeat' (first | (simp +contextual (maxDischargeDepth := 60) [h]; done) | split))

@[simp] theorem execLinkUp_kept {s₀ : State} (p : Port) (s : State) (h : Kept s₀ s) :
    KeptOut s₀ (execLinkUp p s) := by
  unfold execLinkUp
  first
  | (simp +contextual (maxDischargeDepth := 60) [h]; done)
  | (try dsimp only); (repeat' (first | (simp +contextual (maxDischargeDepth := 60) [h]; done) | split))

@[simp] theorem execLinkDown_kept {s₀ : State} (p : Port) (aligned lf rf hiBer : Bool) (s : State) (h : Kept s₀ s) :
    KeptOut s₀ (execLinkDown p aligned lf rf hiBer s) := by
  unfold execLinkDown
  first
  | (simp +contextual (maxDischargeDepth := 60) [h]; done)
  | (try dsimp only); (repeat' (first | (simp +contextual (maxDischargeDepth := 60) [h]; done) | split))

@[simp] theorem execFrameStart_kept {s₀ : State} (p : Port) (s : State) (h : Kept s₀ s) :
    KeptOut s₀ (execFrameStart p s) := by
  unfold execFrameStart
  first
  | (simp +contextual (maxDischargeDepth := 60) [h]; done)
  | (try dsimp only); (repeat' (first | (simp +contextual (maxDischargeDepth := 60) [h]; done) | split))

@[simp] theorem offer_kept {s₀ : State} (p : Nat) (f : RxFrame) (bs : Bytes) (complete : Bool) (s : State) (h : Kept
    s₀ s) :
    Kept s₀ (offer p f bs complete s) := by
  unfold offer
  first
  | (simp +contextual (maxDischargeDepth := 60) [h]; done)
  | (try dsimp only); (repeat' (first | (simp +contextual (maxDischargeDepth := 60) [h]; done) | split))

@[simp] theorem offerHead_kept {s₀ : State} (p : Nat) (f : RxFrame) (s : State) (h : Kept s₀ s) :
    Kept s₀ (offerHead p f s).2 := by
  unfold offerHead
  first
  | (simp +contextual (maxDischargeDepth := 60) [h]; done)
  | (try dsimp only); (repeat' (first | (simp +contextual (maxDischargeDepth := 60) [h]; done) | split))

@[simp] theorem execFrameHeaderReady_kept {s₀ : State} (p : Port) (bytes : Bytes) (s : State) (h : Kept s₀ s) :
    KeptOut s₀ (execFrameHeaderReady p bytes s) := by
  unfold execFrameHeaderReady
  first
  | (simp +contextual (maxDischargeDepth := 60) [h]; done)
  | (try dsimp only); (repeat' (first | (simp +contextual (maxDischargeDepth := 60) [h]; done) | split))

@[simp] theorem rxCheck_kept {s₀ : State} (p : Nat) (f : RxFrame) (fcsOk : Bool) (s : State) (h : Kept s₀ s) :
    Kept s₀ (rxCheck p f fcsOk s).2 := by
  unfold rxCheck
  first
  | (simp +contextual (maxDischargeDepth := 60) [h]; done)
  | (try dsimp only); (repeat' (first | (simp +contextual (maxDischargeDepth := 60) [h]; done) | split))

@[simp] theorem rxFail_kept {s₀ : State} (p : Nat) (f : RxFrame) (s : State) (h : Kept s₀ s) :
    Kept s₀ (rxFail p f s) := by
  unfold rxFail
  first
  | (simp +contextual (maxDischargeDepth := 60) [h]; done)
  | (try dsimp only); (repeat' (first | (simp +contextual (maxDischargeDepth := 60) [h]; done) | split))

@[simp] theorem rxEnd_kept {s₀ : State} (p : Nat) (f : RxFrame) (bytes : Bytes) (fcsOk : Bool) (s : State) (h : Kept
    s₀ s) :
    Kept s₀ (rxEnd p f bytes fcsOk s) := by
  unfold rxEnd
  first
  | (simp +contextual (maxDischargeDepth := 60) [h]; done)
  | (try dsimp only); (repeat' (first | (simp +contextual (maxDischargeDepth := 60) [h]; done) | split))

@[simp] theorem fecCount_kept {s₀ : State} (p : Nat) (c : FecCount) (s : State) (h : Kept s₀ s) :
    Kept s₀ (fecCount p c s) := by
  unfold fecCount
  first
  | (simp +contextual (maxDischargeDepth := 60) [h]; done)
  | (try dsimp only); (repeat' (first | (simp +contextual (maxDischargeDepth := 60) [h]; done) | split))

@[simp] theorem execFrameComplete_kept {s₀ : State} (p : Port) (bytes : Bytes) (e : FrameEnd) (s : State) (h : Kept
    s₀ s) :
    KeptOut s₀ (execFrameComplete p bytes e s) := by
  unfold execFrameComplete
  first
  | (simp +contextual (maxDischargeDepth := 60) [h]; done)
  | (try dsimp only); (repeat' (first | (simp +contextual (maxDischargeDepth := 60) [h]; done) | split))

@[simp] theorem captureTx_kept {s₀ : State} (p : Nat) (k : Packet) (s : State) (h : Kept s₀ s) :
    Kept s₀ (captureTx p k s) := by
  unfold captureTx
  first
  | (simp +contextual (maxDischargeDepth := 60) [h]; done)
  | (try dsimp only); (repeat' (first | (simp +contextual (maxDischargeDepth := 60) [h]; done) | split))

@[simp] theorem onLine_kept {s₀ : State} (p : Nat) (bs : Bytes) (stomped : Bool) (s : State) (h : Kept s₀ s) :
    Kept s₀ (onLine p bs stomped s) := by
  unfold onLine
  first
  | (simp +contextual (maxDischargeDepth := 60) [h]; done)
  | (try dsimp only); (repeat' (first | (simp +contextual (maxDischargeDepth := 60) [h]; done) | split))

@[simp] theorem execFrameTransmit_kept {s₀ : State} (p : Port) (s : State) (h : Kept s₀ s) :
    KeptOut s₀ (execFrameTransmit p s) := by
  unfold execFrameTransmit
  first
  | (simp +contextual (maxDischargeDepth := 60) [h]; done)
  | (try dsimp only); (repeat' (first | (simp +contextual (maxDischargeDepth := 60) [h]; done) | split))

@[simp] theorem execTxtsRead_kept {s₀ : State} (p : Port) (s : State) (h : Kept s₀ s) :
    KeptOut s₀ (execTxtsRead p s) := by
  unfold execTxtsRead
  first
  | (simp +contextual (maxDischargeDepth := 60) [h]; done)
  | (try dsimp only); (repeat' (first | (simp +contextual (maxDischargeDepth := 60) [h]; done) | split))

@[simp] theorem cutWire_kept {s₀ : State} (p : Nat) (s : State) (h : Kept s₀ s) :
    Kept s₀ (cutWire p s) := by
  unfold cutWire
  first
  | (simp +contextual (maxDischargeDepth := 60) [h]; done)
  | (try dsimp only); (repeat' (first | (simp +contextual (maxDischargeDepth := 60) [h]; done) | split))

@[simp] theorem execLaneRetire_kept {s₀ : State} (l : Lane) (sw : Bool) (s : State) (h : Kept s₀ s) :
    KeptOut s₀ (execLaneRetire l sw s) := by
  unfold execLaneRetire
  first
  | (simp +contextual (maxDischargeDepth := 60) [h]; done)
  | (try dsimp only); (repeat' (first | (simp +contextual (maxDischargeDepth := 60) [h]; done) | split))

@[simp] theorem execLanePllLockLoss_kept {s₀ : State} (l : Lane) (s : State) (h : Kept s₀ s) :
    KeptOut s₀ (execLanePllLockLoss l s) := by
  unfold execLanePllLockLoss
  first
  | (simp +contextual (maxDischargeDepth := 60) [h]; done)
  | (try dsimp only); (repeat' (first | (simp +contextual (maxDischargeDepth := 60) [h]; done) | split))

@[simp] theorem execLaneLockRegain_kept {s₀ : State} (l : Lane) (s : State) (h : Kept s₀ s) :
    KeptOut s₀ (execLaneLockRegain l s) := by
  unfold execLaneLockRegain
  first
  | (simp +contextual (maxDischargeDepth := 60) [h]; done)
  | (try dsimp only); (repeat' (first | (simp +contextual (maxDischargeDepth := 60) [h]; done) | split))

end Sys2Proof.Laws
end

