-- ==== Sys2Proof/Laws/KeptHost.lean ====
section
/-! SUPPORT. The same of the rings, the cipher engine, the error unit, OTN, start-up, the mailbox and the Hearth. -/

set_option linter.all false

namespace Sys2Proof.Laws
open Sys2Proof Sys2Proof.Machine

@[simp] theorem execSliceFree_kept {s₀ : State} (sl : Slice) (s : State) (h : Kept s₀ s) :
    KeptOut s₀ (execSliceFree sl s) := by
  unfold execSliceFree
  first
  | (simp +contextual (maxDischargeDepth := 60) [h]; done)
  | (try dsimp only); (repeat' (first | (simp +contextual (maxDischargeDepth := 60) [h]; done) | split))

@[simp] theorem execRingEnable_kept {s₀ : State} (r : RingRef) (v : Word) (s : State) (h : Kept s₀ s) :
    KeptOut s₀ (execRingEnable r v s) := by
  unfold execRingEnable
  first
  | (simp +contextual (maxDischargeDepth := 60) [h]; done)
  | (try dsimp only); (repeat' (first | (simp +contextual (maxDischargeDepth := 60) [h]; done) | split))

@[simp] theorem ringDisable_kept {s₀ : State} (k : Nat) (s : State) (h : Kept s₀ s) :
    Kept s₀ (ringDisable k s) := by
  unfold ringDisable
  first
  | (simp +contextual (maxDischargeDepth := 60) [h]; done)
  | (try dsimp only); (repeat' (first | (simp +contextual (maxDischargeDepth := 60) [h]; done) | split))

@[simp] theorem execRingDisable_kept {s₀ : State} (r : RingRef) (v : Word) (s : State) (h : Kept s₀ s) :
    KeptOut s₀ (execRingDisable r v s) := by
  unfold execRingDisable
  first
  | (simp +contextual (maxDischargeDepth := 60) [h]; done)
  | (try dsimp only); (repeat' (first | (simp +contextual (maxDischargeDepth := 60) [h]; done) | split))

@[simp] theorem execRingDisabled_kept {s₀ : State} (r : RingRef) (s : State) (h : Kept s₀ s) :
    KeptOut s₀ (execRingDisabled r s) := by
  unfold execRingDisabled
  first
  | (simp +contextual (maxDischargeDepth := 60) [h]; done)
  | (try dsimp only); (repeat' (first | (simp +contextual (maxDischargeDepth := 60) [h]; done) | split))

@[simp] theorem writeEntry_kept {s₀ : State} (k : Nat) (e : Ended) (s : State) (h : Kept s₀ s) :
    Kept s₀ (writeEntry k e s) := by
  unfold writeEntry
  first
  | (simp +contextual (maxDischargeDepth := 60) [h]; done)
  | (try dsimp only); (repeat' (first | (simp +contextual (maxDischargeDepth := 60) [h]; done) | split))

@[simp] theorem drainOne_kept {s₀ : State} (k : Nat) (s : State) (h : Kept s₀ s) :
    Kept s₀ (drainOne k s) := by
  unfold drainOne
  first
  | (simp +contextual (maxDischargeDepth := 60) [h]; done)
  | (try dsimp only); (repeat' (first | (simp +contextual (maxDischargeDepth := 60) [h]; done) | split))

@[simp] theorem execCompletionWrite_kept {s₀ : State} (r : RingRef) (s : State) (h : Kept s₀ s) :
    KeptOut s₀ (execCompletionWrite r s) := by
  unfold execCompletionWrite
  first
  | (simp +contextual (maxDischargeDepth := 60) [h]; done)
  | (try dsimp only); (repeat' (first | (simp +contextual (maxDischargeDepth := 60) [h]; done) | split))

@[simp] theorem execCqHeadWrite_kept {s₀ : State} (r : RingRef) (v : Word) (s : State) (h : Kept s₀ s) :
    KeptOut s₀ (execCqHeadWrite r v s) := by
  unfold execCqHeadWrite
  first
  | (simp +contextual (maxDischargeDepth := 60) [h]; done)
  | (try dsimp only); (repeat' (first | (simp +contextual (maxDischargeDepth := 60) [h]; done) | split))

@[simp] theorem ringIrq_kept {s₀ : State} (k : Nat) (s : State) (h : Kept s₀ s) :
    Kept s₀ (ringIrq k s) := by
  unfold ringIrq
  first
  | (simp +contextual (maxDischargeDepth := 60) [h]; done)
  | (try dsimp only); (repeat' (first | (simp +contextual (maxDischargeDepth := 60) [h]; done) | split))

@[simp] theorem execPublishRecordWrite_kept {s₀ : State} (r : RingRef) (s : State) (h : Kept s₀ s) :
    KeptOut s₀ (execPublishRecordWrite r s) := by
  unfold execPublishRecordWrite
  first
  | (simp +contextual (maxDischargeDepth := 60) [h]; done)
  | (try dsimp only); (repeat' (first | (simp +contextual (maxDischargeDepth := 60) [h]; done) | split))

@[simp] theorem execIrqHoldoffEnd_kept {s₀ : State} (r : RingRef) (s : State) (h : Kept s₀ s) :
    KeptOut s₀ (execIrqHoldoffEnd r s) := by
  unfold execIrqHoldoffEnd
  first
  | (simp +contextual (maxDischargeDepth := 60) [h]; done)
  | (try dsimp only); (repeat' (first | (simp +contextual (maxDischargeDepth := 60) [h]; done) | split))

@[simp] theorem execRingPoll_kept {s₀ : State} (r : RingRef) (slot : BitVec 512) (s : State) (h : Kept s₀ s) :
    KeptOut s₀ (execRingPoll r slot s) := by
  unfold execRingPoll
  first
  | (simp +contextual (maxDischargeDepth := 60) [h]; done)
  | (try dsimp only); (repeat' (first | (simp +contextual (maxDischargeDepth := 60) [h]; done) | split))

@[simp] theorem execDescriptorFetch_kept {s₀ : State} (r : RingRef) (slots : DescList) (s : State) (h : Kept s₀ s) :
    KeptOut s₀ (execDescriptorFetch r slots s) := by
  unfold execDescriptorFetch
  first
  | (simp +contextual (maxDischargeDepth := 60) [h]; done)
  | (try dsimp only); (repeat' (first | (simp +contextual (maxDischargeDepth := 60) [h]; done) | split))

@[simp] theorem startWork_kept {s₀ : State} (k : Nat) (d : BitVec 512) (s : State) (h : Kept s₀ s) :
    Kept s₀ (startWork k d s).2 := by
  unfold startWork
  first
  | (simp +contextual (maxDischargeDepth := 60) [h]; done)
  | (try dsimp only); (repeat' (first | (simp +contextual (maxDischargeDepth := 60) [h]; done) | split))

@[simp] theorem descRow_kept {s₀ : State} (r : RingRef) (p : BitVec 512 → Bool) (dma : Bool)
    (run : Nat → Work → State → State) (s : State) (h : Kept s₀ s)
    (hr : ∀ k w x, Kept s₀ x → Kept s₀ (run k w x)) : KeptOut s₀ (descRow r p dma run s) := by
  unfold descRow
  dsimp only
  split
  · split
    · exact (keptOut_next _ _).2 (hr _ _ _ (by simp +contextual (maxDischargeDepth := 60) [h]))
    · simp +contextual (maxDischargeDepth := 60) [h]
  · simp +contextual (maxDischargeDepth := 60) [h]

@[simp] theorem workEnd_kept {s₀ : State} (k : Nat) (w : Work) (f : Ended → Ended) (s : State) (h : Kept s₀ s) :
    Kept s₀ (workEnd k w f s) := by
  unfold workEnd
  first
  | (simp +contextual (maxDischargeDepth := 60) [h]; done)
  | (try dsimp only); (repeat' (first | (simp +contextual (maxDischargeDepth := 60) [h]; done) | split))

@[simp] theorem workRefused_kept {s₀ : State} (k : Nat) (w : Work) (detail : Nat) (s : State) (h : Kept s₀ s) :
    Kept s₀ (workRefused k w detail s) := by
  unfold workRefused
  first
  | (simp +contextual (maxDischargeDepth := 60) [h]; done)
  | (try dsimp only); (repeat' (first | (simp +contextual (maxDischargeDepth := 60) [h]; done) | split))

@[simp] theorem execDescNop_kept {s₀ : State} (r : RingRef) (s : State) (h : Kept s₀ s) :
    KeptOut s₀ (execDescNop r s) := by
  unfold execDescNop
  first
  | (simp +contextual (maxDischargeDepth := 60) [h]; done)
  | (refine descRow_kept _ _ _ _ _ h fun k w x hx => ?_; (try dsimp only); repeat' (first | (simp +contextual (maxDischargeDepth := 60) [h, hx]; done) | split)) | (split <;> first | (simp +contextual (maxDischargeDepth := 60) [h]; done) | (refine descRow_kept _ _ _ _ _ h fun k w x hx => ?_; (try dsimp only); repeat' (first | (simp +contextual (maxDischargeDepth := 60) [h, hx]; done) | split)))

@[simp] theorem execDescTx_kept {s₀ : State} (r : RingRef) (data : Bytes) (s : State) (h : Kept s₀ s) :
    KeptOut s₀ (execDescTx r data s) := by
  unfold execDescTx
  first
  | (simp +contextual (maxDischargeDepth := 60) [h]; done)
  | (refine descRow_kept _ _ _ _ _ h fun k w x hx => ?_; (try dsimp only); repeat' (first | (simp +contextual (maxDischargeDepth := 60) [h, hx]; done) | split)) | (split <;> first | (simp +contextual (maxDischargeDepth := 60) [h]; done) | (refine descRow_kept _ _ _ _ _ h fun k w x hx => ?_; (try dsimp only); repeat' (first | (simp +contextual (maxDischargeDepth := 60) [h, hx]; done) | split)))

@[simp] theorem execDescCipher_kept {s₀ : State} (r : RingRef) (data : Bytes) (s : State) (h : Kept s₀ s) :
    KeptOut s₀ (execDescCipher r data s) := by
  unfold execDescCipher
  first
  | (simp +contextual (maxDischargeDepth := 60) [h]; done)
  | (refine descRow_kept _ _ _ _ _ h fun k w x hx => ?_; (try dsimp only); repeat' (first | (simp +contextual (maxDischargeDepth := 60) [h, hx]; done) | split)) | (split <;> first | (simp +contextual (maxDischargeDepth := 60) [h]; done) | (refine descRow_kept _ _ _ _ _ h fun k w x hx => ?_; (try dsimp only); repeat' (first | (simp +contextual (maxDischargeDepth := 60) [h, hx]; done) | split)))

@[simp] theorem execDescCounter_kept {s₀ : State} (r : RingRef) (s : State) (h : Kept s₀ s) :
    KeptOut s₀ (execDescCounter r s) := by
  unfold execDescCounter
  first
  | (simp +contextual (maxDischargeDepth := 60) [h]; done)
  | (refine descRow_kept _ _ _ _ _ h fun k w x hx => ?_; (try dsimp only); repeat' (first | (simp +contextual (maxDischargeDepth := 60) [h, hx]; done) | split)) | (split <;> first | (simp +contextual (maxDischargeDepth := 60) [h]; done) | (refine descRow_kept _ _ _ _ _ h fun k w x hx => ?_; (try dsimp only); repeat' (first | (simp +contextual (maxDischargeDepth := 60) [h, hx]; done) | split)))

@[simp] theorem descSvc_kept {s₀ : State} (r : RingRef) (action : Nat) (f : Nat → BitVec 512 → State → State)
    (s : State) (h : Kept s₀ s) (hf : ∀ n d x, Kept s₀ x → Kept s₀ (f n d x)) : KeptOut s₀ (descSvc r action f s) := by
  unfold descSvc
  refine descRow_kept _ _ _ _ _ h fun k w x hx => ?_
  have := hf (descThread w.desc) w.desc x hx
  dsimp only
  repeat' split
  all_goals simp (maxDischargeDepth := 60) [hx, this]

@[simp] theorem execDescSvcStart_kept {s₀ : State} (r : RingRef) (s : State) (h : Kept s₀ s) :
    KeptOut s₀ (execDescSvcStart r s) := by
  unfold execDescSvcStart
  first
  | (simp +contextual (maxDischargeDepth := 60) [h]; done)
  | (try dsimp only); (repeat' (first | (simp +contextual (maxDischargeDepth := 60) [h]; done) | split))

@[simp] theorem execDescSvcStop_kept {s₀ : State} (r : RingRef) (s : State) (h : Kept s₀ s) :
    KeptOut s₀ (execDescSvcStop r s) := by
  unfold execDescSvcStop
  first
  | (simp +contextual (maxDischargeDepth := 60) [h]; done)
  | (try dsimp only); (repeat' (first | (simp +contextual (maxDischargeDepth := 60) [h]; done) | split))

@[simp] theorem execDescSvcWake_kept {s₀ : State} (r : RingRef) (s : State) (h : Kept s₀ s) :
    KeptOut s₀ (execDescSvcWake r s) := by
  unfold execDescSvcWake
  first
  | (simp +contextual (maxDischargeDepth := 60) [h]; done)
  | (try dsimp only); (repeat' (first | (simp +contextual (maxDischargeDepth := 60) [h]; done) | split))

@[simp] theorem execDescAlloc_kept {s₀ : State} (r : RingRef) (s : State) (h : Kept s₀ s) :
    KeptOut s₀ (execDescAlloc r s) := by
  unfold execDescAlloc
  first
  | (simp +contextual (maxDischargeDepth := 60) [h]; done)
  | (refine descRow_kept _ _ _ _ _ h fun k w x hx => ?_; (try dsimp only); repeat' (first | (simp +contextual (maxDischargeDepth := 60) [h, hx]; done) | split)) | (split <;> first | (simp +contextual (maxDischargeDepth := 60) [h]; done) | (refine descRow_kept _ _ _ _ _ h fun k w x hx => ?_; (try dsimp only); repeat' (first | (simp +contextual (maxDischargeDepth := 60) [h, hx]; done) | split)))

@[simp] theorem descBillet_kept {s₀ : State} (k : Nat) (w : Work) (op : BilletOp) (o : ReadOutcome) (s : State) (h :
    Kept s₀ s) :
    Kept s₀ (descBillet k w op o s) := by
  unfold descBillet
  first
  | (simp +contextual (maxDischargeDepth := 60) [h]; done)
  | (try dsimp only); (repeat' (first | (simp +contextual (maxDischargeDepth := 60) [h]; done) | split))

@[simp] theorem execDescRelease_kept {s₀ : State} (r : TaggedRing) (s : State) (h : Kept s₀ s) :
    KeptOut s₀ (execDescRelease r s) := by
  unfold execDescRelease
  first
  | (simp +contextual (maxDischargeDepth := 60) [h]; done)
  | (refine descRow_kept _ _ _ _ _ h fun k w x hx => ?_; (try dsimp only); repeat' (first | (simp +contextual (maxDischargeDepth := 60) [h, hx]; done) | split)) | (split <;> first | (simp +contextual (maxDischargeDepth := 60) [h]; done) | (refine descRow_kept _ _ _ _ _ h fun k w x hx => ?_; (try dsimp only); repeat' (first | (simp +contextual (maxDischargeDepth := 60) [h, hx]; done) | split)))

@[simp] theorem execDescTransfer_kept {s₀ : State} (r : TaggedRing) (s : State) (h : Kept s₀ s) :
    KeptOut s₀ (execDescTransfer r s) := by
  unfold execDescTransfer
  first
  | (simp +contextual (maxDischargeDepth := 60) [h]; done)
  | (refine descRow_kept _ _ _ _ _ h fun k w x hx => ?_; (try dsimp only); repeat' (first | (simp +contextual (maxDischargeDepth := 60) [h, hx]; done) | split)) | (split <;> first | (simp +contextual (maxDischargeDepth := 60) [h]; done) | (refine descRow_kept _ _ _ _ _ h fun k w x hx => ?_; (try dsimp only); repeat' (first | (simp +contextual (maxDischargeDepth := 60) [h, hx]; done) | split)))

@[simp] theorem execDescRxPost_kept {s₀ : State} (r : RingRef) (s : State) (h : Kept s₀ s) :
    KeptOut s₀ (execDescRxPost r s) := by
  unfold execDescRxPost
  first
  | (simp +contextual (maxDischargeDepth := 60) [h]; done)
  | (refine descRow_kept _ _ _ _ _ h fun k w x hx => ?_; (try dsimp only); repeat' (first | (simp +contextual (maxDischargeDepth := 60) [h, hx]; done) | split)) | (split <;> first | (simp +contextual (maxDischargeDepth := 60) [h]; done) | (refine descRow_kept _ _ _ _ _ h fun k w x hx => ?_; (try dsimp only); repeat' (first | (simp +contextual (maxDischargeDepth := 60) [h, hx]; done) | split)))

@[simp] theorem execDmaFault_kept {s₀ : State} (r : RingRef) (pos : RingPos) (addr : Word) (s : State) (h : Kept s₀
    s) :
    KeptOut s₀ (execDmaFault r pos addr s) := by
  unfold execDmaFault
  first
  | (simp +contextual (maxDischargeDepth := 60) [h]; done)
  | (try dsimp only); (repeat' (first | (simp +contextual (maxDischargeDepth := 60) [h]; done) | split))

@[simp] theorem execWorkTimeout_kept {s₀ : State} (r : RingRef) (pos : RingPos) (s : State) (h : Kept s₀ s) :
    KeptOut s₀ (execWorkTimeout r pos s) := by
  unfold execWorkTimeout
  first
  | (simp +contextual (maxDischargeDepth := 60) [h]; done)
  | (try dsimp only); (repeat' (first | (simp +contextual (maxDischargeDepth := 60) [h]; done) | split))

@[simp] theorem execOrphanEnd_kept {s₀ : State} (r : RingRef) (pos : RingPos) (s : State) (h : Kept s₀ s) :
    KeptOut s₀ (execOrphanEnd r pos s) := by
  unfold execOrphanEnd
  first
  | (simp +contextual (maxDischargeDepth := 60) [h]; done)
  | (try dsimp only); (repeat' (first | (simp +contextual (maxDischargeDepth := 60) [h]; done) | split))

@[simp] theorem setKeyOwner_kept {s₀ : State} (v : Nat) (s : State) (h : Kept s₀ s) :
    Kept s₀ (setKeyOwner v s) := by
  unfold setKeyOwner
  first
  | (simp +contextual (maxDischargeDepth := 60) [h]; done)
  | (try dsimp only); (repeat' (first | (simp +contextual (maxDischargeDepth := 60) [h]; done) | split))

@[simp] theorem keyLockViolation_kept {s₀ : State} (off : Nat) (s : State) (h : Kept s₀ s) :
    Kept s₀ (keyLockViolation off s) := by
  unfold keyLockViolation
  first
  | (simp +contextual (maxDischargeDepth := 60) [h]; done)
  | (try dsimp only); (repeat' (first | (simp +contextual (maxDischargeDepth := 60) [h]; done) | split))

@[simp] theorem execKeyLockClaim_kept {s₀ : State} (v : Word) (s : State) (h : Kept s₀ s) :
    KeptOut s₀ (execKeyLockClaim v s) := by
  unfold execKeyLockClaim
  first
  | (simp +contextual (maxDischargeDepth := 60) [h]; done)
  | (try dsimp only); (repeat' (first | (simp +contextual (maxDischargeDepth := 60) [h]; done) | split))

@[simp] theorem execKeyLockRelease_kept {s₀ : State} (v : Word) (s : State) (h : Kept s₀ s) :
    KeptOut s₀ (execKeyLockRelease v s) := by
  unfold execKeyLockRelease
  first
  | (simp +contextual (maxDischargeDepth := 60) [h]; done)
  | (try dsimp only); (repeat' (first | (simp +contextual (maxDischargeDepth := 60) [h]; done) | split))

@[simp] theorem keyLockFlr_kept {s₀ : State} (s : State) (h : Kept s₀ s) :
    Kept s₀ (keyLockFlr s) := by
  unfold keyLockFlr
  first
  | (simp +contextual (maxDischargeDepth := 60) [h]; done)
  | (try dsimp only); (repeat' (first | (simp +contextual (maxDischargeDepth := 60) [h]; done) | split))

@[simp] theorem purge_kept {s₀ : State} (s : State) (h : Kept s₀ s) :
    Kept s₀ (purge s) := by
  unfold purge
  first
  | (simp +contextual (maxDischargeDepth := 60) [h]; done)
  | (try dsimp only); (repeat' (first | (simp +contextual (maxDischargeDepth := 60) [h]; done) | split))

@[simp] theorem putSlot_kept {s₀ : State} (n : Nat) (x : Slot) (s : State) (h : Kept s₀ s) :
    Kept s₀ (putSlot n x s) := by
  unfold putSlot
  first
  | (simp +contextual (maxDischargeDepth := 60) [h]; done)
  | (try dsimp only); (repeat' (first | (simp +contextual (maxDischargeDepth := 60) [h]; done) | split))

@[simp] theorem setKeyData_kept {s₀ : State} (bs : Bytes) (s : State) (h : Kept s₀ s) :
    Kept s₀ (setKeyData bs s) := by
  unfold setKeyData
  first
  | (simp +contextual (maxDischargeDepth := 60) [h]; done)
  | (try dsimp only); (repeat' (first | (simp +contextual (maxDischargeDepth := 60) [h]; done) | split))

/-- What a key command's effect leaves. -/
def EffKept (s₀ : State) : KeyEffect → Prop
  | .wait => True
  | .done _ t => Kept s₀ t
  | .erasing _ t => Kept s₀ t

theorem keyWrite_kept {s₀ : State} (last : Bool) (n : Nat) (x : Slot) (s : State) (h : Kept s₀ s) :
    EffKept s₀ (keyWrite last n x s) := by
  unfold keyWrite
  repeat' split
  all_goals first | trivial | (simp only [EffKept]; simp +contextual (maxDischargeDepth := 60) [h])

theorem keyEffect_kept {s₀ : State} (last : Bool) (op n m : Nat) (s : State) (h : Kept s₀ s) : EffKept s₀ (keyEffect last op n m s) := by
  unfold keyEffect
  dsimp only
  repeat' split
  all_goals first | exact keyWrite_kept _ _ _ _ h | trivial | (simp only [EffKept]; simp +contextual (maxDischargeDepth := 60) [h])

@[simp] theorem keyTry_kept {s₀ : State} (last : Bool) (j : KeyJob) (s : State) (h : Kept s₀ s) : Kept s₀ (keyTry
    last j s) := by
  have := keyEffect_kept last j.op j.slot j.slot2 s h
  unfold keyTry
  dsimp only
  split <;> rename_i e <;> rw [e] at this <;> simp only [EffKept] at this <;> simp +contextual (maxDischargeDepth := 60) [h, this]

@[simp] theorem keyCmd_kept {s₀ : State} (op : Nat) (v : Word) (s : State) (h : Kept s₀ s) :
    Kept s₀ (keyCmd op v s) := by
  unfold keyCmd
  first
  | (simp +contextual (maxDischargeDepth := 60) [h]; done)
  | (try dsimp only); (repeat' (first | (simp +contextual (maxDischargeDepth := 60) [h]; done) | split))

@[simp] theorem execKeyRead_kept {s₀ : State} (v : Word) (s : State) (h : Kept s₀ s) :
    KeptOut s₀ (execKeyRead v s) := by
  unfold execKeyRead
  first
  | (simp +contextual (maxDischargeDepth := 60) [h]; done)
  | (try dsimp only); (repeat' (first | (simp +contextual (maxDischargeDepth := 60) [h]; done) | split))

@[simp] theorem execKeyInstall_kept {s₀ : State} (v : Word) (s : State) (h : Kept s₀ s) :
    KeptOut s₀ (execKeyInstall v s) := by
  unfold execKeyInstall
  first
  | (simp +contextual (maxDischargeDepth := 60) [h]; done)
  | (try dsimp only); (repeat' (first | (simp +contextual (maxDischargeDepth := 60) [h]; done) | split))

@[simp] theorem execKeyErase_kept {s₀ : State} (v : Word) (s : State) (h : Kept s₀ s) :
    KeptOut s₀ (execKeyErase v s) := by
  unfold execKeyErase
  first
  | (simp +contextual (maxDischargeDepth := 60) [h]; done)
  | (try dsimp only); (repeat' (first | (simp +contextual (maxDischargeDepth := 60) [h]; done) | split))

@[simp] theorem execKeyDerive_kept {s₀ : State} (v : Word) (s : State) (h : Kept s₀ s) :
    KeptOut s₀ (execKeyDerive v s) := by
  unfold execKeyDerive
  first
  | (simp +contextual (maxDischargeDepth := 60) [h]; done)
  | (try dsimp only); (repeat' (first | (simp +contextual (maxDischargeDepth := 60) [h]; done) | split))

@[simp] theorem execKeyWrap_kept {s₀ : State} (v : Word) (s : State) (h : Kept s₀ s) :
    KeptOut s₀ (execKeyWrap v s) := by
  unfold execKeyWrap
  first
  | (simp +contextual (maxDischargeDepth := 60) [h]; done)
  | (try dsimp only); (repeat' (first | (simp +contextual (maxDischargeDepth := 60) [h]; done) | split))

@[simp] theorem execKeyUnwrap_kept {s₀ : State} (v : Word) (s : State) (h : Kept s₀ s) :
    KeptOut s₀ (execKeyUnwrap v s) := by
  unfold execKeyUnwrap
  first
  | (simp +contextual (maxDischargeDepth := 60) [h]; done)
  | (try dsimp only); (repeat' (first | (simp +contextual (maxDischargeDepth := 60) [h]; done) | split))

@[simp] theorem keyEnd_kept {s₀ : State} (j : KeyJob) (r : Nat) (s : State) (h : Kept s₀ s) :
    Kept s₀ (keyEnd j r s) := by
  unfold keyEnd
  first
  | (simp +contextual (maxDischargeDepth := 60) [h]; done)
  | (try dsimp only); (repeat' (first | (simp +contextual (maxDischargeDepth := 60) [h]; done) | split))

@[simp] theorem execKeyCommandDone_kept {s₀ : State} (s : State) (h : Kept s₀ s) :
    KeptOut s₀ (execKeyCommandDone s) := by
  unfold execKeyCommandDone
  first
  | (simp +contextual (maxDischargeDepth := 60) [h]; done)
  | (try dsimp only); (repeat' (first | (simp +contextual (maxDischargeDepth := 60) [h]; done) | split))

@[simp] theorem execEraseComplete_kept {s₀ : State} (s : State) (h : Kept s₀ s) :
    KeptOut s₀ (execEraseComplete s) := by
  unfold execEraseComplete
  first
  | (simp +contextual (maxDischargeDepth := 60) [h]; done)
  | (try dsimp only); (repeat' (first | (simp +contextual (maxDischargeDepth := 60) [h]; done) | split))

@[simp] theorem execSlotEccError_kept {s₀ : State} (slot : KeySlot) (s : State) (h : Kept s₀ s) :
    KeptOut s₀ (execSlotEccError slot s) := by
  unfold execSlotEccError
  first
  | (simp +contextual (maxDischargeDepth := 60) [h]; done)
  | (try dsimp only); (repeat' (first | (simp +contextual (maxDischargeDepth := 60) [h]; done) | split))

@[simp] theorem execSlotRecovery_kept {s₀ : State} (slot : KeySlot) (s : State) (h : Kept s₀ s) :
    KeptOut s₀ (execSlotRecovery slot s) := by
  unfold execSlotRecovery
  first
  | (simp +contextual (maxDischargeDepth := 60) [h]; done)
  | (try dsimp only); (repeat' (first | (simp +contextual (maxDischargeDepth := 60) [h]; done) | split))

@[simp] theorem ivNotices_kept {s₀ : State} (q : CphReq) (label : Nat) (g : Guard) (s : State) (h : Kept s₀ s) :
    Kept s₀ (ivNotices q label g s) := by
  unfold ivNotices
  first
  | (simp +contextual (maxDischargeDepth := 60) [h]; done)
  | (try dsimp only); (repeat' (first | (simp +contextual (maxDischargeDepth := 60) [h]; done) | split))

@[simp] theorem acceptReq_kept {s₀ : State} (q : CphReq) (s : State) (h : Kept s₀ s) :
    Kept s₀ (acceptReq q s) := by
  unfold acceptReq
  first
  | (simp +contextual (maxDischargeDepth := 60) [h]; done)
  | (try dsimp only); (repeat' (first | (simp +contextual (maxDischargeDepth := 60) [h]; done) | split))

@[simp] theorem progReturn_kept {s₀ : State} (k wid status code : Nat) (out : Option (Nat × Bytes × Bytes)) (s :
    State) (h : Kept s₀ s) :
    Kept s₀ (progReturn k wid status code out s) := by
  unfold progReturn
  first
  | (simp +contextual (maxDischargeDepth := 60) [h]; done)
  | (try dsimp only); (repeat' (first | (simp +contextual (maxDischargeDepth := 60) [h]; done) | split))

@[simp] theorem oldEnds_kept {s₀ : State} (wid : Nat) (s : State) (h : Kept s₀ s) :
    Kept s₀ (oldEnds wid s) := by
  unfold oldEnds
  first
  | (simp +contextual (maxDischargeDepth := 60) [h]; done)
  | (try dsimp only); (repeat' (first | (simp +contextual (maxDischargeDepth := 60) [h]; done) | split))

@[simp] theorem hostReturn_kept {s₀ : State} (k wid : Nat) (f : Work → Ended → Ended) (s : State) (h : Kept s₀ s) :
    Kept s₀ (hostReturn k wid f s) := by
  unfold hostReturn
  first
  | (simp +contextual (maxDischargeDepth := 60) [h]; done)
  | (try dsimp only); (repeat' (first | (simp +contextual (maxDischargeDepth := 60) [h]; done) | split))

@[simp] theorem refuseReq_kept {s₀ : State} (q : CphReq) (code : Nat) (s : State) (h : Kept s₀ s) :
    Kept s₀ (refuseReq q code s) := by
  unfold refuseReq
  first
  | (simp +contextual (maxDischargeDepth := 60) [h]; done)
  | (try dsimp only); (repeat' (first | (simp +contextual (maxDischargeDepth := 60) [h]; done) | split))

@[simp] theorem judgeReq_kept {s₀ : State} (q : CphReq) (rest : List CphReq) (s : State) (h : Kept s₀ s) :
    Kept s₀ (judgeReq q rest s) := by
  unfold judgeReq
  first
  | (simp +contextual (maxDischargeDepth := 60) [h]; done)
  | (try dsimp only); (repeat' (first | (simp +contextual (maxDischargeDepth := 60) [h]; done) | split))

@[simp] theorem execCipherRequestAccept_kept {s₀ : State} (s : State) (h : Kept s₀ s) :
    KeptOut s₀ (execCipherRequestAccept s) := by
  unfold execCipherRequestAccept
  first
  | (simp +contextual (maxDischargeDepth := 60) [h]; done)
  | (try dsimp only); (repeat' (first | (simp +contextual (maxDischargeDepth := 60) [h]; done) | split))

@[simp] theorem acceptNext_kept {s₀ : State} (s : State) (h : Kept s₀ s) :
    Kept s₀ (acceptNext s) := by
  unfold acceptNext
  first
  | (simp +contextual (maxDischargeDepth := 60) [h]; done)
  | (try dsimp only); (repeat' (first | (simp +contextual (maxDischargeDepth := 60) [h]; done) | split))

@[simp] theorem keyRetry_kept {s₀ : State} (s : State) (h : Kept s₀ s) :
    Kept s₀ (keyRetry s) := by
  unfold keyRetry
  first
  | (simp +contextual (maxDischargeDepth := 60) [h]; done)
  | (try dsimp only); (repeat' (first | (simp +contextual (maxDischargeDepth := 60) [h]; done) | split))

@[simp] theorem cphEnd_kept {s₀ : State} (s : State) (h : Kept s₀ s) :
    Kept s₀ (cphEnd s) := by
  unfold cphEnd
  first
  | (simp +contextual (maxDischargeDepth := 60) [h]; done)
  | (try dsimp only); (repeat' (first | (simp +contextual (maxDischargeDepth := 60) [h]; done) | split))

theorem schedule_kept {s₀ : State} (s : State) (h : Kept s₀ s) : ∀ q t, schedule s = some (q, t) → Kept s₀ t := by
  intro q t e
  unfold schedule at e
  extract_lets cost ofSlice sls sp pick srcs quantum defs r m at e
  split at e
  · cases e
  · split at e
    · cases e
    · cases e; simp +contextual (maxDischargeDepth := 60) [h]

@[simp] theorem execCipherCoreDispatch_kept {s₀ : State} (k : CoreIdx) (s : State) (h : Kept s₀ s) :
    KeptOut s₀ (execCipherCoreDispatch k s) := by
  unfold execCipherCoreDispatch
  split
  · split
    · have := schedule_kept s h _ _ ‹_›
      simp +contextual (maxDischargeDepth := 60) [this]
    · simp +contextual (maxDischargeDepth := 60) [h]
  · simp +contextual (maxDischargeDepth := 60) [h]

@[simp] theorem execCipherRequestEnd_kept {s₀ : State} (k : CoreIdx) (s : State) (h : Kept s₀ s) :
    KeptOut s₀ (execCipherRequestEnd k s) := by
  unfold execCipherRequestEnd
  first
  | (simp +contextual (maxDischargeDepth := 60) [h]; done)
  | (try dsimp only); (repeat' (first | (simp +contextual (maxDischargeDepth := 60) [h]; done) | split))

@[simp] theorem coreRestart_kept {s₀ : State} (k : Nat) (s : State) (h : Kept s₀ s) :
    Kept s₀ (coreRestart k s) := by
  unfold coreRestart
  first
  | (simp +contextual (maxDischargeDepth := 60) [h]; done)
  | (try dsimp only); (repeat' (first | (simp +contextual (maxDischargeDepth := 60) [h]; done) | split))

@[simp] theorem execCipherCoreRetire_kept {s₀ : State} (k : CoreIdx) (sw : Bool) (s : State) (h : Kept s₀ s) :
    KeptOut s₀ (execCipherCoreRetire k sw s) := by
  unfold execCipherCoreRetire
  first
  | (simp +contextual (maxDischargeDepth := 60) [h]; done)
  | (try dsimp only); (repeat' (first | (simp +contextual (maxDischargeDepth := 60) [h]; done) | split))

@[simp] theorem execCiph_kept {s₀ : State} (th : ThreadRef) (f : FmtC) (s : State) (h : Kept s₀ s) :
    KeptOut s₀ (execCiph th f s) := by
  unfold execCiph
  first
  | (simp +contextual (maxDischargeDepth := 60) [h]; done)
  | (try dsimp only); (repeat' (first | (simp +contextual (maxDischargeDepth := 60) [h]; done) | split))

@[simp] theorem threadFault_kept {s₀ : State} (k : Nat) (s : State) (h : Kept s₀ s) :
    Kept s₀ (threadFault k s) := by
  unfold threadFault
  first
  | (simp +contextual (maxDischargeDepth := 60) [h]; done)
  | (try dsimp only); (repeat' (first | (simp +contextual (maxDischargeDepth := 60) [h]; done) | split))

@[simp] theorem faultRun_kept {s₀ : State} (kind unit : Nat) (s : State) (h : Kept s₀ s) :
    Kept s₀ (faultRun kind unit s) := by
  unfold faultRun
  (try dsimp only); (repeat' (first | (simp +contextual (maxDischargeDepth := 60) [h]; done) | split))

@[simp] theorem faultCost_kept {s₀ : State} (kind unit context : Nat) (s : State) (h : Kept s₀ s) :
    Kept s₀ (faultCost kind unit context s) := by
  unfold faultCost
  first
  | (simp +contextual (maxDischargeDepth := 60) [h]; done)
  | (try dsimp only); (repeat' (first | (simp +contextual (maxDischargeDepth := 60) [h]; done) | split))

@[simp] theorem execFaultReport_kept {s₀ : State} (f : FaultFacts) (s : State) (h : Kept s₀ s) :
    KeptOut s₀ (execFaultReport f s) := by
  unfold execFaultReport
  first
  | (simp +contextual (maxDischargeDepth := 60) [h]; done)
  | (try dsimp only); (repeat' (first | (simp +contextual (maxDischargeDepth := 60) [h]; done) | split))

@[simp] theorem judgeCrossing_kept {s₀ : State} (key : Nat) (s : State) (h : Kept s₀ s) :
    Kept s₀ (judgeCrossing key s) := by
  unfold judgeCrossing
  first
  | (simp +contextual (maxDischargeDepth := 60) [h]; done)
  | (try dsimp only); (repeat' (first | (simp +contextual (maxDischargeDepth := 60) [h]; done) | split))

@[simp] theorem execThresholdCrossing_kept {s₀ : State} (s : State) (h : Kept s₀ s) :
    KeptOut s₀ (execThresholdCrossing s) := by
  unfold execThresholdCrossing
  first
  | (simp +contextual (maxDischargeDepth := 60) [h]; done)
  | (try dsimp only); (repeat' (first | (simp +contextual (maxDischargeDepth := 60) [h]; done) | split))

@[simp] theorem execErrorWindowClose_kept {s₀ : State} (k : UnitKind) (u : Nat) (s : State) (h : Kept s₀ s) :
    KeptOut s₀ (execErrorWindowClose k u s) := by
  unfold execErrorWindowClose
  first
  | (simp +contextual (maxDischargeDepth := 60) [h]; done)
  | (try dsimp only); (repeat' (first | (simp +contextual (maxDischargeDepth := 60) [h]; done) | split))

@[simp] theorem execErrRetire_kept {s₀ : State} (v : Word) (s : State) (h : Kept s₀ s) :
    KeptOut s₀ (execErrRetire v s) := by
  unfold execErrRetire
  first
  | (simp +contextual (maxDischargeDepth := 60) [h]; done)
  | (try dsimp only); (repeat' (first | (simp +contextual (maxDischargeDepth := 60) [h]; done) | split))

@[simp] theorem clearTotal_kept {s₀ : State} (s : State) (h : Kept s₀ s) :
    Kept s₀ (clearTotal s) := by
  unfold clearTotal
  first
  | (simp +contextual (maxDischargeDepth := 60) [h]; done)
  | (try dsimp only); (repeat' (first | (simp +contextual (maxDischargeDepth := 60) [h]; done) | split))

@[simp] theorem execErrLogRead_kept {s₀ : State} (s : State) (h : Kept s₀ s) :
    KeptOut s₀ (execErrLogRead s) := by
  unfold execErrLogRead
  first
  | (simp +contextual (maxDischargeDepth := 60) [h]; done)
  | (try dsimp only); (repeat' (first | (simp +contextual (maxDischargeDepth := 60) [h]; done) | split))

@[simp] theorem execIntStatClear_kept {s₀ : State} (v : Word) (s : State) (h : Kept s₀ s) :
    KeptOut s₀ (execIntStatClear v s) := by
  unfold execIntStatClear
  first
  | (simp +contextual (maxDischargeDepth := 60) [h]; done)
  | (try dsimp only); (repeat' (first | (simp +contextual (maxDischargeDepth := 60) [h]; done) | split))

@[simp] theorem intTick_kept {s₀ : State} (s : State) (h : Kept s₀ s) :
    Kept s₀ (intTick s) := by
  unfold intTick
  first
  | (simp +contextual (maxDischargeDepth := 60) [h]; done)
  | (try dsimp only); (repeat' (first | (simp +contextual (maxDischargeDepth := 60) [h]; done) | split))

@[simp] theorem errResume_kept {s₀ : State} (s : State) (h : Kept s₀ s) :
    Kept s₀ (errResume s) := by
  unfold errResume
  first
  | (simp +contextual (maxDischargeDepth := 60) [h]; done)
  | (try dsimp only); (repeat' (first | (simp +contextual (maxDischargeDepth := 60) [h]; done) | split))

@[simp] theorem execBridgeFlitCrcError_kept {s₀ : State} (m : Module) (s : State) (h : Kept s₀ s) :
    KeptOut s₀ (execBridgeFlitCrcError m s) := by
  unfold execBridgeFlitCrcError
  first
  | (simp +contextual (maxDischargeDepth := 60) [h]; done)
  | (try dsimp only); (repeat' (first | (simp +contextual (maxDischargeDepth := 60) [h]; done) | split))

@[simp] theorem execBridgeModuleOut_kept {s₀ : State} (m : Module) (s : State) (h : Kept s₀ s) :
    KeptOut s₀ (execBridgeModuleOut m s) := by
  unfold execBridgeModuleOut
  first
  | (simp +contextual (maxDischargeDepth := 60) [h]; done)
  | (try dsimp only); (repeat' (first | (simp +contextual (maxDischargeDepth := 60) [h]; done) | split))

@[simp] theorem execBridgeModuleRetrain_kept {s₀ : State} (m : Module) (ok : Bool) (s : State) (h : Kept s₀ s) :
    KeptOut s₀ (execBridgeModuleRetrain m ok s) := by
  unfold execBridgeModuleRetrain
  first
  | (simp +contextual (maxDischargeDepth := 60) [h]; done)
  | (try dsimp only); (repeat' (first | (simp +contextual (maxDischargeDepth := 60) [h]; done) | split))

@[simp] theorem execBridgeModuleRetire_kept {s₀ : State} (m : Module) (sw : Bool) (s : State) (h : Kept s₀ s) :
    KeptOut s₀ (execBridgeModuleRetire m sw s) := by
  unfold execBridgeModuleRetire
  first
  | (simp +contextual (maxDischargeDepth := 60) [h]; done)
  | (try dsimp only); (repeat' (first | (simp +contextual (maxDischargeDepth := 60) [h]; done) | split))

@[simp] theorem setOtn_kept {s₀ : State} (o : Nat) (x : Otn) (s : State) (h : Kept s₀ s) :
    Kept s₀ (setOtn o x s) := by
  unfold setOtn
  first
  | (simp +contextual (maxDischargeDepth := 60) [h]; done)
  | (try dsimp only); (repeat' (first | (simp +contextual (maxDischargeDepth := 60) [h]; done) | split))

@[simp] theorem setDefs_kept {s₀ : State} (o : Nat) (w : Word) (s : State) (h : Kept s₀ s) :
    Kept s₀ (setDefs o w s) := by
  unfold setDefs
  first
  | (simp +contextual (maxDischargeDepth := 60) [h]; done)
  | (try dsimp only); (repeat' (first | (simp +contextual (maxDischargeDepth := 60) [h]; done) | split))

@[simp] theorem setDef_kept {s₀ : State} (o b : Nat) (on : Bool) (s : State) (h : Kept s₀ s) :
    Kept s₀ (setDef o b on s) := by
  unfold setDef
  first
  | (simp +contextual (maxDischargeDepth := 60) [h]; done)
  | (try dsimp only); (repeat' (first | (simp +contextual (maxDischargeDepth := 60) [h]; done) | split))

@[simp] theorem execDlofDeclare_kept {s₀ : State} (o : OtnPort) (s : State) (h : Kept s₀ s) :
    KeptOut s₀ (execDlofDeclare o s) := by
  unfold execDlofDeclare
  first
  | (simp +contextual (maxDischargeDepth := 60) [h]; done)
  | (try dsimp only); (repeat' (first | (simp +contextual (maxDischargeDepth := 60) [h]; done) | split))

@[simp] theorem execDlofClear_kept {s₀ : State} (o : OtnPort) (s : State) (h : Kept s₀ s) :
    KeptOut s₀ (execDlofClear o s) := by
  unfold execDlofClear
  first
  | (simp +contextual (maxDischargeDepth := 60) [h]; done)
  | (try dsimp only); (repeat' (first | (simp +contextual (maxDischargeDepth := 60) [h]; done) | split))

@[simp] theorem execDlomDeclare_kept {s₀ : State} (o : OtnPort) (s : State) (h : Kept s₀ s) :
    KeptOut s₀ (execDlomDeclare o s) := by
  unfold execDlomDeclare
  first
  | (simp +contextual (maxDischargeDepth := 60) [h]; done)
  | (try dsimp only); (repeat' (first | (simp +contextual (maxDischargeDepth := 60) [h]; done) | split))

@[simp] theorem execDlomClear_kept {s₀ : State} (o : OtnPort) (s : State) (h : Kept s₀ s) :
    KeptOut s₀ (execDlomClear o s) := by
  unfold execDlomClear
  first
  | (simp +contextual (maxDischargeDepth := 60) [h]; done)
  | (try dsimp only); (repeat' (first | (simp +contextual (maxDischargeDepth := 60) [h]; done) | split))

@[simp] theorem execDlosChange_kept {s₀ : State} (o : OtnPort) (on : Bool) (s : State) (h : Kept s₀ s) :
    KeptOut s₀ (execDlosChange o on s) := by
  unfold execDlosChange
  first
  | (simp +contextual (maxDischargeDepth := 60) [h]; done)
  | (try dsimp only); (repeat' (first | (simp +contextual (maxDischargeDepth := 60) [h]; done) | split))

@[simp] theorem execDamChange_kept {s₀ : State} (o : OtnPort) (on : Bool) (s : State) (h : Kept s₀ s) :
    KeptOut s₀ (execDamChange o on s) := by
  unfold execDamChange
  first
  | (simp +contextual (maxDischargeDepth := 60) [h]; done)
  | (try dsimp only); (repeat' (first | (simp +contextual (maxDischargeDepth := 60) [h]; done) | split))

@[simp] theorem apsRx_kept {s₀ : State} (o : Nat) (v : Nat) (s : State) (h : Kept s₀ s) :
    Kept s₀ (apsRx o v s) := by
  unfold apsRx
  first
  | (simp +contextual (maxDischargeDepth := 60) [h]; done)
  | (try dsimp only); (repeat' (first | (simp +contextual (maxDischargeDepth := 60) [h]; done) | split))

@[simp] theorem sliceRx_kept {s₀ : State} (o : Nat) (f : OtnRxFrame) (s : State) (h : Kept s₀ s) :
    Kept s₀ (sliceRx o f s) := by
  unfold sliceRx
  first
  | (simp +contextual (maxDischargeDepth := 60) [h]; done)
  | (try dsimp only); (repeat' (first | (simp +contextual (maxDischargeDepth := 60) [h]; done) | split))

@[simp] theorem execOtnRxFrame_kept {s₀ : State} (o : OtnPort) (f : OtnRxFrame) (s : State) (h : Kept s₀ s) :
    KeptOut s₀ (execOtnRxFrame o f s) := by
  unfold execOtnRxFrame
  first
  | (simp +contextual (maxDischargeDepth := 60) [h]; done)
  | (try dsimp only); (repeat' (first | (simp +contextual (maxDischargeDepth := 60) [h]; done) | split))

@[simp] theorem execOtnTxFrame_kept {s₀ : State} (o : OtnPort) (words : Nat) (s : State) (h : Kept s₀ s) :
    KeptOut s₀ (execOtnTxFrame o words s) := by
  unfold execOtnTxFrame
  first
  | (simp +contextual (maxDischargeDepth := 60) [h]; done)
  | (try dsimp only); (repeat' (first | (simp +contextual (maxDischargeDepth := 60) [h]; done) | split))

@[simp] theorem pmEnd_kept {s₀ : State} (o : Nat) (nextPart : Bool) (s : State) (h : Kept s₀ s) :
    Kept s₀ (pmEnd o nextPart s) := by
  unfold pmEnd
  first
  | (simp +contextual (maxDischargeDepth := 60) [h]; done)
  | (try dsimp only); (repeat' (first | (simp +contextual (maxDischargeDepth := 60) [h]; done) | split))

@[simp] theorem pmCount_kept {s₀ : State} (o k : Nat) (on : Bool) (s : State) (h : Kept s₀ s) :
    Kept s₀ (pmCount o k on s) := by
  unfold pmCount
  first
  | (simp +contextual (maxDischargeDepth := 60) [h]; done)
  | (try dsimp only); (repeat' (first | (simp +contextual (maxDischargeDepth := 60) [h]; done) | split))

@[simp] theorem pmPublishOne_kept {s₀ : State} (o : Nat) (s : State) (h : Kept s₀ s) :
    Kept s₀ (pmPublishOne o s) := by
  unfold pmPublishOne
  first
  | (simp +contextual (maxDischargeDepth := 60) [h]; done)
  | (try dsimp only); (repeat' (first | (simp +contextual (maxDischargeDepth := 60) [h]; done) | split))

@[simp] theorem pmPublish_kept {s₀ : State} (o f : Nat) (s : State) (h : Kept s₀ s) : Kept s₀ (pmPublish o f s) := by
  induction f generalizing s with
  | zero => exact h
  | succ f ih =>
    unfold pmPublish
    split
    · exact ih _ (by simp +contextual (maxDischargeDepth := 60) [h])
    · exact h

@[simp] theorem execPmSecondEnd_kept {s₀ : State} (o : OtnPort) (s : State) (h : Kept s₀ s) :
    KeptOut s₀ (execPmSecondEnd o s) := by
  unfold execPmSecondEnd
  first
  | (simp +contextual (maxDischargeDepth := 60) [h]; done)
  | (try dsimp only); (repeat' (first | (simp +contextual (maxDischargeDepth := 60) [h]; done) | split))

@[simp] theorem pmStepped_kept {s₀ : State} (forward : Bool) (s : State) (h : Kept s₀ s) :
    Kept s₀ (pmStepped forward s) := by
  unfold pmStepped
  first
  | (simp +contextual (maxDischargeDepth := 60) [h]; done)
  | (try dsimp only); (repeat' (first | (simp +contextual (maxDischargeDepth := 60) [h]; done) | split))

@[simp] theorem execOtnPmRead_kept {s₀ : State} (o : OtnPort) (s : State) (h : Kept s₀ s) :
    KeptOut s₀ (execOtnPmRead o s) := by
  unfold execOtnPmRead
  first
  | (simp +contextual (maxDischargeDepth := 60) [h]; done)
  | (try dsimp only); (repeat' (first | (simp +contextual (maxDischargeDepth := 60) [h]; done) | split))

@[simp] theorem withPins_kept {s₀ : State} (f : Pins → Pins) (s : State) (h : Kept s₀ s) :
    Kept s₀ (withPins f s) := by
  unfold withPins
  first
  | (simp +contextual (maxDischargeDepth := 60) [h]; done)
  | (try dsimp only); (repeat' (first | (simp +contextual (maxDischargeDepth := 60) [h]; done) | split))

@[simp] theorem setStage_kept {s₀ : State} (n : Nat) (s : State) (h : Kept s₀ s) :
    Kept s₀ (setStage n s) := by
  unfold setStage
  first
  | (simp +contextual (maxDischargeDepth := 60) [h]; done)
  | (try dsimp only); (repeat' (first | (simp +contextual (maxDischargeDepth := 60) [h]; done) | split))

@[simp] theorem resetBlocks_kept {s₀ : State} (cause : Nat) (s : State) (h : Kept s₀ s) :
    Kept s₀ (resetBlocks cause s) := by
  have : Kept s₀ (if s.tau.ppsOut then emit (.pps false) (if alertLow s then emit (.alert false) s else s)
      else (if alertLow s then emit (.alert false) s else s)) := by simp +contextual (maxDischargeDepth := 60) [h]
  refine ⟨?_, fun _ => rfl⟩
  have := this.1
  unfold resetBlocks
  dsimp only
  repeat' split
  all_goals exact h.1

@[simp] theorem memGeoms_kept {s₀ : State} (dimms : List (Dimm × Dimm)) (s : State) (h : Kept s₀ s) :
    Kept s₀ (memGeoms dimms s) := by
  unfold memGeoms
  first
  | (simp +contextual (maxDischargeDepth := 60) [h]; done)
  | (try dsimp only); (repeat' (first | (simp +contextual (maxDischargeDepth := 60) [h]; done) | split))

@[simp] theorem patchLoad_kept {s₀ : State} (b : Bool) (img : Bytes) (s : State) (h : Kept s₀ s) :
    Kept s₀ (patchLoad b img s) := by
  unfold patchLoad
  first
  | (simp +contextual (maxDischargeDepth := 60) [h]; done)
  | (refine (keptOut_next _ _).2 (micro_kept _ _ _ _ _ h fun w x hx => ?_); (try dsimp only); repeat' (first | (simp +contextual (maxDischargeDepth := 60) [h, hx]; done) | split)) | (split <;> first | (simp +contextual (maxDischargeDepth := 60) [h]; done) | (refine (keptOut_next _ _).2 (micro_kept _ _ _ _ _ h fun w x hx => ?_); (try dsimp only); repeat' (first | (simp +contextual (maxDischargeDepth := 60) [h, hx]; done) | split)))

@[simp] theorem patchBoot_kept {s₀ : State} (bundle : Bytes) (s : State) (h : Kept s₀ s) :
    Kept s₀ (patchBoot bundle s) := by
  unfold patchBoot
  first
  | (simp +contextual (maxDischargeDepth := 60) [h]; done)
  | (try dsimp only); (repeat' (first | (simp +contextual (maxDischargeDepth := 60) [h]; done) | split))

@[simp] theorem cipherBoot_kept {s₀ : State} (boot : BootFacts) (s : State) (h : Kept s₀ s) :
    Kept s₀ (cipherBoot boot s) := by
  unfold cipherBoot
  first
  | (simp +contextual (maxDischargeDepth := 60) [h]; done)
  | (try dsimp only); (repeat' (first | (simp +contextual (maxDischargeDepth := 60) [h]; done) | split))

@[simp] theorem settingsBoot_kept {s₀ : State} (s : State) (h : Kept s₀ s) :
    Kept s₀ (settingsBoot s) := by
  unfold settingsBoot
  first
  | (simp +contextual (maxDischargeDepth := 60) [h]; done)
  | (try dsimp only); (repeat' (first | (simp +contextual (maxDischargeDepth := 60) [h]; done) | split))

@[simp] theorem bootShow_kept {s₀ : State} (s : State) (h : Kept s₀ s) :
    Kept s₀ (bootShow s) := by
  unfold bootShow
  first
  | (simp +contextual (maxDischargeDepth := 60) [h]; done)
  | (try dsimp only); (repeat' (first | (simp +contextual (maxDischargeDepth := 60) [h]; done) | split))

@[simp] theorem startUp_kept {s₀ : State} (cause : Nat) (boot : BootFacts) (s : State) (h : Kept s₀ s) :
    Kept s₀ (startUp cause boot s) := by
  unfold startUp
  first
  | (simp +contextual (maxDischargeDepth := 60) [h]; done)
  | (try dsimp only); (repeat' (first | (simp +contextual (maxDischargeDepth := 60) [h]; done) | split))

@[simp] theorem execDeviceReset_kept {s₀ : State} (boot : BootFacts) (s : State) (h : Kept s₀ s) :
    KeptOut s₀ (execDeviceReset boot s) := by
  unfold execDeviceReset
  first
  | (simp +contextual (maxDischargeDepth := 60) [h]; done)
  | (try dsimp only); (repeat' (first | (simp +contextual (maxDischargeDepth := 60) [h]; done) | split))

@[simp] theorem execPorstAssert_kept {s₀ : State} (s : State) (h : Kept s₀ s) :
    KeptOut s₀ (execPorstAssert s) := by
  unfold execPorstAssert
  first
  | (simp +contextual (maxDischargeDepth := 60) [h]; done)
  | (try dsimp only); (repeat' (first | (simp +contextual (maxDischargeDepth := 60) [h]; done) | split))

@[simp] theorem execSysrstAssert_kept {s₀ : State} (s : State) (h : Kept s₀ s) :
    KeptOut s₀ (execSysrstAssert s) := by
  unfold execSysrstAssert
  first
  | (simp +contextual (maxDischargeDepth := 60) [h]; done)
  | (try dsimp only); (repeat' (first | (simp +contextual (maxDischargeDepth := 60) [h]; done) | split))

@[simp] theorem execPgInputRise_kept {s₀ : State} (k : PgInput) (s : State) (h : Kept s₀ s) :
    KeptOut s₀ (execPgInputRise k s) := by
  unfold execPgInputRise
  first
  | (simp +contextual (maxDischargeDepth := 60) [h]; done)
  | (try dsimp only); (repeat' (first | (simp +contextual (maxDischargeDepth := 60) [h]; done) | split))

@[simp] theorem execPgInputFall_kept {s₀ : State} (k : PgInput) (s : State) (h : Kept s₀ s) :
    KeptOut s₀ (execPgInputFall k s) := by
  unfold execPgInputFall
  first
  | (simp +contextual (maxDischargeDepth := 60) [h]; done)
  | (try dsimp only); (repeat' (first | (simp +contextual (maxDischargeDepth := 60) [h]; done) | split))

@[simp] theorem execTapReset_kept {s₀ : State} (s : State) (h : Kept s₀ s) :
    KeptOut s₀ (execTapReset s) := by
  unfold execTapReset
  first
  | (simp +contextual (maxDischargeDepth := 60) [h]; done)
  | (try dsimp only); (repeat' (first | (simp +contextual (maxDischargeDepth := 60) [h]; done) | split))

@[simp] theorem execGpioWrite_kept {s₀ : State} (v : Word) (s : State) (h : Kept s₀ s) :
    KeptOut s₀ (execGpioWrite v s) := by
  unfold execGpioWrite
  first
  | (simp +contextual (maxDischargeDepth := 60) [h]; done)
  | (try dsimp only); (repeat' (first | (simp +contextual (maxDischargeDepth := 60) [h]; done) | split))

@[simp] theorem linkFields_kept {s₀ : State} (l speed width : Nat) (flit up : Bool) (s : State) (h : Kept s₀ s) :
    Kept s₀ (linkFields l speed width flit up s) := by
  unfold linkFields
  first
  | (simp +contextual (maxDischargeDepth := 60) [h]; done)
  | (try dsimp only); (repeat' (first | (simp +contextual (maxDischargeDepth := 60) [h]; done) | split))

@[simp] theorem execPcieLinkDown_kept {s₀ : State} (l : PciLink) (s : State) (h : Kept s₀ s) :
    KeptOut s₀ (execPcieLinkDown l s) := by
  unfold execPcieLinkDown
  first
  | (simp +contextual (maxDischargeDepth := 60) [h]; done)
  | (try dsimp only); (repeat' (first | (simp +contextual (maxDischargeDepth := 60) [h]; done) | split))

@[simp] theorem execPcieLinkUp_kept {s₀ : State} (l : PciLink) (speed width : Nat) (flit : Bool) (s : State) (h :
    Kept s₀ s) :
    KeptOut s₀ (execPcieLinkUp l speed width flit s) := by
  unfold execPcieLinkUp
  first
  | (simp +contextual (maxDischargeDepth := 60) [h]; done)
  | (try dsimp only); (repeat' (first | (simp +contextual (maxDischargeDepth := 60) [h]; done) | split))

@[simp] theorem setPerst_kept {s₀ : State} (l : Nat) (low : Bool) (s : State) (h : Kept s₀ s) :
    Kept s₀ (setPerst l low s) := by
  unfold setPerst
  first
  | (simp +contextual (maxDischargeDepth := 60) [h]; done)
  | (try dsimp only); (repeat' (first | (simp +contextual (maxDischargeDepth := 60) [h]; done) | split))

@[simp] theorem execPerstAssert_kept {s₀ : State} (l : PciLink) (s : State) (h : Kept s₀ s) :
    KeptOut s₀ (execPerstAssert l s) := by
  unfold execPerstAssert
  first
  | (simp +contextual (maxDischargeDepth := 60) [h]; done)
  | (try dsimp only); (repeat' (first | (simp +contextual (maxDischargeDepth := 60) [h]; done) | split))

@[simp] theorem execPerstDeassert_kept {s₀ : State} (l : PciLink) (s : State) (h : Kept s₀ s) :
    KeptOut s₀ (execPerstDeassert l s) := by
  unfold execPerstDeassert
  first
  | (simp +contextual (maxDischargeDepth := 60) [h]; done)
  | (try dsimp only); (repeat' (first | (simp +contextual (maxDischargeDepth := 60) [h]; done) | split))

@[simp] theorem mbxResult_kept {s₀ : State} (r : Nat) (s : State) (h : Kept s₀ s) :
    Kept s₀ (mbxResult r s) := by
  unfold mbxResult
  first
  | (simp +contextual (maxDischargeDepth := 60) [h]; done)
  | (try dsimp only); (repeat' (first | (simp +contextual (maxDischargeDepth := 60) [h]; done) | split))

@[simp] theorem mbxFill_kept {s₀ : State} (bs : Bytes) (s : State) (h : Kept s₀ s) :
    Kept s₀ (mbxFill bs s) := by
  unfold mbxFill
  first
  | (simp +contextual (maxDischargeDepth := 60) [h]; done)
  | (try dsimp only); (repeat' (first | (simp +contextual (maxDischargeDepth := 60) [h]; done) | split))

@[simp] theorem execMbxClaim_kept {s₀ : State} (who : MbxUser) (s : State) (h : Kept s₀ s) :
    KeptOut s₀ (execMbxClaim who s) := by
  unfold execMbxClaim
  first
  | (simp +contextual (maxDischargeDepth := 60) [h]; done)
  | (try dsimp only); (repeat' (first | (simp +contextual (maxDischargeDepth := 60) [h]; done) | split))

@[simp] theorem execMbxRelease_kept {s₀ : State} (who : MbxUser) (s : State) (h : Kept s₀ s) :
    KeptOut s₀ (execMbxRelease who s) := by
  unfold execMbxRelease
  first
  | (simp +contextual (maxDischargeDepth := 60) [h]; done)
  | (try dsimp only); (repeat' (first | (simp +contextual (maxDischargeDepth := 60) [h]; done) | split))

@[simp] theorem execMbxOwnerTimeout_kept {s₀ : State} (s : State) (h : Kept s₀ s) :
    KeptOut s₀ (execMbxOwnerTimeout s) := by
  unfold execMbxOwnerTimeout
  first
  | (simp +contextual (maxDischargeDepth := 60) [h]; done)
  | (try dsimp only); (repeat' (first | (simp +contextual (maxDischargeDepth := 60) [h]; done) | split))

@[simp] theorem execMbxGo_kept {s₀ : State} (who : MbxUser) (v : Word) (msg : Bytes) (s : State) (h : Kept s₀ s) :
    KeptOut s₀ (execMbxGo who v msg s) := by
  unfold execMbxGo
  first
  | (simp +contextual (maxDischargeDepth := 60) [h]; done)
  | (try dsimp only); (repeat' (first | (simp +contextual (maxDischargeDepth := 60) [h]; done) | split))

@[simp] theorem execMbxResponse_kept {s₀ : State} (s : State) (h : Kept s₀ s) :
    KeptOut s₀ (execMbxResponse s) := by
  unfold execMbxResponse
  first
  | (simp +contextual (maxDischargeDepth := 60) [h]; done)
  | (try dsimp only); (repeat' (first | (simp +contextual (maxDischargeDepth := 60) [h]; done) | split))

@[simp] theorem execMbxTimeout_kept {s₀ : State} (s : State) (h : Kept s₀ s) :
    KeptOut s₀ (execMbxTimeout s) := by
  unfold execMbxTimeout
  first
  | (simp +contextual (maxDischargeDepth := 60) [h]; done)
  | (try dsimp only); (repeat' (first | (simp +contextual (maxDischargeDepth := 60) [h]; done) | split))

@[simp] theorem execPf0Flr_kept {s₀ : State} (s : State) (h : Kept s₀ s) :
    KeptOut s₀ (execPf0Flr s) := by
  unfold execPf0Flr
  first
  | (simp +contextual (maxDischargeDepth := 60) [h]; done)
  | (try dsimp only); (repeat' (first | (simp +contextual (maxDischargeDepth := 60) [h]; done) | split))

@[simp] theorem respond_kept {s₀ : State} (status : Nat) (body : Bytes) (s : State) (h : Kept s₀ s) :
    Kept s₀ (respond status body s) := by
  unfold respond
  first
  | (simp +contextual (maxDischargeDepth := 60) [h]; done)
  | (try dsimp only); (repeat' (first | (simp +contextual (maxDischargeDepth := 60) [h]; done) | split))

@[simp] theorem mbxRun_kept {s₀ : State} (code : Nat) (recovery : Bool) (f : State → Answer) (s : State)
    (h : Kept s₀ s) (hf : ∀ x, Kept s₀ x → Kept s₀ (f x).st) : Kept s₀ (mbxRun code recovery f s) := by
  have h1 := hf s h
  have h2 := hf (withHrt (fun h => { h with nonce := none }) s) (by simp +contextual (maxDischargeDepth := 60) [h])
  unfold mbxRun
  dsimp only
  repeat' split
  all_goals simp +contextual (maxDischargeDepth := 60) [h, h1, h2]

@[simp] theorem execGetInfo_kept {s₀ : State} (s : State) (h : Kept s₀ s) :
    KeptOut s₀ (execGetInfo s) := by
  unfold execGetInfo
  first
  | (simp +contextual (maxDischargeDepth := 60) [h]; done)
  | (refine (keptOut_next _ _).2 (mbxRun_kept _ _ _ _ h fun x hx => ?_); (try dsimp only); repeat' (first | (simp +contextual (maxDischargeDepth := 60) [h, hx]; done) | split)) | (split <;> first | (simp +contextual (maxDischargeDepth := 60) [h]; done) | (refine (keptOut_next _ _).2 (mbxRun_kept _ _ _ _ h fun x hx => ?_); (try dsimp only); repeat' (first | (simp +contextual (maxDischargeDepth := 60) [h, hx]; done) | split)))

@[simp] theorem execGetNonce_kept {s₀ : State} (s : State) (h : Kept s₀ s) :
    KeptOut s₀ (execGetNonce s) := by
  unfold execGetNonce
  first
  | (simp +contextual (maxDischargeDepth := 60) [h]; done)
  | (refine (keptOut_next _ _).2 (mbxRun_kept _ _ _ _ h fun x hx => ?_); (try dsimp only); repeat' (first | (simp +contextual (maxDischargeDepth := 60) [h, hx]; done) | split)) | (split <;> first | (simp +contextual (maxDischargeDepth := 60) [h]; done) | (refine (keptOut_next _ _).2 (mbxRun_kept _ _ _ _ h fun x hx => ?_); (try dsimp only); repeat' (first | (simp +contextual (maxDischargeDepth := 60) [h, hx]; done) | split)))

@[simp] theorem execNonceExpire_kept {s₀ : State} (s : State) (h : Kept s₀ s) :
    KeptOut s₀ (execNonceExpire s) := by
  unfold execNonceExpire
  first
  | (simp +contextual (maxDischargeDepth := 60) [h]; done)
  | (try dsimp only); (repeat' (first | (simp +contextual (maxDischargeDepth := 60) [h]; done) | split))

@[simp] theorem execUpdateBegin_kept {s₀ : State} (s : State) (h : Kept s₀ s) :
    KeptOut s₀ (execUpdateBegin s) := by
  unfold execUpdateBegin
  first
  | (simp +contextual (maxDischargeDepth := 60) [h]; done)
  | (refine (keptOut_next _ _).2 (mbxRun_kept _ _ _ _ h fun x hx => ?_); (try dsimp only); repeat' (first | (simp +contextual (maxDischargeDepth := 60) [h, hx]; done) | split)) | (split <;> first | (simp +contextual (maxDischargeDepth := 60) [h]; done) | (refine (keptOut_next _ _).2 (mbxRun_kept _ _ _ _ h fun x hx => ?_); (try dsimp only); repeat' (first | (simp +contextual (maxDischargeDepth := 60) [h, hx]; done) | split)))

@[simp] theorem execSectorEraseDone_kept {s₀ : State} (s : State) (h : Kept s₀ s) :
    KeptOut s₀ (execSectorEraseDone s) := by
  unfold execSectorEraseDone
  first
  | (simp +contextual (maxDischargeDepth := 60) [h]; done)
  | (try dsimp only); (repeat' (first | (simp +contextual (maxDischargeDepth := 60) [h]; done) | split))

@[simp] theorem execUpdateBlock_kept {s₀ : State} (s : State) (h : Kept s₀ s) :
    KeptOut s₀ (execUpdateBlock s) := by
  unfold execUpdateBlock
  refine (keptOut_next _ _).2 (mbxRun_kept _ _ _ _ h fun x hx => ?_)
  dsimp only
  split
  · exact hx
  · split_ifs
    · exact hx
    · exact hx
    · exact hx
    · exact hx
    · exact withHrt_kept _ _ hx

@[simp] theorem execUpdateStatus_kept {s₀ : State} (s : State) (h : Kept s₀ s) :
    KeptOut s₀ (execUpdateStatus s) := by
  unfold execUpdateStatus
  first
  | (simp +contextual (maxDischargeDepth := 60) [h]; done)
  | (refine (keptOut_next _ _).2 (mbxRun_kept _ _ _ _ h fun x hx => ?_); (try dsimp only); repeat' (first | (simp +contextual (maxDischargeDepth := 60) [h, hx]; done) | split)) | (split <;> first | (simp +contextual (maxDischargeDepth := 60) [h]; done) | (refine (keptOut_next _ _).2 (mbxRun_kept _ _ _ _ h fun x hx => ?_); (try dsimp only); repeat' (first | (simp +contextual (maxDischargeDepth := 60) [h, hx]; done) | split)))

@[simp] theorem execUpdateEnd_kept {s₀ : State} (s : State) (h : Kept s₀ s) :
    KeptOut s₀ (execUpdateEnd s) := by
  unfold execUpdateEnd
  first
  | (simp +contextual (maxDischargeDepth := 60) [h]; done)
  | (refine (keptOut_next _ _).2 (mbxRun_kept _ _ _ _ h fun x hx => ?_); (try dsimp only); repeat' (first | (simp +contextual (maxDischargeDepth := 60) [h, hx]; done) | split)) | (split <;> first | (simp +contextual (maxDischargeDepth := 60) [h]; done) | (refine (keptOut_next _ _).2 (mbxRun_kept _ _ _ _ h fun x hx => ?_); (try dsimp only); repeat' (first | (simp +contextual (maxDischargeDepth := 60) [h, hx]; done) | split)))

@[simp] theorem execUpdateAbort_kept {s₀ : State} (s : State) (h : Kept s₀ s) :
    KeptOut s₀ (execUpdateAbort s) := by
  unfold execUpdateAbort
  first
  | (simp +contextual (maxDischargeDepth := 60) [h]; done)
  | (refine (keptOut_next _ _).2 (mbxRun_kept _ _ _ _ h fun x hx => ?_); (try dsimp only); repeat' (first | (simp +contextual (maxDischargeDepth := 60) [h, hx]; done) | split)) | (split <;> first | (simp +contextual (maxDischargeDepth := 60) [h]; done) | (refine (keptOut_next _ _).2 (mbxRun_kept _ _ _ _ h fun x hx => ?_); (try dsimp only); repeat' (first | (simp +contextual (maxDischargeDepth := 60) [h, hx]; done) | split)))

@[simp] theorem execActivate_kept {s₀ : State} (s : State) (h : Kept s₀ s) :
    KeptOut s₀ (execActivate s) := by
  unfold execActivate
  first
  | (simp +contextual (maxDischargeDepth := 60) [h]; done)
  | (refine (keptOut_next _ _).2 (mbxRun_kept _ _ _ _ h fun x hx => ?_); (try dsimp only); repeat' (first | (simp +contextual (maxDischargeDepth := 60) [h, hx]; done) | split)) | (split <;> first | (simp +contextual (maxDischargeDepth := 60) [h]; done) | (refine (keptOut_next _ _).2 (mbxRun_kept _ _ _ _ h fun x hx => ?_); (try dsimp only); repeat' (first | (simp +contextual (maxDischargeDepth := 60) [h, hx]; done) | split)))

@[simp] theorem execCommit_kept {s₀ : State} (s : State) (h : Kept s₀ s) :
    KeptOut s₀ (execCommit s) := by
  unfold execCommit
  first
  | (simp +contextual (maxDischargeDepth := 60) [h]; done)
  | (refine (keptOut_next _ _).2 (mbxRun_kept _ _ _ _ h fun x hx => ?_); (try dsimp only); repeat' (first | (simp +contextual (maxDischargeDepth := 60) [h, hx]; done) | split)) | (split <;> first | (simp +contextual (maxDischargeDepth := 60) [h]; done) | (refine (keptOut_next _ _).2 (mbxRun_kept _ _ _ _ h fun x hx => ?_); (try dsimp only); repeat' (first | (simp +contextual (maxDischargeDepth := 60) [h, hx]; done) | split)))

@[simp] theorem execSettingsRead_kept {s₀ : State} (s : State) (h : Kept s₀ s) :
    KeptOut s₀ (execSettingsRead s) := by
  unfold execSettingsRead
  first
  | (simp +contextual (maxDischargeDepth := 60) [h]; done)
  | (refine (keptOut_next _ _).2 (mbxRun_kept _ _ _ _ h fun x hx => ?_); (try dsimp only); repeat' (first | (simp +contextual (maxDischargeDepth := 60) [h, hx]; done) | split)) | (split <;> first | (simp +contextual (maxDischargeDepth := 60) [h]; done) | (refine (keptOut_next _ _).2 (mbxRun_kept _ _ _ _ h fun x hx => ?_); (try dsimp only); repeat' (first | (simp +contextual (maxDischargeDepth := 60) [h, hx]; done) | split)))

@[simp] theorem execSettingsWrite_kept {s₀ : State} (s : State) (h : Kept s₀ s) :
    KeptOut s₀ (execSettingsWrite s) := by
  unfold execSettingsWrite
  first
  | (simp +contextual (maxDischargeDepth := 60) [h]; done)
  | (refine (keptOut_next _ _).2 (mbxRun_kept _ _ _ _ h fun x hx => ?_); (try dsimp only); repeat' (first | (simp +contextual (maxDischargeDepth := 60) [h, hx]; done) | split)) | (split <;> first | (simp +contextual (maxDischargeDepth := 60) [h]; done) | (refine (keptOut_next _ _).2 (mbxRun_kept _ _ _ _ h fun x hx => ?_); (try dsimp only); repeat' (first | (simp +contextual (maxDischargeDepth := 60) [h, hx]; done) | split)))

@[simp] theorem ownerShow_kept {s₀ : State} (s : State) (h : Kept s₀ s) :
    Kept s₀ (ownerShow s) := by
  unfold ownerShow
  first
  | (simp +contextual (maxDischargeDepth := 60) [h]; done)
  | (try dsimp only); (repeat' (first | (simp +contextual (maxDischargeDepth := 60) [h]; done) | split))

@[simp] theorem execOwnerAddKey_kept {s₀ : State} (s : State) (h : Kept s₀ s) :
    KeptOut s₀ (execOwnerAddKey s) := by
  unfold execOwnerAddKey
  first
  | (simp +contextual (maxDischargeDepth := 60) [h]; done)
  | (refine (keptOut_next _ _).2 (mbxRun_kept _ _ _ _ h fun x hx => ?_); (try dsimp only); repeat' (first | (simp +contextual (maxDischargeDepth := 60) [h, hx]; done) | split)) | (split <;> first | (simp +contextual (maxDischargeDepth := 60) [h]; done) | (refine (keptOut_next _ _).2 (mbxRun_kept _ _ _ _ h fun x hx => ?_); (try dsimp only); repeat' (first | (simp +contextual (maxDischargeDepth := 60) [h, hx]; done) | split)))

@[simp] theorem execOwnerRevokeKey_kept {s₀ : State} (s : State) (h : Kept s₀ s) :
    KeptOut s₀ (execOwnerRevokeKey s) := by
  unfold execOwnerRevokeKey
  first
  | (simp +contextual (maxDischargeDepth := 60) [h]; done)
  | (refine (keptOut_next _ _).2 (mbxRun_kept _ _ _ _ h fun x hx => ?_); (try dsimp only); repeat' (first | (simp +contextual (maxDischargeDepth := 60) [h, hx]; done) | split)) | (split <;> first | (simp +contextual (maxDischargeDepth := 60) [h]; done) | (refine (keptOut_next _ _).2 (mbxRun_kept _ _ _ _ h fun x hx => ?_); (try dsimp only); repeat' (first | (simp +contextual (maxDischargeDepth := 60) [h, hx]; done) | split)))

@[simp] theorem execOwnerLock_kept {s₀ : State} (s : State) (h : Kept s₀ s) :
    KeptOut s₀ (execOwnerLock s) := by
  unfold execOwnerLock
  first
  | (simp +contextual (maxDischargeDepth := 60) [h]; done)
  | (refine (keptOut_next _ _).2 (mbxRun_kept _ _ _ _ h fun x hx => ?_); (try dsimp only); repeat' (first | (simp +contextual (maxDischargeDepth := 60) [h, hx]; done) | split)) | (split <;> first | (simp +contextual (maxDischargeDepth := 60) [h]; done) | (refine (keptOut_next _ _).2 (mbxRun_kept _ _ _ _ h fun x hx => ?_); (try dsimp only); repeat' (first | (simp +contextual (maxDischargeDepth := 60) [h, hx]; done) | split)))

@[simp] theorem execOwnerSvn_kept {s₀ : State} (s : State) (h : Kept s₀ s) :
    KeptOut s₀ (execOwnerSvn s) := by
  unfold execOwnerSvn
  first
  | (simp +contextual (maxDischargeDepth := 60) [h]; done)
  | (refine (keptOut_next _ _).2 (mbxRun_kept _ _ _ _ h fun x hx => ?_); (try dsimp only); repeat' (first | (simp +contextual (maxDischargeDepth := 60) [h, hx]; done) | split)) | (split <;> first | (simp +contextual (maxDischargeDepth := 60) [h]; done) | (refine (keptOut_next _ _).2 (mbxRun_kept _ _ _ _ h fun x hx => ?_); (try dsimp only); repeat' (first | (simp +contextual (maxDischargeDepth := 60) [h, hx]; done) | split)))

@[simp] theorem execSecureCount_kept {s₀ : State} (s : State) (h : Kept s₀ s) :
    KeptOut s₀ (execSecureCount s) := by
  unfold execSecureCount
  first
  | (simp +contextual (maxDischargeDepth := 60) [h]; done)
  | (refine (keptOut_next _ _).2 (mbxRun_kept _ _ _ _ h fun x hx => ?_); (try dsimp only); repeat' (first | (simp +contextual (maxDischargeDepth := 60) [h, hx]; done) | split)) | (split <;> first | (simp +contextual (maxDischargeDepth := 60) [h]; done) | (refine (keptOut_next _ _).2 (mbxRun_kept _ _ _ _ h fun x hx => ?_); (try dsimp only); repeat' (first | (simp +contextual (maxDischargeDepth := 60) [h, hx]; done) | split)))

@[simp] theorem execCertInstall_kept {s₀ : State} (s : State) (h : Kept s₀ s) :
    KeptOut s₀ (execCertInstall s) := by
  unfold execCertInstall
  first
  | (simp +contextual (maxDischargeDepth := 60) [h]; done)
  | (refine (keptOut_next _ _).2 (mbxRun_kept _ _ _ _ h fun x hx => ?_); (try dsimp only); repeat' (first | (simp +contextual (maxDischargeDepth := 60) [h, hx]; done) | split)) | (split <;> first | (simp +contextual (maxDischargeDepth := 60) [h]; done) | (refine (keptOut_next _ _).2 (mbxRun_kept _ _ _ _ h fun x hx => ?_); (try dsimp only); repeat' (first | (simp +contextual (maxDischargeDepth := 60) [h, hx]; done) | split)))

@[simp] theorem execGetCsr_kept {s₀ : State} (s : State) (h : Kept s₀ s) :
    KeptOut s₀ (execGetCsr s) := by
  unfold execGetCsr
  first
  | (simp +contextual (maxDischargeDepth := 60) [h]; done)
  | (refine (keptOut_next _ _).2 (mbxRun_kept _ _ _ _ h fun x hx => ?_); (try dsimp only); repeat' (first | (simp +contextual (maxDischargeDepth := 60) [h, hx]; done) | split)) | (split <;> first | (simp +contextual (maxDischargeDepth := 60) [h]; done) | (refine (keptOut_next _ _).2 (mbxRun_kept _ _ _ _ h fun x hx => ?_); (try dsimp only); repeat' (first | (simp +contextual (maxDischargeDepth := 60) [h, hx]; done) | split)))

@[simp] theorem execReset_kept {s₀ : State} (s : State) (h : Kept s₀ s) :
    KeptOut s₀ (execReset s) := by
  unfold execReset
  first
  | (simp +contextual (maxDischargeDepth := 60) [h]; done)
  | (refine (keptOut_next _ _).2 (mbxRun_kept _ _ _ _ h fun x hx => ?_); (try dsimp only); repeat' (first | (simp +contextual (maxDischargeDepth := 60) [h, hx]; done) | split)) | (split <;> first | (simp +contextual (maxDischargeDepth := 60) [h]; done) | (refine (keptOut_next _ _).2 (mbxRun_kept _ _ _ _ h fun x hx => ?_); (try dsimp only); repeat' (first | (simp +contextual (maxDischargeDepth := 60) [h, hx]; done) | split)))

@[simp] theorem mbxCut_kept {s₀ : State} (s : State) (h : Kept s₀ s) :
    Kept s₀ (mbxCut s) := by
  unfold mbxCut
  first
  | (simp +contextual (maxDischargeDepth := 60) [h]; done)
  | (try dsimp only); (repeat' (first | (simp +contextual (maxDischargeDepth := 60) [h]; done) | split))

@[simp] theorem restartPatch_kept {s₀ : State} (n : Nat) (s : State) (h : Kept s₀ s) :
    Kept s₀ (restartPatch n s) := by
  unfold restartPatch
  first
  | (simp +contextual (maxDischargeDepth := 60) [h]; done)
  | (try dsimp only); (repeat' (first | (simp +contextual (maxDischargeDepth := 60) [h]; done) | split))

@[simp] theorem restartStart_kept {s₀ : State} (n : Nat) (s : State) (h : Kept s₀ s) :
    Kept s₀ (restartStart n s) := by
  unfold restartStart
  first
  | (simp +contextual (maxDischargeDepth := 60) [h]; done)
  | (try dsimp only); (repeat' (first | (simp +contextual (maxDischargeDepth := 60) [h]; done) | split))

@[simp] theorem restartNew_kept {s₀ : State} (n : Nat) (s : State) (h : Kept s₀ s) :
    Kept s₀ (restartNew n s) := by
  unfold restartNew
  first
  | (simp +contextual (maxDischargeDepth := 60) [h]; done)
  | (try dsimp only); (repeat' (first | (simp +contextual (maxDischargeDepth := 60) [h]; done) | split))

@[simp] theorem restartOld_kept {s₀ : State} (n : Nat) (s : State) (h : Kept s₀ s) :
    Kept s₀ (restartOld n s) := by
  unfold restartOld
  first
  | (simp +contextual (maxDischargeDepth := 60) [h]; done)
  | (try dsimp only); (repeat' (first | (simp +contextual (maxDischargeDepth := 60) [h]; done) | split))

@[simp] theorem restartEnd_kept {s₀ : State} (s : State) (h : Kept s₀ s) :
    Kept s₀ (restartEnd s) := by
  unfold restartEnd
  first
  | (simp +contextual (maxDischargeDepth := 60) [h]; done)
  | (try dsimp only); (repeat' (first | (simp +contextual (maxDischargeDepth := 60) [h]; done) | split))

@[simp] theorem execManagementRestart_kept {s₀ : State} (ph : RestartPhase) (s : State) (h : Kept s₀ s) :
    KeptOut s₀ (execManagementRestart ph s) := by
  unfold execManagementRestart
  first
  | (simp +contextual (maxDischargeDepth := 60) [h]; done)
  | (try dsimp only); (repeat' (first | (simp +contextual (maxDischargeDepth := 60) [h]; done) | split))

@[simp] theorem spdm_kept {s₀ : State} (req : Nat) (body : Bytes) (s : State) (h : Kept s₀ s) :
    Kept s₀ (spdm req body s) := by
  unfold spdm
  first
  | (simp +contextual (maxDischargeDepth := 60) [h]; done)
  | (try dsimp only); (repeat' (first | (simp +contextual (maxDischargeDepth := 60) [h]; done) | split))

@[simp] theorem nonceDrawn_kept {s₀ : State} (s : State) (h : Kept s₀ s) :
    Kept s₀ (nonceDrawn s) := by
  unfold nonceDrawn
  first
  | (simp +contextual (maxDischargeDepth := 60) [h]; done)
  | (try dsimp only); (repeat' (first | (simp +contextual (maxDischargeDepth := 60) [h]; done) | split))

@[simp] theorem execGetVersion_kept {s₀ : State} (s : State) (h : Kept s₀ s) :
    KeptOut s₀ (execGetVersion s) := by
  unfold execGetVersion
  first
  | (simp +contextual (maxDischargeDepth := 60) [h]; done)
  | (try dsimp only); (repeat' (first | (simp +contextual (maxDischargeDepth := 60) [h]; done) | split))

@[simp] theorem execGetCapabilities_kept {s₀ : State} (s : State) (h : Kept s₀ s) :
    KeptOut s₀ (execGetCapabilities s) := by
  unfold execGetCapabilities
  first
  | (simp +contextual (maxDischargeDepth := 60) [h]; done)
  | (try dsimp only); (repeat' (first | (simp +contextual (maxDischargeDepth := 60) [h]; done) | split))

@[simp] theorem execNegotiateAlgorithms_kept {s₀ : State} (s : State) (h : Kept s₀ s) :
    KeptOut s₀ (execNegotiateAlgorithms s) := by
  unfold execNegotiateAlgorithms
  first
  | (simp +contextual (maxDischargeDepth := 60) [h]; done)
  | (try dsimp only); (repeat' (first | (simp +contextual (maxDischargeDepth := 60) [h]; done) | split))

@[simp] theorem execGetDigests_kept {s₀ : State} (s : State) (h : Kept s₀ s) :
    KeptOut s₀ (execGetDigests s) := by
  unfold execGetDigests
  first
  | (simp +contextual (maxDischargeDepth := 60) [h]; done)
  | (try dsimp only); (repeat' (first | (simp +contextual (maxDischargeDepth := 60) [h]; done) | split))

@[simp] theorem execGetCertificate_kept {s₀ : State} (slot off len : Nat) (s : State) (h : Kept s₀ s) :
    KeptOut s₀ (execGetCertificate slot off len s) := by
  unfold execGetCertificate
  first
  | (simp +contextual (maxDischargeDepth := 60) [h]; done)
  | (try dsimp only); (repeat' (first | (simp +contextual (maxDischargeDepth := 60) [h]; done) | split))

@[simp] theorem execChallenge_kept {s₀ : State} (slot : Nat) (nonce : BitVec 256) (s : State) (h : Kept s₀ s) :
    KeptOut s₀ (execChallenge slot nonce s) := by
  unfold execChallenge
  first
  | (simp +contextual (maxDischargeDepth := 60) [h]; done)
  | (try dsimp only); (repeat' (first | (simp +contextual (maxDischargeDepth := 60) [h]; done) | split))

@[simp] theorem execGetMeasurements_kept {s₀ : State} (idx : Nat) (nonce : BitVec 256) (s : State) (h : Kept s₀ s) :
    KeptOut s₀ (execGetMeasurements idx nonce s) := by
  unfold execGetMeasurements
  first
  | (simp +contextual (maxDischargeDepth := 60) [h]; done)
  | (try dsimp only); (repeat' (first | (simp +contextual (maxDischargeDepth := 60) [h]; done) | split))

end Sys2Proof.Laws
end

