-- ==== Sys2Proof/Laws/KeptTables.lean ====
section
/-! SUPPORT. The same of the lookup tables, the sequencers, the TCAM, quench, the Gauge, the fabric, time actions and patterns. -/

set_option linter.all false

namespace Sys2Proof.Laws
open Sys2Proof Sys2Proof.Machine

@[simp] theorem withLkp_kept {s₀ : State} (f : Lkp → Lkp) (s : State) (h : Kept s₀ s) :
    Kept s₀ (withLkp f s) := by
  unfold withLkp
  first
  | (simp +contextual (maxDischargeDepth := 60) [h]; done)
  | (try dsimp only); (repeat' (first | (simp +contextual (maxDischargeDepth := 60) [h]; done) | split))

@[simp] theorem addPend_kept {s₀ : State} (n : Nat) (s : State) (h : Kept s₀ s) :
    Kept s₀ (addPend n s) := by
  unfold addPend
  first
  | (simp +contextual (maxDischargeDepth := 60) [h]; done)
  | (try dsimp only); (repeat' (first | (simp +contextual (maxDischargeDepth := 60) [h]; done) | split))

@[simp] theorem dropPend_kept {s₀ : State} (s : State) (h : Kept s₀ s) :
    Kept s₀ (dropPend s) := by
  unfold dropPend
  first
  | (simp +contextual (maxDischargeDepth := 60) [h]; done)
  | (try dsimp only); (repeat' (first | (simp +contextual (maxDischargeDepth := 60) [h]; done) | split))

@[simp] theorem moveEnt_kept {s₀ : State} (t k : Nat) (e : Ent) (l : Loc) (s : State) (h : Kept s₀ s) :
    Kept s₀ (moveEnt t k e l s) := by
  unfold moveEnt
  first
  | (simp +contextual (maxDischargeDepth := 60) [h]; done)
  | (try dsimp only); (repeat' (first | (simp +contextual (maxDischargeDepth := 60) [h]; done) | split))

theorem displace_kept {s₀ : State} (t k : Nat) (s : State) (h : Kept s₀ s) :
    ∀ x ∈ displace t k s, Kept s₀ x := by
  intro x hx
  unfold displace at hx
  split at hx
  · cases hx
  · simp only [Option.map_eq_some_iff, Option.mem_def] at hx
    obtain ⟨e, -, rfl⟩ := hx
    simp +contextual (maxDischargeDepth := 60) [h]

theorem displace_getD_kept {s₀ : State} (t k : Nat) (s : State) (h : Kept s₀ s) :
    Kept s₀ ((displace t k s).getD s) := by
  cases e : displace t k s with
  | none => exact h
  | some x => exact displace_kept t k s h x e

@[simp] theorem freshPlace_kept {s₀ : State} (t : Nat) (l : Loc) (s : State) (h : Kept s₀ s) :
    Kept s₀ (freshPlace t l s) := by
  unfold freshPlace
  first
  | (simp +contextual (maxDischargeDepth := 60) [h]; done)
  | (try dsimp only); (repeat' (first | (simp +contextual (maxDischargeDepth := 60) [h]; done) | split))

@[simp] theorem putEnt_kept {s₀ : State} (t k : Nat) (es : SMap Ent) (e : Ent) (s : State) (h : Kept s₀ s) :
    Kept s₀ (putEnt t k es e s) := by
  unfold putEnt
  first
  | (simp +contextual (maxDischargeDepth := 60) [h]; done)
  | (try dsimp only); (repeat' (first | (simp +contextual (maxDischargeDepth := 60) [h]; done) | split))

@[simp] theorem removeEnt_kept {s₀ : State} (t k : Nat) (s : State) (h : Kept s₀ s) :
    Kept s₀ (removeEnt t k s) := by
  unfold removeEnt
  first
  | (simp +contextual (maxDischargeDepth := 60) [h]; done)
  | (try dsimp only); (repeat' (first | (simp +contextual (maxDischargeDepth := 60) [h]; done) | split))

@[simp] theorem updEnt_kept {s₀ : State} (t k : Nat) (e : Ent) (s : State) (h : Kept s₀ s) :
    Kept s₀ (updEnt t k e s) := by
  unfold updEnt
  first
  | (simp +contextual (maxDischargeDepth := 60) [h]; done)
  | (try dsimp only); (repeat' (first | (simp +contextual (maxDischargeDepth := 60) [h]; done) | split))

@[simp] theorem insRefused_kept {s₀ : State} (t : Nat) (s : State) (h : Kept s₀ s) :
    Kept s₀ (insRefused t s) := by
  unfold insRefused
  first
  | (simp +contextual (maxDischargeDepth := 60) [h]; done)
  | (try dsimp only); (repeat' (first | (simp +contextual (maxDischargeDepth := 60) [h]; done) | split))

@[simp] theorem setLpm_kept {s₀ : State} (write : Bool) (k : Nat) (l : SMap (Vers Nat)) (s : State) (h : Kept s₀ s) :
    Kept s₀ (setLpm write k l s) := by
  unfold setLpm
  first
  | (simp +contextual (maxDischargeDepth := 60) [h]; done)
  | (try dsimp only); (repeat' (first | (simp +contextual (maxDischargeDepth := 60) [h]; done) | split))

@[simp] theorem mapLpm_kept {s₀ : State} (f : Vers Nat → Vers Nat) (s : State) (h : Kept s₀ s) :
    Kept s₀ (mapLpm f s) := by
  unfold mapLpm
  first
  | (simp +contextual (maxDischargeDepth := 60) [h]; done)
  | (try dsimp only); (repeat' (first | (simp +contextual (maxDischargeDepth := 60) [h]; done) | split))

@[simp] theorem loadData_kept {s₀ : State} (d : Nat) (s : State) (h : Kept s₀ s) :
    Kept s₀ (loadData d s) := by
  unfold loadData
  first
  | (simp +contextual (maxDischargeDepth := 60) [h]; done)
  | (try dsimp only); (repeat' (first | (simp +contextual (maxDischargeDepth := 60) [h]; done) | split))

@[simp] theorem pendMove_kept {s₀ : State} (a b : Bool) (s : State) (h : Kept s₀ s) :
    Kept s₀ (pendMove a b s) := by
  unfold pendMove
  first
  | (simp +contextual (maxDischargeDepth := 60) [h]; done)
  | (try dsimp only); (repeat' (first | (simp +contextual (maxDischargeDepth := 60) [h]; done) | split))

@[simp] theorem pfxCmd_kept {s₀ : State} (c : LkpCmd) (s : State) (h : Kept s₀ s) :
    Kept s₀ (pfxCmd c s).2 := by
  unfold pfxCmd
  first
  | (simp +contextual (maxDischargeDepth := 60) [h]; done)
  | (try dsimp only); (repeat' (first | (simp +contextual (maxDischargeDepth := 60) [h]; done) | split))

@[simp] theorem resCmd_kept {s₀ : State} (c : LkpCmd) (s : State) (h : Kept s₀ s) :
    Kept s₀ (resCmd c s).2 := by
  unfold resCmd
  first
  | (simp +contextual (maxDischargeDepth := 60) [h]; done)
  | (try dsimp only); (repeat' (first | (simp +contextual (maxDischargeDepth := 60) [h]; done) | split))

theorem storeEnt_kept {s₀ : State} (t k : Nat) (epoch : Bool) (d : EData) (hit : Bool) (age : Nat) (s : State)
    (h : Kept s₀ s) : ∀ x, storeEnt t k epoch d hit age s = some x → Kept s₀ x := by
  intro x e
  unfold storeEnt at e
  dsimp only at e
  split at e
  · split at e <;> cases e <;> simp +contextual (maxDischargeDepth := 60) [h]
  · split at e
    · cases e; simp +contextual (maxDischargeDepth := 60) [h]
    · cases e

@[simp] theorem freshEnt_kept {s₀ : State} (t k : Nat) (s : State) (h : Kept s₀ s) :
    Kept s₀ (freshEnt t k s) := by
  unfold freshEnt
  first
  | (simp +contextual (maxDischargeDepth := 60) [h]; done)
  | (try dsimp only); (repeat' (first | (simp +contextual (maxDischargeDepth := 60) [h]; done) | split))

@[simp] theorem entRead_kept {s₀ : State} (c : LkpCmd) (s : State) (h : Kept s₀ s) :
    Kept s₀ (entRead c s).2 := by
  unfold entRead
  first
  | (simp +contextual (maxDischargeDepth := 60) [h]; done)
  | (try dsimp only); (repeat' (first | (simp +contextual (maxDischargeDepth := 60) [h]; done) | split))

@[simp] theorem entWrite_kept {s₀ : State} (c : LkpCmd) (s : State) (h : Kept s₀ s) : Kept s₀ (entWrite c s).2 := by
  unfold entWrite
  dsimp only
  repeat' split
  case _ => exact h
  all_goals first | exact freshEnt_kept _ _ _ (storeEnt_kept _ _ _ _ _ _ s h _ ‹_›) | (simp +contextual (maxDischargeDepth := 60) [h]; done)

@[simp] theorem entDelete_kept {s₀ : State} (c : LkpCmd) (s : State) (h : Kept s₀ s) :
    Kept s₀ (entDelete c s).2 := by
  unfold entDelete
  first
  | (simp +contextual (maxDischargeDepth := 60) [h]; done)
  | (try dsimp only); (repeat' (first | (simp +contextual (maxDischargeDepth := 60) [h]; done) | split))

@[simp] theorem entMove_kept {s₀ : State} (c : LkpCmd) (s : State) (h : Kept s₀ s) : Kept s₀ (entMove c s).2 := by
  unfold entMove
  dsimp only
  generalize (if c.epoch = true then _ else _ : Nat) = n
  repeat' split
  all_goals first
    | (simp +contextual (maxDischargeDepth := 60) [h]; done)
    | (have := storeEnt_kept _ _ _ _ _ _ s h _ ‹_›; simp +contextual (maxDischargeDepth := 60) [this]; done)

@[simp] theorem entWithdraw_kept {s₀ : State} (c : LkpCmd) (s : State) (h : Kept s₀ s) :
    Kept s₀ (entWithdraw c s).2 := by
  unfold entWithdraw
  first
  | (simp +contextual (maxDischargeDepth := 60) [h]; done)
  | (try dsimp only); (repeat' (first | (simp +contextual (maxDischargeDepth := 60) [h]; done) | split))

@[simp] theorem lkpAct_kept {s₀ : State} (c : LkpCmd) (s : State) (h : Kept s₀ s) :
    Kept s₀ (lkpAct c s).2 := by
  unfold lkpAct
  first
  | (simp +contextual (maxDischargeDepth := 60) [h]; done)
  | (try dsimp only); (repeat' (first | (simp +contextual (maxDischargeDepth := 60) [h]; done) | split))

@[simp] theorem cmdWrote_kept {s₀ : State} (old : State) (c : LkpCmd) (s : State) (h : Kept s₀ s) :
    Kept s₀ (cmdWrote old c s) := by
  unfold cmdWrote
  split <;> simp +contextual (maxDischargeDepth := 60) [h]

@[simp] theorem lkpDo_kept {s₀ : State} (met : Option (Nat × Nat)) (c : LkpCmd) (s : State) (h : Kept s₀ s) :
    Kept s₀ (lkpDo met c s).2 := by
  unfold lkpDo
  first
  | (simp +contextual (maxDischargeDepth := 60) [h]; done)
  | (try dsimp only); (repeat' (first | (simp +contextual (maxDischargeDepth := 60) [h]; done) | split))

@[simp] theorem lkpDrop_kept {s₀ : State} (s : State) (h : Kept s₀ s) :
    Kept s₀ (lkpDrop s) := by
  unfold lkpDrop
  first
  | (simp +contextual (maxDischargeDepth := 60) [h]; done)
  | (try dsimp only); (repeat' (first | (simp +contextual (maxDischargeDepth := 60) [h]; done) | split))

@[simp] theorem jobStep_kept {s₀ : State} (j : PfxJob) (i : Nat) (s : State) (h : Kept s₀ s) :
    Kept s₀ (jobStep j i s) := by
  unfold jobStep
  first
  | (simp +contextual (maxDischargeDepth := 60) [h]; done)
  | (try dsimp only); (repeat' (first | (simp +contextual (maxDischargeDepth := 60) [h]; done) | split))

@[simp] theorem jobTick_kept {s₀ : State} (s : State) (h : Kept s₀ s) :
    Kept s₀ (jobTick s) := by
  unfold jobTick
  first
  | (simp +contextual (maxDischargeDepth := 60) [h]; done)
  | (try dsimp only); (repeat' (first | (simp +contextual (maxDischargeDepth := 60) [h]; done) | split))

@[simp] theorem lkpTake_kept {s₀ : State} (met : Option (Nat × Nat)) (c : LkpCmd) (s : State) (h : Kept s₀ s) :
    Kept s₀ (lkpTake met c s) := by
  unfold lkpTake
  first
  | (simp +contextual (maxDischargeDepth := 60) [h]; done)
  | (try dsimp only); (repeat' (first | (simp +contextual (maxDischargeDepth := 60) [h]; done) | split))

@[simp] theorem lkpStart_kept {s₀ : State} (op : Nat) (v : Word) (s : State) (h : Kept s₀ s) :
    Kept s₀ (lkpStart op v s) := by
  unfold lkpStart
  first
  | (simp +contextual (maxDischargeDepth := 60) [h]; done)
  | (try dsimp only); (repeat' (first | (simp +contextual (maxDischargeDepth := 60) [h]; done) | split))

@[simp] theorem execLkpRead_kept {s₀ : State} (v : Word) (s : State) (h : Kept s₀ s) :
    KeptOut s₀ (execLkpRead v s) := by
  unfold execLkpRead
  first
  | (simp +contextual (maxDischargeDepth := 60) [h]; done)
  | (try dsimp only); (repeat' (first | (simp +contextual (maxDischargeDepth := 60) [h]; done) | split))

@[simp] theorem execLkpWrite_kept {s₀ : State} (v : Word) (s : State) (h : Kept s₀ s) :
    KeptOut s₀ (execLkpWrite v s) := by
  unfold execLkpWrite
  first
  | (simp +contextual (maxDischargeDepth := 60) [h]; done)
  | (try dsimp only); (repeat' (first | (simp +contextual (maxDischargeDepth := 60) [h]; done) | split))

@[simp] theorem execLkpInsert_kept {s₀ : State} (v : Word) (s : State) (h : Kept s₀ s) :
    KeptOut s₀ (execLkpInsert v s) := by
  unfold execLkpInsert
  first
  | (simp +contextual (maxDischargeDepth := 60) [h]; done)
  | (try dsimp only); (repeat' (first | (simp +contextual (maxDischargeDepth := 60) [h]; done) | split))

@[simp] theorem execLkpDelete_kept {s₀ : State} (v : Word) (s : State) (h : Kept s₀ s) :
    KeptOut s₀ (execLkpDelete v s) := by
  unfold execLkpDelete
  first
  | (simp +contextual (maxDischargeDepth := 60) [h]; done)
  | (try dsimp only); (repeat' (first | (simp +contextual (maxDischargeDepth := 60) [h]; done) | split))

@[simp] theorem execLkpMove_kept {s₀ : State} (v : Word) (s : State) (h : Kept s₀ s) :
    KeptOut s₀ (execLkpMove v s) := by
  unfold execLkpMove
  first
  | (simp +contextual (maxDischargeDepth := 60) [h]; done)
  | (try dsimp only); (repeat' (first | (simp +contextual (maxDischargeDepth := 60) [h]; done) | split))

@[simp] theorem execLkpWithdraw_kept {s₀ : State} (v : Word) (s : State) (h : Kept s₀ s) :
    KeptOut s₀ (execLkpWithdraw v s) := by
  unfold execLkpWithdraw
  first
  | (simp +contextual (maxDischargeDepth := 60) [h]; done)
  | (try dsimp only); (repeat' (first | (simp +contextual (maxDischargeDepth := 60) [h]; done) | split))

@[simp] theorem lkpEnd_kept {s₀ : State} (res : Nat) (s : State) (h : Kept s₀ s) :
    Kept s₀ (lkpEnd res s) := by
  unfold lkpEnd
  first
  | (simp +contextual (maxDischargeDepth := 60) [h]; done)
  | (try dsimp only); (repeat' (first | (simp +contextual (maxDischargeDepth := 60) [h]; done) | split))

@[simp] theorem metLate_kept {s₀ : State} (c : LkpCmd) (ev : LookupEvent) (s : State) (h : Kept s₀ s) :
    Kept s₀ (metLate c ev s) := by
  unfold metLate
  first
  | (simp +contextual (maxDischargeDepth := 60) [h]; done)
  | (try dsimp only); (repeat' (first | (simp +contextual (maxDischargeDepth := 60) [h]; done) | split))

@[simp] theorem cmdCorrected_kept {s₀ : State} (c : LkpCmd) (ev : LookupEvent) (s : State) (h : Kept s₀ s) :
    Kept s₀ (cmdCorrected c ev s) := by
  unfold cmdCorrected
  first
  | (simp +contextual (maxDischargeDepth := 60) [h]; done)
  | (try dsimp only); (repeat' (first | (simp +contextual (maxDischargeDepth := 60) [h]; done) | split))

theorem cmdDisplace_getD_kept {s₀ : State} (c : LkpCmd) (s : State) (h : Kept s₀ s) :
    Kept s₀ ((cmdDisplace c s).getD s) := by
  unfold cmdDisplace
  split
  · exact displace_getD_kept _ _ s h
  · exact h

@[simp] theorem execLkpCommandDone_kept {s₀ : State} (ev : LookupEvent) (s : State) (h : Kept s₀ s) :
    KeptOut s₀ (execLkpCommandDone ev s) := by
  have := cmdDisplace_getD_kept (lkpCmd s) s h
  unfold execLkpCommandDone
  (try dsimp only); (repeat' (first | (simp +contextual (maxDischargeDepth := 60) [h, this]; done) | split))

@[simp] theorem lkpTick_kept {s₀ : State} (s : State) (h : Kept s₀ s) : Kept s₀ (lkpTick s) := by
  unfold lkpTick
  dsimp only
  refine withLkp_kept _ _ (kept_foldl _ _ (jobTick_kept _ (lkpDrop_kept _ h)) fun y a hy => ?_)
  split <;> simp +contextual (maxDischargeDepth := 60) [hy]

@[simp] theorem heldTake_kept {s₀ : State} (s : State) (h : Kept s₀ s) :
    Kept s₀ (heldTake s) := by
  unfold heldTake
  first
  | (simp +contextual (maxDischargeDepth := 60) [h]; done)
  | (try dsimp only); (repeat' (first | (simp +contextual (maxDischargeDepth := 60) [h]; done) | split))

@[simp] theorem execStashReturn_kept {s₀ : State} (t : EmTable) (s : State) (h : Kept s₀ s) :
    KeptOut s₀ (execStashReturn t s) := by
  unfold execStashReturn
  first
  | (simp +contextual (maxDischargeDepth := 60) [h]; done)
  | (try dsimp only); (repeat' (first | (simp +contextual (maxDischargeDepth := 60) [h]; done) | split))

@[simp] theorem execTrieArrayFree_kept {s₀ : State} (s : State) (h : Kept s₀ s) :
    KeptOut s₀ (execTrieArrayFree s) := by
  unfold execTrieArrayFree
  first
  | (simp +contextual (maxDischargeDepth := 60) [h]; done)
  | (try dsimp only); (repeat' (first | (simp +contextual (maxDischargeDepth := 60) [h]; done) | split))

@[simp] theorem tableEnable_kept {s₀ : State} (t : Nat) (memOk : Bool) (s : State) (h : Kept s₀ s) :
    Kept s₀ (tableEnable t memOk s) := by
  unfold tableEnable
  first
  | (simp +contextual (maxDischargeDepth := 60) [h]; done)
  | (try dsimp only); (repeat' (first | (simp +contextual (maxDischargeDepth := 60) [h]; done) | split))

@[simp] theorem enableWrite_kept {s₀ : State} (r : Reg) (i t : Nat) (memOk : Bool) (v : Word) (s : State) (h : Kept
    s₀ s) :
    Kept s₀ (enableWrite r i t memOk v s) := by
  unfold enableWrite
  first
  | (simp +contextual (maxDischargeDepth := 60) [h]; done)
  | (try dsimp only); (repeat' (first | (simp +contextual (maxDischargeDepth := 60) [h]; done) | split))

@[simp] theorem tableDisable_kept {s₀ : State} (r : Reg) (i t : Nat) (v : Word) (s : State) (h : Kept s₀ s) :
    Kept s₀ (tableDisable r i t v s) := by
  unfold tableDisable
  first
  | (simp +contextual (maxDischargeDepth := 60) [h]; done)
  | (try dsimp only); (repeat' (first | (simp +contextual (maxDischargeDepth := 60) [h]; done) | split))

@[simp] theorem execEmTableEnable_kept {s₀ : State} (t : EmTable) (v : Word) (s : State) (h : Kept s₀ s) :
    KeptOut s₀ (execEmTableEnable t v s) := by
  unfold execEmTableEnable
  first
  | (simp +contextual (maxDischargeDepth := 60) [h]; done)
  | (try dsimp only); (repeat' (first | (simp +contextual (maxDischargeDepth := 60) [h]; done) | split))

@[simp] theorem execEmTableDisable_kept {s₀ : State} (t : EmTable) (v : Word) (s : State) (h : Kept s₀ s) :
    KeptOut s₀ (execEmTableDisable t v s) := by
  unfold execEmTableDisable; simp +contextual (maxDischargeDepth := 60) [h]

@[simp] theorem execFlowTableEnable_kept {s₀ : State} (f : FlowTable) (v : Word) (s : State) (h : Kept s₀ s) :
    KeptOut s₀ (execFlowTableEnable f v s) := by
  unfold execFlowTableEnable
  first
  | (simp +contextual (maxDischargeDepth := 60) [h]; done)
  | (try dsimp only); (repeat' (first | (simp +contextual (maxDischargeDepth := 60) [h]; done) | split))

@[simp] theorem execFlowTableDisable_kept {s₀ : State} (f : FlowTable) (v : Word) (s : State) (h : Kept s₀ s) :
    KeptOut s₀ (execFlowTableDisable f v s) := by
  unfold execFlowTableDisable; simp +contextual (maxDischargeDepth := 60) [h]

@[simp] theorem wipeRegion_kept {s₀ : State} (a n : Nat) (s : State) (h : Kept s₀ s) :
    Kept s₀ (wipeRegion a n s) := by
  unfold wipeRegion
  first
  | (simp +contextual (maxDischargeDepth := 60) [h]; done)
  | (try dsimp only); (repeat' (first | (simp +contextual (maxDischargeDepth := 60) [h]; done) | split))

@[simp] theorem tableClearDone_kept {s₀ : State} (t : Nat) (memOk : Bool) (s : State) (h : Kept s₀ s) :
    Kept s₀ (tableClearDone t memOk s) := by
  unfold tableClearDone
  first
  | (simp +contextual (maxDischargeDepth := 60) [h]; done)
  | (try dsimp only); (repeat' (first | (simp +contextual (maxDischargeDepth := 60) [h]; done) | split))

@[simp] theorem execTableClearDone_kept {s₀ : State} (t : LearnTable) (s : State) (h : Kept s₀ s) :
    KeptOut s₀ (execTableClearDone t s) := by
  unfold execTableClearDone
  first
  | (simp +contextual (maxDischargeDepth := 60) [h]; done)
  | (try dsimp only); (repeat' (first | (simp +contextual (maxDischargeDepth := 60) [h]; done) | split))

@[simp] theorem notifyPut_kept {s₀ : State} (n : Notif) (s : State) (h : Kept s₀ s) :
    Kept s₀ (notifyPut n s) := by
  unfold notifyPut
  first
  | (simp +contextual (maxDischargeDepth := 60) [h]; done)
  | (try dsimp only); (repeat' (first | (simp +contextual (maxDischargeDepth := 60) [h]; done) | split))

@[simp] theorem notifyIf_kept {s₀ : State} (en : Bool) (type t k : Nat) (data : Word) (old : Nat) (s : State) (h :
    Kept s₀ s) :
    Kept s₀ (notifyIf en type t k data old s) := by
  unfold notifyIf
  first
  | (simp +contextual (maxDischargeDepth := 60) [h]; done)
  | (try dsimp only); (repeat' (first | (simp +contextual (maxDischargeDepth := 60) [h]; done) | split))

@[simp] theorem stationMove_kept {s₀ : State} (l : Learn) (e : Ent) (d new : EData) (s : State) (h : Kept s₀ s) :
    Kept s₀ (stationMove l e d new s) := by
  unfold stationMove
  first
  | (simp +contextual (maxDischargeDepth := 60) [h]; done)
  | (try dsimp only); (repeat' (first | (simp +contextual (maxDischargeDepth := 60) [h]; done) | split))

@[simp] theorem learnDo_kept {s₀ : State} (l : Learn) (perr : Option Nat) (s : State) (h : Kept s₀ s) :
    Kept s₀ (learnDo l perr s) := by
  unfold learnDo
  first
  | (simp +contextual (maxDischargeDepth := 60) [h]; done)
  | (try dsimp only); (repeat' (first | (simp +contextual (maxDischargeDepth := 60) [h]; done) | split))

@[simp] theorem execLearnApply_kept {s₀ : State} (perr : Option Nat) (s : State) (h : Kept s₀ s) :
    KeptOut s₀ (execLearnApply perr s) := by
  have := fun t k => displace_getD_kept t k s h
  unfold execLearnApply
  (try dsimp only); (repeat' (first | (simp +contextual (maxDischargeDepth := 60) [h, this]; done) | split))

@[simp] theorem execDampHoldEnd_kept {s₀ : State} (t : LearnTable) (key : BitVec 256) (s : State) (h : Kept s₀ s) :
    KeptOut s₀ (execDampHoldEnd t key s) := by
  unfold execDampHoldEnd
  first
  | (simp +contextual (maxDischargeDepth := 60) [h]; done)
  | (try dsimp only); (repeat' (first | (simp +contextual (maxDischargeDepth := 60) [h]; done) | split))

@[simp] theorem ageEnt_kept {s₀ : State} (t k : Nat) (s : State) (h : Kept s₀ s) :
    Kept s₀ (ageEnt t k s) := by
  unfold ageEnt
  first
  | (simp +contextual (maxDischargeDepth := 60) [h]; done)
  | (try dsimp only); (repeat' (first | (simp +contextual (maxDischargeDepth := 60) [h]; done) | split))

@[simp] theorem recountOvf_kept {s₀ : State} (t : Nat) (old : SMap Nat) (s : State) (h : Kept s₀ s) :
    Kept s₀ (recountOvf t old s) := by
  unfold recountOvf
  first
  | (simp +contextual (maxDischargeDepth := 60) [h]; done)
  | (try dsimp only); (repeat' (first | (simp +contextual (maxDischargeDepth := 60) [h]; done) | split))

@[simp] theorem ageSweep_kept {s₀ : State} (t : Nat) (s : State) (h : Kept s₀ s) :
    Kept s₀ (ageSweep t s) := by
  unfold ageSweep
  first
  | (simp +contextual (maxDischargeDepth := 60) [h]; done)
  | (try dsimp only); (repeat' (first | (simp +contextual (maxDischargeDepth := 60) [h]; done) | split))

@[simp] theorem execAgeingSweep_kept {s₀ : State} (t : Sweep) (s : State) (h : Kept s₀ s) :
    KeptOut s₀ (execAgeingSweep t s) := by
  unfold execAgeingSweep
  first
  | (simp +contextual (maxDischargeDepth := 60) [h]; done)
  | (try dsimp only); (repeat' (first | (simp +contextual (maxDischargeDepth := 60) [h]; done) | split))

@[simp] theorem execLkpNotifyRead_kept {s₀ : State} (s : State) (h : Kept s₀ s) :
    KeptOut s₀ (execLkpNotifyRead s) := by
  unfold execLkpNotifyRead
  first
  | (simp +contextual (maxDischargeDepth := 60) [h]; done)
  | (try dsimp only); (repeat' (first | (simp +contextual (maxDischargeDepth := 60) [h]; done) | split))

@[simp] theorem evictEnt_kept {s₀ : State} (k : Nat) (e : Ent) (s : State) (h : Kept s₀ s) :
    Kept s₀ (evictEnt k e s) := by
  unfold evictEnt
  first
  | (simp +contextual (maxDischargeDepth := 60) [h]; done)
  | (try dsimp only); (repeat' (first | (simp +contextual (maxDischargeDepth := 60) [h]; done) | split))

@[simp] theorem execEmBlockRetire_kept {s₀ : State} (b : EmBlock) (sw : Bool) (s : State) (h : Kept s₀ s) :
    KeptOut s₀ (execEmBlockRetire b sw s) := by
  unfold execEmBlockRetire
  first
  | (simp +contextual (maxDischargeDepth := 60) [h]; done)
  | (try dsimp only); (repeat' (first | (simp +contextual (maxDischargeDepth := 60) [h]; done) | split))

@[simp] theorem withTcam_kept {s₀ : State} (f : Tcam → Tcam) (s : State) (h : Kept s₀ s) :
    Kept s₀ (withTcam f s) := by
  unfold withTcam
  first
  | (simp +contextual (maxDischargeDepth := 60) [h]; done)
  | (try dsimp only); (repeat' (first | (simp +contextual (maxDischargeDepth := 60) [h]; done) | split))

@[simp] theorem setRow_kept {s₀ : State} (b r : Nat) (x : TRow) (s : State) (h : Kept s₀ s) :
    Kept s₀ (setRow b r x s) := by
  unfold setRow
  first
  | (simp +contextual (maxDischargeDepth := 60) [h]; done)
  | (try dsimp only); (repeat' (first | (simp +contextual (maxDischargeDepth := 60) [h]; done) | split))

@[simp] theorem setBankState_kept {s₀ : State} (b v : Nat) (s : State) (h : Kept s₀ s) :
    Kept s₀ (setBankState b v s) := by
  unfold setBankState
  first
  | (simp +contextual (maxDischargeDepth := 60) [h]; done)
  | (try dsimp only); (repeat' (first | (simp +contextual (maxDischargeDepth := 60) [h]; done) | split))

@[simp] theorem setRowIdx_kept {s₀ : State} (t i : Nat) (x : TRow) (s : State) (h : Kept s₀ s) :
    Kept s₀ (setRowIdx t i x s) := by
  unfold setRowIdx
  first
  | (simp +contextual (maxDischargeDepth := 60) [h]; done)
  | (try dsimp only); (repeat' (first | (simp +contextual (maxDischargeDepth := 60) [h]; done) | split))

@[simp] theorem load320_kept {s₀ : State} (r : Reg) (v : Nat) (s : State) (h : Kept s₀ s) :
    Kept s₀ (load320 r v s) := by
  unfold load320
  first
  | (simp +contextual (maxDischargeDepth := 60) [h]; done)
  | (try dsimp only); (repeat' (first | (simp +contextual (maxDischargeDepth := 60) [h]; done) | split))

@[simp] theorem tcamRead_kept {s₀ : State} (c : TcamCmd) (s : State) (h : Kept s₀ s) :
    Kept s₀ (tcamRead c s).2 := by
  unfold tcamRead
  first
  | (simp +contextual (maxDischargeDepth := 60) [h]; done)
  | (try dsimp only); (repeat' (first | (simp +contextual (maxDischargeDepth := 60) [h]; done) | split))

@[simp] theorem tcamWrite_kept {s₀ : State} (c : TcamCmd) (s : State) (h : Kept s₀ s) :
    Kept s₀ (tcamWrite c s).2 := by
  unfold tcamWrite
  first
  | (simp +contextual (maxDischargeDepth := 60) [h]; done)
  | (try dsimp only); (repeat' (first | (simp +contextual (maxDischargeDepth := 60) [h]; done) | split))

@[simp] theorem tcamDelete_kept {s₀ : State} (c : TcamCmd) (s : State) (h : Kept s₀ s) :
    Kept s₀ (tcamDelete c s).2 := by
  unfold tcamDelete
  first
  | (simp +contextual (maxDischargeDepth := 60) [h]; done)
  | (try dsimp only); (repeat' (first | (simp +contextual (maxDischargeDepth := 60) [h]; done) | split))

@[simp] theorem tcamWithdraw_kept {s₀ : State} (c : TcamCmd) (s : State) (h : Kept s₀ s) :
    Kept s₀ (tcamWithdraw c s).2 := by
  unfold tcamWithdraw
  first
  | (simp +contextual (maxDischargeDepth := 60) [h]; done)
  | (try dsimp only); (repeat' (first | (simp +contextual (maxDischargeDepth := 60) [h]; done) | split))

@[simp] theorem loadNidx_kept {s₀ : State} (i : Nat) (s : State) (h : Kept s₀ s) :
    Kept s₀ (loadNidx i s) := by
  unfold loadNidx
  first
  | (simp +contextual (maxDischargeDepth := 60) [h]; done)
  | (try dsimp only); (repeat' (first | (simp +contextual (maxDischargeDepth := 60) [h]; done) | split))

@[simp] theorem tcamFindHole_kept {s₀ : State} (c : TcamCmd) (s : State) (h : Kept s₀ s) :
    Kept s₀ (tcamFindHole c s).2 := by
  unfold tcamFindHole
  first
  | (simp +contextual (maxDischargeDepth := 60) [h]; done)
  | (try dsimp only); (repeat' (first | (simp +contextual (maxDischargeDepth := 60) [h]; done) | split))

@[simp] theorem tcamSearch_kept {s₀ : State} (c : TcamCmd) (ev : LookupEvent) (s : State) (h : Kept s₀ s) :
    Kept s₀ (tcamSearch c ev s).2 := by
  unfold tcamSearch
  first
  | (simp +contextual (maxDischargeDepth := 60) [h]; done)
  | (try dsimp only); (repeat' (first | (simp +contextual (maxDischargeDepth := 60) [h]; done) | split))

@[simp] theorem tcamDo_kept {s₀ : State} (c : TcamCmd) (ev : LookupEvent) (s : State) (h : Kept s₀ s) :
    Kept s₀ (tcamDo c ev s).2 := by
  unfold tcamDo
  first
  | (simp +contextual (maxDischargeDepth := 60) [h]; done)
  | (try dsimp only); (repeat' (first | (simp +contextual (maxDischargeDepth := 60) [h]; done) | split))

@[simp] theorem mapRows_kept {s₀ : State} (f : TRow → TRow) (s : State) (h : Kept s₀ s) :
    Kept s₀ (mapRows f s) := by
  unfold mapRows
  first
  | (simp +contextual (maxDischargeDepth := 60) [h]; done)
  | (try dsimp only); (repeat' (first | (simp +contextual (maxDischargeDepth := 60) [h]; done) | split))

@[simp] theorem tcamDrop_kept {s₀ : State} (s : State) (h : Kept s₀ s) :
    Kept s₀ (tcamDrop s) := by
  unfold tcamDrop
  first
  | (simp +contextual (maxDischargeDepth := 60) [h]; done)
  | (try dsimp only); (repeat' (first | (simp +contextual (maxDischargeDepth := 60) [h]; done) | split))

@[simp] theorem tcamTake_kept {s₀ : State} (c : TcamCmd) (s : State) (h : Kept s₀ s) :
    Kept s₀ (tcamTake c s) := by
  unfold tcamTake
  first
  | (simp +contextual (maxDischargeDepth := 60) [h]; done)
  | (try dsimp only); (repeat' (first | (simp +contextual (maxDischargeDepth := 60) [h]; done) | split))

@[simp] theorem tcamStart_kept {s₀ : State} (op : Nat) (v : Word) (s : State) (h : Kept s₀ s) :
    Kept s₀ (tcamStart op v s) := by
  unfold tcamStart
  first
  | (simp +contextual (maxDischargeDepth := 60) [h]; done)
  | (try dsimp only); (repeat' (first | (simp +contextual (maxDischargeDepth := 60) [h]; done) | split))

@[simp] theorem execTcamRead_kept {s₀ : State} (v : Word) (s : State) (h : Kept s₀ s) :
    KeptOut s₀ (execTcamRead v s) := by
  unfold execTcamRead
  first
  | (simp +contextual (maxDischargeDepth := 60) [h]; done)
  | (try dsimp only); (repeat' (first | (simp +contextual (maxDischargeDepth := 60) [h]; done) | split))

@[simp] theorem execTcamWrite_kept {s₀ : State} (v : Word) (s : State) (h : Kept s₀ s) :
    KeptOut s₀ (execTcamWrite v s) := by
  unfold execTcamWrite
  first
  | (simp +contextual (maxDischargeDepth := 60) [h]; done)
  | (try dsimp only); (repeat' (first | (simp +contextual (maxDischargeDepth := 60) [h]; done) | split))

@[simp] theorem execTcamDelete_kept {s₀ : State} (v : Word) (s : State) (h : Kept s₀ s) :
    KeptOut s₀ (execTcamDelete v s) := by
  unfold execTcamDelete
  first
  | (simp +contextual (maxDischargeDepth := 60) [h]; done)
  | (try dsimp only); (repeat' (first | (simp +contextual (maxDischargeDepth := 60) [h]; done) | split))

@[simp] theorem execTcamMove_kept {s₀ : State} (v : Word) (s : State) (h : Kept s₀ s) :
    KeptOut s₀ (execTcamMove v s) := by
  unfold execTcamMove
  first
  | (simp +contextual (maxDischargeDepth := 60) [h]; done)
  | (try dsimp only); (repeat' (first | (simp +contextual (maxDischargeDepth := 60) [h]; done) | split))

@[simp] theorem execTcamFindHole_kept {s₀ : State} (v : Word) (s : State) (h : Kept s₀ s) :
    KeptOut s₀ (execTcamFindHole v s) := by
  unfold execTcamFindHole
  first
  | (simp +contextual (maxDischargeDepth := 60) [h]; done)
  | (try dsimp only); (repeat' (first | (simp +contextual (maxDischargeDepth := 60) [h]; done) | split))

@[simp] theorem execTcamSearch_kept {s₀ : State} (v : Word) (s : State) (h : Kept s₀ s) :
    KeptOut s₀ (execTcamSearch v s) := by
  unfold execTcamSearch
  first
  | (simp +contextual (maxDischargeDepth := 60) [h]; done)
  | (try dsimp only); (repeat' (first | (simp +contextual (maxDischargeDepth := 60) [h]; done) | split))

@[simp] theorem execTcamWithdraw_kept {s₀ : State} (v : Word) (s : State) (h : Kept s₀ s) :
    KeptOut s₀ (execTcamWithdraw v s) := by
  unfold execTcamWithdraw
  first
  | (simp +contextual (maxDischargeDepth := 60) [h]; done)
  | (try dsimp only); (repeat' (first | (simp +contextual (maxDischargeDepth := 60) [h]; done) | split))

@[simp] theorem execTcamRespread_kept {s₀ : State} (v : Word) (s : State) (h : Kept s₀ s) :
    KeptOut s₀ (execTcamRespread v s) := by
  unfold execTcamRespread
  first
  | (simp +contextual (maxDischargeDepth := 60) [h]; done)
  | (try dsimp only); (repeat' (first | (simp +contextual (maxDischargeDepth := 60) [h]; done) | split))

@[simp] theorem tcamEnd_kept {s₀ : State} (res : Nat) (s : State) (h : Kept s₀ s) :
    Kept s₀ (tcamEnd res s) := by
  unfold tcamEnd
  first
  | (simp +contextual (maxDischargeDepth := 60) [h]; done)
  | (try dsimp only); (repeat' (first | (simp +contextual (maxDischargeDepth := 60) [h]; done) | split))

@[simp] theorem tcamFinish_kept {s₀ : State} (ev : LookupEvent) (s : State) (h : Kept s₀ s) :
    Kept s₀ (tcamFinish ev s) := by
  unfold tcamFinish
  first
  | (simp +contextual (maxDischargeDepth := 60) [h]; done)
  | (try dsimp only); (repeat' (first | (simp +contextual (maxDischargeDepth := 60) [h]; done) | split))

@[simp] theorem respreadEnd_kept {s₀ : State} (res : Nat) (s : State) (h : Kept s₀ s) :
    Kept s₀ (respreadEnd res s) := by
  unfold respreadEnd
  first
  | (simp +contextual (maxDischargeDepth := 60) [h]; done)
  | (try dsimp only); (repeat' (first | (simp +contextual (maxDischargeDepth := 60) [h]; done) | split))

@[simp] theorem tcamHeldTake_kept {s₀ : State} (s : State) (h : Kept s₀ s) :
    Kept s₀ (tcamHeldTake s) := by
  unfold tcamHeldTake
  first
  | (simp +contextual (maxDischargeDepth := 60) [h]; done)
  | (try dsimp only); (repeat' (first | (simp +contextual (maxDischargeDepth := 60) [h]; done) | split))

@[simp] theorem execTcamCommandDone_kept {s₀ : State} (ev : LookupEvent) (s : State) (h : Kept s₀ s) :
    KeptOut s₀ (execTcamCommandDone ev s) := by
  unfold execTcamCommandDone
  first
  | (simp +contextual (maxDischargeDepth := 60) [h]; done)
  | (try dsimp only); (repeat' (first | (simp +contextual (maxDischargeDepth := 60) [h]; done) | split))

@[simp] theorem respreadStep_kept {s₀ : State} (s : State) (h : Kept s₀ s) :
    Kept s₀ (respreadStep s) := by
  unfold respreadStep
  first
  | (simp +contextual (maxDischargeDepth := 60) [h]; done)
  | (try dsimp only); (repeat' (first | (simp +contextual (maxDischargeDepth := 60) [h]; done) | split))

@[simp] theorem tcamTick_kept {s₀ : State} (s : State) (h : Kept s₀ s) :
    Kept s₀ (tcamTick s) := by
  unfold tcamTick
  first
  | (simp +contextual (maxDischargeDepth := 60) [h]; done)
  | (try dsimp only); (repeat' (first | (simp +contextual (maxDischargeDepth := 60) [h]; done) | split))

@[simp] theorem tcamEnable_kept {s₀ : State} (t : Nat) (s : State) (h : Kept s₀ s) :
    Kept s₀ (tcamEnable t s) := by
  unfold tcamEnable
  first
  | (simp +contextual (maxDischargeDepth := 60) [h]; done)
  | (try dsimp only); (repeat' (first | (simp +contextual (maxDischargeDepth := 60) [h]; done) | split))

@[simp] theorem tcamCfgLive_kept {s₀ : State} (t : Nat) (v : Word) (s : State) (h : Kept s₀ s) :
    Kept s₀ (tcamCfgLive t v s) := by
  unfold tcamCfgLive
  first
  | (simp +contextual (maxDischargeDepth := 60) [h]; done)
  | (try dsimp only); (repeat' (first | (simp +contextual (maxDischargeDepth := 60) [h]; done) | split))

@[simp] theorem dropBankRows_kept {s₀ : State} (b : Nat) (s : State) (h : Kept s₀ s) :
    Kept s₀ (dropBankRows b s) := by
  unfold dropBankRows
  first
  | (simp +contextual (maxDischargeDepth := 60) [h]; done)
  | (try dsimp only); (repeat' (first | (simp +contextual (maxDischargeDepth := 60) [h]; done) | split))

@[simp] theorem lostSpares_kept {s₀ : State} (s : State) (h : Kept s₀ s) :
    Kept s₀ (lostSpares s) := by
  unfold lostSpares
  first
  | (simp +contextual (maxDischargeDepth := 60) [h]; done)
  | (try dsimp only); (repeat' (first | (simp +contextual (maxDischargeDepth := 60) [h]; done) | split))

@[simp] theorem execTcamTableEnable_kept {s₀ : State} (t : TcamTable) (v : Word) (s : State) (h : Kept s₀ s) :
    KeptOut s₀ (execTcamTableEnable t v s) := by
  unfold execTcamTableEnable
  first
  | (simp +contextual (maxDischargeDepth := 60) [h]; done)
  | (try dsimp only); (repeat' (first | (simp +contextual (maxDischargeDepth := 60) [h]; done) | split))

@[simp] theorem execTcamTableDisable_kept {s₀ : State} (t : TcamTable) (v : Word) (s : State) (h : Kept s₀ s) :
    KeptOut s₀ (execTcamTableDisable t v s) := by
  unfold execTcamTableDisable
  first
  | (simp +contextual (maxDischargeDepth := 60) [h]; done)
  | (try dsimp only); (repeat' (first | (simp +contextual (maxDischargeDepth := 60) [h]; done) | split))

@[simp] theorem freeBank_kept {s₀ : State} (b : Nat) (s : State) (h : Kept s₀ s) :
    Kept s₀ (freeBank b s) := by
  unfold freeBank
  first
  | (simp +contextual (maxDischargeDepth := 60) [h]; done)
  | (try dsimp only); (repeat' (first | (simp +contextual (maxDischargeDepth := 60) [h]; done) | split))

@[simp] theorem execTcamTableClearDone_kept {s₀ : State} (t : TcamTable) (s : State) (h : Kept s₀ s) :
    KeptOut s₀ (execTcamTableClearDone t s) := by
  unfold execTcamTableClearDone
  first
  | (simp +contextual (maxDischargeDepth := 60) [h]; done)
  | (try dsimp only); (repeat' (first | (simp +contextual (maxDischargeDepth := 60) [h]; done) | split))

@[simp] theorem execTcamScrubRead_kept {s₀ : State} (b : TcamBank) (row : TcamRow) (r : ScrubResult) (s : State) (h
    : Kept s₀ s) :
    KeptOut s₀ (execTcamScrubRead b row r s) := by
  unfold execTcamScrubRead
  first
  | (simp +contextual (maxDischargeDepth := 60) [h]; done)
  | (try dsimp only); (repeat' (first | (simp +contextual (maxDischargeDepth := 60) [h]; done) | split))

@[simp] theorem execTcamBankRetire_kept {s₀ : State} (b : TcamBank) (sw : Bool) (s : State) (h : Kept s₀ s) :
    KeptOut s₀ (execTcamBankRetire b sw s) := by
  unfold execTcamBankRetire
  first
  | (simp +contextual (maxDischargeDepth := 60) [h]; done)
  | (try dsimp only); (repeat' (first | (simp +contextual (maxDischargeDepth := 60) [h]; done) | split))

@[simp] theorem execTcamSpareExchange_kept {s₀ : State} (t : TcamTable) (s : State) (h : Kept s₀ s) :
    KeptOut s₀ (execTcamSpareExchange t s) := by
  unfold execTcamSpareExchange
  first
  | (simp +contextual (maxDischargeDepth := 60) [h]; done)
  | (try dsimp only); (repeat' (first | (simp +contextual (maxDischargeDepth := 60) [h]; done) | split))

@[simp] theorem withCsq_kept {s₀ : State} (f : Csq → Csq) (s : State) (h : Kept s₀ s) :
    Kept s₀ (withCsq f s) := by
  unfold withCsq
  first
  | (simp +contextual (maxDischargeDepth := 60) [h]; done)
  | (try dsimp only); (repeat' (first | (simp +contextual (maxDischargeDepth := 60) [h]; done) | split))

@[simp] theorem setSeq_kept {s₀ : State} (q : Nat) (x : SeqSt) (s : State) (h : Kept s₀ s) :
    Kept s₀ (setSeq q x s) := by
  unfold setSeq
  first
  | (simp +contextual (maxDischargeDepth := 60) [h]; done)
  | (try dsimp only); (repeat' (first | (simp +contextual (maxDischargeDepth := 60) [h]; done) | split))

@[simp] theorem unassign_kept {s₀ : State} (k : Nat) (s : State) (h : Kept s₀ s) :
    Kept s₀ (unassign k s) := by
  unfold unassign
  first
  | (simp +contextual (maxDischargeDepth := 60) [h]; done)
  | (try dsimp only); (repeat' (first | (simp +contextual (maxDischargeDepth := 60) [h]; done) | split))

@[simp] theorem svcEnd_kept {s₀ : State} (k result : Nat) (s : State) (h : Kept s₀ s) :
    Kept s₀ (svcEnd k result s) := by
  unfold svcEnd
  first
  | (simp +contextual (maxDischargeDepth := 60) [h]; done)
  | (try dsimp only); (repeat' (first | (simp +contextual (maxDischargeDepth := 60) [h]; done) | split))

@[simp] theorem seqFault_kept {s₀ : State} (q : Nat) (s : State) (h : Kept s₀ s) :
    Kept s₀ (seqFault q s) := by
  unfold seqFault
  first
  | (simp +contextual (maxDischargeDepth := 60) [h]; done)
  | (try dsimp only); (repeat' (first | (simp +contextual (maxDischargeDepth := 60) [h]; done) | split))

@[simp] theorem seqTrapSeen_kept {s₀ : State} (q code upc : Nat) (s : State) (h : Kept s₀ s) :
    Kept s₀ (seqTrapSeen q code upc s) := by
  unfold seqTrapSeen
  first
  | (simp +contextual (maxDischargeDepth := 60) [h]; done)
  | (try dsimp only); (repeat' (first | (simp +contextual (maxDischargeDepth := 60) [h]; done) | split))

@[simp] theorem seqTrap_kept {s₀ : State} (q code upc vector : Nat) (s : State) (h : Kept s₀ s) :
    Kept s₀ (seqTrap q code upc vector s) := by
  unfold seqTrap
  first
  | (simp +contextual (maxDischargeDepth := 60) [h]; done)
  | (try dsimp only); (repeat' (first | (simp +contextual (maxDischargeDepth := 60) [h]; done) | split))

@[simp] theorem portAsk_kept {s₀ : State} (old : List PortAcc) (new : SeqSt) (s : State) (h : Kept s₀ s) :
    Kept s₀ (portAsk old new s) := by
  unfold portAsk
  refine kept_foldl _ _ h fun y p hy => ?_
  split
  · exact kept_foldl _ _ hy fun z a hz => by simp +contextual (maxDischargeDepth := 60) [hz]
  · exact hy

@[simp] theorem micro_kept {s₀ : State} (q : Nat) (seqs : List Nat) (gate : SeqSt → Word → Bool)
    (next : Word → State → State) (s : State) (h : Kept s₀ s) (hn : ∀ w x, Kept s₀ x → Kept s₀ (next w x)) :
    Kept s₀ (micro q seqs gate next s) := by
  unfold micro
  extract_lets x w n port elastic x2 y y1 y2 d s1 s2
  have h1 : Kept s₀ s1 := by simp only [s1]; simp (maxDischargeDepth := 60) [h]
  have h2 : Kept s₀ s2 := by simp only [s2]; split <;> simp [h1]
  repeat' split
  all_goals first | exact h | exact hn _ _ h2 | simp (maxDischargeDepth := 60) [h]

@[simp] theorem setUpc_kept {s₀ : State} (q a : Nat) (s : State) (h : Kept s₀ s) :
    Kept s₀ (setUpc q a s) := by
  unfold setUpc
  first
  | (simp +contextual (maxDischargeDepth := 60) [h]; done)
  | (try dsimp only); (repeat' (first | (simp +contextual (maxDischargeDepth := 60) [h]; done) | split))

@[simp] theorem nextUpc_kept {s₀ : State} (q : Nat) (s : State) (h : Kept s₀ s) :
    Kept s₀ (nextUpc q s) := by
  unfold nextUpc
  first
  | (simp +contextual (maxDischargeDepth := 60) [h]; done)
  | (try dsimp only); (repeat' (first | (simp +contextual (maxDischargeDepth := 60) [h]; done) | split))

@[simp] theorem execMicrowordNext_kept {s₀ : State} (q : Seq) (s : State) (h : Kept s₀ s) :
    KeptOut s₀ (execMicrowordNext q s) := by
  unfold execMicrowordNext
  first
  | (simp +contextual (maxDischargeDepth := 60) [h]; done)
  | (refine (keptOut_next _ _).2 (micro_kept _ _ _ _ _ h fun w x hx => ?_); (try dsimp only); repeat' (first | (simp +contextual (maxDischargeDepth := 60) [h, hx]; done) | split)) | (split <;> first | (simp +contextual (maxDischargeDepth := 60) [h]; done) | (refine (keptOut_next _ _).2 (micro_kept _ _ _ _ _ h fun w x hx => ?_); (try dsimp only); repeat' (first | (simp +contextual (maxDischargeDepth := 60) [h, hx]; done) | split)))

@[simp] theorem execMicrowordJump_kept {s₀ : State} (q : Seq) (s : State) (h : Kept s₀ s) :
    KeptOut s₀ (execMicrowordJump q s) := by
  unfold execMicrowordJump
  first
  | (simp +contextual (maxDischargeDepth := 60) [h]; done)
  | (refine (keptOut_next _ _).2 (micro_kept _ _ _ _ _ h fun w x hx => ?_); (try dsimp only); repeat' (first | (simp +contextual (maxDischargeDepth := 60) [h, hx]; done) | split)) | (split <;> first | (simp +contextual (maxDischargeDepth := 60) [h]; done) | (refine (keptOut_next _ _).2 (micro_kept _ _ _ _ _ h fun w x hx => ?_); (try dsimp only); repeat' (first | (simp +contextual (maxDischargeDepth := 60) [h, hx]; done) | split)))

@[simp] theorem execMicrowordBranch_kept {s₀ : State} (q : Seq) (s : State) (h : Kept s₀ s) :
    KeptOut s₀ (execMicrowordBranch q s) := by
  unfold execMicrowordBranch
  first
  | (simp +contextual (maxDischargeDepth := 60) [h]; done)
  | (refine (keptOut_next _ _).2 (micro_kept _ _ _ _ _ h fun w x hx => ?_); (try dsimp only); repeat' (first | (simp +contextual (maxDischargeDepth := 60) [h, hx]; done) | split)) | (split <;> first | (simp +contextual (maxDischargeDepth := 60) [h]; done) | (refine (keptOut_next _ _).2 (micro_kept _ _ _ _ _ h fun w x hx => ?_); (try dsimp only); repeat' (first | (simp +contextual (maxDischargeDepth := 60) [h, hx]; done) | split)))

@[simp] theorem execMicrowordCall_kept {s₀ : State} (q : Seq) (s : State) (h : Kept s₀ s) :
    KeptOut s₀ (execMicrowordCall q s) := by
  unfold execMicrowordCall
  first
  | (simp +contextual (maxDischargeDepth := 60) [h]; done)
  | (refine (keptOut_next _ _).2 (micro_kept _ _ _ _ _ h fun w x hx => ?_); (try dsimp only); repeat' (first | (simp +contextual (maxDischargeDepth := 60) [h, hx]; done) | split)) | (split <;> first | (simp +contextual (maxDischargeDepth := 60) [h]; done) | (refine (keptOut_next _ _).2 (micro_kept _ _ _ _ _ h fun w x hx => ?_); (try dsimp only); repeat' (first | (simp +contextual (maxDischargeDepth := 60) [h, hx]; done) | split)))

@[simp] theorem execMicrowordReturn_kept {s₀ : State} (q : Seq) (s : State) (h : Kept s₀ s) :
    KeptOut s₀ (execMicrowordReturn q s) := by
  unfold execMicrowordReturn
  first
  | (simp +contextual (maxDischargeDepth := 60) [h]; done)
  | (refine (keptOut_next _ _).2 (micro_kept _ _ _ _ _ h fun w x hx => ?_); (try dsimp only); repeat' (first | (simp +contextual (maxDischargeDepth := 60) [h, hx]; done) | split)) | (split <;> first | (simp +contextual (maxDischargeDepth := 60) [h]; done) | (refine (keptOut_next _ _).2 (micro_kept _ _ _ _ _ h fun w x hx => ?_); (try dsimp only); repeat' (first | (simp +contextual (maxDischargeDepth := 60) [h, hx]; done) | split)))

@[simp] theorem execMicrowordDispatch_kept {s₀ : State} (q : Seq) (s : State) (h : Kept s₀ s) :
    KeptOut s₀ (execMicrowordDispatch q s) := by
  unfold execMicrowordDispatch
  first
  | (simp +contextual (maxDischargeDepth := 60) [h]; done)
  | (refine (keptOut_next _ _).2 (micro_kept _ _ _ _ _ h fun w x hx => ?_); (try dsimp only); repeat' (first | (simp +contextual (maxDischargeDepth := 60) [h, hx]; done) | split)) | (split <;> first | (simp +contextual (maxDischargeDepth := 60) [h]; done) | (refine (keptOut_next _ _).2 (micro_kept _ _ _ _ _ h fun w x hx => ?_); (try dsimp only); repeat' (first | (simp +contextual (maxDischargeDepth := 60) [h, hx]; done) | split)))

@[simp] theorem execMicrowordWait_kept {s₀ : State} (q : Seq) (s : State) (h : Kept s₀ s) :
    KeptOut s₀ (execMicrowordWait q s) := by
  unfold execMicrowordWait
  first
  | (simp +contextual (maxDischargeDepth := 60) [h]; done)
  | (refine (keptOut_next _ _).2 (micro_kept _ _ _ _ _ h fun w x hx => ?_); (try dsimp only); repeat' (first | (simp +contextual (maxDischargeDepth := 60) [h, hx]; done) | split)) | (split <;> first | (simp +contextual (maxDischargeDepth := 60) [h]; done) | (refine (keptOut_next _ _).2 (micro_kept _ _ _ _ _ h fun w x hx => ?_); (try dsimp only); repeat' (first | (simp +contextual (maxDischargeDepth := 60) [h, hx]; done) | split)))

@[simp] theorem execMicrowordYield_kept {s₀ : State} (q : Seq) (s : State) (h : Kept s₀ s) :
    KeptOut s₀ (execMicrowordYield q s) := by
  unfold execMicrowordYield
  first
  | (simp +contextual (maxDischargeDepth := 60) [h]; done)
  | (refine (keptOut_next _ _).2 (micro_kept _ _ _ _ _ h fun w x hx => ?_); (try dsimp only); repeat' (first | (simp +contextual (maxDischargeDepth := 60) [h, hx]; done) | split)) | (split <;> first | (simp +contextual (maxDischargeDepth := 60) [h]; done) | (refine (keptOut_next _ _).2 (micro_kept _ _ _ _ _ h fun w x hx => ?_); (try dsimp only); repeat' (first | (simp +contextual (maxDischargeDepth := 60) [h, hx]; done) | split)))

@[simp] theorem execMicrowordTrap_kept {s₀ : State} (q : Seq) (s : State) (h : Kept s₀ s) :
    KeptOut s₀ (execMicrowordTrap q s) := by
  unfold execMicrowordTrap
  first
  | (simp +contextual (maxDischargeDepth := 60) [h]; done)
  | (refine (keptOut_next _ _).2 (micro_kept _ _ _ _ _ h fun w x hx => ?_); (try dsimp only); repeat' (first | (simp +contextual (maxDischargeDepth := 60) [h, hx]; done) | split)) | (split <;> first | (simp +contextual (maxDischargeDepth := 60) [h]; done) | (refine (keptOut_next _ _).2 (micro_kept _ _ _ _ _ h fun w x hx => ?_); (try dsimp only); repeat' (first | (simp +contextual (maxDischargeDepth := 60) [h, hx]; done) | split)))

@[simp] theorem execMicrowordResume_kept {s₀ : State} (q : Seq) (s : State) (h : Kept s₀ s) :
    KeptOut s₀ (execMicrowordResume q s) := by
  unfold execMicrowordResume
  first
  | (simp +contextual (maxDischargeDepth := 60) [h]; done)
  | (refine (keptOut_next _ _).2 (micro_kept _ _ _ _ _ h fun w x hx => ?_); (try dsimp only); repeat' (first | (simp +contextual (maxDischargeDepth := 60) [h, hx]; done) | split)) | (split <;> first | (simp +contextual (maxDischargeDepth := 60) [h]; done) | (refine (keptOut_next _ _).2 (micro_kept _ _ _ _ _ h fun w x hx => ?_); (try dsimp only); repeat' (first | (simp +contextual (maxDischargeDepth := 60) [h, hx]; done) | split)))

@[simp] theorem seqNextReq_kept {s₀ : State} (q : Nat) (s : State) (h : Kept s₀ s) :
    Kept s₀ (seqNextReq q s) := by
  unfold seqNextReq
  first
  | (simp +contextual (maxDischargeDepth := 60) [h]; done)
  | (try dsimp only); (repeat' (first | (simp +contextual (maxDischargeDepth := 60) [h]; done) | split))

@[simp] theorem execMicrowordEnd_kept {s₀ : State} (q : Seq) (s : State) (h : Kept s₀ s) :
    KeptOut s₀ (execMicrowordEnd q s) := by
  unfold execMicrowordEnd
  first
  | (simp +contextual (maxDischargeDepth := 60) [h]; done)
  | (refine (keptOut_next _ _).2 (micro_kept _ _ _ _ _ h fun w x hx => ?_); (try dsimp only); repeat' (first | (simp +contextual (maxDischargeDepth := 60) [h, hx]; done) | split)) | (split <;> first | (simp +contextual (maxDischargeDepth := 60) [h]; done) | (refine (keptOut_next _ _).2 (micro_kept _ _ _ _ _ h fun w x hx => ?_); (try dsimp only); repeat' (first | (simp +contextual (maxDischargeDepth := 60) [h, hx]; done) | split)))

@[simp] theorem portMemory_kept {s₀ : State} (m : MemCtl) (p : PortAcc) (res : PortRes) (s : State) (h : Kept s₀ s) :
    Kept s₀ (portMemory m p res s).2.2 := by
  unfold portMemory
  first
  | (simp +contextual (maxDischargeDepth := 60) [h]; done)
  | (try dsimp only); (repeat' (first | (simp +contextual (maxDischargeDepth := 60) [h]; done) | split))

@[simp] theorem execPortAccessReturn_kept {s₀ : State} (q : Seq) (k : Nat) (data : Words) (res : PortRes) (s :
    State) (h : Kept s₀ s) :
    KeptOut s₀ (execPortAccessReturn q k data res s) := by
  unfold execPortAccessReturn
  first
  | (simp +contextual (maxDischargeDepth := 60) [h]; done)
  | (try dsimp only); (repeat' (first | (simp +contextual (maxDischargeDepth := 60) [h]; done) | split))

@[simp] theorem execStepWatchdog_kept {s₀ : State} (q : Seq) (s : State) (h : Kept s₀ s) :
    KeptOut s₀ (execStepWatchdog q s) := by
  unfold execStepWatchdog
  first
  | (simp +contextual (maxDischargeDepth := 60) [h]; done)
  | (try dsimp only); (repeat' (first | (simp +contextual (maxDischargeDepth := 60) [h]; done) | split))

@[simp] theorem jobRestart_kept {s₀ : State} (q : Nat) (s : State) (h : Kept s₀ s) :
    Kept s₀ (jobRestart q s) := by
  unfold jobRestart
  first
  | (simp +contextual (maxDischargeDepth := 60) [h]; done)
  | (try dsimp only); (repeat' (first | (simp +contextual (maxDischargeDepth := 60) [h]; done) | split))

@[simp] theorem execSequencerRestart_kept {s₀ : State} (q : Seq) (s : State) (h : Kept s₀ s) :
    KeptOut s₀ (execSequencerRestart q s) := by
  unfold execSequencerRestart
  first
  | (simp +contextual (maxDischargeDepth := 60) [h]; done)
  | (try dsimp only); (repeat' (first | (simp +contextual (maxDischargeDepth := 60) [h]; done) | split))

@[simp] theorem execPatchSwitch_kept {s₀ : State} (s : State) (h : Kept s₀ s) :
    KeptOut s₀ (execPatchSwitch s) := by
  unfold execPatchSwitch
  first
  | (simp +contextual (maxDischargeDepth := 60) [h]; done)
  | (try dsimp only); (repeat' (first | (simp +contextual (maxDischargeDepth := 60) [h]; done) | split))

@[simp] theorem seqsResume_kept {s₀ : State} (s : State) (h : Kept s₀ s) :
    Kept s₀ (seqsResume s) := by
  unfold seqsResume
  first
  | (simp +contextual (maxDischargeDepth := 60) [h]; done)
  | (try dsimp only); (repeat' (first | (simp +contextual (maxDischargeDepth := 60) [h]; done) | split))

@[simp] theorem csqTick_kept {s₀ : State} (s : State) (h : Kept s₀ s) :
    Kept s₀ (csqTick s) := by
  unfold csqTick
  first
  | (simp +contextual (maxDischargeDepth := 60) [h]; done)
  | (try dsimp only); (repeat' (first | (simp +contextual (maxDischargeDepth := 60) [h]; done) | split))

@[simp] theorem execQuiesceTimeout_kept {s₀ : State} (s : State) (h : Kept s₀ s) :
    KeptOut s₀ (execQuiesceTimeout s) := by
  unfold execQuiesceTimeout
  first
  | (simp +contextual (maxDischargeDepth := 60) [h]; done)
  | (try dsimp only); (repeat' (first | (simp +contextual (maxDischargeDepth := 60) [h]; done) | split))

@[simp] theorem assignReq_kept {s₀ : State} (k : Nat) (s : State) (h : Kept s₀ s) :
    Kept s₀ (assignReq k s) := by
  unfold assignReq
  first
  | (simp +contextual (maxDischargeDepth := 60) [h]; done)
  | (try dsimp only); (repeat' (first | (simp +contextual (maxDischargeDepth := 60) [h]; done) | split))

@[simp] theorem placeReq_kept {s₀ : State} (r : SvcReq) (s : State) (h : Kept s₀ s) :
    Kept s₀ (placeReq r s) := by
  unfold placeReq
  first
  | (simp +contextual (maxDischargeDepth := 60) [h]; done)
  | (try dsimp only); (repeat' (first | (simp +contextual (maxDischargeDepth := 60) [h]; done) | split))

@[simp] theorem admitReq_kept {s₀ : State} (r : SvcReq) (s : State) (h : Kept s₀ s) :
    Kept s₀ (admitReq r s) := by
  unfold admitReq
  first
  | (simp +contextual (maxDischargeDepth := 60) [h]; done)
  | (try dsimp only); (repeat' (first | (simp +contextual (maxDischargeDepth := 60) [h]; done) | split))

@[simp] theorem reqCtlFields_kept {s₀ : State} (k : Nat) (v : Word) (s : State) (h : Kept s₀ s) :
    Kept s₀ (reqCtlFields k v s) := by
  unfold reqCtlFields
  split <;> simp +contextual (maxDischargeDepth := 60) [h]

@[simp] theorem svcGo_kept {s₀ : State} (k svc : Nat) (v : Word) (s : State) (h : Kept s₀ s) :
    Kept s₀ (svcGo k svc v s) := by
  unfold svcGo
  first
  | (simp +contextual (maxDischargeDepth := 60) [h]; done)
  | (try dsimp only); (repeat' (first | (simp +contextual (maxDischargeDepth := 60) [h]; done) | split))

@[simp] theorem execFill_kept {s₀ : State} (k : SvcSlot) (v : Word) (s : State) (h : Kept s₀ s) :
    KeptOut s₀ (execFill k v s) := by
  unfold execFill
  first
  | (simp +contextual (maxDischargeDepth := 60) [h]; done)
  | (try dsimp only); (repeat' (first | (simp +contextual (maxDischargeDepth := 60) [h]; done) | split))

@[simp] theorem execCopy_kept {s₀ : State} (k : SvcSlot) (v : Word) (s : State) (h : Kept s₀ s) :
    KeptOut s₀ (execCopy k v s) := by
  unfold execCopy
  first
  | (simp +contextual (maxDischargeDepth := 60) [h]; done)
  | (try dsimp only); (repeat' (first | (simp +contextual (maxDischargeDepth := 60) [h]; done) | split))

@[simp] theorem execSweepNow_kept {s₀ : State} (k : SvcSlot) (v : Word) (s : State) (h : Kept s₀ s) :
    KeptOut s₀ (execSweepNow k v s) := by
  unfold execSweepNow
  first
  | (simp +contextual (maxDischargeDepth := 60) [h]; done)
  | (try dsimp only); (repeat' (first | (simp +contextual (maxDischargeDepth := 60) [h]; done) | split))

@[simp] theorem execTcamScrubPassNow_kept {s₀ : State} (k : SvcSlot) (v : Word) (s : State) (h : Kept s₀ s) :
    KeptOut s₀ (execTcamScrubPassNow k v s) := by
  unfold execTcamScrubPassNow
  first
  | (simp +contextual (maxDischargeDepth := 60) [h]; done)
  | (try dsimp only); (repeat' (first | (simp +contextual (maxDischargeDepth := 60) [h]; done) | split))

@[simp] theorem execTrieUnitCompaction_kept {s₀ : State} (k : SvcSlot) (v : Word) (s : State) (h : Kept s₀ s) :
    KeptOut s₀ (execTrieUnitCompaction k v s) := by
  unfold execTrieUnitCompaction
  first
  | (simp +contextual (maxDischargeDepth := 60) [h]; done)
  | (try dsimp only); (repeat' (first | (simp +contextual (maxDischargeDepth := 60) [h]; done) | split))

@[simp] theorem execScan_kept {s₀ : State} (k : SvcSlot) (v : Word) (s : State) (h : Kept s₀ s) :
    KeptOut s₀ (execScan k v s) := by
  unfold execScan
  first
  | (simp +contextual (maxDischargeDepth := 60) [h]; done)
  | (try dsimp only); (repeat' (first | (simp +contextual (maxDischargeDepth := 60) [h]; done) | split))

@[simp] theorem execServiceAbort_kept {s₀ : State} (k : SvcSlot) (v : Word) (s : State) (h : Kept s₀ s) :
    KeptOut s₀ (execServiceAbort k v s) := by
  unfold execServiceAbort
  first
  | (simp +contextual (maxDischargeDepth := 60) [h]; done)
  | (try dsimp only); (repeat' (first | (simp +contextual (maxDischargeDepth := 60) [h]; done) | split))

@[simp] theorem execHeldServiceStart_kept {s₀ : State} (k : SvcSlot) (s : State) (h : Kept s₀ s) :
    KeptOut s₀ (execHeldServiceStart k s) := by
  unfold execHeldServiceStart
  first
  | (simp +contextual (maxDischargeDepth := 60) [h]; done)
  | (try dsimp only); (repeat' (first | (simp +contextual (maxDischargeDepth := 60) [h]; done) | split))

@[simp] theorem svcRead_kept {s₀ : State} (m : MemCtl) (a : Nat) (ecc : EccResult) (s : State) (h : Kept s₀ s) :
    Kept s₀ (svcRead m a ecc s).2 := by
  unfold svcRead
  first
  | (simp +contextual (maxDischargeDepth := 60) [h]; done)
  | (try dsimp only); (repeat' (first | (simp +contextual (maxDischargeDepth := 60) [h]; done) | split))

@[simp] theorem svcWrite_kept {s₀ : State} (m : MemCtl) (a : Nat) (bs : Bytes) (s : State) (h : Kept s₀ s) :
    Kept s₀ (svcWrite m a bs s).2 := by
  unfold svcWrite
  first
  | (simp +contextual (maxDischargeDepth := 60) [h]; done)
  | (try dsimp only); (repeat' (first | (simp +contextual (maxDischargeDepth := 60) [h]; done) | split))

@[simp] theorem svcBlock_kept {s₀ : State} (r : SvcReq) (i : Nat) (ecc : EccResult) (s : State) (h : Kept s₀ s) :
    Kept s₀ (svcBlock r i ecc s).2 := by
  unfold svcBlock
  first
  | (simp +contextual (maxDischargeDepth := 60) [h]; done)
  | (try dsimp only); (repeat' (first | (simp +contextual (maxDischargeDepth := 60) [h]; done) | split))

@[simp] theorem svcMove_kept {s₀ : State} (r : SvcReq) (n : Nat) (bad corr : List Nat) (s : State) (h : Kept s₀ s) :
    Kept s₀ (svcMove r n bad corr s).2 := by
  unfold svcMove
  refine foldl_snd_kept _ _ _ h fun b q hb => ?_
  simp +contextual (maxDischargeDepth := 60) [hb]

@[simp] theorem svcAsk_kept {s₀ : State} (r : SvcReq) (n : Nat) (s : State) (h : Kept s₀ s) :
    Kept s₀ (svcAsk r n s) := by
  unfold svcAsk
  first
  | (simp +contextual (maxDischargeDepth := 60) [h]; done)
  | (try dsimp only); (repeat' (first | (simp +contextual (maxDischargeDepth := 60) [h]; done) | split))

@[simp] theorem abortTrap_kept {s₀ : State} (q k : Nat) (s : State) (h : Kept s₀ s) :
    Kept s₀ (abortTrap q k s) := by
  unfold abortTrap
  dsimp only
  split <;> simp +contextual (maxDischargeDepth := 60) [h]

@[simp] theorem scrubPass_kept {s₀ : State} (reads : SvcReads) (s : State) (h : Kept s₀ s) :
    Kept s₀ (scrubPass reads s) := by
  unfold scrubPass
  first
  | (simp +contextual (maxDischargeDepth := 60) [h]; done)
  | (try dsimp only); (repeat' (first | (simp +contextual (maxDischargeDepth := 60) [h]; done) | split))

@[simp] theorem compact_kept {s₀ : State} (r : Nat) (s : State) (h : Kept s₀ s) :
    Kept s₀ (compact r s) := by
  unfold compact
  first
  | (simp +contextual (maxDischargeDepth := 60) [h]; done)
  | (try dsimp only); (repeat' (first | (simp +contextual (maxDischargeDepth := 60) [h]; done) | split))

@[simp] theorem execServiceRequestEnd_kept {s₀ : State} (k : SvcSlot) (steps : Nat) (reads : SvcReads) (s : State)
    (h : Kept s₀ s) : KeptOut s₀ (execServiceRequestEnd k steps reads s) := by
  unfold execServiceRequestEnd
  dsimp only
  repeat' split
  all_goals simp +contextual (maxDischargeDepth := 60) [h]

@[simp] theorem mapVers_kept {s₀ : State} (f : {α : Type} → Vers α → Vers α) (g : TRow → TRow) (s : State) (h : Kept
    s₀ s) :
    Kept s₀ (mapVers f g s) := by
  unfold mapVers
  first
  | (simp +contextual (maxDischargeDepth := 60) [h]; done)
  | (try dsimp only); (repeat' (first | (simp +contextual (maxDischargeDepth := 60) [h]; done) | split))

@[simp] theorem epochOpen_kept {s₀ : State} (s : State) (h : Kept s₀ s) :
    Kept s₀ (epochOpen s) := by
  unfold epochOpen
  first
  | (simp +contextual (maxDischargeDepth := 60) [h]; done)
  | (try dsimp only); (repeat' (first | (simp +contextual (maxDischargeDepth := 60) [h]; done) | split))

@[simp] theorem epochAbandon_kept {s₀ : State} (s : State) (h : Kept s₀ s) :
    Kept s₀ (epochAbandon s) := by
  unfold epochAbandon
  first
  | (simp +contextual (maxDischargeDepth := 60) [h]; done)
  | (try dsimp only); (repeat' (first | (simp +contextual (maxDischargeDepth := 60) [h]; done) | split))

@[simp] theorem execAbandonedVersionReclaim_kept {s₀ : State} (n : Nat) (s : State) (h : Kept s₀ s) :
    KeptOut s₀ (execAbandonedVersionReclaim n s) := by
  unfold execAbandonedVersionReclaim
  first
  | (simp +contextual (maxDischargeDepth := 60) [h]; done)
  | (try dsimp only); (repeat' (first | (simp +contextual (maxDischargeDepth := 60) [h]; done) | split))

@[simp] theorem commitRefused_kept {s₀ : State} (code : Nat) (s : State) (h : Kept s₀ s) :
    Kept s₀ (commitRefused code s) := by
  unfold commitRefused
  first
  | (simp +contextual (maxDischargeDepth := 60) [h]; done)
  | (try dsimp only); (repeat' (first | (simp +contextual (maxDischargeDepth := 60) [h]; done) | split))

@[simp] theorem endStale_kept {s₀ : State} (k : Nat) (s : State) (h : Kept s₀ s) :
    Kept s₀ (endStale k s) := by
  unfold endStale
  first
  | (simp +contextual (maxDischargeDepth := 60) [h]; done)
  | (try dsimp only); (repeat' (first | (simp +contextual (maxDischargeDepth := 60) [h]; done) | split))

@[simp] theorem releaseHeld_kept {s₀ : State} (s : State) (h : Kept s₀ s) :
    Kept s₀ (releaseHeld s) := by
  unfold releaseHeld
  first
  | (simp +contextual (maxDischargeDepth := 60) [h]; done)
  | (try dsimp only); (repeat' (first | (simp +contextual (maxDischargeDepth := 60) [h]; done) | split))

@[simp] theorem retireEarly_kept {s₀ : State} (s : State) (h : Kept s₀ s) :
    Kept s₀ (retireEarly s) := by
  unfold retireEarly
  first
  | (simp +contextual (maxDischargeDepth := 60) [h]; done)
  | (try dsimp only); (repeat' (first | (simp +contextual (maxDischargeDepth := 60) [h]; done) | split))

@[simp] theorem commitSwap_kept {s₀ : State} (s : State) (c : Nat) (h : Kept s₀ s) :
    Kept s₀ (commitSwap s c) := by
  unfold commitSwap
  first
  | (simp +contextual (maxDischargeDepth := 60) [h]; done)
  | (try dsimp only); (repeat' (first | (simp +contextual (maxDischargeDepth := 60) [h]; done) | split))

@[simp] theorem jobCommit_kept {s₀ : State} (s : State) (h : Kept s₀ s) :
    Kept s₀ (jobCommit s) := by
  unfold jobCommit
  first
  | (simp +contextual (maxDischargeDepth := 60) [h]; done)
  | (try dsimp only); (repeat' (first | (simp +contextual (maxDischargeDepth := 60) [h]; done) | split))

@[simp] theorem commitApply_kept {s₀ : State} (s : State) (h : Kept s₀ s) :
    Kept s₀ (commitApply s) := by
  unfold commitApply
  first
  | (simp +contextual (maxDischargeDepth := 60) [h]; done)
  | (try dsimp only); (repeat' (first | (simp +contextual (maxDischargeDepth := 60) [h]; done) | split))

@[simp] theorem epochCommit_kept {s₀ : State} (s : State) (h : Kept s₀ s) :
    Kept s₀ (epochCommit s) := by
  unfold epochCommit
  first
  | (simp +contextual (maxDischargeDepth := 60) [h]; done)
  | (try dsimp only); (repeat' (first | (simp +contextual (maxDischargeDepth := 60) [h]; done) | split))

@[simp] theorem commitAsk_kept {s₀ : State} (s : State) (h : Kept s₀ s) :
    Kept s₀ (commitAsk s) := by
  unfold commitAsk
  first
  | (simp +contextual (maxDischargeDepth := 60) [h]; done)
  | (try dsimp only); (repeat' (first | (simp +contextual (maxDischargeDepth := 60) [h]; done) | split))

@[simp] theorem commitEnd_kept {s₀ : State} (s : State) (h : Kept s₀ s) :
    Kept s₀ (commitEnd s) := by
  unfold commitEnd
  first
  | (simp +contextual (maxDischargeDepth := 60) [h]; done)
  | (try dsimp only); (repeat' (first | (simp +contextual (maxDischargeDepth := 60) [h]; done) | split))

@[simp] theorem quenchWrite_kept {s₀ : State} (v : Word) (s : State) (h : Kept s₀ s) :
    Kept s₀ (quenchWrite v s) := by
  unfold quenchWrite
  first
  | (simp +contextual (maxDischargeDepth := 60) [h]; done)
  | (try dsimp only); (repeat' (first | (simp +contextual (maxDischargeDepth := 60) [h]; done) | split))

@[simp] theorem execQuenchOpen_kept {s₀ : State} (s : State) (h : Kept s₀ s) :
    KeptOut s₀ (execQuenchOpen s) := by
  unfold execQuenchOpen
  first
  | (simp +contextual (maxDischargeDepth := 60) [h]; done)
  | (try dsimp only); (repeat' (first | (simp +contextual (maxDischargeDepth := 60) [h]; done) | split))

@[simp] theorem execQuenchAbandon_kept {s₀ : State} (s : State) (h : Kept s₀ s) :
    KeptOut s₀ (execQuenchAbandon s) := by
  unfold execQuenchAbandon
  first
  | (simp +contextual (maxDischargeDepth := 60) [h]; done)
  | (try dsimp only); (repeat' (first | (simp +contextual (maxDischargeDepth := 60) [h]; done) | split))

@[simp] theorem execQuenchCommit_kept {s₀ : State} (s : State) (h : Kept s₀ s) :
    KeptOut s₀ (execQuenchCommit s) := by
  unfold execQuenchCommit
  first
  | (simp +contextual (maxDischargeDepth := 60) [h]; done)
  | (try dsimp only); (repeat' (first | (simp +contextual (maxDischargeDepth := 60) [h]; done) | split))

@[simp] theorem execDrainTimerExpire_kept {s₀ : State} (s : State) (h : Kept s₀ s) :
    KeptOut s₀ (execDrainTimerExpire s) := by
  unfold execDrainTimerExpire
  first
  | (simp +contextual (maxDischargeDepth := 60) [h]; done)
  | (try dsimp only); (repeat' (first | (simp +contextual (maxDischargeDepth := 60) [h]; done) | split))

@[simp] theorem execPreviousEpochFreed_kept {s₀ : State} (s : State) (h : Kept s₀ s) :
    KeptOut s₀ (execPreviousEpochFreed s) := by
  unfold execPreviousEpochFreed
  first
  | (simp +contextual (maxDischargeDepth := 60) [h]; done)
  | (try dsimp only); (repeat' (first | (simp +contextual (maxDischargeDepth := 60) [h]; done) | split))

@[simp] theorem withGau_kept {s₀ : State} (f : Gau → Gau) (s : State) (h : Kept s₀ s) :
    Kept s₀ (withGau f s) := by
  unfold withGau
  first
  | (simp +contextual (maxDischargeDepth := 60) [h]; done)
  | (try dsimp only); (repeat' (first | (simp +contextual (maxDischargeDepth := 60) [h]; done) | split))

@[simp] theorem takeSample_kept {s₀ : State} (s0 : State) (n b code left : Nat) (q : Option Nat) (s : State) (h :
    Kept s₀ s) :
    Kept s₀ (takeSample s0 n b code left q s) := by
  unfold takeSample
  first
  | (simp +contextual (maxDischargeDepth := 60) [h]; done)
  | (try dsimp only); (repeat' (first | (simp +contextual (maxDischargeDepth := 60) [h]; done) | split))

@[simp] theorem sampleDrop_kept {s₀ : State} (s : State) (h : Kept s₀ s) :
    Kept s₀ (sampleDrop s) := by
  unfold sampleDrop
  first
  | (simp +contextual (maxDischargeDepth := 60) [h]; done)
  | (try dsimp only); (repeat' (first | (simp +contextual (maxDischargeDepth := 60) [h]; done) | split))

@[simp] theorem ctrAdd_kept {s₀ : State} (s0 : State) (n v : Nat) (s : State) (h : Kept s₀ s) :
    Kept s₀ (ctrAdd s0 n v s) := by
  unfold ctrAdd
  first
  | (simp +contextual (maxDischargeDepth := 60) [h]; done)
  | (try dsimp only); (repeat' (first | (simp +contextual (maxDischargeDepth := 60) [h]; done) | split))

@[simp] theorem slotAdd_kept {s₀ : State} (c k v : Nat) (s : State) (h : Kept s₀ s) :
    Kept s₀ (slotAdd c k v s) := by
  unfold slotAdd
  first
  | (simp +contextual (maxDischargeDepth := 60) [h]; done)
  | (try dsimp only); (repeat' (first | (simp +contextual (maxDischargeDepth := 60) [h]; done) | split))

@[simp] theorem ctrTick_kept {s₀ : State} (s0 t : State) (n : Nat) (h : Kept s₀ t) : Kept s₀ (ctrTick s0 t n) := by
  unfold ctrTick
  first
  | (simp +contextual (maxDischargeDepth := 60) [h]; done)
  | (try dsimp only); (repeat' (first | (simp +contextual (maxDischargeDepth := 60) [h]; done) | split))

@[simp] theorem gauTick_kept {s₀ : State} (s : State) (h : Kept s₀ s) :
    Kept s₀ (gauTick s) := by
  unfold gauTick
  first
  | (simp +contextual (maxDischargeDepth := 60) [h]; done)
  | (try dsimp only); (repeat' (first | (simp +contextual (maxDischargeDepth := 60) [h]; done) | split))

@[simp] theorem sampleDetect_kept {s₀ : State} (s : State) (h : Kept s₀ s) :
    Kept s₀ (sampleDetect s) := by
  unfold sampleDetect
  first
  | (simp +contextual (maxDischargeDepth := 60) [h]; done)
  | (try dsimp only); (repeat' (first | (simp +contextual (maxDischargeDepth := 60) [h]; done) | split))

@[simp] theorem execSampleDetect_kept {s₀ : State} (s : State) (h : Kept s₀ s) :
    KeptOut s₀ (execSampleDetect s) := by
  unfold execSampleDetect
  first
  | (simp +contextual (maxDischargeDepth := 60) [h]; done)
  | (try dsimp only); (repeat' (first | (simp +contextual (maxDischargeDepth := 60) [h]; done) | split))

@[simp] theorem snapDue_kept {s₀ : State} (mask : Nat) (s : State) (h : Kept s₀ s) :
    Kept s₀ (snapDue mask s) := by
  unfold snapDue
  first
  | (simp +contextual (maxDischargeDepth := 60) [h]; done)
  | (try dsimp only); (repeat' (first | (simp +contextual (maxDischargeDepth := 60) [h]; done) | split))

@[simp] theorem execGauSnapNow_kept {s₀ : State} (v : Word) (s : State) (h : Kept s₀ s) :
    KeptOut s₀ (execGauSnapNow v s) := by
  unfold execGauSnapNow
  first
  | (simp +contextual (maxDischargeDepth := 60) [h]; done)
  | (try dsimp only); (repeat' (first | (simp +contextual (maxDischargeDepth := 60) [h]; done) | split))

@[simp] theorem snapSet_kept {s₀ : State} (n : Nat) (s : State) (h : Kept s₀ s) :
    Kept s₀ (snapSet n s) := by
  unfold snapSet
  first
  | (simp +contextual (maxDischargeDepth := 60) [h]; done)
  | (try dsimp only); (repeat' (first | (simp +contextual (maxDischargeDepth := 60) [h]; done) | split))

@[simp] theorem snapClear_kept {s₀ : State} (mask : Nat) (s : State) (h : Kept s₀ s) :
    Kept s₀ (snapClear mask s) := by
  unfold snapClear
  first
  | (simp +contextual (maxDischargeDepth := 60) [h]; done)
  | (try dsimp only); (repeat' (first | (simp +contextual (maxDischargeDepth := 60) [h]; done) | split))

@[simp] theorem slotClear_kept {s₀ : State} (s : State) (h : Kept s₀ s) :
    Kept s₀ (slotClear s) := by
  unfold slotClear
  first
  | (simp +contextual (maxDischargeDepth := 60) [h]; done)
  | (try dsimp only); (repeat' (first | (simp +contextual (maxDischargeDepth := 60) [h]; done) | split))

@[simp] theorem snapshot_kept {s₀ : State} (s : State) (h : Kept s₀ s) :
    Kept s₀ (snapshot s) := by
  unfold snapshot
  first
  | (simp +contextual (maxDischargeDepth := 60) [h]; done)
  | (try dsimp only); (repeat' (first | (simp +contextual (maxDischargeDepth := 60) [h]; done) | split))

@[simp] theorem execGaugeSnapshot_kept {s₀ : State} (s : State) (h : Kept s₀ s) :
    KeptOut s₀ (execGaugeSnapshot s) := by
  unfold execGaugeSnapshot
  first
  | (simp +contextual (maxDischargeDepth := 60) [h]; done)
  | (try dsimp only); (repeat' (first | (simp +contextual (maxDischargeDepth := 60) [h]; done) | split))

@[simp] theorem execSnapshotCollected_kept {s₀ : State} (n : GauSet) (s : State) (h : Kept s₀ s) :
    KeptOut s₀ (execSnapshotCollected n s) := by
  unfold execSnapshotCollected
  first
  | (simp +contextual (maxDischargeDepth := 60) [h]; done)
  | (try dsimp only); (repeat' (first | (simp +contextual (maxDischargeDepth := 60) [h]; done) | split))

@[simp] theorem execSlotCounterClear_kept {s₀ : State} (s : State) (h : Kept s₀ s) :
    KeptOut s₀ (execSlotCounterClear s) := by
  unfold execSlotCounterClear
  first
  | (simp +contextual (maxDischargeDepth := 60) [h]; done)
  | (try dsimp only); (repeat' (first | (simp +contextual (maxDischargeDepth := 60) [h]; done) | split))

@[simp] theorem gauEnd_kept {s₀ : State} (s : State) (h : Kept s₀ s) :
    Kept s₀ (gauEnd s) := by
  unfold gauEnd
  first
  | (simp +contextual (maxDischargeDepth := 60) [h]; done)
  | (try dsimp only); (repeat' (first | (simp +contextual (maxDischargeDepth := 60) [h]; done) | split))

@[simp] theorem execGauSampleRead_kept {s₀ : State} (s : State) (h : Kept s₀ s) :
    KeptOut s₀ (execGauSampleRead s) := by
  unfold execGauSampleRead
  first
  | (simp +contextual (maxDischargeDepth := 60) [h]; done)
  | (try dsimp only); (repeat' (first | (simp +contextual (maxDischargeDepth := 60) [h]; done) | split))

@[simp] theorem withFab_kept {s₀ : State} (f : Fab → Fab) (s : State) (h : Kept s₀ s) :
    Kept s₀ (withFab f s) := by
  unfold withFab
  first
  | (simp +contextual (maxDischargeDepth := 60) [h]; done)
  | (try dsimp only); (repeat' (first | (simp +contextual (maxDischargeDepth := 60) [h]; done) | split))

@[simp] theorem setFabLink_kept {s₀ : State} (k : Nat) (x : FabLink) (s : State) (h : Kept s₀ s) :
    Kept s₀ (setFabLink k x s) := by
  unfold setFabLink
  first
  | (simp +contextual (maxDischargeDepth := 60) [h]; done)
  | (try dsimp only); (repeat' (first | (simp +contextual (maxDischargeDepth := 60) [h]; done) | split))

@[simp] theorem fabState_kept {s₀ : State} (s : State) (h : Kept s₀ s) :
    Kept s₀ (fabState s) := by
  unfold fabState
  first
  | (simp +contextual (maxDischargeDepth := 60) [h]; done)
  | (try dsimp only); (repeat' (first | (simp +contextual (maxDischargeDepth := 60) [h]; done) | split))

@[simp] theorem sendOn_kept {s₀ : State} (k : Nat) (c : FabCell) (s : State) (h : Kept s₀ s) :
    Kept s₀ (sendOn k c s) := by
  unfold sendOn
  first
  | (simp +contextual (maxDischargeDepth := 60) [h]; done)
  | (try dsimp only); (repeat' (first | (simp +contextual (maxDischargeDepth := 60) [h]; done) | split))

@[simp] theorem resendAll_kept {s₀ : State} (n : Nat) (s : State) (h : Kept s₀ s) : Kept s₀ (resendAll n s) := by
  induction n generalizing s with
  | zero => exact h
  | succ n ih =>
    unfold resendAll
    split
    · exact h
    · split
      · exact ih _ (by simp +contextual (maxDischargeDepth := 60) [h])
      · exact ih _ (by simp +contextual (maxDischargeDepth := 60) [h])
      · exact h

@[simp] theorem resend_kept {s₀ : State} (s : State) (h : Kept s₀ s) :
    Kept s₀ (resend s) := by
  unfold resend
  first
  | (simp +contextual (maxDischargeDepth := 60) [h]; done)
  | (try dsimp only); (repeat' (first | (simp +contextual (maxDischargeDepth := 60) [h]; done) | split))

@[simp] theorem sendControl_kept {s₀ : State} (c : FabCell) (s : State) (h : Kept s₀ s) :
    Kept s₀ (sendControl c s) := by
  unfold sendControl
  simp +contextual (maxDischargeDepth := 60) [h]

@[simp] theorem linkLeave_kept {s₀ : State} (k st : Nat) (s : State) (h : Kept s₀ s) :
    Kept s₀ (linkLeave k st s) := by
  unfold linkLeave
  first
  | (simp +contextual (maxDischargeDepth := 60) [h]; done)
  | (try dsimp only); (repeat' (first | (simp +contextual (maxDischargeDepth := 60) [h]; done) | split))

@[simp] theorem slotEnd_kept {s₀ : State} (n k : Nat) (s : State) (h : Kept s₀ s) :
    Kept s₀ (slotEnd n k s) := by
  unfold slotEnd
  first
  | (simp +contextual (maxDischargeDepth := 60) [h]; done)
  | (try dsimp only); (repeat' (first | (simp +contextual (maxDischargeDepth := 60) [h]; done) | split))

@[simp] theorem slotBegin_kept {s₀ : State} (n k : Nat) (s : State) (h : Kept s₀ s) :
    Kept s₀ (slotBegin n k s) := by
  unfold slotBegin
  first
  | (simp +contextual (maxDischargeDepth := 60) [h]; done)
  | (try dsimp only); (repeat' (first | (simp +contextual (maxDischargeDepth := 60) [h]; done) | split))

@[simp] theorem fabOff_kept {s₀ : State} (s : State) (h : Kept s₀ s) :
    Kept s₀ (fabOff s) := by
  unfold fabOff
  first
  | (simp +contextual (maxDischargeDepth := 60) [h]; done)
  | (try dsimp only); (repeat' (first | (simp +contextual (maxDischargeDepth := 60) [h]; done) | split))

@[simp] theorem slotTick_kept {s₀ : State} (s : State) (h : Kept s₀ s) :
    Kept s₀ (slotTick s) := by
  unfold slotTick
  first
  | (simp +contextual (maxDischargeDepth := 60) [h]; done)
  | (try dsimp only); (repeat' (first | (simp +contextual (maxDischargeDepth := 60) [h]; done) | split))

@[simp] theorem linkFall_kept {s₀ : State} (k : Nat) (s : State) (h : Kept s₀ s) :
    Kept s₀ (linkFall k s) := by
  unfold linkFall
  first
  | (simp +contextual (maxDischargeDepth := 60) [h]; done)
  | (try dsimp only); (repeat' (first | (simp +contextual (maxDischargeDepth := 60) [h]; done) | split))

@[simp] theorem fabFields_kept {s₀ : State} (v : Word) (s : State) (h : Kept s₀ s) :
    Kept s₀ (fabFields v s) := by
  unfold fabFields
  first
  | (simp +contextual (maxDischargeDepth := 60) [h]; done)
  | (try dsimp only); (repeat' (first | (simp +contextual (maxDischargeDepth := 60) [h]; done) | split))

@[simp] theorem dropAsm_kept {s₀ : State} (src : Nat) (s : State) (h : Kept s₀ s) :
    Kept s₀ (dropAsm src s) := by
  unfold dropAsm
  first
  | (simp +contextual (maxDischargeDepth := 60) [h]; done)
  | (try dsimp only); (repeat' (first | (simp +contextual (maxDischargeDepth := 60) [h]; done) | split))

@[simp] theorem countLost_kept {s₀ : State} (n : Nat) (s : State) (h : Kept s₀ s) :
    Kept s₀ (countLost n s) := by
  unfold countLost
  first
  | (simp +contextual (maxDischargeDepth := 60) [h]; done)
  | (try dsimp only); (repeat' (first | (simp +contextual (maxDischargeDepth := 60) [h]; done) | split))

@[simp] theorem loseAsm_kept {s₀ : State} (src : Nat) (s : State) (h : Kept s₀ s) :
    Kept s₀ (loseAsm src s) := by
  unfold loseAsm
  first
  | (simp +contextual (maxDischargeDepth := 60) [h]; done)
  | (try dsimp only); (repeat' (first | (simp +contextual (maxDischargeDepth := 60) [h]; done) | split))

@[simp] theorem fabEnable_kept {s₀ : State} (v : Word) (s : State) (h : Kept s₀ s) :
    Kept s₀ (fabEnable v s) := by
  unfold fabEnable
  first
  | (simp +contextual (maxDischargeDepth := 60) [h]; done)
  | (try dsimp only); (repeat' (first | (simp +contextual (maxDischargeDepth := 60) [h]; done) | split))

@[simp] theorem execFabricEnable_kept {s₀ : State} (v : Word) (s : State) (h : Kept s₀ s) :
    KeptOut s₀ (execFabricEnable v s) := by
  unfold execFabricEnable
  first
  | (simp +contextual (maxDischargeDepth := 60) [h]; done)
  | (try dsimp only); (repeat' (first | (simp +contextual (maxDischargeDepth := 60) [h]; done) | split))

@[simp] theorem fabDisable_kept {s₀ : State} (v : Word) (s : State) (h : Kept s₀ s) :
    Kept s₀ (fabDisable v s) := by
  unfold fabDisable
  first
  | (simp +contextual (maxDischargeDepth := 60) [h]; done)
  | (try dsimp only); (repeat' (first | (simp +contextual (maxDischargeDepth := 60) [h]; done) | split))

@[simp] theorem execFabricDisable_kept {s₀ : State} (v : Word) (s : State) (h : Kept s₀ s) :
    KeptOut s₀ (execFabricDisable v s) := by
  unfold execFabricDisable
  first
  | (simp +contextual (maxDischargeDepth := 60) [h]; done)
  | (try dsimp only); (repeat' (first | (simp +contextual (maxDischargeDepth := 60) [h]; done) | split))

@[simp] theorem badCell_kept {s₀ : State} (k : Nat) (s : State) (h : Kept s₀ s) :
    Kept s₀ (badCell k s) := by
  unfold badCell
  first
  | (simp +contextual (maxDischargeDepth := 60) [h]; done)
  | (try dsimp only); (repeat' (first | (simp +contextual (maxDischargeDepth := 60) [h]; done) | split))

@[simp] theorem execLinkControlCellRx_kept {s₀ : State} (k : Link) (crcOk : Bool) (nextSeq ackSeq : BitVec 12) (nak
    : Bool) (s : State) (h : Kept s₀ s) :
    KeptOut s₀ (execLinkControlCellRx k crcOk nextSeq ackSeq nak s) := by
  unfold execLinkControlCellRx
  first
  | (simp +contextual (maxDischargeDepth := 60) [h]; done)
  | (try dsimp only); (repeat' (first | (simp +contextual (maxDischargeDepth := 60) [h]; done) | split))

@[simp] theorem execLinkControlTimeout_kept {s₀ : State} (k : Link) (s : State) (h : Kept s₀ s) :
    KeptOut s₀ (execLinkControlTimeout k s) := by
  unfold execLinkControlTimeout
  first
  | (simp +contextual (maxDischargeDepth := 60) [h]; done)
  | (try dsimp only); (repeat' (first | (simp +contextual (maxDischargeDepth := 60) [h]; done) | split))

@[simp] theorem execFabricFecLockLoss_kept {s₀ : State} (k : Link) (s : State) (h : Kept s₀ s) :
    KeptOut s₀ (execFabricFecLockLoss k s) := by
  unfold execFabricFecLockLoss
  first
  | (simp +contextual (maxDischargeDepth := 60) [h]; done)
  | (try dsimp only); (repeat' (first | (simp +contextual (maxDischargeDepth := 60) [h]; done) | split))

@[simp] theorem execFabricLinkRetire_kept {s₀ : State} (k : Link) (sw : Bool) (s : State) (h : Kept s₀ s) :
    KeptOut s₀ (execFabricLinkRetire k sw s) := by
  unfold execFabricLinkRetire
  first
  | (simp +contextual (maxDischargeDepth := 60) [h]; done)
  | (try dsimp only); (repeat' (first | (simp +contextual (maxDischargeDepth := 60) [h]; done) | split))

@[simp] theorem cellAccepted_kept {s₀ : State} (k : Nat) (crcOk : Bool) (s : State) (h : Kept s₀ s) :
    Kept s₀ (cellAccepted k crcOk s).2 := by
  unfold cellAccepted
  first
  | (simp +contextual (maxDischargeDepth := 60) [h]; done)
  | (try dsimp only); (repeat' (first | (simp +contextual (maxDischargeDepth := 60) [h]; done) | split))

@[simp] theorem setFabDst_kept {s₀ : State} (d : Nat) (x : FabDst) (s : State) (h : Kept s₀ s) :
    Kept s₀ (setFabDst d x s) := by
  unfold setFabDst
  first
  | (simp +contextual (maxDischargeDepth := 60) [h]; done)
  | (try dsimp only); (repeat' (first | (simp +contextual (maxDischargeDepth := 60) [h]; done) | split))

@[simp] theorem voqDequeue_kept {s₀ : State} (q : Nat) (e : QPkt) (s : State) (h : Kept s₀ s) :
    Kept s₀ (voqDequeue q e s) := by
  unfold voqDequeue
  first
  | (simp +contextual (maxDischargeDepth := 60) [h]; done)
  | (try dsimp only); (repeat' (first | (simp +contextual (maxDischargeDepth := 60) [h]; done) | split))

@[simp] theorem cellLeave_kept {s₀ : State} (q dn k sent ver : Nat) (e : QPkt) (c : Cell) (s : State) (h : Kept s₀
    s) :
    Kept s₀ (cellLeave q dn k sent ver e c s) := by
  unfold cellLeave
  first
  | (simp +contextual (maxDischargeDepth := 60) [h]; done)
  | (try dsimp only); (repeat' (first | (simp +contextual (maxDischargeDepth := 60) [h]; done) | split))

@[simp] theorem execCellSend_kept {s₀ : State} (voq : VoqTurn) (s : State) (h : Kept s₀ s) :
    KeptOut s₀ (execCellSend voq s) := by
  unfold execCellSend
  first
  | (simp +contextual (maxDischargeDepth := 60) [h]; done)
  | (try dsimp only); (repeat' (first | (simp +contextual (maxDischargeDepth := 60) [h]; done) | split))

@[simp] theorem execSyncHoldEnd_kept {s₀ : State} (dst : Device) (s : State) (h : Kept s₀ s) :
    KeptOut s₀ (execSyncHoldEnd dst s) := by
  unfold execSyncHoldEnd
  first
  | (simp +contextual (maxDischargeDepth := 60) [h]; done)
  | (try dsimp only); (repeat' (first | (simp +contextual (maxDischargeDepth := 60) [h]; done) | split))

@[simp] theorem setFabSrc_kept {s₀ : State} (n : Nat) (x : FabSrc) (s : State) (h : Kept s₀ s) :
    Kept s₀ (setFabSrc n x s) := by
  unfold setFabSrc
  first
  | (simp +contextual (maxDischargeDepth := 60) [h]; done)
  | (try dsimp only); (repeat' (first | (simp +contextual (maxDischargeDepth := 60) [h]; done) | split))

@[simp] theorem setAsm_kept {s₀ : State} (n : Nat) (a : Option (Option Nat)) (s : State) (h : Kept s₀ s) :
    Kept s₀ (setAsm n a s) := by
  unfold setAsm
  first
  | (simp +contextual (maxDischargeDepth := 60) [h]; done)
  | (try dsimp only); (repeat' (first | (simp +contextual (maxDischargeDepth := 60) [h]; done) | split))

@[simp] theorem finishAsm_kept {s₀ : State} (src q pid : Nat) (abort : Bool) (s : State) (h : Kept s₀ s) :
    Kept s₀ (finishAsm src q pid abort s) := by
  unfold finishAsm
  first
  | (simp +contextual (maxDischargeDepth := 60) [h]; done)
  | (try dsimp only); (repeat' (first | (simp +contextual (maxDischargeDepth := 60) [h]; done) | split))

@[simp] theorem growAsm_kept {s₀ : State} (q pid need f : Nat) (s : State) (h : Kept s₀ s) :
    Kept s₀ (growAsm q pid need f s).2 := by
  induction f generalizing s with
  | zero => exact h
  | succ f ih =>
    unfold growAsm
    split
    · exact h
    · split
      · exact h
      · dsimp only
        generalize (if spills s q then _ else _ : Nat) = pool
        split
        · exact ih _ (by have := tmgAllocate_kept _ s h _ _ ‹_›; simp +contextual (maxDischargeDepth := 60) [this])
        · simp +contextual (maxDischargeDepth := 60) [h]

@[simp] theorem releaseFirst_kept {s₀ : State} (src : Nat) (c : Cell) (s : State) (h : Kept s₀ s) :
    Kept s₀ (releaseFirst src c s) := by
  unfold releaseFirst
  first
  | (simp +contextual (maxDischargeDepth := 60) [h]; done)
  | (try dsimp only); (repeat' (first | (simp +contextual (maxDischargeDepth := 60) [h]; done) | split))

@[simp] theorem releaseNext_kept {s₀ : State} (src pid : Nat) (c : Cell) (s : State) (h : Kept s₀ s) :
    Kept s₀ (releaseNext src pid c s) := by
  unfold releaseNext
  first
  | (simp +contextual (maxDischargeDepth := 60) [h]; done)
  | (try dsimp only); (repeat' (first | (simp +contextual (maxDischargeDepth := 60) [h]; done) | split))

@[simp] theorem setMark_kept {s₀ : State} (src : Nat) (c : Cell) (s : State) (h : Kept s₀ s) :
    Kept s₀ (setMark src c s) := by
  unfold setMark
  first
  | (simp +contextual (maxDischargeDepth := 60) [h]; done)
  | (try dsimp only); (repeat' (first | (simp +contextual (maxDischargeDepth := 60) [h]; done) | split))

@[simp] theorem releaseHeadless_kept {s₀ : State} (src : Nat) (c : Cell) (s : State) (h : Kept s₀ s) :
    Kept s₀ (releaseHeadless src c s) := by
  unfold releaseHeadless
  first
  | (simp +contextual (maxDischargeDepth := 60) [h]; done)
  | (try dsimp only); (repeat' (first | (simp +contextual (maxDischargeDepth := 60) [h]; done) | split))

@[simp] theorem releaseCell_kept {s₀ : State} (src : Nat) (c : Cell) (s : State) (h : Kept s₀ s) :
    Kept s₀ (releaseCell src c s) := by
  unfold releaseCell
  first
  | (simp +contextual (maxDischargeDepth := 60) [h]; done)
  | (try dsimp only); (repeat' (first | (simp +contextual (maxDischargeDepth := 60) [h]; done) | split))

@[simp] theorem releaseRun_kept {s₀ : State} (src f : Nat) (s : State) (h : Kept s₀ s) :
    Kept s₀ (releaseRun src f s) := by
  induction f generalizing s with
  | zero => exact h
  | succ f ih =>
    unfold releaseRun
    dsimp only
    split
    · exact h
    · split
      · exact ih _ (by simp +contextual (maxDischargeDepth := 60) [h])
      · exact h

@[simp] theorem countLate_kept {s₀ : State} (s : State) (h : Kept s₀ s) :
    Kept s₀ (countLate s) := by
  unfold countLate
  first
  | (simp +contextual (maxDischargeDepth := 60) [h]; done)
  | (try dsimp only); (repeat' (first | (simp +contextual (maxDischargeDepth := 60) [h]; done) | split))

@[simp] theorem resequence_kept {s₀ : State} (src : Nat) (c : Cell) (s : State) (h : Kept s₀ s) :
    Kept s₀ (resequence src c s) := by
  unfold resequence
  first
  | (simp +contextual (maxDischargeDepth := 60) [h]; done)
  | (try dsimp only); (repeat' (first | (simp +contextual (maxDischargeDepth := 60) [h]; done) | split))

@[simp] theorem takeCell_kept {s₀ : State} (ver dst : Nat) (f : State → State) (s : State) (h : Kept s₀ s)
    (hf : ∀ x, Kept s₀ x → Kept s₀ (f x)) : Kept s₀ (takeCell ver dst f s) := by
  unfold takeCell
  dsimp only
  split
  · simp +contextual (maxDischargeDepth := 60) [h]
  · split
    · simp +contextual (maxDischargeDepth := 60) [h]
    · exact hf _ h

@[simp] theorem dataCell_kept {s₀ : State} (c : Cell) (s : State) (h : Kept s₀ s) :
    Kept s₀ (dataCell c s) := by
  unfold dataCell
  first
  | (simp +contextual (maxDischargeDepth := 60) [h]; done)
  | (try dsimp only); (repeat' (first | (simp +contextual (maxDischargeDepth := 60) [h]; done) | split))

@[simp] theorem execDataCellRx_kept {s₀ : State} (k : Link) (crcOk : Bool) (cell : Cell) (s : State) (h : Kept s₀ s) :
    KeptOut s₀ (execDataCellRx k crcOk cell s) := by
  unfold execDataCellRx
  first
  | (simp +contextual (maxDischargeDepth := 60) [h]; done)
  | (try dsimp only); (repeat' (first | (simp +contextual (maxDischargeDepth := 60) [h]; done) | split))

@[simp] theorem execReseqTimeout_kept {s₀ : State} (src : Device) (s : State) (h : Kept s₀ s) :
    KeptOut s₀ (execReseqTimeout src s) := by
  unfold execReseqTimeout
  first
  | (simp +contextual (maxDischargeDepth := 60) [h]; done)
  | (try dsimp only); (repeat' (first | (simp +contextual (maxDischargeDepth := 60) [h]; done) | split))

@[simp] theorem reqMade_kept {s₀ : State} (q : Nat) (s : State) (h : Kept s₀ s) :
    Kept s₀ (reqMade q s) := by
  unfold reqMade
  first
  | (simp +contextual (maxDischargeDepth := 60) [h]; done)
  | (try dsimp only); (repeat' (first | (simp +contextual (maxDischargeDepth := 60) [h]; done) | split))

@[simp] theorem execRequestSend_kept {s₀ : State} (voq : Queue) (s : State) (h : Kept s₀ s) :
    KeptOut s₀ (execRequestSend voq s) := by
  unfold execRequestSend
  first
  | (simp +contextual (maxDischargeDepth := 60) [h]; done)
  | (try dsimp only); (repeat' (first | (simp +contextual (maxDischargeDepth := 60) [h]; done) | split))

@[simp] theorem zeroTick_kept {s₀ : State} (s : State) (h : Kept s₀ s) :
    Kept s₀ (zeroTick s) := by
  unfold zeroTick
  first
  | (simp +contextual (maxDischargeDepth := 60) [h]; done)
  | (try dsimp only); (repeat' (first | (simp +contextual (maxDischargeDepth := 60) [h]; done) | split))

@[simp] theorem fabTick_kept {s₀ : State} (s : State) (h : Kept s₀ s) :
    Kept s₀ (fabTick s) := by
  unfold fabTick
  first
  | (simp +contextual (maxDischargeDepth := 60) [h]; done)
  | (try dsimp only); (repeat' (first | (simp +contextual (maxDischargeDepth := 60) [h]; done) | split))

@[simp] theorem takeRequest_kept {s₀ : State} (src : Nat) (s : State) (e : ReqEntry) (h : Kept s₀ s) :
    Kept s₀ (takeRequest src s e) := by
  unfold takeRequest
  first
  | (simp +contextual (maxDischargeDepth := 60) [h]; done)
  | (try dsimp only); (repeat' (first | (simp +contextual (maxDischargeDepth := 60) [h]; done) | split))

@[simp] theorem execRequestCellRx_kept {s₀ : State} (k : Link) (crcOk : Bool) (g0 : CellHead) (es : ReqEntries) (s :
    State) (h : Kept s₀ s) :
    KeptOut s₀ (execRequestCellRx k crcOk g0 es s) := by
  unfold execRequestCellRx
  first
  | (simp +contextual (maxDischargeDepth := 60) [h]; done)
  | (try dsimp only); (repeat' (first | (simp +contextual (maxDischargeDepth := 60) [h]; done) | split))

@[simp] theorem execGrantIssue_kept {s₀ : State} (p : Port) (s : State) (h : Kept s₀ s) :
    KeptOut s₀ (execGrantIssue p s) := by
  unfold execGrantIssue
  first
  | (simp +contextual (maxDischargeDepth := 60) [h]; done)
  | (try dsimp only); (repeat' (first | (simp +contextual (maxDischargeDepth := 60) [h]; done) | split))

@[simp] theorem takeGrant_kept {s₀ : State} (s : State) (e : GrantEntry) (h : Kept s₀ s) :
    Kept s₀ (takeGrant s e) := by
  unfold takeGrant
  first
  | (simp +contextual (maxDischargeDepth := 60) [h]; done)
  | (try dsimp only); (repeat' (first | (simp +contextual (maxDischargeDepth := 60) [h]; done) | split))

@[simp] theorem execGrantCellRx_kept {s₀ : State} (k : Link) (crcOk : Bool) (g : GrantCell) (s : State) (h : Kept s₀
    s) :
    KeptOut s₀ (execGrantCellRx k crcOk g s) := by
  unfold execGrantCellRx
  first
  | (simp +contextual (maxDischargeDepth := 60) [h]; done)
  | (try dsimp only); (repeat' (first | (simp +contextual (maxDischargeDepth := 60) [h]; done) | split))

@[simp] theorem execDemandRecordExpire_kept {s₀ : State} (src : Device) (voq : Queue) (s : State) (h : Kept s₀ s) :
    KeptOut s₀ (execDemandRecordExpire src voq s) := by
  unfold execDemandRecordExpire
  first
  | (simp +contextual (maxDischargeDepth := 60) [h]; done)
  | (try dsimp only); (repeat' (first | (simp +contextual (maxDischargeDepth := 60) [h]; done) | split))

@[simp] theorem armSwaps_kept {s₀ : State} (mask : Nat) (s : State) (h : Kept s₀ s) :
    Kept s₀ (armSwaps mask s) := by
  unfold armSwaps
  first
  | (simp +contextual (maxDischargeDepth := 60) [h]; done)
  | (try dsimp only); (repeat' (first | (simp +contextual (maxDischargeDepth := 60) [h]; done) | split))

@[simp] theorem taAction_kept {s₀ : State} (action : Nat) (arg : Nat) (s : State) (h : Kept s₀ s) :
    Kept s₀ (taAction action arg s).1 := by
  unfold taAction
  first
  | (simp +contextual (maxDischargeDepth := 60) [h]; done)
  | (try dsimp only); (repeat' (first | (simp +contextual (maxDischargeDepth := 60) [h]; done) | split))

@[simp] theorem taNext_kept {s₀ : State} (n : Nat) (e : TaRun) (s : State) (h : Kept s₀ s) :
    Kept s₀ (taNext n e s) := by
  unfold taNext
  first
  | (simp +contextual (maxDischargeDepth := 60) [h]; done)
  | (try dsimp only); (repeat' (first | (simp +contextual (maxDischargeDepth := 60) [h]; done) | split))

@[simp] theorem taFireOne_kept {s₀ : State} (n : Nat) (e : TaRun) (s : State) (h : Kept s₀ s) :
    Kept s₀ (taFireOne n e s) := by
  unfold taFireOne
  first
  | (simp +contextual (maxDischargeDepth := 60) [h]; done)
  | (try dsimp only); (repeat' (first | (simp +contextual (maxDischargeDepth := 60) [h]; done) | split))

@[simp] theorem execTaFire_kept {s₀ : State} (s : State) (h : Kept s₀ s) :
    KeptOut s₀ (execTaFire s) := by
  unfold execTaFire
  first
  | (simp +contextual (maxDischargeDepth := 60) [h]; done)
  | (try dsimp only); (repeat' (first | (simp +contextual (maxDischargeDepth := 60) [h]; done) | split))

@[simp] theorem applyStep_kept {s₀ : State} (s : State) (h : Kept s₀ s) :
    Kept s₀ (applyStep s) := by
  unfold applyStep
  first
  | (simp +contextual (maxDischargeDepth := 60) [h]; done)
  | (try dsimp only); (repeat' (first | (simp +contextual (maxDischargeDepth := 60) [h]; done) | split))

@[simp] theorem execTimeBusTick_kept {s₀ : State} (s : State) (h : Kept s₀ s) :
    KeptOut s₀ (execTimeBusTick s) := by
  unfold execTimeBusTick
  first
  | (simp +contextual (maxDischargeDepth := 60) [h]; done)
  | (try dsimp only); (repeat' (first | (simp +contextual (maxDischargeDepth := 60) [h]; done) | split))

@[simp] theorem execPhcStepApply_kept {s₀ : State} (s : State) (h : Kept s₀ s) :
    KeptOut s₀ (execPhcStepApply s) := by
  unfold execPhcStepApply
  first
  | (simp +contextual (maxDischargeDepth := 60) [h]; done)
  | (try dsimp only); (repeat' (first | (simp +contextual (maxDischargeDepth := 60) [h]; done) | split))

@[simp] theorem execSysModeWrite_kept {s₀ : State} (v : Word) (s : State) (h : Kept s₀ s) :
    KeptOut s₀ (execSysModeWrite v s) := by
  unfold execSysModeWrite
  first
  | (simp +contextual (maxDischargeDepth := 60) [h]; done)
  | (try dsimp only); (repeat' (first | (simp +contextual (maxDischargeDepth := 60) [h]; done) | split))

@[simp] theorem execPmatch_kept {s₀ : State} (th : ThreadRef) (f : FmtW) (s : State) (h : Kept s₀ s) :
    KeptOut s₀ (execPmatch th f s) := by
  unfold execPmatch
  first
  | (simp +contextual (maxDischargeDepth := 60) [h]; done)
  | (try dsimp only); (repeat' (first | (simp +contextual (maxDischargeDepth := 60) [h]; done) | split))

@[simp] theorem setAwaited_kept {s₀ : State} (k : Nat) (q : Bool × Req) (s : State) (h : Kept s₀ s) :
    Kept s₀ (setAwaited k q s) := by
  unfold setAwaited
  first
  | (simp +contextual (maxDischargeDepth := 60) [h]; done)
  | (try dsimp only); (repeat' (first | (simp +contextual (maxDischargeDepth := 60) [h]; done) | split))

@[simp] theorem execPmatchScanStart_kept {s₀ : State} (s : State) (h : Kept s₀ s) :
    KeptOut s₀ (execPmatchScanStart s) := by
  unfold execPmatchScanStart
  first
  | (simp +contextual (maxDischargeDepth := 60) [h]; done)
  | (try dsimp only); (repeat' (first | (simp +contextual (maxDischargeDepth := 60) [h]; done) | split))

@[simp] theorem ppuError_kept {s₀ : State} (i : Nat) (s : State) (h : Kept s₀ s) :
    Kept s₀ (ppuError i s) := by
  unfold ppuError
  first
  | (simp +contextual (maxDischargeDepth := 60) [h]; done)
  | (try dsimp only); (repeat' (first | (simp +contextual (maxDischargeDepth := 60) [h]; done) | split))

@[simp] theorem freeLane_kept {s₀ : State} (l : ReqName) (s : State) (h : Kept s₀ s) :
    Kept s₀ (freeLane l s) := by
  unfold freeLane
  first
  | (simp +contextual (maxDischargeDepth := 60) [h]; done)
  | (try dsimp only); (repeat' (first | (simp +contextual (maxDischargeDepth := 60) [h]; done) | split))

@[simp] theorem execPmatchResult_kept {s₀ : State} (th : ThreadRef) (tag : Tag) (ecc : EccIndex) (s : State) (h :
    Kept s₀ s) :
    KeptOut s₀ (execPmatchResult th tag ecc s) := by
  unfold execPmatchResult
  first
  | (simp +contextual (maxDischargeDepth := 60) [h]; done)
  | (try dsimp only); (repeat' (first | (simp +contextual (maxDischargeDepth := 60) [h]; done) | split))

@[simp] theorem ppuStart_kept {s₀ : State} (op : Nat) (v : Word) (s : State) (h : Kept s₀ s) :
    Kept s₀ (ppuStart op v s) := by
  unfold ppuStart
  first
  | (simp +contextual (maxDischargeDepth := 60) [h]; done)
  | (try dsimp only); (repeat' (first | (simp +contextual (maxDischargeDepth := 60) [h]; done) | split))

@[simp] theorem execPpuWrite_kept {s₀ : State} (v : Word) (s : State) (h : Kept s₀ s) :
    KeptOut s₀ (execPpuWrite v s) := by
  unfold execPpuWrite
  first
  | (simp +contextual (maxDischargeDepth := 60) [h]; done)
  | (try dsimp only); (repeat' (first | (simp +contextual (maxDischargeDepth := 60) [h]; done) | split))

@[simp] theorem execPpuRead_kept {s₀ : State} (v : Word) (s : State) (h : Kept s₀ s) :
    KeptOut s₀ (execPpuRead v s) := by
  unfold execPpuRead
  first
  | (simp +contextual (maxDischargeDepth := 60) [h]; done)
  | (try dsimp only); (repeat' (first | (simp +contextual (maxDischargeDepth := 60) [h]; done) | split))

@[simp] theorem execPpuInvalidate_kept {s₀ : State} (v : Word) (s : State) (h : Kept s₀ s) :
    KeptOut s₀ (execPpuInvalidate v s) := by
  unfold execPpuInvalidate
  first
  | (simp +contextual (maxDischargeDepth := 60) [h]; done)
  | (try dsimp only); (repeat' (first | (simp +contextual (maxDischargeDepth := 60) [h]; done) | split))

@[simp] theorem loadPat_kept {s₀ : State} (p : Pat) (s : State) (h : Kept s₀ s) :
    Kept s₀ (loadPat p s) := by
  unfold loadPat
  first
  | (simp +contextual (maxDischargeDepth := 60) [h]; done)
  | (try dsimp only); (repeat' (first | (simp +contextual (maxDischargeDepth := 60) [h]; done) | split))

@[simp] theorem ppuEnd_kept {s₀ : State} (res : Nat) (s : State) (h : Kept s₀ s) :
    Kept s₀ (ppuEnd res s) := by
  unfold ppuEnd
  first
  | (simp +contextual (maxDischargeDepth := 60) [h]; done)
  | (try dsimp only); (repeat' (first | (simp +contextual (maxDischargeDepth := 60) [h]; done) | split))

@[simp] theorem execPpuCommandDone_kept {s₀ : State} (ecc : Bool) (s : State) (h : Kept s₀ s) :
    KeptOut s₀ (execPpuCommandDone ecc s) := by
  unfold execPpuCommandDone
  first
  | (simp +contextual (maxDischargeDepth := 60) [h]; done)
  | (try dsimp only); (repeat' (first | (simp +contextual (maxDischargeDepth := 60) [h]; done) | split))

end Sys2Proof.Laws
end

