-- ==== Sys2Proof/Laws/KeptAccess.lean ====
section
/-! SUPPORT. The same of register accesses and of the arithmetic and control-flow instructions. -/

set_option linter.all false

namespace Sys2Proof.Laws
open Sys2Proof Sys2Proof.Machine

@[simp] theorem after_kept {s₀ : State} (o : Out) (s : State) (h : Kept s₀ s) (ho : KeptOut s₀ o) :
    Kept s₀ (after o s) := by
  unfold after
  split
  · exact ho _ rfl
  · exact h
  · exact h

@[simp] theorem ringWrite_kept {s₀ : State} (k o : Nat) (v : Word) (s : State) (h : Kept s₀ s) :
    Kept s₀ (ringWrite k o v s) := by
  unfold ringWrite
  first
  | (simp +contextual (maxDischargeDepth := 60) [h]; done)
  | (try dsimp only); (repeat' (first | (simp +contextual (maxDischargeDepth := 60) [h]; done) | split))

@[simp] theorem ringRead_kept {s₀ : State} (k o : Nat) (s : State) (h : Kept s₀ s) :
    Kept s₀ (ringRead k o s) := by
  unfold ringRead
  first
  | (simp +contextual (maxDischargeDepth := 60) [h]; done)
  | (try dsimp only); (repeat' (first | (simp +contextual (maxDischargeDepth := 60) [h]; done) | split))

@[simp] theorem readClears_kept {s₀ : State} (r : Reg) (i : Nat) (s : State) (h : Kept s₀ s) :
    Kept s₀ (readClears r i s) := by
  unfold readClears
  first
  | (simp +contextual (maxDischargeDepth := 60) [h]; done)
  | (try dsimp only); (repeat' (first | (simp +contextual (maxDischargeDepth := 60) [h]; done) | split))

theorem rowRead_kept {s₀ : State} (r : Reg) (i : Nat) (f : State → Out) (e : rowRead r i = some f) (s : State)
    (h : Kept s₀ s) : KeptOut s₀ (f s) := by
  unfold rowRead at e
  repeat' split at e
  all_goals first | (cases e; simp (maxDischargeDepth := 60) [h]; done) | cases e

@[simp] theorem readOf_kept {s₀ : State} (r : Reg) (i : Nat) (s : State) (h : Kept s₀ s) : Kept s₀ (readOf r i s) :=
    by
  unfold readOf
  split
  · exact after_kept _ _ h (rowRead_kept _ _ _ ‹_› _ h)
  · simp (maxDischargeDepth := 60) [h]

@[simp] theorem execCounterReadClear_kept {s₀ : State} (a : HostAddr) (size : Nat) (s : State) (h : Kept s₀ s) :
    KeptOut s₀ (execCounterReadClear a size s) := by
  unfold execCounterReadClear
  first
  | (simp +contextual (maxDischargeDepth := 60) [h]; done)
  | (try dsimp only); (repeat' (first | (simp +contextual (maxDischargeDepth := 60) [h]; done) | split))

@[simp] theorem storeIf_kept {s₀ : State} (c : Bool) (r : Reg) (i : Nat) (v : Word) (s : State) (h : Kept s₀ s) :
    Kept s₀ (storeIf c r i v s) := by
  unfold storeIf
  first
  | (simp +contextual (maxDischargeDepth := 60) [h]; done)
  | (try dsimp only); (repeat' (first | (simp +contextual (maxDischargeDepth := 60) [h]; done) | split))

@[simp] theorem synceWrite_kept {s₀ : State} (k : Nat) (v : Word) (s : State) (h : Kept s₀ s) :
    Kept s₀ (synceWrite k v s) := by
  unfold synceWrite
  first
  | (simp +contextual (maxDischargeDepth := 60) [h]; done)
  | (try dsimp only); (repeat' (first | (simp +contextual (maxDischargeDepth := 60) [h]; done) | split))

@[simp] theorem ppsCfgWrite_kept {s₀ : State} (v : Word) (s : State) (h : Kept s₀ s) :
    Kept s₀ (ppsCfgWrite v s) := by
  unfold ppsCfgWrite
  first
  | (simp +contextual (maxDischargeDepth := 60) [h]; done)
  | (try dsimp only); (repeat' (first | (simp +contextual (maxDischargeDepth := 60) [h]; done) | split))

@[simp] theorem writeTau_kept {s₀ : State} (r : Reg) (i : Nat) (v : Word) (s : State) (h : Kept s₀ s) :
    Kept s₀ (writeTau r i v s) := by
  unfold writeTau
  first
  | (simp +contextual (maxDischargeDepth := 60) [h]; done)
  | (try dsimp only); (repeat' (first | (simp +contextual (maxDischargeDepth := 60) [h]; done) | split))

@[simp] theorem writeLkp_kept {s₀ : State} (r : Reg) (i : Nat) (v : Word) (s : State) (h : Kept s₀ s) :
    Kept s₀ (writeLkp r i v s) := by
  unfold writeLkp
  first
  | (simp +contextual (maxDischargeDepth := 60) [h]; done)
  | (try dsimp only); (repeat' (first | (simp +contextual (maxDischargeDepth := 60) [h]; done) | split))

@[simp] theorem bankCfgWrite_kept {s₀ : State} (b : Nat) (v : Word) (s : State) (h : Kept s₀ s) :
    Kept s₀ (bankCfgWrite b v s) := by
  unfold bankCfgWrite
  first
  | (simp +contextual (maxDischargeDepth := 60) [h]; done)
  | (try dsimp only); (repeat' (first | (simp +contextual (maxDischargeDepth := 60) [h]; done) | split))

@[simp] theorem writeTcm_kept {s₀ : State} (r : Reg) (i : Nat) (v : Word) (s : State) (h : Kept s₀ s) :
    Kept s₀ (writeTcm r i v s) := by
  unfold writeTcm
  first
  | (simp +contextual (maxDischargeDepth := 60) [h]; done)
  | (try dsimp only); (repeat' (first | (simp +contextual (maxDischargeDepth := 60) [h]; done) | split))

@[simp] theorem writeLiu_kept {s₀ : State} (r : Reg) (i : Nat) (v : Word) (s : State) (h : Kept s₀ s) :
    Kept s₀ (writeLiu r i v s) := by
  unfold writeLiu
  first
  | (simp +contextual (maxDischargeDepth := 60) [h]; done)
  | (try dsimp only); (repeat' (first | (simp +contextual (maxDischargeDepth := 60) [h]; done) | split))

@[simp] theorem writeTmg_kept {s₀ : State} (r : Reg) (i : Nat) (v : Word) (s : State) (h : Kept s₀ s) :
    Kept s₀ (writeTmg r i v s) := by
  unfold writeTmg
  dsimp only
  repeat' split
  all_goals simp (maxDischargeDepth := 60) [h]

@[simp] theorem writeBpm_kept {s₀ : State} (r : Reg) (i : Nat) (v : Word) (s : State) (h : Kept s₀ s) :
    Kept s₀ (writeBpm r i v s) := by
  unfold writeBpm
  first
  | (simp +contextual (maxDischargeDepth := 60) [h]; done)
  | (try dsimp only); (repeat' (first | (simp +contextual (maxDischargeDepth := 60) [h]; done) | split))

@[simp] theorem refNote_kept {s₀ : State} (m : MemCtl) (s : State) (h : Kept s₀ s) :
    Kept s₀ (refNote m s) := by
  unfold refNote
  first
  | (simp +contextual (maxDischargeDepth := 60) [h]; done)
  | (try dsimp only); (repeat' (first | (simp +contextual (maxDischargeDepth := 60) [h]; done) | split))

@[simp] theorem writeMem_kept {s₀ : State} (m : MemCtl) (r : Reg) (i : Nat) (v : Word) (s : State) (h : Kept s₀ s) :
    Kept s₀ (writeMem m r i v s) := by
  unfold writeMem
  first
  | (simp +contextual (maxDischargeDepth := 60) [h]; done)
  | (try dsimp only); (repeat' (first | (simp +contextual (maxDischargeDepth := 60) [h]; done) | split))

@[simp] theorem writeCph_kept {s₀ : State} (r : Reg) (i : Nat) (v : Word) (s : State) (h : Kept s₀ s) :
    Kept s₀ (writeCph r i v s) := by
  unfold writeCph
  first
  | (simp +contextual (maxDischargeDepth := 60) [h]; done)
  | (try dsimp only); (repeat' (first | (simp +contextual (maxDischargeDepth := 60) [h]; done) | split))

@[simp] theorem writeHif_kept {s₀ : State} (r : Reg) (i : Nat) (v : Word) (s : State) (h : Kept s₀ s) :
    Kept s₀ (writeHif r i v s) := by
  unfold writeHif
  first
  | (simp +contextual (maxDischargeDepth := 60) [h]; done)
  | (try dsimp only); (repeat' (first | (simp +contextual (maxDischargeDepth := 60) [h]; done) | split))

@[simp] theorem writeCsq_kept {s₀ : State} (r : Reg) (i : Nat) (v : Word) (s : State) (h : Kept s₀ s) :
    Kept s₀ (writeCsq r i v s) := by
  unfold writeCsq
  first
  | (simp +contextual (maxDischargeDepth := 60) [h]; done)
  | (try dsimp only); (repeat' (first | (simp +contextual (maxDischargeDepth := 60) [h]; done) | split))

@[simp] theorem writeGau_kept {s₀ : State} (r : Reg) (i : Nat) (v : Word) (s : State) (h : Kept s₀ s) :
    Kept s₀ (writeGau r i v s) := by
  unfold writeGau
  first
  | (simp +contextual (maxDischargeDepth := 60) [h]; done)
  | (try dsimp only); (repeat' (first | (simp +contextual (maxDischargeDepth := 60) [h]; done) | split))

@[simp] theorem writeErr_kept {s₀ : State} (r : Reg) (i : Nat) (v : Word) (s : State) (h : Kept s₀ s) :
    Kept s₀ (writeErr r i v s) := by
  unfold writeErr
  first
  | (simp +contextual (maxDischargeDepth := 60) [h]; done)
  | (try dsimp only); (repeat' (first | (simp +contextual (maxDischargeDepth := 60) [h]; done) | split))

@[simp] theorem writeOf_kept {s₀ : State} (r : Reg) (i : Nat) (v : Word) (s : State) (h : Kept s₀ s) :
    Kept s₀ (writeOf r i v s) := by
  unfold writeOf
  dsimp only
  repeat' split
  all_goals simp (maxDischargeDepth := 60) [h]

@[simp] theorem execRegisterWrite_kept {s₀ : State} (a : HostAddr) (size : Nat) (v : Word) (s : State) (h : Kept s₀
    s) :
    KeptOut s₀ (execRegisterWrite a size v s) := by
  unfold execRegisterWrite
  first
  | (simp +contextual (maxDischargeDepth := 60) [h]; done)
  | (try dsimp only); (repeat' (first | (simp +contextual (maxDischargeDepth := 60) [h]; done) | split))

@[simp] theorem aluR_kept {s₀ : State} (th : ThreadRef) (op : Nat) (f : FmtR) (g : Word → Word → Word) (s : State)
    (h : Kept s₀ s) :
    Kept s₀ (aluR th op f g s) := by
  unfold aluR
  first
  | (simp +contextual (maxDischargeDepth := 60) [h]; done)
  | (try dsimp only); (repeat' (first | (simp +contextual (maxDischargeDepth := 60) [h]; done) | split))

@[simp] theorem aluR1_kept {s₀ : State} (th : ThreadRef) (op : Nat) (f : FmtR) (g : Word → Word) (s : State) (h :
    Kept s₀ s) :
    Kept s₀ (aluR1 th op f g s) := by
  unfold aluR1
  first
  | (simp +contextual (maxDischargeDepth := 60) [h]; done)
  | (try dsimp only); (repeat' (first | (simp +contextual (maxDischargeDepth := 60) [h]; done) | split))

@[simp] theorem aluI_kept {s₀ : State} (th : ThreadRef) (op : Nat) (f : FmtI) (g : Word → BitVec 32 → Word) (s :
    State) (h : Kept s₀ s) :
    Kept s₀ (aluI th op f g s) := by
  unfold aluI
  first
  | (simp +contextual (maxDischargeDepth := 60) [h]; done)
  | (try dsimp only); (repeat' (first | (simp +contextual (maxDischargeDepth := 60) [h]; done) | split))

@[simp] theorem aluMov_kept {s₀ : State} (th : ThreadRef) (op : Nat) (f : FmtI) (g : Word → BitVec 32 → Word) (s :
    State) (h : Kept s₀ s) :
    Kept s₀ (aluMov th op f g s) := by
  unfold aluMov
  first
  | (simp +contextual (maxDischargeDepth := 60) [h]; done)
  | (try dsimp only); (repeat' (first | (simp +contextual (maxDischargeDepth := 60) [h]; done) | split))

@[simp] theorem execNop_kept {s₀ : State} (th : ThreadRef) (f : FmtX) (s : State) (h : Kept s₀ s) :
    KeptOut s₀ (execNop th f s) := by
  unfold execNop
  first
  | (simp +contextual (maxDischargeDepth := 60) [h]; done)
  | (try dsimp only); (repeat' (first | (simp +contextual (maxDischargeDepth := 60) [h]; done) | split))

@[simp] theorem execTrap_kept {s₀ : State} (th : ThreadRef) (f : FmtX) (s : State) (h : Kept s₀ s) :
    KeptOut s₀ (execTrap th f s) := by
  unfold execTrap
  first
  | (simp +contextual (maxDischargeDepth := 60) [h]; done)
  | (try dsimp only); (repeat' (first | (simp +contextual (maxDischargeDepth := 60) [h]; done) | split))

@[simp] theorem execUndefinedOpcode_kept {s₀ : State} (th : ThreadRef) (op : BitVec 8) (s : State) (h : Kept s₀ s) :
    KeptOut s₀ (execUndefinedOpcode th op s) := by
  unfold execUndefinedOpcode
  first
  | (simp +contextual (maxDischargeDepth := 60) [h]; done)
  | (try dsimp only); (repeat' (first | (simp +contextual (maxDischargeDepth := 60) [h]; done) | split))

@[simp] theorem execAdd_kept {s₀ : State} (th : ThreadRef) (f : FmtR) (s : State) (h : Kept s₀ s) :
    KeptOut s₀ (execAdd th f s) := by
  unfold execAdd
  first
  | (simp +contextual (maxDischargeDepth := 60) [h]; done)
  | (try dsimp only); (repeat' (first | (simp +contextual (maxDischargeDepth := 60) [h]; done) | split))

@[simp] theorem execSub_kept {s₀ : State} (th : ThreadRef) (f : FmtR) (s : State) (h : Kept s₀ s) :
    KeptOut s₀ (execSub th f s) := by
  unfold execSub
  first
  | (simp +contextual (maxDischargeDepth := 60) [h]; done)
  | (try dsimp only); (repeat' (first | (simp +contextual (maxDischargeDepth := 60) [h]; done) | split))

@[simp] theorem execAnd_kept {s₀ : State} (th : ThreadRef) (f : FmtR) (s : State) (h : Kept s₀ s) :
    KeptOut s₀ (execAnd th f s) := by
  unfold execAnd
  first
  | (simp +contextual (maxDischargeDepth := 60) [h]; done)
  | (try dsimp only); (repeat' (first | (simp +contextual (maxDischargeDepth := 60) [h]; done) | split))

@[simp] theorem execOr_kept {s₀ : State} (th : ThreadRef) (f : FmtR) (s : State) (h : Kept s₀ s) :
    KeptOut s₀ (execOr th f s) := by
  unfold execOr
  first
  | (simp +contextual (maxDischargeDepth := 60) [h]; done)
  | (try dsimp only); (repeat' (first | (simp +contextual (maxDischargeDepth := 60) [h]; done) | split))

@[simp] theorem execXor_kept {s₀ : State} (th : ThreadRef) (f : FmtR) (s : State) (h : Kept s₀ s) :
    KeptOut s₀ (execXor th f s) := by
  unfold execXor
  first
  | (simp +contextual (maxDischargeDepth := 60) [h]; done)
  | (try dsimp only); (repeat' (first | (simp +contextual (maxDischargeDepth := 60) [h]; done) | split))

@[simp] theorem execShl_kept {s₀ : State} (th : ThreadRef) (f : FmtR) (s : State) (h : Kept s₀ s) :
    KeptOut s₀ (execShl th f s) := by
  unfold execShl
  first
  | (simp +contextual (maxDischargeDepth := 60) [h]; done)
  | (try dsimp only); (repeat' (first | (simp +contextual (maxDischargeDepth := 60) [h]; done) | split))

@[simp] theorem execShr_kept {s₀ : State} (th : ThreadRef) (f : FmtR) (s : State) (h : Kept s₀ s) :
    KeptOut s₀ (execShr th f s) := by
  unfold execShr
  first
  | (simp +contextual (maxDischargeDepth := 60) [h]; done)
  | (try dsimp only); (repeat' (first | (simp +contextual (maxDischargeDepth := 60) [h]; done) | split))

@[simp] theorem execSar_kept {s₀ : State} (th : ThreadRef) (f : FmtR) (s : State) (h : Kept s₀ s) :
    KeptOut s₀ (execSar th f s) := by
  unfold execSar
  first
  | (simp +contextual (maxDischargeDepth := 60) [h]; done)
  | (try dsimp only); (repeat' (first | (simp +contextual (maxDischargeDepth := 60) [h]; done) | split))

@[simp] theorem execMul_kept {s₀ : State} (th : ThreadRef) (f : FmtR) (s : State) (h : Kept s₀ s) :
    KeptOut s₀ (execMul th f s) := by
  unfold execMul
  first
  | (simp +contextual (maxDischargeDepth := 60) [h]; done)
  | (try dsimp only); (repeat' (first | (simp +contextual (maxDischargeDepth := 60) [h]; done) | split))

@[simp] theorem execMinu_kept {s₀ : State} (th : ThreadRef) (f : FmtR) (s : State) (h : Kept s₀ s) :
    KeptOut s₀ (execMinu th f s) := by
  unfold execMinu
  first
  | (simp +contextual (maxDischargeDepth := 60) [h]; done)
  | (try dsimp only); (repeat' (first | (simp +contextual (maxDischargeDepth := 60) [h]; done) | split))

@[simp] theorem execMaxu_kept {s₀ : State} (th : ThreadRef) (f : FmtR) (s : State) (h : Kept s₀ s) :
    KeptOut s₀ (execMaxu th f s) := by
  unfold execMaxu
  first
  | (simp +contextual (maxDischargeDepth := 60) [h]; done)
  | (try dsimp only); (repeat' (first | (simp +contextual (maxDischargeDepth := 60) [h]; done) | split))

@[simp] theorem execPopc_kept {s₀ : State} (th : ThreadRef) (f : FmtR) (s : State) (h : Kept s₀ s) :
    KeptOut s₀ (execPopc th f s) := by
  unfold execPopc
  first
  | (simp +contextual (maxDischargeDepth := 60) [h]; done)
  | (try dsimp only); (repeat' (first | (simp +contextual (maxDischargeDepth := 60) [h]; done) | split))

@[simp] theorem execClz_kept {s₀ : State} (th : ThreadRef) (f : FmtR) (s : State) (h : Kept s₀ s) :
    KeptOut s₀ (execClz th f s) := by
  unfold execClz
  first
  | (simp +contextual (maxDischargeDepth := 60) [h]; done)
  | (try dsimp only); (repeat' (first | (simp +contextual (maxDischargeDepth := 60) [h]; done) | split))

@[simp] theorem execCsumu_kept {s₀ : State} (th : ThreadRef) (f : FmtR) (s : State) (h : Kept s₀ s) :
    KeptOut s₀ (execCsumu th f s) := by
  unfold execCsumu
  first
  | (simp +contextual (maxDischargeDepth := 60) [h]; done)
  | (try dsimp only); (repeat' (first | (simp +contextual (maxDischargeDepth := 60) [h]; done) | split))

@[simp] theorem execAddi_kept {s₀ : State} (th : ThreadRef) (f : FmtI) (s : State) (h : Kept s₀ s) :
    KeptOut s₀ (execAddi th f s) := by
  unfold execAddi
  first
  | (simp +contextual (maxDischargeDepth := 60) [h]; done)
  | (try dsimp only); (repeat' (first | (simp +contextual (maxDischargeDepth := 60) [h]; done) | split))

@[simp] theorem execAndi_kept {s₀ : State} (th : ThreadRef) (f : FmtI) (s : State) (h : Kept s₀ s) :
    KeptOut s₀ (execAndi th f s) := by
  unfold execAndi
  first
  | (simp +contextual (maxDischargeDepth := 60) [h]; done)
  | (try dsimp only); (repeat' (first | (simp +contextual (maxDischargeDepth := 60) [h]; done) | split))

@[simp] theorem execOri_kept {s₀ : State} (th : ThreadRef) (f : FmtI) (s : State) (h : Kept s₀ s) :
    KeptOut s₀ (execOri th f s) := by
  unfold execOri
  first
  | (simp +contextual (maxDischargeDepth := 60) [h]; done)
  | (try dsimp only); (repeat' (first | (simp +contextual (maxDischargeDepth := 60) [h]; done) | split))

@[simp] theorem execXori_kept {s₀ : State} (th : ThreadRef) (f : FmtI) (s : State) (h : Kept s₀ s) :
    KeptOut s₀ (execXori th f s) := by
  unfold execXori
  first
  | (simp +contextual (maxDischargeDepth := 60) [h]; done)
  | (try dsimp only); (repeat' (first | (simp +contextual (maxDischargeDepth := 60) [h]; done) | split))

@[simp] theorem execShli_kept {s₀ : State} (th : ThreadRef) (f : FmtI) (s : State) (h : Kept s₀ s) :
    KeptOut s₀ (execShli th f s) := by
  unfold execShli
  first
  | (simp +contextual (maxDischargeDepth := 60) [h]; done)
  | (try dsimp only); (repeat' (first | (simp +contextual (maxDischargeDepth := 60) [h]; done) | split))

@[simp] theorem execShri_kept {s₀ : State} (th : ThreadRef) (f : FmtI) (s : State) (h : Kept s₀ s) :
    KeptOut s₀ (execShri th f s) := by
  unfold execShri
  first
  | (simp +contextual (maxDischargeDepth := 60) [h]; done)
  | (try dsimp only); (repeat' (first | (simp +contextual (maxDischargeDepth := 60) [h]; done) | split))

@[simp] theorem execSari_kept {s₀ : State} (th : ThreadRef) (f : FmtI) (s : State) (h : Kept s₀ s) :
    KeptOut s₀ (execSari th f s) := by
  unfold execSari
  first
  | (simp +contextual (maxDischargeDepth := 60) [h]; done)
  | (try dsimp only); (repeat' (first | (simp +contextual (maxDischargeDepth := 60) [h]; done) | split))

@[simp] theorem execMovi_kept {s₀ : State} (th : ThreadRef) (f : FmtI) (s : State) (h : Kept s₀ s) :
    KeptOut s₀ (execMovi th f s) := by
  unfold execMovi
  first
  | (simp +contextual (maxDischargeDepth := 60) [h]; done)
  | (try dsimp only); (repeat' (first | (simp +contextual (maxDischargeDepth := 60) [h]; done) | split))

@[simp] theorem execMovhi_kept {s₀ : State} (th : ThreadRef) (f : FmtI) (s : State) (h : Kept s₀ s) :
    KeptOut s₀ (execMovhi th f s) := by
  unfold execMovhi
  first
  | (simp +contextual (maxDischargeDepth := 60) [h]; done)
  | (try dsimp only); (repeat' (first | (simp +contextual (maxDischargeDepth := 60) [h]; done) | split))

@[simp] theorem execExt_kept {s₀ : State} (th : ThreadRef) (f : FmtF) (s : State) (h : Kept s₀ s) :
    KeptOut s₀ (execExt th f s) := by
  unfold execExt
  first
  | (simp +contextual (maxDischargeDepth := 60) [h]; done)
  | (try dsimp only); (repeat' (first | (simp +contextual (maxDischargeDepth := 60) [h]; done) | split))

@[simp] theorem execIns_kept {s₀ : State} (th : ThreadRef) (f : FmtF) (s : State) (h : Kept s₀ s) :
    KeptOut s₀ (execIns th f s) := by
  unfold execIns
  first
  | (simp +contextual (maxDischargeDepth := 60) [h]; done)
  | (try dsimp only); (repeat' (first | (simp +contextual (maxDischargeDepth := 60) [h]; done) | split))

@[simp] theorem execHash_kept {s₀ : State} (th : ThreadRef) (f : FmtH) (s : State) (h : Kept s₀ s) :
    KeptOut s₀ (execHash th f s) := by
  unfold execHash
  first
  | (simp +contextual (maxDischargeDepth := 60) [h]; done)
  | (try dsimp only); (repeat' (first | (simp +contextual (maxDischargeDepth := 60) [h]; done) | split))

@[simp] theorem branch_kept {s₀ : State} (th : ThreadRef) (op : Nat) (f : FmtB) (c : Thread → Bool) (s : State) (h :
    Kept s₀ s) :
    Kept s₀ (branch th op f c s) := by
  unfold branch
  first
  | (simp +contextual (maxDischargeDepth := 60) [h]; done)
  | (try dsimp only); (repeat' (first | (simp +contextual (maxDischargeDepth := 60) [h]; done) | split))

@[simp] theorem branchR_kept {s₀ : State} (th : ThreadRef) (op : Nat) (f : FmtB) (c : Word → Word → Bool) (s :
    State) (h : Kept s₀ s) :
    Kept s₀ (branchR th op f c s) := by
  unfold branchR
  first
  | (simp +contextual (maxDischargeDepth := 60) [h]; done)
  | (try dsimp only); (repeat' (first | (simp +contextual (maxDischargeDepth := 60) [h]; done) | split))

@[simp] theorem branchI_kept {s₀ : State} (th : ThreadRef) (op : Nat) (f : FmtB) (c : Nat → Nat → Bool) (s : State)
    (h : Kept s₀ s) :
    Kept s₀ (branchI th op f c s) := by
  unfold branchI
  first
  | (simp +contextual (maxDischargeDepth := 60) [h]; done)
  | (try dsimp only); (repeat' (first | (simp +contextual (maxDischargeDepth := 60) [h]; done) | split))

@[simp] theorem execJmp_kept {s₀ : State} (th : ThreadRef) (f : FmtB) (s : State) (h : Kept s₀ s) :
    KeptOut s₀ (execJmp th f s) := by
  unfold execJmp
  first
  | (simp +contextual (maxDischargeDepth := 60) [h]; done)
  | (try dsimp only); (repeat' (first | (simp +contextual (maxDischargeDepth := 60) [h]; done) | split))

@[simp] theorem execCall_kept {s₀ : State} (th : ThreadRef) (f : FmtB) (s : State) (h : Kept s₀ s) :
    KeptOut s₀ (execCall th f s) := by
  unfold execCall
  first
  | (simp +contextual (maxDischargeDepth := 60) [h]; done)
  | (try dsimp only); (repeat' (first | (simp +contextual (maxDischargeDepth := 60) [h]; done) | split))

@[simp] theorem execRet_kept {s₀ : State} (th : ThreadRef) (f : FmtB) (s : State) (h : Kept s₀ s) :
    KeptOut s₀ (execRet th f s) := by
  unfold execRet
  first
  | (simp +contextual (maxDischargeDepth := 60) [h]; done)
  | (try dsimp only); (repeat' (first | (simp +contextual (maxDischargeDepth := 60) [h]; done) | split))

@[simp] theorem execJt_kept {s₀ : State} (th : ThreadRef) (f : FmtI) (s : State) (h : Kept s₀ s) :
    KeptOut s₀ (execJt th f s) := by
  unfold execJt
  first
  | (simp +contextual (maxDischargeDepth := 60) [h]; done)
  | (try dsimp only); (repeat' (first | (simp +contextual (maxDischargeDepth := 60) [h]; done) | split))

@[simp] theorem execBeq_kept {s₀ : State} (th : ThreadRef) (f : FmtB) (s : State) (h : Kept s₀ s) :
    KeptOut s₀ (execBeq th f s) := by
  unfold execBeq
  first
  | (simp +contextual (maxDischargeDepth := 60) [h]; done)
  | (try dsimp only); (repeat' (first | (simp +contextual (maxDischargeDepth := 60) [h]; done) | split))

@[simp] theorem execBne_kept {s₀ : State} (th : ThreadRef) (f : FmtB) (s : State) (h : Kept s₀ s) :
    KeptOut s₀ (execBne th f s) := by
  unfold execBne
  first
  | (simp +contextual (maxDischargeDepth := 60) [h]; done)
  | (try dsimp only); (repeat' (first | (simp +contextual (maxDischargeDepth := 60) [h]; done) | split))

@[simp] theorem execBltu_kept {s₀ : State} (th : ThreadRef) (f : FmtB) (s : State) (h : Kept s₀ s) :
    KeptOut s₀ (execBltu th f s) := by
  unfold execBltu
  first
  | (simp +contextual (maxDischargeDepth := 60) [h]; done)
  | (try dsimp only); (repeat' (first | (simp +contextual (maxDischargeDepth := 60) [h]; done) | split))

@[simp] theorem execBgeu_kept {s₀ : State} (th : ThreadRef) (f : FmtB) (s : State) (h : Kept s₀ s) :
    KeptOut s₀ (execBgeu th f s) := by
  unfold execBgeu
  first
  | (simp +contextual (maxDischargeDepth := 60) [h]; done)
  | (try dsimp only); (repeat' (first | (simp +contextual (maxDischargeDepth := 60) [h]; done) | split))

@[simp] theorem execBlt_kept {s₀ : State} (th : ThreadRef) (f : FmtB) (s : State) (h : Kept s₀ s) :
    KeptOut s₀ (execBlt th f s) := by
  unfold execBlt
  first
  | (simp +contextual (maxDischargeDepth := 60) [h]; done)
  | (try dsimp only); (repeat' (first | (simp +contextual (maxDischargeDepth := 60) [h]; done) | split))

@[simp] theorem execBge_kept {s₀ : State} (th : ThreadRef) (f : FmtB) (s : State) (h : Kept s₀ s) :
    KeptOut s₀ (execBge th f s) := by
  unfold execBge
  first
  | (simp +contextual (maxDischargeDepth := 60) [h]; done)
  | (try dsimp only); (repeat' (first | (simp +contextual (maxDischargeDepth := 60) [h]; done) | split))

@[simp] theorem execBeqi_kept {s₀ : State} (th : ThreadRef) (f : FmtB) (s : State) (h : Kept s₀ s) :
    KeptOut s₀ (execBeqi th f s) := by
  unfold execBeqi
  first
  | (simp +contextual (maxDischargeDepth := 60) [h]; done)
  | (try dsimp only); (repeat' (first | (simp +contextual (maxDischargeDepth := 60) [h]; done) | split))

@[simp] theorem execBnei_kept {s₀ : State} (th : ThreadRef) (f : FmtB) (s : State) (h : Kept s₀ s) :
    KeptOut s₀ (execBnei th f s) := by
  unfold execBnei
  first
  | (simp +contextual (maxDischargeDepth := 60) [h]; done)
  | (try dsimp only); (repeat' (first | (simp +contextual (maxDischargeDepth := 60) [h]; done) | split))

@[simp] theorem execBbs_kept {s₀ : State} (th : ThreadRef) (f : FmtB) (s : State) (h : Kept s₀ s) :
    KeptOut s₀ (execBbs th f s) := by
  unfold execBbs
  first
  | (simp +contextual (maxDischargeDepth := 60) [h]; done)
  | (try dsimp only); (repeat' (first | (simp +contextual (maxDischargeDepth := 60) [h]; done) | split))

@[simp] theorem execBbc_kept {s₀ : State} (th : ThreadRef) (f : FmtB) (s : State) (h : Kept s₀ s) :
    KeptOut s₀ (execBbc th f s) := by
  unfold execBbc
  first
  | (simp +contextual (maxDischargeDepth := 60) [h]; done)
  | (try dsimp only); (repeat' (first | (simp +contextual (maxDischargeDepth := 60) [h]; done) | split))

@[simp] theorem execBltui_kept {s₀ : State} (th : ThreadRef) (f : FmtB) (s : State) (h : Kept s₀ s) :
    KeptOut s₀ (execBltui th f s) := by
  unfold execBltui
  first
  | (simp +contextual (maxDischargeDepth := 60) [h]; done)
  | (try dsimp only); (repeat' (first | (simp +contextual (maxDischargeDepth := 60) [h]; done) | split))

@[simp] theorem execBgeui_kept {s₀ : State} (th : ThreadRef) (f : FmtB) (s : State) (h : Kept s₀ s) :
    KeptOut s₀ (execBgeui th f s) := by
  unfold execBgeui
  first
  | (simp +contextual (maxDischargeDepth := 60) [h]; done)
  | (try dsimp only); (repeat' (first | (simp +contextual (maxDischargeDepth := 60) [h]; done) | split))

end Sys2Proof.Laws
end

