-- ==== Sys2Proof/Laws/Memory.lean ====
section
/-! SUPPORT. The DDR5 and the HBM3E as addressed memories: the canonical form of their bytes holds at reset and after
every write, and what a read of one byte gives after a write to memory that is not lost. -/

namespace Sys2Proof.Laws

open Sys2Proof Sys2Proof.Machine

/-- Both memories are in canonical form. -/
def MemCanonical (s : State) : Prop := mwf 0 s.mcd.bytes = true ∧ mwf 0 s.mch.bytes = true

theorem memCanonical_reset : MemCanonical State.reset := ⟨rfl, rfl⟩

/-- A write of a run of bytes, each of them kept or dropped by a test, keeps the canonical form. -/
theorem mwf_foldl_mset (p : Nat → Prop) [DecidablePred p] (a : Nat) (l : List (Byte × Nat)) (b : SMap Byte)
    (h : mwf 0 b = true) :
    mwf 0 (l.foldl (fun b e => if p (a + e.2) then b else mset 0 b (a + e.2) e.1) b) = true := by
  induction l generalizing b with
  | nil => exact h
  | cons e t ih =>
    refine ih _ ?_
    beta_reduce
    split_ifs
    · exact h
    · exact mwf_mset 0 b _ _ h

/-- A memory write keeps the canonical form of both memories. -/
theorem memCanonical_memWrite (m : MemCtl) (a : Nat) (bs : Bytes) (s : State) (h : MemCanonical s) :
    MemCanonical (memWrite m a bs s) := by
  cases m
  · exact ⟨mwf_foldl_mset (fun x => memLost s .mcd x ∨ memSize s .mcd ≤ x) a _ _ h.1, h.2⟩
  · exact ⟨h.1, mwf_foldl_mset (fun x => memLost s .mch x ∨ memSize s .mch ≤ x) a _ _ h.2⟩

/-- A write of bytes leaves every byte outside its run as it was. -/
theorem mget_foldl_mset_ne (p : Nat → Prop) [DecidablePred p] (a j : Nat) (l : List (Byte × Nat)) (b : SMap Byte)
    (h : ∀ e ∈ l, j ≠ a + e.2) :
    mget 0 (l.foldl (fun b e => if p (a + e.2) then b else mset 0 b (a + e.2) e.1) b) j = mget 0 b j := by
  induction l generalizing b with
  | nil => rfl
  | cons e t ih =>
    rw [List.foldl_cons, ih _ (fun x hx => h x (List.mem_cons_of_mem _ hx))]
    split_ifs
    · rfl
    · exact mget_mset_ne 0 b _ (h e List.mem_cons_self)

/-- The read of one byte outside a write's run. -/
theorem memWrite_byte_ne (m : MemCtl) (a j : Nat) (bs : Bytes) (s : State) (h : j < a ∨ a + bs.length ≤ j) :
    mget 0 (memOf (memWrite m a bs s) m).bytes j = mget 0 (memOf s m).bytes j := by
  have hne : ∀ e ∈ bs.zipIdx, j ≠ a + e.2 := by
    intro e he
    have := List.snd_lt_of_mem_zipIdx he
    omega
  cases m
  · exact mget_foldl_mset_ne (fun x => memLost s .mcd x ∨ memSize s .mcd ≤ x) a j _ _ hne
  · exact mget_foldl_mset_ne (fun x => memLost s .mch x ∨ memSize s .mch ≤ x) a j _ _ hne

end Sys2Proof.Laws
end

