-- ==== Sys2Proof/Laws/State.lean ====
section
/-! SUPPORT. What each plain update of the state leaves unchanged, one lemma per field per update, and what it makes of
the field it updates. -/

set_option linter.all false

namespace Sys2Proof.Laws
open Sys2Proof Sys2Proof.Machine

@[simp] theorem rset_pending (s : State) (r : Reg) (i : Nat) (v : Word) : (rset s r i v).pending = s.pending := rfl
@[simp] theorem rset_was (s : State) (r : Reg) (i : Nat) (v : Word) : (rset s r i v).was = s.was := rfl
@[simp] theorem rset_lastRead (s : State) (r : Reg) (i : Nat) (v : Word) : (rset s r i v).lastRead = s.lastRead := rfl
@[simp] theorem rset_out (s : State) (r : Reg) (i : Nat) (v : Word) : (rset s r i v).out = s.out := rfl
@[simp] theorem rset_freeCtr (s : State) (r : Reg) (i : Nat) (v : Word) : (rset s r i v).freeCtr = s.freeCtr := rfl
@[simp] theorem rset_mgmtDown (s : State) (r : Reg) (i : Nat) (v : Word) : (rset s r i v).mgmtDown = s.mgmtDown := rfl
@[simp] theorem rset_bridgeUp (s : State) (r : Reg) (i : Nat) (v : Word) : (rset s r i v).bridgeUp = s.bridgeUp := rfl
@[simp] theorem rset_tau (s : State) (r : Reg) (i : Nat) (v : Word) : (rset s r i v).tau = s.tau := rfl
@[simp] theorem rset_sen (s : State) (r : Reg) (i : Nat) (v : Word) : (rset s r i v).sen = s.sen := rfl
@[simp] theorem rset_ppu (s : State) (r : Reg) (i : Nat) (v : Word) : (rset s r i v).ppu = s.ppu := rfl
@[simp] theorem rset_lkp (s : State) (r : Reg) (i : Nat) (v : Word) : (rset s r i v).lkp = s.lkp := rfl
@[simp] theorem rset_tcam (s : State) (r : Reg) (i : Nat) (v : Word) : (rset s r i v).tcam = s.tcam := rfl
@[simp] theorem rset_err (s : State) (r : Reg) (i : Nat) (v : Word) : (rset s r i v).err = s.err := rfl
@[simp] theorem rset_gau (s : State) (r : Reg) (i : Nat) (v : Word) : (rset s r i v).gau = s.gau := rfl
@[simp] theorem rset_liu (s : State) (r : Reg) (i : Nat) (v : Word) : (rset s r i v).liu = s.liu := rfl
@[simp] theorem rset_tmg (s : State) (r : Reg) (i : Nat) (v : Word) : (rset s r i v).tmg = s.tmg := rfl
@[simp] theorem rset_bpm (s : State) (r : Reg) (i : Nat) (v : Word) : (rset s r i v).bpm = s.bpm := rfl
@[simp] theorem rset_fab (s : State) (r : Reg) (i : Nat) (v : Word) : (rset s r i v).fab = s.fab := rfl
@[simp] theorem rset_mcd (s : State) (r : Reg) (i : Nat) (v : Word) : (rset s r i v).mcd = s.mcd := rfl
@[simp] theorem rset_mch (s : State) (r : Reg) (i : Nat) (v : Word) : (rset s r i v).mch = s.mch := rfl
@[simp] theorem rset_cph (s : State) (r : Reg) (i : Nat) (v : Word) : (rset s r i v).cph = s.cph := rfl
@[simp] theorem rset_hif (s : State) (r : Reg) (i : Nat) (v : Word) : (rset s r i v).hif = s.hif := rfl
@[simp] theorem rset_csq (s : State) (r : Reg) (i : Nat) (v : Word) : (rset s r i v).csq = s.csq := rfl
@[simp] theorem rset_hrt (s : State) (r : Reg) (i : Nat) (v : Word) : (rset s r i v).hrt = s.hrt := rfl
@[simp] theorem rset_pins (s : State) (r : Reg) (i : Nat) (v : Word) : (rset s r i v).pins = s.pins := rfl

@[simp] theorem rsetF_pending (s : State) (r : Reg) (i hi lo v : Nat) : (rsetF s r i hi lo v).pending = s.pending := rfl
@[simp] theorem rsetF_was (s : State) (r : Reg) (i hi lo v : Nat) : (rsetF s r i hi lo v).was = s.was := rfl
@[simp] theorem rsetF_lastRead (s : State) (r : Reg) (i hi lo v : Nat) : (rsetF s r i hi lo v).lastRead = s.lastRead := rfl
@[simp] theorem rsetF_out (s : State) (r : Reg) (i hi lo v : Nat) : (rsetF s r i hi lo v).out = s.out := rfl
@[simp] theorem rsetF_freeCtr (s : State) (r : Reg) (i hi lo v : Nat) : (rsetF s r i hi lo v).freeCtr = s.freeCtr := rfl
@[simp] theorem rsetF_mgmtDown (s : State) (r : Reg) (i hi lo v : Nat) : (rsetF s r i hi lo v).mgmtDown = s.mgmtDown := rfl
@[simp] theorem rsetF_bridgeUp (s : State) (r : Reg) (i hi lo v : Nat) : (rsetF s r i hi lo v).bridgeUp = s.bridgeUp := rfl
@[simp] theorem rsetF_tau (s : State) (r : Reg) (i hi lo v : Nat) : (rsetF s r i hi lo v).tau = s.tau := rfl
@[simp] theorem rsetF_sen (s : State) (r : Reg) (i hi lo v : Nat) : (rsetF s r i hi lo v).sen = s.sen := rfl
@[simp] theorem rsetF_ppu (s : State) (r : Reg) (i hi lo v : Nat) : (rsetF s r i hi lo v).ppu = s.ppu := rfl
@[simp] theorem rsetF_lkp (s : State) (r : Reg) (i hi lo v : Nat) : (rsetF s r i hi lo v).lkp = s.lkp := rfl
@[simp] theorem rsetF_tcam (s : State) (r : Reg) (i hi lo v : Nat) : (rsetF s r i hi lo v).tcam = s.tcam := rfl
@[simp] theorem rsetF_err (s : State) (r : Reg) (i hi lo v : Nat) : (rsetF s r i hi lo v).err = s.err := rfl
@[simp] theorem rsetF_gau (s : State) (r : Reg) (i hi lo v : Nat) : (rsetF s r i hi lo v).gau = s.gau := rfl
@[simp] theorem rsetF_liu (s : State) (r : Reg) (i hi lo v : Nat) : (rsetF s r i hi lo v).liu = s.liu := rfl
@[simp] theorem rsetF_tmg (s : State) (r : Reg) (i hi lo v : Nat) : (rsetF s r i hi lo v).tmg = s.tmg := rfl
@[simp] theorem rsetF_bpm (s : State) (r : Reg) (i hi lo v : Nat) : (rsetF s r i hi lo v).bpm = s.bpm := rfl
@[simp] theorem rsetF_fab (s : State) (r : Reg) (i hi lo v : Nat) : (rsetF s r i hi lo v).fab = s.fab := rfl
@[simp] theorem rsetF_mcd (s : State) (r : Reg) (i hi lo v : Nat) : (rsetF s r i hi lo v).mcd = s.mcd := rfl
@[simp] theorem rsetF_mch (s : State) (r : Reg) (i hi lo v : Nat) : (rsetF s r i hi lo v).mch = s.mch := rfl
@[simp] theorem rsetF_cph (s : State) (r : Reg) (i hi lo v : Nat) : (rsetF s r i hi lo v).cph = s.cph := rfl
@[simp] theorem rsetF_hif (s : State) (r : Reg) (i hi lo v : Nat) : (rsetF s r i hi lo v).hif = s.hif := rfl
@[simp] theorem rsetF_csq (s : State) (r : Reg) (i hi lo v : Nat) : (rsetF s r i hi lo v).csq = s.csq := rfl
@[simp] theorem rsetF_hrt (s : State) (r : Reg) (i hi lo v : Nat) : (rsetF s r i hi lo v).hrt = s.hrt := rfl
@[simp] theorem rsetF_pins (s : State) (r : Reg) (i hi lo v : Nat) : (rsetF s r i hi lo v).pins = s.pins := rfl

@[simp] theorem rcount_pending (s : State) (r : Reg) (i hi lo n : Nat) : (rcount s r i hi lo n).pending = s.pending := rfl
@[simp] theorem rcount_was (s : State) (r : Reg) (i hi lo n : Nat) : (rcount s r i hi lo n).was = s.was := rfl
@[simp] theorem rcount_lastRead (s : State) (r : Reg) (i hi lo n : Nat) : (rcount s r i hi lo n).lastRead = s.lastRead := rfl
@[simp] theorem rcount_out (s : State) (r : Reg) (i hi lo n : Nat) : (rcount s r i hi lo n).out = s.out := rfl
@[simp] theorem rcount_freeCtr (s : State) (r : Reg) (i hi lo n : Nat) : (rcount s r i hi lo n).freeCtr = s.freeCtr := rfl
@[simp] theorem rcount_mgmtDown (s : State) (r : Reg) (i hi lo n : Nat) : (rcount s r i hi lo n).mgmtDown = s.mgmtDown := rfl
@[simp] theorem rcount_bridgeUp (s : State) (r : Reg) (i hi lo n : Nat) : (rcount s r i hi lo n).bridgeUp = s.bridgeUp := rfl
@[simp] theorem rcount_tau (s : State) (r : Reg) (i hi lo n : Nat) : (rcount s r i hi lo n).tau = s.tau := rfl
@[simp] theorem rcount_sen (s : State) (r : Reg) (i hi lo n : Nat) : (rcount s r i hi lo n).sen = s.sen := rfl
@[simp] theorem rcount_ppu (s : State) (r : Reg) (i hi lo n : Nat) : (rcount s r i hi lo n).ppu = s.ppu := rfl
@[simp] theorem rcount_lkp (s : State) (r : Reg) (i hi lo n : Nat) : (rcount s r i hi lo n).lkp = s.lkp := rfl
@[simp] theorem rcount_tcam (s : State) (r : Reg) (i hi lo n : Nat) : (rcount s r i hi lo n).tcam = s.tcam := rfl
@[simp] theorem rcount_err (s : State) (r : Reg) (i hi lo n : Nat) : (rcount s r i hi lo n).err = s.err := rfl
@[simp] theorem rcount_gau (s : State) (r : Reg) (i hi lo n : Nat) : (rcount s r i hi lo n).gau = s.gau := rfl
@[simp] theorem rcount_liu (s : State) (r : Reg) (i hi lo n : Nat) : (rcount s r i hi lo n).liu = s.liu := rfl
@[simp] theorem rcount_tmg (s : State) (r : Reg) (i hi lo n : Nat) : (rcount s r i hi lo n).tmg = s.tmg := rfl
@[simp] theorem rcount_bpm (s : State) (r : Reg) (i hi lo n : Nat) : (rcount s r i hi lo n).bpm = s.bpm := rfl
@[simp] theorem rcount_fab (s : State) (r : Reg) (i hi lo n : Nat) : (rcount s r i hi lo n).fab = s.fab := rfl
@[simp] theorem rcount_mcd (s : State) (r : Reg) (i hi lo n : Nat) : (rcount s r i hi lo n).mcd = s.mcd := rfl
@[simp] theorem rcount_mch (s : State) (r : Reg) (i hi lo n : Nat) : (rcount s r i hi lo n).mch = s.mch := rfl
@[simp] theorem rcount_cph (s : State) (r : Reg) (i hi lo n : Nat) : (rcount s r i hi lo n).cph = s.cph := rfl
@[simp] theorem rcount_hif (s : State) (r : Reg) (i hi lo n : Nat) : (rcount s r i hi lo n).hif = s.hif := rfl
@[simp] theorem rcount_csq (s : State) (r : Reg) (i hi lo n : Nat) : (rcount s r i hi lo n).csq = s.csq := rfl
@[simp] theorem rcount_hrt (s : State) (r : Reg) (i hi lo n : Nat) : (rcount s r i hi lo n).hrt = s.hrt := rfl
@[simp] theorem rcount_pins (s : State) (r : Reg) (i hi lo n : Nat) : (rcount s r i hi lo n).pins = s.pins := rfl

@[simp] theorem emit_pending (e : OutEvent) (s : State) : (emit e s).pending = s.pending := rfl
@[simp] theorem emit_regs (e : OutEvent) (s : State) : (emit e s).regs = s.regs := rfl
@[simp] theorem emit_was (e : OutEvent) (s : State) : (emit e s).was = s.was := rfl
@[simp] theorem emit_lastRead (e : OutEvent) (s : State) : (emit e s).lastRead = s.lastRead := rfl
@[simp] theorem emit_freeCtr (e : OutEvent) (s : State) : (emit e s).freeCtr = s.freeCtr := rfl
@[simp] theorem emit_mgmtDown (e : OutEvent) (s : State) : (emit e s).mgmtDown = s.mgmtDown := rfl
@[simp] theorem emit_bridgeUp (e : OutEvent) (s : State) : (emit e s).bridgeUp = s.bridgeUp := rfl
@[simp] theorem emit_tau (e : OutEvent) (s : State) : (emit e s).tau = s.tau := rfl
@[simp] theorem emit_sen (e : OutEvent) (s : State) : (emit e s).sen = s.sen := rfl
@[simp] theorem emit_ppu (e : OutEvent) (s : State) : (emit e s).ppu = s.ppu := rfl
@[simp] theorem emit_lkp (e : OutEvent) (s : State) : (emit e s).lkp = s.lkp := rfl
@[simp] theorem emit_tcam (e : OutEvent) (s : State) : (emit e s).tcam = s.tcam := rfl
@[simp] theorem emit_err (e : OutEvent) (s : State) : (emit e s).err = s.err := rfl
@[simp] theorem emit_gau (e : OutEvent) (s : State) : (emit e s).gau = s.gau := rfl
@[simp] theorem emit_liu (e : OutEvent) (s : State) : (emit e s).liu = s.liu := rfl
@[simp] theorem emit_tmg (e : OutEvent) (s : State) : (emit e s).tmg = s.tmg := rfl
@[simp] theorem emit_bpm (e : OutEvent) (s : State) : (emit e s).bpm = s.bpm := rfl
@[simp] theorem emit_fab (e : OutEvent) (s : State) : (emit e s).fab = s.fab := rfl
@[simp] theorem emit_mcd (e : OutEvent) (s : State) : (emit e s).mcd = s.mcd := rfl
@[simp] theorem emit_mch (e : OutEvent) (s : State) : (emit e s).mch = s.mch := rfl
@[simp] theorem emit_cph (e : OutEvent) (s : State) : (emit e s).cph = s.cph := rfl
@[simp] theorem emit_hif (e : OutEvent) (s : State) : (emit e s).hif = s.hif := rfl
@[simp] theorem emit_csq (e : OutEvent) (s : State) : (emit e s).csq = s.csq := rfl
@[simp] theorem emit_hrt (e : OutEvent) (s : State) : (emit e s).hrt = s.hrt := rfl
@[simp] theorem emit_pins (e : OutEvent) (s : State) : (emit e s).pins = s.pins := rfl

@[simp] theorem drawn_pending (s : State) : (drawn s).pending = s.pending := rfl
@[simp] theorem drawn_regs (s : State) : (drawn s).regs = s.regs := rfl
@[simp] theorem drawn_was (s : State) : (drawn s).was = s.was := rfl
@[simp] theorem drawn_lastRead (s : State) : (drawn s).lastRead = s.lastRead := rfl
@[simp] theorem drawn_out (s : State) : (drawn s).out = s.out := rfl
@[simp] theorem drawn_mgmtDown (s : State) : (drawn s).mgmtDown = s.mgmtDown := rfl
@[simp] theorem drawn_bridgeUp (s : State) : (drawn s).bridgeUp = s.bridgeUp := rfl
@[simp] theorem drawn_tau (s : State) : (drawn s).tau = s.tau := rfl
@[simp] theorem drawn_sen (s : State) : (drawn s).sen = s.sen := rfl
@[simp] theorem drawn_ppu (s : State) : (drawn s).ppu = s.ppu := rfl
@[simp] theorem drawn_lkp (s : State) : (drawn s).lkp = s.lkp := rfl
@[simp] theorem drawn_tcam (s : State) : (drawn s).tcam = s.tcam := rfl
@[simp] theorem drawn_err (s : State) : (drawn s).err = s.err := rfl
@[simp] theorem drawn_gau (s : State) : (drawn s).gau = s.gau := rfl
@[simp] theorem drawn_liu (s : State) : (drawn s).liu = s.liu := rfl
@[simp] theorem drawn_tmg (s : State) : (drawn s).tmg = s.tmg := rfl
@[simp] theorem drawn_bpm (s : State) : (drawn s).bpm = s.bpm := rfl
@[simp] theorem drawn_fab (s : State) : (drawn s).fab = s.fab := rfl
@[simp] theorem drawn_mcd (s : State) : (drawn s).mcd = s.mcd := rfl
@[simp] theorem drawn_mch (s : State) : (drawn s).mch = s.mch := rfl
@[simp] theorem drawn_cph (s : State) : (drawn s).cph = s.cph := rfl
@[simp] theorem drawn_hif (s : State) : (drawn s).hif = s.hif := rfl
@[simp] theorem drawn_csq (s : State) : (drawn s).csq = s.csq := rfl
@[simp] theorem drawn_hrt (s : State) : (drawn s).hrt = s.hrt := rfl
@[simp] theorem drawn_pins (s : State) : (drawn s).pins = s.pins := rfl

@[simp] theorem answer_pending (w : Word) (s : State) : (answer w s).pending = s.pending := rfl
@[simp] theorem answer_regs (w : Word) (s : State) : (answer w s).regs = s.regs := rfl
@[simp] theorem answer_was (w : Word) (s : State) : (answer w s).was = s.was := rfl
@[simp] theorem answer_out (w : Word) (s : State) : (answer w s).out = s.out := rfl
@[simp] theorem answer_freeCtr (w : Word) (s : State) : (answer w s).freeCtr = s.freeCtr := rfl
@[simp] theorem answer_mgmtDown (w : Word) (s : State) : (answer w s).mgmtDown = s.mgmtDown := rfl
@[simp] theorem answer_bridgeUp (w : Word) (s : State) : (answer w s).bridgeUp = s.bridgeUp := rfl
@[simp] theorem answer_tau (w : Word) (s : State) : (answer w s).tau = s.tau := rfl
@[simp] theorem answer_sen (w : Word) (s : State) : (answer w s).sen = s.sen := rfl
@[simp] theorem answer_ppu (w : Word) (s : State) : (answer w s).ppu = s.ppu := rfl
@[simp] theorem answer_lkp (w : Word) (s : State) : (answer w s).lkp = s.lkp := rfl
@[simp] theorem answer_tcam (w : Word) (s : State) : (answer w s).tcam = s.tcam := rfl
@[simp] theorem answer_err (w : Word) (s : State) : (answer w s).err = s.err := rfl
@[simp] theorem answer_gau (w : Word) (s : State) : (answer w s).gau = s.gau := rfl
@[simp] theorem answer_liu (w : Word) (s : State) : (answer w s).liu = s.liu := rfl
@[simp] theorem answer_tmg (w : Word) (s : State) : (answer w s).tmg = s.tmg := rfl
@[simp] theorem answer_bpm (w : Word) (s : State) : (answer w s).bpm = s.bpm := rfl
@[simp] theorem answer_fab (w : Word) (s : State) : (answer w s).fab = s.fab := rfl
@[simp] theorem answer_mcd (w : Word) (s : State) : (answer w s).mcd = s.mcd := rfl
@[simp] theorem answer_mch (w : Word) (s : State) : (answer w s).mch = s.mch := rfl
@[simp] theorem answer_cph (w : Word) (s : State) : (answer w s).cph = s.cph := rfl
@[simp] theorem answer_hif (w : Word) (s : State) : (answer w s).hif = s.hif := rfl
@[simp] theorem answer_csq (w : Word) (s : State) : (answer w s).csq = s.csq := rfl
@[simp] theorem answer_hrt (w : Word) (s : State) : (answer w s).hrt = s.hrt := rfl
@[simp] theorem answer_pins (w : Word) (s : State) : (answer w s).pins = s.pins := rfl

@[simp] theorem unitSet_pending (s : State) (k u : Nat) (x : UnitSt) : (unitSet s k u x).pending = s.pending := rfl
@[simp] theorem unitSet_regs (s : State) (k u : Nat) (x : UnitSt) : (unitSet s k u x).regs = s.regs := rfl
@[simp] theorem unitSet_was (s : State) (k u : Nat) (x : UnitSt) : (unitSet s k u x).was = s.was := rfl
@[simp] theorem unitSet_lastRead (s : State) (k u : Nat) (x : UnitSt) : (unitSet s k u x).lastRead = s.lastRead := rfl
@[simp] theorem unitSet_out (s : State) (k u : Nat) (x : UnitSt) : (unitSet s k u x).out = s.out := rfl
@[simp] theorem unitSet_freeCtr (s : State) (k u : Nat) (x : UnitSt) : (unitSet s k u x).freeCtr = s.freeCtr := rfl
@[simp] theorem unitSet_mgmtDown (s : State) (k u : Nat) (x : UnitSt) : (unitSet s k u x).mgmtDown = s.mgmtDown := rfl
@[simp] theorem unitSet_bridgeUp (s : State) (k u : Nat) (x : UnitSt) : (unitSet s k u x).bridgeUp = s.bridgeUp := rfl
@[simp] theorem unitSet_tau (s : State) (k u : Nat) (x : UnitSt) : (unitSet s k u x).tau = s.tau := rfl
@[simp] theorem unitSet_sen (s : State) (k u : Nat) (x : UnitSt) : (unitSet s k u x).sen = s.sen := rfl
@[simp] theorem unitSet_ppu (s : State) (k u : Nat) (x : UnitSt) : (unitSet s k u x).ppu = s.ppu := rfl
@[simp] theorem unitSet_lkp (s : State) (k u : Nat) (x : UnitSt) : (unitSet s k u x).lkp = s.lkp := rfl
@[simp] theorem unitSet_tcam (s : State) (k u : Nat) (x : UnitSt) : (unitSet s k u x).tcam = s.tcam := rfl
@[simp] theorem unitSet_gau (s : State) (k u : Nat) (x : UnitSt) : (unitSet s k u x).gau = s.gau := rfl
@[simp] theorem unitSet_liu (s : State) (k u : Nat) (x : UnitSt) : (unitSet s k u x).liu = s.liu := rfl
@[simp] theorem unitSet_tmg (s : State) (k u : Nat) (x : UnitSt) : (unitSet s k u x).tmg = s.tmg := rfl
@[simp] theorem unitSet_bpm (s : State) (k u : Nat) (x : UnitSt) : (unitSet s k u x).bpm = s.bpm := rfl
@[simp] theorem unitSet_fab (s : State) (k u : Nat) (x : UnitSt) : (unitSet s k u x).fab = s.fab := rfl
@[simp] theorem unitSet_mcd (s : State) (k u : Nat) (x : UnitSt) : (unitSet s k u x).mcd = s.mcd := rfl
@[simp] theorem unitSet_mch (s : State) (k u : Nat) (x : UnitSt) : (unitSet s k u x).mch = s.mch := rfl
@[simp] theorem unitSet_cph (s : State) (k u : Nat) (x : UnitSt) : (unitSet s k u x).cph = s.cph := rfl
@[simp] theorem unitSet_hif (s : State) (k u : Nat) (x : UnitSt) : (unitSet s k u x).hif = s.hif := rfl
@[simp] theorem unitSet_csq (s : State) (k u : Nat) (x : UnitSt) : (unitSet s k u x).csq = s.csq := rfl
@[simp] theorem unitSet_hrt (s : State) (k u : Nat) (x : UnitSt) : (unitSet s k u x).hrt = s.hrt := rfl
@[simp] theorem unitSet_pins (s : State) (k u : Nat) (x : UnitSt) : (unitSet s k u x).pins = s.pins := rfl

@[simp] theorem giveDuty_pending (w : DutyWork) (lo hi : Nat) (s : State) : (giveDuty w lo hi s).pending = s.pending := rfl
@[simp] theorem giveDuty_regs (w : DutyWork) (lo hi : Nat) (s : State) : (giveDuty w lo hi s).regs = s.regs := rfl
@[simp] theorem giveDuty_was (w : DutyWork) (lo hi : Nat) (s : State) : (giveDuty w lo hi s).was = s.was := rfl
@[simp] theorem giveDuty_lastRead (w : DutyWork) (lo hi : Nat) (s : State) : (giveDuty w lo hi s).lastRead = s.lastRead := rfl
@[simp] theorem giveDuty_out (w : DutyWork) (lo hi : Nat) (s : State) : (giveDuty w lo hi s).out = s.out := rfl
@[simp] theorem giveDuty_freeCtr (w : DutyWork) (lo hi : Nat) (s : State) : (giveDuty w lo hi s).freeCtr = s.freeCtr := rfl
@[simp] theorem giveDuty_mgmtDown (w : DutyWork) (lo hi : Nat) (s : State) : (giveDuty w lo hi s).mgmtDown = s.mgmtDown := rfl
@[simp] theorem giveDuty_bridgeUp (w : DutyWork) (lo hi : Nat) (s : State) : (giveDuty w lo hi s).bridgeUp = s.bridgeUp := rfl
@[simp] theorem giveDuty_tau (w : DutyWork) (lo hi : Nat) (s : State) : (giveDuty w lo hi s).tau = s.tau := rfl
@[simp] theorem giveDuty_sen (w : DutyWork) (lo hi : Nat) (s : State) : (giveDuty w lo hi s).sen = s.sen := rfl
@[simp] theorem giveDuty_ppu (w : DutyWork) (lo hi : Nat) (s : State) : (giveDuty w lo hi s).ppu = s.ppu := rfl
@[simp] theorem giveDuty_lkp (w : DutyWork) (lo hi : Nat) (s : State) : (giveDuty w lo hi s).lkp = s.lkp := rfl
@[simp] theorem giveDuty_tcam (w : DutyWork) (lo hi : Nat) (s : State) : (giveDuty w lo hi s).tcam = s.tcam := rfl
@[simp] theorem giveDuty_err (w : DutyWork) (lo hi : Nat) (s : State) : (giveDuty w lo hi s).err = s.err := rfl
@[simp] theorem giveDuty_gau (w : DutyWork) (lo hi : Nat) (s : State) : (giveDuty w lo hi s).gau = s.gau := rfl
@[simp] theorem giveDuty_liu (w : DutyWork) (lo hi : Nat) (s : State) : (giveDuty w lo hi s).liu = s.liu := rfl
@[simp] theorem giveDuty_tmg (w : DutyWork) (lo hi : Nat) (s : State) : (giveDuty w lo hi s).tmg = s.tmg := rfl
@[simp] theorem giveDuty_bpm (w : DutyWork) (lo hi : Nat) (s : State) : (giveDuty w lo hi s).bpm = s.bpm := rfl
@[simp] theorem giveDuty_fab (w : DutyWork) (lo hi : Nat) (s : State) : (giveDuty w lo hi s).fab = s.fab := rfl
@[simp] theorem giveDuty_mcd (w : DutyWork) (lo hi : Nat) (s : State) : (giveDuty w lo hi s).mcd = s.mcd := rfl
@[simp] theorem giveDuty_mch (w : DutyWork) (lo hi : Nat) (s : State) : (giveDuty w lo hi s).mch = s.mch := rfl
@[simp] theorem giveDuty_cph (w : DutyWork) (lo hi : Nat) (s : State) : (giveDuty w lo hi s).cph = s.cph := rfl
@[simp] theorem giveDuty_hif (w : DutyWork) (lo hi : Nat) (s : State) : (giveDuty w lo hi s).hif = s.hif := rfl
@[simp] theorem giveDuty_hrt (w : DutyWork) (lo hi : Nat) (s : State) : (giveDuty w lo hi s).hrt = s.hrt := rfl
@[simp] theorem giveDuty_pins (w : DutyWork) (lo hi : Nat) (s : State) : (giveDuty w lo hi s).pins = s.pins := rfl

@[simp] theorem endDuty_pending (w : DutyWork) (s : State) : (endDuty w s).pending = s.pending := rfl
@[simp] theorem endDuty_regs (w : DutyWork) (s : State) : (endDuty w s).regs = s.regs := rfl
@[simp] theorem endDuty_was (w : DutyWork) (s : State) : (endDuty w s).was = s.was := rfl
@[simp] theorem endDuty_lastRead (w : DutyWork) (s : State) : (endDuty w s).lastRead = s.lastRead := rfl
@[simp] theorem endDuty_out (w : DutyWork) (s : State) : (endDuty w s).out = s.out := rfl
@[simp] theorem endDuty_freeCtr (w : DutyWork) (s : State) : (endDuty w s).freeCtr = s.freeCtr := rfl
@[simp] theorem endDuty_mgmtDown (w : DutyWork) (s : State) : (endDuty w s).mgmtDown = s.mgmtDown := rfl
@[simp] theorem endDuty_bridgeUp (w : DutyWork) (s : State) : (endDuty w s).bridgeUp = s.bridgeUp := rfl
@[simp] theorem endDuty_tau (w : DutyWork) (s : State) : (endDuty w s).tau = s.tau := rfl
@[simp] theorem endDuty_sen (w : DutyWork) (s : State) : (endDuty w s).sen = s.sen := rfl
@[simp] theorem endDuty_ppu (w : DutyWork) (s : State) : (endDuty w s).ppu = s.ppu := rfl
@[simp] theorem endDuty_lkp (w : DutyWork) (s : State) : (endDuty w s).lkp = s.lkp := rfl
@[simp] theorem endDuty_tcam (w : DutyWork) (s : State) : (endDuty w s).tcam = s.tcam := rfl
@[simp] theorem endDuty_err (w : DutyWork) (s : State) : (endDuty w s).err = s.err := rfl
@[simp] theorem endDuty_gau (w : DutyWork) (s : State) : (endDuty w s).gau = s.gau := rfl
@[simp] theorem endDuty_liu (w : DutyWork) (s : State) : (endDuty w s).liu = s.liu := rfl
@[simp] theorem endDuty_tmg (w : DutyWork) (s : State) : (endDuty w s).tmg = s.tmg := rfl
@[simp] theorem endDuty_bpm (w : DutyWork) (s : State) : (endDuty w s).bpm = s.bpm := rfl
@[simp] theorem endDuty_fab (w : DutyWork) (s : State) : (endDuty w s).fab = s.fab := rfl
@[simp] theorem endDuty_mcd (w : DutyWork) (s : State) : (endDuty w s).mcd = s.mcd := rfl
@[simp] theorem endDuty_mch (w : DutyWork) (s : State) : (endDuty w s).mch = s.mch := rfl
@[simp] theorem endDuty_cph (w : DutyWork) (s : State) : (endDuty w s).cph = s.cph := rfl
@[simp] theorem endDuty_hif (w : DutyWork) (s : State) : (endDuty w s).hif = s.hif := rfl
@[simp] theorem endDuty_hrt (w : DutyWork) (s : State) : (endDuty w s).hrt = s.hrt := rfl
@[simp] theorem endDuty_pins (w : DutyWork) (s : State) : (endDuty w s).pins = s.pins := rfl

@[simp] theorem occur_pending (blk code q n : Nat) (s : State) : (occur blk code q n s).pending = s.pending := rfl
@[simp] theorem occur_regs (blk code q n : Nat) (s : State) : (occur blk code q n s).regs = s.regs := rfl
@[simp] theorem occur_was (blk code q n : Nat) (s : State) : (occur blk code q n s).was = s.was := rfl
@[simp] theorem occur_lastRead (blk code q n : Nat) (s : State) : (occur blk code q n s).lastRead = s.lastRead := rfl
@[simp] theorem occur_out (blk code q n : Nat) (s : State) : (occur blk code q n s).out = s.out := rfl
@[simp] theorem occur_freeCtr (blk code q n : Nat) (s : State) : (occur blk code q n s).freeCtr = s.freeCtr := rfl
@[simp] theorem occur_mgmtDown (blk code q n : Nat) (s : State) : (occur blk code q n s).mgmtDown = s.mgmtDown := rfl
@[simp] theorem occur_bridgeUp (blk code q n : Nat) (s : State) : (occur blk code q n s).bridgeUp = s.bridgeUp := rfl
@[simp] theorem occur_tau (blk code q n : Nat) (s : State) : (occur blk code q n s).tau = s.tau := rfl
@[simp] theorem occur_sen (blk code q n : Nat) (s : State) : (occur blk code q n s).sen = s.sen := rfl
@[simp] theorem occur_ppu (blk code q n : Nat) (s : State) : (occur blk code q n s).ppu = s.ppu := rfl
@[simp] theorem occur_lkp (blk code q n : Nat) (s : State) : (occur blk code q n s).lkp = s.lkp := rfl
@[simp] theorem occur_tcam (blk code q n : Nat) (s : State) : (occur blk code q n s).tcam = s.tcam := rfl
@[simp] theorem occur_err (blk code q n : Nat) (s : State) : (occur blk code q n s).err = s.err := rfl
@[simp] theorem occur_liu (blk code q n : Nat) (s : State) : (occur blk code q n s).liu = s.liu := rfl
@[simp] theorem occur_tmg (blk code q n : Nat) (s : State) : (occur blk code q n s).tmg = s.tmg := rfl
@[simp] theorem occur_bpm (blk code q n : Nat) (s : State) : (occur blk code q n s).bpm = s.bpm := rfl
@[simp] theorem occur_fab (blk code q n : Nat) (s : State) : (occur blk code q n s).fab = s.fab := rfl
@[simp] theorem occur_mcd (blk code q n : Nat) (s : State) : (occur blk code q n s).mcd = s.mcd := rfl
@[simp] theorem occur_mch (blk code q n : Nat) (s : State) : (occur blk code q n s).mch = s.mch := rfl
@[simp] theorem occur_cph (blk code q n : Nat) (s : State) : (occur blk code q n s).cph = s.cph := rfl
@[simp] theorem occur_hif (blk code q n : Nat) (s : State) : (occur blk code q n s).hif = s.hif := rfl
@[simp] theorem occur_csq (blk code q n : Nat) (s : State) : (occur blk code q n s).csq = s.csq := rfl
@[simp] theorem occur_hrt (blk code q n : Nat) (s : State) : (occur blk code q n s).hrt = s.hrt := rfl
@[simp] theorem occur_pins (blk code q n : Nat) (s : State) : (occur blk code q n s).pins = s.pins := rfl

@[simp] theorem occurThr_pending (code q k : Nat) (s : State) : (occurThr code q k s).pending = s.pending := rfl
@[simp] theorem occurThr_regs (code q k : Nat) (s : State) : (occurThr code q k s).regs = s.regs := rfl
@[simp] theorem occurThr_was (code q k : Nat) (s : State) : (occurThr code q k s).was = s.was := rfl
@[simp] theorem occurThr_lastRead (code q k : Nat) (s : State) : (occurThr code q k s).lastRead = s.lastRead := rfl
@[simp] theorem occurThr_out (code q k : Nat) (s : State) : (occurThr code q k s).out = s.out := rfl
@[simp] theorem occurThr_freeCtr (code q k : Nat) (s : State) : (occurThr code q k s).freeCtr = s.freeCtr := rfl
@[simp] theorem occurThr_mgmtDown (code q k : Nat) (s : State) : (occurThr code q k s).mgmtDown = s.mgmtDown := rfl
@[simp] theorem occurThr_bridgeUp (code q k : Nat) (s : State) : (occurThr code q k s).bridgeUp = s.bridgeUp := rfl
@[simp] theorem occurThr_tau (code q k : Nat) (s : State) : (occurThr code q k s).tau = s.tau := rfl
@[simp] theorem occurThr_sen (code q k : Nat) (s : State) : (occurThr code q k s).sen = s.sen := rfl
@[simp] theorem occurThr_ppu (code q k : Nat) (s : State) : (occurThr code q k s).ppu = s.ppu := rfl
@[simp] theorem occurThr_lkp (code q k : Nat) (s : State) : (occurThr code q k s).lkp = s.lkp := rfl
@[simp] theorem occurThr_tcam (code q k : Nat) (s : State) : (occurThr code q k s).tcam = s.tcam := rfl
@[simp] theorem occurThr_err (code q k : Nat) (s : State) : (occurThr code q k s).err = s.err := rfl
@[simp] theorem occurThr_liu (code q k : Nat) (s : State) : (occurThr code q k s).liu = s.liu := rfl
@[simp] theorem occurThr_tmg (code q k : Nat) (s : State) : (occurThr code q k s).tmg = s.tmg := rfl
@[simp] theorem occurThr_bpm (code q k : Nat) (s : State) : (occurThr code q k s).bpm = s.bpm := rfl
@[simp] theorem occurThr_fab (code q k : Nat) (s : State) : (occurThr code q k s).fab = s.fab := rfl
@[simp] theorem occurThr_mcd (code q k : Nat) (s : State) : (occurThr code q k s).mcd = s.mcd := rfl
@[simp] theorem occurThr_mch (code q k : Nat) (s : State) : (occurThr code q k s).mch = s.mch := rfl
@[simp] theorem occurThr_cph (code q k : Nat) (s : State) : (occurThr code q k s).cph = s.cph := rfl
@[simp] theorem occurThr_hif (code q k : Nat) (s : State) : (occurThr code q k s).hif = s.hif := rfl
@[simp] theorem occurThr_csq (code q k : Nat) (s : State) : (occurThr code q k s).csq = s.csq := rfl
@[simp] theorem occurThr_hrt (code q k : Nat) (s : State) : (occurThr code q k s).hrt = s.hrt := rfl
@[simp] theorem occurThr_pins (code q k : Nat) (s : State) : (occurThr code q k s).pins = s.pins := rfl

@[simp] theorem setThr_pending (s : State) (k : Nat) (t : Thread) : (setThr s k t).pending = s.pending := rfl
@[simp] theorem setThr_regs (s : State) (k : Nat) (t : Thread) : (setThr s k t).regs = s.regs := rfl
@[simp] theorem setThr_was (s : State) (k : Nat) (t : Thread) : (setThr s k t).was = s.was := rfl
@[simp] theorem setThr_lastRead (s : State) (k : Nat) (t : Thread) : (setThr s k t).lastRead = s.lastRead := rfl
@[simp] theorem setThr_out (s : State) (k : Nat) (t : Thread) : (setThr s k t).out = s.out := rfl
@[simp] theorem setThr_freeCtr (s : State) (k : Nat) (t : Thread) : (setThr s k t).freeCtr = s.freeCtr := rfl
@[simp] theorem setThr_mgmtDown (s : State) (k : Nat) (t : Thread) : (setThr s k t).mgmtDown = s.mgmtDown := rfl
@[simp] theorem setThr_bridgeUp (s : State) (k : Nat) (t : Thread) : (setThr s k t).bridgeUp = s.bridgeUp := rfl
@[simp] theorem setThr_tau (s : State) (k : Nat) (t : Thread) : (setThr s k t).tau = s.tau := rfl
@[simp] theorem setThr_ppu (s : State) (k : Nat) (t : Thread) : (setThr s k t).ppu = s.ppu := rfl
@[simp] theorem setThr_lkp (s : State) (k : Nat) (t : Thread) : (setThr s k t).lkp = s.lkp := rfl
@[simp] theorem setThr_tcam (s : State) (k : Nat) (t : Thread) : (setThr s k t).tcam = s.tcam := rfl
@[simp] theorem setThr_err (s : State) (k : Nat) (t : Thread) : (setThr s k t).err = s.err := rfl
@[simp] theorem setThr_gau (s : State) (k : Nat) (t : Thread) : (setThr s k t).gau = s.gau := rfl
@[simp] theorem setThr_liu (s : State) (k : Nat) (t : Thread) : (setThr s k t).liu = s.liu := rfl
@[simp] theorem setThr_tmg (s : State) (k : Nat) (t : Thread) : (setThr s k t).tmg = s.tmg := rfl
@[simp] theorem setThr_bpm (s : State) (k : Nat) (t : Thread) : (setThr s k t).bpm = s.bpm := rfl
@[simp] theorem setThr_fab (s : State) (k : Nat) (t : Thread) : (setThr s k t).fab = s.fab := rfl
@[simp] theorem setThr_mcd (s : State) (k : Nat) (t : Thread) : (setThr s k t).mcd = s.mcd := rfl
@[simp] theorem setThr_mch (s : State) (k : Nat) (t : Thread) : (setThr s k t).mch = s.mch := rfl
@[simp] theorem setThr_cph (s : State) (k : Nat) (t : Thread) : (setThr s k t).cph = s.cph := rfl
@[simp] theorem setThr_hif (s : State) (k : Nat) (t : Thread) : (setThr s k t).hif = s.hif := rfl
@[simp] theorem setThr_csq (s : State) (k : Nat) (t : Thread) : (setThr s k t).csq = s.csq := rfl
@[simp] theorem setThr_hrt (s : State) (k : Nat) (t : Thread) : (setThr s k t).hrt = s.hrt := rfl
@[simp] theorem setThr_pins (s : State) (k : Nat) (t : Thread) : (setThr s k t).pins = s.pins := rfl

@[simp] theorem setCourse_pending (s : State) (c : Nat) (x : CourseSt) : (setCourse s c x).pending = s.pending := rfl
@[simp] theorem setCourse_regs (s : State) (c : Nat) (x : CourseSt) : (setCourse s c x).regs = s.regs := rfl
@[simp] theorem setCourse_was (s : State) (c : Nat) (x : CourseSt) : (setCourse s c x).was = s.was := rfl
@[simp] theorem setCourse_lastRead (s : State) (c : Nat) (x : CourseSt) : (setCourse s c x).lastRead = s.lastRead := rfl
@[simp] theorem setCourse_out (s : State) (c : Nat) (x : CourseSt) : (setCourse s c x).out = s.out := rfl
@[simp] theorem setCourse_freeCtr (s : State) (c : Nat) (x : CourseSt) : (setCourse s c x).freeCtr = s.freeCtr := rfl
@[simp] theorem setCourse_mgmtDown (s : State) (c : Nat) (x : CourseSt) : (setCourse s c x).mgmtDown = s.mgmtDown := rfl
@[simp] theorem setCourse_bridgeUp (s : State) (c : Nat) (x : CourseSt) : (setCourse s c x).bridgeUp = s.bridgeUp := rfl
@[simp] theorem setCourse_tau (s : State) (c : Nat) (x : CourseSt) : (setCourse s c x).tau = s.tau := rfl
@[simp] theorem setCourse_ppu (s : State) (c : Nat) (x : CourseSt) : (setCourse s c x).ppu = s.ppu := rfl
@[simp] theorem setCourse_lkp (s : State) (c : Nat) (x : CourseSt) : (setCourse s c x).lkp = s.lkp := rfl
@[simp] theorem setCourse_tcam (s : State) (c : Nat) (x : CourseSt) : (setCourse s c x).tcam = s.tcam := rfl
@[simp] theorem setCourse_err (s : State) (c : Nat) (x : CourseSt) : (setCourse s c x).err = s.err := rfl
@[simp] theorem setCourse_gau (s : State) (c : Nat) (x : CourseSt) : (setCourse s c x).gau = s.gau := rfl
@[simp] theorem setCourse_liu (s : State) (c : Nat) (x : CourseSt) : (setCourse s c x).liu = s.liu := rfl
@[simp] theorem setCourse_tmg (s : State) (c : Nat) (x : CourseSt) : (setCourse s c x).tmg = s.tmg := rfl
@[simp] theorem setCourse_bpm (s : State) (c : Nat) (x : CourseSt) : (setCourse s c x).bpm = s.bpm := rfl
@[simp] theorem setCourse_fab (s : State) (c : Nat) (x : CourseSt) : (setCourse s c x).fab = s.fab := rfl
@[simp] theorem setCourse_mcd (s : State) (c : Nat) (x : CourseSt) : (setCourse s c x).mcd = s.mcd := rfl
@[simp] theorem setCourse_mch (s : State) (c : Nat) (x : CourseSt) : (setCourse s c x).mch = s.mch := rfl
@[simp] theorem setCourse_cph (s : State) (c : Nat) (x : CourseSt) : (setCourse s c x).cph = s.cph := rfl
@[simp] theorem setCourse_hif (s : State) (c : Nat) (x : CourseSt) : (setCourse s c x).hif = s.hif := rfl
@[simp] theorem setCourse_csq (s : State) (c : Nat) (x : CourseSt) : (setCourse s c x).csq = s.csq := rfl
@[simp] theorem setCourse_hrt (s : State) (c : Nat) (x : CourseSt) : (setCourse s c x).hrt = s.hrt := rfl
@[simp] theorem setCourse_pins (s : State) (c : Nat) (x : CourseSt) : (setCourse s c x).pins = s.pins := rfl

@[simp] theorem setBank_pending (s : State) (c : Nat) (b : Bool) (x : Bank) : (setBank s c b x).pending = s.pending := rfl
@[simp] theorem setBank_regs (s : State) (c : Nat) (b : Bool) (x : Bank) : (setBank s c b x).regs = s.regs := rfl
@[simp] theorem setBank_was (s : State) (c : Nat) (b : Bool) (x : Bank) : (setBank s c b x).was = s.was := rfl
@[simp] theorem setBank_lastRead (s : State) (c : Nat) (b : Bool) (x : Bank) : (setBank s c b x).lastRead = s.lastRead := rfl
@[simp] theorem setBank_out (s : State) (c : Nat) (b : Bool) (x : Bank) : (setBank s c b x).out = s.out := rfl
@[simp] theorem setBank_freeCtr (s : State) (c : Nat) (b : Bool) (x : Bank) : (setBank s c b x).freeCtr = s.freeCtr := rfl
@[simp] theorem setBank_mgmtDown (s : State) (c : Nat) (b : Bool) (x : Bank) : (setBank s c b x).mgmtDown = s.mgmtDown := rfl
@[simp] theorem setBank_bridgeUp (s : State) (c : Nat) (b : Bool) (x : Bank) : (setBank s c b x).bridgeUp = s.bridgeUp := rfl
@[simp] theorem setBank_tau (s : State) (c : Nat) (b : Bool) (x : Bank) : (setBank s c b x).tau = s.tau := rfl
@[simp] theorem setBank_ppu (s : State) (c : Nat) (b : Bool) (x : Bank) : (setBank s c b x).ppu = s.ppu := rfl
@[simp] theorem setBank_lkp (s : State) (c : Nat) (b : Bool) (x : Bank) : (setBank s c b x).lkp = s.lkp := rfl
@[simp] theorem setBank_tcam (s : State) (c : Nat) (b : Bool) (x : Bank) : (setBank s c b x).tcam = s.tcam := rfl
@[simp] theorem setBank_err (s : State) (c : Nat) (b : Bool) (x : Bank) : (setBank s c b x).err = s.err := rfl
@[simp] theorem setBank_gau (s : State) (c : Nat) (b : Bool) (x : Bank) : (setBank s c b x).gau = s.gau := rfl
@[simp] theorem setBank_liu (s : State) (c : Nat) (b : Bool) (x : Bank) : (setBank s c b x).liu = s.liu := rfl
@[simp] theorem setBank_tmg (s : State) (c : Nat) (b : Bool) (x : Bank) : (setBank s c b x).tmg = s.tmg := rfl
@[simp] theorem setBank_bpm (s : State) (c : Nat) (b : Bool) (x : Bank) : (setBank s c b x).bpm = s.bpm := rfl
@[simp] theorem setBank_fab (s : State) (c : Nat) (b : Bool) (x : Bank) : (setBank s c b x).fab = s.fab := rfl
@[simp] theorem setBank_mcd (s : State) (c : Nat) (b : Bool) (x : Bank) : (setBank s c b x).mcd = s.mcd := rfl
@[simp] theorem setBank_mch (s : State) (c : Nat) (b : Bool) (x : Bank) : (setBank s c b x).mch = s.mch := rfl
@[simp] theorem setBank_cph (s : State) (c : Nat) (b : Bool) (x : Bank) : (setBank s c b x).cph = s.cph := rfl
@[simp] theorem setBank_hif (s : State) (c : Nat) (b : Bool) (x : Bank) : (setBank s c b x).hif = s.hif := rfl
@[simp] theorem setBank_csq (s : State) (c : Nat) (b : Bool) (x : Bank) : (setBank s c b x).csq = s.csq := rfl
@[simp] theorem setBank_hrt (s : State) (c : Nat) (b : Bool) (x : Bank) : (setBank s c b x).hrt = s.hrt := rfl
@[simp] theorem setBank_pins (s : State) (c : Nat) (b : Bool) (x : Bank) : (setBank s c b x).pins = s.pins := rfl

@[simp] theorem giveUpPlace_pending (pid : Nat) (s : State) : (giveUpPlace pid s).pending = s.pending := rfl
@[simp] theorem giveUpPlace_regs (pid : Nat) (s : State) : (giveUpPlace pid s).regs = s.regs := rfl
@[simp] theorem giveUpPlace_was (pid : Nat) (s : State) : (giveUpPlace pid s).was = s.was := rfl
@[simp] theorem giveUpPlace_lastRead (pid : Nat) (s : State) : (giveUpPlace pid s).lastRead = s.lastRead := rfl
@[simp] theorem giveUpPlace_out (pid : Nat) (s : State) : (giveUpPlace pid s).out = s.out := rfl
@[simp] theorem giveUpPlace_freeCtr (pid : Nat) (s : State) : (giveUpPlace pid s).freeCtr = s.freeCtr := rfl
@[simp] theorem giveUpPlace_mgmtDown (pid : Nat) (s : State) : (giveUpPlace pid s).mgmtDown = s.mgmtDown := rfl
@[simp] theorem giveUpPlace_bridgeUp (pid : Nat) (s : State) : (giveUpPlace pid s).bridgeUp = s.bridgeUp := rfl
@[simp] theorem giveUpPlace_tau (pid : Nat) (s : State) : (giveUpPlace pid s).tau = s.tau := rfl
@[simp] theorem giveUpPlace_ppu (pid : Nat) (s : State) : (giveUpPlace pid s).ppu = s.ppu := rfl
@[simp] theorem giveUpPlace_lkp (pid : Nat) (s : State) : (giveUpPlace pid s).lkp = s.lkp := rfl
@[simp] theorem giveUpPlace_tcam (pid : Nat) (s : State) : (giveUpPlace pid s).tcam = s.tcam := rfl
@[simp] theorem giveUpPlace_err (pid : Nat) (s : State) : (giveUpPlace pid s).err = s.err := rfl
@[simp] theorem giveUpPlace_gau (pid : Nat) (s : State) : (giveUpPlace pid s).gau = s.gau := rfl
@[simp] theorem giveUpPlace_liu (pid : Nat) (s : State) : (giveUpPlace pid s).liu = s.liu := rfl
@[simp] theorem giveUpPlace_tmg (pid : Nat) (s : State) : (giveUpPlace pid s).tmg = s.tmg := rfl
@[simp] theorem giveUpPlace_bpm (pid : Nat) (s : State) : (giveUpPlace pid s).bpm = s.bpm := rfl
@[simp] theorem giveUpPlace_fab (pid : Nat) (s : State) : (giveUpPlace pid s).fab = s.fab := rfl
@[simp] theorem giveUpPlace_mcd (pid : Nat) (s : State) : (giveUpPlace pid s).mcd = s.mcd := rfl
@[simp] theorem giveUpPlace_mch (pid : Nat) (s : State) : (giveUpPlace pid s).mch = s.mch := rfl
@[simp] theorem giveUpPlace_cph (pid : Nat) (s : State) : (giveUpPlace pid s).cph = s.cph := rfl
@[simp] theorem giveUpPlace_hif (pid : Nat) (s : State) : (giveUpPlace pid s).hif = s.hif := rfl
@[simp] theorem giveUpPlace_csq (pid : Nat) (s : State) : (giveUpPlace pid s).csq = s.csq := rfl
@[simp] theorem giveUpPlace_hrt (pid : Nat) (s : State) : (giveUpPlace pid s).hrt = s.hrt := rfl
@[simp] theorem giveUpPlace_pins (pid : Nat) (s : State) : (giveUpPlace pid s).pins = s.pins := rfl

@[simp] theorem sendInbox_pending (c t source : Nat) (event : Word32) (pkt : Option Packet) (s : State) : (sendInbox c t source event pkt s).pending = s.pending := rfl
@[simp] theorem sendInbox_regs (c t source : Nat) (event : Word32) (pkt : Option Packet) (s : State) : (sendInbox c t source event pkt s).regs = s.regs := rfl
@[simp] theorem sendInbox_was (c t source : Nat) (event : Word32) (pkt : Option Packet) (s : State) : (sendInbox c t source event pkt s).was = s.was := rfl
@[simp] theorem sendInbox_lastRead (c t source : Nat) (event : Word32) (pkt : Option Packet) (s : State) : (sendInbox c t source event pkt s).lastRead = s.lastRead := rfl
@[simp] theorem sendInbox_out (c t source : Nat) (event : Word32) (pkt : Option Packet) (s : State) : (sendInbox c t source event pkt s).out = s.out := rfl
@[simp] theorem sendInbox_freeCtr (c t source : Nat) (event : Word32) (pkt : Option Packet) (s : State) : (sendInbox c t source event pkt s).freeCtr = s.freeCtr := rfl
@[simp] theorem sendInbox_mgmtDown (c t source : Nat) (event : Word32) (pkt : Option Packet) (s : State) : (sendInbox c t source event pkt s).mgmtDown = s.mgmtDown := rfl
@[simp] theorem sendInbox_bridgeUp (c t source : Nat) (event : Word32) (pkt : Option Packet) (s : State) : (sendInbox c t source event pkt s).bridgeUp = s.bridgeUp := rfl
@[simp] theorem sendInbox_tau (c t source : Nat) (event : Word32) (pkt : Option Packet) (s : State) : (sendInbox c t source event pkt s).tau = s.tau := rfl
@[simp] theorem sendInbox_ppu (c t source : Nat) (event : Word32) (pkt : Option Packet) (s : State) : (sendInbox c t source event pkt s).ppu = s.ppu := rfl
@[simp] theorem sendInbox_lkp (c t source : Nat) (event : Word32) (pkt : Option Packet) (s : State) : (sendInbox c t source event pkt s).lkp = s.lkp := rfl
@[simp] theorem sendInbox_tcam (c t source : Nat) (event : Word32) (pkt : Option Packet) (s : State) : (sendInbox c t source event pkt s).tcam = s.tcam := rfl
@[simp] theorem sendInbox_err (c t source : Nat) (event : Word32) (pkt : Option Packet) (s : State) : (sendInbox c t source event pkt s).err = s.err := rfl
@[simp] theorem sendInbox_gau (c t source : Nat) (event : Word32) (pkt : Option Packet) (s : State) : (sendInbox c t source event pkt s).gau = s.gau := rfl
@[simp] theorem sendInbox_liu (c t source : Nat) (event : Word32) (pkt : Option Packet) (s : State) : (sendInbox c t source event pkt s).liu = s.liu := rfl
@[simp] theorem sendInbox_tmg (c t source : Nat) (event : Word32) (pkt : Option Packet) (s : State) : (sendInbox c t source event pkt s).tmg = s.tmg := rfl
@[simp] theorem sendInbox_bpm (c t source : Nat) (event : Word32) (pkt : Option Packet) (s : State) : (sendInbox c t source event pkt s).bpm = s.bpm := rfl
@[simp] theorem sendInbox_fab (c t source : Nat) (event : Word32) (pkt : Option Packet) (s : State) : (sendInbox c t source event pkt s).fab = s.fab := rfl
@[simp] theorem sendInbox_mcd (c t source : Nat) (event : Word32) (pkt : Option Packet) (s : State) : (sendInbox c t source event pkt s).mcd = s.mcd := rfl
@[simp] theorem sendInbox_mch (c t source : Nat) (event : Word32) (pkt : Option Packet) (s : State) : (sendInbox c t source event pkt s).mch = s.mch := rfl
@[simp] theorem sendInbox_cph (c t source : Nat) (event : Word32) (pkt : Option Packet) (s : State) : (sendInbox c t source event pkt s).cph = s.cph := rfl
@[simp] theorem sendInbox_hif (c t source : Nat) (event : Word32) (pkt : Option Packet) (s : State) : (sendInbox c t source event pkt s).hif = s.hif := rfl
@[simp] theorem sendInbox_csq (c t source : Nat) (event : Word32) (pkt : Option Packet) (s : State) : (sendInbox c t source event pkt s).csq = s.csq := rfl
@[simp] theorem sendInbox_hrt (c t source : Nat) (event : Word32) (pkt : Option Packet) (s : State) : (sendInbox c t source event pkt s).hrt = s.hrt := rfl
@[simp] theorem sendInbox_pins (c t source : Nat) (event : Word32) (pkt : Option Packet) (s : State) : (sendInbox c t source event pkt s).pins = s.pins := rfl

@[simp] theorem reqsLeave_pending (k : Nat) (s : State) : (reqsLeave k s).pending = s.pending := rfl
@[simp] theorem reqsLeave_regs (k : Nat) (s : State) : (reqsLeave k s).regs = s.regs := rfl
@[simp] theorem reqsLeave_was (k : Nat) (s : State) : (reqsLeave k s).was = s.was := rfl
@[simp] theorem reqsLeave_lastRead (k : Nat) (s : State) : (reqsLeave k s).lastRead = s.lastRead := rfl
@[simp] theorem reqsLeave_out (k : Nat) (s : State) : (reqsLeave k s).out = s.out := rfl
@[simp] theorem reqsLeave_freeCtr (k : Nat) (s : State) : (reqsLeave k s).freeCtr = s.freeCtr := rfl
@[simp] theorem reqsLeave_mgmtDown (k : Nat) (s : State) : (reqsLeave k s).mgmtDown = s.mgmtDown := rfl
@[simp] theorem reqsLeave_bridgeUp (k : Nat) (s : State) : (reqsLeave k s).bridgeUp = s.bridgeUp := rfl
@[simp] theorem reqsLeave_tau (k : Nat) (s : State) : (reqsLeave k s).tau = s.tau := rfl
@[simp] theorem reqsLeave_ppu (k : Nat) (s : State) : (reqsLeave k s).ppu = s.ppu := rfl
@[simp] theorem reqsLeave_lkp (k : Nat) (s : State) : (reqsLeave k s).lkp = s.lkp := rfl
@[simp] theorem reqsLeave_tcam (k : Nat) (s : State) : (reqsLeave k s).tcam = s.tcam := rfl
@[simp] theorem reqsLeave_err (k : Nat) (s : State) : (reqsLeave k s).err = s.err := rfl
@[simp] theorem reqsLeave_gau (k : Nat) (s : State) : (reqsLeave k s).gau = s.gau := rfl
@[simp] theorem reqsLeave_liu (k : Nat) (s : State) : (reqsLeave k s).liu = s.liu := rfl
@[simp] theorem reqsLeave_tmg (k : Nat) (s : State) : (reqsLeave k s).tmg = s.tmg := rfl
@[simp] theorem reqsLeave_bpm (k : Nat) (s : State) : (reqsLeave k s).bpm = s.bpm := rfl
@[simp] theorem reqsLeave_fab (k : Nat) (s : State) : (reqsLeave k s).fab = s.fab := rfl
@[simp] theorem reqsLeave_mcd (k : Nat) (s : State) : (reqsLeave k s).mcd = s.mcd := rfl
@[simp] theorem reqsLeave_mch (k : Nat) (s : State) : (reqsLeave k s).mch = s.mch := rfl
@[simp] theorem reqsLeave_cph (k : Nat) (s : State) : (reqsLeave k s).cph = s.cph := rfl
@[simp] theorem reqsLeave_hif (k : Nat) (s : State) : (reqsLeave k s).hif = s.hif := rfl
@[simp] theorem reqsLeave_csq (k : Nat) (s : State) : (reqsLeave k s).csq = s.csq := rfl
@[simp] theorem reqsLeave_hrt (k : Nat) (s : State) : (reqsLeave k s).hrt = s.hrt := rfl
@[simp] theorem reqsLeave_pins (k : Nat) (s : State) : (reqsLeave k s).pins = s.pins := rfl

@[simp] theorem freeThr_pending (s : State) (k : Nat) : (freeThr s k).pending = s.pending := rfl
@[simp] theorem freeThr_regs (s : State) (k : Nat) : (freeThr s k).regs = s.regs := rfl
@[simp] theorem freeThr_was (s : State) (k : Nat) : (freeThr s k).was = s.was := rfl
@[simp] theorem freeThr_lastRead (s : State) (k : Nat) : (freeThr s k).lastRead = s.lastRead := rfl
@[simp] theorem freeThr_out (s : State) (k : Nat) : (freeThr s k).out = s.out := rfl
@[simp] theorem freeThr_freeCtr (s : State) (k : Nat) : (freeThr s k).freeCtr = s.freeCtr := rfl
@[simp] theorem freeThr_mgmtDown (s : State) (k : Nat) : (freeThr s k).mgmtDown = s.mgmtDown := rfl
@[simp] theorem freeThr_bridgeUp (s : State) (k : Nat) : (freeThr s k).bridgeUp = s.bridgeUp := rfl
@[simp] theorem freeThr_tau (s : State) (k : Nat) : (freeThr s k).tau = s.tau := rfl
@[simp] theorem freeThr_ppu (s : State) (k : Nat) : (freeThr s k).ppu = s.ppu := rfl
@[simp] theorem freeThr_lkp (s : State) (k : Nat) : (freeThr s k).lkp = s.lkp := rfl
@[simp] theorem freeThr_tcam (s : State) (k : Nat) : (freeThr s k).tcam = s.tcam := rfl
@[simp] theorem freeThr_err (s : State) (k : Nat) : (freeThr s k).err = s.err := rfl
@[simp] theorem freeThr_gau (s : State) (k : Nat) : (freeThr s k).gau = s.gau := rfl
@[simp] theorem freeThr_liu (s : State) (k : Nat) : (freeThr s k).liu = s.liu := rfl
@[simp] theorem freeThr_tmg (s : State) (k : Nat) : (freeThr s k).tmg = s.tmg := rfl
@[simp] theorem freeThr_bpm (s : State) (k : Nat) : (freeThr s k).bpm = s.bpm := rfl
@[simp] theorem freeThr_fab (s : State) (k : Nat) : (freeThr s k).fab = s.fab := rfl
@[simp] theorem freeThr_mcd (s : State) (k : Nat) : (freeThr s k).mcd = s.mcd := rfl
@[simp] theorem freeThr_mch (s : State) (k : Nat) : (freeThr s k).mch = s.mch := rfl
@[simp] theorem freeThr_cph (s : State) (k : Nat) : (freeThr s k).cph = s.cph := rfl
@[simp] theorem freeThr_hif (s : State) (k : Nat) : (freeThr s k).hif = s.hif := rfl
@[simp] theorem freeThr_csq (s : State) (k : Nat) : (freeThr s k).csq = s.csq := rfl
@[simp] theorem freeThr_hrt (s : State) (k : Nat) : (freeThr s k).hrt = s.hrt := rfl
@[simp] theorem freeThr_pins (s : State) (k : Nat) : (freeThr s k).pins = s.pins := rfl

@[simp] theorem noteWas_pending (r : Reg) (i : Nat) (s : State) : (noteWas r i s).pending = s.pending := by unfold noteWas; split <;> rfl
@[simp] theorem noteWas_regs (r : Reg) (i : Nat) (s : State) : (noteWas r i s).regs = s.regs := by unfold noteWas; split <;> rfl
@[simp] theorem noteWas_lastRead (r : Reg) (i : Nat) (s : State) : (noteWas r i s).lastRead = s.lastRead := by unfold noteWas; split <;> rfl
@[simp] theorem noteWas_out (r : Reg) (i : Nat) (s : State) : (noteWas r i s).out = s.out := by unfold noteWas; split <;> rfl
@[simp] theorem noteWas_freeCtr (r : Reg) (i : Nat) (s : State) : (noteWas r i s).freeCtr = s.freeCtr := by unfold noteWas; split <;> rfl
@[simp] theorem noteWas_mgmtDown (r : Reg) (i : Nat) (s : State) : (noteWas r i s).mgmtDown = s.mgmtDown := by unfold noteWas; split <;> rfl
@[simp] theorem noteWas_bridgeUp (r : Reg) (i : Nat) (s : State) : (noteWas r i s).bridgeUp = s.bridgeUp := by unfold noteWas; split <;> rfl
@[simp] theorem noteWas_tau (r : Reg) (i : Nat) (s : State) : (noteWas r i s).tau = s.tau := by unfold noteWas; split <;> rfl
@[simp] theorem noteWas_sen (r : Reg) (i : Nat) (s : State) : (noteWas r i s).sen = s.sen := by unfold noteWas; split <;> rfl
@[simp] theorem noteWas_ppu (r : Reg) (i : Nat) (s : State) : (noteWas r i s).ppu = s.ppu := by unfold noteWas; split <;> rfl
@[simp] theorem noteWas_lkp (r : Reg) (i : Nat) (s : State) : (noteWas r i s).lkp = s.lkp := by unfold noteWas; split <;> rfl
@[simp] theorem noteWas_tcam (r : Reg) (i : Nat) (s : State) : (noteWas r i s).tcam = s.tcam := by unfold noteWas; split <;> rfl
@[simp] theorem noteWas_err (r : Reg) (i : Nat) (s : State) : (noteWas r i s).err = s.err := by unfold noteWas; split <;> rfl
@[simp] theorem noteWas_gau (r : Reg) (i : Nat) (s : State) : (noteWas r i s).gau = s.gau := by unfold noteWas; split <;> rfl
@[simp] theorem noteWas_liu (r : Reg) (i : Nat) (s : State) : (noteWas r i s).liu = s.liu := by unfold noteWas; split <;> rfl
@[simp] theorem noteWas_tmg (r : Reg) (i : Nat) (s : State) : (noteWas r i s).tmg = s.tmg := by unfold noteWas; split <;> rfl
@[simp] theorem noteWas_bpm (r : Reg) (i : Nat) (s : State) : (noteWas r i s).bpm = s.bpm := by unfold noteWas; split <;> rfl
@[simp] theorem noteWas_fab (r : Reg) (i : Nat) (s : State) : (noteWas r i s).fab = s.fab := by unfold noteWas; split <;> rfl
@[simp] theorem noteWas_mcd (r : Reg) (i : Nat) (s : State) : (noteWas r i s).mcd = s.mcd := by unfold noteWas; split <;> rfl
@[simp] theorem noteWas_mch (r : Reg) (i : Nat) (s : State) : (noteWas r i s).mch = s.mch := by unfold noteWas; split <;> rfl
@[simp] theorem noteWas_cph (r : Reg) (i : Nat) (s : State) : (noteWas r i s).cph = s.cph := by unfold noteWas; split <;> rfl
@[simp] theorem noteWas_hif (r : Reg) (i : Nat) (s : State) : (noteWas r i s).hif = s.hif := by unfold noteWas; split <;> rfl
@[simp] theorem noteWas_csq (r : Reg) (i : Nat) (s : State) : (noteWas r i s).csq = s.csq := by unfold noteWas; split <;> rfl
@[simp] theorem noteWas_hrt (r : Reg) (i : Nat) (s : State) : (noteWas r i s).hrt = s.hrt := by unfold noteWas; split <;> rfl
@[simp] theorem noteWas_pins (r : Reg) (i : Nat) (s : State) : (noteWas r i s).pins = s.pins := by unfold noteWas; split <;> rfl

@[simp] theorem hostStore_pending (lock : Bool) (r : Reg) (i : Nat) (v : Word) (s : State) : (hostStore lock r i v s).pending = s.pending := by simp [hostStore]
@[simp] theorem hostStore_lastRead (lock : Bool) (r : Reg) (i : Nat) (v : Word) (s : State) : (hostStore lock r i v s).lastRead = s.lastRead := by simp [hostStore]
@[simp] theorem hostStore_out (lock : Bool) (r : Reg) (i : Nat) (v : Word) (s : State) : (hostStore lock r i v s).out = s.out := by simp [hostStore]
@[simp] theorem hostStore_freeCtr (lock : Bool) (r : Reg) (i : Nat) (v : Word) (s : State) : (hostStore lock r i v s).freeCtr = s.freeCtr := by simp [hostStore]
@[simp] theorem hostStore_mgmtDown (lock : Bool) (r : Reg) (i : Nat) (v : Word) (s : State) : (hostStore lock r i v s).mgmtDown = s.mgmtDown := by simp [hostStore]
@[simp] theorem hostStore_bridgeUp (lock : Bool) (r : Reg) (i : Nat) (v : Word) (s : State) : (hostStore lock r i v s).bridgeUp = s.bridgeUp := by simp [hostStore]
@[simp] theorem hostStore_tau (lock : Bool) (r : Reg) (i : Nat) (v : Word) (s : State) : (hostStore lock r i v s).tau = s.tau := by simp [hostStore]
@[simp] theorem hostStore_sen (lock : Bool) (r : Reg) (i : Nat) (v : Word) (s : State) : (hostStore lock r i v s).sen = s.sen := by simp [hostStore]
@[simp] theorem hostStore_ppu (lock : Bool) (r : Reg) (i : Nat) (v : Word) (s : State) : (hostStore lock r i v s).ppu = s.ppu := by simp [hostStore]
@[simp] theorem hostStore_lkp (lock : Bool) (r : Reg) (i : Nat) (v : Word) (s : State) : (hostStore lock r i v s).lkp = s.lkp := by simp [hostStore]
@[simp] theorem hostStore_tcam (lock : Bool) (r : Reg) (i : Nat) (v : Word) (s : State) : (hostStore lock r i v s).tcam = s.tcam := by simp [hostStore]
@[simp] theorem hostStore_err (lock : Bool) (r : Reg) (i : Nat) (v : Word) (s : State) : (hostStore lock r i v s).err = s.err := by simp [hostStore]
@[simp] theorem hostStore_gau (lock : Bool) (r : Reg) (i : Nat) (v : Word) (s : State) : (hostStore lock r i v s).gau = s.gau := by simp [hostStore]
@[simp] theorem hostStore_liu (lock : Bool) (r : Reg) (i : Nat) (v : Word) (s : State) : (hostStore lock r i v s).liu = s.liu := by simp [hostStore]
@[simp] theorem hostStore_tmg (lock : Bool) (r : Reg) (i : Nat) (v : Word) (s : State) : (hostStore lock r i v s).tmg = s.tmg := by simp [hostStore]
@[simp] theorem hostStore_bpm (lock : Bool) (r : Reg) (i : Nat) (v : Word) (s : State) : (hostStore lock r i v s).bpm = s.bpm := by simp [hostStore]
@[simp] theorem hostStore_fab (lock : Bool) (r : Reg) (i : Nat) (v : Word) (s : State) : (hostStore lock r i v s).fab = s.fab := by simp [hostStore]
@[simp] theorem hostStore_mcd (lock : Bool) (r : Reg) (i : Nat) (v : Word) (s : State) : (hostStore lock r i v s).mcd = s.mcd := by simp [hostStore]
@[simp] theorem hostStore_mch (lock : Bool) (r : Reg) (i : Nat) (v : Word) (s : State) : (hostStore lock r i v s).mch = s.mch := by simp [hostStore]
@[simp] theorem hostStore_cph (lock : Bool) (r : Reg) (i : Nat) (v : Word) (s : State) : (hostStore lock r i v s).cph = s.cph := by simp [hostStore]
@[simp] theorem hostStore_hif (lock : Bool) (r : Reg) (i : Nat) (v : Word) (s : State) : (hostStore lock r i v s).hif = s.hif := by simp [hostStore]
@[simp] theorem hostStore_csq (lock : Bool) (r : Reg) (i : Nat) (v : Word) (s : State) : (hostStore lock r i v s).csq = s.csq := by simp [hostStore]
@[simp] theorem hostStore_hrt (lock : Bool) (r : Reg) (i : Nat) (v : Word) (s : State) : (hostStore lock r i v s).hrt = s.hrt := by simp [hostStore]
@[simp] theorem hostStore_pins (lock : Bool) (r : Reg) (i : Nat) (v : Word) (s : State) : (hostStore lock r i v s).pins = s.pins := by simp [hostStore]

@[simp] theorem withCph_pending (f : Cph → Cph) (s : State) : (withCph f s).pending = s.pending := rfl
@[simp] theorem withCph_regs (f : Cph → Cph) (s : State) : (withCph f s).regs = s.regs := rfl
@[simp] theorem withCph_was (f : Cph → Cph) (s : State) : (withCph f s).was = s.was := rfl
@[simp] theorem withCph_lastRead (f : Cph → Cph) (s : State) : (withCph f s).lastRead = s.lastRead := rfl
@[simp] theorem withCph_out (f : Cph → Cph) (s : State) : (withCph f s).out = s.out := rfl
@[simp] theorem withCph_freeCtr (f : Cph → Cph) (s : State) : (withCph f s).freeCtr = s.freeCtr := rfl
@[simp] theorem withCph_mgmtDown (f : Cph → Cph) (s : State) : (withCph f s).mgmtDown = s.mgmtDown := rfl
@[simp] theorem withCph_bridgeUp (f : Cph → Cph) (s : State) : (withCph f s).bridgeUp = s.bridgeUp := rfl
@[simp] theorem withCph_tau (f : Cph → Cph) (s : State) : (withCph f s).tau = s.tau := rfl
@[simp] theorem withCph_sen (f : Cph → Cph) (s : State) : (withCph f s).sen = s.sen := rfl
@[simp] theorem withCph_ppu (f : Cph → Cph) (s : State) : (withCph f s).ppu = s.ppu := rfl
@[simp] theorem withCph_lkp (f : Cph → Cph) (s : State) : (withCph f s).lkp = s.lkp := rfl
@[simp] theorem withCph_tcam (f : Cph → Cph) (s : State) : (withCph f s).tcam = s.tcam := rfl
@[simp] theorem withCph_err (f : Cph → Cph) (s : State) : (withCph f s).err = s.err := rfl
@[simp] theorem withCph_gau (f : Cph → Cph) (s : State) : (withCph f s).gau = s.gau := rfl
@[simp] theorem withCph_liu (f : Cph → Cph) (s : State) : (withCph f s).liu = s.liu := rfl
@[simp] theorem withCph_tmg (f : Cph → Cph) (s : State) : (withCph f s).tmg = s.tmg := rfl
@[simp] theorem withCph_bpm (f : Cph → Cph) (s : State) : (withCph f s).bpm = s.bpm := rfl
@[simp] theorem withCph_fab (f : Cph → Cph) (s : State) : (withCph f s).fab = s.fab := rfl
@[simp] theorem withCph_mcd (f : Cph → Cph) (s : State) : (withCph f s).mcd = s.mcd := rfl
@[simp] theorem withCph_mch (f : Cph → Cph) (s : State) : (withCph f s).mch = s.mch := rfl
@[simp] theorem withCph_hif (f : Cph → Cph) (s : State) : (withCph f s).hif = s.hif := rfl
@[simp] theorem withCph_csq (f : Cph → Cph) (s : State) : (withCph f s).csq = s.csq := rfl
@[simp] theorem withCph_hrt (f : Cph → Cph) (s : State) : (withCph f s).hrt = s.hrt := rfl
@[simp] theorem withCph_pins (f : Cph → Cph) (s : State) : (withCph f s).pins = s.pins := rfl
@[simp] theorem withCph_cph (f : Cph → Cph) (s : State) : (withCph f s).cph = f s.cph := rfl

@[simp] theorem withHif_pending (f : Hif → Hif) (s : State) : (withHif f s).pending = s.pending := rfl
@[simp] theorem withHif_regs (f : Hif → Hif) (s : State) : (withHif f s).regs = s.regs := rfl
@[simp] theorem withHif_was (f : Hif → Hif) (s : State) : (withHif f s).was = s.was := rfl
@[simp] theorem withHif_lastRead (f : Hif → Hif) (s : State) : (withHif f s).lastRead = s.lastRead := rfl
@[simp] theorem withHif_out (f : Hif → Hif) (s : State) : (withHif f s).out = s.out := rfl
@[simp] theorem withHif_freeCtr (f : Hif → Hif) (s : State) : (withHif f s).freeCtr = s.freeCtr := rfl
@[simp] theorem withHif_mgmtDown (f : Hif → Hif) (s : State) : (withHif f s).mgmtDown = s.mgmtDown := rfl
@[simp] theorem withHif_bridgeUp (f : Hif → Hif) (s : State) : (withHif f s).bridgeUp = s.bridgeUp := rfl
@[simp] theorem withHif_tau (f : Hif → Hif) (s : State) : (withHif f s).tau = s.tau := rfl
@[simp] theorem withHif_sen (f : Hif → Hif) (s : State) : (withHif f s).sen = s.sen := rfl
@[simp] theorem withHif_ppu (f : Hif → Hif) (s : State) : (withHif f s).ppu = s.ppu := rfl
@[simp] theorem withHif_lkp (f : Hif → Hif) (s : State) : (withHif f s).lkp = s.lkp := rfl
@[simp] theorem withHif_tcam (f : Hif → Hif) (s : State) : (withHif f s).tcam = s.tcam := rfl
@[simp] theorem withHif_err (f : Hif → Hif) (s : State) : (withHif f s).err = s.err := rfl
@[simp] theorem withHif_gau (f : Hif → Hif) (s : State) : (withHif f s).gau = s.gau := rfl
@[simp] theorem withHif_liu (f : Hif → Hif) (s : State) : (withHif f s).liu = s.liu := rfl
@[simp] theorem withHif_tmg (f : Hif → Hif) (s : State) : (withHif f s).tmg = s.tmg := rfl
@[simp] theorem withHif_bpm (f : Hif → Hif) (s : State) : (withHif f s).bpm = s.bpm := rfl
@[simp] theorem withHif_fab (f : Hif → Hif) (s : State) : (withHif f s).fab = s.fab := rfl
@[simp] theorem withHif_mcd (f : Hif → Hif) (s : State) : (withHif f s).mcd = s.mcd := rfl
@[simp] theorem withHif_mch (f : Hif → Hif) (s : State) : (withHif f s).mch = s.mch := rfl
@[simp] theorem withHif_cph (f : Hif → Hif) (s : State) : (withHif f s).cph = s.cph := rfl
@[simp] theorem withHif_csq (f : Hif → Hif) (s : State) : (withHif f s).csq = s.csq := rfl
@[simp] theorem withHif_hrt (f : Hif → Hif) (s : State) : (withHif f s).hrt = s.hrt := rfl
@[simp] theorem withHif_pins (f : Hif → Hif) (s : State) : (withHif f s).pins = s.pins := rfl
@[simp] theorem withHif_hif (f : Hif → Hif) (s : State) : (withHif f s).hif = f s.hif := rfl

@[simp] theorem setSlice_pending (n : Nat) (x : SliceSt) (s : State) : (setSlice n x s).pending = s.pending := rfl
@[simp] theorem setSlice_regs (n : Nat) (x : SliceSt) (s : State) : (setSlice n x s).regs = s.regs := rfl
@[simp] theorem setSlice_was (n : Nat) (x : SliceSt) (s : State) : (setSlice n x s).was = s.was := rfl
@[simp] theorem setSlice_lastRead (n : Nat) (x : SliceSt) (s : State) : (setSlice n x s).lastRead = s.lastRead := rfl
@[simp] theorem setSlice_out (n : Nat) (x : SliceSt) (s : State) : (setSlice n x s).out = s.out := rfl
@[simp] theorem setSlice_freeCtr (n : Nat) (x : SliceSt) (s : State) : (setSlice n x s).freeCtr = s.freeCtr := rfl
@[simp] theorem setSlice_mgmtDown (n : Nat) (x : SliceSt) (s : State) : (setSlice n x s).mgmtDown = s.mgmtDown := rfl
@[simp] theorem setSlice_bridgeUp (n : Nat) (x : SliceSt) (s : State) : (setSlice n x s).bridgeUp = s.bridgeUp := rfl
@[simp] theorem setSlice_tau (n : Nat) (x : SliceSt) (s : State) : (setSlice n x s).tau = s.tau := rfl
@[simp] theorem setSlice_sen (n : Nat) (x : SliceSt) (s : State) : (setSlice n x s).sen = s.sen := rfl
@[simp] theorem setSlice_ppu (n : Nat) (x : SliceSt) (s : State) : (setSlice n x s).ppu = s.ppu := rfl
@[simp] theorem setSlice_lkp (n : Nat) (x : SliceSt) (s : State) : (setSlice n x s).lkp = s.lkp := rfl
@[simp] theorem setSlice_tcam (n : Nat) (x : SliceSt) (s : State) : (setSlice n x s).tcam = s.tcam := rfl
@[simp] theorem setSlice_err (n : Nat) (x : SliceSt) (s : State) : (setSlice n x s).err = s.err := rfl
@[simp] theorem setSlice_gau (n : Nat) (x : SliceSt) (s : State) : (setSlice n x s).gau = s.gau := rfl
@[simp] theorem setSlice_liu (n : Nat) (x : SliceSt) (s : State) : (setSlice n x s).liu = s.liu := rfl
@[simp] theorem setSlice_tmg (n : Nat) (x : SliceSt) (s : State) : (setSlice n x s).tmg = s.tmg := rfl
@[simp] theorem setSlice_bpm (n : Nat) (x : SliceSt) (s : State) : (setSlice n x s).bpm = s.bpm := rfl
@[simp] theorem setSlice_fab (n : Nat) (x : SliceSt) (s : State) : (setSlice n x s).fab = s.fab := rfl
@[simp] theorem setSlice_mcd (n : Nat) (x : SliceSt) (s : State) : (setSlice n x s).mcd = s.mcd := rfl
@[simp] theorem setSlice_mch (n : Nat) (x : SliceSt) (s : State) : (setSlice n x s).mch = s.mch := rfl
@[simp] theorem setSlice_cph (n : Nat) (x : SliceSt) (s : State) : (setSlice n x s).cph = s.cph := rfl
@[simp] theorem setSlice_csq (n : Nat) (x : SliceSt) (s : State) : (setSlice n x s).csq = s.csq := rfl
@[simp] theorem setSlice_hrt (n : Nat) (x : SliceSt) (s : State) : (setSlice n x s).hrt = s.hrt := rfl
@[simp] theorem setSlice_pins (n : Nat) (x : SliceSt) (s : State) : (setSlice n x s).pins = s.pins := rfl

@[simp] theorem setRing_pending (k : Nat) (x : Ring) (s : State) : (setRing k x s).pending = s.pending := rfl
@[simp] theorem setRing_regs (k : Nat) (x : Ring) (s : State) : (setRing k x s).regs = s.regs := rfl
@[simp] theorem setRing_was (k : Nat) (x : Ring) (s : State) : (setRing k x s).was = s.was := rfl
@[simp] theorem setRing_lastRead (k : Nat) (x : Ring) (s : State) : (setRing k x s).lastRead = s.lastRead := rfl
@[simp] theorem setRing_out (k : Nat) (x : Ring) (s : State) : (setRing k x s).out = s.out := rfl
@[simp] theorem setRing_freeCtr (k : Nat) (x : Ring) (s : State) : (setRing k x s).freeCtr = s.freeCtr := rfl
@[simp] theorem setRing_mgmtDown (k : Nat) (x : Ring) (s : State) : (setRing k x s).mgmtDown = s.mgmtDown := rfl
@[simp] theorem setRing_bridgeUp (k : Nat) (x : Ring) (s : State) : (setRing k x s).bridgeUp = s.bridgeUp := rfl
@[simp] theorem setRing_tau (k : Nat) (x : Ring) (s : State) : (setRing k x s).tau = s.tau := rfl
@[simp] theorem setRing_sen (k : Nat) (x : Ring) (s : State) : (setRing k x s).sen = s.sen := rfl
@[simp] theorem setRing_ppu (k : Nat) (x : Ring) (s : State) : (setRing k x s).ppu = s.ppu := rfl
@[simp] theorem setRing_lkp (k : Nat) (x : Ring) (s : State) : (setRing k x s).lkp = s.lkp := rfl
@[simp] theorem setRing_tcam (k : Nat) (x : Ring) (s : State) : (setRing k x s).tcam = s.tcam := rfl
@[simp] theorem setRing_err (k : Nat) (x : Ring) (s : State) : (setRing k x s).err = s.err := rfl
@[simp] theorem setRing_gau (k : Nat) (x : Ring) (s : State) : (setRing k x s).gau = s.gau := rfl
@[simp] theorem setRing_liu (k : Nat) (x : Ring) (s : State) : (setRing k x s).liu = s.liu := rfl
@[simp] theorem setRing_tmg (k : Nat) (x : Ring) (s : State) : (setRing k x s).tmg = s.tmg := rfl
@[simp] theorem setRing_bpm (k : Nat) (x : Ring) (s : State) : (setRing k x s).bpm = s.bpm := rfl
@[simp] theorem setRing_fab (k : Nat) (x : Ring) (s : State) : (setRing k x s).fab = s.fab := rfl
@[simp] theorem setRing_mcd (k : Nat) (x : Ring) (s : State) : (setRing k x s).mcd = s.mcd := rfl
@[simp] theorem setRing_mch (k : Nat) (x : Ring) (s : State) : (setRing k x s).mch = s.mch := rfl
@[simp] theorem setRing_cph (k : Nat) (x : Ring) (s : State) : (setRing k x s).cph = s.cph := rfl
@[simp] theorem setRing_csq (k : Nat) (x : Ring) (s : State) : (setRing k x s).csq = s.csq := rfl
@[simp] theorem setRing_hrt (k : Nat) (x : Ring) (s : State) : (setRing k x s).hrt = s.hrt := rfl
@[simp] theorem setRing_pins (k : Nat) (x : Ring) (s : State) : (setRing k x s).pins = s.pins := rfl

@[simp] theorem takeSlot_pending (k n : Nat) (s : State) : (takeSlot k n s).pending = s.pending := rfl
@[simp] theorem takeSlot_regs (k n : Nat) (s : State) : (takeSlot k n s).regs = s.regs := rfl
@[simp] theorem takeSlot_was (k n : Nat) (s : State) : (takeSlot k n s).was = s.was := rfl
@[simp] theorem takeSlot_lastRead (k n : Nat) (s : State) : (takeSlot k n s).lastRead = s.lastRead := rfl
@[simp] theorem takeSlot_out (k n : Nat) (s : State) : (takeSlot k n s).out = s.out := rfl
@[simp] theorem takeSlot_freeCtr (k n : Nat) (s : State) : (takeSlot k n s).freeCtr = s.freeCtr := rfl
@[simp] theorem takeSlot_mgmtDown (k n : Nat) (s : State) : (takeSlot k n s).mgmtDown = s.mgmtDown := rfl
@[simp] theorem takeSlot_bridgeUp (k n : Nat) (s : State) : (takeSlot k n s).bridgeUp = s.bridgeUp := rfl
@[simp] theorem takeSlot_tau (k n : Nat) (s : State) : (takeSlot k n s).tau = s.tau := rfl
@[simp] theorem takeSlot_ppu (k n : Nat) (s : State) : (takeSlot k n s).ppu = s.ppu := rfl
@[simp] theorem takeSlot_lkp (k n : Nat) (s : State) : (takeSlot k n s).lkp = s.lkp := rfl
@[simp] theorem takeSlot_tcam (k n : Nat) (s : State) : (takeSlot k n s).tcam = s.tcam := rfl
@[simp] theorem takeSlot_err (k n : Nat) (s : State) : (takeSlot k n s).err = s.err := rfl
@[simp] theorem takeSlot_gau (k n : Nat) (s : State) : (takeSlot k n s).gau = s.gau := rfl
@[simp] theorem takeSlot_liu (k n : Nat) (s : State) : (takeSlot k n s).liu = s.liu := rfl
@[simp] theorem takeSlot_tmg (k n : Nat) (s : State) : (takeSlot k n s).tmg = s.tmg := rfl
@[simp] theorem takeSlot_bpm (k n : Nat) (s : State) : (takeSlot k n s).bpm = s.bpm := rfl
@[simp] theorem takeSlot_fab (k n : Nat) (s : State) : (takeSlot k n s).fab = s.fab := rfl
@[simp] theorem takeSlot_mcd (k n : Nat) (s : State) : (takeSlot k n s).mcd = s.mcd := rfl
@[simp] theorem takeSlot_mch (k n : Nat) (s : State) : (takeSlot k n s).mch = s.mch := rfl
@[simp] theorem takeSlot_cph (k n : Nat) (s : State) : (takeSlot k n s).cph = s.cph := rfl
@[simp] theorem takeSlot_hif (k n : Nat) (s : State) : (takeSlot k n s).hif = s.hif := rfl
@[simp] theorem takeSlot_csq (k n : Nat) (s : State) : (takeSlot k n s).csq = s.csq := rfl
@[simp] theorem takeSlot_hrt (k n : Nat) (s : State) : (takeSlot k n s).hrt = s.hrt := rfl
@[simp] theorem takeSlot_pins (k n : Nat) (s : State) : (takeSlot k n s).pins = s.pins := rfl

@[simp] theorem slotUsed_pending (k code : Nat) (s : State) : (slotUsed k code s).pending = s.pending := rfl
@[simp] theorem slotUsed_regs (k code : Nat) (s : State) : (slotUsed k code s).regs = s.regs := rfl
@[simp] theorem slotUsed_was (k code : Nat) (s : State) : (slotUsed k code s).was = s.was := rfl
@[simp] theorem slotUsed_lastRead (k code : Nat) (s : State) : (slotUsed k code s).lastRead = s.lastRead := rfl
@[simp] theorem slotUsed_out (k code : Nat) (s : State) : (slotUsed k code s).out = s.out := rfl
@[simp] theorem slotUsed_freeCtr (k code : Nat) (s : State) : (slotUsed k code s).freeCtr = s.freeCtr := rfl
@[simp] theorem slotUsed_mgmtDown (k code : Nat) (s : State) : (slotUsed k code s).mgmtDown = s.mgmtDown := rfl
@[simp] theorem slotUsed_bridgeUp (k code : Nat) (s : State) : (slotUsed k code s).bridgeUp = s.bridgeUp := rfl
@[simp] theorem slotUsed_tau (k code : Nat) (s : State) : (slotUsed k code s).tau = s.tau := rfl
@[simp] theorem slotUsed_ppu (k code : Nat) (s : State) : (slotUsed k code s).ppu = s.ppu := rfl
@[simp] theorem slotUsed_lkp (k code : Nat) (s : State) : (slotUsed k code s).lkp = s.lkp := rfl
@[simp] theorem slotUsed_tcam (k code : Nat) (s : State) : (slotUsed k code s).tcam = s.tcam := rfl
@[simp] theorem slotUsed_err (k code : Nat) (s : State) : (slotUsed k code s).err = s.err := rfl
@[simp] theorem slotUsed_liu (k code : Nat) (s : State) : (slotUsed k code s).liu = s.liu := rfl
@[simp] theorem slotUsed_tmg (k code : Nat) (s : State) : (slotUsed k code s).tmg = s.tmg := rfl
@[simp] theorem slotUsed_bpm (k code : Nat) (s : State) : (slotUsed k code s).bpm = s.bpm := rfl
@[simp] theorem slotUsed_fab (k code : Nat) (s : State) : (slotUsed k code s).fab = s.fab := rfl
@[simp] theorem slotUsed_mcd (k code : Nat) (s : State) : (slotUsed k code s).mcd = s.mcd := rfl
@[simp] theorem slotUsed_mch (k code : Nat) (s : State) : (slotUsed k code s).mch = s.mch := rfl
@[simp] theorem slotUsed_cph (k code : Nat) (s : State) : (slotUsed k code s).cph = s.cph := rfl
@[simp] theorem slotUsed_hif (k code : Nat) (s : State) : (slotUsed k code s).hif = s.hif := rfl
@[simp] theorem slotUsed_csq (k code : Nat) (s : State) : (slotUsed k code s).csq = s.csq := rfl
@[simp] theorem slotUsed_hrt (k code : Nat) (s : State) : (slotUsed k code s).hrt = s.hrt := rfl
@[simp] theorem slotUsed_pins (k code : Nat) (s : State) : (slotUsed k code s).pins = s.pins := rfl

@[simp] theorem stmSet_pending (s : State) (a : Nat) (v : Word) : (stmSet s a v).pending = s.pending := rfl
@[simp] theorem stmSet_regs (s : State) (a : Nat) (v : Word) : (stmSet s a v).regs = s.regs := rfl
@[simp] theorem stmSet_was (s : State) (a : Nat) (v : Word) : (stmSet s a v).was = s.was := rfl
@[simp] theorem stmSet_lastRead (s : State) (a : Nat) (v : Word) : (stmSet s a v).lastRead = s.lastRead := rfl
@[simp] theorem stmSet_out (s : State) (a : Nat) (v : Word) : (stmSet s a v).out = s.out := rfl
@[simp] theorem stmSet_freeCtr (s : State) (a : Nat) (v : Word) : (stmSet s a v).freeCtr = s.freeCtr := rfl
@[simp] theorem stmSet_mgmtDown (s : State) (a : Nat) (v : Word) : (stmSet s a v).mgmtDown = s.mgmtDown := rfl
@[simp] theorem stmSet_bridgeUp (s : State) (a : Nat) (v : Word) : (stmSet s a v).bridgeUp = s.bridgeUp := rfl
@[simp] theorem stmSet_tau (s : State) (a : Nat) (v : Word) : (stmSet s a v).tau = s.tau := rfl
@[simp] theorem stmSet_ppu (s : State) (a : Nat) (v : Word) : (stmSet s a v).ppu = s.ppu := rfl
@[simp] theorem stmSet_lkp (s : State) (a : Nat) (v : Word) : (stmSet s a v).lkp = s.lkp := rfl
@[simp] theorem stmSet_tcam (s : State) (a : Nat) (v : Word) : (stmSet s a v).tcam = s.tcam := rfl
@[simp] theorem stmSet_err (s : State) (a : Nat) (v : Word) : (stmSet s a v).err = s.err := rfl
@[simp] theorem stmSet_gau (s : State) (a : Nat) (v : Word) : (stmSet s a v).gau = s.gau := rfl
@[simp] theorem stmSet_liu (s : State) (a : Nat) (v : Word) : (stmSet s a v).liu = s.liu := rfl
@[simp] theorem stmSet_tmg (s : State) (a : Nat) (v : Word) : (stmSet s a v).tmg = s.tmg := rfl
@[simp] theorem stmSet_bpm (s : State) (a : Nat) (v : Word) : (stmSet s a v).bpm = s.bpm := rfl
@[simp] theorem stmSet_fab (s : State) (a : Nat) (v : Word) : (stmSet s a v).fab = s.fab := rfl
@[simp] theorem stmSet_mcd (s : State) (a : Nat) (v : Word) : (stmSet s a v).mcd = s.mcd := rfl
@[simp] theorem stmSet_mch (s : State) (a : Nat) (v : Word) : (stmSet s a v).mch = s.mch := rfl
@[simp] theorem stmSet_cph (s : State) (a : Nat) (v : Word) : (stmSet s a v).cph = s.cph := rfl
@[simp] theorem stmSet_hif (s : State) (a : Nat) (v : Word) : (stmSet s a v).hif = s.hif := rfl
@[simp] theorem stmSet_csq (s : State) (a : Nat) (v : Word) : (stmSet s a v).csq = s.csq := rfl
@[simp] theorem stmSet_hrt (s : State) (a : Nat) (v : Word) : (stmSet s a v).hrt = s.hrt := rfl
@[simp] theorem stmSet_pins (s : State) (a : Nat) (v : Word) : (stmSet s a v).pins = s.pins := rfl

@[simp] theorem secondCycle_pending (k : Nat) (s : State) : (secondCycle k s).pending = s.pending := rfl
@[simp] theorem secondCycle_regs (k : Nat) (s : State) : (secondCycle k s).regs = s.regs := rfl
@[simp] theorem secondCycle_was (k : Nat) (s : State) : (secondCycle k s).was = s.was := rfl
@[simp] theorem secondCycle_lastRead (k : Nat) (s : State) : (secondCycle k s).lastRead = s.lastRead := rfl
@[simp] theorem secondCycle_out (k : Nat) (s : State) : (secondCycle k s).out = s.out := rfl
@[simp] theorem secondCycle_freeCtr (k : Nat) (s : State) : (secondCycle k s).freeCtr = s.freeCtr := rfl
@[simp] theorem secondCycle_mgmtDown (k : Nat) (s : State) : (secondCycle k s).mgmtDown = s.mgmtDown := rfl
@[simp] theorem secondCycle_bridgeUp (k : Nat) (s : State) : (secondCycle k s).bridgeUp = s.bridgeUp := rfl
@[simp] theorem secondCycle_tau (k : Nat) (s : State) : (secondCycle k s).tau = s.tau := rfl
@[simp] theorem secondCycle_ppu (k : Nat) (s : State) : (secondCycle k s).ppu = s.ppu := rfl
@[simp] theorem secondCycle_lkp (k : Nat) (s : State) : (secondCycle k s).lkp = s.lkp := rfl
@[simp] theorem secondCycle_tcam (k : Nat) (s : State) : (secondCycle k s).tcam = s.tcam := rfl
@[simp] theorem secondCycle_err (k : Nat) (s : State) : (secondCycle k s).err = s.err := rfl
@[simp] theorem secondCycle_liu (k : Nat) (s : State) : (secondCycle k s).liu = s.liu := rfl
@[simp] theorem secondCycle_tmg (k : Nat) (s : State) : (secondCycle k s).tmg = s.tmg := rfl
@[simp] theorem secondCycle_bpm (k : Nat) (s : State) : (secondCycle k s).bpm = s.bpm := rfl
@[simp] theorem secondCycle_fab (k : Nat) (s : State) : (secondCycle k s).fab = s.fab := rfl
@[simp] theorem secondCycle_mcd (k : Nat) (s : State) : (secondCycle k s).mcd = s.mcd := rfl
@[simp] theorem secondCycle_mch (k : Nat) (s : State) : (secondCycle k s).mch = s.mch := rfl
@[simp] theorem secondCycle_cph (k : Nat) (s : State) : (secondCycle k s).cph = s.cph := rfl
@[simp] theorem secondCycle_hif (k : Nat) (s : State) : (secondCycle k s).hif = s.hif := rfl
@[simp] theorem secondCycle_csq (k : Nat) (s : State) : (secondCycle k s).csq = s.csq := rfl
@[simp] theorem secondCycle_hrt (k : Nat) (s : State) : (secondCycle k s).hrt = s.hrt := rfl
@[simp] theorem secondCycle_pins (k : Nat) (s : State) : (secondCycle k s).pins = s.pins := rfl

@[simp] theorem withHrt_pending (f : Hrt → Hrt) (s : State) : (withHrt f s).pending = s.pending := rfl
@[simp] theorem withHrt_regs (f : Hrt → Hrt) (s : State) : (withHrt f s).regs = s.regs := rfl
@[simp] theorem withHrt_was (f : Hrt → Hrt) (s : State) : (withHrt f s).was = s.was := rfl
@[simp] theorem withHrt_lastRead (f : Hrt → Hrt) (s : State) : (withHrt f s).lastRead = s.lastRead := rfl
@[simp] theorem withHrt_out (f : Hrt → Hrt) (s : State) : (withHrt f s).out = s.out := rfl
@[simp] theorem withHrt_freeCtr (f : Hrt → Hrt) (s : State) : (withHrt f s).freeCtr = s.freeCtr := rfl
@[simp] theorem withHrt_mgmtDown (f : Hrt → Hrt) (s : State) : (withHrt f s).mgmtDown = s.mgmtDown := rfl
@[simp] theorem withHrt_bridgeUp (f : Hrt → Hrt) (s : State) : (withHrt f s).bridgeUp = s.bridgeUp := rfl
@[simp] theorem withHrt_tau (f : Hrt → Hrt) (s : State) : (withHrt f s).tau = s.tau := rfl
@[simp] theorem withHrt_sen (f : Hrt → Hrt) (s : State) : (withHrt f s).sen = s.sen := rfl
@[simp] theorem withHrt_ppu (f : Hrt → Hrt) (s : State) : (withHrt f s).ppu = s.ppu := rfl
@[simp] theorem withHrt_lkp (f : Hrt → Hrt) (s : State) : (withHrt f s).lkp = s.lkp := rfl
@[simp] theorem withHrt_tcam (f : Hrt → Hrt) (s : State) : (withHrt f s).tcam = s.tcam := rfl
@[simp] theorem withHrt_err (f : Hrt → Hrt) (s : State) : (withHrt f s).err = s.err := rfl
@[simp] theorem withHrt_gau (f : Hrt → Hrt) (s : State) : (withHrt f s).gau = s.gau := rfl
@[simp] theorem withHrt_liu (f : Hrt → Hrt) (s : State) : (withHrt f s).liu = s.liu := rfl
@[simp] theorem withHrt_tmg (f : Hrt → Hrt) (s : State) : (withHrt f s).tmg = s.tmg := rfl
@[simp] theorem withHrt_bpm (f : Hrt → Hrt) (s : State) : (withHrt f s).bpm = s.bpm := rfl
@[simp] theorem withHrt_fab (f : Hrt → Hrt) (s : State) : (withHrt f s).fab = s.fab := rfl
@[simp] theorem withHrt_mcd (f : Hrt → Hrt) (s : State) : (withHrt f s).mcd = s.mcd := rfl
@[simp] theorem withHrt_mch (f : Hrt → Hrt) (s : State) : (withHrt f s).mch = s.mch := rfl
@[simp] theorem withHrt_cph (f : Hrt → Hrt) (s : State) : (withHrt f s).cph = s.cph := rfl
@[simp] theorem withHrt_hif (f : Hrt → Hrt) (s : State) : (withHrt f s).hif = s.hif := rfl
@[simp] theorem withHrt_csq (f : Hrt → Hrt) (s : State) : (withHrt f s).csq = s.csq := rfl
@[simp] theorem withHrt_pins (f : Hrt → Hrt) (s : State) : (withHrt f s).pins = s.pins := rfl
@[simp] theorem withHrt_hrt (f : Hrt → Hrt) (s : State) : (withHrt f s).hrt = f s.hrt := rfl

@[simp] theorem withLiu_pending (f : Liu → Liu) (s : State) : (withLiu f s).pending = s.pending := rfl
@[simp] theorem withLiu_regs (f : Liu → Liu) (s : State) : (withLiu f s).regs = s.regs := rfl
@[simp] theorem withLiu_was (f : Liu → Liu) (s : State) : (withLiu f s).was = s.was := rfl
@[simp] theorem withLiu_lastRead (f : Liu → Liu) (s : State) : (withLiu f s).lastRead = s.lastRead := rfl
@[simp] theorem withLiu_out (f : Liu → Liu) (s : State) : (withLiu f s).out = s.out := rfl
@[simp] theorem withLiu_freeCtr (f : Liu → Liu) (s : State) : (withLiu f s).freeCtr = s.freeCtr := rfl
@[simp] theorem withLiu_mgmtDown (f : Liu → Liu) (s : State) : (withLiu f s).mgmtDown = s.mgmtDown := rfl
@[simp] theorem withLiu_bridgeUp (f : Liu → Liu) (s : State) : (withLiu f s).bridgeUp = s.bridgeUp := rfl
@[simp] theorem withLiu_tau (f : Liu → Liu) (s : State) : (withLiu f s).tau = s.tau := rfl
@[simp] theorem withLiu_sen (f : Liu → Liu) (s : State) : (withLiu f s).sen = s.sen := rfl
@[simp] theorem withLiu_ppu (f : Liu → Liu) (s : State) : (withLiu f s).ppu = s.ppu := rfl
@[simp] theorem withLiu_lkp (f : Liu → Liu) (s : State) : (withLiu f s).lkp = s.lkp := rfl
@[simp] theorem withLiu_tcam (f : Liu → Liu) (s : State) : (withLiu f s).tcam = s.tcam := rfl
@[simp] theorem withLiu_err (f : Liu → Liu) (s : State) : (withLiu f s).err = s.err := rfl
@[simp] theorem withLiu_gau (f : Liu → Liu) (s : State) : (withLiu f s).gau = s.gau := rfl
@[simp] theorem withLiu_tmg (f : Liu → Liu) (s : State) : (withLiu f s).tmg = s.tmg := rfl
@[simp] theorem withLiu_bpm (f : Liu → Liu) (s : State) : (withLiu f s).bpm = s.bpm := rfl
@[simp] theorem withLiu_fab (f : Liu → Liu) (s : State) : (withLiu f s).fab = s.fab := rfl
@[simp] theorem withLiu_mcd (f : Liu → Liu) (s : State) : (withLiu f s).mcd = s.mcd := rfl
@[simp] theorem withLiu_mch (f : Liu → Liu) (s : State) : (withLiu f s).mch = s.mch := rfl
@[simp] theorem withLiu_cph (f : Liu → Liu) (s : State) : (withLiu f s).cph = s.cph := rfl
@[simp] theorem withLiu_hif (f : Liu → Liu) (s : State) : (withLiu f s).hif = s.hif := rfl
@[simp] theorem withLiu_csq (f : Liu → Liu) (s : State) : (withLiu f s).csq = s.csq := rfl
@[simp] theorem withLiu_hrt (f : Liu → Liu) (s : State) : (withLiu f s).hrt = s.hrt := rfl
@[simp] theorem withLiu_pins (f : Liu → Liu) (s : State) : (withLiu f s).pins = s.pins := rfl
@[simp] theorem withLiu_liu (f : Liu → Liu) (s : State) : (withLiu f s).liu = f s.liu := rfl

@[simp] theorem withTau_pending (f : Tau → Tau) (s : State) : (withTau f s).pending = s.pending := rfl
@[simp] theorem withTau_regs (f : Tau → Tau) (s : State) : (withTau f s).regs = s.regs := rfl
@[simp] theorem withTau_was (f : Tau → Tau) (s : State) : (withTau f s).was = s.was := rfl
@[simp] theorem withTau_lastRead (f : Tau → Tau) (s : State) : (withTau f s).lastRead = s.lastRead := rfl
@[simp] theorem withTau_out (f : Tau → Tau) (s : State) : (withTau f s).out = s.out := rfl
@[simp] theorem withTau_freeCtr (f : Tau → Tau) (s : State) : (withTau f s).freeCtr = s.freeCtr := rfl
@[simp] theorem withTau_mgmtDown (f : Tau → Tau) (s : State) : (withTau f s).mgmtDown = s.mgmtDown := rfl
@[simp] theorem withTau_bridgeUp (f : Tau → Tau) (s : State) : (withTau f s).bridgeUp = s.bridgeUp := rfl
@[simp] theorem withTau_sen (f : Tau → Tau) (s : State) : (withTau f s).sen = s.sen := rfl
@[simp] theorem withTau_ppu (f : Tau → Tau) (s : State) : (withTau f s).ppu = s.ppu := rfl
@[simp] theorem withTau_lkp (f : Tau → Tau) (s : State) : (withTau f s).lkp = s.lkp := rfl
@[simp] theorem withTau_tcam (f : Tau → Tau) (s : State) : (withTau f s).tcam = s.tcam := rfl
@[simp] theorem withTau_err (f : Tau → Tau) (s : State) : (withTau f s).err = s.err := rfl
@[simp] theorem withTau_gau (f : Tau → Tau) (s : State) : (withTau f s).gau = s.gau := rfl
@[simp] theorem withTau_liu (f : Tau → Tau) (s : State) : (withTau f s).liu = s.liu := rfl
@[simp] theorem withTau_tmg (f : Tau → Tau) (s : State) : (withTau f s).tmg = s.tmg := rfl
@[simp] theorem withTau_bpm (f : Tau → Tau) (s : State) : (withTau f s).bpm = s.bpm := rfl
@[simp] theorem withTau_fab (f : Tau → Tau) (s : State) : (withTau f s).fab = s.fab := rfl
@[simp] theorem withTau_mcd (f : Tau → Tau) (s : State) : (withTau f s).mcd = s.mcd := rfl
@[simp] theorem withTau_mch (f : Tau → Tau) (s : State) : (withTau f s).mch = s.mch := rfl
@[simp] theorem withTau_cph (f : Tau → Tau) (s : State) : (withTau f s).cph = s.cph := rfl
@[simp] theorem withTau_hif (f : Tau → Tau) (s : State) : (withTau f s).hif = s.hif := rfl
@[simp] theorem withTau_csq (f : Tau → Tau) (s : State) : (withTau f s).csq = s.csq := rfl
@[simp] theorem withTau_hrt (f : Tau → Tau) (s : State) : (withTau f s).hrt = s.hrt := rfl
@[simp] theorem withTau_pins (f : Tau → Tau) (s : State) : (withTau f s).pins = s.pins := rfl
@[simp] theorem withTau_tau (f : Tau → Tau) (s : State) : (withTau f s).tau = f s.tau := rfl

@[simp] theorem withBpm_pending (f : Bpm → Bpm) (s : State) : (withBpm f s).pending = s.pending := rfl
@[simp] theorem withBpm_regs (f : Bpm → Bpm) (s : State) : (withBpm f s).regs = s.regs := rfl
@[simp] theorem withBpm_was (f : Bpm → Bpm) (s : State) : (withBpm f s).was = s.was := rfl
@[simp] theorem withBpm_lastRead (f : Bpm → Bpm) (s : State) : (withBpm f s).lastRead = s.lastRead := rfl
@[simp] theorem withBpm_out (f : Bpm → Bpm) (s : State) : (withBpm f s).out = s.out := rfl
@[simp] theorem withBpm_freeCtr (f : Bpm → Bpm) (s : State) : (withBpm f s).freeCtr = s.freeCtr := rfl
@[simp] theorem withBpm_mgmtDown (f : Bpm → Bpm) (s : State) : (withBpm f s).mgmtDown = s.mgmtDown := rfl
@[simp] theorem withBpm_bridgeUp (f : Bpm → Bpm) (s : State) : (withBpm f s).bridgeUp = s.bridgeUp := rfl
@[simp] theorem withBpm_tau (f : Bpm → Bpm) (s : State) : (withBpm f s).tau = s.tau := rfl
@[simp] theorem withBpm_sen (f : Bpm → Bpm) (s : State) : (withBpm f s).sen = s.sen := rfl
@[simp] theorem withBpm_ppu (f : Bpm → Bpm) (s : State) : (withBpm f s).ppu = s.ppu := rfl
@[simp] theorem withBpm_lkp (f : Bpm → Bpm) (s : State) : (withBpm f s).lkp = s.lkp := rfl
@[simp] theorem withBpm_tcam (f : Bpm → Bpm) (s : State) : (withBpm f s).tcam = s.tcam := rfl
@[simp] theorem withBpm_err (f : Bpm → Bpm) (s : State) : (withBpm f s).err = s.err := rfl
@[simp] theorem withBpm_gau (f : Bpm → Bpm) (s : State) : (withBpm f s).gau = s.gau := rfl
@[simp] theorem withBpm_liu (f : Bpm → Bpm) (s : State) : (withBpm f s).liu = s.liu := rfl
@[simp] theorem withBpm_tmg (f : Bpm → Bpm) (s : State) : (withBpm f s).tmg = s.tmg := rfl
@[simp] theorem withBpm_fab (f : Bpm → Bpm) (s : State) : (withBpm f s).fab = s.fab := rfl
@[simp] theorem withBpm_mcd (f : Bpm → Bpm) (s : State) : (withBpm f s).mcd = s.mcd := rfl
@[simp] theorem withBpm_mch (f : Bpm → Bpm) (s : State) : (withBpm f s).mch = s.mch := rfl
@[simp] theorem withBpm_cph (f : Bpm → Bpm) (s : State) : (withBpm f s).cph = s.cph := rfl
@[simp] theorem withBpm_hif (f : Bpm → Bpm) (s : State) : (withBpm f s).hif = s.hif := rfl
@[simp] theorem withBpm_csq (f : Bpm → Bpm) (s : State) : (withBpm f s).csq = s.csq := rfl
@[simp] theorem withBpm_hrt (f : Bpm → Bpm) (s : State) : (withBpm f s).hrt = s.hrt := rfl
@[simp] theorem withBpm_pins (f : Bpm → Bpm) (s : State) : (withBpm f s).pins = s.pins := rfl
@[simp] theorem withBpm_bpm (f : Bpm → Bpm) (s : State) : (withBpm f s).bpm = f s.bpm := rfl

@[simp] theorem withTmg_pending (f : Tmg → Tmg) (s : State) : (withTmg f s).pending = s.pending := rfl
@[simp] theorem withTmg_regs (f : Tmg → Tmg) (s : State) : (withTmg f s).regs = s.regs := rfl
@[simp] theorem withTmg_was (f : Tmg → Tmg) (s : State) : (withTmg f s).was = s.was := rfl
@[simp] theorem withTmg_lastRead (f : Tmg → Tmg) (s : State) : (withTmg f s).lastRead = s.lastRead := rfl
@[simp] theorem withTmg_out (f : Tmg → Tmg) (s : State) : (withTmg f s).out = s.out := rfl
@[simp] theorem withTmg_freeCtr (f : Tmg → Tmg) (s : State) : (withTmg f s).freeCtr = s.freeCtr := rfl
@[simp] theorem withTmg_mgmtDown (f : Tmg → Tmg) (s : State) : (withTmg f s).mgmtDown = s.mgmtDown := rfl
@[simp] theorem withTmg_bridgeUp (f : Tmg → Tmg) (s : State) : (withTmg f s).bridgeUp = s.bridgeUp := rfl
@[simp] theorem withTmg_tau (f : Tmg → Tmg) (s : State) : (withTmg f s).tau = s.tau := rfl
@[simp] theorem withTmg_sen (f : Tmg → Tmg) (s : State) : (withTmg f s).sen = s.sen := rfl
@[simp] theorem withTmg_ppu (f : Tmg → Tmg) (s : State) : (withTmg f s).ppu = s.ppu := rfl
@[simp] theorem withTmg_lkp (f : Tmg → Tmg) (s : State) : (withTmg f s).lkp = s.lkp := rfl
@[simp] theorem withTmg_tcam (f : Tmg → Tmg) (s : State) : (withTmg f s).tcam = s.tcam := rfl
@[simp] theorem withTmg_err (f : Tmg → Tmg) (s : State) : (withTmg f s).err = s.err := rfl
@[simp] theorem withTmg_gau (f : Tmg → Tmg) (s : State) : (withTmg f s).gau = s.gau := rfl
@[simp] theorem withTmg_liu (f : Tmg → Tmg) (s : State) : (withTmg f s).liu = s.liu := rfl
@[simp] theorem withTmg_bpm (f : Tmg → Tmg) (s : State) : (withTmg f s).bpm = s.bpm := rfl
@[simp] theorem withTmg_fab (f : Tmg → Tmg) (s : State) : (withTmg f s).fab = s.fab := rfl
@[simp] theorem withTmg_mcd (f : Tmg → Tmg) (s : State) : (withTmg f s).mcd = s.mcd := rfl
@[simp] theorem withTmg_mch (f : Tmg → Tmg) (s : State) : (withTmg f s).mch = s.mch := rfl
@[simp] theorem withTmg_cph (f : Tmg → Tmg) (s : State) : (withTmg f s).cph = s.cph := rfl
@[simp] theorem withTmg_hif (f : Tmg → Tmg) (s : State) : (withTmg f s).hif = s.hif := rfl
@[simp] theorem withTmg_csq (f : Tmg → Tmg) (s : State) : (withTmg f s).csq = s.csq := rfl
@[simp] theorem withTmg_hrt (f : Tmg → Tmg) (s : State) : (withTmg f s).hrt = s.hrt := rfl
@[simp] theorem withTmg_pins (f : Tmg → Tmg) (s : State) : (withTmg f s).pins = s.pins := rfl
@[simp] theorem withTmg_tmg (f : Tmg → Tmg) (s : State) : (withTmg f s).tmg = f s.tmg := rfl

@[simp] theorem withPins_pending (f : Pins → Pins) (s : State) : (withPins f s).pending = s.pending := rfl
@[simp] theorem withPins_regs (f : Pins → Pins) (s : State) : (withPins f s).regs = s.regs := rfl
@[simp] theorem withPins_was (f : Pins → Pins) (s : State) : (withPins f s).was = s.was := rfl
@[simp] theorem withPins_lastRead (f : Pins → Pins) (s : State) : (withPins f s).lastRead = s.lastRead := rfl
@[simp] theorem withPins_out (f : Pins → Pins) (s : State) : (withPins f s).out = s.out := rfl
@[simp] theorem withPins_freeCtr (f : Pins → Pins) (s : State) : (withPins f s).freeCtr = s.freeCtr := rfl
@[simp] theorem withPins_mgmtDown (f : Pins → Pins) (s : State) : (withPins f s).mgmtDown = s.mgmtDown := rfl
@[simp] theorem withPins_bridgeUp (f : Pins → Pins) (s : State) : (withPins f s).bridgeUp = s.bridgeUp := rfl
@[simp] theorem withPins_tau (f : Pins → Pins) (s : State) : (withPins f s).tau = s.tau := rfl
@[simp] theorem withPins_sen (f : Pins → Pins) (s : State) : (withPins f s).sen = s.sen := rfl
@[simp] theorem withPins_ppu (f : Pins → Pins) (s : State) : (withPins f s).ppu = s.ppu := rfl
@[simp] theorem withPins_lkp (f : Pins → Pins) (s : State) : (withPins f s).lkp = s.lkp := rfl
@[simp] theorem withPins_tcam (f : Pins → Pins) (s : State) : (withPins f s).tcam = s.tcam := rfl
@[simp] theorem withPins_err (f : Pins → Pins) (s : State) : (withPins f s).err = s.err := rfl
@[simp] theorem withPins_gau (f : Pins → Pins) (s : State) : (withPins f s).gau = s.gau := rfl
@[simp] theorem withPins_liu (f : Pins → Pins) (s : State) : (withPins f s).liu = s.liu := rfl
@[simp] theorem withPins_tmg (f : Pins → Pins) (s : State) : (withPins f s).tmg = s.tmg := rfl
@[simp] theorem withPins_bpm (f : Pins → Pins) (s : State) : (withPins f s).bpm = s.bpm := rfl
@[simp] theorem withPins_fab (f : Pins → Pins) (s : State) : (withPins f s).fab = s.fab := rfl
@[simp] theorem withPins_mcd (f : Pins → Pins) (s : State) : (withPins f s).mcd = s.mcd := rfl
@[simp] theorem withPins_mch (f : Pins → Pins) (s : State) : (withPins f s).mch = s.mch := rfl
@[simp] theorem withPins_cph (f : Pins → Pins) (s : State) : (withPins f s).cph = s.cph := rfl
@[simp] theorem withPins_hif (f : Pins → Pins) (s : State) : (withPins f s).hif = s.hif := rfl
@[simp] theorem withPins_csq (f : Pins → Pins) (s : State) : (withPins f s).csq = s.csq := rfl
@[simp] theorem withPins_hrt (f : Pins → Pins) (s : State) : (withPins f s).hrt = s.hrt := rfl
@[simp] theorem withPins_pins (f : Pins → Pins) (s : State) : (withPins f s).pins = f s.pins := rfl

@[simp] theorem withLkp_pending (f : Lkp → Lkp) (s : State) : (withLkp f s).pending = s.pending := rfl
@[simp] theorem withLkp_regs (f : Lkp → Lkp) (s : State) : (withLkp f s).regs = s.regs := rfl
@[simp] theorem withLkp_was (f : Lkp → Lkp) (s : State) : (withLkp f s).was = s.was := rfl
@[simp] theorem withLkp_lastRead (f : Lkp → Lkp) (s : State) : (withLkp f s).lastRead = s.lastRead := rfl
@[simp] theorem withLkp_out (f : Lkp → Lkp) (s : State) : (withLkp f s).out = s.out := rfl
@[simp] theorem withLkp_freeCtr (f : Lkp → Lkp) (s : State) : (withLkp f s).freeCtr = s.freeCtr := rfl
@[simp] theorem withLkp_mgmtDown (f : Lkp → Lkp) (s : State) : (withLkp f s).mgmtDown = s.mgmtDown := rfl
@[simp] theorem withLkp_bridgeUp (f : Lkp → Lkp) (s : State) : (withLkp f s).bridgeUp = s.bridgeUp := rfl
@[simp] theorem withLkp_tau (f : Lkp → Lkp) (s : State) : (withLkp f s).tau = s.tau := rfl
@[simp] theorem withLkp_sen (f : Lkp → Lkp) (s : State) : (withLkp f s).sen = s.sen := rfl
@[simp] theorem withLkp_ppu (f : Lkp → Lkp) (s : State) : (withLkp f s).ppu = s.ppu := rfl
@[simp] theorem withLkp_tcam (f : Lkp → Lkp) (s : State) : (withLkp f s).tcam = s.tcam := rfl
@[simp] theorem withLkp_err (f : Lkp → Lkp) (s : State) : (withLkp f s).err = s.err := rfl
@[simp] theorem withLkp_gau (f : Lkp → Lkp) (s : State) : (withLkp f s).gau = s.gau := rfl
@[simp] theorem withLkp_liu (f : Lkp → Lkp) (s : State) : (withLkp f s).liu = s.liu := rfl
@[simp] theorem withLkp_tmg (f : Lkp → Lkp) (s : State) : (withLkp f s).tmg = s.tmg := rfl
@[simp] theorem withLkp_bpm (f : Lkp → Lkp) (s : State) : (withLkp f s).bpm = s.bpm := rfl
@[simp] theorem withLkp_fab (f : Lkp → Lkp) (s : State) : (withLkp f s).fab = s.fab := rfl
@[simp] theorem withLkp_mcd (f : Lkp → Lkp) (s : State) : (withLkp f s).mcd = s.mcd := rfl
@[simp] theorem withLkp_mch (f : Lkp → Lkp) (s : State) : (withLkp f s).mch = s.mch := rfl
@[simp] theorem withLkp_cph (f : Lkp → Lkp) (s : State) : (withLkp f s).cph = s.cph := rfl
@[simp] theorem withLkp_hif (f : Lkp → Lkp) (s : State) : (withLkp f s).hif = s.hif := rfl
@[simp] theorem withLkp_csq (f : Lkp → Lkp) (s : State) : (withLkp f s).csq = s.csq := rfl
@[simp] theorem withLkp_hrt (f : Lkp → Lkp) (s : State) : (withLkp f s).hrt = s.hrt := rfl
@[simp] theorem withLkp_pins (f : Lkp → Lkp) (s : State) : (withLkp f s).pins = s.pins := rfl
@[simp] theorem withLkp_lkp (f : Lkp → Lkp) (s : State) : (withLkp f s).lkp = f s.lkp := rfl

@[simp] theorem withTcam_pending (f : Tcam → Tcam) (s : State) : (withTcam f s).pending = s.pending := rfl
@[simp] theorem withTcam_regs (f : Tcam → Tcam) (s : State) : (withTcam f s).regs = s.regs := rfl
@[simp] theorem withTcam_was (f : Tcam → Tcam) (s : State) : (withTcam f s).was = s.was := rfl
@[simp] theorem withTcam_lastRead (f : Tcam → Tcam) (s : State) : (withTcam f s).lastRead = s.lastRead := rfl
@[simp] theorem withTcam_out (f : Tcam → Tcam) (s : State) : (withTcam f s).out = s.out := rfl
@[simp] theorem withTcam_freeCtr (f : Tcam → Tcam) (s : State) : (withTcam f s).freeCtr = s.freeCtr := rfl
@[simp] theorem withTcam_mgmtDown (f : Tcam → Tcam) (s : State) : (withTcam f s).mgmtDown = s.mgmtDown := rfl
@[simp] theorem withTcam_bridgeUp (f : Tcam → Tcam) (s : State) : (withTcam f s).bridgeUp = s.bridgeUp := rfl
@[simp] theorem withTcam_tau (f : Tcam → Tcam) (s : State) : (withTcam f s).tau = s.tau := rfl
@[simp] theorem withTcam_sen (f : Tcam → Tcam) (s : State) : (withTcam f s).sen = s.sen := rfl
@[simp] theorem withTcam_ppu (f : Tcam → Tcam) (s : State) : (withTcam f s).ppu = s.ppu := rfl
@[simp] theorem withTcam_lkp (f : Tcam → Tcam) (s : State) : (withTcam f s).lkp = s.lkp := rfl
@[simp] theorem withTcam_err (f : Tcam → Tcam) (s : State) : (withTcam f s).err = s.err := rfl
@[simp] theorem withTcam_gau (f : Tcam → Tcam) (s : State) : (withTcam f s).gau = s.gau := rfl
@[simp] theorem withTcam_liu (f : Tcam → Tcam) (s : State) : (withTcam f s).liu = s.liu := rfl
@[simp] theorem withTcam_tmg (f : Tcam → Tcam) (s : State) : (withTcam f s).tmg = s.tmg := rfl
@[simp] theorem withTcam_bpm (f : Tcam → Tcam) (s : State) : (withTcam f s).bpm = s.bpm := rfl
@[simp] theorem withTcam_fab (f : Tcam → Tcam) (s : State) : (withTcam f s).fab = s.fab := rfl
@[simp] theorem withTcam_mcd (f : Tcam → Tcam) (s : State) : (withTcam f s).mcd = s.mcd := rfl
@[simp] theorem withTcam_mch (f : Tcam → Tcam) (s : State) : (withTcam f s).mch = s.mch := rfl
@[simp] theorem withTcam_cph (f : Tcam → Tcam) (s : State) : (withTcam f s).cph = s.cph := rfl
@[simp] theorem withTcam_hif (f : Tcam → Tcam) (s : State) : (withTcam f s).hif = s.hif := rfl
@[simp] theorem withTcam_csq (f : Tcam → Tcam) (s : State) : (withTcam f s).csq = s.csq := rfl
@[simp] theorem withTcam_hrt (f : Tcam → Tcam) (s : State) : (withTcam f s).hrt = s.hrt := rfl
@[simp] theorem withTcam_pins (f : Tcam → Tcam) (s : State) : (withTcam f s).pins = s.pins := rfl
@[simp] theorem withTcam_tcam (f : Tcam → Tcam) (s : State) : (withTcam f s).tcam = f s.tcam := rfl

@[simp] theorem withCsq_pending (f : Csq → Csq) (s : State) : (withCsq f s).pending = s.pending := rfl
@[simp] theorem withCsq_regs (f : Csq → Csq) (s : State) : (withCsq f s).regs = s.regs := rfl
@[simp] theorem withCsq_was (f : Csq → Csq) (s : State) : (withCsq f s).was = s.was := rfl
@[simp] theorem withCsq_lastRead (f : Csq → Csq) (s : State) : (withCsq f s).lastRead = s.lastRead := rfl
@[simp] theorem withCsq_out (f : Csq → Csq) (s : State) : (withCsq f s).out = s.out := rfl
@[simp] theorem withCsq_freeCtr (f : Csq → Csq) (s : State) : (withCsq f s).freeCtr = s.freeCtr := rfl
@[simp] theorem withCsq_mgmtDown (f : Csq → Csq) (s : State) : (withCsq f s).mgmtDown = s.mgmtDown := rfl
@[simp] theorem withCsq_bridgeUp (f : Csq → Csq) (s : State) : (withCsq f s).bridgeUp = s.bridgeUp := rfl
@[simp] theorem withCsq_tau (f : Csq → Csq) (s : State) : (withCsq f s).tau = s.tau := rfl
@[simp] theorem withCsq_sen (f : Csq → Csq) (s : State) : (withCsq f s).sen = s.sen := rfl
@[simp] theorem withCsq_ppu (f : Csq → Csq) (s : State) : (withCsq f s).ppu = s.ppu := rfl
@[simp] theorem withCsq_lkp (f : Csq → Csq) (s : State) : (withCsq f s).lkp = s.lkp := rfl
@[simp] theorem withCsq_tcam (f : Csq → Csq) (s : State) : (withCsq f s).tcam = s.tcam := rfl
@[simp] theorem withCsq_err (f : Csq → Csq) (s : State) : (withCsq f s).err = s.err := rfl
@[simp] theorem withCsq_gau (f : Csq → Csq) (s : State) : (withCsq f s).gau = s.gau := rfl
@[simp] theorem withCsq_liu (f : Csq → Csq) (s : State) : (withCsq f s).liu = s.liu := rfl
@[simp] theorem withCsq_tmg (f : Csq → Csq) (s : State) : (withCsq f s).tmg = s.tmg := rfl
@[simp] theorem withCsq_bpm (f : Csq → Csq) (s : State) : (withCsq f s).bpm = s.bpm := rfl
@[simp] theorem withCsq_fab (f : Csq → Csq) (s : State) : (withCsq f s).fab = s.fab := rfl
@[simp] theorem withCsq_mcd (f : Csq → Csq) (s : State) : (withCsq f s).mcd = s.mcd := rfl
@[simp] theorem withCsq_mch (f : Csq → Csq) (s : State) : (withCsq f s).mch = s.mch := rfl
@[simp] theorem withCsq_cph (f : Csq → Csq) (s : State) : (withCsq f s).cph = s.cph := rfl
@[simp] theorem withCsq_hif (f : Csq → Csq) (s : State) : (withCsq f s).hif = s.hif := rfl
@[simp] theorem withCsq_hrt (f : Csq → Csq) (s : State) : (withCsq f s).hrt = s.hrt := rfl
@[simp] theorem withCsq_pins (f : Csq → Csq) (s : State) : (withCsq f s).pins = s.pins := rfl
@[simp] theorem withCsq_csq (f : Csq → Csq) (s : State) : (withCsq f s).csq = f s.csq := rfl

@[simp] theorem withGau_pending (f : Gau → Gau) (s : State) : (withGau f s).pending = s.pending := rfl
@[simp] theorem withGau_regs (f : Gau → Gau) (s : State) : (withGau f s).regs = s.regs := rfl
@[simp] theorem withGau_was (f : Gau → Gau) (s : State) : (withGau f s).was = s.was := rfl
@[simp] theorem withGau_lastRead (f : Gau → Gau) (s : State) : (withGau f s).lastRead = s.lastRead := rfl
@[simp] theorem withGau_out (f : Gau → Gau) (s : State) : (withGau f s).out = s.out := rfl
@[simp] theorem withGau_freeCtr (f : Gau → Gau) (s : State) : (withGau f s).freeCtr = s.freeCtr := rfl
@[simp] theorem withGau_mgmtDown (f : Gau → Gau) (s : State) : (withGau f s).mgmtDown = s.mgmtDown := rfl
@[simp] theorem withGau_bridgeUp (f : Gau → Gau) (s : State) : (withGau f s).bridgeUp = s.bridgeUp := rfl
@[simp] theorem withGau_tau (f : Gau → Gau) (s : State) : (withGau f s).tau = s.tau := rfl
@[simp] theorem withGau_sen (f : Gau → Gau) (s : State) : (withGau f s).sen = s.sen := rfl
@[simp] theorem withGau_ppu (f : Gau → Gau) (s : State) : (withGau f s).ppu = s.ppu := rfl
@[simp] theorem withGau_lkp (f : Gau → Gau) (s : State) : (withGau f s).lkp = s.lkp := rfl
@[simp] theorem withGau_tcam (f : Gau → Gau) (s : State) : (withGau f s).tcam = s.tcam := rfl
@[simp] theorem withGau_err (f : Gau → Gau) (s : State) : (withGau f s).err = s.err := rfl
@[simp] theorem withGau_liu (f : Gau → Gau) (s : State) : (withGau f s).liu = s.liu := rfl
@[simp] theorem withGau_tmg (f : Gau → Gau) (s : State) : (withGau f s).tmg = s.tmg := rfl
@[simp] theorem withGau_bpm (f : Gau → Gau) (s : State) : (withGau f s).bpm = s.bpm := rfl
@[simp] theorem withGau_fab (f : Gau → Gau) (s : State) : (withGau f s).fab = s.fab := rfl
@[simp] theorem withGau_mcd (f : Gau → Gau) (s : State) : (withGau f s).mcd = s.mcd := rfl
@[simp] theorem withGau_mch (f : Gau → Gau) (s : State) : (withGau f s).mch = s.mch := rfl
@[simp] theorem withGau_cph (f : Gau → Gau) (s : State) : (withGau f s).cph = s.cph := rfl
@[simp] theorem withGau_hif (f : Gau → Gau) (s : State) : (withGau f s).hif = s.hif := rfl
@[simp] theorem withGau_csq (f : Gau → Gau) (s : State) : (withGau f s).csq = s.csq := rfl
@[simp] theorem withGau_hrt (f : Gau → Gau) (s : State) : (withGau f s).hrt = s.hrt := rfl
@[simp] theorem withGau_pins (f : Gau → Gau) (s : State) : (withGau f s).pins = s.pins := rfl
@[simp] theorem withGau_gau (f : Gau → Gau) (s : State) : (withGau f s).gau = f s.gau := rfl

@[simp] theorem withFab_pending (f : Fab → Fab) (s : State) : (withFab f s).pending = s.pending := rfl
@[simp] theorem withFab_regs (f : Fab → Fab) (s : State) : (withFab f s).regs = s.regs := rfl
@[simp] theorem withFab_was (f : Fab → Fab) (s : State) : (withFab f s).was = s.was := rfl
@[simp] theorem withFab_lastRead (f : Fab → Fab) (s : State) : (withFab f s).lastRead = s.lastRead := rfl
@[simp] theorem withFab_out (f : Fab → Fab) (s : State) : (withFab f s).out = s.out := rfl
@[simp] theorem withFab_freeCtr (f : Fab → Fab) (s : State) : (withFab f s).freeCtr = s.freeCtr := rfl
@[simp] theorem withFab_mgmtDown (f : Fab → Fab) (s : State) : (withFab f s).mgmtDown = s.mgmtDown := rfl
@[simp] theorem withFab_bridgeUp (f : Fab → Fab) (s : State) : (withFab f s).bridgeUp = s.bridgeUp := rfl
@[simp] theorem withFab_tau (f : Fab → Fab) (s : State) : (withFab f s).tau = s.tau := rfl
@[simp] theorem withFab_sen (f : Fab → Fab) (s : State) : (withFab f s).sen = s.sen := rfl
@[simp] theorem withFab_ppu (f : Fab → Fab) (s : State) : (withFab f s).ppu = s.ppu := rfl
@[simp] theorem withFab_lkp (f : Fab → Fab) (s : State) : (withFab f s).lkp = s.lkp := rfl
@[simp] theorem withFab_tcam (f : Fab → Fab) (s : State) : (withFab f s).tcam = s.tcam := rfl
@[simp] theorem withFab_err (f : Fab → Fab) (s : State) : (withFab f s).err = s.err := rfl
@[simp] theorem withFab_gau (f : Fab → Fab) (s : State) : (withFab f s).gau = s.gau := rfl
@[simp] theorem withFab_liu (f : Fab → Fab) (s : State) : (withFab f s).liu = s.liu := rfl
@[simp] theorem withFab_tmg (f : Fab → Fab) (s : State) : (withFab f s).tmg = s.tmg := rfl
@[simp] theorem withFab_bpm (f : Fab → Fab) (s : State) : (withFab f s).bpm = s.bpm := rfl
@[simp] theorem withFab_mcd (f : Fab → Fab) (s : State) : (withFab f s).mcd = s.mcd := rfl
@[simp] theorem withFab_mch (f : Fab → Fab) (s : State) : (withFab f s).mch = s.mch := rfl
@[simp] theorem withFab_cph (f : Fab → Fab) (s : State) : (withFab f s).cph = s.cph := rfl
@[simp] theorem withFab_hif (f : Fab → Fab) (s : State) : (withFab f s).hif = s.hif := rfl
@[simp] theorem withFab_csq (f : Fab → Fab) (s : State) : (withFab f s).csq = s.csq := rfl
@[simp] theorem withFab_hrt (f : Fab → Fab) (s : State) : (withFab f s).hrt = s.hrt := rfl
@[simp] theorem withFab_pins (f : Fab → Fab) (s : State) : (withFab f s).pins = s.pins := rfl
@[simp] theorem withFab_fab (f : Fab → Fab) (s : State) : (withFab f s).fab = f s.fab := rfl

end Sys2Proof.Laws
end

