-- ==== Sys2Proof/Tests/Slice0.lean ====
section
/-! SUPPORT. The model's own tests: ill-formed commands that `Instr.wf` refuses, values and worked examples that the
manual states, and, for every statement with hypotheses, states and operands that meet them. -/

namespace Sys2Proof.Tests
open Sys2Proof Sys2Proof.Machine

/-- Register values put into a state. -/
def put (l : List (Reg × Nat × Word)) (s : State) : State := l.foldl (fun s e => rset s e.1 e.2.1 e.2.2) s

/-- The first thread of course 0. -/
def th0 : ThreadRef := ⟨0, 0⟩

/-- A program of one word in bank A of course 0, and its first thread Ready at address 0. -/
def prog (w : Word) (t : Thread) : State :=
  setThr (setBank State.reset 0 false { Bank.empty with st := .active, length := 1, words := [(0, w)] }) 0
    { t with st := .ready, pc := 0 }

/-- An instruction word of R110: the opcode in [63:56], rd in [55:51], ra in [50:46], and the rest as given. -/
def word (op rd ra rest : Nat) : Word := BitVec.ofNat 64 (op * 2 ^ 56 + rd * 2 ^ 51 + ra * 2 ^ 46 + rest)


/-- Course 0 in force in mode `m`, its bank A active. -/
def inMode (m : Nat) : State :=
  setCourse (setBank State.reset 0 false { Bank.empty with st := .active, length := 1 }) 0 { CourseSt.init with inForce := m }

/-- The state after reset at a monotonic count. -/
def at' (n : Nat) : State := { State.reset with tau := { State.reset.tau with mono := n } }

/-- A one-packet path: the packet that the tests put on it. -/
def pkt1 : Packet := { Packet.empty with pid := 1, src := 1, win := [1, 2, 3] }

/-- The state after reset with the first PCIe link up and both functions masters of the bus. -/
def dma : State :=
  put [(R.HIF_LINK_STAT, 0, at_ 1 5)] { State.reset with hif := { State.reset.hif with bme0 := true, bme1 := true } }

/-- DDR5 ready with eight channels of one DIMM and one rank, and 1 GiB. -/
def ddr (n : Nat) : State :=
  put ([(R.MCD_STATUS, 0, at_ 1 63), (R.MCD_GEOM, 0, at_ 8 56 ||| at_ 1 54 ||| at_ 1 52 ||| at_ 16 47 ||| at_ 1024 0),
        (R.MCD_PWR_CTL, 0, 1), (R.MCD_FREQ_CTL, 0, at_ 8 60)] ++ (List.range 8).map (fun c => (R.MCD_CH_STAT, c, (0 : Word))))
    (at' n)

/-- The state a command leaves. -/
def ran (c : Instr) (s : State) : State := after (exec c s) s

/-! ### Well-formedness -/

/-- Every check of `Instr.wf` refuses a term that breaks it. -/
theorem test_wf_host_access :
    Instr.wf (.registerWrite (.bar0 (2 ^ 28)) 8 0) = false ∧ Instr.wf (.registerWrite (.bar0 0) 3 0) = false ∧
    Instr.wf (.counterReadClear (.page 0 65536) 8) = false ∧ Instr.wf (.counterReadClear (.bar0 0) 16) = false := by
  decide

theorem test_wf_time : Instr.wf (.todByteRx 0 0 1000000000) = false ∧
    Instr.wf (.todByteRx 0 (BitVec.ofNat 64 (2 ^ 48)) 0) = false := by decide

theorem test_wf_lookup : Instr.wf (.lookupResult ⟨0, 0⟩ 0 false (.parity .own (2 ^ 29))) = false ∧
    Instr.wf (.lkpCommandDone (.parity .result (2 ^ 29))) = false ∧ Instr.wf (.tcamCommandDone (.parity .result (2 ^ 29))) = false ∧
    Instr.wf (.learnApply (some (2 ^ 29))) = false ∧ Instr.wf (.ageingSweep ⟨0, [2 ^ 29]⟩) = false := by decide

theorem test_wf_line : Instr.wf (.frameHeaderReady 0 []) = false ∧
    Instr.wf (.otnRxFrame 0 ⟨[[15296]], 0, 0, 0, false, false, false, false, 0, 0⟩) = false ∧
    Instr.wf (.otnRxFrame 0 ⟨[[], [], [], [], []], 0, 0, 0, false, false, false, false, 0, 0⟩) = false := by decide

theorem test_wf_pools : Instr.wf (.allocationRequest 0 0 0 0) = false ∧ Instr.wf (.allocationRequest 0 0 16385 0) = false ∧
    Instr.wf (.incrementRequest 0 ⟨⟨0, 0⟩, .clean⟩ 0) = false ∧ Instr.wf (.incrementRequest 0 ⟨⟨0, 0⟩, .clean⟩ 4096) = false := by decide

theorem test_wf_fabric : Instr.wf (.dataCellRx 0 true ⟨0, 0, 0, 0, 0, true, true, false, 241, false, 0, []⟩) = false ∧
    Instr.wf (.requestCellRx 0 true ⟨0, 0, 0⟩ (List.replicate 31 ⟨0, 0, 0⟩)) = false ∧
    Instr.wf (.grantCellRx 0 true ⟨0, 0, List.replicate 31 ⟨0, 0⟩⟩) = false := by decide

theorem test_wf_memory : Instr.wf (.memoryRequest .mcd ⟨2 ^ 41, 1, none, .clean⟩) = false ∧
    Instr.wf (.memoryRequest .mcd ⟨255, 2, none, .clean⟩) = false ∧ Instr.wf (.memoryRequest .mcd ⟨0, 0, none, .clean⟩) = false ∧
    Instr.wf (.scrubRead .mch (2 ^ 41) .clean) = false := by decide

theorem test_wf_host : Instr.wf (.bitmapWordMerge 0 (2 ^ 22) none) = false ∧
    Instr.wf (.descriptorFetch (.pf0 0) (List.replicate 10 0)) = false ∧
    Instr.wf (.portAccessReturn 0 0 (List.replicate 65 0) .ok) = false := by decide

theorem test_wf_long : Instr.wf (.mbxGo .pf0 0 (List.replicate 1025 0)) = false ∧
    Instr.wf (.descTx (.pf0 0) (List.replicate 16384 0)) = false ∧
    Instr.wf (.descCipher (.pf0 0) (List.replicate 65537 0)) = false := by
  simp only [Instr.wf, List.length_replicate]; decide

theorem test_wf_boot :
    Instr.wf (.deviceReset ⟨0, false, false, [], [], List.replicate 9 (.absent, .absent), []⟩) = false ∧
    Instr.wf (.deviceReset ⟨0, false, false, [], [], [], [⟨0, 1, 0, [], []⟩]⟩) = false := by decide

theorem test_wf_spdm : Instr.wf (.getCertificate 8 0 0) = false ∧ Instr.wf (.getCertificate 0 65536 0) = false ∧
    Instr.wf (.getCertificate 0 0 65536) = false ∧ Instr.wf (.challenge 8 0) = false ∧
    Instr.wf (.getMeasurements 256 0) = false := by decide

theorem test_wf_faults : Instr.wf (.faultReport ⟨4, 0, 0, 0, 0, 0, 0⟩) = false ∧
    Instr.wf (.faultReport ⟨1, 0, 10, 0, 0, 0, 0⟩) = false ∧ Instr.wf (.errorWindowClose 0 640) = false ∧
    Instr.wf (.pcieLinkUp 0 7 16 false) = false ∧ Instr.wf (.pcieLinkUp 0 1 17 false) = false := by decide

/-! ### Values the manual states -/

/-- The worked example of ch. 19 gives the reset value of ERR_THRESH[8]; R12 gives GLB_DEVICE_ID of stepping B0. -/
theorem test_reset_values : regReset R.ERR_THRESH 8 = 0x800000003E800040 ∧ regReset R.GLB_DEVICE_ID 0 = 0x7C1A640010010000 := by
  decide

/-- The worked example of ch. 18: the word 0 of an ACTIVATE with HITLESS and TAG 0xFA3. -/
theorem test_activate_word : fld (0x0020000100000FA3 : Word) 63 48 = 0x20 ∧ bit (0x0020000100000FA3 : Word) 32 = true ∧
    fld (0x0020000100000FA3 : Word) 31 0 = 0xFA3 := by decide

/-- No word spells a command: the table gives its rows no bits. -/
theorem test_decode_none : decodeTableWord 64 0 = none := rfl

/-! ### States that meet the hypotheses of the statements -/

/-- O1, O2: a word of each register, immediate, field and hash form issues. -/
theorem test_wit_register_forms :
    ∀ op ∈ [0x10, 0x11, 0x12, 0x13, 0x14, 0x15, 0x16, 0x17, 0x18, 0x19, 0x1A, 0x1B, 0x1C, 0x1D],
      Issues (prog (word op 31 1 (2 * 2 ^ 41)) Thread.empty) th0 op (fun w => asR w = ⟨31, 1, 2⟩) := by
  unfold Issues; decide +kernel

/-- O2: a word of each immediate, field and hash form issues; WID 0 and KN 0, the ends of their ranges, among them. -/
theorem test_wit_immediate_forms :
    (∀ op ∈ [0x20, 0x21, 0x22, 0x23, 0x24, 0x25, 0x26],
      Issues (prog (word op 31 1 0xFFFFFFFF) Thread.empty) th0 op (fun w => asI w = ⟨31, 1, 0, 0xFFFFFFFF⟩)) ∧
    (∀ op ∈ [0x28, 0x29],
      Issues (prog (word op 0 0 0xFFFFFFFF) Thread.empty) th0 op (fun w => asI w = ⟨0, 0, 0, 0xFFFFFFFF⟩)) ∧
    (∀ op ∈ [0x30, 0x31],
      Issues (prog (word op 31 1 (63 * 2 ^ 40)) Thread.empty) th0 op (fun w => asF w = ⟨31, 1, 63, 0⟩)) ∧
    Issues (prog (word 0x32 31 31 0) Thread.empty) th0 0x32 (fun w => asH w = ⟨31, 31, 0, 0⟩) := by
  unfold Issues; decide +kernel

/-- O3: a word of each window and metadata form issues, a PUSH and an APND at the end of the room they may take. -/
theorem test_wit_window_forms :
    (∀ op ∈ [0x40, 0x41, 0x45], Issues (prog (word op 31 1 (511 * 2 ^ 37)) Thread.empty) th0 op
      (fun w => asW w = ⟨31, 1, 511, 0, 0, 0, 0⟩)) ∧
    (let p : Packet := { Packet.empty with complete := true, orig := 0 }
     let s (op : Nat) : State := prog (word op 31 1 (64 * 2 ^ 23)) { Thread.empty with pkt := setFrameLen p 64 }
     (∀ op ∈ [0x42, 0x43, 0x44], Issues (s op) th0 op (fun w => asW w = ⟨31, 1, 0, 0, 64, 0, 0⟩)) ∧
     frameLen (counted (s 0x42) th0).pkt + 64 ≤ (counted (s 0x42) th0).pkt.orig + 128) ∧
    (let s (op : Nat) : State := prog (word op 31 1 (15 * 2 ^ 42)) Thread.empty
     ∀ op ∈ [0x48, 0x49, 0x4A], Issues (s op) th0 op (fun w => asM w = ⟨31, 1, 15, 0, 0⟩)) := by
  unfold Issues; decide +kernel

/-- O5, O6: branches and jumps issue, among them calls with a full and returns with an empty call stack. -/
theorem test_wit_flow :
    (∀ op ∈ [0x50, 0x51, 0x52], Issues (prog (word op 0 0 7) { Thread.empty with stack := [5] }) th0 op
      (fun w => asB w = ⟨0, 0, 0, 0, 7⟩)) ∧
    (∀ op ∈ [0x54, 0x55, 0x56, 0x57, 0x58, 0x59, 0x5A, 0x5B, 0x5C, 0x5D, 0x5E, 0x5F],
      Issues (prog (word op 1 2 7) Thread.empty) th0 op (fun w => asB w = ⟨1, 2, 0, 0, 7⟩)) ∧
    Issues (prog (word 0x53 0 1 0xFFFF) Thread.empty) th0 0x53 (fun w => asI w = ⟨0, 1, 0, 0xFFFF⟩) ∧
    (let full : Thread := { Thread.empty with stack := [1, 2, 3, 4, 5, 6, 7, 8] }
     Issues (prog (word 0x51 0 0 0) full) th0 0x51 (fun w => asB w = ⟨0, 0, 0, 0, 0⟩) ∧
     8 ≤ (ctx (prog (word 0x51 0 0 0) full) th0).stack.length) ∧
    Issues (prog (word 0x52 0 0 0) Thread.empty) th0 0x52 (fun w => asB w = ⟨0, 0, 0, 0, 0⟩) := by
  unfold Issues; decide +kernel

/-- O6: words that raise an exception issue; a program counter at the end of the image, with a budget left and spent. -/
theorem test_wit_exceptions :
    (∀ op ∈ [0x00, 0x01, 0x78, 0x79, 0x7A],
      Issues (prog (word op 0 0 0) Thread.empty) th0 op (fun w => asX w = ⟨0, 0, 0, 0, 0, 0⟩)) ∧
    (let s := prog (word 0x72 0 0 0) { Thread.empty with svc := true }
     Issues s th0 0x72 (fun w => asX w = ⟨0, 0, 0, 0, 0, 0⟩) ∧ (ctx s th0).svc = true) ∧
    definedOpcodes.contains 0x02 = false ∧ Issues (prog (word 0x02 0 0 0) Thread.empty) th0 0x02 (fun _ => True) ∧
    (∀ n ∈ [0, 1024], let s := setThr (prog 0 Thread.empty) 0 { Thread.empty with st := .ready, pc := 1, count := n }
     (ctx s th0).start ≤ s.tau.mono ∧ turn s 0 = true ∧ (thrBank s 0).length ≤ (ctx s th0).pc ∧
     budgetGone s (ctx s th0) (decide (opcodeOf (thrWord s 0) = 0x78)) = decide (n = 1024)) ∧
    budgetGone State.reset { Thread.empty with count := 1023 } false = false ∧
    budgetGone State.reset { Thread.empty with handler := true, spent := 64 } false = true ∧
    budgetGone State.reset { Thread.empty with svc := true, spent := 65536 } false = true ∧
    budgetGone State.reset { Thread.empty with svc := true, spent := 65536 } true = false := by
  unfold Issues; decide +kernel

/-- O7, O8: LKUP and LRN issue with a profile that learns; PMATCH and ATOM issue. -/
theorem test_wit_requests :
    (∀ op ∈ [0x60, 0x61],
      let s := put [(R.LKP_PROFILE, 0, at_ 1 63), (R.LKP_LEARN_CFG, 0, at_ 1 63)] (prog (word op 31 1 0) Thread.empty)
      Issues s th0 op (fun w => asL w = ⟨31, 1, 0, 0, 0, 0⟩) ∧ fld (rget s R.LKP_PROFILE 0) 62 61 < 2 ∧
      bit (rget s R.LKP_PROFILE 0) 63 = true ∧
      rbit s R.LKP_LEARN_CFG (profTable (rget s R.LKP_PROFILE 0)) 63 = true ∧ s.lkp.learnQ.length < 65536) ∧
    Issues (prog (word 0x46 31 1 0) Thread.empty) th0 0x46 (fun w => asW w = ⟨31, 1, 0, 0, 0, 0, 0⟩) ∧
    Issues (prog (word 0x65 31 1 0) Thread.empty) th0 0x65 (fun w => asA w = ⟨31, 1, 0, 0, 0, 0, 0⟩) := by
  unfold Issues; decide +kernel

/-- O7, O8: SLD, SST, CNT, TIME and WAIT issue, a word of the state memory and a counter that no later access of the tick
comes before, and a WAIT of a thread that is to stop. -/
theorem test_wit_posted :
    (∀ op ∈ [0x63, 0x64, 0x70, 0x71], let s := prog (word op 31 1 (0x3000 * 2 ^ 32)) Thread.empty
      Issues s th0 op (fun w => asI w = ⟨31, 1, 0x3000, 0⟩) ∧ stmLate s 0 0 = false ∧ latchedNow s 0 = false) ∧
    Issues (prog (word 0x71 31 1 (0x1000 * 2 ^ 32)) Thread.empty) th0 0x71 (fun w => asI w = ⟨31, 1, 0x1000, 0⟩) ∧
    (∀ b ∈ [false, true], let s := prog (word 0x66 0 0 0xFF) { Thread.empty with svc := b, stopReq := b }
     Issues s th0 0x66 (fun w => asX w = ⟨0, 0, 0, 0, 0, 0xFF⟩) ∧ mustStop s 0 = b) := by
  unfold Issues; decide +kernel

/-- O9: DISP of each code in a packet thread, and SLEEP, WAKE and SEND in a service thread, issue. -/
theorem test_wit_thread_control :
    (∀ op ∈ [0x78, 0x79, 0x7A], ∀ box ∈ [([] : List InboxEntry), [⟨1, 5, none, 0⟩], [⟨2, 0, some Packet.empty, 0⟩]],
      let s := prog (word op 31 1 0) { Thread.empty with svc := true, inbox := box }
      Issues s th0 op (fun w => asX w = ⟨31, 1, 0, 0, 0, 0⟩) ∧ (ctx s th0).svc = true ∧ mustStop s 0 = false ∧
      (ctx s th0).inbox = box) ∧
    (let s := prog (word 0x78 31 1 0) { Thread.empty with svc := true, stopReq := true }
     Issues s th0 0x78 (fun w => asX w = ⟨31, 1, 0, 0, 0, 0⟩) ∧ mustStop s 0 = true) ∧
    (∀ c ∈ [0, 1, 2, 3], let s := prog (word 0x72 0 0 (c * 2 ^ 36)) Thread.empty
     Issues s th0 0x72 (fun w => asX w = ⟨0, 0, 0, BitVec.ofNat 2 c, 0, 0⟩) ∧ (ctx s th0).svc = false) := by
  unfold Issues; decide +kernel

/-- O9: threads whose ADD must wait for a tag, for a register and for the issue slot. -/
theorem test_wit_turns :
    (∀ t ∈ [{ Thread.empty with reqs := [⟨7, 2, false, .state 0 0⟩] }, { Thread.empty with busy := [(1, 1)] }, Thread.empty],
      let s := prog (word 0x10 31 1 (2 * 2 ^ 41)) t
      (ctx s th0).st = .ready ∧ (ctx s th0).start ≤ s.tau.mono ∧ (ctx s th0).pc < (thrBank s 0).length ∧
      opcodeOf (thrWord s 0) = 0x10 ∧ asR (thrWord s 0) = ⟨31, 1, 2⟩ ∧ budgetGone s (ctx s th0) false = false ∧
      s.tau.mono < 1) ∧
    (let s := { State.reset with sen := { State.reset.sen with engines := mset EngSt.init [] (engKey 0) ⟨0, 1⟩ } }
     s.tau.mono < (engine s 0).free) := by decide +kernel

/-- O10: a write to a course that is not draining, with the mode in force and with another, and a course whose drain ends. -/
theorem test_wit_course_mode :
    (course State.reset 0).draining = false ∧ fld (0 : Word) 1 0 = (course State.reset 0).inForce ∧
    fld (3 : Word) 1 0 ≠ (course State.reset 7).inForce ∧
    (let s := setCourse State.reset 7 { CourseSt.init with draining := true, target := 3 }
     (course s 7).draining = true ∧ courseLive s 7 = false ∧ (course s 7).target < 4) := by decide

/-- O11: a packet before a dispatcher whose course runs, or does not run; one that starts; one that departs. -/
theorem test_wit_packets :
    (let s := { inMode 1 with sen := { (inMode 1).sen with toIng := [pkt1] } }
     toDisp s .ing = [pkt1] ∧ anyRunning s (sideMode .ing) = true ∧ (dispQ s .ing).length < 8192) ∧
    (let s := { State.reset with sen := { State.reset.sen with toEgr := [pkt1] } }
     toDisp s .egr = [pkt1] ∧ anyRunning s (sideMode .egr) = false) ∧
    (let s := { inMode 1 with sen := { (inMode 1).sen with ingQ := [pkt1] } }
     dispQ s .ing = [pkt1] ∧ staleTag s (mdF pkt1 0 27 26) = false ∧ anyRunning s (sideMode .ing) = true ∧
     freeInCourse s (chooseCourse s (sideMode .ing)).1 ≠ 0) ∧
    (let t : Thread := { Thread.empty with st := .departing, pkt := pkt1 }
     let s := setThr { State.reset with sen := { State.reset.sen with order := [⟨.ing, 0, 1⟩] } } 0 t
     (thr s 0).st = .departing ∧ (thr s 0).handed = false ∧ (thr s 0).hostTo = none ∧ mdF (thr s 0).pkt 0 15 14 = 0 ∧
     (thr s 0).side = .ing ∧ firstInOrder s .ing (thr s 0).pkt.pid = true) := by decide

/-- O12: a service course with a free thread, a sleeping service thread, and an entry on its way to one that is Ready. -/
theorem test_wit_service_threads :
    (bit (0 : Word) 1 = false ∧ running (inMode 3) 0 3 = true ∧ (thr (inMode 3) 639).st = .free) ∧
    (let s := setThr (inMode 3) 639 { Thread.empty with st := .sleeping, svc := true }
     (thr s 639).svc = true ∧ (thr s 639).st = .sleeping) ∧
    (let s := setThr { inMode 3 with sen := { (inMode 3).sen with arrivals := [⟨0, ⟨1, 5, none, 0⟩⟩] } } 0
       { Thread.empty with st := .ready, svc := true }
     s.sen.arrivals[0]? = some ⟨0, ⟨1, 5, none, 0⟩⟩ ∧ (thr s 0).svc = true ∧ (thr s 0).st = .ready) := by decide

/-- O13: a bank load, the end of one that failed and of one that brought an image, a bank that may be swapped, and an engine
that is to retire. Whether an image verifies and is well formed are free functions of its bytes. -/
theorem test_wit_banks :
    (bit (0xFF01 : Word) 0 = true ∧ rfld State.reset R.SEN_LOAD_STAT 0 3 0 ≠ 1) ∧
    (let s := { dma with sen := { dma.sen with load := some (255, 127) } }
     s.sen.load = some (255, 127) ∧ s.mgmtDown = false ∧ dmaOk s false = true ∧ s.err.fifo.length < 1024 ∧ 127 ≤ 255) ∧
    (let s := setBank State.reset 7 true { Bank.empty with st := .loaded, length := 1 }
     (course s 7).inForce = 0 ∧ (bank s 7 (!(course s 7).activeB)).st = .loaded ∧ loading s 7 = false) ∧
    retireDue State.reset 1 (80 * 7 + 63) true = true ∧ enginesLive State.reset 7 ≤ 80 ∧ 0 < enginesLive State.reset 7 := by
  decide

/-- O14: the fields of a register of each access code do not overlap, and their bounds are in order. -/
theorem test_wit_access_codes :
    ∀ r ∈ [R.FAB_CTL, R.ERR_INT_STAT, R.SEN_SVC_CTL, R.TMG_DROP, R.CPH_KEY_LOCK],
      r.fields.Pairwise (fun f g => f.hi < g.lo ∨ g.hi < f.lo) ∧ ∀ f ∈ r.fields, f.lo ≤ f.hi ∧ f.hi < 64 := by decide

/-- O15: a served register, an offset that no register has, a counter that clears, and accesses that are not served. -/
theorem test_wit_host_accesses :
    (let s := { put [(R.GLB_BOOT_STAT, 0, at_ 3 60)] State.reset with bridgeUp := true }
     (let off := adr R.SEN_EXC_CFG 15
      off % 8 = 0 ∧ bar0Served s off = true ∧ pf0RingAt off = none ∧ bar0Reg off = some (R.SEN_EXC_CFG, 15) ∧
      4 ≤ R.SEN_EXC_CFG.base / 0x100000 ∧ R.SEN_EXC_CFG.base / 0x100000 < 8) ∧
     (let off := adr R.SEN_EXC_COUNT 9
      bar0Served s off = true ∧ pf0RingAt off = none ∧ bar0Reg off = some (R.SEN_EXC_COUNT, 9) ∧
      rowRead R.SEN_EXC_COUNT 9 = none) ∧
     (bar0Served s 0xFF8 = true ∧ pf0RingAt 0xFF8 = none ∧ bar0Reg 0xFF8 = none)) ∧
    (bar0Served State.reset 0x400000 = false ∧ qBlock 0x400000 = none) ∧
    (slice State.reset 4095).st = 0 ∧ State.reset.bridgeUp = false ∧ stage State.reset < 3 ∧
    State.reset.mgmtDown = false ∧ State.reset.err.fifo.length < 1024 := by decide

/-- O16: a fault that is logged, one on a full log, one held during a management restart, one in an open window and in
none, and an engine's fault; a window that is over; an interrupt source that is clear, and one with an event. -/
theorem test_wit_faults :
    (State.reset.mgmtDown = false ∧ (∀ c ∈ [2, 5, 6], logged State.reset c = true) ∧
      State.reset.err.fifo.length < 1024 ∧ rbit State.reset R.ERR_INT_STAT 0 63 = false ∧ State.reset.err.seen = []) ∧
    (let s := intRaise 15 (put [(R.ERR_INT_STAT, 0, at_ 1 15), (R.ERR_INT_EN, 0, at_ 1 15)] State.reset)
     (∀ e ∈ s.err.seen, e.1 < 64) ∧ (15, true) ∈ s.err.seen ∧ bit (at_ 1 15 : Word) 15 = true ∧
     rbit s R.ERR_INT_EN 0 15 = true) ∧
    (let s := { State.reset with mgmtDown := true }
     s.mgmtDown = true ∧ (s.err.held.filter (fun h => decide (h.report.block = 16))).length < 256) ∧
    (let u : UnitSt := { UnitSt.init with winEnd := some 100, winThresh := 1, winCount := 1 }
     let s := unitSet (at' 100) 0 127 u
     (unitGet s 0 127).winEnd = some 100 ∧ s.tau.mono ≤ 100 ∧ (unitGet s 0 127).winCount = (unitGet s 0 127).winThresh ∧
     (unitGet s 0 126).winEnd = none ∧
     (let t := unitSet (at' 101) 0 127 u; (unitGet t 0 127).winEnd = some 100 ∧ 100 < t.tau.mono)) ∧
    (∀ b ∈ [false, true], let s := setThr State.reset 5119 { Thread.empty with st := .waiting, svc := b }
     thrLive (thr s (640 * (639 / 80) + 8 * (639 % 80) + 7)) = true ∧ (thr s 5119).svc = b) ∧
    (let s := withMem .mcd (fun x => { x with run := some (7, false) }) State.reset
     s.mcd.run = some (7, false) ∧ s.mcd.nextReq = none ∧ s.mcd.held = []) := by decide

/-- O16: a full log. -/
theorem test_wit_full_log : 1024 ≤ (List.replicate 1024 (⟨0, 0, 0, 0, 0, false, 0, 0, 0⟩ : ErrRec)).length := by
  rw [List.length_replicate]

/-- O17: a crossing of a unit that retires on its own and of one that does not; a software request; a bridge module
that is out; units that are to retire, an exact-match block without entries among them. -/
theorem test_wit_retirement :
    (∀ key ∈ [0, unitKey 0 127],
      let s := { State.reset with err := { State.reset.err with crossed := [key] } }
      seqDown s 22 = false ∧ s.err.crossed = [key] ∧ unitRetired s (key / 1024) (key % 1024) = false ∧ s.err.toRetire = []) ∧
    (let s := put [(R.ERR_THRESH, 8, at_ 1 63 ||| at_ 191 40)] State.reset
     rbit s R.ERR_THRESH 8 63 = true ∧ rfld s R.ERR_THRESH 8 55 40 < liveUnits s 8) ∧
    (let s := put [(R.ERR_THRESH, 8, at_ 1 63 ||| at_ 192 40)] State.reset
     ¬ (rfld s R.ERR_THRESH 8 55 40 < liveUnits s 8)) ∧
    (let v : Word := at_ 1 63 ||| at_ 9 16 ||| at_ 9 0
     bit v 63 = true ∧ fld v 19 16 ≤ 9 ∧ unitRetired State.reset 9 9 = false) ∧
    unitRetired (unitSet State.reset 9 9 { UnitSt.init with state := 1 }) 9 9 = true ∧
    (let s := { State.reset with err := { State.reset.err with bridgeOut := [9] } }
     unitRetired s 9 8 = false ∧ (8 ∉ s.err.bridgeOut) ∧ 9 ∈ s.err.bridgeOut ∧ retireDue s 9 9 true = true) ∧
    (let s := { State.reset with err := { State.reset.err with toRetire := [(unitKey 4 95, none)] } }
     retireDue s 4 95 false = true ∧ s.lkp.ents = []) := by decide

/-- O18: a step of both kinds asked for, one that waits for its tick and one whose tick has come, HOLD_TIMEOUT reached with
no arrival left and passed, and a reference that is not the board's. -/
theorem test_wit_phc :
    (bit (1 : Word) 0 = true ∧ bit (2 : Word) 1 = true ∧ bit (2 : Word) 0 = false) ∧
    (∀ n ∈ [0, 1], let s := { at' n with tau := { (at' n).tau with step := some (.abs (2 ^ 48 - 1) 999999999 65535, 0) } }
     s.tau.step = some (.abs (2 ^ 48 - 1) 999999999 65535, 0) ∧ s.tau.mono = n) ∧
    (∀ n ∈ [1600000, 1600001], let s := put [(R.TAU_PHC_CTL, 0, at_ 1 16)] (at' n)
     let d := (s.tau.mono + 2 ^ 64 - s.tau.lastDisc) % 2 ^ 64
     rfld s R.TAU_PHC_CTL 0 31 16 = 1 ∧ s.tau.holdAt ≠ some s.tau.mono ∧ arrivalsDone s = true ∧
     d = n ∧ rbit s R.TAU_STATUS 0 8 = false) ∧
    (let s := put [(R.TAU_PHC_CTL, 0, at_ 1 16)] (at' 1599999)
     (s.tau.mono + 2 ^ 64 - s.tau.lastDisc) % 2 ^ 64 < rfld s R.TAU_PHC_CTL 0 31 16 * 1600000) ∧
    rfld (put [(R.TAU_REF_CFG, 0, 1)] State.reset) R.TAU_REF_CFG 0 1 0 ≠ 2 ∧ State.reset.tau.bridgeFault = false := by decide

/-- O19: a 1PPS edge that is due, a pulse that is high, an input that is lost and one that is not yet, a ToD message whose
instant has come, and received bytes. -/
theorem test_wit_pins_of_time :
    (let s := put [(R.TAU_PPS_CFG, 0, 1), (R.TAU_TOD_CFG, 0, at_ 1 0 ||| at_ 2 8)]
       { State.reset with tau := { State.reset.tau with phc := 2 ^ 48 * 1000000000, todReady := true, todBuf := [1, 2],
                                                        todAt := 1000000000, todRx := [(7, 0, 999999999)] } }
     ppsSecond s = some 1 ∧ rbit s R.TAU_PPS_CFG 0 0 = true ∧ s.tau.ppsOut = false ∧ s.tau.todReady = true ∧
     rbit s R.TAU_TOD_CFG 0 0 = true ∧ s.tau.todAt ≤ s.tau.phc / 2 ^ 48 ∧ s.tau.todRx.length < 256 ∧
     s.tau.todRx = [(7, 0, 999999999)]) ∧
    { State.reset.tau with ppsOut := true }.ppsOut = true ∧ State.reset.tau.todRx = [] ∧
    State.reset.tau.ppsInLost = false ∧ State.reset.tau.ppsIn + 1760000000 < (at' 1760000001).tau.mono ∧
    (at' 1759999999).tau.mono < State.reset.tau.ppsIn + 1760000000 ∧ rbit State.reset R.TAU_TOD_CFG 0 0 = false := by decide

/-- O20: a tick short of the ends of both counts, with no step that waits and one of this tick, an end of holdover asked for
and a sleeping thread with an entry. -/
theorem test_wit_tick :
    State.reset.tau.mono + 1 < 2 ^ 64 ∧ State.reset.tau.phc + phcTickUnits State.reset < 2 ^ 48 * 1000000000 * 2 ^ 48 ∧
    rfld State.reset R.TAU_PHC_FREQ 0 31 0 = 0 ∧ State.reset.tau.step = none ∧ State.reset.cph.arrived = [] ∧
    State.reset.hif.ctlDue = [] ∧
    { State.reset.tau with holdClr := true }.holdClr = true ∧
    (let s := setThr State.reset 5 { Thread.empty with st := .sleeping, svc := true, inbox := [⟨1, 0, none, 0⟩] }
     (thr s 5).svc = true ∧ (thr s 5).st = .sleeping ∧ (thr s 5).inbox ≠ []) := by decide

/-- O21: an entry that may be armed, one that is armed, and one that falls due with action 7 after seven others. -/
theorem test_wit_time_actions :
    (rbit State.reset R.TAU_TA_ACT 4095 63 = false ∧ bit (at_ 1 63 ||| at_ 6 52 : Word) 63 = true ∧
      fld (at_ 1 63 ||| at_ 6 52 : Word) 55 52 ≤ 6) ∧
    (let s := put [(R.TAU_TA_ACT, 4095, at_ 1 63 ||| at_ 7 52)]
       { State.reset with tau := { State.reset.tau with taDue := [4095], taFired := 7, ta := [(4095, ⟨5, false, none⟩)] } }
     rbit s R.TAU_TA_ACT 4095 63 = true ∧ s.tau.taDue = [4095] ∧ s.tau.taFired < 8 ∧ arrivalsDone s = true ∧
     mfind s.tau.ta 4095 = some ⟨5, false, none⟩ ∧ rfld s R.TAU_TA_ACT 4095 55 52 = 7 ∧
     rfld s R.TAU_TA_PERIOD 4095 21 0 = 0 ∧ rfld (put [(R.TAU_TA_PERIOD, 4095, 1)] s) R.TAU_TA_PERIOD 4095 21 0 ≠ 0) := by
  decide

/-- O22: words of each bit alone and of all, a pending epoch that is open, a commit that nothing refuses and one 159,999
ticks after another, a drain window at and past its end, and a previous epoch that no thread holds. -/
theorem test_wit_epochs :
    bar0Served (put [(R.GLB_BOOT_STAT, 0, at_ 3 60)] State.reset) R.TAU_QUENCH_CTL.base = true ∧
    (State.reset.tau.pendOpen = false ∧ { State.reset.tau with pendOpen := true }.pendOpen = true) ∧
    (State.reset.mgmtDown = false ∧ seqDown State.reset 17 = false ∧ State.reset.tau.bridgeFault = false ∧ State.reset.tau.lastCommit = none ∧
      State.reset.tau.pendCount ≤ 1048576) ∧
    (let s := { State.reset with tau := { State.reset.tau with mono := 159999, lastCommit := some 0 } }
     s.tau.lastCommit.any (fun m => decide ((s.tau.mono + 2 ^ 64 - m) % 2 ^ 64 < 160000)) = true ∧
     commitRefusal s none = some 2) ∧
    (∀ n ∈ [9, 10], let s := { State.reset with tau := { State.reset.tau with prevState := 1, drainEnd := 9, mono := n } }
     s.tau.prevState = 1 ∧ s.tau.drainEnd ≤ s.tau.mono ∧ arrivalsDone s = true) ∧
    (let s := { State.reset with tau := { State.reset.tau with prevState := 2 } }
     s.tau.prevState = 2 ∧ s.sen.threads.any (fun e => liveWithTag e.2 ((s.tau.curEpoch + 3) % 4)) = false) := by decide

/-- O23: threads whose lookup, state read, atomic and pattern results are due, Ready and Waiting; a scan that may start
while fifteen lanes run; sets that are invalid, empty and without a match. -/
theorem test_wit_results :
    (∀ t ∈ [({ Thread.empty with st := .ready } : Thread), { Thread.empty with st := .waiting, waitTags := [7] }],
     ∀ kind ∈ [ReqKind.lookup 0 0 0 ⟨1, 2⟩, .state 2097151 5, .pmatch 0 511 [] false (some (0, []))],
      let s := setThr State.reset 5119 { t with reqs := [⟨7, 30, true, kind⟩] }
      reqOf (thr s 5119) 7 = some ⟨7, 30, true, kind⟩ ∧ (thr s 5119).exc6 = false ∧ readsTable s 0 = false ∧
      (profReads s 0 0).any (memWaits s .mcd) = false ∧
      ((thr s 5119).st = .ready ∨ ((thr s 5119).st = .waiting ∧ (thr s 5119).waitTags = [7] ∧ (thr s 5119).waitFrame = false))) ∧
    (let r : Req := ⟨7, 1, false, .pmatch 63 0 [1] false none⟩
     let s := { setThr State.reset 0 { Thread.empty with st := .ready, reqs := [r] } with
       ppu := { State.reset.ppu with queue := [(0, 7)], lanes := List.replicate 15 (1, 0) } }
     s.ppu.queue = [(0, 7)] ∧ s.ppu.lanes.length < 16 ∧ reqOf (thr s 0) 7 = some r) ∧
    bit (0 : Word) 63 = false ∧ fld (at_ 1 63 : Word) 48 32 = 0 ∧
    (bit (at_ 1 63 ||| at_ 1 32 : Word) 63 = true ∧ fld (at_ 1 63 ||| at_ 1 32 : Word) 48 32 ≠ 0) := by decide

/-- O24: the pattern unit idle, and with a command of each operation running. -/
theorem test_wit_pattern_unit :
    bit (rget State.reset R.TCM_PPU_CMD 0) 63 = false ∧
    (∀ op ∈ [0, 1, 2], let s := put [(R.TCM_PPU_CMD, 0, at_ 1 63 ||| at_ op 16 ||| 65535)] State.reset
      bit (rget s R.TCM_PPU_CMD 0) 63 = true ∧ fld (rget s R.TCM_PPU_CMD 0) 17 16 = op) := by decide

/-- O25: the lookup unit idle and busy, commands that name an epoch and that do not, and the end of a write, a read and a
delete of the last result entry, present and absent, with a parity error and without. -/
theorem test_wit_lookup_commands :
    (∀ q ∈ [7, 8], seqDown State.reset q = false) ∧
    bit (rget State.reset R.LKP_CMD 0) 63 = false ∧ bit (0 : Word) 44 = false ∧ bit (at_ 1 44 : Word) 44 = true ∧
    (∀ op ∈ [0, 1, 3], ∀ res ∈ [([] : SMap (Vers (BitVec 120))), [(1048575, ⟨some 5, none, none⟩)]],
      let s := { put [(R.LKP_CMD, 0, at_ 1 63 ||| at_ 3 48 ||| at_ op 45), (R.LKP_CMD_KEY, 3, 1048575)] State.reset with
        lkp := { State.reset.lkp with res := res } }
      bit (rget s R.LKP_CMD 0) 63 = true ∧ s.lkp.preResult = none ∧ (lkpCmd s).kind = 3 ∧ (lkpCmd s).epoch = false ∧
      (lkpCmd s).op = op ∧ (lkpCmd s).key = 1048575 ∧ versionView s (lkpCmd s).version = some .cur ∧
      cmdBad (lkpCmd s) s = none ∧ isShortPfx (lkpCmd s) = false ∧
      (((mfind s.lkp.res (lkpCmd s).key).getD Vers.none_).cur.isSome = !res.isEmpty) ∧
      (let u := { s with lkp := { s.lkp with bad := [(96, 1048575)] } }
       cmdBad (lkpCmd u) u = some (96, 1048575))) := by decide

/-- O26: tables that may be enabled, tables that are in use, clearings at their end, one whose channel serves and one whose
channel trains, a stash entry with a place, and a trie array that has waited its time. -/
theorem test_wit_lookup_tables :
    (let v : Word := at_ 1 63 ||| at_ 92 49 ||| at_ 4 42 ||| at_ 48 32
     let s1 := hostStore false R.LKP_EM_CFG 63 v State.reset
     tableEn State.reset 63 = false ∧ clearing State.reset 63 = false ∧ emEnableOk s1 63 = true) ∧
    (let s := put [(R.MCD_STATUS, 0, at_ 1 63)] State.reset
     tableEn s 67 = false ∧ clearing s 67 = false ∧ memReady s .mcd = true) ∧
    (let s := put [(R.LKP_EM_CFG, 63, at_ 1 63), (R.LKP_FLOW_CFG, 3, at_ 1 63)] State.reset
     tableEn s 63 = true ∧ tableEn s 67 = true) ∧
    (∀ st ∈ [0, 1], let u := put [(R.MCD_CH_STAT, 0, at_ st 61)] (ddr 0)
     let s := { u with lkp := { u.lkp with clr := [⟨67, 0, 0, 3, none⟩] } }
     seqDown s 7 = false ∧ s.lkp.clr = [⟨67, 0, 0, 3, none⟩] ∧
     runWaits s .mcd (clearRun s 67).1 (clearRun s 67).2 = decide (st = 1)) ∧
    timeUp (at' 3200) (0 + 3200) = true ∧
    (let s := { put [(R.LKP_EM_CFG, 0, at_ 1 63 ||| at_ 4 42 ||| at_ 48 32)] State.reset with
       lkp := { State.reset.lkp with ents := [(5, ⟨.stash 0, Vers.of ⟨1, false⟩, false, 0⟩)] } }
     entTable 5 = 0 ∧ Loc.wayNo (.stash 0) = none ∧ placeBad s 0 (.stash 0) = false ∧ (freePlace s 0 (5 % 2 ^ 256)).isSome = true) := by decide +kernel

/-- On a tick with no command left, no command is to come before another, and no arrival. -/
theorem test_wit_nothing_left (s : State) (h : s.pending = []) :
    restOfTick s = [] ∧ arrivalsDone s = true ∧ ∀ p, comes s p = false := by
  simp [restOfTick, arrivalsDone, comes, h]

/-- O23: a request that its thread has given up, and a thread with none. -/
theorem test_wit_given_up :
    (let q : Req := ⟨7, 1, false, .state 0 0⟩
     let s := { State.reset with sen := { State.reset.sen with gone := [(0, q)] } }
     s.sen.gone.find? (goneIs 0 7 isState) = some (0, q)) ∧
    State.reset.sen.gone.find? (goneIs 0 7 isState) = none := by decide

/-- O27: a learn of a static entry, of a new one and of one with a parity error, a damping hold at its end, a sweep that is
due, a notice. -/
theorem test_wit_learning :
    (let s := { put [(R.LKP_EM_CFG, 0, at_ 1 63 ||| at_ 4 42 ||| at_ 48 32)] State.reset with
       lkp := { State.reset.lkp with learnQ := [⟨0, 0, 0, 5, 1, 4⟩] } }
     seqDown s 4 = false ∧ (flowAddrs s 0 5).any (memWaits s .mcd) = false ∧ emBad s 0 5 = none ∧ tableEn s 0 = true ∧ entOf s 0 5 = none ∧ (place s 0 5).isSome = true ∧
     rbit s R.LKP_LEARN_CFG 0 62 = false ∧
     (let u := { s with lkp := { s.lkp with ents := [(5, ⟨.stash 0, Vers.of ⟨1, true⟩, false, 0⟩)] } }
      (entOf u 0 5).map (fun e => e.v.cur.map (·.static)) = some (some true) ∧
      (emBad { u with lkp := { u.lkp with bad := [(0, entIndex u 0 (.stash 0))] } } 0 5).isSome = true)) ∧
    (let s := { at' 9 with lkp := { State.reset.lkp with tracks := [(entKey 67 5, ⟨0, 3, some 9⟩)] } }
     mfind s.lkp.tracks (entKey 67 5) = some ⟨0, 3, some 9⟩ ∧ timeUp s 9 = true ∧ rbit s R.LKP_LEARN_CFG 67 60 = false) ∧
    (let s := put [(R.LKP_AGE_CFG, 67, at_ 1 63 ||| at_ 1 0), (R.LKP_FLOW_CFG, 3, at_ 1 63)] (at' 1600000)
     rbit s R.LKP_AGE_CFG 67 63 = true ∧ tableEn s 67 = true ∧ seqDown s 6 = false ∧
     timeUp s (mget 0 s.lkp.swept 67 + 1600000 * rfld s R.LKP_AGE_CFG 67 31 0) = true ∧
     (sweepReads s 67).any (memWaits s .mcd) = false) ∧
    (7 < 8 ∧ 127 < 128 ∧ State.reset.lkp.notify = []) := by decide +kernel

/-- TCAM table 15 in use on bank 63, with one row at index 0, and a command of an operation running. -/
def tcamUse (op : Nat) (rows : SMap TRow) : State :=
  { put [(R.TCM_CMD, 0, at_ 1 63 ||| at_ 15 52 ||| at_ op 48), (R.TCM_TABLE_CFG, 15, at_ 1 63 ||| at_ 63 56 ||| at_ 1 48),
         (R.TCM_BANK_CFG, 63, at_ 1 62)] State.reset with tcam := { State.reset.tcam with rows := rows } }

/-- A row that is current. -/
def row1 : TRow := { TRow.empty with c := true }

/-- O28: the TCAM idle, and the ends of a move, a write, a delete and a search of a row that is there or is not; a respread
with moves to do, at its end, and with room for one command beside it. -/
theorem test_wit_tcam_commands :
    seqDown State.reset 12 = false ∧ bit (rget State.reset R.TCM_CMD 0) 63 = false ∧ bit (0 : Word) 47 = false ∧ bit (at_ 1 47 : Word) 47 = true ∧
    (∀ op ∈ [1, 2, 5], ∀ rows ∈ [([] : SMap TRow), [(4096 * 63, row1)]],
      let s := tcamUse op rows
      bit (rget s R.TCM_CMD 0) 63 = true ∧ s.tcam.resp = none ∧ s.tcam.preResult = none ∧ s.tcam.moveSrc = none ∧
      tcamValid (tcamCmd s) s = true ∧ (tcamCmd s).epoch = false ∧ (tcamCmd s).op = op ∧
      rowAt s 15 (tcamCmd s).idx = (63, 0) ∧ pfFits s 15 0 (tcamCmd s).key (tcamCmd s).mask = true ∧
      versionView s (tcamCmd s).version = some .cur ∧
      tcamFind s 15 (tcamCmd s).key .cur = (if rows.isEmpty then none else some (63, 0)) ∧ (trow s 63 0).quar = false) ∧
    (let s := { tcamUse 3 [(4096 * 63, row1)] with tcam := { State.reset.tcam with moveSrc := some (4096 * 63) } }
     bit (rget s R.TCM_CMD 0) 63 = true ∧ s.tcam.preResult = none ∧ s.tcam.moveSrc = some (4096 * 63)) ∧
    (let s := tcamUse 1 [(4096 * 63, { TRow.empty with pset := true })]
     (mget TRow.empty s.tcam.rows (4096 * 63)).pset = true) ∧
    (∀ mv ∈ [([] : List (Nat × Nat)), [(0, 4095)]],
      let s := { tcamUse 7 [] with tcam := { State.reset.tcam with resp := some ⟨15, mv, false, 1⟩ } }
      bit (rget s R.TCM_CMD 0) 63 = true ∧ s.tcam.second = false ∧ s.tcam.resp = some ⟨15, mv, false, 1⟩) := by decide

/-- O29: a table that may be enabled, one in use, a clearing at its end, banks that are scrubbed, retired, exchanged. -/
theorem test_wit_tcam_tables :
    (let v : Word := at_ 1 63 ||| at_ 63 56 ||| at_ 1 48
     let s1 := hostStore false R.TCM_TABLE_CFG 15 v State.reset
     rbit State.reset R.TCM_TABLE_CFG 15 63 = false ∧ State.reset.tcam.clr = [] ∧
     (tableBanks s1 15).all (fun b => bankFits s1 b (tcamWidth s1 15)) = true ∧ spareOf s1 15 = none) ∧
    (let s := put [(R.TCM_SCRUB_CFG, 0, at_ 1 63)] (tcamUse 0 [])
     rbit s R.TCM_TABLE_CFG 15 63 = true ∧ spareOf s 15 = none ∧ rbit s R.TCM_SCRUB_CFG 0 63 = true ∧ bankState s 63 = 1 ∧
     retireDue s 3 63 true = true ∧ tableOfBank s 63 = some 15 ∧ tcamScrubDue s = false ∧ scrubNext s = some (4096 * 63) ∧
     tcamScrubDue (put [(R.TCM_SCRUB_CFG, 0, at_ 1 63 ||| 1)] { s with tau := { s.tau with mono := 1600000 } }) = true) ∧
    (let s := { tcamUse 0 [] with tcam := { State.reset.tcam with sparing := [(63, 15)], clr := [⟨15, rget State.reset R.TCM_TABLE_CFG 15 ||| at_ 63 56 ||| at_ 1 48, 0, 0, none⟩] } }
     let s := rset s R.TCM_TABLE_CFG 15 (rget s R.TCM_TABLE_CFG 15 ||| at_ 1 39 ||| at_ 62 40)
     s.tcam.sparing = [(63, 15)] ∧ spareOf s 15 = some 62 ∧ seqDown s 12 = false ∧
     s.tcam.clr.map (fun j => (j.table, cfgBanks j.cfg)) = [(15, [63])]) := by decide

/-- O30: a port that may be enabled in each end of the modes' range, one in use with its link down and up, an OTN port whose
client is lost; a SyncE output and a reference on a lane. -/
theorem test_wit_line_ports :
    (∀ m ∈ [1, 12], let v : Word := at_ 1 63 ||| BitVec.ofNat 64 m
      portEn State.reset 0 = false ∧ bit v 63 = true ∧ fld v 3 0 = m ∧
      modeOk (hostStore false R.LIU_PORT_CFG 0 v State.reset) 0 m = true) ∧
    (let s := put [(R.LIU_PORT_CFG, 127, at_ 1 63 ||| at_ 1 0)] State.reset
     portEn s 127 = true ∧ rbit s R.LIU_PORT_STAT 127 63 = false ∧ bit (0 : Word) 63 = false ∧ clientLost s 127 = false ∧
     rbit (put [(R.LIU_PORT_STAT, 127, at_ 8 60)] s) R.LIU_PORT_STAT 127 63 = true) ∧
    clientLost (put [(R.LIU_PORT_CFG, 124, at_ 1 63 ||| at_ 12 0), (R.LIU_OTN_DEF, 31, at_ 1 3)] State.reset) 124 = true ∧
    (let s := put [(R.TAU_SYNCE_OUT, 3, at_ 127 8), (R.TAU_REF_CFG, 0, at_ 1 0 ||| at_ 127 8)] State.reset
     rfld s R.TAU_REF_CFG 0 1 0 = 1 ∧ rfld s R.TAU_REF_CFG 0 14 8 = 127 ∧ rfld s R.TAU_SYNCE_OUT 3 14 8 = 127 ∧ laneRetired s 127 = false ∧ retireDue s 0 127 true = true) := by decide

/-- O31: a port that receives nothing, one amid a frame of the least length and of the greatest, one with a frame to send, up
and going out of use, and a timestamp. -/
theorem test_wit_frames :
    (let s := put [(R.LIU_PORT_CFG, 127, at_ 1 63 ||| at_ 1 0 ||| at_ 60 24), (R.LIU_PORT_STAT, 127, at_ 8 60)] State.reset
     let f : RxFrame := ⟨0, 0, 0, [], false, 0, 60, ⟨0, 0, []⟩⟩
     let u := setLiuPort 127 { LiuPort.init with rx := some f, txts := [⟨1, 0⟩], sending := some 1 } s
     let q : Packet := { pkt1 with md := [(2, setF32 0 20 14 127)] }
     let x := { s with sen := { s.sen with toLiu := [q] } }
     portEn s 127 = true ∧ (liuPort s 127).rx = none ∧ (liuPort s 127).before = none ∧ clientLost s 127 = false ∧
     s.tau.lastCommit ≠ some s.tau.mono ∧
     (liuPort u 127).rx = some f ∧ bit f.sec.cfg 63 = false ∧ f.offered = false ∧ 60 ≤ f.maxFrame ∧
     (rxKept { f with raw := List.replicate 60 0 }).length ≤ 512 ∧ rfld u R.LIU_PORT_CFG 127 19 18 ≠ 2 ∧
     512 < (rxKept { f with raw := List.replicate 513 0, maxFrame := 16383 }).length ∧
     (liuPort u 127).txts = [⟨1, 0⟩] ∧
     x.sen.toLiu = [q] ∧ mdF q 2 20 14 = 127 ∧ q.complete = true ∧ rbit x R.LIU_PORT_STAT 127 63 = true ∧
     x.tmg.cuts.any (fun c => decide (c.pid = q.pid)) = false ∧ (liuPort u 127).sending = some q.pid ∧
     rbit x R.LIU_MSEC_CFG 127 63 = false ∧ clientCut x 127 = false ∧
     rfld x R.LIU_PORT_CFG 127 19 18 = 0 ∧ rbit x R.LIU_TXTS_PROFILE (mdF q 7 31 24 / 64) (mdF q 7 31 24 % 64) = false) := by
  decide +kernel

/-- O32: a key slot that suits a receive association, one in use, a switch asked for on an earlier tick, and an overlap at
its end; an arrival of the tick that still waits. -/
theorem test_wit_associations :
    (let s := { State.reset with cph := { State.reset.cph with slots := [(65535, ⟨1, false, true, 0, [], [], 1⟩)] } }
     let v : Word := at_ 1 63 ||| at_ 65535 32
     rbit s R.LIU_MSEC_SA 1023 63 = false ∧ bit v 63 = true ∧ (slotOf s (fld v 47 32)).kind = 1 ∧
     (slotOf s (fld v 47 32)).macsec = true ∧ s.cph.bad.contains (fld v 47 32) = false) ∧
    rbit (put [(R.LIU_MSEC_SA, 1023, at_ 1 63)] State.reset) R.LIU_MSEC_SA 1023 63 = true ∧
    arrivalsDone { State.reset with pending := [.frameStart 0] } = false ∧
    (let s := { at' 1 with liu := { State.reset.liu with switches := [(127 + 128 * 3, 0)] } }
     s.liu.switches = [(127 + 128 * 3, 0)] ∧ 0 ≠ s.tau.mono ∧ arrivalsDone s = true ∧ rfld s R.LIU_MSEC_CFG 127 55 54 ≠ 3) ∧
    (let s := setLiuPort 127 { LiuPort.init with overlap := some (3, 9) } (at' 9)
     (liuPort s 127).overlap = some (3, 9) ∧ timeUp s 9 = true) := by decide

/-- O33: an OTN port in use, its defects 3 ms old, nothing found in a frame period, a PM second over, a record. -/
theorem test_wit_otn :
    (let x : Otn := { Otn.init with oofSince := some 0, inSince := some 0, lomSince := some 0, mfasOkSince := some 0, fifo := [1] }
     let s := setOtn 31 x (put [(R.LIU_PORT_CFG, 124, at_ 1 63 ||| at_ 12 0)] (at' 4800000))
     let u := setOtn 31 x { s with mgmtDown := true, tau := { s.tau with phc := 2 ^ 48 * 1000000000 } }
     otnOn s 31 = true ∧ (otnOf s 31).oofSince = some 0 ∧ timeUp s (0 + 4800000) = true ∧ arrivalsDone u = true ∧
     (otnOf s 31).framers = List.replicate 4 ⟨none, 0, []⟩ ∧ ((otnOf s 31).aFrac + 65536 * 16384 - 1) / 65536 < 16384 ∧
     (otnOf s 31).fifo = [1] ∧ otnOn u 31 = true ∧ (otnOf u 31).pm.until_ ≤ phcSec u.tau.phc ∧ seqDown u 16 = true) := by
  decide

/-- O34: the last element of a table under the window, each table, and an enabled capture ring that is full and not, its
memory in service and training. -/
theorem test_wit_table_window :
    (let s := put [(R.TMG_TBL_ADDR, 0, at_ 10 32 ||| at_ 262143 0 ||| at_ 1 63)] State.reset
     ({ s with bridgeUp := true } : State).bridgeUp = true ∧ rfld s R.TMG_TBL_ADDR 0 35 32 = 10 ∧ rfld s R.TMG_TBL_ADDR 0 18 0 < 262144 ∧ rbit s R.TMG_TBL_ADDR 0 63 = true) ∧
    (∀ t ∈ [0, 1, 3, 4, 5, 6, 7, 8, 9, 10, 11, 12], (tableReg t).isSome = true) ∧
    (∀ h ∈ [0, 1024],
     let s := { put [(R.TMG_CAP_CFG, 0, at_ 1 63 ||| at_ 10 56), (R.TMG_CAP_HEAD, 0, at_ (h / 1024) 63)] State.reset with
       tmg := { State.reset.tmg with cap := [⟨[]⟩] } }
     rbit s R.TMG_CAP_CFG 0 63 = true ∧ capCount s ≤ 2 ^ 28 ∧ capPos s R.TMG_CAP_HEAD < 2 * capCount s ∧ s.tmg.cap = [⟨[]⟩] ∧
     (capPos s R.TMG_CAP_HEAD + 2 * capCount s - capPos s R.TMG_CAP_TAIL) % (2 * capCount s) = h) ∧
    memReady (ddr 0) .mcd = true ∧
    (∀ st ∈ [0, 1], let s := put [(R.TMG_CAP_CFG, 0, at_ 1 63 ||| at_ 10 56), (R.MCD_CH_STAT, 0, at_ st 61)] (ddr 0)
     runWaits s .mcd (capPlace s).1 (capPlace s).2 = decide (st = 1)) := by decide +kernel

/-- Port 0 up, its one path served, a pool of 256-byte billets in use, and queue 0 as given. -/
def tm (x : Queue_) : State :=
  setQueue 0 x (put [(R.TMG_PORT_STAT, 0, 0), (R.TMG_PORT_CFG, 0, at_ 1 63), (R.TMG_SP_CFG, 0, at_ 1 63),
    (R.TMG_GRP_CFG, 0, at_ 1 63), (R.TMG_CS_CFG, 0, at_ 1 63), (R.TMG_Q_CFG, 0, at_ 1 63),
    (R.BPM_POOL_CFG, 0, at_ 1 63 ||| at_ 8 56 ||| at_ 1000 0)] State.reset)

/-- HBM ready, with pool 1 of it in use, and the channel of that pool's first billet in a state, 4 retired. -/
def hbm (st : Nat) : State :=
  let s := put [(R.MCH_STATUS, 0, at_ 1 63), (R.MCH_GEOM, 0, at_ 128 56 ||| at_ 65536 0),
    (R.BPM_POOL_CFG, 1, at_ 1 63 ||| at_ 1 61 ||| at_ 8 56 ||| at_ 1000 0)] State.reset
  let c := chanOf s .mch (billetAddr s 1 0)
  put [(rCH .mch, c, at_ st 61), (rRET .mch, c / 64, at_ (st / 4) (c % 64))] s

/-- O35: a packet that passes every check, one that fails the first it can, a frame whose last byte arrives, a port with a
packet to select, a frame that takes another cell, and packets that cut through at their end, within the MTU and past it. -/
theorem test_wit_queues :
    (let s := { tm Queue_.init with sen := { State.reset.sen with toTmg := [pkt1] } }
     s.sen.toTmg = [pkt1] ∧ bpmTurn s 1 0 = true ∧ mdF pkt1 1 7 7 = 0 ∧ pkt1.complete = true ∧ pkt1.bad = false ∧
     admitCheck s pkt1 false (placePool s pkt1) (cellsFor (frameLen pkt1)) 0 = 0 ∧
     (takeCells (placePool s pkt1) (cellsFor (frameLen pkt1)) [] s).1 = true ∧
     (let u := rset s R.TMG_Q_CFG 0 0
      admitCheck u pkt1 false (placePool u pkt1) (cellsFor (frameLen pkt1)) 0 = 3 ∧ rfld u R.TMG_CAP_CFG 0 23 0 = 0)) ∧
    (let e : QPkt := ⟨pkt1, [0], false, false, false⟩
     let s := tm { Queue_.init with skein := [e] }
     queuesOf s 1 = [0] ∧ (queueOf s 0).skein = [e] ∧ cellsFor (frameLen pkt1) ≤ e.cells.length) ∧
    (let e : QPkt := ⟨pkt1, [0], false, true, false⟩
     let s := tm { Queue_.init with skein := [e] }
     let s2 := judgeElig (purgePort 0 s)
     let qs := (eligibleQueues s2).filter (fun j => decide (portOfQueue s2 j = 0))
     qs = [0] ∧ (queueOf (descend qs 4 (nodeKey 1 0) s2).1 (descend qs 4 (nodeKey 1 0) s2).2.1).skein = [e] ∧
     (hbmFetch e .clean (descend qs 4 (nodeKey 1 0) s2).1).res = .read) ∧
    (let e : QPkt := ⟨{ pkt1 with complete := false }, List.range 63, true, false, false⟩
     let s := tm { Queue_.init with skein := [e] }
     cellState s 1 = some (List.range 63, none, 0) ∧ (List.range 63).length < 64 ∧ shortCopy s 1 = false ∧
     bpmTurn s 1 0 = true ∧ takers s 1 = 1 ∧
     (tmgAllocate (if spills s 0 then hbmPool s else sramPool s) s).isSome = true ∧ cellState s 2 = none) ∧
    (let c : CutRec := ⟨1, 1, 0, 0, 64, [0], [], [], true, false⟩
     let s := { State.reset with tmg := { State.reset.tmg with cuts := [c] } }
     s.tmg.cuts = [c] ∧ c.complete = true ∧ cellsFor c.len ≤ c.cells.length ∧
     s.sen.toLiu.find? (fun q => decide (q.pid = c.pid) && q.complete) = none ∧
     (let u := { put [(R.SEN_EGR_MTU, 0, at_ 1 16)] s with sen := { s.sen with toLiu := [pkt1] } }
      u.sen.toLiu.find? (fun q => decide (q.pid = c.pid) && q.complete) = some pkt1 ∧
      mtuFails u (mdF pkt1 2 20 14) (frameLen { pkt1 with md := [(0, 0)] } + 1) = true)) := by decide +kernel

/-- O35: a packet with a cell in HBM whose channel serves, trains, and is retired. -/
theorem test_wit_hbm_cells :
    ∀ e ∈ [(0, FetchRes.read), (1, .waits), (4, .failed)],
      (hbmFetch ⟨pkt1, [2 ^ 32], false, true, false⟩ .clean (hbm e.1)).res = e.2 := by decide +kernel

/-- O36: a staged node of the last place and level whose batch is of an earlier tick, and a swap that waits. -/
theorem test_wit_shapers :
    (let w : Word := at_ 1 63 ||| at_ 255 55 ||| at_ 5 52 ||| at_ 524287 0
     let s := { put [(R.TMG_SHAPE_STAGE_NODE, 16383, w)] State.reset with tmg := { State.reset.tmg with batches := [(255, 5)] } }
     let r := R.TMG_SHAPE_STAGE_NODE
     s.tmg.batches = [(255, 5)] ∧ 5 ≠ s.tau.mono ∧ bit w 63 = true ∧ fld w 62 55 = 255 ∧ fld w 54 52 = 5 ∧ fld w 18 0 < levelCount 5 ∧
     s.regs.filter (fun e => decide (r.base ≤ e.1 ∧ e.1 < r.base + r.stride * r.count)) = [(adr r 16383, w)]) ∧
    bit (at_ 1 61 : Word) 61 = true ∧
    (let s := { State.reset with tmg := { State.reset.tmg with gcl := [(127, ⟨0, [], [5]⟩)] } }
     (gclOf s 127).swapNow = [5] ∧ 5 ≠ s.tau.mono ∧ (gclOf s 0).swapNow = []) := by decide +kernel

/-- O37: a port whose binding ends, a flush of the last queue, and a flush in progress. -/
theorem test_wit_flush :
    (let s := put [(R.TMG_PORT_STAT, 127, at_ 1 62)] State.reset
     rfld s R.TMG_PORT_STAT 127 63 62 = 1 ∧ seqDown s 14 = false) ∧
    (let v : Word := at_ 1 40 ||| at_ 1 20 ||| at_ 524287 0
     bit v 40 = true ∧ rbit State.reset R.TMG_BINDOFF_CMD 0 63 = false ∧ fld v 18 0 + fld v 39 20 ≤ 524288 ∧
     1 ≤ fld v 39 20 ∧ risingFrom 0 State.reset.regs = true) ∧
    { State.reset.tmg with flush := some (524287, 1) }.flush = some (524287, 1) := by decide +kernel

/-- Pool 15 in use with one billet left, counted (`named` false) or owned, and its first billet's tag as given. -/
def pool (named : Bool) (tag : Nat) : State :=
  setTag 15 0 tag (put [(R.BPM_POOL_CFG, 15, at_ 1 63 ||| at_ named.toNat 60 ||| at_ 14 56 ||| at_ 2 0)]
    { State.reset with bpm := { State.reset.bpm with pools := [(15, { PoolSt.init with next := 1, used := 1 })] } })

/-- O38: requests in their turn and not, that the last billet serves, that find none, and that no pool could serve; pools
enabled, disabled. -/
theorem test_wit_billets :
    (let s := pool false 0x8001
     let cs := candidatePools s 16384 0x8000
     smallestPool s (cs.filter (fun n => !poolExhausted s n)) = some 15 ∧ (takeBillet s 15).map (·.1) = some 1 ∧
     candidatePools s 16384 0x7FFF = [] ∧ bpmTurn s 1 0x3FFF = true ∧ locMem (poolLoc s 15) = none ∧
     bpmTurn { s with pending := [.releaseRequest 0 ⟨0, 0⟩ .clean] } 1 0x3FFF = false ∧ poolEn s 15 = true ∧ (poolSt s 15).used ≠ 0 ∧
     (let u := setPoolSt 15 { PoolSt.init with next := 2, used := 2 } s
      smallestPool u ((candidatePools u 1 0x8000).filter (fun n => !poolExhausted u n)) = none ∧
      smallestPool u (candidatePools u 1 0x8000) = some 15) ∧
     (let u := setPoolSt 15 PoolSt.init s; poolEn u 15 = true ∧ (poolSt u 15).used = 0)) ∧
    (let s1 := poolFields 15 (at_ 2 61 ||| at_ 1 0 ||| at_ 14 56) (ddr 0)
     poolEn (ddr 0) 15 = false ∧ poolCount s1 15 ≠ 0 ∧ poolOverlap s1 15 = false ∧ poolReady s1 15 = true) := by decide +kernel

/-- O39: billets at the ends of the count, owned and free ones, a pool that is not in use; requests in their turn; the block
idle, and with a result that stands. -/
theorem test_wit_billet_operations :
    (∀ t ∈ [0x8001, 0x8FFF], let s := pool false t
      poolOpen s 15 = true ∧ bpmTurn s 0 0x3FFF = true ∧ 0 < poolCount s 15 ∧ (tagRaw s 15 0).testBit 15 = true ∧ poolNamed s 15 = false ∧
      tagRaw s 15 0 = t ∧ billetRetired s 15 0 = false) ∧
    (let s := pool true 0x9000
     poolNamed s 15 = true ∧ tagRaw s 15 0 % 2 ^ 14 = 0x1000 ∧ tagRaw s 15 0 % 2 ^ 14 ≠ 0x1001 ∧
     (tagRaw s 15 0).testBit 15 = true) ∧
    ((tagRaw (pool false 1) 15 0).testBit 15 = false) ∧ poolOpen State.reset 15 = false ∧
    bpmTurn { State.reset with pending := [.releaseRequest 0 ⟨0, 0⟩ .clean] } 0 1 = false ∧
    (let s := put [(R.BPM_CMD_HANDLE, 0, at_ 15 32)] (pool false 0x8FFE)
     rbit s R.BPM_CMD 0 63 = false ∧ bpmTurn s 0 0x1000 = true ∧ bpmTurn s 1 0x1000 = true ∧
     rfld s R.BPM_CMD_HANDLE 0 35 32 = 15 ∧
     tagRaw s 15 0 % 2 ^ 12 + max 1 (rfld s R.BPM_CMD_ARG 0 27 16) ≤ 4095 ∧
     (let v : Word := at_ 1 0 ||| at_ 1 51 ||| at_ 16384 21
      bit v 0 = true ∧ fld v 35 21 = 16384 ∧
      smallestPool s ((candidatePools s (fld v 35 21) (fld v 51 36)).filter (fun x => !poolExhausted s x)) = some 15)) ∧
    rbit (put [(R.BPM_CMD, 0, at_ 1 63)] State.reset) R.BPM_CMD 0 63 = true ∧ State.reset.bpm.log = [] := by decide +kernel

/-- O40: the fabric interface disabled and enabled, mode 0 and another; a link to retire; links that train and are up. -/
theorem test_wit_fabric_links :
    (rfld State.reset R.FAB_CTL 0 3 2 = 0 ∧ rbit State.reset R.FAB_CTL 0 0 = false ∧ rfld State.reset R.GLB_SYS_MODE 0 1 0 = 0 ∧
      retireDue State.reset 8 191 true = true) ∧
    rfld (put [(R.GLB_SYS_MODE, 0, 2)] State.reset) R.GLB_SYS_MODE 0 1 0 ≠ 0 ∧
    (let s := put [(R.FAB_CTL, 0, at_ 1 2 ||| 1)] State.reset
     rfld s R.FAB_CTL 0 3 2 ≠ 0 ∧ s.mgmtDown = false ∧ s.err.fifo.length < 1024) ∧
    (∀ g ∈ [6, 7], let s := setFabLink 191 { FabLink.init with good := g } (put [(R.FAB_LINK, 191, at_ 1 62)] State.reset)
      linkSt s 191 = 1 ∧ (fabLink s 191).good = g ∧ s.fab.resend = [] ∧ s.fab.outbox = []) ∧
    (let s := put [(R.FAB_LINK, 191, at_ 2 62)] (at' 25120)
     linkSt s 191 = 2 ∧ (∀ j ∈ List.range 191, linkSt s j ≠ 2) ∧
     25120 = (s.tau.mono + 2 ^ 64 - (fabLink s 191).lastCtl) % 2 ^ 64 ∧ arrivalsDone s = true) := by decide +kernel

/-- A system of mode 2 whose link 191 is up, with queue 524287 a VOQ to device 2047 that holds one packet. -/
def fab1 : State :=
  let e : QPkt := ⟨{ pkt1 with win := List.replicate 241 0 }, [0], false, true, false⟩
  setQueue 524287 { Queue_.init with skein := [e], credit := 1 }
    (put [(R.GLB_SYS_MODE, 0, 2), (R.FAB_LINK, 191, at_ 2 62), (R.TMG_Q_CFG, 524287, at_ 3 62 ||| at_ 2047 19),
          (R.FAB_CTL, 0, at_ 1000 16 ||| at_ 2 8 ||| at_ 2 4 ||| at_ 2 2 ||| 1)] (at' 1600000))

/-- A data cell from device 1 with a SEQ. -/
def cell1 (seq : Nat) : Cell := ⟨2, 0, 1, 0, 0, false, false, false, 1, false, BitVec.ofNat 16 seq, [0]⟩

/-- O41: a cell to send, cells that come the least and the most ahead, a wait of RESEQ_US, and a hold at its end. -/
theorem test_wit_fabric_cells :
    (let s := fab1
     s.fab.resend = [] ∧ s.fab.outbox = [] ∧ grantsDone s = true ∧ isVoq s 524287 = true ∧ (fabDst s (rfld s R.TMG_Q_CFG 524287 29 19)).hold = none ∧
     (sendable s 524287).map (fun x => x.2) = some (0, 2) ∧
     (sendable s 524287).map (fun x => (hbmFetch x.1 .clean s).res) = some .read ∧ nextLink s = some 191 ∧
     ((sendable s 524287).bind (fun x => nextCell s 524287 x.1 FabDst.init 0 2)).map (·.last) = some false) ∧
    (∀ q ∈ [1, 1023], let s := setFabSrc 1 { FabSrc.init with exp := some 0 } fab1
      let c := cell1 q
      linkSt s 191 = 2 ∧ (fabLink s 191).nak = false ∧ c.dst.val = rfld s R.GLB_SYS_MODE 0 26 16 ∧ c.sync = false ∧
      c.ver.toNat = rfld s R.FAB_CTL 0 11 8 ∧ (fabSrc s 1).exp = some 0 ∧ 1 ≤ (c.seq.toNat + 65536 - 0) % 65536 ∧
      (c.seq.toNat + 65536 - 0) % 65536 < 1024 ∧ (fabSrc s 1).held = []) ∧
    linkSt fab1 0 ≠ 2 ∧
    (let x : FabSrc := { exp := some 65535, held := [(cell1 3, 0)], asm := none, mark := (0, 0, 0) }
     let s := setFabSrc 2047 x fab1
     fabSrc s 2047 = x ∧ (cell1 3).first = false ∧ timeUp s (0 + rfld s R.FAB_CTL 0 31 16 * 1600) = true) ∧
    (let s := setFabDst 2047 { FabDst.init with hold := some 1600000 } fab1
     (fabDst s 2047).hold = some 1600000 ∧ timeUp s 1600000 = true) := by decide +kernel

/-- O42: a VOQ whose request is due, room for a demand record, one that a port may grant, and one that expires. -/
theorem test_wit_credit :
    (let s := setQueue 524287 { queueOf fab1 524287 with credit := 0 } fab1
     isVoq s 524287 = true ∧ requestDue s 524287 = true ∧ rfld s R.FAB_CTL 0 3 2 = 2 ∧ linkSt s 191 = 2 ∧
     (fabLink s 191).nak = false ∧ s.fab.demands.length < 65536 ∧ s.fab.resend = [] ∧ s.fab.outbox = [] ∧
     nextLink s = some 191 ∧ deviceId s = rfld s R.GLB_SYS_MODE 0 26 16 ∧ rfld s R.FAB_CTL 0 11 8 = 2) ∧
    (let d : Demand := ⟨0, 65535, 0⟩
     let s := { tm Queue_.init with fab := { State.reset.fab with demands := [(2 ^ 19, d)] } }
     let u := put [(R.FAB_LINK, 191, at_ 2 62)] s
     (∀ x ∈ [s, u], x.fab.demands = [(2 ^ 19, d)] ∧ grantable x 0 d = true ∧ mget 0 x.fab.grantAt 0 ≤ x.tau.mono ∧
       requestsDone x = true ∧ x.fab.resend = [] ∧ x.fab.outbox = []) ∧ nextLink s = none ∧ nextLink u = some 191) ∧
    (let s := { at' 1600000 with fab := { State.reset.fab with demands := [(2 ^ 19, ⟨0, 0, 0⟩)] } }
     mfind s.fab.demands (1 * 2 ^ 19 + 0) = some ⟨0, 0, 0⟩ ∧ timeUp s (0 + 10 * rfld s R.FAB_CRED_CFG 0 23 12 * 1600) = true) := by
  decide +kernel

/-- O43: the last byte of a memory in service, channels that train and sleep, an open row, refresh and scrubbing. -/
theorem test_wit_memory :
    (let s := ddr 6240
     memReady s .mcd = true ∧ 2 ^ 30 - 1 < memSize s .mcd ∧ memLost s .mcd (2 ^ 30 - 1) = false ∧
     chState s .mcd (chanOf s .mcd (2 ^ 30 - 1)) = 0 ∧ actBlocked s .mcd (2 ^ 30 - 1) = false ∧
     unitActive s .mcd 28 = true ∧ timeUp s ((refUnit s .mcd 28).last + 6240) = true ∧ (refUnit s .mcd 28).hot = false ∧
     -(pullMax s .mcd : Int) < (refUnit s .mcd 28).debt ∧ (memOf s .mcd).held = [] ∧ (memOf s .mcd).nextReq = none ∧
     rfld s (rPWR .mcd) 0 15 0 ≠ 0 ∧ chState s .mcd 7 = 0 ∧
     timeUp s (mget 0 (memOf s .mcd).lastReq 7 + 1600 * rfld s (rPWR .mcd) 0 15 0) = true) ∧
    (let s := ddr 10000000; let x := memOf s .mcd
     rbit s (rSCRUB .mcd) 0 63 = true ∧ x.scrubWait.contains 0 = false ∧ 0 = x.scrubAt ∧ scrubDue s .mcd = true ∧
     memLost s .mcd 0 = false ∧ memWaits s .mcd 0 = false ∧ scrubDue (ddr 0) .mcd = false ∧ 64 ≠ x.scrubAt) ∧
    (let s := ddr 10000000; let due := (refUnit s .mcd 28).poll + rfld s (rREF .mcd) 0 57 48 * 1600
     due ≤ s.tau.mono ∧ (ddr 0).tau.mono < due ∧ wantsHot s .mcd false 0 = false ∧ wantsHot s .mcd false 255 = true) ∧
    (∀ st ∈ [1, 2, 3], let s := put [(R.MCD_CH_STAT, chanOf (ddr 10000000) .mcd 0, at_ st 61)] (ddr 10000000)
      chState s .mcd (chanOf s .mcd 0) = st ∧ memWaits s .mcd 0 = true) := by decide +kernel

/-- O43, further: a row open for its time and a channel that leaves self-refresh, and a unit that owes more than
POST_MAX, which blocks an activate. -/
theorem test_wit_memory_banks :
    (let s := withMem .mcd (fun x => { x with banks := [(5, ⟨1, some 0, true, 0⟩)], waking := [7] }) (ddr 320)
     (mget MBank.init (memOf s .mcd).banks 5).opened = true ∧
     rfld s (rPAGE .mcd) 0 15 0 * 8 ≤ (s.tau.mono - (mget MBank.init (memOf s .mcd).banks 5).last) * 5 ∧
     (memOf s .mcd).waking.contains 7 = true ∧ (memOf s .mcd).held = [] ∧ (memOf s .mcd).nextReq = none) ∧
    (let u := unitOfBank (bankOf (ddr 0) .mcd 0)
     let s := setRefUnit .mcd u ⟨postMax (ddr 0) .mcd + 1, false, 0, 0⟩ (ddr 0)
     (postMax s .mcd : Int) < (refUnit s .mcd u).debt ∧ memWaits s .mcd 0 = true) := by decide +kernel

/-- O44: channels that may train, a run and a change in progress, set points trained and not, a window access. -/
theorem test_wit_memory_control :
    (∀ n ∈ [0, 2 ^ 40], let s := { ddr n with bridgeUp := true }; let due := mget 0 (memOf s .mcd).turns 7 + retrainTicks s .mcd
     s.bridgeUp = true ∧ memChannels s .mcd ≤ 8 ∧ memReady s .mcd = true ∧ chState s .mcd 7 = 0 ∧ (memOf s .mcd).run = none ∧
     (memOf s .mcd).change = none ∧ (memOf s .mcd).waking = [] ∧ chansIn s .mcd 3 = [] ∧ arrivalsDone s = true ∧
     decide (due ≤ s.tau.mono) = decide (n ≠ 0)) ∧
    (let s := ddr 0
     rbit s (rFREQ .mcd) 0 60 = false ∧ rbit s (rFREQ .mcd) 0 63 = true ∧ rbit s (rWINC .mcd) 0 63 = false ∧
     (memOf s .mcd).held = [] ∧ retireDue s 5 7 true = true ∧ seqDown s 0 = false ∧ seqDown s 2 = false) ∧
    (∀ st ∈ [2, 3], let s := put [(R.MCD_CH_STAT, 7, at_ st 61)] (ddr (2 ^ 40))
     chState s .mcd 7 = st ∧ chState s .mcd (min 127 (memChannels s .mcd - 1)) = st ∧
     chansIn s .mcd 3 = (if st = 3 then [7] else [])) ∧
    (∀ w ∈ [[], [7]], let s := withMem .mcd (fun x => { x with run := if w = [] then some (7, false) else none, waking := w }) (ddr 0)
     ((memOf s .mcd).run = some (7, false) ∨ (memOf s .mcd).waking ≠ []) ∧ (memOf s .mcd).nextReq = none ∧
     (memOf s .mcd).held = [] ∧ (memOf s .mcd).change = none) ∧
    (let s := withMem .mcd (fun x => { x with change := some 3 }) (put [(R.MCD_CH_STAT, 7, at_ 2 61)] (ddr 0))
     (memOf s .mcd).change = some 3 ∧ (memOf s .mcd).nextReq = none ∧ (memOf s .mcd).held = [] ∧ chansIn s .mcd 2 = [7]) ∧
    (let s := put [(R.MCH_GEOM, 0, at_ 128 56 ||| at_ 65536 0)] State.reset
     memReady s .mch = false ∧ memChannels s .mch ≠ 0 ∧ memChannels s .mch ≤ 128) := by decide +kernel

/-- O44, further: a window access inside the memory and past it, to a channel that serves, trains and is lost, and in a
memory that is not ready. -/
theorem test_wit_memory_window :
    (∀ st ∈ [0, 1, 4], let a0 := 2 ^ 30 - 64
     let u := put [(R.MCD_WIN_ADDR, 0, BitVec.ofNat 64 a0), (R.MCD_CH_STAT, chanOf (ddr 0) .mcd a0, at_ st 61),
       (rRET .mcd, 0, at_ (st / 4) (chanOf (ddr 0) .mcd a0))] (ddr 0)
     let s := withMem .mcd (fun x => { x with win := some ⟨true, 0⟩ }) u
     let a := (rget s (rWINA .mcd) 0).toNat
     (memOf s .mcd).win = some ⟨true, 0⟩ ∧ (memOf s .mcd).held = [] ∧ memReady s .mcd = true ∧ a + 64 ≤ memSize s .mcd ∧
     memLost s .mcd a = decide (st = 4) ∧ memWaits s .mcd a = decide (st = 1)) ∧
    (let s := put [(R.MCD_WIN_ADDR, 0, BitVec.ofNat 64 (2 ^ 30))] (ddr 0)
     memSize s .mcd < (rget s (rWINA .mcd) 0).toNat + 64) ∧ memReady State.reset .mcd = false := by decide +kernel

/-- O45: a slice that may be cast on; one that is active, with and without a log and old work; held and removing. -/
theorem test_wit_slices :
    (let v : Word := at_ 4095 32 ||| 1
     State.reset.hif.job = none ∧ bit v 0 = true ∧ fld v 43 32 = 4095 ∧ castCheck State.reset 4095 = 1 ∧
     (slice State.reset 4095).st ≠ 1) ∧
    (let s := setSlice 4095 { SliceSt.init with st := 1 } State.reset
     (slice s 4095).st = 1 ∧ (slice s 4095).logOn = false ∧ resourceCheck s 4095 = 1 ∧ oldWork s 4095 = false ∧
     s.hif.slices = [(4095, { SliceSt.init with st := 1 })] ∧
     oldWork { s with hif := { s.hif with old := [(0, 4095)] } } 4095 = true ∧ comes s (ofSliceCmd 4095) = false ∧
     comes { s with pending := [.sliceReset (at_ 4095 32)] } (ofSliceCmd 4095) = true) ∧
    (slice (setSlice 4095 { SliceSt.init with st := 1, logOn := true } State.reset) 4095).logOn = true ∧
    (∀ st ∈ [2, 3], (slice (setSlice 4095 { SliceSt.init with st := st } State.reset) 4095).st = st) ∧
    (let s := { dma with hif := { dma.hif with job := some (.flush 4095), flush := [(4095, true)], marks := [] } }
     s.hif.job ≠ none ∧ s.hif.flush = [(4095, true)] ∧ s.hif.marks = [] ∧ dmaOk s false = true) ∧
    (let s := { dma with hif := { dma.hif with marks := [⟨4095, false, 4194303, 0, 1⟩] } }
     s.hif.marks = [⟨4095, false, 4194303, 0, 1⟩] ∧ dmaOk s false = true) := by decide +kernel

/-- R434: a masked vector waits as a pending bit, and one that is not masked goes out. -/
theorem test_msix_mask :
    (let s := { State.reset with err := { State.reset.err with masked := [(1, 4095)] } }
     (msixRaise 1 4095 s).err.msixPend = [(1, 4095)] ∧ (msixRaise 1 4095 s).out = [] ∧
     (msixRaise 1 4094 s).out = [.msix 1 4094]) := by decide

/-- A PF0 ring pair 15 as given, with DMA possible. -/
def ringOn (x : Ring) : State := setRing (ringKey (.pf0 15)) x dma

/-- O46: a ring pair in each state, with completions, publish records, interrupts, slots and work that are due. -/
theorem test_wit_rings :
    (let s := ringOn Ring.init; let k := ringKey (.pf0 15)
     ringSeen s k = true ∧ (ring s k).st = 0 ∧ ringSlice k = none ∧ ringDma s k = true) ∧
    (let x := { Ring.init with st := 2 }; inflight x = 0 ∧ x.waiting = [] ∧ x.pubDue = false) ∧
    (let e : Ended := ⟨0, 0, 0, 0, 0, true, 0, 0, 0, 0, 0, 0, []⟩
     let x := { Ring.init with st := 1, ended := [e], pubDue := true, irqNext := true, irqDue := true }
     let s := ringOn x; let k := ringKey (.pf0 15)
     (ring s k).ended = [e] ∧ endTurn s e = true ∧ e.data = [] ∧ cqFull (ring s k) = false ∧ (ring s k).pubAt = none ∧ (ring s k).st ≠ 0 ∧ (ring s k).pubDue = true ∧
     (ring s k).irqDue = true ∧ timeUp s (ring s k).holdEnd = true ∧ cqFull { x with cqTail := 65536 } = true) ∧
    (let x := { Ring.init with st := 1, fetched := List.replicate 8 0, sqHead := 65536 }
     let p := advance (sqLog x) x.sqHead x.fetched.length
     p < 131072 ∧ x.fetched.length < 9 ∧ x.fetched ≠ [] ∧ p % 65536 < 2 ^ sqLog x ∧ x.pollAt = none ∧
     5 * 0 + 8 * fld x.cfg 21 6 ≤ 5 * 1600 ∧ 5 * 1599 < 5 * 0 + 8 * fld x.cfg 21 6) ∧
    (let w : Work := ⟨1, 1, 131071, 0, 0, some 0, false, false⟩
     let s := ringOn { Ring.init with st := 1, works := [w] }; let k := ringKey (.pf0 15)
     (ring s k).works = [w] ∧ (ring s k).ended = [] ∧ w.pos = 131071 ∧ timeUp s 0 = true) := by decide +kernel

/-- A descriptor with an operation and words 4 and 5, and a PF0 ring that has fetched it. -/
def descOf (op w0 w4 w5 : Nat) : DescWords := BitVec.ofNat 512 (op * 2 ^ 48 + w0 + w4 * 2 ^ 256 + w5 * 2 ^ 320)
def ringHas (d : DescWords) (s : State) : State :=
  { s with hif := { s.hif with rings := [(ringKey (.pf0 15), { Ring.init with st := 1, fetched := [d] })] } }

/-- O47: a descriptor of each operation may start; ranges at and past their end; threads and billets that suit. -/
theorem test_wit_descriptors :
    (∀ op ∈ [0, 1, 2, 3, 4, 5, 6, 7], let s := ringHas (descOf op 0 0 0) dma; let k := ringKey (.pf0 15)
      (ring s k).fetched = [descOf op 0 0 0] ∧ startable s k (descOf op 0 0 0) = true ∧ (ring s k).works = [] ∧
      (ring s k).ended = [] ∧ ringDma s k = true ∧ dOp (descOf op 0 0 0) = op ∧
      descSlot s k (descOf op 65535 0 0) = some 0 ∧ comes s countsPairs = false ∧ bpmTurn s 1 0x1000 = true ∧
      bpmTurn s 0 0x1000 = true) ∧
    (let d := descOf 3 1048575 1 0; fld (dWord d 0) 19 0 + clampTo 1 4096 (fld (dWord d 4) 12 0) = 1048576) ∧
    (let d := descOf 3 1048575 2 0; 1048576 < fld (dWord d 0) 19 0 + clampTo 1 4096 (fld (dWord d 4) 12 0)) ∧
    (let s := ringHas (descOf 4 0 (639 * 8) 0) { inMode 3 with regs := dma.regs, hif := dma.hif }
     running s 0 3 = true ∧ (thr s 639).st = .free ∧
     (let u := setThr s 639 { Thread.empty with svc := true, st := .sleeping }
      (thr u 639).svc = true ∧ (thr u 639).st = .sleeping)) ∧
    (let s := setSlice 4095 { SliceSt.init with st := 1 } State.reset
     rbit s R.SEN_SVC_CTL 639 47 = false ∧ ringSlice (ringKey (.slice 4095 63)) = some 4095) ∧
    (let s := ringHas (descOf 5 0 (16384 + 0x8000 * 2 ^ 16) 0) (pool false 0x8001)
     smallestPool s ((candidatePools s 16384 0x8000).filter (fun n => !poolExhausted s n)) = some 15 ∧
     candidatePools s 16384 0x4000 = []) ∧
    (∀ t ∈ [0x8002, 0], let s := pool false t; poolOpen s 15 = true ∧ 0 < poolCount s 15 ∧ poolNamed s 15 = false ∧
      (tagRaw s 15 0).testBit 15 = decide (t ≠ 0) ∧ tagRaw s 15 0 % 2 ^ 12 ≠ 1) ∧
    (tagRaw (pool true 0x9000) 15 0 % 2 ^ 14 = 0x1000 ∧ poolNamed (pool true 0x9000) 15 = true) := by decide +kernel

/-- The key lock held by the host, with a slot of each kind. -/
def keys : State :=
  put [(R.CPH_KEY_LOCK, 0, at_ 1 62), (R.CPH_CORE_STAT, 0, 32)] { State.reset with cph := { State.reset.cph with slots :=
    [(1, ⟨1, true, false, 255, [], [], 1⟩), (2, ⟨2, true, false, 255, [], [], 1⟩), (3, ⟨3, false, false, 0, [], [], 1⟩)] } }

/-- O48: the lock held and free, a command that may run on slots of each kind, one that has ended or erases, a slot to
recover and a notice. Which of the outcomes of an unwrap occurs is a free function of its operands. -/
theorem test_wit_keys :
    (keyOwner (put [(R.CPH_KEY_LOCK, 0, 0)] State.reset) = 0 ∧ bit (1 : Word) 0 = true ∧ bit (2 : Word) 1 = true ∧ rbit State.reset R.CPH_KEY_CMD 0 63 = false) ∧
    (keyOwner keys = 1 ∧ rbit keys R.CPH_KEY_CMD 0 63 = false ∧
      (∀ k ∈ [0, 1, 2, 3], (slotOf keys k).kind = k ∧ mustWait keys k = false ∧ asksSlot keys k = false ∧ holds keys k (slotOf keys k).version = false) ∧
      asksSlot { keys with pending := [.descCipher (.pf0 0) []] } 1 = true ∧ (slotOf keys 1).wrappable = true ∧ (slotOf keys 3).wrappable = false ∧
      fld (rget (put [(R.CPH_KEY_ATTR, 0, at_ 1 62)] keys) R.CPH_KEY_ATTR 0) 63 62 ≠ 0) ∧
    (∀ e ∈ [none, some 65535], let j : KeyJob := ⟨0, 0, 0, some 1, e, false, false⟩
      let s := { keys with cph := { keys.cph with job := some j } }
      s.cph.job = some j ∧ j.erase = e ∧ accepted s = [] ∧ s.liu.ports = [] ∧ s.cph.notify.length < 256) ∧
    (let s := { keys with cph := { keys.cph with recover := [65535] } }
     s.cph.bad.contains 65535 = false ∧ s.cph.job = none ∧ s.cph.recover.contains 65535 = true ∧ s.mgmtDown = false ∧
     mustWait s 65535 = false) := by
  decide +kernel

/-- A cipher request of a program, to slot 1. -/
def req1 : CphReq := ⟨.prog 0 0, 0, 0, 1, 0, 5, [], [], false, [], [], 1⟩

/-- O49: a CIPH that issues; requests accepted and refused; a free core; requests that run for a thread and a ring. -/
theorem test_wit_cipher :
    (let s := prog (word 0x62 31 1 0) Thread.empty
     Issues s th0 0x62 (fun w => asC w = ⟨31, 1, 0, 0, 0, 0, 0, 0, 0⟩) ∧
     frameLen (counted s th0).pkt + tagLen 0 ≤ (counted s th0).pkt.orig + 128) ∧
    (let s := { keys with cph := { keys.cph with arrived := [req1] } }
     s.cph.arrived = [req1] ∧ comes s asksCipher = false ∧ req1.tick = s.tau.mono ∧
     comes { s with pending := [.descCipher (.pf0 0) []] } asksCipher = true ∧ refusal s req1 = 0 ∧ (slotOf s 1).kind = 1 ∧ refusal s { req1 with slot := 0 } = 1) ∧
    (let s := { keys with cph := { keys.cph with queue := [req1] } }
     rbit s R.CPH_CORE_RETIRE 0 31 = false ∧ rfld s R.CPH_CORE_STAT 0 5 0 ≠ 0 ∧ mfind s.cph.running 31 = none ∧
     s.cph.queue = [req1] ∧ retireDue s 2 31 true = true) ∧
    (let rq : Req := ⟨7, 1, false, .cipher 0 0 0 false 0⟩
     let s := setThr { keys with cph := { keys.cph with running := [(31, req1)] } } 0 { Thread.empty with st := .ready, reqs := [rq] }
     mfind s.cph.running 31 = some req1 ∧ (thr s 0).st = .ready ∧ (thr s 0).exc6 = false ∧ cipherReq (thr s 0) 0 = some rq) ∧
    (let w : Work := ⟨0, 0, 0, 0, 0, none, false, false⟩
     let k := ringKey (.pf0 0)
     let q := { req1 with src := .host k 0 }
     let s := setRing k { Ring.init with st := 1, works := [w] } { keys with cph := { keys.cph with running := [(31, q)] } }
     mfind s.cph.running 31 = some q ∧ (ring s k).works = [w] ∧ (ring s k).ended = []) := by
  unfold Issues; decide +kernel

/-- A microword with its parity bit. -/
def evened (w : Nat) : Word :=
  if parityOk (BitVec.ofNat 64 w) then BitVec.ofNat 64 w else BitVec.ofNat 64 (w + 2 ^ 63)

/-- Sequencer 23 running the word `w` of the patch RAM, its nanoword empty but for an ALU operation of no effect. -/
def seqRun (w : Nat) (x : SeqSt) : State :=
  setSeq 23 { x with st := 1, upc := 0x4000 } { State.reset with csq := { State.reset.csq with
    micro := [(0, evened (w + 0xC00 * 2 ^ 26))], nano := [(0, BitVec.ofNat 96 (13 * 2 ^ 92))] } }

/-- O50: a word of each sequence operation; a stack that is full, an access that has returned, a patch to switch. -/
theorem test_wit_sequencers :
    (∀ seq ∈ [0, 1, 2, 3, 4, 5, 6, 7, 8, 9, 10],
      let s := seqRun (seq * 2 ^ 59 + 1) { SeqSt.init with stack := [5], saved := if seq = 9 then some ⟨1, 2, 0, [(7, 1, 0x70)]⟩ else none }
      let x := seqOf s 23
      let w := microAt s x.upc
      let n := nanoAt s (fld w 37 26)
      x.st = 1 ∧ x.wait = 0 ∧ x.since ≤ s.tau.mono ∧ parityOk w = true ∧ fld w 62 59 = seq ∧ nfld n 75 72 = 0 ∧ seqStalls x n = false ∧ fld w 21 0 ≠ 0 ∧
      comes s (isReturn 23) = false ∧ condDraws (fld w 58 54) = false ∧ x.stack = [5] ∧ x.queue = [] ∧
      seqCond s 23 x (fld w 58 54) ≠ bit w 53) ∧
    (let s := seqRun (6 * 2 ^ 59 + 2 ^ 53) SeqSt.init
     let w := microAt s (seqOf s 23).upc
     seqCond s 23 (seqOf s 23) (fld w 58 54) = bit w 53) ∧
    8 ≤ (seqOf (seqRun 0 { SeqSt.init with stack := [1, 2, 3, 4, 5, 6, 7, 8] }) 23).stack.length ∧
    (let p : PortAcc := ⟨0, 1, 0, 1, 0, 31, 0, [], false⟩
     let s := seqRun 0 { SeqSt.init with pend := [p], queue := [7] }
     (let u := setSeq 23 { seqOf s 23 with wait := 1 } { s with tau := { s.tau with mono := 131072 } }
      seqWaits u 23 = true ∧ timeUp u ((seqOf u 23).since + 131072) = true ∧ (seqOf u 23).saved = none) ∧
     (seqOf s 23).pend = [p] ∧ p.pop ≠ 1 ∧ p.port ≠ 11 ∧ p.burst = 1 ∧ p.dreg < 32 ∧ (seqOf s 23).queue = [7]) ∧
    (let s := { seqRun 0 SeqSt.init with csq := { (seqRun 0 SeqSt.init).csq with micro := [(0, 2)] } }
     let w := microAt s (seqOf s 23).upc
     (seqOf s 23).st = 1 ∧ (seqOf s 23).since ≤ s.tau.mono ∧ fld w 62 59 = 0 ∧ parityOk w = false) ∧
    (let s := setSeq 23 { SeqSt.init with st := 5 } State.reset
     (seqOf s 23).st = 5 ∧ (seqOf s 23).dead = false ∧ (seqOf s 23).queue = []) ∧
    (∀ e ∈ [(0, 0), (1, 1)], let p : PortAcc := ⟨0, 4, e.1, 1, 0, 31, 0, List.replicate e.2 5, false⟩
     let s := setSeq 23 { SeqSt.init with st := 1, pend := [p] } (ddr 0)
     (seqOf s 23).pend = [p] ∧ portMem p.port = some .mcd ∧ memReady s .mcd = true ∧ portAddr p.addr + 8 ≤ memSize s .mcd ∧
     runLost s .mcd (portAddr p.addr) 8 = false ∧ runWaits s .mcd (portAddr p.addr) 8 = false ∧ p.pop = e.1 ∧
     runWaits (put [(R.MCD_CH_STAT, chanOf s .mcd 0, at_ 1 61)] s) .mcd (portAddr p.addr) 8 = true) ∧
    (∀ k ∈ [3, 4], let s := put [(R.CSQ_ACT, 0, at_ k 61)] (setSeq 5 { SeqSt.init with st := 4 } State.reset)
     rfld s R.CSQ_ACT 0 63 61 = k ∧ s.csq.refusals = [] ∧ (seqOf s 5).st = 4 ∧ (seqOf s 0).st ≠ 4 ∧
     rfld s R.CSQ_VERSION 0 15 8 = s.csq.stagedCkpt) ∧
    (let s := put [(R.CSQ_ACT, 0, at_ 2 61)] (at' 16000000)
     rfld s R.CSQ_ACT 0 63 61 = 2 ∧ (∀ j ∈ List.range 24, (seqOf s j).st = 0) ∧
     timeUp s (s.csq.quiesceAt + 16000000) = true) := by decide +kernel

/-- O51: requests refused, taken, held and without memory; an abort; each service at its end. -/
theorem test_wit_services :
    (let r (svc len : Nat) : SvcReq := ⟨7, svc, false, 0, len, BitVec.ofNat 64 4096, 0, none⟩
     reqRefused (ddr 0) (r 1 0) = true ∧ reqRefused (ddr 0) (r 1 4096) = false ∧ reqRefused (ddr 0) (r 2 4096) = false ∧
     reqRefused (ddr 0) (r 2 4097) = true ∧ reqMoves (r 6 4096) = true ∧ memReady (ddr 0) (reqMem (r 1 0)) = true ∧
     memReady State.reset (reqMem (r 1 0)) = false ∧ reqsMeet (r 1 4096) (r 2 4096) = true ∧
     reqsMeet (r 1 4096) { r 1 4096 with addr := 4096 } = false ∧ (r 1 4096).came = (ddr 0).tau.mono ∧
     (∀ svc ∈ [1, 2, 3, 4, 5],
       let s := setSeq 18 { SeqSt.init with st := 1, queue := [7] } { ddr 0 with csq := { State.reset.csq with reqs := [r svc 4096] } }
       s.csq.reqs = [r svc 4096] ∧ rbit s R.CSQ_REQ_STAT 7 63 = false ∧ seqDown s 18 = false ∧
       (seqOf s 18).queue.head? = some 7 ∧ (∀ q ∈ [19, 20, 21], (seqOf s q).queue.head? ≠ some 7) ∧ (seqOf s 18).saved = none ∧
       seqDown { s with mgmtDown := true } 18 = true ∧ rfld s R.CSQ_REQ_STAT 7 40 0 = 0 ∧ rfld s R.CSQ_REQ_STAT 7 57 41 = 0 ∧
       (svc ≤ 2 → (svcAddrs (svcPart (r svc 4096) 0 1) 1).all (fun a => !unitWaits s .mcd a && !memLost s .mcd a) = true) ∧
       (svc = 3 → comes s beforeSweep = false ∧ ∀ a ∈ sweepReads s 7, unitWaits s .mcd a = false)) ∧
     (let s := put [(R.MCD_CH_STAT, chanOf (ddr 0) .mcd 0, at_ 1 61)] (ddr 0)
      (svcAddrs (svcPart { r 1 4096 with addr := 0 } 0 1) 1).any (unitWaits s .mcd) = true)) ∧
    (let s := { State.reset with csq := { State.reset.csq with refusals := [7] } }; s.csq.refusals = [7]) ∧
    (let s := tcamUse 0 []; scrubbed s 63 = true ∧ 4095 < bankEntries (rfld s R.TCM_BANK_CFG 63 1 0)) ∧
    (let s := put [(R.CSQ_REQ_CTL, 7, at_ 1 63), (R.CSQ_REQ_STAT, 7, at_ 1 63)] State.reset
     rbit s R.CSQ_REQ_CTL 7 63 = true ∧ rbit s R.CSQ_REQ_STAT 7 63 = true ∧ rbit State.reset R.CSQ_REQ_CTL 7 63 = false) := by
  decide +kernel

/-- O52: a snapshot that is due, with a counter of its set; a clear, a sample in time; sums at and past the width. -/
theorem test_wit_gauge :
    (let w : Word := at_ 1 47 ||| at_ 1 60
     let s := { put [(R.GAU_CTR_CFG, 543, w), (R.GAU_CTR_VAL, 543, at_ 1 48 - 1)] (at' 1) with
       gau := { State.reset.gau with snapDue := 2 ^ 15, done := true } }
     s.gau.snapDue = 2 ^ 15 ∧ 543 ∈ ctrNums s ∧ ctrCfg s 543 = w ∧ bit w (32 + 15) = true ∧ bit w 60 = true ∧
     s.gau.slotClr = none ∧ s.gau.due = [] ∧ 0 < s.tau.mono ∧ s.mgmtDown = false ∧ restOfTick s = [] ∧
     ({ s with gau := { s.gau with slotClr := some 0 } } : State).gau.slotClr = some 0 ∧ ctrValue s 543 w = 0 ∧
     ctrValue (occur 16 1 0 2 s) 543 (at_ 1 63 ||| 1) = 2 ∧
     rfld s R.GAU_CTR_VAL 543 47 0 + 1 = 2 ^ 48 ∧ rfld s R.GAU_CTR_VAL 543 47 0 + 0 < 2 ^ 48 ∧
     bit (ctrCfg s 543) 61 = false ∧ bit (ctrCfg (put [(R.GAU_CTR_CFG, 543, at_ 1 61)] s) 543) 61 = true) ∧
    (let d : SampleDue := ⟨543, 0, 0, 0, none⟩
     let s := { State.reset with gau := { State.reset.gau with due := [d], fifo := [⟨false, false, 1023, 5119, 0, 0, 0, 0⟩] } }
     s.gau.due = [d] ∧ d.at_ ≤ s.tau.mono ∧ s.gau.fifo.length < 1024 ∧ 5119 < 5120 ∧ 1023 < 1024) := by decide +kernel

/-- The mailbox with a CODE in its message, BUSY as given, and its owner. -/
def mbx (code own : Nat) (busy : Bool) (s : State) : State :=
  put [(R.HIF_MBX_CTL, 0, at_ busy.toNat 63 ||| at_ own 57), (R.HIF_MBX_DATA, 0, at_ code 48), (R.GLB_BOOT_STAT, 0, at_ 3 60)] s

/-- O53: the mailbox free, owned and busy, codes known and not, the ends of each time, a response, a nonce. -/
theorem test_wit_mailbox :
    (rfld State.reset R.HIF_MBX_CTL 0 58 57 = 0 ∧ rbit State.reset R.HIF_MBX_CTL 0 63 = false ∧
      comes State.reset pf0Claims = false ∧ comes { State.reset with pending := [.mbxClaim .pf0] } pf0Claims = true) ∧
    (∀ own ∈ [1, 2], let s := mbx 0x10 own false State.reset
      rfld s R.HIF_MBX_CTL 0 58 57 = own ∧ rbit s R.HIF_MBX_CTL 0 63 = false ∧ s.mgmtDown = false ∧
      mbxNeeds s (fld (mbxWord s 0) 63 48) = some 16) ∧
    mbxNeeds (mbx 0x03 1 false State.reset) 3 = none ∧
    (let s := mbx 0x02 1 true { at' 16000000000 with hrt := { State.reset.hrt with nonce := some ([], 0) } }
     timeUp s (s.hif.mbxSince + 16000000000) = true ∧ rbit s R.HIF_MBX_CTL 0 63 = true ∧
     timeUp s (s.hif.mbxGo + 1600000000) = true ∧ timeUp { s with tau := { s.tau with mono := 96000000000 } } (0 + 96000000000) = true ∧
     fld (mbxWord s 0) 63 48 = 2 ∧ s.hrt.resp = none ∧ s.hrt.nonce = some ([], 0)) ∧
    (let s := mbx 0x02 1 true { at' 1600000000 with hrt := { State.reset.hrt with resp := some [0, 0, 0, 0, 0, 0, 0, 0] } }
     s.hrt.resp = some [0, 0, 0, 0, 0, 0, 0, 0] ∧ s.tau.mono ≤ s.hif.mbxGo + 1600000000) := by decide +kernel

/-- O54: each command asked, in recovery and outside it; an update open with sectors to erase and bytes in hand; a slot
closed; a restart that is due. Whether an image verifies, and what a hitless activation needs of it, are free functions
of the image. -/
theorem test_wit_updates :
    (∀ code ∈ [1, 2, 16, 17, 18, 19, 20, 32, 33, 48, 49, 64, 65, 66, 67, 80, 96, 97, 112],
      let s := mbx code 1 true State.reset
      mbxBusy s = true ∧ fld (mbxWord s 0) 63 48 = code ∧ s.hrt.resp = none ∧ s.mgmtDown = false ∧ stage s = 3 ∧
      (mbxSigned s code = false) ∧ mbxSigned { s with hrt := { s.hrt with owner := [⟨[], false⟩] } } 0x31 = true ∧
      mbxAuthorised s = false ∧ stage (put [(R.GLB_BOOT_STAT, 0, at_ 4 60)] s) = 4) ∧
    (let s := put [(R.HIF_MBX_DATA, 1, at_ 512 32 ||| 1)] (mbx 16 1 true State.reset)
     fld (mbxWord s 1) 0 0 = 1 ∧ fld (mbxWord s 1) 63 32 = 512 ∧ s.hrt.running ≠ some 1 ∧ s.hrt.open_ = none) ∧
    (let u : Update := ⟨1, 131072, 1⟩
     let s := put [(R.HIF_MBX_DATA, 1, at_ 1008 32 ||| at_ (65536 - 1008) 0)]
       (mbx 17 1 true { State.reset with hrt := { State.reset.hrt with open_ := some u } })
     s.hrt.open_ = some u ∧ u.erased * 65536 < u.len ∧ fld (mbxWord s 1) 47 32 = 1008 ∧
     fld (mbxWord s 1) 31 0 + 1008 = u.erased * 65536 ∧ s.hrt.flash = [] ∧ bytesWritten s u < u.len ∧
     bytesWritten { s with hrt := { s.hrt with flash := [(2 ^ 25, 0)] } } ⟨1, 1, 1⟩ = 1) ∧
    imgCheck State.reset 4 [] = 1 ∧
    (let h : Hrt := { State.reset.hrt with closed := some 1, restart := some 1, dir0 := some ⟨0, 0, 0, 0, 1, 0⟩,
                                           running := some 0 }
     let s := mbx 32 1 true { State.reset with hrt := h }
     s.hrt.closed = some 1 ∧ slotState (dirNow s.hrt) 1 = 1 ∧ s.hrt.restart = some 1 ∧ s.hrt.running = some 0 ∧
     rfld s R.CSQ_ACT 0 63 61 ≤ 1 ∧ s.csq.staging = false ∧ ({ s with mgmtDown := true } : State).mgmtDown = true) := by decide +kernel

/-- O55: owners with none, one and two keys that stand, the ends of the lengths, and a device that answers SPDM. -/
theorem test_wit_owner :
    (let k (r : Bool) : OwnerKey := ⟨[], r⟩
     let s (ks : List OwnerKey) : State := mbx 0x41 1 true { State.reset with hrt := { State.reset.hrt with owner := ks } }
     ownerState (s []) = 0 ∧ ownerState (s [k false]) = 1 ∧ (s [k false]).hrt.locked = false ∧
     (s [k false, k true]).hrt.owner.countP (fun k => !k.revoked) = 1 ∧
     (s [k false, k false]).hrt.owner.countP (fun k => !k.revoked) = 2 ∧ 4 ≤ [k true, k true, k true, k true].length) ∧
    (let s := put [(R.HIF_MBX_DATA, 1, at_ 1008 32 ||| at_ (65536 - 1008) 0)] (mbx 0x31 1 true State.reset)
     fld (mbxWord s 1) 47 32 = 1008 ∧ fld (mbxWord s 1) 31 0 + 1008 = 65536 ∧ mbxSigned s 0x31 = false ∧ stage s = 3 ∧
     s.hrt.ownerSvn ≤ 63 ∧ s.hrt.cert1 = []) := by decide +kernel

/-- O56: a reset that is due with each supply good, one that is not, and links with and without their conditions. -/
theorem test_wit_resets :
    (State.reset.pins.resetDue = some 0 ∧ State.reset.pins.pg = 31 ∧ State.reset.pins.perst0 = false ∧ stage State.reset < 2) ∧
    (let s := put [(R.GLB_BOOT_STAT, 0, at_ 2 60), (R.HIF_LINK_STAT, 0, at_ 1 63)] State.reset
     rbit s R.HIF_LINK_STAT 0 63 = true ∧ 2 ≤ stage s) ∧
    (chooseSlot (withPins (fun p => { p with resetDue := none }) (resetBlocks 0 State.reset)) (fun _ => true)).slot = none ∧
    rbit State.reset R.HIF_LINK_STAT 0 63 = false := by decide +kernel

/-- O60: the state after reset, with a command in its queue, meets the invariant, and a step of it answers a next state
that meets it. -/
theorem test_wit_invariant :
    Inv { State.reset with pending := [.registerWrite (.bar0 0) 8 1] } ∧
    Inv { put [(R.GLB_SYS_MODE, 0, 1)] State.reset with pending := [.tapReset] } ∧
    step { State.reset with pending := [.tapReset] } = .next State.reset := by
  refine ⟨⟨by decide, by decide⟩, ⟨by decide, by decide⟩, rfl⟩

/-! ### The manual's worked examples -/

/-- Ch. 12: at 13.00 µs a rank with three refreshes owed changes to the doubled rate: six are owed, and the next
boundary is at 13.65 µs. -/
theorem test_refresh_doubling : rateChange 0 20800 ⟨3, false, 18720, 0⟩ = ⟨6, true, 18720, 0⟩ ∧ 18720 + 3120 = 21840 := by decide

/-- Ch. 14: the indexes of rings of 64 slots over their ends, the completions' word 0, and a full ring. -/
theorem test_ring_wrap :
    advance 6 0x3C 8 = 0x10004 ∧ advance 6 0x3E 1 = 0x3F ∧ advance 6 0x3F 1 = 0x10000 ∧ held 6 0x10004 0x3C = 8 ∧
    cqFull { Ring.init with cqTail := 0x10000 } = true ∧ cqFull { Ring.init with cqTail := 0x10000, cqHead := 0xA } = false ∧
    (let e : Ended := ⟨0, 0, 0x3F, 2, 0x0A03, false, 0x0102, 0, 0, 0, 0, 0, []⟩
     (entryBytes { Ring.init with cqTail := 0x3E } e).take 8 = leBytes 8 0x800201020A030000) ∧
    (let e : Ended := ⟨0, 0, 0x10003, 2, 0x0A07, false, 0x0102, 3, 0, 0, 0, 0, []⟩
     (entryBytes { Ring.init with cqTail := 0x10005 } e).take 8 = leBytes 8 0x000201020A070003) := by decide

/-- Ch. 3: the addresses of SEN_SVC_CTL[7][5] and of time-action entry 17, and what its action asks for. -/
theorem test_bfd_wake :
    adr R.SEN_SVC_CTL (640 * 7 + 5) = 0x418C28 ∧ adr R.TAU_TA_TIME 17 = 0x110220 ∧ adr R.TAU_TA_ACT 17 = 0x110228 ∧
    adr R.TAU_TA_PERIOD 17 = 0x110230 ∧
    secNsWord (1893456010 * 1000000000 * 2 ^ 48) = 0x1C36F62280000000 ∧
    (let a := fld (0x80700000017FA02F : Word) 51 0
     fld (0x80700000017FA02F : Word) 55 52 = 7 ∧ a % 8 = 7 ∧ a / 8 % 1024 = 5 ∧ a / 2 ^ 13 = 0x0BFD) := by decide

/-- Ch. 9: the elements the example writes, under their own field rules, and a staged node of the shapers. -/
theorem test_traffic_example :
    fld (0x0000000100002000 : Word) 35 32 = 1 ∧ fld (0x0000000100002000 : Word) 18 0 = 8192 ∧
    writeReg false R.TMG_Q_CFG (regReset R.TMG_Q_CFG 8193) 0x8100300000000800 = 0x8100300000000800 ∧
    writeReg false R.TMG_Q_SHAPE (regReset R.TMG_Q_SHAPE 8192) 0x030D400186A0A500 = 0x030D400186A0A500 ∧
    (let w : Word := 0x81C0000000000800; fld w 62 55 = 3 ∧ fld w 54 52 = 4 ∧ fld w 18 0 = 2048) := by decide

/-- CRC-32C of the bytes of "123456789", the check value of its definition (R122). -/
theorem test_crc32c : crc32c 0xFFFFFFFF [0x31, 0x32, 0x33, 0x34, 0x35, 0x36, 0x37, 0x38, 0x39] = 0xE3069283 := by decide +kernel

/-- The update of RFC 1624 that its text works through: HC 0xDD2F, m 0x5555, m' 0x3285 give 0x0000 (R129). -/
theorem test_csumu : csumUpdate 0xDD2F 0x5555 0x3285 = 0 := by decide +kernel

/-- An instruction word decodes into its fields (R110). -/
theorem test_fields : asR 0x10F8420000000000 = ⟨31, 1, 1⟩ ∧ opcodeOf 0x10F8420000000000 = 0x10 := by decide

/-- ADDI on a thread: g1 takes 5 and the program counter moves on; nothing is written to g0. -/
theorem test_addi :
    (let t := thr (ran (.addi th0 ⟨1, 0, 0, 5⟩) (prog (word 0x20 1 0 5) Thread.empty)) 0; (greg t 1, t.pc) = (5, 1)) ∧
    (thr (ran (.addi th0 ⟨0, 0, 0, 5⟩) (prog (word 0x20 0 0 5) Thread.empty)) 0).g = [] := by decide +kernel

/-- A read of an rc counter answers its value and clears it (R4). -/
theorem test_counter_read :
    let t := ran (.counterReadClear (.bar0 (adr R.SEN_EXC_COUNT 3)) 8)
      (put [(R.GLB_BOOT_STAT, 0, at_ 3 60), (R.SEN_EXC_COUNT, 3, 9)] State.reset)
    (t.lastRead, rget t R.SEN_EXC_COUNT 3) = (9, 0) := by decide +kernel

/-- A release of a billet whose count is 1 makes it free and the next to be handed out (R334). -/
theorem test_release :
    let t := ran (.releaseRequest 0 ⟨15, 0⟩ .clean) (pool false 0x8001)
    (tagRaw t 15 0, (poolSt t 15).freed, (poolSt t 15).used) = (0, [0], 0) := by decide +kernel

end Sys2Proof.Tests
end

section
/-! SUPPORT. A step of the block: the two shapes of `step`, that every command keeps the queue and the rising order of
the register file, and with them the invariant of a run. -/

namespace Sys2Proof.Proofs
open Sys2Proof Sys2Proof.Machine Sys2Proof.Laws

theorem step_of_idle {s : State} (h : s.pending = []) : step s = .next s := by simp only [step, h]

theorem step_of_front {s : State} {c : Instr} {rest : List Instr} (h : s.pending = c :: rest) :
    step s = exec c { s with pending := rest } := by simp only [step, h]

/-- Each command's meaning keeps the queue and the rising order, by its own lemma of `Laws/Kept*.lean`. -/
theorem exec_kept (c : Instr) (s : State) : KeptOut s (exec c s) := by
  cases c <;> simp [exec]

/-- Settles O60: an idle step changes nothing; another takes the front command off the queue, and what that command does
keeps the rest of the queue and the rising order of the register file. -/
theorem stepsKeepTheInvariant : Obligations.StepsKeepTheInvariant := by
  rintro s t ⟨hrising, hformed⟩ h
  cases hq : s.pending with
  | nil =>
    cases (step_of_idle hq).symm.trans h
    exact ⟨hrising, hformed⟩
  | cons c rest =>
    obtain ⟨hpend, hrise⟩ := exec_kept c _ t ((step_of_front hq).symm.trans h)
    rw [hq, List.all_cons, Bool.and_eq_true] at hformed
    exact ⟨hrise hrising, hpend ▸ hformed.2⟩

end Sys2Proof.Proofs
end

section
/-! SUPPORT. A host write and a clearing read of a register act field by field: where fields do not overlap, the bits of
each are decided by its own access code alone, and the bits of no field stay (R4 to R8). -/

namespace Sys2Proof.Proofs
open Sys2Proof Sys2Proof.Machine Sys2Proof.Laws

/-- Two fields of one register share no bit. -/
abbrev Apart (f g : RField) : Prop := f.hi < g.lo ∨ g.hi < f.lo

/-- Bit `b` belongs to field `f`. -/
abbrev InField (f : RField) (b : Nat) : Prop := f.lo ≤ b ∧ b ≤ f.hi

/-- What one field of an access stores, said bit by bit: the bits outside the field stay, and a bit of the field comes
from that bit of the old word alone. -/
def FieldWise (g : Word → RField → Word) (f : RField) : Prop :=
  (∀ w b, ¬ InField f b → bit (g w f) b = bit w b) ∧
  ∀ w w' b, bit w b = bit w' b → bit (g w f) b = bit (g w' f) b

/-! ### Bits of a word -/

theorem bit_eq_getLsbD (w : Word) (b : Nat) : bit w b = w.getLsbD b := rfl

theorem bit_setFld (w : Word) {hi lo : Nat} (v b : Nat) (h : hi < 64) (hl : lo ≤ hi) :
    bit (setFld w hi lo v) b = if lo ≤ b ∧ b ≤ hi then v.testBit (b - lo) else bit w b :=
  setFld_getLsbD w hi lo v b h hl

theorem bit_fmask_inside {hi lo b : Nat} (h : hi < 64) (h1 : lo ≤ b) (h2 : b ≤ hi) : bit (fmask hi lo) b = true := by
  simp [bit_eq_getLsbD, fmask_testBit hi lo b h (h1.trans h2), h1, h2]

theorem bit_fmask_outside {hi lo b : Nat} (h : hi < 64) (hl : lo ≤ hi) (hb : ¬ (lo ≤ b ∧ b ≤ hi)) :
    bit (fmask hi lo) b = false := by
  rw [bit_eq_getLsbD, fmask_testBit hi lo b h hl, ← Bool.decide_and, decide_eq_false hb]

theorem bit_clear_masked (w v m : Word) (b : Nat) :
    bit (w &&& ~~~ (v &&& m)) b = (bit w b && !(bit v b && bit m b)) := by
  by_cases hb : b < 64
  · simp [bit_eq_getLsbD, hb]
  · simp [bit_eq_getLsbD, BitVec.getLsbD_of_ge _ _ (Nat.le_of_not_lt hb)]

theorem bit_set_masked (w v m : Word) (b : Nat) :
    bit (w ||| (v &&& m)) b = (bit w b || (bit v b && bit m b)) := by
  simp [bit_eq_getLsbD]

/-- Words that agree on a field's bits agree on the field. -/
theorem fld_congr {w w' : Word} {hi lo : Nat} (h : ∀ b, lo ≤ b → b ≤ hi → bit w b = bit w' b) :
    fld w hi lo = fld w' hi lo := by
  apply Nat.eq_of_testBit_eq
  intro i
  rw [fld_testBit, fld_testBit]
  by_cases hi' : i < hi + 1 - lo
  · simpa [hi', bit_eq_getLsbD] using h (lo + i) (by omega) (by omega)
  · simp [hi']

/-! ### Folding an access over the fields of a register -/

theorem bit_foldl_outside {g : Word → RField → Word} {l : List RField} (hg : ∀ f ∈ l, FieldWise g f) {b : Nat}
    (hb : ∀ f ∈ l, ¬ InField f b) (w : Word) : bit (l.foldl g w) b = bit w b := by
  induction l generalizing w with
  | nil => rfl
  | cons f t ih =>
    rw [List.foldl_cons, ih (fun x hx => hg x (.tail _ hx)) (fun x hx => hb x (.tail _ hx))]
    exact (hg f (.head _)).1 w b (hb f (.head _))

/-- Of fields that do not overlap, a field's own step alone decides its bits. -/
theorem bit_foldl_inside {g : Word → RField → Word} {l : List RField} (hg : ∀ f ∈ l, FieldWise g f)
    (hd : l.Pairwise Apart) {f : RField} (hf : f ∈ l) {b : Nat} (hb : InField f b) (w : Word) :
    bit (l.foldl g w) b = bit (g w f) b := by
  induction l generalizing w with
  | nil => cases hf
  | cons x t ih =>
    obtain ⟨hx, hd⟩ := List.pairwise_cons.1 hd
    have ht : ∀ y ∈ t, FieldWise g y := fun y hy => hg y (.tail _ hy)
    rw [List.foldl_cons]
    rcases List.mem_cons.1 hf with rfl | hf
    · refine bit_foldl_outside ht (fun y hy hyb => ?_) _
      have := hx y hy
      omega
    · rw [ih ht hd hf]
      refine (ht f hf).2 _ _ b ((hg x (.head _)).1 w b fun hxb => ?_)
      have := hx f hf
      omega

theorem fld_foldl {g : Word → RField → Word} {l : List RField} (hg : ∀ f ∈ l, FieldWise g f)
    (hd : l.Pairwise Apart) {f : RField} (hf : f ∈ l) (w : Word) :
    fld (l.foldl g w) f.hi f.lo = fld (g w f) f.hi f.lo :=
  fld_congr fun _ h1 h2 => bit_foldl_inside hg hd hf ⟨h1, h2⟩ w

/-! ### A write and a clearing read, field by field (R4 to R8) -/

theorem fieldWise_setFld {f : RField} (v : Nat) (hl : f.lo ≤ f.hi) (h : f.hi < 64) :
    FieldWise (fun w f => setFld w f.hi f.lo v) f := by
  refine ⟨fun w b hb => ?_, fun w w' b hw => ?_⟩
  · rw [bit_setFld _ _ _ h hl, if_neg hb]
  · rw [bit_setFld _ _ _ h hl, bit_setFld _ _ _ h hl, hw]

theorem fieldWise_writeField (lock : Bool) (v : Word) {f : RField} (hl : f.lo ≤ f.hi) (h : f.hi < 64) :
    FieldWise (writeField lock v) f := by
  have hput := fieldWise_setFld (clampField f.clamp (fld v f.hi f.lo)) hl h
  have hkeep : FieldWise (fun w _ => w) f := ⟨fun _ _ _ => rfl, fun _ _ _ e => e⟩
  unfold FieldWise writeField
  cases f.acc with
  | rw => exact hput
  | rwl => cases lock; exacts [hkeep, hput]
  | ro | wo | rc | row => exact hkeep
  | w1c =>
    refine ⟨fun w b hb => ?_, fun w w' b hw => ?_⟩
    · simp [bit_clear_masked, bit_fmask_outside h hl hb]
    · simp [bit_clear_masked, hw]
  | w1s =>
    refine ⟨fun w b hb => ?_, fun w w' b hw => ?_⟩
    · simp [bit_set_masked, bit_fmask_outside h hl hb]
    · simp [bit_set_masked, hw]

/-- What a read that clears leaves of one field (R4). -/
def clearField (w : Word) (f : RField) : Word := if f.acc = .rc then setFld w f.hi f.lo 0 else w

theorem clearRc_eq_foldl (r : Reg) (old : Word) : clearRc r old = r.fields.foldl clearField old := rfl

theorem fieldWise_clearField {f : RField} (hl : f.lo ≤ f.hi) (h : f.hi < 64) : FieldWise clearField f := by
  by_cases hrc : f.acc = .rc
  · simpa [FieldWise, clearField, hrc] using fieldWise_setFld 0 hl h
  · simp [FieldWise, clearField, hrc]

section
variable {r : Reg} (hd : r.fields.Pairwise Apart) (hw : ∀ f ∈ r.fields, f.lo ≤ f.hi ∧ f.hi < 64)
include hw

theorem fieldWise_write_of_mem (lock : Bool) (v : Word) : ∀ f ∈ r.fields, FieldWise (writeField lock v) f :=
  fun f hf => fieldWise_writeField lock v (hw f hf).1 (hw f hf).2

theorem fieldWise_clear_of_mem : ∀ f ∈ r.fields, FieldWise clearField f :=
  fun f hf => fieldWise_clearField (hw f hf).1 (hw f hf).2

/-- A bit of no field is left by a write and by a clearing read. -/
theorem bit_writeReg_unassigned (lock : Bool) (old v : Word) {b : Nat} (hb : ∀ f ∈ r.fields, ¬ InField f b) :
    bit (writeReg lock r old v) b = bit old b := bit_foldl_outside (fieldWise_write_of_mem hw lock v) hb old

theorem bit_clearRc_unassigned (old : Word) {b : Nat} (hb : ∀ f ∈ r.fields, ¬ InField f b) :
    bit (clearRc r old) b = bit old b := by
  rw [clearRc_eq_foldl, bit_foldl_outside (fieldWise_clear_of_mem hw) hb]

include hd
variable {f : RField} (hf : f ∈ r.fields)
include hf

/-- A register's write stores in a field what the field's own access code makes of it. -/
theorem fld_writeReg (lock : Bool) (old v : Word) :
    fld (writeReg lock r old v) f.hi f.lo = fld (writeField lock v old f) f.hi f.lo :=
  fld_foldl (fieldWise_write_of_mem hw lock v) hd hf old

theorem bit_writeReg (lock : Bool) (old v : Word) {b : Nat} (hb : InField f b) :
    bit (writeReg lock r old v) b = bit (writeField lock v old f) b :=
  bit_foldl_inside (fieldWise_write_of_mem hw lock v) hd hf hb old

/-- R4: a read that clears zeroes an rc field and leaves any other. -/
theorem fld_clearRc (old : Word) :
    fld (clearRc r old) f.hi f.lo = if f.acc = .rc then 0 else fld old f.hi f.lo := by
  obtain ⟨hl, h⟩ := hw f hf
  rw [clearRc_eq_foldl, fld_foldl (fieldWise_clear_of_mem hw) hd hf, clearField]
  split
  · rw [fld_setFld_self _ _ _ _ h hl, Nat.zero_mod]
  · rfl

end

/-- Settles O14: a write and a clearing read act field by field, and the fields do not overlap. -/
theorem accessCodesStore : Obligations.AccessCodesStore := by
  intro r lock old v hd hw
  dsimp only
  refine ⟨fun f hf => ⟨?rw, ?locked, ?w1c, ?w1s, ?kept, fld_clearRc hd hw hf old⟩, fun b _ hb => ?outside⟩
  case rw =>
    have hput : ∀ w n, fld (setFld w f.hi f.lo n) f.hi f.lo = n % 2 ^ (f.hi + 1 - f.lo) :=
      fun w n => fld_setFld_self w _ _ n (hw f hf).2 (hw f hf).1
    rw [fld_writeReg hd hw hf]
    rintro (ha | ⟨ha, rfl⟩) <;> simp [writeField, ha, hput]
  case locked =>
    rintro ha rfl
    rw [fld_writeReg hd hw hf]
    simp [writeField, ha]
  case w1c =>
    intro b h1 h2 ha
    rw [bit_writeReg hd hw hf lock old v ⟨h1, h2⟩]
    simp [writeField, ha, bit_clear_masked, bit_fmask_inside (hw f hf).2 h1 h2]
  case w1s =>
    intro b h1 h2 ha
    rw [bit_writeReg hd hw hf lock old v ⟨h1, h2⟩]
    simp [writeField, ha, bit_set_masked, bit_fmask_inside (hw f hf).2 h1 h2]
  case kept =>
    rw [fld_writeReg hd hw hf]
    rintro (ha | ha | ha | ha) <;> simp [writeField, ha]
  case outside =>
    have hout : ∀ f ∈ r.fields, ¬ InField f b := fun f hf hin => by have := hb f hf; omega
    exact ⟨bit_writeReg_unassigned hw lock old v hout, bit_clearRc_unassigned hw old hout⟩

end Sys2Proof.Proofs
end

section
/-! SUPPORT. The rows of a register of the F-die go on before the bridge has trained (R30): the registers of the MCD lie
on that die (R26), so a window command of the DDR5 controller acts and leaves no record. -/

namespace Sys2Proof.Proofs
open Sys2Proof Sys2Proof.Machine Sys2Proof.Laws

theorem qDieRecord_of_fdie {off : Nat} (h : qBlock off = none) (s : State) : qDieRecord off s = s := by
  simp only [qDieRecord, h]

theorem servedWrite_of_fdie {off : Nat} (h : qBlock off = none) (o : Out) (s : State) : servedWrite off o s = o := by
  simp [servedWrite, h]

/-- The command register of the DDR5 window is no register of the Q-die (R26). -/
theorem qBlock_mcd_window : qBlock (adr (rWINC .mcd) 0) = none := by decide

/-- R30, R390: a window write on the DDR5 goes on whether or not the bridge has trained. -/
theorem exec_windowWrite_mcd (v : Word) (s : State) :
    exec (.windowWrite .mcd v) s = .next (winStart .mcd true v s) := servedWrite_of_fdie qBlock_mcd_window _ s

/-- R390: a window command without GO stores its direction and starts nothing. -/
theorem winStart_without_go {m : MemCtl} {s : State} {v : Word} (write : Bool) (hidle : rbit s (rWINC m) 0 63 = false)
    (hgo : bit v 0 = false) : winStart m write v s = rsetF s (rWINC m) 0 1 1 write.toNat := by
  simp [winStart, hidle, hgo]

/-- Refutes O15: the statement ranges over both memory controllers, and the MCD is on the F-die. From the state after
reset, in which the bridge has not trained, WINDOW_WRITE of the DDR5 without GO stores WRITE in MCD_WIN_CMD, where the
statement asks for the record of a discarded access, which for an offset of the F-die is the state itself. -/
theorem not_hostAccessesAreServed : ¬ Obligations.HostAccessesAreServed := by
  intro h
  obtain ⟨-, -, hwrite, -⟩ := h.2 State.reset 0 0 0 .mcd rfl
  rw [exec_windowWrite_mcd, qDieRecord_of_fdie qBlock_mcd_window,
    winStart_without_go true (by decide) (by decide)] at hwrite
  injection hwrite with hsame
  have hstored := rfld_rsetF_self State.reset (rWINC .mcd) 0 1 1 true.toNat (by decide) (by decide)
  rw [hsame] at hstored
  exact absurd hstored (by decide)

end Sys2Proof.Proofs
end

section
/-! SUPPORT. A register access beside the register or the field that it writes: what a write leaves of the others, and
a saturating counter field as it is raised. -/

namespace Sys2Proof.Proofs
open Sys2Proof Sys2Proof.Machine Sys2Proof.Laws

theorem regsBut_refl (as : List Nat) (s : State) : RegsBut as s s := fun _ _ => rfl

theorem regsBut_rset {as : List Nat} {s t : State} {r : Reg} {i : Nat} (h : RegsBut as s t) (hr : regAddr r i ∈ as)
    (v : Word) : RegsBut as s (rset t r i v) := by
  intro a ha
  have hne : a ≠ regAddr r i := fun e => ha (e ▸ hr)
  rw [← h a ha]
  simp only [rset]
  split <;> simp [mfind_mdel, mfind_mput, hne]

theorem regsBut_rcount {as : List Nat} {s t : State} {r : Reg} {i : Nat} (h : RegsBut as s t) (hr : regAddr r i ∈ as)
    (hi lo n : Nat) : RegsBut as s (rcount t r i hi lo n) := regsBut_rset h hr _

theorem rget_rcount_ne {r' r : Reg} {j i : Nat} (h : regAddr r' j ≠ regAddr r i) (s : State) (hi lo n : Nat) :
    rget (rcount s r i hi lo n) r' j = rget s r' j := rget_rset_ne h s _

/-- A counter that is raised holds at the greatest value of its field. -/
theorem rfld_rcount_self (s : State) (r : Reg) (i : Nat) {hi lo : Nat} (n : Nat) (h : hi < 64) (hl : lo ≤ hi) :
    rfld (rcount s r i hi lo n) r i hi lo = min (rfld s r i hi lo + n) (2 ^ (hi + 1 - lo) - 1) := by
  have hpos : 0 < 2 ^ (hi + 1 - lo) := Nat.two_pow_pos _
  rw [rcount, rfld_rsetF_self _ _ _ _ _ _ h hl, satAdd, Nat.mod_eq_of_lt (by omega)]

theorem rget_of_regs {s t : State} (h : t.regs = s.regs) (r : Reg) (i : Nat) : rget t r i = rget s r i := by
  simp only [rget, h]

theorem rfld_of_regs {s t : State} (h : t.regs = s.regs) (r : Reg) (i hi lo : Nat) :
    rfld t r i hi lo = rfld s r i hi lo := by
  rw [rfld, rget_of_regs h, rfld]

theorem rfld_rsetF_apart (s : State) (r : Reg) (i : Nat) {hi lo hi' lo' : Nat} (v : Nat) (h : hi < 64) (hl : lo ≤ hi)
    (hd : hi' < lo ∨ hi < lo') : rfld (rsetF s r i hi lo v) r i hi' lo' = rfld s r i hi' lo' := by
  rw [rfld, rget_rsetF_self, fld_setFld_ne _ _ h hl hd, rfld]

end Sys2Proof.Proofs
end

section
/-! SUPPORT. A packet at the dispatchers and as it leaves (R23, R80 to R83): it joins its queue or is dropped for want of
a course, it starts on a free thread at its bank's entry, and it departs in its port's order. -/

namespace Sys2Proof.Proofs
open Sys2Proof Sys2Proof.Machine Sys2Proof.Laws

/-! ### The queues of the dispatchers -/

theorem anyRunning_setToDisp (sd : Side) (l : List Packet) (s : State) (m : Nat) :
    anyRunning (setToDisp sd l s) m = anyRunning s m := by cases sd <;> rfl

theorem dispQ_setToDisp (sd : Side) (l : List Packet) (s : State) : dispQ (setToDisp sd l s) sd = dispQ s sd := by
  cases sd <;> rfl

/-- A packet dropped for want of a course raises the one counter, held at 48 bits (R23). -/
theorem rfld_noCourseDrop (sd : Side) (s : State) : rfld (noCourseDrop sd s) R.SEN_NOCOURSE_DROP 0 47 0 =
    min (rfld s R.SEN_NOCOURSE_DROP 0 47 0 + 1) (2 ^ 48 - 1) := by
  have hcount := rfld_rcount_self s R.SEN_NOCOURSE_DROP 0 1 (hi := 47) (lo := 0) (by decide) (by decide)
  cases sd with
  | ing => exact hcount
  | egr => exact (rfld_rsetF_apart _ _ _ _ (by decide) (by decide) (by decide)).trans hcount

theorem regsBut_noCourseDrop (sd : Side) (s : State) :
    RegsBut [adr R.SEN_NOCOURSE_DROP 0] s (noCourseDrop sd s) := by
  have hcount := regsBut_rcount (regsBut_refl [adr R.SEN_NOCOURSE_DROP 0] s) (List.mem_singleton_self _) 47 0 1
  cases sd with
  | ing => exact hcount
  | egr => exact regsBut_rset hcount (List.mem_singleton_self _) _

/-- R23: a packet off the line to its dispatcher and dropped for want of a course changes the one counter alone. -/
theorem noCourseDrop_says (s : State) (sd : Side) (pid : Nat) (rest : List Packet) :
    let t := giveUpPlace pid (noCourseDrop sd (setToDisp sd rest s))
    toDisp t sd = rest ∧ dispQ t sd = dispQ s sd ∧
    rfld t R.SEN_NOCOURSE_DROP 0 47 0 = min (rfld s R.SEN_NOCOURSE_DROP 0 47 0 + 1) (2 ^ 48 - 1) ∧
    RegsBut [adr R.SEN_NOCOURSE_DROP 0] s t ∧ t = { s with regs := t.regs, sen := t.sen } := by
  intro t
  have hregs : t.regs = (noCourseDrop sd s).regs := by cases sd <;> rfl
  refine ⟨?_, ?_, ?_, fun a ha => ?_, ?_⟩
  · cases sd <;> rfl
  · cases sd <;> rfl
  · rw [rfld_of_regs hregs, rfld_noCourseDrop]
  · rw [hregs, regsBut_noCourseDrop sd s a ha]
  · cases sd <;> rfl

/-- R80: a packet joins the queue of its side where a course runs and the queue has room. -/
theorem dispatchEnqueue_joins {s : State} {sd : Side} {p : Packet} {rest : List Packet} (hto : toDisp s sd = p :: rest)
    (hrun : anyRunning s (sideMode sd) = true) (hroom : (dispQ s sd).length < 8192) :
    exec (.dispatchEnqueue sd) s = .next (setDispQ sd (dispQ s sd ++ [p]) (setToDisp sd rest s)) := by
  change execDispatchEnqueue sd s = _
  simp [execDispatchEnqueue, hto, anyRunning_setToDisp, hrun, dispQ_setToDisp, hroom]

/-- R23: where no course runs in its side's mode, a packet is dropped and gives up its place. -/
theorem dispatchEnqueue_drops {s : State} {sd : Side} {p : Packet} {rest : List Packet} (hto : toDisp s sd = p :: rest)
    (hrun : anyRunning s (sideMode sd) = false) :
    exec (.dispatchEnqueue sd) s = .next (giveUpPlace p.pid (noCourseDrop sd (setToDisp sd rest s))) := by
  change execDispatchEnqueue sd s = _
  simp [execDispatchEnqueue, hto, anyRunning_setToDisp, hrun]

/-! ### A packet starts on a thread -/

/-- R63, R80 to R82: the oldest packet starts on the chosen thread, unless it is stale, finds no course or no free
thread, or fails the check of its metadata version. -/
theorem threadStart_starts {s : State} {sd : Side} {p : Packet} {rest : List Packet} {c e : Nat}
    {b : Bool} (hc : (chooseCourse s (sideMode sd)).1 = c) (he : chooseEngine s c = e)
    (hb : packetBank s c (mdF p 0 27 26) = b) (hq : dispQ s sd = p :: rest) (hfresh : staleTag s (mdF p 0 27 26) = false)
    (hrun : anyRunning s (sideMode sd) = true) (hfree : freeInCourse s c ≠ 0)
    (hver : sd = .egr → mdF p 0 31 28 = (bank s c b).ver ∨ mdF p 0 31 28 = ((bank s c b).ver + 15) % 16) :
    exec (.threadStart sd) s = .next (startOn (setDispQ sd rest s) sd p c e b) := by
  change execThreadStart sd s = _
  have hpass : ¬ (sd = .egr ∧ mdF p 0 31 28 ≠ (bank s c b).ver ∧ mdF p 0 31 28 ≠ ((bank s c b).ver + 15) % 16) :=
    fun ⟨he, hnow, hlast⟩ => (hver he).elim hnow hlast
  simp [execThreadStart, hq, hfresh, hrun, hc, he, hb, hfree, hpass]

/-- The thread a packet starts on. -/
abbrev startKey (s : State) (c e : Nat) : Nat := 640 * c + 8 * e + (freeSlots s c e).headD 0

theorem thr_setDispQ (sd : Side) (l : List Packet) (s : State) : thr (setDispQ sd l s) = thr s := by
  cases sd <;> rfl

theorem bank_setDispQ (sd : Side) (l : List Packet) (s : State) : bank (setDispQ sd l s) = bank s := by
  cases sd <;> rfl

theorem freeSlots_setDispQ (sd : Side) (l : List Packet) (s : State) : freeSlots (setDispQ sd l s) = freeSlots s := by
  cases sd <;> rfl

theorem thr_startOn_self (s : State) (sd : Side) (p : Packet) (c e : Nat) (b : Bool) :
    ∃ q, thr (startOn s sd p c e b) (startKey s c e) =
      { Thread.empty with st := .ready, side := sd, pc := mget 0 (bank s c b).entries (entryIndex sd p), pkt := q,
                          bank := b, prevPc := (thr s (startKey s c e)).lastPc } := ⟨_, thr_setThr_self _ _ _⟩

theorem thr_startOn_ne (s : State) (sd : Side) (p : Packet) (c e : Nat) (b : Bool) {j : Nat} (hj : j ≠ startKey s c e) :
    thr (startOn s sd p c e b) j = thr s j := by
  cases sd <;> exact thr_setThr_ne _ _ hj

theorem startOn_eq (s : State) (sd : Side) (p : Packet) (c e : Nat) (b : Bool) :
    startOn s sd p c e b = { s with sen := (startOn s sd p c e b).sen, gau := (startOn s sd p c e b).gau } := by
  cases sd <;> rfl

theorem dispQ_startOn (s : State) (sd : Side) (p : Packet) (c e : Nat) (b : Bool) :
    dispQ (startOn s sd p c e b) sd = dispQ s sd := by
  cases sd <;> rfl

theorem dispQ_setDispQ (sd : Side) (l : List Packet) (s : State) : dispQ (setDispQ sd l s) sd = l := by
  cases sd <;> rfl

/-- R84, R85: a packet off its queue is on a thread that is ready at the entry of its bank's table, with cleared
registers and an empty call stack; every other thread stays as it is. -/
theorem startOn_says (s : State) (sd : Side) (rest : List Packet) (p : Packet) (c e : Nat) (b : Bool) :
    let t := startOn (setDispQ sd rest s) sd p c e b
    let k := startKey s c e
    dispQ t sd = rest ∧ (thr t k).st = .ready ∧ (thr t k).bank = b ∧ (thr t k).count = 0 ∧
    (thr t k).pc = mget 0 (bank s c b).entries (entryIndex sd p) ∧ (thr t k).g = [] ∧ (thr t k).stack = [] ∧
    (∀ j, j ≠ k → thr t j = thr s j) ∧ t = { s with sen := t.sen, gau := t.gau } := by
  obtain ⟨q, hself⟩ := thr_startOn_self (setDispQ sd rest s) sd p c e b
  have hother := fun j => thr_startOn_ne (j := j) (setDispQ sd rest s) sd p c e b
  simp only [startKey, freeSlots_setDispQ, bank_setDispQ, thr_setDispQ] at hself hother
  dsimp only
  rw [hself]
  refine ⟨?_, rfl, rfl, rfl, rfl, rfl, rfl, hother, ?_⟩
  · rw [dispQ_startOn, dispQ_setDispQ]
  · cases sd <;> exact startOn_eq (setDispQ _ rest s) _ p c e b

/-! ### A packet departs -/

/-- R83: an ingress packet that is first in its port's order crosses to the TMG, gives up its place and frees its
thread. -/
theorem packetDepart_crosses {s : State} {th : ThreadRef} {t : Thread} (ht : thr s (thrKey th) = t)
    (hst : t.st = .departing) (hheld : t.handed = false) (hhost : t.hostTo = none) (hdisp : mdF t.pkt 0 15 14 = 0)
    (hside : t.side = .ing) (hfirst : firstInOrder s .ing t.pkt.pid = true) :
    exec (.packetDepart th) s = .next (freeThr (giveUpPlace t.pkt.pid (handOn .ing t.pkt s)) (thrKey th)) := by
  change execPacketDepart th s = _
  simp [execPacketDepart, ht, hst, hheld, hhost, hdisp, hside, hfirst]

/-- A packet thread that ends is free, unless its engine has been retired (R79, R108). -/
theorem thr_freeThr_st {s : State} {k : Nat} (h : (thr s k).st ≠ .unavailable) : (thr (freeThr s k) k).st = .free := by
  simp [freeThr, h]

theorem thr_freeThr_ne (s : State) {k j : Nat} (h : j ≠ k) : thr (freeThr s k) j = thr s j := thr_setThr_ne _ _ h

theorem freeThr_eq (s : State) (k : Nat) : freeThr s k = { s with sen := (freeThr s k).sen } := rfl

/-- What the departure of an ingress packet changes. -/
theorem crossed_says (s : State) (k : Nat) (p : Packet) (h : (thr s k).st ≠ .unavailable) :
    let x := freeThr (giveUpPlace p.pid (handOn .ing p s)) k
    x.sen.toTmg = s.sen.toTmg ++ [p] ∧ (thr x k).st = .free ∧
    x.sen.order = s.sen.order.filter (fun e => decide (e.pid ≠ p.pid)) ∧ (∀ j, j ≠ k → thr x j = thr s j) ∧
    x.sen.gone = (reqsLeave k s).sen.gone ∧ x = { s with sen := x.sen } :=
  ⟨rfl, thr_freeThr_st (s := giveUpPlace p.pid (handOn .ing p s)) h, rfl, fun _ hj => thr_freeThr_ne _ hj, rfl,
    freeThr_eq (giveUpPlace p.pid (handOn .ing p s)) k⟩

/-- Settles O11: each command takes the branch its conditions name, and what that branch does is said above. -/
theorem packetsAreDispatchedAndDepart : Obligations.PacketsAreDispatchedAndDepart := by
  intro s sd p rest
  refine ⟨dispatchEnqueue_joins, fun hto hrun => ?drops, ?starts, ?departs⟩
  case drops => exact ⟨_, dispatchEnqueue_drops hto hrun, noCourseDrop_says s sd p.pid rest⟩
  case starts =>
    intro c e k b ver ⟨hq, hfresh, hrun, hfree, hver⟩
    have hc : (chooseCourse s (sideMode sd)).1 = c := rfl
    have he : chooseEngine s c = e := rfl
    have hb : packetBank s c (mdF p 0 27 26) = b := rfl
    clear_value b e c
    exact ⟨_, threadStart_starts hc he hb hq hfresh hrun hfree hver, startOn_says s sd rest p c e b⟩
  case departs =>
    intro th t hst hheld hhost hdisp hside hfirst
    have hbusy : (thr s (thrKey th)).st ≠ .unavailable := fun hun => by cases hst.symm.trans hun
    exact ⟨_, packetDepart_crosses rfl hst hheld hhost hdisp hside hfirst, crossed_says s _ _ hbusy⟩

end Sys2Proof.Proofs
end

section
/-! SUPPORT. The completion of a frame whose head has gone on (R14, R156, R165, R311) keeps the line interface and every
register below the SEN's: the threads, the TMG and the host interface are what it reaches. -/

namespace Sys2Proof.Proofs
open Sys2Proof Sys2Proof.Machine Sys2Proof.Laws

/-- The base of the SEN's registers; those of the LIU lie below it, those of the TMG and the HIF above it. -/
def senBase : Nat := 0x400000

/-- What lies on the line's side of the SEN stays: the state of the line interface, and the registers below the SEN's. -/
def LineKept (s t : State) : Prop := t.liu = s.liu ∧ ∀ a, a < senBase → mfind t.regs a = mfind s.regs a

theorem lineKept_of_eq {s t : State} (hl : t.liu = s.liu) (hr : t.regs = s.regs) : LineKept s t :=
  ⟨hl, fun _ _ => by rw [hr]⟩

theorem LineKept.trans {s t u : State} (h : LineKept s t) (h' : LineKept t u) : LineKept s u :=
  ⟨h'.1.trans h.1, fun a ha => (h'.2 a ha).trans (h.2 a ha)⟩

theorem lineKept_rset {r : Reg} (hr : senBase ≤ r.base) (s : State) (i : Nat) (v : Word) :
    LineKept s (rset s r i v) := by
  refine ⟨rfl, fun a ha => ?_⟩
  have hne : a ≠ regAddr r i := by unfold regAddr; omega
  simp only [rset]
  split <;> simp [mfind_mdel, mfind_mput, hne]

theorem lineKept_rcount {r : Reg} (hr : senBase ≤ r.base) (s : State) (i hi lo n : Nat) :
    LineKept s (rcount s r i hi lo n) := lineKept_rset hr s i _

theorem lineKept_foldl {α : Type} {f : State → α → State} (hf : ∀ x a, LineKept x (f x a)) (l : List α) (s : State) :
    LineKept s (l.foldl f s) := by
  induction l generalizing s with
  | nil => exact lineKept_of_eq rfl rfl
  | cons a l ih => exact (hf s a).trans (ih _)

/-! ### The threads -/

theorem lineKept_hostDeliver (sl : Nat) (p : Packet) (s : State) : LineKept s (hostDeliver sl p s) := by
  unfold hostDeliver
  dsimp only
  split
  · split <;> exact lineKept_of_eq (setRing_liu ..) (setRing_regs ..)
  · exact (lineKept_rcount (by decide) s _ _ _ _).trans (lineKept_rset (by decide) _ _ _)

theorem lineKept_setThr (s : State) (k : Nat) (t : Thread) : LineKept s (setThr s k t) := lineKept_of_eq rfl rfl

theorem lineKept_reqsLeave (k : Nat) (s : State) : LineKept s (reqsLeave k s) := lineKept_of_eq rfl rfl

theorem lineKept_freeThr (s : State) (k : Nat) : LineKept s (freeThr s k) :=
  lineKept_of_eq (freeThr_liu ..) (freeThr_regs ..)

theorem lineKept_giveUpPlace (pid : Nat) (s : State) : LineKept s (giveUpPlace pid s) := lineKept_of_eq rfl rfl

theorem lineKept_dropThr (k : Nat) (s : State) : LineKept s (dropThr k s) :=
  (lineKept_giveUpPlace _ s).trans (lineKept_freeThr _ _)

theorem lineKept_hostThr (k sl : Nat) (s : State) : LineKept s (hostThr k sl s) := by
  unfold hostThr
  dsimp only
  refine (lineKept_giveUpPlace (thr s k).pkt.pid s).trans ?_
  split
  · exact (lineKept_hostDeliver _ _ _).trans (lineKept_freeThr _ _)
  · exact (lineKept_reqsLeave _ _).trans (lineKept_setThr _ _ _)

theorem lineKept_haltThr (k code : Nat) (s : State) : LineKept s (haltThr k code s) :=
  (lineKept_reqsLeave _ _).trans (lineKept_setThr _ _ _)

theorem lineKept_slotUsed (k code : Nat) (s : State) : LineKept s (slotUsed k code s) :=
  lineKept_of_eq (slotUsed_liu ..) (slotUsed_regs ..)

theorem lineKept_raiseExc (k code : Nat) (s : State) : LineKept s (raiseExc k code s) := by
  have hcount : LineKept s (occurThr 5 code k (rcount s R.SEN_EXC_COUNT code 47 0 1)) :=
    (lineKept_rcount (by decide) s _ _ _ _).trans (lineKept_of_eq rfl rfl)
  unfold raiseExc
  dsimp only
  refine hcount.trans ?_
  generalize occurThr 5 code k (rcount s R.SEN_EXC_COUNT code 47 0 1) = s₁
  generalize hslot : ite (code = 6 ∧ s₁.tau.mono < (engine s₁ k).free) s₁ _ = s₂
  have hslot : LineKept s₁ s₂ := by
    rw [← hslot]
    split
    · exact lineKept_of_eq rfl rfl
    · exact lineKept_slotUsed _ _ _
  refine hslot.trans ?_
  split
  · exact lineKept_haltThr _ _ _
  split
  · exact (lineKept_setThr _ _ _).trans (lineKept_dropThr _ _)
  · split
    · exact (lineKept_setThr _ _ _).trans (lineKept_hostThr _ _ _)
    · exact (lineKept_setThr _ _ _).trans (lineKept_setThr _ _ _)
    · exact (lineKept_setThr _ _ _).trans (lineKept_dropThr _ _)

theorem lineKept_settle (k : Nat) (s : State) : LineKept s (settle k s) := by
  unfold settle
  dsimp only
  split
  · split
    · exact lineKept_of_eq rfl rfl
    · split
      · exact (lineKept_of_eq rfl rfl).trans (lineKept_raiseExc _ _ (setThr s k _))
      · exact lineKept_of_eq rfl rfl
  · split
    · exact lineKept_raiseExc _ _ _
    · exact lineKept_of_eq rfl rfl

/-! ### The traffic manager and the counters -/

theorem lineKept_completeCut (src n : Nat) (good : Bool) (s : State) (c : CutRec) :
    LineKept s (completeCut src n good s c) := by
  unfold completeCut
  dsimp only
  split
  · split
    · exact ((lineKept_of_eq rfl rfl).trans (lineKept_rcount (by decide) (withTmg _ s) _ _ _ _)).trans
        (lineKept_rcount (by decide) _ _ _ _ _)
    · exact lineKept_of_eq rfl rfl
  · exact lineKept_of_eq rfl rfl

theorem lineKept_cntAdd (i n : Nat) (s : State) : LineKept s (cntAdd i n s) := by
  unfold cntAdd
  dsimp only
  split
  · refine LineKept.trans ?_ (lineKept_rset (by decide) _ _ _)
    split
    · exact lineKept_rset (by decide) _ _ _
    · exact (lineKept_of_eq rfl rfl).trans (lineKept_rset (by decide) _ _ _)
  · exact lineKept_of_eq rfl rfl

theorem lineKept_sen (x : Sen) (s : State) : LineKept s { s with sen := x } := lineKept_of_eq rfl rfl

theorem lineKept_mapPkts (f : Packet → Packet) (s : State) : LineKept s (mapPkts f s) := lineKept_of_eq rfl rfl

theorem lineKept_finishFrame (src : Nat) (ext : Bytes) (good : Bool) (s : State) :
    LineKept s (finishFrame src ext good s) := by
  unfold finishFrame
  dsimp only
  refine LineKept.trans ?_ (lineKept_foldl (fun x k => lineKept_settle k x) _ _)
  refine LineKept.trans ?_ (lineKept_foldl (fun x d => lineKept_cntAdd _ _ x) _ _)
  refine LineKept.trans ?_ (lineKept_sen _ _)
  refine LineKept.trans ?_ (lineKept_foldl (lineKept_completeCut src ext.length good) _ _)
  refine LineKept.trans ?_ (lineKept_mapPkts _ _)
  exact lineKept_foldl (fun x k => lineKept_sen _ x) _ _

end Sys2Proof.Proofs
end

section
/-! SUPPORT. A frame on its line (R16, R17, R168, R249 to R256): stamped at its start, offered or dropped on receive, sent
on transmit; its codewords counted, and its transmit timestamp read. -/

namespace Sys2Proof.Proofs
open Sys2Proof Sys2Proof.Machine Sys2Proof.Laws

@[simp] theorem liuPort_setLiuPort_self (p : Nat) (x : LiuPort) (s : State) : liuPort (setLiuPort p x s) p = x := by
  simp [liuPort, setLiuPort]

theorem liuPort_setLiuPort_ne {p q : Nat} (h : q ≠ p) (x : LiuPort) (s : State) :
    liuPort (setLiuPort p x s) q = liuPort s q := by
  simp [liuPort, setLiuPort, mget_mset, h]

theorem liuPort_of_liu {s t : State} (h : t.liu = s.liu) (p : Nat) : liuPort t p = liuPort s p := by
  simp only [liuPort, h]

theorem rget_of_regsBut {as : List Nat} {s t : State} {r : Reg} {i : Nat} (h : RegsBut as s t) (hr : regAddr r i ∉ as) :
    rget t r i = rget s r i := by
  simp only [rget, h _ hr]

/-! ### The start of a frame -/

theorem frameStart_stamps {s : State} {p : Port} (hen : portEn s p.val = true) (hrx : (liuPort s p.val).rx = none)
    (hclient : clientLost s p.val = false) :
    exec (.frameStart p) s = .next (setLiuPort p.val { liuPort s p.val with rx := some (rxStart s p.val) }
      { s with sen := { s.sen with nextPid := s.sen.nextPid + 1 } }) := by
  change execFrameStart p s = _
  simp [execFrameStart, hen, hrx, hclient]

/-- R11, R16: the tag is the epoch's, or that of the epoch which a commit of the same tick ends. -/
theorem rxStart_tag (s : State) (p : Nat) :
    (s.tau.lastCommit ≠ some s.tau.mono → (rxStart s p).tag = s.tau.curEpoch % 4) ∧
    (s.tau.lastCommit = some s.tau.mono → (rxStart s p).tag = (s.tau.curEpoch + 65535) % 65536 % 4) :=
  ⟨fun h => by simp [rxStart, stampEpoch, h], fun h => by simp [rxStart, stampEpoch, h]⟩

/-- R249, R257: with no write of the tick before it, a frame holds to the configuration as it stands. -/
theorem rxStart_cfg {s : State} {p : Nat} (h : (liuPort s p).before = none) :
    (rxStart s p).maxFrame = rfld s R.LIU_PORT_CFG p 39 24 ∧ (rxStart s p).sec.cfg = rget s R.LIU_MSEC_CFG p := by
  simp [rxStart, secView, cfgSeen, h]

/-! ### A frame without MACsec -/

theorem secOverhead_plain {v : SecView} (h : bit v.cfg 63 = false) (raw : Bytes) : secOverhead v raw = 0 := by
  simp [secOverhead, h]

theorem msecRx_plain {v : SecView} (h : bit v.cfg 63 = false) (p : Nat) (raw : Bytes) (s : State) :
    msecRx v p raw s = (some raw, s) := by
  simp [msecRx, msecJudge, h]

theorem msecTx_plain {v : SecView} (h : bit v.cfg 63 = false) (p : Nat) (bs : Bytes) (s : State) :
    msecTx v p bs s = (some bs, s) := by
  simp [msecTx, h]

theorem clearHead_plain {f : RxFrame} (h : bit f.sec.cfg 63 = false) (s : State) (p : Nat) :
    clearHead s p f = some (rxKept f) := by
  simp [clearHead, msecJudge, h]

/-- R17: the head of a frame without MACsec is offered once more than 512 bytes of it are taken. -/
theorem offerHead_long {f : RxFrame} (h : bit f.sec.cfg 63 = false) (hno : f.offered = false)
    (hlen : 512 < (rxKept f).length) (p : Nat) (s : State) :
    offerHead p f s = ({ f with offered := true, given := (rxKept f).length }, offer p f (rxKept f) false s) := by
  simp [offerHead, clearHead_plain h, hno, hlen]

theorem offerHead_short {f : RxFrame} (h : bit f.sec.cfg 63 = false) (hlen : (rxKept f).length ≤ 512) (p : Nat)
    (s : State) : offerHead p f s = (f, s) := by
  simp [offerHead, clearHead_plain h, hlen]

theorem frameHeaderReady_takes {s : State} {p : Port} {f : RxFrame} (bytes : Bytes) (hrx : (liuPort s p.val).rx = some f)
    (hno : f.offered = false) (hclient : clientLost s p.val = false) :
    let h := offerHead p.val { f with raw := f.raw ++ bytes } s
    exec (.frameHeaderReady p bytes) s = .next (setLiuPort p.val { liuPort h.2 p.val with rx := some h.1 } h.2) := by
  change execFrameHeaderReady p bytes s = _
  simp [execFrameHeaderReady, hrx, hno, hclient]

/-! ### Codewords (R250) -/

theorem regsBut_fecCount (p : Nat) (c : FecCount) (s : State) :
    RegsBut [adr R.LIU_FEC_STAT p, adr R.LIU_PORT_STAT p] s (fecCount p c s) := by
  have hcount := regsBut_rcount (regsBut_rcount (regsBut_refl [adr R.LIU_FEC_STAT p, adr R.LIU_PORT_STAT p] s)
    List.mem_cons_self 63 32 c.corrected) List.mem_cons_self 31 0 c.uncorr
  unfold fecCount
  dsimp only
  split
  · exact hcount
  · exact regsBut_rcount hcount (by simp) _ _ _

theorem fecCount_mk (p : Nat) (c : FecCount) (s : State) :
    ∃ regs liu, fecCount p c s = { s with regs := regs, liu := liu } := by
  unfold fecCount
  dsimp only
  split <;> exact ⟨_, _, rfl⟩

@[simp] theorem fecCount_sen (p : Nat) (c : FecCount) (s : State) : (fecCount p c s).sen = s.sen := by
  obtain ⟨regs, liu, h⟩ := fecCount_mk p c s
  rw [h]

/-- The count leaves every other register of the port. -/
theorem rget_fecCount_ne {r : Reg} (hs : r.stride = 8) (hfec : r.base ≠ R.LIU_FEC_STAT.base)
    (hstat : r.base ≠ R.LIU_PORT_STAT.base) (p : Nat) (c : FecCount) (s : State) :
    rget (fecCount p c s) r p = rget s r p := by
  refine rget_of_regsBut (regsBut_fecCount p c s) ?_
  simp [regAddr, hs, hfec, hstat, show R.LIU_FEC_STAT.stride = 8 from rfl, show R.LIU_PORT_STAT.stride = 8 from rfl]

theorem rfld_portCfg_fecCount (p : Nat) (c : FecCount) (s : State) (hi lo : Nat) :
    rfld (fecCount p c s) R.LIU_PORT_CFG p hi lo = rfld s R.LIU_PORT_CFG p hi lo := by
  rw [rfld, rget_fecCount_ne rfl (by decide) (by decide), rfld]

/-- FEC_STAT as the codewords of a frame raise it. -/
theorem rget_fecStat_fecCount (p : Nat) (c : FecCount) (s : State) : rget (fecCount p c s) R.LIU_FEC_STAT p =
    rget (rcount (rcount s R.LIU_FEC_STAT p 63 32 c.corrected) R.LIU_FEC_STAT p 31 0 c.uncorr) R.LIU_FEC_STAT p := by
  have hne : regAddr R.LIU_FEC_STAT p ≠ regAddr R.LIU_PORT_STAT p := by simp [regAddr, R.LIU_FEC_STAT, R.LIU_PORT_STAT]
  unfold fecCount
  dsimp only
  split
  · rfl
  · exact rget_rcount_ne hne (setLiuPort p _ _) 31 16 1

theorem fecCount_corrected (p : Nat) (c : FecCount) (s : State) : rfld (fecCount p c s) R.LIU_FEC_STAT p 63 32 =
    min (rfld s R.LIU_FEC_STAT p 63 32 + c.corrected) (2 ^ 32 - 1) := by
  rw [rfld, rget_fecStat_fecCount]
  exact (rfld_rsetF_apart _ _ _ _ (by decide) (by decide) (by decide)).trans
    (rfld_rcount_self s _ p _ (by decide) (by decide))

theorem fecCount_uncorrectable (p : Nat) (c : FecCount) (s : State) : rfld (fecCount p c s) R.LIU_FEC_STAT p 31 0 =
    min (rfld s R.LIU_FEC_STAT p 31 0 + c.uncorr) (2 ^ 32 - 1) := by
  have hother : rfld (rcount s R.LIU_FEC_STAT p 63 32 c.corrected) R.LIU_FEC_STAT p 31 0 =
      rfld s R.LIU_FEC_STAT p 31 0 := rfld_rsetF_apart _ _ _ _ (by decide) (by decide) (by decide)
  rw [rfld, rget_fecStat_fecCount, ← hother]
  exact rfld_rcount_self _ _ p _ (by decide) (by decide)

/-- R250: without an uncorrectable codeword FEC_DEGRADE stays. -/
theorem rget_portStat_fecCount {c : FecCount} (h : c.uncorr = 0) (p : Nat) (s : State) :
    rget (fecCount p c s) R.LIU_PORT_STAT p = rget s R.LIU_PORT_STAT p := by
  have hne : regAddr R.LIU_PORT_STAT p ≠ regAddr R.LIU_FEC_STAT p := by simp [regAddr, R.LIU_FEC_STAT, R.LIU_PORT_STAT]
  simp only [fecCount, h, true_or, if_true]
  rw [rget_rcount_ne hne, rget_rcount_ne hne]

/-! ### The end of a frame -/

/-- The state in which the end of a frame is judged: the port receives nothing any more, and the frame is counted by the
Gauge. -/
def rxOver (p : Nat) (s : State) : State := occur 2 1 p 1 (setLiuPort p { liuPort s p with rx := none } s)

@[simp] theorem rxOver_regs (p : Nat) (s : State) : (rxOver p s).regs = s.regs := rfl
@[simp] theorem rxOver_sen (p : Nat) (s : State) : (rxOver p s).sen = s.sen := rfl

theorem liuPort_rxOver_self (p : Nat) (s : State) : liuPort (rxOver p s) p = { liuPort s p with rx := none } :=
  liuPort_setLiuPort_self p _ s

/-- The state in which the frame is ended as bad: its FCS error has been counted (R251). -/
def fcsCounted (p : Nat) (s : State) : State := occur 2 2 p 1 (rcount (rxOver p s) R.LIU_MAC_ERR p 47 32 1)

@[simp] theorem fcsCounted_liu (p : Nat) (s : State) : (fcsCounted p s).liu = (rxOver p s).liu := rfl

theorem frameComplete_ends {s : State} {p : Port} {f : RxFrame} {e : FrameEnd} {good : Bool} {c : FecCount}
    (hrx : (liuPort s p.val).rx = some f) (hgood : (e.fcsOk && decide (e.own = 0) && !clientLost s p.val) = good)
    (hc : { e.fec with uncorr := e.fec.uncorr + e.own } = c) (bytes : Bytes) :
    exec (.frameComplete p bytes e) s = .next (rxEnd p.val f bytes good (fecCount p.val c s)) := by
  change execFrameComplete p bytes e s = _
  simp only [execFrameComplete, hrx, hgood, hc]

section
variable {f : RxFrame} {bytes : Bytes} {s : State} {p : Nat} (hplain : bit f.sec.cfg 63 = false)
  (hmin : 60 ≤ (f.raw ++ bytes).length) (hmax : (f.raw ++ bytes).length ≤ f.maxFrame)
  (hloop : rfld s R.LIU_PORT_CFG p 19 18 ≠ 2)
include hplain hmin hmax hloop

omit hloop in
/-- R251: of a frame of a length within its bounds the FCS decides. -/
theorem rxCheck_within (fcsOk : Bool) : rxCheck p { f with raw := f.raw ++ bytes } fcsOk s =
    if fcsOk then (true, s) else (false, occur 2 2 p 1 (rcount s R.LIU_MAC_ERR p 47 32 1)) := by
  have hrunt : ¬ (f.raw ++ bytes).length + 4 < 64 := by omega
  have hover : ¬ f.maxFrame < (f.raw ++ bytes).length - 0 := by omega
  simp only [rxCheck, secOverhead_plain hplain, hrunt, hover, if_false]

/-- A frame at its end, without near-end loopback: offered whole where it passes the checks. -/
theorem rxEnd_judged (fcsOk : Bool) (hno : f.offered = false) : rxEnd p f bytes fcsOk s =
    if fcsOk then offer p { f with raw := f.raw ++ bytes } (f.raw ++ bytes) true (rxOver p s)
    else rxFail p { f with raw := f.raw ++ bytes } (fcsCounted p s) := by
  have hquiet : rfld (occur 2 1 p 1 (setLiuPort p { liuPort s p with rx := none } s)) R.LIU_PORT_CFG p 19 18 ≠ 2 := hloop
  unfold rxEnd
  simp only [hquiet, if_false, rxCheck_within hplain hmin hmax]
  cases fcsOk with
  | false => rfl
  | true => simp only [msecRx_plain hplain, hno, if_true, Bool.false_eq_true, if_false, rxOver]

end

/-- What a failed frame leads to beyond the line interface leaves that as it is. -/
theorem lineKept_rxFail (p : Nat) (f : RxFrame) (s : State) : LineKept s (rxFail p f s) := by
  have hoffer : LineKept s (offerHead p f s).2 := by
    unfold offerHead
    split
    · split
      · exact lineKept_sen _ s
      · exact lineKept_of_eq rfl rfl
    · exact lineKept_of_eq rfl rfl
  unfold rxFail
  dsimp only
  split
  · exact hoffer.trans (lineKept_finishFrame _ _ _ _)
  · exact hoffer

/-- A failed frame no part of which has been offered is dropped with its count. -/
theorem rxFail_unoffered {f : RxFrame} (h : bit f.sec.cfg 63 = false) (hno : f.offered = false)
    (hlen : f.raw.length ≤ 512) (p : Nat) (s : State) : rxFail p f s = s := by
  have hkept : (rxKept f).length ≤ 512 := by simp [rxKept]; omega
  simp [rxFail, offerHead_short h hkept, hno]

@[simp] theorem offer_regs (p : Nat) (f : RxFrame) (bs : Bytes) (complete : Bool) (s : State) :
    (offer p f bs complete s).regs = s.regs := rfl
@[simp] theorem offer_liu (p : Nat) (f : RxFrame) (bs : Bytes) (complete : Bool) (s : State) :
    (offer p f bs complete s).liu = s.liu := rfl

/-- A packet's head depends on the class configuration of its port, and on no other part of the state (R253). -/
theorem headPacket_congr {s t : State} {p : Nat} (h : rget t R.LIU_CLASS_CFG p = rget s R.LIU_CLASS_CFG p) (f : RxFrame)
    (bs : Bytes) (complete : Bool) : headPacket t p f bs complete = headPacket s p f bs complete := by
  simp only [headPacket, classOf, h]

/-- A frame that is offered whole, after its codewords have been counted. -/
theorem offer_says (s : State) (p : Nat) (c : FecCount) (g : RxFrame) (bs : Bytes) :
    let t := offer p g bs true (rxOver p (fecCount p c s))
    t.sen.toIng = s.sen.toIng ++ [headPacket s p g bs true] ∧ (liuPort t p).rx = none ∧
    rfld t R.LIU_FEC_STAT p 63 32 = min (rfld s R.LIU_FEC_STAT p 63 32 + c.corrected) (2 ^ 32 - 1) ∧
    rfld t R.LIU_FEC_STAT p 31 0 = min (rfld s R.LIU_FEC_STAT p 31 0 + c.uncorr) (2 ^ 32 - 1) ∧
    (c.uncorr = 0 → rget t R.LIU_PORT_STAT p = rget s R.LIU_PORT_STAT p) ∧
    RegsBut [adr R.LIU_FEC_STAT p, adr R.LIU_PORT_STAT p] s t ∧
    t = { s with regs := t.regs, sen := t.sen, liu := t.liu, gau := t.gau } := by
  intro t
  have hregs : t.regs = (fecCount p c s).regs := (offer_regs ..).trans (rxOver_regs ..)
  have hclass : rget (rxOver p (fecCount p c s)) R.LIU_CLASS_CFG p = rget s R.LIU_CLASS_CFG p :=
    (rget_of_regs (rxOver_regs ..) _ _).trans (rget_fecCount_ne rfl (by decide) (by decide) p c s)
  have hline : (liuPort t p).rx = none := by
    rw [liuPort_of_liu (offer_liu ..), liuPort_rxOver_self]
  refine ⟨?_, hline, ?_, ?_, fun h => ?_, fun a ha => ?_, ?_⟩
  · rw [← headPacket_congr hclass, ← fecCount_sen p c s, ← rxOver_sen p]
    rfl
  · exact (rfld_of_regs hregs _ _ _ _).trans (fecCount_corrected p c s)
  · exact (rfld_of_regs hregs _ _ _ _).trans (fecCount_uncorrectable p c s)
  · exact (rget_of_regs hregs _ _).trans (rget_portStat_fecCount h p s)
  · rw [hregs, regsBut_fecCount p c s a ha]
  · obtain ⟨regs, liu, hu⟩ := fecCount_mk p c s
    rw [show t = offer p g bs true (rxOver p (fecCount p c s)) from rfl, hu]
    rfl

/-- R251: a frame with a bad FCS is counted, whatever its end leads to beyond the line interface. -/
theorem rxFail_says (s : State) (p : Port) (c : FecCount) (g : RxFrame) :
    let t := rxFail p.val g (fcsCounted p.val (fecCount p.val c s))
    rfld t R.LIU_MAC_ERR p.val 47 32 = min (rfld s R.LIU_MAC_ERR p.val 47 32 + 1) 65535 ∧ (liuPort t p.val).rx = none := by
  intro t
  obtain ⟨hliu, hbelow⟩ : LineKept (fcsCounted p.val (fecCount p.val c s)) t := lineKept_rxFail _ _ _
  have haddr : regAddr R.LIU_MAC_ERR p.val < senBase := by simp only [regAddr, R.LIU_MAC_ERR, senBase]; omega
  have hend : rget t R.LIU_MAC_ERR p.val =
      rget (rcount (rxOver p.val (fecCount p.val c s)) R.LIU_MAC_ERR p.val 47 32 1) R.LIU_MAC_ERR p.val := by
    rw [rget, hbelow _ haddr]
    rfl
  have hfec : rget (rxOver p.val (fecCount p.val c s)) R.LIU_MAC_ERR p.val = rget s R.LIU_MAC_ERR p.val :=
    (rget_of_regs (rxOver_regs ..) _ _).trans (rget_fecCount_ne rfl (by decide) (by decide) p.val c s)
  constructor
  · calc rfld t R.LIU_MAC_ERR p.val 47 32
      _ = min (rfld (rxOver p.val (fecCount p.val c s)) R.LIU_MAC_ERR p.val 47 32 + 1) 65535 := by
        rw [rfld, hend]
        exact rfld_rcount_self _ _ _ 1 (by decide) (by decide)
      _ = min (rfld s R.LIU_MAC_ERR p.val 47 32 + 1) 65535 := by
        rw [rfld, hfec, rfld]
  · rw [liuPort_of_liu hliu, liuPort_of_liu (fcsCounted_liu ..), liuPort_rxOver_self]

/-- What the count of a frame with a bad FCS and of its codewords changes. -/
theorem fcsCounted_says (s : State) (p : Nat) (c : FecCount) :
    let t := fcsCounted p (fecCount p c s)
    RegsBut [adr R.LIU_MAC_ERR p, adr R.LIU_FEC_STAT p, adr R.LIU_PORT_STAT p] s t ∧
    t = { s with regs := t.regs, liu := t.liu, gau := t.gau } := by
  intro t
  constructor
  · have hfec : RegsBut [adr R.LIU_MAC_ERR p, adr R.LIU_FEC_STAT p, adr R.LIU_PORT_STAT p] s
        (rxOver p (fecCount p c s)) := fun a ha => regsBut_fecCount p c s a fun h => ha (List.mem_cons_of_mem _ h)
    exact regsBut_rcount hfec List.mem_cons_self 47 32 1
  · obtain ⟨regs, liu, hu⟩ := fecCount_mk p c s
    rw [show t = fcsCounted p (fecCount p c s) from rfl, hu]
    rfl

/-! ### Transmission -/

/-- The state in which a frame leaves: it waits no more, and is no frame to be finished on its line. -/
def lineFreed (p : Nat) (rest : List Packet) (s : State) : State :=
  let t : State := { s with sen := { s.sen with toLiu := rest } }
  if (liuPort s p).sending = none then t else setLiuPort p { liuPort s p with sending := none } t

theorem lineFreed_eq (p : Nat) (rest : List Packet) (s : State) :
    lineFreed p rest s = { s with sen := { s.sen with toLiu := rest }, liu := (lineFreed p rest s).liu } := by
  unfold lineFreed
  dsimp only
  split <;> rfl

theorem liuPort_lineFreed_self (p : Nat) (rest : List Packet) (s : State) :
    liuPort (lineFreed p rest s) p = { liuPort s p with sending := none } := by
  unfold lineFreed
  dsimp only
  split
  case isTrue h => rw [← h]; rfl
  case isFalse => simp

theorem liuPort_lineFreed_ne {p q : Nat} (h : q ≠ p) (rest : List Packet) (s : State) :
    liuPort (lineFreed p rest s) q = liuPort s q := by
  unfold lineFreed
  dsimp only
  split
  · rfl
  · exact liuPort_setLiuPort_ne h _ _

/-- What a frame that leaves changes: its own place, its port's line, and the outputs. -/
theorem lineFreed_says (s : State) (p : Nat) (rest : List Packet) (e : OutEvent) :
    let t := emit e (lineFreed p rest s)
    t.sen = { s.sen with toLiu := rest } ∧ t.out = e :: s.out ∧ (liuPort t p).sending = none ∧
    (∀ o, o ≠ p → liuPort t o = liuPort s o) ∧ t = { s with sen := t.sen, liu := t.liu, out := t.out } := by
  intro t
  refine ⟨?_, ?_, ?_, fun o ho => liuPort_lineFreed_ne ho rest s, ?_⟩
  · exact congrArg State.sen (lineFreed_eq p rest s)
  · change e :: (lineFreed p rest s).out = _
    rw [lineFreed_eq]
  · exact congrArg LiuPort.sending (liuPort_lineFreed_self p rest s)
  · rw [show t = emit e (lineFreed p rest s) from rfl, lineFreed_eq]
    rfl

theorem clientCut_lineFreed (p : Nat) (rest : List Packet) (s : State) :
    clientCut (lineFreed p rest s) p = clientCut s p := by
  unfold lineFreed
  dsimp only
  split <;> rfl

/-- R257: the MACsec configuration that a frame leaves under is that of its delimiter, whatever is still to leave. -/
theorem txSeen_lineFreed (p pid : Nat) (rest : List Packet) (s : State) :
    (txSeen (lineFreed p rest s) p pid).cfg = (txSeen s p pid).cfg := by
  have hcfg : cfgSeen (lineFreed p rest s) p = cfgSeen s p := by
    simp only [cfgSeen, liuPort_lineFreed_self]
    rw [lineFreed_eq]
    rfl
  simp only [txSeen, liuPort_lineFreed_self, secView, hcfg]
  split
  · split <;> rfl
  · rfl

theorem captureTx_off {s : State} {q : Packet}
    (h : rbit s R.LIU_TXTS_PROFILE (mdF q 7 31 24 / 64) (mdF q 7 31 24 % 64) = false) (p : Nat) : captureTx p q s = s := by
  simp [captureTx, h]

theorem onLine_emits {s : State} {p : Nat} (hloop : rfld s R.LIU_PORT_CFG p 19 18 = 0) (hclient : clientCut s p = false)
    (bs : Bytes) (bad : Bool) : onLine p bs bad s = emit (.frame p (withFcs bs bad) bad) s := by
  simp [onLine, hloop, hclient]

/-- A complete frame that is first for a port that sends goes through MACsec to the line. -/
theorem execFrameTransmit_of_sends {s : State} {p : Port} {q : Packet} {rest : List Packet} (hto : s.sen.toLiu = q :: rest)
    (hport : mdF q 2 20 14 = p.val) (hdone : q.complete = true)
    (hcut : s.tmg.cuts.any (fun c => decide (c.pid = q.pid)) = false)
    (hsends : ((portEn s p.val && rbit s R.LIU_PORT_STAT p.val 63) ||
      decide ((liuPort s p.val).sending = some q.pid)) = true) :
    let m := msecTx (txSeen (lineFreed p.val rest s) p.val q.pid) p.val (frameBytes q) (lineFreed p.val rest s)
    execFrameTransmit p s = match m.1 with
      | some bs => .next (onLine p.val (padFrame bs) q.bad (captureTx p.val q m.2))
      | none => .next m.2 := by
  have hfirst : takeFirst (fun q : Packet => decide (mdF q 2 20 14 = p.val)) s.sen.toLiu = some (q, rest) := by
    simp [hto, takeFirst, hport]
  unfold execFrameTransmit
  rw [hfirst]
  simp only [hdone, hcut, Bool.true_eq_false, decide_false, Bool.or_false, if_false, Bool.false_eq_true]
  exact if_pos hsends

/-- R168, R249: a complete frame that its port may still send leaves on the line with its FCS. -/
theorem frameTransmit_leaves {s : State} {p : Port} {q : Packet} {rest : List Packet} (hto : s.sen.toLiu = q :: rest)
    (hport : mdF q 2 20 14 = p.val) (hdone : q.complete = true)
    (hcut : s.tmg.cuts.any (fun c => decide (c.pid = q.pid)) = false)
    (hsends : (portEn s p.val = true ∧ rbit s R.LIU_PORT_STAT p.val 63 = true) ∨ (liuPort s p.val).sending = some q.pid)
    (hplain : bit (txSeen s p.val q.pid).cfg 63 = false) (hloop : rfld s R.LIU_PORT_CFG p.val 19 18 = 0)
    (hclient : clientCut s p.val = false)
    (hstamp : rbit s R.LIU_TXTS_PROFILE (mdF q 7 31 24 / 64) (mdF q 7 31 24 % 64) = false) :
    exec (.frameTransmit p) s =
      .next (emit (.frame p.val (withFcs (padFrame (frameBytes q)) q.bad) q.bad) (lineFreed p.val rest s)) := by
  have hsends' : ((portEn s p.val && rbit s R.LIU_PORT_STAT p.val 63) ||
      decide ((liuPort s p.val).sending = some q.pid)) = true := by simpa using hsends
  have hsec := msecTx_plain ((congrArg (bit · 63) (txSeen_lineFreed p.val q.pid rest s)).trans hplain) p.val
    (frameBytes q) (lineFreed p.val rest s)
  have hregs : (lineFreed p.val rest s).regs = s.regs := by rw [lineFreed_eq]
  have hloop' : rfld (lineFreed p.val rest s) R.LIU_PORT_CFG p.val 19 18 = 0 := (rfld_of_regs hregs _ _ _ _).trans hloop
  have hstamp' : rbit (lineFreed p.val rest s) R.LIU_TXTS_PROFILE (mdF q 7 31 24 / 64) (mdF q 7 31 24 % 64) = false := by
    simpa only [rbit, rget, hregs] using hstamp
  change execFrameTransmit p s = _
  rw [execFrameTransmit_of_sends hto hport hdone hcut hsends', hsec]
  dsimp only
  rw [captureTx_off hstamp', onLine_emits hloop' ((clientCut_lineFreed _ _ _).trans hclient)]

/-! ### Transmit timestamps -/

theorem txtsRead_pops {s : State} {p : Port} {r : TxTs} {rest : List TxTs} (h : (liuPort s p.val).txts = r :: rest) :
    exec (.txtsRead p) s = .next (answer (at_ 1 63 ||| secNsWord r.ts)
      (rset (setLiuPort p.val { liuPort s p.val with txts := rest } s) R.LIU_TXTS_TAG p.val
        (at_ (liuPort s p.val).txDrop 32 ||| at_ (r.tag % 2 ^ 32) 0))) := by
  change execTxtsRead p s = _
  simp only [execTxtsRead, h]

/-- The tag of a record stands in its own half of the register. -/
theorem fld_or_at_low (a b : Nat) : fld (at_ a 32 ||| at_ (b % 2 ^ 32) 0) 31 0 = b % 2 ^ 32 := by
  apply Nat.eq_of_testBit_eq
  intro i
  rw [fld_testBit]
  by_cases hi : i < 32
  · have h64 : i < 64 := by omega
    have hhigh : ¬ 32 ≤ i := by omega
    simp only [at_, BitVec.getLsbD_or, BitVec.getLsbD_ofNat, Nat.testBit_shiftLeft, Nat.testBit_mod_two_pow]
    simp [hi, h64, hhigh]
  · simp only [Nat.testBit_mod_two_pow]
    simp [hi]

/-- What a read of a record leaves in the registers and the FIFO. -/
theorem txtsRead_says (s : State) (p : Nat) (w : Word) (drop : Nat) (r : TxTs) (rest : List TxTs) :
    let t := answer w (rset (setLiuPort p { liuPort s p with txts := rest } s) R.LIU_TXTS_TAG p
      (at_ drop 32 ||| at_ (r.tag % 2 ^ 32) 0))
    t.lastRead = w ∧ rfld t R.LIU_TXTS_TAG p 31 0 = r.tag % 2 ^ 32 ∧ (liuPort t p).txts = rest ∧
    RegsBut [adr R.LIU_TXTS_TAG p] s t := by
  intro t
  refine ⟨rfl, ?_, congrArg LiuPort.txts (liuPort_setLiuPort_self p _ s),
    regsBut_rset (fun _ _ => rfl) List.mem_cons_self _⟩
  have hreg : rget t R.LIU_TXTS_TAG p = at_ drop 32 ||| at_ (r.tag % 2 ^ 32) 0 := rget_rset_self _ _ _ _
  rw [rfld, hreg, fld_or_at_low]

/-! ### The statement -/

/-- Settles O31: what each command of the line does is said above; a frame that fails may go on to the threads and the
traffic manager, which leave the line as it is. -/
theorem framesOnTheLine : Obligations.FramesOnTheLine := by
  intro s p f bytes fec
  refine ⟨fun hen hrx hclient => ?starts, fun hplain hrx hno hclient => ?head,
    fun hplain hrx hno hmin hmax hloop => ⟨fun hclient => ?good, fun ok own hbad => ?bad⟩,
    fun ok own hrx => ?codewords, ?transmits, fun r rest htxts => ?stamps⟩
  case starts =>
    obtain ⟨hnow, hended⟩ := rxStart_tag s p.val
    exact ⟨_, frameStart_stamps hen hrx hclient, rfl,
      ⟨_, by rw [liuPort_setLiuPort_self], rfl, rfl, rfl, hnow, hended, rxStart_cfg⟩,
      fun q hq => liuPort_setLiuPort_ne hq _ _, rfl⟩
  case head =>
    have hexec := frameHeaderReady_takes bytes hrx hno hclient
    refine ⟨fun hlong => ?_, fun hshort => ?_⟩
    · rw [offerHead_long (f := { f with raw := f.raw ++ bytes }) hplain hno hlong] at hexec
      exact ⟨_, hexec, rfl, rfl, by rw [liuPort_setLiuPort_self], rfl⟩
    · rw [offerHead_short (f := { f with raw := f.raw ++ bytes }) hplain hshort] at hexec
      exact ⟨_, hexec, by rw [liuPort_setLiuPort_self], rfl⟩
  case good =>
    have hexec := frameComplete_ends (e := ⟨true, fec, 0⟩) (good := true) (c := fec) hrx (by simp [hclient]) rfl
      bytes
    rw [rxEnd_judged hplain hmin hmax (by rwa [rfld_portCfg_fecCount]) true hno, if_pos rfl] at hexec
    exact ⟨_, hexec, offer_says s p.val fec _ _⟩
  case bad =>
    have hfalse : (ok && decide (own = 0) && !clientLost s p.val) = false := by
      rcases hbad with rfl | hown
      · rfl
      · simp [Nat.ne_of_gt hown]
    have hexec := frameComplete_ends (e := ⟨ok, fec, own⟩) hrx hfalse rfl bytes
    rw [rxEnd_judged hplain hmin hmax (by rwa [rfld_portCfg_fecCount]) false hno, if_neg Bool.false_ne_true] at hexec
    obtain ⟨hcount, hover⟩ := rxFail_says s p { fec with uncorr := fec.uncorr + own } { f with raw := f.raw ++ bytes }
    refine ⟨_, hexec, hcount, hover, fun hshort => ?_⟩
    rw [rxFail_unoffered (f := { f with raw := f.raw ++ bytes }) hplain hno hshort]
    exact fcsCounted_says s p.val _
  case codewords =>
    change execFrameComplete p bytes ⟨ok, fec, own⟩ s = _
    simp [execFrameComplete, hrx]
  case transmits =>
    intro q rest hto hport hdone hcut hsends hplain hloop hclient hstamp
    exact ⟨_, frameTransmit_leaves hto hport hdone hcut hsends hplain hloop hclient hstamp,
      lineFreed_says s p.val rest _⟩
  case stamps => exact ⟨_, txtsRead_pops htxts, txtsRead_says s p.val _ _ r rest⟩

end Sys2Proof.Proofs
end

section
/-! SUPPORT. What the error unit and TAU_STATUS take when an event is raised (R43, R524, R539, R541): registers of the
error unit, its records and what the device puts out, and nothing else. -/

namespace Sys2Proof.Proofs
open Sys2Proof Sys2Proof.Machine Sys2Proof.Laws

/-- The registers that an event, or a report, reaches in the error unit (R538, R539). -/
abbrev errRegs : List Nat := [adr R.ERR_INT_STAT 0, adr R.ERR_LOG_DROP 0]

/-- Nothing changes but the error unit and what the device puts out. -/
def ErrOnly (s t : State) : Prop := t = { s with regs := t.regs, err := t.err, out := t.out } ∧ RegsBut errRegs s t

theorem ErrOnly.refl (s : State) : ErrOnly s s := ⟨rfl, regsBut_refl _ s⟩

theorem ErrOnly.trans {s t u : State} (h : ErrOnly s t) (h' : ErrOnly t u) : ErrOnly s u := by
  obtain ⟨hst, hr⟩ := h
  obtain ⟨htu, hr'⟩ := h'
  refine ⟨?_, fun a ha => (hr' a ha).trans (hr a ha)⟩
  rw [htu, hst]

theorem errOnly_err (s : State) (e : Err) : ErrOnly s { s with err := e } := ⟨rfl, fun _ _ => rfl⟩

theorem errOnly_emit (e : OutEvent) (s : State) : ErrOnly s (emit e s) := ⟨rfl, fun _ _ => rfl⟩

theorem errOnly_rset (s : State) {r : Reg} {i : Nat} (hr : regAddr r i ∈ errRegs) (v : Word) : ErrOnly s (rset s r i v) :=
  ⟨rfl, regsBut_rset (regsBut_refl _ s) hr v⟩

theorem errOnly_msixRaise (fn v : Nat) (s : State) : ErrOnly s (msixRaise fn v s) := by
  unfold msixRaise
  split
  · exact errOnly_err s _
  · exact errOnly_emit _ s

theorem alertEdge_eq_or (s t : State) : alertEdge s t = t ∨ ∃ b, alertEdge s t = emit (.alert b) t := by
  unfold alertEdge
  split
  · exact .inl rfl
  · exact .inr ⟨_, rfl⟩

theorem alertEdge_regs (s t : State) : (alertEdge s t).regs = t.regs := by
  obtain h | ⟨b, h⟩ := alertEdge_eq_or s t <;> rw [h]
  rfl

theorem errOnly_alertEdge (s t : State) : ErrOnly t (alertEdge s t) := by
  obtain h | ⟨b, h⟩ := alertEdge_eq_or s t <;> rw [h]
  · exact ErrOnly.refl t
  · exact errOnly_emit _ t

theorem errOnly_intSet (k : Nat) (s : State) : ErrOnly s (intSet k s) := by
  unfold intSet
  split
  · exact ErrOnly.refl s
  · have hset := errOnly_rset s (r := R.ERR_INT_STAT) (i := 0) List.mem_cons_self
      (setBit (rget s R.ERR_INT_STAT 0) k true)
    refine ErrOnly.trans ?_ (errOnly_alertEdge _ _)
    split
    · exact hset.trans (errOnly_msixRaise _ _ _)
    · exact hset

theorem errOnly_intNote (k : Nat) (s : State) : ErrOnly s (intNote k s) := by
  unfold intNote
  split
  · exact ErrOnly.refl s
  · exact errOnly_err s _

theorem errOnly_intRaise (k : Nat) (s : State) : ErrOnly s (intRaise k s) :=
  (errOnly_intNote k s).trans (errOnly_intSet k _)

theorem errOnly_unitEvent (k u tick : Nat) (s : State) : ErrOnly s (unitEvent k u tick s) := by
  unfold unitEvent
  dsimp only
  split
  · split
    · split <;> exact errOnly_err s _
    · exact errOnly_err s _
  · exact errOnly_err s _

theorem errOnly_logDrop (s : State) : ErrOnly s (rcount s R.ERR_LOG_DROP 0 31 0 1) :=
  errOnly_rset s (by simp) _

theorem errOnly_errRecord (r : ErrRec) (s : State) : ErrOnly s (errRecord r s) := by
  unfold errRecord
  dsimp only
  split
  · split
    · exact (errOnly_err s _).trans (errOnly_intRaise _ _)
    · exact (errOnly_err s _).trans (errOnly_logDrop _)
  · exact ErrOnly.refl s

theorem errOnly_errApply (r : ErrRec) (tick : Nat) (s : State) : ErrOnly s (errApply r tick s) := by
  have hrec := errOnly_errRecord r s
  unfold errApply
  dsimp only
  generalize errRecord r s = t at hrec
  have hsrc : ErrOnly s (match errSource r.cls r.block r.code with | some k => intRaise k t | none => t) := by
    split
    · exact hrec.trans (errOnly_intRaise _ _)
    · exact hrec
  split
  · exact hsrc.trans (errOnly_unitEvent _ _ _ _)
  · exact hsrc

/-- R524, R541: a report reaches the error unit alone, at once or held. -/
theorem errOnly_errReport (cls blk kind unit code : Nat) (detail : Word) (s : State) :
    ErrOnly s (errReport cls blk kind unit code detail s) := by
  unfold errReport
  dsimp only
  split
  · split
    · exact errOnly_err s _
    · have hdrop := errOnly_logDrop s
      split
      · exact hdrop.trans (errOnly_unitEvent _ _ _ _)
      · exact hdrop
  · exact errOnly_errApply _ _ _

theorem ErrOnly.rget {s t : State} (h : ErrOnly s t) {r : Reg} {i : Nat} (hr : regAddr r i ∉ errRegs) :
    rget t r i = rget s r i := rget_of_regsBut h.2 hr

theorem ErrOnly.rfld {s t : State} (h : ErrOnly s t) {r : Reg} {i : Nat} (hr : regAddr r i ∉ errRegs) (hi lo : Nat) :
    rfld t r i hi lo = rfld s r i hi lo := congrArg (fld · hi lo) (h.rget hr)

theorem ErrOnly.rbit {s t : State} (h : ErrOnly s t) {r : Reg} {i : Nat} (hr : regAddr r i ∉ errRegs) (b : Nat) :
    rbit t r i b = rbit s r i b := congrArg (bit · b) (h.rget hr)

/-! ### TAU_STATUS -/

theorem rbit_rsetF_bit (s : State) (r : Reg) (i b v : Nat) (h : b < 64) :
    rbit (rsetF s r i b b v) r i b = v.testBit 0 := by
  rw [rbit, rget_rsetF_self, bit_setFld_bit _ _ _ h]

theorem rbit_rsetF_apart (s : State) (r : Reg) (i v : Nat) {hi lo b : Nat} (h : hi < 64) (hl : lo ≤ hi)
    (hd : b < lo ∨ hi < b) : rbit (rsetF s r i hi lo v) r i b = rbit s r i b := by
  rw [rbit, rget_rsetF_self, bit_setFld_ne _ _ h hl hd, rbit]

theorem regsBut_rsetF {as : List Nat} {s t : State} {r : Reg} {i : Nat} (h : RegsBut as s t) (hr : regAddr r i ∈ as)
    (hi lo v : Nat) : RegsBut as s (rsetF t r i hi lo v) := regsBut_rset h hr _

/-- R539: unless the error unit restarts, the event's bit of ERR_INT_STAT stands. -/
theorem rbit_intRaise_self {k : Nat} {s : State} (hk : k < 64) (hup : s.mgmtDown = false) :
    rbit (intRaise k s) R.ERR_INT_STAT 0 k = true := by
  obtain ⟨hnote, hregs⟩ : (intNote k s).mgmtDown = false ∧ (intNote k s).regs = s.regs := by
    unfold intNote
    split <;> exact ⟨hup, rfl⟩
  unfold intRaise
  generalize intNote k s = t at hnote
  by_cases hstands : rbit t R.ERR_INT_STAT 0 k = true
  · simp [intSet, hnote, hstands]
  · have hmsix : ∀ fn v (x : State), (msixRaise fn v x).regs = x.regs := by
      intro fn v x
      unfold msixRaise
      split <;> rfl
    have hset : (intSet k t).regs = (rset t R.ERR_INT_STAT 0 (setBit (rget t R.ERR_INT_STAT 0) k true)).regs := by
      simp only [intSet, hnote, hstands, Bool.or_self, if_neg, Bool.false_eq_true, not_false_eq_true, alertEdge_regs]
      split
      · exact hmsix _ _ _
      · rfl
    rw [rbit, rget_of_regs hset, rget_rset_self, setBit, bit_setFld_bit _ _ _ hk]
    rfl

/-- What an event of TAU_STATUS changes. -/
def StatusOnly (s t : State) : Prop :=
  t = { s with regs := t.regs, err := t.err, out := t.out } ∧ RegsBut (adr R.TAU_STATUS 0 :: errRegs) s t

theorem statusOnly_tauStatus (k : Nat) (s : State) : StatusOnly s (tauStatus k s) := by
  obtain ⟨heq, hregs⟩ := errOnly_intRaise 5 (rsetF s R.TAU_STATUS 0 k k 1)
  refine ⟨heq, fun a ha => ?_⟩
  obtain ⟨hstat, herr⟩ := not_or.1 (mt List.mem_cons.2 ha)
  rw [tauStatus, hregs a herr]
  exact regsBut_rsetF (regsBut_refl [adr R.TAU_STATUS 0] s) (List.mem_singleton_self _) _ _ _ a (by simpa using hstat)

theorem rbit_tauStatus_self {k : Nat} (hk : k < 64) (s : State) : rbit (tauStatus k s) R.TAU_STATUS 0 k = true := by
  rw [tauStatus, (errOnly_intRaise 5 _).rbit (by decide), rbit_rsetF_bit _ _ _ _ _ hk]
  rfl

theorem rbit_tauStatus_ne {k j : Nat} (hk : k < 64) (hj : j ≠ k) (s : State) :
    rbit (tauStatus k s) R.TAU_STATUS 0 j = rbit s R.TAU_STATUS 0 j := by
  rw [tauStatus, (errOnly_intRaise 5 _).rbit (by decide), rbit_rsetF_apart _ _ _ _ hk (Nat.le_refl k) (by omega)]

theorem rbit_tauStatus_int {k : Nat} {s : State} (hup : s.mgmtDown = false) :
    rbit (tauStatus k s) R.ERR_INT_STAT 0 5 = true := rbit_intRaise_self (by decide) hup

theorem rget_tauStatus_ne {r : Reg} {i : Nat} (hr : regAddr r i ∉ adr R.TAU_STATUS 0 :: errRegs) (k : Nat) (s : State) :
    rget (tauStatus k s) r i = rget s r i := rget_of_regsBut (statusOnly_tauStatus k s).2 hr

end Sys2Proof.Proofs
end

section
/-! SUPPORT. The PHC and its discipline (R37 to R43), the forwarded time (R50), and the 1PPS pins and the time-of-day UART
(R44 to R47). -/

namespace Sys2Proof.Proofs
open Sys2Proof Sys2Proof.Machine Sys2Proof.Laws

/-! ### The PHC -/

/-- The time of day wraps with its seconds: a time whose seconds fit does not. -/
theorem phcWrap_of_lt {p : Nat} (h : p < 2 ^ 48 * 1000000000 * nsUnits) : phcWrap p = p := Nat.mod_eq_of_lt h

theorem phcNow_of_step_now {s : State} {q : StepReq} (h : s.tau.step = some (q, s.tau.mono)) : phcNow s = s.tau.phc := by
  simp [phcNow, h]

theorem phcNow_of_step_then {s : State} {q : StepReq} {k : Nat} (h : s.tau.step = some (q, k)) (hk : k ≠ s.tau.mono) :
    phcNow s = stepTarget s.tau.phc q := by
  simp [phcNow, h, hk]

/-- R39: a time that has been set is shown as it was set. -/
theorem stepTarget_abs {sec ns frac : Nat} (hs : sec < 2 ^ 48) (hn : ns < 1000000000) (hf : frac < 65536) (phc : Nat) :
    stepTarget phc (.abs sec ns frac) = (sec * 1000000000 + ns) * 2 ^ 48 + frac * 2 ^ 32 :=
  phcWrap_of_lt (by unfold nsUnits; omega)

theorem holdTimeout_says (v : Word) (s : State) :
    let t := holdTimeout v s
    rfld t R.TAU_PHC_CTL 0 31 16 = fld v 31 16 ∧
    t.tau = { s.tau with holdAt := some s.tau.mono, holdClr := s.tau.holdClr || decide (fld v 31 16 = 0) } ∧
    RegsBut [adr R.TAU_PHC_CTL 0] s t ∧ t = { s with regs := t.regs, tau := t.tau } := by
  refine ⟨?_, rfl, regsBut_rset (fun _ _ => rfl) List.mem_cons_self _, rfl⟩
  rw [holdTimeout, rfld_rsetF_self _ _ _ _ _ _ (by decide) (by decide), Nat.mod_eq_of_lt (fld_lt v 31 16)]

/-- R39: a step that is asked for waits, and what else its write holds is stored. -/
theorem askStep_says (q : StepReq) (v : Word) (s : State) :
    let t := askStep q (holdTimeout v s)
    t.tau = { s.tau with step := some (q, s.tau.mono), holdAt := some s.tau.mono,
                         holdClr := s.tau.holdClr || decide (fld v 31 16 = 0) } ∧
    rfld t R.TAU_PHC_CTL 0 31 16 = fld v 31 16 ∧ RegsBut [adr R.TAU_PHC_CTL 0] s t ∧
    t = { s with regs := t.regs, tau := t.tau } := by
  obtain ⟨hfld, -, hregs, -⟩ := holdTimeout_says v s
  exact ⟨rfl, hfld, hregs, rfl⟩

/-- R42: a discipline ends HOLDOVER. -/
theorem rbit_discipline (s : State) : rbit (discipline s) R.TAU_STATUS 0 8 = false :=
  rbit_rsetF_bit _ _ _ _ _ (by decide)

theorem rfld_discipline_ne {r : Reg} {i : Nat} (h : regAddr r i ≠ regAddr R.TAU_STATUS 0) (s : State) (hi lo : Nat) :
    rfld (discipline s) r i hi lo = rfld s r i hi lo :=
  rfld_rset_ne h (withTau (fun t => { t with lastDisc := t.mono }) s) _ hi lo

theorem regsBut_discipline {as : List Nat} {s t : State} (h : RegsBut as s t) (hs : regAddr R.TAU_STATUS 0 ∈ as) :
    RegsBut as s (discipline t) :=
  regsBut_rsetF (t := withTau (fun x => { x with lastDisc := x.mono }) t) h hs 8 8 0

/-- R41: a two's complement number of 32 bits that is stored reads as it was. -/
theorem signed_of_mod {c : Int} (h1 : -2147483648 ≤ c) (h2 : c < 2147483648) :
    signed 32 ((c % 2 ^ 32).toNat % 2 ^ (31 + 1 - 0)) = c := by
  unfold signed
  split <;> omega

theorem freqWrite_says (c : Int) (h1 : -1000000000 ≤ c) (h2 : c ≤ 1000000000) (s : State) :
    let t := discipline (rsetF s R.TAU_PHC_FREQ 0 31 0 (c % 2 ^ 32).toNat)
    signed 32 (rfld t R.TAU_PHC_FREQ 0 31 0) = c ∧ t.tau = { s.tau with lastDisc := s.tau.mono } ∧
    rbit t R.TAU_STATUS 0 8 = false ∧ RegsBut [adr R.TAU_PHC_FREQ 0, adr R.TAU_STATUS 0] s t ∧
    t = { s with tau := t.tau, regs := t.regs } := by
  refine ⟨?_, rfl, rbit_discipline _, ?_, rfl⟩
  · rw [rfld_discipline_ne (by decide), rfld_rsetF_self _ _ _ _ _ _ (by decide) (by decide),
      signed_of_mod (by omega) (by omega)]
  · exact regsBut_discipline (regsBut_rsetF (regsBut_refl _ s) (by simp) 31 0 _) (by simp)

/-! ### A step of the PHC -/

/-- The registers of the LIU and of all blocks behind it lie from this address on; those of GLB and the TAU below. -/
def liuBase : Nat := 0x200000

/-- What a PHC step ends, and begins, in the PM seconds of the OTN ports (R277): the line interface, its registers, and
event lines. -/
def PmOnly (s t : State) : Prop :=
  t = { s with regs := t.regs, liu := t.liu, sen := t.sen } ∧ ∀ a, a < liuBase → mfind t.regs a = mfind s.regs a

theorem PmOnly.refl (s : State) : PmOnly s s := ⟨rfl, fun _ _ => rfl⟩

theorem PmOnly.trans {s t u : State} (h : PmOnly s t) (h' : PmOnly t u) : PmOnly s u := by
  obtain ⟨hst, hr⟩ := h
  obtain ⟨htu, hr'⟩ := h'
  refine ⟨?_, fun a ha => (hr' a ha).trans (hr a ha)⟩
  rw [htu, hst]

theorem mfind_rset_below {r : Reg} (hr : liuBase ≤ r.base) (s : State) (i : Nat) (v : Word) {a : Nat} (ha : a < liuBase) :
    mfind (rset s r i v).regs a = mfind s.regs a :=
  regsBut_rset (as := [regAddr r i]) (regsBut_refl _ s) (List.mem_singleton_self _) v a
    (by simp only [List.mem_singleton, regAddr]; omega)

theorem pmOnly_setOtn (o : Nat) (x : Otn) (s : State) : PmOnly s (setOtn o x s) := ⟨rfl, fun _ _ => rfl⟩

theorem pmOnly_eventLine (k : Nat) (ev : Word32) (s : State) : PmOnly s (eventLine k ev s) := by
  unfold eventLine
  dsimp only
  split <;> exact ⟨rfl, fun _ _ => rfl⟩

theorem pmOnly_pmCount (o k : Nat) (on : Bool) (s : State) : PmOnly s (pmCount o k on s) := by
  unfold pmCount
  split
  · exact ⟨rfl, fun a ha => mfind_rset_below (by decide) s _ _ ha⟩
  · exact PmOnly.refl s

theorem pmOnly_pmEnd (o : Nat) (part : Bool) (s : State) : PmOnly s (pmEnd o part s) := pmOnly_setOtn _ _ _

theorem pmOnly_pmPublishOne (o : Nat) (s : State) : PmOnly s (pmPublishOne o s) := by
  unfold pmPublishOne
  dsimp only
  split
  · exact PmOnly.refl s
  · refine PmOnly.trans ?_ (pmOnly_eventLine _ _ _)
    have hthree : ∀ (x : State) a b c i j k, PmOnly x (pmCount o i a (pmCount o j b (pmCount o k c x))) :=
      fun x a b c i j k => (pmOnly_pmCount ..).trans ((pmOnly_pmCount ..).trans (pmOnly_pmCount ..))
    have hsix : ∀ x a b c d e f, PmOnly s (pmCount o 3 a (pmCount o 4 b (pmCount o 5 c (pmCount o 0 d (pmCount o 1 e
        (pmCount o 2 f (setOtn o x s))))))) :=
      fun x a b c d e f => (pmOnly_setOtn o x s).trans ((hthree _ d e f 0 1 2).trans (hthree _ a b c 3 4 5))
    split
    · exact (hsix ..).trans (pmOnly_setOtn _ _ _)
    · exact (hsix ..).trans (pmOnly_pmCount _ _ _ _)

theorem pmOnly_pmPublish (o f : Nat) (s : State) : PmOnly s (pmPublish o f s) := by
  induction f generalizing s with
  | zero => exact PmOnly.refl s
  | succ f ih =>
    unfold pmPublish
    split
    · exact (pmOnly_pmPublishOne o s).trans (ih _)
    · exact PmOnly.refl s

theorem pmOnly_foldl {α : Type} {f : State → α → State} (hf : ∀ x a, PmOnly x (f x a)) (l : List α) (s : State) :
    PmOnly s (l.foldl f s) := by
  induction l generalizing s with
  | nil => exact PmOnly.refl s
  | cons a l ih => exact (hf s a).trans (ih _)

theorem pmOnly_pmStepped (forward : Bool) (s : State) : PmOnly s (pmStepped forward s) := by
  refine pmOnly_foldl (fun x o => ?_) _ s
  dsimp only
  split
  · have hset := pmOnly_setOtn o { otnOf x o with pm := { (otnOf x o).pm with part := true, until_ := phcSec (phcNow x) + 1 } } x
    split
    · have hend := hset.trans (pmOnly_pmEnd o true _)
      split
      · exact hend
      · exact hend.trans (pmOnly_pmPublish _ _ _)
    · exact hset
  · exact PmOnly.refl x

theorem applyStep_of_none {s : State} (h : s.tau.step = none) : applyStep s = s := by simp [applyStep, h]

/-- R39: a step takes effect on the tick after its write at the earliest. -/
theorem applyStep_of_now {s : State} {q : StepReq} (h : s.tau.step = some (q, s.tau.mono)) : applyStep s = s := by
  simp [applyStep, h]

theorem applyStep_says {s : State} {q : StepReq} {k : Nat} (h : s.tau.step = some (q, k)) (hk : k ≠ s.tau.mono) :
    let t := applyStep s
    t.tau.phc = stepTarget s.tau.phc q ∧ t.tau.step = none ∧ t.tau.mono = s.tau.mono ∧ t.tau.lastDisc = s.tau.mono ∧
    rbit t R.TAU_STATUS 0 8 = false ∧ t.lkp = s.lkp ∧ t.tmg = s.tmg ∧ t.hif = s.hif := by
  have hpm : ∀ (c : Prop) [Decidable c] (x : State) (b : Bool), PmOnly x (if c then x else pmStepped b x) := by
    intro c _ x b
    split
    · exact PmOnly.refl x
    · exact pmOnly_pmStepped b x
  simp only [applyStep, h, hk, if_false]
  generalize hu : discipline _ = u
  have hnew := hpm (stepTarget s.tau.phc q = s.tau.phc) u (decide (s.tau.phc < stepTarget s.tau.phc q))
  generalize (if stepTarget s.tau.phc q = s.tau.phc then u else
    pmStepped (decide (s.tau.phc < stepTarget s.tau.phc q)) u) = t at hnew ⊢
  obtain ⟨heq, hregs⟩ := hnew
  have hstat : rbit t R.TAU_STATUS 0 8 = rbit u R.TAU_STATUS 0 8 := by
    simp only [rbit, rget, hregs (regAddr R.TAU_STATUS 0) (by decide)]
  refine ⟨?_, ?_, ?_, ?_, hstat.trans (hu ▸ rbit_discipline _), ?_, ?_, ?_⟩ <;>
    simp only [taFallDue, withTau] <;> rw [heq, ← hu] <;> rfl

/-! ### Holdover, the reference and the forwarded time -/

/-- R42: HOLDOVER and HOLD_ENTER are set together, and the TAU interrupts. -/
theorem holdover_says (s : State) :
    let t := tauStatus 3 (rsetF s R.TAU_STATUS 0 8 8 1)
    rbit t R.TAU_STATUS 0 8 = true ∧ rbit t R.TAU_STATUS 0 3 = true ∧
    (s.mgmtDown = false → rbit t R.ERR_INT_STAT 0 5 = true) ∧ t = { s with regs := t.regs, err := t.err, out := t.out } := by
  refine ⟨?_, rbit_tauStatus_self (by decide) _, fun hup => rbit_tauStatus_int hup, (statusOnly_tauStatus 3 _).1⟩
  rw [rbit_tauStatus_ne (by decide) (by decide), rbit_rsetF_bit _ _ _ _ _ (by decide)]
  rfl

/-- R43: the board's reference takes the place of the one lost. -/
theorem refLoss_says (s : State) :
    let t := refLoss s
    rfld t R.TAU_REF_CFG 0 1 0 = 2 ∧ rbit t R.TAU_STATUS 0 1 = true ∧
    (∀ r i, regAddr r i ∉ adr R.TAU_REF_CFG 0 :: adr R.TAU_STATUS 0 :: errRegs → rget t r i = rget s r i) ∧
    t = { s with regs := t.regs, err := t.err, out := t.out } := by
  refine ⟨?_, rbit_tauStatus_self (by decide) _, fun r i hr => ?_, (statusOnly_tauStatus 1 _).1⟩
  · rw [refLoss, rfld, rget_tauStatus_ne (by decide), ← rfld, rfld_rsetF_self _ _ _ _ _ _ (by decide) (by decide)]
    rfl
  · obtain ⟨href, hstat⟩ := not_or.1 (mt List.mem_cons.2 hr)
    rw [refLoss, rget_tauStatus_ne hstat, rget_rsetF_ne href]

theorem holdoverDue_iff (s : State) : holdoverDue s = true ↔
    rfld s R.TAU_PHC_CTL 0 31 16 ≠ 0 ∧ s.tau.holdAt ≠ some s.tau.mono ∧
    (rfld s R.TAU_PHC_CTL 0 31 16 * msTicks < sinceDiscipline s ∨
      (rfld s R.TAU_PHC_CTL 0 31 16 * msTicks = sinceDiscipline s ∧ arrivalsDone s = true)) := by
  simp [holdoverDue, and_assoc]

theorem timeUp_iff (s : State) (d : Nat) :
    timeUp s d = true ↔ d < s.tau.mono ∨ (d = s.tau.mono ∧ arrivalsDone s = true) := by
  simp [timeUp]

/-- Settles O18: each command is the one its conditions name, and what that leaves is said above. -/
theorem phcHoldoverAndReference : Obligations.PhcHoldoverAndReference := by
  refine ⟨fun s v => ⟨rfl, ⟨fun habs => ?abs, fun hrel hnabs => ?rel⟩, fun q hq => ?now, fun q k hq hk => ?applies,
      fun sec ns frac k hq hk hs hn hf => ?set, ?freq⟩,
    fun s v => ⟨⟨_, rfl, holdTimeout_says v s⟩, ⟨fun hh hat hd hout => ?enters, fun hno => ?waits⟩, fun href => ?lost,
      fun hfault => ?fault, rfl⟩⟩
  case abs => exact ⟨_, if_pos habs, askStep_says _ v s⟩
  case rel => exact ⟨_, if_pos (by simp [hrel, hnabs]), askStep_says _ v s⟩
  case now => exact ⟨congrArg _ (applyStep_of_now hq), phcNow_of_step_now hq⟩
  case applies => exact ⟨_, rfl, (applyStep_says hq hk).1.trans (phcNow_of_step_then hq hk).symm⟩
  case set =>
    obtain ⟨hphc, hrest⟩ := applyStep_says hq hk
    exact ⟨_, rfl, hphc.trans (stepTarget_abs hs hn hf _), hrest⟩
  case freq =>
    refine ⟨_, rfl, freqWrite_says _ ?_ ?_ s⟩ <;> split_ifs <;> omega
  case enters =>
    have hdue : holdoverDue s = true := (holdoverDue_iff s).2 ⟨hh, hat, hd⟩
    exact ⟨_, if_pos (by simp [hdue, hout]), holdover_says s⟩
  case waits =>
    have hdue : holdoverDue s ≠ true := by
      rw [ne_eq, holdoverDue_iff]
      rintro ⟨hh, hat, hd⟩
      rcases hno with h0 | hearly | hnow
      · exact hh h0
      · change sinceDiscipline s < rfld s R.TAU_PHC_CTL 0 31 16 * msTicks at hearly
        omega
      · exact hat hnow
    exact if_neg (by simp [hdue])
  case lost =>
    obtain ⟨hsrc, hstat, hother, heq⟩ := refLoss_says s
    exact ⟨_, if_pos href, hsrc, hstat, hother _ _ (by decide), heq⟩
  case fault =>
    obtain ⟨heq, -⟩ := errOnly_errReport 7 1 15 0 0 0
      (withTau (fun t => { t with bridgeFault := true, qPhc := phcNow s }) s)
    refine ⟨_, if_neg (by simp [hfault]), ?_, ?_⟩
    · rw [heq]
      rfl
    · rw [heq]
      rfl

/-! ### The 1PPS pins and the time-of-day UART -/

theorem phcNs_lt (p : Nat) : phcNs p < 2 ^ 30 := Nat.lt_of_lt_of_le (Nat.mod_lt _ (by decide)) (by decide)

/-- R44: the two fields of a record's time. -/
theorem fld_secNsWord (p : Nat) :
    fld (secNsWord p) 61 30 = p / 2 ^ 48 / 1000000000 % 2 ^ 32 ∧ fld (secNsWord p) 29 0 = p / 2 ^ 48 % 1000000000 := by
  have hns : phcNs p < 2 ^ 30 := phcNs_lt p
  have hsec : phcSec p % 2 ^ 32 = p / 2 ^ 48 / 1000000000 % 2 ^ 32 := Nat.mod_mod_of_dvd _ (by decide)
  have hval : (secNsWord p).toNat = p / 2 ^ 48 / 1000000000 % 2 ^ 32 * 2 ^ 30 + phcNs p := by
    rw [secNsWord, BitVec.toNat_ofNat, hsec]
    omega
  change _ ∧ _ = phcNs p
  simp only [fld, hval, Nat.shiftRight_eq_div_pow]
  omega

/-- R45: the 1PPS instant of the second that is the last to have begun is past. -/
theorem ppsInstant_le {s : State} {n : Nat} (h : ppsSecond s = some n) : ppsInstant s n * nsUnits ≤ phcNow s := by
  unfold ppsSecond at h
  dsimp only at h
  split at h
  next hofs =>
    cases h
    unfold ppsInstant phcNanos nsUnits at *
    omega
  next => cases h

/-- R45: the output rises on the first tick that the instant has come. -/
theorem ppsOutEdge_eq {s : State} {n : Nat} (hn : ppsSecond s = some n) (hen : rbit s R.TAU_PPS_CFG 0 0 = true)
    (hlow : s.tau.ppsOut = false) :
    exec .ppsOutEdge s = if phcNow s < ppsInstant s n * 2 ^ 48 + phcTickUnits s then
        .next { s with tau := { s.tau with ppsOut := true, ppsEnd := ppsInstant s n + 1000 * rfld s R.TAU_PPS_CFG 0 27 8 },
                       out := .pps true :: s.out }
      else .next s := by
  change execPpsOutEdge s = _
  have hpast := ppsInstant_le hn
  simp only [execPpsOutEdge, hn, hen, hlow, phcReaches, hpast, Bool.not_false, Bool.and_self, decide_true, Bool.true_and,
    decide_eq_true_eq]
  rfl

/-- Settles O19: each command acts where its conditions hold, and leaves the state where they do not. -/
theorem timePins : Obligations.TimePins := by
  intro s b sec ns
  refine ⟨⟨_, rfl, ?stamp, ?stamp', rfl, ?stamped, rfl⟩, fun hno hlate => ?loses, fun hno => ?keeps,
    fun n hn hen hlow => ppsOutEdge_eq hn hen hlow, fun hout => ?falls, fun hready hen hat => ?sends, fun hen hroom => ?takes,
    fun hno => ?drops, fun e rest hrx => ?pops, fun hrx => ?empty⟩
  case stamp => exact (congrArg (fld · 61 30) (rget_rset_self _ _ _ _)).trans (fld_secNsWord _).1
  case stamp' => exact (congrArg (fld · 29 0) (rget_rset_self _ _ _ _)).trans (fld_secNsWord _).2
  case stamped => exact regsBut_rset (fun _ _ => rfl) List.mem_cons_self _
  case loses =>
    have hup : timeUp s (s.tau.ppsIn + ppsInTicks) = true := (timeUp_iff _ _).2 (.inl hlate)
    exact if_pos (by simp [hno, hup])
  case keeps =>
    refine if_neg fun hlost => ?_
    obtain ⟨hnot, hup⟩ := (Bool.and_eq_true _ _).mp hlost
    rcases hno with hgone | hearly
    · simp [hgone] at hnot
    · have hticks : ppsInTicks = 1760000000 := rfl
      rw [timeUp_iff] at hup
      omega
  case falls =>
    change execPpsOutPulseEnd s = _
    simp only [execPpsOutPulseEnd, ppsDrop, hout, if_true]
    rfl
  case sends =>
    have hdue : s.tau.todAt ≤ phcNanos (phcNow s) := hat
    exact if_pos (by simp [hready, hen, hdue])
  case takes => exact if_pos (by simp [hen, hroom])
  case drops =>
    refine if_neg fun htakes => ?_
    simp only [Bool.and_eq_true, decide_eq_true_eq] at htakes
    rcases hno with hoff | hfull
    · simp [hoff] at htakes
    · omega
  case pops =>
    change execTodRxRead s = _
    simp only [execTodRxRead, hrx]
    rfl
  case empty =>
    change execTodRxRead s = _
    simp only [execTodRxRead, hrx]
    rfl

end Sys2Proof.Proofs
end

section
/-! SUPPORT. The entries of the time-action table (R51 to R57): what arming stores, what disarming removes, and an inbox
event that fires on time. -/

namespace Sys2Proof.Proofs
open Sys2Proof Sys2Proof.Machine Sys2Proof.Laws

/-! ### Arming and disarming -/

theorem noteWas_of_not_late {r : Reg} (h : lateReg r = false) (i : Nat) (s : State) : noteWas r i s = s := by
  simp [noteWas, h]

theorem hostStore_taAct (n : Nat) (v : Word) (s : State) : hostStore false R.TAU_TA_ACT n v s =
    rset s R.TAU_TA_ACT n (clampTaAct (rget s R.TAU_TA_ACT n) (writeReg false R.TAU_TA_ACT (rget s R.TAU_TA_ACT n) v)) := by
  rw [hostStore, noteWas_of_not_late (by decide)]
  rfl

theorem taAct_fields : R.TAU_TA_ACT.fields.Pairwise Apart ∧ ∀ f ∈ R.TAU_TA_ACT.fields, f.lo ≤ f.hi ∧ f.hi < 64 := by
  decide

/-- R51: a write of TAU_TA_ACT stores ACTION, one of the seven, as it is. -/
theorem taAct_action {old v : Word} (h : fld v 55 52 ≤ 6) :
    fld (writeReg false R.TAU_TA_ACT old v) 55 52 = fld v 55 52 := by
  have hfield := fld_writeReg (f := ⟨55, 52, .rw, 0, .enum 7 0⟩) taAct_fields.1 taAct_fields.2 (by decide) false old v
  have hlegal : fld v 55 52 ≤ 7 := by omega
  rw [hfield, writeField, fld_setFld_self _ _ _ _ (by decide) (by decide), clampField, if_pos hlegal]
  exact Nat.mod_eq_of_lt (fld_lt v 55 52)

theorem taAct_arg (old v : Word) : fld (writeReg false R.TAU_TA_ACT old v) 51 0 = fld v 51 0 := by
  have hfield := fld_writeReg (f := ⟨51, 0, .rw, 0, .any⟩) taAct_fields.1 taAct_fields.2 (by decide) false old v
  rw [hfield, writeField, fld_setFld_self _ _ _ _ (by decide) (by decide), clampField, Nat.mod_eq_of_lt (fld_lt v 51 0)]

/-- ACTION and ARG of the entry once an action that has no subfield to be clamped is stored (R52). -/
theorem taAct_stored {v : Word} (h : fld v 55 52 ≤ 6) (n : Nat) (s : State) :
    rfld (hostStore false R.TAU_TA_ACT n v s) R.TAU_TA_ACT n 55 52 = fld v 55 52 ∧
    rfld (hostStore false R.TAU_TA_ACT n v s) R.TAU_TA_ACT n 51 0 = fld v 51 0 := by
  have hplain : ∀ old, clampTaAct old (writeReg false R.TAU_TA_ACT old v) = writeReg false R.TAU_TA_ACT old v := by
    intro old
    refine if_neg fun h7 => ?_
    rw [taAct_action h] at h7
    omega
  rw [hostStore_taAct, hplain]
  simp only [rfld, rget_rset_self]
  exact ⟨taAct_action h, taAct_arg _ v⟩

/-- The three bits and fields of an entry that hardware sets: ARM, STATE and FAIL (R51). -/
def taShow (n arm st fail : Nat) (s : State) : State :=
  rsetF (rsetF (rsetF s R.TAU_TA_ACT n 63 63 arm) R.TAU_TA_ACT n 62 60 st) R.TAU_TA_ACT n 59 56 fail

theorem taShow_says (n arm st fail : Nat) (s : State) :
    let t := taShow n arm st fail s
    rbit t R.TAU_TA_ACT n 63 = arm.testBit 0 ∧ rfld t R.TAU_TA_ACT n 62 60 = st % 8 ∧
    rfld t R.TAU_TA_ACT n 59 56 = fail % 16 ∧ rfld t R.TAU_TA_ACT n 55 52 = rfld s R.TAU_TA_ACT n 55 52 ∧
    rfld t R.TAU_TA_ACT n 51 0 = rfld s R.TAU_TA_ACT n 51 0 ∧ RegsBut [adr R.TAU_TA_ACT n] s t ∧
    t = { s with regs := t.regs } := by
  have hone : adr R.TAU_TA_ACT n ∈ [adr R.TAU_TA_ACT n] := List.mem_singleton_self _
  refine ⟨?_, ?_, rfld_rsetF_self _ _ _ _ _ _ (by decide) (by decide), ?_, ?_,
    regsBut_rsetF (regsBut_rsetF (regsBut_rsetF (regsBut_refl _ s) hone _ _ _) hone _ _ _) hone _ _ _, rfl⟩ <;>
    unfold taShow
  · rw [rbit_rsetF_apart _ _ _ _ (by decide) (by decide) (by decide),
      rbit_rsetF_apart _ _ _ _ (by decide) (by decide) (by decide), rbit_rsetF_bit _ _ _ _ _ (by decide)]
  · rw [rfld_rsetF_apart _ _ _ _ (by decide) (by decide) (by decide), rfld_rsetF_self _ _ _ _ _ _ (by decide) (by decide)]
    rfl
  all_goals
    rw [rfld_rsetF_apart _ _ _ _ (by decide) (by decide) (by decide),
      rfld_rsetF_apart _ _ _ _ (by decide) (by decide) (by decide),
      rfld_rsetF_apart _ _ _ _ (by decide) (by decide) (by decide)]

theorem regsBut_trans {as : List Nat} {s t u : State} (h : RegsBut as s t) (h' : RegsBut as t u) : RegsBut as s u :=
  fun a ha => (h' a ha).trans (h a ha)

/-- The table once an entry is armed with the instant its registers name: late where that has passed, due where it is now
(R54, R56). -/
def taPut (n : Nat) (s : State) (t : Tau) : Tau :=
  { t with
    ta := mput t.ta n ⟨taInstant s n, decide (taInstant s n * nsUnits < phcNow s), none⟩
    taDue := if taInstant s n * nsUnits = phcNow s then t.taDue.take t.taOld ++ insertAsc n (t.taDue.drop t.taOld)
      else t.taDue }

/-- The registers of an entry once it is armed. -/
def taLoaded (n : Nat) (v : Word) (s : State) : State := taShow n 1 1 0 (hostStore false R.TAU_TA_ACT n v s)

theorem taArm_arms {s : State} {n : TaIdx} {v : Word} (hidle : rbit s R.TAU_TA_ACT n.val 63 = false)
    (harm : bit v 63 = true) :
    exec (.taArm n v) s = .next (withTau (taPut n.val (taLoaded n.val v s)) (taLoaded n.val v s)) := by
  change execTaArm n v s = _
  simp only [execTaArm, taArmed, hidle, harm, if_true, Bool.false_eq_true, if_false]
  rfl

theorem taLoaded_says {v : Word} (hact : fld v 55 52 ≤ 6) (n : Nat) (s : State) :
    let t := taLoaded n v s
    rbit t R.TAU_TA_ACT n 63 = true ∧ rfld t R.TAU_TA_ACT n 62 60 = 1 ∧ rfld t R.TAU_TA_ACT n 59 56 = 0 ∧
    rfld t R.TAU_TA_ACT n 55 52 = fld v 55 52 ∧ rfld t R.TAU_TA_ACT n 51 0 = fld v 51 0 ∧
    RegsBut [adr R.TAU_TA_ACT n] s t ∧ t = { s with regs := t.regs } := by
  obtain ⟨haction, harg⟩ := taAct_stored hact n s
  have hstored : RegsBut [adr R.TAU_TA_ACT n] s (hostStore false R.TAU_TA_ACT n v s) ∧
      hostStore false R.TAU_TA_ACT n v s = { s with regs := (hostStore false R.TAU_TA_ACT n v s).regs } := by
    rw [hostStore_taAct]
    exact ⟨regsBut_rset (regsBut_refl _ s) (List.mem_singleton_self _) _, rfl⟩
  obtain ⟨hbit, hst, hfail, haction', harg', hregs, heq⟩ := taShow_says n 1 1 0 (hostStore false R.TAU_TA_ACT n v s)
  refine ⟨hbit, hst, hfail, haction'.trans haction, harg'.trans harg, regsBut_trans hstored.1 hregs, ?_⟩
  unfold taLoaded
  rw [heq, hstored.2]

theorem taArm_says {s : State} {n : TaIdx} {v : Word} (hidle : rbit s R.TAU_TA_ACT n.val 63 = false)
    (harm : bit v 63 = true) (hact : fld v 55 52 ≤ 6) : Completes (.taArm n v) s fun t =>
      rbit t R.TAU_TA_ACT n.val 63 = true ∧ rfld t R.TAU_TA_ACT n.val 62 60 = 1 ∧ rfld t R.TAU_TA_ACT n.val 59 56 = 0 ∧
      rfld t R.TAU_TA_ACT n.val 55 52 = fld v 55 52 ∧ rfld t R.TAU_TA_ACT n.val 51 0 = fld v 51 0 ∧
      (mfind t.tau.ta n.val).isSome = true ∧ (∀ m, m ≠ n.val → mfind t.tau.ta m = mfind s.tau.ta m) ∧
      RegsBut [adr R.TAU_TA_ACT n.val] s t ∧ t = { s with regs := t.regs, tau := t.tau } := by
  have hloaded := taLoaded_says hact n.val s
  rw [Completes, taArm_arms hidle harm]
  generalize taLoaded n.val v s = u at hloaded
  obtain ⟨hbit, hst, hfail, haction, harg, hregs, heq⟩ := hloaded
  have htau : u.tau = s.tau := by rw [heq]
  refine ⟨_, rfl, hbit, hst, hfail, haction, harg, ?_, fun m hm => ?_, hregs, by rw [withTau, heq]⟩
  · exact congrArg Option.isSome (mfind_mput_self u.tau.ta n.val _)
  · exact (mfind_mput_ne u.tau.ta _ hm).trans (by rw [htau])

/-- The table without an entry that is disarmed (R54). -/
def taDrop (n : Nat) (t : Tau) : Tau :=
  { t with
    ta := mdel t.ta n
    taDue := t.taDue.filter (fun m => decide (m ≠ n))
    taOld := (t.taDue.take t.taOld).countP (fun m => decide (m ≠ n)) }

theorem taDisarm_disarms {s : State} {n : TaIdx} {v : Word} (harmed : rbit s R.TAU_TA_ACT n.val 63 = true)
    (hoff : bit v 63 = false) : exec (.taDisarm n v) s =
      .next (withTau (taDrop n.val) (rsetF (rsetF s R.TAU_TA_ACT n.val 63 63 0) R.TAU_TA_ACT n.val 62 60 0)) := by
  change execTaDisarm n v s = _
  simp only [execTaDisarm, taArmed, harmed, hoff, if_true, Bool.false_eq_true, if_false]
  rfl

theorem taDisarm_says {s : State} {n : TaIdx} {v : Word} (harmed : rbit s R.TAU_TA_ACT n.val 63 = true)
    (hoff : bit v 63 = false) : Completes (.taDisarm n v) s fun t =>
      rbit t R.TAU_TA_ACT n.val 63 = false ∧ rfld t R.TAU_TA_ACT n.val 62 60 = 0 ∧ mfind t.tau.ta n.val = none ∧
      n.val ∉ t.tau.taDue ∧ RegsBut [adr R.TAU_TA_ACT n.val] s t ∧ t = { s with regs := t.regs, tau := t.tau } := by
  have hone : adr R.TAU_TA_ACT n.val ∈ [adr R.TAU_TA_ACT n.val] := List.mem_singleton_self _
  have hoffed : rbit (rsetF (rsetF s R.TAU_TA_ACT n.val 63 63 0) R.TAU_TA_ACT n.val 62 60 0) R.TAU_TA_ACT n.val 63
      = false := by
    rw [rbit_rsetF_apart _ _ _ _ (by decide) (by decide) (by decide), rbit_rsetF_bit _ _ _ _ _ (by decide)]
    rfl
  have hidle : rfld (rsetF (rsetF s R.TAU_TA_ACT n.val 63 63 0) R.TAU_TA_ACT n.val 62 60 0) R.TAU_TA_ACT n.val 62 60
      = 0 := rfld_rsetF_self _ _ _ _ _ _ (by decide) (by decide)
  have hregs := regsBut_rsetF (regsBut_rsetF (regsBut_refl _ s) hone 63 63 0) hone 62 60 0
  refine ⟨_, taDisarm_disarms harmed hoff, hoffed, hidle, ?_, ?_, hregs, rfl⟩
  · exact (mfind_mdel s.tau.ta _ _).trans (if_pos rfl)
  · simp [withTau, taDrop]

/-! ### Firing -/

/-- The words of one entry lie apart (R51). -/
theorem taAct_ne_time (n : Nat) : regAddr R.TAU_TA_ACT n ≠ regAddr R.TAU_TA_TIME n ∧
    regAddr R.TAU_TA_ACT n ≠ regAddr R.TAU_TA_PERIOD n := by
  simp only [regAddr, R.TAU_TA_ACT, R.TAU_TA_TIME, R.TAU_TA_PERIOD]
  omega

/-- R55: a one-shot entry is no longer armed once it has fired. -/
theorem taNext_once {n : Nat} {s : State} (hact : 6 ≤ rfld s R.TAU_TA_ACT n 55 52)
    (hp : rfld s R.TAU_TA_PERIOD n 21 0 = 0) (e : TaRun) :
    let t := taNext n e s
    rbit t R.TAU_TA_ACT n 63 = false ∧ rfld t R.TAU_TA_ACT n 62 60 = rfld s R.TAU_TA_ACT n 62 60 ∧
    t.tau = { s.tau with ta := mdel s.tau.ta n } ∧ t.sen = s.sen := by
  simp only [taNext, hact, hp, if_true, Nat.mul_zero]
  exact ⟨rbit_rsetF_bit _ _ _ _ _ (by decide),
    rfld_rsetF_apart (withTau (fun t => { t with ta := mdel t.ta n }) s) _ _ _ (by decide) (by decide) (by decide), rfl, rfl⟩

/-- R55, R56: a periodic entry that is on time waits for its next instant. -/
theorem taNext_periodic {n : Nat} {s : State} {e : TaRun} (hact : 6 ≤ rfld s R.TAU_TA_ACT n 55 52)
    (hp : rfld s R.TAU_TA_PERIOD n 21 0 ≠ 0) (htime : e.late = false) :
    let t := taNext n e s
    rget t R.TAU_TA_ACT n = rget s R.TAU_TA_ACT n ∧
    t.tau = { s.tau with ta := mput s.tau.ta n ⟨e.instant + 1000 * rfld s R.TAU_TA_PERIOD n 21 0, false, none⟩ } ∧
    t.sen = s.sen := by
  have hp' : 1000 * rfld s R.TAU_TA_PERIOD n 21 0 ≠ 0 := by omega
  simp only [taNext, hact, hp', htime, if_true, if_false, Bool.false_eq_true, Nat.one_mul]
  refine ⟨?_, by rw [rset_tau, rcount_tau, withTau], by rw [rset_sen, rcount_sen, withTau]⟩
  rw [rget_rset_ne (taAct_ne_time n).1, rget_rcount_ne (taAct_ne_time n).2]
  rfl

/-- An inbox event put out by entry `n` (R52), with its STATE and FAIL. -/
def taSent (n a : Nat) (s : State) : State :=
  occur 1 1 7 1 (rsetF (rsetF (sendInbox (a % 8) (a / 8 % 1024) 0 (BitVec.ofNat 32 (a / 2 ^ 13)) none s)
    R.TAU_TA_ACT n 62 60 2) R.TAU_TA_ACT n 59 56 0)

theorem taFireOne_inbox {n : Nat} {e : TaRun} {s : State} (hact : rfld s R.TAU_TA_ACT n 55 52 = 7)
    (htime : e.late = false) : taFireOne n e s = taNext n e (taSent n (rfld s R.TAU_TA_ACT n 51 0) s) := by
  unfold rfld at hact
  simp only [taFireOne, hact, htime, taAction, taSent, rfld, ne_eq, not_true_eq_false, if_false, Bool.false_eq_true]

theorem taSent_says (n a : Nat) (s : State) :
    let u := taSent n a s
    rfld u R.TAU_TA_ACT n 62 60 = 2 ∧ rbit u R.TAU_TA_ACT n 63 = rbit s R.TAU_TA_ACT n 63 ∧
    rfld u R.TAU_TA_ACT n 55 52 = rfld s R.TAU_TA_ACT n 55 52 ∧
    rfld u R.TAU_TA_PERIOD n 21 0 = rfld s R.TAU_TA_PERIOD n 21 0 ∧ u.tau = s.tau ∧
    u.sen.arrivals = s.sen.arrivals ++ [⟨640 * (a % 8) + min (a / 8 % 1024) 639,
      ⟨0, BitVec.ofNat 32 (a / 2 ^ 13), none, 0⟩⟩] := by
  generalize hx : sendInbox (a % 8) (a / 8 % 1024) 0 (BitVec.ofNat 32 (a / 2 ^ 13)) none s = x
  have hregs : x.regs = s.regs := by rw [← hx]; rfl
  have hset : (taSent n a s).regs = (rsetF (rsetF x R.TAU_TA_ACT n 62 60 2) R.TAU_TA_ACT n 59 56 0).regs := by
    rw [← hx]; rfl
  dsimp only
  refine ⟨?_, ?_, ?_, ?_, rfl, ?_⟩
  · rw [rfld_of_regs hset, rfld_rsetF_apart _ _ _ _ (by decide) (by decide) (by decide),
      rfld_rsetF_self _ _ _ _ _ _ (by decide) (by decide)]
    rfl
  · rw [rbit, rget_of_regs hset, ← rbit, rbit_rsetF_apart _ _ _ _ (by decide) (by decide) (by decide),
      rbit_rsetF_apart _ _ _ _ (by decide) (by decide) (by decide), rbit, rget_of_regs hregs, ← rbit]
  · rw [rfld_of_regs hset, rfld_rsetF_apart _ _ _ _ (by decide) (by decide) (by decide),
      rfld_rsetF_apart _ _ _ _ (by decide) (by decide) (by decide), rfld_of_regs hregs]
  · have hne := (taAct_ne_time n).2.symm
    rw [rfld_of_regs hset, rfld, rget_rsetF_ne hne, rget_rsetF_ne hne, rget_of_regs hregs, ← rfld]
  · simp [taSent, sendInbox]

/-- An entry leaves the due list and counts among those fired on the tick (R53). -/
def taTaken (rest : List Nat) (s : State) : State :=
  withTau (fun t => { t with taDue := rest, taOld := t.taOld - 1, taFired := t.taFired + 1 }) s

/-- The first entry that is due is taken off the list and fires, if it is armed (R53). -/
def taFireFront (n : Nat) (rest : List Nat) (s : State) : Out :=
  match mfind s.tau.ta n with
  | some e => .next (taFireOne n e (taTaken rest s))
  | none => .next (taTaken rest s)

/-- R10, R53: an entry that is due fires after the tick's arrivals and a commit that waited for them. -/
theorem taFire_front {s : State} {n : Nat} {rest : List Nat} (hdue : s.tau.taDue = n :: rest) (hfew : s.tau.taFired < 8)
    (hdone : arrivalsDone s = true) : exec .taFire s = taFireFront n rest (commitEnd s) := by
  have hfew' : ¬ 8 ≤ s.tau.taFired := by omega
  change execTaFire s = _
  simp only [execTaFire, hdue, hfew', hdone, decide_false, Bool.not_true, Bool.or_self, Bool.false_eq_true, if_false]
  rfl

theorem commitEnd_of_none {s : State} (h : s.tau.commitDue = false) : commitEnd s = s := if_neg (by simp [h])

theorem taFire_fires {s : State} {n : Nat} {e : TaRun} {rest : List Nat} (hdue : s.tau.taDue = n :: rest)
    (hfew : s.tau.taFired < 8) (hdone : arrivalsDone s = true) (hcommit : s.tau.commitDue = false)
    (he : mfind s.tau.ta n = some e) : exec .taFire s = .next (taFireOne n e (taTaken rest s)) := by
  rw [taFire_front hdue hfew hdone, commitEnd_of_none hcommit]
  simp only [taFireFront, he]

/-- Settles O21: arming and disarming are said above; an inbox event that fires on time leaves its entry idle, or waiting
for its next instant. -/
theorem timeActionEntries : Obligations.TimeActionEntries := by
  intro s n v
  refine ⟨taArm_says, fun harmed => if_pos harmed, taDisarm_says, ?fires⟩
  intro e rest hdue hfew hdone hcommit he htime hact a p
  obtain ⟨hst, harm, hact', hp', htau, harr⟩ := taSent_says n.val a (taTaken rest s)
  have hact7 : rfld (taTaken rest s) R.TAU_TA_ACT n.val 55 52 = 7 := hact
  have hseven : 6 ≤ rfld (taSent n.val a (taTaken rest s)) R.TAU_TA_ACT n.val 55 52 := by
    omega
  have hp : rfld (taSent n.val a (taTaken rest s)) R.TAU_TA_PERIOD n.val 21 0 = p := hp'
  have hone : taFireOne n.val e (taTaken rest s) = taNext n.val e (taSent n.val a (taTaken rest s)) :=
    taFireOne_inbox hact7 htime
  rw [Completes, taFire_fires hdue hfew hdone hcommit he, hone]
  refine ⟨_, rfl, ?_⟩
  generalize taSent n.val a (taTaken rest s) = u at *
  by_cases h0 : p = 0
  · obtain ⟨harmed, hstate, htau', hsen⟩ := taNext_once hseven (hp.trans h0) e
    refine ⟨by rw [hsen, harr]; rfl, hstate.trans hst, by rw [htau', htau]; rfl, by rw [htau', htau]; rfl,
      fun _ => ⟨harmed, ?_⟩, fun hne => absurd h0 hne⟩
    rw [htau', mfind_mdel, if_pos rfl]
  · obtain ⟨hword, htau', hsen⟩ := taNext_periodic (e := e) hseven (hp ▸ h0) htime
    refine ⟨by rw [hsen, harr]; rfl, (congrArg (fld · 62 60) hword).trans hst, by rw [htau', htau]; rfl,
      by rw [htau', htau]; rfl, fun hz => absurd hz h0, fun _ => ⟨(congrArg (bit · 63) hword).trans harm, ?_⟩⟩
    rw [htau', mfind_mput_self, hp]

end Sys2Proof.Proofs
end

section
/-! SUPPORT. What drops or rotates the versions of the tables reaches the lookup tables and the TCAM alone (R60, R62, R67,
R72). -/

namespace Sys2Proof.Proofs
open Sys2Proof Sys2Proof.Machine Sys2Proof.Laws

/-- Nothing changes but the lookup tables and the TCAM. -/
def TablesOnly (s t : State) : Prop := t = { s with lkp := t.lkp, tcam := t.tcam }

theorem TablesOnly.refl (s : State) : TablesOnly s s := rfl

theorem TablesOnly.trans {s t u : State} (h : TablesOnly s t) (h' : TablesOnly t u) : TablesOnly s u := by
  unfold TablesOnly at *
  rw [h', h]

theorem TablesOnly.tau {s t : State} (h : TablesOnly s t) : t.tau = s.tau := by rw [h]

theorem TablesOnly.regs {s t : State} (h : TablesOnly s t) : t.regs = s.regs := by rw [h]

theorem TablesOnly.sen {s t : State} (h : TablesOnly s t) : t.sen = s.sen := by rw [h]

theorem TablesOnly.pending {s t : State} (h : TablesOnly s t) : t.pending = s.pending := by rw [h]

theorem tablesOnly_withLkp (f : Lkp → Lkp) (s : State) : TablesOnly s (withLkp f s) := rfl

theorem tablesOnly_foldl {α : Type} {f : State → α → State} (hf : ∀ x a, TablesOnly x (f x a)) (l : List α) (s : State) :
    TablesOnly s (l.foldl f s) := by
  induction l generalizing s with
  | nil => exact TablesOnly.refl s
  | cons a l ih => exact (hf s a).trans (ih _)

theorem tablesOnly_removeEnt (t k : Nat) (s : State) : TablesOnly s (removeEnt t k s) := by
  unfold removeEnt
  dsimp only
  split
  · exact TablesOnly.refl s
  · split <;> rfl

theorem tablesOnly_updEnt (t k : Nat) (e : Ent) (s : State) : TablesOnly s (updEnt t k e s) := by
  unfold updEnt
  split
  · exact tablesOnly_removeEnt t k s
  · exact tablesOnly_withLkp _ s

theorem tablesOnly_mapLpm (f : Vers Nat → Vers Nat) (s : State) : TablesOnly s (mapLpm f s) := by
  refine tablesOnly_foldl (fun x e => ?_) _ s
  split <;> rfl

theorem tablesOnly_lkpDrop (s : State) : TablesOnly s (lkpDrop s) := by
  unfold lkpDrop
  split
  · exact ((tablesOnly_foldl (fun x _ => tablesOnly_updEnt _ _ _ x) _ s).trans (tablesOnly_mapLpm _ _)).trans
      (tablesOnly_withLkp _ _)
  · exact TablesOnly.refl s

theorem tablesOnly_mapRows (f : TRow → TRow) (s : State) : TablesOnly s (mapRows f s) := rfl

theorem tablesOnly_tcamDrop (s : State) : TablesOnly s (tcamDrop s) := by
  unfold tcamDrop
  split <;> rfl

theorem tablesOnly_mapVers (f : {α : Type} → Vers α → Vers α) (g : TRow → TRow) (s : State) :
    TablesOnly s (mapVers f g s) :=
  ((tablesOnly_foldl (fun x _ => tablesOnly_updEnt _ _ _ x) _ s).trans (tablesOnly_mapLpm f _)).trans
    ((tablesOnly_withLkp _ _).trans (tablesOnly_mapRows g _))

theorem tablesOnly_jobCommit (s : State) : TablesOnly s (jobCommit s) := by
  unfold jobCommit
  split
  · split <;> rfl
  · rfl

/-! ### The rows of the TCAM -/

theorem mem_mapRows {f : TRow → TRow} {s : State} {e : Nat × TRow} (h : e ∈ (mapRows f s).tcam.rows) :
    ∃ r, e.2 = normRow (f r) := by
  simp only [mapRows, withTcam, mmap, List.mem_filterMap] at h
  obtain ⟨a, -, ha⟩ := h
  refine ⟨a.2, ?_⟩
  split at ha
  · cases ha
  · cases ha
    rfl

/-- A row that is kept as a hole has no pending and no previous version; another keeps its flags. -/
theorem normRow_flags (x : TRow) : (x.pset = false → (normRow x).pset = false) ∧
    (x.vset = false → (normRow x).vset = false) := by
  unfold normRow
  split
  · exact ⟨fun _ => rfl, fun _ => rfl⟩
  · exact ⟨id, id⟩

end Sys2Proof.Proofs
end

section
/-! SUPPORT. What the commands of the tables and the memories behind them, and the judgements of a tick, leave of the clocks:
the TAU but for the count of pending versions, its registers, and what a tick clears (R36, R402, R456). -/

namespace Sys2Proof.Proofs
open Sys2Proof Sys2Proof.Machine Sys2Proof.Laws

/-- What a tick's work on the tables, the pools and the memories does not reach: the TAU but for PEND_COUNT, its registers
and those of GLB, the registers' old values, the management complex, the resets and the requests that wait for the
tick's end, and the threads. -/
structure Still where
  tau : Tau
  low : Nat → Option Word
  was : SMap Word
  down : Bool
  due : List Nat
  arrived : List CphReq
  threads : SMap Thread

/-- That part of a state. -/
def stillView (s : State) : Still :=
  ⟨{ s.tau with pendCount := 0 }, fun a => if a < liuBase then mfind s.regs a else none, s.was, s.mgmtDown, s.hif.ctlDue,
    s.cph.arrived, s.sen.threads⟩

/-- That part without the threads. -/
def clockView (s : State) : Still := { stillView s with threads := [] }

theorem clock_of_still {s t : State} (h : stillView t = stillView s) : clockView t = clockView s := by
  simp only [clockView, h]

theorem threads_of_still {s t : State} (h : stillView t = stillView s) : t.sen.threads = s.sen.threads :=
  congrArg Still.threads h

theorem thr_of_still {s t : State} (h : stillView t = stillView s) (k : Nat) : thr t k = thr s k := by
  simp only [thr, threads_of_still h]

theorem rget_of_low {s t : State} (h : (clockView t).low = (clockView s).low) {r : Reg} {i : Nat}
    (hr : regAddr r i < liuBase) : rget t r i = rget s r i := by
  have hlow := congrFun h (regAddr r i)
  simp only [clockView, stillView, hr, if_true] at hlow
  simp only [rget, hlow]

theorem rget_of_clock {s t : State} (h : clockView t = clockView s) {r : Reg} {i : Nat} (hr : regAddr r i < liuBase) :
    rget t r i = rget s r i := rget_of_low (congrArg Still.low h) hr

/-! ### Plain updates -/

theorem still_rset {r : Reg} (hr : liuBase ≤ r.base) (s : State) (i : Nat) (v : Word) :
    stillView (rset s r i v) = stillView s := by
  have hlow : ∀ a, (if a < liuBase then mfind (rset s r i v).regs a else none) =
      if a < liuBase then mfind s.regs a else none := by
    intro a
    split
    next ha => exact mfind_rset_below hr s i v ha
    next => rfl
  simp only [stillView, hlow, rset_tau, rset_was, rset_mgmtDown, rset_hif, rset_cph, rset_sen]

theorem still_rsetF {r : Reg} (hr : liuBase ≤ r.base) (s : State) (i hi lo v : Nat) :
    stillView (rsetF s r i hi lo v) = stillView s := still_rset hr s i _

theorem still_rcount {r : Reg} (hr : liuBase ≤ r.base) (s : State) (i hi lo n : Nat) :
    stillView (rcount s r i hi lo n) = stillView s := still_rset hr s i _

theorem still_foldl {α : Type} {f : State → α → State} (hf : ∀ x a, stillView (f x a) = stillView x) (l : List α)
    (s : State) : stillView (l.foldl f s) = stillView s := by
  induction l generalizing s with
  | nil => rfl
  | cons a l ih => exact (ih _).trans (hf s a)

theorem still_of_tables {s t : State} (h : TablesOnly s t) : stillView t = stillView s := by
  rw [h]
  rfl

theorem still_of_err {s t : State} (h : ErrOnly s t) : stillView t = stillView s := by
  obtain ⟨heq, hregs⟩ := h
  have hlow : ∀ a, (if a < liuBase then mfind t.regs a else none) = if a < liuBase then mfind s.regs a else none := by
    intro a
    split
    next ha =>
      refine hregs a fun hmem => ?_
      have hbase : ∀ b ∈ errRegs, liuBase ≤ b := by decide
      exact absurd ha (Nat.not_lt.2 (hbase a hmem))
    next => rfl
  rw [stillView, funext hlow, heq]
  rfl

theorem still_withMem (m : MemCtl) (f : Mem → Mem) (s : State) : stillView (withMem m f s) = stillView s := by
  cases m <;> rfl

end Sys2Proof.Proofs
end

section
/-! SUPPORT. A held command of the pending epoch that is taken before a commit is judged (R204, R235), and the memory
accesses it makes (R371, R374), leave the clocks and the threads. -/

namespace Sys2Proof.Proofs
open Sys2Proof Sys2Proof.Machine Sys2Proof.Laws

/-! ### The memories -/

/-- The registers of both memory controllers lie behind those of the LIU (R26). -/
theorem liuBase_le_mReg {d h : Reg} (hd : liuBase ≤ d.base) (hh : liuBase ≤ h.base) (m : MemCtl) :
    liuBase ≤ (mReg m d h).base := by cases m <;> assumption

theorem still_mReg {d h : Reg} (hd : liuBase ≤ d.base) (hh : liuBase ≤ h.base) (m : MemCtl) (s : State) (i : Nat) (v : Word) :
    stillView (rset s (mReg m d h) i v) = stillView s := still_rset (liuBase_le_mReg hd hh m) s i v

@[simp] theorem still_errReport (cls blk kind unit code : Nat) (detail : Word) (s : State) :
    stillView (errReport cls blk kind unit code detail s) = stillView s := still_of_err (errOnly_errReport ..)

@[simp] theorem still_eccAddr (m : MemCtl) (kind c a : Nat) (s : State) : stillView (eccAddr m kind c a s) = stillView s :=
  still_mReg (by decide) (by decide) m s _ _

/-- The error counts of a controller and of one of its channels (R386). -/
theorem still_eccCount (m : MemCtl) (c hi lo hi' lo' : Nat) (s : State) :
    stillView (rcount (rcount s (rECC m) 0 hi lo 1) (rCH m) c hi' lo' 1) = stillView s :=
  (still_mReg (by decide) (by decide) m _ _ _).trans (still_mReg (by decide) (by decide) m s _ _)

@[simp] theorem still_eccEvent (m : MemCtl) (a : Nat) (e : EccResult) (s : State) :
    stillView (eccEvent m a e s) = stillView s := by
  cases e <;> simp [eccEvent, still_eccCount]

@[simp] theorem still_lostRead (m : MemCtl) (a : Nat) (s : State) : stillView (lostRead m a s) = stillView s := by
  simp [lostRead]

@[simp] theorem still_mapLock (m : MemCtl) (s : State) : stillView (mapLock m s) = stillView s :=
  still_mReg (by decide) (by decide) m s _ _

@[simp] theorem still_showBusy (m : MemCtl) (s : State) : stillView (showBusy m s) = stillView s :=
  still_mReg (by decide) (by decide) m s _ _

@[simp] theorem still_wakeChan (m : MemCtl) (c : Nat) (s : State) : stillView (wakeChan m c s) = stillView s := by
  unfold wakeChan
  split
  · exact (still_showBusy m _).trans (still_withMem m _ s)
  · rfl

@[simp] theorem still_memAsk (m : MemCtl) (a : Nat) (s : State) : stillView (memAsk m a s) = stillView s := by
  unfold memAsk
  dsimp only
  split
  · exact still_mapLock m s
  · rw [still_wakeChan, touchChan, still_withMem, still_mapLock]

@[simp] theorem still_memServe (m : MemCtl) (a : Nat) (write : Bool) (s : State) :
    stillView (memServe m a write s) = stillView s := by
  unfold memServe
  dsimp only
  split
  · rfl
  · split <;> exact still_withMem m _ s

@[simp] theorem still_memTake (m : MemCtl) (a : Nat) (s : State) : stillView (memTake m a s) = stillView s :=
  still_withMem m _ s

@[simp] theorem still_memPost (m : MemCtl) (a : Nat) (write : Bool) (s : State) :
    stillView (memPost m a write s) = stillView s := by
  unfold memPost
  dsimp only
  split
  · rw [memHold, still_withMem, still_memAsk]
  · rw [still_memServe, still_memAsk]

@[simp] theorem still_memUse (m : MemCtl) (a : Nat) (write : Bool) (s : State) :
    stillView (memUse m a write s) = stillView s := by
  unfold memUse
  split <;> simp

@[simp] theorem still_memPosts (m : MemCtl) (as : List Nat) (write : Bool) (s : State) :
    stillView (memPosts m as write s) = stillView s := still_foldl (fun x a => still_memPost m a write x) as s

@[simp] theorem still_memUses (m : MemCtl) (as : List Nat) (write : Bool) (s : State) :
    stillView (memUses m as write s) = stillView s := still_foldl (fun x a => still_memUse m a write x) as s

/-! ### Commands of the lookup tables -/

@[simp] theorem still_withLkp (f : Lkp → Lkp) (s : State) : stillView (withLkp f s) = stillView s := rfl

@[simp] theorem still_addPend (n : Nat) (s : State) : stillView (addPend n s) = stillView s := rfl

@[simp] theorem still_dropPend (s : State) : stillView (dropPend s) = stillView s := rfl

@[simp] theorem still_pendMove (a b : Bool) (s : State) : stillView (pendMove a b s) = stillView s := by
  unfold pendMove
  split
  · rfl
  · split <;> rfl

@[simp] theorem still_loadData (d : Nat) (s : State) : stillView (loadData d s) = stillView s :=
  (still_rset (by decide) _ _ _).trans (still_rset (by decide) s _ _)

@[simp] theorem still_setLpm (write : Bool) (k : Nat) (l : SMap (Vers Nat)) (s : State) :
    stillView (setLpm write k l s) = stillView s := rfl

@[simp] theorem still_updEnt (t k : Nat) (e : Ent) (s : State) : stillView (updEnt t k e s) = stillView s :=
  still_of_tables (tablesOnly_updEnt t k e s)

@[simp] theorem still_freshPlace (t : Nat) (l : Loc) (s : State) : stillView (freshPlace t l s) = stillView s := rfl

@[simp] theorem still_putEnt (t k : Nat) (es : SMap Ent) (e : Ent) (s : State) :
    stillView (putEnt t k es e s) = stillView s := by
  unfold putEnt
  dsimp only
  split <;> rfl

@[simp] theorem still_freshEnt (t k : Nat) (s : State) : stillView (freshEnt t k s) = stillView s := by
  unfold freshEnt
  split <;> rfl

@[simp] theorem still_insRefused (t : Nat) (s : State) : stillView (insRefused t s) = stillView s := by
  unfold insRefused
  split
  · exact still_rcount (by decide) s _ _ _ _
  · rfl

theorem still_storeEnt {t k : Nat} {epoch : Bool} {d : EData} {hit : Bool} {age : Nat} {s s' : State}
    (h : storeEnt t k epoch d hit age s = some s') : stillView s' = stillView s := by
  unfold storeEnt at h
  split at h
  · dsimp only at h
    split at h <;> cases h <;> simp
  · split at h <;> cases h
    simp

@[simp] theorem still_pfxCmd (c : LkpCmd) (s : State) : stillView (pfxCmd c s).2 = stillView s := by
  unfold pfxCmd
  dsimp only
  split
  · split
    · rfl
    · split <;> simp
  · split
    · rfl
    · split
      · split <;> simp
      · rfl

@[simp] theorem still_resCmd (c : LkpCmd) (s : State) : stillView (resCmd c s).2 = stillView s := by
  unfold resCmd
  dsimp only
  split
  · split
    · rfl
    · split <;> simp
  · split
    · rfl
    · split <;> simp

@[simp] theorem still_entRead (c : LkpCmd) (s : State) : stillView (entRead c s).2 = stillView s := by
  unfold entRead
  dsimp only
  split
  · rfl
  · split
    · rw [still_rset (by decide), still_loadData]
    · rfl

@[simp] theorem still_entWrite (c : LkpCmd) (s : State) : stillView (entWrite c s).2 = stillView s := by
  unfold entWrite
  dsimp only
  split
  · rfl
  · split
    · rfl
    · split
      · rfl
      · split
        next h => rw [still_freshEnt, still_storeEnt h]
        next => exact still_insRefused _ s

@[simp] theorem still_entDelete (c : LkpCmd) (s : State) : stillView (entDelete c s).2 = stillView s := by
  unfold entDelete
  dsimp only
  split
  · rfl
  · split
    · rfl
    · split <;> simp

@[simp] theorem still_entMove (c : LkpCmd) (s : State) : stillView (entMove c s).2 = stillView s := by
  unfold entMove
  dsimp only
  split
  · rfl
  · split
    · split
      · rfl
      · split
        · rfl
        · split
          · simp
          next h =>
            rw [← still_storeEnt h]
            split
            · split <;> simp
            · rfl
    · rfl

@[simp] theorem still_entWithdraw (c : LkpCmd) (s : State) : stillView (entWithdraw c s).2 = stillView s := by
  unfold entWithdraw
  split
  · rfl
  · split
    · rfl
    · split
      · split <;> simp
      · rfl

@[simp] theorem still_lkpAct (c : LkpCmd) (s : State) : stillView (lkpAct c s).2 = stillView s := by
  unfold lkpAct
  split
  · simp
  · simp
  · split <;> simp

@[simp] theorem still_flowWrote (old : State) (t k : Nat) (s : State) : stillView (flowWrote old t k s) = stillView s := by
  unfold flowWrote
  dsimp only
  split
  · rfl
  · split <;> simp

@[simp] theorem still_cmdWrote (old : State) (c : LkpCmd) (s : State) : stillView (cmdWrote old c s) = stillView s := by
  unfold cmdWrote
  split <;> simp

@[simp] theorem still_flowEcc (code index : Nat) (s : State) : stillView (flowEcc code index s) = stillView s := by
  unfold flowEcc
  dsimp only
  split
  · split <;> simp
  · rfl

@[simp] theorem still_occur (blk code q n : Nat) (s : State) : stillView (occur blk code q n s) = stillView s := rfl

@[simp] theorem still_lkpParity (place index : Nat) (s : State) : stillView (lkpParity place index s) = stillView s := by
  unfold lkpParity
  dsimp only
  rw [still_occur, still_errReport, still_rset (by decide), still_flowEcc]

@[simp] theorem still_lkpDo (met : Option (Nat × Nat)) (c : LkpCmd) (s : State) : stillView (lkpDo met c s).2 = stillView s := by
  have hreads : stillView (if (cmdReads c s).any (unitWaits s .mcd) then memPosts .mcd (cmdReads c s) false s
      else memUses .mcd (cmdReads c s) false s) = stillView s := by
    split <;> simp
  unfold lkpDo
  dsimp only
  split
  · rfl
  · rw [← hreads]
    generalize (if (cmdReads c s).any (unitWaits s .mcd) then memPosts .mcd (cmdReads c s) false s
      else memUses .mcd (cmdReads c s) false s) = x
    split
    · simp
    · split
      · dsimp only
        split
        · rw [still_rset (by decide), still_loadData, still_lkpParity]
        · simp
      · split <;> simp

@[simp] theorem still_heldTake (s : State) : stillView (heldTake s) = stillView s := by
  unfold heldTake
  dsimp only
  split
  · simp [lkpTake]
  · rfl

/-! ### Commands of the TCAM -/

@[simp] theorem still_setRowIdx (t i : Nat) (x : TRow) (s : State) : stillView (setRowIdx t i x s) = stillView s := rfl

@[simp] theorem still_tcamDrop (s : State) : stillView (tcamDrop s) = stillView s := still_of_tables (tablesOnly_tcamDrop s)

@[simp] theorem still_tcamWrite (c : TcamCmd) (s : State) : stillView (tcamWrite c s).2 = stillView s := by
  unfold tcamWrite
  dsimp only
  repeat' split
  all_goals rfl

@[simp] theorem still_tcamDelete (c : TcamCmd) (s : State) : stillView (tcamDelete c s).2 = stillView s := by
  unfold tcamDelete
  dsimp only
  repeat' split
  all_goals rfl

@[simp] theorem still_tcamWithdraw (c : TcamCmd) (s : State) : stillView (tcamWithdraw c s).2 = stillView s := by
  unfold tcamWithdraw
  dsimp only
  repeat' split
  all_goals rfl

/-- A write, a delete and a withdrawal are the commands that are held for the pending epoch (R235). -/
theorem still_tcamDo {c : TcamCmd} (h : c.op = 1 ∨ c.op = 2 ∨ c.op = 6) (ev : LookupEvent) (s : State) :
    stillView (tcamDo c ev s).2 = stillView s := by
  unfold tcamDo
  split
  · rfl
  · obtain h | h | h := h <;> rw [h] <;> simp

@[simp] theorem still_tcamHeldTake (s : State) : stillView (tcamHeldTake s) = stillView s := by
  unfold tcamHeldTake
  dsimp only
  split
  next h =>
    simp only [Bool.and_eq_true, Bool.or_eq_true, decide_eq_true_eq] at h
    obtain ⟨-, hop⟩ := h
    have hany : (tcamCmd s).op = 1 ∨ (tcamCmd s).op = 2 ∨ (tcamCmd s).op = 6 := by tauto
    have h3 : (tcamCmd s).op ≠ 3 := by omega
    have h7 : (tcamCmd s).op ≠ 7 := by omega
    have htaken : ((tcamCmd s).epoch = true ∧ ((tcamCmd s).op = 1 ∨ (tcamCmd s).op = 2)) ∨ (tcamCmd s).op = 6 := by tauto
    rw [tcamTake, if_neg h3, if_neg h7, if_pos htaken]
    exact (still_tcamDo hany _ _).trans (still_tcamDrop s)
  next => rfl

end Sys2Proof.Proofs
end

section
/-! SUPPORT. The quench epochs (R59 to R73): a pending epoch is opened and abandoned, a commit is asked for, judged and
made, and the previous epoch drains and is freed. -/

namespace Sys2Proof.Proofs
open Sys2Proof Sys2Proof.Machine Sys2Proof.Laws

theorem regsBut_of_regs {as : List Nat} {s t : State} (h : t.regs = s.regs) : RegsBut as s t := fun _ _ => by rw [h]

/-! ### An early retirement -/

/-- The TAU but for the previous epoch and the versions to be reclaimed. -/
def retireRest (t : Tau) : Tau := { t with reclaim := 0, prevCount := 0, prevState := 0 }

/-- The registers in which an early retirement and what it drops are counted and shown (R63, R72). -/
abbrev retireRegs : List Nat :=
  adr R.TAU_EPOCH_STALE_DROP 0 :: adr R.TAU_EARLY_RETIRE 0 :: adr R.TAU_STATUS 0 :: errRegs

/-- What an early retirement leaves: the rest of the TAU, and every other register. -/
def RetireKept (s t : State) : Prop := retireRest t.tau = retireRest s.tau ∧ RegsBut retireRegs s t

theorem RetireKept.refl (s : State) : RetireKept s s := ⟨rfl, regsBut_refl _ s⟩

theorem RetireKept.trans {s t u : State} (h : RetireKept s t) (h' : RetireKept t u) : RetireKept s u :=
  ⟨h'.1.trans h.1, regsBut_trans h.2 h'.2⟩

theorem retireKept_of_tables {s t : State} (h : TablesOnly s t) : RetireKept s t :=
  ⟨congrArg retireRest h.tau, regsBut_of_regs h.regs⟩

theorem retireKept_endStale (k : Nat) (s : State) : RetireKept s (endStale k s) := by
  unfold endStale
  dsimp only
  split
  · exact ⟨rfl, fun _ _ => rfl⟩
  · exact ⟨rfl, regsBut_rcount (regsBut_refl _ s) List.mem_cons_self 47 0 1⟩

theorem retireKept_foldl {α : Type} {f : State → α → State} (hf : ∀ x a, RetireKept x (f x a)) (l : List α) (s : State) :
    RetireKept s (l.foldl f s) := by
  induction l generalizing s with
  | nil => exact RetireKept.refl s
  | cons a l ih => exact (hf s a).trans (ih _)

theorem retireKept_releaseHeld (s : State) : RetireKept s (releaseHeld s) := ⟨rfl, regsBut_refl _ s⟩

theorem retireKept_retireCount (old : Nat) (s : State) :
    RetireKept s (rsetF (rcount s R.TAU_EARLY_RETIRE 0 31 0 1) R.TAU_EARLY_RETIRE 0 47 32 old) :=
  ⟨rfl, regsBut_rsetF (regsBut_rcount (regsBut_refl _ s) (by simp) _ _ _) (by simp) _ _ _⟩

theorem retireKept_tauStatus (k : Nat) (s : State) : RetireKept s (tauStatus k s) := by
  obtain ⟨heq, hregs⟩ := statusOnly_tauStatus k s
  refine ⟨by rw [heq], fun a ha => hregs a fun hmem => ha ?_⟩
  exact List.mem_cons_of_mem _ (List.mem_cons_of_mem _ hmem)

/-- R72: an epoch that is retired early gives up its versions and is counted. -/
theorem retireKept_retireEarly (s : State) : RetireKept s (retireEarly s) := by
  unfold retireEarly
  dsimp only
  split
  · exact RetireKept.refl s
  · refine RetireKept.trans ?_ (retireKept_tauStatus 7 _)
    refine RetireKept.trans ?_ (retireKept_retireCount _ _)
    refine RetireKept.trans ?_ (retireKept_releaseHeld _)
    refine RetireKept.trans ?_ (retireKept_of_tables (tablesOnly_mapVers _ _ _))
    refine RetireKept.trans (retireKept_foldl (fun x k => ?_) (thrKeys s) s) ⟨rfl, regsBut_refl _ _⟩
    split
    · exact retireKept_endStale k x
    · exact RetireKept.refl x

/-! ### A commit -/

theorem tau_commitSwap (s : State) (c : Nat) : (commitSwap s c).tau = s.tau := by
  unfold commitSwap
  split
  · dsimp only
    split <;> rfl
  · rfl

theorem tau_commitSwaps (l : List Nat) (s : State) : (l.foldl commitSwap s).tau = s.tau := by
  induction l generalizing s with
  | nil => rfl
  | cons c l ih => rw [List.foldl_cons, ih, tau_commitSwap]

/-- The TAU once a commit has been made (R59, R62, R70). -/
def committed (drain : Nat) (t : Tau) : Tau :=
  { t with curEpoch := (t.curEpoch + 1) % 65536, prevState := 1, prevCount := t.pendCount, pendCount := 0, pendOpen := false,
           lastResult := 0, lastCommit := some t.mono, drainEnd := t.mono + 1600 * drain }

theorem tau_commitApply (s : State) :
    retireRest (commitApply s).tau = retireRest (committed (rfld s R.TAU_QUENCH_DRAIN 0 13 0) s.tau) ∧
    (commitApply s).tau.prevState = 1 ∧ (commitApply s).tau.prevCount = s.tau.pendCount := by
  obtain ⟨hrest, hregs⟩ := retireKept_retireEarly s
  have hpend : (retireEarly s).tau.pendCount = s.tau.pendCount := by
    simpa only [retireRest] using congrArg Tau.pendCount hrest
  have hdrain := rget_of_regsBut hregs (r := R.TAU_QUENCH_DRAIN) (i := 0) (by decide)
  have hvers := (((tablesOnly_lkpDrop (retireEarly s)).trans (tablesOnly_tcamDrop _)).trans (tablesOnly_jobCommit _)).trans
    (tablesOnly_mapVers rotate rotateRow _)
  unfold commitApply
  dsimp only
  rw [tau_commitSwaps]
  generalize retireEarly s = u at *
  generalize mapVers rotate rotateRow _ = x at hvers ⊢
  have hfield : rfld x R.TAU_QUENCH_DRAIN 0 13 0 = rfld s R.TAU_QUENCH_DRAIN 0 13 0 :=
    (rfld_of_regs hvers.regs _ _ _ _).trans (congrArg (fld · 13 0) hdrain)
  have htau : (withTau (committed (rfld x R.TAU_QUENCH_DRAIN 0 13 0)) x).tau =
      committed (rfld s R.TAU_QUENCH_DRAIN 0 13 0) u.tau := by
    rw [hfield, withTau, hvers.tau]
  change retireRest (withTau (committed _) x).tau = _ ∧ (withTau (committed _) x).tau.prevState = _ ∧
    (withTau (committed _) x).tau.prevCount = _
  rw [htau]
  have hforget : ∀ y, retireRest (committed (rfld s R.TAU_QUENCH_DRAIN 0 13 0) y) =
      retireRest (committed (rfld s R.TAU_QUENCH_DRAIN 0 13 0) (retireRest y)) := fun _ => rfl
  exact ⟨by rw [hforget, hrest, ← hforget], rfl, hpend⟩

/-- The TAU but for what a commit says: the epochs and their versions, LAST_RESULT and the drain (R67). -/
def commitRest (t : Tau) : Tau :=
  { t with curEpoch := 0, pendOpen := false, prevState := 0, lastResult := 0, pendCount := 0, prevCount := 0, reclaim := 0,
           lastCommit := none, drainEnd := 0 }

/-- The state in which a commit is judged: held commands of its epoch have been taken into it (R204, R235). -/
abbrev judged (s : State) : State := tcamHeldTake (heldTake s)

theorem still_judged (s : State) : stillView (judged s) = stillView s :=
  (still_tcamHeldTake _).trans (still_heldTake s)

theorem tau_judged (s : State) : ({ (judged s).tau with pendCount := 0 } : Tau) = { s.tau with pendCount := 0 } :=
  congrArg Still.tau (still_judged s)

theorem epochCommit_refused {s : State} {c : Nat} (h : commitRefusal (judged s) none = some c) :
    epochCommit s = commitRefused c (judged s) := by simp only [epochCommit, h]

theorem epochCommit_made {s : State} (h : commitRefusal (judged s) none = none) :
    epochCommit s = commitApply (judged s) := by simp only [epochCommit, h]

theorem commitRest_epochCommit (s : State) : commitRest (epochCommit s).tau = commitRest s.tau := by
  have hjudged : commitRest (judged s).tau = commitRest s.tau := (congrArg commitRest (tau_judged s) :)
  rw [← hjudged]
  cases h : commitRefusal (judged s) none with
  | some c =>
    rw [epochCommit_refused h, commitRefused, (statusOnly_tauStatus 6 _).1]
    rfl
  | none =>
    rw [epochCommit_made h]
    exact (congrArg commitRest (tau_commitApply (judged s)).1 :)

theorem commitEnd_of_due {s : State} (h : s.tau.commitDue = true) :
    commitEnd s = epochCommit (withTau (fun t => { t with commitDue := false }) s) := if_pos h

/-- A commit at the tick's end changes what a commit says, and waits no more. -/
theorem commitRest_commitEnd (s : State) :
    commitRest (commitEnd s).tau = { commitRest s.tau with commitDue := false } := by
  cases h : s.tau.commitDue with
  | true =>
    rw [commitEnd_of_due h, commitRest_epochCommit]
    rfl
  | false =>
    rw [commitEnd_of_none h, commitRest, ← h]

/-- A commit that has been made at the tick's end is not made again. -/
theorem commitEnd_commitEnd (s : State) : commitEnd (commitEnd s) = commitEnd s :=
  commitEnd_of_none ((congrArg Tau.commitDue (commitRest_commitEnd s) :))

theorem commitEnd_says (s : State) : (commitEnd s).tau.step = s.tau.step ∧ (commitEnd s).tau.taDue = s.tau.taDue ∧
    (commitEnd s).tau.taFired = s.tau.taFired := by
  have h := commitRest_commitEnd s
  exact ⟨(congrArg Tau.step h :), (congrArg Tau.taDue h :), (congrArg Tau.taFired h :)⟩

theorem arrivalsDone_commitEnd (s : State) : arrivalsDone (commitEnd s) = arrivalsDone s := by
  have hpend : (commitEnd s).pending = s.pending := (commitEnd_kept s (kept_refl s)).1
  simp only [arrivalsDone, restOfTick, hpend]

/-- R53: an entry that fires finds the commit of its tick made. -/
theorem taFire_commitEnd {s : State} {n : Nat} {rest : List Nat} (hdue : s.tau.taDue = n :: rest)
    (hfew : s.tau.taFired < 8) (hdone : arrivalsDone s = true) : exec .taFire s = exec .taFire (commitEnd s) := by
  obtain ⟨-, hdue', hfired⟩ := commitEnd_says s
  rw [taFire_front hdue hfew hdone, taFire_front (hdue'.trans hdue) (by rw [hfired]; exact hfew)
    ((arrivalsDone_commitEnd s).trans hdone), commitEnd_commitEnd]

theorem commitRefusal_none {s : State} (hup : s.mgmtDown = false) (hlane : s.tau.bridgeFault = false)
    (hfirst : s.tau.lastCommit = none) (hfit : s.tau.pendCount ≤ 1048576) : commitRefusal s none = none := by
  simp [commitRefusal, hup, hlane, hfirst, hfit]

theorem commitAsk_now {s : State} (h : comes s beforeCommit = false) : commitAsk s = epochCommit s :=
  if_neg (by simp [h])

/-- R59, R69, R70: a commit that passes its checks makes the pending epoch current and the current one previous. -/
theorem epochCommit_says {s : State} (hup : s.mgmtDown = false) (hlane : s.tau.bridgeFault = false)
    (hfirst : s.tau.lastCommit = none) (hfit : (judged s).tau.pendCount ≤ 1048576) :
    let t := epochCommit s
    t.tau.curEpoch = (s.tau.curEpoch + 1) % 65536 ∧ t.tau.prevState = 1 ∧ t.tau.prevCount = (judged s).tau.pendCount ∧
    t.tau.pendOpen = false ∧ t.tau.pendCount = 0 ∧ t.tau.lastResult = 0 ∧ t.tau.lastCommit = some s.tau.mono ∧
    t.tau.drainEnd = s.tau.mono + 1600 * rfld s R.TAU_QUENCH_DRAIN 0 13 0 ∧ t.pending = s.pending := by
  have hview := still_judged s
  have htau := tau_judged s
  have hdown : (judged s).mgmtDown = s.mgmtDown := congrArg Still.down hview
  have hfault : (judged s).tau.bridgeFault = s.tau.bridgeFault := (congrArg Tau.bridgeFault htau :)
  have hlast : (judged s).tau.lastCommit = s.tau.lastCommit := (congrArg Tau.lastCommit htau :)
  have hepoch : (judged s).tau.curEpoch = s.tau.curEpoch := (congrArg Tau.curEpoch htau :)
  have hmono : (judged s).tau.mono = s.tau.mono := (congrArg Tau.mono htau :)
  have hdrain : rfld (judged s) R.TAU_QUENCH_DRAIN 0 13 0 = rfld s R.TAU_QUENCH_DRAIN 0 13 0 :=
    congrArg (fld · 13 0) (rget_of_clock (clock_of_still hview) (by decide))
  have hpasses := commitRefusal_none (hdown.trans hup) (hfault.trans hlane) (hlast.trans hfirst) hfit
  have hpending : (epochCommit s).pending = s.pending := (epochCommit_kept s (kept_refl s)).1
  obtain ⟨hmade, hstate, hcount⟩ := tau_commitApply (judged s)
  dsimp only
  rw [← hepoch, ← hmono, ← hdrain, hpending, epochCommit_made hpasses]
  exact ⟨(congrArg Tau.curEpoch hmade :), hstate, hcount, (congrArg Tau.pendOpen hmade :), (congrArg Tau.pendCount hmade :),
    (congrArg Tau.lastResult hmade :), (congrArg Tau.lastCommit hmade :), (congrArg Tau.drainEnd hmade :), rfl⟩

/-! ### Abandoning and freeing -/

theorem epochAbandon_of_open {s : State} (h : s.tau.pendOpen = true) : epochAbandon s =
    withLkp (fun x => { x with abandoned := true }) (withTcam (fun x => { x with abandoned := true })
      (withTau (fun t => { t with pendOpen := false, reclaim := t.reclaim + t.pendCount, pendCount := 0 })
        (tcamDrop (lkpDrop s)))) := if_pos h

/-- R67: once the versions of an abandoned epoch are dropped, no row has a pending one. -/
theorem mem_tcamDrop {s : State} (h : s.tcam.abandoned = true) {e : Nat × TRow} (he : e ∈ (tcamDrop s).tcam.rows) :
    e.2.pset = false := by
  rw [tcamDrop, if_pos h] at he
  obtain ⟨r, hr⟩ := mem_mapRows (f := fun x => { x with pset := false }) (s := s) he
  rw [hr]
  exact (normRow_flags _).1 rfl

/-- R67: an epoch that is abandoned gives up its versions from the next tick on. -/
theorem epochAbandon_says {s : State} (h : s.tau.pendOpen = true) :
    let t := epochAbandon s
    t.tau = { s.tau with pendOpen := false, reclaim := s.tau.reclaim + s.tau.pendCount, pendCount := 0 } ∧
    t.lkp.abandoned = true ∧ t.tcam.abandoned = true ∧ (∀ e ∈ (tcamDrop t).tcam.rows, e.2.pset = false) ∧
    t.sen = s.sen ∧ t.pending = s.pending := by
  have htables := (tablesOnly_lkpDrop s).trans (tablesOnly_tcamDrop _)
  rw [epochAbandon_of_open h]
  generalize tcamDrop (lkpDrop s) = u at htables
  refine ⟨?_, rfl, rfl, fun e he => ?_, htables.sen, htables.pending⟩
  · change ({ u.tau with pendOpen := false, reclaim := u.tau.reclaim + u.tau.pendCount, pendCount := 0 } : Tau) = _
    rw [htables.tau]
  · exact mem_tcamDrop rfl he

theorem previousEpochFreed_frees {s : State} (hstate : s.tau.prevState = 2) (hseq : seqDown s 17 = false)
    (hnone : s.sen.threads.any (fun e => liveWithTag e.2 ((s.tau.curEpoch + 3) % 4)) = false) :
    exec .previousEpochFreed s = .next (releaseHeld (mapVers noPrev (fun x => { x with vset := false })
      (withTau (fun t => { t with prevState := 0, prevCount := 0 }) s))) := if_pos (by simp [hstate, hseq, hnone])

theorem mem_releaseHeld {s : State} {e : Nat × Bank} (h : e ∈ (releaseHeld s).sen.banks) : e.2.st ≠ .held := by
  simp only [releaseHeld, List.mem_map] at h
  obtain ⟨a, -, rfl⟩ := h
  split
  · simp
  next hst => exact hst

/-- R65, R71: once it is freed, the previous epoch has no versions and holds no bank. -/
theorem freed_says (s : State) :
    let t := releaseHeld (mapVers noPrev (fun x => { x with vset := false })
      (withTau (fun t => { t with prevState := 0, prevCount := 0 }) s))
    t.tau = { s.tau with prevState := 0, prevCount := 0 } ∧ (∀ e ∈ t.sen.banks, e.2.st ≠ .held) ∧
    (∀ e ∈ t.tcam.rows, e.2.vset = false) ∧ t.sen.threads = s.sen.threads := by
  have htables := tablesOnly_mapVers noPrev (fun x => { x with vset := false })
    (withTau (fun t => { t with prevState := 0, prevCount := 0 }) s)
  refine ⟨htables.tau, fun e he => mem_releaseHeld he, fun e he => ?_, (congrArg Sen.threads htables.sen :)⟩
  obtain ⟨r, hr⟩ := mem_mapRows he
  rw [hr]
  exact (normRow_flags _).2 rfl

/-! ### The statement -/

/-- R67: TAU_QUENCH_CTL stands at its offset, and a write of it that is served acts by its bits. -/
theorem registerWrite_quench {s : State} {v : Word} (h : bar0Served s R.TAU_QUENCH_CTL.base = true) :
    exec (.registerWrite (.bar0 R.TAU_QUENCH_CTL.base) 8 v) s = .next (quenchWrite v s) := by
  have hwhole : wholeAccess R.TAU_QUENCH_CTL.base 8 = true := by decide
  have hring : pf0RingAt R.TAU_QUENCH_CTL.base = none := by decide
  have hreg : bar0Reg R.TAU_QUENCH_CTL.base = some (R.TAU_QUENCH_CTL, 0) := rfl
  change execRegisterWrite (.bar0 R.TAU_QUENCH_CTL.base) 8 v s = _
  simp only [execRegisterWrite, hwhole, h, hring, hreg, if_true]
  rfl

/-- Settles O22: each write does what its bits ask for, and what a commit, an abandonment and a freeing leave is said
above. -/
theorem quenchEpochs : Obligations.QuenchEpochs := by
  intro s n v
  refine ⟨registerWrite_quench, ⟨rfl, rfl, rfl⟩, fun h => if_pos h, commitAsk_now,
    fun n rest hdue hfew hdone => taFire_commitEnd hdue hfew hdone, ?opens, fun h => ⟨_, rfl, epochAbandon_says h⟩,
    fun h => if_neg (by simp [h]), fun h => if_pos h, fun hup hlane hsoon => ?soon, ⟨fun c hc hnow => ?refused,
      fun hup hlane hnow hfirst hfit => ?made⟩, fun hstate hup => if_pos ⟨hstate, (timeUp_iff _ _).2 hup⟩,
    fun hstate hseq hnone => ⟨_, previousEpochFreed_frees hstate hseq hnone, freed_says s⟩⟩
  case opens =>
    change (.next (epochOpen s) : Out) = _
    unfold epochOpen
    split <;> rfl
  case soon => rw [commitRefusal, if_neg (by simp [hup, hlane]), if_neg (by simp), if_pos hsoon]
  case refused =>
    change (.next (commitAsk s) : Out) = _
    rw [commitAsk_now hnow, epochCommit_refused hc]
    rfl
  case made =>
    refine ⟨_, rfl, ?_⟩
    rw [commitAsk_now hnow]
    exact epochCommit_says hup hlane hfirst hfit

end Sys2Proof.Proofs
end

section
/-! SUPPORT. What is judged as a tick ends and begins — the Gauge, the tables, the sequencers, the pools, the fabric and the
memories (R337, R352, R374, R480, R485) — leaves the clocks and the threads. -/

namespace Sys2Proof.Proofs
open Sys2Proof Sys2Proof.Machine Sys2Proof.Laws

/-! ### Plain updates -/

@[simp] theorem still_withTcam (f : Tcam → Tcam) (s : State) : stillView (withTcam f s) = stillView s := rfl

@[simp] theorem still_withCsq (f : Csq → Csq) (s : State) : stillView (withCsq f s) = stillView s := rfl

@[simp] theorem still_withBpm (f : Bpm → Bpm) (s : State) : stillView (withBpm f s) = stillView s := rfl

@[simp] theorem still_withTmg (f : Tmg → Tmg) (s : State) : stillView (withTmg f s) = stillView s := rfl

@[simp] theorem still_withFab (f : Fab → Fab) (s : State) : stillView (withFab f s) = stillView s := rfl

@[simp] theorem still_withGau (f : Gau → Gau) (s : State) : stillView (withGau f s) = stillView s := rfl

@[simp] theorem still_emit (e : OutEvent) (s : State) : stillView (emit e s) = stillView s := rfl

@[simp] theorem still_intRaise (k : Nat) (s : State) : stillView (intRaise k s) = stillView s :=
  still_of_err (errOnly_intRaise k s)

/-! ### Interrupts, the tables and the sequencers -/

theorem still_intTick (s : State) : stillView (intTick s) = stillView s := by
  refine (still_foldl (fun x c => ?_) _ _).trans rfl
  split
  · exact still_of_err (errOnly_intSet _ x)
  · rfl

theorem still_jobTick (s : State) : stillView (jobTick s) = stillView s := by
  unfold jobTick
  split
  · rfl
  · split
    · rfl
    · split
      · rfl
      · split <;> rfl

theorem still_lkpTick (s : State) : stillView (lkpTick s) = stillView s := by
  refine (still_withLkp _ _).trans ((still_foldl (fun x k => ?_) _ _).trans
    ((still_jobTick _).trans (still_of_tables (tablesOnly_lkpDrop s))))
  split
  · exact still_updEnt _ _ _ x
  · rfl

theorem still_respreadStep (s : State) : stillView (respreadStep s) = stillView s := by
  unfold respreadStep
  dsimp only
  repeat' split
  all_goals rfl

theorem still_tcamTick (s : State) : stillView (tcamTick s) = stillView s :=
  (still_respreadStep _).trans (still_tcamDrop s)

theorem still_svcEnd (k result : Nat) (s : State) : stillView (svcEnd k result s) = stillView s := by
  unfold svcEnd
  dsimp only
  rw [still_intRaise, still_rset (by decide), still_rsetF (by decide), still_rsetF (by decide), still_rsetF (by decide)]
  rfl

theorem still_seqsResume (s : State) : stillView (seqsResume s) = stillView s := by
  unfold seqsResume
  dsimp only
  split <;> rfl

theorem still_csqTick (s : State) : stillView (csqTick s) = stillView s := by
  have hends : stillView (withCsq (fun c => { c with refusals := [] }) (s.csq.refusals.foldl (fun s k => svcEnd k 3 s) s)) =
      stillView s := still_foldl (fun x k => still_svcEnd k 3 x) _ s
  unfold csqTick
  dsimp only
  rw [← hends]
  split
  · exact still_rsetF (by decide) (withCsq _ _) _ _ _ _
  · split
    · exact (still_rsetF (by decide) _ _ _ _ _).trans (still_seqsResume _)
    · split
      · exact (still_rsetF (by decide) _ _ _ _ _).trans (still_rsetF (by decide) _ _ _ _ _)
      · rfl

/-! ### The pools -/

theorem still_eccFirst (m : MemCtl) (a : Nat) (s : State) : stillView (eccFirst m a s) = stillView s := by
  cases m <;> simp [eccFirst, still_eccCount]

@[simp] theorem still_readTwice (m : MemCtl) (a : Nat) (o : ReadOutcome) (s : State) :
    stillView (readTwice m a o s) = stillView s := by
  unfold readTwice
  split
  · rfl
  all_goals split <;> simp [still_eccFirst]

@[simp] theorem still_setTag (n i t : Nat) (s : State) : stillView (setTag n i t s) = stillView s := rfl

theorem still_tagRead (n i : Nat) (o : ReadOutcome) (s : State) : stillView (tagRead n i o s) = stillView s := by
  unfold tagRead
  dsimp only
  split
  · split
    · split <;> rfl
    · split
      · generalize (if memLost _ _ _ then _ else _ : ReadOutcome) = o'
        split <;> simp
      · rfl
  · rfl

theorem still_tagUse (n i : Nat) (write : Bool) (s : State) : stillView (tagUse n i write s) = stillView s := by
  unfold tagUse
  split <;> simp

theorem still_bpmRefuse (code req n i : Nat) (s : State) : stillView (bpmRefuse code req n i s) = stillView s := by
  unfold bpmRefuse
  dsimp only
  rw [still_errReport]
  split
  · rfl
  · exact still_rcount (by decide) s _ _ _ _

theorem still_bpmApply (op : BilletOp) (n i : Nat) (s : State) : stillView (bpmApply op n i s) = stillView s := by
  unfold bpmApply freeBillet
  dsimp only
  repeat' split
  all_goals rfl

theorem still_bpmOp (op : BilletOp) (req n i : Nat) (o : ReadOutcome) (s : State) :
    stillView (bpmOp op req n i o s).2 = stillView s := by
  have hread := still_tagRead n i o s
  unfold bpmOp
  dsimp only
  generalize tagRead n i o s = u at hread ⊢
  have huse : stillView (if bpmCheck u op req n i = 6 then u else tagUse n i (decide (bpmCheck u op req n i = 1)) u) =
      stillView s := by
    split
    · exact hread
    · exact (still_tagUse _ _ _ u).trans hread
  split
  · exact (still_bpmApply _ _ _ _).trans huse
  · exact (still_bpmRefuse _ _ _ _ _).trans huse

theorem still_cellFree (key : Nat) (s : State) : stillView (cellFree key s) = stillView s :=
  still_bpmOp _ _ _ _ _ { s with freeCtr := s.freeCtr + 1 }

theorem still_letGoTick (s : State) : stillView (letGoTick s) = stillView s :=
  still_foldl (fun x k => still_cellFree k x) _ (withBpm (fun b => { b with letGo := [] }) s)

theorem still_bpmStatus (b : Nat) (s : State) : stillView (bpmStatus b s) = stillView s :=
  (still_intRaise 8 _).trans (still_rsetF (by decide) s _ _ _ _)

theorem still_poolState (n v : Nat) (s : State) : stillView (rsetF s R.BPM_POOL_STAT n 63 62 v) = stillView s :=
  still_rsetF (by decide) s _ _ _ _

theorem still_poolEvent (n : Nat) (s : State) : stillView (rcount s R.BPM_POOL_CNT n 63 32 1) = stillView s :=
  still_rcount (by decide) s _ _ _ _

theorem still_poolTick (s : State) (n : Nat) : stillView (poolTick s n) = stillView s := by
  unfold poolTick
  dsimp only
  split
  · have hshown : ∀ v, stillView (rset s R.BPM_POOL_STAT n v) = stillView s := fun v => still_rset (by decide) s n v
    split
    all_goals
      repeat' split
      all_goals simp only [still_bpmStatus, still_poolState, still_poolEvent, hshown]
  · rfl

theorem still_bpmTick (s : State) : stillView (bpmTick s) = stillView s := still_foldl still_poolTick _ s

/-! ### The traffic manager and the fabric -/

theorem still_judgeElig (s : State) : stillView (judgeElig s) = stillView s :=
  (still_withTmg _ _).trans (still_foldl (f := fun s k => clearDeficit k s) (fun _ _ => rfl) _ s)

@[simp] theorem still_setFabLink (k : Nat) (x : FabLink) (s : State) : stillView (setFabLink k x s) = stillView s := rfl

theorem still_fabOff (s : State) : stillView (fabOff s) = stillView s := by
  unfold fabOff
  split
  · rfl
  · refine (still_rsetF (by decide) _ _ _ _ _).trans (still_foldl (fun x k => ?_) _ s)
    split
    · rfl
    · exact still_rsetF (by decide) x _ _ _ _

theorem still_sendOn (k : Nat) (c : FabCell) (s : State) : stillView (sendOn k c s) = stillView s := rfl

theorem still_resendAll (n : Nat) (s : State) : stillView (resendAll n s) = stillView s := by
  induction n generalizing s with
  | zero => rfl
  | succ n ih =>
    unfold resendAll
    split
    · rfl
    · split
      · rw [ih, still_sendOn, still_withFab]
      · rw [ih, still_sendOn, still_withFab]
      · rfl

theorem still_slotEnd (n k : Nat) (s : State) : stillView (slotEnd n k s) = stillView s := by
  unfold slotEnd
  dsimp only
  split <;> rfl

theorem still_slotBegin (n k : Nat) (s : State) : stillView (slotBegin n k s) = stillView s := by
  unfold slotBegin
  dsimp only
  split
  · rfl
  · split
    · rfl
    · rw [still_setFabLink]
      split <;> rfl

theorem still_slotTick (s : State) : stillView (slotTick s) = stillView s := by
  unfold slotTick
  dsimp only
  split
  · rfl
  · exact (still_resendAll _ _).trans (still_foldl (fun x k => (still_slotBegin _ k _).trans (still_slotEnd _ k x)) _ s)

theorem still_zeroTick (s : State) : stillView (zeroTick s) = stillView s := by
  refine still_foldl (fun x e => ?_) _ s
  split <;> rfl

theorem still_fabTick (s : State) : stillView (fabTick s) = stillView s :=
  (still_zeroTick _).trans ((still_slotTick _).trans (still_fabOff s))

/-! ### The memories' held requests -/

theorem still_memAccess (m : MemCtl) (r : MemReq) (s : State) : stillView (memAccess m r s) = stillView s := by
  have hbank : stillView (bankUse m r.addr s) = stillView s := still_withMem m _ s
  unfold memAccess
  dsimp only
  rw [← hbank]
  split
  · exact still_withMem m _ _
  · split
    · exact (rfl : stillView (readBad m r _) = stillView _).trans (still_eccEvent m r.addr r.ecc _)
    · exact (rfl : stillView (emit _ _) = stillView _).trans (still_eccEvent m r.addr r.ecc _)

theorem still_heldServe (m : MemCtl) (h : HeldReq) (s : State) : stillView (heldServe m h s) = stillView s := by
  unfold heldServe
  split
  · exact still_memAccess m _ s
  · dsimp only
    split
    · exact (still_withMem m _ _).trans (still_memServe m _ _ s)
    · exact still_memServe m _ _ s

theorem still_serveHeld (m : MemCtl) (n : Nat) (s : State) : stillView (serveHeld m n s) = stillView s := by
  induction n generalizing s with
  | zero => rfl
  | succ n ih =>
    unfold serveHeld
    split
    · rw [ih, still_heldServe, still_withMem]
    · rfl

theorem still_memRelease (m : MemCtl) (s : State) : stillView (memRelease m s) = stillView s := still_serveHeld m _ s

/-! ### The Gauge -/

theorem still_sampleDrop (s : State) : stillView (sampleDrop s) = stillView s := still_rcount (by decide) s _ _ _ _

theorem still_ctrAdd (s0 : State) (n v : Nat) (s : State) : stillView (ctrAdd s0 n v s) = stillView s := by
  unfold ctrAdd
  dsimp only
  split
  · exact still_rset (by decide) s _ _
  · split
    · have hsample : ∀ b code left q w, stillView (takeSample s0 n b code left q (rset s R.GAU_CTR_VAL n w)) = stillView s :=
        fun _ _ _ _ w => (still_withGau _ _).trans (still_rset (by decide) s n w)
      split
      · rw [still_sampleDrop, hsample]
      · exact hsample ..
    · exact (still_rsetF (by decide) _ _ _ _ _).trans (still_rset (by decide) s _ _)

theorem still_ctrTick (s0 t : State) (n : Nat) : stillView (ctrTick s0 t n) = stillView t := by
  unfold ctrTick
  dsimp only
  generalize (if bit (ctrCfg s0 n) 62 then _ else _ : Nat) = v
  split
  · rfl
  · exact still_ctrAdd s0 n v t

theorem still_slotAdd (c k v : Nat) (s : State) : stillView (slotAdd c k v s) = stillView s := by
  unfold slotAdd
  split
  · rfl
  · exact still_rset (by decide) s _ _

theorem still_occur_of (p : Prop) [Decidable p] (blk code q n : Nat) (s : State) :
    stillView (if p then s else occur blk code q n s) = stillView s := by
  split <;> rfl

theorem still_gauTick (s : State) : stillView (gauTick s) = stillView s := by
  have hslots : ∀ x, stillView ((List.range 8).foldl (fun t c =>
      if slotsCount s c then (List.range 8).foldl (fun t k => slotAdd c k (slotClass s c k) t) t else t) x) = stillView x := by
    refine fun x => still_foldl (fun t c => ?_) _ x
    split
    · exact still_foldl (fun y k => still_slotAdd c k _ y) _ t
    · rfl
  unfold gauTick
  split
  · rfl
  · dsimp only
    rw [still_occur_of, still_withGau, still_foldl (fun x n => still_ctrTick _ x n),
      still_foldl (fun x n => still_ctrTick _ x n), hslots]

theorem still_sampleDetect (s : State) : stillView (sampleDetect s) = stillView s := by
  unfold sampleDetect
  split
  · rfl
  · dsimp only
    split
    · split
      · exact still_intRaise 9 _
      · rfl
    · rw [still_occur, still_sampleDrop, still_withGau]

theorem still_slotClear (s : State) : stillView (slotClear s) = stillView s := by
  unfold slotClear
  split
  · split
    · exact still_foldl (fun x k => still_rset (by decide) x k 0) _ (withGau (fun g => { g with slotClr := none }) s)
    · rfl
  · rfl

/-- Writes of registers above the TAU's leave the clocks. -/
theorem still_rsets {r : Reg} (hr : liuBase ≤ r.base) (i : Nat → Nat) (w : State → Nat → Word) (l : List Nat) (s : State) :
    stillView (l.foldl (fun s k => rset s r (i k) (w s k)) s) = stillView s :=
  still_foldl (fun x k => still_rset hr x (i k) (w x k)) l s

theorem still_rsets_if {r : Reg} (hr : liuBase ≤ r.base) (p : Prop) [Decidable p] (i : Nat → Nat)
    (w : State → Nat → Word) (l : List Nat) (s : State) :
    stillView (if p then l.foldl (fun s k => rset s r (i k) (w s k)) s else s) = stillView s := by
  split
  · exact still_rsets hr i w l s
  · rfl

theorem still_snapSet (n : Nat) (s : State) : stillView (snapSet n s) = stillView s := by
  unfold snapSet
  dsimp only
  rw [still_rsets_if (by decide), still_rsets (by decide), still_rset (by decide), still_rset (by decide)]

theorem still_snapClear (mask : Nat) (s : State) : stillView (snapClear mask s) = stillView s := by
  unfold snapClear
  dsimp only
  rw [still_rsets_if (by decide), still_rsets (by decide)]

theorem still_samplesDue (s : State) (l : List SampleDue) :
    stillView (l.foldl (fun s _ => sampleDetect s) (slotClear s)) = stillView s :=
  (still_foldl (fun x _ => still_sampleDetect x) l _).trans (still_slotClear s)

theorem still_snapshot (s : State) : stillView (snapshot s) = stillView s := by
  have hmarks : ∀ (m : Nat) (x : State),
      stillView ((List.range 16).foldl (fun s n => if m.testBit n then occur 14 1 n 1 s else s) x) = stillView x := by
    refine fun m x => still_foldl (fun y n => ?_) _ x
    split <;> rfl
  have hsets : ∀ (m : Nat) (x : State),
      stillView ((List.range 16).foldl (fun s n => if m.testBit n then snapSet n s else s) x) = stillView x := by
    refine fun m x => still_foldl (fun y n => ?_) _ x
    split
    · exact still_snapSet n y
    · rfl
  unfold snapshot
  dsimp only
  split
  · rfl
  · rw [still_snapClear, hsets, still_withGau, still_gauTick, hmarks, still_samplesDue]

theorem still_gauEnd (s : State) : stillView (gauEnd s) = stillView s := by
  unfold gauEnd
  dsimp only
  rw [still_withGau, still_gauTick, still_snapshot, still_samplesDue]

end Sys2Proof.Proofs
end

section
/-! SUPPORT. The requests of the cipher engine, the resets of slices and the inboxes of a tick that ends (R103, R107, R402,
R456): which of them touch the clocks, and which the threads. -/

namespace Sys2Proof.Proofs
open Sys2Proof Sys2Proof.Machine Sys2Proof.Laws

/-! ### Plain updates -/

theorem clock_rcount {r : Reg} (hr : liuBase ≤ r.base) (s : State) (i hi lo n : Nat) :
    clockView (rcount s r i hi lo n) = clockView s := clock_of_still (still_rcount hr s i hi lo n)

@[simp] theorem clock_setThr (k : Nat) (t : Thread) (s : State) : clockView (setThr s k t) = clockView s := rfl

@[simp] theorem clock_freeThr (k : Nat) (s : State) : clockView (freeThr s k) = clockView s := rfl

@[simp] theorem clock_dropThr (k : Nat) (s : State) : clockView (dropThr k s) = clockView s := rfl

@[simp] theorem clock_haltThr (k code : Nat) (s : State) : clockView (haltThr k code s) = clockView s := rfl

@[simp] theorem still_slotUsed (k code : Nat) (s : State) : stillView (slotUsed k code s) = stillView s := rfl

@[simp] theorem still_setRing (k : Nat) (x : Ring) (s : State) : stillView (setRing k x s) = stillView s := rfl

@[simp] theorem still_hostDrop (sl : Nat) (s : State) : stillView (hostDrop sl s) = stillView s :=
  (still_rsetF (by decide) _ _ _ _ _).trans (still_rcount (by decide) s _ _ _ _)

@[simp] theorem still_hostDeliver (sl : Nat) (p : Packet) (s : State) : stillView (hostDeliver sl p s) = stillView s := by
  unfold hostDeliver
  dsimp only
  split
  · split <;> exact still_setRing _ _ s
  · exact still_hostDrop sl s

@[simp] theorem still_eventLine (k : Nat) (ev : Word32) (s : State) : stillView (eventLine k ev s) = stillView s := by
  unfold eventLine
  dsimp only
  split <;> rfl

/-! ### Exceptions -/

theorem clock_hostThr (k sl : Nat) (s : State) : clockView (hostThr k sl s) = clockView s := by
  unfold hostThr
  dsimp only
  split
  · exact (clock_freeThr k _).trans (clock_of_still (still_hostDeliver sl _ _))
  · rfl

/-- An exception with its counts: what it does to its thread comes after. -/
def excCounted (k code : Nat) (s : State) : State :=
  let s := occurThr 5 code k (rcount s R.SEN_EXC_COUNT code 47 0 1)
  if code = 6 ∧ s.tau.mono < (engine s k).free then s
  else slotUsed k (if code = 1 ∨ code = 3 ∨ code = 6 ∨ code = 9 then codeUnissued else codeWasted) s

theorem still_excCounted (k code : Nat) (s : State) : stillView (excCounted k code s) = stillView s := by
  have hcount : stillView (occurThr 5 code k (rcount s R.SEN_EXC_COUNT code 47 0 1)) = stillView s :=
    still_rcount (by decide) s _ _ _ _
  unfold excCounted
  dsimp only
  split
  · exact hcount
  · exact (still_slotUsed _ _ _).trans hcount

/-- What an exception that is counted does to its thread. -/
def excTaken (k code : Nat) (s : State) : State :=
  let t := thr s k
  if t.svc then haltThr k code s
  else
    let t := { t with pkt := mdSet t.pkt 14 31 24 code, exc6 := false }
    let s := setThr s k t
    if t.handler then dropThr k s
    else
      let cfg := rget s R.SEN_EXC_CFG code
      match fld cfg 1 0 with
      | 1 => hostThr k (fld cfg 43 32) s
      | 2 => setThr s k { t with st := .ready, handler := true, spent := 0, stack := [], pc := fld cfg 31 16,
                                 waitTags := [], waitFrame := false }
      | _ => dropThr k s

theorem raiseExc_eq (k code : Nat) (s : State) : raiseExc k code s = excTaken k code (excCounted k code s) := rfl

theorem excTaken_of_svc {k code : Nat} {s : State} (h : (thr s k).svc = true) : excTaken k code s = haltThr k code s :=
  if_pos h

/-- R103, R107: a service thread halts on an exception. -/
theorem raiseExc_of_svc {k code : Nat} {s : State} (h : (thr s k).svc = true) :
    raiseExc k code s = haltThr k code (excCounted k code s) :=
  have hsvc := (congrArg Thread.svc (thr_of_still (still_excCounted k code s) k)).trans h
  (raiseExc_eq k code s).trans (excTaken_of_svc hsvc)

theorem clock_excTaken (k code : Nat) (s : State) : clockView (excTaken k code s) = clockView s := by
  unfold excTaken
  dsimp only
  split
  · exact clock_haltThr k code s
  · split
    · exact (clock_dropThr k _).trans (clock_setThr k _ s)
    · split
      · exact (clock_hostThr k _ _).trans (clock_setThr k _ s)
      · exact (clock_setThr k _ _).trans (clock_setThr k _ s)
      · exact (clock_dropThr k _).trans (clock_setThr k _ s)

theorem clock_raiseExc (k code : Nat) (s : State) : clockView (raiseExc k code s) = clockView s :=
  (clock_excTaken k code _).trans (clock_of_still (still_excCounted k code s))

theorem clock_settle (k : Nat) (s : State) : clockView (settle k s) = clockView s := by
  unfold settle
  dsimp only
  split
  · split
    · rfl
    · split
      · exact clock_raiseExc k 6 _
      · rfl
  · split
    · exact clock_raiseExc k 6 s
    · rfl

/-! ### Resets of slices -/

theorem clock_svcStop (k : Nat) (s : State) : clockView (svcStop k s) = clockView s := by
  unfold svcStop
  dsimp only
  split
  · split <;> rfl
  · rfl

theorem clock_foldl {α : Type} {f : State → α → State} (hf : ∀ x a, clockView (f x a) = clockView x) (l : List α)
    (s : State) : clockView (l.foldl f s) = clockView s := by
  induction l generalizing s with
  | nil => rfl
  | cons a l ih => exact (ih _).trans (hf s a)

theorem clock_sliceReset (n : Nat) (s : State) : clockView (sliceReset n s) = clockView s := by
  have hflush : clockView (sliceFlush n s) = clockView s :=
    clock_of_still (still_foldl (α := Nat × Ring) (f := fun s e => setRing e.1 (ringReset e.2) s) (fun _ _ => rfl) _ _)
  exact (clock_foldl (fun x k => clock_svcStop k x) (ownedThreads (sliceFlush n s) n) _).trans hflush

theorem clock_resetRequest (n : Nat) (s : State) : clockView (resetRequest n s) = clockView s := by
  unfold resetRequest
  dsimp only
  split
  · split
    · rfl
    · exact clock_sliceReset n s
  · rfl

theorem clock_ctlApply (s : State) : clockView (ctlApply s) = clockView (withHif (fun h => { h with ctlDue := [] }) s) :=
  clock_foldl (fun x n => clock_resetRequest n x) _ _

theorem ctlApply_of_none {s : State} (h : s.hif.ctlDue = []) : stillView (ctlApply s) = stillView s := by
  unfold ctlApply
  rw [h]
  simp only [List.foldl_nil, stillView, withHif, h]

/-! ### Requests and key commands of the cipher engine -/

theorem still_cphNotice (type low : Nat) (s : State) : stillView (cphNotice type low s) = stillView s := by
  rw [← still_eventLine (255 + type) (BitVec.ofNat 32 low) s]
  refine (still_intRaise 7 _).trans ?_
  split
  · rfl
  · exact still_rcount (by decide) _ _ _ _ _

theorem still_ivNotices (q : CphReq) (label : Nat) (g : Guard) (s : State) :
    stillView (ivNotices q label g s) = stillView s := by
  have hlast : ∀ (low : Nat) (x : State), stillView (if q.iv = 2 ^ 64 - 1 then cphNotice 4 low x else x) = stillView x := by
    intro low x
    split
    · exact still_cphNotice 4 low x
    · rfl
  unfold ivNotices
  dsimp only
  rw [hlast]
  split
  · exact still_cphNotice 3 _ s
  · rfl

theorem still_ivNotices_if (b : Bool) (q : CphReq) (label : Nat) (g : Guard) (s : State) :
    stillView (if b then ivNotices q label g s else s) = stillView s := by
  split
  · exact still_ivNotices q label g s
  · rfl

theorem still_acceptReq (q : CphReq) (s : State) : stillView (acceptReq q s) = stillView s := by
  have hmiss : ∀ b : Bool, stillView (if b then rcount s R.CPH_CACHE_STAT 0 31 0 1 else s) = stillView s := by
    intro b
    split
    · exact still_rcount (by decide) s _ _ _ _
    · rfl
  unfold acceptReq
  dsimp only
  split
  · exact (still_ivNotices_if _ _ _ _ _).trans (hmiss _)
  · exact still_ivNotices_if _ _ _ _ _

theorem clock_progReturn (k wid status code : Nat) (out : Option (Nat × Bytes × Bytes)) (s : State) :
    clockView (progReturn k wid status code out s) = clockView s := by
  unfold progReturn
  dsimp only
  split
  · rfl
  · split
    · exact clock_settle k _
    · rfl

theorem still_hostReturn (k wid : Nat) (f : Work → Ended → Ended) (s : State) :
    stillView (hostReturn k wid f s) = stillView s := by
  unfold hostReturn
  dsimp only
  split
  · split <;> rfl
  · rfl

theorem clock_refuseReq (q : CphReq) (code : Nat) (s : State) : clockView (refuseReq q code s) = clockView s := by
  have hcount : clockView (occur 6 2 code 1 (rcount s R.CPH_REFUSE_CNT code 31 0 1)) = clockView s :=
    clock_rcount (by decide) s _ _ _ _
  unfold refuseReq
  dsimp only
  rw [← hcount]
  split
  · exact clock_progReturn _ _ _ _ _ _
  · exact clock_of_still (still_hostReturn _ _ _ _)

theorem clock_judgeReq (q : CphReq) (rest : List CphReq) (s : State) :
    clockView (judgeReq q rest s) = clockView (withCph (fun c => { c with arrived := rest }) s) := by
  unfold judgeReq
  dsimp only
  split
  · exact clock_of_still (still_acceptReq q _)
  · exact clock_refuseReq q _ _

/-- What a key command leaves leaves the clocks and the threads. -/
def EffStill (s : State) : KeyEffect → Prop
  | .wait => True
  | .done _ t => stillView t = stillView s
  | .erasing _ t => stillView t = stillView s

theorem still_putSlot (n : Nat) (x : Slot) (s : State) : stillView (putSlot n x s) = stillView s := rfl

theorem effStill_keyWrite (last : Bool) (n : Nat) (x : Slot) (s : State) : EffStill s (keyWrite last n x s) := by
  unfold keyWrite
  split
  · trivial
  · split
    · split
      · exact rfl
      · exact still_putSlot n _ s
    · exact still_putSlot n x s

theorem still_setKeyData (bs : Bytes) (s : State) : stillView (setKeyData bs s) = stillView s :=
  still_foldl (fun x i => still_rset (by decide) x i _) _ s

theorem effStill_keyEffect (last : Bool) (op n m : Nat) (s : State) : EffStill s (keyEffect last op n m s) := by
  have hsame : ∀ r, EffStill s (.done r s) := fun _ => rfl
  unfold keyEffect
  dsimp only
  split
  · exact still_rset (by decide) s _ _
  · exact effStill_keyWrite ..
  · split
    · exact hsame 3
    · exact effStill_keyWrite ..
  · split
    · exact hsame 3
    · split
      · exact hsame 4
      · exact effStill_keyWrite ..
  · split
    · exact hsame 3
    · split
      · exact hsame 4
      · split
        · exact hsame 5
        · exact still_setKeyData _ s
  · split
    · exact hsame 4
    · split
      · exact hsame 6
      · exact effStill_keyWrite ..

theorem still_keyRetry (s : State) : stillView (keyRetry s) = stillView s := by
  unfold keyRetry
  split
  next j _ =>
    split
    · unfold keyTry
      dsimp only
      have heff := effStill_keyEffect true j.op j.slot j.slot2 s
      split
      next => rfl
      next h =>
        rw [h] at heff
        exact heff
      next h =>
        rw [h] at heff
        exact heff
    · rfl
  next => rfl

/-! ### The end of the tick's arrivals -/

theorem nextArrived_none {l : List CphReq} (h : nextArrived l = none) : l = [] := by
  cases l with
  | nil => rfl
  | cons q t =>
    simp only [nextArrived] at h
    split at h
    · cases h
    · split at h <;> cases h

theorem nextArrived_length {l : List CphReq} {q : CphReq} {rest : List CphReq} (h : nextArrived l = some (q, rest)) :
    rest.length + 1 = l.length := by
  induction l generalizing q rest with
  | nil => cases h
  | cons p t ih =>
    simp only [nextArrived] at h
    split at h
    next hnone =>
      cases h
      rw [nextArrived_none hnone]
      rfl
    next hsome =>
      split at h
      · cases h
        rfl
      · cases h
        exact congrArg (· + 1) (ih hsome)

/-- The clocks of a state, with `l` for the requests that wait. -/
def clockWith (l : List CphReq) (s : State) : Still := { clockView s with arrived := l }

theorem clockWith_acceptNext (s : State) :
    clockWith [] (acceptNext s) = clockWith [] s ∧ (acceptNext s).cph.arrived.length = s.cph.arrived.length - 1 := by
  unfold acceptNext
  split
  next q rest h =>
    have hclock := clock_judgeReq q rest s
    refine ⟨congrArg (fun v : Still => { v with arrived := [] }) hclock, ?_⟩
    have hlen := nextArrived_length h
    have hrest : (judgeReq q rest s).cph.arrived = rest := congrArg Still.arrived hclock
    rw [hrest]
    omega
  next h => exact ⟨rfl, by rw [nextArrived_none h]; rfl⟩

theorem clockWith_accepts (l : List CphReq) (s : State) :
    clockWith [] (l.foldl (fun s _ => acceptNext s) s) = clockWith [] s ∧
    (l.foldl (fun s _ => acceptNext s) s).cph.arrived.length = s.cph.arrived.length - l.length := by
  induction l generalizing s with
  | nil => exact ⟨rfl, rfl⟩
  | cons q l ih =>
    obtain ⟨hclock, hlen⟩ := clockWith_acceptNext s
    obtain ⟨hclock', hlen'⟩ := ih (acceptNext s)
    refine ⟨hclock'.trans hclock, hlen'.trans ?_⟩
    simp only [List.length_cons]
    omega

/-- R456: with the tick's end every request that arrived on it is accepted or refused. -/
theorem clock_cphEnd (s : State) : clockView (cphEnd s) = clockView (withCph (fun c => { c with arrived := [] }) s) := by
  obtain ⟨hclock, hlen⟩ := clockWith_accepts s.cph.arrived s
  have hnil := List.length_eq_zero_iff.1 (hlen.trans (Nat.sub_self _))
  refine (clock_of_still (still_keyRetry _)).trans (Eq.trans ?_ hclock)
  simp only [clockWith, clockView, stillView, hnil]

theorem cphEnd_of_none {s : State} (h : s.cph.arrived = []) : stillView (cphEnd s) = stillView s := by
  rw [cphEnd, h, List.foldl_nil, still_keyRetry]

/-! ### The inboxes -/

/-- R107: a thread that an entry of its inbox can wake. -/
def Asleep (t : Thread) : Prop := t.svc = true ∧ t.st = .sleeping

theorem inboxWake_of_awake {s : State} {k : Nat} (h : ¬ Asleep (thr s k)) : inboxWake k s = s := by
  unfold inboxWake
  dsimp only
  split
  · exact if_neg h
  · rfl

theorem takeInbox_svc (t : Thread) (rd : Nat) (e : InboxEntry) : (takeInbox t rd e).svc = t.svc := by
  unfold takeInbox gset
  dsimp only
  split <;> split <;> rfl

theorem takeInbox_st (t : Thread) (rd : Nat) (e : InboxEntry) : (takeInbox t rd e).st = .ready := by
  unfold takeInbox gset
  dsimp only
  split <;> split <;> rfl

theorem inboxWake_of_asleep {s : State} {k : Nat} {e : InboxEntry} {rest : List InboxEntry} (h : Asleep (thr s k))
    (hin : (thr s k).inbox = e :: rest) :
    inboxWake k s =
      (let u := setThr s k (takeInbox { thr s k with inbox := rest } (thr s k).sleepRd e)
       if (thr s k).exc6 then haltThr k 6 (excCounted k 6 u) else u) := by
  have hsvc : (thr (setThr s k (takeInbox { thr s k with inbox := rest } (thr s k).sleepRd e)) k).svc = true := by
    rw [thr_setThr_self, takeInbox_svc]
    exact h.1
  unfold inboxWake
  dsimp only
  rw [hin, ← raiseExc_of_svc hsvc]
  exact if_pos h

theorem clock_inboxWake (k : Nat) (s : State) : clockView (inboxWake k s) = clockView s := by
  unfold inboxWake
  dsimp only
  split
  · split
    · split
      · exact clock_raiseExc k 6 _
      · rfl
    · rfl
  · rfl

theorem clock_inboxTick (s : State) : clockView (inboxTick s) = clockView s :=
  clock_foldl (fun x k => clock_inboxWake k x) _ s

theorem thr_inboxWake_ne {s : State} {k j : Nat} (h : j ≠ k) : thr (inboxWake k s) j = thr s j := by
  by_cases hsleep : Asleep (thr s k)
  · rcases hin : (thr s k).inbox with _ | ⟨e, rest⟩
    · unfold inboxWake
      dsimp only
      rw [hin]
    · rw [inboxWake_of_asleep hsleep hin]
      dsimp only
      split
      · exact (thr_setThr_ne _ _ h).trans ((thr_of_still (still_excCounted k 6 _) j).trans (thr_setThr_ne _ _ h))
      · exact thr_setThr_ne _ _ h
  · rw [inboxWake_of_awake hsleep]

theorem thr_inboxWakes_of_awake {k : Nat} (l : List Nat) (s : State) (h : ¬ Asleep (thr s k)) :
    thr (l.foldl (fun s k => inboxWake k s) s) k = thr s k := by
  induction l generalizing s with
  | nil => rfl
  | cons j l ih =>
    have hstep : thr (inboxWake j s) k = thr s k := by
      by_cases hj : k = j
      · rw [← hj, inboxWake_of_awake h]
      · exact thr_inboxWake_ne hj
    exact (ih _ (hstep ▸ h)).trans hstep

/-- R107: an entry in its inbox wakes a sleeping thread. -/
theorem thr_inboxWakes_of_asleep {k : Nat} {l : List Nat} {s : State} (hk : k ∈ l) (h : Asleep (thr s k))
    (hin : (thr s k).inbox ≠ []) (hexc : (thr s k).exc6 = false) :
    (thr (l.foldl (fun s k => inboxWake k s) s) k).st = .ready := by
  induction l generalizing s with
  | nil => cases hk
  | cons j l ih =>
    by_cases hj : k = j
    · subst hj
      obtain ⟨e, rest, hin⟩ := List.exists_cons_of_ne_nil hin
      have hwoken : (thr (inboxWake k s) k).st = .ready := by
        rw [inboxWake_of_asleep h hin, hexc]
        exact (congrArg Thread.st (thr_setThr_self _ _ _)).trans (takeInbox_st _ _ _)
      have hawake : ¬ Asleep (thr (inboxWake k s) k) := by
        rintro ⟨-, hst⟩
        rw [hwoken] at hst
        cases hst
      exact (congrArg Thread.st (thr_inboxWakes_of_awake l _ hawake)).trans hwoken
    · have hsame : thr (inboxWake j s) k = thr s k := thr_inboxWake_ne hj
      exact ih ((List.mem_cons.1 hk).resolve_left hj) (hsame ▸ h) (hsame ▸ hin) (hsame ▸ hexc)

theorem mem_of_mfind {α : Type} {m : SMap α} {k : Nat} {v : α} (h : mfind m k = some v) : (k, v) ∈ m := by
  induction m with
  | nil => cases h
  | cons e m ih =>
    simp only [mfind] at h
    split at h
    next hk =>
      cases h
      rw [← hk]
      exact List.mem_cons_self
    next => exact List.mem_cons_of_mem e (ih h)

theorem mem_thrKeys_of_asleep {s : State} {k : Nat} (h : Asleep (thr s k)) : k ∈ thrKeys s := by
  rcases hfind : mfind s.sen.threads k with _ | t
  · have hempty : thr s k = Thread.empty := by
      simp only [thr, mget, hfind]
      rfl
    rw [hempty] at h
    exact absurd h.2 (by decide)
  · exact List.mem_map_of_mem (f := fun e => e.1) (mem_of_mfind hfind)

end Sys2Proof.Proofs
end

section
/-! O20: a tick of the time bus. First what the tick that ends leaves behind, then the two counts, then the threads that wake
and what is judged on every tick. -/

namespace Sys2Proof.Proofs
open Sys2Proof Sys2Proof.Machine Sys2Proof.Laws

/-- The end of a tick whose step and commit are made: its requests are judged, its resets applied, its counts added. -/
def tickEnds (s : State) : State := gauEnd (ctlApply (cphEnd s))

/-- The counts move on by a tick, and entries of the time-action table fall due. -/
def tickMoves (s : State) : State :=
  let s := { s with was := [] }
  let s := withTau (fun t => { t with mono := (t.mono + 1) % 2 ^ 64, phc := phcWrap (t.phc + phcTickUnits s),
                                      qPhc := phcWrap (t.qPhc + 5 * 2 ^ 45), taOld := t.taDue.length, taFired := 0 }) s
  if s.tau.step.isSome then s else taFallDue false s

/-- What is judged on every tick after HOLDOVER. -/
def tickJudges (s : State) : State :=
  intTick (memRelease .mch (memRelease .mcd (letGoTick (bpmTick (fabTick (judgeElig (tcamTick (lkpTick (csqTick s)))))))))

theorem execTimeBusTick_eq (s : State) : execTimeBusTick s =
    .next (tickJudges (holdTick (inboxTick (tickMoves (tickEnds (commitEnd (applyStep s))))))) := rfl

/-- R69, R204: a commit that waits for the tick's commands is made first. -/
theorem execTimeBusTick_commitEnd {s : State} (h : s.tau.step = none) :
    execTimeBusTick s = execTimeBusTick (commitEnd s) := by
  rw [execTimeBusTick_eq, execTimeBusTick_eq, applyStep_of_none h, applyStep_of_none ((commitEnd_says s).1.trans h),
    commitEnd_commitEnd]

/-! ### The tick that ends -/

theorem clock_tickEnds (s : State) : clockView (tickEnds s) = { clockView s with arrived := [], due := [] } := by
  have hctl := clock_ctlApply (cphEnd s)
  have hcph := clock_cphEnd s
  exact (clock_of_still (still_gauEnd _)).trans (hctl.trans (congrArg (fun v : Still => { v with due := [] }) hcph))

theorem threads_tickEnds {s : State} (harr : s.cph.arrived = []) (hdue : s.hif.ctlDue = []) :
    (tickEnds s).sen.threads = s.sen.threads := by
  have hcph := cphEnd_of_none harr
  have hdue' : (cphEnd s).hif.ctlDue = [] := (congrArg Still.due hcph :).trans hdue
  exact threads_of_still ((still_gauEnd _).trans ((ctlApply_of_none hdue').trans hcph))

/-- R41: the correction by ADJ is that of the tick that ends. -/
theorem phcTickUnits_tickEnds (s : State) : phcTickUnits (tickEnds s) = phcTickUnits s := by
  have hfreq : rget (tickEnds s) R.TAU_PHC_FREQ 0 = rget s R.TAU_PHC_FREQ 0 :=
    rget_of_low (congrArg Still.low (clock_tickEnds s) :) (by decide)
  simp only [phcTickUnits, phcAdj, rfld, hfreq]

/-- R41: without a correction a tick is 0.625 ns. -/
theorem phcTickUnits_of_zero {s : State} (h : rfld s R.TAU_PHC_FREQ 0 31 0 = 0) : phcTickUnits s = 5 * 2 ^ 45 := by
  have hadj : phcAdj s = 0 := by
    rw [phcAdj, h]
    rfl
  rw [phcTickUnits, hadj]
  rfl

/-! ### The counts -/

/-- The TAU's counts and its epoch, and what a tick clears. -/
structure Counts where
  mono : Nat
  phc : Nat
  taFired : Nat
  holdClr : Bool
  curEpoch : Nat
  arrived : List CphReq
  due : List Nat
  was : SMap Word

/-- Those of a clock. -/
def Still.counts (v : Still) : Counts :=
  ⟨v.tau.mono, v.tau.phc, v.tau.taFired, v.tau.holdClr, v.tau.curEpoch, v.arrived, v.due, v.was⟩

theorem mono_counts (s : State) : (clockView s).counts.mono = s.tau.mono := rfl

theorem phc_counts (s : State) : (clockView s).counts.phc = s.tau.phc := rfl

theorem holdClr_counts (s : State) : (clockView s).counts.holdClr = s.tau.holdClr := rfl

theorem counts_says {s : State} {mono phc fired epoch : Nat} {clr : Bool} {arr : List CphReq} {due : List Nat}
    {was : SMap Word} (h : (clockView s).counts = ⟨mono, phc, fired, clr, epoch, arr, due, was⟩) :
    s.tau.mono = mono ∧ s.tau.phc = phc ∧ s.tau.taFired = fired ∧ s.tau.curEpoch = epoch ∧ s.cph.arrived = arr ∧
      s.hif.ctlDue = due ∧ s.was = was := by
  cases h
  exact ⟨rfl, rfl, rfl, rfl, rfl, rfl, rfl⟩

theorem counts_tickEnds (s : State) :
    (clockView (tickEnds s)).counts = { (clockView s).counts with arrived := [], due := [] } := by
  rw [clock_tickEnds]
  rfl

theorem counts_tickMoves (s : State) : (clockView (tickMoves s)).counts =
    { (clockView s).counts with mono := (s.tau.mono + 1) % 2 ^ 64, phc := phcWrap (s.tau.phc + phcTickUnits s),
                                taFired := 0, was := [] } := by
  unfold tickMoves
  dsimp only
  split <;> rfl

theorem threads_tickMoves (s : State) : (tickMoves s).sen.threads = s.sen.threads := by
  unfold tickMoves
  dsimp only
  split <;> rfl

/-! ### HOLDOVER, and what is judged on every tick -/

theorem counts_holdTick (s : State) : (clockView (holdTick s)).counts = { (clockView s).counts with holdClr := false } := by
  unfold holdTick
  split
  next => rfl
  next h => rw [← Bool.eq_false_iff.2 h]; rfl

theorem threads_holdTick (s : State) : (holdTick s).sen.threads = s.sen.threads := by
  unfold holdTick
  split <;> rfl

/-- R42: a write of HOLD_TIMEOUT = 0 ends holdover. -/
theorem holdTick_clears {s : State} (h : s.tau.holdClr = true) : rbit (holdTick s) R.TAU_STATUS 0 8 = false := by
  rw [holdTick, if_pos h, rbit_rsetF_bit _ _ _ _ _ (by decide)]
  rfl

theorem still_tickJudges (s : State) : stillView (tickJudges s) = stillView s := by
  rw [tickJudges, still_intTick, still_memRelease, still_memRelease, still_letGoTick, still_bpmTick, still_fabTick,
    still_judgeElig, still_tcamTick, still_lkpTick, still_csqTick]

/-! ### The whole tick -/

/-- What a tick leaves, its step and commit made. -/
def tickFrom (s : State) : State := tickJudges (holdTick (inboxTick (tickMoves (tickEnds s))))

theorem execTimeBusTick_now {s : State} (hstep : ∀ q k, s.tau.step = some (q, k) → k = s.tau.mono)
    (hcommit : s.tau.commitDue = false) : execTimeBusTick s = .next (tickFrom s) := by
  have happly : applyStep s = s := by
    rcases hs : s.tau.step with _ | ⟨q, k⟩
    · exact applyStep_of_none hs
    · exact applyStep_of_now (hs.trans (congrArg (fun n => some (q, n)) (hstep q k hs)))
  rw [execTimeBusTick_eq, happly, commitEnd_of_none hcommit]
  rfl

theorem counts_tickFrom (s : State) : (clockView (tickFrom s)).counts =
    ⟨(s.tau.mono + 1) % 2 ^ 64, phcWrap (s.tau.phc + phcTickUnits s), 0, false, s.tau.curEpoch, [], [], []⟩ := by
  have hends := counts_tickEnds s
  have hmono : (tickEnds s).tau.mono = s.tau.mono := by
    rw [← mono_counts, hends, ← mono_counts]
  have hphc : (tickEnds s).tau.phc = s.tau.phc := by
    rw [← phc_counts, hends, ← phc_counts]
  rw [tickFrom, clock_of_still (still_tickJudges _), counts_holdTick, clock_inboxTick, counts_tickMoves, hends,
    phcTickUnits_tickEnds, hmono, hphc]
  rfl

theorem tickFrom_endsHoldover {s : State} (h : s.tau.holdClr = true) : rbit (tickFrom s) R.TAU_STATUS 0 8 = false := by
  have hclr : (inboxTick (tickMoves (tickEnds s))).tau.holdClr = true := by
    rw [← holdClr_counts, clock_inboxTick, counts_tickMoves, counts_tickEnds, ← h, ← holdClr_counts]
  rw [rbit, tickFrom, rget_of_clock (clock_of_still (still_tickJudges _)) (by decide)]
  exact holdTick_clears hclr

/-- R107: the threads of a tick on which no request is judged and no reset applied are those that its inboxes wake. -/
theorem thr_tickFrom {s : State} (harr : s.cph.arrived = []) (hdue : s.hif.ctlDue = []) :
    ∃ u, u.sen.threads = s.sen.threads ∧ ∀ k, thr (tickFrom s) k = thr (inboxTick u) k := by
  refine ⟨tickMoves (tickEnds s), (threads_tickMoves _).trans (threads_tickEnds harr hdue), fun k => ?_⟩
  rw [tickFrom, thr_of_still (still_tickJudges _)]
  simp only [thr, threads_holdTick]

/-- Settles O20: without a commit to wait for, what a tick leaves is said above, part by part. -/
theorem tickMovesTheClocks : Obligations.TickMovesTheClocks := by
  intro s
  have hcommitted : s.tau.step = none → exec .timeBusTick s = exec .timeBusTick (commitEnd s) :=
    fun hstep => execTimeBusTick_commitEnd hstep
  refine ⟨hcommitted, fun hstep hcommit hmono hphc => ?_⟩
  have hexec : exec .timeBusTick s = .next (tickFrom s) := execTimeBusTick_now hstep hcommit
  obtain ⟨htick, htime, hfired, hepoch, harr, hdue, hwas⟩ := counts_says (counts_tickFrom s)
  rw [Nat.mod_eq_of_lt hmono] at htick
  rw [phcWrap_of_lt hphc] at htime
  refine ⟨tickFrom s, hexec, htick, htime, hfired, fun hadj => ?nominal, tickFrom_endsHoldover,
    (execTimeBusTick_kept s (kept_refl s) _ hexec).1, hepoch, fun harr hdue => ?threads, harr, hdue, hwas⟩
  case nominal =>
    rw [htime, phcTickUnits_of_zero hadj]
    omega
  case threads =>
    obtain ⟨u, hthr, hwoken⟩ := thr_tickFrom harr hdue
    have hsame : ∀ k, thr u k = thr s k := fun k => by simp only [thr, hthr]
    refine ⟨fun k hawake => ?_, fun k hsvc hst hin hexc => ?_⟩
    · rw [hwoken, ← hsame]
      exact thr_inboxWakes_of_awake _ u ((hsame k).symm ▸ hawake)
    · have hsleep : Asleep (thr u k) := (hsame k).symm ▸ ⟨hsvc, hst⟩
      rw [hwoken]
      exact thr_inboxWakes_of_asleep (mem_thrKeys_of_asleep hsleep) hsleep ((hsame k).symm ▸ hin) ((hsame k).symm ▸ hexc)

end Sys2Proof.Proofs
end

section
/-! SUPPORT. What a change of LINK, the end of a frame that is received and the end of a port's use reach (R249, R250, R279,
R319): the unit states stay, and of the registers below the SEN's only the ports' own change. -/

namespace Sys2Proof.Proofs
open Sys2Proof Sys2Proof.Machine Sys2Proof.Laws

/-! ### The error unit while a frame ends -/

theorem err_foldl {α : Type} {f : State → α → State} (hf : ∀ x a, (f x a).err = x.err) (l : List α) (s : State) :
    (l.foldl f s).err = s.err := by
  induction l generalizing s with
  | nil => rfl
  | cons a l ih => exact (ih _).trans (hf s a)

theorem err_hostDeliver (sl : Nat) (p : Packet) (s : State) : (hostDeliver sl p s).err = s.err := by
  unfold hostDeliver
  dsimp only
  split
  · split <;> rfl
  · rfl

theorem err_hostThr (k sl : Nat) (s : State) : (hostThr k sl s).err = s.err := by
  unfold hostThr
  dsimp only
  split
  · exact err_hostDeliver _ _ _
  · rfl

theorem err_dropThr (k : Nat) (s : State) : (dropThr k s).err = s.err := rfl

theorem err_haltThr (k code : Nat) (s : State) : (haltThr k code s).err = s.err := rfl

theorem err_excCounted (k code : Nat) (s : State) : (excCounted k code s).err = s.err := by
  unfold excCounted
  dsimp only
  split <;> rfl

theorem err_excTaken (k code : Nat) (s : State) : (excTaken k code s).err = s.err := by
  unfold excTaken
  dsimp only
  split
  · exact err_haltThr k code s
  · split
    · exact (err_dropThr k _).trans (setThr_err s k _)
    · split
      · exact (err_hostThr k _ _).trans (setThr_err s k _)
      · exact (setThr_err _ k _).trans (setThr_err s k _)
      · exact (err_dropThr k _).trans (setThr_err s k _)

theorem err_raiseExc (k code : Nat) (s : State) : (raiseExc k code s).err = s.err :=
  (err_excTaken k code _).trans (err_excCounted k code s)

theorem err_settle (k : Nat) (s : State) : (settle k s).err = s.err := by
  unfold settle
  dsimp only
  split
  · split
    · rfl
    · split
      · exact err_raiseExc k 6 (setThr _ _ _)
      · rfl
  · split
    · exact err_raiseExc k 6 s
    · rfl

theorem err_completeCut (src n : Nat) (good : Bool) (s : State) (c : CutRec) : (completeCut src n good s c).err = s.err := by
  unfold completeCut
  dsimp only
  split
  · split <;> rfl
  · rfl

theorem err_cntAdd (i n : Nat) (s : State) : (cntAdd i n s).err = s.err := by
  unfold cntAdd
  dsimp only
  split
  · split <;> rfl
  · rfl

theorem err_finishFrame (src : Nat) (ext : Bytes) (good : Bool) (s : State) : (finishFrame src ext good s).err = s.err := by
  unfold finishFrame
  dsimp only
  refine (err_foldl (fun x k => err_settle k x) _ _).trans ?_
  refine (err_foldl (fun x d => err_cntAdd _ _ x) _ _).trans ?_
  refine (err_foldl (err_completeCut src ext.length good) _ _).trans ?_
  exact err_foldl (fun x k => setThr_err x k _) _ _

/-! ### The ports -/

/-- The registers of the ports, PORT_CFG and PORT_STAT. -/
def portRegs (a : Nat) : Prop := liuBase ≤ a ∧ a < liuBase + 0x800

/-- Of the registers below the SEN's only the ports' own change, and neither the error unit nor the lanes' loss of lock. -/
structure PortsOnly (s t : State) : Prop where
  regs : ∀ a, a < senBase → ¬ portRegs a → mfind t.regs a = mfind s.regs a
  err : t.err = s.err
  unlocked : t.liu.unlocked = s.liu.unlocked

theorem PortsOnly.refl (s : State) : PortsOnly s s := ⟨fun _ _ _ => rfl, rfl, rfl⟩

theorem PortsOnly.trans {s t u : State} (h : PortsOnly s t) (h' : PortsOnly t u) : PortsOnly s u :=
  ⟨fun a ha hp => (h'.regs a ha hp).trans (h.regs a ha hp), h'.err.trans h.err, h'.unlocked.trans h.unlocked⟩

theorem PortsOnly.rget {s t : State} (h : PortsOnly s t) {r : Reg} {i : Nat} (hlow : regAddr r i < senBase)
    (hp : ¬ portRegs (regAddr r i)) : rget t r i = rget s r i := by
  simp only [Machine.rget, h.regs _ hlow hp]

theorem portsOnly_of_line {s t : State} (h : LineKept s t) (herr : t.err = s.err) : PortsOnly s t :=
  ⟨fun a ha _ => h.2 a ha, herr, congrArg Liu.unlocked h.1⟩

theorem portsOnly_rsetF {r : Reg} {i : Nat} (hr : portRegs (regAddr r i)) (s : State) (hi lo v : Nat) :
    PortsOnly s (rsetF s r i hi lo v) := by
  refine ⟨fun a _ hp => ?_, rfl, rfl⟩
  have hne : a ∉ [regAddr r i] := fun hmem => hp (List.mem_singleton.1 hmem ▸ hr)
  exact regsBut_rsetF (regsBut_refl _ s) (List.mem_singleton_self _) _ _ _ a hne

theorem portsOnly_setLiuPort (p : Nat) (x : LiuPort) (s : State) : PortsOnly s (setLiuPort p x s) :=
  ⟨fun _ _ _ => rfl, rfl, rfl⟩

theorem portRegs_cfg {p : Nat} (hp : p < 128) : portRegs (regAddr R.LIU_PORT_CFG p) := by
  change 0x200000 ≤ 0x200000 + 8 * p ∧ 0x200000 + 8 * p < 0x200000 + 0x800
  omega

theorem portRegs_stat {p : Nat} (hp : p < 128) : portRegs (regAddr R.LIU_PORT_STAT p) := by
  change 0x200000 ≤ 0x200400 + 8 * p ∧ 0x200400 + 8 * p < 0x200000 + 0x800
  omega

/-! ### LINK -/

/-- LINK with the faults as the port shows them, its fall counted (R250). -/
def linkShown (p : Nat) (link lf rf ber : Bool) (s : State) : State :=
  let t := rsetF s R.LIU_PORT_STAT p 63 60 (link.toNat * 8 + lf.toNat * 4 + rf.toNat * 2 + ber.toNat)
  if rbit s R.LIU_PORT_STAT p 63 && !link then rcount t R.LIU_PORT_STAT p 15 0 1 else t

theorem lineKept_eventLine (k : Nat) (ev : Word32) (s : State) : LineKept s (eventLine k ev s) := by
  unfold eventLine
  dsimp only
  split <;> exact lineKept_of_eq rfl rfl

theorem lineKept_judgeElig (s : State) : LineKept s (judgeElig s) :=
  (lineKept_foldl (f := fun s k => clearDeficit k s) (fun _ _ => lineKept_of_eq rfl rfl) _ s).trans (lineKept_of_eq rfl rfl)

theorem lineKept_tmgLinkFall (p : Nat) (s : State) : LineKept s (tmgLinkFall p s) := by
  unfold tmgLinkFall
  split
  · exact ((lineKept_rset (by decide) s p _).trans (lineKept_judgeElig _)).trans (lineKept_of_eq rfl rfl)
  · exact lineKept_of_eq rfl rfl

theorem lineKept_tmgLinkRise (p : Nat) (s : State) : LineKept s (tmgLinkRise p s) := by
  unfold tmgLinkRise
  split
  · exact lineKept_rset (by decide) s p _
  · exact lineKept_of_eq rfl rfl

/-- R250, R319: besides what the port shows, a change of LINK reaches the TMG and an event line. -/
theorem lineKept_linkTo (p : Nat) (link lf rf ber : Bool) (s : State) :
    LineKept (linkShown p link lf rf ber s) (linkTo p link lf rf ber s) := by
  unfold linkShown linkTo linkEvent
  dsimp only
  split
  · exact (lineKept_tmgLinkFall p _).trans (lineKept_eventLine _ _ _)
  · split
    · exact (lineKept_tmgLinkRise p _).trans (lineKept_eventLine _ _ _)
    · exact lineKept_of_eq rfl rfl

/-- What a change of LINK leaves of the error unit and of the frames that start. -/
theorem kept_linkTo (p : Nat) (link lf rf ber : Bool) (s : State) :
    (linkTo p link lf rf ber s).err = s.err ∧ (linkTo p link lf rf ber s).sen.toIng = s.sen.toIng := by
  have hevent : ∀ x : State, (linkEvent p x).err = x.err ∧ (linkEvent p x).sen.toIng = x.sen.toIng := by
    intro x
    unfold linkEvent eventLine
    dsimp only
    split <;> exact ⟨rfl, rfl⟩
  have helig : ∀ (l : List Nat) (x : State), (l.foldl (fun s k => clearDeficit k s) x).err = x.err ∧
      (l.foldl (fun s k => clearDeficit k s) x).sen = x.sen := by
    intro l
    induction l with
    | nil => exact fun _ => ⟨rfl, rfl⟩
    | cons k l ih => exact fun x => ih (clearDeficit k x)
  have hfall : ∀ x : State, (tmgLinkFall p x).err = x.err ∧ (tmgLinkFall p x).sen = x.sen := by
    intro x
    unfold tmgLinkFall
    split
    · exact helig _ (rsetF x R.TMG_PORT_STAT p 63 62 1)
    · exact ⟨rfl, rfl⟩
  have hrise : ∀ x : State, (tmgLinkRise p x).err = x.err ∧ (tmgLinkRise p x).sen = x.sen := by
    intro x
    unfold tmgLinkRise
    split <;> exact ⟨rfl, rfl⟩
  unfold linkTo
  dsimp only
  split
  · rw [(hevent _).1, (hevent _).2, (hfall _).1, (hfall _).2]
    exact ⟨rfl, rfl⟩
  · split
    · rw [(hevent _).1, (hevent _).2, (hrise _).1, (hrise _).2]
      exact ⟨rfl, rfl⟩
    · exact ⟨rfl, rfl⟩

theorem portsOnly_linkTo {p : Nat} (hp : p < 128) (link lf rf ber : Bool) (s : State) :
    PortsOnly s (linkTo p link lf rf ber s) := by
  have hshown : PortsOnly s (linkShown p link lf rf ber s) := by
    have hstat := portRegs_stat hp
    unfold linkShown
    dsimp only
    split
    · exact (portsOnly_rsetF hstat s _ _ _).trans (portsOnly_rsetF hstat _ _ _ _)
    · exact portsOnly_rsetF hstat s _ _ _
  obtain ⟨hliu, hlow⟩ := lineKept_linkTo p link lf rf ber s
  exact ⟨fun a ha hport => (hlow a ha).trans (hshown.regs a ha hport), (kept_linkTo p link lf rf ber s).1,
    (congrArg Liu.unlocked hliu).trans hshown.unlocked⟩

theorem liu_linkTo (p : Nat) (link lf rf ber : Bool) (s : State) : (linkTo p link lf rf ber s).liu = s.liu := by
  refine (lineKept_linkTo p link lf rf ber s).1.trans ?_
  unfold linkShown
  dsimp only
  split <;> rfl

theorem rget_linkTo {p : Nat} (link lf rf ber : Bool) (s : State) {r : Reg} {i : Nat} (hlow : regAddr r i < senBase)
    (hne : regAddr r i ≠ regAddr R.LIU_PORT_STAT p) : rget (linkTo p link lf rf ber s) r i = rget s r i := by
  have hline : rget (linkTo p link lf rf ber s) r i = rget (linkShown p link lf rf ber s) r i := by
    simp only [rget, (lineKept_linkTo p link lf rf ber s).2 _ hlow]
  rw [hline, linkShown]
  split
  · rw [rget_rcount_ne hne, rget_rsetF_ne hne]
  · rw [rget_rsetF_ne hne]

theorem rfld_linkTo_stat {p : Nat} (hp : p < 128) (link lf rf ber : Bool) (s : State) (hi lo : Nat) :
    rfld (linkTo p link lf rf ber s) R.LIU_PORT_STAT p hi lo = rfld (linkShown p link lf rf ber s) R.LIU_PORT_STAT p hi lo := by
  have hlow : regAddr R.LIU_PORT_STAT p < senBase := by
    change 0x200400 + 8 * p < 0x400000
    omega
  simp only [rfld, rget, (lineKept_linkTo p link lf rf ber s).2 _ hlow]

/-- R250: LINK and the faults as they are shown. -/
theorem link_linkTo {p : Nat} (hp : p < 128) (link lf rf ber : Bool) (s : State) :
    rfld (linkTo p link lf rf ber s) R.LIU_PORT_STAT p 63 60 =
      link.toNat * 8 + lf.toNat * 4 + rf.toNat * 2 + ber.toNat := by
  have hsmall : link.toNat * 8 + lf.toNat * 4 + rf.toNat * 2 + ber.toNat < 2 ^ (63 + 1 - 60) := by
    have hl := Bool.toNat_le link
    have hf := Bool.toNat_le lf
    have hr := Bool.toNat_le rf
    have hb := Bool.toNat_le ber
    omega
  rw [rfld_linkTo_stat hp, linkShown]
  split
  · rw [rcount, rfld_rsetF_apart _ _ _ _ (by decide) (by decide) (by decide),
      rfld_rsetF_self _ _ _ _ _ _ (by decide) (by decide), Nat.mod_eq_of_lt hsmall]
  · rw [rfld_rsetF_self _ _ _ _ _ _ (by decide) (by decide), Nat.mod_eq_of_lt hsmall]

/-- R250: every fall of LINK is counted. -/
theorem downs_linkTo {p : Nat} (hp : p < 128) (link lf rf ber : Bool) (s : State) :
    rfld (linkTo p link lf rf ber s) R.LIU_PORT_STAT p 15 0 =
      if rbit s R.LIU_PORT_STAT p 63 && !link then min (rfld s R.LIU_PORT_STAT p 15 0 + 1) 65535
      else rfld s R.LIU_PORT_STAT p 15 0 := by
  rw [rfld_linkTo_stat hp, linkShown]
  split
  · rw [rfld_rcount_self _ _ _ _ (by decide) (by decide), rfld_rsetF_apart _ _ _ _ (by decide) (by decide) (by decide)]
    rfl
  · rw [rfld_rsetF_apart _ _ _ _ (by decide) (by decide) (by decide)]

/-! ### The end of a port's use -/

/-- R249: a port that receives nothing has nothing to stop; else its frame ends on the SEN's side of the line. -/
theorem rxStop_says (p : Nat) (s : State) :
    ((liuPort s p).rx = none ∧ rxStop p s = s) ∨
    (LineKept (setLiuPort p { liuPort s p with rx := none } s) (rxStop p s) ∧ (rxStop p s).err = s.err) := by
  unfold rxStop
  split
  next h => exact .inl ⟨h, rfl⟩
  next f h =>
    refine .inr ?_
    dsimp only
    split
    · split
      · exact ⟨lineKept_of_eq rfl rfl, rfl⟩
      · exact ⟨lineKept_finishFrame f.pid [] false _, err_finishFrame f.pid [] false _⟩
    · exact ⟨lineKept_of_eq rfl rfl, rfl⟩

theorem liuPort_rxStop (p : Nat) (s : State) : (liuPort (rxStop p s) p).rx = none := by
  obtain ⟨hrx, heq⟩ | ⟨hline, -⟩ := rxStop_says p s
  · rw [heq, hrx]
  · rw [liuPort_of_liu hline.1, liuPort_setLiuPort_self]

theorem rget_rxStop (p : Nat) (s : State) {r : Reg} {i : Nat} (hlow : regAddr r i < senBase) :
    rget (rxStop p s) r i = rget s r i := by
  obtain ⟨-, heq⟩ | ⟨hline, -⟩ := rxStop_says p s
  · rw [heq]
  · simp only [rget, hline.2 _ hlow]
    rfl

theorem portsOnly_rxStop (p : Nat) (s : State) : PortsOnly s (rxStop p s) := by
  obtain ⟨-, heq⟩ | ⟨hline, herr⟩ := rxStop_says p s
  · rw [heq]
    exact PortsOnly.refl s
  · exact (portsOnly_setLiuPort p _ s).trans (portsOnly_of_line hline herr)

theorem portsOnly_cutWire (p : Nat) (s : State) : PortsOnly s (cutWire p s) := by
  unfold cutWire
  split
  · dsimp only
    split <;> exact ⟨fun _ _ _ => rfl, rfl, rfl⟩
  · exact PortsOnly.refl s

end Sys2Proof.Proofs
end

section
/-! O30: the line ports with their LINK (R246 to R250), then the lanes and the SyncE outputs that name them (R43, R48, R279,
R525). -/

namespace Sys2Proof.Proofs
open Sys2Proof Sys2Proof.Machine Sys2Proof.Laws

/-! ### The use of a port -/

theorem modeOk_of_regs {s t : State} (h : t.regs = s.regs) (p m : Nat) : modeOk t p m = modeOk s p m := by
  have hretired : laneRetired t = laneRetired s := funext fun l => by simp only [laneRetired, rbit, rget_of_regs h]
  have hmode : portMode t = portMode s := funext fun q => by simp only [portMode, rfld, rget_of_regs h]
  have hport : lanePort t = lanePort s := by
    unfold lanePort
    rw [hmode]
  unfold modeOk
  rw [hretired, hport]

theorem hostStore_regs_of_regs {s t : State} (h : t.regs = s.regs) (r : Reg) (i : Nat) (v : Word) :
    (hostStore false r i v t).regs = (hostStore false r i v s).regs := by
  simp only [hostStore, storeVal, rset, noteWas_regs, rget_of_regs h, h]

/-- R246, R249: an accepted write of EN = 1 stores the MODE, and EN last. -/
theorem portWrite_of_enable {s : State} {p : Nat} {v : Word} (hoff : portEn s p = false) (hen : bit v 63 = true)
    (hlo : 1 ≤ fld v 3 0) (hhi : fld v 3 0 ≤ 12)
    (hok : modeOk (hostStore false R.LIU_PORT_CFG p v s) p (fld v 3 0) = true) :
    ∃ u, portEn u p = true ∧ portMode u p = fld v 3 0 ∧ u.sen = s.sen ∧
      portWrite p v s = otnStart p (linkTo p false true false false u) := by
  have hclamp : clampField (.enum 12 0) (fld v 3 0) = fld v 3 0 := if_pos hhi
  have hok' : modeOk (hostStore false R.LIU_PORT_CFG p v (cfgNote p s)) p (fld v 3 0) = true := by
    rw [← hok]
    exact modeOk_of_regs (hostStore_regs_of_regs (t := cfgNote p s) rfl _ _ _) _ _
  have hsen : (hostStore false R.LIU_PORT_CFG p v (cfgNote p s)).sen = s.sen := by
    rw [hostStore_sen]
    rfl
  have hne : fld v 3 0 ≠ 0 := by omega
  unfold portWrite
  unfold portEn at hoff
  dsimp only
  rw [hclamp, if_neg (by simp [hoff]), if_pos hok', if_pos (by simp [hen, hok', hne])]
  generalize hostStore false R.LIU_PORT_CFG p v (cfgNote p s) = t at hsen
  refine ⟨_, ?en, ?mode, ?sen, rfl⟩
  case en =>
    rw [portEn, rbit_rsetF_bit _ _ _ _ _ (by decide)]
    rfl
  case mode =>
    have hsmall : fld v 3 0 < 2 ^ (3 + 1 - 0) := by omega
    rw [portMode, rfld_rsetF_apart _ _ _ _ (by decide) (by decide) (by decide),
      rfld_rsetF_apart _ _ _ _ (by decide) (by decide) (by decide),
      rfld_rsetF_apart _ _ _ _ (by decide) (by decide) (by decide), rfld_rsetF_self _ _ _ _ _ _ (by decide) (by decide),
      Nat.mod_eq_of_lt hsmall]
  case sen => exact hsen

theorem portWrite_of_disable {s : State} {p : Nat} {v : Word} (hon : portEn s p = true) (hen : bit v 63 = false) :
    ∃ u, portEn u p = false ∧ portWrite p v s = linkTo p false false false false (rxStop p u) := by
  unfold portWrite
  unfold portEn at hon
  dsimp only
  rw [if_pos hon, if_neg (by simp [hen])]
  refine ⟨_, ?_, rfl⟩
  have htx : ∀ x : State, (txStop p x).regs = x.regs := by
    intro x
    unfold txStop
    split <;> rfl
  rw [portEn, rbit, rget_of_regs (htx _), ← rbit, rbit_rsetF_bit _ _ _ _ _ (by decide)]
  rfl

theorem portCfg_below (p : Nat) (hp : p < 128) : regAddr R.LIU_PORT_CFG p < senBase ∧
    regAddr R.LIU_PORT_CFG p ≠ regAddr R.LIU_PORT_STAT p := by
  change 0x200000 + 8 * p < 0x400000 ∧ 0x200000 + 8 * p ≠ 0x200400 + 8 * p
  omega

theorem rget_otnStart (p : Nat) (s : State) (r : Reg) (i : Nat) : rget (otnStart p s) r i = rget s r i := by
  unfold otnStart
  split <;> rfl

theorem otnStart_sen (p : Nat) (s : State) : (otnStart p s).sen = s.sen := by
  unfold otnStart
  split <;> rfl

/-! ### The SyncE outputs -/

/-- SQUELCH of a SyncE output that names lane `n`. -/
def syncOut (n v : Nat) (s : State) (k : Nat) : State :=
  if rfld s R.TAU_SYNCE_OUT k 14 8 = n then rsetF s R.TAU_SYNCE_OUT k 0 0 v else s

/-- The registers of the SyncE outputs. -/
def syncRegs (a : Nat) : Prop := 0x100060 ≤ a ∧ a < 0x100080

theorem syncRegs_out {k : Nat} (hk : k < 4) : syncRegs (regAddr R.TAU_SYNCE_OUT k) := by
  change 0x100060 ≤ 0x100060 + 8 * k ∧ 0x100060 + 8 * k < 0x100080
  omega

theorem syncAddr_ne {k j : Nat} (h : k ≠ j) : regAddr R.TAU_SYNCE_OUT k ≠ regAddr R.TAU_SYNCE_OUT j := by
  change 0x100060 + 8 * k ≠ 0x100060 + 8 * j
  omega

theorem syncRegs_ne {a k : Nat} (ha : ¬ syncRegs a) (hk : k < 4) : a ≠ regAddr R.TAU_SYNCE_OUT k :=
  fun h => ha (h ▸ syncRegs_out hk)

theorem retire_notSync (j : Nat) : ¬ syncRegs (regAddr R.LIU_LANE_RETIRE j) := by
  change ¬ (0x100060 ≤ 0x202800 + 8 * j ∧ 0x202800 + 8 * j < 0x100080)
  omega

theorem ref_notSync : ¬ syncRegs (regAddr R.TAU_REF_CFG 0) := by
  change ¬ (0x100060 ≤ 0x100048 ∧ 0x100048 < 0x100080)
  decide

theorem lane_syncOut (n v : Nat) (s : State) (j k : Nat) :
    rfld (syncOut n v s j) R.TAU_SYNCE_OUT k 14 8 = rfld s R.TAU_SYNCE_OUT k 14 8 := by
  unfold syncOut
  split
  · by_cases hj : k = j
    · rw [hj, rfld_rsetF_apart _ _ _ _ (by decide) (by decide) (by decide)]
    · rw [rfld, rget_rsetF_ne (syncAddr_ne hj), ← rfld]
  · rfl

/-- Nothing changes but the SyncE outputs, and the lanes they name stay. -/
structure SyncOnly (s t : State) : Prop where
  eq : t = { s with regs := t.regs }
  rget : ∀ r i, ¬ syncRegs (regAddr r i) → Machine.rget t r i = Machine.rget s r i
  lane : ∀ k, rfld t R.TAU_SYNCE_OUT k 14 8 = rfld s R.TAU_SYNCE_OUT k 14 8

theorem SyncOnly.refl (s : State) : SyncOnly s s := ⟨rfl, fun _ _ _ => rfl, fun _ => rfl⟩

theorem SyncOnly.trans {s t u : State} (h : SyncOnly s t) (h' : SyncOnly t u) : SyncOnly s u := by
  obtain ⟨heq, hregs, hlane⟩ := h
  obtain ⟨heq', hregs', hlane'⟩ := h'
  refine ⟨?_, fun r i hne => (hregs' r i hne).trans (hregs r i hne), fun k => (hlane' k).trans (hlane k)⟩
  rw [heq', heq]

theorem syncOnly_syncOut (n v : Nat) (s : State) {k : Nat} (hk : k < 4) : SyncOnly s (syncOut n v s k) := by
  refine ⟨?_, fun r i hne => ?_, lane_syncOut n v s k⟩ <;> unfold syncOut
  · split <;> rfl
  · split
    · exact rget_rsetF_ne (syncRegs_ne hne hk) s _ _ _
    · rfl

theorem syncOnly_syncOuts (n v : Nat) {l : List Nat} (hl : ∀ k ∈ l, k < 4) (s : State) :
    SyncOnly s (l.foldl (syncOut n v) s) := by
  induction l generalizing s with
  | nil => exact SyncOnly.refl s
  | cons k l ih =>
    exact (syncOnly_syncOut n v s (hl k List.mem_cons_self)).trans (ih (fun j hj => hl j (List.mem_cons_of_mem k hj)) _)

/-- The four SyncE outputs of a lane. -/
def syncOuts (n v : Nat) (s : State) : State := (List.range 4).foldl (syncOut n v) s

theorem syncOnly_outs (n v : Nat) (s : State) : SyncOnly s (syncOuts n v s) :=
  syncOnly_syncOuts n v (fun _ hk => List.mem_range.1 hk) s

theorem rbit_syncOut_self {n k : Nat} {s : State} (v : Nat) (h : rfld s R.TAU_SYNCE_OUT k 14 8 = n) :
    rbit (syncOut n v s k) R.TAU_SYNCE_OUT k 0 = v.testBit 0 := by
  rw [syncOut, if_pos h, rbit_rsetF_bit _ _ _ _ _ (by decide)]

theorem rbit_syncOut_ne {n k j : Nat} (hj : k ≠ j) (v : Nat) (s : State) :
    rbit (syncOut n v s j) R.TAU_SYNCE_OUT k 0 = rbit s R.TAU_SYNCE_OUT k 0 := by
  unfold syncOut
  split
  · rw [rbit, rget_rsetF_ne (syncAddr_ne hj), ← rbit]
  · rfl

theorem rbit_syncFold_of_set {n k v : Nat} (l : List Nat) {s : State} (hlane : rfld s R.TAU_SYNCE_OUT k 14 8 = n)
    (hset : rbit s R.TAU_SYNCE_OUT k 0 = v.testBit 0) :
    rbit (l.foldl (syncOut n v) s) R.TAU_SYNCE_OUT k 0 = v.testBit 0 := by
  induction l generalizing s with
  | nil => exact hset
  | cons j l ih =>
    refine ih ((lane_syncOut n v s j k).trans hlane) ?_
    by_cases hj : k = j
    · rw [← hj, rbit_syncOut_self v hlane]
    · rw [rbit_syncOut_ne hj, hset]

theorem rbit_syncFold {n k v : Nat} {l : List Nat} (hk : k ∈ l) {s : State} (hlane : rfld s R.TAU_SYNCE_OUT k 14 8 = n) :
    rbit (l.foldl (syncOut n v) s) R.TAU_SYNCE_OUT k 0 = v.testBit 0 := by
  induction l generalizing s with
  | nil => cases hk
  | cons j l ih =>
    have hlane' := (lane_syncOut n v s j k).trans hlane
    by_cases hj : k = j
    · exact rbit_syncFold_of_set l hlane' (hj ▸ rbit_syncOut_self v hlane)
    · exact ih ((List.mem_cons.1 hk).resolve_left hj) hlane'

/-- R48: every SyncE output that names the lane takes the value. -/
theorem rbit_syncOuts {n k v : Nat} {s : State} (hk : k < 4) (hlane : rfld s R.TAU_SYNCE_OUT k 14 8 = n) :
    rbit (syncOuts n v s) R.TAU_SYNCE_OUT k 0 = v.testBit 0 := rbit_syncFold (List.mem_range.2 hk) hlane

/-- A SyncE output that names a lane is no longer squelched, unless the lane is retired (R48). -/
def syncRelease (n : Nat) (s : State) (k : Nat) : State :=
  if rfld s R.TAU_SYNCE_OUT k 14 8 = n ∧ laneRetired s n = false then rsetF s R.TAU_SYNCE_OUT k 0 0 0 else s

theorem syncReleases {n : Nat} {l : List Nat} (hl : ∀ k ∈ l, k < 4) {s : State} (h : laneRetired s n = false) :
    l.foldl (syncRelease n) s = l.foldl (syncOut n 0) s := by
  induction l generalizing s with
  | nil => rfl
  | cons k l ih =>
    have hstep : syncRelease n s k = syncOut n 0 s k := by
      simp only [syncRelease, syncOut, h, and_true]
    have hkept : laneRetired (syncOut n 0 s k) n = false := by
      rw [laneRetired, rbit, (syncOnly_syncOut n 0 s (hl k List.mem_cons_self)).rget _ _ (retire_notSync _)]
      exact h
    rw [List.foldl_cons, List.foldl_cons, hstep]
    exact ih (fun j hj => hl j (List.mem_cons_of_mem k hj)) hkept

/-! ### Unit states -/

theorem units_intRaise (k : Nat) (s : State) : (intRaise k s).err.units = s.err.units := by
  have hmsix : ∀ fn v x, (msixRaise fn v x).err.units = x.err.units := by
    intro fn v x
    unfold msixRaise
    split <;> rfl
  have hnote : (intNote k s).err.units = s.err.units := by
    unfold intNote
    split <;> rfl
  have hedge : ∀ x y, (alertEdge x y).err.units = y.err.units := by
    intro x y
    obtain h | ⟨b, h⟩ := alertEdge_eq_or x y <;> rw [h]
    rfl
  unfold intRaise intSet
  dsimp only
  rw [← hnote]
  split
  · rfl
  · rw [hedge]
    split
    · exact hmsix _ _ _
    · rfl

theorem units_refLoss (s : State) : (refLoss s).err.units = s.err.units := units_intRaise 5 _

theorem units_errRecord (r : ErrRec) (s : State) : (errRecord r s).err.units = s.err.units := by
  unfold errRecord
  dsimp only
  split
  · split
    · exact units_intRaise 0 _
    · rfl
  · rfl

/-- R525: the report of a retirement, of class 4, counts against no unit. -/
theorem units_errReport_retired (blk kind unit code : Nat) (detail : Word) (s : State) :
    (errReport 4 blk kind unit code detail s).err.units = s.err.units := by
  unfold errReport errApply
  dsimp only
  split
  · split
    · rfl
    · rw [if_neg (by simp)]
      rfl
  · rw [if_neg (by simp)]
    split
    · exact (units_intRaise _ _).trans (units_errRecord _ s)
    · exact units_errRecord _ s

/-- R525: a retired unit. -/
theorem retireMark_says (k u code : Nat) (sw : Bool) (s : State) : (unitGet (retireMark k u sw code s) k u).state = 1 ∧
    ErrOnly s (retireMark k u sw code s) := by
  constructor
  · unfold retireMark
    dsimp only
    rw [unitGet, units_errReport_retired]
    simp only [unitSet, mget_mset_self]
  · exact (errOnly_err s _).trans (errOnly_errReport _ _ _ _ _ _ _)

/-! ### The end of a lane's use -/

/-- A lane that is lost: its SyncE outputs are squelched, and a reference that names it is lost (R43, R48). -/
def laneLost (n : Nat) (s : State) : State :=
  let t := syncOuts n 1 s
  if rfld t R.TAU_REF_CFG 0 1 0 = 1 ∧ rfld t R.TAU_REF_CFG 0 14 8 = n then refLoss t else t

theorem laneLost_of_ref {n : Nat} {s : State} (hsrc : rfld s R.TAU_REF_CFG 0 1 0 = 1)
    (hlane : rfld s R.TAU_REF_CFG 0 14 8 = n) : laneLost n s = refLoss (syncOuts n 1 s) := by
  have href : rget (syncOuts n 1 s) R.TAU_REF_CFG 0 = rget s R.TAU_REF_CFG 0 :=
    (syncOnly_outs n 1 s).rget _ _ ref_notSync
  refine if_pos ⟨?_, ?_⟩
  · rw [rfld, href]
    exact hsrc
  · rw [rfld, href]
    exact hlane

theorem retire_notRef {j : Nat} (hj : j < 2) :
    regAddr R.LIU_LANE_RETIRE j ∉ adr R.TAU_REF_CFG 0 :: adr R.TAU_STATUS 0 :: errRegs := by
  change 0x202800 + 8 * j ∉ [0x100048, 0x100040, 0x1800030, 0x1800018]
  simp only [List.mem_cons, List.not_mem_nil, or_false]
  omega

theorem sync_notRef {k : Nat} (hk : k < 4) :
    regAddr R.TAU_SYNCE_OUT k ∉ adr R.TAU_REF_CFG 0 :: adr R.TAU_STATUS 0 :: errRegs := by
  change 0x100060 + 8 * k ∉ [0x100048, 0x100040, 0x1800030, 0x1800018]
  simp only [List.mem_cons, List.not_mem_nil, or_false]
  omega

/-- What the loss of a lane leaves. -/
theorem laneLost_keeps (n : Nat) (s : State) : (laneLost n s).liu = s.liu ∧ (laneLost n s).err.units = s.err.units ∧
    (∀ j, j < 2 → rget (laneLost n s) R.LIU_LANE_RETIRE j = rget s R.LIU_LANE_RETIRE j) ∧
    ∀ k, k < 4 → rget (laneLost n s) R.TAU_SYNCE_OUT k = rget (syncOuts n 1 s) R.TAU_SYNCE_OUT k := by
  obtain ⟨heq, hregs, -⟩ := syncOnly_outs n 1 s
  obtain ⟨-, -, hother, href⟩ := refLoss_says (syncOuts n 1 s)
  have hunits := units_refLoss (syncOuts n 1 s)
  unfold laneLost
  dsimp only
  generalize syncOuts n 1 s = t at *
  have hliu : t.liu = s.liu := by rw [heq]
  have herr : t.err = s.err := by rw [heq]
  have hretire : ∀ j, rget t R.LIU_LANE_RETIRE j = rget s R.LIU_LANE_RETIRE j := fun j => hregs _ _ (retire_notSync j)
  split
  · refine ⟨?_, hunits.trans (congrArg Err.units herr), fun j hj => ?_, fun k hk => ?_⟩
    · rw [href]
      exact hliu
    · exact (hother _ _ (retire_notRef hj)).trans (hretire j)
    · exact hother _ _ (sync_notRef hk)
  · exact ⟨hliu, congrArg Err.units herr, fun j _ => hretire j, fun _ _ => rfl⟩

/-- R43, R48: the outputs that name a lost lane are squelched, and its loss as a reference is shown. -/
theorem laneLost_says {n k : Nat} {s : State} (hk : k < 4) (hlane : rfld s R.TAU_SYNCE_OUT k 14 8 = n) :
    rbit (laneLost n s) R.TAU_SYNCE_OUT k 0 = true ∧
    (rfld s R.TAU_REF_CFG 0 1 0 = 1 → rfld s R.TAU_REF_CFG 0 14 8 = n →
      rfld (laneLost n s) R.TAU_REF_CFG 0 1 0 = 2 ∧ rbit (laneLost n s) R.TAU_STATUS 0 1 = true) := by
  obtain ⟨-, -, -, hsync⟩ := laneLost_keeps n s
  refine ⟨?_, fun hsrc href => ?_⟩
  · rw [rbit, hsync k hk, ← rbit, rbit_syncOuts hk hlane]
    rfl
  · obtain ⟨hsrc', hstat, -⟩ := refLoss_says (syncOuts n 1 s)
    rw [laneLost_of_ref hsrc href]
    exact ⟨hsrc', hstat⟩

theorem lanePort_lt {s : State} {n p : Nat} (h : lanePort s n = some p) : p < 128 :=
  List.mem_range.1 (List.mem_of_find?_eq_some h)

/-- LOS of a lane is that of its port: the port that uses it loses LINK, LF standing (R250). -/
def laneUnlocked (n : Nat) (s : State) : State :=
  match lanePort s n with
  | some p => if portEn s p then linkTo p false true false false s else s
  | none => s

theorem portsOnly_laneUnlocked (n : Nat) (s : State) : PortsOnly s (laneUnlocked n s) := by
  unfold laneUnlocked
  split
  next p hp =>
    split
    · exact portsOnly_linkTo (lanePort_lt hp) _ _ _ _ s
    · exact PortsOnly.refl s
  next => exact PortsOnly.refl s

/-- R279: a retired lane takes its port out of use. -/
def lanePortOut (n : Nat) (s : State) : State :=
  match lanePort s n with
  | some p =>
    let t := cutWire p s
    if portEn s p then linkTo p false false false false (rxStop p (rsetF t R.LIU_PORT_CFG p 63 63 0)) else t
  | none => s

theorem portsOnly_lanePortOut (n : Nat) (s : State) : PortsOnly s (lanePortOut n s) := by
  unfold lanePortOut
  split
  next p hp =>
    have hlt := lanePort_lt hp
    have hcut := portsOnly_cutWire p s
    dsimp only
    split
    · exact ((hcut.trans (portsOnly_rsetF (portRegs_cfg hlt) _ _ _ _)).trans (portsOnly_rxStop p _)).trans
        (portsOnly_linkTo hlt _ _ _ _ _)
    · exact hcut
  next => exact PortsOnly.refl s

/-- A lane's retirement as its unit and its register show it (R279, R525). -/
def laneMarked (n : Nat) (sw : Bool) (s : State) : State :=
  rsetF (retireMark 0 n sw 0 s) R.LIU_LANE_RETIRE (n / 64) (n % 64) (n % 64) 1

theorem execLaneRetire_eq {l : Lane} {sw : Bool} {s : State} (h : retireDue s 0 l.val sw = true) :
    execLaneRetire l sw s = .next (laneLost l.val (lanePortOut l.val (laneMarked l.val sw s))) := if_pos h

/-- A lane that regains lock, as the LIU keeps it (R48). -/
def laneRegained (n : Nat) (s : State) : State :=
  withLiu (fun x => { x with unlocked := x.unlocked.filter (fun k => decide (k ≠ n)) }) s

theorem mem_laneRegained (n : Nat) (s : State) : n ∉ (laneRegained n s).liu.unlocked := by
  simp [laneRegained, withLiu]

theorem laneRegained_eq (n : Nat) (s : State) : laneRegained n s = { s with liu := (laneRegained n s).liu } := rfl

theorem execLaneLockRegain_eq {l : Lane} {s : State} (h : laneRetired s l.val = false) :
    execLaneLockRegain l s = .next (syncOuts l.val 0 (laneRegained l.val s)) := by
  have hretired : laneRetired (laneRegained l.val s) l.val = false := h
  rw [syncOuts, ← syncReleases (fun _ hk => List.mem_range.1 hk) hretired]
  rfl

/-! ### O30 -/

theorem portEnable_says {s : State} {p : Port} {v : Word} (hoff : portEn s p.val = false) (hen : bit v 63 = true)
    (hlo : 1 ≤ fld v 3 0) (hhi : fld v 3 0 ≤ 12)
    (hok : modeOk (hostStore false R.LIU_PORT_CFG p.val v s) p.val (fld v 3 0) = true) :
    let t := portWrite p.val v s
    portEn t p.val = true ∧ portMode t p.val = fld v 3 0 ∧ rfld t R.LIU_PORT_STAT p.val 63 60 = 4 ∧
      t.sen.toIng = s.sen.toIng := by
  obtain ⟨u, hon, hmode, hsen, heq⟩ := portWrite_of_enable hoff hen hlo hhi hok
  obtain ⟨hlow, hne⟩ := portCfg_below p.val p.isLt
  have hcfg : rget (portWrite p.val v s) R.LIU_PORT_CFG p.val = rget u R.LIU_PORT_CFG p.val := by
    rw [heq, rget_otnStart, rget_linkTo _ _ _ _ _ hlow hne]
  refine ⟨?_, ?_, ?_, ?_⟩
  · rw [portEn, rbit, hcfg]
    exact hon
  · rw [portMode, rfld, hcfg]
    exact hmode
  · rw [heq, rfld, rget_otnStart, ← rfld, link_linkTo p.isLt]
    rfl
  · rw [heq, otnStart_sen, (kept_linkTo _ _ _ _ _ _).2, hsen]

theorem portDisable_says {s : State} {p : Port} {v : Word} (hon : portEn s p.val = true) (hen : bit v 63 = false) :
    let t := portWrite p.val v s
    portEn t p.val = false ∧ rfld t R.LIU_PORT_STAT p.val 63 60 = 0 ∧ (liuPort t p.val).rx = none := by
  obtain ⟨u, hoff, heq⟩ := portWrite_of_disable hon hen
  obtain ⟨hlow, hne⟩ := portCfg_below p.val p.isLt
  refine ⟨?_, ?_, ?_⟩
  · rw [heq, portEn, rbit, rget_linkTo _ _ _ _ _ hlow hne, rget_rxStop _ _ hlow]
    exact hoff
  · rw [heq, link_linkTo p.isLt]
    rfl
  · rw [heq, liuPort_of_liu (liu_linkTo _ _ _ _ _ _), liuPort_rxStop]

/-- The registers below the LIU's are none of the error unit's. -/
theorem ErrOnly.rget_below {s t : State} (h : ErrOnly s t) {r : Reg} {i : Nat} (hlow : regAddr r i < liuBase) :
    Machine.rget t r i = Machine.rget s r i := by
  refine h.rget fun hmem => ?_
  have hbase : ∀ b ∈ errRegs, liuBase ≤ b := by decide
  exact absurd hlow (Nat.not_lt.2 (hbase _ hmem))

theorem PortsOnly.rget_below {s t : State} (h : PortsOnly s t) {r : Reg} {i : Nat} (hlow : regAddr r i < liuBase) :
    Machine.rget t r i = Machine.rget s r i :=
  h.rget (Nat.lt_trans hlow (by decide)) fun hport => absurd hport.1 (Nat.not_le.2 hlow)

theorem syncOut_below {k : Nat} (hk : k < 4) : regAddr R.TAU_SYNCE_OUT k < liuBase := by
  change 0x100060 + 8 * k < 0x200000
  omega

/-- R43, R48: what a lane's loss shows, when what came before it left the registers below the LIU's. -/
theorem laneLost_after {s t : State} (hlow : ∀ r i, regAddr r i < liuBase → rget t r i = rget s r i) {n k : Nat}
    (hk : k < 4) (hlane : rfld s R.TAU_SYNCE_OUT k 14 8 = n) :
    rbit (laneLost n t) R.TAU_SYNCE_OUT k 0 = true ∧
    (rfld s R.TAU_REF_CFG 0 1 0 = 1 → rfld s R.TAU_REF_CFG 0 14 8 = n →
      rfld (laneLost n t) R.TAU_REF_CFG 0 1 0 = 2 ∧ rbit (laneLost n t) R.TAU_STATUS 0 1 = true) := by
  have hsync : ∀ hi lo, rfld t R.TAU_SYNCE_OUT k hi lo = rfld s R.TAU_SYNCE_OUT k hi lo :=
    fun hi lo => congrArg (fld · hi lo) (hlow _ _ (syncOut_below hk))
  have href : ∀ hi lo, rfld t R.TAU_REF_CFG 0 hi lo = rfld s R.TAU_REF_CFG 0 hi lo :=
    fun hi lo => congrArg (fld · hi lo) (hlow _ _ (by decide))
  obtain ⟨hout, hlost⟩ := laneLost_says (s := t) hk ((hsync 14 8).trans hlane)
  exact ⟨hout, fun hsrc hname => hlost ((href 1 0).trans hsrc) ((href 14 8).trans hname)⟩

/-- A lane whose lock is lost, as the LIU keeps it (R48). -/
def laneNoted (n : Nat) (s : State) : State :=
  withLiu (fun x => { x with unlocked := (n :: x.unlocked).dedup }) (errReport 3 2 0 n 0 0 s)

theorem rget_laneNoted (n : Nat) (s : State) {r : Reg} {i : Nat} (hlow : regAddr r i < liuBase) :
    rget (laneNoted n s) r i = rget s r i := (errOnly_errReport 3 2 0 n 0 0 s).rget_below hlow

theorem mem_laneNoted (n : Nat) (s : State) : n ∈ (laneNoted n s).liu.unlocked :=
  List.mem_dedup.2 List.mem_cons_self

theorem execLanePllLockLoss_eq (l : Lane) (s : State) :
    execLanePllLockLoss l s = .next (laneLost l.val (laneUnlocked l.val (laneNoted l.val s))) := rfl

theorem lockLoss_says (l : Lane) {k : Nat} (s : State) (hk : k < 4) (hlane : rfld s R.TAU_SYNCE_OUT k 14 8 = l.val) :
    Completes (.lanePllLockLoss l) s fun t => rbit t R.TAU_SYNCE_OUT k 0 = true ∧ l.val ∈ t.liu.unlocked ∧
      (rfld s R.TAU_REF_CFG 0 1 0 = 1 → rfld s R.TAU_REF_CFG 0 14 8 = l.val →
        rfld t R.TAU_REF_CFG 0 1 0 = 2 ∧ rbit t R.TAU_STATUS 0 1 = true) := by
  have hports := portsOnly_laneUnlocked l.val (laneNoted l.val s)
  obtain ⟨hout, hlost⟩ := laneLost_after (t := laneUnlocked l.val (laneNoted l.val s))
    (fun r i hlow => (hports.rget_below hlow).trans (rget_laneNoted _ _ hlow)) hk hlane
  refine ⟨_, execLanePllLockLoss_eq l s, hout, ?_, hlost⟩
  rw [(laneLost_keeps _ _).1, hports.unlocked]
  exact mem_laneNoted _ _

theorem lockRegain_says (l : Lane) {k : Nat} (s : State) (hk : k < 4) (hlane : rfld s R.TAU_SYNCE_OUT k 14 8 = l.val)
    (hlive : laneRetired s l.val = false) :
    Completes (.laneLockRegain l) s fun t => rbit t R.TAU_SYNCE_OUT k 0 = false ∧ l.val ∉ t.liu.unlocked ∧
      t = { s with regs := t.regs, liu := t.liu } := by
  have hlane' : rfld (laneRegained l.val s) R.TAU_SYNCE_OUT k 14 8 = l.val := hlane
  have hout := (syncOnly_outs l.val 0 (laneRegained l.val s)).eq
  refine ⟨_, execLaneLockRegain_eq hlive, rbit_syncOuts hk hlane', ?_, ?_⟩
  · rw [hout]
    exact mem_laneRegained _ _
  · rw [hout, laneRegained_eq]

theorem retire_below {j : Nat} (hj : j < 2) : regAddr R.LIU_LANE_RETIRE j < senBase ∧
    ¬ portRegs (regAddr R.LIU_LANE_RETIRE j) := by
  change 0x202800 + 8 * j < 0x400000 ∧ ¬ (0x200000 ≤ 0x202800 + 8 * j ∧ 0x202800 + 8 * j < 0x200000 + 0x800)
  omega

theorem laneMarked_says (n : Nat) (sw : Bool) (s : State) :
    laneRetired (laneMarked n sw s) n = true ∧ (unitGet (laneMarked n sw s) 0 n).state = 1 ∧
    ∀ r i, regAddr r i < liuBase → rget (laneMarked n sw s) r i = rget s r i := by
  obtain ⟨hstate, herr⟩ := retireMark_says 0 n 0 sw s
  refine ⟨?_, hstate, fun r i hlow => ?_⟩
  · rw [laneRetired, laneMarked, rbit_rsetF_bit _ _ _ _ _ (Nat.mod_lt _ (by decide))]
    rfl
  · have hne : regAddr r i ≠ regAddr R.LIU_LANE_RETIRE (n / 64) := by
      change _ ≠ 0x202800 + 8 * (n / 64)
      change _ < 0x200000 at hlow
      omega
    rw [laneMarked, rget_rsetF_ne hne, herr.rget_below hlow]

theorem laneRetire_says (l : Lane) {k : Nat} (s : State) (hk : k < 4) (hlane : rfld s R.TAU_SYNCE_OUT k 14 8 = l.val)
    (sw : Bool) (hdue : retireDue s 0 l.val sw = true) :
    Completes (.laneRetire l sw) s fun t => rbit t R.TAU_SYNCE_OUT k 0 = true ∧ laneRetired t l.val = true ∧
      (unitGet t 0 l.val).state = 1 := by
  obtain ⟨hretired, hstate, hmarked⟩ := laneMarked_says l.val sw s
  have hports := portsOnly_lanePortOut l.val (laneMarked l.val sw s)
  obtain ⟨hout, -⟩ := laneLost_after (t := lanePortOut l.val (laneMarked l.val sw s))
    (fun r i hlow => (hports.rget_below hlow).trans (hmarked r i hlow)) hk hlane
  obtain ⟨-, hunits, hkept, -⟩ := laneLost_keeps l.val (lanePortOut l.val (laneMarked l.val sw s))
  have hword : l.val / 64 < 2 := by omega
  obtain ⟨hlow, hport⟩ := retire_below hword
  refine ⟨_, execLaneRetire_eq hdue, hout, ?_, ?_⟩
  · rw [laneRetired, rbit, hkept _ hword, hports.rget hlow hport]
    exact hretired
  · rw [unitGet, hunits, hports.err]
    exact hstate

theorem execLinkUp_on {p : Port} {s : State} (hon : portEn s p.val = true) (hclient : clientLost s p.val = false) :
    execLinkUp p s = .next (linkTo p.val true false false false s) := by
  rw [execLinkUp, hon, hclient]
  rfl

theorem execLinkUp_lost {p : Port} {s : State} (hclient : clientLost s p.val = true) : execLinkUp p s = .next s := by
  rw [execLinkUp, hclient, Bool.not_true, Bool.and_false]
  rfl

theorem execLinkDown_on {p : Port} {s : State} (hon : portEn s p.val = true) (aligned lf rf ber : Bool) :
    execLinkDown p aligned lf rf ber s = .next (linkTo p.val false (!aligned || lf) (aligned && rf) ber s) := by
  rw [execLinkDown, hon]
  rfl

/-- Settles O30: the ports first, then the lanes and the SyncE outputs. -/
theorem linePortsLanesAndSyncE : Obligations.LinePortsLanesAndSyncE := by
  refine ⟨fun s p v => ⟨fun hoff hen hlo hhi hok => ?enable, fun hon hen => ?disable, fun hon hdown hclient => ?up,
      fun hclient => ?lost, fun aligned lf rf ber hon hup => ?down⟩,
    fun s l k hk hlane => ⟨lockLoss_says l s hk hlane, lockRegain_says l s hk hlane, laneRetire_says l s hk hlane⟩⟩
  case enable => exact ⟨_, rfl, portEnable_says hoff hen hlo hhi hok⟩
  case disable => exact ⟨_, rfl, portDisable_says hon hen⟩
  case up =>
    refine ⟨_, execLinkUp_on hon hclient, link_linkTo p.isLt _ _ _ _ s, (downs_linkTo p.isLt _ _ _ _ s).trans ?_,
      liu_linkTo _ _ _ _ _ s⟩
    rw [hdown]
    rfl
  case lost => exact execLinkUp_lost hclient
  case down =>
    refine ⟨_, execLinkDown_on hon aligned lf rf ber, (link_linkTo p.isLt _ _ _ _ s).trans ?_,
      (downs_linkTo p.isLt _ _ _ _ s).trans ?_, liu_linkTo _ _ _ _ _ s⟩
    · rw [Bool.toNat_false, Nat.zero_mul, Nat.zero_add]
    · rw [hup]
      rfl

end Sys2Proof.Proofs
end

section
/-! O7: the instructions that send a request (R89, R132, R134, R137, R142, R143). Where one issues, its request joins the
thread's outstanding ones under its tag. -/

namespace Sys2Proof.Proofs
open Sys2Proof Sys2Proof.Machine Sys2Proof.Laws

/-- Where the conditions of `Issues` hold, a meaning over `issue` is its body, on the thread as counted and with the issue
slot taken. -/
theorem exec_issues {c : Instr} {s : State} {th : ThreadRef} {op : Nat} {ok : Word → Bool} {okp : Word → Prop} {body}
    (h : Issues s th op okp) (hexec : exec c s = .next (issue th op ok body s))
    (hk : okp (thrWord s (thrKey th)) → ok (thrWord s (thrKey th)) = true) :
    exec c s = .next (body (thrKey th) (counted s th) (slotTaken s th)) := by
  rw [exec_issue hexec h hk, slotUsed_eq]

/-- A state-memory instruction that issues, and that no access of a later place comes before, takes its place among the
accesses to its word (R144). -/
theorem issueStm_of_issues {s : State} {th : ThreadRef} {op : Nat} {ok : Word → Bool} {okp : Word → Prop} {ra : BitVec 5}
    {imm a : Nat} {body} (ha : stmAddr (greg (ctx s th) ra.toNat) imm = a) (hlate : stmLate s a (thrKey th) = false)
    (h : Issues s th op okp) (hk : okp (thrWord s (thrKey th)) → ok (thrWord s (thrKey th)) = true) :
    issueStm th op ok ra imm body s = body a (thrKey th) (counted s th) (stmTouch a (thrKey th) (slotTaken s th)) := by
  subst ha
  unfold issueStm
  dsimp only
  rw [if_neg (by simpa using hlate), issue_ok h hk, slotUsed_eq]

/-- The tables are read by the configuration registers, and an issue slot that is taken leaves those. -/
theorem profReads_slotTaken (s : State) (th : ThreadRef) (p : Word) (key : Nat) :
    profReads (slotTaken s th) p key = profReads s p key := rfl

/-- R132, R134: an LKUP that issues sends its key with the profile as it stood when the tick began and what the tables
hold, and asks the DDR5 for the buckets it reads. -/
theorem lkup_sends {s : State} {th : ThreadRef} {f : FmtL} (h : Issues s th 0x60 (fun w => asL w = f))
    (hlast : comes s beforeLookup = false) :
    let p := rwas s R.LKP_PROFILE f.profile.toNat
    let key := keyOf (ctx s th) f.rk f.kn (profKeyBits s p)
    let vt := threadTag s (counted s th)
    let s0 := slotTaken s th
    exec (.lkup th f) s = .next (memAsks .mcd (profReads s p key) (countLookup p (setThr s0 (thrKey th)
      (sendReq (counted s th) ⟨f.tag.toNat, f.rd.toNat, decide (f.rw = 1),
        .lookup p key vt (lookup s0 p key ((viewOf s0 vt).getD .cur))⟩)))) := by
  intro p key vt s0
  change execLkup th f s = _
  rw [execLkup, if_neg (by simp [hlast]), issue_ok h (by simp), slotUsed_eq, ← profReads_slotTaken s th]
  rfl

/-- R137: a PMATCH that issues sends the frame bytes as they stand, and waits for a scan lane. -/
theorem pmatch_sends {s : State} {th : ThreadRef} {f : FmtW} (h : Issues s th 0x46 (fun w => asW w = f)) :
    let u := setThr (slotTaken s th) (thrKey th) (sendReq (counted s th) ⟨f.tag.toNat, f.rd.toNat, false,
      .pmatch f.set.toNat (min (winOff (ctx s th) f.ra f.off) 511) (frameBytes (counted s th).pkt)
        (!(counted s th).pkt.complete) none⟩)
    exec (.pmatch th f) s = .next { u with ppu := { u.ppu with queue := s.ppu.queue ++ [(thrKey th, f.tag.toNat)] } } :=
  exec_issues (c := .pmatch th f) h rfl (by simp)

/-- R142: an SLD that issues sends for the word at its address. -/
theorem sld_sends {s : State} {th : ThreadRef} {f : FmtI} (h : Issues s th 0x63 (fun w => asI w = f)) {a : Nat}
    (ha : stmAddr (greg (ctx s th) f.ra.toNat) f.imm.toNat = a) (hlate : stmLate s a (thrKey th) = false) :
    exec (.sld th f) s = .next (setThr (stmTouch a (thrKey th) (slotTaken s th)) (thrKey th)
      (sendReq (counted s th) ⟨f.aux.toNat / 2 ^ 11, f.rd.toNat, false, .state a (stmGet s a)⟩)) :=
  congrArg Host.Outcome.next (issueStm_of_issues ha hlate h (by simp))

/-- R143: an ATOM that issues writes the new word in the same step and sends for the old one. -/
theorem atom_sends {s : State} {th : ThreadRef} {f : FmtA} (h : Issues s th 0x65 (fun w => asA w = f)) {a : Nat}
    (ha : stmAddr (greg (ctx s th) f.ra.toNat) f.imm21.toNat = a) (hlate : stmLate s a (thrKey th) = false) :
    let new := atomNew f.fn.toNat (stmGet s a) (greg (ctx s th) f.rb.toNat) (greg (ctx s th) f.rc.toNat)
    exec (.atom th f) s = .next (setThr (stmSet (stmTouch a (thrKey th) (slotTaken s th)) a new) (thrKey th)
      (sendReq (counted s th) ⟨f.tag.toNat, f.rd.toNat, false, .state a (stmGet s a)⟩)) :=
  congrArg Host.Outcome.next (issueStm_of_issues ha hlate h (by simp))

/-- Settles O7: what each of the four instructions sends is said above. -/
theorem requestInstructionsSend : Obligations.RequestInstructionsSend := by
  intro s th
  refine ⟨fun f h hlast => lkup_sends h hlast, fun f h => pmatch_sends h, fun f h hlate => sld_sends h rfl hlate, ?_⟩
  intro f a w b new h hlate
  exact atom_sends h rfl hlate

end Sys2Proof.Proofs
end

section
/-! O23: the results that return to a thread (R72, R89, R134, R142, R163, R383), and the scans of the pattern unit (R160,
R162 to R164). -/

namespace Sys2Proof.Proofs
open Sys2Proof Sys2Proof.Machine Sys2Proof.Laws

/-! ### The request that a result answers -/

/-- R72: a result is of the oldest request given up and still under way. -/
theorem awaited_of_gone {s : State} {k tag : Nat} {sort : ReqKind → Bool} {g : Nat × Req}
    (h : s.sen.gone.find? (goneIs k tag sort) = some g) : awaited s k tag sort = some (true, g.2) := by
  simp only [awaited, h]

/-- R89: where none is given up, a result is of the request that the tag holds. -/
theorem awaited_of_held {s : State} {k tag : Nat} {sort : ReqKind → Bool} {r : Req}
    (hnone : s.sen.gone.find? (goneIs k tag sort) = none) (h : reqOf (thr s k) tag = some r) :
    awaited s k tag sort = some (false, r) := by
  simp only [awaited, hnone, h, Option.map_some]

theorem tag_of_reqOf {t : Thread} {tag : Nat} {r : Req} (h : reqOf t tag = some r) : r.tag = tag := by
  simpa using List.find?_some h

theorem tag_of_gone {l : List (Nat × Req)} {k tag : Nat} {sort : ReqKind → Bool} {g : Nat × Req}
    (h : l.find? (goneIs k tag sort) = some g) : g.2.tag = tag := by
  have hg := List.find?_some h
  simp only [goneIs, Bool.and_eq_true, decide_eq_true_eq] at hg
  exact hg.1.2

/-! ### The registers and the thread that a result reaches -/

/-- A register write changes the registers alone. -/
theorem gset_eq (t : Thread) (i : Nat) (v : Word) : gset t i v = { t with g := (gset t i v).g } := by
  unfold gset
  split <;> rfl

/-- A request that leaves its thread changes the requests and the registers alone. -/
theorem reqDone_eq (t : Thread) (r : Req) (v0 v1 : Word) : reqDone t r v0 v1 =
    { t with reqs := t.reqs.filter (fun q => decide (q.tag ≠ r.tag)), g := (reqDone t r v0 v1).g } := by
  unfold reqDone
  dsimp only
  split
  · rw [gset_eq, gset_eq]
  · rw [gset_eq]

/-- R89, R112: the result is in rd and, for two, in rd + 1. -/
theorem greg_reqDone (t : Thread) (r : Req) (v0 v1 : Word) {i : Nat} (hi : i ≤ 31) : greg (reqDone t r v0 v1) i =
    if r.two = true ∧ i = r.rd + 1 ∧ i ≠ 0 then v1 else if i = r.rd ∧ i ≠ 0 then v0 else greg t i := by
  unfold reqDone
  dsimp only
  by_cases htwo : r.two = true
  · rw [if_pos htwo, greg_gset, greg_gset]
    simp only [htwo, true_and, hi, and_true]
    rfl
  · rw [if_neg htwo, greg_gset]
    simp only [htwo, hi, and_true]
    rfl

/-- A thread that goes on when the result of a tag has returned: it is Ready, or waits for that tag alone (R79). -/
def GoesOn (t : Thread) (tag : Nat) : Prop :=
  t.st = .ready ∨ (t.st = .waiting ∧ t.waitTags = [tag] ∧ t.waitFrame = false)

/-- R79: a thread none of whose requests has the tag any more goes on. -/
theorem settle_goesOn {s : State} {k tag : Nat} (hexc : (thr s k).exc6 = false) (hgo : GoesOn (thr s k) tag)
    (hreqs : ∀ q ∈ (thr s k).reqs, q.tag ≠ tag) :
    settle k s = s ∧ (thr s k).st = .ready ∨ settle k s =
      setThr s k { thr s k with st := .ready, waitTags := [], waitFrame := false, start := s.tau.mono + 1 } := by
  unfold settle
  dsimp only
  obtain hready | ⟨hwait, htags, hframe⟩ := hgo
  · rw [if_neg (by simp [hready]), if_neg (by simp [hexc])]
    exact .inl ⟨rfl, hready⟩
  · have hnone : ((thr s k).reqs.any (fun r => (thr s k).waitTags.contains r.tag) ||
        ((thr s k).waitFrame && !(thr s k).pkt.complete)) = false := by
      simpa [htags, hframe] using hreqs
    rw [if_pos hwait, hnone, if_neg Bool.false_ne_true, if_neg (by simp [hexc])]
    exact .inr rfl

/-- The result of request `r` has been written to its registers, and its thread, which is Ready, is rid of it (R89). -/
def ResultWritten (s x : State) (k : Nat) (r : Req) (v0 v1 : Word) : Prop :=
  (thr x k).st = .ready ∧ (thr x k).reqs = (thr s k).reqs.filter (fun q => decide (q.tag ≠ r.tag)) ∧
  (thr x k).pc = (thr s k).pc ∧
  (∀ i, i ≤ 31 → greg (thr x k) i =
    if r.two = true ∧ i = r.rd + 1 ∧ i ≠ 0 then v1 else if i = r.rd ∧ i ≠ 0 then v0 else greg (thr s k) i) ∧
  (∀ j, j ≠ k → thr x j = thr s j)

/-- R79, R89: a result that returns, whatever else its return has done to the state but for the threads. -/
theorem resultTo_writes {s u : State} {k tag : Nat} {r : Req} (sort : ReqKind → Bool) (v0 v1 : Word)
    (hu : ∀ j, thr u j = thr s j) (hreq : reqOf (thr s k) tag = some r) (hexc : (thr s k).exc6 = false)
    (hgo : GoesOn (thr s k) tag) : ResultWritten s (resultTo k sort (false, r) v0 v1 u) k r v0 v1 := by
  have hto : resultTo k sort (false, r) v0 v1 u = settle k (setThr u k (reqDone (thr s k) r v0 v1)) := by
    rw [← hu k]
    rfl
  have hself : thr (setThr u k (reqDone (thr s k) r v0 v1)) k = reqDone (thr s k) r v0 v1 := thr_setThr_self _ _ _
  have hothers : ∀ j, j ≠ k → thr (setThr u k (reqDone (thr s k) r v0 v1)) j = thr s j := fun j hj =>
    (thr_setThr_ne _ _ hj).trans (hu j)
  have hgreg : ∀ i, i ≤ 31 → greg (reqDone (thr s k) r v0 v1) i = _ := fun i hi => greg_reqDone _ r v0 v1 hi
  have hdone := reqDone_eq (thr s k) r v0 v1
  rw [hto]
  generalize reqDone (thr s k) r v0 v1 = d at hself hothers hgreg hdone
  generalize setThr u k d = w at hself hothers
  have hst : d.st = (thr s k).st := by rw [hdone]
  have hreqs : d.reqs = (thr s k).reqs.filter (fun q => decide (q.tag ≠ r.tag)) := by rw [hdone]
  have hpc : d.pc = (thr s k).pc := by rw [hdone]
  have hleft : ∀ q ∈ (thr w k).reqs, q.tag ≠ tag := by
    rw [hself, hreqs, ← tag_of_reqOf hreq]
    simp
  have hsettle := settle_goesOn (s := w) (k := k) (tag := tag) (by rw [hself, hdone]; exact hexc)
    (by rw [hself, hdone]; exact hgo) hleft
  rw [hself] at hsettle
  obtain ⟨heq, hready⟩ | heq := hsettle
  · rw [heq]
    refine ⟨?_, ?_, ?_, ?_, hothers⟩ <;> rw [hself]
    exacts [hready, hreqs, hpc, hgreg]
  · rw [heq]
    refine ⟨?_, ?_, ?_, ?_, fun j hj => (thr_setThr_ne _ _ hj).trans (hothers j hj)⟩ <;> rw [thr_setThr_self]
    exacts [hreqs, hpc, hgreg]

/-! ### Lookups -/

theorem execLookupResult_of_awaited {s : State} {th : ThreadRef} {tag : Tag} {q : Bool × Req} {p : Word} {key vt : Nat}
    {res : LkRes} (h : awaited s (thrKey th) tag.val isLookup = some q) (hkind : q.2.kind = .lookup p key vt res)
    (late : Bool) (ev : LookupEvent) : exec (.lookupResult th tag late ev) s =
      if (profReads s p key).any (unitWaits s .mcd) then .next (memAsks .mcd (profReads s p key) s) else
        let o := lookupOutcome p key vt res late ev (memUses .mcd (profReads s p key) false s)
        .next (resultTo (thrKey th) isLookup q o.1.r0 o.1.r1 o.2) := by
  change execLookupResult th tag late ev s = _
  simp only [execLookupResult, h, hkind]

theorem still_touch (p : Word) (key : Nat) (v : View) (s : State) : stillView (touch p key v s) = stillView s := by
  unfold touch
  split
  · split <;> rfl
  · rfl

/-- R134, R217: memories that met no error leave a lookup the result it carries, and the threads as they are. -/
theorem lookupOutcome_clean {s : State} {p : Word} {key vt : Nat} (res : LkRes)
    (h : readsTable s p = false ∨ lookupBad s p key ((viewOf s vt).getD .cur) = none) :
    (lookupOutcome p key vt res false .clean s).1 = res ∧
    stillView (lookupOutcome p key vt res false .clean s).2 = stillView s := by
  unfold lookupOutcome
  dsimp only [flowCorrected]
  split
  next hreads =>
    obtain hno | hgood := h
    · exact absurd hreads (by simp [hno])
    · simp only [hgood]
      exact ⟨rfl, (still_flowWrote _ _ _ _).trans (still_touch p key _ s)⟩
  next => exact ⟨rfl, rfl⟩

/-! ### The state memory -/

theorem execStateReadResult_of_awaited {s : State} {th : ThreadRef} {tag : Tag} {q : Bool × Req} {a : Nat} {v : Word}
    (h : awaited s (thrKey th) tag.val isState = some q) (hkind : q.2.kind = .state a v) (ecc : Bool) :
    exec (.stateReadResult th tag ecc) s = .next (resultTo (thrKey th) isState q (if ecc then 0 else v) 0
      (if ecc then errReport 2 3 15 0 0 (BitVec.ofNat 64 a) s else s)) := by
  change execStateReadResult th tag ecc s = _
  simp only [execStateReadResult, h, hkind]

/-- R72: the result of a request that its thread has given up is discarded. -/
theorem stateReadResult_of_gone {s : State} {th : ThreadRef} {tag : Tag} {g : Nat × Req} {a : Nat} {v : Word}
    (h : s.sen.gone.find? (goneIs (thrKey th) tag.val isState) = some g) (hkind : g.2.kind = .state a v) :
    exec (.stateReadResult th tag false) s =
      .next { s with sen := { s.sen with gone := s.sen.gone.eraseP (goneIs (thrKey th) tag.val isState) } } := by
  rw [execStateReadResult_of_awaited (awaited_of_gone h) hkind false, ← tag_of_gone h]
  rfl

/-! ### Pattern scans -/

/-- R163, R165: a scan whose bytes are all there ends with what its entries give. -/
theorem execPmatchResult_of_awaited {s : State} {th : ThreadRef} {tag : Tag} {q : Bool × Req} {set o : Nat} {bytes : Bytes}
    {w : Word} {ents : List (Nat × Pat)} (h : awaited s (thrKey th) tag.val isScan = some q)
    (hkind : q.2.kind = .pmatch set o bytes false (some (w, ents))) :
    exec (.pmatchResult th tag []) s = .next (resultTo (thrKey th) isScan q (scanResult w ents bytes o []) 0
      (freeLane (thrKey th, tag.val) s)) := by
  have hbad : badEntries w [] = [] := by simp [badEntries]
  change execPmatchResult th tag [] s = _
  simp [execPmatchResult, h, hkind, hbad]

theorem execPmatchScanStart_of_held {s : State} {k tag set o : Nat} {bytes : Bytes} {wb : Bool} {r : Req}
    {rest : List ReqName} (hlast : comes s beforeScan = false) (hqueue : s.ppu.queue = (k, tag) :: rest)
    (hlanes : s.ppu.lanes.length < 16) (h : awaited s k tag toScan = some (false, r))
    (hkind : r.kind = .pmatch set o bytes wb none) :
    let w := rget s R.TCM_PPU_SET set
    let u := setThr s k (setReq (thr s k) { r with kind := .pmatch set o bytes wb (some (w, setEntries s w)) })
    exec .pmatchScanStart s = .next { u with ppu := { s.ppu with queue := rest, lanes := s.ppu.lanes ++ [(k, tag)] } } := by
  intro w u
  change execPmatchScanStart s = _
  rw [execPmatchScanStart, if_neg (by simp [hlast]), hqueue]
  dsimp only
  rw [if_pos hlanes, h]
  dsimp only
  rw [hkind]
  rfl

/-- A request of the tag replaced stands in place of the old one. -/
theorem kind_of_mem_setReq {t : Thread} {r q : Req} (hq : q ∈ (setReq t r).reqs) (htag : q.tag = r.tag) :
    q.kind = r.kind := by
  obtain ⟨x, -, rfl⟩ := List.mem_map.1 hq
  by_cases hx : x.tag = r.tag
  · rw [if_pos hx]
  · rw [if_neg hx] at htag
    exact absurd htag hx

/-- R163: a set that is invalid or empty gives NO_SET alone. -/
theorem scanResult_of_no_set {set : Word} (h : bit set 63 = false ∨ fld set 48 32 = 0) (ents : List (Nat × Pat))
    (bs : Bytes) (o : Nat) (bad : List Nat) : scanResult set ents bs o bad = BitVec.ofNat 64 (2 ^ 60) := if_pos h

theorem patEnd_of_no_match {e : Pat} {bs : Bytes} {o last : Nat} (h : ∀ p, p < 512 → patMatchAt e bs o last p = false) :
    patEnd e bs o last = none := by
  have hnone : (List.range 512).find? (patMatchAt e bs o last) = none := by
    rw [List.find?_eq_none]
    intro p hp
    rw [h p (List.mem_range.1 hp)]
    exact Bool.false_ne_true
  rw [patEnd, hnone]
  rfl

/-- R163: a scan none of whose entries matches gives zero. -/
theorem scanResult_of_no_match {set : Word} {ents : List (Nat × Pat)} {bs : Bytes} {o : Nat} (hen : bit set 63 = true)
    (hcount : fld set 48 32 ≠ 0)
    (h : ∀ e ∈ ents, ∀ p, p < 512 → patMatchAt e.2 bs o (min (o + 511) (bs.length - 1)) p = false) :
    scanResult set ents bs o [] = 0 := by
  have hends : ents.filterMap (fun e => if ([] : List Nat).contains e.1 then none else
      (patEnd e.2 bs o (min (o + 511) (bs.length - 1))).map (fun x => (x, e.1, e.2))) = [] := by
    rw [List.filterMap_eq_nil_iff]
    intro e he
    rw [patEnd_of_no_match (h e he)]
    rfl
  unfold scanResult
  rw [if_neg (by simp [hen, hcount])]
  dsimp only
  rw [hends, ite_self]
  rfl

/-! ### The statement -/

/-- Settles O23: each result reaches its thread by one and the same path, and a scan starts with its set as it stands. -/
theorem resultsAndPatternScans : Obligations.ResultsAndPatternScans := by
  refine ⟨fun s th tag r => ⟨fun g a v hgone hkind => stateReadResult_of_gone hgone hkind, ?held⟩,
    fun s => ⟨?start, fun set ents bs o h => scanResult_of_no_set h ents bs o [],
      fun set ents bs o hen hcount h => scanResult_of_no_match hen hcount h⟩⟩
  case held =>
    intro hnone hreq hexc hgo left ends
    refine ⟨fun p key vt res hkind => ⟨fun hwait => ?wait, fun hserved hgood => ?lookup⟩,
      fun a v hkind => ⟨?clean, ?bad⟩, fun set o bytes w ents hkind => ?scan⟩
    case wait => rw [execLookupResult_of_awaited (awaited_of_held (hnone _) hreq) hkind, if_pos hwait]
    case lookup =>
      obtain ⟨hres, hstill⟩ := lookupOutcome_clean res hgood
      have hexec := execLookupResult_of_awaited (awaited_of_held (hnone _) hreq) hkind false .clean
      rw [if_neg (by simpa using hserved)] at hexec
      dsimp only at hexec
      rw [hres] at hexec
      exact ⟨_, hexec, resultTo_writes isLookup _ _ (thr_of_still (hstill.trans (still_memUses ..))) hreq hexc hgo⟩
    case clean =>
      exact ⟨_, execStateReadResult_of_awaited (awaited_of_held (hnone _) hreq) hkind false,
        resultTo_writes isState _ _ (fun _ => rfl) hreq hexc hgo⟩
    case bad =>
      exact ⟨_, execStateReadResult_of_awaited (awaited_of_held (hnone _) hreq) hkind true,
        resultTo_writes isState _ _ (thr_of_still (still_errReport ..)) hreq hexc hgo⟩
    case scan =>
      exact ⟨_, execPmatchResult_of_awaited (awaited_of_held (hnone _) hreq) hkind,
        resultTo_writes isScan _ _ (fun _ => rfl) hreq hexc hgo⟩
  case start =>
    intro k tag rest r set o bytes wb hqueue hlanes hnone hlast hreq hkind w
    refine ⟨_, execPmatchScanStart_of_held hlast hqueue hlanes (awaited_of_held hnone hreq) hkind, rfl, rfl, rfl, ?_,
      fun j hj => thr_setThr_ne _ _ hj, rfl⟩
    intro q hq htag
    have hmem : q ∈ (setReq (thr s k) { r with kind := .pmatch set o bytes wb (some (w, setEntries s w)) }).reqs := by
      have hself := thr_setThr_self s k (setReq (thr s k)
        { r with kind := .pmatch set o bytes wb (some (w, setEntries s w)) })
      rw [← hself]
      exact hq
    exact kind_of_mem_setReq hmem (htag.trans (tag_of_reqOf hreq).symm)

end Sys2Proof.Proofs
end

section
/-! O9, its first half: the instructions that end a thread's work on its packet or put a service thread to sleep, wake
another or send a packet (R83, R101, R102, R149, R151 to R153). -/

namespace Sys2Proof.Proofs
open Sys2Proof Sys2Proof.Machine Sys2Proof.Laws

theorem occurThr_setThr (code q j k : Nat) (s : State) (t : Thread) :
    occurThr code q j (setThr s k t) = setThr (occurThr code q j s) k t := rfl

/-- What is counted changes the Gauge alone. -/
theorem occurThr_eq (code q j : Nat) (s : State) : occurThr code q j s = { s with gau := (occurThr code q j s).gau } := rfl

/-- NOP does nothing beyond its count as an issue to no effect. -/
theorem nop_does_nothing {s : State} {th : ThreadRef} {f : FmtX} (h : Issues s th 0x00 (fun w => asX w = f)) :
    ThreadBecomes (.nop th f) s th 1 (occurThr codeWasted (thrKey th / 640) (thrKey th) (slotTaken s th)).gau
      (counted s th) := by
  have hexec := exec_issues (c := .nop th f) h rfl (by simp)
  rw [occurThr_setThr, occurThr_eq] at hexec
  exact ⟨_, hexec, ⟨rfl, fun j hj => thr_setThr_ne _ _ hj⟩, thr_setThr_self _ _ _⟩

/-- Counting an issue leaves the kind of the thread. -/
theorem countIssue_svc (m : Nat) (u : Use) (t : Thread) : (countIssue m u t).svc = t.svc := rfl

/-! ### DISP -/

/-- A packet thread that has issued DISP: its disposition and its reason stand in its packet, and it departs (R149). -/
def departed (s : State) (th : ThreadRef) (code reason : Nat) : Thread :=
  { counted s th with st := .departing, reqs := [], since := s.tau.mono,
                      pkt := mdSet (mdSet (counted s th).pkt 0 15 14 code) 14 31 24 reason }

/-- What a disposition does with a packet whose thread `t` departs (R83, R149). -/
def disposed (k code : Nat) (t : Thread) (s : State) : State :=
  let gone := giveUpPlace t.pkt.pid s
  match code with
  | 0 => setThr s k t
  | 1 => setThr gone k { t with handed := true }
  | 2 =>
    if t.pkt.complete then setThr (hostDeliver (mdF t.pkt 13 31 20) t.pkt gone) k { t with handed := true }
    else setThr gone k { t with hostTo := some (mdF t.pkt 13 31 20) }
  | _ =>
    if t.pkt.complete then
      setThr (sendInbox (mdF t.pkt 13 19 17) (mdF t.pkt 13 16 7) 2 0 (some t.pkt) gone) k { t with handed := true }
    else setThr gone k t

/-- DISP in a packet thread: the thread gives up its requests and departs, and its packet goes where the code says. -/
theorem disp_departs {s : State} {th : ThreadRef} {f : FmtX} (h : Issues s th 0x72 (fun w => asX w = f))
    (hsvc : (ctx s th).svc = false) : exec (.disp th f) s = .next (disposed (thrKey th) f.code.toNat
      (departed s th f.code.toNat f.imm8.toNat) (reqsLeave (thrKey th) (slotTaken s th))) := by
  rw [exec_issues (c := .disp th f) h rfl (by simp), if_neg (by simp [countIssue_svc, hsvc])]
  rfl

section
variable {k code : Nat} {t : Thread} (s : State)

theorem disposed_kept (h : code = 0) : disposed k code t s = setThr s k t := by subst h; rfl

theorem disposed_dropped (h : code = 1) :
    disposed k code t s = setThr (giveUpPlace t.pkt.pid s) k { t with handed := true } := by subst h; rfl

theorem disposed_host_complete (h : code = 2) (hc : t.pkt.complete = true) : disposed k code t s =
    setThr (hostDeliver (mdF t.pkt 13 31 20) t.pkt (giveUpPlace t.pkt.pid s)) k { t with handed := true } := by
  subst h
  exact if_pos hc

theorem disposed_host_partial (h : code = 2) (hc : t.pkt.complete = false) : disposed k code t s =
    setThr (giveUpPlace t.pkt.pid s) k { t with hostTo := some (mdF t.pkt 13 31 20) } := by
  subst h
  exact if_neg (by simp [hc])

theorem disposed_service_complete (h : code = 3) (hc : t.pkt.complete = true) : disposed k code t s =
    setThr (sendInbox (mdF t.pkt 13 19 17) (mdF t.pkt 13 16 7) 2 0 (some t.pkt) (giveUpPlace t.pkt.pid s)) k
      { t with handed := true } := by
  subst h
  exact if_pos hc

theorem disposed_service_partial (h : code = 3) (hc : t.pkt.complete = false) : disposed k code t s =
    setThr (giveUpPlace t.pkt.pid s) k t := by
  subst h
  exact if_neg (by simp [hc])

end

/-! ### SLEEP -/

/-- A thread that takes an inbox entry without a packet has its word in the register SLEEP names (R103). -/
theorem takeInbox_of_word {e : InboxEntry} (h : e.pkt = none) (t : Thread) (rd : Nat) : takeInbox t rd e =
    gset { t with st := .ready } rd (BitVec.ofNat 64 (e.source % 256 * 2 ^ 32 + e.event.toNat)) := by
  simp [takeInbox, inboxWord, h]

/-- One that takes an entry with a packet has the packet in place of its own too (R103, R104). -/
theorem takeInbox_of_packet {e : InboxEntry} {p : Packet} (h : e.pkt = some p) (t : Thread) (rd : Nat) :
    takeInbox t rd e =
      { gset { t with st := .ready } rd (BitVec.ofNat 64 (2 ^ 40 + (e.source % 256 * 2 ^ 32 + e.event.toNat))) with
        pkt := { rewindow p with orig := frameLen p } } := by
  simp [takeInbox, inboxWord, h, Nat.add_assoc]

section
variable {s : State} {th : ThreadRef} {f : FmtX} (h : Issues s th 0x78 (fun w => asX w = f))
  (hsvc : (ctx s th).svc = true)
include h hsvc

/-- What SLEEP does in a service thread. -/
theorem exec_sleep : exec (.sleep th f) s = .next (if mustStop s (thrKey th) then stopThr (thrKey th) (slotTaken s th) else
    match (ctx s th).inbox with
    | e :: rest => setThr (slotTaken s th) (thrKey th)
        (takeInbox { counted s th with spent := 0, inbox := rest } f.rd.toNat e)
    | [] => setThr (slotTaken s th) (thrKey th)
        { counted s th with spent := 0, st := .sleeping, sleepRd := f.rd.toNat }) := by
  rw [exec_issues (c := .sleep th f) h rfl (by simp), if_neg (by simp [countIssue_svc, hsvc])]
  rfl

/-- R101: a thread that is to stop does so at its SLEEP. -/
theorem sleep_stops (hstop : mustStop s (thrKey th) = true) :
    exec (.sleep th f) s = .next (stopThr (thrKey th) (slotTaken s th)) := by
  rw [exec_sleep h hsvc, if_pos hstop]

variable (hgo : mustStop s (thrKey th) = false)
include hgo

/-- R151: with an empty inbox a thread sleeps. -/
theorem sleep_sleeps (hbox : (ctx s th).inbox = []) : ThreadBecomes (.sleep th f) s th 1 (slotGau s th)
    { counted s th with spent := 0, st := .sleeping, sleepRd := f.rd.toNat } := by
  apply become_of
  rw [exec_sleep h hsvc, if_neg (by simp [hgo]), hbox]
  rfl

/-- R103: otherwise it takes the oldest entry and stays Ready. -/
theorem sleep_takes {e : InboxEntry} {rest : List InboxEntry} (hbox : (ctx s th).inbox = e :: rest) :
    ThreadBecomes (.sleep th f) s th 1 (slotGau s th)
      (takeInbox { counted s th with spent := 0, inbox := rest } f.rd.toNat e) := by
  apply become_of
  rw [exec_sleep h hsvc, if_neg (by simp [hgo]), hbox]
  rfl

end

/-! ### WAKE and SEND -/

/-- The thread of a course that a three-bit field names. -/
theorem sendInbox_of_course {c : Nat} (h : c < 8) (t source : Nat) (ev : Word32) (p : Option Packet) (s : State) :
    sendInbox c t source ev p s = { s with sen := { s.sen with
      arrivals := s.sen.arrivals ++ [⟨640 * c + min t 639, ⟨source, ev, p, 0⟩⟩] } } := by
  rw [sendInbox, Nat.mod_eq_of_lt h]

/-- R152: WAKE sends an entry of SOURCE 4 to the thread that ra names. -/
theorem wake_sends {s : State} {th : ThreadRef} {f : FmtX} (h : Issues s th 0x79 (fun w => asX w = f))
    (hsvc : (ctx s th).svc = true) :
    let a := greg (ctx s th) f.ra.toNat
    let x := setThr (slotTaken s th) (thrKey th) (counted s th)
    exec (.wake th f) s = .next { x with sen := { x.sen with arrivals := s.sen.arrivals ++
      [⟨640 * fld a 2 0 + min (fld a 12 3) 639, ⟨4, (greg (ctx s th) f.rb.toNat).truncate 32, none, 0⟩⟩] } } := by
  intro a x
  rw [exec_issues (c := .wake th f) h rfl (by simp), if_neg (by simp [countIssue_svc, hsvc])]
  exact congrArg Host.Outcome.next (sendInbox_of_course (fld_lt a 2 0) _ _ _ _ _)

/-- R153: SEND sets out the packet of its thread's window on its path. -/
theorem send_injects {s : State} {th : ThreadRef} {f : FmtX} (h : Issues s th 0x7A (fun w => asX w = f))
    (hsvc : (ctx s th).svc = true) :
    exec (.send th f) s = .next (injectPacket f.path.toNat
      (sentPacket s (thrKey th) (counted s th) (clampTo 14 512 (greg (ctx s th) f.ra.toNat).toNat))
      (setThr (slotTaken s th) (thrKey th) (counted s th))) := by
  rw [exec_issues (c := .send th f) h rfl (by simp), if_neg (by simp [countIssue_svc, hsvc])]
  rfl

theorem clampTo_eq {lo hi : Nat} (h : lo ≤ hi) (v : Nat) : clampTo lo hi v = max lo (min hi v) := by
  unfold clampTo
  split_ifs <;> omega

end Sys2Proof.Proofs
end

section
/-! O9, its second half: when an instruction of a Ready thread does not issue, said of ADD (R77 to R79, R89). -/

namespace Sys2Proof.Proofs
open Sys2Proof Sys2Proof.Machine Sys2Proof.Laws

/-! ### The turn of an engine's threads -/

theorem turn_of_slot_taken {s : State} {k : Nat} (h : s.tau.mono < (engine s k).free) : turn s k = false := by
  simp [turn, Nat.not_le.2 h]

/-- It is never the turn of a thread that may not issue (R77). -/
theorem turn_of_not_mayIssue {s : State} {k : Nat} (h : mayIssue s k = false) : turn s k = false := by
  rw [Bool.eq_false_iff]
  intro hturn
  simp only [turn, Bool.and_eq_true, decide_eq_true_eq] at hturn
  rw [List.find?_some hturn.2] at h
  exact absurd h (by decide)

theorem engine_of_slots {i j : Nat} (h : i / 8 = j / 8) (s : State) : engine s i = engine s j := by
  have hkey : engKey i = engKey j := by
    unfold engKey
    omega
  rw [engine, engine, hkey]

/-- R77: at most one thread of an engine has its turn. -/
theorem turn_unique {s : State} {i j : Nat} (h : i / 8 = j / 8) (hi : turn s i = true) (hj : turn s j = true) : i = j := by
  simp only [turn, Bool.and_eq_true, decide_eq_true_eq] at hi hj
  rw [engine_of_slots h, h] at hi
  exact Option.some.inj (hi.2.symm.trans hj.2)

/-! ### An ADD that is next -/

/-- The next instruction of a Ready thread is ADD, with a budget left. -/
def AddNext (s : State) (th : ThreadRef) (f : FmtR) : Prop :=
  (ctx s th).st = .ready ∧ (ctx s th).start ≤ s.tau.mono ∧ (ctx s th).pc < (thrBank s (thrKey th)).length ∧
  opcodeOf (thrWord s (thrKey th)) = 0x10 ∧ asR (thrWord s (thrKey th)) = f ∧ budgetGone s (ctx s th) false = false

/-- R120: what an ADD reads and writes. -/
def addUse (f : FmtR) : Use := { reads := [f.ra.toNat, f.rb.toNat], writes := [f.rd.toNat] }

theorem useTags_add (t : Thread) (f : FmtR) :
    useTags t (addUse f) = blockTags t [f.ra.toNat, f.rb.toNat, f.rd.toNat] none := List.append_nil _

/-- R89: a request that will write a register among those named is waited for. -/
theorem tag_mem_blockTags {t : Thread} {r : Req} {rs : List Nat} (hr : r ∈ t.reqs) (hpos : 0 < r.rd) (hle : r.rd ≤ 31)
    (hrd : r.rd ∈ rs) (tag : Option Nat) : r.tag ∈ blockTags t rs tag := by
  have hdest : r.rd ∈ reqDests r := by
    simp [reqDests, hle, Nat.pos_iff_ne_zero.1 hpos]
  refine List.mem_map.2 ⟨r, List.mem_filter.2 ⟨hr, ?_⟩, rfl⟩
  rw [Bool.or_eq_true]
  exact .inl (List.any_eq_true.2 ⟨r.rd, hdest, List.contains_iff_mem.2 hrd⟩)

theorem exec_add (s : State) (th : ThreadRef) (f : FmtR) :
    ∃ body, exec (.add th f) s = .next (issue th 0x10 (fun w => decide (asR w = f)) body s) := ⟨_, rfl⟩

section
variable {s : State} {th : ThreadRef} {f : FmtR} (h : AddNext s th f)
include h

theorem nextUse_of_add : nextUse s (thrKey th) = addUse f := by
  obtain ⟨-, -, -, hop, hf, -⟩ := h
  rw [nextUse, instrUse, hop, hf]
  rfl

theorem unissuable_of_add : unissuable s (thrKey th) = false := by
  obtain ⟨-, -, hpc, hop, -, hbudget⟩ := h
  rw [unissuable, hop, Bool.or_eq_false_iff, decide_eq_false_iff_not]
  exact ⟨hbudget, Nat.not_le.2 hpc⟩

theorem heldBack_of_add : heldBack s (thrKey th) =
    decide (blockTags (ctx s th) [f.ra.toNat, f.rb.toNat, f.rd.toNat] none ≠ []) := by
  rw [heldBack, unissuable_of_add h, nextUse_of_add h, useTags_add]
  exact Bool.or_false _

/-- With no request outstanding, an ADD is not held back. -/
theorem heldBack_of_no_request (hreqs : (ctx s th).reqs = []) : heldBack s (thrKey th) = false := by
  rw [heldBack_of_add h, blockTags, hreqs]
  rfl

/-- R78: an ADD whose ra is still being written is stalled. -/
theorem stalled_of_add {e : Nat × Nat} (he : e ∈ (ctx s th).busy) (hra : e.1 = f.ra.toNat) (hpos : 0 < e.1)
    (hbusy : s.tau.mono < e.2) : stalled s (thrKey th) = true := by
  rw [stalled, unissuable_of_add h, nextUse_of_add h, Bool.not_false, Bool.true_and]
  refine List.any_eq_true.2 ⟨f.ra.toNat, List.mem_cons_self, ?_⟩
  rw [Bool.and_eq_true, decide_eq_true_eq, ← hra]
  exact ⟨Nat.pos_iff_ne_zero.1 hpos, List.any_eq_true.2 ⟨e, he, decide_eq_true ⟨rfl, hbusy⟩⟩⟩

/-- R79, R89: an ADD that must wait for a tag makes its thread wait for all that it must wait for. -/
theorem add_waits {r : Req} (hr : r ∈ (ctx s th).reqs) (hpos : 0 < r.rd) (hle : r.rd ≤ 31)
    (hrd : r.rd = f.ra.toNat ∨ r.rd = f.rb.toNat ∨ r.rd = f.rd.toNat) :
    let tags := blockTags (ctx s th) [f.ra.toNat, f.rb.toNat, f.rd.toNat] none
    r.tag ∈ tags ∧ exec (.add th f) s = .next (setThr s (thrKey th)
      { ctx s th with st := .waiting, waitTags := tags, waitFrame := false, since := s.tau.mono, lastPc := (ctx s th).pc }) := by
  intro tags
  have hmem : r.tag ∈ tags := tag_mem_blockTags hr hpos hle (by simpa using hrd) none
  have hheld : heldBack s (thrKey th) = true := by
    rw [heldBack_of_add h]
    exact decide_eq_true (List.ne_nil_of_mem hmem)
  have huse := nextUse_of_add h
  obtain ⟨hready, hstart, -, hop, hf, -⟩ := h
  obtain ⟨body, hexec⟩ := exec_add s th f
  rw [hexec, issue_waits hready hstart ⟨hop, decide_eq_true hf⟩ hheld, huse, useTags_add]
  exact ⟨hmem, rfl⟩

/-- An ADD that need not wait, and whose turn it is not, changes nothing. -/
theorem add_idles (hreqs : (ctx s th).reqs = []) (hturn : turn s (thrKey th) = false) : exec (.add th f) s = .next s := by
  obtain ⟨body, hexec⟩ := exec_add s th f
  rw [hexec, issue_idle (heldBack_of_no_request h hreqs) hturn]

end

/-! ### The statement -/

/-- Settles O9: where each instruction issues, its effect is said above; an ADD that does not issue waits or has not its
turn. -/
theorem threadControlForms : Obligations.ThreadControlForms := by
  refine ⟨fun s th f => ⟨fun h => nop_does_nothing h, ?disp, fun h hsvc hstop => sleep_stops h hsvc hstop,
      fun h hsvc hgo hbox => sleep_sleeps h hsvc hgo hbox, ?takes, fun h hsvc => wake_sends h hsvc, ?send⟩,
    fun s th f => ⟨fun r h hr hpos hle hrd => add_waits h hr hpos hle hrd, ?stall, ?slot,
      fun i j h hi hj => turn_unique h hi hj⟩⟩
  case disp =>
    intro h hsvc d p gone sent ends
    have hexec := disp_departs h hsvc
    exact ⟨fun _ => rfl, fun hc => hexec.trans (congrArg _ (disposed_kept _ hc)),
      fun hc => hexec.trans (congrArg _ (disposed_dropped _ hc)),
      fun hc hp => hexec.trans (congrArg _ (disposed_host_complete _ hc hp)),
      fun hc hp => hexec.trans (congrArg _ (disposed_host_partial _ hc hp)),
      fun hc hp => hexec.trans (congrArg _ (disposed_service_complete _ hc hp)),
      fun hc hp => hexec.trans (congrArg _ (disposed_service_partial _ hc hp))⟩
  case takes =>
    intro e rest h hsvc hgo hbox w x ends
    have htakes := sleep_takes h hsvc hgo hbox
    refine ⟨fun hp => ?_, fun p hp => ?_⟩
    · rw [takeInbox_of_word hp] at htakes
      exact htakes
    · rw [takeInbox_of_packet hp] at htakes
      exact htakes
  case send =>
    intro n h hsvc p x place y ing
    have hexec := send_injects h hsvc
    rw [clampTo_eq (by decide)] at hexec
    refine ⟨winLoad_count _ _ _ _ _, rfl, rfl, fun hpath => hexec.trans ?_, fun hpath => hexec.trans ?_⟩
    · rw [hpath]
      rfl
    · rw [hpath]
      rfl
  case stall =>
    intro e h hreqs he hra hpos hbusy
    exact add_idles h hreqs (turn_of_not_mayIssue (by simp [mayIssue, stalled_of_add h he hra hpos hbusy]))
  case slot => exact fun h hreqs hfree => add_idles h hreqs (turn_of_slot_taken hfree)

end Sys2Proof.Proofs
end

section
/-! O12: START and STOP of a service thread, a wake, and the arrival of an inbox entry (R100, R101, R103 to R105). -/

namespace Sys2Proof.Proofs
open Sys2Proof Sys2Proof.Machine Sys2Proof.Laws

/-! ### START and STOP -/

theorem thrKey_course (th : ThreadRef) : thrKey th / 640 = th.course.val := by
  unfold thrKey
  omega

/-- A course's configuration is another register than a thread's control. -/
theorem courseCfg_ne_svcCtl {c : Nat} (hc : c < 8) (k : Nat) : regAddr R.SEN_COURSE_CFG c ≠ regAddr R.SEN_SVC_CTL k := by
  simp only [regAddr, R.SEN_COURSE_CFG, R.SEN_SVC_CTL]
  omega

theorem svcCtl_fields : R.SEN_SVC_CTL.fields.Pairwise Apart ∧ ∀ f ∈ R.SEN_SVC_CTL.fields, f.lo ≤ f.hi ∧ f.hi < 64 := by
  decide

/-- START_PC of SEN_SVC_CTL is stored as it is written. -/
theorem startPc_svcFields (k : Nat) (v : Word) (s : State) : rfld (svcFields k v s) R.SEN_SVC_CTL k 63 48 = fld v 63 48 := by
  have hfield := fld_writeReg (f := ⟨63, 48, .rw, 0, .any⟩) svcCtl_fields.1 svcCtl_fields.2 (by decide) false
    (rget s R.SEN_SVC_CTL k) v
  rw [rfld, svcFields, rget_rset_self, hfield, writeField, fld_setFld_self _ _ _ _ (by decide) (by decide), clampField]
  exact Nat.mod_eq_of_lt (fld_lt v 63 48)

theorem running_svcFields {c : Nat} (hc : c < 8) (k : Nat) (v : Word) (s : State) (m : Nat) :
    running (svcFields k v s) c m = running s c m := by
  have hlive : enginesLive (svcFields k v s) c = enginesLive s c := rfld_rset_ne (courseCfg_ne_svcCtl hc k) s _ _ _
  rw [running, hlive]
  rfl

theorem regsBut_svcFields (k : Nat) (v : Word) (s : State) : RegsBut [adr R.SEN_SVC_CTL k] s (svcFields k v s) :=
  regsBut_rset (regsBut_refl _ s) List.mem_cons_self _

/-- The state once thread `k` is no thread of which a slice still holds work of its own from before. -/
def forgotOld (k : Nat) (s : State) : State :=
  { s with hif := { s.hif with oldThr := s.hif.oldThr.filter (fun e => decide (e.1 ≠ k)) } }

/-- R101: START of a stopped thread whose course runs in service mode. -/
theorem svcStart_starts {s : State} {th : ThreadRef} {v : Word} (hstop : bit v 1 = false)
    (hrun : running s (thrKey th / 640) 3 = true) (hfree : (thr s (thrKey th)).st = .free) :
    exec (.svcStart th v) s = .next (setThr (forgotOld (thrKey th) (svcFields (thrKey th) v s)) (thrKey th)
      { startedThread (fld v 63 48) (course s (thrKey th / 640)).activeB with exc := (thr s (thrKey th)).exc }) := by
  have hc : thrKey th / 640 < 8 := (thrKey_course th).symm ▸ th.course.isLt
  have haccepted : (running (svcFields (thrKey th) v s) (thrKey th / 640) 3 &&
      (decide ((thr (svcFields (thrKey th) v s) (thrKey th)).st = .free) ||
        decide ((thr (svcFields (thrKey th) v s) (thrKey th)).st = .halted))) = true := by
    rw [running_svcFields hc, hrun, Bool.true_and, Bool.or_eq_true, decide_eq_true_eq]
    exact .inl hfree
  change execSvcStart th v s = _
  rw [execSvcStart]
  dsimp only
  rw [if_neg (by simp [hstop]), svcStart]
  dsimp only
  rw [if_pos haccepted, ← startPc_svcFields (thrKey th) v s]
  rfl

/-- R101: STOP of a thread that sleeps or has halted acts at once. -/
theorem svcStop_stops {s : State} {th : ThreadRef} (v : Word) (hsvc : (thr s (thrKey th)).svc = true)
    (hst : (thr s (thrKey th)).st = .halted ∨ (thr s (thrKey th)).st = .sleeping) :
    exec (.svcStop th v) s = .next (stopThr (thrKey th) (svcFields (thrKey th) v s)) := by
  change Host.Outcome.next (svcStop (thrKey th) (svcFields (thrKey th) v s)) = _
  have hthr : thr (svcFields (thrKey th) v s) (thrKey th) = thr s (thrKey th) := rfl
  unfold svcStop
  rw [hthr]
  dsimp only
  rw [if_pos hsvc]
  obtain h | h := hst <;> rw [h]

theorem thr_stopThr_self (k : Nat) (s : State) : thr (stopThr k s) k = { Thread.empty with
    st := if (thr s k).st = .unavailable then .unavailable else .free, exc := (thr s k).exc, lastPc := (thr s k).lastPc } :=
  thr_setThr_self _ _ _

theorem thr_stopThr_ne (s : State) {k j : Nat} (h : j ≠ k) : thr (stopThr k s) j = thr s j := thr_setThr_ne _ _ h

/-! ### Inboxes -/

/-- R103: an entry that reaches a live service thread stands in its inbox, which keeps 16; any other is dropped and
counted. -/
theorem inboxEntryArrive_says {s : State} {i : Nat} {a : InboxArrival} (h : s.sen.arrivals[i]? = some a) :
    let t := thr s a.thread
    let s1 := { s with sen := { s.sen with arrivals := s.sen.arrivals.eraseIdx i } }
    let l := inboxInsert { a.entry with came := s.tau.mono } t.inbox
    let s2 := setThr s1 a.thread { t with inbox := l.take 16 }
    exec (.inboxEntryArrive i) s =
      if t.svc = true ∧ (t.st = .sleeping ∨ t.st = .ready ∨ t.st = .waiting) then
        if l.length ≤ 16 then .next s2 else .next (rcount s2 R.SEN_SVC_CTL a.thread 31 16 1)
      else .next (rcount s1 R.SEN_SVC_CTL a.thread 31 16 1) := by
  intro t s1 l s2
  have hexec : exec (.inboxEntryArrive i) s = .next (inboxArrive a.thread a.entry s1) := by
    change execInboxEntryArrive i s = _
    rw [execInboxEntryArrive, h]
  have harrive : inboxArrive a.thread a.entry s1 =
      if t.svc = true ∧ (t.st = .sleeping ∨ t.st = .ready ∨ t.st = .waiting) then
        if l.length ≤ 16 then s2 else rcount s2 R.SEN_SVC_CTL a.thread 31 16 1
      else rcount s1 R.SEN_SVC_CTL a.thread 31 16 1 := rfl
  rw [hexec, harrive, apply_ite Host.Outcome.next, apply_ite Host.Outcome.next]

/-- R103: an entry stands last unless one of its own tick has a higher SOURCE. -/
theorem inboxInsert_last {e : InboxEntry} {l : List InboxEntry} (h : ∀ x ∈ l, x.came = e.came → x.source ≤ e.source) :
    inboxInsert e l = l ++ [e] := by
  have hbefore : l.filter (fun x => decide (x.came ≠ e.came ∨ x.source ≤ e.source)) = l :=
    List.filter_eq_self.2 fun x hx => decide_eq_true (or_iff_not_imp_left.2 fun hne => h x hx (not_not.1 hne))
  have hbehind : l.filter (fun x => decide (x.came = e.came ∧ e.source < x.source)) = [] :=
    List.filter_eq_nil_iff.2 fun x hx hlater =>
      have ⟨hcame, hsource⟩ := of_decide_eq_true hlater
      absurd hsource (Nat.not_lt.2 (h x hx hcame))
  rw [inboxInsert, hbefore, hbehind]

/-! ### The statement -/

/-- Settles O12: what each command leaves is said above. -/
theorem serviceThreadCommands : Obligations.ServiceThreadCommands := by
  intro s th v
  refine ⟨fun hstop hrun hfree => ⟨_, svcStart_starts hstop hrun hfree, ?start⟩,
    fun hsvc hst => ⟨_, svcStop_stops v hsvc hst, ?stop⟩,
    congrArg Host.Outcome.next (sendInbox_of_course (fld_lt v 2 0) _ _ _ _ _),
    fun i a h => inboxEntryArrive_says h, fun e l h => inboxInsert_last h⟩
  case start =>
    have hself := thr_setThr_self (forgotOld (thrKey th) (svcFields (thrKey th) v s)) (thrKey th)
      { startedThread (fld v 63 48) (course s (thrKey th / 640)).activeB with exc := (thr s (thrKey th)).exc }
    exact ⟨congrArg Thread.st hself, congrArg Thread.svc hself, congrArg Thread.pc hself, congrArg Thread.inbox hself,
      congrArg Thread.stack hself, congrArg Thread.g hself, fun j hj => thr_setThr_ne _ _ hj, rfl,
      regsBut_svcFields _ v s, rfl⟩
  case stop =>
    have hlive : (thr (svcFields (thrKey th) v s) (thrKey th)).st ≠ .unavailable := by
      change (thr s (thrKey th)).st ≠ .unavailable
      obtain h | h := hst <;> rw [h] <;> decide
    have hself := thr_stopThr_self (thrKey th) (svcFields (thrKey th) v s)
    rw [if_neg hlive] at hself
    exact ⟨congrArg Thread.st hself, congrArg Thread.inbox hself, fun j hj => thr_stopThr_ne _ hj,
      regsBut_svcFields _ v s, rfl⟩

end Sys2Proof.Proofs
end

section
/-! SUPPORT. A bank of a course beside the others, and what ends a bank load and what an image makes of the banks (R94 to
R97, R505). -/

namespace Sys2Proof.Proofs
open Sys2Proof Sys2Proof.Machine Sys2Proof.Laws

/-! ### Banks -/

theorem bank_setBank (s : State) (c d : Nat) (b e : Bool) (x : Bank) :
    bank (setBank s c b x) d e = if d = c ∧ e = b then x else bank s d e := by
  have hkey : 2 * d + e.toNat = 2 * c + b.toNat ↔ d = c ∧ e = b := by
    cases b <;> cases e <;> simp <;> omega
  simp only [bank, setBank, mget_mset, hkey]

theorem bank_setBank_self (s : State) (c : Nat) (b : Bool) (x : Bank) : bank (setBank s c b x) c b = x := by
  rw [bank_setBank, if_pos ⟨rfl, rfl⟩]

theorem bank_setBank_ne {d c : Nat} {e b : Bool} (h : ¬ (d = c ∧ e = b)) (s : State) (x : Bank) :
    bank (setBank s c b x) d e = bank s d e := by
  rw [bank_setBank, if_neg h]

/-! ### The word that ends a load -/

/-- R96: DONE_MASK, FAIL_MASK and RESULT of SEN_LOAD_STAT as the end of a load leaves them. -/
theorem loadEnd_stat {result done fail : Nat} (hresult : result < 16) (hdone : done < 256) (hfail : fail < 256)
    (s : State) : rfld (loadEnd result done fail s) R.SEN_LOAD_STAT 0 3 0 = result ∧
    rfld (loadEnd result done fail s) R.SEN_LOAD_STAT 0 39 32 = done ∧
    rfld (loadEnd result done fail s) R.SEN_LOAD_STAT 0 23 16 = fail := by
  have hstat : rget (loadEnd result done fail s) R.SEN_LOAD_STAT 0 =
      BitVec.ofNat 64 (done * 2 ^ 32 + fail * 2 ^ 16 + result) := rget_rset_self _ _ _ _
  simp only [rfld, hstat, fld, BitVec.toNat_ofNat, Nat.shiftRight_eq_div_pow]
  omega

theorem rset_eq (s : State) (r : Reg) (i : Nat) (v : Word) : rset s r i v = { s with regs := (rset s r i v).regs } := rfl

/-- The end of a load changes nothing but SEN_LOAD_STAT and the load. -/
theorem loadEnd_eq (result done fail : Nat) (s : State) : loadEnd result done fail s =
    { s with sen := { s.sen with load := none }, regs := (loadEnd result done fail s).regs } := rset_eq _ _ _ _

theorem regsBut_loadEnd (result done fail : Nat) (s : State) :
    RegsBut [adr R.SEN_LOAD_STAT 0] s (loadEnd result done fail s) :=
  regsBut_rset (t := { s with sen := { s.sen with load := none } }) (fun _ _ => rfl) List.mem_cons_self _

/-- A load that has ended: SEN_LOAD_STAT shows how, no load is in progress, and nothing else is changed. -/
theorem loadEnd_says {result done fail : Nat} (hresult : result < 16) (hdone : done < 256) (hfail : fail < 256)
    (s : State) : ∃ rg, let t := { s with sen := { s.sen with load := none }, regs := rg }
      loadEnd result done fail s = t ∧ rfld t R.SEN_LOAD_STAT 0 3 0 = result ∧ rfld t R.SEN_LOAD_STAT 0 39 32 = done ∧
      rfld t R.SEN_LOAD_STAT 0 23 16 = fail ∧ RegsBut [adr R.SEN_LOAD_STAT 0] s t := by
  have hstat := loadEnd_stat hresult hdone hfail s
  have hregs := regsBut_loadEnd result done fail s
  have hend := loadEnd_eq result done fail s
  generalize loadEnd result done fail s = t at hstat hregs hend
  obtain ⟨rg, rfl⟩ : ∃ rg, t = { s with sen := { s.sen with load := none }, regs := rg } := ⟨_, hend⟩
  obtain ⟨hresult, hdone, hfail⟩ := hstat
  exact ⟨rg, rfl, hresult, hdone, hfail, hregs⟩

/-! ### The program of an image -/

/-- A list stored word after word from an address on. -/
theorem mget_stored (l : List Word) (n : Nat) (m : SMap Word) (i : Nat) :
    mget 0 ((l.zipIdx n).foldl (fun m e => mset 0 m e.2 e.1) m) i =
      if n ≤ i then (l[i - n]?).getD (mget 0 m i) else mget 0 m i := by
  induction l generalizing n m with
  | nil => simp
  | cons a l ih =>
    rw [List.zipIdx_cons, List.foldl_cons, ih, mget_mset]
    obtain h | rfl | h := Nat.lt_trichotomy i n
    · rw [if_neg (by omega), if_neg (by omega), if_neg (by omega)]
    · simp
    · have hne : ¬ i = n := by omega
      have hnext : i - n = i - (n + 1) + 1 := by omega
      rw [hnext, List.getElem?_cons_succ]
      simp only [show n + 1 ≤ i from h, Nat.le_of_lt h, hne, if_true, if_false]

/-- The bank that a course takes from a good image (R96, R97). -/
def imageBank (plain : Bytes) (s : State) (c : Nat) : Bank :=
  { st := if loadTarget s c = (course s c).activeB then .active else .loaded, ver := Config.bankVer plain % 16,
    length := (Config.bankProgram plain).length,
    words := ((Config.bankProgram plain).zipIdx).foldl (fun m e => mset 0 m e.2 e.1) [],
    entries := (Config.bankEntries plain).foldl (fun m e => mset 0 m (e.1 % 1024) (e.2 % 65536)) [] }

theorem word_imageBank {plain : Bytes} {i : Nat} {w : Word} (h : (Config.bankProgram plain)[i]? = some w) (s : State)
    (c : Nat) : mget 0 (imageBank plain s c).words i = w := by
  rw [imageBank, mget_stored, if_pos (Nat.zero_le i), Nat.sub_zero, h]
  rfl

/-- Beyond the program an image's bank holds zero words. -/
theorem word_imageBank_beyond {plain : Bytes} {i : Nat} (h : (Config.bankProgram plain).length ≤ i) (s : State) (c : Nat) :
    mget 0 (imageBank plain s c).words i = 0 := by
  rw [imageBank, mget_stored, if_pos (Nat.zero_le i), Nat.sub_zero, List.getElem?_eq_none h]
  rfl

/-! ### An image in its courses -/

/-- Nothing changes but the program banks and what the Hearth keeps of them. -/
def BanksOnly (s t : State) : Prop := t = { s with sen := { s.sen with banks := t.sen.banks }, hrt := t.hrt }

theorem BanksOnly.trans {s t u : State} (h : BanksOnly s t) (h' : BanksOnly t u) : BanksOnly s u := by
  rw [BanksOnly, h', h]

theorem banksOnly_loadBank (bs plain : Bytes) (s : State) (c : Nat) : BanksOnly s (loadBank bs plain s c) := rfl

theorem bank_loadBank (bs plain : Bytes) (s : State) (c d : Nat) (e : Bool) : bank (loadBank bs plain s c) d e =
    if d = c ∧ e = loadTarget s c then imageBank plain s c else bank s d e := bank_setBank s c d _ e _

theorem bank_loadBank_ne {c d : Nat} (h : d ≠ c) (bs plain : Bytes) (s : State) (e : Bool) :
    bank (loadBank bs plain s c) d e = bank s d e := by
  rw [bank_loadBank, if_neg (fun both => h both.1)]

theorem loadTarget_loadBank {c d : Nat} (h : d ≠ c) (bs plain : Bytes) (s : State) :
    loadTarget (loadBank bs plain s c) d = loadTarget s d := by
  have hactive : course (loadBank bs plain s c) d = course s d := rfl
  rw [loadTarget, hactive, bank_loadBank_ne h, loadTarget]

theorem imageBank_loadBank {c d : Nat} (h : d ≠ c) (bs plain : Bytes) (s : State) :
    imageBank plain (loadBank bs plain s c) d = imageBank plain s d := by
  have hactive : course (loadBank bs plain s c) d = course s d := rfl
  rw [imageBank, loadTarget_loadBank h, hactive, imageBank]

/-- R96: an image stands in the bank that each of its courses loads, and in no other. -/
theorem bank_loadBanks (bs plain : Bytes) {l : List Nat} (hl : l.Nodup) (s : State) (d : Nat) (e : Bool) :
    bank (l.foldl (loadBank bs plain) s) d e =
      if d ∈ l ∧ e = loadTarget s d then imageBank plain s d else bank s d e := by
  induction l generalizing s with
  | nil => simp
  | cons c l ih =>
    obtain ⟨hc, hl⟩ := List.nodup_cons.1 hl
    rw [List.foldl_cons, ih hl]
    by_cases hd : d = c
    · subst hd
      rw [bank_loadBank]
      simp [hc]
    · rw [loadTarget_loadBank hd, imageBank_loadBank hd, bank_loadBank_ne hd]
      simp [hd]

theorem banksOnly_loadBanks (bs plain : Bytes) (l : List Nat) (s : State) :
    BanksOnly s (l.foldl (loadBank bs plain) s) := by
  induction l generalizing s with
  | nil => rfl
  | cons c l ih => exact (banksOnly_loadBank bs plain s c).trans (ih _)

/-- The courses of a mask. -/
def maskCourses (m : Nat) : List Nat := (List.range 8).filter (fun c => m.testBit c)

theorem nodup_maskCourses (m : Nat) : (maskCourses m).Nodup := List.nodup_range.filter _

theorem mem_maskCourses {m : Nat} (h : m < 256) (d : Nat) : d ∈ maskCourses m ↔ m.testBit d = true := by
  rw [maskCourses, List.mem_filter, List.mem_range, and_iff_right_iff_imp]
  intro hbit
  by_contra hd
  have hpow : 2 ^ 8 ≤ 2 ^ d := Nat.pow_le_pow_right (by decide) (Nat.le_of_not_lt hd)
  have hclear : m.testBit d = false := Nat.testBit_lt_two_pow (lt_of_lt_of_le h hpow)
  rw [hclear] at hbit
  exact absurd hbit Bool.false_ne_true

end Sys2Proof.Proofs
end

section
/-! SUPPORT. The record of a report that the error unit takes (R524, R538), and a retirement's effect on the threads of an
engine (R108). -/

namespace Sys2Proof.Proofs
open Sys2Proof Sys2Proof.Machine Sys2Proof.Laws

/-! ### The error FIFO -/

theorem fifo_intNote (k : Nat) (s : State) : (intNote k s).err.fifo = s.err.fifo := by
  unfold intNote
  split <;> rfl

theorem fifo_msixRaise (fn v : Nat) (s : State) : (msixRaise fn v s).err.fifo = s.err.fifo := by
  unfold msixRaise
  split <;> rfl

theorem fifo_alertEdge (s t : State) : (alertEdge s t).err.fifo = t.err.fifo := by
  obtain h | ⟨b, h⟩ := alertEdge_eq_or s t <;> rw [h]
  rfl

theorem fifo_intRaise (k : Nat) (s : State) : (intRaise k s).err.fifo = s.err.fifo := by
  rw [intRaise, ← fifo_intNote k s, intSet]
  dsimp only
  split
  · rfl
  · rw [fifo_alertEdge]
    split
    · exact fifo_msixRaise _ _ _
    · rfl

/-- R538: a report that is logged stands last in a FIFO that has room. -/
theorem fifo_errRecord {r : ErrRec} {s : State} (hlog : logged s r.cls = true) (hroom : s.err.fifo.length < 1024) :
    (errRecord r s).err.fifo = s.err.fifo ++ [{ r with seq := s.err.seq }] := by
  rw [errRecord, if_pos hlog]
  dsimp only
  rw [if_pos hroom, fifo_intRaise]

/-- R524, R538: the record of a report of a class above 1 that counts against no unit, while the error unit is up. -/
theorem fifo_errReport {cls blk unit code : Nat} {detail : Word} {s : State} (hcls : 2 ≤ cls) (hup : s.mgmtDown = false)
    (hroom : s.err.fifo.length < 1024) : ∃ r, (errReport cls blk 15 unit code detail s).err.fifo = s.err.fifo ++ [r] ∧
      r.block = blk ∧ r.detail = detail := by
  have hlog : logged s cls = true := by
    rw [logged, if_neg (by omega), if_neg (by omega)]
  unfold errReport errApply
  dsimp only
  rw [if_neg (by simp [hup]), if_neg (by simp)]
  split
  · rw [fifo_intRaise, fifo_errRecord hlog hroom]
    exact ⟨_, rfl, rfl, rfl⟩
  · rw [fifo_errRecord hlog hroom]
    exact ⟨_, rfl, rfl, rfl⟩

/-! ### The threads of an engine that retires -/

/-- What the retirement of an engine counts of one of its threads (R92, R108). -/
def retireCounted (k : Nat) (s : State) : State :=
  let t := thr s k
  let s := if thrLive t && !t.svc && !t.handed then giveUpPlace t.pkt.pid (rcount s R.SEN_RETIRE_DROP 0 47 0 1) else s
  if t.svc && thrLive t then occurThr 5 8 k (rcount s R.SEN_EXC_COUNT 8 47 0 1) else s

/-- The registers that the retirement of an engine counts in. -/
abbrev retireCounts : List Nat := [adr R.SEN_RETIRE_DROP 0, adr R.SEN_EXC_COUNT 8]

/-- The threads, the error unit and every register but the counts stay. -/
theorem retireCounted_says (k : Nat) (s : State) : thr (retireCounted k s) = thr s ∧ (retireCounted k s).err = s.err ∧
    RegsBut retireCounts s (retireCounted k s) := by
  have hdrop : RegsBut retireCounts s (rcount s R.SEN_RETIRE_DROP 0 47 0 1) :=
    regsBut_rcount (regsBut_refl _ s) List.mem_cons_self _ _ _
  have hexc : ∀ t, RegsBut retireCounts s t → RegsBut retireCounts s (rcount t R.SEN_EXC_COUNT 8 47 0 1) := fun t h =>
    regsBut_rcount h (List.mem_cons_of_mem _ List.mem_cons_self) _ _ _
  unfold retireCounted
  dsimp only
  split <;> split
  · exact ⟨rfl, rfl, hexc (rcount s R.SEN_RETIRE_DROP 0 47 0 1) hdrop⟩
  · exact ⟨rfl, rfl, hexc s (regsBut_refl _ s)⟩
  · exact ⟨rfl, rfl, hdrop⟩
  · exact ⟨rfl, rfl, regsBut_refl _ s⟩

/-- R108: a thread of a retired engine is unavailable. -/
theorem thr_retireThread_self (c k : Nat) (s : State) : (thr (retireThread c k s) k).st = .unavailable :=
  congrArg Thread.st (thr_setThr_self (reqsLeave k (retireCounted k s)) k _)

theorem thr_retireThread_ne (c : Nat) {k j : Nat} (h : j ≠ k) (s : State) : thr (retireThread c k s) j = thr s j :=
  (thr_setThr_ne (reqsLeave k (retireCounted k s)) _ h).trans (congrFun (retireCounted_says k s).1 j)

/-- Of the error unit nothing, and of the registers the counts alone, change in a retirement's effect on a thread. -/
theorem retireThread_keeps (c k : Nat) (s : State) : (retireThread c k s).err = s.err ∧
    RegsBut retireCounts s (retireThread c k s) := (retireCounted_says k s).2

theorem unavailable_retireThreads {c b j : Nat} (l : List Nat) (s : State)
    (h : (thr s j).st = .unavailable ∨ ∃ i ∈ l, b + i = j) :
    (thr (l.foldl (fun s i => retireThread c (b + i) s) s) j).st = .unavailable := by
  induction l generalizing s with
  | nil => simpa using h
  | cons i l ih =>
    refine ih _ ?_
    by_cases hj : j = b + i
    · subst hj
      exact .inl (thr_retireThread_self c _ s)
    · rw [thr_retireThread_ne c hj]
      obtain h | ⟨i', hi', rfl⟩ := h
      · exact .inl h
      · obtain rfl | hmem := List.mem_cons.1 hi'
        · exact absurd rfl hj
        · exact .inr ⟨i', hmem, rfl⟩

theorem retireThreads_keep (c b : Nat) (l : List Nat) (s : State) :
    (l.foldl (fun s i => retireThread c (b + i) s) s).err = s.err ∧
    RegsBut retireCounts s (l.foldl (fun s i => retireThread c (b + i) s) s) := by
  induction l generalizing s with
  | nil => exact ⟨rfl, regsBut_refl _ s⟩
  | cons i l ih =>
    obtain ⟨herr, hregs⟩ := retireThread_keeps c (b + i) s
    obtain ⟨herr', hregs'⟩ := ih (retireThread c (b + i) s)
    exact ⟨herr'.trans herr, fun a ha => (hregs' a ha).trans (hregs a ha)⟩

end Sys2Proof.Proofs
end

section
/-! O13: bank loads from GO to their end (R94 to R97), SWAP_NOW (R98, R99), and the retirement of an engine (R108). -/

namespace Sys2Proof.Proofs
open Sys2Proof Sys2Proof.Machine Sys2Proof.Laws

/-! ### A load is taken up -/

/-- A write of SEN_LOAD_CTL stores COURSES, and nothing else of it. -/
theorem hostStore_loadCtl (v : Word) (s : State) : hostStore false R.SEN_LOAD_CTL 0 v s =
    rset s R.SEN_LOAD_CTL 0 (setFld (rget s R.SEN_LOAD_CTL 0) 15 8 (fld v 15 8)) := by
  rw [hostStore, noteWas_of_not_late (by decide)]
  rfl

theorem rget_of_addr {r r' : Reg} {i i' : Nat} (haddr : regAddr r i = regAddr r' i') (hreset : regReset r i = regReset r' i')
    (s : State) : rget s r i = rget s r' i' := by
  rw [rget, rget, haddr, hreset]

/-- What an entry of the time-action table reads as, wherever its number places it, keeps ACTION and the courses of ARG
through a write of SEN_LOAD_CTL. -/
theorem taAct_loadCtl (n : Nat) (v : Word) (s : State) :
    rfld (hostStore false R.SEN_LOAD_CTL 0 v s) R.TAU_TA_ACT n 55 52 = rfld s R.TAU_TA_ACT n 55 52 ∧
    ∀ c, c < 8 → rbit (hostStore false R.SEN_LOAD_CTL 0 v s) R.TAU_TA_ACT n c = rbit s R.TAU_TA_ACT n c := by
  rw [hostStore_loadCtl]
  by_cases h : regAddr R.TAU_TA_ACT n = regAddr R.SEN_LOAD_CTL 0
  · have hsame : ∀ u : State, rget u R.TAU_TA_ACT n = rget u R.SEN_LOAD_CTL 0 := rget_of_addr h rfl
    simp only [rfld, rbit, hsame, rget_rset_self]
    exact ⟨fld_setFld_ne _ _ (by decide) (by decide) (by decide),
      fun c hc => bit_setFld_ne _ _ (by decide) (by decide) (.inl hc)⟩
  · simp only [rfld, rbit, rget_rset_ne h, implies_true, and_self]

/-- R95: whether a course refuses a load does not hang on the write that asks for it. -/
theorem loadRefused_loadCtl {c : Nat} (hc : c < 8) (v : Word) (s : State) :
    loadRefused (hostStore false R.SEN_LOAD_CTL 0 v s) c = loadRefused s c := by
  have harmed : rbit (hostStore false R.SEN_LOAD_CTL 0 v s) R.SEN_BANK_CTL c 2 = rbit s R.SEN_BANK_CTL c 2 := by
    have hne : regAddr R.SEN_BANK_CTL c ≠ regAddr R.SEN_LOAD_CTL 0 := by
      simp only [regAddr, R.SEN_BANK_CTL, R.SEN_LOAD_CTL]
      omega
    rw [hostStore_loadCtl, rbit, rget_rset_ne hne, rbit]
  have haction := fun n => (taAct_loadCtl n v s).1
  have hcourse := fun n => (taAct_loadCtl n v s).2 c hc
  have hstored := hostStore_loadCtl v s
  generalize hostStore false R.SEN_LOAD_CTL 0 v s = u at *
  obtain ⟨rg, rfl⟩ : ∃ rg, u = { s with regs := rg } := ⟨_, hstored⟩
  have hrefused : loadRefused { s with regs := rg } c = (decide ((bank s c (loadTarget s c)).st = .held) ||
      rbit { s with regs := rg } R.SEN_BANK_CTL c 2 || (course s c).swapTa ||
      s.tau.ta.any (fun e => decide (rfld { s with regs := rg } R.TAU_TA_ACT e.1 55 52 = 2) &&
        rbit { s with regs := rg } R.TAU_TA_ACT e.1 c)) := rfl
  rw [hrefused, harmed]
  simp only [haction, hcourse]
  rfl

theorem loadAccepts_loadCtl (m : Nat) (v : Word) (s : State) :
    loadAccepts (hostStore false R.SEN_LOAD_CTL 0 v s) m = loadAccepts s m :=
  List.foldl_ext _ _ _ fun a c hc => by rw [loadRefused_loadCtl (List.mem_range.1 hc)]

/-- R95: GO starts a load of the courses named, and notes which of them take it. -/
theorem bankLoad_says {s : State} {v : Word} (hgo : bit v 0 = true) (hidle : rfld s R.SEN_LOAD_STAT 0 3 0 ≠ 1) :
    Completes (.bankLoad v) s fun t => t.sen.load = some (fld v 15 8, loadAccepts s (fld v 15 8)) ∧
      rfld t R.SEN_LOAD_STAT 0 3 0 = 1 ∧ RegsBut [adr R.SEN_LOAD_CTL 0, adr R.SEN_LOAD_STAT 0] s t ∧
      t = { s with regs := t.regs, sen := t.sen } := by
  have hstored := hostStore_loadCtl v s
  have haccepts := loadAccepts_loadCtl (fld v 15 8) v s
  have hregs : RegsBut [adr R.SEN_LOAD_CTL 0, adr R.SEN_LOAD_STAT 0] s (hostStore false R.SEN_LOAD_CTL 0 v s) := by
    rw [hstored]
    exact regsBut_rset (regsBut_refl _ s) List.mem_cons_self _
  have hstat : rfld (hostStore false R.SEN_LOAD_CTL 0 v s) R.SEN_LOAD_STAT 0 3 0 ≠ 1 := by
    rw [hstored, rfld_rset_ne (by decide)]
    exact hidle
  have hrest : ∃ rg, hostStore false R.SEN_LOAD_CTL 0 v s = { s with regs := rg } := ⟨_, hstored⟩
  have hexec : exec (.bankLoad v) s = execBankLoad v s := rfl
  rw [execBankLoad] at hexec
  dsimp only at hexec
  rw [if_pos (by simp [hgo, hstat]), haccepts] at hexec
  refine ⟨_, hexec, rfl, ?_, ?_, ?_⟩
  · rw [rfld, rget_rset_self]
    rfl
  · exact regsBut_rset (t := { hostStore false R.SEN_LOAD_CTL 0 v s with sen := _ }) hregs
      (List.mem_cons_of_mem _ List.mem_cons_self) _
  · obtain ⟨rg, hrest⟩ := hrest
    rw [hrest]
    rfl

/-! ### A load ends -/

/-- A read of the host's memory changes what the device puts out, and nothing else. -/
theorem hostRead_eq (sl : Option Nat) (addr n : Nat) (s : State) : ∃ o, hostRead sl addr n s = { s with out := o } := by
  unfold hostRead
  split
  · exact ⟨s.out, rfl⟩
  · exact ⟨_, rfl⟩

theorem imgPlain_out (s : State) (o : List OutEvent) (bs : Bytes) :
    imgPlain { s with out := o } bs = imgPlain s bs := rfl

theorem imgCheck_out (s : State) (o : List OutEvent) (type : Nat) (bs : Bytes) :
    imgCheck { s with out := o } type bs = imgCheck s type bs := rfl

section
variable {s : State} {m took : Nat} (hload : s.sen.load = some (m, took)) (hup : s.mgmtDown = false)
  (hdma : dmaOk s false = true)
include hload hup hdma

/-- R395: a fetch that fails loads no course, and is reported with its address. -/
theorem bankLoadDone_fetchError : exec (.bankLoadDone .fetchError) s =
    .next (loadEnd 7 0 m (errReport 7 12 15 0 4 (rget s R.SEN_LOAD_ADDR 0) s)) := by
  change execBankLoadDone .fetchError s = _
  rw [execBankLoadDone, hload]
  dsimp only
  rw [if_neg (by simp [hup, hdma])]
  rfl

/-- R96, R505: a good image stands in each course that took the load. -/
theorem bankLoadDone_image {bs : Bytes} (hcheck : imgCheck s 3 bs = 0)
    (hformed : Config.bankFormed ((imgPlain s bs).getD []) = true)
    (hlen : (Config.bankProgram ((imgPlain s bs).getD [])).length ≤ 65536) : exec (.bankLoadDone (.image bs)) s =
    .next (loadEnd (if took = m then 2 else 5) took (m - took) ((maskCourses took).foldl
      (loadBank bs ((imgPlain s bs).getD [])) (hostRead none (rget s R.SEN_LOAD_ADDR 0).toNat bs.length s))) := by
  obtain ⟨o, hread⟩ := hostRead_eq none (rget s R.SEN_LOAD_ADDR 0).toNat bs.length s
  have hgood : ¬ (Config.bankFormed ((imgPlain s bs).getD []) = false ∨
      65536 < (Config.bankProgram ((imgPlain s bs).getD [])).length) := by
    rw [hformed]
    exact not_or_intro Bool.noConfusion (Nat.not_lt.2 hlen)
  change execBankLoadDone (.image bs) s = _
  rw [execBankLoadDone, hload]
  dsimp only
  rw [if_neg (by simp [hup, hdma]), hread, imgCheck_out, imgPlain_out, hcheck, if_neg (by simp), if_neg hgood]
  rfl

end

theorem fetchError_says {s : State} {m took : Nat} (hm : m < 256) (hload : s.sen.load = some (m, took))
    (hup : s.mgmtDown = false) (hdma : dmaOk s false = true) :
    Completes (.bankLoadDone .fetchError) s fun t => t.sen.load = none ∧ rfld t R.SEN_LOAD_STAT 0 3 0 = 7 ∧
      rfld t R.SEN_LOAD_STAT 0 23 16 = m ∧ rfld t R.SEN_LOAD_STAT 0 39 32 = 0 ∧
      (∀ d b, bank t d b = bank s d b) ∧ (s.err.fifo.length < 1024 → ∃ r, t.err.fifo = s.err.fifo ++ [r] ∧ r.block = 12 ∧
        r.detail = rget s R.SEN_LOAD_ADDR 0) ∧ t = { s with regs := t.regs, sen := t.sen, err := t.err, out := t.out } := by
  have hexec := bankLoadDone_fetchError hload hup hdma
  have hfifo : s.err.fifo.length < 1024 → ∃ r, (errReport 7 12 15 0 4 (rget s R.SEN_LOAD_ADDR 0) s).err.fifo =
      s.err.fifo ++ [r] ∧ r.block = 12 ∧ r.detail = rget s R.SEN_LOAD_ADDR 0 := fifo_errReport (by decide) hup
  have honly := (errOnly_errReport 7 12 15 0 4 (rget s R.SEN_LOAD_ADDR 0) s).1
  generalize errReport 7 12 15 0 4 (rget s R.SEN_LOAD_ADDR 0) s = u at hexec hfifo honly
  obtain ⟨rg, hend, hresult, hdone, hfail, -⟩ := loadEnd_says (result := 7) (done := 0) (by decide) (by decide) hm u
  rw [hend] at hexec
  obtain ⟨rg', e, o, rfl⟩ : ∃ rg' e o, u = { s with regs := rg', err := e, out := o } := ⟨_, _, _, honly⟩
  exact ⟨_, hexec, rfl, hresult, hfail, hdone, fun d b => rfl, hfifo, rfl⟩

/-- R96, R97: what a good image leaves: its program in each course that took it, and the masks of the load. -/
theorem image_says {s : State} {bs : Bytes} {m took : Nat} (hm : m < 256) (htook : took ≤ m)
    (hload : s.sen.load = some (m, took)) (hup : s.mgmtDown = false) (hdma : dmaOk s false = true)
    (hcheck : imgCheck s 3 bs = 0) (hformed : Config.bankFormed ((imgPlain s bs).getD []) = true)
    (hlen : (Config.bankProgram ((imgPlain s bs).getD [])).length ≤ 65536) :
    Completes (.bankLoadDone (.image bs)) s fun t => t.sen.load = none ∧
      rfld t R.SEN_LOAD_STAT 0 3 0 = (if took = m then 2 else 5) ∧ rfld t R.SEN_LOAD_STAT 0 39 32 = took ∧
      rfld t R.SEN_LOAD_STAT 0 23 16 = m - took ∧
      (∀ d e, bank t d e = if took.testBit d = true ∧ e = loadTarget s d then imageBank ((imgPlain s bs).getD []) s d
        else bank s d e) ∧
      (∀ d, course t d = course s d) ∧ (∀ k, thr t k = thr s k) ∧
      t.out = (hostRead none (rget s R.SEN_LOAD_ADDR 0).toNat bs.length s).out ∧
      RegsBut [adr R.SEN_LOAD_STAT 0] s t ∧ t = { s with regs := t.regs, sen := t.sen, hrt := t.hrt, out := t.out } := by
  have hexec := bankLoadDone_image hload hup hdma hcheck hformed hlen
  obtain ⟨o, hread⟩ := hostRead_eq none (rget s R.SEN_LOAD_ADDR 0).toNat bs.length s
  rw [hread] at hexec ⊢
  have hbanks := fun d e => bank_loadBanks bs ((imgPlain s bs).getD []) (nodup_maskCourses took) { s with out := o } d e
  have honly := banksOnly_loadBanks bs ((imgPlain s bs).getD []) (maskCourses took) { s with out := o }
  generalize (maskCourses took).foldl (loadBank bs ((imgPlain s bs).getD [])) { s with out := o } = u at hexec hbanks honly
  have hresult : (if took = m then 2 else 5) < 16 := by split <;> decide
  obtain ⟨rg, hend, hstat, hdone, hfail, hregs⟩ :=
    loadEnd_says (done := took) (fail := m - took) hresult (by omega) (by omega) u
  rw [hend] at hexec
  obtain ⟨b, h, rfl⟩ : ∃ b h, u = { s with out := o, sen := { s.sen with banks := b }, hrt := h } := ⟨_, _, honly⟩
  refine ⟨_, hexec, rfl, hstat, hdone, hfail, fun d e => (hbanks d e).trans ?_, fun d => rfl, fun k => rfl, rfl, hregs, rfl⟩
  simp only [mem_maskCourses (lt_of_le_of_lt htook hm)]
  rfl

/-! ### SWAP_NOW -/

/-- R98, R99: the banks of a course in mode off are exchanged where the inactive one is loaded and not being loaded. -/
theorem swapNow_swaps {s : State} {c : Course} (hoff : (course s c.val).inForce = 0)
    (hloaded : (bank s c.val (!(course s c.val).activeB)).st = .loaded) (hidle : loading s c.val = false) :
    exec (.swapNow c) s = .next (swapBanks c.val .loaded s) := by
  have hready : swappable s c.val = true := by simp [swappable, hloaded, hidle]
  exact congrArg Host.Outcome.next (if_pos ⟨.inl hoff, hready⟩)

/-- A bank of a course made active. -/
def activated (c : Nat) (b : Bool) (s : State) : State := setBank s c b { bank s c b with st := .active }

/-- A bank of a course given another state, unless it is empty. -/
def deactivated (c : Nat) (b : Bool) (old : BankSt) (s : State) : State :=
  setBank s c b { bank s c b with st := if (bank s c b).st = .empty then .empty else old }

theorem swapBanks_eq (c : Nat) (old : BankSt) (s : State) : swapBanks c old s =
    rsetF (setCourse (deactivated c (course s c).activeB old (activated c (!(course s c).activeB) s)) c
      { course s c with activeB := !(course s c).activeB }) R.SEN_BANK_CTL c 0 0 (!(course s c).activeB).toNat := rfl

/-- Nothing changes but the registers and the Stitch engines. -/
def SenOnly (s t : State) : Prop := t = { s with regs := t.regs, sen := t.sen }

theorem SenOnly.trans {s t u : State} (h : SenOnly s t) (h' : SenOnly t u) : SenOnly s u := by
  rw [SenOnly, h', h]

theorem senOnly_setBank (s : State) (c : Nat) (b : Bool) (x : Bank) : SenOnly s (setBank s c b x) := rfl

theorem senOnly_setCourse (s : State) (c : Nat) (x : CourseSt) : SenOnly s (setCourse s c x) := rfl

theorem senOnly_rsetF (s : State) (r : Reg) (i hi lo v : Nat) : SenOnly s (rsetF s r i hi lo v) := rfl

theorem thr_setBank (s : State) (c : Nat) (b : Bool) (x : Bank) : thr (setBank s c b x) = thr s := rfl

theorem thr_setCourse (s : State) (c : Nat) (x : CourseSt) : thr (setCourse s c x) = thr s := rfl

theorem thr_rsetF (s : State) (r : Reg) (i hi lo v : Nat) : thr (rsetF s r i hi lo v) = thr s := rfl

theorem bank_setCourse (s : State) (c : Nat) (x : CourseSt) : bank (setCourse s c x) = bank s := rfl

theorem bank_rsetF (s : State) (r : Reg) (i hi lo v : Nat) : bank (rsetF s r i hi lo v) = bank s := rfl

theorem course_rsetF (s : State) (r : Reg) (i hi lo v : Nat) : course (rsetF s r i hi lo v) = course s := rfl

/-- What an exchange of banks leaves. -/
theorem swapBanks_says (c : Nat) (old : BankSt) (s : State) :
    let x := course s c
    let t := swapBanks c old s
    course t c = { x with activeB := !x.activeB } ∧
    bank t c (!x.activeB) = { bank s c (!x.activeB) with st := .active } ∧
    bank t c x.activeB = { bank s c x.activeB with st := if (bank s c x.activeB).st = .empty then .empty else old } ∧
    (∀ k, thr t k = thr s k) ∧ SenOnly s t := by
  dsimp only
  generalize hb : (course s c).activeB = b
  have hne : ¬ (c = c ∧ (!b) = b) := by simp
  have hne' : ¬ (c = c ∧ b = !b) := by simp
  have hbank : ∀ e, bank (swapBanks c old s) c e = bank (deactivated c b old (activated c (!b) s)) c e := by
    intro e
    rw [swapBanks_eq, bank_rsetF, bank_setCourse, hb]
  have hold : bank (activated c (!b) s) c b = bank s c b := bank_setBank_ne hne' s _
  refine ⟨?_, ?_, ?_, ?_, ?_⟩
  · rw [swapBanks_eq, course_rsetF, course_setCourse_self, hb]
  · rw [hbank, deactivated, bank_setBank_ne hne, activated, bank_setBank_self]
  · rw [hbank, deactivated, bank_setBank_self, hold]
  · intro k
    rw [swapBanks_eq, thr_rsetF, thr_setCourse, deactivated, thr_setBank, activated, thr_setBank]
  · rw [swapBanks_eq]
    exact (senOnly_setBank s c _ _).trans ((senOnly_setBank _ c _ _).trans ((senOnly_setCourse _ c _).trans
      (senOnly_rsetF _ _ _ _ _ _)))

/-! ### The retirement of an engine -/

/-- The registers of an engine's retirement, its bit set and its course with an engine fewer (R20, R108). -/
def engineMarked (c e : Nat) (sw : Bool) (s : State) : State :=
  let s := rsetF (retireMark 1 (80 * c + e) sw 0 s) R.SEN_ENGINE_RETIRE_LO c e e 1
  rsetF s R.SEN_COURSE_CFG c 14 8 (enginesLive s c - 1)

theorem engineRetire_retires {s : State} {c : Course} {e : Engine} {sw : Bool}
    (hdue : retireDue s 1 (80 * c.val + e.val) sw = true) (hlow : e.val < 64) : exec (.engineRetire c e sw) s =
    .next ((List.range 8).foldl (fun s i => retireThread c.val (640 * c.val + 8 * e.val + i) s)
      (engineMarked c.val e.val sw s)) := by
  change execEngineRetire c e sw s = _
  rw [execEngineRetire]
  dsimp only
  rw [if_pos hdue, if_pos hlow]
  rfl

/-- The registers in which an engine's retirement stands are apart from those of the error unit, from each other and from
those in which its packets and exceptions are counted. -/
theorem engineRegs_apart {c : Nat} (hc : c < 8) : regAddr R.SEN_COURSE_CFG c ∉ errRegs ∧
    regAddr R.SEN_ENGINE_RETIRE_LO c ≠ regAddr R.SEN_COURSE_CFG c ∧
    regAddr R.SEN_ENGINE_RETIRE_LO c ∉ retireCounts ∧ regAddr R.SEN_COURSE_CFG c ∉ retireCounts := by
  simp only [errRegs, retireCounts, adr, regAddr, R.SEN_COURSE_CFG, R.SEN_ENGINE_RETIRE_LO, R.SEN_RETIRE_DROP,
    R.SEN_EXC_COUNT, R.ERR_INT_STAT, R.ERR_LOG_DROP, List.mem_cons, List.not_mem_nil,
    or_false, not_or]
  omega

theorem engineMarked_says {c e : Nat} (hc : c < 8) (he : e < 64) (sw : Bool) {s : State} (hlive : enginesLive s c ≤ 80) :
    (unitGet (engineMarked c e sw s) 1 (80 * c + e)).state = 1 ∧
    rbit (engineMarked c e sw s) R.SEN_ENGINE_RETIRE_LO c e = true ∧
    enginesLive (engineMarked c e sw s) c = enginesLive s c - 1 := by
  obtain ⟨hcfgErr, hcfg, -, -⟩ := engineRegs_apart hc
  obtain ⟨hunit, honly⟩ := retireMark_says 1 (80 * c + e) 0 sw s
  have hlive' : enginesLive (rsetF (retireMark 1 (80 * c + e) sw 0 s) R.SEN_ENGINE_RETIRE_LO c e e 1) c =
      enginesLive s c := (rfld_rset_ne hcfg.symm _ _ _ _).trans (honly.rfld hcfgErr _ _)
  refine ⟨hunit, ?_, ?_⟩
  · rw [engineMarked, rbit, rget_rsetF_ne hcfg, ← rbit, rbit_rsetF_bit _ _ _ _ _ he]
    rfl
  · rw [engineMarked, enginesLive, rfld_rsetF_self _ _ _ _ _ _ (by decide) (by decide), hlive', Nat.mod_eq_of_lt]
    omega

/-- R108: what the retirement of one of the engines 0 to 63 of a course leaves. -/
theorem engineRetire_says {s : State} {c : Course} {e : Engine} {sw : Bool}
    (hdue : retireDue s 1 (80 * c.val + e.val) sw = true) (hlow : e.val < 64) (hlive : enginesLive s c.val ≤ 80) :
    Completes (.engineRetire c e sw) s fun t => (unitGet t 1 (80 * c.val + e.val)).state = 1 ∧
      rbit t R.SEN_ENGINE_RETIRE_LO c.val e.val = true ∧ enginesLive t c.val = enginesLive s c.val - 1 ∧
      (∀ i, i < 8 → (thr t (640 * c.val + 8 * e.val + i)).st = .unavailable) := by
  obtain ⟨hunit, hbit, hcfg⟩ := engineMarked_says c.isLt hlow sw hlive
  obtain ⟨-, -, hbitCount, hcfgCount⟩ := engineRegs_apart c.isLt
  obtain ⟨herr, hregs⟩ := retireThreads_keep c.val (640 * c.val + 8 * e.val) (List.range 8) (engineMarked c.val e.val sw s)
  refine ⟨_, engineRetire_retires hdue hlow, ?_, ?_, ?_, fun i hi => ?_⟩
  · rw [unitGet, herr]
    exact hunit
  · rw [rbit, rget_of_regsBut hregs hbitCount]
    exact hbit
  · rw [enginesLive, rfld, rget_of_regsBut hregs hcfgCount]
    exact hcfg
  · exact unavailable_retireThreads _ _ (.inr ⟨i, List.mem_range.2 hi, rfl⟩)

/-! ### The statement -/

/-- Settles O13: what each command leaves is said above. -/
theorem banksAndEngines : Obligations.BanksAndEngines := by
  intro s c
  refine ⟨fun v hgo hidle => bankLoad_says hgo hidle,
    fun m took hm hload hup hdma => fetchError_says hm hload hup hdma, ?image, ?swap,
    fun e sw hdue hlow hlive _ => engineRetire_says hdue hlow hlive⟩
  case image =>
    intro bs m took hm htook hload hup hdma hcheck plain prog hformed hlen
    obtain ⟨t, hexec, hnone, hresult, hdone, hfail, hbank, hrest⟩ :=
      image_says hm htook hload hup hdma hcheck hformed hlen
    refine ⟨t, hexec, hnone, hresult, hdone, hfail, fun d _ htaken => ?_, fun d b hnot => ?_, hrest⟩
    · have hself : bank t d (loadTarget s d) = imageBank plain s d := (hbank d _).trans (if_pos ⟨htaken, rfl⟩)
      dsimp only
      rw [hself]
      exact ⟨rfl, rfl, rfl, fun i w hw => word_imageBank hw s d, fun i hi => word_imageBank_beyond hi s d⟩
    · rw [hbank, if_neg hnot]
  case swap =>
    intro x hoff hloaded hidle
    obtain ⟨hcourse, hactive, hold, hthr, hrest⟩ := swapBanks_says c.val .loaded s
    have hst : (bank (swapBanks c.val .loaded s) c.val (!x.activeB)).st = .active := by rw [hactive]
    have hwords : (bank (swapBanks c.val .loaded s) c.val (!x.activeB)).words = (bank s c.val (!x.activeB)).words := by
      rw [hactive]
    exact ⟨_, swapNow_swaps hoff hloaded hidle, hcourse, hst, hwords,
      fun hfull => (congrArg Bank.st hold).trans (if_neg hfull), hthr, hrest⟩

end Sys2Proof.Proofs
end

section
/-! O1: the register forms (R113, R120, R129): each is a function of two registers, or of one, or of three, and its
result is the value the manual gives. -/

namespace Sys2Proof.Proofs
open Sys2Proof Sys2Proof.Machine Sys2Proof.Laws

section
variable {c : Instr} {s : State} {th : ThreadRef} {op : Nat} {f : FmtR} {v : Word}
  (h : Issues s th op (fun w => asR w = f))
include h

theorem aluR_writesRd {g : Word → Word → Word} (hexec : exec c s = .next (aluR th op f g s))
    (hv : g (greg (ctx s th) f.ra.toNat) (greg (ctx s th) f.rb.toNat) = v) : WritesRd c s th f.rd.toNat v :=
  local_rd h (by simp) hexec (hv ▸ rfl)

theorem aluR1_writesRd {g : Word → Word} (hexec : exec c s = .next (aluR1 th op f g s))
    (hv : g (greg (ctx s th) f.ra.toNat) = v) : WritesRd c s th f.rd.toNat v :=
  local_rd h (by simp) hexec (hv ▸ rfl)

end

theorem mul_eq_ofNat (a b : Word) : a * b = BitVec.ofNat 64 (a.toNat * b.toNat % 2 ^ 64) := by
  rw [← BitVec.toNat_mul, BitVec.ofNat_toNat, BitVec.setWidth_eq]

theorem ite_lt_eq_min (a b : Word) : (if a.toNat < b.toNat then a else b) = BitVec.ofNat 64 (min a.toNat b.toNat) := by
  split
  next h => rw [min_eq_left h.le, BitVec.ofNat_toNat, BitVec.setWidth_eq]
  next h => rw [min_eq_right (Nat.le_of_not_lt h), BitVec.ofNat_toNat, BitVec.setWidth_eq]

theorem ite_lt_eq_max (a b : Word) : (if a.toNat < b.toNat then b else a) = BitVec.ofNat 64 (max a.toNat b.toNat) := by
  split
  next h => rw [max_eq_right h.le, BitVec.ofNat_toNat, BitVec.setWidth_eq]
  next h => rw [max_eq_left (Nat.le_of_not_lt h), BitVec.ofNat_toNat, BitVec.setWidth_eq]

theorem popCount_eq_countP (a : Word) : popCount a = (List.range 64).countP (fun i => a.getLsbD i) :=
  List.countP_eq_length_filter.symm

theorem ofNat_leadZeros (a : Word) :
    BitVec.ofNat 64 (leadZeros a) = if a = 0 then 64 else BitVec.ofNat 64 (63 - Nat.log2 a.toNat) :=
  apply_ite (BitVec.ofNat 64) _ _ _

/-- Settles O1: each form is one of two shapes, and CSUMU reads rd besides; the values are those of the lemmas above. -/
theorem stitchRegisterFormsWriteRd : Obligations.StitchRegisterFormsWriteRd := by
  intro s th f
  exact ⟨fun h => aluR_writesRd h rfl rfl, fun h => aluR_writesRd h rfl rfl, fun h => aluR_writesRd h rfl rfl,
    fun h => aluR_writesRd h rfl rfl, fun h => aluR_writesRd h rfl rfl, fun h => aluR_writesRd h rfl rfl,
    fun h => aluR_writesRd h rfl rfl, fun h => aluR_writesRd h rfl rfl, fun h => aluR_writesRd h rfl (mul_eq_ofNat _ _),
    fun h => aluR_writesRd h rfl (ite_lt_eq_min _ _), fun h => aluR_writesRd h rfl (ite_lt_eq_max _ _),
    fun h => aluR1_writesRd h rfl (congrArg _ (popCount_eq_countP _)),
    fun h => aluR1_writesRd h rfl (ofNat_leadZeros _), fun h => local_rd h (by simp) rfl rfl⟩

end Sys2Proof.Proofs
end

section
/-! O2: the immediate, field and hash forms (R120 to R122), and INS bit by bit. -/

namespace Sys2Proof.Proofs
open Sys2Proof Sys2Proof.Machine Sys2Proof.Laws

section
variable {c : Instr} {s : State} {th : ThreadRef} {op : Nat} {f : FmtI} {g : Word → BitVec 32 → Word} {v : Word}
  (h : Issues s th op (fun w => asI w = f))
include h

theorem aluI_writesRd (hexec : exec c s = .next (aluI th op f g s)) (hv : g (greg (ctx s th) f.ra.toNat) f.imm = v) :
    WritesRd c s th f.rd.toNat v := local_rd h (by simp) hexec (hv ▸ rfl)

theorem aluMov_writesRd (hexec : exec c s = .next (aluMov th op f g s))
    (hv : g (greg (ctx s th) f.rd.toNat) f.imm = v) : WritesRd c s th f.rd.toNat v := local_rd h (by simp) hexec (hv ▸ rfl)

end

/-- R120: the upper half replaced and the lower kept is the one put before the other. -/
theorem setFld_upper_half (d : Word) (i : BitVec 32) : setFld d 63 32 i.toNat = i ++ d.truncate 32 := by
  apply BitVec.eq_of_getLsbD_eq
  intro b hb
  rw [setFld_getLsbD _ _ _ _ _ (by decide) (by decide), BitVec.getLsbD_append]
  by_cases hlow : b < 32
  · rw [if_neg (by omega), if_pos hlow]
    simp [hlow]
  · rw [if_pos (by omega), if_neg hlow]
    rfl

/-- R121: the bits of the field come from the low bits of `a`, the others from `d`. -/
theorem insField_getLsbD (d a : Word) (pos wid : Nat) {i : Nat} (hi : i < 64) :
    (insField d a pos wid).getLsbD i = if pos ≤ i ∧ i < pos + wid then a.getLsbD (i - pos) else d.getLsbD i := by
  have hmask : (BitVec.ofNat 64 ((2 ^ wid - 1) <<< pos)).getLsbD i = decide (pos ≤ i ∧ i < pos + wid) := by
    rw [BitVec.getLsbD_ofNat, Nat.testBit_shiftLeft, Nat.testBit_two_pow_sub_one]
    by_cases hpos : pos ≤ i
    · simp [hi, hpos, Nat.sub_lt_iff_lt_add' hpos]
    · simp [hpos]
  unfold insField
  simp only [BitVec.getLsbD_or, BitVec.getLsbD_and, BitVec.getLsbD_not, hmask, BitVec.getLsbD_ofNat,
    Nat.testBit_shiftLeft, hi, decide_true, Bool.true_and]
  by_cases hin : pos ≤ i ∧ i < pos + wid
  · simp [hin, BitVec.getLsbD]
  · simp [hin]

/-- Settles O2: the immediate forms are of two shapes, the others each of its own, and INS is said bit by bit above. -/
theorem stitchImmediateAndFieldFormsWriteRd : Obligations.StitchImmediateAndFieldFormsWriteRd := by
  refine ⟨fun s th => ⟨fun f => ?imm, fun f => ⟨fun h => local_rd h (by simp) rfl rfl,
    fun h => local_rd h (by simp) rfl rfl⟩, fun f h => local_rd h (by simp) rfl rfl⟩,
    fun d a pos wid i _ _ _ hi => insField_getLsbD d a pos wid hi⟩
  exact ⟨fun h => aluI_writesRd h rfl rfl, fun h => aluI_writesRd h rfl rfl, fun h => aluI_writesRd h rfl rfl,
    fun h => aluI_writesRd h rfl rfl, fun h => aluI_writesRd h rfl rfl, fun h => aluI_writesRd h rfl rfl,
    fun h => aluI_writesRd h rfl rfl, fun h => aluMov_writesRd h rfl rfl,
    fun h => aluMov_writesRd h rfl (setFld_upper_half _ _)⟩

end Sys2Proof.Proofs
end

section
/-! O3: the window and metadata forms (R123, R125, R127, R128, R130), on the thread as its issue leaves it. -/

namespace Sys2Proof.Proofs
open Sys2Proof Sys2Proof.Machine Sys2Proof.Laws

/-! ### Loads -/

section
variable {s : State} {th : ThreadRef}

/-- A meaning whose body writes a register of the thread as counted. -/
theorem writesRd_of_issue {c : Instr} {op rd : Nat} {v : Word} {ok : Word → Bool} {okp : Word → Prop} {body}
    (h : Issues s th op okp) (hk : okp (thrWord s (thrKey th)) → ok (thrWord s (thrKey th)) = true)
    (hexec : exec c s = .next (issue th op ok body s))
    (hbody : ∀ x, body (thrKey th) (counted s th) x = setThr x (thrKey th) (gset (counted s th) rd v)) :
    WritesRd c s th rd v :=
  writesRd_of ((exec_issue hexec h hk).trans (congrArg _ (hbody _)))

theorem ldw_writesRd {f : FmtW} (h : Issues s th 0x40 (fun w => asW w = f)) :
    WritesRd (.ldw th f) s th f.rd.toNat (BitVec.ofNat 64
      (beNat (winLoad (ctx s th).pkt (winOff (ctx s th) f.ra f.off) (clampTo 1 8 f.size.toNat)))) := by
  refine writesRd_of_issue (c := .ldw th f) h (by simp) rfl fun x => ?_
  rw [winLoad_count]
  rfl

theorem csum_writesRd {f : FmtW} (h : Issues s th 0x45 (fun w => asW w = f)) :
    WritesRd (.csum th f) s th f.rd.toNat (BitVec.ofNat 64
      (csum16 (winLoad (ctx s th).pkt (winOff (ctx s th) f.ra f.off) (clampTo 1 512 f.n.toNat)))) := by
  refine writesRd_of_issue (c := .csum th f) h (by simp) rfl fun x => ?_
  rw [winLoad_count]
  rfl

/-! ### Stores -/

theorem stw_stores {f : FmtW} (h : Issues s th 0x41 (fun w => asW w = f)) :
    ThreadBecomes (.stw th f) s th 1 (slotGau s th) { counted s th with
      pkt := winStore (counted s th).pkt (winOff (ctx s th) f.ra f.off)
        (beBytes (clampTo 1 8 f.size.toNat) (greg (ctx s th) f.rd.toNat).toNat) } :=
  become_of (exec_issue (c := .stw th f) rfl h (by simp))

/-- R127: an APND within the growth of R125. -/
theorem apnd_appends {f : FmtW} (h : Issues s th 0x44 (fun w => asW w = f))
    (hroom : frameLen (counted s th).pkt + clampTo 1 8 f.size.toNat ≤ (counted s th).pkt.orig + 128) :
    ThreadBecomes (.apnd th f) s th 1 (slotGau s th) { counted s th with
      pkt := appendBytes (counted s th).pkt
        (beBytes (clampTo 1 8 f.size.toNat) (greg (ctx s th) f.rd.toNat).toNat) } :=
  local_become (c := .apnd th f) h (by simp) rfl (if_neg (Nat.not_lt.2 hroom))

/-! ### Insertions and removals -/

/-- R125: an insertion within the growth that R125 allows. -/
theorem pushBytes_of_room {t : Thread} {n : Nat} (off : Nat) (hroom : frameLen t.pkt + n ≤ t.pkt.orig + 128) :
    pushBytes t off n = .ok { t with pkt := setFrameLen (capWin { t.pkt with
      win := t.pkt.win.take (min off (min t.pkt.win.length 511)) ++ List.replicate n 0 ++
        t.pkt.win.drop (min off (min t.pkt.win.length 511)) }) (frameLen t.pkt + n) } :=
  if_neg (Nat.not_lt.2 hroom)

/-- PUSH and POP leave their thread as their effect has it, over two clocks (R116). -/
theorem becomes_two_of_ok {c : Instr} {op : Nat} {f : FmtW} {e : Thread → Eff} {x : Thread}
    (h : Issues s th op (fun w => asW w = f))
    (hexec : exec c s = .next (issue th op (fun w => decide (asW w = f))
      (fun k t s => secondCycle k (applyEff (e t) k t s)) s)) (hok : e (counted s th) = .ok x) :
    ThreadBecomes c s th 2 (secondCycle (thrKey th) (slotUsed (thrKey th) 2 s)).gau x := by
  have hbody := exec_issue hexec h (by simp)
  rw [hok] at hbody
  exact become_two hbody

end

/-- Settles O3: each form that issues has the effect said above. -/
theorem stitchWindowAndMetadataForms : Obligations.StitchWindowAndMetadataForms := by
  intro s th
  refine ⟨fun f => ⟨ldw_writesRd, stw_stores, csum_writesRd, fun h hroom => ?push, fun h => ?pop, apnd_appends⟩,
    fun f => ⟨fun h => ?mld, fun h => ?mst, fun h => ?mins⟩⟩
  case push => exact becomes_two_of_ok (c := .push th f) h rfl (pushBytes_of_room _ hroom)
  case pop => exact becomes_two_of_ok (c := .pop th f) h rfl rfl
  case mld => exact writesRd_of_issue (c := .mld th f) h (by simp) rfl fun _ => rfl
  case mst => exact local_become (c := .mst th f) h (by simp) rfl rfl
  case mins => exact local_become (c := .mins th f) h (by simp) rfl rfl

end Sys2Proof.Proofs
end

section
/-! O5: the control-flow forms (R119, R131). -/

namespace Sys2Proof.Proofs
open Sys2Proof Sys2Proof.Machine Sys2Proof.Laws

/-! ### Comparisons -/

theorem ult_iff (a b : Word) : a.ult b = true ↔ a.toNat < b.toNat := by simp [BitVec.ult]

theorem not_ult_iff (a b : Word) : (!a.ult b) = true ↔ b.toNat ≤ a.toNat := by simp [BitVec.ult]

theorem slt_iff (a b : Word) : a.slt b = true ↔ a.toInt < b.toInt := by simp [BitVec.slt]

theorem not_slt_iff (a b : Word) : (!a.slt b) = true ↔ b.toInt ≤ a.toInt := by simp [BitVec.slt]

/-- R9, R131: an index past the end of a jump table takes its last entry, and a table has at least one. -/
theorem jtIndex_eq_min (v : Word) (aux : BitVec 14) : jtIndex v aux = min v.toNat (max 1 aux.toNat - 1) := by
  have := aux.isLt
  unfold jtIndex clampTo
  split_ifs <;> omega

/-! ### Calls and returns -/

section
variable {s : State} {th : ThreadRef} {f : FmtB}

theorem call_pushes (h : Issues s th 0x51 (fun w => asB w = f)) (hroom : (ctx s th).stack.length < 8) :
    ThreadBecomes (.call th f) s th 1 (slotGau s th)
      { counted s th with stack := ((ctx s th).pc + 1) :: (ctx s th).stack, pc := f.target.toNat } :=
  local_become (c := .call th f) h (by simp) rfl (if_pos hroom)

theorem ret_pops {r : Nat} {rest : List Nat} (h : Issues s th 0x52 (fun w => asB w = f))
    (hstack : (ctx s th).stack = r :: rest) :
    ThreadBecomes (.ret th f) s th 1 (slotGau s th) { counted s th with stack := rest, pc := r } := by
  refine local_become (c := .ret th f) h (by simp) rfl ?_
  have hcounted : (counted s th).stack = r :: rest := hstack
  simp only [hcounted]

end

/-- Settles O5: a branch is taken where its comparison holds; the other forms are said above. -/
theorem stitchControlFlowForms : Obligations.StitchControlFlowForms := by
  intro s th t u
  refine ⟨fun f => ⟨fun h => branch_become h rfl (by simp), call_pushes, fun r rest => ret_pops,
    fun h => branch_become h rfl decide_eq_true_iff, fun h => branch_become h rfl decide_eq_true_iff,
    fun h => branch_become h rfl (ult_iff _ _), fun h => branch_become h rfl (not_ult_iff _ _),
    fun h => branch_become h rfl (slt_iff _ _), fun h => branch_become h rfl (not_slt_iff _ _),
    fun h => branch_become h rfl decide_eq_true_iff, fun h => branch_become h rfl decide_eq_true_iff,
    fun h => branch_become h rfl Iff.rfl, fun h => branch_become h rfl (iff_of_eq (Bool.not_eq_true' _)),
    fun h => branch_become h rfl decide_eq_true_iff, fun h => branch_become h rfl decide_eq_true_iff⟩, fun f h => ?jt⟩
  case jt =>
    refine local_become (c := .jt th f) h (by simp) rfl ?_
    rw [jtIndex_eq_min]
    rfl

end Sys2Proof.Proofs
end

section
/-! O6: what raises an exception and which comes first (R114 to R119, R150), when a budget is spent (R90, R93, R102),
and what an exception does to its thread (R91 to R93, R102). -/

namespace Sys2Proof.Proofs
open Sys2Proof Sys2Proof.Machine Sys2Proof.Laws

/-! ### The instruction's own exception -/

section
variable {c : Instr} {s : State} {th : ThreadRef} {op : Nat} {ok : Word → Bool} {okp : Word → Prop}
  (h : Issues s th op okp) (hk : okp (thrWord s (thrKey th)) → ok (thrWord s (thrKey th)) = true)
include h hk

/-- An instruction that meets an exception raises it on its thread as counted. -/
theorem exec_raises {f : Thread → Eff} {code : Nat} (hexec : exec c s = .next (issueLocal th op ok f s))
    (hf : f (counted s th) = .exc code) :
    exec c s = .next (raiseExc (thrKey th) code (setThr (slotTaken s th) (thrKey th) (counted s th))) := by
  have hbody := exec_issues h hexec hk
  rw [hf] at hbody
  exact hbody

/-- R115: an instruction that the kind of its thread bars raises exception 2. -/
theorem exec_barred {svc : Bool} {run : Nat → Thread → State → State}
    (hexec : exec c s = .next (issue th op ok
      (fun k t s => if t.svc = svc then raiseExc k 2 (setThr s k t) else run k t s) s)) (hsvc : (ctx s th).svc = svc) :
    exec c s = .next (raiseExc (thrKey th) 2 (setThr (slotTaken s th) (thrKey th) (counted s th))) := by
  have hbody := exec_issues h hexec hk
  rw [if_pos ((countIssue_svc _ _ _).trans hsvc)] at hbody
  exact hbody

end

/-- R114: a word whose opcode is not defined. -/
theorem undefinedOpcode_raises {s : State} {th : ThreadRef} {op : BitVec 8}
    (hop : definedOpcodes.contains op.toNat = false) (h : Issues s th op.toNat (fun _ => True)) :
    exec (.undefinedOpcode th op) s =
      .next (raiseExc (thrKey th) 2 (setThr (slotTaken s th) (thrKey th) (counted s th))) := by
  refine exec_raises (ok := fun _ => true) (f := fun _ => .exc 2) h (fun _ => rfl) ?_ rfl
  change execUndefinedOpcode th op s = _
  rw [execUndefinedOpcode, if_neg (Bool.eq_false_iff.1 hop)]

/-! ### Budgets -/

theorem budgetGone_iff (s : State) (t : Thread) (isSleep : Bool) : budgetGone s t isSleep = true ↔
    (t.svc = false ∧ t.handler = true ∧ 64 ≤ t.spent) ∨ (t.svc = false ∧ t.handler = false ∧ 1024 ≤ t.count) ∨
    (t.svc = true ∧ isSleep = false ∧ rfld s R.SEN_SVC_BUDGET 0 19 0 ≤ t.spent) := by
  unfold budgetGone
  cases t.svc with
  | true => simp
  | false => cases t.handler <;> simp

/-! ### The count of an exception and its action -/

/-- R92: of the registers an exception counts in SEN_EXC_COUNT alone. -/
theorem regs_excCounted (k code : Nat) (s : State) :
    (excCounted k code s).regs = (rcount s R.SEN_EXC_COUNT code 47 0 1).regs := by
  unfold excCounted
  dsimp only
  split <;> rfl

theorem thr_excCounted (k code : Nat) (s : State) (j : Nat) : thr (excCounted k code s) j = thr s j :=
  thr_of_still (still_excCounted k code s) j

theorem rfld_excCounted (k code : Nat) (s : State) : rfld (excCounted k code s) R.SEN_EXC_COUNT code 47 0 =
    min (rfld s R.SEN_EXC_COUNT code 47 0 + 1) (2 ^ 48 - 1) :=
  (rfld_of_regs (regs_excCounted k code s) _ _ _ _).trans (rfld_rcount_self s _ _ 1 (by decide) (by decide))

/-- The action of a code is another register than its count. -/
theorem excCfg_excCounted (k code : Nat) (s : State) :
    rget (excCounted k code s) R.SEN_EXC_CFG code = rget s R.SEN_EXC_CFG code := by
  have hne : regAddr R.SEN_EXC_CFG code ≠ regAddr R.SEN_EXC_COUNT code := by
    simp only [regAddr, R.SEN_EXC_CFG, R.SEN_EXC_COUNT]
    omega
  exact (rget_of_regs (regs_excCounted k code s) _ _).trans (rget_rcount_ne hne s _ _ _)

/-- A packet thread that meets an exception: its packet's REASON takes the code (R91). -/
def excMarked (k code : Nat) (s : State) : Thread :=
  { thr s k with pkt := mdSet (thr s k).pkt 14 31 24 code, exc6 := false }

theorem excTaken_of_handler {k code : Nat} {s : State} (hsvc : (thr s k).svc = false)
    (hhandler : (thr s k).handler = true) : excTaken k code s = dropThr k (setThr s k (excMarked k code s)) := by
  unfold excTaken
  dsimp only
  rw [if_neg (by simp [hsvc]), if_pos hhandler]
  rfl

section
variable {k code : Nat} {s : State} (hsvc : (thr s k).svc = false) (hhandler : (thr s k).handler = false)
include hsvc hhandler

/-- R91: actions 1 and 2 apart, an exception of a packet thread drops the packet. -/
theorem excTaken_of_drop (h1 : fld (rget s R.SEN_EXC_CFG code) 1 0 ≠ 1) (h2 : fld (rget s R.SEN_EXC_CFG code) 1 0 ≠ 2) :
    excTaken k code s = dropThr k (setThr s k (excMarked k code s)) := by
  unfold excTaken
  dsimp only
  rw [if_neg (by simp [hsvc]), if_neg (by simp [hhandler])]
  split
  next h => exact absurd h h1
  next h => exact absurd h h2
  next => rfl

/-- R91, R93: action 2 starts the handler. -/
theorem excTaken_of_start (h2 : fld (rget s R.SEN_EXC_CFG code) 1 0 = 2) :
    excTaken k code s = setThr (setThr s k (excMarked k code s)) k
      { excMarked k code s with st := .ready, handler := true, spent := 0, stack := [],
                                pc := fld (rget s R.SEN_EXC_CFG code) 31 16, waitTags := [], waitFrame := false } := by
  unfold excTaken
  dsimp only
  rw [if_neg (by simp [hsvc]), if_neg (by simp [hhandler])]
  split
  next h => exact absurd (h.symm.trans h2) (by decide)
  next => rfl
  next h => exact absurd h2 h

end

/-- Of the registers an exception's action reaches none, unless it hands the packet to a slice. -/
theorem regs_excTaken {k code : Nat} {s : State}
    (h : (thr s k).svc = true ∨ (thr s k).handler = true ∨ fld (rget s R.SEN_EXC_CFG code) 1 0 ≠ 1) :
    (excTaken k code s).regs = s.regs := by
  by_cases hsvc : (thr s k).svc = true
  · simp [excTaken_of_svc hsvc, haltThr]
  rw [Bool.not_eq_true] at hsvc
  by_cases hhandler : (thr s k).handler = true
  · simp [excTaken_of_handler hsvc hhandler, dropThr]
  rw [Bool.not_eq_true] at hhandler
  have h1 : fld (rget s R.SEN_EXC_CFG code) 1 0 ≠ 1 := by simpa [hsvc, hhandler] using h
  by_cases h2 : fld (rget s R.SEN_EXC_CFG code) 1 0 = 2
  · simp [excTaken_of_start hsvc hhandler h2]
  · simp [excTaken_of_drop hsvc hhandler h1 h2, dropThr]

/-! ### What it leaves of the thread -/

/-- R102: a service thread that has halted with a code, its inbox and its requests gone. -/
def haltedWith (code : Nat) (t : Thread) : Thread :=
  { t with st := .halted, exc := code, inbox := [], reqs := [], waitTags := [], waitFrame := false, exc6 := false,
           stopReq := false }

theorem thr_haltThr_self (k code : Nat) (s : State) : thr (haltThr k code s) k = haltedWith code (thr s k) :=
  thr_setThr_self _ _ _

/-- R79, R83: a thread whose packet is dropped is free, or unavailable on a retired engine. -/
theorem thr_dropThr_st (k : Nat) (s : State) :
    (thr (dropThr k s) k).st = .free ∨ (thr (dropThr k s) k).st = .unavailable := by
  by_cases hst : (thr s k).st = .unavailable
  · exact .inr ((congrArg Thread.st (thr_setThr_self _ _ _)).trans (if_pos hst))
  · exact .inl (thr_freeThr_st (s := giveUpPlace (thr s k).pkt.pid s) hst)

theorem setF32_getLsbD (w : Word32) {hi lo : Nat} (v : Nat) {i : Nat} (h : hi < 32) (hlo : lo ≤ i) (hhi : i ≤ hi) :
    (setF32 w hi lo v).getLsbD i = v.testBit (i - lo) := by
  have h32 : i < 32 := by omega
  have hin : i - lo < hi + 1 - lo := by omega
  simp only [setF32, BitVec.getLsbD_or, BitVec.getLsbD_and, BitVec.getLsbD_not, BitVec.getLsbD_ofNat,
    Nat.testBit_shiftLeft, Nat.testBit_two_pow_sub_one, Nat.testBit_mod_two_pow]
  simp [h32, hlo, hin]

theorem mdF_mdSet_self (p : Packet) (i v : Nat) {hi lo : Nat} (h : hi < 32) :
    mdF (mdSet p i hi lo v) i hi lo = v % 2 ^ (hi + 1 - lo) := by
  rw [mdF, mdWord, mdSet, mdSetW, mget_mset_self]
  apply Nat.eq_of_testBit_eq
  intro b
  rw [Nat.testBit_mod_two_pow, Nat.testBit_mod_two_pow, Nat.testBit_shiftRight, BitVec.testBit_toNat]
  by_cases hb : b < hi + 1 - lo
  · rw [setF32_getLsbD _ _ h (by omega) (by omega), Nat.add_sub_cancel_left]
  · simp [hb]

section
variable {k code : Nat} {s : State}

/-- R92: an exception is counted by its code. -/
theorem rfld_raiseExc
    (h : (thr s k).svc = true ∨ (thr s k).handler = true ∨ fld (rget s R.SEN_EXC_CFG code) 1 0 ≠ 1) :
    rfld (raiseExc k code s) R.SEN_EXC_COUNT code 47 0 = min (rfld s R.SEN_EXC_COUNT code 47 0 + 1) (2 ^ 48 - 1) := by
  rw [raiseExc_eq, ← rfld_excCounted k code s]
  apply rfld_of_regs
  apply regs_excTaken
  rwa [thr_excCounted, excCfg_excCounted]

theorem thr_raiseExc_svc (h : (thr s k).svc = true) : thr (raiseExc k code s) k = haltedWith code (thr s k) := by
  rw [raiseExc_of_svc h, thr_haltThr_self, thr_excCounted]

variable (hsvc : (thr s k).svc = false)
include hsvc

/-- R93: the exception of a handler drops its packet. -/
theorem thr_raiseExc_handler_st (hhandler : (thr s k).handler = true) :
    (thr (raiseExc k code s) k).st = .free ∨ (thr (raiseExc k code s) k).st = .unavailable := by
  rw [raiseExc_eq, excTaken_of_handler (by rwa [thr_excCounted]) (by rwa [thr_excCounted])]
  exact thr_dropThr_st k _

variable (hhandler : (thr s k).handler = false)
include hhandler

/-- R91: action 0 drops the packet. -/
theorem thr_raiseExc_drop_st (haction : fld (rget s R.SEN_EXC_CFG code) 1 0 = 0) :
    (thr (raiseExc k code s) k).st = .free ∨ (thr (raiseExc k code s) k).st = .unavailable := by
  rw [raiseExc_eq, excTaken_of_drop (by rwa [thr_excCounted]) (by rwa [thr_excCounted])
    (by simp [excCfg_excCounted, haction]) (by simp [excCfg_excCounted, haction])]
  exact thr_dropThr_st k _

/-- R91, R93: action 2 starts the handler at its address. -/
theorem thr_raiseExc_start (haction : fld (rget s R.SEN_EXC_CFG code) 1 0 = 2) : thr (raiseExc k code s) k =
    { excMarked k code s with st := .ready, handler := true, spent := 0, stack := [],
                              pc := fld (rget s R.SEN_EXC_CFG code) 31 16, waitTags := [], waitFrame := false } := by
  rw [raiseExc_eq, excTaken_of_start (by rwa [thr_excCounted]) (by rwa [thr_excCounted]) (by rwa [excCfg_excCounted]),
    thr_setThr_self, excCfg_excCounted, excMarked, thr_excCounted, excMarked]

end

/-! ### The statement -/

/-- Settles O6: the instructions that raise their own exception, the order before it, when a budget is spent, and what
an exception does. -/
theorem stitchExceptionsAndBudgets : Obligations.StitchExceptionsAndBudgets := by
  refine ⟨fun s th => ?raises, budgetGone_iff, fun s k code hcode => ?taken⟩
  case raises =>
    intro t k raised own
    refine ⟨fun f h => exec_raises h (by simp) rfl rfl, fun op hop h => undefinedOpcode_raises hop h,
      fun f h hfull => exec_raises h (by simp) rfl (if_neg (Nat.not_lt.2 hfull)), fun f h hempty => ?ret,
      fun f h => ⟨nop_does_nothing h, rfl⟩,
      fun f => ⟨fun h => exec_barred h (by simp) rfl, fun h => exec_barred h (by simp) rfl,
        fun h => exec_barred h (by simp) rfl, fun h => exec_barred h (by simp) rfl⟩,
      fun f hready hstart hturn hbeyond => ?beyond⟩
    case ret =>
      refine exec_raises h (by simp) rfl ?_
      have hcounted : (counted s th).stack = [] := hempty
      simp only [hcounted]
    case beyond =>
      have hexec : exec (.nop th f) s = _ := congrArg Host.Outcome.next (issue_beyond hready hstart hturn hbeyond)
      exact ⟨fun hleft => hexec.trans (by rw [hleft]; rfl), fun hspent => hexec.trans (by rw [hspent]; rfl)⟩
  case taken =>
    intro t x cfg
    refine ⟨rfld_raiseExc, fun hsvc => ?halts, fun hsvc hhandler => thr_raiseExc_handler_st hsvc hhandler,
      fun hsvc hhandler haction => thr_raiseExc_drop_st hsvc hhandler haction,
      fun hsvc hhandler haction => ?starts⟩
    case halts =>
      have hself := thr_raiseExc_svc (code := code) hsvc
      exact ⟨congrArg Thread.st hself, congrArg Thread.exc hself, congrArg Thread.inbox hself,
        congrArg Thread.reqs hself⟩
    case starts =>
      have hself := thr_raiseExc_start hsvc hhandler haction
      have hreason : mdF (mdSet (thr s k).pkt 14 31 24 code) 14 31 24 = code :=
        (mdF_mdSet_self _ _ _ (by decide)).trans (Nat.mod_eq_of_lt (by omega))
      exact ⟨congrArg Thread.st hself, congrArg Thread.handler hself, congrArg Thread.pc hself,
        congrArg Thread.stack hself, congrArg Thread.spent hself,
        (congrArg (fun t : Thread => mdF t.pkt 14 31 24) hself).trans hreason⟩

end Sys2Proof.Proofs
end

section
/-! O24: PF0's window on the state memory and its counter latch (R142, R144, R145, R147), and the commands of the
pattern unit (R160, R161). -/

namespace Sys2Proof.Proofs
open Sys2Proof Sys2Proof.Machine Sys2Proof.Laws

/-! ### The counter latch -/

/-- The registers a latch of a counter pair writes: SEN_CNT_SEL and the two latched counts (R147). -/
def latchRegs (v : Word) (c : Word × Word) (s : State) : State :=
  rset (rset (rset s R.SEN_CNT_SEL 0 (BitVec.ofNat 64 (fld v 20 0))) R.SEN_CNT_PKT 0 c.1) R.SEN_CNT_BYTE 0 c.2

theorem latchRegs_says (v : Word) (c : Word × Word) (s : State) :
    (rget (latchRegs v c s) R.SEN_CNT_PKT 0, rget (latchRegs v c s) R.SEN_CNT_BYTE 0) = c ∧
    RegsBut [adr R.SEN_CNT_SEL 0, adr R.SEN_CNT_PKT 0, adr R.SEN_CNT_BYTE 0] s (latchRegs v c s) := by
  refine ⟨Prod.ext ?_ (rget_rset_self _ _ _ _), ?_⟩
  · exact (rget_rset_ne (by decide) _ _).trans (rget_rset_self _ _ _ _)
  · exact regsBut_rset (regsBut_rset (regsBut_rset (regsBut_refl _ s) (by simp) _) (by simp) _) (by simp) _

/-- R147: the pair at INDEX is latched, and its count starts again where CLR is 1. -/
theorem exec_counterLatch (v : Word) (s : State) : exec (.counterLatch v) s =
    let i := fld v 19 0
    .next { latchRegs v (mget (0, 0) s.sen.cnt i) s with
      sen := { s.sen with cnt := if bit v 20 then mdel s.sen.cnt i else s.sen.cnt, latchAt := some s.tau.mono } } := by
  change execCounterLatch v s = _
  unfold execCounterLatch
  dsimp only
  split <;> rfl

/-! ### Commands of the pattern unit start -/

/-- TCM_PPU_CMD as a command leaves it: BUSY, the RESULT of the command before, OP and INDEX (R161). -/
def ppuWord (result op index : Nat) : Word := BitVec.ofNat 64 (2 ^ 63 + result * 2 ^ 56 + op * 2 ^ 16 + index)

theorem ppuWord_says {result op index : Nat} (hresult : result < 8) (hop : op < 4) (hindex : index < 65536) :
    bit (ppuWord result op index) 63 = true ∧ fld (ppuWord result op index) 17 16 = op ∧
    fld (ppuWord result op index) 15 0 = index := by
  have hsmall : 2 ^ 63 + result * 2 ^ 56 + op * 2 ^ 16 + index < 2 ^ 64 := by omega
  simp only [bit, fld, ppuWord, BitVec.toNat_ofNat, Nat.mod_eq_of_lt hsmall, Nat.testBit_eq_decide_div_mod_eq,
    Nat.shiftRight_eq_div_pow, decide_eq_true_eq]
  omega

section
variable {s : State}

theorem ppuStart_of_idle (op : Nat) (v : Word) (hidle : bit (rget s R.TCM_PPU_CMD 0) 63 = false) :
    ppuStart op v s = rset s R.TCM_PPU_CMD 0 (ppuWord (fld (rget s R.TCM_PPU_CMD 0) 58 56) op (fld v 15 0)) :=
  if_neg (Bool.eq_false_iff.1 hidle)

theorem ppuStart_of_busy (op : Nat) (v : Word) (hbusy : bit (rget s R.TCM_PPU_CMD 0) 63 = true) : ppuStart op v s = s :=
  if_pos hbusy

/-- R161: an idle unit takes a command up. -/
theorem ppuStart_says {op : Nat} (hop : op < 4) (v : Word) (hidle : bit (rget s R.TCM_PPU_CMD 0) 63 = false) :
    let t := ppuStart op v s
    bit (rget t R.TCM_PPU_CMD 0) 63 = true ∧ fld (rget t R.TCM_PPU_CMD 0) 17 16 = op ∧
    fld (rget t R.TCM_PPU_CMD 0) 15 0 = fld v 15 0 ∧ RegsBut [adr R.TCM_PPU_CMD 0] s t ∧
    t = { s with regs := t.regs } := by
  obtain ⟨hbusy, hop', hindex⟩ := ppuWord_says (fld_lt (rget s R.TCM_PPU_CMD 0) 58 56) hop (fld_lt v 15 0)
  rw [ppuStart_of_idle op v hidle]
  dsimp only
  rw [rget_rset_self]
  exact ⟨hbusy, hop', hindex, regsBut_rset (regsBut_refl _ s) List.mem_cons_self _, rfl⟩

end

/-! ### Commands of the pattern unit end -/

theorem ppuEnd_says {result : Nat} (hresult : result < 8) (s : State) :
    bit (rget (ppuEnd result s) R.TCM_PPU_CMD 0) 63 = false ∧
    fld (rget (ppuEnd result s) R.TCM_PPU_CMD 0) 58 56 = result ∧
    RegsBut [adr R.TCM_PPU_CMD 0] s (ppuEnd result s) := by
  refine ⟨rbit_rsetF_bit _ _ _ _ 0 (by decide), ?_, ?_⟩
  · refine (rfld_rsetF_apart _ _ _ _ (by decide) (by decide) (by decide)).trans ?_
    exact (rfld_rsetF_self _ _ _ _ _ _ (by decide) (by decide)).trans (Nat.mod_eq_of_lt hresult)
  · exact regsBut_rsetF (regsBut_rsetF (regsBut_refl _ s) List.mem_cons_self _ _ _) List.mem_cons_self _ _ _

/-- Elements of an array written one after the other, each to its own value. -/
theorem rget_foldl_rset {r : Reg} {g : Nat → Word} {j : Nat} (hne : ∀ i, i ≠ j → regAddr r j ≠ regAddr r i)
    (l : List Nat) (s : State) (h : j ∈ l ∨ rget s r j = g j) : rget (l.foldl (fun s i => rset s r i (g i)) s) r j = g j := by
  induction l generalizing s with
  | nil => exact h.resolve_left List.not_mem_nil
  | cons i l ih =>
    refine ih _ ?_
    by_cases hij : i = j
    · exact .inr (hij ▸ rget_rset_self _ _ _ _)
    · rw [rget_rset_ne (hne i hij)]
      exact h.imp_left fun hmem => (List.mem_cons.1 hmem).resolve_left (Ne.symm hij)

theorem foldl_rset_eq (r : Reg) (g : Nat → Word) (l : List Nat) (s : State) :
    ∃ rg, l.foldl (fun s i => rset s r i (g i)) s = { s with regs := rg } := by
  induction l generalizing s with
  | nil => exact ⟨s.regs, rfl⟩
  | cons i l ih =>
    obtain ⟨rg, hrest⟩ := ih (rset s r i (g i))
    exact ⟨rg, hrest⟩

/-- R160: the staging registers hold the entry that is loaded. -/
theorem loadPat_says (p : Pat) (s : State) : (∀ j, j < 4 → rget (loadPat p s) R.TCM_PPU_DATA j = p.data.getD j 0) ∧
    rget (loadPat p s) R.TCM_PPU_MASK 0 = p.mask ∧ rget (loadPat p s) R.TCM_PPU_ATTR 0 = p.attr ∧
    loadPat p s = { s with regs := (loadPat p s).regs } := by
  refine ⟨fun j hj => ?data, ?mask, rget_rset_self _ _ _ _, ?rest⟩
  case data =>
    have hmask : regAddr R.TCM_PPU_DATA j ≠ regAddr R.TCM_PPU_MASK 0 := by
      simp only [regAddr, R.TCM_PPU_DATA, R.TCM_PPU_MASK]
      omega
    have hattr : regAddr R.TCM_PPU_DATA j ≠ regAddr R.TCM_PPU_ATTR 0 := by
      simp only [regAddr, R.TCM_PPU_DATA, R.TCM_PPU_ATTR]
      omega
    have hapart : ∀ i, i ≠ j → regAddr R.TCM_PPU_DATA j ≠ regAddr R.TCM_PPU_DATA i := by
      intro i hij
      simp only [regAddr, R.TCM_PPU_DATA]
      omega
    unfold loadPat
    dsimp only
    rw [rget_rset_ne hattr, rget_rset_ne hmask]
    exact rget_foldl_rset (g := fun i => p.data.getD i 0) hapart _ s (.inl (List.mem_range.2 hj))
  case mask => exact (rget_rset_ne (by decide) _ _).trans (rget_rset_self _ _ _ _)
  case rest =>
    obtain ⟨rg, hdata⟩ := foldl_rset_eq R.TCM_PPU_DATA (fun i => p.data.getD i 0) (List.range 4) s
    unfold loadPat
    dsimp only
    rw [hdata]
    rfl

/-- The command register is none of the staging registers. -/
theorem stagingRegs_ne_cmd : (∀ j, j < 4 → adr R.TCM_PPU_DATA j ∉ [adr R.TCM_PPU_CMD 0]) ∧
    adr R.TCM_PPU_MASK 0 ∉ [adr R.TCM_PPU_CMD 0] ∧ adr R.TCM_PPU_ATTR 0 ∉ [adr R.TCM_PPU_CMD 0] := by decide

/-- An entry of the pattern unit replaced. -/
def withPat (i : Nat) (e : Pat) (s : State) : State :=
  { s with ppu := { s.ppu with pats := mset Pat.empty s.ppu.pats i e } }

/-- R161: a command that replaces an entry ends. -/
theorem ppuEnd_withPat (i : Nat) (e : Pat) (s : State) :
    let t := ppuEnd 1 (withPat i e s)
    bit (rget t R.TCM_PPU_CMD 0) 63 = false ∧ fld (rget t R.TCM_PPU_CMD 0) 58 56 = 1 ∧
    mget Pat.empty t.ppu.pats i = e ∧ (∀ j, j ≠ i → mget Pat.empty t.ppu.pats j = mget Pat.empty s.ppu.pats j) ∧
    RegsBut [adr R.TCM_PPU_CMD 0] s t ∧ t = { s with regs := t.regs, ppu := t.ppu } := by
  obtain ⟨hidle, hresult, hregs⟩ := ppuEnd_says (by decide : 1 < 8) (withPat i e s)
  exact ⟨hidle, hresult, mget_mset_self _ _ _ _, fun j hj => mget_mset_ne _ _ _ hj, hregs, rfl⟩

/-- R161: a command that loads an entry ends. -/
theorem ppuEnd_loadPat (e : Pat) (s : State) :
    let t := ppuEnd 1 (loadPat e s)
    bit (rget t R.TCM_PPU_CMD 0) 63 = false ∧ fld (rget t R.TCM_PPU_CMD 0) 58 56 = 1 ∧
    (∀ j, j < 4 → rget t R.TCM_PPU_DATA j = e.data.getD j 0) ∧ rget t R.TCM_PPU_MASK 0 = e.mask ∧
    rget t R.TCM_PPU_ATTR 0 = e.attr ∧ t = { s with regs := t.regs } := by
  obtain ⟨hdata, hmask, hattr, hrest⟩ := loadPat_says e s
  obtain ⟨hidle, hresult, hregs⟩ := ppuEnd_says (by decide : 1 < 8) (loadPat e s)
  obtain ⟨hdataNe, hmaskNe, hattrNe⟩ := stagingRegs_ne_cmd
  refine ⟨hidle, hresult, fun j hj => (rget_of_regsBut hregs (hdataNe j hj)).trans (hdata j hj),
    (rget_of_regsBut hregs hmaskNe).trans hmask, (rget_of_regsBut hregs hattrNe).trans hattr, ?_⟩
  generalize loadPat e s = t at hrest
  rw [hrest]
  rfl

section
variable {s : State} (hbusy : bit (rget s R.TCM_PPU_CMD 0) 63 = true)
include hbusy

theorem ppuCommandDone_write (hop : fld (rget s R.TCM_PPU_CMD 0) 17 16 = 0) : exec (.ppuCommandDone false) s =
    .next (ppuEnd 1 (withPat (fld (rget s R.TCM_PPU_CMD 0) 15 0) (stagedPat s) s)) := by
  change execPpuCommandDone false s = _
  unfold execPpuCommandDone
  dsimp only
  rw [if_pos hbusy, hop]
  rfl

theorem ppuCommandDone_read (hop : fld (rget s R.TCM_PPU_CMD 0) 17 16 = 1) : exec (.ppuCommandDone false) s =
    .next (ppuEnd 1 (loadPat (mget Pat.empty s.ppu.pats (fld (rget s R.TCM_PPU_CMD 0) 15 0)) s)) := by
  change execPpuCommandDone false s = _
  unfold execPpuCommandDone
  dsimp only
  rw [if_pos hbusy, hop]
  rfl

theorem ppuCommandDone_invalidate (hop : fld (rget s R.TCM_PPU_CMD 0) 17 16 = 2) : exec (.ppuCommandDone false) s =
    let i := fld (rget s R.TCM_PPU_CMD 0) 15 0
    let e := mget Pat.empty s.ppu.pats i
    .next (ppuEnd 1 (withPat i { e with attr := setBit e.attr 0 false } s)) := by
  change execPpuCommandDone false s = _
  unfold execPpuCommandDone
  dsimp only
  rw [if_pos hbusy, hop]
  rfl

end

/-! ### The statement -/

/-- Settles O24: PF0's accesses and the latch, then the starts and the ends of the pattern unit's commands. -/
theorem stateMemoryCountersAndPatternUnit : Obligations.StateMemoryCountersAndPatternUnit := by
  refine ⟨fun s v => ⟨rfl, ⟨_, rfl, mget_mset_self _ _ _ _, fun b hb => mget_mset_ne _ _ _ hb, rfl⟩,
    ⟨_, exec_counterLatch v s, ?latch⟩⟩, fun s v => ⟨fun hidle => ⟨⟨_, rfl, ppuStart_says (by decide) v hidle⟩,
      ⟨_, rfl, ppuStart_says (by decide) v hidle⟩, ⟨_, rfl, ppuStart_says (by decide) v hidle⟩⟩, fun hbusy => ?ignored,
    fun hbusy => ⟨fun hop => ⟨_, ppuCommandDone_write hbusy hop, ppuEnd_withPat _ _ s⟩,
      fun hop => ⟨_, ppuCommandDone_read hbusy hop, ppuEnd_loadPat _ s⟩,
      fun hop => ⟨_, ppuCommandDone_invalidate hbusy hop, ?invalidate⟩⟩⟩⟩
  case latch =>
    obtain ⟨hcounts, hregs⟩ := latchRegs_says v (mget (0, 0) s.sen.cnt (fld v 19 0)) s
    refine ⟨hcounts, ?_, fun j hj => ?_, hregs, rfl⟩
    · split
      · exact (mget_mdel _ _ _ _).trans (if_pos rfl)
      · rfl
    · dsimp only
      split
      · exact (mget_mdel _ _ _ _).trans (if_neg hj)
      · rfl
  case ignored =>
    exact ⟨congrArg Host.Outcome.next (ppuStart_of_busy 0 v hbusy),
      congrArg Host.Outcome.next (ppuStart_of_busy 1 v hbusy),
      congrArg Host.Outcome.next (ppuStart_of_busy 2 v hbusy)⟩
  case invalidate =>
    obtain ⟨hidle, -, hself, hothers, -⟩ := ppuEnd_withPat (fld (rget s R.TCM_PPU_CMD 0) 15 0)
      { mget Pat.empty s.ppu.pats (fld (rget s R.TCM_PPU_CMD 0) 15 0) with
        attr := setBit (mget Pat.empty s.ppu.pats (fld (rget s R.TCM_PPU_CMD 0) 15 0)).attr 0 false } s
    exact ⟨hidle, hself, hothers⟩

end Sys2Proof.Proofs
end

section
/-! SUPPORT. What a notice of the cipher engine (R464) and the return of a request to a thread or a ring (R139, R141,
R409) leave of the engine and of the registers. -/

namespace Sys2Proof.Proofs
open Sys2Proof Sys2Proof.Machine Sys2Proof.Laws

/-! ### Notices -/

/-- The registers that a notice reaches (R464, R539). -/
abbrev noticeRegs : List Nat := adr R.CPH_NOTIFY_DROP 0 :: errRegs

/-- Of the cipher engine the notices alone change, of the registers those that a notice reaches, and of the error unit
nothing that its units have counted. -/
def NoticeOnly (s t : State) : Prop :=
  t.cph = { s.cph with notify := t.cph.notify } ∧ t.err.units = s.err.units ∧ RegsBut noticeRegs s t

theorem NoticeOnly.refl (s : State) : NoticeOnly s s := ⟨rfl, rfl, regsBut_refl _ s⟩

theorem NoticeOnly.trans {s t u : State} (h : NoticeOnly s t) (h' : NoticeOnly t u) : NoticeOnly s u := by
  obtain ⟨hcph, hunits, hregs⟩ := h
  obtain ⟨hcph', hunits', hregs'⟩ := h'
  refine ⟨?_, hunits'.trans hunits, fun a ha => (hregs' a ha).trans (hregs a ha)⟩
  rw [hcph', hcph]

theorem noticeOnly_eventLine (k : Nat) (ev : Word32) (s : State) : NoticeOnly s (eventLine k ev s) := by
  unfold eventLine
  dsimp only
  split
  · exact ⟨rfl, rfl, fun _ _ => rfl⟩
  · exact .refl s

theorem noticeOnly_intRaise (k : Nat) (s : State) : NoticeOnly s (intRaise k s) := by
  obtain ⟨heq, hregs⟩ := errOnly_intRaise k s
  refine ⟨?_, units_intRaise k s, fun a ha => hregs a fun hmem => ha (List.mem_cons_of_mem _ hmem)⟩
  rw [heq]

theorem noticeOnly_cphNotice (type low : Nat) (s : State) : NoticeOnly s (cphNotice type low s) := by
  refine (noticeOnly_eventLine (255 + type) (BitVec.ofNat 32 low) s).trans (.trans ?_ (noticeOnly_intRaise 7 _))
  split
  · exact ⟨rfl, rfl, fun _ _ => rfl⟩
  · exact ⟨rfl, rfl, regsBut_rcount (regsBut_refl _ _) List.mem_cons_self _ _ _⟩

theorem noticeOnly_ivNotices (q : CphReq) (label : Nat) (g : Guard) (s : State) :
    NoticeOnly s (ivNotices q label g s) := by
  have hif : ∀ (p : Prop) [Decidable p] (type low : Nat) (x : State),
      NoticeOnly x (if p then cphNotice type low x else x) := by
    intro p _ type low x
    split
    · exact noticeOnly_cphNotice type low x
    · exact .refl x
  exact (hif _ 3 _ s).trans (hif _ 4 _ _)

/-! ### The return of a request -/

/-- The registers that the return of a request can reach: the count of exception 6 and that of packets dropped on their
way to a slice (R92, R412). -/
abbrev returnRegs : List Nat := [adr R.SEN_EXC_COUNT 6, adr R.HIF_HOST_DROP 0]

/-- The cipher engine stays, and every register but those. -/
def ReturnOnly (s t : State) : Prop := t.cph = s.cph ∧ RegsBut returnRegs s t

theorem ReturnOnly.trans {s t u : State} (h : ReturnOnly s t) (h' : ReturnOnly t u) : ReturnOnly s u :=
  ⟨h'.1.trans h.1, fun a ha => (h'.2 a ha).trans (h.2 a ha)⟩

theorem returnOnly_of_eq {s t : State} (hcph : t.cph = s.cph) (hregs : t.regs = s.regs) : ReturnOnly s t :=
  ⟨hcph, regsBut_of_regs hregs⟩

theorem returnOnly_setThr (s : State) (k : Nat) (t : Thread) : ReturnOnly s (setThr s k t) := returnOnly_of_eq rfl rfl

theorem returnOnly_setRing (k : Nat) (x : Ring) (s : State) : ReturnOnly s (setRing k x s) := returnOnly_of_eq rfl rfl

theorem returnOnly_hostDeliver (sl : Nat) (p : Packet) (s : State) : ReturnOnly s (hostDeliver sl p s) := by
  have hdrop : adr R.HIF_HOST_DROP 0 ∈ returnRegs := by decide
  unfold hostDeliver
  dsimp only
  split
  · split <;> exact returnOnly_setRing _ _ s
  · exact ⟨rfl, regsBut_rsetF (regsBut_rcount (regsBut_refl _ s) hdrop _ _ _) hdrop _ _ _⟩

theorem returnOnly_dropThr (k : Nat) (s : State) : ReturnOnly s (dropThr k s) :=
  returnOnly_of_eq (by simp [dropThr]) (by simp [dropThr])

theorem returnOnly_hostThr (k sl : Nat) (s : State) : ReturnOnly s (hostThr k sl s) := by
  have hplace : ReturnOnly s (giveUpPlace (thr s k).pkt.pid s) := returnOnly_of_eq rfl rfl
  unfold hostThr
  dsimp only
  refine hplace.trans ?_
  split
  · exact (returnOnly_hostDeliver _ _ _).trans (returnOnly_of_eq (freeThr_cph ..) (freeThr_regs ..))
  · exact returnOnly_of_eq rfl rfl

theorem returnOnly_excCounted (k : Nat) (s : State) : ReturnOnly s (excCounted k 6 s) := by
  refine ⟨?_, fun a ha => ?_⟩
  · unfold excCounted
    dsimp only
    split <;> rfl
  · rw [regs_excCounted]
    exact regsBut_rcount (regsBut_refl _ s) List.mem_cons_self _ _ _ a ha

theorem returnOnly_excTaken (k code : Nat) (s : State) : ReturnOnly s (excTaken k code s) := by
  unfold excTaken
  dsimp only
  split
  · exact returnOnly_of_eq (by simp [haltThr]) (by simp [haltThr])
  · split
    · exact (returnOnly_setThr s k _).trans (returnOnly_dropThr k _)
    · split
      · exact (returnOnly_setThr s k _).trans (returnOnly_hostThr k _ _)
      · exact (returnOnly_setThr s k _).trans (returnOnly_setThr _ _ _)
      · exact (returnOnly_setThr s k _).trans (returnOnly_dropThr k _)

theorem returnOnly_raiseExc (k : Nat) (s : State) : ReturnOnly s (raiseExc k 6 s) :=
  (returnOnly_excCounted k s).trans (returnOnly_excTaken k 6 _)

theorem returnOnly_settle (k : Nat) (s : State) : ReturnOnly s (settle k s) := by
  unfold settle
  dsimp only
  split
  · split
    · exact returnOnly_of_eq rfl rfl
    · split
      · exact (returnOnly_setThr s k _).trans (returnOnly_raiseExc k _)
      · exact returnOnly_setThr s k _
  · split
    · exact returnOnly_raiseExc k s
    · exact returnOnly_of_eq rfl rfl

theorem returnOnly_progReturn (k wid status code : Nat) (out : Option (Nat × Bytes × Bytes)) (s : State) :
    ReturnOnly s (progReturn k wid status code out s) := by
  unfold progReturn
  dsimp only
  split
  · exact returnOnly_of_eq rfl rfl
  · split
    · exact (returnOnly_setThr s k _).trans (returnOnly_settle k _)
    · exact returnOnly_of_eq rfl rfl

theorem returnOnly_hostReturn (k wid : Nat) (f : Work → Ended → Ended) (s : State) :
    ReturnOnly s (hostReturn k wid f s) := by
  unfold hostReturn
  dsimp only
  split
  · split <;> exact returnOnly_setRing _ _ s
  · exact returnOnly_of_eq rfl rfl

end Sys2Proof.Proofs
end

section
/-! O49: the requests of the cipher engine, from the CIPH that sends one to its end (R138 to R141, R452, R455 to R459),
and the retirement of a core (R467). -/

namespace Sys2Proof.Proofs
open Sys2Proof Sys2Proof.Machine Sys2Proof.Laws

/-! ### CIPH -/

/-- The request of a CIPH that issues: it covers the frame as it stands (R138). -/
def ciphReq (s : State) (th : ThreadRef) (f : FmtC) : CphReq :=
  let u := counted s th
  let bs := frameBytes u.pkt
  { src := .prog (thrKey th) s.hif.nextWork, tick := s.tau.mono, fn := f.fn.toNat, slot := fld (greg u f.rc.toNat) 15 0,
    label := (greg u f.rb.toNat).toNat, iv := (greg u f.ra.toNat).toNat,
    aad := (bs.take f.eoff.toNat).drop (min f.aoff.toNat f.eoff.toNat), region := bs.drop f.eoff.toNat, badLen := false,
    key := [], salt := [], version := 0 }

theorem ciph_sends {s : State} {th : ThreadRef} {f : FmtC} (h : Issues s th 0x62 (fun w => asC w = f))
    (hroom : f.fn.toNat % 2 = 1 ∨
      frameLen (counted s th).pkt + tagLen f.fn.toNat ≤ (counted s th).pkt.orig + 128) :
    exec (.ciph th f) s = .next (setThr
      (withHif (fun h => { h with nextWork := h.nextWork + 1 })
        (withCph (fun c => { c with arrived := c.arrived ++ [ciphReq s th f] }) (slotTaken s th))) (thrKey th)
      (sendReq (counted s th) ⟨f.tag.toNat, f.rd.toNat, false, .cipher f.fn.toNat (min f.aoff.toNat f.eoff.toNat)
        f.eoff.toNat (decide (f.xr = 1)) s.hif.nextWork⟩)) := by
  have hfits : ¬ (f.fn.toNat % 2 = 0 ∧
      (counted s th).pkt.orig + 128 < frameLen (counted s th).pkt + tagLen f.fn.toNat) := by omega
  rw [exec_issues (c := .ciph th f) h rfl (by simp)]
  dsimp only
  rw [if_neg hfits]
  rfl

/-! ### Acceptance and refusal -/

/-- R455: an IV among those a guard has seen is not accepted. -/
theorem guardCheck_of_seen {g : Guard} {high v : Nat} (hhigh : g.high = some high) (hle : v ≤ high)
    (hseen : v ∈ g.seen) : guardCheck g v ≠ 0 := by
  unfold guardCheck
  rw [hhigh]
  dsimp only
  split_ifs with hlast habove hfresh
  · decide
  · omega
  · simp [hseen] at hfresh
  · decide

theorem guardAccept_says (g : Guard) (v : Nat) :
    ∃ high, (guardAccept g v).high = some high ∧ v ≤ high ∧ v ∈ (guardAccept g v).seen := by
  unfold guardAccept
  split
  next => exact ⟨v, rfl, le_rfl, List.mem_cons_self⟩
  next high hhigh =>
    split
    next => exact ⟨v, rfl, le_rfl, List.mem_cons_self⟩
    next hle => exact ⟨high, hhigh, Nat.le_of_not_lt hle, List.mem_cons_self⟩

/-- R455: an IV that a guard has accepted is not accepted again. -/
theorem guardCheck_guardNext_ne_zero (s : State) (g : Guard) (v : Nat) : guardCheck (guardNext s g v) v ≠ 0 := by
  obtain ⟨high, hhigh, hle, hseen⟩ := guardAccept_says g v
  exact guardCheck_of_seen (g := guardNext s g v) hhigh hle hseen

/-- R452: an accepted request captures the key of its slot. -/
def captured (s : State) (q : CphReq) : CphReq :=
  { q with key := (slotOf s q.slot).key, salt := (slotOf s q.slot).salt, version := (slotOf s q.slot).version }

section
variable {s : State} {q : CphReq}

/-- R452, R455: a request under a direct slot is accepted. -/
theorem acceptReq_of_direct (hkind : (slotOf s q.slot).kind = 1) :
    let t := acceptReq q s
    t.cph.arrived = s.cph.arrived ∧ t.cph.queue = s.cph.queue ++ [captured s q] ∧ t.cph.slots = s.cph.slots ∧
    (encrypts q.fn = true → guardCheck (mget Guard.init t.cph.guards q.slot) q.iv ≠ 0) ∧
    ∀ m, m ≠ q.slot → mget Guard.init t.cph.guards m = mget Guard.init s.cph.guards m := by
  have hroot : ¬ (slotOf s q.slot).kind = 2 := by omega
  unfold acceptReq
  dsimp only
  rw [if_neg hroot]
  by_cases henc : encrypts q.fn = true
  · rw [if_pos henc, if_pos henc]
    generalize hu : withCph _ s = u
    obtain ⟨hcph, -, -⟩ := noticeOnly_ivNotices (captured s q) 0 (guardOf s q) u
    rw [captured] at hcph
    rw [hcph, ← hu]
    refine ⟨rfl, rfl, rfl, fun _ => ?_, fun m hm => mget_mset_ne _ _ _ hm⟩
    dsimp only [withCph]
    rw [mget_mset_self]
    exact guardCheck_guardNext_ne_zero s _ _
  · rw [if_neg henc, if_neg henc]
    exact ⟨rfl, rfl, rfl, fun h => absurd h henc, fun m hm => mget_mset_ne _ _ _ hm⟩

/-- R456: a refused request is counted by its code. -/
theorem refuseReq_says {code : Nat} (hcode : code < 8) (q : CphReq) (s : State) :
    (refuseReq q code s).cph = s.cph ∧ rfld (refuseReq q code s) R.CPH_REFUSE_CNT code 31 0 =
      min (rfld s R.CPH_REFUSE_CNT code 31 0 + 1) (2 ^ 32 - 1) := by
  have hcount := rfld_rcount_self s R.CPH_REFUSE_CNT code (hi := 31) (lo := 0) 1 (by decide) (by decide)
  have hother : adr R.CPH_REFUSE_CNT code ∉ returnRegs := by
    change 0xB00200 + 8 * code ∉ [0x4005B0, 0x1400160]
    simp only [List.mem_cons, List.not_mem_nil, or_false]
    omega
  have hsay : ∀ t, ReturnOnly (occur 6 2 code 1 (rcount s R.CPH_REFUSE_CNT code 31 0 1)) t → t.cph = s.cph ∧
      rfld t R.CPH_REFUSE_CNT code 31 0 = min (rfld s R.CPH_REFUSE_CNT code 31 0 + 1) (2 ^ 32 - 1) := by
    rintro t ⟨hcph, hregs⟩
    exact ⟨hcph, (congrArg (fld · 31 0) (rget_of_regsBut hregs hother)).trans hcount⟩
  unfold refuseReq
  dsimp only
  split
  · exact hsay _ (returnOnly_progReturn _ _ _ _ _ _)
  · exact hsay _ (returnOnly_hostReturn _ _ _ _)

theorem refusal_lt (s : State) (q : CphReq) : refusal s q < 8 := by
  unfold refusal
  dsimp only
  split_ifs <;> omega

section
variable (harrived : s.cph.arrived = [q])
include harrived

theorem nextArrived_single : nextArrived s.cph.arrived = some (q, []) := by
  rw [harrived]
  rfl

theorem cipherRequestAccept_waits (htick : q.tick = s.tau.mono) (hcomes : comes s asksCipher = true) :
    exec .cipherRequestAccept s = .next s := by
  change execCipherRequestAccept s = _
  unfold execCipherRequestAccept
  rw [nextArrived_single harrived]
  exact congrArg Host.Outcome.next (if_pos ⟨htick, hcomes⟩)

variable (hlast : q.tick ≠ s.tau.mono ∨ comes s asksCipher = false)
include hlast

theorem cipherRequestAccept_judges : exec .cipherRequestAccept s = .next (judgeReq q [] s) := by
  have hjudge : ¬ (q.tick = s.tau.mono ∧ comes s asksCipher = true) := by
    rintro ⟨htick, hcomes⟩
    rw [hcomes] at hlast
    exact hlast.elim (fun h => h htick) (fun h => absurd h (by decide))
  change execCipherRequestAccept s = _
  unfold execCipherRequestAccept
  rw [nextArrived_single harrived]
  exact congrArg Host.Outcome.next (if_neg hjudge)

theorem cipherRequestAccept_accepts (hok : refusal s q = 0) : exec .cipherRequestAccept s =
    .next (occur 6 1 q.fn 1 (acceptReq q (withCph (fun c => { c with arrived := [] }) s))) :=
  (cipherRequestAccept_judges harrived hlast).trans (congrArg Host.Outcome.next (if_pos hok))

theorem cipherRequestAccept_refuses (hno : refusal s q ≠ 0) : exec .cipherRequestAccept s =
    .next (refuseReq q (refusal s q) (withCph (fun c => { c with arrived := [] }) s)) :=
  (cipherRequestAccept_judges harrived hlast).trans (congrArg Host.Outcome.next (if_neg hno))

end
end

/-! ### The scheduler with one request -/

theorem roundNext_single (c last : Nat) : roundNext [c] last = c := by
  by_cases h : last < c <;> simp [roundNext, List.find?, h]

theorem drrRounds_single (cost quantum : Nat → Nat) (c n : Nat) (m : SMap Nat) :
    (drrRounds cost quantum [c] n c m).1 = c := by
  induction n generalizing m with
  | zero => rfl
  | succ n ih =>
    rw [drrRounds, roundNext_single]
    split
    · rfl
    · exact ih _

/-- R458: a round of one member serves it, whatever its deficit. -/
theorem drrServe_single (cost quantum : Nat → Nat) (c last : Nat) (m : SMap Nat) :
    (drrServe cost quantum [c] last m).1 = c := by
  unfold drrServe
  dsimp only
  split
  next h => simpa using h.1
  next =>
    rw [List.length_singleton, Nat.one_mul, drrRounds, roundNext_single]
    split
    · rfl
    · exact drrRounds_single _ _ _ _ _

theorem srcOf_eq_or (q : CphReq) : srcOf q = 0 ∨ srcOf q = 1 ∨ srcOf q = 2 := by
  unfold srcOf
  split
  · exact .inl rfl
  · split
    · exact .inr (.inr rfl)
    · exact .inr (.inl rfl)

/-- R458: of one waiting request that one is dispatched, and of the device the cipher engine alone changes. -/
theorem schedule_single {s : State} {q : CphReq} (hqueue : s.cph.queue = [q]) :
    ∃ m src sl, schedule s =
      some (q, withCph (fun c => { c with queue := [], defs := m, lastSrc := src, lastSlice := sl }) s) := by
  have hsrcs : [0, 1, 2].filter (fun i => s.cph.queue.any (fun x => decide (srcOf x = i))) = [srcOf q] := by
    obtain h | h | h := srcOf_eq_or q <;> simp [hqueue, h]
  have hslices : srcOf q = 2 → waitingSlices s = [4 + srcSlice q] := by
    intro h2
    simp [waitingSlices, hqueue, h2, sortNat, insNat]
  have hhead : ∀ p : CphReq → Bool, p q = true → headOf s p = some (q, []) := by
    intro p hp
    simp [headOf, hqueue, takeFirst, hp]
  unfold schedule
  dsimp only
  rw [hsrcs, if_neg (by simp), drrServe_single]
  rw [hhead]
  · exact ⟨_, _, _, rfl⟩
  · split
    next h2 => simp [h2, hslices h2, drrServe_single]
    next => simp

theorem cipherCoreDispatch_takes {s : State} {k : CoreIdx} {q : CphReq}
    (hlive : rbit s R.CPH_CORE_RETIRE 0 k.val = false) (hcores : rfld s R.CPH_CORE_STAT 0 5 0 ≠ 0)
    (hfree : mfind s.cph.running k.val = none) (hqueue : s.cph.queue = [q]) :
    ∃ m src sl, exec (.cipherCoreDispatch k) s = .next (withCph (fun c => { c with
      running := mput c.running k.val q, queue := [], defs := m, lastSrc := src, lastSlice := sl }) s) := by
  obtain ⟨m, src, sl, hpick⟩ := schedule_single hqueue
  refine ⟨m, src, sl, ?_⟩
  change execCipherCoreDispatch k s = _
  unfold execCipherCoreDispatch
  rw [if_pos ⟨hlive, hcores, hfree⟩, hpick]
  rfl

/-! ### The end of a request -/

/-- The state once core `k` has ended its request (R445, R459). -/
def coreFreed (k : Nat) (s : State) : State := purge (withCph (fun c => { c with running := mdel c.running k }) s)

theorem running_coreFreed (k : Nat) (s : State) : mfind (coreFreed k s).cph.running k = none :=
  (mfind_mdel _ _ _).trans (if_pos rfl)

theorem settle_of_ready {s : State} {k : Nat} (hready : (thr s k).st = .ready) (hexc : (thr s k).exc6 = false) :
    settle k s = s := by
  unfold settle
  dsimp only
  rw [if_neg (by simp [hready]), if_neg (by simp [hexc])]

theorem settle_setThr_ready {s : State} {k : Nat} {t : Thread} (hready : t.st = .ready) (hexc : t.exc6 = false) :
    settle k (setThr s k t) = setThr s k t :=
  settle_of_ready ((congrArg Thread.st (thr_setThr_self _ _ _)).trans hready)
    ((congrArg Thread.exc6 (thr_setThr_self _ _ _)).trans hexc)

theorem reqDone_keeps (t : Thread) (r : Req) (v0 v1 : Word) :
    (reqDone t r v0 v1).st = t.st ∧ (reqDone t r v0 v1).exc6 = t.exc6 ∧ (reqDone t r v0 v1).pkt = t.pkt := by
  rw [reqDone_eq]
  exact ⟨rfl, rfl, rfl⟩

section
variable {s : State} {j wid fn ao eoff : Nat} {xr : Bool} {rq : Req} (hready : (thr s j).st = .ready)
  (hexc : (thr s j).exc6 = false) (hreq : cipherReq (thr s j) wid = some rq)
  (hkind : rq.kind = .cipher fn ao eoff xr wid)
include hready hexc hreq hkind

/-- R138: a CIPH that has succeeded returns STATUS 0 and the new frame to a Ready thread. -/
theorem progReturn_of_ok (n : Nat) (rg tg : Bytes) : progReturn j wid 0 0 (some (n, rg, tg)) s = setThr s j
    { reqDone (thr s j) rq 0 0 with pkt := cipherFrame (thr s j).pkt fn eoff n rg tg } := by
  have hword : BitVec.ofNat 64 (0 * 256 + 0) = (0 : Word) := rfl
  obtain ⟨hst, hexc6, hpkt⟩ := reqDone_keeps (thr s j) rq 0 0
  unfold progReturn
  simp only [hreq, hkind, hword]
  generalize reqDone (thr s j) rq 0 0 = d at *
  refine (congrArg (settle j) ?_).trans (settle_setThr_ready (hst.trans hready) (hexc6.trans hexc))
  simp [hpkt, hexc6, hexc]

/-- R139: one whose verification has failed returns STATUS 1. -/
theorem progReturn_of_bad : progReturn j wid 1 0 none s = setThr s j (reqDone (thr s j) rq 1 0) := by
  have hword : BitVec.ofNat 64 (0 * 256 + 1) = (1 : Word) := rfl
  obtain ⟨hst, hexc6, -⟩ := reqDone_keeps (thr s j) rq 1 0
  unfold progReturn
  simp only [hreq, hkind, hword]
  generalize reqDone (thr s j) rq 1 0 = d at *
  refine (congrArg (settle j) ?_).trans (settle_setThr_ready (hst.trans hready) (hexc6.trans hexc))
  simp

end

section
variable {s : State} {k : CoreIdx} {q : CphReq} (hrun : mfind s.cph.running k.val = some q)
include hrun

theorem cipherRequestEnd_prog_ok {j wid : Nat} {rg tg : Bytes} (hsrc : q.src = .prog j wid)
    (hout : cipherRun q = .ok rg tg) : exec (.cipherRequestEnd k) s =
      .next (progReturn j wid 0 0 (some (q.region.length, rg, tg)) (coreFreed k.val s)) := by
  change execCipherRequestEnd k s = _
  unfold execCipherRequestEnd
  simp only [hrun, hsrc, hout]
  rfl

theorem cipherRequestEnd_prog_bad {j wid : Nat} (hsrc : q.src = .prog j wid) (hout : cipherRun q = .bad) :
    exec (.cipherRequestEnd k) s = .next (progReturn j wid 1 0 none (coreFreed k.val s)) := by
  change execCipherRequestEnd k s = _
  unfold execCipherRequestEnd
  simp only [hrun, hsrc, hout]
  rfl

/-- What the result of a request makes of the completion of its descriptor (R139, R457). -/
def resultOf (q : CphReq) (w : Work) (e : Ended) : Ended :=
  match cipherRun q with
  | .ok rg tg => { e with res0 := BitVec.ofNat 64 (q.aad ++ rg ++ tg).length, dst := (dWord w.desc 2).toNat,
                          data := q.aad ++ rg ++ tg }
  | .bad => { e with status := 4 }

theorem cipherRequestEnd_host {r wid : Nat} (hsrc : q.src = .host r wid) :
    exec (.cipherRequestEnd k) s = .next (hostReturn r wid (resultOf q) (coreFreed k.val s)) := by
  change execCipherRequestEnd k s = _
  unfold execCipherRequestEnd resultOf
  cases hout : cipherRun q <;> simp only [hrun, hsrc, hout] <;> rfl

end

/-- R405: a result reaches the one work of its ring. -/
theorem hostReturn_of_work {s : State} {r wid : Nat} {w : Work} (f : Work → Ended → Ended)
    (hworks : (ring s r).works = [w]) (hwid : w.wid = wid) (horphan : w.orphan = false) (hended : (ring s r).ended = []) :
    (ring (hostReturn r wid f s) r).works = [] ∧ (ring (hostReturn r wid f s) r).ended = [f w (endOf s w)] ∧
    (hostReturn r wid f s).cph = s.cph ∧ (hostReturn r wid f s).sen = s.sen := by
  have hfind : (ring s r).works.find? (fun x => decide (x.wid = wid)) = some w := by
    simp [hworks, hwid]
  have hend : hostReturn r wid f s = setRing r (endWork (ring s r) w.wid (f w (endOf s w))) s := by
    unfold hostReturn
    simp only [hfind, horphan]
    rfl
  have hring : ∀ x, ring (setRing r x s) r = { x with before := some (ringThen s (ring s r)) } := fun x =>
    mget_mset_self _ _ _ _
  rw [hend, hring]
  exact ⟨by simp [endWork, hworks], by simp [endWork, hended, insertEnded], rfl, rfl⟩

/-! ### The retirement of a core -/

theorem coreRestart_says (k : Nat) (s : State) :
    mfind (coreRestart k s).cph.running k = none ∧
    (∀ q, mfind s.cph.running k = some q → (coreRestart k s).cph.queue = q :: s.cph.queue) ∧
    (mfind s.cph.running k = none → (coreRestart k s).cph.queue = s.cph.queue) ∧
    (coreRestart k s).regs = s.regs ∧ (coreRestart k s).err = s.err := by
  unfold coreRestart
  split
  next p hp =>
    refine ⟨(mfind_mdel _ _ _).trans (if_pos rfl), fun q hq => ?_, fun hnone => ?_, rfl, rfl⟩
    · rw [Option.some.inj (hq.symm.trans hp)]
      rfl
    · exact absurd (hnone.symm.trans hp) (by simp)
  next hnone => exact ⟨hnone, fun q hq => absurd (hnone.symm.trans hq) (by simp), fun _ => rfl, rfl, rfl⟩

/-- A core marked as retired, and one fewer counted as live (R467). -/
def coreMarked (k : Nat) (s : State) : State :=
  let t := rset s R.CPH_CORE_RETIRE 0 (setBit (rget s R.CPH_CORE_RETIRE 0) k true)
  rsetF t R.CPH_CORE_STAT 0 5 0 (rfld t R.CPH_CORE_STAT 0 5 0 - 1)

theorem coreMarked_says {k : Nat} (hk : k < 64) (s : State) : rbit (coreMarked k s) R.CPH_CORE_RETIRE 0 k = true ∧
    rfld (coreMarked k s) R.CPH_CORE_STAT 0 5 0 = rfld s R.CPH_CORE_STAT 0 5 0 - 1 := by
  unfold coreMarked
  dsimp only
  constructor
  · rw [rbit, rget_rsetF_ne (by decide), rget_rset_self]
    exact bit_setFld_bit _ _ _ hk
  · rw [rfld_rset_ne (by decide), rfld_rsetF_self _ _ _ _ _ _ (by decide) (by decide)]
    exact Nat.mod_eq_of_lt ((Nat.sub_le _ _).trans_lt (fld_lt _ 5 0))

theorem cipherCoreRetire_retires {s : State} {k : CoreIdx} {sw : Bool} (hdue : retireDue s 2 k.val sw = true) :
    exec (.cipherCoreRetire k sw) s =
      .next (cphNotice 7 k.val (coreMarked k.val (coreRestart k.val (retireMark 2 k.val sw 0 s)))) := by
  change execCipherCoreRetire k sw s = _
  exact if_pos hdue

/-- R467: a core that retires gives its request back to the head of the queue. -/
theorem cipherCoreRetire_says (k : CoreIdx) (sw : Bool) (s : State) :
    let t := cphNotice 7 k.val (coreMarked k.val (coreRestart k.val (retireMark 2 k.val sw 0 s)))
    rbit t R.CPH_CORE_RETIRE 0 k.val = true ∧ rfld t R.CPH_CORE_STAT 0 5 0 = rfld s R.CPH_CORE_STAT 0 5 0 - 1 ∧
    (unitGet t 2 k.val).state = 1 ∧ mfind t.cph.running k.val = none ∧
    (∀ q, mfind s.cph.running k.val = some q → t.cph.queue = q :: s.cph.queue) ∧
    (mfind s.cph.running k.val = none → t.cph.queue = s.cph.queue) := by
  obtain ⟨hstate, hmark⟩ := retireMark_says 2 k.val 0 sw s
  have hcph : (retireMark 2 k.val sw 0 s).cph = s.cph := by rw [hmark.1]
  have hlive := hmark.rfld (r := R.CPH_CORE_STAT) (i := 0) (by decide) 5 0
  generalize retireMark 2 k.val sw 0 s = u at *
  obtain ⟨hidle, hback, hsame, hregs, herr⟩ := coreRestart_says k.val u
  rw [hcph] at hback hsame
  obtain ⟨hretired, hfewer⟩ := coreMarked_says (k := k.val) (by omega) (coreRestart k.val u)
  rw [rfld_of_regs hregs, hlive] at hfewer
  have hunits : (coreMarked k.val (coreRestart k.val u)).err = u.err := herr
  have hmarked : (coreMarked k.val (coreRestart k.val u)).cph = (coreRestart k.val u).cph := rfl
  generalize coreMarked k.val (coreRestart k.val u) = v at *
  obtain ⟨hcph, hunits', hregs'⟩ := noticeOnly_cphNotice 7 k.val v
  dsimp only
  rw [hcph, rbit, rfld, rget_of_regsBut hregs' (by decide), rget_of_regsBut hregs' (by decide), hmarked]
  refine ⟨hretired, hfewer, ?_, hidle, hback, hsame⟩
  rw [unitGet, hunits', hunits]
  exact hstate

/-! ### The statement -/

/-- Settles O49: each command does what is said above. -/
theorem cipherRequests : Obligations.CipherRequests := by
  intro s
  refine ⟨fun th f => ?ciph, fun q harrived htick hcomes => cipherRequestAccept_waits harrived htick hcomes,
    fun q harrived hlast => ⟨?accepts, ?refuses⟩, fun k hlive hcores hfree q hqueue => ?dispatch,
    fun k q j wid hrun hsrc rq fn ao eoff xr => ?prog, fun k q r wid w hrun hsrc hworks hwid horphan hended => ?host,
    fun k sw hdue => ⟨_, cipherCoreRetire_retires hdue, cipherCoreRetire_says k sw s⟩⟩
  case ciph =>
    intro u bs eoff aoff wid h hroom
    exact ⟨_, ciph_sends h hroom, thr_setThr_self _ _ _, fun j hj => thr_setThr_ne _ _ hj,
      ⟨ciphReq s th f, rfl, rfl, rfl, rfl, rfl, rfl, rfl, rfl⟩, rfl⟩
  case accepts =>
    intro hok hkind
    obtain ⟨harr, hqueue, hslots, hguard, hothers⟩ :=
      acceptReq_of_direct (s := withCph (fun c => { c with arrived := [] }) s) (q := q) hkind
    exact ⟨_, cipherRequestAccept_accepts harrived hlast hok, harr, hqueue, hguard, hothers, hslots⟩
  case refuses =>
    intro hno
    obtain ⟨hcph, hcount⟩ := refuseReq_says (refusal_lt s q) q (withCph (fun c => { c with arrived := [] }) s)
    refine ⟨_, cipherRequestAccept_refuses harrived hlast hno, ?_, ?_, hcount, ?_⟩ <;> rw [hcph] <;> rfl
  case dispatch =>
    obtain ⟨m, src, sl, hexec⟩ := cipherCoreDispatch_takes hlive hcores hfree hqueue
    exact ⟨_, hexec, rfl, mfind_mput_self _ _ _, fun j hj => mfind_mput_ne _ _ hj, rfl⟩
  case prog =>
    intro x hready hexc hreq hkind
    refine ⟨fun rg tg hout => ⟨_, cipherRequestEnd_prog_ok hrun hsrc hout, ?_⟩,
      fun hout => ⟨_, cipherRequestEnd_prog_bad hrun hsrc hout, ?_⟩⟩
    · rw [progReturn_of_ok (s := coreFreed k.val s) hready hexc hreq hkind]
      exact ⟨thr_setThr_self _ _ _, running_coreFreed _ s, fun i hi => thr_setThr_ne _ _ hi, rfl⟩
    · rw [progReturn_of_bad (s := coreFreed k.val s) hready hexc hreq hkind]
      exact ⟨thr_setThr_self _ _ _, running_coreFreed _ s, fun i hi => thr_setThr_ne _ _ hi, rfl⟩
  case host =>
    obtain ⟨hnone, hone, hcph, hsen⟩ :=
      hostReturn_of_work (s := coreFreed k.val s) (resultOf q) hworks hwid horphan hended
    refine ⟨_, cipherRequestEnd_host hrun hsrc, hnone, ?_, ⟨_, hone, ?_, ?_⟩, hsen⟩
    · rw [hcph]
      exact running_coreFreed _ s
    · unfold resultOf
      split <;> rfl
    · unfold resultOf
      cases cipherRun q with
      | ok rg tg => exact ⟨rfl, rfl, rfl⟩
      | bad => exact ⟨rfl, rfl⟩

end Sys2Proof.Proofs
end

section
/-! SUPPORT. What the commands of the lookup tables, and the memory accesses, reports and notifications they make (R371,
R374, R386, R524), leave: the courses, and the registers up to the keys of LKP_CMD. -/

namespace Sys2Proof.Proofs
open Sys2Proof Sys2Proof.Machine Sys2Proof.Laws

/-- LKP_CMD_DATA0: the first register that a command of the lookup tables may load (R196). -/
def dataBase : Nat := 0x800050

/-- A write to a register at or behind a base leaves every register before it. -/
theorem mfind_rset_before {base : Nat} {r : Reg} (hr : base ≤ r.base) (s : State) (i : Nat) (v : Word) {a : Nat}
    (ha : a < base) : mfind (rset s r i v).regs a = mfind s.regs a :=
  regsBut_rset (as := [regAddr r i]) (regsBut_refl _ s) (List.mem_singleton_self _) v a
    (by simp only [List.mem_singleton, regAddr]; omega)

/-- Nothing changes but the memories, what the error unit and the Gauge take, and registers at or behind
LKP_CMD_DATA0. -/
def MemOnly (s t : State) : Prop :=
  t = { s with regs := t.regs, out := t.out, err := t.err, gau := t.gau, mcd := t.mcd, mch := t.mch } ∧
  ∀ a, a < dataBase → mfind t.regs a = mfind s.regs a

theorem MemOnly.refl (s : State) : MemOnly s s := ⟨rfl, fun _ _ => rfl⟩

theorem MemOnly.trans {s t u : State} (h : MemOnly s t) (h' : MemOnly t u) : MemOnly s u := by
  obtain ⟨hst, hr⟩ := h
  obtain ⟨htu, hr'⟩ := h'
  refine ⟨?_, fun a ha => (hr' a ha).trans (hr a ha)⟩
  rw [htu, hst]

theorem MemOnly.lkp {s t : State} (h : MemOnly s t) : t.lkp = s.lkp := by rw [h.1]

theorem MemOnly.tau {s t : State} (h : MemOnly s t) : t.tau = s.tau := by rw [h.1]

theorem MemOnly.sen {s t : State} (h : MemOnly s t) : t.sen = s.sen := by rw [h.1]

theorem MemOnly.tmg {s t : State} (h : MemOnly s t) : t.tmg = s.tmg := by rw [h.1]

theorem MemOnly.liu {s t : State} (h : MemOnly s t) : t.liu = s.liu := by rw [h.1]

theorem memOnly_foldl {α : Type} {f : State → α → State} (hf : ∀ x a, MemOnly x (f x a)) (l : List α) (s : State) :
    MemOnly s (l.foldl f s) := by
  induction l generalizing s with
  | nil => exact MemOnly.refl s
  | cons a l ih => exact (hf s a).trans (ih _)

theorem memOnly_rset {r : Reg} (hr : dataBase ≤ r.base) (s : State) (i : Nat) (v : Word) : MemOnly s (rset s r i v) :=
  ⟨rfl, fun _ ha => mfind_rset_before hr s i v ha⟩

theorem memOnly_of_err {s t : State} (h : ErrOnly s t) : MemOnly s t := by
  obtain ⟨heq, hregs⟩ := h
  refine ⟨?_, fun a ha => hregs a fun hmem => ?_⟩
  · rw [heq]
  · have hbase : ∀ b ∈ errRegs, dataBase ≤ b := by decide
    exact absurd ha (Nat.not_lt.2 (hbase a hmem))

theorem memOnly_occur (blk code q n : Nat) (s : State) : MemOnly s (occur blk code q n s) := ⟨rfl, fun _ _ => rfl⟩

theorem memOnly_errReport (cls blk kind unit code : Nat) (detail : Word) (s : State) :
    MemOnly s (errReport cls blk kind unit code detail s) := memOnly_of_err (errOnly_errReport ..)

theorem memOnly_withMem (m : MemCtl) (f : Mem → Mem) (s : State) : MemOnly s (withMem m f s) := by
  cases m <;> exact ⟨rfl, fun _ _ => rfl⟩

/-- The registers of both memory controllers lie behind those of the lookup tables (R26). -/
theorem memOnly_mReg {d h : Reg} (hd : dataBase ≤ d.base) (hh : dataBase ≤ h.base) (m : MemCtl) (s : State) (i : Nat)
    (v : Word) : MemOnly s (rset s (mReg m d h) i v) := memOnly_rset (by cases m <;> assumption) s i v

/-! ### The memories -/

theorem memOnly_mapLock (m : MemCtl) (s : State) : MemOnly s (mapLock m s) :=
  memOnly_mReg (by decide) (by decide) m s _ _

theorem memOnly_wakeChan (m : MemCtl) (c : Nat) (s : State) : MemOnly s (wakeChan m c s) := by
  unfold wakeChan
  split
  · exact (memOnly_withMem m _ s).trans (memOnly_mReg (by decide) (by decide) m _ _ _)
  · exact MemOnly.refl s

theorem memOnly_memAsk (m : MemCtl) (a : Nat) (s : State) : MemOnly s (memAsk m a s) := by
  unfold memAsk
  dsimp only
  split
  · exact memOnly_mapLock m s
  · exact ((memOnly_mapLock m s).trans (memOnly_withMem m _ _)).trans (memOnly_wakeChan m _ _)

theorem memOnly_bankUse (m : MemCtl) (a : Nat) (s : State) : MemOnly s (bankUse m a s) := by
  unfold bankUse
  exact memOnly_withMem m _ s

theorem memOnly_memServe (m : MemCtl) (a : Nat) (write : Bool) (s : State) : MemOnly s (memServe m a write s) := by
  unfold memServe
  dsimp only
  split
  · exact MemOnly.refl s
  · split
    · exact memOnly_bankUse m a s
    · exact (memOnly_bankUse m a s).trans (memOnly_occur _ _ _ _ _)

theorem memOnly_memPost (m : MemCtl) (a : Nat) (write : Bool) (s : State) : MemOnly s (memPost m a write s) := by
  refine (memOnly_memAsk m a s).trans ?_
  unfold memPost
  dsimp only
  split
  · exact memOnly_withMem m _ _
  · exact memOnly_memServe m a write _

theorem memOnly_memUse (m : MemCtl) (a : Nat) (write : Bool) (s : State) : MemOnly s (memUse m a write s) := by
  have htake : MemOnly s (memTake m a s) := memOnly_withMem m _ s
  unfold memUse
  split
  · exact htake
  · exact (htake.trans (memOnly_memAsk m a _)).trans (memOnly_memServe m a write _)

theorem memOnly_memPosts (m : MemCtl) (as : List Nat) (write : Bool) (s : State) : MemOnly s (memPosts m as write s) :=
  memOnly_foldl (fun x a => memOnly_memPost m a write x) as s

theorem memOnly_memUses (m : MemCtl) (as : List Nat) (write : Bool) (s : State) : MemOnly s (memUses m as write s) :=
  memOnly_foldl (fun x a => memOnly_memUse m a write x) as s

theorem memOnly_flowWrote (old : State) (t k : Nat) (s : State) : MemOnly s (flowWrote old t k s) := by
  unfold flowWrote
  dsimp only
  split
  · exact MemOnly.refl s
  · split
    · exact memOnly_memPost _ _ _ s
    · exact MemOnly.refl s

/-- A key whose entry is as it was is not written (R184). -/
theorem flowWrote_of_same {old s : State} {t k : Nat} (h : mfind s.lkp.ents (entKey t k) = mfind old.lkp.ents (entKey t k)) :
    flowWrote old t k s = s := if_pos (.inr h.symm)

theorem flowWrote_of_em {t : Nat} (h : t < 64) (old : State) (k : Nat) (s : State) : flowWrote old t k s = s := if_pos (.inl h)

/-! ### Parity and ECC errors -/

theorem memOnly_eccAddr (m : MemCtl) (kind c a : Nat) (s : State) : MemOnly s (eccAddr m kind c a s) :=
  memOnly_mReg (by decide) (by decide) m s _ _

theorem memOnly_lostRead (m : MemCtl) (a : Nat) (s : State) : MemOnly s (lostRead m a s) :=
  (memOnly_eccAddr m _ _ _ s).trans (memOnly_errReport ..)

/-- The error counts of a controller and of one of its channels, and the address (R386). -/
theorem memOnly_eccCount (m : MemCtl) (c kind a hi lo hi' lo' : Nat) (s : State) :
    MemOnly s (eccAddr m kind c a (rcount (rcount s (rECC m) 0 hi lo 1) (rCH m) c hi' lo' 1)) :=
  ((memOnly_mReg (by decide) (by decide) m s _ _).trans (memOnly_mReg (by decide) (by decide) m _ _ _)).trans
    (memOnly_eccAddr m kind c a _)

theorem memOnly_eccEvent (m : MemCtl) (a : Nat) (e : EccResult) (s : State) : MemOnly s (eccEvent m a e s) := by
  cases e with
  | clean => exact MemOnly.refl s
  | corrected => exact (memOnly_eccCount m _ _ _ _ _ _ _ s).trans (memOnly_errReport ..)
  | uncorrectable => exact (memOnly_eccCount m _ _ _ _ _ _ _ s).trans (memOnly_errReport ..)

theorem memOnly_flowEcc (code index : Nat) (s : State) : MemOnly s (flowEcc code index s) := by
  unfold flowEcc
  dsimp only
  split
  · split
    · exact memOnly_lostRead _ _ s
    · exact memOnly_eccEvent _ _ _ s
  · exact MemOnly.refl s

/-- R217, R218: an error is recorded in LKP_PERR and reported, and changes no table. -/
theorem memOnly_lkpParity (place index : Nat) (s : State) : MemOnly s (lkpParity place index s) := by
  refine (memOnly_flowEcc place index s).trans ?_
  unfold lkpParity
  dsimp only
  exact ((memOnly_rset (by decide) _ _ _).trans (memOnly_errReport ..)).trans (memOnly_occur _ _ _ _ _)

end Sys2Proof.Proofs
end

section
/-! SUPPORT. What a command of the lookup tables that is carried out reaches (R196, R197): the tables, PEND_COUNT, the
memories and the reports, and of the registers none up to the keys of LKP_CMD. -/

namespace Sys2Proof.Proofs
open Sys2Proof Sys2Proof.Machine Sys2Proof.Laws

/-- What a command of the lookup tables does not reach: the state but for the tables, PEND_COUNT, the memories and the
reports, and the registers before LKP_CMD_DATA0. -/
def cmdView (s : State) : State × (Nat → Option Word) :=
  ({ s with
      regs := [], out := [], err := State.reset.err, gau := State.reset.gau, mcd := State.reset.mcd,
      mch := State.reset.mch, lkp := State.reset.lkp, tcam := State.reset.tcam, tau := { s.tau with pendCount := 0 } },
    fun a => if a < dataBase then mfind s.regs a else none)

theorem sen_of_cmd {s t : State} (h : cmdView t = cmdView s) : t.sen = s.sen := congrArg (fun v => v.1.sen) h

theorem rget_of_cmd {s t : State} (h : cmdView t = cmdView s) {r : Reg} {i : Nat} (hr : regAddr r i < dataBase) :
    rget t r i = rget s r i := by
  have hlow := congrFun (congrArg Prod.snd h) (regAddr r i)
  simp only [cmdView, hr, if_true] at hlow
  simp only [rget, hlow]

theorem cmd_of_mem {s t : State} (h : MemOnly s t) : cmdView t = cmdView s := by
  obtain ⟨heq, hlow⟩ := h
  have hview : (fun a => if a < dataBase then mfind t.regs a else none) =
      fun a => if a < dataBase then mfind s.regs a else none := by
    funext a
    split
    next ha => exact hlow a ha
    next => rfl
  rw [cmdView, hview, heq]
  rfl

theorem cmd_of_tables {s t : State} (h : TablesOnly s t) : cmdView t = cmdView s := by
  rw [h]
  rfl

/-! ### Entries and prefixes -/

@[simp] theorem cmd_withLkp (f : Lkp → Lkp) (s : State) : cmdView (withLkp f s) = cmdView s := rfl

@[simp] theorem cmd_dropPend (s : State) : cmdView (dropPend s) = cmdView s := rfl

@[simp] theorem cmd_pendMove (a b : Bool) (s : State) : cmdView (pendMove a b s) = cmdView s := by
  unfold pendMove
  split
  · rfl
  · split <;> rfl

theorem cmd_rset {r : Reg} (hr : dataBase ≤ r.base) (s : State) (i : Nat) (v : Word) :
    cmdView (rset s r i v) = cmdView s := cmd_of_mem (memOnly_rset hr s i v)

@[simp] theorem cmd_loadData (d : Nat) (s : State) : cmdView (loadData d s) = cmdView s :=
  (cmd_rset (by decide) _ _ _).trans (cmd_rset (by decide) s _ _)

@[simp] theorem cmd_setLpm (write : Bool) (k : Nat) (l : SMap (Vers Nat)) (s : State) :
    cmdView (setLpm write k l s) = cmdView s := rfl

@[simp] theorem cmd_updEnt (t k : Nat) (e : Ent) (s : State) : cmdView (updEnt t k e s) = cmdView s :=
  cmd_of_tables (tablesOnly_updEnt t k e s)

@[simp] theorem cmd_freshPlace (t : Nat) (l : Loc) (s : State) : cmdView (freshPlace t l s) = cmdView s := rfl

theorem tablesOnly_putEnt (t k : Nat) (es : SMap Ent) (e : Ent) (s : State) : TablesOnly s (putEnt t k es e s) := by
  unfold putEnt
  dsimp only
  split <;> rfl

@[simp] theorem cmd_putEnt (t k : Nat) (es : SMap Ent) (e : Ent) (s : State) : cmdView (putEnt t k es e s) = cmdView s :=
  cmd_of_tables (tablesOnly_putEnt t k es e s)

@[simp] theorem cmd_freshEnt (t k : Nat) (s : State) : cmdView (freshEnt t k s) = cmdView s := by
  unfold freshEnt
  split <;> rfl

@[simp] theorem cmd_insRefused (t : Nat) (s : State) : cmdView (insRefused t s) = cmdView s := by
  unfold insRefused
  split
  · exact cmd_rset (by decide) s _ _
  · rfl

theorem cmd_storeEnt {t k : Nat} {epoch : Bool} {d : EData} {hit : Bool} {age : Nat} {s s' : State}
    (h : storeEnt t k epoch d hit age s = some s') : cmdView s' = cmdView s := by
  unfold storeEnt at h
  split at h
  · dsimp only at h
    split at h <;> cases h <;> simp
  · split at h <;> cases h
    simp

/-! ### Commands -/

@[simp] theorem cmd_pfxCmd (c : LkpCmd) (s : State) : cmdView (pfxCmd c s).2 = cmdView s := by
  unfold pfxCmd
  dsimp only
  split
  · split
    · rfl
    · split <;> simp
  · split
    · rfl
    · split
      · split <;> simp
      · rfl

@[simp] theorem cmd_resCmd (c : LkpCmd) (s : State) : cmdView (resCmd c s).2 = cmdView s := by
  unfold resCmd
  dsimp only
  split
  · split
    · rfl
    · split <;> simp
  · split
    · rfl
    · split <;> simp

@[simp] theorem cmd_entRead (c : LkpCmd) (s : State) : cmdView (entRead c s).2 = cmdView s := by
  unfold entRead
  dsimp only
  split
  · rfl
  · split
    · rw [cmd_rset (by decide), cmd_loadData]
    · rfl

@[simp] theorem cmd_entWrite (c : LkpCmd) (s : State) : cmdView (entWrite c s).2 = cmdView s := by
  unfold entWrite
  dsimp only
  split
  · rfl
  · split
    · rfl
    · split
      · rfl
      · split
        next h => rw [cmd_freshEnt, cmd_storeEnt h]
        next => exact cmd_insRefused _ s

@[simp] theorem cmd_entDelete (c : LkpCmd) (s : State) : cmdView (entDelete c s).2 = cmdView s := by
  unfold entDelete
  dsimp only
  split
  · rfl
  · split
    · rfl
    · split <;> simp

@[simp] theorem cmd_entMove (c : LkpCmd) (s : State) : cmdView (entMove c s).2 = cmdView s := by
  unfold entMove
  dsimp only
  split
  · rfl
  · split
    · split
      · rfl
      · split
        · rfl
        · split
          · simp
          next h =>
            rw [← cmd_storeEnt h]
            split
            · split <;> simp
            · rfl
    · rfl

@[simp] theorem cmd_entWithdraw (c : LkpCmd) (s : State) : cmdView (entWithdraw c s).2 = cmdView s := by
  unfold entWithdraw
  split
  · rfl
  · split
    · rfl
    · split
      · split <;> simp
      · rfl

@[simp] theorem cmd_lkpAct (c : LkpCmd) (s : State) : cmdView (lkpAct c s).2 = cmdView s := by
  unfold lkpAct
  split
  · simp
  · simp
  · split <;> simp

@[simp] theorem cmd_cmdWrote (old : State) (c : LkpCmd) (s : State) : cmdView (cmdWrote old c s) = cmdView s := by
  unfold cmdWrote
  split
  · exact cmd_of_mem ((memOnly_flowWrote _ _ _ s).trans (memOnly_flowWrote _ _ _ _))
  · rfl

@[simp] theorem cmd_lkpParity (place index : Nat) (s : State) : cmdView (lkpParity place index s) = cmdView s :=
  cmd_of_mem (memOnly_lkpParity place index s)

/-- The reads of a command reach the memories alone (R383). -/
theorem memOnly_cmdReads (c : LkpCmd) (s : State) :
    MemOnly s (if (cmdReads c s).any (unitWaits s .mcd) then memPosts .mcd (cmdReads c s) false s
      else memUses .mcd (cmdReads c s) false s) := by
  split
  · exact memOnly_memPosts _ _ _ s
  · exact memOnly_memUses _ _ _ s

theorem cmd_lkpDo (met : Option (Nat × Nat)) (c : LkpCmd) (s : State) : cmdView (lkpDo met c s).2 = cmdView s := by
  have hreads := cmd_of_mem (memOnly_cmdReads c s)
  unfold lkpDo
  dsimp only
  split
  · rfl
  · rw [← hreads]
    generalize (if (cmdReads c s).any (unitWaits s .mcd) then memPosts .mcd (cmdReads c s) false s
      else memUses .mcd (cmdReads c s) false s) = x
    split
    · simp
    · split
      · dsimp only
        split
        · rw [cmd_rset (by decide), cmd_loadData, cmd_lkpParity]
        · simp
      · split <;> simp

theorem cmd_lkpTake (met : Option (Nat × Nat)) (c : LkpCmd) (s : State) : cmdView (lkpTake met c s) = cmdView s :=
  cmd_lkpDo met c s

end Sys2Proof.Proofs
end

section
/-! SUPPORT. GO of LKP_CMD, and the end of a command on a result entry (R196, R197, R199, R203, R217). -/

namespace Sys2Proof.Proofs
open Sys2Proof Sys2Proof.Machine Sys2Proof.Laws

/-- A field without a clamp takes what is written to it (R4). -/
theorem fld_writeReg_any {r : Reg} (hd : r.fields.Pairwise Apart) (hw : ∀ f ∈ r.fields, f.lo ≤ f.hi ∧ f.hi < 64)
    {hi lo rst : Nat} (hf : ⟨hi, lo, .rw, rst, .any⟩ ∈ r.fields) (lock : Bool) (old v : Word) :
    fld (writeReg lock r old v) hi lo = fld v hi lo := by
  obtain ⟨hl, h⟩ := hw _ hf
  rw [fld_writeReg hd hw hf, writeField, fld_setFld_self _ _ _ _ h hl, clampField, Nat.mod_eq_of_lt (fld_lt v hi lo)]

theorem bit_eq_fld (w : Word) (b : Nat) : bit w b = (fld w b b).testBit 0 := by
  simp [bit, fld]

theorem bit_writeReg_any {r : Reg} (hd : r.fields.Pairwise Apart) (hw : ∀ f ∈ r.fields, f.lo ≤ f.hi ∧ f.hi < 64)
    {b rst : Nat} (hf : ⟨b, b, .rw, rst, .any⟩ ∈ r.fields) (lock : Bool) (old v : Word) :
    bit (writeReg lock r old v) b = bit v b := by
  rw [bit_eq_fld, bit_eq_fld, fld_writeReg_any hd hw hf]

theorem lkpCmd_fields : R.LKP_CMD.fields.Pairwise Apart ∧ ∀ f ∈ R.LKP_CMD.fields, f.lo ≤ f.hi ∧ f.hi < 64 := by decide

/-- The clamps of TABLE and PLEN leave every other field (R196). -/
theorem clampLkpCmd_apart (w : Word) {hi lo : Nat} (htable : hi < 50 ∨ 55 < lo) (hplen : hi < 32 ∨ 39 < lo) :
    fld (clampLkpCmd w) hi lo = fld w hi lo := by
  have hstored : ∀ t, fld (setFld w 55 50 t) hi lo = fld w hi lo :=
    fun t => fld_setFld_ne w t (by decide) (by decide) htable
  unfold clampLkpCmd
  dsimp only
  split
  all_goals
    split
    · rw [fld_setFld_ne _ _ (by decide) (by decide) hplen, hstored]
    · exact hstored _

/-- LKP_CMD takes a command up: its fields as written, OP, and BUSY (R196, R199). -/
def lkpGo (op : Nat) (v : Word) (s : State) : State :=
  rset s R.LKP_CMD 0 (setFld (setFld (storeVal s false R.LKP_CMD 0 v) 47 45 op) 63 63 1)

theorem rget_lkpGo (op : Nat) (v : Word) (s : State) : rget (lkpGo op v s) R.LKP_CMD 0 =
    setFld (setFld (clampLkpCmd (writeReg false R.LKP_CMD (rget s R.LKP_CMD 0) v)) 47 45 op) 63 63 1 :=
  rget_rset_self _ _ _ _

theorem lkpGo_eq (op : Nat) (v : Word) (s : State) : lkpGo op v s = { s with regs := (lkpGo op v s).regs } := rfl

theorem sen_lkpGo (op : Nat) (v : Word) (s : State) : (lkpGo op v s).sen = s.sen := rfl

theorem regsBut_lkpGo (op : Nat) (v : Word) (s : State) : RegsBut [adr R.LKP_CMD 0] s (lkpGo op v s) :=
  regsBut_rset (regsBut_refl _ s) List.mem_cons_self _

theorem lkpGo_says {op : Nat} (hop : op < 8) (v : Word) (s : State) :
    let w := rget (lkpGo op v s) R.LKP_CMD 0
    bit w 63 = true ∧ fld w 47 45 = op ∧ fld w 49 48 = fld v 49 48 ∧ bit w 44 = bit v 44 := by
  obtain ⟨hd, hw⟩ := lkpCmd_fields
  dsimp only
  rw [rget_lkpGo]
  refine ⟨bit_setFld_bit _ _ _ (by decide), ?operation, ?kind, ?epoch⟩
  case operation =>
    rw [fld_setFld_ne _ _ (by decide) (by decide) (by decide), fld_setFld_self _ _ _ _ (by decide) (by decide)]
    exact Nat.mod_eq_of_lt hop
  case kind =>
    rw [fld_setFld_ne _ _ (by decide) (by decide) (by decide), fld_setFld_ne _ _ (by decide) (by decide) (by decide),
      clampLkpCmd_apart _ (by decide) (by decide)]
    exact fld_writeReg_any (rst := 0) hd hw (by decide) false _ v
  case epoch =>
    rw [bit_setFld_ne _ _ (by decide) (by decide) (by decide), bit_setFld_ne _ _ (by decide) (by decide) (by decide),
      bit_eq_fld, clampLkpCmd_apart _ (by decide) (by decide), ← bit_eq_fld]
    exact bit_writeReg_any (rst := 0) hd hw (by decide) false _ v

/-! ### GO -/

theorem lkpStart_of_busy {s : State} (h : bit (rget s R.LKP_CMD 0) 63 = true) (op : Nat) (v : Word) :
    lkpStart op v s = s := if_pos h

theorem lkpStart_of_idle {s : State} (h : bit (rget s R.LKP_CMD 0) 63 = false) (op : Nat) (v : Word) :
    let t := lkpGo op v s
    let c := lkpCmd t
    lkpStart op v s = if cmdDown c t = false then
      if c.epoch = true ∧ c.op ≠ 0 then lkpTake none c (lkpDrop t) else if isShortPfx c then lkpTake none c t else t
    else t := if_neg (Bool.eq_false_iff.1 h)

/-- Whether a command changes a short prefix is read in LKP_CMD and its keys alone. -/
theorem isShortPfx_of_cmd {s t : State} (h : cmdView t = cmdView s) : isShortPfx (lkpCmd t) = isShortPfx (lkpCmd s) := by
  have hcmd : rget t R.LKP_CMD 0 = rget s R.LKP_CMD 0 := rget_of_cmd h (by decide)
  have hkey : key256 t R.LKP_CMD_KEY = key256 s R.LKP_CMD_KEY := by
    have hword : ∀ i < 4, rget t R.LKP_CMD_KEY i = rget s R.LKP_CMD_KEY i := fun i hi =>
      rget_of_cmd h (by simp only [regAddr, R.LKP_CMD_KEY, dataBase]; omega)
    simp [key256, List.range_succ, hword]
  by_cases hkind : fld (rget s R.LKP_CMD 0) 49 48 = 2
  · simp [isShortPfx, lkpCmd, hcmd, hkey, hkind]
  · simp [isShortPfx, lkpCmd, hcmd, hkind]

theorem cmd_lkpStart {s : State} (h : bit (rget s R.LKP_CMD 0) 63 = false) (op : Nat) (v : Word) :
    cmdView (lkpStart op v s) = cmdView (lkpGo op v s) := by
  rw [lkpStart_of_idle h]
  split
  · split
    · rw [cmd_lkpTake, cmd_of_tables (tablesOnly_lkpDrop _)]
    · split
      · exact cmd_lkpTake _ _ _
      · rfl
  · rfl

/-- R196, R199: an idle LKP_CMD takes a command up, whatever is carried out of it at once. -/
theorem lkpStart_says {s : State} (h : bit (rget s R.LKP_CMD 0) 63 = false) {op : Nat} (hop : op < 8) (v : Word) :
    let t := lkpStart op v s
    let w := rget t R.LKP_CMD 0
    bit w 63 = true ∧ fld w 47 45 = op ∧ fld w 49 48 = fld v 49 48 ∧ t.sen = s.sen := by
  have hview := cmd_lkpStart h op v
  obtain ⟨hbusy, hoper, hkind, -⟩ := lkpGo_says hop v s
  dsimp only
  rw [rget_of_cmd hview (by decide)]
  exact ⟨hbusy, hoper, hkind, (sen_of_cmd hview).trans (sen_lkpGo op v s)⟩

/-- R194: an immediate change of a short prefix is carried out at once where the sequencers of the trie run. -/
theorem lkpStart_of_short {s : State} (h : bit (rget s R.LKP_CMD 0) 63 = false) {op : Nat} {v : Word}
    (hshort : isShortPfx (lkpCmd (lkpStart op v s)) = true) (hup : seqDown s 8 = false) :
    (lkpStart op v s).lkp.preResult.isSome = true := by
  rw [isShortPfx_of_cmd (cmd_lkpStart h op v)] at hshort
  obtain ⟨hkind, hepoch⟩ : (lkpCmd (lkpGo op v s)).kind = 2 ∧ (lkpCmd (lkpGo op v s)).epoch = false := by
    simp only [isShortPfx, Bool.and_eq_true, decide_eq_true_eq, Bool.not_eq_true'] at hshort
    exact ⟨hshort.1.1.1, hshort.1.1.2⟩
  have hruns : cmdDown (lkpCmd (lkpGo op v s)) (lkpGo op v s) = false := by
    rw [cmdDown, if_pos hkind, show seqDown (lkpGo op v s) 8 = false from hup, Bool.and_false]
  rw [lkpStart_of_idle h]
  rw [if_pos hruns, if_neg (by simp [hepoch]), if_pos hshort]
  rfl

/-- R199: any other immediate command is only taken up, and waits for its end. -/
theorem lkpStart_of_long {s : State} (h : bit (rget s R.LKP_CMD 0) 63 = false) {op : Nat} (hop : op < 8) {v : Word}
    (hnow : bit v 44 = false ∨ op = 0) (hlong : isShortPfx (lkpCmd (lkpStart op v s)) = false) :
    lkpStart op v s = lkpGo op v s := by
  rw [isShortPfx_of_cmd (cmd_lkpStart h op v)] at hlong
  obtain ⟨-, hoper, -, hepoch⟩ := lkpGo_says hop v s
  have himmediate : ¬ ((lkpCmd (lkpGo op v s)).epoch = true ∧ (lkpCmd (lkpGo op v s)).op ≠ 0) := by
    rintro ⟨hpend, hwrites⟩
    obtain hv | rfl := hnow
    · exact absurd (hepoch.symm.trans hpend) (by simp [hv])
    · exact hwrites hoper
  rw [lkpStart_of_idle h]
  rw [if_neg himmediate, hlong, if_neg Bool.false_ne_true, ite_self]

/-- R203, R204: a command that names the pending epoch is taken into it at once where the sequencers run. -/
theorem lkpStart_of_pending {s : State} (h : bit (rget s R.LKP_CMD 0) 63 = false) {op : Nat} (hop : op < 8) {v : Word}
    (hpend : bit v 44 = true) (hwrites : op ≠ 0) (h7 : seqDown s 7 = false) (h8 : seqDown s 8 = false) :
    (lkpStart op v s).lkp.preResult.isSome = true := by
  obtain ⟨-, hoper, -, hepoch⟩ := lkpGo_says hop v s
  have hruns : cmdDown (lkpCmd (lkpGo op v s)) (lkpGo op v s) = false := by
    have hup : seqDown (lkpGo op v s) (if (lkpCmd (lkpGo op v s)).kind = 2 then 8 else 7) = false := by
      split
      · exact h8
      · exact h7
    rw [cmdDown, hup, Bool.and_false]
  rw [lkpStart_of_idle h]
  rw [if_pos hruns, if_pos ⟨hepoch.trans hpend, fun h0 => hwrites (hoper.symm.trans h0)⟩]
  rfl

/-! ### A command on a result entry -/

section
variable {c : LkpCmd} {s : State} (hkind : c.kind = 3) (hepoch : c.epoch = false)

include hkind in
theorem lkpDo_of_good (hgood : cmdBad c s = none) : lkpDo none c s = resCmd c s := by
  simp [lkpDo, hkind, cmdReads, memUses, lkpAct, cmdWrote, hgood]

include hkind in
/-- R217: a read that meets a parity error reports it, and loads zeros. -/
theorem lkpDo_of_bad {b : Nat × Nat} (hbad : cmdBad c s = some b) (hop : c.op = 0) (h6 : (resCmd c s).1 ≠ 6)
    (h8 : (resCmd c s).1 ≠ 8) : lkpDo none c s = (5, loadData 0 (lkpParity b.1 b.2 s)) := by
  simp [lkpDo, hkind, cmdReads, memUses, lkpAct, hbad, hop, h6, h8]

/-- The result entry of a command with its current version replaced, or removed where no version of it is left. -/
def resPut (c : LkpCmd) (x : Option (BitVec 120)) (s : State) : State :=
  withLkp (fun l => { l with
    res := updVers s.lkp.res c.key { (mfind s.lkp.res c.key).getD Vers.none_ with cur := x }
    bad := l.bad.filter (fun b => decide (b ≠ (96, c.key))) }) s

theorem hasPend_updVers {α : Type} (m : SMap (Vers α)) (k : Nat) (x : Option α) :
    hasPend (updVers m k { (mfind m k).getD Vers.none_ with cur := x }) k = hasPend m k := by
  unfold hasPend updVers
  split
  next hdead =>
    simp only [Vers.dead, Bool.and_eq_true] at hdead
    obtain ⟨⟨-, hpend⟩, -⟩ := hdead
    rw [mfind_mdel, if_pos rfl, Option.isNone_iff_eq_none.1 hpend]
    rfl
  next => rw [mfind_mput_self]; rfl

theorem pendMove_same (a : Bool) (s : State) : pendMove a a s = s := by cases a <;> rfl

theorem mfind_updVers_ne {α : Type} {k j : Nat} (h : j ≠ k) (m : SMap (Vers α)) (v : Vers α) :
    mfind (updVers m k v) j = mfind m j := by
  unfold updVers
  split
  · rw [mfind_mdel, if_neg h]
  · exact mfind_mput_ne m v h

include hepoch

/-- R197: a write of the current version stores it. -/
theorem resCmd_write (hop : c.op = 1) : resCmd c s = (1, resPut c (some (BitVec.ofNat 120 c.data)) s) := by
  simp [resCmd, versWrite, hop, hepoch, pendRefusal, Vers.put, hasPend_updVers, pendMove_same, resPut]

/-- R197: a delete of a current version removes it. -/
theorem resCmd_delete (hop : c.op = 3) (hcur : ((mfind s.lkp.res c.key).getD Vers.none_).cur.isSome = true) :
    resCmd c s = (1, resPut c none s) := by
  have hnamed : (((mfind s.lkp.res c.key).getD Vers.none_).named false).isNone = false := by
    simpa [Vers.named, versOf] using hcur
  simp [resCmd, versWrite, hop, hepoch, hnamed, pendRefusal, Vers.put, hasPend_updVers, pendMove_same, resPut]

/-- R203: a delete of an entry without a current version is refused. -/
theorem resCmd_delete_absent (hop : c.op = 3) (hcur : ((mfind s.lkp.res c.key).getD Vers.none_).cur = none) :
    resCmd c s = (2, s) := by
  have hnamed : ((mfind s.lkp.res c.key).getD Vers.none_).named false = none := hcur
  simp [resCmd, versWrite, hop, hepoch, hnamed]

/-- R197: a read loads the version it names. -/
theorem resCmd_read {w : View} {d : BitVec 120} {e : Vers (BitVec 120)} (hop : c.op = 0)
    (hview : versionView s c.version = some w) (he : mfind s.lkp.res c.key = some e) (hd : versOf e w = some d) :
    resCmd c s = (1, loadData d.toNat s) := by
  simp [resCmd, hop, readView, hepoch, hview, he, hd]

/-- A read of an epoch that is alive finds the entry or finds none. -/
theorem resCmd_read_code (hop : c.op = 0) (hview : (versionView s c.version).isSome = true) :
    (resCmd c s).1 = 1 ∨ (resCmd c s).1 = 2 := by
  obtain ⟨w, hw⟩ := Option.isSome_iff_exists.1 hview
  simp only [resCmd, hop, readView, hepoch, hw, Bool.false_eq_true, false_and, if_false, if_true]
  split
  · exact .inl rfl
  · exact .inr rfl

end

/-! ### The end -/

/-- The data registers take the 120 data bits (R196). -/
theorem loadData_says {d : Nat} (hd : d < 2 ^ 120) (s : State) : let t := loadData d s
    rfld t R.LKP_CMD_DATA0 0 55 0 = d % 2 ^ 56 ∧ (rget t R.LKP_CMD_DATA1 0).toNat = d / 2 ^ 56 := by
  have hhigh : d / 2 ^ 56 < 2 ^ 64 := by omega
  have hlow : d % 2 ^ 56 < 2 ^ 56 := Nat.mod_lt _ (by decide)
  dsimp only
  unfold loadData
  refine ⟨?_, ?_⟩
  · rw [rfld_rset_ne (by decide), rfld, rget_rset_self, fld, BitVec.toNat_ofNat, Nat.shiftRight_zero]
    omega
  · rw [rget_rset_self, BitVec.toNat_ofNat, Nat.shiftRight_eq_div_pow, Nat.mod_eq_of_lt hhigh]

theorem regs_lkpEnd (res : Nat) (s : State) :
    (lkpEnd res s).regs = (rsetF (rsetF s R.LKP_CMD 0 62 59 res) R.LKP_CMD 0 63 63 0).regs := rfl

theorem lkpEnd_eq (res : Nat) (s : State) :
    lkpEnd res s = { s with lkp := (lkpEnd res s).lkp, regs := (lkpEnd res s).regs } := rfl

theorem regsBut_lkpEnd (res : Nat) (s : State) : RegsBut [adr R.LKP_CMD 0] s (lkpEnd res s) := by
  unfold RegsBut
  rw [regs_lkpEnd]
  exact regsBut_rsetF (regsBut_rsetF (regsBut_refl _ s) List.mem_cons_self _ _ _) List.mem_cons_self _ _ _

/-- RESULT is shown and BUSY clears, and no other register and no entry changes. -/
theorem lkpEnd_says {res : Nat} (hres : res < 16) (s : State) :
    bit (rget (lkpEnd res s) R.LKP_CMD 0) 63 = false ∧ fld (rget (lkpEnd res s) R.LKP_CMD 0) 62 59 = res ∧
    (lkpEnd res s).lkp.res = s.lkp.res := by
  rw [rget_of_regs (regs_lkpEnd res s)]
  refine ⟨rbit_rsetF_bit _ _ _ _ 0 (by decide), ?_, rfl⟩
  refine (rfld_rsetF_apart _ _ _ _ (by decide) (by decide) (by decide)).trans ?_
  exact (rfld_rsetF_self _ _ _ _ _ _ (by decide) (by decide)).trans (Nat.mod_eq_of_lt hres)

/-- R199: the end of a command on a result entry, which no sequencer and no memory holds up. -/
theorem lkpCommandDone_result {s : State} (hbusy : bit (rget s R.LKP_CMD 0) 63 = true) (hnone : s.lkp.preResult = none)
    (hkind : (lkpCmd s).kind = 3) : exec (.lkpCommandDone .clean) s =
      .next (lkpEnd (lkpDo none (lkpCmd s) s).1 (lkpDo none (lkpCmd s) s).2) := by
  change execLkpCommandDone .clean s = _
  have hgo : rbit s R.LKP_CMD 0 63 = true := hbusy
  simp [execLkpCommandDone, hgo, hnone, cmdDown, needsSeq, cmdReads, cmdDisplace, firstMet, cmdCorrected, isShortPfx, hkind]

/-- The registers of the data are none of LKP_CMD. -/
theorem dataRegs_ne_cmd : adr R.LKP_CMD_DATA0 0 ∉ [adr R.LKP_CMD 0] ∧ adr R.LKP_CMD_DATA1 0 ∉ [adr R.LKP_CMD 0] := by
  decide

/-- A command ends with a RESULT over what it leaves. -/
theorem lkpEnd_loads {res d : Nat} (hres : res < 16) (hd : d < 2 ^ 120) (s : State) :
    let t := lkpEnd res (loadData d s)
    bit (rget t R.LKP_CMD 0) 63 = false ∧ fld (rget t R.LKP_CMD 0) 62 59 = res ∧
    rfld t R.LKP_CMD_DATA0 0 55 0 = d % 2 ^ 56 ∧ (rget t R.LKP_CMD_DATA1 0).toNat = d / 2 ^ 56 ∧
    t.lkp.res = s.lkp.res := by
  obtain ⟨hidle, hshown, hentries⟩ := lkpEnd_says hres (loadData d s)
  have hregs := regsBut_lkpEnd res (loadData d s)
  obtain ⟨hlow, hhigh⟩ := loadData_says hd s
  refine ⟨hidle, hshown, ?_, ?_, hentries⟩
  · rw [rfld, rget_of_regsBut hregs dataRegs_ne_cmd.1, ← rfld, hlow]
  · rw [rget_of_regsBut hregs dataRegs_ne_cmd.2, hhigh]

/-- A result entry after a write, and after a delete. -/
theorem mfind_resPut_some (c : LkpCmd) (x : BitVec 120) (s : State) : mfind (resPut c (some x) s).lkp.res c.key =
    some { (mfind s.lkp.res c.key).getD Vers.none_ with cur := some x } := mfind_mput_self _ _ _

theorem mfind_resPut_ne {c : LkpCmd} {k : Nat} (h : k ≠ c.key) (x : Option (BitVec 120)) (s : State) :
    mfind (resPut c x s).lkp.res k = mfind s.lkp.res k := mfind_updVers_ne h _ _

theorem cur_resPut_none (c : LkpCmd) (s : State) :
    ((mfind (resPut c none s).lkp.res c.key).getD Vers.none_).cur = none := by
  simp only [resPut, withLkp, updVers]
  split
  · rw [mfind_mdel, if_pos rfl]
    rfl
  · rw [mfind_mput_self]
    rfl

/-- Settles O25: GO takes a command up, and one on a result entry ends as the spec says of its operation. -/
theorem lookupCommands : Obligations.LookupCommands := by
  refine ⟨fun s v => ?go, fun s => ?done⟩
  case go =>
    intro cmd each e he
    obtain ⟨hop, hexec⟩ : e.2 < 8 ∧ exec e.1 s = .next (lkpStart e.2 v s) := by
      simp only [each, List.mem_cons, List.not_mem_nil, or_false] at he
      rcases he with rfl | rfl | rfl | rfl | rfl | rfl <;> exact ⟨by simp, rfl⟩
    refine ⟨fun hbusy => ?_, fun hidle hnow => ?_, fun hidle hpend hwrites => ?_⟩
    · rw [hexec, lkpStart_of_busy hbusy]
    · obtain ⟨hbusy, hoper, hkind, hsen⟩ := lkpStart_says hidle hop v
      refine ⟨_, hexec, hbusy, hoper, hkind, fun hlong => ?_, fun hshort hup => ⟨lkpStart_of_short hidle hshort hup, hsen⟩⟩
      rw [lkpStart_of_long hidle hop hnow hlong]
      exact ⟨regsBut_lkpGo _ v s, lkpGo_eq _ v s⟩
    · obtain ⟨hbusy, hoper, -, hsen⟩ := lkpStart_says hidle hop v
      exact ⟨_, hexec, hbusy, hoper, lkpStart_of_pending hidle hop hpend hwrites, hsen⟩
  case done =>
    intro cmd c v ends hbusy hnone hkind hepoch
    have hend := lkpCommandDone_result hbusy hnone hkind
    refine ⟨fun b hop hbad hview => ?bad, fun hgood => ?_⟩
    case bad =>
      have hcode := resCmd_read_code hepoch hop hview
      rw [lkpDo_of_bad hkind hbad hop (by omega) (by omega)] at hend
      have hsame : (lkpParity b.1 b.2 s).lkp = s.lkp := (memOnly_lkpParity b.1 b.2 s).lkp
      obtain ⟨hidle, hres, hlow, hhigh, hentries⟩ :=
        lkpEnd_loads (by decide : 5 < 16) (by decide : 0 < 2 ^ 120) (lkpParity b.1 b.2 s)
      rw [hsame] at hentries
      exact ⟨_, hend, hidle, hres, fun k _ => by rw [hentries], hlow, BitVec.eq_of_toNat_eq hhigh, hentries⟩
    rw [lkpDo_of_good hkind hgood] at hend
    refine ⟨fun hop => ?write, fun hop hcur => ?delete, fun hop hcur => ?absent, fun w d hop hview hd hsome => ?read⟩
    case write =>
      rw [resCmd_write hepoch hop] at hend
      obtain ⟨hidle, hres, hentries⟩ := lkpEnd_says (by decide : 1 < 16) (resPut c (some (BitVec.ofNat 120 c.data)) s)
      exact ⟨_, hend, hidle, hres, fun k hk => by rw [hentries, mfind_resPut_ne hk], by rw [hentries, mfind_resPut_some],
        regsBut_lkpEnd 1 (resPut c (some (BitVec.ofNat 120 c.data)) s), lkpEnd_eq 1 (resPut c _ s)⟩
    case delete =>
      rw [resCmd_delete hepoch hop hcur] at hend
      obtain ⟨hidle, hres, hentries⟩ := lkpEnd_says (by decide : 1 < 16) (resPut c none s)
      exact ⟨_, hend, hidle, hres, fun k hk => by rw [hentries, mfind_resPut_ne hk], by rw [hentries, cur_resPut_none],
        lkpEnd_eq 1 (resPut c none s)⟩
    case absent =>
      rw [resCmd_delete_absent hepoch hop hcur] at hend
      obtain ⟨hidle, hres, hentries⟩ := lkpEnd_says (by decide : 2 < 16) s
      exact ⟨_, hend, hidle, hres, fun k _ => by rw [hentries], congrArg (mfind · c.key) hentries⟩
    case read =>
      obtain ⟨e, he⟩ := Option.isSome_iff_exists.1 hsome
      have hv : versOf e w = some d := by
        rw [← hd]
        simp only [v, c, he] 
        rfl
      rw [resCmd_read hepoch hop hview he hv] at hend
      obtain ⟨hidle, hres, hlow, hhigh, hentries⟩ := lkpEnd_loads (by decide : 1 < 16) d.isLt s
      exact ⟨_, hend, hidle, hres, fun k _ => by rw [hentries], hlow, hhigh, hentries⟩

end Sys2Proof.Proofs
end

section
/-! SUPPORT. GO of TCM_CMD, what a command of the TCAM takes up at once, and its end (R199, R230 to R236). -/

namespace Sys2Proof.Proofs
open Sys2Proof Sys2Proof.Machine Sys2Proof.Laws

/-! ### GO -/

theorem tcamCmd_fields : R.TCM_CMD.fields.Pairwise Apart ∧ ∀ f ∈ R.TCM_CMD.fields, f.lo ≤ f.hi ∧ f.hi < 64 := by decide

/-- TCM_CMD takes a command up: its fields as written, OP, BUSY, and whether it stands beside a respread (R230, R236). -/
def tcamGo (op : Nat) (v : Word) (s : State) : State :=
  withTcam (fun x => { x with second := s.tcam.resp.isSome })
    (rset s R.TCM_CMD 0 (setFld (setFld (storeVal s false R.TCM_CMD 0 v) 51 48 op) 63 63 1))

/-- TCM_CMD can take a command up: none runs, or a respread does and no further command beside it (R199, R236). -/
def TcamFree (s : State) : Prop :=
  bit (rget s R.TCM_CMD 0) 63 = false ∨ (s.tcam.resp.isSome = true ∧ s.tcam.second = false)

theorem tcamStart_of_full {s : State} (h : ¬ TcamFree s) (op : Nat) (v : Word) : tcamStart op v s = s := by
  obtain ⟨hbusy, hfull⟩ := not_or.1 h
  refine if_pos ?_
  rw [Bool.and_eq_true, rbit]
  refine ⟨by simpa using hbusy, ?_⟩
  cases hresp : s.tcam.resp.isSome <;> simp_all

theorem tcamStart_of_free {s : State} (h : TcamFree s) (op : Nat) (v : Word) : tcamStart op v s =
    if tcamHeld (tcamCmd (tcamGo op v s)) (tcamGo op v s) then tcamGo op v s
    else tcamTake (tcamCmd (tcamGo op v s)) (tcamGo op v s) := by
  refine if_neg ?_
  rw [Bool.and_eq_true, rbit]
  rintro ⟨hbusy, hfull⟩
  obtain hidle | ⟨hresp, hsecond⟩ := h
  · simp [hidle] at hbusy
  · simp [hsecond, Option.isNone_iff_eq_none] at hfull
    simp [hfull] at hresp

theorem rget_tcamGo (op : Nat) (v : Word) (s : State) : rget (tcamGo op v s) R.TCM_CMD 0 =
    setFld (setFld (writeReg false R.TCM_CMD (rget s R.TCM_CMD 0) v) 51 48 op) 63 63 1 := rget_rset_self _ _ _ _

theorem tcamGo_says {op : Nat} (hop : op < 16) (v : Word) (s : State) :
    let w := rget (tcamGo op v s) R.TCM_CMD 0
    bit w 63 = true ∧ fld w 51 48 = op ∧ fld w 55 52 = fld v 55 52 ∧ fld w 43 26 = fld v 43 26 ∧ bit w 47 = bit v 47 := by
  obtain ⟨hd, hw⟩ := tcamCmd_fields
  dsimp only
  rw [rget_tcamGo]
  refine ⟨bit_setFld_bit _ _ _ (by decide), ?operation, ?table, ?index, ?epoch⟩
  case operation =>
    rw [fld_setFld_ne _ _ (by decide) (by decide) (by decide), fld_setFld_self _ _ _ _ (by decide) (by decide)]
    exact Nat.mod_eq_of_lt hop
  case table =>
    rw [fld_setFld_ne _ _ (by decide) (by decide) (by decide), fld_setFld_ne _ _ (by decide) (by decide) (by decide)]
    exact fld_writeReg_any (rst := 0) hd hw (by decide) false _ v
  case index =>
    rw [fld_setFld_ne _ _ (by decide) (by decide) (by decide), fld_setFld_ne _ _ (by decide) (by decide) (by decide)]
    exact fld_writeReg_any (rst := 0) hd hw (by decide) false _ v
  case epoch =>
    rw [bit_setFld_ne _ _ (by decide) (by decide) (by decide), bit_setFld_ne _ _ (by decide) (by decide) (by decide)]
    exact bit_writeReg_any (rst := 0) hd hw (by decide) false _ v

theorem tcamGo_eq (op : Nat) (v : Word) (s : State) : tcamGo op v s =
    { s with regs := (tcamGo op v s).regs, tcam := { s.tcam with second := s.tcam.resp.isSome } } := rfl

theorem regsBut_tcamGo (op : Nat) (v : Word) (s : State) : RegsBut [adr R.TCM_CMD 0] s (tcamGo op v s) :=
  regsBut_rset (regsBut_refl _ s) List.mem_cons_self _

/-! ### What a command takes up at once (R232, R234 to R236) -/

/-- A respread holds the changes of its own table, and a second respread (R236). -/
theorem tcamHeld_iff (c : TcamCmd) (s : State) : tcamHeld c s = true ↔
    ∃ j, s.tcam.resp = some j ∧ (c.op = 7 ∨ (j.table = c.table ∧ c.op ≠ 0 ∧ c.op ≠ 4 ∧ c.op ≠ 5)) := by
  unfold tcamHeld
  cases s.tcam.resp <;> simp

/-- A command that takes effect as it is taken up: a move, a withdrawal, and a change of the pending epoch (R234, R235). -/
def ActsNow (c : TcamCmd) : Prop := c.op = 3 ∨ c.op = 6 ∨ (c.epoch = true ∧ (c.op = 1 ∨ c.op = 2))

theorem tcamTake_of_later {c : TcamCmd} (hlater : ¬ ActsNow c) (h7 : c.op ≠ 7) (s : State) : tcamTake c s = s := by
  unfold ActsNow at hlater
  rw [tcamTake, if_neg (by tauto), if_neg h7, if_neg (by tauto)]

/-- Nothing changes but the TCAM and the TAU. -/
def TcamOnly (s t : State) : Prop := t = { s with tcam := t.tcam, tau := t.tau }

theorem TcamOnly.trans {s t u : State} (h : TcamOnly s t) (h' : TcamOnly t u) : TcamOnly s u := by
  unfold TcamOnly at *
  rw [h', h]

theorem tcamOnly_withTcam (f : Tcam → Tcam) (s : State) : TcamOnly s (withTcam f s) := rfl

theorem tcamOnly_tcamDrop (s : State) : TcamOnly s (tcamDrop s) := by
  unfold tcamDrop
  split <;> rfl

theorem tcamOnly_tcamWrite (c : TcamCmd) (s : State) : TcamOnly s (tcamWrite c s).2 := by
  unfold tcamWrite
  dsimp only
  repeat' split
  all_goals rfl

theorem tcamOnly_tcamDelete (c : TcamCmd) (s : State) : TcamOnly s (tcamDelete c s).2 := by
  unfold tcamDelete
  dsimp only
  repeat' split
  all_goals rfl

theorem tcamOnly_tcamWithdraw (c : TcamCmd) (s : State) : TcamOnly s (tcamWithdraw c s).2 := by
  unfold tcamWithdraw
  dsimp only
  repeat' split
  all_goals rfl

theorem tcamOnly_tcamDo {c : TcamCmd} (h : c.op = 1 ∨ c.op = 2 ∨ c.op = 6) (ev : LookupEvent) (s : State) :
    TcamOnly s (tcamDo c ev s).2 := by
  unfold tcamDo
  split
  · rfl
  · obtain h | h | h := h <;> rw [h]
    · exact tcamOnly_tcamWrite c s
    · exact tcamOnly_tcamDelete c s
    · exact tcamOnly_tcamWithdraw c s

/-- A move has its RESULT, or has written its destination and holds its source (R234). -/
theorem tcamTake_move {c : TcamCmd} (hop : c.op = 3) (s : State) : let t := tcamTake c s
    (t.tcam.preResult.isSome = true ∨ t.tcam.moveSrc.isSome = true) ∧ TcamOnly s t := by
  dsimp only
  rw [tcamTake, if_pos hop]
  split
  · exact ⟨.inl rfl, rfl⟩
  · exact ⟨.inr rfl, rfl⟩

theorem tcamTake_now {c : TcamCmd} (hnow : ActsNow c) (s : State) : let t := tcamTake c s
    (t.tcam.preResult.isSome = true ∨ t.tcam.moveSrc.isSome = true) ∧ TcamOnly s t := by
  by_cases h3 : c.op = 3
  · exact tcamTake_move h3 s
  · unfold ActsNow at hnow
    have hop : c.op = 1 ∨ c.op = 2 ∨ c.op = 6 := by tauto
    have h7 : c.op ≠ 7 := by omega
    dsimp only
    rw [tcamTake, if_neg h3, if_neg h7, if_pos (by tauto)]
    exact ⟨.inl rfl, ((tcamOnly_tcamDrop s).trans (tcamOnly_tcamDo hop .clean _)).trans (tcamOnly_withTcam _ _)⟩

/-- The respread's duty falls to a sequencer that runs (R468). -/
theorem dutyDown_respread {s : State} (h12 : seqDown s 12 = false) (h13 : seqDown s 13 = false) :
    dutyDown (giveDuty .respread 12 13 s) .respread = dutyDown s .respread := by
  have hup : ∀ q, seqDown (giveDuty .respread 12 13 s) q = seqDown s q := fun _ => rfl
  have hq : ∀ p : Prop, [Decidable p] → seqDown s (if p then 13 else 12) = false := by
    intro p _
    split <;> assumption
  simp only [dutyDown, hup]
  simp [giveDuty, hq]

/-- R236: a respread plans its moves, or has its RESULT, and writes no row yet. -/
theorem tcamTake_respread {c : TcamCmd} {s : State} (hop : c.op = 7) (h12 : seqDown s 12 = false)
    (h13 : seqDown s 13 = false) (hduty : dutyDown s .respread = false) : let t := tcamTake c s
    (t.tcam.preResult.isSome = true ∨ t.tcam.resp.isSome = true) ∧ t.tcam.rows = s.tcam.rows ∧
    t = { s with tcam := t.tcam, csq := { s.csq with given := t.csq.given } } := by
  have hgiven : ∃ l, (if s.csq.given.any (fun e => decide (e.1 = .respread)) then s else giveDuty .respread 12 13 s) =
      { s with csq := { s.csq with given := l } } := by
    split
    · exact ⟨s.csq.given, rfl⟩
    · exact ⟨_, rfl⟩
  have hruns : dutyDown (if s.csq.given.any (fun e => decide (e.1 = .respread)) then s else giveDuty .respread 12 13 s)
      .respread = false := by
    split
    · exact hduty
    · rw [dutyDown_respread h12 h13, hduty]
  dsimp only
  rw [tcamTake, if_neg (by omega), if_pos hop]
  dsimp only
  generalize (if s.csq.given.any (fun e => decide (e.1 = .respread)) then s else giveDuty .respread 12 13 s) = x at *
  obtain ⟨l, rfl⟩ := hgiven
  rw [if_neg (Bool.eq_false_iff.1 hruns)]
  split
  · exact ⟨.inl rfl, rfl, rfl⟩
  · exact ⟨.inr rfl, rfl, rfl⟩

/-! ### GO and what follows it at once -/

section
variable {op : Nat} (hop : op < 16) (v : Word) (s : State)
include hop

/-- A command of TCM_CMD acts as it is taken up by its OP and EPOCH. -/
theorem actsNow_tcamGo : ActsNow (tcamCmd (tcamGo op v s)) ↔ op = 3 ∨ op = 6 ∨ (bit v 47 = true ∧ (op = 1 ∨ op = 2)) := by
  obtain ⟨-, hoper, -, -, hepoch⟩ := tcamGo_says hop v s
  have ho : (tcamCmd (tcamGo op v s)).op = op := hoper
  have he : (tcamCmd (tcamGo op v s)).epoch = bit v 47 := hepoch
  rw [ActsNow, ho, he]

theorem tcamHeld_tcamGo : tcamHeld (tcamCmd (tcamGo op v s)) (tcamGo op v s) = true ↔
    ∃ j, s.tcam.resp = some j ∧ (op = 7 ∨ (j.table = fld v 55 52 ∧ op ≠ 0 ∧ op ≠ 4 ∧ op ≠ 5)) := by
  obtain ⟨-, hoper, htable, -, -⟩ := tcamGo_says hop v s
  have ho : (tcamCmd (tcamGo op v s)).op = op := hoper
  have ht : (tcamCmd (tcamGo op v s)).table = fld v 55 52 := htable
  rw [tcamHeld_iff, ho, ht]
  rfl

end

section
variable {s : State} (hfree : TcamFree s) {op : Nat} {v : Word}
include hfree

/-- R231, R236: a command that a respread holds, or that acts at its end, is only taken up. -/
theorem tcamStart_waits (h : tcamHeld (tcamCmd (tcamGo op v s)) (tcamGo op v s) = true ∨
    (¬ ActsNow (tcamCmd (tcamGo op v s)) ∧ (tcamCmd (tcamGo op v s)).op ≠ 7)) : tcamStart op v s = tcamGo op v s := by
  rw [tcamStart_of_free hfree]
  obtain hheld | ⟨hlater, h7⟩ := h
  · exact if_pos hheld
  · rw [tcamTake_of_later hlater h7, ite_self]

theorem tcamStart_takes (h : tcamHeld (tcamCmd (tcamGo op v s)) (tcamGo op v s) ≠ true) :
    tcamStart op v s = tcamTake (tcamCmd (tcamGo op v s)) (tcamGo op v s) := by
  rw [tcamStart_of_free hfree, if_neg h]

end

/-! ### The end of a command -/

/-- TCM_CMD with RESULT shown and BUSY cleared. -/
def tcamShown (res : Nat) (s : State) : State := rsetF (rsetF s R.TCM_CMD 0 62 59 res) R.TCM_CMD 0 63 63 0

/-- RESULT is shown and BUSY clears, and NINDEX stays. -/
theorem tcamShown_says {res : Nat} (hres : res < 16) (s : State) :
    bit (rget (tcamShown res s) R.TCM_CMD 0) 63 = false ∧ fld (rget (tcamShown res s) R.TCM_CMD 0) 62 59 = res ∧
    fld (rget (tcamShown res s) R.TCM_CMD 0) 25 8 = rfld s R.TCM_CMD 0 25 8 := by
  refine ⟨rbit_rsetF_bit _ _ _ _ 0 (by decide), ?result, ?nindex⟩
  case result =>
    refine (rfld_rsetF_apart _ _ _ _ (by decide) (by decide) (by decide)).trans ?_
    exact (rfld_rsetF_self _ _ _ _ _ _ (by decide) (by decide)).trans (Nat.mod_eq_of_lt hres)
  case nindex =>
    refine (rfld_rsetF_apart _ _ _ _ (by decide) (by decide) (by decide)).trans ?_
    exact rfld_rsetF_apart _ _ _ _ (by decide) (by decide) (by decide)

theorem regs_tcamEnd {s : State} (hresp : s.tcam.resp = none) (res : Nat) :
    (tcamEnd res s).regs = (tcamShown res s).regs := by
  have hregs : (tcamEnd res s).regs =
      (rsetF (rsetF s R.TCM_CMD 0 62 59 res) R.TCM_CMD 0 63 63 s.tcam.resp.isSome.toNat).regs := by
    unfold tcamEnd
    split <;> rfl
  rw [hregs, hresp]
  rfl

theorem rows_tcamEnd (res : Nat) (s : State) : (tcamEnd res s).tcam.rows = s.tcam.rows := by
  unfold tcamEnd
  split <;> rfl

theorem sen_tcamEnd (res : Nat) (s : State) : (tcamEnd res s).sen = s.sen := by
  unfold tcamEnd
  split <;> rfl

theorem tcamEnd_says {res : Nat} (hres : res < 16) {s : State} (hresp : s.tcam.resp = none) :
    bit (rget (tcamEnd res s) R.TCM_CMD 0) 63 = false ∧ fld (rget (tcamEnd res s) R.TCM_CMD 0) 62 59 = res ∧
    (tcamEnd res s).sen = s.sen ∧ fld (rget (tcamEnd res s) R.TCM_CMD 0) 25 8 = rfld s R.TCM_CMD 0 25 8 := by
  obtain ⟨hidle, hshown, hnidx⟩ := tcamShown_says hres s
  rw [rget_of_regs (regs_tcamEnd hresp res)]
  exact ⟨hidle, hshown, sen_tcamEnd res s, hnidx⟩

/-- R236: a respread with moves to come does not end. -/
theorem tcamCommandDone_moves {s : State} {j : Respread} (hbusy : bit (rget s R.TCM_CMD 0) 63 = true)
    (hresp : s.tcam.resp = some j) (hsecond : s.tcam.second = false) (hmoves : j.moves ≠ []) :
    exec (.tcamCommandDone .clean) s = .next s := by
  have hgo : rbit s R.TCM_CMD 0 63 = true := hbusy
  change execTcamCommandDone .clean s = _
  simp [execTcamCommandDone, hgo, hresp, hsecond, hmoves]

/-- R236: a respread whose moves are done ends with its RESULT. -/
theorem tcamCommandDone_respread {s : State} {j : Respread} (hbusy : bit (rget s R.TCM_CMD 0) 63 = true)
    (hresp : s.tcam.resp = some j) (hsecond : s.tcam.second = false) (hmoves : j.moves = []) :
    exec (.tcamCommandDone .clean) s =
      .next (tcamShown j.res (withTcam (fun x => { x with resp := none }) (endDuty .respread s))) := by
  have hgo : rbit s R.TCM_CMD 0 63 = true := hbusy
  change execTcamCommandDone .clean s = _
  simp [execTcamCommandDone, hgo, hresp, hsecond, hmoves, respreadEnd, tcamShown]

section
variable {s : State} (hbusy : bit (rget s R.TCM_CMD 0) 63 = true) (hresp : s.tcam.resp = none)
  (hpre : s.tcam.preResult = none)
include hbusy hresp hpre

/-- R234: a move ends once its source has become a hole. -/
theorem tcamCommandDone_move {m : Nat} (hmove : s.tcam.moveSrc = some m) : exec (.tcamCommandDone .clean) s =
    .next (tcamEnd 1 (setRow (m / 4096) (m % 4096) TRow.empty s)) := by
  have hgo : rbit s R.TCM_CMD 0 63 = true := hbusy
  change execTcamCommandDone .clean s = _
  simp [execTcamCommandDone, hgo, hresp, tcamFinish, hpre, hmove]

/-- R231: another command is carried out at its end. -/
theorem tcamCommandDone_does (hmove : s.tcam.moveSrc = none) (h7 : (tcamCmd s).op ≠ 7) :
    exec (.tcamCommandDone .clean) s =
      .next (tcamEnd (tcamDo (tcamCmd s) .clean s).1 (tcamDo (tcamCmd s) .clean s).2) := by
  have hgo : rbit s R.TCM_CMD 0 63 = true := hbusy
  change execTcamCommandDone .clean s = _
  simp [execTcamCommandDone, hgo, hresp, tcamFinish, hpre, hmove, h7]

end

/-! ### The operations on a row (R232) -/

/-- A row that holds a key is kept as it is. -/
theorem normRow_of_current {x : TRow} (h : x.c = true) : normRow x = x := if_neg (by simp [rowHole, h])

/-- A row without a current version is kept without one. -/
theorem normRow_current {x : TRow} (h : x.c = false) : (normRow x).c = false := by
  unfold normRow
  split
  · rfl
  · exact h

theorem rows_setRow_self (b r : Nat) (x : TRow) (s : State) :
    mget TRow.empty (setRow b r x s).tcam.rows (4096 * b + r) = normRow x := mget_mset_self _ _ _ _

theorem rows_setRow_ne {b r j : Nat} (h : j ≠ 4096 * b + r) (x : TRow) (s : State) :
    mget TRow.empty (setRow b r x s).tcam.rows j = mget TRow.empty s.tcam.rows j := mget_mset_ne _ _ _ h

section
variable {c : TcamCmd} {s : State} (hvalid : tcamValid c s = true)
include hvalid

theorem tcamDo_op1 (hop : c.op = 1) : tcamDo c .clean s = tcamWrite c s := by simp [tcamDo, hvalid, hop]

theorem tcamDo_op2 (hop : c.op = 2) : tcamDo c .clean s = tcamDelete c s := by simp [tcamDo, hvalid, hop]

theorem tcamDo_op5 (hop : c.op = 5) : tcamDo c .clean s = tcamSearch c .clean s := by simp [tcamDo, hvalid, hop]

end

section
variable {c : TcamCmd} {s : State} (hepoch : c.epoch = false)
include hepoch

/-- R232, R238: a write that fits its block stores the row. -/
theorem tcamWrite_stores (hpset : (rowIdx s c.table c.idx).pset = false) (hvset : (rowIdx s c.table c.idx).vset = false)
    (hfits : pfFits s c.table c.idx c.key c.mask = true) : tcamWrite c s = (1, setRowIdx c.table c.idx
      ⟨c.key, c.mask, c.assoc, true, false, (rowIdx s c.table c.idx).p, false, (rowIdx s c.table c.idx).v, false⟩ s) := by
  simp [tcamWrite, hepoch, hpset, hvset, hfits]

/-- R228: a row with a pending version is not written. -/
theorem tcamWrite_refused (hpset : (rowIdx s c.table c.idx).pset = true) : tcamWrite c s = (9, s) := by
  simp [tcamWrite, hepoch, hpset]

theorem tcamDelete_takes (hcur : (rowIdx s c.table c.idx).c = true) :
    tcamDelete c s = (1, setRowIdx c.table c.idx { rowIdx s c.table c.idx with c := false } s) := by
  simp [tcamDelete, hepoch, hcur]

theorem tcamDelete_absent (hcur : (rowIdx s c.table c.idx).c = false) : tcamDelete c s = (2, s) := by
  simp [tcamDelete, hepoch, hcur]

end

section
variable {c : TcamCmd} {s : State} {w : View} (hview : versionView s c.version = some w)
include hview

/-- R232: a search loads the index of the row that it finds. -/
theorem tcamSearch_finds {b r : Nat} (hfind : tcamFind s c.table c.key w = some (b, r)) (hquar : (trow s b r).quar = false) :
    tcamSearch c .clean s = (1, loadNidx (tcamIndex s c.table b r) (occur 5 1 c.table 1 s)) := by
  have hfind' : tcamFind (occur 5 1 c.table 1 s) c.table c.key w = some (b, r) := hfind
  have hquar' : (trow (occur 5 1 c.table 1 s) b r).quar = false := hquar
  simp only [tcamSearch, hview, verifyMatch, hfind', hquar', Bool.false_eq_true, if_false]
  rfl

theorem tcamSearch_misses (hfind : tcamFind s c.table c.key w = none) :
    tcamSearch c .clean s = (2, loadNidx 0 (occur 5 1 c.table 1 s)) := by
  have hfind' : tcamFind (occur 5 1 c.table 1 s) c.table c.key w = none := hfind
  simp only [tcamSearch, hview, verifyMatch, hfind', Bool.false_eq_true, if_false]

end

/-- A command that stores a row ends, and every other row is unchanged. -/
theorem tcamEnd_setRow {s : State} (hresp : s.tcam.resp = none) (b r : Nat) (x : TRow) : let t := tcamEnd 1 (setRow b r x s)
    bit (rget t R.TCM_CMD 0) 63 = false ∧ fld (rget t R.TCM_CMD 0) 62 59 = 1 ∧ t.sen = s.sen ∧
    mget TRow.empty t.tcam.rows (4096 * b + r) = normRow x ∧
    ∀ j, j ≠ 4096 * b + r → mget TRow.empty t.tcam.rows j = mget TRow.empty s.tcam.rows j := by
  obtain ⟨hidle, hshown, hsen, -⟩ := tcamEnd_says (by decide : 1 < 16) (s := setRow b r x s) hresp
  dsimp only
  rw [rows_tcamEnd]
  exact ⟨hidle, hshown, hsen, rows_setRow_self b r x s, fun j hj => rows_setRow_ne hj x s⟩

/-- A search ends with its index in NINDEX, and no row changes. -/
theorem tcamEnd_loadNidx {s : State} {res : Nat} (hres : res < 16) (hresp : s.tcam.resp = none) (t n : Nat) :
    let u := tcamEnd res (loadNidx n (occur 5 1 t 1 s))
    bit (rget u R.TCM_CMD 0) 63 = false ∧ fld (rget u R.TCM_CMD 0) 62 59 = res ∧ u.sen = s.sen ∧
    fld (rget u R.TCM_CMD 0) 25 8 = n % 2 ^ 18 ∧ u.tcam.rows = s.tcam.rows := by
  obtain ⟨hidle, hshown, hsen, hnidx⟩ := tcamEnd_says hres (s := loadNidx n (occur 5 1 t 1 s)) hresp
  refine ⟨hidle, hshown, hsen, hnidx.trans ?_, rows_tcamEnd res _⟩
  exact rfld_rsetF_self _ _ _ _ _ _ (by decide) (by decide)

/-! ### The statement -/

/-- Settles O28: GO takes a command up, the command acts then or at its end as its operation says, and a respread runs
beside one further command. -/
theorem tcamCommands : Obligations.TcamCommands := by
  refine ⟨fun s v => ?go, fun s => ?done⟩
  case go =>
    intro cmd each free held e he now
    obtain ⟨hop, hexec⟩ : e.2 < 16 ∧ exec e.1 s = .next (tcamStart e.2 v s) := by
      simp only [each, List.mem_cons, List.not_mem_nil, or_false] at he
      rcases he with rfl | rfl | rfl | rfl | rfl | rfl | rfl | rfl <;> exact ⟨by simp, rfl⟩
    obtain ⟨hbusy, hoper, htable, hidx, hepoch⟩ := tcamGo_says hop v s
    have hheld := tcamHeld_tcamGo hop v s
    have hacts := actsNow_tcamGo hop v s
    have hregs := regsBut_tcamGo e.2 v s
    refine ⟨fun hfull => ?full, fun hfree hwaits => ?waits, fun hfree hnow hapart => ?takes,
      fun hfree h7 hresp h12 h13 hduty => ?respread⟩
    case full => rw [hexec, tcamStart_of_full hfull]
    case waits =>
      have hstart : tcamStart e.2 v s = tcamGo e.2 v s := by
        refine tcamStart_waits hfree ?_
        rw [hheld, hacts, show (tcamCmd (tcamGo e.2 v s)).op = e.2 from hoper]
        obtain hlater | ⟨⟨j, hj, ht⟩, h0, h4, h5⟩ | ⟨h7, hresp⟩ := hwaits
        · exact .inr hlater
        · exact .inl ⟨j, hj, .inr ⟨ht, h0, h4, h5⟩⟩
        · exact .inl ((Option.isSome_iff_exists.1 hresp).imp fun _ hj => ⟨hj, .inl h7⟩)
      rw [hstart] at hexec
      exact ⟨_, hexec, hbusy, hoper, htable, hidx, hregs, tcamGo_eq e.2 v s⟩
    case takes =>
      have hfreely : tcamHeld (tcamCmd (tcamGo e.2 v s)) (tcamGo e.2 v s) ≠ true := by
        rw [ne_eq, hheld]
        rintro ⟨j, hj, h7 | ⟨ht, -⟩⟩
        · obtain h | h | ⟨-, h | h⟩ := hnow <;> omega
        · exact hapart ⟨j, hj, ht⟩
      obtain ⟨hpart, honly⟩ := tcamTake_now (hacts.2 hnow) (tcamGo e.2 v s)
      rw [tcamStart_takes hfree hfreely] at hexec
      generalize tcamTake (tcamCmd (tcamGo e.2 v s)) (tcamGo e.2 v s) = t at hexec hpart honly
      have hsame : t.regs = (tcamGo e.2 v s).regs := by rw [honly]
      refine ⟨t, hexec, ?_, ?_, hpart, fun a ha => by rw [hsame, hregs a ha], ?_⟩
      · exact (congrArg (bit · 63) (rget_of_regs hsame _ _)).trans hbusy
      · exact (congrArg (fld · 51 48) (rget_of_regs hsame _ _)).trans hoper
      · rw [honly]
        rfl
    case respread =>
      have hfreely : tcamHeld (tcamCmd (tcamGo e.2 v s)) (tcamGo e.2 v s) ≠ true := by
        rw [ne_eq, hheld, hresp]
        simp
      obtain ⟨hpart, hrows, honly⟩ := tcamTake_respread (c := tcamCmd (tcamGo e.2 v s)) (s := tcamGo e.2 v s)
        (hoper.trans h7) h12 h13 hduty
      rw [tcamStart_takes hfree hfreely] at hexec
      generalize tcamTake (tcamCmd (tcamGo e.2 v s)) (tcamGo e.2 v s) = t at hexec hpart hrows honly
      have hsame : t.regs = (tcamGo e.2 v s).regs := by rw [honly]
      refine ⟨t, hexec, ?_, hpart, hrows, fun a ha => by rw [hsame, hregs a ha], ?_⟩
      · exact (congrArg (bit · 63) (rget_of_regs hsame _ _)).trans hbusy
      · rw [honly]
        rfl
  case done =>
    intro cmd c k x others ends
    refine ⟨fun j hbusy hresp hsecond => ⟨fun hmoves => tcamCommandDone_moves hbusy hresp hsecond hmoves,
      fun hmoves hres => ?respread⟩, fun hbusy hresp hpre => ⟨fun m hmove => ?move, fun hmove hvalid hepoch => ?other⟩⟩
    case respread =>
      obtain ⟨hidle, hshown, -⟩ := tcamShown_says hres (withTcam (fun x => { x with resp := none }) (endDuty .respread s))
      exact ⟨_, tcamCommandDone_respread hbusy hresp hsecond hmoves, hidle, hshown, rfl, rfl⟩
    case move =>
      have hat : 4096 * (m / 4096) + m % 4096 = m := Nat.div_add_mod m 4096
      have hends := tcamEnd_setRow hresp (m / 4096) (m % 4096) TRow.empty
      rw [hat] at hends
      exact ⟨_, tcamCommandDone_move hbusy hresp hpre hmove, hends⟩
    case other =>
      have hdone := fun h7 => tcamCommandDone_does hbusy hresp hpre hmove h7
      refine ⟨fun hop hpset hvset hfits => ?write, fun hop hpset => ?refused, fun hop hcur => ?delete,
        fun hop hcur => ?absent, fun w b r hop hview hfind hquar => ?finds, fun w hop hview hfind => ?misses⟩
      all_goals
        replace hop : (tcamCmd s).op = _ := hop
        replace hdone := hdone (by omega)
      case write =>
        rw [tcamDo_op1 hvalid hop, tcamWrite_stores hepoch hpset hvset hfits] at hdone
        obtain ⟨hidle, hshown, hsen, hrow, hothers⟩ := tcamEnd_setRow hresp
          (rowAt s c.table c.idx).1 (rowAt s c.table c.idx).2 ⟨c.key, c.mask, c.assoc, true, false, x.p, false, x.v, false⟩
        exact ⟨_, hdone, hidle, hshown, hsen, hrow.trans (normRow_of_current rfl), hothers⟩
      case refused =>
        rw [tcamDo_op1 hvalid hop, tcamWrite_refused hepoch hpset] at hdone
        obtain ⟨hidle, hshown, hsen, -⟩ := tcamEnd_says (by decide : 9 < 16) hresp
        exact ⟨_, hdone, hidle, hshown, hsen, rows_tcamEnd 9 s⟩
      case delete =>
        rw [tcamDo_op2 hvalid hop, tcamDelete_takes hepoch hcur] at hdone
        obtain ⟨hidle, hshown, hsen, hrow, hothers⟩ := tcamEnd_setRow hresp
          (rowAt s c.table c.idx).1 (rowAt s c.table c.idx).2 { x with c := false }
        exact ⟨_, hdone, hidle, hshown, hsen, (congrArg TRow.c hrow).trans (normRow_current rfl), hothers⟩
      case absent =>
        rw [tcamDo_op2 hvalid hop, tcamDelete_absent hepoch hcur] at hdone
        obtain ⟨hidle, hshown, hsen, -⟩ := tcamEnd_says (by decide : 2 < 16) hresp
        exact ⟨_, hdone, hidle, hshown, hsen, rows_tcamEnd 2 s⟩
      case finds =>
        rw [tcamDo_op5 hvalid hop, tcamSearch_finds hview hfind hquar] at hdone
        exact ⟨_, hdone, tcamEnd_loadNidx (by decide : 1 < 16) hresp _ _⟩
      case misses =>
        rw [tcamDo_op5 hvalid hop, tcamSearch_misses hview hfind] at hdone
        exact ⟨_, hdone, tcamEnd_loadNidx (by decide : 2 < 16) hresp _ _⟩

end Sys2Proof.Proofs
end

section
/-! SUPPORT. Tables of the lookup complex come into use, go out of use and are cleared, and stash entries and trie arrays
move on (R177, R182, R186, R193). -/

namespace Sys2Proof.Proofs
open Sys2Proof Sys2Proof.Machine Sys2Proof.Laws

/-! ### Enable -/

/-- R177: a disabled table that is not being cleared stores the write's fields and is judged. -/
theorem enableWrite_of_idle {s : State} {t : Nat} (hoff : tableEn s t = false) (hclear : clearing s t = false) (r : Reg)
    (i : Nat) (memOk : Bool) (v : Word) : enableWrite r i t memOk v s = tableEnable t memOk (hostStore false r i v s) := by
  have hclear' : clearing (hostStore false r i v s) t = false := by
    rw [clearing, hostStore_lkp]
    exact hclear
  simp [enableWrite, hoff, hclear']

theorem tableEnable_em {s : State} {t : Nat} (ht : t < 64) (hok : emEnableOk s t = true) (memOk : Bool) :
    tableEnable t memOk s = rsetF s R.LKP_EM_CFG t 63 63 1 := by simp [tableEnable, ht, hok]

theorem tableEnable_flow (f : Nat) (s : State) :
    tableEnable (64 + f) true s = rsetF s R.LKP_FLOW_CFG f 63 63 1 := by simp [tableEnable]

/-! ### Disable -/

/-- Nothing changes but the lookup tables, and what is being cleared stays. -/
def EntriesOnly (s t : State) : Prop := t = { s with lkp := t.lkp } ∧ t.lkp.clr = s.lkp.clr

theorem EntriesOnly.refl (s : State) : EntriesOnly s s := ⟨rfl, rfl⟩

theorem EntriesOnly.trans {s t u : State} (h : EntriesOnly s t) (h' : EntriesOnly t u) : EntriesOnly s u := by
  obtain ⟨hst, hclr⟩ := h
  obtain ⟨htu, hclr'⟩ := h'
  refine ⟨?_, hclr'.trans hclr⟩
  rw [htu, hst]

theorem entriesOnly_foldl {α : Type} {f : State → α → State} (hf : ∀ x a, EntriesOnly x (f x a)) (l : List α) (s : State) :
    EntriesOnly s (l.foldl f s) := by
  induction l generalizing s with
  | nil => exact EntriesOnly.refl s
  | cons a l ih => exact (hf s a).trans (ih _)

theorem entriesOnly_updEnt (t k : Nat) (e : Ent) (s : State) : EntriesOnly s (updEnt t k e s) := by
  have hremove : EntriesOnly s (removeEnt t k s) := by
    unfold removeEnt
    dsimp only
    split
    · exact EntriesOnly.refl s
    · split <;> exact ⟨rfl, rfl⟩
  unfold updEnt
  split
  · exact hremove
  · exact ⟨rfl, rfl⟩

theorem entriesOnly_withLkp {f : Lkp → Lkp} (h : ∀ x, (f x).clr = x.clr) (s : State) : EntriesOnly s (withLkp f s) :=
  ⟨rfl, h s.lkp⟩

theorem entriesOnly_mapLpm (f : Vers Nat → Vers Nat) (s : State) : EntriesOnly s (mapLpm f s) := by
  refine entriesOnly_foldl (fun x e => ?_) _ s
  split <;> exact ⟨rfl, rfl⟩

/-- R67: the versions that an abandoned epoch left are discarded in the tables alone. -/
theorem entriesOnly_lkpDrop (s : State) : EntriesOnly s (lkpDrop s) := by
  unfold lkpDrop
  split
  · exact ((entriesOnly_foldl (fun x _ => entriesOnly_updEnt _ _ _ x) _ s).trans (entriesOnly_mapLpm _ _)).trans
      (entriesOnly_withLkp (by intro x; rfl) _)
  · exact EntriesOnly.refl s

/-- An entry of a table without its pending and previous versions; another as it is. -/
def currentOnly (n : Nat) (e : Nat × Ent) : Nat × Ent :=
  if entTable e.1 = n then (e.1, { e.2 with v := { e.2.v with pend := none, prev := none } }) else e

theorem key_currentOnly (n : Nat) (e : Nat × Ent) : (currentOnly n e).1 = e.1 := by
  unfold currentOnly
  split <;> rfl

theorem vers_currentOnly {n : Nat} {e : Nat × Ent} (h : entTable e.1 = n) :
    (currentOnly n e).2.v.pend = none ∧ (currentOnly n e).2.v.prev = none := by
  rw [currentOnly, if_pos h]
  exact ⟨rfl, rfl⟩

/-- A map changed entry by entry, its keys staying, reads the same at a key whose entry stays. -/
theorem mfind_map_same {α : Type} {f : Nat × α → Nat × α} {k : Nat} (hkey : ∀ e, (f e).1 = e.1)
    (hsame : ∀ e, e.1 = k → f e = e) (m : SMap α) : mfind (m.map f) k = mfind m k := by
  induction m with
  | nil => rfl
  | cons e m ih =>
    rw [List.map_cons, mfind, mfind, ih]
    by_cases he : e.1 = k
    · rw [hsame e he]
    · rw [if_neg (by rwa [hkey]), if_neg he]

theorem mfind_filter_same {α : Type} {p : Nat × α → Bool} {k : Nat} (h : ∀ e, e.1 = k → p e = true) (m : SMap α) :
    mfind (m.filter p) k = mfind m k := by
  induction m with
  | nil => rfl
  | cons e m ih =>
    rw [List.filter_cons]
    split
    · rw [mfind, mfind, ih]
    next hp => rw [ih, mfind, if_neg fun he => hp (h e he)]

/-- R177: EN clears, the table's pending and previous versions are gone, and its clearing waits. -/
theorem tableDisable_of_enabled {s : State} {t : Nat} (hon : tableEn s t = true) (r : Reg) (i : Nat) (v : Word) :
    ∃ tau job, tableDisable r i t v s =
      { rsetF (lkpDrop s) r i 63 63 0 with
        tau := tau
        lkp := { (lkpDrop s).lkp with
          ents := (lkpDrop s).lkp.ents.map (currentOnly t), clr := (lkpDrop s).lkp.clr ++ [job] } } := by
  unfold tableDisable
  rw [if_pos hon]
  exact ⟨_, _, rfl⟩

theorem tableDisable_says {s : State} {n : Nat} (hon : tableEn s n = true) (r : Reg) (i : Nat) (v : Word) :
    let t := tableDisable r i n v s
    rbit t r i 63 = false ∧
    (∀ e ∈ t.lkp.ents, entTable e.1 = n → e.2.v.pend = none ∧ e.2.v.prev = none) ∧
    (∀ k, entTable k ≠ n → mfind t.lkp.ents k = mfind (lkpDrop s).lkp.ents k) ∧
    t.lkp.clr.length = s.lkp.clr.length + 1 ∧ RegsBut [adr r i] s t ∧
    t = { s with regs := t.regs, lkp := t.lkp, tau := t.tau } := by
  obtain ⟨hdrop, hclr⟩ := entriesOnly_lkpDrop s
  obtain ⟨tau, job, hdisable⟩ := tableDisable_of_enabled hon r i v
  dsimp only
  rw [hdisable]
  refine ⟨?en, fun e he hn => ?versions, fun k hk => ?others, ?clearing, ?regs, ?rest⟩
  case en => exact rbit_rsetF_bit (lkpDrop s) r i 63 0 (by decide)
  case versions =>
    obtain ⟨x, -, rfl⟩ := List.mem_map.1 he
    rw [key_currentOnly] at hn
    exact vers_currentOnly hn
  case others => exact mfind_map_same (key_currentOnly n) (fun e he => if_neg (by rwa [he])) _
  case clearing => rw [List.length_append, hclr, List.length_singleton]
  case regs =>
    have hregs : (lkpDrop s).regs = s.regs := by rw [hdrop]
    exact regsBut_rsetF (regsBut_of_regs hregs) List.mem_cons_self 63 63 0
  case rest =>
    generalize lkpDrop s = d at hdrop
    rw [hdrop]
    rfl

/-! ### The end of a clearing -/

/-- The lookup complex without what it held of a table (R177). -/
def clearedLkp (t : Nat) (rest : List ClrJob) (x : Lkp) : Lkp :=
  { x with
    clr := rest
    ents := x.ents.filter (fun e => decide (entTable e.1 ≠ t))
    ovf := if 64 ≤ t then x.ovf.filter (fun e => decide (e.1 / 2 ^ 27 ≠ t - 64)) else x.ovf
    tracks := x.tracks.filter (fun e => decide (entTable e.1 ≠ t))
    bad := x.bad.filter (fun b => decide (b.1 ≠ t)) }

theorem ents_clearedLkp (t : Nat) (rest : List ClrJob) (x : Lkp) :
    (∀ e ∈ (clearedLkp t rest x).ents, entTable e.1 ≠ t) ∧
    ∀ k, entTable k ≠ t → mfind (clearedLkp t rest x).ents k = mfind x.ents k := by
  refine ⟨fun e he => ?_, fun k hk => mfind_filter_same (fun e he => ?_) _⟩
  · simpa using (List.mem_filter.1 he).2
  · simpa [he] using hk

/-- R177, R186: at the end of a clearing the table's entries are gone, a flow table's region is zero, and its shadow
storage is free. -/
theorem tableClearDone_clears {s : State} {t : Nat} {j : ClrJob} {rest : List ClrJob} (hclr : s.lkp.clr = j :: rest)
    (ht : j.table = t) (hwaits : j.enable = none) (memOk : Bool) :
    let u : State := { s with lkp := clearedLkp t rest s.lkp, tau := { s.tau with reclaim := s.tau.reclaim - j.storage } }
    tableClearDone t memOk s = if 64 ≤ t then wipeRegion j.base.toNat (128 * 2 ^ fld j.cfg 44 40) u else u := by
  simp only [tableClearDone, hclr, takeFirst, ht, decide_true, if_true, hwaits]
  split
  next h => simp only [clearedLkp, h, if_true]; rfl
  next h => simp only [clearedLkp, h, if_false]; rfl

theorem clearRun_front {s : State} {t : Nat} {j : ClrJob} {rest : List ClrJob} (hclr : s.lkp.clr = j :: rest)
    (ht : j.table = t) : clearRun s t = if 64 ≤ t then (j.base.toNat, 128 * 2 ^ fld j.cfg 44 40) else (0, 0) := by
  simp [clearRun, hclr, ht]

theorem tableClearDone_says {s : State} {t : Nat} {j : ClrJob} {rest : List ClrJob} (hclr : s.lkp.clr = j :: rest)
    (ht : j.table = t) (hwaits : j.enable = none) (memOk : Bool) :
    let run := clearRun s t
    let u := tableClearDone t memOk (memUseRun .mcd run.1 run.2 true s)
    (∀ e ∈ u.lkp.ents, entTable e.1 ≠ t) ∧
    (∀ k, entTable k ≠ t → mfind u.lkp.ents k = mfind s.lkp.ents k) ∧ u.lkp.clr = rest ∧
    u.tau = { s.tau with reclaim := s.tau.reclaim - j.storage } ∧
    (t < 64 → u = { s with lkp := u.lkp, tau := u.tau }) ∧
    (64 ≤ t → u.sen = s.sen ∧ u.tmg = s.tmg ∧ u.liu = s.liu ∧ ∀ e ∈ u.mcd.bytes,
      e.1 < j.base.toNat ∨ j.base.toNat + 128 * 2 ^ fld j.cfg 44 40 ≤ e.1) := by
  intro run u
  have hmem : MemOnly s (memUseRun .mcd run.1 run.2 true s) := memOnly_memUses _ _ _ s
  have hsame : t < 64 → memUseRun .mcd run.1 run.2 true s = s := by
    intro h
    rw [show run = (0, 0) from (clearRun_front hclr ht).trans (if_neg (by omega))]
    rfl
  have hu := tableClearDone_clears (hmem.lkp ▸ hclr) ht hwaits memOk
  change u = _ at hu
  generalize memUseRun .mcd run.1 run.2 true s = x at hmem hsame hu
  obtain ⟨hgone, hkept⟩ := ents_clearedLkp t rest x.lkp
  have hlkp : u.lkp = clearedLkp t rest x.lkp := by
    rw [hu]
    split <;> rfl
  have htau : u.tau = { x.tau with reclaim := x.tau.reclaim - j.storage } := by
    rw [hu]
    split <;> rfl
  rw [hlkp, htau, hmem.tau]
  refine ⟨hgone, fun k hk => (hkept k hk).trans (by rw [hmem.lkp]), rfl, rfl, fun hem => ?em, fun hflow => ?flow⟩
  case em => rw [hu, if_neg (by omega), hsame hem]
  case flow =>
    rw [hu, if_pos hflow]
    refine ⟨hmem.sen, hmem.tmg, hmem.liu, fun e he => ?_⟩
    simpa using (List.mem_filter.1 he).2

/-! ### The statement -/

/-- R182, R183: of a table's stash entries the first that has a free candidate place moves there. -/
theorem stashReturn_moves {s : State} {t : EmTable} {front back : SMap Ent} {k : Nat} {e : Ent} {l : Loc}
    (hup : seqDown s 7 = false) (hents : s.lkp.ents = front ++ (k, e) :: back)
    (hfront : ∀ x ∈ front, ¬ (entTable x.1 = t.val ∧ x.2.loc.wayNo = none ∧ placeBad s t.val x.2.loc = false) ∨
      freePlace s t.val (x.1 % 2 ^ 256) = none)
    (hk : entTable k = t.val) (hstash : e.loc.wayNo = none) (hgood : placeBad s t.val e.loc = false)
    (hplace : freePlace s t.val (k % 2 ^ 256) = some l) :
    exec (.stashReturn t) s = .next (moveEnt t.val k e l s) := by
  have hskip : front.findSome? (fun x =>
      if entTable x.1 = t.val ∧ x.2.loc.wayNo = none ∧ placeBad s t.val x.2.loc = false then
        (freePlace s t.val (x.1 % 2 ^ 256)).map (fun l => (x.1, x.2, l))
      else none) = none := by
    refine List.findSome?_eq_none_iff.2 fun x hx => ?_
    obtain h | h := hfront x hx
    · exact if_neg h
    · rw [h, Option.map_none, ite_self]
  change execStashReturn t s = _
  simp only [execStashReturn, hup, Bool.false_eq_true, if_false]
  rw [hents, List.findSome?_append, hskip, Option.none_or, List.findSome?_cons, if_pos ⟨hk, hstash, hgood⟩, hplace]
  rfl

/-- Settles O26: tables are enabled, disabled and cleared, a stash entry moves to a free place, and the oldest trie array
is freed when its time has come. -/
theorem lookupTablesEnableAndClear : Obligations.LookupTablesEnableAndClear := by
  intro s v
  refine ⟨fun t hoff hclear hok => ?em, fun f hoff hclear hmem => ?flow, ?disable, fun t j rest hup hclr ht hwaits => ?clear,
    fun t front k e back l hup hents hfront hk hstash hgood hplace =>
      stashReturn_moves hup hents hfront hk hstash hgood hplace, fun x d rest hfree => ?trie⟩
  case em =>
    refine congrArg Host.Outcome.next ?_
    rw [enableWrite_of_idle hoff hclear, tableEnable_em t.isLt hok]
  case flow =>
    refine congrArg Host.Outcome.next ?_
    rw [enableWrite_of_idle hoff hclear, hmem, tableEnable_flow]
  case disable =>
    exact ⟨fun t hon => ⟨_, rfl, tableDisable_says hon R.LKP_EM_CFG t.val v⟩,
      fun f hon => ⟨_, rfl, tableDisable_says hon R.LKP_FLOW_CFG f.val v⟩⟩
  case clear =>
    intro run
    have hexec : exec (.tableClearDone t) s = if runWaits s .mcd run.1 run.2 then .next (runAsk .mcd run.1 run.2 s)
        else .next (tableClearDone t.val (memReady s .mcd) (memUseRun .mcd run.1 run.2 true s)) := by
      change execTableClearDone t s = _
      simp only [execTableClearDone, hup, Bool.false_eq_true, if_false]
      rfl
    refine ⟨fun hwait => ?_, fun hgo => ⟨_, ?_, tableClearDone_says hclr ht hwaits (memReady s .mcd)⟩⟩
    · rw [hexec, if_pos hwait]
    · rw [hexec, if_neg (Bool.eq_false_iff.1 hgo)]
  case trie =>
    change execTrieArrayFree s = _
    simp only [execTrieArrayFree, hfree]
    rfl

end Sys2Proof.Proofs
end

section
/-! SUPPORT. Learning, damping and the notifications of the lookup tables (R209 to R211, R213, R216, R217). -/

namespace Sys2Proof.Proofs
open Sys2Proof Sys2Proof.Machine Sys2Proof.Laws

/-! ### A learn comes to its turn -/

/-- The state in which a learn that has left the queue is applied: its reads are made (R213, R383). -/
def learnRead (s : State) (l : Learn) (rest : List Learn) : State :=
  memUses .mcd (flowAddrs s l.table l.key) false { s with lkp := { s.lkp with learnQ := rest } }

theorem memOnly_learnRead (s : State) (l : Learn) (rest : List Learn) :
    MemOnly { s with lkp := { s.lkp with learnQ := rest } } (learnRead s l rest) := memOnly_memUses _ _ _ _

section
variable {s : State} {l : Learn} {rest : List Learn} (hcomes : comes s beforeLearn = false)
  (hfront : takeFirst (fun l => !seqDown s l.seq) s.lkp.learnQ = some (l, rest)) (hon : tableEn s l.table = true)
include hcomes hfront hon

/-- R383: a learn waits for the channels that hold requests. -/
theorem learnApply_asks (hwaits : (flowAddrs s l.table l.key).any (unitWaits s .mcd) = true) :
    exec (.learnApply none) s = .next (memAsks .mcd (flowAddrs s l.table l.key) s) := by
  change execLearnApply none s = _
  simp only [execLearnApply, hcomes, hfront, hon, hwaits, Bool.false_eq_true, if_false, if_true, reduceCtorEq]

section
variable (hserved : (flowAddrs s l.table l.key).any (unitWaits s .mcd) = false)
include hserved

theorem learnApply_moving (hmoving : moving s l.table = true) : exec (.learnApply none) s = .next s := by
  change execLearnApply none s = _
  simp only [execLearnApply, hcomes, hfront, hon, hserved, hmoving, Bool.false_eq_true, if_false, if_true, reduceCtorEq]

variable (hstill : moving s l.table = false)
include hstill

/-- R183: a learn that displaces others makes one displacement a tick. -/
theorem learnApply_displaces {x : State} (hgood : emBad s l.table l.key = none)
    (hmove : displace l.table l.key s = some x) : exec (.learnApply none) s = .next x := by
  change execLearnApply none s = _
  simp only [execLearnApply, hcomes, hfront, hon, hserved, hstill, hgood, hmove, Bool.false_eq_true, if_false, if_true,
    reduceCtorEq, Option.isNone_none, Option.isSome_some, Bool.and_self, Option.getD_some]

theorem learnApply_learns (hplaced : ∀ x, displace l.table l.key s = some x → emBad s l.table l.key ≠ none) :
    exec (.learnApply none) s = .next (flowWrote s l.table l.key (learnDo l none (learnRead s l rest))) := by
  have hnone : ((emBad s l.table l.key).isNone && (displace l.table l.key s).isSome) = false := by
    cases hd : displace l.table l.key s with
    | none => simp
    | some x => simpa [Option.isSome_iff_ne_none] using hplaced x hd
  change execLearnApply none s = _
  simp only [execLearnApply, hcomes, hfront, hon, hserved, hstill, hnone, Bool.false_eq_true, if_false, reduceCtorEq]
  rfl

end

end

/-! ### What a learn makes of its key -/

/-- R217: a learn that meets a parity error changes no entry. -/
theorem learnDo_of_bad {l : Learn} {u : State} {b : Nat × Nat} (hbad : emBad u l.table l.key = some b) :
    learnDo l none u = lkpParity b.1 b.2 u := by simp [learnDo, hbad]

/-- R209: a static entry is not learned. -/
theorem learnDo_of_static {l : Learn} {u : State} {e : Ent} {d : EData} (hgood : emBad u l.table l.key = none)
    (he : entOf u l.table l.key = some e) (hd : e.v.cur = some d) (hstatic : d.static = true) : learnDo l none u = u := by
  simp [learnDo, hgood, he, hd, hstatic]

/-- What a learn stores (R209): its data cut to the entry's width, not static. -/
def learnedData (u : State) (l : Learn) : EData := ⟨BitVec.ofNat 120 (l.data.toNat % 2 ^ dataBits u l.table), false⟩

/-- R209: a key that is absent gets an entry where there is a place. -/
theorem learnDo_of_new {l : Learn} {u : State} {es : SMap Ent} {p : Loc} (hgood : emBad u l.table l.key = none)
    (habsent : entOf u l.table l.key = none) (hplace : place u l.table l.key = some (es, p))
    (hquiet : rbit u R.LKP_LEARN_CFG l.table 62 = false) :
    learnDo l none u = occur 4 5 0 1 (putEnt l.table l.key es ⟨p, Vers.of (learnedData u l), true, 0⟩ u) := by
  have hbit : bit (rget u R.LKP_LEARN_CFG l.table) 62 = false := hquiet
  simp [learnDo, hgood, habsent, hplace, notifyIf, hbit, learnedData]

theorem putEnt_eq (t k : Nat) (es : SMap Ent) (e : Ent) (s : State) :
    putEnt t k es e s = { s with lkp := (putEnt t k es e s).lkp } := by
  unfold putEnt
  dsimp only
  split <;> rfl

/-- A new entry stands in its place, and no learn is forgotten. -/
theorem putEnt_says (t k : Nat) (es : SMap Ent) (e : Ent) (s : State) :
    entOf (putEnt t k es e s) t k = some e ∧ (putEnt t k es e s).lkp.learnQ = s.lkp.learnQ := by
  unfold putEnt
  dsimp only
  split <;> exact ⟨mfind_mput_self _ _ _, rfl⟩

theorem learn_bad_says {s : State} {l : Learn} {rest : List Learn} {b : Nat × Nat}
    (hbad : emBad (learnRead s l rest) l.table l.key = some b) :
    let t := flowWrote s l.table l.key (learnDo l none (learnRead s l rest))
    t.lkp = (learnRead s l rest).lkp ∧ t.sen = s.sen ∧ t.tmg = s.tmg := by
  have hread := memOnly_learnRead s l rest
  have hmem : MemOnly (learnRead s l rest) (flowWrote s l.table l.key (learnDo l none (learnRead s l rest))) := by
    rw [learnDo_of_bad hbad]
    exact (memOnly_lkpParity _ _ _).trans (memOnly_flowWrote _ _ _ _)
  exact ⟨hmem.lkp, hmem.sen.trans hread.sen, hmem.tmg.trans hread.tmg⟩

theorem learn_static_says {s : State} {l : Learn} {rest : List Learn} {e : Ent} {d : EData}
    (hgood : emBad (learnRead s l rest) l.table l.key = none) (he : entOf (learnRead s l rest) l.table l.key = some e)
    (hd : e.v.cur = some d) (hstatic : d.static = true) :
    flowWrote s l.table l.key (learnDo l none (learnRead s l rest)) = learnRead s l rest := by
  rw [learnDo_of_static hgood he hd hstatic]
  exact flowWrote_of_same (by rw [(memOnly_learnRead s l rest).lkp])

theorem learn_new_says {s : State} {l : Learn} {rest : List Learn} {es : SMap Ent} {p : Loc}
    (hgood : emBad (learnRead s l rest) l.table l.key = none) (habsent : entOf (learnRead s l rest) l.table l.key = none)
    (hplace : place (learnRead s l rest) l.table l.key = some (es, p))
    (hquiet : rbit (learnRead s l rest) R.LKP_LEARN_CFG l.table 62 = false) :
    let t := flowWrote s l.table l.key (learnDo l none (learnRead s l rest))
    t.lkp.learnQ = rest ∧
    entOf t l.table l.key = some ⟨p, Vers.of (learnedData (learnRead s l rest) l), true, 0⟩ ∧
    (l.table < 64 → t = { learnRead s l rest with lkp := t.lkp, gau := t.gau }) := by
  have hqueue : (learnRead s l rest).lkp.learnQ = rest := by rw [(memOnly_learnRead s l rest).lkp]
  intro t
  have ht : t = flowWrote s l.table l.key (learnDo l none (learnRead s l rest)) := rfl
  rw [learnDo_of_new hgood habsent hplace hquiet] at ht
  generalize learnRead s l rest = u at ht hqueue
  obtain ⟨hstands, hlearns⟩ := putEnt_says l.table l.key es ⟨p, Vers.of (learnedData u l), true, 0⟩ u
  have hlkp : t.lkp = (putEnt l.table l.key es ⟨p, Vers.of (learnedData u l), true, 0⟩ u).lkp := by
    rw [ht, (memOnly_flowWrote _ _ _ _).lkp, occur_lkp]
  refine ⟨?_, ?_, fun hem => ?_⟩
  · rw [hlkp, hlearns, hqueue]
  · rw [entOf, hlkp]
    exact hstands
  · rw [ht, flowWrote_of_em hem, putEnt_eq]
    rfl

/-! ### Damping and notifications -/

/-- R211: a damped entry's hold ends, and its record is free. -/
theorem dampHoldEnd_frees {s : State} {t : LearnTable} {key : BitVec 256} {tr : Track} {e : Nat}
    (htrack : mfind s.lkp.tracks (entKey t.val key.toNat) = some tr) (hdamped : tr.damped = some e)
    (hup : timeUp s e = true) (hquiet : rbit s R.LKP_LEARN_CFG t.val 60 = false) : exec (.dampHoldEnd t key) s =
      .next { s with lkp := { s.lkp with tracks := mdel s.lkp.tracks (entKey t.val key.toNat) } } := by
  change execDampHoldEnd t key s = _
  simp [execDampHoldEnd, htrack, hdamped, hup, hquiet, notifyIf, withLkp]

/-- The first word of a notification as it is returned (R216): VALID stands. -/
theorem notifyWord_valid {type table : Nat} (ht : type < 8) (htb : table < 128) (old : Nat) :
    bit (BitVec.ofNat 64 (2 ^ 63 + type * 2 ^ 60 + table * 2 ^ 53 + old % 2 ^ 32)) 63 = true := by
  have hsmall : 2 ^ 63 + type * 2 ^ 60 + table * 2 ^ 53 + old % 2 ^ 32 < 2 ^ 64 := by omega
  simp only [bit, BitVec.toNat_ofNat, Nat.mod_eq_of_lt hsmall, Nat.testBit_eq_decide_div_mod_eq, decide_eq_true_eq]
  omega

/-- The words of a notification behind the first, as they are latched (R216). -/
def notifyShown (n : Notif) (s : State) : State :=
  rset ((List.range 4).foldl (fun s i => rset s R.LKP_NOTIFY i (BitVec.ofNat 64 (n.key >>> (64 * (3 - i))))) s)
    R.LKP_NOTIFY 4 n.data

theorem notifyShown_says (n : Notif) (s : State) : rget (notifyShown n s) R.LKP_NOTIFY 4 = n.data ∧
    (∀ i, i < 4 → rget (notifyShown n s) R.LKP_NOTIFY i = BitVec.ofNat 64 (n.key / 2 ^ (64 * (3 - i)))) ∧
    notifyShown n s = { s with regs := (notifyShown n s).regs } := by
  have hapart : ∀ {i j : Nat}, i ≠ j → regAddr R.LKP_NOTIFY j ≠ regAddr R.LKP_NOTIFY i := by
    intro i j hij
    simp only [regAddr, R.LKP_NOTIFY]
    omega
  refine ⟨rget_rset_self _ _ _ _, fun i hi => ?key, ?rest⟩
  case key =>
    rw [notifyShown, rget_rset_ne (hapart (by omega)), rget_foldl_rset
      (g := fun i => BitVec.ofNat 64 (n.key >>> (64 * (3 - i))))
      (fun j hj => hapart hj) _ s (.inl (List.mem_range.2 hi)), Nat.shiftRight_eq_div_pow]
  case rest =>
    obtain ⟨rg, hkey⟩ :=
      foldl_rset_eq R.LKP_NOTIFY (fun i => BitVec.ofNat 64 (n.key >>> (64 * (3 - i)))) (List.range 4) s
    rw [notifyShown, hkey]
    rfl

/-- R216: the oldest notification is popped, its first word returned and the rest latched. -/
theorem lkpNotifyRead_pops {s : State} {n : Notif} {rest : List Notif} (hfront : s.lkp.notify = n :: rest) :
    exec .lkpNotifyRead s =
      .next (answer (BitVec.ofNat 64 (2 ^ 63 + n.type * 2 ^ 60 + n.table * 2 ^ 53 + n.old % 2 ^ 32))
        (notifyShown n (withLkp (fun x => { x with notify := rest }) s))) := by
  change execLkpNotifyRead s = _
  simp only [execLkpNotifyRead, hfront]
  rfl

theorem lkpNotifyRead_empty {s : State} (hempty : s.lkp.notify = []) :
    Completes .lkpNotifyRead s fun t => t.lastRead = 0 := by
  have hexec : exec .lkpNotifyRead s =
      .next (answer 0 ((List.range 5).foldl (fun s i => rset s R.LKP_NOTIFY i 0) s)) := by
    change execLkpNotifyRead s = _
    simp only [execLkpNotifyRead, hempty]
  exact ⟨_, hexec, rfl⟩

end Sys2Proof.Proofs
end

section
/-! SUPPORT. An ageing sweep keeps the entries of every other table, and the static entries of its own (R214, R215). -/

namespace Sys2Proof.Proofs
open Sys2Proof Sys2Proof.Machine Sys2Proof.Laws

/-- Between two states the courses stay, and of the entries those of every table but one and the static ones. -/
structure SweepKeeps (t : Nat) (s u : State) : Prop where
  sen : u.sen = s.sen
  others : ∀ k, entTable k ≠ t → mfind u.lkp.ents k = mfind s.lkp.ents k
  statics : ∀ k e d, mfind s.lkp.ents k = some e → e.v.cur = some d → d.static = true → mfind u.lkp.ents k = some e

theorem sweepKeeps_of_ents {t : Nat} {s u : State} (hsen : u.sen = s.sen) (hents : u.lkp.ents = s.lkp.ents) :
    SweepKeeps t s u := ⟨hsen, fun _ _ => by rw [hents], fun _ _ _ h _ _ => by rw [hents, h]⟩

theorem SweepKeeps.refl (t : Nat) (s : State) : SweepKeeps t s s := sweepKeeps_of_ents rfl rfl

theorem SweepKeeps.trans {t : Nat} {s u w : State} (h : SweepKeeps t s u) (h' : SweepKeeps t u w) : SweepKeeps t s w :=
  ⟨h'.sen.trans h.sen, fun k hk => (h'.others k hk).trans (h.others k hk),
    fun k e d he hd hs => h'.statics k e d (h.statics k e d he hd hs) hd hs⟩

theorem sweepKeeps_foldl {α : Type} {t : Nat} {f : State → α → State} {l : List α}
    (hf : ∀ a ∈ l, ∀ x, SweepKeeps t x (f x a)) (s : State) : SweepKeeps t s (l.foldl f s) := by
  induction l generalizing s with
  | nil => exact SweepKeeps.refl t s
  | cons a l ih => exact (hf a List.mem_cons_self s).trans (ih (fun b hb => hf b (List.mem_cons_of_mem _ hb)) _)

theorem sweepKeeps_of_mem {s u : State} (t : Nat) (h : MemOnly s u) : SweepKeeps t s u :=
  sweepKeeps_of_ents h.sen (by rw [h.lkp])

theorem sweepKeeps_notifyIf (t : Nat) (en : Bool) (type n k : Nat) (data : Word) (old : Nat) (s : State) :
    SweepKeeps t s (notifyIf en type n k data old s) := by
  unfold notifyIf notifyPut
  split
  · split
    · have happend : SweepKeeps t s (withLkp (fun x => { x with notify := x.notify ++ [⟨type, n, k, data, old⟩] }) s) :=
        sweepKeeps_of_ents rfl rfl
      exact happend.trans (sweepKeeps_of_mem t (memOnly_of_err (errOnly_intRaise _ _)))
    · exact sweepKeeps_of_ents rfl rfl
  · exact SweepKeeps.refl t s

theorem sweepKeeps_markBad (t code index : Nat) (s : State) : SweepKeeps t s (markBad code index s) := by
  unfold markBad
  split <;> exact sweepKeeps_of_ents rfl rfl

/-! ### One entry -/

theorem entTable_entKey {k : Nat} (h : k < 2 ^ 256) (t : Nat) : entTable (entKey t k) = t := by
  unfold entTable entKey
  omega

theorem sen_updEnt (t k : Nat) (e : Ent) (s : State) : (updEnt t k e s).sen = s.sen := (tablesOnly_updEnt t k e s).sen

/-- A change of an entry changes no other. -/
theorem ents_updEnt_ne {t k j : Nat} (h : j ≠ entKey t k) (e : Ent) (s : State) :
    mfind (updEnt t k e s).lkp.ents j = mfind s.lkp.ents j := by
  have hremove : mfind (removeEnt t k s).lkp.ents j = mfind s.lkp.ents j := by
    unfold removeEnt
    dsimp only
    split
    · rfl
    · split <;> exact (mfind_mdel _ _ _).trans (if_neg h)
  unfold updEnt
  split
  · exact hremove
  · exact mfind_mput_ne _ _ h

/-- A change of an entry that is not static is one a sweep of its table may make. -/
theorem sweepKeeps_updEnt {t k : Nat} {s : State} {e : Ent} {d : EData} (hk : k < 2 ^ 256) (he : entOf s t k = some e)
    (hd : e.v.cur = some d) (hdyn : d.static = false) (e' : Ent) : SweepKeeps t s (updEnt t k e' s) := by
  refine ⟨sen_updEnt t k e' s, fun j hj => ents_updEnt_ne (fun h => hj ?_) e' s, fun j x dx hx hdx hs => ?_⟩
  · rw [h, entTable_entKey hk]
  · rw [ents_updEnt_ne (fun h => ?_), hx]
    subst h
    obtain rfl : e = x := Option.some.inj (he.symm.trans hx)
    obtain rfl : d = dx := Option.some.inj (hd.symm.trans hdx)
    exact absurd hs (by simp [hdyn])

/-- R215: the sweep leaves an entry that is static, refreshes or ages another, or takes its current version away. -/
theorem sweepKeeps_ageEnt {t k : Nat} (hk : k < 2 ^ 256) (s : State) : SweepKeeps t s (ageEnt t k s) := by
  unfold ageEnt
  split
  · exact SweepKeeps.refl t s
  next e he =>
    split
    · exact SweepKeeps.refl t s
    next d hd =>
      split
      · exact SweepKeeps.refl t s
      next hdyn =>
        have hupd := sweepKeeps_updEnt hk he hd (Bool.eq_false_iff.2 hdyn)
        split
        · exact sweepKeeps_of_mem t (memOnly_lkpParity _ _ s)
        · split
          · exact hupd _
          · split
            · exact hupd _
            · exact (hupd _).trans (sweepKeeps_notifyIf ..)

/-! ### The sweep -/

theorem sweepKeeps_recountOvf (t : Nat) (old : SMap Nat) (s : State) : SweepKeeps t s (recountOvf t old s) := by
  unfold recountOvf
  split
  · exact SweepKeeps.refl t s
  · refine sweepKeeps_foldl (fun e _ x => ?_) s
    split <;> exact sweepKeeps_of_ents rfl rfl

theorem sweepKeeps_ageSweep (t : Nat) (s : State) : SweepKeeps t s (ageSweep t s) := by
  refine (sweepKeeps_of_mem t (memOnly_memUses .mcd (sweepReads s t) false s)).trans ?_
  unfold ageSweep
  dsimp only
  refine (sweepKeeps_foldl (fun k hk x => ?_) _).trans (sweepKeeps_recountOvf t _ _)
  obtain ⟨e, -, rfl⟩ := List.mem_map.1 hk
  exact (sweepKeeps_ageEnt (Nat.mod_lt _ (by decide)) x).trans (sweepKeeps_of_mem t (memOnly_flowWrote _ _ _ _))

/-- R214, R215: a sweep that is due, and for which the memory is free, is made at once. -/
theorem ageingSweep_sweeps {s : State} {t : LearnTable} (hage : rbit s R.LKP_AGE_CFG t.val 63 = true)
    (hon : tableEn s t.val = true) (hup : seqDown s 6 = false)
    (hdue : timeUp s (mget 0 s.lkp.swept t.val + 1600000 * rfld s R.LKP_AGE_CFG t.val 31 0) = true)
    (hserved : (sweepReads s t.val).any (unitWaits s .mcd) = false) (errs : List Nat) :
    exec (.ageingSweep ⟨t, errs⟩) s = .next (withLkp (fun x => { x with swept := mset 0 x.swept t.val s.tau.mono })
      (ageSweep t.val (errs.foldl (fun s i => markBad t.val i s) s))) := by
  have hsweep : sweepDue s t.val = true := by
    rw [sweepDue, hage, hon, Bool.and_self, Bool.true_and]
    exact hdue
  change execAgeingSweep ⟨t, errs⟩ s = _
  simp only [execAgeingSweep, hsweep, hup, hserved, Bool.not_false, Bool.and_self, if_true, Bool.false_eq_true, if_false]

theorem ageingSweep_says (s : State) (t : LearnTable) (errs : List Nat) :
    let u := withLkp (fun x => { x with swept := mset 0 x.swept t.val s.tau.mono })
      (ageSweep t.val (errs.foldl (fun s i => markBad t.val i s) s))
    mget 0 u.lkp.swept t.val = s.tau.mono ∧ SweepKeeps t.val s u := by
  refine ⟨mget_mset_self _ _ _ _, ?_⟩
  exact ((sweepKeeps_foldl (fun i _ x => sweepKeeps_markBad t.val t.val i x) s).trans (sweepKeeps_ageSweep t.val _)).trans
    (sweepKeeps_of_ents rfl rfl)

/-! ### The statement -/

/-- Settles O27: a learn waits, displaces or is applied in its turn, a hold ends, a sweep keeps what is not its own or
static, and a notification is popped. -/
theorem learningAndAgeing : Obligations.LearningAndAgeing := by
  intro s
  refine ⟨fun hcomes perr => if_pos hcomes, fun l rest hcomes hfront hon => ?learn,
    fun t key tr e htrack hdamped hup hquiet => dampHoldEnd_frees htrack hdamped hup hquiet,
    fun t hage hon hup hdue hserved errs => ?sweep, fun n rest hfront htype htable => ?notify, lkpNotifyRead_empty⟩
  case learn =>
    intro as u
    refine ⟨fun hwaits => learnApply_asks hcomes hfront hon hwaits,
      fun hserved hmoving => learnApply_moving hcomes hfront hon hserved hmoving,
      fun x hserved hstill hgood hmove => learnApply_displaces hcomes hfront hon hserved hstill hgood hmove,
      fun hserved hstill hplaced => ?_⟩
    have hexec := learnApply_learns hcomes hfront hon hserved hstill hplaced
    refine ⟨fun b hbad => ⟨_, hexec, learn_bad_says hbad⟩, fun e d hgood he hd hstatic => ?_,
      fun es p hgood habsent hplace hquiet => ⟨_, hexec, learn_new_says hgood habsent hplace hquiet⟩⟩
    rw [learn_static_says hgood he hd hstatic] at hexec
    exact ⟨_, hexec, rfl, rfl, rfl⟩
  case sweep =>
    obtain ⟨hswept, hkeeps⟩ := ageingSweep_says s t errs
    exact ⟨_, ageingSweep_sweeps hage hon hup hdue hserved errs, hswept, hkeeps.sen, hkeeps.others, hkeeps.statics⟩
  case notify =>
    obtain ⟨hdata, hkey, hrest⟩ := notifyShown_says n (withLkp (fun x => { x with notify := rest }) s)
    refine ⟨_, lkpNotifyRead_pops hfront, ?_, ?_, ?_, fun i hi => ?_, ?_⟩
    · exact congrArg (fun x => x.lkp.notify) hrest
    · exact notifyWord_valid htype htable n.old
    · rw [rget_of_regs (answer_regs _ _)]
      exact hdata
    · rw [rget_of_regs (answer_regs _ _)]
      exact hkey i hi
    · generalize notifyShown n (withLkp (fun x => { x with notify := rest }) s) = x at hrest
      rw [hrest]
      rfl

end Sys2Proof.Proofs
end

section
/-! SUPPORT. The registers of the TCAM's banks and tables, and what a run of changes of banks leaves (R220 to R222). -/

namespace Sys2Proof.Proofs
open Sys2Proof Sys2Proof.Machine Sys2Proof.Laws

/-! ### Registers of banks and tables -/

theorem bankCfg_ne {b c : Nat} (h : b ≠ c) : regAddr R.TCM_BANK_CFG b ≠ regAddr R.TCM_BANK_CFG c := by
  change 0xA02000 + 8 * b ≠ 0xA02000 + 8 * c
  omega

theorem tableCfg_ne {t u : Nat} (h : t ≠ u) : regAddr R.TCM_TABLE_CFG t ≠ regAddr R.TCM_TABLE_CFG u := by
  change 0xA01000 + 8 * t ≠ 0xA01000 + 8 * u
  omega

theorem tableCfg_ne_bankCfg {t : Nat} (ht : t < 16) (b : Nat) :
    regAddr R.TCM_TABLE_CFG t ≠ regAddr R.TCM_BANK_CFG b := by
  change 0xA01000 + 8 * t ≠ 0xA02000 + 8 * b
  omega

theorem tableCfg_notErr {t : Nat} (ht : t < 16) : regAddr R.TCM_TABLE_CFG t ∉ errRegs := by
  change 0xA01000 + 8 * t ∉ [0x1800030, 0x1800018]
  simp only [List.mem_cons, List.not_mem_nil, or_false]
  omega

/-- A change of a bank's register leaves the tables'. -/
theorem tableCfg_rsetF_bank {t : Nat} (ht : t < 16) (s : State) (b hi lo v : Nat) :
    rget (rsetF s R.TCM_BANK_CFG b hi lo v) R.TCM_TABLE_CFG t = rget s R.TCM_TABLE_CFG t :=
  rget_rsetF_ne (tableCfg_ne_bankCfg ht b) s hi lo v

theorem tableCfg_setBankState {t : Nat} (ht : t < 16) (b v : Nat) (s : State) :
    rget (setBankState b v s) R.TCM_TABLE_CFG t = rget s R.TCM_TABLE_CFG t := tableCfg_rsetF_bank ht s b _ _ _

theorem bankCfg_rsetF_table {t : Nat} (ht : t < 16) (s : State) (b hi lo v : Nat) :
    rget (rsetF s R.TCM_TABLE_CFG t hi lo v) R.TCM_BANK_CFG b = rget s R.TCM_BANK_CFG b :=
  rget_rsetF_ne (tableCfg_ne_bankCfg ht b).symm s hi lo v

/-- What a table's register shows is the same where the register is. -/
theorem tcamEn_congr {s u : State} {t : Nat} (h : rget u R.TCM_TABLE_CFG t = rget s R.TCM_TABLE_CFG t) :
    tcamEn u t = tcamEn s t := by simp only [tcamEn, rbit, h]

theorem spareOf_congr {s u : State} {t : Nat} (h : rget u R.TCM_TABLE_CFG t = rget s R.TCM_TABLE_CFG t) :
    spareOf u t = spareOf s t := by rw [spareOf, rbit, rfld, h, spareOf, rbit, rfld]

theorem inTable_congr {s u : State} {t : Nat} (h : rget u R.TCM_TABLE_CFG t = rget s R.TCM_TABLE_CFG t) (b : Nat) :
    inTable u t b = inTable s t b := by
  rw [inTable, tcamFirst, tcamBanks, rfld, rfld, h, inTable, tcamFirst, tcamBanks, rfld, rfld]

theorem bankState_setBankState {v : Nat} (hv : v < 4) (b : Nat) (s : State) (d : Nat) :
    bankState (setBankState b v s) d = if d = b then v else bankState s d := by
  unfold bankState setBankState
  split
  next h =>
    subst h
    exact (rfld_rsetF_self _ _ _ _ _ _ (by decide) (by decide)).trans (Nat.mod_eq_of_lt hv)
  next h => rw [rfld, rget_rsetF_ne (bankCfg_ne h), ← rfld]

/-- STATE and PHYS of a bank are set apart. -/
theorem phys_setBankState (b v : Nat) (s : State) (d : Nat) :
    rfld (setBankState b v s) R.TCM_BANK_CFG d 53 48 = rfld s R.TCM_BANK_CFG d 53 48 := by
  unfold setBankState
  by_cases h : d = b
  · subst h
    exact rfld_rsetF_apart _ _ _ _ (by decide) (by decide) (by decide)
  · rw [rfld, rget_rsetF_ne (bankCfg_ne h), ← rfld]

/-! ### Runs of changes -/

/-- What every step of a run leaves, the run leaves. -/
theorem foldl_leaves {α β : Type} {view : State → β} {f : State → α → State} (hf : ∀ x a, view (f x a) = view x)
    (l : List α) (s : State) : view (l.foldl f s) = view s := by
  induction l generalizing s with
  | nil => rfl
  | cons a l ih => exact (ih _).trans (hf s a)

/-- A run of steps, each of which gives its own bank a STATE that no step of the run changes, gives each of those banks that
STATE. -/
theorem bankState_foldl {α : Type} {f : State → α → State} {bank : α → Nat} {given : State → Nat → Nat}
    (hstep : ∀ s a d, bankState (f s a) d = if d = bank a then given s d else bankState s d)
    (hgiven : ∀ s a d, given (f s a) d = given s d) (l : List α) (s : State) (d : Nat) :
    bankState (l.foldl f s) d = if d ∈ l.map bank then given s d else bankState s d := by
  induction l generalizing s with
  | nil => rfl
  | cons a l ih =>
    rw [List.foldl_cons, ih, hgiven, hstep, List.map_cons]
    by_cases hd : d = bank a <;> simp [hd]

end Sys2Proof.Proofs
end

section
/-! SUPPORT. A TCAM table takes its banks as it is enabled, and gives them up as it has been disabled and cleared (R222). -/

namespace Sys2Proof.Proofs
open Sys2Proof Sys2Proof.Machine Sys2Proof.Laws

/-! ### Enable -/

/-- The banks of a table take STATE 1. -/
def banksTaken (t : Nat) (s : State) : State :=
  (tableBanks s t).foldl (fun s b => setBankState b 1 s) (rsetF s R.TCM_TABLE_CFG t 63 63 1)

theorem tableBanks_enabled (s : State) (t v : Nat) : tableBanks (rsetF s R.TCM_TABLE_CFG t 63 63 v) t = tableBanks s t := by
  simp only [tableBanks, tcamBanks, tcamFirst]
  rw [rfld_rsetF_apart _ _ _ _ (by decide) (by decide) (by decide),
    rfld_rsetF_apart _ _ _ _ (by decide) (by decide) (by decide)]

theorem tableCfg_banksTaken {t : Nat} (ht : t < 16) (s : State) :
    rget (banksTaken t s) R.TCM_TABLE_CFG t = rget (rsetF s R.TCM_TABLE_CFG t 63 63 1) R.TCM_TABLE_CFG t :=
  foldl_leaves (view := fun x => rget x R.TCM_TABLE_CFG t) (fun x b => tableCfg_setBankState ht b 1 x) _ _

/-- R222: a table whose banks are free and of its width, and that asks for no spare, is enabled. -/
theorem tcamEnable_of_fits {t : Nat} (ht : t < 16) {s : State}
    (hfits : (tableBanks s t).all (fun b => bankFits s b (tcamWidth s t)) = true) (hspare : spareOf s t = none) :
    tcamEnable t s = banksTaken t s := by
  have hspare' : spareOf (banksTaken t s) t = none := by
    rw [spareOf_congr (tableCfg_banksTaken ht s), spareOf, rbit_rsetF_apart _ _ _ _ (by decide) (by decide) (by decide)]
    rw [spareOf] at hspare
    split at hspare
    · cases hspare
    next hoff => rw [if_neg hoff]
  unfold tcamEnable
  simp only [hfits, hspare, Bool.and_self, if_true, tableBanks_enabled]
  unfold banksTaken at hspare' ⊢
  rw [hspare']

theorem banksTaken_says {t : Nat} (ht : t < 16) (s : State) : rbit (banksTaken t s) R.TCM_TABLE_CFG t 63 = true ∧
    (∀ b ∈ tableBanks s t, bankState (banksTaken t s) b = 1) ∧ banksTaken t s = { s with regs := (banksTaken t s).regs } := by
  refine ⟨?en, fun b hb => ?state, ?rest⟩
  case en =>
    rw [rbit, tableCfg_banksTaken ht, ← rbit, rbit_rsetF_bit _ _ _ _ _ (by decide)]
    rfl
  case state =>
    have hrun := bankState_foldl (f := fun s b => setBankState b 1 s) (bank := id) (given := fun _ _ => 1)
      (fun s b d => bankState_setBankState (by decide) b s d) (fun _ _ _ => rfl) (tableBanks s t)
      (rsetF s R.TCM_TABLE_CFG t 63 63 1) b
    exact hrun.trans (if_pos (by simpa using hb))
  case rest =>
    have hview := foldl_leaves (view := fun x => { x with regs := s.regs }) (f := fun s b => setBankState b 1 s)
      (fun _ _ => rfl) (tableBanks s t) (rsetF s R.TCM_TABLE_CFG t 63 63 1)
    exact congrArg (fun x => { x with regs := (banksTaken t s).regs }) hview

theorem hostStore_tableCfg_eq (t : Nat) (v : Word) (s : State) : hostStore false R.TCM_TABLE_CFG t v s =
    { s with regs := (hostStore false R.TCM_TABLE_CFG t v s).regs } := by
  rw [hostStore, noteWas_of_not_late (by decide)]
  rfl

/-! ### Banks that are lost -/

/-- A bank takes STATE 3, and its rows leave every search (R245). -/
def bankOut (b : Nat) (s : State) : State := setBankState b 3 (dropBankRows b s)

theorem bankState_bankOut (b : Nat) (s : State) (d : Nat) :
    bankState (bankOut b s) d = if d = b then 3 else bankState s d := bankState_setBankState (by decide) b _ d

theorem rows_bankOut (b : Nat) (s : State) :
    (bankOut b s).tcam.rows = s.tcam.rows.filter (fun e => decide (e.1 / 4096 ≠ b)) := rfl

/-- The banks that wait for an exchange with a spare their table no longer has. -/
def goneSpares (s : State) : List (Nat × Nat) := s.tcam.sparing.filter (fun e => tcamEn s e.2 && (spareOf s e.2).isNone)

/-- Those banks wait no more. -/
def sparesDropped (s : State) : State :=
  withTcam (fun x => { x with sparing := x.sparing.filter (fun e => !(goneSpares s).contains e) }) s

/-- Such a bank is out, and its copy waits for no sequencer. -/
def spareLost (s : State) (e : Nat × Nat) : State := bankOut e.1 (endDuty (.spareCopy e.1) s)

theorem lostSpares_eq (s : State) : lostSpares s = (goneSpares s).foldl spareLost (sparesDropped s) := rfl

theorem lostSpares_of_none {s : State} (h : goneSpares s = []) : lostSpares s = s := by
  rw [lostSpares_eq, sparesDropped, h]
  simp [withTcam]

theorem mem_goneSpares {s : State} {b t : Nat} (hmem : (b, t) ∈ s.tcam.sparing) (hon : tcamEn s t = true)
    (hspare : spareOf s t = none) : (b, t) ∈ goneSpares s := List.mem_filter.2 ⟨hmem, by simp [hon, hspare]⟩

theorem goneSpares_of_held {s : State} (h : ∀ e ∈ s.tcam.sparing, (spareOf s e.2).isSome = true) : goneSpares s = [] := by
  refine List.filter_eq_nil_iff.2 fun e he => ?_
  simp [Option.isNone_iff_eq_none, Option.isSome_iff_ne_none.1 (h e he)]

theorem bankState_lostSpares (s : State) (d : Nat) :
    bankState (lostSpares s) d = if d ∈ (goneSpares s).map Prod.fst then 3 else bankState s d := by
  rw [lostSpares_eq]
  exact bankState_foldl (f := spareLost) (given := fun _ _ => 3) (fun x e d => bankState_bankOut e.1 _ d)
    (fun _ _ _ => rfl) (goneSpares s) (sparesDropped s) d

/-- A bank that is retired stays so. -/
theorem bankState_lostSpares_retired {s : State} {d : Nat} (h : bankState s d = 3) : bankState (lostSpares s) d = 3 := by
  rw [bankState_lostSpares, h, ite_self]

theorem rows_sparesLost (l : List (Nat × Nat)) (s : State) :
    ∀ x ∈ (l.foldl spareLost s).tcam.rows,
      x ∈ s.tcam.rows ∧ x.1 / 4096 ∉ l.map Prod.fst := by
  induction l generalizing s with
  | nil => exact fun x hx => ⟨hx, List.not_mem_nil⟩
  | cons e l ih =>
    intro x hx
    obtain ⟨hrow, hout⟩ := ih _ x hx
    rw [spareLost, rows_bankOut] at hrow
    obtain ⟨hold, hbank⟩ := List.mem_filter.1 hrow
    exact ⟨hold, by simpa using ⟨by simpa using hbank, by simpa using hout⟩⟩

theorem rows_lostSpares {s : State} {d : Nat} (hd : d ∈ (goneSpares s).map Prod.fst) :
    ∀ x ∈ (lostSpares s).tcam.rows, x.1 / 4096 ≠ d := by
  intro x hx he
  exact (rows_sparesLost _ _ x hx).2 (he ▸ hd)

theorem tableCfg_lostSpares {t : Nat} (ht : t < 16) (s : State) :
    rget (lostSpares s) R.TCM_TABLE_CFG t = rget s R.TCM_TABLE_CFG t := by
  rw [lostSpares_eq]
  exact foldl_leaves (view := fun x => rget x R.TCM_TABLE_CFG t) (f := spareLost)
    (fun x e => tableCfg_setBankState ht e.1 3 _) (goneSpares s) (sparesDropped s)

theorem phys_lostSpares (s : State) (d : Nat) :
    rfld (lostSpares s) R.TCM_BANK_CFG d 53 48 = rfld s R.TCM_BANK_CFG d 53 48 := by
  rw [lostSpares_eq]
  exact foldl_leaves (view := fun x => rfld x R.TCM_BANK_CFG d 53 48) (f := spareLost)
    (fun x e => phys_setBankState e.1 3 _ d) (goneSpares s) (sparesDropped s)

/-! ### Disable -/

/-- What the changes of a table's configuration and of its rows do not reach: the courses, the lookup tables, and what is
being cleared. -/
def clearView (s : State) : Sen × Lkp × List ClrJob := (s.sen, s.lkp, s.tcam.clr)

theorem clear_of_err {s t : State} (h : ErrOnly s t) : clearView t = clearView s := by
  rw [h.1]
  rfl

theorem clear_tcamDrop (s : State) : clearView (tcamDrop s) = clearView s := by
  unfold tcamDrop
  split <;> rfl

theorem clear_tcamCfgLive (t : Nat) (v : Word) (s : State) : clearView (tcamCfgLive t v s) = clearView s := by
  unfold tcamCfgLive
  dsimp only
  generalize (if bit (storeVal s false R.TCM_TABLE_CFG t v) 39 = true then _ else none : Option Nat) = want
  generalize spareOf _ t = old
  split
  · rfl
  · cases want with
    | none => cases old <;> rfl
    | some b =>
      dsimp only
      split
      · cases old <;> rfl
      · refine (clear_of_err (errOnly_errReport ..)).trans ?_
        rfl

theorem clear_lostSpares (s : State) : clearView (lostSpares s) = clearView s :=
  foldl_leaves (f := spareLost) (fun _ _ => rfl) (goneSpares s) (sparesDropped s)

/-- The table as a disabling write leaves it before its rows are cleared. -/
def tableClosed (t : Nat) (v : Word) (s : State) : State :=
  rsetF (lostSpares (tcamCfgLive t v (tcamDrop s))) R.TCM_TABLE_CFG t 63 63 0

theorem clear_tableClosed (t : Nat) (v : Word) (s : State) : clearView (tableClosed t v s) = clearView s :=
  (clear_lostSpares _).trans ((clear_tcamCfgLive t v _).trans (clear_tcamDrop s))

/-- The versions that are lost with a table's rows are counted no more, and their storage is to be reclaimed (R222). -/
def versionsLost (n : Nat × Nat) (s : State) : State :=
  { s with tau := { s.tau with
      pendCount := s.tau.pendCount - n.1, prevCount := s.tau.prevCount - n.2, reclaim := s.tau.reclaim + n.1 + n.2 } }

/-- A row is left with its current version. -/
def rowCurrent (s : State) (e : Nat × TRow) : State :=
  setRow (e.1 / 4096) (e.1 % 4096) { e.2 with pset := false, vset := false } s

/-- A table as it waits for its clearing. -/
def tableWaits (t : Nat) (n : Nat × Nat) (s : State) : State := (tableRows s t).foldl rowCurrent (versionsLost n s)

theorem tableWaits_leaves (t : Nat) (n : Nat × Nat) (s : State) :
    (tableWaits t n s).regs = s.regs ∧ clearView (tableWaits t n s) = clearView s :=
  ⟨foldl_leaves (view := State.regs) (f := rowCurrent) (fun _ _ => rfl) (tableRows s t) (versionsLost n s),
    foldl_leaves (view := clearView) (f := rowCurrent) (fun _ _ => rfl) (tableRows s t) (versionsLost n s)⟩

/-- R222: EN clears, and the table's clearing waits. -/
theorem tcamTableDisable_of_enabled {s : State} {t : TcamTable} (hon : tcamEn s t.val = true) (v : Word) :
    ∃ n job, exec (.tcamTableDisable t v) s = .next (giveDuty (.tcamClear t.val) 12 13
      (withTcam (fun x => { x with
        clr := x.clr ++ [job]
        resp := x.resp.map (fun j => if j.table = t.val then { j with moves := [], half := false } else j) })
        (tableWaits t.val n (tableClosed t.val v s)))) := by
  change ∃ n job, execTcamTableDisable t v s = _
  unfold execTcamTableDisable
  rw [if_pos hon]
  exact ⟨_, _, rfl⟩

/-! ### The end of a clearing -/

/-- STATE of a bank that its table gives up: 3 where it was retired or waited for an exchange, and 0 otherwise. -/
def stateFreed (s : State) (b : Nat) : Nat :=
  if bankState s b = 3 then 3 else if s.tcam.sparing.any (fun e => decide (e.1 = b)) then 3 else 0

theorem bankState_freeBank (s : State) (b d : Nat) :
    bankState (freeBank b s) d = if d = b then stateFreed s d else bankState s d := by
  unfold freeBank stateFreed
  by_cases hd : d = b
  · subst hd
    rw [if_pos rfl]
    split
    · assumption
    · split <;> exact (bankState_setBankState (by decide) d _ d).trans (if_pos rfl)
  · rw [if_neg hd]
    split
    · rfl
    · split <;> exact (bankState_setBankState (by decide) b _ d).trans (if_neg hd)

/-- Whether a bank waits for an exchange does not depend on another bank. -/
theorem awaits_freeBank_ne {b d : Nat} (hd : d ≠ b) (s : State) :
    (freeBank b s).tcam.sparing.any (fun e => decide (e.1 = d)) = s.tcam.sparing.any (fun e => decide (e.1 = d)) := by
  unfold freeBank
  split
  · rfl
  · split
    · change (s.tcam.sparing.filter _).any _ = _
      rw [List.any_filter]
      refine congrArg (fun p => List.any _ p) (funext fun e => ?_)
      by_cases he : e.1 = d <;> simp [he, hd]
    · rfl

theorem stateFreed_freeBank (s : State) (b d : Nat) : stateFreed (freeBank b s) d = stateFreed s d := by
  by_cases hd : d = b
  · subst hd
    have hstate : bankState (freeBank d s) d = stateFreed s d := (bankState_freeBank s d d).trans (if_pos rfl)
    by_cases hgone : bankState s d = 3 ∨ s.tcam.sparing.any (fun e => decide (e.1 = d)) = true
    · have h3 : stateFreed s d = 3 := by
        obtain h | h := hgone <;> simp [stateFreed, h]
      rw [h3] at hstate ⊢
      exact if_pos hstate
    · obtain ⟨hlive, hstays⟩ := not_or.1 hgone
      have hset : freeBank d s = setBankState d 0 s := by rw [freeBank, if_neg hlive, if_neg hstays]
      have h0 : stateFreed s d = 0 := by rw [stateFreed, if_neg hlive, if_neg hstays]
      rw [stateFreed, hstate, h0, hset]
      exact if_neg hstays
  · rw [stateFreed, bankState_freeBank, if_neg hd, awaits_freeBank_ne hd, stateFreed]

/-- The banks that a cleared table gives up: those of its run, and its spare. -/
def clearedBanks (w : Word) : List Nat := cfgBanks w ++ if bit w 39 then [fld w 45 40] else []

theorem mem_clearedBanks {w : Word} {b : Nat} :
    b ∈ clearedBanks w ↔ b ∈ cfgBanks w ∨ (bit w 39 = true ∧ b = fld w 45 40) := by
  unfold clearedBanks
  split <;> simp [*]

/-- The TCAM once the rows of a table are gone, its banks still to be given up. -/
def rowsCleared (j : ClrJob) (rest : List ClrJob) (s : State) : State :=
  withTcam (fun x => { x with
    clr := rest, rows := x.rows.filter (fun e => !(cfgBanks j.cfg).contains (e.1 / 4096)) }) s

/-- The banks of a cleared table given up. -/
def banksFreed (j : ClrJob) (rest : List ClrJob) (s : State) : State :=
  (clearedBanks j.cfg).foldl (fun s b => freeBank b s) (rowsCleared j rest s)

theorem freeBank_leaves (b : Nat) (s : State) : (freeBank b s).tcam.clr = s.tcam.clr ∧
    (freeBank b s).tcam.rows = s.tcam.rows ∧ (freeBank b s).tau = s.tau := by
  unfold freeBank
  split
  · exact ⟨rfl, rfl, rfl⟩
  · split <;> exact ⟨rfl, rfl, rfl⟩

theorem banksFreed_says (j : ClrJob) (rest : List ClrJob) (s : State) : let u := banksFreed j rest s
    u.tcam.clr = rest ∧ (∀ e ∈ u.tcam.rows, e.1 / 4096 ∉ cfgBanks j.cfg) ∧ u.tau = s.tau ∧
    ∀ b ∈ clearedBanks j.cfg, bankState u b = stateFreed s b := by
  have hleaves : ∀ x b, ((freeBank b x).tcam.clr, (freeBank b x).tcam.rows, (freeBank b x).tau) =
      (x.tcam.clr, x.tcam.rows, x.tau) := by
    intro x b
    obtain ⟨hclr, hrows, htau⟩ := freeBank_leaves b x
    rw [hclr, hrows, htau]
  have hview := foldl_leaves (view := fun x => (x.tcam.clr, x.tcam.rows, x.tau)) hleaves (clearedBanks j.cfg)
    (rowsCleared j rest s)
  obtain ⟨hclr, hrows, htau⟩ := by simpa only [Prod.mk.injEq] using hview
  refine ⟨hclr, fun e he => ?rows, htau, fun b hb => ?state⟩
  case rows =>
    rw [banksFreed, hrows] at he
    simpa using (List.mem_filter.1 he).2
  case state =>
    have hrun := bankState_foldl (bank := id) (given := stateFreed) (fun x b d => bankState_freeBank x b d)
      (fun x b d => stateFreed_freeBank x b d) (clearedBanks j.cfg) (rowsCleared j rest s) b
    exact hrun.trans (if_pos (by simpa using hb))

/-- R222: the clearing that is done is the first of its table. -/
theorem tcamTableClearDone_frees {s : State} {t : TcamTable} {j : ClrJob} {rest : List ClrJob}
    (hup : dutyDown s (.tcamClear t.val) = false) (hclr : s.tcam.clr = j :: rest) (hj : j.table = t.val) :
    ∃ n, exec (.tcamTableClearDone t) s = .next (endDuty (.tcamClear t.val)
      { occur 5 3 0 n (banksFreed j rest s) with
        tau := { (banksFreed j rest s).tau with reclaim := (banksFreed j rest s).tau.reclaim - j.storage } }) := by
  change ∃ n, execTcamTableClearDone t s = _
  refine ⟨fld j.cfg 54 48 * bankEntries (fld j.cfg 47 46), ?_⟩
  unfold banksFreed clearedBanks
  rw [List.foldl_append]
  simp only [execTcamTableClearDone, hup, hclr, takeFirst, hj, Bool.false_eq_true, if_false, decide_true, if_true]
  split <;> rfl

end Sys2Proof.Proofs
end

section
/-! SUPPORT. The scrub sweep, and the retirement of a bank with or without the exchange for its table's spare (R242 to
R245). -/

namespace Sys2Proof.Proofs
open Sys2Proof Sys2Proof.Machine Sys2Proof.Laws

/-! ### The scrub sweep -/

/-- The sweep goes on to the row that follows, and its turn counts from now (R242). -/
def scrubMoved (b r : Nat) (s : State) : State :=
  occur 5 3 0 1 (withTcam (fun x => { x with scrubAt := 4096 * b + r + 1, scrubLast := s.tau.mono }) s)

/-- R243: an event of a row is shown with its bank and its row, and no row changes. -/
theorem tcamEvent_says {kind b r : Nat} (hkind : kind < 4) (hb : b < 64) (hr : r < 4096) (cls : Nat) (s : State) :
    (tcamEvent kind b r cls s).tcam = s.tcam ∧ rfld (tcamEvent kind b r cls s) R.TCM_VERIFY_STAT 0 63 58 = b ∧
    rfld (tcamEvent kind b r cls s) R.TCM_VERIFY_STAT 0 57 46 = r := by
  have hcount : satAdd 32 (rfld s R.TCM_VERIFY_STAT 0 31 0) 1 < 2 ^ 32 := by
    unfold satAdd
    omega
  unfold tcamEvent
  dsimp only
  generalize satAdd 32 (rfld s R.TCM_VERIFY_STAT 0 31 0) 1 = n at hcount
  have herr := fun x => errOnly_errReport cls 5 (if cls = 1 then 3 else 15) (if cls = 1 then b else 0) kind
    (BitVec.ofNat 64 (b * 4096 + r)) x
  refine ⟨?tcam, ?bank, ?row⟩
  case tcam => rw [(herr _).1, rset_tcam]
  all_goals
    rw [(herr _).rfld (by decide), rfld, rget_rset_self, fld, BitVec.toNat_ofNat, Nat.shiftRight_eq_div_pow]
    omega

section
variable {s : State} {b : TcamBank} {r : TcamRow}

theorem tcamScrubRead_of_not_due (h : scrubNext s ≠ some (4096 * b.val + r.val) ∨ tcamScrubDue s = false)
    (z : ScrubResult) : exec (.tcamScrubRead b r z) s = .next s := by
  change execTcamScrubRead b r z s = _
  refine if_neg ?_
  obtain h | h := h <;> simp [h]

variable (hen : rbit s R.TCM_SCRUB_CFG 0 63 = true) (hnext : scrubNext s = some (4096 * b.val + r.val))
  (hdue : tcamScrubDue s = true)
include hen hnext hdue

/-- R242: a row that agrees with its shadow is passed. -/
theorem tcamScrubRead_clean : exec (.tcamScrubRead b r .clean) s = .next (scrubMoved b.val r.val s) :=
  if_pos (by simp [hen, hnext, hdue])

/-- R241, R243: a row with an uncorrectable shadow is quarantined and reported. -/
theorem tcamScrubRead_uncorrectable : exec (.tcamScrubRead b r .uncorrectable) s =
    .next (tcamEvent 2 b.val r.val 2 (quarantine b.val r.val (scrubMoved b.val r.val s))) :=
  if_pos (by simp [hen, hnext, hdue])

end

theorem quar_quarantine (b r : Nat) (s : State) : (trow (quarantine b r s) b r).quar = true :=
  congrArg TRow.quar (mget_mset_self _ _ _ _)

/-! ### Retirement without a spare -/

/-- The table of a bank depends on the tables' registers alone. -/
theorem tableOfBank_of_err {s u : State} (h : ErrOnly s u) (b : Nat) : tableOfBank u b = tableOfBank s b := by
  refine List.find?_congr fun t ht => ?_
  have hcfg := h.rget (tableCfg_notErr (List.mem_range.1 ht))
  rw [tcamEn_congr hcfg, inTable_congr hcfg]

/-- R245: a retired bank of a table without a spare is out at once. -/
theorem tcamBankRetire_out {s : State} {b : TcamBank} {sw : Bool} {t : TcamTable} (hdue : retireDue s 3 b.val sw = true)
    (htable : tableOfBank s b.val = some t.val) (hspare : spareOf s t.val = none) :
    exec (.tcamBankRetire b sw) s = .next (bankOut b.val (retireMark 3 b.val sw 0 s)) := by
  obtain ⟨-, herr⟩ := retireMark_says 3 b.val 0 sw s
  have htable' := (tableOfBank_of_err herr b.val).trans htable
  have hspare' := (spareOf_congr (herr.rget (tableCfg_notErr t.isLt))).trans hspare
  change execTcamBankRetire b sw s = _
  simp only [execTcamBankRetire, hdue, if_true, htable', hspare']
  rfl

theorem bankOut_says (b : Nat) (s : State) : bankState (bankOut b s) b = 3 ∧ (bankOut b s).err = s.err ∧
    ∀ e ∈ (bankOut b s).tcam.rows, e.1 / 4096 ≠ b := by
  refine ⟨(bankState_bankOut b s b).trans (if_pos rfl), rfl, fun e he => ?_⟩
  rw [rows_bankOut] at he
  simpa using (List.mem_filter.1 he).2

/-! ### The exchange -/

/-- Two logical banks exchange their physical banks (R244). -/
def physSwapped (b sp : Nat) (s : State) : State :=
  rsetF (rsetF s R.TCM_BANK_CFG b 53 48 (rfld s R.TCM_BANK_CFG sp 53 48)) R.TCM_BANK_CFG sp 53 48
    (rfld s R.TCM_BANK_CFG b 53 48)

/-- A bank of a table and its spare exchanged: the spare's number is retired, and SPARE_EN clears (R244). -/
def exchanged (t b sp : Nat) (rest : List (Nat × Nat)) (s : State) : State :=
  withTcam (fun x => { x with sparing := rest }) (rsetF (setBankState sp 3 (physSwapped b sp s)) R.TCM_TABLE_CFG t 39 39 0)

/-- R244: the copy of the bank that waited first is complete. -/
theorem tcamSpareExchange_swaps {s : State} {t : TcamTable} {b sp : Nat} {rest : List (Nat × Nat)}
    (hon : tcamEn s t.val = true) (hup : dutyDown s (.spareCopy b) = false) (hwaits : s.tcam.sparing = (b, t.val) :: rest)
    (hspare : spareOf s t.val = some sp) : ∃ n, exec (.tcamSpareExchange t) s =
      .next (lostSpares (exchanged t.val b sp rest (endDuty (.spareCopy b) (occur 5 3 0 n s)))) := by
  change ∃ n, execTcamSpareExchange t s = _
  simp only [execTcamSpareExchange, hon, hup, hwaits, hspare, takeFirst, Bool.not_true, Bool.false_eq_true, if_false,
    decide_true, Bool.not_false, Bool.and_self, if_true]
  exact ⟨_, rfl⟩

section
variable {t b sp : Nat} (rest : List (Nat × Nat)) (s : State)

theorem tableCfg_physSwapped {u : Nat} (hu : u < 16) :
    rget (physSwapped b sp s) R.TCM_TABLE_CFG u = rget s R.TCM_TABLE_CFG u :=
  (tableCfg_rsetF_bank hu _ sp _ _ _).trans (tableCfg_rsetF_bank hu s b _ _ _)

theorem tableCfg_exchanged_self (ht : t < 16) : rget (exchanged t b sp rest s) R.TCM_TABLE_CFG t =
    setFld (rget s R.TCM_TABLE_CFG t) 39 39 0 := by
  rw [exchanged, rget_of_regs (withTcam_regs _ _), rget_rsetF_self, tableCfg_setBankState ht, tableCfg_physSwapped s ht]

theorem tableCfg_exchanged_ne {u : Nat} (hu : u < 16) (hne : u ≠ t) :
    rget (exchanged t b sp rest s) R.TCM_TABLE_CFG u = rget s R.TCM_TABLE_CFG u := by
  rw [exchanged, rget_of_regs (withTcam_regs _ _), rget_rsetF_ne (tableCfg_ne hne), tableCfg_setBankState hu, tableCfg_physSwapped s hu]

theorem spareOf_exchanged_self (ht : t < 16) : spareOf (exchanged t b sp rest s) t = none := by
  refine if_neg ?_
  rw [rbit, tableCfg_exchanged_self rest s ht, bit_setFld_bit _ _ _ (by decide)]
  decide

theorem tcamEn_exchanged_self (ht : t < 16) : tcamEn (exchanged t b sp rest s) t = tcamEn s t := by
  rw [tcamEn, rbit, tableCfg_exchanged_self rest s ht, bit_setFld_ne _ _ (by decide) (by decide) (by decide)]
  rfl

theorem bankCfg_exchanged (ht : t < 16) (d : Nat) : rget (exchanged t b sp rest s) R.TCM_BANK_CFG d =
    rget (setBankState sp 3 (physSwapped b sp s)) R.TCM_BANK_CFG d := by
  rw [exchanged, rget_of_regs (withTcam_regs _ _), bankCfg_rsetF_table ht]

theorem bankState_physSwapped (hne : b ≠ sp) : bankState (physSwapped b sp s) b = bankState s b := by
  unfold bankState physSwapped
  rw [rfld, rget_rsetF_ne (bankCfg_ne hne), ← rfld]
  exact rfld_rsetF_apart _ _ _ _ (by decide) (by decide) (by decide)

theorem bankState_exchanged (ht : t < 16) (hne : b ≠ sp) : bankState (exchanged t b sp rest s) sp = 3 ∧
    bankState (exchanged t b sp rest s) b = bankState s b := by
  have hsame : ∀ d, bankState (exchanged t b sp rest s) d = bankState (setBankState sp 3 (physSwapped b sp s)) d :=
    fun d => congrArg (fld · 63 62) (bankCfg_exchanged rest s ht d)
  rw [hsame, hsame, bankState_setBankState (by decide), bankState_setBankState (by decide), if_pos rfl, if_neg hne]
  exact ⟨rfl, bankState_physSwapped s hne⟩

theorem phys_exchanged (ht : t < 16) (hne : b ≠ sp) :
    rfld (exchanged t b sp rest s) R.TCM_BANK_CFG b 53 48 = rfld s R.TCM_BANK_CFG sp 53 48 ∧
    rfld (exchanged t b sp rest s) R.TCM_BANK_CFG sp 53 48 = rfld s R.TCM_BANK_CFG b 53 48 := by
  have hsame : ∀ d, rfld (exchanged t b sp rest s) R.TCM_BANK_CFG d 53 48 =
      rfld (physSwapped b sp s) R.TCM_BANK_CFG d 53 48 := fun d =>
    (congrArg (fld · 53 48) (bankCfg_exchanged rest s ht d)).trans (phys_setBankState sp 3 _ d)
  have hsmall : ∀ d, rfld s R.TCM_BANK_CFG d 53 48 % 2 ^ (53 + 1 - 48) = rfld s R.TCM_BANK_CFG d 53 48 :=
    fun d => Nat.mod_eq_of_lt (fld_lt _ _ _)
  rw [hsame, hsame]
  unfold physSwapped
  constructor
  · rw [rfld, rget_rsetF_ne (bankCfg_ne hne), ← rfld, rfld_rsetF_self _ _ _ _ _ _ (by decide) (by decide), hsmall]
  · rw [rfld_rsetF_self _ _ _ _ _ _ (by decide) (by decide), hsmall]

/-- Where every bank that still waits is of another table with a spare, none is lost. -/
theorem goneSpares_exchanged (h : ∀ e ∈ rest, e.2 < 16 ∧ e.2 ≠ t ∧ (spareOf s e.2).isSome = true) :
    goneSpares (exchanged t b sp rest s) = [] := by
  refine goneSpares_of_held fun e he => ?_
  obtain ⟨hlt, hne, hheld⟩ := h e he
  rw [spareOf_congr (tableCfg_exchanged_ne rest s hlt hne)]
  exact hheld

/-- R244, R245: what an exchange leaves of its bank, of its spare and of the banks that still wait. -/
theorem lostSpares_exchanged_says (ht : t < 16) (hon : tcamEn s t = true) (hne : b ≠ sp) :
    let x := lostSpares (exchanged t b sp rest s)
    rfld x R.TCM_BANK_CFG b 53 48 = rfld s R.TCM_BANK_CFG sp 53 48 ∧
    rfld x R.TCM_BANK_CFG sp 53 48 = rfld s R.TCM_BANK_CFG b 53 48 ∧ bankState x sp = 3 ∧ spareOf x t = none ∧
    (∀ d, (d, t) ∈ rest → bankState x d = 3 ∧ ∀ e ∈ x.tcam.rows, e.1 / 4096 ≠ d) ∧
    ((∀ e ∈ rest, e.2 < 16 ∧ e.2 ≠ t ∧ (spareOf s e.2).isSome = true) →
      bankState x b = bankState s b ∧ x.tcam.sparing = rest ∧ x.tcam.rows = s.tcam.rows) := by
  obtain ⟨hphys, hphys'⟩ := phys_exchanged rest s ht hne
  obtain ⟨hspare, hbank⟩ := bankState_exchanged rest s ht hne
  refine ⟨(phys_lostSpares _ b).trans hphys, (phys_lostSpares _ sp).trans hphys', bankState_lostSpares_retired hspare,
    (spareOf_congr (tableCfg_lostSpares ht _)).trans (spareOf_exchanged_self rest s ht), fun d hd => ?lost, fun h => ?kept⟩
  case lost =>
    have hgone : (d, t) ∈ goneSpares (exchanged t b sp rest s) :=
      mem_goneSpares hd ((tcamEn_exchanged_self rest s ht).trans hon) (spareOf_exchanged_self rest s ht)
    have hmem : d ∈ (goneSpares (exchanged t b sp rest s)).map Prod.fst := List.mem_map.2 ⟨_, hgone, rfl⟩
    exact ⟨(bankState_lostSpares _ d).trans (if_pos hmem), rows_lostSpares hmem⟩
  case kept =>
    rw [lostSpares_of_none (goneSpares_exchanged rest s h)]
    exact ⟨hbank, rfl, rfl⟩

end

/-! ### The statement -/

/-- Settles O29: a table is enabled, disabled and cleared, the sweep takes a row in its turn, and a bank is retired at once
or exchanged for the spare. -/
theorem tcamTablesAndBanks : Obligations.TcamTablesAndBanks := by
  intro s t v en
  refine ⟨fun hoff _ hfits hspare => ?enable, fun hon => ?disable, fun j rest hup hclr hj => ?clear,
    fun b r hen => ⟨fun h => tcamScrubRead_of_not_due h, fun hnext hdue => ⟨?clean, ?uncorrectable⟩⟩,
    fun b sw hdue htable hspare => ?retire, fun b rest sp hon hup hwaits hspare _ _ hne => ?exchange⟩
  case enable =>
    obtain ⟨hen, hstate, hrest⟩ := banksTaken_says t.isLt (hostStore false R.TCM_TABLE_CFG t.val v s)
    refine ⟨banksTaken t.val (hostStore false R.TCM_TABLE_CFG t.val v s), ?_, hen, hstate, ?_⟩
    · rw [← tcamEnable_of_fits t.isLt hfits hspare]
      exact if_neg (Bool.eq_false_iff.1 hoff)
    · rw [hostStore_tableCfg_eq] at hrest
      exact hrest
  case disable =>
    obtain ⟨n, job, hexec⟩ := tcamTableDisable_of_enabled hon v
    obtain ⟨hregs, hview⟩ := tableWaits_leaves t.val n (tableClosed t.val v s)
    rw [clear_tableClosed] at hview
    generalize tableWaits t.val n (tableClosed t.val v s) = u at hexec hregs hview
    simp only [clearView, Prod.mk.injEq] at hview
    obtain ⟨hsen, hlkp, hclr⟩ := hview
    refine ⟨_, hexec, ?_, ?_, hsen, hlkp⟩
    · change rbit _ R.TCM_TABLE_CFG t.val 63 = false
      rw [rbit, rget_of_regs (giveDuty_regs _ _ _ _), rget_of_regs (withTcam_regs _ _), rget_of_regs hregs, ← rbit,
        tableClosed, rbit_rsetF_bit _ _ _ _ _ (by decide)]
      rfl
    · exact (congrArg (fun l => (l ++ [job]).length) hclr).trans List.length_append
  case clear =>
    obtain ⟨n, hexec⟩ := tcamTableClearDone_frees hup hclr hj
    obtain ⟨hrest, hrows, htau, hstate⟩ := banksFreed_says j rest s
    refine ⟨_, hexec, hrest, hrows, fun b hb _ hlive => ?_, ?_⟩
    · exact (hstate b (mem_clearedBanks.2 hb)).trans (if_neg hlive)
    · simp only [endDuty_tau, htau]
  case clean => exact ⟨_, tcamScrubRead_clean hen hnext hdue, rfl⟩
  case uncorrectable =>
    obtain ⟨hrow, hbank, hat⟩ := tcamEvent_says (by decide : 2 < 4) b.isLt r.isLt 2
      (quarantine b.val r.val (scrubMoved b.val r.val s))
    refine ⟨_, tcamScrubRead_uncorrectable hen hnext hdue, ?_, hbank, hat⟩
    rw [trow, hrow]
    exact quar_quarantine b.val r.val _
  case retire =>
    obtain ⟨hretired, -⟩ := retireMark_says 3 b.val 0 sw s
    obtain ⟨hstate, herr, hrows⟩ := bankOut_says b.val (retireMark 3 b.val sw 0 s)
    refine ⟨_, tcamBankRetire_out hdue htable hspare, hstate, ?_, hrows⟩
    rw [unitGet, herr]
    exact hretired
  case exchange =>
    obtain ⟨n, hexec⟩ := tcamSpareExchange_swaps hon hup hwaits hspare
    obtain ⟨hphys, hphys', hstate, hnone, hlost, hkept⟩ := lostSpares_exchanged_says (t := t.val) rest
      (endDuty (.spareCopy b) (occur 5 3 0 n s)) t.isLt hon hne
    exact ⟨_, hexec, hphys, hphys', hstate, hnone, fun d hd _ => hlost d hd, hkept⟩

end Sys2Proof.Proofs
end

section
/-! O32: the secure associations of a port, enabled and removed (R258, R259, R461, R463), and the switches between them
with the overlap on receive (R260). -/

namespace Sys2Proof.Proofs
open Sys2Proof Sys2Proof.Machine Sys2Proof.Laws

/-! ### The registers of an association -/

theorem msecSa_fields : R.LIU_MSEC_SA.fields.Pairwise Apart ∧ ∀ f ∈ R.LIU_MSEC_SA.fields, f.lo ≤ f.hi ∧ f.hi < 64 := by
  decide

theorem hostStore_msecSa (i : Nat) (v : Word) (s : State) : hostStore false R.LIU_MSEC_SA i v s =
    rset s R.LIU_MSEC_SA i (writeReg false R.LIU_MSEC_SA (rget s R.LIU_MSEC_SA i) v) := by
  rw [hostStore, noteWas_of_not_late (by decide)]
  rfl

/-- R258: SLOT is stored as it is written. -/
theorem slot_hostStore_msecSa (i : Nat) (v : Word) (s : State) :
    rfld (hostStore false R.LIU_MSEC_SA i v s) R.LIU_MSEC_SA i 47 32 = fld v 47 32 := by
  rw [hostStore_msecSa, rfld, rget_rset_self, fld_writeReg_any msecSa_fields.1 msecSa_fields.2 (rst := 0) (by decide)]

theorem msecSaStat_ne (i : Nat) : regAddr R.CPH_MSEC_SASTAT i ≠ regAddr R.LIU_MSEC_SA i := by
  simp only [regAddr, R.CPH_MSEC_SASTAT, R.LIU_MSEC_SA]
  omega

/-! ### Installing and removing -/

/-- What a change of a port's configuration keeps for the frames of its tick leaves the associations (R257, R260). -/
theorem cfgNote_keeps (p : Nat) (s : State) :
    cfgNote p s = { s with liu := { s.liu with ports := (cfgNote p s).liu.ports } } ∧
    (liuPort (cfgNote p s) p).sa = (liuPort s p).sa := by
  refine ⟨rfl, ?_⟩
  rw [cfgNote, liuPort_setLiuPort_self]

/-- An association installed with its key: STOP is clear, and EN stands (R461, R463). -/
def saOn (p d a : Nat) (k : SaKey) (s : State) : State :=
  let x := liuPort s p
  rsetF (rsetF (setLiuPort p { x with sa := mput x.sa (4 * d + a) k } s) R.CPH_MSEC_SASTAT (saIdx p d a) 63 60 0)
    R.LIU_MSEC_SA (saIdx p d a) 63 63 1

/-- R461: a slot of kind 1 that is given to MACsec and is not spoilt serves a receive association with its own key and salt. -/
theorem macsecSaEnable_captures {s : State} {p : Port} {a : An} {v : Word} (hoff : saEn s p.val 1 a.val = false)
    (hen : bit v 63 = true) (hkind : (slotOf s (fld v 47 32)).kind = 1) (hmac : (slotOf s (fld v 47 32)).macsec = true)
    (hgood : s.cph.bad.contains (fld v 47 32) = false) :
    exec (.macsecSaEnable p .rx a v) s = .next (saOn p.val 1 a.val
      ⟨fld v 47 32, (slotOf s (fld v 47 32)).key, (slotOf s (fld v 47 32)).salt, false⟩
      (cfgNote p.val (hostStore false R.LIU_MSEC_SA (saIdx p.val 1 a.val) v s))) := by
  have hslot := slot_hostStore_msecSa (saIdx p.val 1 a.val) v s
  have hcph : (hostStore false R.LIU_MSEC_SA (saIdx p.val 1 a.val) v s).cph = s.cph := by simp
  have hsame : slotOf (hostStore false R.LIU_MSEC_SA (saIdx p.val 1 a.val) v s) = slotOf s := by
    funext n
    simp only [slotOf, hcph]
  have hbad : fld v 47 32 ∉ s.cph.bad := by simpa using hgood
  change execMacsecSaEnable p .rx a v s = _
  simp [execMacsecSaEnable, saFields, hoff, hen, hslot, hsame, hkind, hmac, hbad, saOn]

theorem saOn_says (p d a : Nat) (k : SaKey) (s : State) :
    let t := saOn p d a k s
    saEn t p d a = true ∧ (liuPort t p).sa = mput (liuPort s p).sa (4 * d + a) k ∧
    rfld t R.CPH_MSEC_SASTAT (saIdx p d a) 63 60 = 0 ∧ t = { s with regs := t.regs, liu := t.liu } := by
  refine ⟨rbit_rsetF_bit _ _ _ _ _ (by decide), congrArg LiuPort.sa (liuPort_setLiuPort_self p _ s), ?_, rfl⟩
  rw [saOn, rfld, rget_rsetF_ne (msecSaStat_ne _), ← rfld, rfld_rsetF_self _ _ _ _ _ _ (by decide) (by decide),
    Nat.zero_mod]

theorem saOff_says (p d a : Nat) (s : State) :
    let t := saOff p d a s
    saEn t p d a = false ∧ (liuPort t p).sa = mdel (liuPort s p).sa (4 * d + a) ∧
    RegsBut [adr R.LIU_MSEC_SA (saIdx p d a)] s t ∧ t = { s with regs := t.regs, liu := t.liu } :=
  ⟨rbit_rsetF_bit _ _ _ _ _ (by decide), congrArg LiuPort.sa (liuPort_setLiuPort_self p _ s),
    regsBut_rsetF (fun _ _ => rfl) (List.mem_singleton_self _) _ _ _, rfl⟩

theorem macsecSaDisable_removes {s : State} {p : Port} {a : An} {v : Word} (hon : saEn s p.val 1 a.val = true)
    (hen : bit v 63 = false) :
    exec (.macsecSaDisable p .rx a v) s = .next (saOff p.val 1 a.val (cfgNote p.val s)) := by
  change execMacsecSaDisable p .rx a v s = _
  simp [execMacsecSaDisable, hon, hen]

/-! ### Switches -/

/-- R260: a switch of the transmit association that TX_AN does not name yet: TX_AN takes it where it is enabled, and the
failure is shown where it is not. -/
theorem msecSwitch_tx {s : State} {p : Port} {a : An} (h : rfld s R.LIU_MSEC_CFG p.val 55 54 ≠ a.val) :
    msecSwitch (p.val + 128 * a.val) s = if saEn s p.val 0 a.val then rsetF (cfgNote p.val s) R.LIU_MSEC_CFG p.val 55 54 a.val
      else rsetF (cfgNote p.val s) R.LIU_MSEC_CFG p.val 51 51 1 := by
  have hport : (p.val + 128 * a.val) % 128 = p.val := by omega
  have hassoc : (p.val + 128 * a.val) / 128 % 4 = a.val := by omega
  have hdir : (p.val + 128 * a.val) / 512 % 2 = 0 := by omega
  have hkeep : rfld (cfgNote p.val s) R.LIU_MSEC_CFG p.val 55 54 ≠ a.val := h
  unfold msecSwitch
  simp only [hport, hassoc, hdir, if_true, hkeep, if_false]
  rfl

theorem msecSwitch_tx_says {s : State} {p : Port} {a : An} (h : rfld s R.LIU_MSEC_CFG p.val 55 54 ≠ a.val) :
    let t := msecSwitch (p.val + 128 * a.val) s
    t.liu.switches = s.liu.switches ∧
    rfld t R.LIU_MSEC_CFG p.val 55 54 = (if saEn s p.val 0 a.val then a.val else rfld s R.LIU_MSEC_CFG p.val 55 54) ∧
    (saEn s p.val 0 a.val = false → rbit t R.LIU_MSEC_CFG p.val 51 = true) ∧ RegsBut [adr R.LIU_MSEC_CFG p.val] s t := by
  have hregs : ∀ hi lo n, RegsBut [adr R.LIU_MSEC_CFG p.val] s (rsetF (cfgNote p.val s) R.LIU_MSEC_CFG p.val hi lo n) :=
    fun _ _ _ => regsBut_rsetF (fun _ _ => rfl) (List.mem_singleton_self _) _ _ _
  have hsmall : a.val < 2 ^ (55 + 1 - 54) := a.isLt
  intro t
  rw [show t = _ from msecSwitch_tx h]
  by_cases hen : saEn s p.val 0 a.val = true
  · rw [if_pos hen, if_pos hen]
    refine ⟨rfl, ?_, fun hoff => absurd hen (Bool.eq_false_iff.1 hoff), hregs _ _ _⟩
    rw [rfld_rsetF_self _ _ _ _ _ _ (by decide) (by decide), Nat.mod_eq_of_lt hsmall]
  · rw [if_neg hen, if_neg hen]
    exact ⟨rfl, rfld_rsetF_apart _ _ _ _ (by decide) (by decide) (by decide),
      fun _ => rbit_rsetF_bit _ _ _ _ _ (by decide), hregs _ _ _⟩

/-- R260: the one switch that waits, of an earlier tick, acts and waits no more. -/
theorem macsecAssociationSwitch_one {s : State} {arg k : Nat} (hone : s.liu.switches = [(arg, k)]) (hk : k ≠ s.tau.mono)
    (hdone : arrivalsDone s = true) :
    exec .macsecAssociationSwitch s = .next (msecSwitch arg { s with liu := { s.liu with switches := [] } }) := by
  change execMacsecAssociationSwitch s = _
  simp [execMacsecAssociationSwitch, hdone, hone, hk, withLiu]

theorem macsecAssociationSwitch_waits {s : State} (h : arrivalsDone s = false) :
    exec .macsecAssociationSwitch s = .next s := by
  change execMacsecAssociationSwitch s = _
  simp [execMacsecAssociationSwitch, h]

theorem rxOverlapEnd_removes {s : State} {p : Port} {o until_ : Nat} (h : (liuPort s p.val).overlap = some (o, until_))
    (hup : timeUp s until_ = true) : exec (.rxOverlapEnd p) s = .next (setLiuPort p.val
      { liuPort (saOff p.val 1 o s) p.val with overlap := none } (saOff p.val 1 o s)) := by
  change execRxOverlapEnd p s = _
  simp only [execRxOverlapEnd, h, hup, if_true]

/-! ### The statement -/

/-- Settles O32: an association's key and registers as it is installed and removed, and a switch as it takes effect. -/
theorem secureAssociations : Obligations.SecureAssociations := by
  intro s p a v x i sl en
  refine ⟨fun hoff hen hkind hmac hgood => ?enable, fun hon hen => ?disable, rfl, macsecAssociationSwitch_waits,
    fun k hone hk hdone hne => ?switch, fun o until_ hover hup _ => ?overlap⟩
  case enable =>
    obtain ⟨hon, hsa, hstat, heq⟩ := saOn_says p.val 1 a.val ⟨fld v 47 32, sl.key, sl.salt, false⟩
      (cfgNote p.val (hostStore false R.LIU_MSEC_SA (saIdx p.val 1 a.val) v s))
    refine ⟨_, macsecSaEnable_captures hoff hen hkind hmac hgood, hon, ?_, hstat, ?_⟩
    · rw [hsa, (cfgNote_keeps _ _).2, liuPort_of_liu (hostStore_liu _ _ _ _ s)]
    · rw [heq, (cfgNote_keeps _ _).1, hostStore_msecSa]
      rfl
  case disable =>
    obtain ⟨hoff, hsa, hregs, heq⟩ := saOff_says p.val 1 a.val (cfgNote p.val s)
    refine ⟨_, macsecSaDisable_removes hon hen, hoff, ?_, hregs, heq⟩
    rw [hsa, (cfgNote_keeps _ _).2]
  case switch =>
    exact ⟨_, macsecAssociationSwitch_one hone hk hdone,
      msecSwitch_tx_says (s := { s with liu := { s.liu with switches := [] } }) hne⟩
  case overlap =>
    obtain ⟨hoff, hsa, -, -⟩ := saOff_says p.val 1 o s
    refine ⟨_, rxOverlapEnd_removes hover hup, ?_, hoff, ?_⟩
    · rw [liuPort_setLiuPort_self]
    · rw [liuPort_setLiuPort_self]
      dsimp only
      rw [hsa, mfind_mdel, if_pos rfl]

end Sys2Proof.Proofs
end

section
/-! SUPPORT. The defects of an OTN port as their register takes a value (R250, R266, R268, R270, R274, R275): what is shown,
and what the event lines, the port's LINK and the PM second that follow leave as it is. -/

namespace Sys2Proof.Proofs
open Sys2Proof Sys2Proof.Machine Sys2Proof.Laws

@[simp] theorem otnOf_setOtn_self (o : Nat) (x : Otn) (s : State) : otnOf (setOtn o x s) o = x := by
  simp [otnOf, setOtn, withLiu]

theorem otnOf_of_liu {s t : State} (h : t.liu = s.liu) (o : Nat) : otnOf t o = otnOf s o := by
  simp only [otnOf, h]

/-- Nothing changes but the entries that are on their way to the inboxes. -/
def EventsOnly (s t : State) : Prop := t = { s with sen := { s.sen with arrivals := t.sen.arrivals } }

theorem EventsOnly.trans {s t u : State} (h : EventsOnly s t) (h' : EventsOnly t u) : EventsOnly s u := by
  rw [EventsOnly, h', h]

theorem eventsOnly_eventLine (k : Nat) (ev : Word32) (s : State) : EventsOnly s (eventLine k ev s) := by
  unfold eventLine
  dsimp only
  split <;> rfl

theorem eventsOnly_ite (c : Prop) [Decidable c] (k : Nat) (ev : Word32) (s : State) :
    EventsOnly s (if c then eventLine k ev s else s) := by
  split
  · exact eventsOnly_eventLine k ev s
  · rfl

theorem otnDef_below (o : OtnPort) : regAddr R.LIU_OTN_DEF o.val < senBase ∧
    regAddr R.LIU_OTN_DEF o.val ≠ regAddr R.LIU_PORT_STAT (4 * o.val) := by
  simp only [regAddr, R.LIU_OTN_DEF, R.LIU_PORT_STAT, senBase]
  omega

/-- A change of LINK leaves the clocks and the threads. -/
theorem still_linkTo (p : Nat) (link lf rf ber : Bool) (s : State) : stillView (linkTo p link lf rf ber s) = stillView s := by
  have hshow := still_rsetF (r := R.LIU_PORT_STAT) (by decide) s p 63 60
    (link.toNat * 8 + lf.toNat * 4 + rf.toNat * 2 + ber.toNat)
  have hfall : ∀ x : State, stillView (tmgLinkFall p x) = stillView x := by
    intro x
    unfold tmgLinkFall
    split
    · exact (still_judgeElig _).trans (still_rsetF (by decide) x _ _ _ _)
    · rfl
  have hrise : ∀ x : State, stillView (tmgLinkRise p x) = stillView x := by
    intro x
    unfold tmgLinkRise
    split
    · exact still_rsetF (by decide) x _ _ _ _
    · rfl
  unfold linkTo linkEvent
  dsimp only
  split
  · rw [still_eventLine, hfall, still_rcount (by decide), hshow]
  · split
    · rw [still_eventLine, hrise, hshow]
    · exact hshow

/-- LIU_OTN_DEF of a port shows `w`; of the port itself the PM second alone has changed, and the threads are as they were. -/
structure DefsTaken (o : Nat) (w : Word) (s t : State) : Prop where
  shown : rget t R.LIU_OTN_DEF o = w
  port : ∃ pm, otnOf t o = { otnOf s o with pm := pm }
  threads : t.sen.threads = s.sen.threads

/-- The defects as they are shown and have marked the PM second, before LINK follows them (R274, R275). -/
def defsMarked (o : Nat) (w : Word) (s : State) : State :=
  let d := w ^^^ rget s R.LIU_OTN_DEF o
  let ev := BitVec.ofNat 32 w.toNat
  let t := rset s R.LIU_OTN_DEF o w
  let t := if d &&& defMask [3, 4, 5] ≠ 0 then eventLine (128 + 4 * o) ev t else t
  let t := if d &&& defMask [0, 1, 6, 7, 8, 9] ≠ 0 then eventLine (129 + 4 * o) ev t else t
  let x := otnOf t o
  setOtn o { x with pm := { x.pm with neDef := x.pm.neDef || nearDefect t o, feDef := x.pm.feDef || bit w 9 } } t

theorem setDefs_eq (o : Nat) (w : Word) (s : State) : setDefs o w s =
    if (bit w 3 || bit w 5 || bit w 6) && otnOn (defsMarked o w s) o then
      linkTo (4 * o) false true false false (defsMarked o w s)
    else defsMarked o w s := rfl

theorem defsTaken_defsMarked (o : Nat) (w : Word) (s : State) : DefsTaken o w s (defsMarked o w s) := by
  have hevents : ∀ (c c' : Prop) [Decidable c] [Decidable c'] (k k' : Nat) (ev : Word32) (x : State),
      let y := if c then eventLine k ev x else x
      EventsOnly x (if c' then eventLine k' ev y else y) :=
    fun c c' _ _ k k' ev x => (eventsOnly_ite c k ev x).trans (eventsOnly_ite c' k' ev _)
  unfold defsMarked
  dsimp only
  generalize hu : (if (w ^^^ rget s R.LIU_OTN_DEF o) &&& defMask [0, 1, 6, 7, 8, 9] ≠ 0 then _ else _) = u
  have hu : EventsOnly (rset s R.LIU_OTN_DEF o w) u := hu ▸ hevents ..
  have hregs : u.regs = (rset s R.LIU_OTN_DEF o w).regs := by rw [hu]
  have hliu : u.liu = s.liu := by rw [hu]; rfl
  refine ⟨?shown, ?port, ?threads⟩
  case shown => exact (rget_of_regs hregs _ _).trans (rget_rset_self _ _ _ _)
  case port =>
    rw [otnOf_setOtn_self, otnOf_of_liu hliu]
    exact ⟨_, rfl⟩
  case threads =>
    change u.sen.threads = s.sen.threads
    rw [hu]
    rfl

/-- R250, R268: the LINK of the port, which falls with the client words, reaches neither the defects nor the OTN port. -/
theorem defsTaken_setDefs (o : OtnPort) (w : Word) (s : State) : DefsTaken o.val w s (setDefs o.val w s) := by
  have hmarked := defsTaken_defsMarked o.val w s
  obtain ⟨hlow, hne⟩ := otnDef_below o
  rw [setDefs_eq]
  split
  · obtain ⟨hshown, ⟨pm, hport⟩, hthreads⟩ := hmarked
    exact ⟨(rget_linkTo _ _ _ _ _ hlow hne).trans hshown, ⟨pm, (otnOf_of_liu (liu_linkTo ..) _).trans hport⟩,
      (threads_of_still (still_linkTo ..)).trans hthreads⟩
  · exact hmarked

theorem bit_setBit_self (w : Word) {b : Nat} (hb : b < 64) (on : Bool) : bit (setBit w b on) b = on := by
  rw [setBit, bit_setFld_bit _ _ _ hb]
  cases on <;> rfl

theorem bit_setBit_ne (w : Word) {b j : Nat} (hb : b < 64) (hj : j ≠ b) (on : Bool) : bit (setBit w b on) j = bit w j :=
  bit_setFld_ne _ _ hb (Nat.le_refl b) (by omega)

theorem setDefs_pending (o : Nat) (w : Word) (s : State) : (setDefs o w s).pending = s.pending :=
  (setDefs_kept o w s (kept_refl s)).1

theorem setDef_eq (o b : Nat) (on : Bool) (s : State) :
    setDef o b on s = setDefs o (setBit (rget s R.LIU_OTN_DEF o) b on) s := rfl

theorem rbit_setDef_self (o : OtnPort) {b : Nat} (hb : b < 64) (on : Bool) (s : State) :
    rbit (setDef o.val b on s) R.LIU_OTN_DEF o.val b = on := by
  rw [setDef_eq, rbit, (defsTaken_setDefs o _ s).shown, bit_setBit_self _ hb]

/-- A defect that is set or cleared leaves the others. -/
theorem rbit_setDef_ne (o : OtnPort) {b j : Nat} (hb : b < 64) (hj : j ≠ b) (on : Bool) (s : State) :
    rbit (setDef o.val b on s) R.LIU_OTN_DEF o.val j = rbit s R.LIU_OTN_DEF o.val j := by
  rw [setDef_eq, rbit, (defsTaken_setDefs o _ s).shown, bit_setBit_ne _ hb hj, rbit]

theorem setDef_pending (o : Nat) (b : Nat) (on : Bool) (s : State) : (setDef o b on s).pending = s.pending := by
  rw [setDef_eq, setDefs_pending]

theorem setDef_threads (o : OtnPort) (b : Nat) (on : Bool) (s : State) :
    (setDef o.val b on s).sen.threads = s.sen.threads := by
  rw [setDef_eq, (defsTaken_setDefs o _ s).threads]

end Sys2Proof.Proofs
end

section
/-! O33: an OTN port's defects (R266, R270), the frame periods it receives and sends (R264 to R269, R272, R273), and its
PM seconds with their records (R275 to R278). -/

namespace Sys2Proof.Proofs
open Sys2Proof Sys2Proof.Machine Sys2Proof.Laws

/-! ### Defects -/

/-- R266: 3 ms are 4,800,000 ticks. -/
theorem lasted_of_timeUp {s : State} {m : Option Nat} (h : ∃ n, m = some n ∧ timeUp s (n + 4800000) = true) :
    lasted s m = true := by
  obtain ⟨n, rfl, hup⟩ := h
  rw [lasted, Option.any_some, threeMs, msTicks]
  exact hup

/-- A command that sets or clears one defect. -/
theorem sets_of_exec {c : Instr} {s : State} {o : OtnPort} {b : Nat} {on : Bool} (hb : b < 64)
    (h : exec c s = .next (setDef o.val b on s)) :
    Completes c s fun t => rbit t R.LIU_OTN_DEF o.val b = on ∧
      (∀ j, j < 64 → j ≠ b → rbit t R.LIU_OTN_DEF o.val j = rbit s R.LIU_OTN_DEF o.val j) ∧
      t.pending = s.pending ∧ t.sen.threads = s.sen.threads :=
  ⟨_, h, rbit_setDef_self o hb on s, fun _ _ hj => rbit_setDef_ne o hb hj on s, setDef_pending o.val b on s,
    setDef_threads o b on s⟩

section
variable {s : State} {o : OtnPort}

theorem dlofDeclare_sets (hon : otnOn s o.val = true) (h : lasted s (otnOf s o.val).oofSince = true) :
    exec (.dlofDeclare o) s = .next (setDef o.val 4 true s) := by
  change execDlofDeclare o s = _
  rw [execDlofDeclare, hon, h]
  rfl

theorem dlofClear_clears (h : lasted s (otnOf s o.val).inSince = true) :
    exec (.dlofClear o) s = .next (setDef o.val 4 false s) := by
  change execDlofClear o s = _
  rw [execDlofClear, if_pos h]

theorem dlomDeclare_sets (hon : otnOn s o.val = true) (h : lasted s (otnOf s o.val).lomSince = true) :
    exec (.dlomDeclare o) s = .next (setDef o.val 5 true s) := by
  change execDlomDeclare o s = _
  rw [execDlomDeclare, hon, h]
  rfl

theorem dlomClear_clears (h : lasted s (otnOf s o.val).mfasOkSince = true) :
    exec (.dlomClear o) s = .next (setDef o.val 5 false s) := by
  change execDlomClear o s = _
  rw [execDlomClear, if_pos h]

theorem dlosChange_follows (hon : otnOn s o.val = true) (on : Bool) :
    exec (.dlosChange o on) s = .next (setDef o.val 0 on s) := by
  change execDlosChange o on s = _
  rw [execDlosChange, if_pos hon]

theorem damChange_follows (hon : otnOn s o.val = true) (on : Bool) :
    exec (.damChange o on) s = .next (setDef o.val 1 on s) := by
  change execDamChange o on s = _
  rw [execDamChange, if_pos hon]

end

/-! ### A frame period in which nothing is found -/

theorem getD_of_all {α : Type} {l : List α} {d : α} (h : ∀ x ∈ l, x = d) (i : Nat) : l.getD i d = d := by
  rw [List.getD_eq_getElem?_getD]
  cases hi : l[i]? with
  | none => rfl
  | some x => exact h x (List.mem_of_getElem? hi)

/-- R264: a framer that hunts without a candidate, and finds nothing, hunts on. -/
theorem framerRun_idle : framerRun [] ⟨none, 0, []⟩ = ⟨none, 0, []⟩ := by decide

/-- The framers of a port after a frame period. -/
def framersAfter (x : Otn) (found : List (List Nat)) : List Framer :=
  x.framers.zipIdx.map (fun e => framerRun (found.getD e.2 []) e.1)

theorem framersAfter_idle {x : Otn} {found : List (List Nat)} (hfr : ∀ fr ∈ x.framers, fr = ⟨none, 0, []⟩)
    (hfound : ∀ l ∈ found, l = []) (i : Nat) : (framersAfter x found).getD i ⟨none, 0, []⟩ = ⟨none, 0, []⟩ := by
  refine getD_of_all (fun fr hmem => ?_) i
  obtain ⟨⟨g, j⟩, hin, rfl⟩ := List.mem_map.1 hmem
  rw [getD_of_all hfound, hfr g (List.fst_mem_of_mem_zipIdx hin), framerRun_idle]

/-- A port none of whose slices is in frame: dOOF lasts, and there is no multiframe to be judged (R264, R266). -/
def otnUnframed (s : State) (x : Otn) (fr : List Framer) : Otn :=
  { x with framers := fr, oofSince := some (x.oofSince.getD s.tau.mono), inSince := none, mfasBad := 0,
           lomSince := none, mfasOkSince := none }

/-- The end of a frame period on a port out of frame: its defects are shown, and no APS value is being received (R269). -/
def unframedEnd (o : Nat) (x : Otn) (w : Word) (s : State) : State :=
  let t := setDefs o w (setOtn o x s)
  setOtn o { otnOf t o with apsRun := (0, 0) } t

/-- What LIU_OTN_DEF shows then: every slice out of frame, and dOOF (R264). -/
def unframedDefs (w : Word) : Word := setBit (setFld w 15 12 15) 3 true

theorem otnRxFrame_unframed {s : State} {o : OtnPort} {f : OtnRxFrame} (hon : otnOn s o.val = true)
    (hfr : ∀ fr ∈ (otnOf s o.val).framers, fr = ⟨none, 0, []⟩) (hfound : ∀ l ∈ f.found, l = []) :
    let x := otnOf s o.val
    exec (.otnRxFrame o f) s = .next (unframedEnd o.val (otnUnframed s x (framersAfter x f.found))
      (unframedDefs (rget s R.LIU_OTN_DEF o.val)) s) := by
  have hhunt : (List.range 4).map (fun i => ((framersAfter (otnOf s o.val) f.found).getD i ⟨none, 0, []⟩).pos.isNone) =
      List.replicate 4 true := by
    simp only [framersAfter_idle hfr hfound]
    rfl
  unfold framersAfter at hhunt
  change execOtnRxFrame o f s = _
  unfold execOtnRxFrame
  simp only [hon, Bool.true_eq_false, if_false, hhunt]
  rfl

theorem unframedEnd_says (o : OtnPort) (x : Otn) {w : Word} (hw : bit w 3 = true) (s : State) :
    let t := unframedEnd o.val x w s
    rbit t R.LIU_OTN_DEF o.val 3 = true ∧ (otnOf t o.val).inSince = x.inSince ∧ (otnOf t o.val).oofSince = x.oofSince ∧
    (otnOf t o.val).apsRun = (0, 0) ∧ (otnOf t o.val).lomSince = x.lomSince ∧
    (otnOf t o.val).mfasOkSince = x.mfasOkSince := by
  obtain ⟨hshown, ⟨pm, hport⟩, -⟩ := defsTaken_setDefs o w (setOtn o.val x s)
  rw [otnOf_setOtn_self] at hport
  refine ⟨(congrArg (bit · 3) hshown).trans hw, ?_⟩
  simp only [unframedEnd, otnOf_setOtn_self, hport, and_self]

/-! ### The frame that is sent -/

/-- R267, R272, R273: the frame carries its words by the Cm that the frame before it signalled, and signals that of the next. -/
theorem otnTxFrame_sends {s : State} {o : OtnPort} (words : Nat) (hon : otnOn s o.val = true)
    (hnow : rbit s R.LIU_OTN_CFG o.val 63 = false ∨ comes s beforeOtnTx = false) :
    let x := otnOf s o.val
    ∃ cut jc aps a b c d, exec (.otnTxFrame o words) s =
      .next (emit (.otn (4 * o.val) (gmpWords x.txCm) jc aps a b c d)
        (rsetF (setOtn o.val { x with aFrac := (x.aFrac + words) % 65536, txMfas := (x.txMfas + 1) % 256,
                                      txCm := (x.aFrac + words) / 65536, txCut := cut } s)
          R.LIU_OTN_GMP o.val 49 36 x.txCm)) := by
  have hgo : ¬ (otnOn s o.val = false ∨ (rbit s R.LIU_OTN_CFG o.val 63 = true ∧ comes s beforeOtnTx = true)) := by
    simp only [hon, Bool.true_eq_false, false_or]
    rintro ⟨hword, hcomes⟩
    rcases hnow with h | h
    · exact Bool.false_ne_true (h.symm.trans hword)
    · exact Bool.false_ne_true (h.symm.trans hcomes)
  exact ⟨_, _, _, _, _, _, _, if_neg hgo⟩

/-- What a frame that leaves as event `e` changes: the port, TX_CM, and the outputs. -/
theorem otnSent_says (o : Nat) (e : OutEvent) (y : Otn) (cm : Nat) (s : State) :
    let t := emit e (rsetF (setOtn o y s) R.LIU_OTN_GMP o 49 36 cm)
    rfld t R.LIU_OTN_GMP o 49 36 = cm % 2 ^ 14 ∧ t.out = e :: s.out ∧ otnOf t o = y ∧
    RegsBut [adr R.LIU_OTN_GMP o] s t ∧ t = { s with regs := t.regs, liu := t.liu, out := t.out } :=
  ⟨rfld_rsetF_self (setOtn o y s) _ _ _ _ cm (by decide) (by decide), rfl, otnOf_setOtn_self o y s,
    regsBut_rsetF (fun _ _ => rfl) (List.mem_singleton_self _) _ _ _, rfl⟩

theorem otnTxFrame_waits {s : State} {o : OtnPort} (words : Nat) (hword : rbit s R.LIU_OTN_CFG o.val 63 = true)
    (hcomes : comes s beforeOtnTx = true) : exec (.otnTxFrame o words) s = .next s := if_pos (.inr ⟨hword, hcomes⟩)

/-! ### The demapper -/

/-- Slice 0 of a frame as the demapper and the PM second take it, once its defects are shown (R267, R268, R275). -/
def sliceTaken (o : Nat) (f : OtnRxFrame) (s : State) : State :=
  let x := otnOf s o
  let n := if [3, 5, 6].any (otnDef s o) then 0 else (gmpWords x.rxCm).countP id
  let next := (jcDecode f.jc).filter (fun cm => decide (cm ≤ 1904))
  let t := rsetF s R.LIU_OTN_GMP o 63 50 x.rxCm
  let pm := { x.pm with blocks := x.pm.blocks + 4, neEb := x.pm.neEb + min 4 f.bip, feEb := x.pm.feEb + min 4 f.bei }
  setOtn o { x with rxCm := next.getD x.rxCm, rxWords := x.rxWords + n, pm := pm }
    (if next.isNone then rcount t R.LIU_OTN_GMP o 31 16 1 else t)

/-- The APS monitor after a frame that is in frame (R269). -/
def apsAfter (o : Nat) (f : OtnRxFrame) (s : State) : State :=
  if otnDef s o 3 ∨ otnDef s o 5 then setOtn o { otnOf s o with apsRun := (0, 0) } s
  else if f.mfas.toNat % 8 = rfld s R.LIU_OTN_CFG o 4 2 then apsRx o f.aps.toNat s
  else s

theorem sliceRx_eq (o : Nat) (f : OtnRxFrame) (s : State) :
    ∃ w, sliceRx o f s = apsAfter o f (sliceTaken o f (setDefs o w s)) := ⟨_, rfl⟩

/-- The defects that a port shows, the Cm of its next frame, and the words it has delivered. -/
def demapView (o : Nat) (s : State) : Word × Nat × Nat :=
  (rget s R.LIU_OTN_DEF o, (otnOf s o).rxCm, (otnOf s o).rxWords)

theorem otnDef_ne_gmp (o : Nat) : regAddr R.LIU_OTN_DEF o ≠ regAddr R.LIU_OTN_GMP o := by
  simp only [regAddr, R.LIU_OTN_DEF, R.LIU_OTN_GMP]
  omega

theorem otnDef_ne_aps (o : Nat) : regAddr R.LIU_OTN_DEF o ≠ regAddr R.LIU_OTN_APS_RX o := by
  simp only [regAddr, R.LIU_OTN_DEF, R.LIU_OTN_APS_RX]
  omega

theorem demapView_of_events {s t : State} (h : EventsOnly s t) (o : Nat) : demapView o t = demapView o s := by
  rw [h]
  rfl

theorem demapView_setOtn_aps (o : Nat) (run : Nat × Nat) (s : State) :
    demapView o (setOtn o { otnOf s o with apsRun := run } s) = demapView o s := by
  simp only [demapView, otnOf_setOtn_self]
  rfl

theorem demapView_rset {r : Reg} {o : Nat} (h : regAddr R.LIU_OTN_DEF o ≠ regAddr r o) (s : State) (v : Word) :
    demapView o (rset s r o v) = demapView o s :=
  congrArg (fun w => (w, (otnOf s o).rxCm, (otnOf s o).rxWords)) (rget_rset_ne h s v)

theorem demapView_apsRx (o v : Nat) (s : State) : demapView o (apsRx o v s) = demapView o s := by
  unfold apsRx
  dsimp only
  generalize (if (otnOf s o).apsRun.1 = v then (v, (otnOf s o).apsRun.2 + 1) else (v, 1)) = run
  split
  · rw [demapView_of_events (eventsOnly_eventLine ..), rcount, rsetF, demapView_rset (otnDef_ne_aps o), rsetF,
      demapView_rset (otnDef_ne_aps o), demapView_setOtn_aps]
  · exact demapView_setOtn_aps o _ s

/-- R269: the APS monitor stands apart from the demapper. -/
theorem demapView_apsAfter (o : Nat) (f : OtnRxFrame) (s : State) : demapView o (apsAfter o f s) = demapView o s := by
  unfold apsAfter
  split
  · exact demapView_setOtn_aps o _ s
  · split
    · exact demapView_apsRx o _ s
    · rfl

theorem demapView_sliceTaken (o : Nat) (f : OtnRxFrame) (s : State) : demapView o (sliceTaken o f s) =
    (rget s R.LIU_OTN_DEF o, ((jcDecode f.jc).filter (fun cm => decide (cm ≤ 1904))).getD (otnOf s o).rxCm,
      (otnOf s o).rxWords + if [3, 5, 6].any (otnDef s o) then 0 else (gmpWords (otnOf s o).rxCm).countP id) := by
  have hdef : rget (sliceTaken o f s) R.LIU_OTN_DEF o = rget s R.LIU_OTN_DEF o := by
    change rget (if _ then _ else _ : State) R.LIU_OTN_DEF o = _
    split
    · rw [rget_rcount_ne (otnDef_ne_gmp o), rget_rsetF_ne (otnDef_ne_gmp o)]
    · exact rget_rsetF_ne (otnDef_ne_gmp o) ..
  rw [demapView, hdef, sliceTaken, otnOf_setOtn_self]

/-- R267, R268: the words of a frame are those of the Cm that stood before it, none where its client is lost; a good Cm of
its own is that of the next. -/
theorem sliceRx_says (o : OtnPort) (f : OtnRxFrame) (s : State) :
    let x := otnOf s o.val
    let y := sliceRx o.val f s
    (otnOf y o.val).rxCm = ((jcDecode f.jc).filter (fun cm => decide (cm ≤ 1904))).getD x.rxCm ∧
    (otnOf y o.val).rxWords = x.rxWords +
      (if [3, 5, 6].any (fun b => rbit y R.LIU_OTN_DEF o.val b) then 0 else (gmpWords x.rxCm).countP id) := by
  intro x y
  obtain ⟨w, hy⟩ := sliceRx_eq o.val f s
  obtain ⟨-, ⟨pm, hport⟩, -⟩ := defsTaken_setDefs o w s
  have hview := (congrArg (demapView o.val) hy).trans ((demapView_apsAfter ..).trans (demapView_sliceTaken ..))
  rw [hport] at hview
  obtain ⟨hdef, hcm, hwords⟩ : rget y R.LIU_OTN_DEF o.val = rget (setDefs o.val w s) R.LIU_OTN_DEF o.val ∧ _ ∧ _ := by
    simpa only [demapView, Prod.mk.injEq] using hview
  have hdefs : otnDef (setDefs o.val w s) o.val = fun b => rbit y R.LIU_OTN_DEF o.val b :=
    funext fun b => congrArg (bit · b) hdef.symm
  rw [hdefs] at hwords
  exact ⟨hcm, hwords⟩

/-! ### Performance monitoring -/

theorem pmSecondEnd_ends {s : State} {o : OtnPort} (hon : otnOn s o.val = true)
    (hover : (otnOf s o.val).pm.until_ ≤ phcSec (phcNow s)) (harr : arrivalsDone s = true)
    (hdecl : comes s (declares o) = false) (hdown : seqDown s 16 = true) :
    exec (.pmSecondEnd o) s = .next (pmEnd o.val false s) := by
  have hstill : seqDown (pmEnd o.val false s) 16 = true := hdown
  change execPmSecondEnd o s = _
  simp [execPmSecondEnd, hon, hover, harr, hdecl, hstill]

theorem otnPmRead_pops {s : State} {o : OtnPort} {w : Word} {rest : List Word} (h : (otnOf s o.val).fifo = w :: rest) :
    exec (.otnPmRead o) s = .next (answer (setBit w 63 true) (setOtn o.val { otnOf s o.val with fifo := rest } s)) := by
  change execOtnPmRead o s = _
  simp only [execOtnPmRead, h]

/-! ### The statement -/

/-- Settles O33: each command of a port is the one its conditions name, and what that leaves is said above. -/
theorem otnPorts : Obligations.OtnPorts := by
  intro s o x d sets long
  refine ⟨fun hon h => ?_, fun h => ?_, fun hon h => ?_, fun h => ?_, fun on hon => ⟨?_, ?_⟩,
    fun f hon hfr hfound => ?unframed, fun words _ hword hcomes => otnTxFrame_waits words hword hcomes,
    fun words hon hnow => ?sent, fun f => sliceRx_says o f s, fun hon hover harr hdecl hdown => ?second,
    fun w rest h => ?record⟩
  · exact sets_of_exec (by decide) (dlofDeclare_sets hon (lasted_of_timeUp h))
  · exact sets_of_exec (by decide) (dlofClear_clears (lasted_of_timeUp h))
  · exact sets_of_exec (by decide) (dlomDeclare_sets hon (lasted_of_timeUp h))
  · exact sets_of_exec (by decide) (dlomClear_clears (lasted_of_timeUp h))
  · exact sets_of_exec (by decide) (dlosChange_follows hon on)
  · exact sets_of_exec (by decide) (damChange_follows hon on)
  case unframed =>
    exact ⟨_, otnRxFrame_unframed hon hfr hfound, unframedEnd_says o _ (bit_setBit_self _ (by decide) true) s⟩
  case sent =>
    obtain ⟨cut, jc, aps, a, b, c, d, hexec⟩ := otnTxFrame_sends words hon hnow
    obtain ⟨hcm, hout, hport, hregs, heq⟩ := otnSent_says o.val _ _ _ s
    exact ⟨_, hexec, hcm, ⟨jc, aps, a, b, c, d, hout⟩, congrArg Otn.aFrac hport, congrArg Otn.txCm hport,
      congrArg Otn.txMfas hport, hregs, heq⟩
  case second =>
    refine ⟨_, pmSecondEnd_ends hon hover harr hdecl hdown, ?_, ?_, rfl⟩ <;> rw [pmEnd, otnOf_setOtn_self]
  case record =>
    exact ⟨_, otnPmRead_pops h, rfl, congrArg Otn.fifo (otnOf_setOtn_self o.val _ s), rfl⟩

end Sys2Proof.Proofs
end

section
/-! SUPPORT. What the rows of the traffic manager share: a register of the Q-die is served once the bridge has trained (R30),
and a run of bytes that a unit writes to its memory leaves every register before those of the memory controllers (R371,
R373, R384). -/

namespace Sys2Proof.Proofs
open Sys2Proof Sys2Proof.Machine Sys2Proof.Laws

theorem servedWrite_of_bridge {s : State} (h : s.bridgeUp = true) (off : Nat) (o : Out) : servedWrite off o s = o := by
  simp [servedWrite, h]

theorem servedRead_of_bridge {s : State} (h : s.bridgeUp = true) (off : Nat) (o : Out) : servedRead off o s = o := by
  simp [servedRead, h]

theorem MemOnly.bpm {s t : State} (h : MemOnly s t) : t.bpm = s.bpm := by rw [h.1]

/-! ### The registers before the memory controllers -/

/-- MCD_STATUS: the registers of both memory controllers lie from here on, and those of TMG before (R26). -/
def mcdBase : Nat := 0x1200000

/-- No register before the memory controllers' differs. -/
def BeforeMcd (s t : State) : Prop := ∀ a, a < mcdBase → mfind t.regs a = mfind s.regs a

theorem BeforeMcd.refl (s : State) : BeforeMcd s s := fun _ _ => rfl

theorem BeforeMcd.trans {s t u : State} (h : BeforeMcd s t) (h' : BeforeMcd t u) : BeforeMcd s u :=
  fun a ha => (h' a ha).trans (h a ha)

theorem BeforeMcd.rget {s t : State} (h : BeforeMcd s t) {r : Reg} {i : Nat} (hr : regAddr r i < mcdBase) :
    rget t r i = rget s r i := by
  simp only [Machine.rget, h _ hr]

theorem beforeMcd_of_regs {s t : State} (h : t.regs = s.regs) : BeforeMcd s t := fun _ _ => by rw [h]

theorem beforeMcd_withMem (m : MemCtl) (f : Mem → Mem) (s : State) : BeforeMcd s (withMem m f s) :=
  beforeMcd_of_regs (by cases m <;> rfl)

theorem beforeMcd_mReg {d h : Reg} (hd : mcdBase ≤ d.base) (hh : mcdBase ≤ h.base) (m : MemCtl) (s : State) (i : Nat)
    (v : Word) : BeforeMcd s (rset s (mReg m d h) i v) :=
  fun _ ha => mfind_rset_before (by cases m <;> assumption) s i v ha

theorem beforeMcd_mapLock (m : MemCtl) (s : State) : BeforeMcd s (mapLock m s) :=
  beforeMcd_mReg (by decide) (by decide) m s _ _

theorem beforeMcd_wakeChan (m : MemCtl) (c : Nat) (s : State) : BeforeMcd s (wakeChan m c s) := by
  unfold wakeChan
  split
  · exact (beforeMcd_withMem m _ s).trans (beforeMcd_mReg (by decide) (by decide) m _ _ _)
  · exact BeforeMcd.refl s

theorem beforeMcd_memAsk (m : MemCtl) (a : Nat) (s : State) : BeforeMcd s (memAsk m a s) := by
  unfold memAsk
  dsimp only
  split
  · exact beforeMcd_mapLock m s
  · exact ((beforeMcd_mapLock m s).trans (beforeMcd_withMem m _ _)).trans (beforeMcd_wakeChan m _ _)

theorem beforeMcd_memServe (m : MemCtl) (a : Nat) (write : Bool) (s : State) : BeforeMcd s (memServe m a write s) := by
  have hbank : BeforeMcd s (bankUse m a s) := beforeMcd_withMem m _ s
  unfold memServe
  dsimp only
  split
  · exact BeforeMcd.refl s
  · split <;> exact hbank

theorem beforeMcd_memUse (m : MemCtl) (a : Nat) (write : Bool) (s : State) : BeforeMcd s (memUse m a write s) := by
  have htake : BeforeMcd s (memTake m a s) := beforeMcd_withMem m _ s
  unfold memUse
  split
  · exact htake
  · exact (htake.trans (beforeMcd_memAsk m a _)).trans (beforeMcd_memServe m a write _)

theorem beforeMcd_memUses (m : MemCtl) (as : List Nat) (write : Bool) (s : State) :
    BeforeMcd s (memUses m as write s) := by
  induction as generalizing s with
  | nil => exact BeforeMcd.refl s
  | cons a as ih => exact (beforeMcd_memUse m a write s).trans (ih _)

end Sys2Proof.Proofs
end

section
/-! O34: the table window of the TMG (R281, R282), and the capture ring (R326 to R328). -/

namespace Sys2Proof.Proofs
open Sys2Proof Sys2Proof.Machine Sys2Proof.Laws

/-! ### The table window -/

theorem tableSize_range (t : Nat) : 0 < tableSize t ∧ tableSize t ≤ 2 ^ 19 := by
  by_cases h : t < 13
  · interval_cases t <;> decide
  · have hnone : tableSize t = 1 := List.getD_eq_default _ _ (Nat.le_of_not_lt h)
    omega

/-- Tables 13 to 15 have no array. -/
theorem tableWrite_beyond {t : Nat} (h : 13 ≤ t) (i : Nat) (v : Word) (s : State) : tableWrite t i v s = s := by
  have hnone : tableReg t = none := List.getD_eq_default _ _ h
  simp only [tableWrite, hnone]

theorem tableNext_eq (s : State) : tableNext s = { s with regs := (tableNext s).regs } := by
  unfold tableNext
  split <;> rfl

theorem regsBut_tableNext {as : List Nat} {s t : State} (h : RegsBut as s t) (ha : adr R.TMG_TBL_ADDR 0 ∈ as) :
    RegsBut as s (tableNext t) := by
  unfold tableNext
  split
  · exact regsBut_rsetF h ha _ _ _
  · exact h

/-- R281: with AUTO_INC an access moves INDEX to the next element, and from the last to the first. -/
def nextIndex (s : State) : Nat :=
  if rbit s R.TMG_TBL_ADDR 0 63 then
    (rfld s R.TMG_TBL_ADDR 0 18 0 + 1) % tableSize (rfld s R.TMG_TBL_ADDR 0 35 32)
  else rfld s R.TMG_TBL_ADDR 0 18 0

theorem index_tableNext (s : State) : rfld (tableNext s) R.TMG_TBL_ADDR 0 18 0 = nextIndex s := by
  obtain ⟨hpos, hle⟩ := tableSize_range (rfld s R.TMG_TBL_ADDR 0 35 32)
  have hfit := (Nat.mod_lt (rfld s R.TMG_TBL_ADDR 0 18 0 + 1) hpos).trans_le hle
  unfold tableNext nextIndex
  split
  · rw [rfld_rsetF_self _ _ _ _ _ _ (by decide) (by decide), Nat.mod_eq_of_lt hfit]
  · rfl

theorem nextIndex_congr {s t : State} (h : rget t R.TMG_TBL_ADDR 0 = rget s R.TMG_TBL_ADDR 0) :
    nextIndex t = nextIndex s := by
  unfold nextIndex rbit rfld
  rw [h]

theorem tableRead_array {t : Nat} {r : Reg} (h : tableReg t = some r) (ht : t ≠ 2) (s : State) (i : Nat) :
    tableRead s t i = rget s r i := by
  simp [tableRead, ht, h]

/-- R282: an element of table 2 shows whether its queue is in spill, and its cells. -/
theorem tableRead_queue {t : Nat} (ht : t = 2) (s : State) (i : Nat) :
    (tableRead s t i).toNat / 2 ^ 35 % 2 ^ 28 = occOf (queueOf s i) % 2 ^ 28 ∧
    bit (tableRead s t i) 63 = (queueOf s i).spill := by
  have hocc := Nat.mod_lt (occOf (queueOf s i)) (Nat.two_pow_pos 28)
  have havg := Nat.mod_lt ((queueOf s i).avg / 65536) (Nat.two_pow_pos 28)
  have hspill := Bool.toNat_lt (queueOf s i).spill
  have hword : (tableRead s t i).toNat = (queueOf s i).spill.toNat * 2 ^ 63 +
      occOf (queueOf s i) % 2 ^ 28 * 2 ^ 35 + (queueOf s i).avg / 65536 % 2 ^ 28 * 2 ^ 7 := by
    rw [tableRead, if_pos ht, BitVec.toNat_ofNat, Nat.mod_eq_of_lt (by omega)]
  have htop : (tableRead s t i).toNat / 2 ^ 63 % 2 = (queueOf s i).spill.toNat := by omega
  refine ⟨by omega, ?_⟩
  rw [bit, Nat.testBit_eq_decide_div_mod_eq, htop]
  cases (queueOf s i).spill <;> rfl

theorem mcEntry_ne_tblAddr (i : Nat) : regAddr R.TMG_MC_ENTRY i ≠ regAddr R.TMG_TBL_ADDR 0 := by
  simp only [regAddr, R.TMG_MC_ENTRY, R.TMG_TBL_ADDR]
  omega

section
variable {s : State} (hup : s.bridgeUp = true)
include hup

theorem tableDataWrite_writes (v : Word) : exec (.tableDataWrite v) s =
    .next (tableNext (tableWrite (rfld s R.TMG_TBL_ADDR 0 35 32) (rfld s R.TMG_TBL_ADDR 0 18 0) v s)) :=
  servedWrite_of_bridge hup _ _

theorem tableDataRead_reads : exec .tableDataRead s =
    .next (tableNext (answer (tableRead s (rfld s R.TMG_TBL_ADDR 0 35 32) (rfld s R.TMG_TBL_ADDR 0 18 0)) s)) :=
  servedRead_of_bridge hup _ _

end

/-- R281, R293: an element of table 10 takes the fields that are written. -/
def mcEntryWritten (i : Nat) (v : Word) (s : State) : State :=
  rset s R.TMG_MC_ENTRY i (writeReg false R.TMG_MC_ENTRY (rget s R.TMG_MC_ENTRY i) v)

theorem tableDataWrite_mcEntry {s : State} (hup : s.bridgeUp = true) (ht : rfld s R.TMG_TBL_ADDR 0 35 32 = 10) (v : Word) :
    exec (.tableDataWrite v) s = .next (tableNext (mcEntryWritten (rfld s R.TMG_TBL_ADDR 0 18 0) v s)) :=
  (tableDataWrite_writes hup v).trans (by rw [ht]; rfl)

/-- A write under a TABLE that names no table moves INDEX and nothing else. -/
theorem tableDataWrite_beyond {s : State} (hup : s.bridgeUp = true) (ht : 13 ≤ rfld s R.TMG_TBL_ADDR 0 35 32) (v : Word) :
    exec (.tableDataWrite v) s = .next (tableNext s) :=
  (tableDataWrite_writes hup v).trans (by rw [tableWrite_beyond ht])

theorem mcEntryWritten_says (i : Nat) (v : Word) (s : State) :
    let x := tableNext (mcEntryWritten i v s)
    rget x R.TMG_MC_ENTRY i = writeReg false R.TMG_MC_ENTRY (rget s R.TMG_MC_ENTRY i) v ∧
    rfld x R.TMG_TBL_ADDR 0 18 0 = nextIndex s ∧
    RegsBut [adr R.TMG_MC_ENTRY i, adr R.TMG_TBL_ADDR 0] s x ∧ x = { s with regs := x.regs } := by
  have hne := mcEntry_ne_tblAddr i
  have hnext : RegsBut [adr R.TMG_TBL_ADDR 0] (mcEntryWritten i v s) (tableNext (mcEntryWritten i v s)) :=
    regsBut_tableNext (regsBut_refl _ _) (by simp)
  refine ⟨?_, ?_, ?_, tableNext_eq _⟩
  · rw [rget_of_regsBut hnext (by simpa using hne), mcEntryWritten, rget_rset_self]
  · exact (index_tableNext _).trans (nextIndex_congr (rget_rset_ne hne.symm _ _))
  · exact regsBut_tableNext (regsBut_rset (regsBut_refl _ s) (by simp) _) (by simp)

/-- R282: a read answers with the element, and moves INDEX alone. -/
theorem tableAnswered_says (w : Word) (s : State) :
    let x := tableNext (answer w s)
    x.lastRead = w ∧ rfld x R.TMG_TBL_ADDR 0 18 0 = nextIndex s ∧ RegsBut [adr R.TMG_TBL_ADDR 0] s x ∧
    x = { s with regs := x.regs, lastRead := x.lastRead } := by
  have heq := tableNext_eq (answer w s)
  have hread : (tableNext (answer w s)).lastRead = w := by rw [heq]; rfl
  refine ⟨hread, index_tableNext _, regsBut_tableNext (regsBut_of_regs rfl) (by simp), ?_⟩
  rw [hread]
  exact heq

/-! ### Positions of the capture ring -/

theorem capCount_pos (s : State) : 0 < capCount s := Nat.two_pow_pos _

theorem capCount_congr {s t : State} (h : rget t R.TMG_CAP_CFG 0 = rget s R.TMG_CAP_CFG 0) : capCount t = capCount s := by
  simp only [capCount, rfld, h]

theorem capPos_congr {s t : State} {r : Reg} (hcfg : rget t R.TMG_CAP_CFG 0 = rget s R.TMG_CAP_CFG 0)
    (hr : rget t r 0 = rget s r 0) : capPos t r = capPos s r := by
  simp only [capPos, capCount_congr hcfg, rfld, hr]

/-- R326: the layout of WRAP and INDEX. -/
theorem fld_wrap_index {wrap index : Nat} (hwrap : wrap < 2) (hindex : index < 2 ^ 28) :
    fld (BitVec.ofNat 64 (wrap * 2 ^ 63 + index)) 63 63 = wrap ∧
    fld (BitVec.ofNat 64 (wrap * 2 ^ 63 + index)) 27 0 = index := by
  have hword : (BitVec.ofNat 64 (wrap * 2 ^ 63 + index)).toNat = wrap * 2 ^ 63 + index := by
    rw [BitVec.toNat_ofNat, Nat.mod_eq_of_lt (by omega)]
  simp only [fld, hword, Nat.shiftRight_eq_div_pow]
  omega

/-- R326: a register that takes a position as WRAP and INDEX holds it, modulo twice the ring. -/
theorem capPos_of_capWord {s t : State} {r : Reg} {n : Nat} (hn : capCount s ≤ 2 ^ 28)
    (hcfg : rget t R.TMG_CAP_CFG 0 = rget s R.TMG_CAP_CFG 0) (hr : rget t r 0 = capWord s n) :
    capPos t r = n % (2 * capCount s) := by
  have hpos := capCount_pos s
  have hturn : n % (2 * capCount s) / capCount s < 2 := (Nat.div_lt_iff_lt_mul hpos).2 (Nat.mod_lt n (by omega))
  obtain ⟨hwrap, hindex⟩ := fld_wrap_index hturn ((Nat.mod_lt (n % (2 * capCount s)) hpos).trans_le hn)
  simp only [capPos, capCount_congr hcfg, rfld, hr, capWord, hwrap, hindex]
  exact Nat.div_add_mod' _ _

/-! ### The capture's writes -/

/-- The word that a write of TMG_CAP_CFG stores, but for EN: while EN is 1 the ring's shape is as it was (R326). -/
def capShape (v : Word) (s : State) : Word :=
  let old := rget s R.TMG_CAP_CFG 0
  let w := writeReg false R.TMG_CAP_CFG old v
  if bit old 63 then setFld (setFld w 62 61 (fld old 62 61)) 60 56 (fld old 60 56) else w

theorem fld_capShape {s : State} (h : rbit s R.TMG_CAP_CFG 0 63 = true) (v : Word) :
    fld (capShape v s) 60 56 = rfld s R.TMG_CAP_CFG 0 60 56 := by
  have hfit := fld_lt (rget s R.TMG_CAP_CFG 0) 60 56
  rw [rbit] at h
  simp only [capShape, h, if_true]
  rw [fld_setFld_self _ _ _ _ (by decide) (by decide), Nat.mod_eq_of_lt hfit, rfld]

/-- What EN 1 makes of the registers of the ring. -/
def capOpened (v : Word) (s : State) : State :=
  rset (rset (rset s R.TMG_CAP_CFG 0 (setFld (capShape v s) 63 63 1)) R.TMG_CAP_HEAD 0 0) R.TMG_CAP_TAIL 0 0

/-- What EN 0 makes of the ring: the records on their way end with it (log 31). -/
def capClosed (v : Word) (s : State) : State :=
  withTmg (fun t => { t with cap := [] }) (rset s R.TMG_CAP_CFG 0 (setFld (capShape v s) 63 63 0))

theorem captureEnable_opens {s : State} {v : Word} (hup : s.bridgeUp = true) (hen : bit v 63 = true)
    (hready : memReady s .mcd = true) : exec (.captureEnable v) s = .next (capOpened v s) := by
  refine (servedWrite_of_bridge hup _ _).trans (congrArg _ ?_)
  simp [capCfgWrite, capOpened, capShape, hen, hready]

theorem captureEnable_closes {s : State} {v : Word} (hup : s.bridgeUp = true) (hen : bit v 63 = false) :
    exec (.captureEnable v) s = .next (capClosed v s) := by
  refine (servedWrite_of_bridge hup _ _).trans (congrArg _ ?_)
  simp [capCfgWrite, capClosed, capShape, hen]

theorem rget_capOpened_cfg (v : Word) (s : State) :
    rget (capOpened v s) R.TMG_CAP_CFG 0 = setFld (capShape v s) 63 63 1 := by
  rw [capOpened, rget_rset_ne (by decide), rget_rset_ne (by decide), rget_rset_self]

theorem capOpened_says (v : Word) (s : State) :
    let t := capOpened v s
    rbit t R.TMG_CAP_CFG 0 63 = true ∧ rget t R.TMG_CAP_HEAD 0 = 0 ∧ rget t R.TMG_CAP_TAIL 0 = 0 ∧
    (rbit s R.TMG_CAP_CFG 0 63 = true → capCount t = capCount s) ∧
    RegsBut [adr R.TMG_CAP_CFG 0, adr R.TMG_CAP_HEAD 0, adr R.TMG_CAP_TAIL 0] s t ∧ t = { s with regs := t.regs } := by
  refine ⟨?_, ?_, rget_rset_self _ _ _ _, fun hon => ?_, ?_, rfl⟩
  · rw [rbit, rget_capOpened_cfg, bit_setFld_bit _ _ _ (by decide)]
    rfl
  · rw [capOpened, rget_rset_ne (by decide), rget_rset_self]
  · rw [capCount, rfld, rget_capOpened_cfg, fld_setFld_ne _ _ (by decide) (by decide) (by decide), fld_capShape hon,
      capCount]
  · exact regsBut_rset (regsBut_rset (regsBut_rset (regsBut_refl _ s) (by simp) _) (by simp) _) (by simp) _

theorem capClosed_says (v : Word) (s : State) :
    let t := capClosed v s
    rbit t R.TMG_CAP_CFG 0 63 = false ∧ RegsBut [adr R.TMG_CAP_CFG 0] s t ∧
    t = { s with regs := t.regs, tmg := { s.tmg with cap := [] } } := by
  have hcfg : rget (capClosed v s) R.TMG_CAP_CFG 0 = setFld (capShape v s) 63 63 0 := rget_rset_self _ _ _ _
  refine ⟨?_, regsBut_rset (regsBut_refl _ s) (by simp) _, rfl⟩
  rw [rbit, hcfg, bit_setFld_bit _ _ _ (by decide)]
  rfl

/-- The position a write of TMG_CAP_TAIL names, its INDEX held within the ring (R326). -/
def tailAsked (v : Word) (s : State) : Nat := (bit v 63).toNat * capCount s + min (fld v 27 0) (capCount s - 1)

/-- The position TAIL takes: while EN is 1, one that does not lie within the ring behind HEAD becomes HEAD (R326, R328). -/
def tailTaken (v : Word) (s : State) : Nat :=
  let head := capPos s R.TMG_CAP_HEAD
  if !rbit s R.TMG_CAP_CFG 0 63 || decide ((head + 2 * capCount s - tailAsked v s) % (2 * capCount s) ≤ capCount s) then
    tailAsked v s
  else head

theorem tailAsked_lt (v : Word) (s : State) : tailAsked v s < 2 * capCount s := by
  have hpos := capCount_pos s
  unfold tailAsked
  cases bit v 63 <;> simp <;> omega

theorem tailTaken_lt {s : State} (v : Word) (hhead : capPos s R.TMG_CAP_HEAD < 2 * capCount s) :
    tailTaken v s < 2 * capCount s := by
  unfold tailTaken
  dsimp only
  split
  · exact tailAsked_lt v s
  · exact hhead

theorem tailTaken_enabled {s : State} (v : Word) (h : rbit s R.TMG_CAP_CFG 0 63 = true) : tailTaken v s =
    if (capPos s R.TMG_CAP_HEAD + 2 * capCount s - tailAsked v s) % (2 * capCount s) ≤ capCount s then tailAsked v s
    else capPos s R.TMG_CAP_HEAD := by
  simp [tailTaken, h]

theorem tailTaken_disabled {s : State} (v : Word) (h : rbit s R.TMG_CAP_CFG 0 63 = false) :
    tailTaken v s = tailAsked v s := by
  simp [tailTaken, h]

theorem capTailWrite_stores {s : State} (v : Word) (hup : s.bridgeUp = true) :
    exec (.capTailWrite v) s = .next (rset s R.TMG_CAP_TAIL 0 (capWord s (tailTaken v s))) := by
  have hwrap : fld v 63 63 = (bit v 63).toNat := by
    rw [bit_eq_fld]
    have := fld_lt v 63 63
    interval_cases fld v 63 63 <;> rfl
  rw [tailTaken, tailAsked, ← hwrap]
  exact servedWrite_of_bridge hup _ _

theorem capPos_tail_stored {s : State} (v : Word) (hn : capCount s ≤ 2 ^ 28)
    (hhead : capPos s R.TMG_CAP_HEAD < 2 * capCount s) :
    capPos (rset s R.TMG_CAP_TAIL 0 (capWord s (tailTaken v s))) R.TMG_CAP_TAIL = tailTaken v s :=
  (capPos_of_capWord hn (rget_rset_ne (by decide) s _) (rget_rset_self _ _ _ _)).trans
    (Nat.mod_eq_of_lt (tailTaken_lt v hhead))

/-! ### A record on its way -/

section
variable {s : State} {r : CapRec} {rest : List CapRec} (hcap : s.tmg.cap = r :: rest)
include hcap

theorem captureRecord_waits (harr : arrivalsDone s = false) : exec .captureRecordWritten s = .next s := by
  change execCaptureRecordWritten s = _
  simp [execCaptureRecordWritten, hcap, harr]

variable (hon : rbit s R.TMG_CAP_CFG 0 63 = true) (harr : arrivalsDone s = true)
include hon harr

/-- R327: a full ring drops the record and counts it. -/
theorem captureRecord_drops (hfull : capFull s = true) : exec .captureRecordWritten s =
    .next (rcount { s with tmg := { s.tmg with cap := rest } } R.TMG_CAP_STAT 0 63 32 1) := by
  change execCaptureRecordWritten s = _
  simp [execCaptureRecordWritten, hcap, harr, hon, hfull, withTmg]

variable (hroom : capFull s = false)
include hroom

/-- R383: a record whose channel holds requests asks it, and waits. -/
theorem captureRecord_asks (hwait : runWaits s .mcd (capPlace s).1 (capPlace s).2 = true) :
    exec .captureRecordWritten s = .next (runAsk .mcd (capPlace s).1 (capPlace s).2 s) := by
  change execCaptureRecordWritten s = _
  simp [execCaptureRecordWritten, hcap, harr, hon, hroom, hwait]

/-- R327: the record stands in its place, and HEAD is the next. -/
theorem captureRecord_stores (hgo : runWaits s .mcd (capPlace s).1 (capPlace s).2 = false) :
    exec .captureRecordWritten s = .next (rset (memWrite .mcd (capPlace s).1 r.bytes
      (memUseRun .mcd (capPlace s).1 (capPlace s).2 true { s with tmg := { s.tmg with cap := rest } })) R.TMG_CAP_HEAD 0
        (capWord s (capPos s R.TMG_CAP_HEAD + 1))) := by
  change execCaptureRecordWritten s = _
  simp [execCaptureRecordWritten, hcap, harr, hon, hroom, hgo, withTmg]

end

/-- The place of a record written: memory is all it reaches beside the registers of the controllers. -/
theorem recordPlaced_keeps (a n : Nat) (bs : Bytes) (s : State) :
    let t := memWrite .mcd a bs (memUseRun .mcd a n true s)
    MemOnly s t ∧ BeforeMcd s t :=
  ⟨(memOnly_memUses .mcd _ true s).trans (memOnly_withMem .mcd _ _),
    (beforeMcd_memUses .mcd _ true s).trans (beforeMcd_withMem .mcd _ _)⟩

/-- R327: after its record is in memory HEAD has moved on by one, and TAIL stands. -/
theorem headMoved_says {s t : State} (hn : capCount s ≤ 2 ^ 28) (h : BeforeMcd s t) :
    let x := rset t R.TMG_CAP_HEAD 0 (capWord s (capPos s R.TMG_CAP_HEAD + 1))
    capPos x R.TMG_CAP_HEAD = (capPos s R.TMG_CAP_HEAD + 1) % (2 * capCount s) ∧
    capPos x R.TMG_CAP_TAIL = capPos s R.TMG_CAP_TAIL := by
  intro x
  have hkept : ∀ r : Reg, regAddr r 0 ≠ regAddr R.TMG_CAP_HEAD 0 → regAddr r 0 < mcdBase → rget x r 0 = rget s r 0 :=
    fun r hne hr => (rget_rset_ne hne t _).trans (h.rget hr)
  have hcfg := hkept R.TMG_CAP_CFG (by decide) (by decide)
  exact ⟨capPos_of_capWord hn hcfg (rget_rset_self _ _ _ _), capPos_congr hcfg (hkept _ (by decide) (by decide))⟩

/-! ### The statement -/

/-- Settles O34: each access is the one its conditions name, and what that leaves is said above. -/
theorem tableWindowAndCapture : Obligations.TableWindowAndCapture := by
  refine ⟨?window, ?capture⟩
  case window =>
    intro s v t i moved hup
    refine ⟨fun ht _ => ⟨_, tableDataWrite_mcEntry hup ht v, mcEntryWritten_says i v s⟩, fun r hr hne => ?array,
      fun ht => ?queue, fun ht => tableDataWrite_beyond hup ht v⟩
    case array =>
      obtain ⟨hread, hrest⟩ := tableAnswered_says (tableRead s t i) s
      exact ⟨_, tableDataRead_reads hup, hread.trans (tableRead_array hr hne s i), hrest⟩
    case queue =>
      obtain ⟨hread, hindex, -⟩ := tableAnswered_says (tableRead s t i) s
      obtain ⟨hocc, hspill⟩ := tableRead_queue ht s i
      rw [← hread] at hocc hspill
      exact ⟨_, tableDataRead_reads hup, hocc, hspill, hindex⟩
  case capture =>
    intro s v n head used hup
    refine ⟨fun hen hready => ⟨_, captureEnable_opens hup hen hready, capOpened_says v s⟩,
      fun hen => ⟨_, captureEnable_closes hup hen, capClosed_says v s⟩, fun hn hhead => ?tail,
      fun r rest hcap hon hn => ⟨captureRecord_waits hcap, fun hused harr => ?drops, fun hused harr => ?room⟩⟩
    case tail =>
      have hpos := capPos_tail_stored v hn hhead
      exact ⟨_, capTailWrite_stores v hup, fun hon => hpos.trans (tailTaken_enabled v hon),
        fun hoff => hpos.trans (tailTaken_disabled v hoff), regsBut_rset (regsBut_refl _ s) (by simp) _, rfl⟩
    case drops => exact captureRecord_drops hcap hon harr (decide_eq_true hused)
    case room =>
      have hroom : capFull s = false := decide_eq_false hused
      refine ⟨captureRecord_asks hcap hon harr hroom, fun hgo => ?_⟩
      obtain ⟨hmem, hbefore⟩ := recordPlaced_keeps (capPlace s).1 (capPlace s).2 r.bytes
        { s with tmg := { s.tmg with cap := rest } }
      obtain ⟨hhead, htail⟩ := headMoved_says hn (hbefore : BeforeMcd s _)
      exact ⟨_, captureRecord_stores hcap hon harr hroom hgo, hmem.tmg, hhead, htail, hmem.sen, hmem.bpm⟩

end Sys2Proof.Proofs
end

section
/-! SUPPORT. What a tick's changes of the hierarchy reach: a node that takes a shaper value (R304 to R307), eligibility
judged again (R303), and the heads that a swap of gate control lists discards (R318), which leave the lists. -/

namespace Sys2Proof.Proofs
open Sys2Proof Sys2Proof.Machine Sys2Proof.Laws

/-! ### The shaper of a node -/

/-- Node `n` of level `l`: a port, a sub-port, a group, a class set or a queue (R283, R306). -/
def IsNode (l n : Nat) : Prop := 1 ≤ l ∧ l ≤ 5 ∧ n < levelCount l

theorem nodeKey_split {l n : Nat} (h : IsNode l n) : nodeKey l n / 2 ^ 19 = l ∧ nodeKey l n % 2 ^ 19 = n := by
  obtain ⟨h1, h5, hn⟩ := h
  have hcount : levelCount l ≤ 2 ^ 19 := by interval_cases l <;> decide
  unfold nodeKey
  omega

/-- The registers of the shapers lie before the stage (R26, R304, R306). -/
theorem shapeReg_before_stage {l n : Nat} (h : IsNode l n) :
    regAddr (shapeReg l) n < R.TMG_SHAPE_STAGE_NODE.base := by
  obtain ⟨h1, h5, hn⟩ := h
  obtain ⟨hstride, hspan⟩ : (shapeReg l).stride = 8 ∧
      (shapeReg l).base + 8 * levelCount l ≤ R.TMG_SHAPE_STAGE_NODE.base := by
    interval_cases l <;> decide
  rw [regAddr, hstride]
  omega

theorem setShape_regs (k : Nat) (w : Word) (s : State) :
    (setShape k w s).regs = (rset s (shapeReg (k / 2 ^ 19)) (k % 2 ^ 19) w).regs := rfl

theorem setShape_batches (k : Nat) (w : Word) (s : State) : (setShape k w s).tmg.batches = s.tmg.batches := rfl

theorem setShape_eq (k : Nat) (w : Word) (s : State) :
    setShape k w s = { s with regs := (setShape k w s).regs, tmg := (setShape k w s).tmg } := rfl

/-- R305, R307: a node takes a shaper value in its register, and its buckets are capped. -/
theorem setShape_says {l n : Nat} (h : IsNode l n) (w : Word) (s : State) :
    let t := setShape (nodeKey l n) w s
    shapeOf t (nodeKey l n) = w ∧ RegsBut [adr (shapeReg l) n] s t ∧ t.tmg.batches = s.tmg.batches ∧
    t = { s with regs := t.regs, tmg := t.tmg } := by
  obtain ⟨hlevel, hnode⟩ := nodeKey_split h
  have hregs := setShape_regs (nodeKey l n) w s
  rw [hlevel, hnode] at hregs
  refine ⟨?_, fun a ha => ?_, setShape_batches _ w s, setShape_eq _ w s⟩
  · rw [shapeOf, hlevel, hnode, rget_of_regs hregs, rget_rset_self]
  · rw [hregs]
    exact regsBut_rset (regsBut_refl _ s) (by simp) w a ha

/-! ### Eligibility -/

theorem deficit_clearDeficit (s : State) (j k : Nat) {r : Nat} (hr : r < 2) :
    deficit (clearDeficit j s) k r = if k = j then 0 else deficit s k r := by
  have hcleared : deficit (clearDeficit j s) k r = mget 0 (mdel (mdel s.tmg.defs (2 * j)) (2 * j + 1)) (2 * k + r) := rfl
  rw [hcleared, mget_mdel, mget_mdel, deficit]
  by_cases hkj : k = j
  · obtain rfl | rfl : r = 0 ∨ r = 1 := by omega
    all_goals simp [hkj]
  · have heven : 2 * k + r ≠ 2 * j := by omega
    have hodd : 2 * k + r ≠ 2 * j + 1 := by omega
    simp [heven, hodd, hkj]

theorem clearDeficits_eq (ks : List Nat) (s : State) : ks.foldl (fun s k => clearDeficit k s) s =
    { s with tmg := { s.tmg with defs := (ks.foldl (fun s k => clearDeficit k s) s).tmg.defs } } := by
  induction ks generalizing s with
  | nil => rfl
  | cons j ks ih => exact (ih (clearDeficit j s)).trans rfl

theorem deficit_clearDeficits (ks : List Nat) (s : State) {k r : Nat} (hr : r < 2) (h : k ∈ ks ∨ deficit s k r = 0) :
    deficit (ks.foldl (fun s k => clearDeficit k s) s) k r = 0 := by
  induction ks generalizing s with
  | nil => exact h.resolve_left List.not_mem_nil
  | cons j ks ih =>
    refine ih (clearDeficit j s) ?_
    rw [deficit_clearDeficit s j k hr]
    by_cases hkj : k = j
    · exact .inr (if_pos hkj)
    · rw [if_neg hkj]
      exact h.imp_left fun hmem => (List.mem_cons.1 hmem).resolve_left hkj

/-- The children that were eligible when eligibility was last judged, and no longer are (R303). -/
def lapsedNodes (s : State) : List Nat := s.tmg.elig.filter (fun k => !(eligibleNodes s).contains k)

theorem judgeElig_eq (s : State) : judgeElig s = withTmg (fun t => { t with elig := eligibleNodes s })
    ((lapsedNodes s).foldl (fun s k => clearDeficit k s) s) := rfl

/-- R303: eligibility judged again, a child that is no longer eligible has no deficits. -/
theorem judgeElig_says (s : State) :
    let t := judgeElig s
    t.tmg.elig = eligibleNodes s ∧ t.tmg.qs = s.tmg.qs ∧
    (∀ k ∈ s.tmg.elig, k ∉ eligibleNodes s → deficit t k 0 = 0 ∧ deficit t k 1 = 0) ∧ t = { s with tmg := t.tmg } := by
  have hleft := clearDeficits_eq (lapsedNodes s) s
  refine ⟨rfl, ?_, fun k hk hno => ?_, ?_⟩
  · rw [judgeElig_eq, hleft]
    rfl
  · have hgone : k ∈ lapsedNodes s := by simpa [lapsedNodes] using ⟨hk, hno⟩
    have hzero : ∀ r < 2, deficit (judgeElig s) k r = 0 := fun r hr => deficit_clearDeficits _ s hr (.inl hgone)
    exact ⟨hzero 0 (by decide), hzero 1 (by decide)⟩
  · rw [judgeElig_eq, hleft]
    rfl

/-! ### The heads that a swap discards -/

/-- The gate control lists: the gate states of the ports, and TMG_GCL_CFG of one. -/
def gateView (p : Port) (s : State) : SMap Gcl × Word := (s.tmg.gcl, rget s R.TMG_GCL_CFG p.val)

theorem gate_foldl {α : Type} {p : Port} {f : State → α → State} (hf : ∀ x a, gateView p (f x a) = gateView p x)
    (l : List α) (s : State) : gateView p (l.foldl f s) = gateView p s := by
  induction l generalizing s with
  | nil => rfl
  | cons a l ih => exact (ih _).trans (hf s a)

theorem gate_judgeElig (p : Port) (s : State) : gateView p (judgeElig s) = gateView p s :=
  gate_foldl (f := fun s k => clearDeficit k s) (fun _ _ => rfl) _ s

theorem gate_unspill (p : Port) (q : Nat) (s : State) : gateView p (unspill q s) = gateView p s := by
  unfold unspill
  dsimp only
  split <;> rfl

theorem gate_queueLeft (p : Port) (q : Nat) (s : State) : gateView p (queueLeft q s) = gateView p s := by
  refine (gate_unspill p q _).trans ?_
  split <;> rfl

/-- The counter of a discard is none of the registers of the gates (R299, R314). -/
theorem gate_tmgDrop (p : Port) {code : Nat} (hc : code < 16) (s : State) :
    gateView p (tmgDrop code s) = gateView p s := by
  have hne : regAddr R.TMG_GCL_CFG p.val ≠ regAddr R.TMG_DROP code := by
    simp only [regAddr, R.TMG_GCL_CFG, R.TMG_DROP]
    omega
  exact congrArg (Prod.mk s.tmg.gcl) (rget_rcount_ne hne s 47 0 1)

theorem gate_discardFrom (p : Port) (q pid : Nat) {code : Nat} (hc : code < 16) (s : State) :
    gateView p (discardFrom q pid code s) = gateView p s := by
  unfold discardFrom
  dsimp only
  split
  · rfl
  · rw [gate_queueLeft]
    split
    · rfl
    · rw [gate_tmgDrop p hc]
      rfl

theorem gate_purgeQueue (p : Port) (port q fuel : Nat) (s : State) :
    gateView p (purgeQueue port q fuel s) = gateView p s := by
  induction fuel generalizing s with
  | zero => rfl
  | succ fuel ih =>
    unfold purgeQueue
    split
    · rfl
    · split
      · exact (ih _).trans (gate_discardFrom p q _ (by decide) s)
      · rfl

theorem gate_purgePort (p : Port) (port : Nat) (s : State) : gateView p (purgePort port s) = gateView p s := by
  refine gate_foldl (fun x e => ?_) _ s
  split
  · exact gate_purgeQueue p port _ _ x
  · rfl

end Sys2Proof.Proofs
end

section
/-! O36: shaper batches (R307), and the swaps and boundaries of gate control lists (R314, R316, R317). -/

namespace Sys2Proof.Proofs
open Sys2Proof Sys2Proof.Machine Sys2Proof.Laws

/-! ### Shaper batches -/

theorem shapeApply_asks {s : State} {v : Word} (hup : s.bridgeUp = true) : exec (.shapeApply v) s =
    .next { s with tmg := { s.tmg with batches := s.tmg.batches ++ [(fld v 7 0, s.tau.mono)] } } :=
  servedWrite_of_bridge hup _ _

theorem shaperBatchApply_waits {s : State} (h : arrivalsDone s = false) : exec .shaperBatchApply s = .next s := by
  change execShaperBatchApply s = _
  simp [execShaperBatchApply, h]

/-- R307: a batch asked for on this tick is not yet applied. -/
theorem shaperBatchApply_of_now {s : State} {b : Nat} (h : s.tmg.batches = [(b, s.tau.mono)]) :
    exec .shaperBatchApply s = .next s := by
  have hkept : s.tmg.batches.filter (fun b => decide (b.2 = s.tau.mono)) = s.tmg.batches := by simp [h]
  have hnone : s.tmg.batches.filter (fun b => decide (b.2 ≠ s.tau.mono)) = [] := by simp [h]
  change execShaperBatchApply s = _
  simp only [execShaperBatchApply, withTmg, hkept, hnone, List.foldl_nil, ite_self]

/-- R307: the one batch of an earlier tick is applied. -/
theorem shaperBatchApply_one {s : State} {b m : Nat} (h : s.tmg.batches = [(b, m)]) (hm : m ≠ s.tau.mono)
    (harr : arrivalsDone s = true) :
    exec .shaperBatchApply s = .next (applyBatch b (withTmg (fun t => { t with batches := [] }) s)) := by
  change execShaperBatchApply s = _
  simp [execShaperBatchApply, withTmg, h, hm, harr]

/-- Element `k` of TMG_SHAPE_STAGE_NODE holds `w`, and no other is written (R306). -/
def StagedOnly (s : State) (k : Nat) (w : Word) : Prop :=
  let r := R.TMG_SHAPE_STAGE_NODE
  s.regs.filter (fun e => decide (r.base ≤ e.1 ∧ e.1 < r.base + r.stride * r.count)) = [(adr r k, w)]

/-- R307: a staged entry of the batch writes its node's shaper and is no longer staged. -/
theorem applyBatch_one {s : State} {k : Nat} {w : Word} (h : StagedOnly s k w) (hvalid : bit w 63 = true) :
    applyBatch (fld w 62 55) s = setShape (nodeKey (fld w 54 52) (fld w 18 0)) (rget s R.TMG_SHAPE_STAGE_VAL k)
      (rsetF s R.TMG_SHAPE_STAGE_NODE k 63 63 0) := by
  have hplace : (adr R.TMG_SHAPE_STAGE_NODE k - R.TMG_SHAPE_STAGE_NODE.base) / R.TMG_SHAPE_STAGE_NODE.stride = k := by
    simp only [adr, regAddr, R.TMG_SHAPE_STAGE_NODE]
    omega
  unfold applyBatch
  dsimp only
  rw [show s.regs.filter _ = _ from h, List.foldl_cons, List.foldl_nil, hplace]
  simp [hvalid]

/-- R307: what an applied batch of one entry leaves. -/
theorem batchApplied_says {s : State} {l n : Nat} (hnode : IsNode l n) (k : Nat) (x : Word) :
    let r := R.TMG_SHAPE_STAGE_NODE
    let t := setShape (nodeKey l n) x (rsetF s r k 63 63 0)
    shapeOf t (nodeKey l n) = x ∧ rbit t r k 63 = false ∧ t.tmg.batches = s.tmg.batches ∧
    RegsBut [adr (shapeReg l) n, adr r k] s t ∧ t = { s with regs := t.regs, tmg := t.tmg } := by
  intro r t
  obtain ⟨hshape, hregs, hbatches, heq⟩ := setShape_says hnode x (rsetF s r k 63 63 0)
  have hstage : adr r k ≠ adr (shapeReg l) n := by
    have hfrom : r.base ≤ adr r k := Nat.le_add_right _ _
    exact Nat.ne_of_gt ((shapeReg_before_stage hnode).trans_le hfrom)
  refine ⟨hshape, ?_, hbatches, fun a ha => ?_, heq⟩
  · rw [rbit, rget_of_regsBut hregs (by simpa using hstage), ← rbit, rbit_rsetF_bit _ _ _ _ _ (by decide)]
    rfl
  · obtain ⟨hne, hstaged⟩ : a ≠ adr (shapeReg l) n ∧ a ≠ adr r k := by simpa using ha
    exact (hregs a (by simpa using hne)).trans
      (regsBut_rsetF (as := [adr r k]) (regsBut_refl _ s) (by simp) 63 63 0 a (by simpa using hstaged))

/-! ### SWAP_NOW -/

theorem hostStore_gclCfg (p : Nat) (v : Word) (s : State) : hostStore false R.TMG_GCL_CFG p v s =
    rset s R.TMG_GCL_CFG p (writeReg false R.TMG_GCL_CFG (rget s R.TMG_GCL_CFG p) v) := by
  rw [hostStore, noteWas_of_not_late (by decide)]
  rfl

/-- The gate state of a port replaced. -/
def setGcl (p : Nat) (x : Gcl) (s : State) : State := withTmg (fun t => { t with gcl := mput t.gcl p x }) s

theorem gclOf_setGcl (p j : Nat) (x : Gcl) (s : State) :
    gclOf (setGcl p x s) j = if j = p then x else gclOf s j := mget_mput _ _ _ _ _

/-- The swaps a port waits for, with that of this tick the last. -/
def swapAsked (p : Port) (s : State) : Gcl :=
  { gclOf s p.val with
    swapNow := (gclOf s p.val).swapNow.filter (fun m => decide (m ≠ s.tau.mono)) ++ [s.tau.mono] }

theorem gclSwapNow_asks {s : State} {p : Port} {v : Word} (hup : s.bridgeUp = true) (hswap : bit v 61 = true) :
    exec (.gclSwapNow p v) s = .next (setGcl p.val (swapAsked p s) (rset s R.TMG_GCL_CFG p.val
      (writeReg false R.TMG_GCL_CFG (rget s R.TMG_GCL_CFG p.val) v))) := by
  rw [← hostStore_gclCfg]
  refine (servedWrite_of_bridge hup _ _).trans ?_
  rw [if_pos hswap, hostStore_gclCfg]
  rfl

/-! ### The swap -/

theorem gclSwap_waits {s : State} {p : Port} (h : arrivalsDone s = false) : exec (.gclSwap p) s = .next s := by
  change execGclSwap p s = _
  unfold execGclSwap
  split <;> simp [h]

/-- R314: a swap asked for on this tick is not yet made. -/
theorem gclSwap_of_none {s : State} {p : Port}
    (h : (gclOf s p.val).swapNow = [] ∨ (gclOf s p.val).swapNow.head? = some s.tau.mono) :
    exec (.gclSwap p) s = .next s := by
  change execGclSwap p s = _
  unfold execGclSwap
  split
  next k rest hq =>
    have hk : k = s.tau.mono := by simpa [hq] using h
    simp [hk]
  next => rfl

theorem gclSwap_swaps {s : State} {p : Port} {k : Nat} {rest : List Nat} (hq : (gclOf s p.val).swapNow = k :: rest)
    (hk : k ≠ s.tau.mono) (harr : arrivalsDone s = true) : exec (.gclSwap p) s =
      .next (gclSwap p.val (setGcl p.val { gclOf s p.val with swapNow := rest } s)) := by
  change execGclSwap p s = _
  simp [execGclSwap, hq, hk, harr, setGcl]

/-- TMG_GCL_CFG as a swap leaves it: OPER the other list, and the lengths exchanged (R316). -/
def cfgSwapped (w : Word) : Word :=
  setFld (setFld (setFld w 62 62 (1 - fld w 62 62)) 32 24 (fld w 48 40)) 48 40 (fld w 32 24)

theorem cfgSwapped_says (w : Word) :
    bit (cfgSwapped w) 62 = !bit w 62 ∧ fld (cfgSwapped w) 32 24 = fld w 48 40 ∧
    fld (cfgSwapped w) 48 40 = fld w 32 24 ∧ bit (cfgSwapped w) 63 = bit w 63 := by
  have hadmin := fld_lt w 48 40
  have hoper := fld_lt w 32 24
  unfold cfgSwapped
  refine ⟨?_, ?_, ?_, ?_⟩
  · rw [bit_setFld_ne _ _ (by decide) (by decide) (by decide), bit_setFld_ne _ _ (by decide) (by decide) (by decide),
      bit_setFld_bit _ _ _ (by decide), bit_eq_fld]
    have := fld_lt w 62 62
    interval_cases fld w 62 62 <;> rfl
  · rw [fld_setFld_ne _ _ (by decide) (by decide) (by decide), fld_setFld_self _ _ _ _ (by decide) (by decide),
      Nat.mod_eq_of_lt hadmin]
  · rw [fld_setFld_self _ _ _ _ (by decide) (by decide), Nat.mod_eq_of_lt hoper]
  · rw [bit_setFld_ne _ _ (by decide) (by decide) (by decide), bit_setFld_ne _ _ (by decide) (by decide) (by decide),
      bit_setFld_ne _ _ (by decide) (by decide) (by decide)]

theorem gclCfg_ne_gclCycle (p : Port) : regAddr R.TMG_GCL_CFG p.val ≠ regAddr R.TMG_GCL_CYCLE p.val := by
  simp only [regAddr, R.TMG_GCL_CFG, R.TMG_GCL_CYCLE]
  omega

/-- A port's lists exchanged, with the cycle, its start and the open times that the swap records (R316, R318). -/
def listsSwapped (p : Nat) (cycle : Word) (start : Nat) (longest : List Nat) (s : State) : State :=
  setGcl p ⟨start, longest, (gclOf s p).swapNow⟩
    (rset (rset s R.TMG_GCL_CFG p (cfgSwapped (rget s R.TMG_GCL_CFG p))) R.TMG_GCL_CYCLE p cycle)

theorem listsSwapped_says (p : Port) (cycle : Word) (start : Nat) (longest : List Nat) (s : State) :
    let t := listsSwapped p.val cycle start longest s
    rget t R.TMG_GCL_CFG p.val = cfgSwapped (rget s R.TMG_GCL_CFG p.val) ∧
    (gclOf t p.val).swapNow = (gclOf s p.val).swapNow := by
  refine ⟨(rget_rset_ne (gclCfg_ne_gclCycle p) _ _).trans (rget_rset_self _ _ _ _), ?_⟩
  rw [listsSwapped, gclOf_setGcl, if_pos rfl]

/-- R316, R318: a swap exchanges the lists, and then discards the heads that no gate would let through. -/
theorem gclSwap_eq (p : Nat) (s : State) : ∃ cycle start longest,
    gclSwap p s = judgeElig (purgePort p (listsSwapped p cycle start longest s)) :=
  ⟨_, _, _, rfl⟩

theorem gclSwap_says (p : Port) (s : State) :
    let t := gclSwap p.val s
    rget t R.TMG_GCL_CFG p.val = cfgSwapped (rget s R.TMG_GCL_CFG p.val) ∧
    (gclOf t p.val).swapNow = (gclOf s p.val).swapNow := by
  obtain ⟨cycle, start, longest, heq⟩ := gclSwap_eq p.val s
  obtain ⟨hcfg, howed⟩ := listsSwapped_says p cycle start longest s
  have hview : gateView p (gclSwap p.val s) = gateView p (listsSwapped p.val cycle start longest s) := by
    rw [heq, gate_judgeElig, gate_purgePort]
  obtain ⟨hgclKept, hcfgKept⟩ := Prod.mk.inj hview
  exact ⟨hcfgKept.trans hcfg, (congrArg (fun g => (mget ⟨0, [], []⟩ g p.val).swapNow) hgclKept).trans howed⟩

/-! ### The boundary of an entry -/

theorem gclEntryBoundary_waits {s : State} {p : Port} (h : arrivalsDone s = false) :
    exec (.gclEntryBoundary p) s = .next s := by
  change execGclEntryBoundary p s = _
  simp [execGclEntryBoundary, h]

theorem gclEntryBoundary_judges {s : State} {p : Port} (h : arrivalsDone s = true) :
    exec (.gclEntryBoundary p) s = .next (judgeElig s) := by
  change execGclEntryBoundary p s = _
  simp [execGclEntryBoundary, h]

/-! ### The statement -/

/-- Settles O36: a batch and a swap wait for the next tick and the end of its arrivals, and what they then leave is said
above. -/
theorem shapersAndGates : Obligations.ShapersAndGates := by
  intro s p v
  refine ⟨shapeApply_asks, fun h => ⟨shaperBatchApply_waits h, gclSwap_waits h, gclEntryBoundary_waits h⟩,
    fun b => shaperBatchApply_of_now, ?batch, fun hup hswap => ?asked, fun k rest hq hk harr => ?swap, gclSwap_of_none,
    fun harr => ⟨_, gclEntryBoundary_judges harr, judgeElig_says s⟩⟩
  case batch =>
    rintro b m k w r l n hb hm harr _ hvalid rfl h1 h5 hn hstaged
    have hone := applyBatch_one (s := withTmg (fun t => { t with batches := [] }) s) hstaged hvalid
    exact ⟨_, (shaperBatchApply_one hb hm harr).trans (congrArg _ hone),
      batchApplied_says (s := withTmg (fun t => { t with batches := [] }) s) ⟨h1, h5, hn⟩ k _⟩
  case asked =>
    refine ⟨_, gclSwapNow_asks hup hswap, ?_, fun j hj => ?_, regsBut_rset (regsBut_refl _ s) (by simp) _, rfl⟩
    · rw [gclOf_setGcl, if_pos rfl]
      rfl
    · rw [gclOf_setGcl, if_neg hj]
      rfl
  case swap =>
    obtain ⟨hcfg, howed⟩ := gclSwap_says p (setGcl p.val { gclOf s p.val with swapNow := rest } s)
    obtain ⟨hoper, hlen, hadmin, hen⟩ := cfgSwapped_says (rget s R.TMG_GCL_CFG p.val)
    refine ⟨_, gclSwap_swaps hq hk harr, (congrArg (bit · 62) hcfg).trans hoper, (congrArg (fld · 32 24) hcfg).trans hlen,
      (congrArg (fld · 48 40) hcfg).trans hadmin, howed.trans ?_, (congrArg (bit · 63) hcfg).trans hen⟩
    rw [gclOf_setGcl, if_pos rfl]

end Sys2Proof.Proofs
end

section
/-! SUPPORT. What the billet pool manager judges a request by (R331 to R335, R346, R371, R388, R391): its own records,
the clock, and registers that neither a command taken up nor an access to a tag writes. -/

namespace Sys2Proof.Proofs
open Sys2Proof Sys2Proof.Machine Sys2Proof.Laws

/-- The registers that a command taken up (R345) and an access to a tag (R373, R384) write. -/
abbrev useRegs : List Nat := [adr R.BPM_CMD 0, adr R.MCD_MAP_CTL 0, adr R.MCD_TRAIN_CTL 0, adr R.MCH_MAP_CTL 0,
  adr R.MCH_TRAIN_CTL 0]

/-- The billet pool manager judges alike in two states. -/
structure SameForBpm (s t : State) : Prop where
  bpm : t.bpm = s.bpm
  tau : t.tau = s.tau
  regs : RegsBut useRegs s t

/-! ### Memories and pools that are judged alike -/

section
variable {s t : State} (h : SameForBpm s t)
include h

theorem rget_of_same {r : Reg} {i : Nat} (hr : regAddr r i ∉ useRegs) : rget t r i = rget s r i :=
  rget_of_regsBut h.regs hr

theorem poolCfg_of_same (n : Nat) : rget t R.BPM_POOL_CFG n = rget s R.BPM_POOL_CFG n :=
  rget_of_same h (by
    simp [regAddr, R.BPM_CMD, R.BPM_POOL_CFG, R.MCD_MAP_CTL, R.MCD_TRAIN_CTL, R.MCH_MAP_CTL, R.MCH_TRAIN_CTL]; omega)

theorem poolBase_of_same (n : Nat) : poolBase t n = poolBase s n :=
  congrArg BitVec.toNat (rget_of_same h (by
    simp [regAddr, R.BPM_CMD, R.BPM_POOL_BASE, R.MCD_MAP_CTL, R.MCD_TRAIN_CTL, R.MCH_MAP_CTL, R.MCH_TRAIN_CTL]; omega))

theorem poolSt_of_same (n : Nat) : poolSt t n = poolSt s n := by rw [poolSt, h.bpm, poolSt]

theorem tagRaw_of_same (n i : Nat) : tagRaw t n i = tagRaw s n i := by rw [tagRaw, h.bpm, tagRaw]

theorem poolLoc_of_same (n : Nat) : poolLoc t n = poolLoc s n := by rw [poolLoc, rfld, poolCfg_of_same h, poolLoc, rfld]

theorem poolNamed_of_same (n : Nat) : poolNamed t n = poolNamed s n := by
  rw [poolNamed, rbit, poolCfg_of_same h, poolNamed, rbit]

theorem poolExp_of_same (n : Nat) : poolExp t n = poolExp s n := by rw [poolExp, rfld, poolCfg_of_same h, poolExp, rfld]

theorem poolCount_of_same (n : Nat) : poolCount t n = poolCount s n := by
  rw [poolCount, rfld, poolCfg_of_same h, poolCount, rfld]

theorem poolOpen_of_same (n : Nat) : poolOpen t n = poolOpen s n := by
  rw [poolOpen, poolEn, rbit, poolCfg_of_same h, poolSt_of_same h, h.tau, poolOpen, poolEn, rbit]

theorem memReady_of_same (m : MemCtl) : memReady t m = memReady s m := by
  cases m <;> exact congrArg (bit · 63) (rget_of_same h (by decide))

theorem memGeom_of_same (m : MemCtl) : rget t (rGEOM m) 0 = rget s (rGEOM m) 0 := by
  cases m <;> exact rget_of_same h (by decide)

theorem mappedHome_of_same (m : MemCtl) (i : Nat) : mappedHome t m i = mappedHome s m i := by
  cases m <;> simp only [mappedHome, bgHome, memChannels, rfld, memGeom_of_same h] <;> rfl

omit h in
theorem mappedHome_index {m : MemCtl} {i home : Nat} (hi : mappedHome s m i = some home) : i < 12 := by
  by_contra hge
  cases m <;> simp [mappedHome, show ¬ i < 3 by omega, show ¬ i < 8 by omega, show ¬ i < 12 by omega] at hi

theorem mappedBit_of_same (m : MemCtl) (a i : Nat) : mappedBit t m a i = mappedBit s m a i := by
  rw [mappedBit, mappedBit, mappedHome_of_same h]
  cases hhome : mappedHome s m i with
  | none => rfl
  | some home =>
    have hi : i < 12 := mappedHome_index hhome
    have hxor : rget t (rXOR m) i = rget s (rXOR m) i := by
      cases m <;> exact rget_of_same h (by
        simp [regAddr, rXOR, mReg, R.BPM_CMD, R.MCD_XOR, R.MCH_XOR, R.MCD_MAP_CTL, R.MCD_TRAIN_CTL, R.MCH_MAP_CTL,
          R.MCH_TRAIN_CTL]; omega)
    simp only [hxor]

theorem chanOf_of_same (m : MemCtl) (a : Nat) : chanOf t m a = chanOf s m a := by
  simp only [chanOf, mappedField, mappedBit_of_same h]

theorem memLost_of_same (m : MemCtl) (a : Nat) : memLost t m a = memLost s m a := by
  have hretired (k : Nat) : rget t (rRET m) k = rget s (rRET m) k := by
    cases m <;> exact rget_of_same h (by
      simp [regAddr, rRET, mReg, R.BPM_CMD, R.MCD_RETIRE, R.MCH_RETIRE, R.MCD_MAP_CTL, R.MCD_TRAIN_CTL, R.MCH_MAP_CTL,
        R.MCH_TRAIN_CTL] <;> omega)
  rw [memLost, chanRetired, rbit, chanOf_of_same h, hretired, memLost, chanRetired, rbit]

theorem billetAddr_of_same (n i : Nat) : billetAddr t n i = billetAddr s n i := by
  simp only [billetAddr, poolBase_of_same h, poolLoc_of_same h, poolCount_of_same h, poolExp_of_same h]

theorem billetTag_of_same (n i : Nat) : billetTag t n i = billetTag s n i := by
  have hlost : billetLost t n i = billetLost s n i := by
    simp only [billetLost, runLost, memLost_of_same h, billetAddr_of_same h, poolBase_of_same h, poolLoc_of_same h,
      poolExp_of_same h]
  rw [billetTag, tagRaw_of_same h, hlost, billetTag]

theorem billetRetired_of_same (n i : Nat) : billetRetired t n i = billetRetired s n i := by
  rw [billetRetired, billetTag_of_same h, billetRetired]

theorem freshFrom_of_same (n i f : Nat) : freshFrom t n i f = freshFrom s n i f := by
  induction f generalizing i with
  | zero => rfl
  | succ f ih => rw [freshFrom, freshFrom, billetRetired_of_same h, ih]

theorem takeBillet_of_same (n : Nat) : takeBillet t n = takeBillet s n := by
  have hready : poolReady t n = poolReady s n := by simp only [poolReady, poolLoc_of_same h, memReady_of_same h]
  simp only [takeBillet, poolFree, hready, poolSt_of_same h, poolOpen_of_same h, poolCount_of_same h,
    freshFrom_of_same h] <;> rfl

theorem poolExhausted_of_same (n : Nat) : poolExhausted t n = poolExhausted s n := by
  rw [poolExhausted, takeBillet_of_same h, poolExhausted]

theorem candidatePools_of_same (size mask : Nat) : candidatePools t size mask = candidatePools s size mask := by
  simp only [candidatePools, poolOpen_of_same h, poolExp_of_same h]

theorem smallestPool_of_same (ns : List Nat) : smallestPool t ns = smallestPool s ns := by
  simp only [smallestPool, poolExp_of_same h]

end

/-! ### An access to a tag -/

theorem regsBut_memAsk (m : MemCtl) (a : Nat) (s : State) : RegsBut useRegs s (memAsk m a s) := by
  have hlock : RegsBut useRegs s (mapLock m s) := regsBut_rsetF (regsBut_refl _ s) (by cases m <;> decide) 0 0 1
  have hwake (c : Nat) (t : State) : RegsBut useRegs t (wakeChan m c t) := by
    unfold wakeChan
    split
    · exact regsBut_rsetF (regsBut_of_regs (by cases m <;> rfl)) (by cases m <;> decide) _ _ _
    · exact regsBut_refl _ t
  unfold memAsk
  dsimp only
  split
  · exact hlock
  · exact regsBut_trans hlock (regsBut_trans (regsBut_of_regs (by cases m <;> rfl)) (hwake _ _))

theorem regs_memServe (m : MemCtl) (a : Nat) (write : Bool) (s : State) : (memServe m a write s).regs = s.regs := by
  have hbank : (bankUse m a s).regs = s.regs := by cases m <;> rfl
  unfold memServe
  dsimp only
  split
  · rfl
  · split <;> exact hbank

/-- R371, R373: the access changes the memory, the lock of its map and BUSY of its training, and the Gauge. -/
theorem same_memPost (m : MemCtl) (a : Nat) (write : Bool) (s : State) : SameForBpm s (memPost m a write s) := by
  refine ⟨(memOnly_memPost m a write s).bpm, (memOnly_memPost m a write s).tau,
    regsBut_trans (regsBut_memAsk m a s) (regsBut_of_regs ?_)⟩
  unfold memPost
  dsimp only
  split
  · cases m <;> rfl
  · exact regs_memServe m a write _

theorem same_tagUse (n i : Nat) (write : Bool) (s : State) : SameForBpm s (tagUse n i write s) := by
  unfold tagUse
  split
  · exact same_memPost _ _ _ s
  · exact ⟨rfl, rfl, regsBut_refl _ s⟩

theorem memOnly_tagUse (n i : Nat) (write : Bool) (s : State) : MemOnly s (tagUse n i write s) := by
  unfold tagUse
  split
  · exact memOnly_memPost _ _ _ s
  · exact MemOnly.refl s

theorem tagUse_of_sram {s : State} {n : Nat} (h : locMem (poolLoc s n) = none) (i : Nat) (write : Bool) :
    tagUse n i write s = s := by
  rw [tagUse, h]

theorem MemOnly.fab {s t : State} (h : MemOnly s t) : t.fab = s.fab := by rw [h.1]

/-! ### Tags and the records of the pools -/

@[simp] theorem tagRaw_setTag_self (n i x : Nat) (s : State) : tagRaw (setTag n i x s) n i = x := mget_mset_self _ _ _ _

theorem tagRaw_setTag_ne {n i m j : Nat} (h : billetKey m j ≠ billetKey n i) (x : Nat) (s : State) :
    tagRaw (setTag n i x s) m j = tagRaw s m j := mget_mset_ne _ _ _ h

@[simp] theorem poolSt_setTag (n i x : Nat) (s : State) : poolSt (setTag n i x s) = poolSt s := rfl

@[simp] theorem poolSt_setPoolSt_self (n : Nat) (p : PoolSt) (s : State) : poolSt (setPoolSt n p s) n = p :=
  mget_mset_self _ _ _ _

theorem poolSt_setPoolSt_ne {n m : Nat} (h : m ≠ n) (p : PoolSt) (s : State) :
    poolSt (setPoolSt n p s) m = poolSt s m := mget_mset_ne _ _ _ h

end Sys2Proof.Proofs
end

section
/-! O38: the allocation of a billet (R331, R334, R335, R339, R340), and pools that come into use and go out of use
(R333, R338, R392). -/

namespace Sys2Proof.Proofs
open Sys2Proof Sys2Proof.Machine Sys2Proof.Laws

/-! ### The pool that serves an allocation -/

/-- R335: the pool chosen is one of those asked for. -/
theorem smallestPool_mem {s : State} {ns : List Nat} {n : Nat} (h : smallestPool s ns = some n) : n ∈ ns := by
  refine List.foldlRecOn ns _ (motive := fun b => ∀ m, b = some m → m ∈ ns) (by simp) ?_ n h
  rintro (_ | b) hb a ha m hm
  · exact Option.some.inj hm ▸ ha
  · dsimp only at hm
    split at hm
    · exact Option.some.inj hm ▸ ha
    · exact hb m hm

theorem candidatePools_lt {s : State} {size mask n : Nat} (h : n ∈ candidatePools s size mask) : n < 16 :=
  List.mem_range.1 (List.mem_filter.1 h).1

theorem takeBillet_used {s : State} {n i : Nat} {p : PoolSt} (h : takeBillet s n = some (i, p)) :
    p.used = (poolSt s n).used + 1 := by
  unfold takeBillet at h
  dsimp only at h
  split at h
  · cases h
  · split at h
    · cases h
      rfl
    · obtain ⟨j, -, hj⟩ := Option.map_eq_some_iff.1 h
      cases hj
      rfl

/-- Billet `i` of a pool is handed out, and the pool's record becomes `p` (R334, R339, R340). -/
def billetTaken (n i : Nat) (p : PoolSt) (owner : Nat) (s : State) : State :=
  setTag n i (2 ^ 15 + (if poolNamed s n then owner % 2 ^ 14 else 1))
    (tagUse n i true (occur 8 1 n 1 (setPoolSt n p s)))

theorem billetTaken_says (n i : Nat) (p : PoolSt) (owner : Nat) (s : State) :
    let t := billetTaken n i p owner s
    tagRaw t n i = 2 ^ 15 + (if poolNamed s n then owner % 2 ^ 14 else 1) ∧
    (∀ m j, billetKey m j ≠ billetKey n i → tagRaw t m j = tagRaw s m j) ∧ poolSt t n = p ∧
    (∀ m, m ≠ n → poolSt t m = poolSt s m) ∧ t.tmg = s.tmg ∧ t.sen = s.sen ∧ t.fab = s.fab ∧
    (locMem (poolLoc s n) = none → t = { s with bpm := t.bpm, gau := t.gau }) := by
  have hmem := memOnly_tagUse n i true (occur 8 1 n 1 (setPoolSt n p s))
  have hsame := same_tagUse n i true (occur 8 1 n 1 (setPoolSt n p s))
  refine ⟨tagRaw_setTag_self .., fun m j hk => (tagRaw_setTag_ne hk _ _).trans (tagRaw_of_same hsame m j),
    (poolSt_of_same hsame n).trans (poolSt_setPoolSt_self n p s),
    fun m hm => (poolSt_of_same hsame m).trans (poolSt_setPoolSt_ne hm p s), hmem.tmg, hmem.sen, hmem.fab,
    fun hsram => ?_⟩
  have huse := tagUse_of_sram (s := occur 8 1 n 1 (setPoolSt n p s)) hsram i true
  rw [billetTaken, huse]
  rfl

section
variable {s : State} {owner size mask : Nat}

theorem bpmAllocate_serves {n i : Nat} {p : PoolSt}
    (hpool : smallestPool s ((candidatePools s size mask).filter (fun n => !poolExhausted s n)) = some n)
    (htake : takeBillet s n = some (i, p)) :
    bpmAllocate owner size mask s = (1, some (n, i), billetTaken n i p owner s) := by
  simp only [bpmAllocate, hpool, allocFrom, htake, Option.map_some, billetTaken]

theorem bpmAllocate_exhausted {n : Nat}
    (hnone : smallestPool s ((candidatePools s size mask).filter (fun n => !poolExhausted s n)) = none)
    (hpool : smallestPool s (candidatePools s size mask) = some n) :
    bpmAllocate owner size mask s = (2, none, countRefused n s) := by
  simp only [bpmAllocate, hnone, hpool]

theorem bpmAllocate_unfit (hnone : candidatePools s size mask = []) : bpmAllocate owner size mask s = (8, none, s) := by
  simp only [bpmAllocate, hnone]
  rfl

end

/-! ### The requester's answer -/

theorem allocationRequest_waits {s : State} {r owner : Requester} {size : Nat} {mask : BitVec 16}
    (h : bpmTurn s 1 r.toNat = false) : exec (.allocationRequest r owner size mask) s = .next s := by
  change execAllocationRequest r owner size mask s = _
  rw [execAllocationRequest, if_neg (Bool.eq_false_iff.1 h)]

/-- The answer: its code at [63:59], and the handle of a billet handed out below it. -/
theorem allocationRequest_answers {s t : State} {r owner : Requester} {size : Nat} {mask : BitVec 16} {code : Nat}
    {b : Option (Nat × Nat)} (hturn : bpmTurn s 1 r.toNat = true)
    (h : bpmAllocate (ownerFor r.toNat owner.toNat) size mask.toNat s = (code, b, t)) :
    exec (.allocationRequest r owner size mask) s =
      .next (answer (BitVec.ofNat 64 (code * 2 ^ 59 + b.elim 0 (fun k => billetKey k.1 k.2))) t) := by
  change execAllocationRequest r owner size mask s = _
  rw [execAllocationRequest, if_pos hturn, h]
  cases b <;> rfl

theorem allocationRequest_refused {s t : State} {r owner : Requester} {size : Nat} {mask : BitVec 16} {code : Nat}
    (hturn : bpmTurn s 1 r.toNat = true)
    (h : bpmAllocate (ownerFor r.toNat owner.toNat) size mask.toNat s = (code, none, t)) :
    exec (.allocationRequest r owner size mask) s = .next (answer (BitVec.ofNat 64 (code * 2 ^ 59)) t) := by
  rw [allocationRequest_answers hturn h, Option.elim_none, Nat.add_zero]

/-- What a served requester finds, whatever word answers it. -/
theorem answered_taken (w : Word) (n i : Nat) (p : PoolSt) (owner : Nat) (s : State) :
    let t := answer w (billetTaken n i p owner s)
    tagRaw t n i = 2 ^ 15 + (if poolNamed s n then owner % 2 ^ 14 else 1) ∧
    (∀ m j, billetKey m j ≠ billetKey n i → tagRaw t m j = tagRaw s m j) ∧ poolSt t n = p ∧
    (∀ m, m ≠ n → poolSt t m = poolSt s m) ∧ t.tmg = s.tmg ∧ t.sen = s.sen ∧ t.fab = s.fab ∧
    (locMem (poolLoc s n) = none → t = { s with bpm := t.bpm, gau := t.gau, lastRead := t.lastRead }) := by
  obtain ⟨htag, hothers, hst, hpools, htmg, hsen, hfab, hsram⟩ := billetTaken_says n i p owner s
  exact ⟨htag, hothers, hst, hpools, htmg, hsen, hfab, fun h => congrArg (answer w) (hsram h)⟩

/-- What a refused requester finds: the refusal is counted (R335). -/
theorem answered_refused (w : Word) (n : Nat) (s : State) :
    let t := answer w (countRefused n s)
    rfld t R.BPM_POOL_CNT n 31 0 = min (rfld s R.BPM_POOL_CNT n 31 0 + 1) (2 ^ 32 - 1) ∧
    RegsBut [adr R.BPM_POOL_CNT n] s t ∧ t = { s with regs := t.regs, lastRead := t.lastRead } :=
  ⟨rfld_rcount_self s R.BPM_POOL_CNT n (hi := 31) (lo := 0) 1 (by decide) (by decide),
    regsBut_rcount (regsBut_refl _ s) (by simp) _ _ _, rfl⟩

/-! ### A pool comes into use -/

theorem poolFields_off {s : State} {n : Nat} (h : poolEn s n = false) (v : Word) :
    ∃ w, poolFields n v s = rset s R.BPM_POOL_CFG n w := ⟨_, if_neg (Bool.eq_false_iff.1 h)⟩

/-- Every tag of a pool is cleared. -/
def tagsCleared (n : Nat) (s : State) : State :=
  withBpm (fun b => { b with tags := b.tags.filter (fun e => decide (e.1 / 2 ^ 32 ≠ n)) }) s

theorem mget_filter_out {α : Type} {p : Nat × α → Bool} {k : Nat} (h : ∀ e, e.1 = k → p e = false) (d : α)
    (m : SMap α) : mget d (m.filter p) k = d := by
  induction m with
  | nil => rfl
  | cons e m ih =>
    by_cases hk : e.1 = k
    · rwa [List.filter_cons_of_neg (by simp [h e hk])]
    · by_cases hp : p e = true
      · rw [List.filter_cons_of_pos hp, mget, mfind, if_neg hk]
        exact ih
      · rwa [List.filter_cons_of_neg hp]

theorem tagRaw_tagsCleared (n : Nat) (s : State) {i : Nat} (hi : i < 2 ^ 32) : tagRaw (tagsCleared n s) n i = 0 :=
  mget_filter_out (fun e he => by
    have hpool : e.1 / 2 ^ 32 = n := by rw [he, billetKey]; omega
    exact decide_eq_false (not_not_intro hpool)) 0 s.bpm.tags

/-- A pool starts with every billet free, from the next tick on (R334). -/
def poolStarted (n : Nat) (s : State) : State :=
  rsetF (setPoolSt n { PoolSt.init with retired := lostCount (tagsCleared n s) n, on := some s.tau.mono }
    (tagsCleared n s)) R.BPM_POOL_CFG n 63 63 1

theorem poolEnable_starts {s : State} {n : Nat} {v : Word} (hoff : poolEn s n = false)
    (hcount : poolCount (poolFields n v s) n ≠ 0) (hover : poolOverlap (poolFields n v s) n = false)
    (hready : poolReady (poolFields n v s) n = true) : poolEnable n v s = poolStarted n (poolFields n v s) := by
  unfold poolEnable
  dsimp only
  rw [if_neg (Bool.eq_false_iff.1 hoff), if_neg (by simp [hcount, hover, hready])]
  rfl

theorem poolStarted_says (n : Nat) (s : State) :
    let t := poolStarted n s
    poolEn t n = true ∧ poolOpen t n = false ∧ (poolSt t n).on = some s.tau.mono ∧ poolCount t n = poolCount s n ∧
    (poolSt t n).used = 0 ∧ (poolSt t n).freed = [] ∧ (∀ i, i < 2 ^ 32 → tagRaw t n i = 0) ∧
    RegsBut [adr R.BPM_POOL_CFG n] s t ∧ t = { s with regs := t.regs, bpm := t.bpm } := by
  have hst : poolSt (poolStarted n s) n =
      { PoolSt.init with retired := lostCount (tagsCleared n s) n, on := some s.tau.mono } := poolSt_setPoolSt_self ..
  refine ⟨rbit_rsetF_bit _ _ _ _ 1 (by decide), ?_, by rw [hst],
    rfld_rsetF_apart _ _ _ _ (by decide) (by decide) (by decide), by rw [hst]; rfl, by rw [hst]; rfl,
    fun i hi => tagRaw_tagsCleared n s hi, regsBut_rsetF (regsBut_of_regs rfl) (by simp) _ _ _, rfl⟩
  rw [poolOpen, hst]
  exact (congrArg _ (decide_eq_false (not_not_intro rfl))).trans (Bool.and_false _)

theorem poolEnable_says {s : State} {n : Nat} {v : Word} (hoff : poolEn s n = false)
    (hcount : poolCount (poolFields n v s) n ≠ 0) (hover : poolOverlap (poolFields n v s) n = false)
    (hready : poolReady (poolFields n v s) n = true) :
    let t := poolEnable n v s
    poolEn t n = true ∧ poolOpen t n = false ∧ (poolSt t n).on = some s.tau.mono ∧
    poolCount t n = poolCount (poolFields n v s) n ∧ (poolSt t n).used = 0 ∧ (poolSt t n).freed = [] ∧
    (∀ i, i < 2 ^ 32 → tagRaw t n i = 0) ∧ RegsBut [adr R.BPM_POOL_CFG n] s t ∧
    t = { s with regs := t.regs, bpm := t.bpm } := by
  rw [poolEnable_starts hoff hcount hover hready]
  obtain ⟨hen, hopen, hon, hsame, hused, hfreed, htags, hregs, heq⟩ := poolStarted_says n (poolFields n v s)
  obtain ⟨w, hfields⟩ := poolFields_off hoff v
  rw [hfields] at hen hopen hon hsame hused hfreed htags hregs heq ⊢
  exact ⟨hen, hopen, hon, hsame, hused, hfreed, htags,
    regsBut_trans (regsBut_rset (regsBut_refl _ s) (by simp) w) hregs, heq⟩

/-! ### A pool goes out of use -/

theorem poolDisable_stops {s : State} {n : Nat} (hon : poolEn s n = true) (hidle : (poolSt s n).used = 0) (v : Word) :
    poolDisable n v s = rset (rsetF s R.BPM_POOL_CFG n 63 63 0) R.BPM_POOL_STAT n 0 := by
  rw [poolDisable, if_pos hon, if_neg (not_not_intro hidle)]

theorem poolCfg_ne_poolStat (n : Nat) : regAddr R.BPM_POOL_CFG n ≠ regAddr R.BPM_POOL_STAT n := by
  simp only [regAddr, R.BPM_POOL_CFG, R.BPM_POOL_STAT]
  omega

theorem poolDisable_says {s : State} {n : Nat} (hon : poolEn s n = true) (hidle : (poolSt s n).used = 0) (v : Word) :
    let t := poolDisable n v s
    poolEn t n = false ∧ rget t R.BPM_POOL_STAT n = 0 ∧ RegsBut [adr R.BPM_POOL_CFG n, adr R.BPM_POOL_STAT n] s t ∧
    t = { s with regs := t.regs } := by
  dsimp only
  rw [poolDisable_stops hon hidle]
  refine ⟨?_, rget_rset_self .., regsBut_rset (regsBut_rsetF (regsBut_refl _ s) (by simp) _ _ _) (by simp) _, rfl⟩
  rw [poolEn, rbit, rget_rset_ne (poolCfg_ne_poolStat n)]
  exact rbit_rsetF_bit _ _ _ _ 0 (by decide)

/-- R333: the write is refused, with a violation record, while a billet is allocated. -/
theorem poolDisable_refused {s : State} {n : Nat} (hon : poolEn s n = true) (hused : (poolSt s n).used ≠ 0) (v : Word) :
    ErrOnly s (poolDisable n v s) := by
  rw [poolDisable, if_pos hon, if_pos hused]
  exact errOnly_errReport ..

theorem poolCfg_not_err (n : Pool) : regAddr R.BPM_POOL_CFG n.val ∉ errRegs := by
  have hn := n.isLt
  simp [regAddr, R.BPM_POOL_CFG, R.ERR_INT_STAT, R.ERR_LOG_DROP]
  omega

/-! ### The statement -/

/-- Settles O38: an allocation is served by the pool that R335 names, or refused; a pool is started and stopped as said
above. -/
theorem billetsAndPools : Obligations.BilletsAndPools := by
  refine ⟨fun s r owner size mask => ?allocation, fun s n v => ?pool⟩
  case allocation =>
    refine ⟨allocationRequest_waits, fun hturn => ⟨?served, ?exhausted, ?unfit⟩⟩
    case served =>
      intro n i p hpool htake hi
      have hn : n < 16 := candidatePools_lt (List.mem_of_mem_filter (smallestPool_mem hpool))
      have hexec := allocationRequest_answers (owner := owner) hturn (bpmAllocate_serves hpool htake)
      generalize hw : BitVec.ofNat 64 _ = w at hexec
      obtain ⟨htag, hothers, hst, hrest⟩ := answered_taken w n i p (ownerFor r.toNat owner.toNat) s
      refine ⟨_, hexec, ?_, htag, hothers, (congrArg PoolSt.used hst).trans (takeBillet_used htake), hrest⟩
      change w.toNat = _
      rw [← hw, BitVec.toNat_ofNat, Option.elim_some, billetKey]
      omega
    case exhausted =>
      intro n hnone hpool
      have hexec := allocationRequest_refused (owner := owner) hturn (bpmAllocate_exhausted hnone hpool)
      generalize hw : BitVec.ofNat 64 _ = w at hexec
      refine ⟨_, hexec, ?_, answered_refused w n s⟩
      change w.toNat = _
      rw [← hw, BitVec.toNat_ofNat, Nat.mod_eq_of_lt (by decide)]
    case unfit =>
      exact fun hnone => allocationRequest_refused hturn (bpmAllocate_unfit hnone)
  case pool =>
    intro s1 on hup
    have henable : exec (.poolEnable n v) s = .next (poolEnable n.val v s) := servedWrite_of_bridge hup _ _
    have hdisable : exec (.poolDisable n v) s = .next (poolDisable n.val v s) := servedWrite_of_bridge hup _ _
    refine ⟨fun hoff hcount hover hready => ⟨_, henable, poolEnable_says hoff hcount hover hready⟩,
      fun hon => henable.trans (congrArg _ (if_pos hon)), fun hon hidle => ⟨_, hdisable, poolDisable_says hon hidle v⟩,
      fun hon hused => ⟨_, hdisable, ?_⟩⟩
    have herr := poolDisable_refused hon hused v
    exact ⟨(herr.rbit (poolCfg_not_err n) 63).trans hon, (memOnly_of_err herr).bpm⟩

end Sys2Proof.Proofs
end

section
/-! SUPPORT. Release, increment and transfer of a billet (R339 to R341): the read of its tag, the checks, and the tag
that an operation leaves. -/

namespace Sys2Proof.Proofs
open Sys2Proof Sys2Proof.Machine Sys2Proof.Laws

/-- The memory serves the tag of a billet (R389, R392). -/
def TagServed (s : State) (n i : Nat) : Prop :=
  ∀ m, locMem (poolLoc s n) = some m → memReady s m = true ∧ memLost s m (poolBase s n + 2 * i) = false

/-- An allocated billet of a pool in use (R341). -/
def Allocated (s : State) (n i : Nat) : Prop :=
  poolOpen s n = true ∧ i < poolCount s n ∧ (tagRaw s n i).testBit 15 = true

theorem tagServed_of_same {s t : State} (h : SameForBpm s t) {n i : Nat} (hs : TagServed s n i) : TagServed t n i := by
  simpa only [TagServed, poolLoc_of_same h, memReady_of_same h, memLost_of_same h, poolBase_of_same h] using hs

theorem allocated_of_same {s t : State} (h : SameForBpm s t) {n i : Nat} (ha : Allocated s n i) : Allocated t n i := by
  obtain ⟨hopen, hi, halloc⟩ := ha
  exact ⟨(poolOpen_of_same h n).trans hopen, hi.trans_eq (poolCount_of_same h n).symm,
    (congrArg (Nat.testBit · 15) (tagRaw_of_same h n i)).trans halloc⟩

/-! ### The read of a tag -/

theorem tagRead_clean {s : State} {n i : Nat} (h : TagServed s n i) : tagRead n i .clean s = s := by
  unfold tagRead
  dsimp only
  split
  · split
    · rfl
    · next m hm =>
      obtain ⟨hready, hlost⟩ := h m hm
      rw [if_pos hready, hlost]
      rfl
  · rfl

theorem tagRead_closed {s : State} {n i : Nat} (h : poolOpen s n = false ∨ poolCount s n ≤ i) (o : ReadOutcome) :
    tagRead n i o s = s := by
  unfold tagRead
  dsimp only
  refine if_neg ?_
  obtain h | h := h <;> simp [h]

theorem beforeMcd_of_err {s t : State} (h : ErrOnly s t) : BeforeMcd s t := fun a ha =>
  h.2 a fun hmem => absurd ha (Nat.not_lt.2 ((by decide : ∀ b ∈ errRegs, mcdBase ≤ b) a hmem))

theorem beforeMcd_eccCount (m : MemCtl) (c kind a hi lo hi' lo' : Nat) (s : State) :
    BeforeMcd s (eccAddr m kind c a (rcount (rcount s (rECC m) 0 hi lo 1) (rCH m) c hi' lo' 1)) :=
  ((beforeMcd_mReg (by decide) (by decide) m s _ _).trans (beforeMcd_mReg (by decide) (by decide) m _ _ _)).trans
    (beforeMcd_mReg (by decide) (by decide) m _ _ _)

theorem beforeMcd_eccEvent (m : MemCtl) (a : Nat) (s : State) : BeforeMcd s (eccEvent m a .uncorrectable s) :=
  (beforeMcd_eccCount m _ _ _ _ _ _ _ s).trans (beforeMcd_of_err (errOnly_errReport ..))

theorem beforeMcd_eccFirst (m : MemCtl) (a : Nat) (s : State) : BeforeMcd s (eccFirst m a s) := by
  cases m with
  | mcd => exact beforeMcd_eccEvent .mcd a s
  | mch => exact (beforeMcd_eccCount .mch _ _ _ _ _ _ _ s).trans (beforeMcd_of_err (errOnly_errReport ..))

theorem memOnly_eccFirst (m : MemCtl) (a : Nat) (s : State) : MemOnly s (eccFirst m a s) := by
  cases m with
  | mcd => exact memOnly_eccEvent .mcd a .uncorrectable s
  | mch => exact (memOnly_eccCount .mch _ _ _ _ _ _ _ s).trans (memOnly_errReport ..)

theorem beforeMcd_lostRead (m : MemCtl) (a : Nat) (s : State) : BeforeMcd s (lostRead m a s) :=
  (beforeMcd_mReg (by decide) (by decide) m s _ _).trans (beforeMcd_of_err (errOnly_errReport ..))

/-- R386, R389: two reads that fail are recorded by the memory's controller. -/
theorem readTwice_failed (m : MemCtl) (a : Nat) (s : State) :
    BeforeMcd s (readTwice m a .failed s) ∧ MemOnly s (readTwice m a .failed s) := by
  unfold readTwice
  dsimp only
  split
  · exact ⟨(beforeMcd_lostRead m a s).trans (beforeMcd_lostRead m a _),
      (memOnly_lostRead m a s).trans (memOnly_lostRead m a _)⟩
  · exact ⟨(beforeMcd_eccFirst m a s).trans (beforeMcd_eccEvent m a _),
      (memOnly_eccFirst m a s).trans (memOnly_eccEvent m a _ _)⟩

/-- R386: a billet whose tag cannot be read becomes retired. -/
theorem tagRead_failed {s : State} {n i : Nat} (hserved : TagServed s n i) (hopen : poolOpen s n = true)
    (hi : i < poolCount s n) :
    ∃ v, tagRead n i .failed s = setTag n i (tagRaw s n i ||| 2 ^ 14) v ∧ BeforeMcd s v ∧ MemOnly s v := by
  unfold tagRead
  dsimp only
  rw [if_pos (by simp [hopen, hi])]
  split
  · exact ⟨s, rfl, BeforeMcd.refl s, MemOnly.refl s⟩
  · next m hm =>
    obtain ⟨hready, hlost⟩ := hserved m hm
    obtain ⟨hregs, hmem⟩ := readTwice_failed m (poolBase s n + 2 * i) s
    refine ⟨readTwice m (poolBase s n + 2 * i) .failed s, ?_, hregs, hmem⟩
    rw [if_pos hready, hlost, if_pos (by simp), if_neg Bool.false_ne_true, tagRaw, hmem.bpm, tagRaw]

/-! ### The checks of R341 -/

section
variable {s : State} {req n i : Nat}

theorem bpmCheck_closed (h : poolOpen s n = false ∨ poolCount s n ≤ i) (op : BilletOp) : bpmCheck s op req n i = 6 := by
  refine if_pos ?_
  rintro ⟨hopen, hi⟩
  obtain h | h := h
  · exact Bool.false_ne_true (h.symm.trans hopen)
  · omega

theorem bpmCheck_free (hopen : poolOpen s n = true) (hi : i < poolCount s n) (hfree : (tagRaw s n i).testBit 15 = false)
    (op : BilletOp) : bpmCheck s op req n i = 3 := by
  simp [bpmCheck, hopen, hi, hfree]

variable (ha : Allocated s n i)
include ha

theorem bpmCheck_release_counted (hmode : poolNamed s n = false) : bpmCheck s .release req n i = 1 := by
  obtain ⟨hopen, hi, halloc⟩ := ha
  simp [bpmCheck, hopen, hi, halloc, hmode]

theorem bpmCheck_release_other (hmode : poolNamed s n = true) (howner : tagRaw s n i % 2 ^ 14 ≠ req) :
    bpmCheck s .release req n i = 4 := by
  obtain ⟨hopen, hi, halloc⟩ := ha
  simpa [bpmCheck, hopen, hi, halloc, hmode] using howner

theorem bpmCheck_increment (hmode : poolNamed s n = false) (k : Nat) :
    bpmCheck s (.increment k) req n i = if 4095 < tagRaw s n i % 2 ^ 12 + k then 5 else 1 := by
  obtain ⟨hopen, hi, halloc⟩ := ha
  simp [bpmCheck, hopen, hi, halloc, hmode]

theorem bpmCheck_transfer_owner (hmode : poolNamed s n = true) (howner : tagRaw s n i % 2 ^ 14 = req) (o : Nat) :
    bpmCheck s (.transfer o) req n i = 1 := by
  obtain ⟨hopen, hi, halloc⟩ := ha
  simpa [bpmCheck, hopen, hi, halloc, hmode] using howner

end

/-! ### What an operation leaves -/

/-- The tag of one billet becomes `x`, and every other tag and every block but the pools' memory stays. -/
def TagBecomes (s : State) (n i x : Nat) (t : State) : Prop :=
  tagRaw t n i = x ∧ (∀ m j, billetKey m j ≠ billetKey n i → tagRaw t m j = tagRaw s m j) ∧
  t.tmg = s.tmg ∧ t.sen = s.sen ∧ t.fab = s.fab ∧ (locMem (poolLoc s n) = none → t = { s with bpm := t.bpm })

theorem tagBecomes_used (s : State) (n i x : Nat) (f : Bpm → Bpm) (hf : ∀ b, (f b).tags = b.tags) :
    TagBecomes s n i x (setTag n i x (withBpm f (tagUse n i true s))) := by
  have hmem := memOnly_tagUse n i true s
  refine ⟨tagRaw_setTag_self .., fun m j hk => ?_, hmem.tmg, hmem.sen, hmem.fab, fun hsram => ?_⟩
  · rw [tagRaw_setTag_ne hk, ← tagRaw_of_same (same_tagUse n i true s)]
    exact congrArg (mget 0 · (billetKey m j)) (hf _)
  · rw [tagUse_of_sram hsram]
    rfl

section
variable {s : State} {op : BilletOp} {req n i : Nat}

theorem bpmOp_passes (hserved : TagServed s n i) (hpass : bpmCheck s op req n i = 1) :
    bpmOp op req n i .clean s = (1, bpmApply op n i (tagUse n i true s)) := by
  simp [bpmOp, tagRead_clean hserved, hpass]

theorem bpmOp_fails {code : Nat} (hserved : TagServed s n i) (hfail : bpmCheck s op req n i = code) (h1 : code ≠ 1)
    (h6 : code ≠ 6) : bpmOp op req n i .clean s = (code, bpmRefuse code req n i (tagUse n i false s)) := by
  simp [bpmOp, tagRead_clean hserved, hfail, h1, h6]

theorem bpmOp_closed (h : poolOpen s n = false ∨ poolCount s n ≤ i) (o : ReadOutcome) :
    bpmOp op req n i o s = (6, bpmRefuse 6 req n i s) := by
  simp [bpmOp, tagRead_closed h, bpmCheck_closed h]

/-- R339: a release of a billet that others share takes one from its count. -/
theorem bpmApply_release_shared (hmode : poolNamed s n = false) (hcount : tagRaw s n i % 2 ^ 12 ≠ 1) :
    bpmApply .release n i (tagUse n i true s) = setTag n i (tagRaw s n i - 1) (tagUse n i true s) := by
  have hsame := same_tagUse n i true s
  have hshared : ¬ (poolNamed (tagUse n i true s) n = true ∨ tagRaw (tagUse n i true s) n i % 2 ^ 12 = 1) := by
    rw [poolNamed_of_same hsame, tagRaw_of_same hsame, hmode]
    exact not_or.2 ⟨Bool.false_ne_true, hcount⟩
  rw [bpmApply, if_neg hshared, tagRaw_of_same hsame]

variable (hserved : TagServed s n i) (ha : Allocated s n i)
include hserved ha

theorem release_shared (hmode : poolNamed s n = false) (hcount : tagRaw s n i % 2 ^ 12 ≠ 1) :
    ∃ t, bpmOp .release req n i .clean s = (1, t) ∧ TagBecomes s n i (tagRaw s n i - 1) t := by
  refine ⟨_, bpmOp_passes hserved (bpmCheck_release_counted ha hmode), ?_⟩
  rw [bpmApply_release_shared hmode hcount]
  exact tagBecomes_used s n i _ id fun _ => rfl

/-- R334, R339: a release of a billet with a count of 1 makes it free. -/
theorem release_last (hmode : poolNamed s n = false) (hcount : tagRaw s n i % 2 ^ 12 = 1)
    (hkept : billetRetired s n i = false) :
    ∃ t, bpmOp .release req n i .clean s = (1, t) ∧ TagBecomes s n i 0 t ∧
      (poolSt t n).freed = i :: (poolSt s n).freed ∧ (poolSt t n).used = (poolSt s n).used - 1 := by
  have hsame := same_tagUse n i true s
  refine ⟨_, bpmOp_passes hserved (bpmCheck_release_counted ha hmode), ?_⟩
  rw [bpmApply, if_pos (.inr ((congrArg (· % 2 ^ 12) (tagRaw_of_same hsame n i)).trans hcount)), freeBillet,
    if_neg (by simp [billetRetired_of_same hsame, hkept]), poolSt_of_same hsame]
  refine ⟨tagBecomes_used s n i 0 (fun b => { b with pools := mset PoolSt.init b.pools n _ }) fun _ => rfl, ?_, ?_⟩ <;>
    rw [poolSt_setTag, poolSt_setPoolSt_self]

/-- R339: an increment within the greatest count adds to it. -/
theorem increment_within (hmode : poolNamed s n = false) {k : Nat} (hk : tagRaw s n i % 2 ^ 12 + k ≤ 4095) :
    ∃ t, bpmOp (.increment k) req n i .clean s = (1, t) ∧ TagBecomes s n i (tagRaw s n i + k) t := by
  have hsame := same_tagUse n i true s
  refine ⟨_, bpmOp_passes hserved ((bpmCheck_increment ha hmode k).trans (if_neg (Nat.not_lt.2 hk))), ?_⟩
  rw [bpmApply, tagRaw_of_same hsame]
  exact tagBecomes_used s n i _ id fun _ => rfl

/-- R340: a transfer by the billet's owner names the next one. -/
theorem transfer_owned (hmode : poolNamed s n = true) (howner : tagRaw s n i % 2 ^ 14 = req) (o : Nat) :
    ∃ t, bpmOp (.transfer o) req n i .clean s = (1, t) ∧
      TagBecomes s n i (tagRaw s n i / 2 ^ 14 * 2 ^ 14 + o % 2 ^ 14) t := by
  have hsame := same_tagUse n i true s
  refine ⟨_, bpmOp_passes hserved (bpmCheck_transfer_owner ha hmode howner o), ?_⟩
  rw [bpmApply, tagRaw_of_same hsame]
  exact tagBecomes_used s n i _ id fun _ => rfl

/-- R386: a billet whose tag cannot be read becomes retired, and stays allocated. -/
theorem tagRead_failed_says (hn : n < 16) :
    let u := tagRead n i .failed s
    Allocated u n i ∧ poolNamed u n = poolNamed s n ∧ tagRaw u n i = tagRaw s n i ||| 2 ^ 14 ∧
    ∀ m j, billetKey m j ≠ billetKey n i → tagRaw u m j = tagRaw s m j := by
  obtain ⟨hopen, hi, halloc⟩ := ha
  obtain ⟨v, hread, hregs, hmem⟩ := tagRead_failed hserved hopen hi
  have hcfg : rget v R.BPM_POOL_CFG n = rget s R.BPM_POOL_CFG n :=
    hregs.rget (by simp only [regAddr, R.BPM_POOL_CFG, mcdBase]; omega)
  have hv : poolOpen v n = poolOpen s n := by
    rw [poolOpen, poolEn, rbit, hcfg, poolSt, hmem.bpm, hmem.tau, poolOpen, poolEn, rbit, poolSt]
  have hcount : poolCount v n = poolCount s n := congrArg (fld · 31 0) hcfg
  dsimp only
  rw [hread]
  refine ⟨⟨hv.trans hopen, hi.trans_eq hcount.symm, ?_⟩, congrArg (bit · 60) hcfg, tagRaw_setTag_self ..,
    fun m j hk => ?_⟩
  · rw [tagRaw_setTag_self, Nat.testBit_or, halloc, Bool.true_or]
  · rw [tagRaw_setTag_ne hk, tagRaw, hmem.bpm, tagRaw]

/-- R386: a billet whose tag cannot be read is released all the same. -/
theorem release_unread (hn : n < 16) (hmode : poolNamed s n = false) (hcount : tagRaw s n i % 2 ^ 12 ≠ 1) :
    let t := (bpmOp .release req n i .failed s).2
    tagRaw t n i = (tagRaw s n i ||| 2 ^ 14) - 1 ∧
    ∀ m j, billetKey m j ≠ billetKey n i → tagRaw t m j = tagRaw s m j := by
  obtain ⟨hu, hmodeU, htag, hothers⟩ := tagRead_failed_says hserved ha hn
  have hend : (bpmOp .release req n i .failed s).2 =
      bpmApply .release n i (tagUse n i true (tagRead n i .failed s)) := by
    simp [bpmOp, bpmCheck_release_counted hu (hmodeU.trans hmode)]
  have hshared : tagRaw (tagRead n i .failed s) n i % 2 ^ 12 ≠ 1 := by
    rw [htag, Nat.or_mod_two_pow]
    simpa using hcount
  dsimp only
  rw [hend, bpmApply_release_shared (hmodeU.trans hmode) hshared, htag]
  refine ⟨tagRaw_setTag_self .., fun m j hk => ?_⟩
  rw [tagRaw_setTag_ne hk, tagRaw_of_same (same_tagUse ..), hothers m j hk]

end

end Sys2Proof.Proofs
end

section
/-! O39: release, increment and transfer (R339 to R341, R386), the commands of BPM_CMD (R345), and the refusal log
(R344). -/

namespace Sys2Proof.Proofs
open Sys2Proof Sys2Proof.Machine Sys2Proof.Laws

/-! ### A requester's turn -/

section
variable {s : State} {r : Requester}

theorem bpmRequest_waits (h : bpmTurn s 0 r.toNat = false) (op : BilletOp) (g : TagRead) : bpmRequest op r g s = s :=
  if_neg (Bool.eq_false_iff.1 h)

theorem bpmRequest_served (h : bpmTurn s 0 r.toNat = true) (op : BilletOp) (g : TagRead) :
    bpmRequest op r g s = (bpmOp op r.toNat g.handle.pool.val g.handle.index.toNat g.tag s).2 := if_pos h

/-- An operation that a requester asks for ends as the operation itself does. -/
theorem request_ends {op : BilletOp} {g : TagRead} {c : Instr} (h : bpmTurn s 0 r.toNat = true)
    (hc : exec c s = .next (bpmRequest op r g s)) {code : Nat} {t : State}
    (hop : bpmOp op r.toNat g.handle.pool.val g.handle.index.toNat g.tag s = (code, t)) : exec c s = .next t := by
  rw [hc, bpmRequest_served h, hop]

end

/-! ### GO of BPM_CMD -/

theorem bpmCmd_fields : R.BPM_CMD.fields.Pairwise Apart ∧ ∀ f ∈ R.BPM_CMD.fields, f.lo ≤ f.hi ∧ f.hi < 64 := by decide

/-- BPM_CMD takes a command up: its fields as written, and OP. -/
def cmdTaken (op : Nat) (v : Word) (s : State) : State :=
  rset s R.BPM_CMD 0 (writeReg false R.BPM_CMD (rget s R.BPM_CMD 0) (setFld v 55 52 op))

theorem same_cmdTaken (op : Nat) (v : Word) (s : State) : SameForBpm s (cmdTaken op v s) :=
  ⟨rfl, rfl, regsBut_rset (regsBut_refl _ s) (by simp) _⟩

theorem cmdTaken_sen (op : Nat) (v : Word) (s : State) : (cmdTaken op v s).sen = s.sen := rset_sen ..

theorem cmdTaken_mask (op : Nat) (v : Word) (s : State) :
    rfld (cmdTaken op v s) R.BPM_CMD 0 51 36 = fld v 51 36 := by
  obtain ⟨hd, hw⟩ := bpmCmd_fields
  rw [rfld, cmdTaken, rget_rset_self, fld_writeReg_any (rst := 0) hd hw (by decide),
    fld_setFld_ne _ _ (by decide) (by decide) (by decide)]

theorem cmdTaken_size {v : Word} (h1 : 1 ≤ fld v 35 21) (h2 : fld v 35 21 ≤ 16384) (op : Nat) (s : State) :
    rfld (cmdTaken op v s) R.BPM_CMD 0 35 21 = fld v 35 21 := by
  obtain ⟨hd, hw⟩ := bpmCmd_fields
  have hfield : (⟨35, 21, .rw, 1, .range 1 16384⟩ : RField) ∈ R.BPM_CMD.fields := by decide
  have hv : fld (setFld v 55 52 op) 35 21 = fld v 35 21 := fld_setFld_ne _ _ (by decide) (by decide) (by decide)
  have hclamp : clampTo 1 16384 (fld v 35 21) = fld v 35 21 := by
    rw [clampTo, if_neg (Nat.not_lt.2 h1), if_neg (Nat.not_lt.2 h2)]
  rw [rfld, cmdTaken, rget_rset_self, fld_writeReg hd hw hfield, writeField,
    fld_setFld_self _ _ _ _ (by decide) (by decide), hv, clampField, hclamp, Nat.mod_eq_of_lt (fld_lt v 35 21)]

theorem cmdHandle_cmdTaken (op : Nat) (v : Word) (s : State) : cmdHandle (cmdTaken op v s) = cmdHandle s := by
  have hhandle : rget (cmdTaken op v s) R.BPM_CMD_HANDLE 0 = rget s R.BPM_CMD_HANDLE 0 := rget_rset_ne (by decide) s _
  rw [cmdHandle, rfld, rfld, hhandle, cmdHandle, rfld, rfld]

theorem cmdArg_cmdTaken (op : Nat) (v : Word) (s : State) (hi lo : Nat) :
    rfld (cmdTaken op v s) R.BPM_CMD_ARG 0 hi lo = rfld s R.BPM_CMD_ARG 0 hi lo := rfld_rset_ne (by decide) s _ hi lo

/-- The command has run: its result waits, and BUSY stands (R345). -/
def cmdRan (r : Nat × State) : State :=
  rsetF (rsetF (withBpm (fun b => { b with result := some r.1 }) r.2) R.BPM_CMD 0 62 59 0) R.BPM_CMD 0 63 63 1

theorem cmdRan_says (code : Nat) (t : State) :
    rbit (cmdRan (code, t)) R.BPM_CMD 0 63 = true ∧ (cmdRan (code, t)).bpm.result = some code ∧
    (cmdRan (code, t)).sen = t.sen ∧ (cmdRan (code, t)).bpm.tags = t.bpm.tags :=
  ⟨rbit_rsetF_bit _ _ _ _ 1 (by decide), rfl, rfl, rfl⟩

theorem rfld_cmdRan {r : Reg} {i : Nat} (h : regAddr r i ≠ regAddr R.BPM_CMD 0) (code : Nat) (t : State) (hi lo : Nat) :
    rfld (cmdRan (code, t)) r i hi lo = rfld t r i hi lo := by
  rw [rfld, cmdRan, rget_rsetF_ne h, rget_rsetF_ne h, rfld]
  rfl

section
variable {s : State} (hup : s.bridgeUp = true)
include hup

theorem bpmRow_busy (hbusy : rbit s R.BPM_CMD 0 63 = true) (op : Nat) (v : Word) (run : State → Nat × State) :
    bpmRow op v run s = .next s := by
  rw [bpmRow, servedWrite_of_bridge hup, bpmStart, if_pos (by simp [hbusy])]

theorem bpmRow_runs {op : Nat} {v : Word} (hidle : rbit s R.BPM_CMD 0 63 = false)
    (hturn : bpmTurn s (if op = 0 then 1 else 0) 0x1000 = true) (hgo : bit v 0 = true) (run : State → Nat × State) :
    bpmRow op v run s = .next (cmdRan (run (cmdTaken op v s))) := by
  rw [bpmRow, servedWrite_of_bridge hup, bpmStart, if_neg (by simp [hidle, hturn])]
  exact congrArg _ (if_pos hgo)

end

/-! ### The commands -/

/-- An operation on the billet of BPM_CMD_HANDLE, run as a command, ends as it does when a requester asks for it. -/
theorem command_ends {s t : State} {k x : Nat} {v : Word} (hup : s.bridgeUp = true)
    (hidle : rbit s R.BPM_CMD 0 63 = false) (hturn : bpmTurn s 0 0x1000 = true) (hgo : bit v 0 = true) (hk : k ≠ 0)
    {run : State → Nat × State} {n i : Nat} (hrun : run (cmdTaken k v s) = (1, t))
    (ht : TagBecomes (cmdTaken k v s) n i x t) :
    ∃ u, bpmRow k v run s = .next u ∧ rbit u R.BPM_CMD 0 63 = true ∧ u.bpm.result = some 1 ∧ u.sen = s.sen ∧
      tagRaw u n i = x := by
  obtain ⟨htag, -, -, hsen, -, -⟩ := ht
  obtain ⟨hbusy, hres, hsenU, htags⟩ := cmdRan_says 1 t
  refine ⟨cmdRan (1, t), ?_, hbusy, hres, hsenU.trans (hsen.trans (cmdTaken_sen k v s)), ?_⟩
  · rw [bpmRow_runs hup hidle (by rwa [if_neg hk]) hgo, hrun]
  · rw [← htag, tagRaw, htags, tagRaw]

/-- The handle and the address of a billet are loaded (R345). -/
def handleShown (n i : Nat) (s : State) : State :=
  rset (rset s R.BPM_CMD_HANDLE 0 (BitVec.ofNat 64 (billetKey n i))) R.BPM_CMD_ADDR 0
    (BitVec.ofNat 64 (billetAddr s n i))

theorem handleShown_says {n i : Nat} (hn : n < 16) (hi : i < 2 ^ 32) (s : State) :
    rfld (handleShown n i s) R.BPM_CMD_HANDLE 0 35 32 = n ∧ rfld (handleShown n i s) R.BPM_CMD_HANDLE 0 31 0 = i := by
  have hhandle : rget (handleShown n i s) R.BPM_CMD_HANDLE 0 = BitVec.ofNat 64 (billetKey n i) := by
    rw [handleShown, rget_rset_ne (by decide), rget_rset_self]
  simp only [rfld, hhandle, fld, billetKey, BitVec.toNat_ofNat, Nat.shiftRight_eq_div_pow]
  omega

theorem handleShown_sen (n i : Nat) (s : State) : (handleShown n i s).sen = s.sen := by
  rw [handleShown, rset_sen, rset_sen]

theorem handleShown_tags (n i : Nat) (s : State) : (handleShown n i s).bpm.tags = s.bpm.tags := by
  rw [handleShown, rset_bpm, rset_bpm]

theorem allocated_testBit {x : Nat} (h : x < 2 ^ 15) : (2 ^ 15 + x).testBit 15 = true := by
  rw [Nat.testBit_two_pow_add_eq, Nat.testBit_lt_two_pow h, Bool.not_false]

theorem bpmAllocate_runs {s t : State} {v : Word} {code n i : Nat} (hup : s.bridgeUp = true)
    (hidle : rbit s R.BPM_CMD 0 63 = false) (hturn : bpmTurn s 1 0x1000 = true) (hgo : bit v 0 = true)
    (hserve : bpmAllocate (rfld (cmdTaken 0 v s) R.BPM_CMD_ARG 0 13 0) (rfld (cmdTaken 0 v s) R.BPM_CMD 0 35 21)
      (rfld (cmdTaken 0 v s) R.BPM_CMD 0 51 36) (cmdTaken 0 v s) = (code, some (n, i), t)) :
    exec (.bpmAllocate v) s = .next (cmdRan (code, handleShown n i t)) := by
  change bpmRow 0 v _ s = _
  rw [bpmRow_runs hup hidle (by rwa [if_pos rfl]) hgo]
  simp only [hserve]
  rfl

theorem bpmAllocate_ends {s : State} {v : Word} {n i : Nat} {p : PoolSt} (hup : s.bridgeUp = true)
    (hidle : rbit s R.BPM_CMD 0 63 = false) (hturn : bpmTurn s 1 0x1000 = true) (hgo : bit v 0 = true)
    (h1 : 1 ≤ fld v 35 21) (h2 : fld v 35 21 ≤ 16384) (hi : i < 2 ^ 32) (hn : n < 16)
    (hpool : smallestPool s ((candidatePools s (fld v 35 21) (fld v 51 36)).filter (fun x => !poolExhausted s x)) =
      some n)
    (htake : takeBillet s n = some (i, p)) :
    ∃ u, exec (.bpmAllocate v) s = .next u ∧ rbit u R.BPM_CMD 0 63 = true ∧ u.bpm.result = some 1 ∧ u.sen = s.sen ∧
      rfld u R.BPM_CMD_HANDLE 0 35 32 = n ∧ rfld u R.BPM_CMD_HANDLE 0 31 0 = i ∧ (tagRaw u n i).testBit 15 = true := by
  have hsame := same_cmdTaken 0 v s
  obtain ⟨htag, -, -, -, -, hsen, -, -⟩ :=
    billetTaken_says n i p (rfld (cmdTaken 0 v s) R.BPM_CMD_ARG 0 13 0) (cmdTaken 0 v s)
  have hexec := bpmAllocate_runs hup hidle hturn hgo (bpmAllocate_serves (by
    simpa only [cmdTaken_size h1 h2, cmdTaken_mask, smallestPool_of_same hsame, candidatePools_of_same hsame,
      poolExhausted_of_same hsame] using hpool) ((takeBillet_of_same hsame n).trans htake))
  generalize billetTaken n i p _ _ = x at hexec htag hsen
  obtain ⟨hbusy, hres, hsenU, htags⟩ := cmdRan_says 1 (handleShown n i x)
  obtain ⟨hshowN, hshowI⟩ := handleShown_says hn hi x
  have htagU : tagRaw (cmdRan (1, handleShown n i x)) n i = tagRaw x n i :=
    congrArg (mget 0 · (billetKey n i)) (htags.trans (handleShown_tags n i x))
  refine ⟨_, hexec, hbusy, hres,
    hsenU.trans ((handleShown_sen n i x).trans (hsen.trans (cmdTaken_sen 0 v s))),
    (rfld_cmdRan (by decide) _ _ _ _).trans hshowN, (rfld_cmdRan (by decide) _ _ _ _).trans hshowI, ?_⟩
  rw [htagU, htag]
  refine allocated_testBit ?_
  split <;> omega

theorem bpmRead_ends {s : State} {v : Word} (hup : s.bridgeUp = true) (hidle : rbit s R.BPM_CMD 0 63 = false)
    (hturn : bpmTurn s 0 0x1000 = true) (hgo : bit v 0 = true) {n i : Nat} (hhandle : cmdHandle s = (n, i))
    (hserved : TagServed s n i) (hopen : poolOpen s n = true) (hi : i < poolCount s n) :
    ∃ u, exec (.bpmRead ⟨v, .clean⟩) s = .next u ∧ rbit u R.BPM_CMD 0 63 = true ∧ u.bpm.result = some 1 ∧
      u.sen = s.sen ∧ rfld u R.BPM_CMD_ARG 0 15 0 = billetTag s n i % 2 ^ 16 ∧ u.bpm.tags = s.bpm.tags := by
  have hsame := same_cmdTaken 4 v s
  have hhandleT := (cmdHandle_cmdTaken 4 v s).trans hhandle
  have hsen := cmdTaken_sen 4 v s
  generalize ht : cmdTaken 4 v s = t at hsame hhandleT hsen
  have huse := same_tagUse n i false t
  have hread : tagRead n i .clean t = t := tagRead_clean (tagServed_of_same hsame hserved)
  obtain ⟨hbusy, hres, hsenU, htags⟩ :=
    cmdRan_says 1 (rsetF (tagUse n i false t) R.BPM_CMD_ARG 0 15 0 (billetTag (tagUse n i false t) n i))
  refine ⟨_, ?_, hbusy, hres, hsenU.trans ((rset_sen ..).trans ((memOnly_tagUse n i false t).sen.trans hsen)), ?_,
    htags.trans (congrArg Bpm.tags ((rset_bpm ..).trans (huse.bpm.trans hsame.bpm)))⟩
  · change bpmRow 4 v _ s = _
    rw [bpmRow_runs hup hidle (by exact hturn) hgo, ht]
    simp only [hhandleT, hread, poolOpen_of_same hsame, poolCount_of_same hsame, hopen, hi, and_self, if_true]
  · rw [rfld_cmdRan (by decide), rfld_rsetF_self _ _ _ _ _ _ (by decide) (by decide), billetTag_of_same huse,
      billetTag_of_same hsame]

/-! ### The end of a command -/

theorem bpmCommandDone_waits {s : State} (h : tagHeld s = true) : exec .bpmCommandDone s = .next s := by
  change execBpmCommandDone s = _
  unfold execBpmCommandDone
  split
  · exact if_pos h
  · rfl

/-- RESULT is shown and BUSY clears (R345). -/
def cmdDone (r : Nat) (s : State) : State :=
  rsetF (rsetF (withBpm (fun b => { b with result := none }) s) R.BPM_CMD 0 62 59 r) R.BPM_CMD 0 63 63 0

theorem bpmCommandDone_ends {s : State} {r : Nat} (hr : s.bpm.result = some r) (h : tagHeld s = false) :
    exec .bpmCommandDone s = .next (cmdDone r s) := by
  change execBpmCommandDone s = _
  rw [execBpmCommandDone, hr]
  exact if_neg (Bool.eq_false_iff.1 h)

theorem cmdDone_says {r : Nat} (hr : r < 16) (s : State) :
    let t := cmdDone r s
    rbit t R.BPM_CMD 0 63 = false ∧ rfld t R.BPM_CMD 0 62 59 = r ∧ t.bpm = { s.bpm with result := none } ∧
    RegsBut [adr R.BPM_CMD 0] s t := by
  refine ⟨rbit_rsetF_bit _ _ _ _ 0 (by decide), ?_, rfl,
    regsBut_rsetF (regsBut_rsetF (regsBut_of_regs rfl) (by simp) _ _ _) (by simp) _ _ _⟩
  refine (rfld_rsetF_apart _ _ _ _ (by decide) (by decide) (by decide)).trans ?_
  exact (rfld_rsetF_self _ _ _ _ _ _ (by decide) (by decide)).trans (Nat.mod_eq_of_lt hr)

/-! ### The refusal log -/

theorem tags_bpmRefuse (code req n i : Nat) (s : State) : (bpmRefuse code req n i s).bpm.tags = s.bpm.tags := by
  unfold bpmRefuse
  dsimp only
  rw [(memOnly_errReport ..).bpm]
  split <;> rfl

theorem errLogPop_empty {s : State} (h : s.bpm.log = []) : (errLogPop s).lastRead = 0 := by
  rw [errLogPop, h]
  rfl

/-- The word that the oldest refusal answers with (R344). -/
def refusalWord (r : BpmRec) : Word :=
  BitVec.ofNat 64 (2 ^ 63 + r.code * 2 ^ 59 + r.req % 2 ^ 14 * 2 ^ 42 + r.pool * 2 ^ 32 + r.index)

theorem refusalWord_says {r : BpmRec} (hindex : r.index < 2 ^ 32) (hpool : r.pool < 16) (hcode : r.code < 16) :
    bit (refusalWord r) 63 = true ∧ fld (refusalWord r) 62 59 = r.code ∧ fld (refusalWord r) 31 0 = r.index := by
  simp only [bit_eq_fld, fld, refusalWord, BitVec.toNat_ofNat, Nat.shiftRight_eq_div_pow, Nat.testBit_zero,
    decide_eq_true_eq]
  omega

theorem errLogPop_pops {s : State} {r : BpmRec} {rest : List BpmRec} (h : s.bpm.log = r :: rest) :
    ∃ w, errLogPop s = answer (refusalWord r) (rset (rset (withBpm (fun b => { b with log := rest }) s)
      R.BPM_ERR_LOG 1 (secNsWord r.phc)) R.BPM_ERR_LOG 2 w) := by
  rw [errLogPop, h]
  exact ⟨_, rfl⟩

theorem errLogPop_says {s : State} {r : BpmRec} {rest : List BpmRec} (h : s.bpm.log = r :: rest) :
    (errLogPop s).lastRead = refusalWord r ∧ (errLogPop s).bpm.log = rest ∧
    rget (errLogPop s) R.BPM_ERR_LOG 1 = secNsWord r.phc := by
  obtain ⟨w, hpop⟩ := errLogPop_pops h
  rw [hpop, rget_of_regs (answer_regs _ _), rget_rset_ne (by decide), rget_rset_self, answer_bpm, rset_bpm, rset_bpm]
  exact ⟨rfl, rfl, rfl⟩

/-! ### The statement -/

/-- Settles O39: an operation ends as said above for a requester and for PF0 alike; BPM_CMD and the log follow. -/
theorem billetOperations : Obligations.BilletOperations := by
  refine ⟨fun s r owner h k => ?requests, fun s v => ?commands⟩
  case requests =>
    intro n i tag others ready legal only refused
    have hn : n < 16 := h.pool.isLt
    refine ⟨fun hwait => ⟨congrArg _ (bpmRequest_waits hwait _ _), congrArg _ (bpmRequest_waits hwait _ _),
      congrArg _ (bpmRequest_waits hwait _ _)⟩, fun hturn => ⟨?shared, ?unread, ?last, ?other, ?within, ?above,
      ?transfer, ?free, ?closed⟩, fun code => tags_bpmRefuse code r.toNat n i s⟩
    case shared =>
      rintro ⟨hserved, ha⟩ hmode hcount
      obtain ⟨t, hop, htag, hothers, honly⟩ := release_shared (req := r.toNat) hserved ha hmode hcount
      exact ⟨t, request_ends (op := .release) (g := ⟨h, .clean⟩) hturn rfl hop, htag, hothers, honly⟩
    case unread =>
      rintro ⟨hserved, ha⟩ hmode hcount
      exact ⟨_, request_ends (op := .release) (g := ⟨h, .failed⟩) hturn rfl rfl,
        release_unread hserved ha hn hmode hcount⟩
    case last =>
      rintro ⟨hserved, ha⟩ hmode hcount hkept
      obtain ⟨t, hop, ⟨htag, hothers, honly⟩, hfreed, hused⟩ :=
        release_last (req := r.toNat) hserved ha hmode hcount hkept
      exact ⟨t, request_ends (op := .release) (g := ⟨h, .clean⟩) hturn rfl hop, htag, hothers, hfreed, hused, honly⟩
    case other =>
      rintro ⟨hserved, ha⟩ hmode howner
      exact request_ends (op := .release) (g := ⟨h, .clean⟩) hturn rfl
        (bpmOp_fails hserved (bpmCheck_release_other ha hmode howner) (by decide) (by decide))
    case within =>
      rintro ⟨hserved, ha⟩ hmode hk
      obtain ⟨t, hop, htag, hothers, honly⟩ := increment_within (req := r.toNat) hserved ha hmode hk
      exact ⟨t, request_ends (op := .increment k) (g := ⟨h, .clean⟩) hturn rfl hop, htag, hothers, honly⟩
    case above =>
      rintro ⟨hserved, ha⟩ hmode hk
      exact request_ends (op := .increment k) (g := ⟨h, .clean⟩) hturn rfl
        (bpmOp_fails hserved ((bpmCheck_increment ha hmode k).trans (if_pos hk)) (by decide) (by decide))
    case transfer =>
      rintro ⟨hserved, ha⟩ hmode howner
      obtain ⟨t, hop, htag, hothers, honly⟩ := transfer_owned (req := r.toNat) hserved ha hmode howner owner.toNat
      exact ⟨t, request_ends (op := .transfer owner.toNat) (g := ⟨h, .clean⟩) hturn rfl hop, htag, hothers, honly⟩
    case free =>
      intro hserved hfree hopen hi
      exact ⟨request_ends (op := .transfer owner.toNat) (g := ⟨h, .clean⟩) hturn rfl
          (bpmOp_fails hserved (bpmCheck_free hopen hi hfree _) (by decide) (by decide)),
        request_ends (op := .release) (g := ⟨h, .clean⟩) hturn rfl
          (bpmOp_fails hserved (bpmCheck_free hopen hi hfree _) (by decide) (by decide))⟩
    case closed =>
      intro hclosed
      exact ⟨request_ends (op := .transfer owner.toNat) (g := ⟨h, .clean⟩) hturn rfl (bpmOp_closed hclosed _),
        request_ends (op := .increment k) (g := ⟨h, .clean⟩) hturn rfl (bpmOp_closed hclosed _),
        request_ends (op := .release) (g := ⟨h, .clean⟩) hturn rfl (bpmOp_closed hclosed _)⟩
  case commands =>
    intro busy n i tag ready legal ran hup
    refine ⟨?busy, ?allocate, ?release, ?increment, ?transfer, ?read, bpmCommandDone_waits, ?done, ?pop, ?empty⟩
    case busy =>
      intro c hc hbusy
      fin_cases hc <;> exact bpmRow_busy hup hbusy _ _ _
    case allocate =>
      intro m j p hidle hturn hgo h1 h2 hj hm hpool htake
      exact bpmAllocate_ends hup hidle hturn hgo h1 h2 hj hm hpool htake
    case release =>
      rintro ⟨hserved, hidle, hturn, hgo, ha⟩ hmode hcount
      have hsame := same_cmdTaken 1 v s
      obtain ⟨t, hop, ht⟩ := release_shared (req := 0x1000) (tagServed_of_same hsame hserved)
        (allocated_of_same hsame ha) ((poolNamed_of_same hsame n).trans hmode) (by rwa [tagRaw_of_same hsame])
      rw [tagRaw_of_same hsame] at ht
      exact command_ends hup hidle hturn hgo (by decide) (by rw [cmdHandle_cmdTaken]; exact hop) ht
    case increment =>
      rintro ⟨hserved, hidle, hturn, hgo, ha⟩ hmode hk
      have hsame := same_cmdTaken 2 v s
      obtain ⟨t, hop, ht⟩ := increment_within (req := 0x1000) (tagServed_of_same hsame hserved)
        (allocated_of_same hsame ha) ((poolNamed_of_same hsame n).trans hmode) (by rwa [tagRaw_of_same hsame])
      rw [tagRaw_of_same hsame] at ht
      exact command_ends hup hidle hturn hgo (by decide) (by rw [cmdHandle_cmdTaken, cmdArg_cmdTaken]; exact hop) ht
    case transfer =>
      rintro ⟨hserved, hidle, hturn, hgo, ha⟩ hmode howner
      have hsame := same_cmdTaken 3 v s
      have hname : rfld s R.BPM_CMD_ARG 0 13 0 % 2 ^ 14 = rfld s R.BPM_CMD_ARG 0 13 0 :=
        Nat.mod_eq_of_lt (fld_lt _ 13 0)
      obtain ⟨t, hop, ht⟩ := transfer_owned (req := 0x1000) (tagServed_of_same hsame hserved)
        (allocated_of_same hsame ha) ((poolNamed_of_same hsame n).trans hmode) (by rwa [tagRaw_of_same hsame])
        (rfld s R.BPM_CMD_ARG 0 13 0)
      rw [tagRaw_of_same hsame, hname] at ht
      exact command_ends hup hidle hturn hgo (by decide) (by rw [cmdHandle_cmdTaken, cmdArg_cmdTaken]; exact hop) ht
    case read =>
      rintro ⟨hserved, hidle, hturn, hgo, hopen, hi, -⟩
      exact bpmRead_ends hup hidle hturn hgo rfl hserved hopen hi
    case done =>
      intro r hr hlt hheld
      exact ⟨_, bpmCommandDone_ends hr hheld, cmdDone_says hlt s⟩
    case pop =>
      intro r rest hlog hindex hpool hcode
      obtain ⟨hbit, hfcode, hfindex⟩ := refusalWord_says hindex hpool hcode
      obtain ⟨hread, hrest, htime⟩ := errLogPop_says hlog
      refine ⟨errLogPop s, servedRead_of_bridge hup _ _, ?_, ?_, ?_, hrest, htime⟩ <;> rwa [hread]
    case empty =>
      exact fun hlog => ⟨errLogPop s, servedRead_of_bridge hup _ _, errLogPop_empty hlog⟩

end Sys2Proof.Proofs
end

section
/-! SUPPORT. The links of the fabric interface (R350 to R354): what a cell that leaves changes, how the cells that wait
are sent, and what a link that accepts a cell makes of it. -/

namespace Sys2Proof.Proofs
open Sys2Proof Sys2Proof.Machine Sys2Proof.Laws

/-! ### The records of links, destinations, sources and queues -/

@[simp] theorem fabLink_setFabLink_self (k : Nat) (x : FabLink) (s : State) : fabLink (setFabLink k x s) k = x :=
  mget_mset_self _ _ _ _

theorem fabLink_setFabLink_ne {k j : Nat} (h : j ≠ k) (x : FabLink) (s : State) :
    fabLink (setFabLink k x s) j = fabLink s j := mget_mset_ne _ _ _ h

@[simp] theorem fabDst_setFabDst_self (d : Nat) (x : FabDst) (s : State) : fabDst (setFabDst d x s) d = x :=
  mget_mset_self _ _ _ _

theorem fabDst_setFabDst_ne {d j : Nat} (h : j ≠ d) (x : FabDst) (s : State) :
    fabDst (setFabDst d x s) j = fabDst s j := mget_mset_ne _ _ _ h

@[simp] theorem fabSrc_setFabSrc_self (n : Nat) (x : FabSrc) (s : State) : fabSrc (setFabSrc n x s) n = x :=
  mget_mset_self _ _ _ _

@[simp] theorem queueOf_setQueue_self (q : Nat) (x : Queue_) (s : State) : queueOf (setQueue q x s) q = x :=
  mget_mset_self _ _ _ _

theorem queueOf_setQueue_ne {q j : Nat} (h : j ≠ q) (x : Queue_) (s : State) :
    queueOf (setQueue q x s) j = queueOf s j := mget_mset_ne _ _ _ h

/-! ### A cell leaves on a link -/

@[simp] theorem sendOn_out (k : Nat) (c : FabCell) (s : State) : (sendOn k c s).out = .cell k (cellBytes c) :: s.out := rfl

@[simp] theorem sendOn_replay (k : Nat) (c : FabCell) (s : State) :
    (fabLink (sendOn k c s) k).replay = (fabLink s k).replay ++ [((fabLink s k).txSeq, c)] :=
  congrArg FabLink.replay (fabLink_setFabLink_self k _ s)

theorem fabLink_sendOn_ne {k j : Nat} (h : j ≠ k) (c : FabCell) (s : State) :
    fabLink (sendOn k c s) j = fabLink s j := fabLink_setFabLink_ne h _ s

/-- Which link is next depends on the registers, the time and the fabric interface's links alone (R353). -/
theorem nextLink_congr {s t : State} (hregs : t.regs = s.regs) (htau : t.tau = s.tau) (hlinks : t.fab.links = s.fab.links)
    (hlast : t.fab.lastLink = s.fab.lastLink) : nextLink t = nextLink s := by
  have hfree : linkFree t = linkFree s := by
    funext k
    simp only [linkFree, fabLink, linkSt, rfld_of_regs hregs, htau, hlinks]
    rfl
  rw [nextLink, nextLink, hfree, hlast]

/-! ### The cells that wait -/

/-- With no cell waiting there is none to send. -/
theorem resend_of_empty {s : State} (hresend : s.fab.resend = []) (houtbox : s.fab.outbox = []) : resend s = s := by
  simp [resend, resendAll, hresend, houtbox]

/-- With no link that has room the cells go on waiting. -/
theorem resend_of_noLink {s : State} (h : nextLink s = none) : resend s = s := by
  unfold resend
  cases s.fab.resend.length + s.fab.outbox.length with
  | zero => rfl
  | succ n => simp only [resendAll, h]

/-- A request or grant cell behind which none waits leaves at once where a link has room (R351 to R353). -/
theorem sendControl_of_link {s : State} {k : Nat} (hresend : s.fab.resend = []) (houtbox : s.fab.outbox = [])
    (hnext : nextLink s = some k) (c : FabCell) : sendControl c s = sendOn k c s := by
  have hqueued : nextLink (withFab (fun f => { f with outbox := f.outbox ++ [c] }) s) = some k :=
    (nextLink_congr rfl rfl rfl rfl).trans hnext
  have hback : withFab (fun f => { f with outbox := [] }) (withFab (fun f => { f with outbox := f.outbox ++ [c] }) s) = s := by
    simp only [withFab, ← houtbox]
  simp [sendControl, resend, resendAll, hqueued, hresend, houtbox, hback]

/-- A request or grant cell for which no link has room waits behind the others. -/
theorem sendControl_of_noLink {s : State} (hnext : nextLink s = none) (c : FabCell) :
    sendControl c s = withFab (fun f => { f with outbox := f.outbox ++ [c] }) s :=
  resend_of_noLink ((nextLink_congr rfl rfl rfl rfl).trans hnext)

/-- All that the sending of cells goes by is alike in two states: the registers, the time, what has gone out, and the
links with the cells that wait for them. -/
def SendsAs (s u : State) : Prop :=
  u.regs = s.regs ∧ u.tau = s.tau ∧ u.out = s.out ∧ u.fab.links = s.fab.links ∧ u.fab.lastLink = s.fab.lastLink ∧
  u.fab.resend = s.fab.resend ∧ u.fab.outbox = s.fab.outbox

theorem SendsAs.nextLink {s u : State} (h : SendsAs s u) : nextLink u = nextLink s := by
  obtain ⟨hregs, htau, -, hlinks, hlast, -, -⟩ := h
  exact nextLink_congr hregs htau hlinks hlast

/-- R351 to R353: a request or grant cell that leaves at once goes out on the next link and waits in its replay buffer. -/
theorem SendsAs.leaves {s u : State} {k : Nat} (h : SendsAs s u) (hresend : s.fab.resend = []) (houtbox : s.fab.outbox = [])
    (hnext : Machine.nextLink s = some k) (c : FabCell) :
    let t := sendControl c u
    t.out = .cell k (cellBytes c) :: s.out ∧ t.fab.lastLink = k ∧ t.fab.resend = [] ∧ t.fab.outbox = [] ∧
    (fabLink t k).replay = (fabLink s k).replay ++ [((fabLink s k).txSeq, c)] ∧
    ∀ j, j ≠ k → fabLink t j = fabLink s j := by
  have hnextU := h.nextLink.trans hnext
  obtain ⟨-, -, hout, hlinks, -, hresendU, houtboxU⟩ := h
  have hlink : fabLink u = fabLink s := by
    funext j
    rw [fabLink, fabLink, hlinks]
  dsimp only
  rw [sendControl_of_link (hresendU.trans hresend) (houtboxU.trans houtbox) hnextU, sendOn_out, sendOn_replay, hout, hlink]
  exact ⟨rfl, rfl, hresendU.trans hresend, houtboxU.trans houtbox, rfl,
    fun j hj => (fabLink_sendOn_ne hj c u).trans (congrFun hlink j)⟩

/-- Nothing has changed but what goes out on links, and what waits for it. -/
def SendsOnly (s t : State) : Prop :=
  t = { s with
    fab := { s.fab with links := t.fab.links, lastLink := t.fab.lastLink, resend := t.fab.resend, outbox := t.fab.outbox }
    gau := t.gau, out := t.out }

theorem SendsOnly.trans {s t u : State} (h : SendsOnly s t) (h' : SendsOnly t u) : SendsOnly s u := by
  unfold SendsOnly at h h' ⊢
  rw [h', h]

theorem sendsOnly_sendOn (k : Nat) (c : FabCell) (s : State) : SendsOnly s (sendOn k c s) := rfl

theorem sendsOnly_setResend (cs : List FabCell) (s : State) : SendsOnly s (withFab (fun f => { f with resend := cs }) s) :=
  rfl

theorem sendsOnly_setOutbox (g : List FabCell → List FabCell) (s : State) :
    SendsOnly s (withFab (fun f => { f with outbox := g f.outbox }) s) := rfl

theorem sendsOnly_resendAll (n : Nat) (s : State) : SendsOnly s (resendAll n s) := by
  induction n generalizing s with
  | zero => rfl
  | succ n ih =>
    unfold resendAll
    split
    · rfl
    · next k _ =>
      split
      · next c rest _ =>
        exact ((sendsOnly_setResend rest s).trans (sendsOnly_sendOn k c _)).trans (ih _)
      · next c rest _ _ =>
        exact ((sendsOnly_setOutbox (fun _ => rest) s).trans (sendsOnly_sendOn k c _)).trans (ih _)
      · rfl

theorem sendsOnly_sendControl (c : FabCell) (s : State) : SendsOnly s (sendControl c s) :=
  (sendsOnly_setOutbox (· ++ [c]) s).trans (sendsOnly_resendAll _ _)

theorem queueOf_sendControl (c : FabCell) (s : State) (q : Nat) : queueOf (sendControl c s) q = queueOf s q := by
  rw [sendsOnly_sendControl c s, queueOf, queueOf]

theorem demands_sendControl (c : FabCell) (s : State) : (sendControl c s).fab.demands = s.fab.demands := by
  rw [sendsOnly_sendControl c s]

theorem grantAt_sendControl (c : FabCell) (s : State) : (sendControl c s).fab.grantAt = s.fab.grantAt := by
  rw [sendsOnly_sendControl c s]

/-! ### A cell arrives -/

/-- The cell that comes in now on a link has not been accepted before (R351). -/
def FreshOn (s : State) (k : Nat) : Prop := (rxSeqNow s (fabLink s k) + 4095 - (fabLink s k).ack) % 4096 < 2048

/-- A link after it has accepted a cell. -/
def tookCell (k : Nat) (s : State) : State :=
  setFabLink k { fabLink s k with nak := false, ack := rxSeqNow s (fabLink s k) } s

theorem cellAccepted_of_fresh {s : State} {k : Nat} (hup : linkSt s k = 2) (hnak : (fabLink s k).nak = false)
    (hfresh : FreshOn s k) : cellAccepted k true s = (true, tookCell k s) := by
  unfold FreshOn at hfresh
  simp [cellAccepted, tookCell, hup, hnak, Nat.not_le.2 hfresh]

theorem cellAccepted_of_not_up {s : State} {k : Nat} (hup : linkSt s k ≠ 2) (ok : Bool) :
    cellAccepted k ok s = (false, s) := if_pos hup

/-- A cell for this device in the format that it receives is taken (R354, R363). -/
theorem takeCell_ours {s : State} {ver dst : Nat} (hdst : dst = deviceId s) (hver : ver = fld (rwas s R.FAB_CTL 0) 11 8)
    (f : State → State) : takeCell ver dst f s = f s := by
  simp [takeCell, hdst, hver]

/-- A cell for another device is counted in MISDIR (R354). -/
theorem takeCell_misdirected {s : State} {dst : Nat} (hdst : dst ≠ deviceId s) (ver : Nat) (f : State → State) :
    takeCell ver dst f s = rcount s R.FAB_RX_DROP0 0 31 0 1 := if_pos hdst

end Sys2Proof.Proofs
end

section
/-! O41: data cells of the fabric interface (R353 to R356): one that leaves for its destination, one that comes ahead of
its turn, cells given up after RESEQ_US, and the wait behind a SYNC cell. -/

namespace Sys2Proof.Proofs
open Sys2Proof Sys2Proof.Machine Sys2Proof.Laws

/-! ### The next cell of a VOQ leaves -/

/-- R302: the reads of a packet's HBM cells, where none fails, leave everything but the memories. -/
theorem memOnly_hbmFetch_clean {e : QPkt} {s : State} (h : (hbmFetch e .clean s).res = .read) :
    MemOnly s (hbmFetch e .clean s).st := by
  have hread : MemOnly s ((hbmCells s e).foldl (fun s c => memUse c.1 c.2 false s) s) :=
    memOnly_foldl (fun x (c : MemCtl × Nat) => memOnly_memUse c.1 c.2 false x) _ s
  unfold hbmFetch at h ⊢
  dsimp only at h ⊢
  split at h
  · cases h
  · next hwaits =>
    rw [if_neg hwaits]
    split at h
    · cases h
    · exact hread
    · exact hread

/-- R353, R362: where nothing waits and a VOQ has a cell ready, that cell leaves on the next link, once what it needs of
the memories has been read. -/
theorem cellSend_leaves {s : State} {voq : Queue} {e : QPkt} {sent ver k : Nat} {c : Cell}
    (hresend : s.fab.resend = []) (houtbox : s.fab.outbox = []) (hvoq : isVoq s voq.val = true)
    (hhold : (fabDst s (rfld s R.TMG_Q_CFG voq.val 29 19)).hold = none) (hgrants : grantsDone s = true)
    (hsend : sendable s voq.val = some (e, sent, ver)) (hnext : nextLink s = some k)
    (hcell : nextCell s voq.val e (fabDst s (rfld s R.TMG_Q_CFG voq.val 29 19)) sent ver = some c)
    (hfetch : sent = 0 → (hbmFetch e .clean s).res = .read) :
    ∃ u, MemOnly s u ∧ exec (.cellSend ⟨voq, .clean⟩) s =
      .next (cellLeave voq.val (rfld s R.TMG_Q_CFG voq.val 29 19) k sent ver e c u) := by
  change ∃ u, MemOnly s u ∧ execCellSend ⟨voq, .clean⟩ s = _
  unfold execCellSend
  rw [resend_of_empty hresend houtbox]
  by_cases hfirst : sent = 0
  · refine ⟨_, memOnly_hbmFetch_clean (hfetch hfirst), ?_⟩
    subst hfirst
    simp [hvoq, hhold, hresend, houtbox, hgrants, hsend, hnext, hcell, hfetch rfl]
  · refine ⟨s, MemOnly.refl s, ?_⟩
    simp [hvoq, hhold, hresend, houtbox, hgrants, hsend, hnext, hcell, hfirst]

/-- R353, R356: with a cell that is not its packet's last the destination goes on sending that packet, and the first cell
for a destination begins its hold. -/
theorem cellLeave_of_not_last {c : Cell} (hlast : c.last = false) (q dn k sent ver : Nat) (e : QPkt) (s : State) :
    cellLeave q dn k sent ver e c s =
      setFabDst dn { seq := ((fabDst s dn).seq + 1) % 65536, synced := true
                     hold := if (fabDst s dn).synced then none else some (s.tau.mono + reseqTicks s)
                     sending := some ⟨q, e.pkt.pid, sent + 240, ver⟩ }
        (setQueue q { queueOf s q with credit := (queueOf s q).credit - 1 } (sendOn k (.data c) s)) := by
  simp only [cellLeave, hlast, Bool.false_eq_true, if_false]
  rfl

/-- R353: a cell that is not its packet's last takes the next SEQ of its destination and one credit of its VOQ, waits in
its link's replay buffer, and leaves its packet where it is. -/
theorem cellLeave_says {c : Cell} (hlast : c.last = false) (q dn k sent ver : Nat) (e : QPkt) (s : State) :
    let t := cellLeave q dn k sent ver e c s
    OutEvent.cell k (cellBytes (.data c)) ∈ t.out ∧
    (fabLink t k).replay = (fabLink s k).replay ++ [((fabLink s k).txSeq, .data c)] ∧
    (fabDst t dn).seq = ((fabDst s dn).seq + 1) % 65536 ∧ (queueOf t q).credit = (queueOf s q).credit - 1 ∧
    (queueOf t q).skein = (queueOf s q).skein ∧ t.fab.lastLink = k := by
  have hqueue := queueOf_setQueue_self q { queueOf s q with credit := (queueOf s q).credit - 1 } (sendOn k (.data c) s)
  dsimp only
  rw [cellLeave_of_not_last hlast, fabDst_setFabDst_self]
  exact ⟨List.mem_cons_self, sendOn_replay k (.data c) s, rfl, congrArg Queue_.credit hqueue,
    (congrArg Queue_.skein hqueue).trans rfl, rfl⟩

/-! ### Cells that come ahead of their turn -/

theorem takeFirst_none {α : Type} {p : α → Bool} {l : List α} (h : ∀ x ∈ l, p x = false) : takeFirst p l = none := by
  induction l with
  | nil => rfl
  | cons x l ih =>
    simp only [List.forall_mem_cons] at h
    simp [takeFirst, h.1, ih h.2]

/-- With no cell of the expected SEQ held, nothing is released. -/
theorem releaseRun_of_gap {s : State} {src n : Nat} (hexp : (fabSrc s src).exp = some n)
    (hgap : ∀ e ∈ (fabSrc s src).held, e.1.seq.toNat ≠ n) (fuel : Nat) : releaseRun src fuel s = s := by
  cases fuel with
  | zero => rfl
  | succ f =>
    have hnone : takeFirst (fun e => decide (e.1.seq.toNat = n)) (fabSrc s src).held = none :=
      takeFirst_none fun e he => decide_eq_false (hgap e he)
    simp only [releaseRun, hexp, hnone]

/-- R354: a cell of a synchronised source that is within the window, ahead of its turn and not held already is held. -/
theorem resequence_holds {s : State} {src n : Nat} {c : Cell} (hexp : (fabSrc s src).exp = some n)
    (hahead : 1 ≤ (c.seq.toNat + 65536 - n) % 65536) (hwindow : (c.seq.toNat + 65536 - n) % 65536 < 1024)
    (hheld : ∀ e ∈ (fabSrc s src).held, e.1.seq ≠ c.seq ∧ e.1.seq.toNat ≠ n) :
    resequence src c s =
      setFabSrc src { fabSrc s src with held := (fabSrc s src).held ++ [(c, s.tau.mono)] } s := by
  have hseq : c.seq.toNat ≠ n := by
    intro h
    rw [h] at hahead
    omega
  have hnew : ¬ (1024 ≤ (c.seq.toNat + 65536 - n) % 65536 ∨
      (fabSrc s src).held.any (fun e => decide (e.1.seq = c.seq)) = true) := by
    simp only [List.any_eq_true, decide_eq_true_eq, not_or, not_exists, not_and]
    exact ⟨Nat.not_le.2 hwindow, fun e he => (hheld e he).1⟩
  unfold resequence
  simp only [hexp, if_neg hnew]
  refine releaseRun_of_gap (n := n) (congrArg FabSrc.exp (fabSrc_setFabSrc_self ..)) ?_ _
  rw [fabSrc_setFabSrc_self]
  intro e he
  obtain he | he := List.mem_append.1 he
  · exact (hheld e he).2
  · rw [List.mem_singleton.1 he]
    exact hseq

theorem dataCellRx_accepted {s : State} {k : Link} (hup : linkSt s k.val = 2) (hnak : (fabLink s k.val).nak = false)
    (hfresh : FreshOn s k.val) (c : Cell) :
    exec (.dataCellRx k true c) s = .next (dataCell c (tookCell k.val s)) := by
  change execDataCellRx k true c s = _
  simp [execDataCellRx, cellAccepted_of_fresh hup hnak hfresh]

/-- R354: a cell other than a SYNC cell from a synchronised source enters the source's resequencer. -/
theorem dataCell_synced {s : State} {c : Cell} {n : Nat} (hdst : c.dst.val = deviceId s) (hsync : c.sync = false)
    (hver : c.ver.toNat = fld (rwas s R.FAB_CTL 0) 11 8) (hexp : (fabSrc s c.src.val).exp = some n) :
    dataCell c s = resequence c.src.val c s := by
  simp [dataCell, takeCell_ours hdst hver, hexp, hsync]

/-! ### Cells that are given up -/

/-- A source with no packet in reassembly loses none. -/
theorem loseAsm_of_none {s : State} {src : Nat} (h : (fabSrc s src).asm = none) : loseAsm src s = s := by
  rw [fabSrc] at h
  simp only [loseAsm, h]

/-- R355: the one cell held for a source is released where its turn has come; as it begins no packet and none is in
reassembly, it shows that its packet's FIRST is lost. -/
theorem releaseRun_headless {c : Cell} (hfirst : c.first = false) (src t0 : Nat) (mark : BitVec 4 × BitVec 2 × Fin 524288)
    (s : State) :
    let u := setFabSrc src ⟨some c.seq.toNat, [(c, t0)], none, mark⟩ s
    releaseRun src 1 u =
      releaseHeadless src c (setFabSrc src ⟨some ((c.seq.toNat + 1) % 65536), [], none, mark⟩ u) := by
  simp [releaseRun, takeFirst, releaseCell, hfirst]

/-- R355: the cells that a released cell shows to be missing leave a lost packet, which is counted. -/
theorem releaseHeadless_says {s : State} {src : Nat} (hasm : (fabSrc s src).asm = none) (c : Cell) :
    let t := releaseHeadless src c s
    (fabSrc t src).held = (fabSrc s src).held ∧ (fabSrc t src).exp = (fabSrc s src).exp ∧
    t.regs = (countLost 1 s).regs := by
  unfold releaseHeadless
  rw [loseAsm_of_none hasm]
  unfold setAsm
  dsimp only
  rw [fabSrc_setFabSrc_self]
  have hmark : fabSrc (countLost 1 (setMark src c s)) src = { fabSrc s src with mark := cellMark c } :=
    fabSrc_setFabSrc_self src _ s
  rw [hmark]
  exact ⟨rfl, rfl, rfl⟩

theorem regs_rcount_congr {s t : State} (h : t.regs = s.regs) (r : Reg) (i hi lo n : Nat) :
    (rcount t r i hi lo n).regs = (rcount s r i hi lo n).regs := by
  rw [rcount, rcount, rfld_of_regs h, rsetF, rsetF, rget_of_regs h, rset, rset, h]

/-- R355: with nothing of its source in reassembly, the cell held alone has waited for RESEQ_US; its turn comes and, as it
begins no packet, it is discarded. -/
theorem reseqTimeout_gives_up {s : State} {src : Device} {c : Cell} {t0 n : Nat} (hexp : (fabSrc s src.val).exp = some n)
    (hheld : (fabSrc s src.val).held = [(c, t0)]) (hasm : (fabSrc s src.val).asm = none) (hn : n < 65536)
    (hfirst : c.first = false) (hup : timeUp s (t0 + reseqTicks s) = true) :
    ∃ u, exec (.reseqTimeout src) s = .next (releaseHeadless src.val c u) ∧ u.regs = s.regs ∧
      fabSrc u src.val = ⟨some ((c.seq.toNat + 1) % 65536), [], none, (fabSrc s src.val).mark⟩ := by
  have hturn : (n + (c.seq.toNat + 65536 - n) % 65536) % 65536 = c.seq.toNat := by omega
  refine ⟨setFabSrc src.val ⟨some ((c.seq.toNat + 1) % 65536), [], none, (fabSrc s src.val).mark⟩
    (setFabSrc src.val ⟨some c.seq.toNat, [(c, t0)], none, (fabSrc s src.val).mark⟩ s), ?_, rfl,
    fabSrc_setFabSrc_self ..⟩
  change execReseqTimeout src s = _
  unfold execReseqTimeout
  simp only [hexp, hheld, List.foldl_nil]
  rw [if_pos hup]
  simp only [hasm, hturn, hfirst, List.any_cons, List.any_nil, Bool.and_false, Bool.or_false, Bool.false_eq_true, if_false,
    loseAsm_of_none hasm]
  exact congrArg Host.Outcome.next (releaseRun_headless hfirst ..)

/-! ### The claim -/

/-- Settles O41, clause by clause: a cell that leaves, a cell that comes ahead of its turn, a cell on a link that is not
up, cells given up, and the end of a hold. -/
theorem fabricDataCells : Obligations.FabricDataCells := by
  unfold Obligations.FabricDataCells
  intro s
  dsimp only
  refine ⟨?send, ?ahead, ?notUp, ?givenUp, ?holdEnd⟩
  case send =>
    intro voq e sent ver k c hresend houtbox hvoq hhold hgrants hsend hnext hcell hlast hfetch
    obtain ⟨u, hmem, hexec⟩ := cellSend_leaves hresend houtbox hvoq hhold hgrants hsend hnext hcell hfetch
    have hsays := cellLeave_says hlast voq.val (rfld s R.TMG_Q_CFG voq.val 29 19) k sent ver e u
    simp only [fabLink, fabDst, queueOf, hmem.fab, hmem.tmg] at hsays
    exact ⟨_, hexec, hsays⟩
  case ahead =>
    intro k c n hup hnak hdst hsync hver hfresh hexp hn hahead hwindow hheld
    have hheldNow := (dataCell_synced (s := tookCell k.val s) hdst hsync hver hexp).trans
      (resequence_holds hexp hahead hwindow hheld)
    refine ⟨_, dataCellRx_accepted hup hnak hfresh c, ?_⟩
    rw [hheldNow]
    exact ⟨congrArg FabSrc.held (fabSrc_setFabSrc_self ..), (congrArg FabSrc.exp (fabSrc_setFabSrc_self ..)).trans hexp, rfl⟩
  case notUp =>
    intro k ok c hup
    change execDataCellRx k ok c s = _
    simp [execDataCellRx, cellAccepted_of_not_up hup]
  case givenUp =>
    intro src c t0 n hexp hheld hasm hn hfirst hup
    obtain ⟨u, hexec, hregs, hsrc⟩ := reseqTimeout_gives_up hexp hheld hasm hn hfirst hup
    obtain ⟨hheldT, hexpT, hregsT⟩ := releaseHeadless_says (s := u) (by rw [hsrc]) c
    rw [hsrc] at hheldT hexpT
    have hcount : (releaseHeadless src.val c u).regs = (rcount s R.FAB_RX_DROP1 0 31 0 1).regs := by
      rw [hregsT, countLost, regs_rcount_congr hregs]
    exact ⟨_, hexec, hheldT, hexpT,
      (rfld_of_regs hcount ..).trans (rfld_rcount_self s R.FAB_RX_DROP1 0 1 (by decide) (by decide)),
      regsBut_trans (regsBut_rcount (regsBut_refl _ s) (List.mem_singleton_self _) 31 0 1) (regsBut_of_regs hcount)⟩
  case holdEnd =>
    intro dst m hhold hup
    refine ⟨setFabDst dst.val { fabDst s dst.val with hold := none } s, ?_, fabDst_setFabDst_self ..,
      fun j hj => fabDst_setFabDst_ne hj .., rfl⟩
    change execSyncHoldEnd dst s = _
    simp only [execSyncHoldEnd, hhold, hup, if_true]

end Sys2Proof.Proofs
end

section
/-! O42: requests and grants of the fabric interface (R350 to R354, R360 to R363): a request that leaves, one that sets
its record, a grant, the credit it brings, and the end of a demand record. -/

namespace Sys2Proof.Proofs
open Sys2Proof Sys2Proof.Machine Sys2Proof.Laws

/-! ### Requests leave -/

/-- A VOQ's DEMAND depends on its backlog and its credit, and on what is being sent, alone (R350). -/
theorem demandOf_congr {s t : State} {q : Nat} (hskein : (queueOf t q).skein = (queueOf s q).skein)
    (hcredit : (queueOf t q).credit = (queueOf s q).credit) (hfab : t.fab = s.fab) : demandOf t q = demandOf s q := by
  rw [demandOf, demandOf, hskein, hcredit, hfab]

theorem queueOf_reqMade_self (q : Nat) (s : State) : queueOf (reqMade q s) q =
    { queueOf s q with lastReq := some (demandOf s q, s.tau.mono), zeroed := decide (demandOf s q = 0) } :=
  queueOf_setQueue_self q _ s

theorem queueOf_reqMade_ne {q j : Nat} (h : j ≠ q) (s : State) : queueOf (reqMade q s) j = queueOf s j :=
  queueOf_setQueue_ne h _ s

/-- A request changes no VOQ's DEMAND (R350). -/
theorem demandOf_reqMade (v q : Nat) (s : State) : demandOf (reqMade v s) q = demandOf s q := by
  by_cases h : q = v
  · subst h
    refine demandOf_congr ?_ ?_ rfl <;> rw [queueOf_reqMade_self]
  · exact demandOf_congr (by rw [queueOf_reqMade_ne h]) (by rw [queueOf_reqMade_ne h]) rfl

/-- The requests of several VOQs have been made. -/
def requestsMade (qs : List Nat) (s : State) : State := qs.foldl (fun s v => reqMade v s) s

theorem requestsMade_frame (qs : List Nat) (s : State) : requestsMade qs s = { s with tmg := (requestsMade qs s).tmg } := by
  induction qs generalizing s with
  | nil => rfl
  | cons v qs ih => exact ih (reqMade v s)

theorem queueOf_requestsMade_other {qs : List Nat} {j : Nat} (h : j ∉ qs) (s : State) :
    queueOf (requestsMade qs s) j = queueOf s j := by
  induction qs generalizing s with
  | nil => rfl
  | cons v qs ih =>
    obtain ⟨hv, hqs⟩ := not_or.1 (mt List.mem_cons.2 h)
    exact (ih hqs (reqMade v s)).trans (queueOf_reqMade_ne hv s)

/-- R360: each VOQ of a cell keeps the DEMAND and the time of its request. -/
theorem lastReq_requestsMade {qs : List Nat} {q : Nat} (h : q ∈ qs) (s : State) :
    (queueOf (requestsMade qs s) q).lastReq = some (demandOf s q, s.tau.mono) := by
  induction qs generalizing s with
  | nil => cases h
  | cons v qs ih =>
    by_cases hq : q ∈ qs
    · exact (ih hq (reqMade v s)).trans (by rw [demandOf_reqMade]; rfl)
    · obtain rfl : q = v := (List.mem_cons.1 h).resolve_right hq
      calc (queueOf (requestsMade qs (reqMade q s)) q).lastReq
        _ = (queueOf (reqMade q s) q).lastReq := by rw [queueOf_requestsMade_other hq]
        _ = some (demandOf s q, s.tau.mono) := by rw [queueOf_reqMade_self]

theorem sendsAs_requestsMade (qs : List Nat) (s : State) : SendsAs s (requestsMade qs s) := by
  rw [requestsMade_frame]
  exact ⟨rfl, rfl, rfl, rfl, rfl, rfl, rfl⟩

/-- Requests that are made and sent leave all but their VOQs, the fabric interface and what goes out. -/
theorem requestsMade_sent (qs : List Nat) (c : FabCell) (s : State) :
    let t := sendControl c (requestsMade qs s)
    t = { s with tmg := t.tmg, fab := t.fab, gau := t.gau, out := t.out } := by
  have hsent := sendsOnly_sendControl c (requestsMade qs s)
  have hframe := requestsMade_frame qs s
  generalize requestsMade qs s = u at hsent hframe ⊢
  generalize sendControl c u = t at hsent ⊢
  unfold SendsOnly at hsent
  rw [hsent, hframe]

/-- R360: a VOQ whose request is due has it sent with those of its destination that are due beside it. -/
theorem requestSend_sends {s : State} {voq : Queue} (hvoq : isVoq s voq.val = true) (hdue : requestDue s voq.val = true)
    (hup : rfld s R.FAB_CTL 0 3 2 = 2) :
    let qs := voq.val :: (dueBeside s voq.val).take 29
    exec (.requestSend voq) s = .next (sendControl
      (.request (txFmt s) (deviceId s) (rfld s R.TMG_Q_CFG voq.val 29 19) (qs.map (reqEntry s))) (requestsMade qs s)) := by
  change execRequestSend voq s = _
  simp [execRequestSend, requestsMade, hvoq, hdue, hup]

/-! ### Requests and grants arrive -/

theorem requestCellRx_accepted {s : State} {k : Link} (hup : linkSt s k.val = 2) (hnak : (fabLink s k.val).nak = false)
    (hfresh : FreshOn s k.val) (h : CellHead) (e : ReqEntry) :
    exec (.requestCellRx k true h [e]) s =
      .next (takeCell h.ver.toNat h.dst.val (fun s => takeRequest h.src.val s e) (tookCell k.val s)) := by
  change execRequestCellRx k true h [e] s = _
  simp [execRequestCellRx, cellAccepted_of_fresh hup hnak hfresh]

/-- R361: a request sets its demand record where the table has room. -/
theorem takeRequest_room {s : State} (h : s.fab.demands.length < 65536) (src : Nat) (e : ReqEntry) :
    takeRequest src s e = withFab (fun f => { f with
      demands := mput f.demands (demandKey src e.voq.val) ⟨e.target.val, e.demand.toNat, s.tau.mono⟩ }) s :=
  if_pos (.inr h)

theorem grantCellRx_accepted {s : State} {k : Link} (hup : linkSt s k.val = 2) (hnak : (fabLink s k.val).nak = false)
    (hfresh : FreshOn s k.val) (ver : BitVec 4) (dst : Device) (e : GrantEntry) :
    exec (.grantCellRx k true ⟨ver, dst, [e]⟩) s =
      .next (takeCell ver.toNat dst.val (fun s => takeGrant s e) (tookCell k.val s)) := by
  change execGrantCellRx k true ⟨ver, dst, [e]⟩ s = _
  simp [execGrantCellRx, cellAccepted_of_fresh hup hnak hfresh]

/-- R362: the cells granted join the credit of the VOQ named. -/
theorem queueOf_takeGrant_self (e : GrantEntry) (s : State) : queueOf (takeGrant s e) e.voq.val =
    { queueOf s e.voq.val with credit := (queueOf s e.voq.val).credit + e.cells.toNat } := queueOf_setQueue_self _ _ s

theorem queueOf_takeGrant_ne {e : GrantEntry} {j : Nat} (h : j ≠ e.voq.val) (s : State) :
    queueOf (takeGrant s e) j = queueOf s j := queueOf_setQueue_ne h _ s

/-! ### A port grants -/

/-- A record has been granted `n` cells through a port, which may grant again once they have gone by (R361). -/
def granted (p k n : Nat) (d : Demand) (s : State) : State :=
  withFab (fun f => { f with
    demands := mput f.demands k { d with demand := d.demand - n }
    grantRr := mput f.grantRr p (k + 1)
    grantAt := mput f.grantAt p (s.tau.mono + grantTicks s p n) }) s

theorem granted_demands {s : State} {k : Nat} {d : Demand} (h : s.fab.demands = [(k, d)]) (p n : Nat) :
    (granted p k n d s).fab.demands = [(k, { d with demand := d.demand - n })] := by
  simp [granted, h, mput]

theorem sendsAs_granted (p k n : Nat) (d : Demand) (s : State) : SendsAs s (granted p k n d s) :=
  ⟨rfl, rfl, rfl, rfl, rfl, rfl, rfl⟩

/-- A grant that is sent leaves all but the fabric interface and what goes out. -/
theorem granted_sent (p k n : Nat) (d : Demand) (c : FabCell) (s : State) :
    let t := sendControl c (granted p k n d s)
    t = { s with fab := t.fab, gau := t.gau, out := t.out } := by
  have hsent := sendsOnly_sendControl c (granted p k n d s)
  generalize sendControl c (granted p k n d s) = t at hsent ⊢
  unfold SendsOnly at hsent
  rw [hsent]
  rfl

/-- R361: a port grants the one record there is, if it may be granted. -/
theorem grantIssue_grants {s : State} {p : Port} {k : Nat} {d : Demand} (hdemands : s.fab.demands = [(k, d)])
    (hgrantable : grantable s p.val d = true) (hat : mget 0 s.fab.grantAt p.val ≤ s.tau.mono)
    (hdone : requestsDone s = true) (hup : rfld s R.FAB_CTL 0 3 2 = 2) :
    let n := min d.demand (rfld s R.FAB_CRED_CFG 0 47 40)
    exec (.grantIssue p) s = .next (sendControl
      (.grant (txFmt s) (deviceId s) (k / 2 ^ 19) [⟨Fin.ofNat 524288 (k % 2 ^ 19), BitVec.ofNat 8 n⟩])
      (granted p.val k n d s)) := by
  have hmay : ¬ (s.tau.mono < mget 0 s.fab.grantAt p.val ∨ requestsDone s = false ∨ rfld s R.FAB_CTL 0 3 2 ≠ 2) := by
    simp [hat, hdone, hup]
  have hfilter : [(k, d)].filter (fun e => grantable s p.val e.2) = [(k, d)] := by simp [hgrantable]
  change execGrantIssue p s = _
  unfold execGrantIssue
  rw [hdemands, hfilter]
  -- Whether the record stands behind the last one granted or not, it is the next in turn.
  by_cases hturn : mget 0 s.fab.grantRr p.val < k + 1
  · simp only [List.find?_singleton, hturn, decide_true, if_true, if_neg hmay]
    rfl
  · simp only [List.find?_singleton, hturn, decide_false, Bool.false_eq_true, if_false, List.head?_cons, if_neg hmay]
    rfl

/-! ### The claim -/

/-- Settles O42, clause by clause: a request that leaves, a request cell that comes, a grant, a grant cell that comes,
and the end of a demand record. -/
theorem fabricCredit : Obligations.FabricCredit := by
  unfold Obligations.FabricCredit
  intro s
  dsimp only
  refine ⟨?requestLeaves, ?requestComes, ?grant, ?grantComes, ?expires⟩
  case requestLeaves =>
    intro voq k hvoq hdue hup hresend houtbox hnext
    refine ⟨_, requestSend_sends hvoq hdue hup, fun q hq => ?_, ?_, fun j hj => ?_, ?_⟩
    · rw [queueOf_sendControl]
      exact lastReq_requestsMade hq s
    · exact (sendsAs_requestsMade _ s).leaves hresend houtbox hnext _
    · rw [queueOf_sendControl]
      exact queueOf_requestsMade_other hj s
    · exact requestsMade_sent _ _ s
  case requestComes =>
    intro k ver src dst e hup hnak hfresh
    refine ⟨fun hdst hver hroom => ?_, fun hdst => ?_⟩
    · refine ⟨_, (requestCellRx_accepted hup hnak hfresh _ e).trans (congrArg Host.Outcome.next
        ((takeCell_ours (s := tookCell k.val s) hdst hver _).trans (takeRequest_room (s := tookCell k.val s) hroom _ e))), ?_⟩
      exact ⟨mfind_mput_self .., fun j hj => mfind_mput_ne _ _ hj, rfl⟩
    · refine ⟨_, (requestCellRx_accepted hup hnak hfresh _ e).trans (congrArg Host.Outcome.next
        (takeCell_misdirected (s := tookCell k.val s) hdst _ _)), ?_⟩
      exact ⟨rfld_rcount_self (tookCell k.val s) R.FAB_RX_DROP0 0 1 (by decide) (by decide), rfl,
        regsBut_rcount (s := s) (t := tookCell k.val s) (regsBut_of_regs rfl) (List.mem_singleton_self _) 31 0 1⟩
  case grant =>
    intro p k d hdemands hgrantable hat hdone hup
    refine ⟨_, grantIssue_grants hdemands hgrantable hat hdone hup, ?_, fun l hresend houtbox hnext => ?_,
      fun hnext => ?_, ?_, ?_⟩
    · rw [demands_sendControl, granted_demands hdemands]
    · exact (sendsAs_granted p.val k _ d s).leaves hresend houtbox hnext _
    · rw [sendControl_of_noLink ((sendsAs_granted p.val k _ d s).nextLink.trans hnext)]
      exact ⟨rfl, rfl, rfl⟩
    · rw [grantAt_sendControl]
      exact (mget_mput ..).trans (if_pos rfl)
    · exact granted_sent ..
  case grantComes =>
    intro k ver dst e hdst hver hup hnak hfresh
    refine ⟨takeGrant (tookCell k.val s) e, (grantCellRx_accepted hup hnak hfresh ver dst e).trans
      (congrArg Host.Outcome.next (takeCell_ours (s := tookCell k.val s) hdst hver _)), ?_, ?_,
      fun j hj => queueOf_takeGrant_ne hj _, rfl⟩ <;>
    · rw [queueOf_takeGrant_self]
      rfl
  case expires =>
    intro src voq d hrecord hzero hup
    change execDemandRecordExpire src voq s = _
    have hkey : mfind s.fab.demands (demandKey src.val voq.val) = some d := hrecord
    have hdue : d.demand = 0 ∧ timeUp s (d.last + 10 * rfld s R.FAB_CRED_CFG 0 23 12 * usTicks) = true := ⟨hzero, hup⟩
    simp only [execDemandRecordExpire, hkey, if_pos hdue]
    rfl

end Sys2Proof.Proofs
end
